-- ==== Sys2Proof/Word.lean ====
section
/-! DEFINITION. Word.lean: the word types of the NK8 (R3: bits are numbered from 0, bytes are little-endian) and
their plainest arithmetic. -/

namespace Sys2Proof

/-- One byte of memory. -/
abbrev Byte := BitVec 8

/-- A 32-bit word: one lane of a register-row, an instruction word (R148, R7). -/
abbrev W32 := BitVec 32

/-- A 64-bit word: a `g` register, an address, a counter (R7, R77). -/
abbrev W64 := BitVec 64

end Sys2Proof
end

