-- ==== Sys2Proof/Config.lean ====
section
/-! DEFINITION. Config.lean: what an implementation fixes and the manual leaves open. Every constant here is opaque: no
proof can see a value of it, so a claim holds whatever it is. Each is named in the assumption log. -/

namespace Sys2Proof.Config

/-- The latency, in ac, of the `n`-th variable-latency event (R159): the manual fixes no value.
[DESIGN CHOICE, log entry 4] -/
opaque latency : Nat → Nat

/-- Which of the two neighbours FEXP2 (0), FLOG2 (1), FSIN (2) and FCOS (3) return for an operand of a format (R211):
a fixed function of the operand, the same on every NK8.
[DESIGN CHOICE, log entry 6] -/
opaque sfuUp : Nat → Nat → Nat → Bool

/-- A value the manual leaves open, drawn fresh each time from the state's counter.
[DESIGN CHOICE, log entry 5] -/
opaque freeWord : Nat → W64

/-- A choice the manual leaves open, drawn fresh each time from the state's counter.
[DESIGN CHOICE, log entry 5] -/
opaque freeBool : Nat → Bool

/-- Bytes of a cryptographic function (hash, cipher text, signature, tag, random key), by function number and input
bytes: the manual names the algorithm and gives no values.
[DESIGN CHOICE, log entry 7] -/
opaque crypto : Nat → List Byte → Nat → List Byte

/-- Whether an authentication tag or signature over the bytes verifies.
[DESIGN CHOICE, log entry 7] -/
opaque verifies : Nat → List Byte → List Byte → Bool

/-- The row of its stack that holds a physical address: the manual gives the channel of an address (R392) and no row.
[DESIGN CHOICE, log entry 8] -/
opaque rowOf : Nat → Nat

/-- tREFW in ac, the refresh window of an HBM4 row (R402): the manual gives no value.
[DESIGN CHOICE, log entry 8] -/
opaque refreshWindow : Nat

/-- The module's fused device secret (R405): the manual gives no value.
[DESIGN CHOICE, log entry 7] -/
opaque deviceSecret : Nat

/-- The digests of the five firmware images that the module is shipped with (R404).
[DEDUCED, log entry 90] -/
opaque imageDigest : Nat → List Byte

/-- Where the boot firmware of the control cores starts (R404, R445): the manual gives no address.
[DESIGN CHOICE, log entry 1] -/
opaque bootPc : W64

/-- The vector by which a die's fault buffer interrupts the driver (R47): the manual names none.
[DESIGN CHOICE, log entry 39] -/
opaque fillVector : Nat → Nat

end Sys2Proof.Config
end

