-- ==== Sys2Proof/Syntax.lean ====
section
/-! DEFINITION. Syntax.lean: the instructions of the NK8, one constructor of `Instr` for each row of the opcode table:
the Amitia instructions (ch08 to ch13), the sketch operations (R338) and the part's other indivisible steps (ch95).
An operand is what its operand code names (R151, R152), so no raw encoding reaches the machine. -/

namespace Sys2Proof

/-- The flags of a base word (R148): `b` ends the run, `w` is the switch marker, `s` the stop bit (a safe point). -/
structure Marks where
  b : Bool
  w : Bool
  s : Bool
  deriving DecidableEq, Repr

/-- An operand (Tables 2 and 3 of ch08). -/
inductive Opnd where
  | v (r : Nat)
  | g (r : Nat)
  | q (r : Nat)
  | zero | one | lane | quarter | split | gslot
  | lit32 (x : W32)
  | lit64 (x : W64)
  deriving DecidableEq, Repr

/-- The access code of a load or store (R228). -/
structure Access where
  scope : Nat
  size : Nat
  deriving DecidableEq, Repr

/-- The atomic control word (R236, Table 5 of ch11). -/
structure AtomCtl where
  op : Nat
  scope : Nat
  order : Nat
  type : Nat
  deriving DecidableEq, Repr

/-- The CPY control word (R246, Table 7 of ch11). -/
structure CpyCtl where
  dir : Nat
  red : Nat
  ety : Nat
  shadow : Bool
  srcctr : Nat
  srcen : Bool
  pubctr : Nat
  puben : Bool
  defer : Bool
  pubscope : Nat
  deriving DecidableEq, Repr

/-- The MMA and MMAG control word (R251, Table 2 of ch12). -/
structure MmaCtl where
  m : Nat
  ncode : Nat
  kb : Nat
  sparse : Bool
  side : Bool
  persist : Bool
  slot : Nat
  zero : Bool
  ta : Bool
  tb : Bool
  deriving DecidableEq, Repr

/-- The SPAWN control word (R277). -/
structure SpawnCtl where
  sq : Nat
  nb : Bool
  st : Nat
  deriving DecidableEq, Repr

/-- The tuple control word (R265, Table 4 of ch12): `fN` is field N's mode. -/
structure TupCtl where
  f0 : Nat
  f1 : Nat
  f2 : Nat
  f3 : Nat
  mask : Nat
  st : Nat
  nb : Bool
  deriving DecidableEq, Repr

/-- The PGASSIGN control word (R283, Table 7 of ch13). -/
structure PgaCtl where
  new : Nat
  r : Bool
  w : Bool
  va : Nat
  deriving DecidableEq, Repr

/-- No operand. -/
structure Op0 where
  m : Marks
  deriving DecidableEq, Repr

/-- One source, A. -/
structure Op1 where
  m : Marks
  a : Opnd
  deriving DecidableEq, Repr

/-- Destination register and source A. -/
structure Op2 where
  m : Marks
  d : Nat
  a : Opnd
  deriving DecidableEq, Repr

/-- Destination register and sources A and C. -/
structure Op3 where
  m : Marks
  d : Nat
  a : Opnd
  c : Opnd
  deriving DecidableEq, Repr

/-- Sources A and C, no destination. -/
structure OpAC where
  m : Marks
  a : Opnd
  c : Opnd
  deriving DecidableEq, Repr

/-- Source A and a register in C. -/
structure OpReg where
  m : Marks
  a : Opnd
  c : Nat
  deriving DecidableEq, Repr

/-- A compare (R155): condition, destination predicate, sources. -/
structure CmpI where
  m : Marks
  cond : Nat
  pd : Nat
  a : Opnd
  c : Opnd
  deriving DecidableEq, Repr

/-- Destination, source A and a code in C. -/
structure OpCode where
  m : Marks
  d : Nat
  a : Opnd
  code : Nat
  deriving DecidableEq, Repr

/-- Source A and a code. -/
structure ACode where
  m : Marks
  a : Opnd
  code : Nat
  deriving DecidableEq, Repr

/-- A code alone. -/
structure CodeI where
  m : Marks
  code : Nat
  deriving DecidableEq, Repr

/-- Destination and a code in C. -/
structure DCode where
  m : Marks
  d : Nat
  code : Nat
  deriving DecidableEq, Repr

/-- One register. -/
structure R1 where
  m : Marks
  r : Nat
  deriving DecidableEq, Repr

/-- Two registers: D and A. -/
structure Rr where
  m : Marks
  d : Nat
  a : Nat
  deriving DecidableEq, Repr

/-- Three registers: D, A and C. -/
structure Rrr where
  m : Marks
  d : Nat
  a : Nat
  c : Nat
  deriving DecidableEq, Repr

/-- Registers D and A, source C. -/
structure RrOp where
  m : Marks
  d : Nat
  a : Nat
  c : Opnd
  deriving DecidableEq, Repr

/-- A load (R229): destination, address, access code. -/
structure Load where
  m : Marks
  d : Nat
  a : Opnd
  acc : Access
  deriving DecidableEq, Repr

/-- A store (R229): address, data, access code. -/
structure Store where
  m : Marks
  a : Opnd
  c : Opnd
  acc : Access
  deriving DecidableEq, Repr

/-- GLD and GST (R235): register, base `g`, offsets. -/
structure Gath where
  m : Marks
  d : Nat
  base : Nat
  c : Opnd
  deriving DecidableEq, Repr

/-- A returning atomic (R236). -/
structure AtomI where
  m : Marks
  d : Nat
  a : Opnd
  c : Opnd
  ctl : AtomCtl
  deriving DecidableEq, Repr

/-- A non-returning atomic (R236). -/
structure RedI where
  m : Marks
  a : Opnd
  c : Opnd
  ctl : AtomCtl
  deriving DecidableEq, Repr

/-- CPY (R246): three `v` registers and its control word. -/
structure CpyI where
  m : Marks
  d : Nat
  a : Nat
  c : Nat
  ctl : CpyCtl
  deriving DecidableEq, Repr

/-- MMA (R249): three `v` registers and its control word. -/
structure MmaI where
  m : Marks
  d : Nat
  a : Nat
  c : Nat
  ctl : MmaCtl
  deriving DecidableEq, Repr

/-- MMAG (R249): three uniform sources and its control word. -/
structure MmagI where
  m : Marks
  d : Opnd
  a : Opnd
  c : Opnd
  ctl : MmaCtl
  deriving DecidableEq, Repr

/-- BRA (R190): signed byte offset. -/
structure BraI where
  m : Marks
  off : W32
  deriving DecidableEq, Repr

/-- BRQ (R190). -/
structure BrqI where
  m : Marks
  z : Bool
  off : W32
  c : Opnd
  deriving DecidableEq, Repr

/-- BRV (R190): predicate index and inversion. -/
structure BrvI where
  m : Marks
  off : W32
  p : Nat
  inv : Bool
  deriving DecidableEq, Repr

/-- CALL (R190): link register and offset. -/
structure CallI where
  m : Marks
  d : Nat
  off : W32
  deriving DecidableEq, Repr

/-- SPAWN (R277). -/
structure SpawnI where
  m : Marks
  a : Opnd
  ctl : SpawnCtl
  deriving DecidableEq, Repr

/-- READLANE (R197): A is a `v` index as a number. -/
structure ReadLaneI where
  m : Marks
  d : Nat
  a : Nat
  c : Opnd
  deriving DecidableEq, Repr

/-- VOTE (R196). -/
structure VoteI where
  m : Marks
  mode : Nat
  q : Nat
  p : Nat
  deriving DecidableEq, Repr

/-- CTRWAIT (R244). -/
structure CtrWaitI where
  m : Marks
  scope : Nat
  a : Opnd
  c : Opnd
  deriving DecidableEq, Repr

/-- CBLOAD (R249): slot, source, window register. -/
structure SlotAC where
  m : Marks
  slot : Nat
  a : Opnd
  c : Nat
  deriving DecidableEq, Repr

/-- TDEP, TCOPY, TTAKE (R265). -/
structure TupI where
  m : Marks
  d : Nat
  a : Nat
  c : Nat
  ctl : TupCtl
  deriving DecidableEq, Repr

/-- TCANCEL (R265). -/
structure TcanI where
  m : Marks
  d : Nat
  c : Nat
  ctl : TupCtl
  deriving DecidableEq, Repr

/-- PGASSIGN (R283). -/
structure PgaI where
  m : Marks
  d : Nat
  a : Nat
  c : Nat
  ctl : PgaCtl
  deriving DecidableEq, Repr

/-- A request to the root of trust over SPDM or a vendor-defined message (R404 to R414): the session it arrives in, an index or slot,
a mode, and its byte fields; the port (0 and 1 DOE, 2 MCTP, 3 KFL), the version and the message code of its header, and for a vendor
message the VendorID and the operation code. -/
structure SpdmReq where
  session : Nat
  arg : Nat
  arg2 : Nat
  data : List Byte
  port : Nat
  version : Nat
  code : Nat
  vendor : Nat
  op : Nat
  deriving DecidableEq, Repr

/-- A memory access that arrives from outside the module (R314): its source (0 PCI Express host, 1 TDISP device, 2 peer
module, 3 the board manager over MCTP, R444), the TDI or peer number, the IDE stream that it arrives on as 1024 × port + stream, the physical address, the bytes
written (none for a read) and the length read; or, of a virtual function, the function mask (`none`) or the mask of an entry of its
MSI-X table that it sets (R375). -/
structure InboundReq where
  source : Nat
  agent : Nat
  stream : Option Nat
  addr : Nat
  write : Bool
  bytes : List Byte
  len : Nat
  msix : Option (Option Nat × Bool)
  deriving DecidableEq, Repr

/-- A TDISP message (R324): the TDI it names, the message, the enclave and the stream (1024 × port + stream) it binds. -/
structure TdispReq where
  tdi : Nat
  op : Nat
  eid : Nat
  stream : Nat
  nonce : Nat
  deriving DecidableEq, Repr

/-- An IDE_KM message (R322, R324): the session it comes in, the port (0 and 1 PCI Express, 2 to 17 KFL), the
stream, the sub-stream, the message, and the enclave that a key is for, or 0. -/
structure IdeReq where
  session : Nat
  port : Nat
  stream : Nat
  sub : Nat
  op : Nat
  key : Nat
  eid : Nat
  deriving DecidableEq, Repr

/-- A new firmware image staged through the root of trust (R425, R404). -/
structure FwReq where
  slot : Nat
  svn : Nat
  keyHash : Nat
  hash : Nat
  good : Bool
  deriving DecidableEq, Repr

/-- The fields of a sketch word (R338): registers `a` and `b`, and the 16-bit immediate. -/
structure SkWord where
  a : Nat
  b : Nat
  imm : Nat
  deriving DecidableEq, Repr

/-- The instructions: Amitia words, sketch words, and the steps that hardware or an outside party takes. -/
inductive Instr where
  | iadd (x : Op3)
  | isub (x : Op3)
  | imul (x : Op3)
  | imulh (x : Op3)
  | imad (x : Op3)
  | imin (x : Op3)
  | imax (x : Op3)
  | iabs (x : Op2)
  | ineg (x : Op2)
  | andV (x : Op3)
  | orV (x : Op3)
  | xorV (x : Op3)
  | andn (x : Op3)
  | notV (x : Op2)
  | shl (x : Op3)
  | shr (x : Op3)
  | sar (x : Op3)
  | rotl (x : Op3)
  | bfx (x : Op3)
  | bfi (x : Op3)
  | popc (x : Op2)
  | clz (x : Op2)
  | ctz (x : Op2)
  | brev (x : Op2)
  | idp4 (x : Op3)
  | idiv (x : Op3)
  | irem (x : Op3)
  | mov (x : Op2)
  | sel (x : Op3)
  | icmp (x : CmpI)
  | mulw (x : Op3)
  | prmt (x : Op3)
  | iaddU (x : Op3)
  | isubU (x : Op3)
  | imulU (x : Op3)
  | imulhU (x : Op3)
  | imadU (x : Op3)
  | iminU (x : Op3)
  | imaxU (x : Op3)
  | iabsU (x : Op2)
  | inegU (x : Op2)
  | andU (x : Op3)
  | orU (x : Op3)
  | xorU (x : Op3)
  | andnU (x : Op3)
  | notU (x : Op2)
  | shlU (x : Op3)
  | shrU (x : Op3)
  | sarU (x : Op3)
  | rotlU (x : Op3)
  | bfxU (x : Op3)
  | bfiU (x : Op3)
  | popcU (x : Op2)
  | clzU (x : Op2)
  | ctzU (x : Op2)
  | brevU (x : Op2)
  | movU (x : Op2)
  | icmpU (x : CmpI)
  | fadd (x : Op3)
  | fsub (x : Op3)
  | fmul (x : Op3)
  | ffma (x : Op3)
  | fmin (x : Op3)
  | fmax (x : Op3)
  | fabs (x : Op2)
  | fneg (x : Op2)
  | fcmp (x : CmpI)
  | frcp (x : Op2)
  | frsq (x : Op2)
  | fsqrt (x : Op2)
  | fexp2 (x : Op2)
  | flog2 (x : Op2)
  | fsin (x : Op2)
  | fcos (x : Op2)
  | fdiv (x : Op3)
  | frnd (x : Op2)
  | fclass (x : Op2)
  | fdot2 (x : Op3)
  | cvt (x : OpCode)
  | cvtpk (x : Op3)
  | cvtn8 (x : OpCode)
  | cvtn4 (x : Op2)
  | cvtw (x : Op3)
  | pack6 (x : Rr)
  | unpk6 (x : Rr)
  | mxsc (x : OpCode)
  | cmpr24 (x : Rr)
  | srseed (x : Op1)
  | shfl (x : Op3)
  | shflx (x : Op3)
  | shflup (x : Op3)
  | shfldn (x : Op3)
  | redadd (x : Op2)
  | redmin (x : Op2)
  | redmax (x : Op2)
  | redand (x : Op2)
  | redor (x : Op2)
  | redxor (x : Op2)
  | minidx (x : Op2)
  | maxidx (x : Op2)
  | scanadd (x : Op2)
  | matchV (x : Op2)
  | ld (x : Load)
  | st (x : Store)
  | ldl (x : Load)
  | stl (x : Store)
  | ldl4 (x : Op2)
  | stl4 (x : OpReg)
  | gld (x : Gath)
  | gst (x : Gath)
  | ldacq (x : Load)
  | strel (x : Store)
  | stnt (x : Store)
  | pref (x : Op1)
  | atomv (x : AtomI)
  | redv (x : RedI)
  | acrd (x : Op2)
  | acwr (x : OpAC)
  | pand (x : Rrr)
  | por (x : Rrr)
  | pxor (x : Rrr)
  | pandn (x : Rrr)
  | pset (x : Op2)
  | pget (x : Rr)
  | cpy (x : CpyI)
  | publish (x : ACode)
  | mma (x : MmaI)
  | bra (x : BraI)
  | brq (x : BrqI)
  | brv (x : BrvI)
  | jmpi (x : R1)
  | call (x : CallI)
  | calli (x : Rr)
  | ret (x : R1)
  | exit (x : Op0)
  | join (x : Op0)
  | yield (x : Op0)
  | trap (x : Op1)
  | bkpt (x : Op1)
  | spawn (x : SpawnI)
  | readlane (x : ReadLaneI)
  | vote (x : VoteI)
  | ballot (x : Rr)
  | setmode (x : Op1)
  | getmode (x : R1)
  | modef (x : ACode)
  | waitc (x : ACode)
  | mfence (x : R1)
  | mwait (x : Op1)
  | fence (x : CodeI)
  | ntdrain (x : CodeI)
  | bararr (x : DCode)
  | barwait (x : ACode)
  | barsync (x : CodeI)
  | bardef (x : DCode)
  | ctradd (x : AtomI)
  | ctrwait (x : CtrWaitI)
  | sread (x : DCode)
  | swrite (x : ACode)
  | ldu (x : Load)
  | stu (x : Store)
  | atom (x : AtomI)
  | redu (x : RedI)
  | lduacq (x : Load)
  | sturel (x : Store)
  | mmag (x : MmagI)
  | msetaux (x : OpAC)
  | aczero (x : OpAC)
  | accpy (x : OpAC)
  | cbdrain (x : CodeI)
  | cbsave (x : ACode)
  | cbload (x : SlotAC)
  | cbmerge (x : OpAC)
  | cbclr (x : CodeI)
  | cbdrainw (x : OpReg)
  | tdep (x : TupI)
  | tcopy (x : TupI)
  | ttake (x : TupI)
  | tcancel (x : TcanI)
  | ecreate (x : Rr)
  | eenter (x : Rrr)
  | eexit (x : Op0)
  | edestroy (x : Rr)
  | pgassign (x : PgaI)
  | pgseal (x : Rrr)
  | pgunseal (x : Rrr)
  | ctxseal (x : Rrr)
  | ctxcommit (x : Rrr)
  | ctxload (x : Rrr)
  | tlbiAll (x : Op0)
  | tlbiPage (x : Op1)
  | tlbiSpace (x : Op1)
  | syscall (x : Op0)
  | hvcall (x : Op0)
  | eret (x : Op0)
  | wfi (x : Op0)
  | corerst (x : Op2)
  | partctlQuiesce (x : Rrr)
  | partctlWriteilv (x : Rrr)
  | partctlWritebnd (x : Rrr)
  | partctlShoot (x : Rrr)
  | partctlResume (x : Rrr)
  | freeze (x : RrOp)
  | ctxabort (x : Rr)
  | sketchNop (x : SkWord)
  | sketchMovi (x : SkWord)
  | sketchAdd (x : SkWord)
  | sketchSub (x : SkWord)
  | sketchAnd (x : SkWord)
  | sketchOr (x : SkWord)
  | sketchShl (x : SkWord)
  | sketchShr (x : SkWord)
  | sketchMask (x : SkWord)
  | sketchCmp (x : SkWord)
  | sketchSel (x : SkWord)
  | sketchBeq (x : SkWord)
  | sketchBne (x : SkWord)
  | sketchLoop (x : SkWord)
  | sketchEndl (x : SkWord)
  | sketchLdq (x : SkWord)
  | sketchLdreg (x : SkWord)
  | sketchStreg (x : SkWord)
  | sketchLaunch (x : SkWord)
  | sketchSignal (x : SkWord)
  | sketchWait (x : SkWord)
  | sketchIrq (x : SkWord)
  | sketchDone (x : SkWord)
  | sketchDrop (x : SkWord)
  | sketchFault (x : SkWord)
  | fixedLatencyWriteback (gid : Nat)
  | variableLatencyResult (gid id : Nat)
  | runStart (sched : Nat)
  | runEndMerge (gid sp : Nat)
  | groupExit (gid : Nat)
  | teamResourceFree (team : Nat)
  | teamPlacement (part : Nat)
  | taskComplete (task : Nat)
  | spawnAccept (gid sp : Nat)
  | progressSwap (core : Nat)
  | syncEngineLineReturn (line : Nat)
  | atomicPerformed (gid id : Nat)
  | storePerformed (gid id : Nat)
  | fbreplayRetry (die index : Nat)
  | fbreplayAbandon (die index : Nat)
  | copyUnitTransfer (copy : Nat)
  | sourceReleased (copy : Nat)
  | landed (copy : Nat)
  | published (copy : Nat)
  | deferredArrival (id : Nat)
  | publishPoint (id : Nat)
  | publishComplete (id : Nat)
  | barrierPhaseComplete (bar : Nat)
  | ctrwaitWake (gid sp : Nat)
  | operationAcceptance (id : Nat)
  | matrixPass (engine : Nat)
  | batchComplete (gid : Nat)
  | tdepServe (id : Nat)
  | tcopyServe (id : Nat)
  | ttakeServe (id : Nat)
  | tcancelServe (id : Nat)
  | skidEnd (queue : Nat)
  | cxvacClaim (queue n : Nat)
  | cxvacRelease (queue : Nat)
  | claimComplete (queue : Nat)
  | kick (queue value : Nat)
  | qctlEnable (queue value : Nat)
  | qctlSkip (queue value : Nat)
  | easelAssign (die : Nat)
  | launchCommit (queue : Nat)
  | queueWaitWake (queue : Nat)
  | rcmdWrite (queue value : Nat)
  | rcmdInval (queue value : Nat)
  | skcmdLoad (part value : Nat)
  | skcmdUnload (part value : Nat)
  | scrub (page : Nat)
  | trapEntry (thread vector : Nat)
  | wfiWake (thread : Nat)
  | vectorDelivery (vector : Nat)
  | vfEnable (vf : Nat)
  | vfDisable (vf : Nat)
  | vfFlr (vf : Nat)
  | flrComplete (vf : Nat)
  | vfHarvest (vf : Nat)
  | vfqcmdExport (vf value : Nat)
  | vfqcmdImport (vf value : Nat)
  | partitionReset (part : Nat)
  | prcfgWrite (part value : Nat)
  | lendreqWrite (stack pair value : Nat)
  | lendReclaim (stack pair : Nat)
  | lendThermalReclaim (stack pair : Nat)
  | refresh (stack row : Nat)
  | throttleRelease (stack row : Nat)
  | patrol (stack line : Nat)
  | keySwitch (link dir : Nat)
  | linkRetransmit (link dir : Nat)
  | uncorrectableControlError (die : Nat) (owners : List Nat) (kind : Nat)
  | dmpcmdStart (value : Nat)
  | firmwareActivation (image : Nat)
  | getVersion (req : SpdmReq)
  | getCapabilities (req : SpdmReq)
  | negotiateAlgorithms (req : SpdmReq)
  | getDigests (req : SpdmReq)
  | getCertificate (req : SpdmReq)
  | challenge (req : SpdmReq)
  | getMeasurements (req : SpdmReq)
  | keyExchange (req : SpdmReq)
  | finish (req : SpdmReq)
  | heartbeat (req : SpdmReq)
  | keyUpdate (req : SpdmReq)
  | endSession (req : SpdmReq)
  | getEnclaveEvidence (req : SpdmReq)
  | podForm (req : SpdmReq)
  | getPodPath (req : SpdmReq)
  | trctlEnable (queue value : Nat)
  | chunkFlush (sched : Nat)
  | lossMark (sched : Nat)
  | stallSample (sched : Nat)
  | stepon (gid : Nat)
  | stepoff (gid : Nat)
  | goStep (gid : Nat)
  | powerOn
  | limitStep (up : Bool)
  | thermalStep (part : Nat) (up : Bool)
  | thermalTrip
  | pgateGate (part : Nat)
  | pgateUngate (part : Nat)
  | registerWrite (addr size value : Nat)
  | undefOpcode (word : BitVec 32)
  | inboundDeviceAccess (req : InboundReq)
  | tdispRequest (req : TdispReq)
  | ideKmRequest (req : IdeReq)
  | completionTimeout (req : Nat)
  | modulePowerOff
  | threadStart (thread lvl pc : Nat)
  | firmwareStaging (req : FwReq)
  | pclkCapWrite (part value : Nat)
  deriving DecidableEq, Repr

end Sys2Proof
end

