-- ==== Sys2Proof/WellFormed.lean ====
section
/-! DEFINITION. WellFormed.lean: which terms of `Instr` stand for an instruction: every operand, code and control word
at a value its encoding admits (R149 to R155, R165, R166 and the entries of ch09 to ch13). What depends on MODE, VREGS
or the issuing core is checked when the instruction issues. -/

namespace Sys2Proof

/-- Literal words an operand adds to the instruction (R149). -/
def Opnd.litWords : Opnd → Nat
  | .lit32 _ => 1
  | .lit64 _ => 2
  | _ => 0

/-- Whether an operand is a v register. -/
def Opnd.isV : Opnd → Bool
  | .v _ => true
  | _ => false

/-- An operand of a vector-class word (R151). -/
def Opnd.vOk : Opnd → Bool
  | .v r => decide (r < 96)
  | .g r => decide (r < 16)
  | .q _ => false
  | _ => true

/-- An operand of a uniform-class word (R152). -/
def Opnd.uOk : Opnd → Bool
  | .v _ => false
  | .g r => decide (r < 64)
  | .q r => decide (r < 8)
  | _ => true

/-- An operand that is no literal: a source named by field D (R149). -/
def Opnd.noLit (o : Opnd) : Bool := o.litWords == 0

/-- An operand that is not LIT64 (R234, R235). -/
def Opnd.noLit64 (o : Opnd) : Bool := o.litWords != 2

/-- An address operand of a vector-class word (R227): an even `v` pair, a `g` register or a literal. -/
def Opnd.addrOk : Opnd → Bool
  | .v r => decide (r < 96) && r % 2 == 0
  | .g r => decide (r < 16)
  | .lit32 _ => true
  | .lit64 _ => true
  | _ => false

/-- An instruction is at most four words long (R149): `n` trailer words besides the literals of `a` and `c`. -/
def lenOk (n : Nat) (a c : Opnd) : Bool := decide (n + a.litWords + c.litWords ≤ 3)

/-- CVT's target codes (R213). -/
def cvtCodeOk (c : Nat) : Bool :=
  decide (c < 11) || [65, 68, 69, 70, 71, 72, 73, 74, 77].contains c

/-- CVTN8's format codes (R215). -/
def n8CodeOk (c : Nat) : Bool := decide (4 ≤ c) && decide (c < 8)

/-- MXSC's format codes (R215). -/
def mxCodeOk (c : Nat) : Bool := decide (4 ≤ c) && decide (c < 9)

/-- A barrier code within its level's range (R168). -/
def barCodeOk (c : Nat) : Bool :=
  decide (c < 32) || (decide (32 ≤ c) && decide (c < 48)) || (decide (64 ≤ c) && decide (c < 72))
    || (decide (96 ≤ c) && decide (c < 100))

/-- A special-register number that Table 7 of ch09 or Table 1 of ch13 assigns (R199, R200, R270). -/
def srAssigned (c : Nat) : Bool := decide (c < 28) || (decide (64 ≤ c) && decide (c < 80))

/-- A scope code that is not reserved (R168). -/
def scopeOk (c : Nat) : Bool := decide (c < 6)

/-- An access code (R228): `scoped` for the acquiring and releasing forms. -/
def Access.okLoad (sc : Bool) (x : Access) : Bool :=
  decide (x.size < 7) && (if sc then scopeOk x.scope else x.scope == 0)

/-- An access code of a store (R228). -/
def Access.okStore (sc : Bool) (x : Access) : Bool :=
  x.okLoad sc && x.size % 2 == 0

/-- The operations and types of R236 that go together. -/
def AtomCtl.legal (x : AtomCtl) : Bool :=
  (decide (x.op < 6) && decide (x.type < 4)) || ((x.op == 6 || x.op == 7) && decide (x.type < 5))
    || (decide (8 ≤ x.op) && decide (x.op < 11) && x.type == 4)

/-- A control word of ATOMV and ATOM. -/
def AtomCtl.ok (x : AtomCtl) : Bool := x.legal && scopeOk x.scope && decide (x.order < 4)

/-- A control word of REDV and REDU: no XCHG, no CAS. -/
def AtomCtl.okRed (x : AtomCtl) : Bool := x.ok && x.op != 6 && x.op != 7

/-- A control word of CTRADD: OP ADD, TYPE UINT64. -/
def AtomCtl.okCtr (x : AtomCtl) : Bool := x.ok && x.op == 0 && x.type == 2

/-- The legal RED values of a reduction type (Table 7 of ch04). -/
def redLegal (ety red : Nat) : Bool :=
  (decide (ety < 4) && decide (1 ≤ red) && decide (red < 6))
    || (decide (8 ≤ ety) && decide (ety < 11) && decide (1 ≤ red) && decide (red < 4))

/-- A CPY control word (R246, R88). -/
def CpyCtl.ok (x : CpyCtl) : Bool :=
  decide (x.dir < 3) && decide (x.red < 6) && decide (x.ety < 16) && decide (x.srcctr < 64) && decide (x.pubctr < 64)
    && decide (x.pubscope < 8) && (!x.puben || scopeOk x.pubscope)
    && (x.dir != 0 || (!x.shadow && x.red == 0)) && (x.red == 0 || redLegal x.ety x.red)

/-- An MMA or MMAG control word (R251); MMAG ignores M. -/
def MmaCtl.ok (isMma : Bool) (x : MmaCtl) : Bool :=
  (if isMma then decide (1 ≤ x.m) && decide (x.m < 9) else decide (x.m < 16)) && decide (x.ncode < 5)
    && decide (1 ≤ x.kb) && decide (x.kb < 33) && decide (x.slot < 2)

/-- A SPAWN control word (R277). -/
def SpawnCtl.ok (x : SpawnCtl) : Bool := decide (x.sq < 4096) && decide (x.st < 8)

/-- A tuple control word (R265); TDEP and TCANCEL have no modes, mask index or NB. -/
def TupCtl.ok (modes : Bool) (x : TupCtl) : Bool :=
  decide (x.f0 < 4) && decide (x.f1 < 4) && decide (x.f2 < 4) && decide (x.f3 < 4) && decide (x.mask < 64)
    && decide (x.st < 8)
    && (modes || (x.f0 == 0 && x.f1 == 0 && x.f2 == 0 && x.f3 == 0 && x.mask == 0 && !x.nb))

/-- A PGASSIGN control word (R283). -/
def PgaCtl.ok (x : PgaCtl) : Bool := [0, 1, 3, 6].contains x.new && decide (x.va < 64)

/-- A sketch word with the fields its operation uses (Table 4 of ch19): the others are zero. -/
def SkWord.ok (useA useB : Bool) (imm : Nat → Bool) (x : SkWord) : Bool :=
  (if useA then decide (x.a < 16) else x.a == 0) && (if useB then decide (x.b < 16) else x.b == 0)
    && decide (x.imm < 65536) && imm x.imm

/-- The well-formed instructions. The steps of hardware have no encoding and are always well formed. -/
def Instr.wf : Instr → Bool
  | .iadd x => decide (x.d < 96) && x.a.vOk && x.c.vOk && lenOk 0 x.a x.c
  | .isub x => decide (x.d < 96) && x.a.vOk && x.c.vOk && lenOk 0 x.a x.c
  | .imul x => decide (x.d < 96) && x.a.vOk && x.c.vOk && lenOk 0 x.a x.c
  | .imulh x => decide (x.d < 96) && x.a.vOk && x.c.vOk && lenOk 0 x.a x.c
  | .imad x => decide (x.d < 96) && x.a.vOk && x.c.vOk && lenOk 0 x.a x.c
  | .imin x => decide (x.d < 96) && x.a.vOk && x.c.vOk && lenOk 0 x.a x.c
  | .imax x => decide (x.d < 96) && x.a.vOk && x.c.vOk && lenOk 0 x.a x.c
  | .iabs x => decide (x.d < 96) && x.a.vOk
  | .ineg x => decide (x.d < 96) && x.a.vOk
  | .andV x => decide (x.d < 96) && x.a.vOk && x.c.vOk && lenOk 0 x.a x.c
  | .orV x => decide (x.d < 96) && x.a.vOk && x.c.vOk && lenOk 0 x.a x.c
  | .xorV x => decide (x.d < 96) && x.a.vOk && x.c.vOk && lenOk 0 x.a x.c
  | .andn x => decide (x.d < 96) && x.a.vOk && x.c.vOk && lenOk 0 x.a x.c
  | .notV x => decide (x.d < 96) && x.a.vOk
  | .shl x => decide (x.d < 96) && x.a.vOk && x.c.vOk && lenOk 0 x.a x.c
  | .shr x => decide (x.d < 96) && x.a.vOk && x.c.vOk && lenOk 0 x.a x.c
  | .sar x => decide (x.d < 96) && x.a.vOk && x.c.vOk && lenOk 0 x.a x.c
  | .rotl x => decide (x.d < 96) && x.a.vOk && x.c.vOk && lenOk 0 x.a x.c
  | .bfx x => decide (x.d < 96) && x.a.vOk && x.c.vOk && lenOk 0 x.a x.c
  | .bfi x => decide (x.d < 96) && x.a.vOk && x.c.vOk && lenOk 0 x.a x.c
  | .popc x => decide (x.d < 96) && x.a.vOk
  | .clz x => decide (x.d < 96) && x.a.vOk
  | .ctz x => decide (x.d < 96) && x.a.vOk
  | .brev x => decide (x.d < 96) && x.a.vOk
  | .idp4 x => decide (x.d < 96) && x.a.vOk && x.c.vOk && lenOk 0 x.a x.c
  | .idiv x => decide (x.d < 96) && x.a.vOk && x.c.vOk && lenOk 0 x.a x.c
  | .irem x => decide (x.d < 96) && x.a.vOk && x.c.vOk && lenOk 0 x.a x.c
  | .mov x => decide (x.d < 96) && x.a.vOk
  | .sel x => decide (x.d < 96) && x.a.vOk && x.c.vOk && lenOk 0 x.a x.c
  | .icmp x => decide (x.cond < 8) && decide (x.pd < 8) && x.a.vOk && x.c.vOk && lenOk 0 x.a x.c
  | .mulw x => decide (x.d < 96) && x.a.vOk && x.c.vOk && lenOk 0 x.a x.c
  | .prmt x => decide (x.d < 96) && x.a.vOk && x.c.vOk && lenOk 0 x.a x.c
  | .iaddU x => decide (x.d < 64) && x.a.uOk && x.c.uOk && lenOk 0 x.a x.c
  | .isubU x => decide (x.d < 64) && x.a.uOk && x.c.uOk && lenOk 0 x.a x.c
  | .imulU x => decide (x.d < 64) && x.a.uOk && x.c.uOk && lenOk 0 x.a x.c
  | .imulhU x => decide (x.d < 64) && x.a.uOk && x.c.uOk && lenOk 0 x.a x.c
  | .imadU x => decide (x.d < 64) && x.a.uOk && x.c.uOk && lenOk 0 x.a x.c
  | .iminU x => decide (x.d < 64) && x.a.uOk && x.c.uOk && lenOk 0 x.a x.c
  | .imaxU x => decide (x.d < 64) && x.a.uOk && x.c.uOk && lenOk 0 x.a x.c
  | .iabsU x => decide (x.d < 64) && x.a.uOk
  | .inegU x => decide (x.d < 64) && x.a.uOk
  | .andU x => decide (x.d < 64) && x.a.uOk && x.c.uOk && lenOk 0 x.a x.c
  | .orU x => decide (x.d < 64) && x.a.uOk && x.c.uOk && lenOk 0 x.a x.c
  | .xorU x => decide (x.d < 64) && x.a.uOk && x.c.uOk && lenOk 0 x.a x.c
  | .andnU x => decide (x.d < 64) && x.a.uOk && x.c.uOk && lenOk 0 x.a x.c
  | .notU x => decide (x.d < 64) && x.a.uOk
  | .shlU x => decide (x.d < 64) && x.a.uOk && x.c.uOk && lenOk 0 x.a x.c
  | .shrU x => decide (x.d < 64) && x.a.uOk && x.c.uOk && lenOk 0 x.a x.c
  | .sarU x => decide (x.d < 64) && x.a.uOk && x.c.uOk && lenOk 0 x.a x.c
  | .rotlU x => decide (x.d < 64) && x.a.uOk && x.c.uOk && lenOk 0 x.a x.c
  | .bfxU x => decide (x.d < 64) && x.a.uOk && x.c.uOk && lenOk 0 x.a x.c
  | .bfiU x => decide (x.d < 64) && x.a.uOk && x.c.uOk && lenOk 0 x.a x.c
  | .popcU x => decide (x.d < 64) && x.a.uOk
  | .clzU x => decide (x.d < 64) && x.a.uOk
  | .ctzU x => decide (x.d < 64) && x.a.uOk
  | .brevU x => decide (x.d < 64) && x.a.uOk
  | .movU x => decide (x.d < 64) && x.a.uOk
  | .icmpU x => decide (x.cond < 8) && decide (x.pd < 8) && x.a.uOk && x.c.uOk && lenOk 0 x.a x.c
  | .fadd x => decide (x.d < 96) && x.a.vOk && x.c.vOk && lenOk 0 x.a x.c
  | .fsub x => decide (x.d < 96) && x.a.vOk && x.c.vOk && lenOk 0 x.a x.c
  | .fmul x => decide (x.d < 96) && x.a.vOk && x.c.vOk && lenOk 0 x.a x.c
  | .ffma x => decide (x.d < 96) && x.a.vOk && x.c.vOk && lenOk 0 x.a x.c
  | .fmin x => decide (x.d < 96) && x.a.vOk && x.c.vOk && lenOk 0 x.a x.c
  | .fmax x => decide (x.d < 96) && x.a.vOk && x.c.vOk && lenOk 0 x.a x.c
  | .fabs x => decide (x.d < 96) && x.a.vOk
  | .fneg x => decide (x.d < 96) && x.a.vOk
  | .fcmp x => decide (x.cond < 13) && decide (x.pd < 8) && x.a.vOk && x.c.vOk && lenOk 0 x.a x.c
  | .frcp x => decide (x.d < 96) && x.a.vOk
  | .frsq x => decide (x.d < 96) && x.a.vOk
  | .fsqrt x => decide (x.d < 96) && x.a.vOk
  | .fexp2 x => decide (x.d < 96) && x.a.vOk
  | .flog2 x => decide (x.d < 96) && x.a.vOk
  | .fsin x => decide (x.d < 96) && x.a.vOk
  | .fcos x => decide (x.d < 96) && x.a.vOk
  | .fdiv x => decide (x.d < 96) && x.a.vOk && x.c.vOk && lenOk 0 x.a x.c
  | .frnd x => decide (x.d < 96) && x.a.vOk
  | .fclass x => decide (x.d < 96) && x.a.vOk
  | .fdot2 x => decide (x.d < 96) && x.a.vOk && x.c.vOk && lenOk 0 x.a x.c
  | .cvt x => decide (x.d < 96) && x.a.vOk && cvtCodeOk x.code
  | .cvtpk x => decide (x.d < 96) && x.a.vOk && x.c.vOk && lenOk 0 x.a x.c
  | .cvtn8 x => decide (x.d < 96) && x.a.vOk && n8CodeOk x.code
  | .cvtn4 x => decide (x.d < 96) && x.a.vOk
  | .cvtw x => decide (x.d < 96) && x.a.vOk && x.c.vOk && lenOk 0 x.a x.c && x.a.isV
  | .pack6 x => decide (x.d < 96) && decide (x.a < 96)
  | .unpk6 x => decide (x.d < 96) && decide (x.a < 96)
  | .mxsc x => decide (x.d < 96) && x.a.vOk && mxCodeOk x.code
  | .cmpr24 x => decide (x.d < 96) && decide (x.a < 96)
  | .srseed x => x.a.vOk
  | .shfl x => decide (x.d < 96) && x.a.vOk && x.c.vOk && lenOk 0 x.a x.c
  | .shflx x => decide (x.d < 96) && x.a.vOk && x.c.vOk && lenOk 0 x.a x.c
  | .shflup x => decide (x.d < 96) && x.a.vOk && x.c.vOk && lenOk 0 x.a x.c
  | .shfldn x => decide (x.d < 96) && x.a.vOk && x.c.vOk && lenOk 0 x.a x.c
  | .redadd x => decide (x.d < 96) && x.a.vOk
  | .redmin x => decide (x.d < 96) && x.a.vOk
  | .redmax x => decide (x.d < 96) && x.a.vOk
  | .redand x => decide (x.d < 96) && x.a.vOk
  | .redor x => decide (x.d < 96) && x.a.vOk
  | .redxor x => decide (x.d < 96) && x.a.vOk
  | .minidx x => decide (x.d < 96) && x.a.vOk
  | .maxidx x => decide (x.d < 96) && x.a.vOk
  | .scanadd x => decide (x.d < 96) && x.a.vOk
  | .matchV x => decide (x.d < 96) && x.a.vOk
  | .ld x => decide (x.d < 96) && x.a.addrOk && x.acc.okLoad false
  | .st x => x.a.addrOk && x.c.vOk && x.acc.okStore false && lenOk 0 x.a x.c
  | .ldl x => decide (x.d < 96) && x.a.vOk && x.a.noLit64 && x.acc.okLoad false
  | .stl x => x.a.vOk && x.a.noLit64 && x.c.vOk && x.acc.okStore false && lenOk 0 x.a x.c
  | .ldl4 x => decide (x.d < 96) && x.a.vOk && x.a.noLit64
  | .stl4 x => x.a.vOk && x.a.noLit64 && decide (x.c < 96)
  | .gld x => decide (x.d < 96) && decide (x.base < 16) && x.c.vOk && x.c.noLit64
  | .gst x => decide (x.d < 96) && decide (x.base < 16) && x.c.vOk && x.c.noLit64
  | .ldacq x => decide (x.d < 96) && x.a.addrOk && x.acc.okLoad true
  | .strel x => x.a.addrOk && x.c.vOk && x.acc.okStore true && lenOk 0 x.a x.c
  | .stnt x => x.a.addrOk && x.c.vOk && x.acc.okStore false && lenOk 0 x.a x.c
  | .pref x => x.a.addrOk
  | .atomv x => decide (x.d < 96) && x.a.addrOk && x.c.vOk && x.ctl.ok && lenOk 1 x.a x.c
  | .redv x => x.a.addrOk && x.c.vOk && x.ctl.okRed && lenOk 1 x.a x.c
  | .acrd x => decide (x.d < 96) && x.a.vOk
  | .acwr x => x.a.vOk && x.c.vOk && lenOk 0 x.a x.c
  | .pand x => decide (x.d < 8) && decide (x.a < 8) && decide (x.c < 8)
  | .por x => decide (x.d < 8) && decide (x.a < 8) && decide (x.c < 8)
  | .pxor x => decide (x.d < 8) && decide (x.a < 8) && decide (x.c < 8)
  | .pandn x => decide (x.d < 8) && decide (x.a < 8) && decide (x.c < 8)
  | .pset x => decide (x.d < 8) && x.a.vOk
  | .pget x => decide (x.d < 96) && decide (x.a < 8)
  | .cpy x => decide (x.d < 96) && decide (x.a < 96) && x.a % 2 == 0 && decide (x.c < 92) && (x.ctl.dir != 2 || x.d % 2 == 0) && x.ctl.ok
  | .publish x => x.a.addrOk && scopeOk x.code
  | .mma x => decide (x.d < 96) && decide (x.a < 96) && x.a % 2 == 0 && decide (x.c < 96) && x.c % 2 == 0 && x.ctl.ok true
  | .bra _ => true
  | .brq x => x.c.uOk && decide (x.c.litWords ≤ 2)
  | .brv x => decide (x.p < 8)
  | .jmpi x => decide (x.r < 64)
  | .call x => decide (x.d < 64)
  | .calli x => decide (x.d < 64) && decide (x.a < 64)
  | .ret x => decide (x.r < 64)
  | .exit _ => true
  | .join _ => true
  | .yield _ => true
  | .trap x => x.a.uOk
  | .bkpt x => x.a.uOk
  | .spawn x => x.a.uOk && x.ctl.ok
  | .readlane x => decide (x.d < 64) && decide (x.a < 96) && x.c.uOk
  | .vote x => decide (x.mode < 4) && decide (x.q < 8) && decide (x.p < 8)
  | .ballot x => decide (x.d < 64) && decide (x.a < 8)
  | .setmode x => x.a.uOk
  | .getmode x => decide (x.r < 64)
  | .modef x => x.a.uOk && decide (x.code < 8)
  | .waitc x => x.a.uOk && decide (x.code < 8)
  | .mfence x => decide (x.r < 64)
  | .mwait x => x.a.uOk
  | .fence x => scopeOk x.code
  | .ntdrain x => scopeOk x.code
  | .bararr x => decide (x.d < 64) && barCodeOk x.code
  | .barwait x => x.a.uOk && barCodeOk x.code
  | .barsync x => barCodeOk x.code
  | .bardef x => decide (x.d < 64) && barCodeOk x.code
  | .ctradd x => decide (x.d < 64) && x.a.uOk && x.c.uOk && x.ctl.okCtr && lenOk 1 x.a x.c
  | .ctrwait x => scopeOk x.scope && x.a.uOk && x.c.uOk && lenOk 0 x.a x.c
  | .sread x => decide (x.d < 64) && srAssigned x.code
  | .swrite x => x.a.uOk && srAssigned x.code
  | .ldu x => decide (x.d < 64) && x.a.uOk && x.acc.okLoad false
  | .stu x => x.a.uOk && x.c.uOk && x.acc.okStore false && lenOk 0 x.a x.c
  | .atom x => decide (x.d < 64) && x.a.uOk && x.c.uOk && x.ctl.ok && lenOk 1 x.a x.c
  | .redu x => x.a.uOk && x.c.uOk && x.ctl.okRed && lenOk 1 x.a x.c
  | .lduacq x => decide (x.d < 64) && x.a.uOk && x.acc.okLoad true
  | .sturel x => x.a.uOk && x.c.uOk && x.acc.okStore true && lenOk 0 x.a x.c
  | .mmag x => x.d.uOk && x.d.noLit && x.a.uOk && x.c.uOk && x.ctl.ok false && lenOk 1 x.a x.c
  | .msetaux x => x.a.uOk && x.c.uOk && lenOk 0 x.a x.c
  | .aczero x => x.a.uOk && x.c.uOk && lenOk 0 x.a x.c
  | .accpy x => x.a.uOk && x.c.uOk && lenOk 0 x.a x.c
  | .cbdrain x => decide (x.code < 2)
  | .cbsave x => decide (x.code < 2) && x.a.uOk
  | .cbload x => decide (x.slot < 2) && x.a.uOk && decide (x.c < 63)
  | .cbmerge x => x.a.uOk && x.c.uOk && lenOk 0 x.a x.c
  | .cbclr x => decide (x.code < 2)
  | .cbdrainw x => x.a.uOk && decide (x.c < 63)
  | .tdep x => decide (x.d < 64) && decide (x.a < 60) && decide (x.c < 64) && x.ctl.ok false
  | .tcopy x => decide (x.d < 60) && decide (x.a < 60) && decide (x.c < 64) && x.ctl.ok true
  | .ttake x => decide (x.d < 60) && decide (x.a < 60) && decide (x.c < 64) && x.ctl.ok true
  | .tcancel x => decide (x.d < 64) && decide (x.c < 64) && x.ctl.ok false
  | .ecreate x => decide (x.d < 64) && decide (x.a < 64)
  | .eenter x => decide (x.d < 64) && decide (x.a < 64) && decide (x.c < 64)
  | .eexit _ => true
  | .edestroy x => decide (x.d < 64) && decide (x.a < 64)
  | .pgassign x => decide (x.d < 64) && decide (x.a < 64) && decide (x.c < 64) && x.ctl.ok
  | .pgseal x => decide (x.d < 64) && decide (x.a < 63) && decide (x.c < 64)
  | .pgunseal x => decide (x.d < 64) && decide (x.a < 64) && decide (x.c < 64)
  | .ctxseal x => decide (x.d < 63) && decide (x.a < 64) && decide (x.c < 63)
  | .ctxcommit x => decide (x.d < 64) && decide (x.a < 64) && decide (x.c < 64)
  | .ctxload x => decide (x.d < 64) && decide (x.a < 64) && decide (x.c < 64)
  | .tlbiAll _ => true
  | .tlbiPage x => x.a.uOk
  | .tlbiSpace x => x.a.uOk
  | .syscall _ => true
  | .hvcall _ => true
  | .eret _ => true
  | .wfi _ => true
  | .corerst x => decide (x.d < 64) && x.a.uOk
  | .partctlQuiesce x => decide (x.d < 63) && decide (x.a < 64) && decide (x.c < 64)
  | .partctlWriteilv x => decide (x.d < 63) && decide (x.a < 64) && decide (x.c < 64)
  | .partctlWritebnd x => decide (x.d < 63) && decide (x.a < 64) && decide (x.c < 64)
  | .partctlShoot x => decide (x.d < 63) && decide (x.a < 64) && decide (x.c < 64)
  | .partctlResume x => decide (x.d < 63) && decide (x.a < 64) && decide (x.c < 64)
  | .freeze x => decide (x.d < 64) && decide (x.a < 64) && x.c.uOk
  | .ctxabort x => decide (x.d < 64) && decide (x.a < 64)
  | .sketchNop x => x.ok false false (fun n => n == 0)
  | .sketchMovi x => x.ok true true (fun _ => true) && decide (x.b < 4)
  | .sketchAdd x => x.ok true true (fun _ => true)
  | .sketchSub x => x.ok true true (fun n => n == 0)
  | .sketchAnd x => x.ok true true (fun n => n == 0)
  | .sketchOr x => x.ok true true (fun n => n == 0)
  | .sketchShl x => x.ok true false (fun n => decide (n < 64))
  | .sketchShr x => x.ok true false (fun n => decide (n < 64))
  | .sketchMask x => x.ok true true (fun n => decide (1 ≤ n / 64) && decide (n / 64 ≤ 64))
  | .sketchCmp x => x.ok true true (fun n => n == 0)
  | .sketchSel x => x.ok true true (fun n => decide (n < 2))
  | .sketchBeq x => x.ok false false (fun n => decide (1 ≤ n))
  | .sketchBne x => x.ok false false (fun n => decide (1 ≤ n))
  | .sketchLoop x => x.ok false false (fun n => decide (1 ≤ n) && decide (n ≤ 64))
  | .sketchEndl x => x.ok false false (fun n => n == 0)
  | .sketchLdq x => x.ok true true (fun n => decide (n ≤ 56) && n % 8 == 0)
  | .sketchLdreg x => x.ok true false (fun n => decide (n < 32))
  | .sketchStreg x => x.ok true false (fun n => decide (8 ≤ n) && decide (n < 32))
  | .sketchLaunch x => x.ok true true (fun n => n == 0)
  | .sketchSignal x => x.ok true true (fun n => n == 0)
  | .sketchWait x => x.ok true true (fun n => n == 0)
  | .sketchIrq x => x.ok false false (fun n => decide (n < 16))
  | .sketchDone x => x.ok false false (fun n => decide (1 ≤ n) && decide (n ≤ 16))
  | .sketchDrop x => x.ok false false (fun n => decide (1 ≤ n) && decide (n ≤ 16))
  | .sketchFault x => x.ok false false (fun n => decide (128 ≤ n) && decide (n < 256))
  | .fixedLatencyWriteback _ => true
  | .variableLatencyResult _ _ => true
  | .runStart _ => true
  | .runEndMerge _ _ => true
  | .groupExit _ => true
  | .teamResourceFree _ => true
  | .teamPlacement _ => true
  | .taskComplete _ => true
  | .spawnAccept _ _ => true
  | .progressSwap _ => true
  | .syncEngineLineReturn _ => true
  | .atomicPerformed _ _ => true
  | .storePerformed _ _ => true
  | .fbreplayRetry _ _ => true
  | .fbreplayAbandon _ _ => true
  | .copyUnitTransfer _ => true
  | .sourceReleased _ => true
  | .landed _ => true
  | .published _ => true
  | .deferredArrival _ => true
  | .publishPoint _ => true
  | .publishComplete _ => true
  | .barrierPhaseComplete _ => true
  | .ctrwaitWake _ _ => true
  | .operationAcceptance _ => true
  | .matrixPass _ => true
  | .batchComplete _ => true
  | .tdepServe _ => true
  | .tcopyServe _ => true
  | .ttakeServe _ => true
  | .tcancelServe _ => true
  | .skidEnd _ => true
  | .cxvacClaim _ _ => true
  | .cxvacRelease _ => true
  | .claimComplete _ => true
  | .kick _ _ => true
  | .qctlEnable _ _ => true
  | .qctlSkip _ _ => true
  | .easelAssign _ => true
  | .launchCommit _ => true
  | .queueWaitWake _ => true
  | .rcmdWrite _ _ => true
  | .rcmdInval _ _ => true
  | .skcmdLoad _ _ => true
  | .skcmdUnload _ _ => true
  | .scrub _ => true
  | .trapEntry _ _ => true
  | .wfiWake _ => true
  | .vectorDelivery _ => true
  | .vfEnable _ => true
  | .vfDisable _ => true
  | .vfFlr _ => true
  | .flrComplete _ => true
  | .vfHarvest _ => true
  | .vfqcmdExport _ _ => true
  | .vfqcmdImport _ _ => true
  | .partitionReset _ => true
  | .prcfgWrite _ _ => true
  | .lendreqWrite _ _ _ => true
  | .lendReclaim _ _ => true
  | .lendThermalReclaim _ _ => true
  | .refresh _ _ => true
  | .throttleRelease _ _ => true
  | .patrol _ _ => true
  | .keySwitch _ _ => true
  | .linkRetransmit _ _ => true
  | .uncorrectableControlError _ _ _ => true
  | .dmpcmdStart _ => true
  | .firmwareActivation _ => true
  | .getVersion _ => true
  | .getCapabilities _ => true
  | .negotiateAlgorithms _ => true
  | .getDigests _ => true
  | .getCertificate _ => true
  | .challenge _ => true
  | .getMeasurements _ => true
  | .keyExchange _ => true
  | .finish _ => true
  | .heartbeat _ => true
  | .keyUpdate _ => true
  | .endSession _ => true
  | .getEnclaveEvidence _ => true
  | .podForm _ => true
  | .getPodPath _ => true
  | .trctlEnable _ _ => true
  | .chunkFlush _ => true
  | .lossMark _ => true
  | .stallSample _ => true
  | .stepon _ => true
  | .stepoff _ => true
  | .goStep _ => true
  | .powerOn => true
  | .limitStep _ => true
  | .thermalStep _ _ => true
  | .thermalTrip => true
  | .pgateGate _ => true
  | .pgateUngate _ => true
  | .registerWrite _ _ _ => true
  | .undefOpcode _ => true
  | .inboundDeviceAccess _ => true
  | .tdispRequest _ => true
  | .ideKmRequest _ => true
  | .completionTimeout _ => true
  | .modulePowerOff => true
  | .threadStart _ _ _ => true
  | .firmwareStaging _ => true
  | .pclkCapWrite _ _ => true

/-- The proposition form of `Instr.wf`. -/
abbrev WellFormed (i : Instr) : Prop := i.wf = true

end Sys2Proof
end

