-- ==== Sys2Proof/Decode.lean ====
section
/-! DEFINITION. Decode.lean: from words to instructions and back, by the encoding of ch08 (R148 to R166), the entries of
ch09 to ch13 and, for sketch words, R338. Decoding is total; it rejects by name. The encoder follows it. -/

namespace Sys2Proof

/-- Why words are no instruction: the opcode is UNDEF (R163, R164), a field or trailer is an OPND fault (R149 to R155,
R166), or the words end before the instruction does. -/
inductive DecodeError where
  | undef
  | opnd
  | short
  deriving DecidableEq, Repr

/-- An A or C field with its literal (R149): codes 0x7C and 0x7D never occur as plain codes. -/
inductive Fld where
  | code (n : Nat)
  | lit32 (x : W32)
  | lit64 (x : W64)
  deriving DecidableEq, Repr

/-- One instruction as fields: the base word (R148) and its trailers (R149). -/
structure Raw where
  m : Marks
  u : Bool
  op : Nat
  d : Nat
  a : Fld
  c : Fld
  ctl : Option W32
  deriving DecidableEq, Repr

/-- Bits [lo + n - 1 : lo] of a word. -/
def fieldOf (x lo n : Nat) : Nat := x / 2 ^ lo % 2 ^ n

/-- One bit of a word. -/
def bitOf (x lo : Nat) : Bool := x / 2 ^ lo % 2 == 1

/-- A flag as a number. -/
def b01 (b : Bool) : Nat := if b then 1 else 0

/-- Two 32-bit words, low word first, as one of 64 bits. -/
def joinWords (lo hi : W32) : W64 := hi ++ lo

/-- The low word of a 64-bit value. -/
def lowWord (x : W64) : W32 := x.setWidth 32

/-- The high word of a 64-bit value. -/
def highWord (x : W64) : W32 := (x >>> 32).setWidth 32

/-- The opcodes that carry a control word (R149). -/
def hasCtl (u : Bool) (op : Nat) : Bool :=
  if u then [0x42, 0x43, 0x3C, 0x50, 0x2C, 0x60, 0x61, 0x62, 0x63, 0x78, 0x6C].contains op
  else [0x5C, 0x5D, 0x66, 0x68].contains op

/-- The opcodes that name an instruction (Tables 6 and 7 of ch08); every other is UNDEF (R163, R164). -/
def definedOp (u : Bool) (op : Nat) : Bool :=
  if u then decide (op < 0x18) || op == 0x1B || op == 0x1D || (decide (0x20 ≤ op) && decide (op < 0x46))
    || (decide (0x50 ≤ op) && decide (op < 0x5A)) || (decide (0x60 ≤ op) && decide (op < 0x64))
    || (decide (0x68 ≤ op) && decide (op < 0x7B))
  else decide (op < 0x3E) || (decide (0x40 ≤ op) && decide (op < 0x4E)) || (decide (0x50 ≤ op) && decide (op < 0x69))

/-- The words of a literal field that follow the base word. -/
def litCount (code : Nat) : Nat := if code = 0x7C then 1 else if code = 0x7D then 2 else 0

/-- How many words an instruction with this base word has (R149). -/
def wordCount (base : W32) : Nat :=
  let x := base.toNat
  let ctl := b01 (hasCtl (bitOf x 28) (fieldOf x 21 7))
  1 + ctl + litCount (fieldOf x 7 7) + litCount (fieldOf x 0 7)

/-- A field's literal taken off the words that follow. -/
def takeFld (code : Nat) (ws : List W32) : Except DecodeError (Fld × List W32) :=
  if code = 0x7C then
    match ws with
    | x :: r => .ok (.lit32 x, r)
    | [] => .error .short
  else if code = 0x7D then
    match ws with
    | lo :: hi :: r => .ok (.lit64 (joinWords lo hi), r)
    | _ => .error .short
  else .ok (.code code, ws)

/-- The control word taken off the words that follow, where the opcode has one. -/
def takeCtl (u : Bool) (op : Nat) (ws : List W32) : Except DecodeError (Option W32 × List W32) :=
  if hasCtl u op then
    match ws with
    | x :: r => .ok (some x, r)
    | [] => .error .short
  else .ok (none, ws)

/-- The fields of the instruction at the head of the words, and the words after it. UNDEF comes first (R165). -/
def parse : List W32 → Except DecodeError (Raw × List W32)
  | [] => .error .short
  | base :: ws =>
    let x := base.toNat
    let u := bitOf x 28
    let op := fieldOf x 21 7
    if !definedOp u op then .error .undef
    else if 4 < wordCount base then .error .opnd
    else
      match takeCtl u op ws with
      | .error e => .error e
      | .ok (ctl, ws) =>
        match takeFld (fieldOf x 7 7) ws with
        | .error e => .error e
        | .ok (a, ws) =>
          match takeFld (fieldOf x 0 7) ws with
          | .error e => .error e
          | .ok (c, ws) =>
            .ok (⟨⟨bitOf x 31, bitOf x 30, bitOf x 29⟩, u, op, fieldOf x 14 7, a, c, ctl⟩, ws)

/-- A vector-class source operand (Table 2 of ch08). -/
def Fld.vSrc : Fld → Option Opnd
  | .lit32 x => some (.lit32 x)
  | .lit64 x => some (.lit64 x)
  | .code n =>
    if n < 96 then some (.v n) else if n < 112 then some (.g (n - 96))
    else match n with
      | 112 => some .zero
      | 113 => some .one
      | 114 => some .lane
      | 115 => some .quarter
      | 116 => some .split
      | 117 => some .gslot
      | _ => none

/-- A uniform-class source operand (Table 3 of ch08). -/
def Fld.uSrc : Fld → Option Opnd
  | .lit32 x => some (.lit32 x)
  | .lit64 x => some (.lit64 x)
  | .code n =>
    if n < 64 then some (.g n) else if n < 72 then some (.q (n - 64))
    else match n with
      | 112 => some .zero
      | 113 => some .one
      | 114 => some .lane
      | 115 => some .quarter
      | 116 => some .split
      | 117 => some .gslot
      | _ => none

/-- An operand as a vector-class field. -/
def Opnd.toV : Opnd → Fld
  | .v r => .code r
  | .g r => .code (96 + r)
  | .q r => .code (64 + r)
  | .zero => .code 112
  | .one => .code 113
  | .lane => .code 114
  | .quarter => .code 115
  | .split => .code 116
  | .gslot => .code 117
  | .lit32 x => .lit32 x
  | .lit64 x => .lit64 x

/-- An operand as a uniform-class field. -/
def Opnd.toU : Opnd → Fld
  | .v r => .code r
  | .g r => .code r
  | .q r => .code (64 + r)
  | .zero => .code 112
  | .one => .code 113
  | .lane => .code 114
  | .quarter => .code 115
  | .split => .code 116
  | .gslot => .code 117
  | .lit32 x => .lit32 x
  | .lit64 x => .lit64 x

/-- A source that satisfies a further condition. -/
def Opnd.only (p : Opnd → Bool) (o : Option Opnd) : Option Opnd :=
  match o with
  | some x => if p x then some x else none
  | none => none

/-- A plain code below a bound: a register number, a predicate code. -/
def Fld.reg (bound : Nat) : Fld → Option Nat
  | .code n => if n < bound then some n else none
  | _ => none

/-- A `g` register in a vector-class field (R151). -/
def Fld.vg : Fld → Option Nat
  | .code n => if 96 ≤ n ∧ n < 112 then some (n - 96) else none
  | _ => none

/-- A code that satisfies a condition. -/
def Fld.codeIf (p : Nat → Bool) : Fld → Option Nat
  | .code n => if p n then some n else none
  | _ => none

/-- An unused field holds 0x70 (R150). -/
def Fld.unused : Fld → Option Unit
  | .code 112 => some ()
  | _ => none

/-- The D field as a number with a bound. -/
def dReg (bound d : Nat) : Option Nat := if d < bound then some d else none

/-- The D field unused (R150). -/
def dUnused (d : Nat) : Option Unit := if d = 112 then some () else none

/-- A direct branch's offset: field A is LIT32 (R190). -/
def Fld.off : Fld → Option W32
  | .lit32 x => some x
  | _ => none

/-- The access code of a load, from field C (R228). -/
def Fld.accLoad (sc : Bool) : Fld → Option Access
  | .code n =>
    let x : Access := ⟨n / 16, n % 8⟩
    if n / 8 % 2 = 0 ∧ x.okLoad sc = true then some x else none
  | _ => none

/-- The access code of a store, from field D (R228). -/
def dAccStore (sc : Bool) (d : Nat) : Option Access :=
  let x : Access := ⟨d / 16, d % 8⟩
  if d / 8 % 2 = 0 ∧ x.okStore sc = true then some x else none

/-- An access code as a field (R228). -/
def Access.enc (x : Access) : Nat := 16 * x.scope + x.size

/-- The atomic control word (Table 5 of ch11). -/
def AtomCtl.dec (p : AtomCtl → Bool) (w : Option W32) : Option AtomCtl :=
  match w with
  | none => none
  | some w =>
    let n := w.toNat
    let x : AtomCtl := ⟨fieldOf n 0 4, fieldOf n 4 3, fieldOf n 7 2, fieldOf n 9 3⟩
    if n < 2 ^ 12 ∧ p x = true then some x else none

/-- Its encoding. -/
def AtomCtl.enc (x : AtomCtl) : W32 :=
  BitVec.ofNat 32 (x.op + 2 ^ 4 * x.scope + 2 ^ 7 * x.order + 2 ^ 9 * x.type)

/-- The CPY control word (Table 7 of ch11). -/
def CpyCtl.dec (w : Option W32) : Option CpyCtl :=
  match w with
  | none => none
  | some w =>
    let n := w.toNat
    let x : CpyCtl := ⟨fieldOf n 0 2, fieldOf n 2 3, fieldOf n 5 4, bitOf n 9, fieldOf n 10 6, bitOf n 16,
      fieldOf n 17 6, bitOf n 23, bitOf n 24, fieldOf n 25 3⟩
    if n < 2 ^ 28 ∧ x.ok = true then some x else none

/-- Its encoding. -/
def CpyCtl.enc (x : CpyCtl) : W32 :=
  BitVec.ofNat 32 (x.dir + 2 ^ 2 * x.red + 2 ^ 5 * x.ety + 2 ^ 9 * b01 x.shadow + 2 ^ 10 * x.srcctr
    + 2 ^ 16 * b01 x.srcen + 2 ^ 17 * x.pubctr + 2 ^ 23 * b01 x.puben + 2 ^ 24 * b01 x.defer + 2 ^ 25 * x.pubscope)

/-- The MMA and MMAG control word (Table 2 of ch12). -/
def MmaCtl.dec (isMma : Bool) (w : Option W32) : Option MmaCtl :=
  match w with
  | none => none
  | some w =>
    let n := w.toNat
    let x : MmaCtl := ⟨fieldOf n 0 4, fieldOf n 4 3, fieldOf n 7 6, bitOf n 13, bitOf n 14, bitOf n 15, fieldOf n 16 1,
      bitOf n 17, bitOf n 18, bitOf n 19⟩
    if n < 2 ^ 20 ∧ x.ok isMma = true then some x else none

/-- Its encoding. -/
def MmaCtl.enc (x : MmaCtl) : W32 :=
  BitVec.ofNat 32 (x.m + 2 ^ 4 * x.ncode + 2 ^ 7 * x.kb + 2 ^ 13 * b01 x.sparse + 2 ^ 14 * b01 x.side
    + 2 ^ 15 * b01 x.persist + 2 ^ 16 * x.slot + 2 ^ 17 * b01 x.zero + 2 ^ 18 * b01 x.ta + 2 ^ 19 * b01 x.tb)

/-- The SPAWN control word (Table 5 of ch13). -/
def SpawnCtl.dec (w : Option W32) : Option SpawnCtl :=
  match w with
  | none => none
  | some w =>
    let n := w.toNat
    let x : SpawnCtl := ⟨fieldOf n 0 12, bitOf n 12, fieldOf n 13 3⟩
    if n < 2 ^ 16 ∧ x.ok = true then some x else none

/-- Its encoding. -/
def SpawnCtl.enc (x : SpawnCtl) : W32 := BitVec.ofNat 32 (x.sq + 2 ^ 12 * b01 x.nb + 2 ^ 13 * x.st)

/-- The tuple control word (Table 4 of ch12). -/
def TupCtl.dec (modes : Bool) (w : Option W32) : Option TupCtl :=
  match w with
  | none => none
  | some w =>
    let n := w.toNat
    let x : TupCtl := ⟨fieldOf n 0 2, fieldOf n 2 2, fieldOf n 4 2, fieldOf n 6 2, fieldOf n 8 6, fieldOf n 14 3,
      bitOf n 17⟩
    if n < 2 ^ 18 ∧ x.ok modes = true then some x else none

/-- Its encoding. -/
def TupCtl.enc (x : TupCtl) : W32 :=
  BitVec.ofNat 32 (x.f0 + 2 ^ 2 * x.f1 + 2 ^ 4 * x.f2 + 2 ^ 6 * x.f3 + 2 ^ 8 * x.mask + 2 ^ 14 * x.st
    + 2 ^ 17 * b01 x.nb)

/-- The PGASSIGN control word (Table 7 of ch13). -/
def PgaCtl.dec (w : Option W32) : Option PgaCtl :=
  match w with
  | none => none
  | some w =>
    let n := w.toNat
    let x : PgaCtl := ⟨fieldOf n 0 3, bitOf n 3, bitOf n 4, fieldOf n 5 6⟩
    if n < 2 ^ 11 ∧ x.ok = true then some x else none

/-- Its encoding. -/
def PgaCtl.enc (x : PgaCtl) : W32 := BitVec.ofNat 32 (x.new + 2 ^ 3 * b01 x.r + 2 ^ 4 * b01 x.w + 2 ^ 5 * x.va)

/-- D, A, C. -/
def Raw.decV3 (r : Raw) : Option Op3 := do
  let d ← dReg 96 r.d
  let a ← r.a.vSrc
  let c ← r.c.vSrc
  return ⟨r.m, d, a, c⟩

/-- D, A, C where A must name a v register (Table 1 of ch10): CVTW. -/
def Raw.decVA3 (r : Raw) : Option Op3 := (r.decV3).filter fun x => x.a.isV

/-- The fields of that form. -/
def Op3.encV3 (u : Bool) (op : Nat) (x : Op3) : Raw :=
  ⟨x.m, u, op, x.d, x.a.toV, x.c.toV, none⟩

/-- D, A. -/
def Raw.decV2 (r : Raw) : Option Op2 := do
  let d ← dReg 96 r.d
  let a ← r.a.vSrc
  r.c.unused
  return ⟨r.m, d, a⟩

/-- The fields of that form. -/
def Op2.encV2 (u : Bool) (op : Nat) (x : Op2) : Raw :=
  ⟨x.m, u, op, x.d, x.a.toV, .code 112, none⟩

/-- A compare (R155). -/
def Raw.decVCMP (lim : Nat) (r : Raw) : Option CmpI := do
  let d ← dReg 128 r.d
  let a ← r.a.vSrc
  let c ← r.c.vSrc
  if d / 8 < lim then return ⟨r.m, d / 8, d % 8, a, c⟩ else none

/-- The fields of that form. -/
def CmpI.encVCMP (u : Bool) (op : Nat) (x : CmpI) : Raw :=
  ⟨x.m, u, op, 8 * x.cond + x.pd, x.a.toV, x.c.toV, none⟩

/-- A, C. -/
def Raw.decVAC (r : Raw) : Option OpAC := do
  dUnused r.d
  let a ← r.a.vSrc
  let c ← r.c.vSrc
  return ⟨r.m, a, c⟩

/-- The fields of that form. -/
def OpAC.encVAC (u : Bool) (op : Nat) (x : OpAC) : Raw :=
  ⟨x.m, u, op, 112, x.a.toV, x.c.toV, none⟩

/-- A. -/
def Raw.decVA1 (r : Raw) : Option Op1 := do
  dUnused r.d
  let a ← r.a.vSrc
  r.c.unused
  return ⟨r.m, a⟩

/-- The fields of that form. -/
def Op1.encVA1 (u : Bool) (op : Nat) (x : Op1) : Raw :=
  ⟨x.m, u, op, 112, x.a.toV, .code 112, none⟩

/-- A load (R229). -/
def Raw.decVLD (sc : Bool) (r : Raw) : Option Load := do
  let d ← dReg 96 r.d
  let a ← Opnd.only Opnd.addrOk r.a.vSrc
  let k ← r.c.accLoad sc
  return ⟨r.m, d, a, k⟩

/-- The fields of that form. -/
def Load.encVLD (u : Bool) (op : Nat) (x : Load) : Raw :=
  ⟨x.m, u, op, x.d, x.a.toV, .code x.acc.enc, none⟩

/-- A store (R229). -/
def Raw.decVST (sc : Bool) (r : Raw) : Option Store := do
  let k ← dAccStore sc r.d
  let a ← Opnd.only Opnd.addrOk r.a.vSrc
  let c ← r.c.vSrc
  return ⟨r.m, a, c, k⟩

/-- The fields of that form. -/
def Store.encVST (u : Bool) (op : Nat) (x : Store) : Raw :=
  ⟨x.m, u, op, x.acc.enc, x.a.toV, x.c.toV, none⟩

/-- A returning atomic (R236). -/
def Raw.decVATOM (p : AtomCtl → Bool) (r : Raw) : Option AtomI := do
  let d ← dReg 96 r.d
  let a ← Opnd.only Opnd.addrOk r.a.vSrc
  let c ← r.c.vSrc
  let k ← AtomCtl.dec p r.ctl
  return ⟨r.m, d, a, c, k⟩

/-- The fields of that form. -/
def AtomI.encVATOM (u : Bool) (op : Nat) (x : AtomI) : Raw :=
  ⟨x.m, u, op, x.d, x.a.toV, x.c.toV, some x.ctl.enc⟩

/-- A non-returning atomic (R236). -/
def Raw.decVRED (r : Raw) : Option RedI := do
  dUnused r.d
  let a ← Opnd.only Opnd.addrOk r.a.vSrc
  let c ← r.c.vSrc
  let k ← AtomCtl.dec AtomCtl.okRed r.ctl
  return ⟨r.m, a, c, k⟩

/-- The fields of that form. -/
def RedI.encVRED (u : Bool) (op : Nat) (x : RedI) : Raw :=
  ⟨x.m, u, op, 112, x.a.toV, x.c.toV, some x.ctl.enc⟩

/-- D, A, C. -/
def Raw.decU3 (r : Raw) : Option Op3 := do
  let d ← dReg 64 r.d
  let a ← r.a.uSrc
  let c ← r.c.uSrc
  return ⟨r.m, d, a, c⟩

/-- The fields of that form. -/
def Op3.encU3 (u : Bool) (op : Nat) (x : Op3) : Raw :=
  ⟨x.m, u, op, x.d, x.a.toU, x.c.toU, none⟩

/-- D, A. -/
def Raw.decU2 (r : Raw) : Option Op2 := do
  let d ← dReg 64 r.d
  let a ← r.a.uSrc
  r.c.unused
  return ⟨r.m, d, a⟩

/-- The fields of that form. -/
def Op2.encU2 (u : Bool) (op : Nat) (x : Op2) : Raw :=
  ⟨x.m, u, op, x.d, x.a.toU, .code 112, none⟩

/-- A compare (R155). -/
def Raw.decUCMP (lim : Nat) (r : Raw) : Option CmpI := do
  let d ← dReg 128 r.d
  let a ← r.a.uSrc
  let c ← r.c.uSrc
  if d / 8 < lim then return ⟨r.m, d / 8, d % 8, a, c⟩ else none

/-- The fields of that form. -/
def CmpI.encUCMP (u : Bool) (op : Nat) (x : CmpI) : Raw :=
  ⟨x.m, u, op, 8 * x.cond + x.pd, x.a.toU, x.c.toU, none⟩

/-- A, C. -/
def Raw.decUAC (r : Raw) : Option OpAC := do
  dUnused r.d
  let a ← r.a.uSrc
  let c ← r.c.uSrc
  return ⟨r.m, a, c⟩

/-- The fields of that form. -/
def OpAC.encUAC (u : Bool) (op : Nat) (x : OpAC) : Raw :=
  ⟨x.m, u, op, 112, x.a.toU, x.c.toU, none⟩

/-- A. -/
def Raw.decUA1 (r : Raw) : Option Op1 := do
  dUnused r.d
  let a ← r.a.uSrc
  r.c.unused
  return ⟨r.m, a⟩

/-- The fields of that form. -/
def Op1.encUA1 (u : Bool) (op : Nat) (x : Op1) : Raw :=
  ⟨x.m, u, op, 112, x.a.toU, .code 112, none⟩

/-- A load (R229). -/
def Raw.decULD (sc : Bool) (r : Raw) : Option Load := do
  let d ← dReg 64 r.d
  let a ← r.a.uSrc
  let k ← r.c.accLoad sc
  return ⟨r.m, d, a, k⟩

/-- The fields of that form. -/
def Load.encULD (u : Bool) (op : Nat) (x : Load) : Raw :=
  ⟨x.m, u, op, x.d, x.a.toU, .code x.acc.enc, none⟩

/-- A store (R229). -/
def Raw.decUST (sc : Bool) (r : Raw) : Option Store := do
  let k ← dAccStore sc r.d
  let a ← r.a.uSrc
  let c ← r.c.uSrc
  return ⟨r.m, a, c, k⟩

/-- The fields of that form. -/
def Store.encUST (u : Bool) (op : Nat) (x : Store) : Raw :=
  ⟨x.m, u, op, x.acc.enc, x.a.toU, x.c.toU, none⟩

/-- A returning atomic (R236). -/
def Raw.decUATOM (p : AtomCtl → Bool) (r : Raw) : Option AtomI := do
  let d ← dReg 64 r.d
  let a ← r.a.uSrc
  let c ← r.c.uSrc
  let k ← AtomCtl.dec p r.ctl
  return ⟨r.m, d, a, c, k⟩

/-- The fields of that form. -/
def AtomI.encUATOM (u : Bool) (op : Nat) (x : AtomI) : Raw :=
  ⟨x.m, u, op, x.d, x.a.toU, x.c.toU, some x.ctl.enc⟩

/-- A non-returning atomic (R236). -/
def Raw.decURED (r : Raw) : Option RedI := do
  dUnused r.d
  let a ← r.a.uSrc
  let c ← r.c.uSrc
  let k ← AtomCtl.dec AtomCtl.okRed r.ctl
  return ⟨r.m, a, c, k⟩

/-- The fields of that form. -/
def RedI.encURED (u : Bool) (op : Nat) (x : RedI) : Raw :=
  ⟨x.m, u, op, 112, x.a.toU, x.c.toU, some x.ctl.enc⟩

/-- D, A and a code in C. -/
def Raw.decVCODE (p : Nat → Bool) (r : Raw) : Option OpCode := do
  let d ← dReg 96 r.d
  let a ← r.a.vSrc
  let k ← r.c.codeIf p
  return ⟨r.m, d, a, k⟩

/-- The fields of that form. -/
def OpCode.encVCODE (u : Bool) (op : Nat) (x : OpCode) : Raw :=
  ⟨x.m, u, op, x.d, x.a.toV, .code x.code, none⟩

/-- Two `v` registers. -/
def Raw.decVRR (r : Raw) : Option Rr := do
  let d ← dReg 96 r.d
  let a ← r.a.reg 96
  r.c.unused
  return ⟨r.m, d, a⟩

/-- The fields of that form. -/
def Rr.encVRR (u : Bool) (op : Nat) (x : Rr) : Raw :=
  ⟨x.m, u, op, x.d, .code x.a, .code 112, none⟩

/-- Two `g` registers. -/
def Raw.decGG (r : Raw) : Option Rr := do
  let d ← dReg 64 r.d
  let a ← r.a.reg 64
  r.c.unused
  return ⟨r.m, d, a⟩

/-- The fields of that form. -/
def Rr.encGG (u : Bool) (op : Nat) (x : Rr) : Raw :=
  ⟨x.m, u, op, x.d, .code x.a, .code 112, none⟩

/-- `v` register and predicate (R187). -/
def Raw.decPGET (r : Raw) : Option Rr := do
  let d ← dReg 96 r.d
  let a ← r.a.reg 8
  r.c.unused
  return ⟨r.m, d, a⟩

/-- The fields of that form. -/
def Rr.encPGET (u : Bool) (op : Nat) (x : Rr) : Raw :=
  ⟨x.m, u, op, x.d, .code x.a, .code 112, none⟩

/-- `g` register and predicate (R196). -/
def Raw.decBALLOT (r : Raw) : Option Rr := do
  let d ← dReg 64 r.d
  let a ← r.a.reg 8
  r.c.unused
  return ⟨r.m, d, a⟩

/-- The fields of that form. -/
def Rr.encBALLOT (u : Bool) (op : Nat) (x : Rr) : Raw :=
  ⟨x.m, u, op, x.d, .code x.a, .code 112, none⟩

/-- Predicate and source (R187). -/
def Raw.decPSET (r : Raw) : Option Op2 := do
  let d ← dReg 8 r.d
  let a ← r.a.vSrc
  r.c.unused
  return ⟨r.m, d, a⟩

/-- The fields of that form. -/
def Op2.encPSET (u : Bool) (op : Nat) (x : Op2) : Raw :=
  ⟨x.m, u, op, x.d, x.a.toV, .code 112, none⟩

/-- Three predicates (R187). -/
def Raw.decPPP (r : Raw) : Option Rrr := do
  let d ← dReg 8 r.d
  let a ← r.a.reg 8
  let c ← r.c.reg 8
  return ⟨r.m, d, a, c⟩

/-- The fields of that form. -/
def Rrr.encPPP (u : Bool) (op : Nat) (x : Rrr) : Raw :=
  ⟨x.m, u, op, x.d, .code x.a, .code x.c, none⟩

/-- LDL (R234). -/
def Raw.decVLDL (r : Raw) : Option Load := do
  let d ← dReg 96 r.d
  let a ← Opnd.only Opnd.noLit64 r.a.vSrc
  let k ← r.c.accLoad false
  return ⟨r.m, d, a, k⟩

/-- The fields of that form. -/
def Load.encVLDL (u : Bool) (op : Nat) (x : Load) : Raw :=
  ⟨x.m, u, op, x.d, x.a.toV, .code x.acc.enc, none⟩

/-- STL (R234). -/
def Raw.decVSTL (r : Raw) : Option Store := do
  let k ← dAccStore false r.d
  let a ← Opnd.only Opnd.noLit64 r.a.vSrc
  let c ← r.c.vSrc
  return ⟨r.m, a, c, k⟩

/-- The fields of that form. -/
def Store.encVSTL (u : Bool) (op : Nat) (x : Store) : Raw :=
  ⟨x.m, u, op, x.acc.enc, x.a.toV, x.c.toV, none⟩

/-- LDL4 (R234). -/
def Raw.decVLDL4 (r : Raw) : Option Op2 := do
  let d ← dReg 96 r.d
  let a ← Opnd.only Opnd.noLit64 r.a.vSrc
  r.c.unused
  return ⟨r.m, d, a⟩

/-- The fields of that form. -/
def Op2.encVLDL4 (u : Bool) (op : Nat) (x : Op2) : Raw :=
  ⟨x.m, u, op, x.d, x.a.toV, .code 112, none⟩

/-- STL4 (R234). -/
def Raw.decVSTL4 (r : Raw) : Option OpReg := do
  dUnused r.d
  let a ← Opnd.only Opnd.noLit64 r.a.vSrc
  let c ← r.c.reg 96
  return ⟨r.m, a, c⟩

/-- The fields of that form. -/
def OpReg.encVSTL4 (u : Bool) (op : Nat) (x : OpReg) : Raw :=
  ⟨x.m, u, op, 112, x.a.toV, .code x.c, none⟩

/-- GLD and GST (R235). -/
def Raw.decVG (r : Raw) : Option Gath := do
  let d ← dReg 96 r.d
  let b ← r.a.vg
  let c ← Opnd.only Opnd.noLit64 r.c.vSrc
  return ⟨r.m, d, b, c⟩

/-- The fields of that form. -/
def Gath.encVG (u : Bool) (op : Nat) (x : Gath) : Raw :=
  ⟨x.m, u, op, x.d, .code (96 + x.base), x.c.toV, none⟩

/-- An address (R227). -/
def Raw.decVADR1 (r : Raw) : Option Op1 := do
  dUnused r.d
  let a ← Opnd.only Opnd.addrOk r.a.vSrc
  r.c.unused
  return ⟨r.m, a⟩

/-- The fields of that form. -/
def Op1.encVADR1 (u : Bool) (op : Nat) (x : Op1) : Raw :=
  ⟨x.m, u, op, 112, x.a.toV, .code 112, none⟩

/-- PUBLISH (R247). -/
def Raw.decPUB (r : Raw) : Option ACode := do
  dUnused r.d
  let a ← Opnd.only Opnd.addrOk r.a.vSrc
  let k ← r.c.codeIf scopeOk
  return ⟨r.m, a, k⟩

/-- The fields of that form. -/
def ACode.encPUB (u : Bool) (op : Nat) (x : ACode) : Raw :=
  ⟨x.m, u, op, 112, x.a.toV, .code x.code, none⟩

/-- CPY (R246). -/
def Raw.decCPY (r : Raw) : Option CpyI := do
  let d ← dReg 96 r.d
  let a ← r.a.reg 96
  let c ← r.c.reg 92
  let k ← CpyCtl.dec r.ctl
  if a % 2 = 0 ∧ (k.dir ≠ 2 ∨ d % 2 = 0) then return ⟨r.m, d, a, c, k⟩ else none

/-- The fields of that form. -/
def CpyI.encCPY (u : Bool) (op : Nat) (x : CpyI) : Raw :=
  ⟨x.m, u, op, x.d, .code x.a, .code x.c, some x.ctl.enc⟩

/-- MMA (R249). -/
def Raw.decMMA (r : Raw) : Option MmaI := do
  let d ← dReg 96 r.d
  let a ← r.a.reg 96
  let c ← r.c.reg 96
  let k ← MmaCtl.dec true r.ctl
  if a % 2 = 0 ∧ c % 2 = 0 then return ⟨r.m, d, a, c, k⟩ else none

/-- The fields of that form. -/
def MmaI.encMMA (u : Bool) (op : Nat) (x : MmaI) : Raw :=
  ⟨x.m, u, op, x.d, .code x.a, .code x.c, some x.ctl.enc⟩

/-- The D field of MMAG as a source (R249). -/
def Fld.codeOf : Fld → Nat
  | .code n => n
  | .lit32 _ => 124
  | .lit64 _ => 125

/-- MMAG (R249). -/
def Raw.decMMAG (r : Raw) : Option MmagI := do
  let d ← (Fld.code r.d).uSrc
  let a ← r.a.uSrc
  let c ← r.c.uSrc
  let k ← MmaCtl.dec false r.ctl
  return ⟨r.m, d, a, c, k⟩

/-- The fields of that form. -/
def MmagI.encMMAG (u : Bool) (op : Nat) (x : MmagI) : Raw :=
  ⟨x.m, u, op, x.d.toU.codeOf, x.a.toU, x.c.toU, some x.ctl.enc⟩

/-- BRA (R190). -/
def Raw.decBRA (r : Raw) : Option BraI := do
  dUnused r.d
  let f ← r.a.off
  r.c.unused
  return ⟨r.m, f⟩

/-- The fields of that form. -/
def BraI.encBRA (u : Bool) (op : Nat) (x : BraI) : Raw :=
  ⟨x.m, u, op, 112, .lit32 x.off, .code 112, none⟩

/-- BRQ (R190). -/
def Raw.decBRQ (r : Raw) : Option BrqI := do
  let d ← dReg 2 r.d
  let f ← r.a.off
  let c ← r.c.uSrc
  return ⟨r.m, d == 1, f, c⟩

/-- The fields of that form. -/
def BrqI.encBRQ (u : Bool) (op : Nat) (x : BrqI) : Raw :=
  ⟨x.m, u, op, b01 x.z, .lit32 x.off, x.c.toU, none⟩

/-- BRV (R190). -/
def Raw.decBRV (r : Raw) : Option BrvI := do
  dUnused r.d
  let f ← r.a.off
  let c ← r.c.reg 16
  return ⟨r.m, f, c % 8, bitOf c 3⟩

/-- The fields of that form. -/
def BrvI.encBRV (u : Bool) (op : Nat) (x : BrvI) : Raw :=
  ⟨x.m, u, op, 112, .lit32 x.off, .code (x.p + 8 * b01 x.inv), none⟩

/-- JMPI and RET (R190). -/
def Raw.decUG1 (r : Raw) : Option R1 := do
  dUnused r.d
  let a ← r.a.reg 64
  r.c.unused
  return ⟨r.m, a⟩

/-- The fields of that form. -/
def R1.encUG1 (u : Bool) (op : Nat) (x : R1) : Raw :=
  ⟨x.m, u, op, 112, .code x.r, .code 112, none⟩

/-- A `g` destination alone. -/
def Raw.decUD1 (r : Raw) : Option R1 := do
  let d ← dReg 64 r.d
  r.a.unused
  r.c.unused
  return ⟨r.m, d⟩

/-- The fields of that form. -/
def R1.encUD1 (u : Bool) (op : Nat) (x : R1) : Raw :=
  ⟨x.m, u, op, x.r, .code 112, .code 112, none⟩

/-- CALL (R190). -/
def Raw.decCALL (r : Raw) : Option CallI := do
  let d ← dReg 64 r.d
  let f ← r.a.off
  r.c.unused
  return ⟨r.m, d, f⟩

/-- The fields of that form. -/
def CallI.encCALL (u : Bool) (op : Nat) (x : CallI) : Raw :=
  ⟨x.m, u, op, x.d, .lit32 x.off, .code 112, none⟩

/-- No operand. -/
def Raw.decU0 (r : Raw) : Option Op0 := do
  dUnused r.d
  r.a.unused
  r.c.unused
  return ⟨r.m⟩

/-- The fields of that form. -/
def Op0.encU0 (u : Bool) (op : Nat) (x : Op0) : Raw :=
  ⟨x.m, u, op, 112, .code 112, .code 112, none⟩

/-- SPAWN (R277). -/
def Raw.decSPAWN (r : Raw) : Option SpawnI := do
  dUnused r.d
  let a ← r.a.uSrc
  r.c.unused
  let k ← SpawnCtl.dec r.ctl
  return ⟨r.m, a, k⟩

/-- The fields of that form. -/
def SpawnI.encSPAWN (u : Bool) (op : Nat) (x : SpawnI) : Raw :=
  ⟨x.m, u, op, 112, x.a.toU, .code 112, some x.ctl.enc⟩

/-- READLANE (R197). -/
def Raw.decRDL (r : Raw) : Option ReadLaneI := do
  let d ← dReg 64 r.d
  let a ← r.a.reg 96
  let c ← r.c.uSrc
  return ⟨r.m, d, a, c⟩

/-- The fields of that form. -/
def ReadLaneI.encRDL (u : Bool) (op : Nat) (x : ReadLaneI) : Raw :=
  ⟨x.m, u, op, x.d, .code x.a, x.c.toU, none⟩

/-- VOTE (R196). -/
def Raw.decVOTE (r : Raw) : Option VoteI := do
  let d ← dReg 32 r.d
  let a ← r.a.reg 8
  r.c.unused
  return ⟨r.m, d / 8, d % 8, a⟩

/-- The fields of that form. -/
def VoteI.encVOTE (u : Bool) (op : Nat) (x : VoteI) : Raw :=
  ⟨x.m, u, op, 8 * x.mode + x.q, .code x.p, .code 112, none⟩

/-- A and a code in C. -/
def Raw.decUACODE (p : Nat → Bool) (r : Raw) : Option ACode := do
  dUnused r.d
  let a ← r.a.uSrc
  let k ← r.c.codeIf p
  return ⟨r.m, a, k⟩

/-- The fields of that form. -/
def ACode.encUACODE (u : Bool) (op : Nat) (x : ACode) : Raw :=
  ⟨x.m, u, op, 112, x.a.toU, .code x.code, none⟩

/-- A code in C. -/
def Raw.decUCODE (p : Nat → Bool) (r : Raw) : Option CodeI := do
  dUnused r.d
  r.a.unused
  let k ← r.c.codeIf p
  return ⟨r.m, k⟩

/-- The fields of that form. -/
def CodeI.encUCODE (u : Bool) (op : Nat) (x : CodeI) : Raw :=
  ⟨x.m, u, op, 112, .code 112, .code x.code, none⟩

/-- D and a code in C. -/
def Raw.decUDCODE (p : Nat → Bool) (r : Raw) : Option DCode := do
  let d ← dReg 64 r.d
  r.a.unused
  let k ← r.c.codeIf p
  return ⟨r.m, d, k⟩

/-- The fields of that form. -/
def DCode.encUDCODE (u : Bool) (op : Nat) (x : DCode) : Raw :=
  ⟨x.m, u, op, x.d, .code 112, .code x.code, none⟩

/-- A slot code in D (R249). -/
def Raw.decSLOT (r : Raw) : Option CodeI := do
  let d ← dReg 2 r.d
  r.a.unused
  r.c.unused
  return ⟨r.m, d⟩

/-- The fields of that form. -/
def CodeI.encSLOT (u : Bool) (op : Nat) (x : CodeI) : Raw :=
  ⟨x.m, u, op, x.code, .code 112, .code 112, none⟩

/-- CBSAVE (R249). -/
def Raw.decSLOTA (r : Raw) : Option ACode := do
  let d ← dReg 2 r.d
  let a ← r.a.uSrc
  r.c.unused
  return ⟨r.m, a, d⟩

/-- The fields of that form. -/
def ACode.encSLOTA (u : Bool) (op : Nat) (x : ACode) : Raw :=
  ⟨x.m, u, op, x.code, x.a.toU, .code 112, none⟩

/-- CBLOAD (R249, R260). -/
def Raw.decSLOTAC (r : Raw) : Option SlotAC := do
  let d ← dReg 2 r.d
  let a ← r.a.uSrc
  let c ← r.c.reg 63
  return ⟨r.m, d, a, c⟩

/-- The fields of that form. -/
def SlotAC.encSLOTAC (u : Bool) (op : Nat) (x : SlotAC) : Raw :=
  ⟨x.m, u, op, x.slot, x.a.toU, .code x.c, none⟩

/-- CBDRAINW (R249, R260). -/
def Raw.decUAG (r : Raw) : Option OpReg := do
  dUnused r.d
  let a ← r.a.uSrc
  let c ← r.c.reg 63
  return ⟨r.m, a, c⟩

/-- The fields of that form. -/
def OpReg.encUAG (u : Bool) (op : Nat) (x : OpReg) : Raw :=
  ⟨x.m, u, op, 112, x.a.toU, .code x.c, none⟩

/-- CTRWAIT (R244). -/
def Raw.decCTRWAIT (r : Raw) : Option CtrWaitI := do
  let d ← dReg 6 r.d
  let a ← r.a.uSrc
  let c ← r.c.uSrc
  return ⟨r.m, d, a, c⟩

/-- The fields of that form. -/
def CtrWaitI.encCTRWAIT (u : Bool) (op : Nat) (x : CtrWaitI) : Raw :=
  ⟨x.m, u, op, x.scope, x.a.toU, x.c.toU, none⟩

/-- TDEP, TCOPY and TTAKE (R265). -/
def Raw.decTUP (lim : Nat) (modes : Bool) (r : Raw) : Option TupI := do
  let d ← dReg lim r.d
  let a ← r.a.reg 60
  let c ← r.c.reg 64
  let k ← TupCtl.dec modes r.ctl
  return ⟨r.m, d, a, c, k⟩

/-- The fields of that form. -/
def TupI.encTUP (u : Bool) (op : Nat) (x : TupI) : Raw :=
  ⟨x.m, u, op, x.d, .code x.a, .code x.c, some x.ctl.enc⟩

/-- TCANCEL (R265). -/
def Raw.decTCAN (r : Raw) : Option TcanI := do
  let d ← dReg 64 r.d
  r.a.unused
  let c ← r.c.reg 64
  let k ← TupCtl.dec false r.ctl
  return ⟨r.m, d, c, k⟩

/-- The fields of that form. -/
def TcanI.encTCAN (u : Bool) (op : Nat) (x : TcanI) : Raw :=
  ⟨x.m, u, op, x.d, .code 112, .code x.c, some x.ctl.enc⟩

/-- Three `g` registers with their bounds (R279). -/
def Raw.decGGG (bd ba bc : Nat) (r : Raw) : Option Rrr := do
  let d ← dReg bd r.d
  let a ← r.a.reg ba
  let c ← r.c.reg bc
  return ⟨r.m, d, a, c⟩

/-- The fields of that form. -/
def Rrr.encGGG (u : Bool) (op : Nat) (x : Rrr) : Raw :=
  ⟨x.m, u, op, x.d, .code x.a, .code x.c, none⟩

/-- PGASSIGN (R283). -/
def Raw.decPGA (r : Raw) : Option PgaI := do
  let d ← dReg 64 r.d
  let a ← r.a.reg 64
  let c ← r.c.reg 64
  let k ← PgaCtl.dec r.ctl
  return ⟨r.m, d, a, c, k⟩

/-- The fields of that form. -/
def PgaI.encPGA (u : Bool) (op : Nat) (x : PgaI) : Raw :=
  ⟨x.m, u, op, x.d, .code x.a, .code x.c, some x.ctl.enc⟩

/-- FREEZE (R279). -/
def Raw.decGGA (r : Raw) : Option RrOp := do
  let d ← dReg 64 r.d
  let a ← r.a.reg 64
  let c ← r.c.uSrc
  return ⟨r.m, d, a, c⟩

/-- The fields of that form. -/
def RrOp.encGGA (u : Bool) (op : Nat) (x : RrOp) : Raw :=
  ⟨x.m, u, op, x.d, .code x.a, x.c.toU, none⟩

/-- TLBI (R286): the kind is in C, and kind 0 has no operand. -/
def Raw.decTLBI (r : Raw) : Option Instr := do
  dUnused r.d
  let k ← r.c.reg 3
  if k = 0 then
    r.a.unused
    return .tlbiAll ⟨r.m⟩
  else
    let a ← r.a.uSrc
    if k = 1 then return .tlbiPage ⟨r.m, a⟩ else return .tlbiSpace ⟨r.m, a⟩

/-- PARTCTL (R289): the subfunction is in its control word. -/
def Raw.decPART (r : Raw) : Option Instr := do
  let d ← dReg 63 r.d
  let a ← r.a.reg 64
  let c ← r.c.reg 64
  let k ← r.ctl
  match k.toNat with
  | 0 => return .partctlQuiesce ⟨r.m, d, a, c⟩
  | 1 => return .partctlWriteilv ⟨r.m, d, a, c⟩
  | 2 => return .partctlWritebnd ⟨r.m, d, a, c⟩
  | 3 => return .partctlShoot ⟨r.m, d, a, c⟩
  | 4 => return .partctlResume ⟨r.m, d, a, c⟩
  | _ => none

/-- The instruction of vector-class fields (Table 6 of ch08). -/
def Raw.toV (r : Raw) : Option Instr :=
  match r.op with
  | 0 => (r.decV3).map .iadd
  | 1 => (r.decV3).map .isub
  | 2 => (r.decV3).map .imul
  | 3 => (r.decV3).map .imulh
  | 4 => (r.decV3).map .imad
  | 5 => (r.decV3).map .imin
  | 6 => (r.decV3).map .imax
  | 7 => (r.decV2).map .iabs
  | 8 => (r.decV2).map .ineg
  | 9 => (r.decV3).map .andV
  | 10 => (r.decV3).map .orV
  | 11 => (r.decV3).map .xorV
  | 12 => (r.decV3).map .andn
  | 13 => (r.decV2).map .notV
  | 14 => (r.decV3).map .shl
  | 15 => (r.decV3).map .shr
  | 16 => (r.decV3).map .sar
  | 17 => (r.decV3).map .rotl
  | 18 => (r.decV3).map .bfx
  | 19 => (r.decV3).map .bfi
  | 20 => (r.decV2).map .popc
  | 21 => (r.decV2).map .clz
  | 22 => (r.decV2).map .ctz
  | 23 => (r.decV2).map .brev
  | 24 => (r.decV3).map .idp4
  | 25 => (r.decV3).map .idiv
  | 26 => (r.decV3).map .irem
  | 27 => (r.decV2).map .mov
  | 28 => (r.decV3).map .sel
  | 29 => (r.decVCMP 8).map .icmp
  | 30 => (r.decV3).map .mulw
  | 31 => (r.decV3).map .prmt
  | 32 => (r.decV3).map .fadd
  | 33 => (r.decV3).map .fsub
  | 34 => (r.decV3).map .fmul
  | 35 => (r.decV3).map .ffma
  | 36 => (r.decV3).map .fmin
  | 37 => (r.decV3).map .fmax
  | 38 => (r.decV2).map .fabs
  | 39 => (r.decV2).map .fneg
  | 40 => (r.decVCMP 13).map .fcmp
  | 41 => (r.decV2).map .frcp
  | 42 => (r.decV2).map .frsq
  | 43 => (r.decV2).map .fsqrt
  | 44 => (r.decV2).map .fexp2
  | 45 => (r.decV2).map .flog2
  | 46 => (r.decV2).map .fsin
  | 47 => (r.decV2).map .fcos
  | 48 => (r.decV3).map .fdiv
  | 49 => (r.decV2).map .frnd
  | 50 => (r.decV2).map .fclass
  | 51 => (r.decV3).map .fdot2
  | 52 => (r.decVCODE cvtCodeOk).map .cvt
  | 53 => (r.decV3).map .cvtpk
  | 54 => (r.decVCODE n8CodeOk).map .cvtn8
  | 55 => (r.decV2).map .cvtn4
  | 56 => (r.decVA3).map .cvtw
  | 57 => (r.decVRR).map .pack6
  | 58 => (r.decVRR).map .unpk6
  | 59 => (r.decVCODE mxCodeOk).map .mxsc
  | 60 => (r.decVRR).map .cmpr24
  | 61 => (r.decVA1).map .srseed
  | 64 => (r.decV3).map .shfl
  | 65 => (r.decV3).map .shflx
  | 66 => (r.decV3).map .shflup
  | 67 => (r.decV3).map .shfldn
  | 68 => (r.decV2).map .redadd
  | 69 => (r.decV2).map .redmin
  | 70 => (r.decV2).map .redmax
  | 71 => (r.decV2).map .redand
  | 72 => (r.decV2).map .redor
  | 73 => (r.decV2).map .redxor
  | 74 => (r.decV2).map .minidx
  | 75 => (r.decV2).map .maxidx
  | 76 => (r.decV2).map .scanadd
  | 77 => (r.decV2).map .matchV
  | 80 => (r.decVLD false).map .ld
  | 81 => (r.decVST false).map .st
  | 82 => (r.decVLDL).map .ldl
  | 83 => (r.decVSTL).map .stl
  | 84 => (r.decVLDL4).map .ldl4
  | 85 => (r.decVSTL4).map .stl4
  | 86 => (r.decVG).map .gld
  | 87 => (r.decVG).map .gst
  | 88 => (r.decVLD true).map .ldacq
  | 89 => (r.decVST true).map .strel
  | 90 => (r.decVST false).map .stnt
  | 91 => (r.decVADR1).map .pref
  | 92 => (r.decVATOM AtomCtl.ok).map .atomv
  | 93 => (r.decVRED).map .redv
  | 94 => (r.decV2).map .acrd
  | 95 => (r.decVAC).map .acwr
  | 96 => (r.decPPP).map .pand
  | 97 => (r.decPPP).map .por
  | 98 => (r.decPPP).map .pxor
  | 99 => (r.decPPP).map .pandn
  | 100 => (r.decPSET).map .pset
  | 101 => (r.decPGET).map .pget
  | 102 => (r.decCPY).map .cpy
  | 103 => (r.decPUB).map .publish
  | 104 => (r.decMMA).map .mma
  | _ => none

/-- The instruction of uniform-class fields (Table 7 of ch08). -/
def Raw.toU (r : Raw) : Option Instr :=
  match r.op with
  | 0 => (r.decU3).map .iaddU
  | 1 => (r.decU3).map .isubU
  | 2 => (r.decU3).map .imulU
  | 3 => (r.decU3).map .imulhU
  | 4 => (r.decU3).map .imadU
  | 5 => (r.decU3).map .iminU
  | 6 => (r.decU3).map .imaxU
  | 7 => (r.decU2).map .iabsU
  | 8 => (r.decU2).map .inegU
  | 9 => (r.decU3).map .andU
  | 10 => (r.decU3).map .orU
  | 11 => (r.decU3).map .xorU
  | 12 => (r.decU3).map .andnU
  | 13 => (r.decU2).map .notU
  | 14 => (r.decU3).map .shlU
  | 15 => (r.decU3).map .shrU
  | 16 => (r.decU3).map .sarU
  | 17 => (r.decU3).map .rotlU
  | 18 => (r.decU3).map .bfxU
  | 19 => (r.decU3).map .bfiU
  | 20 => (r.decU2).map .popcU
  | 21 => (r.decU2).map .clzU
  | 22 => (r.decU2).map .ctzU
  | 23 => (r.decU2).map .brevU
  | 27 => (r.decU2).map .movU
  | 29 => (r.decUCMP 8).map .icmpU
  | 32 => (r.decBRA).map .bra
  | 33 => (r.decBRQ).map .brq
  | 34 => (r.decBRV).map .brv
  | 35 => (r.decUG1).map .jmpi
  | 36 => (r.decCALL).map .call
  | 37 => (r.decGG).map .calli
  | 38 => (r.decUG1).map .ret
  | 39 => (r.decU0).map .exit
  | 40 => (r.decU0).map .join
  | 41 => (r.decU0).map .yield
  | 42 => (r.decUA1).map .trap
  | 43 => (r.decUA1).map .bkpt
  | 44 => (r.decSPAWN).map .spawn
  | 45 => (r.decRDL).map .readlane
  | 46 => (r.decVOTE).map .vote
  | 47 => (r.decBALLOT).map .ballot
  | 48 => (r.decUA1).map .setmode
  | 49 => (r.decUD1).map .getmode
  | 50 => (r.decUACODE (fun n => decide (n < 8))).map .modef
  | 51 => (r.decUACODE (fun n => decide (n < 8))).map .waitc
  | 52 => (r.decUD1).map .mfence
  | 53 => (r.decUA1).map .mwait
  | 54 => (r.decUCODE scopeOk).map .fence
  | 55 => (r.decUCODE scopeOk).map .ntdrain
  | 56 => (r.decUDCODE barCodeOk).map .bararr
  | 57 => (r.decUACODE barCodeOk).map .barwait
  | 58 => (r.decUCODE barCodeOk).map .barsync
  | 59 => (r.decUDCODE barCodeOk).map .bardef
  | 60 => (r.decUATOM AtomCtl.okCtr).map .ctradd
  | 61 => (r.decCTRWAIT).map .ctrwait
  | 62 => (r.decUDCODE srAssigned).map .sread
  | 63 => (r.decUACODE srAssigned).map .swrite
  | 64 => (r.decULD false).map .ldu
  | 65 => (r.decUST false).map .stu
  | 66 => (r.decUATOM AtomCtl.ok).map .atom
  | 67 => (r.decURED).map .redu
  | 68 => (r.decULD true).map .lduacq
  | 69 => (r.decUST true).map .sturel
  | 80 => (r.decMMAG).map .mmag
  | 81 => (r.decUAC).map .msetaux
  | 82 => (r.decUAC).map .aczero
  | 83 => (r.decUAC).map .accpy
  | 84 => (r.decSLOT).map .cbdrain
  | 85 => (r.decSLOTA).map .cbsave
  | 86 => (r.decSLOTAC).map .cbload
  | 87 => (r.decUAC).map .cbmerge
  | 88 => (r.decSLOT).map .cbclr
  | 89 => (r.decUAG).map .cbdrainw
  | 96 => (r.decTUP 64 false).map .tdep
  | 97 => (r.decTUP 60 true).map .tcopy
  | 98 => (r.decTUP 60 true).map .ttake
  | 99 => (r.decTCAN).map .tcancel
  | 104 => (r.decGG).map .ecreate
  | 105 => (r.decGGG 64 64 64).map .eenter
  | 106 => (r.decU0).map .eexit
  | 107 => (r.decGG).map .edestroy
  | 108 => (r.decPGA).map .pgassign
  | 109 => (r.decGGG 64 63 64).map .pgseal
  | 110 => (r.decGGG 64 64 64).map .pgunseal
  | 111 => (r.decGGG 63 64 63).map .ctxseal
  | 112 => (r.decGGG 64 64 64).map .ctxcommit
  | 113 => (r.decGGG 64 64 64).map .ctxload
  | 114 => r.decTLBI
  | 115 => (r.decU0).map .syscall
  | 116 => (r.decU0).map .hvcall
  | 117 => (r.decU0).map .eret
  | 118 => (r.decU0).map .wfi
  | 119 => (r.decU2).map .corerst
  | 120 => r.decPART
  | 121 => (r.decGGA).map .freeze
  | 122 => (r.decGG).map .ctxabort
  | _ => none

/-- The instruction of the fields. -/
def Raw.toInstr (r : Raw) : Option Instr := if r.u then r.toU else r.toV

/-- Decode the Amitia instruction at the head of the words: the instruction and the words after it. -/
def decode (ws : List W32) : Except DecodeError (Instr × List W32) :=
  match parse ws with
  | .error e => .error e
  | .ok (r, rest) =>
    match r.toInstr with
    | some i => .ok (i, rest)
    | none => .error .opnd

/-- The fields of an Amitia instruction; the sketch operations and the steps of hardware have none. -/
def Instr.toRaw : Instr → Option Raw
  | .iadd x => some (x.encV3 false 0)
  | .isub x => some (x.encV3 false 1)
  | .imul x => some (x.encV3 false 2)
  | .imulh x => some (x.encV3 false 3)
  | .imad x => some (x.encV3 false 4)
  | .imin x => some (x.encV3 false 5)
  | .imax x => some (x.encV3 false 6)
  | .iabs x => some (x.encV2 false 7)
  | .ineg x => some (x.encV2 false 8)
  | .andV x => some (x.encV3 false 9)
  | .orV x => some (x.encV3 false 10)
  | .xorV x => some (x.encV3 false 11)
  | .andn x => some (x.encV3 false 12)
  | .notV x => some (x.encV2 false 13)
  | .shl x => some (x.encV3 false 14)
  | .shr x => some (x.encV3 false 15)
  | .sar x => some (x.encV3 false 16)
  | .rotl x => some (x.encV3 false 17)
  | .bfx x => some (x.encV3 false 18)
  | .bfi x => some (x.encV3 false 19)
  | .popc x => some (x.encV2 false 20)
  | .clz x => some (x.encV2 false 21)
  | .ctz x => some (x.encV2 false 22)
  | .brev x => some (x.encV2 false 23)
  | .idp4 x => some (x.encV3 false 24)
  | .idiv x => some (x.encV3 false 25)
  | .irem x => some (x.encV3 false 26)
  | .mov x => some (x.encV2 false 27)
  | .sel x => some (x.encV3 false 28)
  | .icmp x => some (x.encVCMP false 29)
  | .mulw x => some (x.encV3 false 30)
  | .prmt x => some (x.encV3 false 31)
  | .iaddU x => some (x.encU3 true 0)
  | .isubU x => some (x.encU3 true 1)
  | .imulU x => some (x.encU3 true 2)
  | .imulhU x => some (x.encU3 true 3)
  | .imadU x => some (x.encU3 true 4)
  | .iminU x => some (x.encU3 true 5)
  | .imaxU x => some (x.encU3 true 6)
  | .iabsU x => some (x.encU2 true 7)
  | .inegU x => some (x.encU2 true 8)
  | .andU x => some (x.encU3 true 9)
  | .orU x => some (x.encU3 true 10)
  | .xorU x => some (x.encU3 true 11)
  | .andnU x => some (x.encU3 true 12)
  | .notU x => some (x.encU2 true 13)
  | .shlU x => some (x.encU3 true 14)
  | .shrU x => some (x.encU3 true 15)
  | .sarU x => some (x.encU3 true 16)
  | .rotlU x => some (x.encU3 true 17)
  | .bfxU x => some (x.encU3 true 18)
  | .bfiU x => some (x.encU3 true 19)
  | .popcU x => some (x.encU2 true 20)
  | .clzU x => some (x.encU2 true 21)
  | .ctzU x => some (x.encU2 true 22)
  | .brevU x => some (x.encU2 true 23)
  | .movU x => some (x.encU2 true 27)
  | .icmpU x => some (x.encUCMP true 29)
  | .fadd x => some (x.encV3 false 32)
  | .fsub x => some (x.encV3 false 33)
  | .fmul x => some (x.encV3 false 34)
  | .ffma x => some (x.encV3 false 35)
  | .fmin x => some (x.encV3 false 36)
  | .fmax x => some (x.encV3 false 37)
  | .fabs x => some (x.encV2 false 38)
  | .fneg x => some (x.encV2 false 39)
  | .fcmp x => some (x.encVCMP false 40)
  | .frcp x => some (x.encV2 false 41)
  | .frsq x => some (x.encV2 false 42)
  | .fsqrt x => some (x.encV2 false 43)
  | .fexp2 x => some (x.encV2 false 44)
  | .flog2 x => some (x.encV2 false 45)
  | .fsin x => some (x.encV2 false 46)
  | .fcos x => some (x.encV2 false 47)
  | .fdiv x => some (x.encV3 false 48)
  | .frnd x => some (x.encV2 false 49)
  | .fclass x => some (x.encV2 false 50)
  | .fdot2 x => some (x.encV3 false 51)
  | .cvt x => some (x.encVCODE false 52)
  | .cvtpk x => some (x.encV3 false 53)
  | .cvtn8 x => some (x.encVCODE false 54)
  | .cvtn4 x => some (x.encV2 false 55)
  | .cvtw x => some (x.encV3 false 56)
  | .pack6 x => some (x.encVRR false 57)
  | .unpk6 x => some (x.encVRR false 58)
  | .mxsc x => some (x.encVCODE false 59)
  | .cmpr24 x => some (x.encVRR false 60)
  | .srseed x => some (x.encVA1 false 61)
  | .shfl x => some (x.encV3 false 64)
  | .shflx x => some (x.encV3 false 65)
  | .shflup x => some (x.encV3 false 66)
  | .shfldn x => some (x.encV3 false 67)
  | .redadd x => some (x.encV2 false 68)
  | .redmin x => some (x.encV2 false 69)
  | .redmax x => some (x.encV2 false 70)
  | .redand x => some (x.encV2 false 71)
  | .redor x => some (x.encV2 false 72)
  | .redxor x => some (x.encV2 false 73)
  | .minidx x => some (x.encV2 false 74)
  | .maxidx x => some (x.encV2 false 75)
  | .scanadd x => some (x.encV2 false 76)
  | .matchV x => some (x.encV2 false 77)
  | .ld x => some (x.encVLD false 80)
  | .st x => some (x.encVST false 81)
  | .ldl x => some (x.encVLDL false 82)
  | .stl x => some (x.encVSTL false 83)
  | .ldl4 x => some (x.encVLDL4 false 84)
  | .stl4 x => some (x.encVSTL4 false 85)
  | .gld x => some (x.encVG false 86)
  | .gst x => some (x.encVG false 87)
  | .ldacq x => some (x.encVLD false 88)
  | .strel x => some (x.encVST false 89)
  | .stnt x => some (x.encVST false 90)
  | .pref x => some (x.encVADR1 false 91)
  | .atomv x => some (x.encVATOM false 92)
  | .redv x => some (x.encVRED false 93)
  | .acrd x => some (x.encV2 false 94)
  | .acwr x => some (x.encVAC false 95)
  | .pand x => some (x.encPPP false 96)
  | .por x => some (x.encPPP false 97)
  | .pxor x => some (x.encPPP false 98)
  | .pandn x => some (x.encPPP false 99)
  | .pset x => some (x.encPSET false 100)
  | .pget x => some (x.encPGET false 101)
  | .cpy x => some (x.encCPY false 102)
  | .publish x => some (x.encPUB false 103)
  | .mma x => some (x.encMMA false 104)
  | .bra x => some (x.encBRA true 32)
  | .brq x => some (x.encBRQ true 33)
  | .brv x => some (x.encBRV true 34)
  | .jmpi x => some (x.encUG1 true 35)
  | .call x => some (x.encCALL true 36)
  | .calli x => some (x.encGG true 37)
  | .ret x => some (x.encUG1 true 38)
  | .exit x => some (x.encU0 true 39)
  | .join x => some (x.encU0 true 40)
  | .yield x => some (x.encU0 true 41)
  | .trap x => some (x.encUA1 true 42)
  | .bkpt x => some (x.encUA1 true 43)
  | .spawn x => some (x.encSPAWN true 44)
  | .readlane x => some (x.encRDL true 45)
  | .vote x => some (x.encVOTE true 46)
  | .ballot x => some (x.encBALLOT true 47)
  | .setmode x => some (x.encUA1 true 48)
  | .getmode x => some (x.encUD1 true 49)
  | .modef x => some (x.encUACODE true 50)
  | .waitc x => some (x.encUACODE true 51)
  | .mfence x => some (x.encUD1 true 52)
  | .mwait x => some (x.encUA1 true 53)
  | .fence x => some (x.encUCODE true 54)
  | .ntdrain x => some (x.encUCODE true 55)
  | .bararr x => some (x.encUDCODE true 56)
  | .barwait x => some (x.encUACODE true 57)
  | .barsync x => some (x.encUCODE true 58)
  | .bardef x => some (x.encUDCODE true 59)
  | .ctradd x => some (x.encUATOM true 60)
  | .ctrwait x => some (x.encCTRWAIT true 61)
  | .sread x => some (x.encUDCODE true 62)
  | .swrite x => some (x.encUACODE true 63)
  | .ldu x => some (x.encULD true 64)
  | .stu x => some (x.encUST true 65)
  | .atom x => some (x.encUATOM true 66)
  | .redu x => some (x.encURED true 67)
  | .lduacq x => some (x.encULD true 68)
  | .sturel x => some (x.encUST true 69)
  | .mmag x => some (x.encMMAG true 80)
  | .msetaux x => some (x.encUAC true 81)
  | .aczero x => some (x.encUAC true 82)
  | .accpy x => some (x.encUAC true 83)
  | .cbdrain x => some (x.encSLOT true 84)
  | .cbsave x => some (x.encSLOTA true 85)
  | .cbload x => some (x.encSLOTAC true 86)
  | .cbmerge x => some (x.encUAC true 87)
  | .cbclr x => some (x.encSLOT true 88)
  | .cbdrainw x => some (x.encUAG true 89)
  | .tdep x => some (x.encTUP true 96)
  | .tcopy x => some (x.encTUP true 97)
  | .ttake x => some (x.encTUP true 98)
  | .tcancel x => some (x.encTCAN true 99)
  | .ecreate x => some (x.encGG true 104)
  | .eenter x => some (x.encGGG true 105)
  | .eexit x => some (x.encU0 true 106)
  | .edestroy x => some (x.encGG true 107)
  | .pgassign x => some (x.encPGA true 108)
  | .pgseal x => some (x.encGGG true 109)
  | .pgunseal x => some (x.encGGG true 110)
  | .ctxseal x => some (x.encGGG true 111)
  | .ctxcommit x => some (x.encGGG true 112)
  | .ctxload x => some (x.encGGG true 113)
  | .tlbiAll x => some ⟨x.m, true, 114, 112, .code 112, .code 0, none⟩
  | .tlbiPage x => some ⟨x.m, true, 114, 112, x.a.toU, .code 1, none⟩
  | .tlbiSpace x => some ⟨x.m, true, 114, 112, x.a.toU, .code 2, none⟩
  | .syscall x => some (x.encU0 true 115)
  | .hvcall x => some (x.encU0 true 116)
  | .eret x => some (x.encU0 true 117)
  | .wfi x => some (x.encU0 true 118)
  | .corerst x => some (x.encU2 true 119)
  | .partctlQuiesce x => some ⟨x.m, true, 120, x.d, .code x.a, .code x.c, some 0⟩
  | .partctlWriteilv x => some ⟨x.m, true, 120, x.d, .code x.a, .code x.c, some 1⟩
  | .partctlWritebnd x => some ⟨x.m, true, 120, x.d, .code x.a, .code x.c, some 2⟩
  | .partctlShoot x => some ⟨x.m, true, 120, x.d, .code x.a, .code x.c, some 3⟩
  | .partctlResume x => some ⟨x.m, true, 120, x.d, .code x.a, .code x.c, some 4⟩
  | .freeze x => some (x.encGGA true 121)
  | .ctxabort x => some (x.encGG true 122)
  | .sketchNop _ => none
  | .sketchMovi _ => none
  | .sketchAdd _ => none
  | .sketchSub _ => none
  | .sketchAnd _ => none
  | .sketchOr _ => none
  | .sketchShl _ => none
  | .sketchShr _ => none
  | .sketchMask _ => none
  | .sketchCmp _ => none
  | .sketchSel _ => none
  | .sketchBeq _ => none
  | .sketchBne _ => none
  | .sketchLoop _ => none
  | .sketchEndl _ => none
  | .sketchLdq _ => none
  | .sketchLdreg _ => none
  | .sketchStreg _ => none
  | .sketchLaunch _ => none
  | .sketchSignal _ => none
  | .sketchWait _ => none
  | .sketchIrq _ => none
  | .sketchDone _ => none
  | .sketchDrop _ => none
  | .sketchFault _ => none
  | .fixedLatencyWriteback _ => none
  | .variableLatencyResult _ _ => none
  | .runStart _ => none
  | .runEndMerge _ _ => none
  | .groupExit _ => none
  | .teamResourceFree _ => none
  | .teamPlacement _ => none
  | .taskComplete _ => none
  | .spawnAccept _ _ => none
  | .progressSwap _ => none
  | .syncEngineLineReturn _ => none
  | .atomicPerformed _ _ => none
  | .storePerformed _ _ => none
  | .fbreplayRetry _ _ => none
  | .fbreplayAbandon _ _ => none
  | .copyUnitTransfer _ => none
  | .sourceReleased _ => none
  | .landed _ => none
  | .published _ => none
  | .deferredArrival _ => none
  | .publishPoint _ => none
  | .publishComplete _ => none
  | .barrierPhaseComplete _ => none
  | .ctrwaitWake _ _ => none
  | .operationAcceptance _ => none
  | .matrixPass _ => none
  | .batchComplete _ => none
  | .tdepServe _ => none
  | .tcopyServe _ => none
  | .ttakeServe _ => none
  | .tcancelServe _ => none
  | .skidEnd _ => none
  | .cxvacClaim _ _ => none
  | .cxvacRelease _ => none
  | .claimComplete _ => none
  | .kick _ _ => none
  | .qctlEnable _ _ => none
  | .qctlSkip _ _ => none
  | .easelAssign _ => none
  | .launchCommit _ => none
  | .queueWaitWake _ => none
  | .rcmdWrite _ _ => none
  | .rcmdInval _ _ => none
  | .skcmdLoad _ _ => none
  | .skcmdUnload _ _ => none
  | .scrub _ => none
  | .trapEntry _ _ => none
  | .wfiWake _ => none
  | .vectorDelivery _ => none
  | .vfEnable _ => none
  | .vfDisable _ => none
  | .vfFlr _ => none
  | .flrComplete _ => none
  | .vfHarvest _ => none
  | .vfqcmdExport _ _ => none
  | .vfqcmdImport _ _ => none
  | .partitionReset _ => none
  | .prcfgWrite _ _ => none
  | .lendreqWrite _ _ _ => none
  | .lendReclaim _ _ => none
  | .lendThermalReclaim _ _ => none
  | .refresh _ _ => none
  | .throttleRelease _ _ => none
  | .patrol _ _ => none
  | .keySwitch _ _ => none
  | .linkRetransmit _ _ => none
  | .uncorrectableControlError _ _ _ => none
  | .dmpcmdStart _ => none
  | .firmwareActivation _ => none
  | .getVersion _ => none
  | .getCapabilities _ => none
  | .negotiateAlgorithms _ => none
  | .getDigests _ => none
  | .getCertificate _ => none
  | .challenge _ => none
  | .getMeasurements _ => none
  | .keyExchange _ => none
  | .finish _ => none
  | .heartbeat _ => none
  | .keyUpdate _ => none
  | .endSession _ => none
  | .getEnclaveEvidence _ => none
  | .podForm _ => none
  | .getPodPath _ => none
  | .trctlEnable _ _ => none
  | .chunkFlush _ => none
  | .lossMark _ => none
  | .stallSample _ => none
  | .stepon _ => none
  | .stepoff _ => none
  | .goStep _ => none
  | .powerOn => none
  | .limitStep _ => none
  | .thermalStep _ _ => none
  | .thermalTrip => none
  | .pgateGate _ => none
  | .pgateUngate _ => none
  | .registerWrite _ _ _ => none
  | .undefOpcode _ => none
  | .inboundDeviceAccess _ => none
  | .tdispRequest _ => none
  | .ideKmRequest _ => none
  | .completionTimeout _ => none
  | .modulePowerOff => none
  | .threadStart _ _ _ => none
  | .firmwareStaging _ => none
  | .pclkCapWrite _ _ => none

/-- A field's code in the base word. -/
def Fld.base : Fld → Nat
  | .code n => n
  | .lit32 _ => 124
  | .lit64 _ => 125

/-- A field's trailer words (R149), low word first. -/
def Fld.trailer : Fld → List W32
  | .code _ => []
  | .lit32 x => [x]
  | .lit64 x => [lowWord x, highWord x]

/-- The base word (R148). -/
def Raw.baseWord (r : Raw) : W32 :=
  BitVec.ofNat 32 (2 ^ 31 * b01 r.m.b + 2 ^ 30 * b01 r.m.w + 2 ^ 29 * b01 r.m.s + 2 ^ 28 * b01 r.u + 2 ^ 21 * r.op
    + 2 ^ 14 * r.d + 2 ^ 7 * r.a.base + r.c.base)

/-- The words of the fields: base word, control word, literal of A, literal of C (R149). -/
def Raw.words (r : Raw) : List W32 := r.baseWord :: (r.ctl.toList ++ r.a.trailer ++ r.c.trailer)

/-- The number of words of an instruction (R149); the steps of hardware have none. -/
def Instr.length (i : Instr) : Nat :=
  match i.toRaw with
  | some r => r.words.length
  | none => 0

/-- A sketch word as fields (R338). -/
def sketchFields (w : W32) : SkWord := ⟨fieldOf w.toNat 20 4, fieldOf w.toNat 16 4, fieldOf w.toNat 0 16⟩

/-- The sketch operation of an opcode (Table 4 of ch19). -/
def sketchOp (op : Nat) (x : SkWord) : Option Instr :=
  match op with
  | 0 => some (.sketchNop x)
  | 1 => some (.sketchMovi x)
  | 2 => some (.sketchAdd x)
  | 3 => some (.sketchSub x)
  | 4 => some (.sketchAnd x)
  | 5 => some (.sketchOr x)
  | 6 => some (.sketchShl x)
  | 7 => some (.sketchShr x)
  | 8 => some (.sketchMask x)
  | 9 => some (.sketchCmp x)
  | 10 => some (.sketchSel x)
  | 11 => some (.sketchBeq x)
  | 12 => some (.sketchBne x)
  | 13 => some (.sketchLoop x)
  | 14 => some (.sketchEndl x)
  | 15 => some (.sketchLdq x)
  | 16 => some (.sketchLdreg x)
  | 17 => some (.sketchStreg x)
  | 18 => some (.sketchLaunch x)
  | 19 => some (.sketchSignal x)
  | 20 => some (.sketchWait x)
  | 21 => some (.sketchIrq x)
  | 22 => some (.sketchDone x)
  | 23 => some (.sketchDrop x)
  | 24 => some (.sketchFault x)
  | _ => none

/-- Decode one sketch word: opcodes 0x19 to 0xFF and unused fields that are not zero are rejected (R338, R346). -/
def decodeSketch (w : W32) : Option Instr :=
  match sketchOp (fieldOf w.toNat 24 8) (sketchFields w) with
  | some i => if i.wf then some i else none
  | none => none

/-- A sketch operation's opcode and fields. -/
def Instr.toSketch : Instr → Option (Nat × SkWord)
  | .sketchNop x => some (0, x)
  | .sketchMovi x => some (1, x)
  | .sketchAdd x => some (2, x)
  | .sketchSub x => some (3, x)
  | .sketchAnd x => some (4, x)
  | .sketchOr x => some (5, x)
  | .sketchShl x => some (6, x)
  | .sketchShr x => some (7, x)
  | .sketchMask x => some (8, x)
  | .sketchCmp x => some (9, x)
  | .sketchSel x => some (10, x)
  | .sketchBeq x => some (11, x)
  | .sketchBne x => some (12, x)
  | .sketchLoop x => some (13, x)
  | .sketchEndl x => some (14, x)
  | .sketchLdq x => some (15, x)
  | .sketchLdreg x => some (16, x)
  | .sketchStreg x => some (17, x)
  | .sketchLaunch x => some (18, x)
  | .sketchSignal x => some (19, x)
  | .sketchWait x => some (20, x)
  | .sketchIrq x => some (21, x)
  | .sketchDone x => some (22, x)
  | .sketchDrop x => some (23, x)
  | .sketchFault x => some (24, x)
  | _ => none

/-- The word of a sketch operation (R338). -/
def sketchWord (op : Nat) (x : SkWord) : W32 := BitVec.ofNat 32 (2 ^ 24 * op + 2 ^ 20 * x.a + 2 ^ 16 * x.b + x.imm)

/-- The words of an instruction: Amitia words, one sketch word, or none for a step of hardware. -/
def encode (i : Instr) : List W32 :=
  match i.toRaw with
  | some r => r.words
  | none =>
    match i.toSketch with
    | some (op, x) => [sketchWord op x]
    | none => []

/-- Word `k` of an instruction held as one number, bit 0 the least significant of the first word. -/
def tableWord (w k : Nat) : W32 := BitVec.ofNat 32 (w / 2 ^ (32 * k))

/-- The instruction of an opcode-table word: Amitia first, and the sketch decoder where the Amitia decoder refuses
(the two maps share words: the table's rows do not say which decoder reads them). Words above `nbits` are zero.
[DEDUCED, log entry 99] -/
def decodeTableWord (nbits w : Nat) : Option Instr :=
  let v := w % 2 ^ nbits
  match decode [tableWord v 0, tableWord v 1, tableWord v 2, tableWord v 3] with
  | .ok (i, _) => some i
  | .error _ => decodeSketch (tableWord v 0)

end Sys2Proof
end

