-- ==== Sys2Proof/Machine/Bits.lean ====
section
/-! DEFINITION. Bits.lean: bit fields, sign extension, byte order (R3) and lane masks (R7). -/

namespace Sys2Proof.Machine

/-- `x mod 2^n`. -/
def wrapNat (n x : Nat) : Nat := x % 2 ^ n

/-- The two's complement code of an integer at width `n`. -/
def wrapInt (n : Nat) (x : Int) : Nat := (x % (2 ^ n : Nat)).toNat

/-- A code of width `n` read as a signed number. -/
def signedOf (n x : Nat) : Int := if 2 ^ (n - 1) ≤ x % 2 ^ n then (x % 2 ^ n : Nat) - (2 ^ n : Nat) else (x % 2 ^ n : Nat)

/-- A code of width `n` read by a signedness. -/
def readInt (signed : Bool) (n x : Nat) : Int := if signed then signedOf n x else (x % 2 ^ n : Nat)

/-- Sign extension of a code of width `n` to 64 bits. -/
def sext64 (n x : Nat) : W64 := BitVec.ofInt 64 (signedOf n x)

/-- Zero extension of a code of width `n` to 64 bits. -/
def zext64 (n x : Nat) : W64 := BitVec.ofNat 64 (x % 2 ^ n)

/-- Sign or zero extension of a LIT32 to 64 bits. -/
def extLit (signed : Bool) (x : W32) : W64 := if signed then x.signExtend 64 else x.setWidth 64

/-- Bit `l` of a lane mask. -/
def hasLane (mask : W32) (l : Nat) : Bool := mask.getLsbD l

/-- The lanes 0 to 31 in ascending order. -/
def allLanes : List Nat := List.range 32

/-- The lanes of a mask, ascending (R6). -/
def lanesOf (mask : W32) : List Nat := allLanes.filter (hasLane mask)

/-- The mask of the lanes that satisfy a test. -/
def maskWhere (p : Nat → Bool) : W32 := BitVec.ofNat 32 (allLanes.foldl (fun n l => if p l then n + 2 ^ l else n) 0)

/-- The mask of one lane. -/
def laneBit (l : Nat) : W32 := 1#32 <<< l

/-- The lowest lane of a mask. -/
def lowestLane (mask : W32) : Option Nat := (lanesOf mask).head?

/-- The highest lane of a mask. -/
def highestLane (mask : W32) : Option Nat := (lanesOf mask).getLast?

/-- Little-endian bytes of a number (R3). -/
def leBytes : Nat → Nat → List Byte
  | 0, _ => []
  | n + 1, x => BitVec.ofNat 8 x :: leBytes n (x / 256)

/-- The number of little-endian bytes (R3). -/
def leNat : List Byte → Nat
  | [] => 0
  | b :: r => b.toNat + 256 * leNat r

/-- The least multiple of `n` that is at or above `x`. -/
def alignUp (n x : Nat) : Nat := (x + n - 1) / n * n

/-- Whether `x` is a multiple of `n`. -/
def aligned (n x : Nat) : Bool := x % n == 0

/-- ⌈a / b⌉. -/
def ceilDiv (a b : Nat) : Nat := (a + b - 1) / b

/-- The least number of a list, if it has one. -/
def minOf : List Nat → Option Nat
  | [] => none
  | x :: r => match minOf r with
    | none => some x
    | some y => some (if x ≤ y then x else y)

/-- The set bits of `x` below `n`. -/
def popcount : Nat → Nat → Nat
  | 0, _ => 0
  | n + 1, x => x % 2 + popcount n (x / 2)

/-- The length of `x` in bits, at most `n`: the least k with x < 2^k. -/
def bitLen : Nat → Nat → Nat
  | 0, _ => 0
  | n + 1, x => if x = 0 then 0 else 1 + bitLen n (x / 2)

/-- Trailing zeros of `x` at width `n` (`n` for 0). -/
def trailZeros : Nat → Nat → Nat
  | 0, _ => 0
  | n + 1, x => if x % 2 = 1 then 0 else 1 + trailZeros n (x / 2)

/-- The bits of `x` at width `n` in reverse order. -/
def revBits : Nat → Nat → Nat
  | 0, _ => 0
  | n + 1, x => x % 2 * 2 ^ n + revBits n (x / 2)

/-- ⌊√x⌋ for x < 4^(k+1), one binary digit at a time from digit `k`. -/
def isqrtFrom : Nat → Nat → Nat → Nat
  | 0, r, x => if (r + 1) * (r + 1) ≤ x then r + 1 else r
  | k + 1, r, x => isqrtFrom k (if (r + 2 ^ (k + 1)) * (r + 2 ^ (k + 1)) ≤ x then r + 2 ^ (k + 1) else r) x

/-- ⌊√x⌋. -/
def isqrt (x : Nat) : Nat := isqrtFrom (Nat.log2 x / 2) 0 x

end Sys2Proof.Machine
end

