-- ==== Sys2Proof/Machine/Table.lean ====
section
/-! DEFINITION. Table.lean: finite maps as lists of pairs, keys rising. A *total* map lists no entry equal to its default,
so equal maps are equal data. -/

namespace Sys2Proof.Machine

/-- A finite map: key and value pairs with strictly rising keys. -/
abbrev Table (α : Type) := List (Nat × α)

namespace Tbl

/-- The entry of a key, if there is one. -/
def get? {α : Type} : Table α → Nat → Option α
  | [], _ => none
  | (k, v) :: r, n => if k = n then some v else get? r n

/-- The entry of a key, or a default. -/
def getD {α : Type} (t : Table α) (n : Nat) (d : α) : α := (get? t n).getD d

/-- The map with a key's entry removed. -/
def del {α : Type} : Table α → Nat → Table α
  | [], _ => []
  | (k, v) :: r, n => if k = n then del r n else (k, v) :: del r n

/-- The map with a key and value put before the first greater key. -/
def ins {α : Type} : Table α → Nat → α → Table α
  | [], n, x => [(n, x)]
  | (k, v) :: r, n, x => if n < k then (n, x) :: (k, v) :: r else (k, v) :: ins r n x

/-- The map with a key's entry set. -/
def put {α : Type} (t : Table α) (n : Nat) (x : α) : Table α := ins (del t n) n x

/-- A total map's value: the default where nothing is listed. -/
def fget {α : Type} (d : α) (t : Table α) (n : Nat) : α := (get? t n).getD d

/-- A total map with one value changed; the default is not listed. -/
def fset {α : Type} [DecidableEq α] (d : α) (t : Table α) (n : Nat) (x : α) : Table α :=
  if x = d then del t n else put t n x

/-- The keys in order. -/
def keys {α : Type} (t : Table α) : List Nat := t.map Prod.fst

/-- The values in key order. -/
def vals {α : Type} (t : Table α) : List α := t.map Prod.snd

/-- Change a key's entry if there is one. -/
def mod {α : Type} (t : Table α) (n : Nat) (f : α → α) : Table α :=
  t.map fun (k, v) => if k = n then (k, f v) else (k, v)

/-- The least number that is no key, from `n`, within `fuel` tries. -/
def free {α : Type} (t : Table α) : Nat → Nat → Nat
  | 0, n => n
  | f + 1, n => match get? t n with
    | none => n
    | some _ => free t f (n + 1)

/-- A key above every key. -/
def next {α : Type} (t : Table α) : Nat := t.foldl (fun m p => max m (p.1 + 1)) 0

/-- The canonical form: keys strictly rising. -/
def sorted {α : Type} : Table α → Bool
  | [] => true
  | [_] => true
  | (k, _) :: (k', v') :: r => decide (k < k') && sorted ((k', v') :: r)

/-- The canonical form of a total map: keys strictly rising and no default listed. -/
def canon {α : Type} [DecidableEq α] (d : α) (t : Table α) : Bool := sorted t && t.all fun p => !decide (p.2 = d)

end Tbl

end Sys2Proof.Machine
end

