-- ==== Sys2Proof/Machine/State.lean ====
section
/-! DEFINITION. State.lean: everything the manual gives the machine, as plain data. -/

namespace Sys2Proof.Machine

/-- Who issues an instruction: a split of a SIMT group, a control-core hardware thread, an Easel context's packet. -/
inductive Agent where
  | split (gid sp : Nat)
  | thread (t : Nat)
  | easel (queue : Nat)
  deriving DecidableEq, Repr

/-- A step of hardware under way: the event rows of the opcode table that the machine itself brings about, and a write
that has reached a hub register. Each names what it acts on, as the instruction of the same name does. -/
inductive Event where
  | fixedLatencyWriteback (gid : Nat)
  | variableLatencyResult (gid id : Nat)
  | runStart (sched : Nat)
  | runEndMerge (gid sp : Nat)
  | groupExit (gid : Nat)
  | teamResourceFree (team : Nat)
  | teamPlacement (part : Nat)
  | taskComplete (task : Nat)
  | spawnAccept (gid sp : Nat)
  | progressSwap (core : Nat)
  | syncEngineLineReturn (line : Nat)
  | atomicPerformed (gid id : Nat)
  | storePerformed (gid id : Nat)
  | copyUnitTransfer (copy : Nat)
  | sourceReleased (copy : Nat)
  | landed (copy : Nat)
  | published (copy : Nat)
  | deferredArrival (id : Nat)
  | publishPoint (id : Nat)
  | publishComplete (id : Nat)
  | barrierPhaseComplete (bar : Nat)
  | ctrwaitWake (gid sp : Nat)
  | operationAcceptance (id : Nat)
  | matrixPass (engine : Nat)
  | batchComplete (gid : Nat)
  | tdepServe (id : Nat)
  | tcopyServe (id : Nat)
  | ttakeServe (id : Nat)
  | tcancelServe (id : Nat)
  | skidEnd (queue : Nat)
  | claimComplete (queue : Nat)
  | easelAssign (die : Nat)
  | launchCommit (queue : Nat)
  | queueWaitWake (queue : Nat)
  | scrub (page : Nat)
  | trapEntry (thread vector : Nat)
  | wfiWake (thread : Nat)
  | vectorDelivery (vector : Nat)
  | flrComplete (vf : Nat)
  | throttleRelease (stack row : Nat)
  /-- A pair's handshake ends (R400). -/
  | lendDone (stack pair : Nat)
  /-- A partition's dies have power again (R449). -/
  | pgateUngate (part : Nat)
  | partitionReset (part : Nat)
  | limitStep (up : Bool)
  | thermalStep (part : Nat) (up : Bool)
  | thermalTrip
  | lendThermalReclaim (stack pair : Nat)
  | completionTimeout (req : Nat)
  | chunkFlush (sched : Nat)
  | lossMark (sched : Nat)
  | stallSample (sched : Nat)
  | powerOn
  | deviceWrite (addr size value : Nat)
  | dumpEnd
  /-- A thread's request has left a throttle queue (R382). -/
  | rowGrant (thread : Nat)
  /-- A device's request has left a throttle queue (R382). -/
  | inboundAccess (req : InboundReq)
  /-- A request for evidence that waits behind a CTXSEAL, with its place in the order of arrival (R410). -/
  | evidence (ticket : Nat) (req : SpdmReq)
  /-- A pod operation has its members' answers (R411). -/
  | podDone (req : SpdmReq)
  deriving DecidableEq, Repr

/-- Register writes that an instruction makes: `v` by 32 × register + lane, `g`, `p` by register with a lane mask and
values, `q`; the FSTAT flags it raises (bits of Table 8 of ch09); and a whole FSTAT value (SWRITE, R199). -/
structure RegWrites where
  v : List (Nat × W32)
  g : List (Nat × W64)
  p : List (Nat × W32 × W32)
  q : List (Nat × Bool)
  flags : BitVec 5
  fset : Option W64
  /-- Poison that the values carry (R417): register key, and 0 for REG or 1 + the virtual address for MEM. -/
  px : List (Nat × Nat)
  deriving DecidableEq, Repr

/-- A fixed-latency write on its way: it is written at `due` (R158). -/
structure FixedWrite where
  due : Nat
  lanes : W32
  w : RegWrites
  deriving DecidableEq, Repr

/-- One access of one lane (R51): its lane, physical address, bytes, tolerant element width (0 for none), data, and the
local store's team in place of an address space where `team` is given. -/
structure Acc where
  lane : Nat
  team : Option Nat
  va : Nat
  pa : Nat
  n : Nat
  tol : Nat
  data : Nat
  cmp : Nat
  deriving DecidableEq, Repr

/-- What an in-flight instruction does when its event comes. -/
inductive FlightKind where
  /-- A result computed at issue. -/
  | alu
  /-- A load: access size code (R228), or a gather (its sign extension is in the size code). -/
  | load (size : Nat)
  | store
  /-- An atomic: operation, type, whether it returns (R237). -/
  | atom (op type : Nat) (ret : Bool)
  | fence
  /-- A reply written by another engine. -/
  | reply
  /-- The arrival of a group in a phase of a barrier, performed as a release (R74). -/
  | arrive (bar phase : Nat)
  /-- A copy (R79): counted out when it lands. -/
  | copy (id : Nat)
  /-- A SPAWN that its queue has neither accepted nor refused (R277). -/
  | spawn
  deriving DecidableEq, Repr

/-- Lanes of a split that share a last safe point (R293): ordinal, offset, whether they were a parked set, and MODE at that
safe point (R367). -/
structure Piece where
  mask : W32
  ord : Nat
  off : Nat
  wasSet : Bool
  mode : W32
  deriving DecidableEq, Repr

/-- An instruction of a group that has issued and not finished. Registers named as destinations are pending (R159); a
flight on a path counts in that path's in-flight counter until it and every older one of the path is done (R79). -/
structure Flight where
  id : Nat
  sp : Nat
  kind : FlightKind
  lanes : W32
  path : Option Nat
  done : Bool
  dv : List Nat
  dg : List Nat
  dq : List Nat
  w : RegWrites
  acc : List Acc
  acq : Bool
  rel : Bool
  nt : Bool
  scope : Nat
  /-- A load tagged for sampling (R433): its ordinal, offset, TIME of issue and physical address. -/
  tag : Option (Nat × Nat × Nat × Nat)
  /-- The gather unit serves it (R45). -/
  gather : Bool
  /-- An atomic's lanes as they were before its own safe point (R417). -/
  back : List Piece
  deriving DecidableEq, Repr

/-- One level of a launch (R301). -/
structure Level where
  domain : Nat
  bars : Nat
  extent : Nat
  stride : Nat
  deriving DecidableEq, Repr

/-- An entry of a safe-point table (R296). -/
structure SptEntry where
  offset : Nat
  modeLive : Bool
  livev : Nat
  livep : Nat
  liveq : Nat
  liveg : Nat
  deriving DecidableEq, Repr

/-- A launch record as the front end read it (R300). -/
structure LaunchRec where
  code : Nat
  spt : Nat
  spcount : Nat
  vregs : Nat
  gpt : Nat
  localBytes : Nat
  acc : Nat
  prio : Nat
  tbars : Nat
  window : Nat
  sqdepth : Nat
  stepall : Bool
  levels : List Level
  deriving DecidableEq, Repr

/-- A task record as the front end read it (R302). -/
structure TaskRec where
  launchAddr : Nat
  param : Nat
  aff : Nat
  units : Nat
  doneAddr : Nat
  deriving DecidableEq, Repr

/-- A SPAWN whose task its queue has no room for (R277): queue, status register, records as checked. -/
structure SpawnTry where
  sq : Nat
  st : Nat
  trec : TaskRec
  launch : LaunchRec
  spt : List SptEntry
  deriving DecidableEq, Repr

/-- Why a split is parked (R26). An instruction that waits has not issued: `m` and `len` are its marks and length. -/
inductive Park where
  | wmark
  | waitc (path bound : Nat) (m : Marks) (len : Nat)
  /-- MWAIT for a batch: it is passed when the batch has completed (R256). -/
  | mwait (batch : Nat) (m : Marks) (len : Nat)
  /-- A ninth open batch: the MFENCE, of destination `d`, waits to close its batch (R256). -/
  | batchFull (m : Marks) (d : Nat)
  /-- An MMA or MMAG that the tile fetch unit has not accepted yet (R351). -/
  | accept (op : Nat) (m : Marks) (len : Nat)
  /-- A count-bank instruction that waits for the group's earlier matrix operations (R113). -/
  | matrix
  /-- BARWAIT for a phase of a barrier. -/
  | barwait (key phase : Nat) (m : Marks) (len : Nat)
  /-- BARSYNC: its arrival has issued, and it waits for the phase (R243). -/
  | barsync (key phase : Nat)
  /-- CTRWAIT: physical address, virtual address, target, scope. -/
  | ctr (pa va target scope : Nat) (m : Marks) (len : Nat)
  /-- A blocking TCOPY or TTAKE whose reply is not written (R124), with its marks. -/
  | tuple (id : Nat) (m : Marks)
  /-- A blocking SPAWN on a full queue (R277), with the number of its flight (R79). -/
  | spawnFull (flight : Nat) (t : SpawnTry) (m : Marks) (len : Nat)
  | ntdrain (flights : List Nat) (m : Marks)
  | join
  /-- A CTRWAIT that has been satisfied: the split becomes ready when its event comes. -/
  | woken (m : Marks) (len : Nat)
  /-- Replay mode: the fill's fault-buffer entry (R47). -/
  | replay (die index : Nat)
  deriving DecidableEq, Repr

/-- A safe point that follows a fixed-latency instruction, passed when its result is written (R293), with the SR states
of the group at that instruction (R145), and MODE after it. -/
structure SpPend where
  /-- The lanes that pass it. -/
  mask : W32
  due : Nat
  ord : Nat
  off : Nat
  sr : Table W32
  mode : W32
  deriving DecidableEq, Repr

/-- A split, or a parked lane set (R8, R9). `modeQ` holds MODE writes not yet governing (R158, R189); `run` counts the
instructions of the current run (R161); `readyAt` is when it becomes ready, `readySince` since when it is (R25, R27). -/
structure Split where
  mask : W32
  pc : W64
  mode : W32
  modeQ : List (Nat × W32)
  run : Nat
  ready : Bool
  readyAt : Nat
  readySince : Nat
  passed : Nat
  park : Option Park
  /-- The run ended at a W marker whose results are not all written (R148). -/
  wpend : Bool
  yielded : Bool
  held : Bool
  pieces : List Piece
  spQ : List SpPend
  deriving DecidableEq, Repr

/-- Where a group is and who it is (R7, R13, R21). -/
structure Place where
  ctx : Nat
  task : Nat
  team : Nat
  member : Nat
  core : Nat
  sched : Nat
  slot : Nat
  top : Nat
  coords : List Nat
  deriving DecidableEq, Repr

/-- A group's registers (R7): `v` by 32 × register + lane, `g`, `p` as lane masks, `q`, FSTAT, the instant of the last
SWRITE of FSTAT (R199), the SR states of the lanes and those at each lane's last safe point (R145). -/
structure Regs where
  v : Table W32
  g : Table W64
  p : Table W32
  q : Table Bool
  fstat : W64
  fsetAt : Option Nat
  sr : Table W32
  srSp : Table W32
  /-- Registers poisoned by an uncorrectable error (R417), by 32 × v register + lane, 3072 + g, 3136 + p, 3144 + q,
  3153 FSTAT, 3200 + the lane of an SR state, 3264 + the split of a MODE: 0 for kind REG, 1 + the virtual address of the first
  poisoned byte for kind MEM. -/
  poison : Table Nat
  /-- Errors that nothing has met yet (R415), by the same keys: 1 correctable, 2 uncorrectable. -/
  errs : Table Nat
  deriving DecidableEq, Repr

/-- A group's matrix state: MSETAUX offsets, newest batch, last completed batch, open batches with the operations each
still awaits (R105, R255, R256). -/
structure MatState where
  metaOff : Nat
  sideOff : Nat
  newest : Nat
  completed : Nat
  current : List Nat
  batches : List (Nat × List Nat)
  /-- A fault of a batch's operations that an MWAIT reports: batch, cause (R115, R116). -/
  reports : List (Nat × Nat)
  deriving DecidableEq, Repr

/-- A fault or halt that a group met: cause, ordinal, offset, value (R359, R367). -/
structure StopInfo where
  cause : Nat
  ord : Nat
  off : Nat
  value : Nat
  first : Bool
  deriving DecidableEq, Repr

/-- A group (R7). -/
structure Group where
  place : Place
  regs : Regs
  splits : Table Split
  sets : List Split
  fixed : List FixedWrite
  flights : List Flight
  nextFlight : Nat
  mat : MatState
  /-- Copies with DEFER issued since the last BARDEF (R75). -/
  deferCopies : List Nat
  stop : Option StopInfo
  exited : Bool
  /-- Single step (R435): the flag, and whether STEP has stopped it. -/
  stepOn : Bool
  stepHeld : Bool
  /-- The accumulator words that are poisoned: 128 × row + column, with the kind (R116, R417). -/
  accPoison : Table Nat
  /-- Errors of its accumulator words that nothing has met yet (R415): 1 correctable, 2 uncorrectable. -/
  accErrs : Table Nat
  /-- Requests withdrawn by the last stop (R366): 0 tuple or 1 CTRWAIT, split, ordinal, region base or target. -/
  withdrawn : List (Nat × Nat × Nat × Nat)
  deriving DecidableEq, Repr

/-- A scheduler: the split whose run it is issuing (R25), and what issued last. -/
structure Sched where
  cur : Option (Nat × Nat)
  /-- The last issue: its ac, group and split (R433). -/
  last : Option (Nat × Nat × Nat)
  deriving DecidableEq, Repr

/-- A task (R22): its tree, the context, the records as accepted, the safe-point table, its spawn queue (none for a seed),
the order of acceptance, teams not yet made, and whether it has completed. -/
structure Task where
  tree : Nat
  ctx : Nat
  launch : LaunchRec
  trec : TaskRec
  spt : List SptEntry
  sq : Option Nat
  order : Nat
  nextTeam : Nat
  begun : Bool
  /-- The flight of the SPAWN that released it: it is dispatched when that is performed (R57). -/
  after : Option (Nat × Nat)
  /-- The ac of acceptance (R28: the age of a waiting team), and whether the task has completed: its entry stands until the
  matrix operations of its groups have (R14). -/
  since : Nat
  completed : Bool
  deriving DecidableEq, Repr

/-- A spawn tree (R23): counter, done counter's address, SQDEPTH of the seed. -/
structure Tree where
  queue : Nat
  counter : Nat
  doneAddr : Nat
  sqdepth : Nat
  deriving DecidableEq, Repr

/-- Where a team stands (R13, R29): waiting to be placed the first time, resident, swapped out, lost, or freed. -/
inductive TeamState where
  | waiting
  | resident
  | swapped
  | lost
  | freed
  deriving DecidableEq, Repr

/-- A bound live slot of an engine (R110), by 2 × scheduler + slot: the owning group, the binding, depth, touched rows (a
32-bit mask), and counts by (row × 32 + column) × 32 + class. -/
structure LiveSlot where
  owner : Nat
  row0 : Nat
  col : Nat
  n : Nat
  int4 : Bool
  sa : Nat
  sb : Nat
  depth : Nat
  touched : W32
  banks : Table Int
  /-- The cause that poisons a position's bank (R116, R415): position 32 × row + column. -/
  bad : Table Nat
  /-- Errors of its banks that nothing has met yet (R415), by position: 1 correctable, 2 uncorrectable. -/
  errs : Table Nat
  deriving DecidableEq, Repr

/-- A team (R13): index within its task, core, groups, local bytes. -/
structure Team where
  task : Nat
  index : Nat
  state : TeamState
  core : Nat
  b : Nat
  groups : List Nat
  localLen : Nat
  /-- Swap blocks that hold its team record, and the bytes stored there (R361). -/
  blocks : List Nat
  record : List Byte
  /-- While it is swapped out: its live slots by 2 × member + slot (R361). -/
  saved : List (Nat × LiveSlot)
  /-- The ac since which it has been swapped out (R28, R29). -/
  since : Nat
  deriving DecidableEq, Repr

/-- A barrier of a unit (R71): current phase, and the groups with an arrival counted in it and in the next. -/
structure Barrier where
  phase : Nat
  cur : List Nat
  nxt : List Nat
  deriving DecidableEq, Repr

/-- A deferred arrival not yet performed (R75): its group, barrier and phase, the copies bound to it, and the flight that
stands for it among the group's accesses. -/
structure Deferred where
  gid : Nat
  bar : Nat
  code : Nat
  phase : Nat
  copies : List Nat
  flight : Nat
  deriving DecidableEq, Repr

/-- A range entry (R38). -/
structure RangeEntry where
  base : Nat
  limit : Nat
  pbase : Nat
  shbase : Nat
  live : Bool
  shen : Bool
  homen : Bool
  homecl : Nat
  cls : Nat
  tfmt : Nat
  x : Bool
  w : Bool
  r : Bool
  deriving DecidableEq, Repr

/-- The first source that raised a halt line (R353): what it was, where, and what it reports (R359). -/
structure Halt where
  cause : Nat
  rank : Nat
  core : Nat
  sched : Nat
  slot : Nat
  gid : Option Nat
  ord : Nat
  off : Nat
  value : Nat
  time : Nat
  lost : List (Nat × List Nat)
  deriving DecidableEq, Repr

/-- A SIMT context (R328, R356): the enclave, the handover state (Table 3 of ch20: 1 RESIDENT, 2 HALTED, 3 SEALED,
4 OUT), whether it is frozen, its ranges, its halt line, and its registers. -/
structure Ctx where
  eid : Nat
  state : Nat
  frozen : Bool
  ranges : Table RangeEntry
  rstage : List Byte
  rstat : Nat
  halt : Option Halt
  cause : Nat
  cxfault : Nat
  cxswap : Nat
  cxswapsz : Nat
  haltIrq : Bool
  swapfull : Bool
  vacBusy : Bool
  vacResult : Nat
  claimed : List Nat
  version : Nat
  migrated : Bool
  residencyKey : Nat
  imageKey : Nat
  /-- While it is frozen: the events of its units, with the ac that each has left (R290). -/
  heldEvents : List (Nat × Event)
  frozenAt : Nat
  /-- Swap blocks in use and the IV counter of team records (R361). -/
  swapUsed : List Nat
  swapIv : Nat
  /-- The level-5 page table of the context's enclave (R40). -/
  ptroot : Nat
  deriving DecidableEq, Repr

/-- A staged effect of a packet (R336). -/
inductive Staged where
  | launch (task : TaskRec) (launch : LaunchRec) (spt : List SptEntry) (done : Nat)
  | signal (va pa add : Nat)
  | irq (n : Nat)
  | streg (w : Nat) (x : W64)
  deriving DecidableEq, Repr

/-- A packet in progress (R335, R341): x registers, flags, next word, operations executed, staged effects, open loops as
(first body word, iterations left), the counter it waits on, and whether its commit has begun. -/
structure Packet where
  x : Table W64
  eq : Bool
  lt : Bool
  pc : Nat
  used : Nat
  staged : List Staged
  loops : List (Nat × Nat)
  wait : Option (Nat × Nat)
  /-- A commit under way: indices consumed, whether DROP. -/
  commit : Option (Nat × Bool)
  deriving DecidableEq, Repr

/-- A SIMT queue (R329 to R331, R337). States: 0 DISABLED, 1 IDLE, 2 READY, 3 RUNNING, 4 WAITING, 5 FAULTED. -/
structure Queue where
  eid : Nat
  sketch : Nat
  enable : Bool
  errirq : Bool
  prio : Nat
  ring : Nat
  log2 : Nat
  head : Nat
  tail : Nat
  state : Nat
  fidx : Nat
  fcode : Nat
  cfgerr : Bool
  irqdrop : Bool
  kickerr : Bool
  spq : Nat
  vecBase : Nat
  vecCount : Nat
  pkts : Nat
  drops : Nat
  scratch : Table W64
  pkt : Option Packet
  readySince : Nat
  passedOver : Nat
  deriving DecidableEq, Repr

/-- The trap registers of one level of a control thread (R270, R271). -/
structure TrapRegs where
  vec : W64
  epc : W64
  cause : W32
  val : W64
  stat : W32
  scr : W64
  deriving DecidableEq, Repr

/-- A translated access: physical address, whether it is a device's (hub, kick or POT), the tolerant element width or 0,
and the range that translated it. -/
structure Xlat where
  pa : Nat
  dev : Bool
  tol : Nat
  range : Option Nat
  deriving DecidableEq, Repr

/-- A control-core hardware thread (R268, R270): level 0 user, 1 kernel, 2 hypervisor. -/
structure Thread where
  running : Bool
  pc : W64
  lvl : Nat
  eid : Nat
  tidx : Nat
  g : Table W64
  q : Table Bool
  fstat : W64
  mode : W32
  k : TrapRegs
  h : TrapRegs
  ptroot : W64
  hgpt : W64
  wfi : Bool
  /-- A CTRWAIT that stalls the thread: physical address, target, and the next instruction (R78). -/
  wait : Option (Nat × Nat × W64)
  /-- Tuple flight whose reply stalls the thread (R130). -/
  tupleWait : Option Nat
  /-- The instruction after the EENTER that entered the enclave, and its level (R272, R273). -/
  encRet : W64
  encLvl : Nat
  /-- Registers poisoned (R417): g by number, q as 72 + number, FSTAT as 81. -/
  poison : Table Nat
  /-- Errors of its registers that nothing has met yet (R415), by the same keys: 1 correctable, 2 uncorrectable. -/
  errs : Table Nat
  /-- A CORERST that has not returned: the core, and the ac by which its reset is complete (R288). -/
  resets : Option (Nat × Nat)
  /-- A CTXSEAL under way: the context, its buffer as translated, and, once the context is HALTED, the ac at which the image is
  written (R287, R365). -/
  sealing : Option (Nat × List Xlat × Option Nat)
  /-- An instruction that waits at the root of trust behind a CTXSEAL: the context, and its place in the order of arrival (R291). -/
  queued : Option (Nat × Nat)
  deriving DecidableEq, Repr

/-- An enclave's mapping of a virtual page (R280, R283, R285). -/
structure EncLeaf where
  ppn : Nat
  r : Bool
  w : Bool
  x : Bool
  sealed : Bool
  version : Nat
  attr : Nat
  deriving DecidableEq, Repr

/-- An enclave (R310, R280): threads, entry, policy, key slot, measurement, and its page tables as a map of virtual page
numbers.
[DESIGN CHOICE, log entry 20] -/
structure Enclave where
  part : Nat
  threads : Nat
  tcps : List Nat
  entry : Nat
  policy : Nat
  sketch : Nat
  dumpKey : List Byte
  descr : List Byte
  keySlot : Nat
  sealKey : Nat
  measurement : List Byte
  map : Table EncLeaf
  queues : List Nat
  birth : Nat
  /-- The random memory key (R280, R320). -/
  memKey : Nat
  /-- Page-table pages: the frame of the table of each level and prefix, by level × 2^45 + prefix (R40, R280). -/
  tables : Table Nat
  deriving DecidableEq, Repr

/-- A host-domain translation cached by the control cores of a partition (R286): the level-5 table, the guest stage, the
virtual page, and the leaf found. -/
structure TlbEntry where
  part : Nat
  root : Nat
  stage : Nat
  vpn : Nat
  pa : Nat
  r : Bool
  w : Bool
  x : Bool
  tol : Nat
  /-- The 4 KiB pages that it translates, from an aligned first: those of its leaf (R40, R286). -/
  span : Nat
  deriving DecidableEq, Repr

/-- An entry of the page ownership table (R313). -/
structure Pot where
  state : Nat
  owner : Nat
  next : Nat
  attr : Nat
  version : Nat
  link : Nat
  /-- In SCRUB: bit i when line i has been scrubbed. -/
  lines : Nat
  deriving DecidableEq, Repr


/-- A tile record as the fetch unit read it (R94). -/
structure TileRec where
  base : Nat
  stride : Nat
  sbase : Nat
  sstride : Nat
  deriving DecidableEq, Repr

/-- One multiplication of an operation (R92, R100): accumulator row and column, rows, the first row within A, the first of
the instruction's 32 rows that it stands for (R101, R102), its records. -/
structure MatUnit where
  row : Nat
  col : Nat
  m : Nat
  arow : Nat
  irow : Nat
  a : TileRec
  b : TileRec
  /-- The error that its records or segment entry met, which poisons its outputs (R116). -/
  err : Nat
  deriving DecidableEq, Repr

/-- What an operation of the matrix engine does, in issue order with its group's others (R104). -/
inductive MatKind where
  /-- MMA or MMAG: its units, and the pages pinned at acceptance as (virtual page, physical address of its first byte,
  tolerant width) (R103). -/
  | gemm (units : List MatUnit) (pages : List (Nat × Nat × Nat))
  /-- ACZERO: rows `row` to `row + n − 1`. -/
  | zero (row n : Nat)
  /-- ACCPY: whether to local store, the row, the rows, the local offset. -/
  | copy (toLocal : Bool) (row n off : Nat)
  deriving DecidableEq, Repr

/-- An operation accepted by, or offered to, the engine of a scheduler (R92 to R106). -/
structure MatOp where
  id : Nat
  gid : Nat
  sp : Nat
  sched : Nat
  kind : MatKind
  ctl : MmaCtl
  mode : W32
  metaOff : Nat
  sideOff : Nat
  accepted : Bool
  /-- The operands before acceptance, for each quarter: its lowest active lane, D, A and C values (one entry for MMAG). -/
  offer : List (Nat × W64 × W64 × W64)
  grouped : Bool
  /-- Flights below this number precede the instruction (R63). -/
  before : Nat
  /-- Accumulator words that an ACWR has written since (R257). -/
  clobber : List Nat
  /-- The point of the issuing split (R116, R259). -/
  ord : Nat
  off : Nat
  /-- Units wholly performed and passes performed of the current one. -/
  unitsDone : Nat
  passesDone : Nat
  /-- The first error that its records or tables met, and the cause it must report (R115, R116). -/
  taint : Nat
  report : Nat
  deriving DecidableEq, Repr

/-- A stored tuple (R120, R123, R125): its age, home slice, whether it is spilled, tag and fields. -/
structure Tup where
  age : Nat
  slice : Nat
  spilled : Bool
  tag : Nat
  fields : List W64
  deriving DecidableEq, Repr

/-- Who issued a tuple request. -/
inductive Asker where
  | split (gid sp : Nat)
  | thread (t : Nat)
  deriving DecidableEq, Repr

/-- A tuple request under way or parked (R123, R126): kind 0 TDEP, 1 TCOPY, 2 TTAKE, 3 TCANCEL. -/
structure TupReq where
  who : Asker
  flight : Nat
  kind : Nat
  part : Nat
  region : Nat
  /-- The region's virtual base, as the operand named it (R366). -/
  base : Nat
  room : Nat
  slice : Nat
  tag : Nat
  fields : List W64
  modes : List Nat
  his : List W64
  nb : Bool
  d : Nat
  st : Nat
  parked : Bool
  parkedAt : Nat
  /-- TCANCEL: slices that have not answered, and requests withdrawn so far. -/
  slices : List Nat
  count : Nat
  /-- The ac by which its reply is written (R131). -/
  due : Nat
  /-- A reply that waits for the clocks of its asker's context (R290). -/
  answer : Option RegWrites
  deriving DecidableEq, Repr

/-- A tensor layout record as read (R83). -/
structure Layout where
  base : Nat
  etype : Nat
  rank : Nat
  dims : List Nat
  strs : List Nat
  deriving DecidableEq, Repr

/-- An asynchronous copy (R82 to R91): who issued it, its snapshots, the next unit, and the events that have occurred. -/
structure Copy where
  gid : Nat
  ctx : Nat
  team : Nat
  core : Nat
  ctl : CpyCtl
  glob : Layout
  dst : Layout
  starts : List Nat
  exts : List Nat
  localOff : Nat
  srcctr : Option Nat
  pubctr : Option Nat
  /-- The virtual addresses of those counters, which the stop record carries (R368). -/
  srcVa : Nat
  pubVa : Nat
  /-- The translations of its counters have been shot down: each is translated again at its add (R315, R319). -/
  stale : Bool
  flight : Nat
  ord : Nat
  off : Nat
  unitAt : Nat
  units : Nat
  stopped : Bool
  /-- The cause of a fault of its own, which its stop record carries (R88, R353). -/
  cause : Option Nat
  srcDone : Bool
  landed : Bool
  published : Bool
  /-- Ranges written on a shadow side that still await a covering PUBLISH (R66). -/
  toPublish : List Nat
  /-- Bytes that a global-to-global copy has overwritten, at their values before it (R87). -/
  old : List Host.Cell
  deriving DecidableEq, Repr

/-- A PUBLISH under way (R66, R67): issuer, range, copies that must land before its publish point, its scope. -/
structure Publish where
  gid : Nat
  sp : Nat
  ctx : Nat
  range : Nat
  scope : Nat
  await : List Nat
  covers : List Nat
  flight : Nat
  /-- It has reached the range table: the copies that it awaits are known (R66, R247). -/
  reached : Bool
  atPoint : Bool
  /-- Its safe-point ordinal and offset, and the address it named, which its stop record carries (R368). -/
  ord : Nat
  off : Nat
  va : Nat
  deriving DecidableEq, Repr

/-- A fault-buffer entry (R47, R48), and the split that it parks or the copy that it pauses (R88). -/
structure FbEntry where
  va : Nat
  kind : Nat
  ctx : Nat
  eid : Nat
  gid : Nat
  sp : Nat
  core : Nat
  slot : Nat
  copy : Option Nat
  /-- The lane that met it, where it is a lane's (R293). -/
  lane : Option Nat
  deriving DecidableEq, Repr

/-- A virtual function (R372, R373, R377, R380). State: 0 DISABLED, 1 ACTIVE, 2 RESETTING. -/
structure Vf where
  target : Nat
  part : Nat
  dirty : Bool
  enable : Bool
  flrs : Nat
  half : Nat
  cfgerr : Bool
  state : Nat
  qbase : Nat
  qcount : Nat
  vbase : Nat
  vcount : Nat
  drop : Nat
  weight : Nat
  throt : Nat
  dlog : Nat
  qbuf : Nat
  qres : Nat
  /-- The reset under way disables the function (R373). -/
  disabling : Bool
  /-- The reset waits at the gate point for a CTXSEAL (R377). -/
  gateHeld : Bool
  /-- The MSI-X function mask, masked entries and pending-bit array (R375). -/
  fmask : Bool
  masks : List Nat
  pba : List Nat
  deriving DecidableEq, Repr

/-- An interrupt vector (R374). -/
structure Vec where
  gvec : Nat
  dest : Nat
  mask : Bool
  mode : Nat
  pend : Bool
  deriving DecidableEq, Repr

/-- A compute die's partition registers (R391), core retirement (R421) and swap of control state (R418). -/
structure Die where
  ilvbase : Nat
  wdies : Nat
  gran : Nat
  valid : Bool
  bound : Bool
  part : Nat
  retired : List Nat
  /-- The keys in the base dies' key slots, by slot (R320). -/
  keys : Table Nat
  deriving DecidableEq, Repr

/-- A partition (R390, R397, R446). State: 0 RUNNING, 1 DRAINING, 2 QUIESCED. -/
structure Part where
  dies : Nat
  ccg : Nat
  state : Nat
  cfgerr : Bool
  tupdies : Nat
  tupsz : Nat
  ptpool : Nat
  tolen : Bool
  hostw : Nat
  hot : Nat
  tthr : Nat
  throt : Nat
  resetting : Bool
  refusing : Bool
  hostKey : Nat
  timeBase : Nat
  cap : Nat
  eff : Nat
  thermStep : Nat
  limitStep : Nat
  gate : Bool
  gated : Bool
  gerr : Bool
  /-- Its clock's phase in 28ths of an ac at 700 MHz (R447). -/
  phase : Nat
  /-- Sketch store status, image address and the hash of the last sketch named (R346). -/
  skstat : Nat
  skbuf : Nat
  skhash : List Byte
  /-- Boundaries or windows written since the last SHOOT (R403). -/
  shootDue : Bool
  deriving DecidableEq, Repr

/-- A throttle entry (R382): pseudo-channel, row, tenant (key slot), VF (256 for the host class), held requests as the
events that wait, and whether the row has been refreshed since the entry was taken. -/
structure Throttle where
  chan : Nat
  row : Nat
  tenant : Nat
  vf : Nat
  waiting : List Event
  fresh : Bool
  deriving DecidableEq, Repr

/-- A pseudo-channel pair, row group and row state of an HBM4 stack (R382, R399 to R402). -/
structure Stack where
  lendreq : Nat
  lendstat : Nat
  lenderr : Nat
  aar : Bool
  refskip : Nat
  /-- Access-as-refresh by row group: activation mask, and the timestamp as the ac at which it was set. -/
  masks : Table Nat
  stamps : Table Nat
  /-- Activation counts by row (R382). -/
  acts : Table Nat
  /-- Throttle entries (R382), and requests that have passed their gate, each with its row. -/
  held : List Throttle
  granted : List (Event × Nat)
  /-- Pairs in the lending handshake, each with the LENDSTAT code that it leads to, and the requests held meanwhile, by pair
  (R400). -/
  shaking : Table Nat
  lendHeld : List (Nat × Event)
  deriving DecidableEq, Repr

/-- A loaded sketch (R345, R346). -/
structure Sketch where
  hash : List Byte
  words : List W32
  deriving DecidableEq, Repr

/-- An SPDM session (R406). -/
structure Session where
  peer : Nat
  ready : Bool
  key : Nat
  /-- The exported master secret, from which the KFL stream keys and the migration key are derived. -/
  master : Nat
  deriving DecidableEq, Repr

/-- A firmware image (R404, R425): the running copy's digest, version and whether its signature verifies, those of the other copy of
the A/B pair, and the fuse counter. -/
structure Firmware where
  digest : List Byte
  svn : Nat
  good : Bool
  staged : Option (List Byte × Nat × Bool)
  fuse : Nat
  deriving DecidableEq, Repr

/-- What the root of trust has recorded of an enclave (R409): FLAGS, VERSION, OBSTIME. -/
structure EvRec where
  flags : Nat
  version : Nat
  obstime : Nat
  deriving DecidableEq, Repr

/-- A formed pod (R413): nonce, leaf bodies. -/
structure Pod where
  nonce : List Byte
  bodies : List (List Byte)
  deriving DecidableEq, Repr

/-- The root of trust (R404 to R414, R291). -/
structure Rot where
  /-- The fused device secret, from which the identity key and the attestation key are derived (R405). -/
  secret : Nat
  fw : Table Firmware
  fwDigest : List Byte
  attKey : Nat
  idHash : List Byte
  sessions : Table Session
  negotiated : Bool
  evidence : Table EvRec
  pods : List Pod
  /-- Pod operations that are running (R407). -/
  podOps : Nat
  /-- Nonces of the commit tokens accepted (R371). -/
  nonces : List (List Byte)
  /-- The last response sent. -/
  reply : List Byte
  deriving DecidableEq, Repr

/-- A die's error block (R419). -/
structure ErrBlock where
  head : Nat
  ovf : Bool
  ueirq : Bool
  ceirq : Bool
  vec : Nat
  tail : Nat
  cecnt : Table Nat
  uecnt : Table Nat
  entries : Table (List Byte)
  /-- The ac at which each entry was written (R419: errors merge within 1 ms). -/
  written : Table Nat
  deriving DecidableEq, Repr

/-- The dump engine (R422). -/
structure Dump where
  key : Nat
  buf : Nat
  size : Nat
  result : Nat
  len : Nat
  /-- The enclave that is being dumped (R422, R423). -/
  busy : Option Nat
  deriving DecidableEq, Repr

/-- A queue's trace and debug block (R426). -/
structure TraceQ where
  llog2 : Nat
  slog2 : Nat
  holdteam : Bool
  load : Bool
  stall : Bool
  trace : Bool
  trbuf : Nat
  trsize : Nat
  smbuf : Nat
  smsize : Nat
  result : Nat
  dropped : Bool
  dbgres : W64
  scansel : W64
  deriving DecidableEq, Repr

/-- A chunk in a scheduler's trace staging (R428): its context, its packets, the ac of the first, and whether it takes no more. -/
structure Chunk where
  ctx : Nat
  packets : List (List Byte)
  first : Nat
  closed : Bool
  deriving DecidableEq, Repr

/-- A scheduler's packet stream (R428, R432): its chunks in order, SEQ of the next one written, and the packets lost, by context. -/
structure TraceK where
  chunks : List Chunk
  seq : Nat
  lost : Table Nat
  deriving DecidableEq, Repr

/-- A scheduler's sampling of a context (R433), by 4096 × scheduler + queue: the global loads counted, and the slot sampled next. -/
structure TraceS where
  loads : Nat
  rotate : Nat
  deriving DecidableEq, Repr

/-- A slot's trace state (R429, R430, R431): current split, reference time, packets since the last sync point, whether a
sync point is due, and whether it has begun. -/
structure TraceG where
  cur : Nat
  tref : Nat
  count : Nat
  due : Bool
  begun : Bool
  deriving DecidableEq, Repr

/-- The module (R444 to R448). -/
structure Module where
  stage : Nat
  code : Nat
  prevtrip : Bool
  limit : Nat
  supply : Bool
  on : Bool
  /-- The stored layout in flash: each die's (ILVBASE, WDIES, GRAN, PART), each partition's CCG and PRCFG. -/
  layout : Option (List (Nat × Nat × Nat × Nat) × List (Nat × Nat))
  trained : Bool
  linked : Bool
  tripLatched : Bool
  deriving DecidableEq, Repr

/-- A link direction (R322, R323), by 2 × link + direction: its key index, whether both indices are live, the keys it has had,
the flits counted under this key, flits retransmitted, and the requests outstanding under the old key, each with the key index
that its completion is sealed under. -/
structure Link where
  keyIdx : Nat
  next : Bool
  gen : Nat
  flits : Nat
  retrans : Nat
  outstanding : List (Nat × Nat)
  deriving DecidableEq, Repr

/-- A TDISP device interface (R324): 0 CONFIG_UNLOCKED, 1 CONFIG_LOCKED, 2 RUN, 3 ERROR; the streams that it is bound on, each
with its enclave (0 for a virtual function's own stream). -/
structure Tdi where
  state : Nat
  bound : List (Nat × Nat)
  nonce : Nat
  deriving DecidableEq, Repr

/-- A sealed page (R285, R325 to R327): where its bytes are, and what they hold. -/
structure SealedPage where
  eid : Nat
  va : Nat
  version : Nat
  bytes : List Byte
  sealed : List Byte
  deriving DecidableEq, Repr

/-- The execution side: groups and everything that hangs on them. -/
structure Simt where
  groups : Table Group
  teams : Table Team
  tasks : Table Task
  trees : Table Tree
  /-- Spawn queues: tasks waiting, by SQ. -/
  spawnQs : Table (List Nat)
  ctxs : Table Ctx
  scheds : Table Sched
  bars : Table Barrier
  deferred : Table Deferred
  locals : Table (Table Byte)
  localPoison : Table (List Nat)
  /-- Errors of local-store words that nothing has met yet (R415), by team: 1 correctable, 2 uncorrectable. -/
  localErrs : Table (Table Nat)
  accs : Table (Table W32)
  slots : Table LiveSlot
  ops : List MatOp
  /-- Schedulers whose engine an upset has disturbed: the residue check of the next pass fails (R115). -/
  upsets : List Nat
  copies : Table Copy
  /-- Copy engines, by cluster: the ac at which each last moved a unit (R90). -/
  engines : Table Nat
  publishes : Table Publish
  fb : Table (Table FbEntry)
  fbOverflow : List Nat
  fbBad : List Nat
  /-- Cores under reset, and when each core last issued (R28). -/
  coreReset : List Nat
  lastIssue : Table Nat
  deriving DecidableEq, Repr, Inhabited

/-- A sealed context image (R365 to R371): its bytes, whose it is, the sealing key that wraps its key, and, once CTXCOMMIT
has taken the context off the die, what it holds. -/
structure Image where
  bytes : List Byte
  eid : Nat
  queue : Nat
  version : Nat
  sealKey : Nat
  /-- The image key (R365), which a commit token carries (R370). -/
  key : Nat
  simt : Simt
  deriving DecidableEq, Repr

/-- Memory and what the hub and base dies keep beside it. -/
structure MemSide where
  /-- Physical memory: address and byte, addresses rising, no byte 0 (R394: lines become zero). -/
  mem : List Host.Cell
  /-- Poisoned lines by line number, with their kind (R416). -/
  poison : Table Nat
  /-- Lines with an error that no agent has met yet (R415, R416, R321): in HBM4, 1 correctable, 2 uncorrectable, 3 integrity; in a
  memory slice, 4 correctable, 5 uncorrectable and clean, 6 uncorrectable and dirty; in an engine, 7 correctable, 8
  uncorrectable. -/
  latent : Table Nat
  /-- Lines at the synchronisation engines, with the ac of the last atomic to each (R44). -/
  syncLines : Table Nat
  /-- Lines that did not fit in their engine's 16 MiB: they are served from its overflow area (R44). -/
  syncOver : List Nat
  pot : Table Pot
  hbm : Table Stack
  tuples : Table (List Tup)
  tupAge : Nat
  reqs : Table TupReq
  deriving DecidableEq, Repr

/-- The hub dies: queues, interrupts, functions, enclaves, control threads, root of trust, logs. -/
structure Hub where
  queues : Table Queue
  vfs : Table Vf
  vecs : Table Vec
  /-- Virtual pending bits: 256 × thread + GVEC, each with a vector that has set it. -/
  vpend : List (Nat × Nat)
  /-- Physical interrupts raised at a thread: 4096 × thread + vector. -/
  ppend : List Nat
  /-- MSI-X messages sent: VF and entry. -/
  msix : List (Nat × Nat)
  threads : Table Thread
  tlb : List TlbEntry
  enclaves : Table Enclave
  images : Table Image
  pages : Table SealedPage
  sketches : Table Sketch
  rot : Rot
  errs : Table ErrBlock
  dump : Dump
  traceQ : Table TraceQ
  traceK : Table TraceK
  traceS : Table TraceS
  traceG : Table TraceG
  links : Table Link
  /-- What the link keys of training come from (R322). -/
  linkSeed : Nat
  tdis : Table Tdi
  /-- Keys of IDE streams (R324), by ((1024 × port + stream) × 8 + sub-stream) × 2, and one more for the key in use. -/
  ideKeys : Table Nat
  /-- The enclave that a key was programmed for, 0 for none, by the number of the key (R324). -/
  ideEid : Table Nat
  /-- The last bytes returned to a device or peer that read memory (R314). -/
  dmaReply : List Byte
  keySlotsUsed : List Nat
  deriving DecidableEq, Repr

/-- The state of the module: its clock in ac (R2), the counter of free values, who issues next in this ac, the events
under way with the ac each is due, and the parts above. -/
structure State where
  ac : Nat
  free : Nat
  turns : List Agent
  agenda : List (Nat × Event)
  module : Module
  dies : Table Die
  parts : Table Part
  simt : Simt
  store : MemSide
  hub : Hub
  deriving DecidableEq, Repr

/-- Why the machine stops. -/
inductive Fault where
  /-- Raised by the meaning of an Amitia or sketch instruction when no agent is about to issue. Safe: `step` never calls
  a meaning so. -/
  | noIssuer
  deriving DecidableEq, Repr

/-- Why an instruction has no meaning here. -/
inductive Refusal where
  /-- Raised by `exec` for an instruction that is not modelled. Safe. -/
  | notModelled (mnemonic : String)
  deriving DecidableEq, Repr

/-- A split that starts a group: every lane, MODE at its reset value 0x0000_0087 (R156). -/
def Split.start (pc : W64) : Split :=
  { mask := 0xFFFFFFFF#32, pc := pc, mode := 0x87#32, modeQ := [], run := 0, ready := true, readyAt := 0,
    readySince := 0, passed := 0, park := none, wpend := false, yielded := false, held := false,
    pieces := [⟨0xFFFFFFFF#32, 0, 0, false, 0x87#32⟩], spQ := [] }

/-- The lane-indexed SR states at their reset value (R145). -/
def srTable : Nat → Table W32
  | 0 => []
  | n + 1 => srTable n ++ [(n, BitVec.ofNat 32 (0x6A09E667 + n))]

/-- The registers of a group at its start: every register 0, SR states at their reset values (R303, R145). -/
def Regs.start : Regs :=
  { v := [], g := [], p := [], q := [], fstat := 0#64, fsetAt := none, sr := srTable 32, srSp := srTable 32, poison := [], errs := [] }

/-- The matrix state of a group at its start (R105, R255). -/
def MatState.start : MatState :=
  { metaOff := 0, sideOff := 0, newest := 0, completed := 0, current := [], batches := [], reports := [] }

/-- A group at its start, with one split at the kernel's entry. -/
def Group.start (pl : Place) (pc : W64) : Group :=
  { place := pl, regs := Regs.start, splits := [(0, Split.start pc)], sets := [], fixed := [], flights := [],
    nextFlight := 0, mat := MatState.start, deferCopies := [], stop := none, exited := false, stepOn := false,
    stepHeld := false, accPoison := [], accErrs := [], withdrawn := [] }

/-- A queue's registers at reset (R329). -/
def Queue.reset : Queue :=
  { eid := 0, sketch := 0, enable := false, errirq := false, prio := 0, ring := 0, log2 := 0, head := 0, tail := 0,
    state := 0, fidx := 0, fcode := 0, cfgerr := false, irqdrop := false, kickerr := false, spq := 0, vecBase := 0,
    vecCount := 0, pkts := 0, drops := 0, scratch := [], pkt := none, readySince := 0, passedOver := 0 }

/-- A context's registers at reset (R356). -/
def Ctx.reset : Ctx :=
  { eid := 0, state := 0, frozen := false, ranges := [], rstage := [], rstat := 0, halt := none, cause := 0,
    cxfault := 0, cxswap := 0, cxswapsz := 0, haltIrq := false, swapfull := false, vacBusy := false, vacResult := 0,
    claimed := [], version := 0, migrated := false, residencyKey := 0, imageKey := 0, heldEvents := [], frozenAt := 0, swapUsed := [], swapIv := 0, ptroot := 0 }

/-- A virtual function's registers at reset (R372). -/
def Vf.reset : Vf :=
  { target := 0, part := 0, dirty := false, enable := false, flrs := 0, half := 0, cfgerr := false, state := 0,
    qbase := 0, qcount := 0, vbase := 0, vcount := 0, drop := 0, weight := 0, throt := 0, dlog := 0, qbuf := 0,
    qres := 0, disabling := false, gateHeld := false, fmask := false, masks := [], pba := [] }

/-- A vector's routing and state words at reset (R374). -/
def Vec.reset : Vec := { gvec := 0, dest := 0, mask := false, mode := 0, pend := false }

/-- A stack's registers at reset (R399). -/
def Stack.reset : Stack :=
  { lendreq := 0, lendstat := 0, lenderr := 0, aar := false, refskip := 0, masks := [],
    stamps := [], acts := [], held := [], granted := [], shaking := [], lendHeld := [] }

/-- A partition's registers at reset (R397, R446); a partition exists while a die belongs to it (R390). -/
def Part.reset : Part :=
  { dies := 0, ccg := 0, state := 0, cfgerr := false, tupdies := 0, tupsz := 0, ptpool := 1, tolen := false,
    hostw := 16, hot := 4096, tthr := 4, throt := 0, resetting := false, refusing := false, hostKey := 0, timeBase := 0,
    cap := 28, eff := 28, thermStep := 28, limitStep := 28, gate := false, gated := false, gerr := false, phase := 0,
    skstat := 0, skbuf := 0, skhash := [], shootDue := false }

/-- A die's partition registers before bring-up loads them (R391, R445). -/
def Die.reset : Die := { ilvbase := 0, wdies := 0, gran := 0, valid := false, bound := false, part := 0, retired := [], keys := [] }

/-- A die's error block at reset (R419). -/
def ErrBlock.reset : ErrBlock :=
  { head := 0, ovf := false, ueirq := false, ceirq := false, vec := 0, tail := 0, cecnt := [], uecnt := [],
    entries := [], written := [] }

/-- A trace and debug block at reset (R426). -/
def TraceQ.reset : TraceQ :=
  { llog2 := 0, slog2 := 0, holdteam := false, load := false, stall := false, trace := false, trbuf := 0, trsize := 0,
    smbuf := 0, smsize := 0, result := 0, dropped := false, dbgres := 0#64, scansel := 0#64 }

/-- The trap registers of a level when a thread is started (R270).
[DESIGN CHOICE, log entry 3] -/
def TrapRegs.reset : TrapRegs := { vec := 0#64, epc := 0#64, cause := 0#32, val := 0#64, stat := 0#32, scr := 0#64 }

/-- A hardware thread that has not been started: it issues nothing (R202, R270).
[DESIGN CHOICE, log entry 3] -/
def Thread.reset : Thread :=
  { running := false, pc := 0#64, lvl := 2, eid := 0, tidx := 0, g := [], q := [], fstat := 0#64, mode := 0x87#32,
    k := TrapRegs.reset, h := TrapRegs.reset, ptroot := 0#64, hgpt := 0#64, wfi := false, wait := none,
    tupleWait := none, encRet := 0#64, encLvl := 0, poison := [], errs := [], resets := none, sealing := none, queued := none }

/-- The module when power has just been applied: stage 0 (R444, R445).
[DEDUCED, log entry 90] -/
def Module.reset : Module :=
  { stage := 0, code := 0, prevtrip := false, limit := 10800, supply := true, on := true,
    layout := none, trained := true, linked := true, tripLatched := false }

/-- A firmware image of the flash before anything is loaded: its digest is what was written there.
[DEDUCED, log entry 90] -/
def Firmware.reset (i : Nat) : Firmware :=
  { digest := Config.imageDigest i, svn := 0, good := true, staged := none, fuse := 0 }

/-- The root of trust before it starts. -/
def Rot.reset : Rot :=
  { secret := Config.deviceSecret, fw := [], fwDigest := [], attKey := 0, idHash := [], sessions := [], negotiated := false,
    evidence := [], pods := [], podOps := 0, nonces := [], reply := [] }

/-- No group, task or context. -/
def Simt.reset : Simt :=
  { groups := [], teams := [], tasks := [], trees := [], spawnQs := [], ctxs := [], scheds := [], bars := [],
    deferred := [], locals := [], localPoison := [], localErrs := [], accs := [], slots := [], ops := [], upsets := [], copies := [], engines := [], publishes := [],
    fb := [], fbOverflow := [], fbBad := [], coreReset := [], lastIssue := [] }

/-- Memory with nothing listed. -/
def MemSide.reset : MemSide :=
  { mem := [], poison := [], latent := [], syncLines := [], syncOver := [], pot := [], hbm := [], tuples := [],
    tupAge := 0, reqs := [] }

/-- The hub dies with every register at its reset value. -/
def Hub.reset : Hub :=
  { queues := [], vfs := [], vecs := [], vpend := [], ppend := [], msix := [], threads := [], tlb := [], enclaves := [],
    images := [], pages := [], sketches := [], rot := Rot.reset, errs := [],
    dump := { key := 0, buf := 0, size := 0, result := 0, len := 0, busy := none },
    traceQ := [], traceK := [], traceS := [], traceG := [], links := [], linkSeed := 0, tdis := [], ideKeys := [], ideEid := [], dmaReply := [], keySlotsUsed := [] }

/-- The machine right after reset: power has been applied, and bring-up (R445) is the event that comes next. Registers
that are not listed in a table hold their reset values.
[DESIGN CHOICE, log entry 1] -/
def State.reset : State :=
  { ac := 0, free := 0, turns := [], agenda := [(0, .powerOn)], module := Module.reset, dies := [], parts := [],
    simt := Simt.reset, store := MemSide.reset, hub := Hub.reset }

end Sys2Proof.Machine
end

