-- ==== Sys2Proof/Machine/Ops.lean ====
section
/-! DEFINITION. Ops.lean: the named operations over the state: memory bytes, updates of groups, threads, contexts and the
agenda, time, raising a halt line (R350), and taking a trap and returning from it (R272 to R274). -/

namespace Sys2Proof.Machine

/-- The three outcomes of a meaning. -/
abbrev Out := Host.Outcome State Fault Refusal

/-! ### Memory -/

/-- The byte at a physical address: an address that is not listed reads 0 (R394).
[DESIGN CHOICE, log entry 2] -/
def memByte (m : List Host.Cell) (a : Nat) : Byte := Tbl.fget 0#8 m a

/-- Memory with one byte written.
[DESIGN CHOICE, log entry 2] -/
def memPut (m : List Host.Cell) (a : Nat) (b : Byte) : List Host.Cell := Tbl.fset 0#8 m a b

/-- `n` bytes from an address. -/
def memBytes (m : List Host.Cell) (a : Nat) : Nat → List Byte
  | 0 => []
  | n + 1 => memByte m a :: memBytes m (a + 1) n

/-- Memory with bytes written from an address on. -/
def memWrite (m : List Host.Cell) (a : Nat) : List Byte → List Host.Cell
  | [] => m
  | b :: r => memWrite (memPut m a b) (a + 1) r

/-- The canonical form of memory: addresses rising, no byte 0.
[DESIGN CHOICE, log entry 2] -/
def Memory.wf (m : List Host.Cell) : Bool := Tbl.canon 0#8 m

/-- One byte of the state's memory. -/
def State.byte (s : State) (a : Nat) : Byte := memByte s.store.mem a

/-- The little-endian number at `n` bytes of memory (R3). -/
def State.peek (s : State) (a n : Nat) : Nat := leNat (memBytes s.store.mem a n)

/-- `n` bytes of memory. -/
def State.bytes (s : State) (a n : Nat) : List Byte := memBytes s.store.mem a n

/-- Bytes written with no other effect. -/
def State.poke (s : State) (a : Nat) (bs : List Byte) : State :=
  { s with store := { s.store with mem := memWrite s.store.mem a bs } }

/-- A number of `n` bytes written with no other effect. -/
def State.pokeNat (s : State) (a n x : Nat) : State := s.poke a (leBytes n x)

/-! ### Updates -/

/-- Change the execution side. -/
def State.modSimt (s : State) (f : Simt → Simt) : State := { s with simt := f s.simt }

/-- Change the memory side. -/
def State.modStore (s : State) (f : MemSide → MemSide) : State := { s with store := f s.store }

/-- Change the hub side. -/
def State.modHub (s : State) (f : Hub → Hub) : State := { s with hub := f s.hub }

/-- Put a group. -/
def State.putGroup (s : State) (gid : Nat) (g : Group) : State :=
  s.modSimt fun x => { x with groups := Tbl.put x.groups gid g }

/-- A group. -/
def State.group? (s : State) (gid : Nat) : Option Group := Tbl.get? s.simt.groups gid

/-- Change a group if it exists. -/
def State.modGroup (s : State) (gid : Nat) (f : Group → Group) : State :=
  match s.group? gid with
  | some g => s.putGroup gid (f g)
  | none => s

/-- A context's registers (R356). -/
def State.ctx (s : State) (q : Nat) : Ctx := Tbl.getD s.simt.ctxs q Ctx.reset

/-- Put a context's registers. -/
def State.putCtx (s : State) (q : Nat) (c : Ctx) : State :=
  s.modSimt fun x => { x with ctxs := Tbl.put x.ctxs q c }

/-- A number for a new group, team, task, tree or transfer: none that is in use, on the die or in an image. -/
def State.newId (s : State) (f : Simt → Nat) : Nat := s.hub.images.foldl (fun n i => max n (f i.2.simt)) (f s.simt)

/-- Change a context. -/
def State.modCtx (s : State) (q : Nat) (f : Ctx → Ctx) : State := s.putCtx q (f (s.ctx q))

/-- A queue's registers (R329). -/
def State.queue (s : State) (q : Nat) : Queue := Tbl.getD s.hub.queues q Queue.reset

/-- Put a queue's registers. -/
def State.putQueue (s : State) (q : Nat) (x : Queue) : State :=
  s.modHub fun h => { h with queues := Tbl.put h.queues q x }

/-- Change a queue's registers. -/
def State.modQueue (s : State) (q : Nat) (f : Queue → Queue) : State := s.putQueue q (f (s.queue q))

/-- A queue at rest takes the state that its registers give it (R331, R336): DISABLED, WAITING, READY or IDLE. -/
def Queue.settle (x : Queue) (ac : Nat) : Queue :=
  if !x.enable then { x with state := 0 }
  else if (x.pkt.bind Packet.wait).isSome then { x with state := 4 }
  else if x.pkt.isSome || x.head != x.tail then { x with state := 2, readySince := if x.state = 2 then x.readySince else ac, passedOver := if x.state = 2 then x.passedOver else 0 }
  else { x with state := 1 }

/-- A control thread. -/
def State.thread (s : State) (t : Nat) : Thread := Tbl.getD s.hub.threads t Thread.reset

/-- Put a control thread. -/
def State.putThread (s : State) (t : Nat) (x : Thread) : State :=
  s.modHub fun h => { h with threads := Tbl.put h.threads t x }

/-- Change a control thread. -/
def State.modThread (s : State) (t : Nat) (f : Thread → Thread) : State := s.putThread t (f (s.thread t))

/-- A virtual function's registers (R372). -/
def State.vf (s : State) (v : Nat) : Vf := Tbl.getD s.hub.vfs v Vf.reset

/-- Put a virtual function's registers. -/
def State.putVf (s : State) (v : Nat) (x : Vf) : State := s.modHub fun h => { h with vfs := Tbl.put h.vfs v x }

/-- A vector (R374). -/
def State.vec (s : State) (v : Nat) : Vec := Tbl.getD s.hub.vecs v Vec.reset

/-- Put a vector. -/
def State.putVec (s : State) (v : Nat) (x : Vec) : State := s.modHub fun h => { h with vecs := Tbl.put h.vecs v x }

/-- A die's partition registers (R391). -/
def State.die (s : State) (d : Nat) : Die := Tbl.getD s.dies d Die.reset

/-- A partition's registers (R397). -/
def State.part (s : State) (p : Nat) : Part := Tbl.getD s.parts p Part.reset

/-- Put a partition's registers. -/
def State.putPart (s : State) (p : Nat) (x : Part) : State := { s with parts := Tbl.put s.parts p x }

/-- Change a partition's registers. -/
def State.modPart (s : State) (p : Nat) (f : Part → Part) : State := s.putPart p (f (s.part p))

/-- A stack's registers (R399). -/
def State.hbm (s : State) (t : Nat) : Stack := Tbl.getD s.store.hbm t Stack.reset

/-- Put a stack's registers. -/
def State.putHbm (s : State) (t : Nat) (x : Stack) : State :=
  s.modStore fun y => { y with hbm := Tbl.put y.hbm t x }

/-- An error block (R419). -/
def State.errBlock (s : State) (d : Nat) : ErrBlock := Tbl.getD s.hub.errs d ErrBlock.reset

/-- A queue's trace and debug block (R426). -/
def State.traceQ (s : State) (q : Nat) : TraceQ := Tbl.getD s.hub.traceQ q TraceQ.reset

/-- Put a queue's trace and debug block. -/
def State.putTraceQ (s : State) (q : Nat) (x : TraceQ) : State :=
  s.modHub fun h => { h with traceQ := Tbl.put h.traceQ q x }

/-- A scheduler's packet stream (R428). -/
def State.traceK (s : State) (k : Nat) : TraceK := Tbl.getD s.hub.traceK k ⟨[], 0, []⟩

/-- Put a scheduler's packet stream. -/
def State.putTraceK (s : State) (k : Nat) (x : TraceK) : State :=
  s.modHub fun h => { h with traceK := Tbl.put h.traceK k x }

/-- A scheduler's sampling of a context (R433). -/
def State.traceS (s : State) (k q : Nat) : TraceS := Tbl.getD s.hub.traceS (4096 * k + q) ⟨0, 0⟩

/-- Put a scheduler's sampling of a context. -/
def State.putTraceS (s : State) (k q : Nat) (x : TraceS) : State :=
  s.modHub fun h => { h with traceS := Tbl.put h.traceS (4096 * k + q) x }

/-- Change the root of trust. -/
def State.modRot (s : State) (f : Rot → Rot) : State := s.modHub fun h => { h with rot := f h.rot }

/-- Change a split of a group, if it exists. -/
def Group.modSplit (g : Group) (sp : Nat) (f : Split → Split) : Group :=
  { g with splits := Tbl.mod g.splits sp f }

/-- A split of a group. -/
def Group.split? (g : Group) (sp : Nat) : Option Split := Tbl.get? g.splits sp

/-- Put a split. -/
def Group.putSplit (g : Group) (sp : Nat) (p : Split) : Group := { g with splits := Tbl.put g.splits sp p }

/-- Change a split of a group of the state. -/
def State.modSplit (s : State) (gid sp : Nat) (f : Split → Split) : State := s.modGroup gid fun g => g.modSplit sp f

/-! ### Time, events and free values -/

/-- An event at a given ac. -/
def State.at (s : State) (due : Nat) (i : Event) : State := { s with agenda := s.agenda ++ [(due, i)] }

/-- An event after a latency that the manual leaves open (R159): the `free`-th one.
[DESIGN CHOICE, log entry 4] -/
def State.later (s : State) (i : Event) : State :=
  { s with agenda := s.agenda ++ [(s.ac + Config.latency s.free, i)], free := s.free + 1 }

/-- An event within `n` ac.
[DESIGN CHOICE, log entry 4] -/
def State.laterWithin (s : State) (n : Nat) (e : Event) : State :=
  { s.at (s.ac + min n (Config.latency s.free)) e with free := s.free + 1 }

/-- An event as soon as possible: in this ac. -/
def State.soon (s : State) (i : Event) : State := s.at s.ac i

/-- The next free value.
[DESIGN CHOICE, log entry 5] -/
def State.freshWord (s : State) : W64 := Config.freeWord s.free

/-- The next free choice.
[DESIGN CHOICE, log entry 5] -/
def State.freshBool (s : State) : Bool := Config.freeBool s.free

/-- A free value of this ac: what a sensor reads, and every value the manual leaves open whose reading changes nothing.
[DESIGN CHOICE, log entry 5] -/
def State.freeNow (s : State) (k : Nat) : W64 := Config.freeWord (2 ^ 64 * (k + 1) + s.ac)

/-- A stack's temperature in units of 0.25 °C (R399): an input, which the machine reads at any ac.
[DESIGN CHOICE, log entry 10] -/
def State.stackTemp (s : State) (t : Nat) : Nat := (s.freeNow (0x100 + t)).toNat % 4096

/-- The hottest junction of a die in units of 0.25 °C: the compute dies 0 to 7 and the hub dies 8 and 9 (R446, R448). An input.
[DESIGN CHOICE, log entry 10] -/
def State.dieTemp (s : State) (d : Nat) : Nat := (s.freeNow (0x200 + d)).toNat % 4096

/-- The coolant's inlet in units of 0.25 °C (R444): an input.
[DESIGN CHOICE, log entry 10] -/
def State.inletTemp (s : State) : Nat := (s.freeNow 0x210).toNat % 65536

/-- The module's input power in W (R444), and a partition's (R446): inputs.
[DESIGN CHOICE, log entry 10] -/
def State.modPower (s : State) : Nat := (s.freeNow 0x211).toNat % 2 ^ 32
def State.partPower (s : State) (p : Nat) : Nat := (s.freeNow (0x220 + p)).toNat

/-- The state after a free value has been drawn.
[DESIGN CHOICE, log entry 5] -/
def State.drawn (s : State) : State := { s with free := s.free + 1 }

/-- The agent at the head of this ac has issued. -/
def State.pop (s : State) : State := { s with turns := s.turns.tail }

/-- The partition of a die (R390). -/
def State.partOfDie (s : State) (d : Nat) : Nat := (s.die d).part

/-- The hottest compute-die junction of a partition (R446).
[DESIGN CHOICE, log entry 10] -/
def State.partTemp (s : State) (p : Nat) : Nat :=
  ((List.range 8).filter fun d => (s.die d).bound && s.partOfDie d == p).foldl (fun t d => max t (s.dieTemp d)) 0

/-- The die of a core (R1): cores are numbered die × 176 + index. -/
def dieOfCore (core : Nat) : Nat := core / 176

/-- The home die of a queue (R328). -/
def dieOfQueue (q : Nat) : Nat := q / 512

/-- The partition of a queue: that of its home die (R328, R390). -/
def State.partOfQueue (s : State) (q : Nat) : Nat := s.partOfDie (dieOfQueue q)

/-- The partition of a control core's thread (R390): groups of eight control cores, two threads each. -/
def State.partOfThread (s : State) (t : Nat) : Nat :=
  ((s.parts.find? fun (_, p) => bitOf p.ccg (t / 16)).map Prod.fst).getD 0

/-- TIME of a partition (R200): the ac since it was released. -/
def State.time (s : State) (p : Nat) : Nat := s.ac - (s.part p).timeBase

/-- The bits of a 64-bit flag word that are set, as numbers below `n`. -/
def bitsOf (n x : Nat) : List Nat := (List.range n).filter (bitOf x)

/-! ### Splits -/

/-- A group's place as a scheduler number: core × 4 + scheduler. -/
def Place.schedNo (pl : Place) : Nat := 4 * pl.core + pl.sched

/-- MODE as it governs at an ac: the writes that have come due applied (R158, R189). -/
def modeAt (ac : Nat) : List (Nat × W32) → W32 → W32
  | [], m => m
  | (due, x) :: r, m => if due ≤ ac then modeAt ac r x else modeAt ac r m

/-- MODE after every write that has issued (R189). -/
def modeLast : List (Nat × W32) → W32 → W32
  | [], m => m
  | (_, x) :: r, _ => modeLast r x

/-- The live lanes of a group, in splits and parked sets (R200 GMASK). -/
def Group.live (g : Group) : W32 :=
  g.sets.foldl (fun m p => m ||| p.mask) (g.splits.foldl (fun m p => m ||| p.2.mask) 0#32)

/-- The instructions of a group in flight on a path (R79). -/
def Group.pathCount (g : Group) (path : Nat) : Nat := (g.flights.filter fun f => f.path == some path).length

/-- Whether a group has a variable-latency result that is not written (R148: what a W marker awaits). -/
def Group.pendingAny (g : Group) : Bool := g.flights.any fun f => !f.done && !(f.dv.isEmpty && f.dg.isEmpty && f.dq.isEmpty)

/-- The launch record of a group's task. -/
def State.taskOf (s : State) (g : Group) : Option Task := Tbl.get? s.simt.tasks g.place.task

/-- VREGS of a group's launch (R7). -/
def State.vregsOf (s : State) (g : Group) : Nat := ((s.taskOf g).map fun t => t.launch.vregs).getD 0

/-- The rows of a group (ACC of its launch, R32). -/
def State.accRows (s : State) (g : Group) : Nat := ((s.taskOf g).map fun t => t.launch.acc).getD 0

/-- The team of a group. -/
def State.teamOf (s : State) (g : Group) : Option Team := Tbl.get? s.simt.teams g.place.team

/-- The policy word of a context's enclave (R310). -/
def State.policyOf (s : State) (eid : Nat) : Nat := ((Tbl.get? s.hub.enclaves eid).map Enclave.policy).getD 0

/-- Whether a context's groups may issue: it is RESIDENT, not frozen, and its halt line is down (R350, R354, R290). -/
def State.ctxRuns (s : State) (q : Nat) : Bool :=
  let c := s.ctx q
  c.state == 1 && !c.frozen && c.halt.isNone

/-- A split that runs can be woken at an ac: RUN_END_MERGE makes it ready then (R10, R26). -/
def State.wake (s : State) (gid sp : Nat) : State :=
  match (s.group? gid).bind (·.split? sp) with
  | some p => (s.modSplit gid sp fun q => { q with park := none }).at (max s.ac p.readyAt) (.runEndMerge gid sp)
  | none => s

/-! ### Gated clocks (R290, R447) -/

/-- Instants of a split moved on by `k` ac. -/
def Split.delay (k : Nat) (p : Split) : Split :=
  { p with
    readyAt := p.readyAt + k, readySince := p.readySince + k
    modeQ := p.modeQ.map fun x => (x.1 + k, x.2)
    spQ := p.spQ.map fun x => { x with due := x.due + k } }

/-- A BARSYNC's split keeps its wait through a rollback (R243). -/
def Split.keepsWait (p : Split) : Bool :=
  match p.park with
  | some (.barsync _ _) => true
  | _ => false

/-- A split, or a parked set, that issues again from its safe point after a stop (R293): its offset starts at 0. -/
def Split.again (p : Split) (ac : Nat) : Split :=
  { p with
    readyAt := ac, readySince := ac
    pieces := if p.keepsWait then p.pieces else p.pieces.map fun x => { x with off := 0 } }

/-- Instants of a group moved on by `k` ac: its clock stood still for so long. -/
def Group.delay (g : Group) (k : Nat) : Group :=
  { g with
    regs := { g.regs with fsetAt := g.regs.fsetAt.map fun x => x + k }
    fixed := g.fixed.map fun x => { x with due := x.due + k }
    splits := g.splits.map fun x => (x.1, x.2.delay k)
    sets := g.sets.map (Split.delay k) }

/-- Whether a core holds a group of a context. -/
def State.hostsCtx (s : State) (q core : Nat) : Bool :=
  s.simt.groups.any fun g => g.2.place.ctx == q && g.2.place.core == core && !g.2.exited

/-- The groups of a context after its clocks stood still for `k` ac: their cores' progress windows have not advanced (R290). -/
def State.delayCtx (s : State) (q k : Nat) : State :=
  s.modSimt fun x => { x with
    groups := x.groups.map fun g => if g.2.place.ctx = q then (g.1, g.2.delay k) else g
    lastIssue := x.lastIssue.map fun c => if s.hostsCtx q c.1 then (c.1, min (c.2 + k) (s.ac + 1)) else c }

/-! ### Raising a halt line (R350, R353) -/

/-- The place of a source in the order of one ac (R353): groups, then copy engines, then others. -/
def Halt.before (a b : Halt) : Bool :=
  if a.time != b.time then decide (a.time < b.time)
  else if a.rank != b.rank then decide (a.rank < b.rank)
  else if a.core != b.core then decide (a.core < b.core)
  else if a.sched != b.sched then decide (a.sched < b.sched)
  else decide (a.slot < b.slot)

/-- What a stop leaves of an instruction in flight (R351): a result that is not written is discarded.
[DEDUCED, log entry 36] -/
def Flight.kept (f : Flight) : Bool :=
  f.done || match f.kind with
    | .alu => false
    | .load _ => false
    | _ => true

/-- A group's results in flight discarded (R351), with the safe points that wait for one. -/
def Group.discard (g : Group) : Group :=
  { g with
    fixed := []
    flights := g.flights.filter Flight.kept
    splits := g.splits.map fun x => (x.1, { x.2 with spQ := [] })
    sets := g.sets.map fun p => { p with spQ := [] } }

/-- The results in flight of a context's groups discarded as its halt line rises (R351). -/
def State.discardAll (s : State) (q : Nat) : State :=
  s.modSimt fun x => { x with groups := x.groups.map fun g => if g.2.place.ctx = q then (g.1, g.2.discard) else g }

/-- A dump of a context's enclave ends with STATE and DMPLEN 0 when a halt or FREEZE of it changes (R423). -/
def State.dumpBreak (s : State) (q : Nat) : State :=
  if s.hub.dump.busy.any fun e => (s.ctx q).eid == e then
    s.modHub fun h => { h with dump := { h.dump with result := 7, len := 0, busy := none } }
  else s

/-- A source raises a context's halt line: the first source counts, and SKID_END follows within the skid bound (R350 to R353). -/
def State.raiseHalt (s : State) (q : Nat) (h : Halt) : State :=
  let c := s.ctx q
  if c.state != 1 then s
  else
    match c.halt with
    | none => (((s.dumpBreak q).putCtx q { c with halt := some h }).discardAll q).laterWithin 2048 (.skidEnd q)
    | some h0 => if h.before h0 then s.putCtx q { c with halt := some { h with lost := h.lost ++ h0.lost } }
      else s.putCtx q { c with halt := some { h0 with lost := h0.lost ++ h.lost } }

/-- The last safe point and offset of a split's lowest lane. -/
def Split.point (p : Split) (l : Nat) : Nat × Nat :=
  match p.pieces.find? fun x => hasLane x.mask l with
  | some x => (x.ord, x.off)
  | none => (0, 0)

/-- A group stops for a cause at a point (R350): its record and the halt line. `value` is the address, the trap number or 0
(R359). -/
def State.haltAt (s : State) (gid cause value ord off : Nat) : State :=
  match s.group? gid with
  | none => s
  | some g =>
    let st : StopInfo := ⟨cause, ord, off, value, false⟩
    let pl := g.place
    (s.putGroup gid { g.discard with stop := some (g.stop.getD st) }).raiseHalt pl.ctx
      ⟨cause, 0, pl.core, pl.sched, pl.slot, some gid, ord, off, value, s.ac, []⟩

/-- A fault of an instruction (R167): cause, value, and the lane that meets it where it is a lane's. -/
structure Flt where
  cause : Nat
  value : Nat
  lane : Option Nat
  deriving DecidableEq, Repr

/-- A fault that is no lane's. -/
def Flt.plain (e : Nat × Nat) : Flt := ⟨e.1, e.2, none⟩

/-- The split or parked set that holds a lane. -/
def Group.holder (g : Group) (l : Nat) : Option Split := (g.splits.map Prod.snd ++ g.sets).find? fun p => hasLane p.mask l

/-- A group stops for a fault of a split, at the safe point of the faulting lane (R293), or of the split's lowest lane. -/
def State.haltFlt (s : State) (gid sp : Nat) (f : Flt) : State :=
  match s.group? gid with
  | none => s
  | some g =>
    let p := (g.split? sp).getD (Split.start 0#64)
    let l := f.lane.getD ((lowestLane p.mask).getD 0)
    let (ord, off) := ((g.holder l).getD p).point l
    s.haltAt gid f.cause f.value ord off

/-- A group stops for a cause at the point of a split. -/
def State.haltGroup (s : State) (gid sp : Nat) (cause value : Nat) : State := s.haltFlt gid sp ⟨cause, value, none⟩

/-- A fault of the instruction a split is issuing (R167): the context halts, and the split's turn is over. -/
def State.simtFault (s : State) (gid sp : Nat) (cause value : Nat) : State := (s.haltGroup gid sp cause value).pop

/-! ### Thread control pages and leaving an enclave (R274, R317) -/

/-- The bytes of the 64-bit registers g0 to g63 (R317), with the first `k` written as zero. -/
def gBytes (g : Table W64) (k : Nat) : List Byte :=
  (List.range 64).flatMap fun n => leBytes 8 (if n < k then 0 else (Tbl.fget 0#64 g n).toNat)

/-- The bytes of q0 to q7 (R317); q7 reads true. -/
def qBytes (q : Table Bool) : List Byte :=
  (List.range 8).map fun n => BitVec.ofNat 8 (if n = 7 then 1 else b01 (Tbl.fget false q n))

/-- A thread control page (Table 6 of ch18). -/
def tcpBytes (state : Nat) (resume : W64) (mode : W32) (fstat : W64) (cause : W32) (value : W64) (g q : List Byte) :
    List Byte :=
  leBytes 4 state ++ leBytes 4 0 ++ leBytes 8 resume.toNat ++ leBytes 4 mode.toNat ++ leBytes 4 0
    ++ leBytes 8 fstat.toNat ++ leBytes 4 cause.toNat ++ leBytes 4 0 ++ leBytes 8 value.toNat ++ leBytes 16 0
    ++ g ++ q ++ leBytes (0x1000 - 0x248) 0

/-- The physical address of a thread control page, while the enclave owns it (R317). -/
def State.tcpAt (s : State) (eid i : Nat) : Option Nat :=
  ((Tbl.get? s.hub.enclaves eid).bind fun e => e.tcps[i]?).filter fun pa =>
    (Tbl.get? s.store.pot (pa / 4096)).any fun p => p.state == 3 && p.owner == eid

/-- The physical address of a thread's control page. -/
def State.tcpOf (s : State) (t : Thread) : Option Nat := s.tcpAt t.eid t.tidx

/-- MODE at reset (R156). -/
def modeReset : W32 := 0x87#32

/-- A thread's xCAUSE word (Table 2 of ch13). -/
def causeWord (enc : Bool) (cls code : Nat) : W32 := BitVec.ofNat 32 (65536 * b01 enc + 256 * cls + code)

/-- The thread with every register cleared but the first `k` g registers (R274). -/
def Thread.cleared (t : Thread) (k : Nat) : Thread :=
  { t with
    g := t.g.filter fun p => decide (p.1 < k)
    q := []
    fstat := 0#64
    mode := modeReset
    poison := t.poison.filter fun p => decide (p.1 < k) }

/-- Leave the enclave (R274, R317): the page records the state; `sync` keeps g0 to g3. The thread is then in the host
domain. `report` is the full value of the trap. -/
def State.enclaveExit (s : State) (tid : Nat) (sync : Bool) (resume : W64) (cls code : Nat) (report : W64) : State :=
  let t := s.thread tid
  let bytes := tcpBytes (if sync then 2 else 3) resume t.mode t.fstat (causeWord true cls code) report
    (gBytes t.g (if sync then 4 else 0)) (qBytes t.q)
  let s := match s.tcpOf t with
    | some pa => (s.poke pa bytes).modStore fun x => { x with
        poison := x.poison.filter fun c => c.1 / 64 != pa / 4096
        latent := x.latent.filter fun c => c.1 / 64 != pa / 4096 }
    | none => s
  s.putThread tid { t.cleared (if sync then 4 else 0) with eid := 0, tidx := 0 }

/-- A trap: class (Table 2 of ch13: 0 FAULT, 1 SYSCALL, 2 HVCALL, 3 INTERRUPT, 4 EEXIT), code, target level, the
instruction that an ordinary return goes to, its value, and whether it leaves an enclave synchronously. -/
structure Trap where
  cls : Nat
  code : Nat
  level : Nat
  epc : W64
  value : W64
  sync : Bool
  deriving DecidableEq, Repr

/-- The value the host sees of a trap that left an enclave (Table 3 of ch13). -/
def Trap.encValue (t : Trap) : W64 :=
  if t.cls = 3 then t.value
  else if t.cls = 0 ∧ (t.code = 6 ∨ t.code = 8) then (t.value >>> 12) &&& 0x1FFFFFFFFFFF#64
  else 0#64

/-- xSTAT after a trap: PL the level before, PIE the former IE, IE 0 (R272). -/
def trapStat (stat : W32) (lvl : Nat) : W32 :=
  BitVec.ofNat 32 (4 * lvl + 2 * b01 (bitOf stat.toNat 0))

/-- The trap registers after entry (R272). -/
def TrapRegs.enter (r : TrapRegs) (epc : W64) (cause : W32) (value : W64) (lvl : Nat) : TrapRegs :=
  { r with epc := epc, cause := cause, val := value, stat := trapStat r.stat lvl }

/-- Taking a trap (R272): the target level's registers are written, the thread leaves its enclave if it is in one, its level
becomes the target, and its pc the vector. One indivisible step. -/
def State.trap (s : State) (tid : Nat) (tr : Trap) : State :=
  let t := s.thread tid
  let enc := t.eid != 0
  let epc := if enc then t.encRet else tr.epc
  let lvl := if enc then t.encLvl else t.lvl
  let value := if enc then tr.encValue else tr.value
  let cause := causeWord enc tr.cls tr.code
  let s := if enc then s.enclaveExit tid tr.sync tr.epc tr.cls tr.code tr.value else s
  s.modThread tid fun t =>
    let t := { t with wfi := false, wait := none, tupleWait := none, queued := none }
    if tr.level = 2 then
      { t with h := t.h.enter epc cause value lvl, lvl := 2, pc := t.h.vec }
    else { t with k := t.k.enter epc cause value lvl, lvl := 1, pc := t.k.vec }

/-- The level that a fault at a level goes to (R272). -/
def faultLevel (lvl : Nat) : Nat := if lvl = 2 then 2 else 1

/-- Whether a fault's xVAL is its address (Table 3 of ch13). -/
def faultHasAddress (cause : Nat) : Bool := [6, 7, 8, 9].contains cause

/-- A fault of a control thread's instruction: a trap of CLASS FAULT (R272), which tells an enclave's own page the whole value
(R317); its turn is over. -/
def State.threadFault (s : State) (tid : Nat) (cause value : Nat) : State :=
  let t := s.thread tid
  (s.trap tid ⟨0, cause, faultLevel t.lvl, t.pc,
    if t.eid ≠ 0 ∨ faultHasAddress cause = true then BitVec.ofNat 64 value else 0#64, false⟩).pop

/-- xSTAT after ERET: IE becomes PIE (R273).
[DEDUCED, log entry 48] -/
def eretStat (stat : W32) : W32 := BitVec.ofNat 32 (stat.toNat / 2 * 2 + b01 (bitOf stat.toNat 1))

/-- Return from the current level x (R273): xSTAT.IE becomes PIE, the level PL, the pc xEPC. -/
def Thread.eret (t : Thread) : Thread :=
  if t.lvl = 2 then { t with h := { t.h with stat := eretStat t.h.stat }, lvl := fieldOf t.h.stat.toNat 2 2, pc := t.h.epc }
  else { t with k := { t.k with stat := eretStat t.k.stat }, lvl := fieldOf t.k.stat.toNat 2 2, pc := t.k.epc }

end Sys2Proof.Machine
end

