-- ==== Sys2Proof/Machine/Format.lean ====
section
/-! DEFINITION. Format.lean: the number formats of ch07 (R132 to R139): codes read as values. -/

namespace Sys2Proof.Machine

/-- Flags that a rounding raises, with the bits of FSTAT (Table 8 of ch09). -/
abbrev Flags := BitVec 5

def flagNV : Flags := 1#5
def flagDZ : Flags := 2#5
def flagOF : Flags := 4#5
def flagUF : Flags := 8#5
def flagNX : Flags := 16#5

/-- A binary floating-point format (Table 1 of ch07): exponent and fraction widths, bias, largest finite magnitude code,
whether it has an infinity, and its canonical NaN (R134). -/
structure FloatFmt where
  eb : Nat
  mb : Nat
  bias : Nat
  maxCode : Nat
  hasInf : Bool
  nan : Option Nat
  deriving DecidableEq, Repr

def fmtFP32 : FloatFmt := ⟨8, 23, 127, 0x7F7FFFFF, true, some 0x7FC00000⟩
def fmtKF19 : FloatFmt := ⟨7, 11, 63, 0x3F7FF, true, some 0x3FC00⟩
def fmtBF16 : FloatFmt := ⟨8, 7, 127, 0x7F7F, true, some 0x7FC0⟩
def fmtFP16 : FloatFmt := ⟨5, 10, 15, 0x7BFF, true, some 0x7E00⟩
def fmtE5M2 : FloatFmt := ⟨5, 2, 15, 0x7B, true, some 0x7E⟩
def fmtE4M3 : FloatFmt := ⟨4, 3, 7, 0x7E, false, some 0x7F⟩
def fmtE3M2 : FloatFmt := ⟨3, 2, 3, 0x1F, false, none⟩
def fmtE2M3 : FloatFmt := ⟨2, 3, 1, 0x1F, false, none⟩
def fmtE2M1 : FloatFmt := ⟨2, 1, 1, 0x7, false, none⟩

/-- A number format (Table 6 of ch07) or register type (R132, R136). -/
inductive NumFmt where
  | float (f : FloatFmt)
  /-- TF8 (bits below the sign 7, es 1) and TF6 (5, 0). -/
  | taper (n es : Nat)
  | int (signed : Bool) (w : Nat)
  deriving DecidableEq, Repr

/-- The format of a format code (R139). -/
def numFmt : Nat → Option NumFmt
  | 0 => some (.float fmtFP32)
  | 1 => some (.float fmtKF19)
  | 2 => some (.float fmtBF16)
  | 3 => some (.float fmtFP16)
  | 4 => some (.float fmtE5M2)
  | 5 => some (.float fmtE4M3)
  | 6 => some (.float fmtE3M2)
  | 7 => some (.float fmtE2M3)
  | 8 => some (.float fmtE2M1)
  | 9 => some (.taper 7 1)
  | 10 => some (.taper 5 0)
  | 11 => some (.int true 8)
  | 12 => some (.int false 8)
  | 13 => some (.int true 4)
  | _ => none

/-- The format of a MODE.ETY code (R156, R132). -/
def etyFmt : Nat → Option NumFmt
  | 0 => some (.int true 32)
  | 1 => some (.int false 32)
  | 2 => some (.int true 64)
  | 3 => some (.int false 64)
  | 4 => some (.int true 16)
  | 5 => some (.int false 16)
  | 6 => some (.int true 8)
  | 7 => some (.int false 8)
  | 8 => some (.float fmtFP32)
  | 9 => some (.float fmtFP16)
  | 10 => some (.float fmtBF16)
  | _ => none

/-- A value read from a code: a NaN (signalling or quiet), an infinity, or (−1)^neg × m × 2^e. -/
inductive FVal where
  | nan (signalling : Bool)
  | inf (neg : Bool)
  | fin (neg : Bool) (m : Nat) (e : Int)
  deriving DecidableEq, Repr

/-- Bits of a float format's code. -/
def FloatFmt.width (f : FloatFmt) : Nat := 1 + f.eb + f.mb

/-- The code of the infinity of a sign. -/
def FloatFmt.infCode (f : FloatFmt) (neg : Bool) : Nat := b01 neg * 2 ^ (f.eb + f.mb) + (2 ^ f.eb - 1) * 2 ^ f.mb

/-- The code of a sign and magnitude code. -/
def FloatFmt.signed (f : FloatFmt) (neg : Bool) (mag : Nat) : Nat := b01 neg * 2 ^ (f.eb + f.mb) + mag

/-- A code of a float format read (R133). -/
def FloatFmt.read (f : FloatFmt) (code : Nat) : FVal :=
  let x := code % 2 ^ f.width
  let neg := bitOf x (f.eb + f.mb)
  let e := fieldOf x f.mb f.eb
  let m := x % 2 ^ f.mb
  if f.hasInf && e == 2 ^ f.eb - 1 then
    if m = 0 then .inf neg else .nan (decide (m < 2 ^ (f.mb - 1)))
  else if !f.hasInf && f.nan == some (x % 2 ^ (f.eb + f.mb)) then .nan false
  else if e = 0 then .fin neg m (1 - (f.bias : Int) - f.mb)
  else .fin neg (2 ^ f.mb + m) ((e : Int) - f.bias - f.mb)

/-- The length of the run of bits equal to `b` from bit `n - 1` of `x` down (R135). -/
def runLen (b : Nat) : Nat → Nat → Nat
  | 0, _ => 0
  | n + 1, x => if x / 2 ^ n % 2 = b then 1 + runLen b n x else 0

/-- The magnitude of a positive tapered code with `n` bits below the sign (R135): significand and exponent. -/
def taperMag (n es code : Nat) : Nat × Int :=
  let b := code / 2 ^ (n - 1) % 2
  let m := runLen b n code
  let k : Int := if b = 1 then (m : Int) - 1 else -(m : Int)
  let rest := n - (m + 1)
  let eb := min es rest
  let e := (code % 2 ^ rest) / 2 ^ (rest - eb) * 2 ^ (es - eb)
  let f := rest - eb
  (2 ^ f + code % 2 ^ f, k * (2 ^ es : Nat) + e - f)

/-- A tapered code read (R135). -/
def taperRead (n es code : Nat) : FVal :=
  let x := code % 2 ^ (n + 1)
  let mag := x % 2 ^ n
  let neg := bitOf x n
  if mag = 0 then (if neg then .nan false else .fin false 0 0)
  else let (m, e) := taperMag n es mag; .fin neg m e

/-- A code of any format read as a value (R133, R135, R136). -/
def NumFmt.read (f : NumFmt) (code : Nat) : FVal :=
  match f with
  | .float g => g.read code
  | .taper n es => taperRead n es code
  | .int s w => let x := readInt s w code; .fin (decide (x < 0)) x.natAbs 0

/-- Bits of a format's code. -/
def NumFmt.width : NumFmt → Nat
  | .float f => f.width
  | .taper n _ => n + 1
  | .int _ w => w

/-- Whether a value is a NaN. -/
def FVal.isNan : FVal → Bool
  | .nan _ => true
  | _ => false

/-- Whether a value is a signalling NaN. -/
def FVal.isSnan : FVal → Bool
  | .nan true => true
  | _ => false

/-- Whether a value is an infinity. -/
def FVal.isInf : FVal → Bool
  | .inf _ => true
  | _ => false

/-- Whether a value is a zero. -/
def FVal.isZero : FVal → Bool
  | .fin _ 0 _ => true
  | _ => false

/-- The sign of a value. -/
def FVal.neg : FVal → Bool
  | .nan _ => false
  | .inf s => s
  | .fin s _ _ => s

/-- Element types (R132): the number of elements in a register or pair. -/
def elemCount (ety : Nat) : Nat :=
  if ety = 4 ∨ ety = 5 ∨ ety = 9 ∨ ety = 10 then 2 else if ety = 6 ∨ ety = 7 then 4 else 1

/-- The width of an element (R132, R177). -/
def elemWidth (ety : Nat) : Nat :=
  if ety = 2 ∨ ety = 3 then 64 else if ety = 4 ∨ ety = 5 ∨ ety = 9 ∨ ety = 10 then 16
  else if ety = 6 ∨ ety = 7 then 8 else 32

/-- Signed integer types. -/
def etySigned (ety : Nat) : Bool := ety < 8 && ety % 2 == 0

/-- Integer types (R177). -/
def etyInt (ety : Nat) : Bool := ety < 8

/-- Floating-point types (R204). -/
def etyFloat (ety : Nat) : Bool := 8 ≤ ety && ety < 11

/-- 64-bit types. -/
def ety64 (ety : Nat) : Bool := ety == 2 || ety == 3

/-- Packed types. -/
def etyPacked (ety : Nat) : Bool := elemCount ety != 1

/-- The floating-point format of an element type; FP32 for any other. -/
def etyFloatFmt (ety : Nat) : FloatFmt := if ety = 9 then fmtFP16 else if ety = 10 then fmtBF16 else fmtFP32

end Sys2Proof.Machine
end

