-- ==== Sys2Proof/Machine/Round.lean ====
section
/-! DEFINITION. Round.lean: rounding (R140 to R144), the SR generator (R145), MX scales (R146), tolerant truncation
(R147) and the arithmetic of ch10 over values. -/

namespace Sys2Proof.Machine

/-- An exact non-zero magnitude with a sign: (−1)^neg × x with m × 2^e ≤ x, and x < (m + 1) × 2^e, equal to the lower
bound exactly when `sticky` is false. -/
structure Exact where
  neg : Bool
  m : Nat
  e : Int
  sticky : Bool
  deriving DecidableEq, Repr

/-- A rounded code and the flags it raised. -/
structure Rounded where
  code : Nat
  flags : Flags
  deriving DecidableEq, Repr

/-- The lower neighbour in units of 2^q of an exact magnitude, whether anything is left over, how twice the rest compares
with the unit, and ⌊frac × 2^32⌋ (Table 3 of ch07). -/
structure Split2 where
  n : Nat
  inexact : Bool
  half : Ordering
  frac32 : Nat
  deriving DecidableEq, Repr

def splitAt (x : Exact) (q : Int) : Split2 :=
  if q ≤ x.e then
    ⟨x.m * 2 ^ (x.e - q).toNat, x.sticky, if x.sticky then .gt else .lt, 0⟩
  else
    let sh := (q - x.e).toNat
    let r := x.m % 2 ^ sh
    let h := if 2 * r < 2 ^ sh then Ordering.lt else if 2 * r = 2 ^ sh ∧ !x.sticky then .eq else .gt
    ⟨x.m / 2 ^ sh, r != 0 || x.sticky, h, r * 2 ^ 32 / 2 ^ sh⟩

/-- Whether a rounding mode takes the upper neighbour (Table 3 of ch07); `u` is SR's draw. -/
def roundsUp (rnd : Nat) (u : Nat) (neg : Bool) (s : Split2) : Bool :=
  if !s.inexact then false
  else match rnd with
    | 0 => s.half == .gt || (s.half == .eq && s.n % 2 == 1)
    | 1 => false
    | 2 => neg
    | 3 => !neg
    | 4 => s.half != .lt
    | _ => decide (2 ^ 32 ≤ s.frac32 + u)

/-- The unit, as an exponent of 2, of the binade of a format that holds an exact magnitude. -/
def FloatFmt.quantum (f : FloatFmt) (x : Exact) : Int :=
  max ((Nat.log2 x.m : Int) + x.e - f.mb) (1 - (f.bias : Int) - f.mb)

/-- The magnitude code, exponent unbounded, of `n` units of 2^q. -/
def FloatFmt.magCode (f : FloatFmt) (q : Int) (n : Nat) : Nat := (q - (1 - (f.bias : Int) - f.mb)).toNat * 2 ^ f.mb + n

/-- The result of an overflow (R141). `far`: at or above the RNE overflow threshold. -/
def FloatFmt.overflowCode (f : FloatFmt) (rnd : Nat) (sat neg far : Bool) : Nat :=
  let big := f.signed neg f.maxCode
  let inf := f.infCode neg
  if !f.hasInf || sat then big
  else match rnd with
    | 0 | 4 => inf
    | 1 => big
    | 2 => if neg then inf else big
    | 3 => if neg then big else inf
    | _ => if far then inf else big

/-- An exact non-zero value rounded once into a float format (R140, R141, R143).
[DEDUCED, log entry 128] -/
def FloatFmt.round (f : FloatFmt) (rnd : Nat) (sat : Bool) (u : Nat) (x : Exact) : Rounded :=
  let q := f.quantum x
  let s := splitAt x q
  let far := f.maxCode < f.magCode q (if roundsUp 0 0 x.neg s then s.n + 1 else s.n)
  let up := roundsUp rnd u x.neg s
  let mag := f.magCode q (if up then s.n + 1 else s.n)
  if f.maxCode < mag || (decide (5 ≤ rnd) && far) then
    ⟨f.overflowCode rnd sat x.neg far, flagOF ||| flagNX⟩
  else
    ⟨f.signed x.neg mag,
      if !s.inexact then 0#5
      else if mag ≠ 0 ∧ mag < 2 ^ f.mb then flagNX ||| flagUF else flagNX⟩

/-- Compare m1 × 2^e1 with m2 × 2^e2. -/
def cmpMag (m1 : Nat) (e1 : Int) (m2 : Nat) (e2 : Int) : Ordering :=
  let e := min e1 e2
  compare (m1 * 2 ^ (e1 - e).toNat) (m2 * 2 ^ (e2 - e).toNat)

/-- The greatest tapered code from `c` down whose magnitude is at most x; 0 if none is. -/
def taperFloor (n es : Nat) (x : Exact) : Nat → Nat
  | 0 => 0
  | c + 1 =>
    let (m, e) := taperMag n es (c + 1)
    if cmpMag m e x.m x.e != .gt then c + 1 else taperFloor n es x c

/-- An exact non-zero value into a tapered format (R141): nearest, ties to the even code, never zero. -/
def taperRound (n es : Nat) (x : Exact) : Rounded :=
  let top := 2 ^ n - 1
  let c := taperFloor n es x top
  let s := b01 x.neg * 2 ^ n
  if c = 0 then ⟨s + 1, flagUF ||| flagNX⟩
  else
    let (m, e) := taperMag n es c
    if cmpMag m e x.m x.e == .eq && !x.sticky then ⟨s + c, 0#5⟩
    else if c = top then ⟨s + top, flagOF ||| flagNX⟩
    else
      let (m', e') := taperMag n es (c + 1)
      let lo := min e e'
      let sum := m * 2 ^ (e - lo).toNat + m' * 2 ^ (e' - lo).toNat
      let c' := match cmpMag (2 * x.m) x.e sum lo with
        | .lt => c
        | .gt => c + 1
        | .eq => if x.sticky then c + 1 else if c % 2 = 0 then c else c + 1
      ⟨s + c', flagNX⟩

/-- The bounds of an integer format (R136). -/
def intMin (signed : Bool) (w : Nat) : Int := if signed then -(2 ^ (w - 1) : Nat) else 0
def intMax (signed : Bool) (w : Nat) : Int := if signed then (2 ^ (w - 1) : Nat) - 1 else (2 ^ w : Nat) - 1

/-- A value rounded to an integer by a mode (R142): the integer, and whether it differs. -/
def roundToInt (rnd : Nat) (x : Exact) : Int × Bool :=
  let s := splitAt x 0
  let n := if roundsUp (if rnd = 5 then 0 else rnd) 0 x.neg s then s.n + 1 else s.n
  (if x.neg then -(n : Int) else n, s.inexact)

/-- Float to integer (R142). -/
def floatToInt (signed : Bool) (w rnd : Nat) (v : FVal) : Rounded :=
  match v with
  | .nan _ => ⟨0, flagNV⟩
  | .inf neg => ⟨wrapInt w (if neg then intMin signed w else intMax signed w), flagNV⟩
  | .fin neg m e =>
    let (n, ix) := roundToInt rnd ⟨neg, m, e, false⟩
    if n < intMin signed w then ⟨wrapInt w (intMin signed w), flagNV⟩
    else if intMax signed w < n then ⟨wrapInt w (intMax signed w), flagNV⟩
    else ⟨wrapInt w n, if ix then flagNX else 0#5⟩

/-- Integer to integer (R142). -/
def intToInt (signed : Bool) (w : Nat) (sat : Bool) (x : Int) : Rounded :=
  if sat && decide (x < intMin signed w) then ⟨wrapInt w (intMin signed w), flagOF⟩
  else if sat && decide (intMax signed w < x) then ⟨wrapInt w (intMax signed w), flagOF⟩
  else ⟨wrapInt w x, 0#5⟩

/-- The flag of a NaN operand. -/
def nanFlag (s : Bool) : Flags := if s then flagNV else 0#5

/-- A value into a float format (R134, R140, R141, R144). -/
def FloatFmt.conv (f : FloatFmt) (rnd : Nat) (sat : Bool) (u : Nat) (v : FVal) : Rounded :=
  match v with
  | .nan s => match f.nan with
    | some c => ⟨c, nanFlag s⟩
    | none => ⟨f.maxCode, flagNV⟩
  | .inf neg => if f.hasInf then ⟨f.infCode neg, 0#5⟩ else ⟨f.signed neg f.maxCode, flagNV⟩
  | .fin neg m e => if m = 0 then ⟨f.signed neg 0, 0#5⟩ else f.round rnd sat u ⟨neg, m, e, false⟩

/-- A value into a tapered format (R141, R144). -/
def taperConv (n es : Nat) (v : FVal) : Rounded :=
  match v with
  | .nan s => ⟨2 ^ n, nanFlag s⟩
  | .inf neg => ⟨b01 neg * 2 ^ n + (2 ^ n - 1), flagNV⟩
  | .fin neg m e => if m = 0 then ⟨0, 0#5⟩ else taperRound n es ⟨neg, m, e, false⟩

/-- A code of one format into another (R142, R213): the one conversion. -/
def convert (src dst : NumFmt) (rnd : Nat) (sat : Bool) (u : Nat) (code : Nat) : Rounded :=
  match src, dst with
  | .int s w, .int s' w' => intToInt s' w' sat (readInt s w code)
  | _, .int s' w' => floatToInt s' w' rnd (src.read code)
  | _, .taper n es => taperConv n es (src.read code)
  | _, .float f => f.conv rnd sat u (src.read code)

/-- Arithmetic instructions treat SR as RNE (R140). -/
def arithRnd (rnd : Nat) : Nat := if rnd = 5 then 0 else rnd

/-- A signed sum of two scaled integers: the exact value. -/
def addScaled (n1 : Bool) (m1 : Nat) (e1 : Int) (n2 : Bool) (m2 : Nat) (e2 : Int) : Bool × Nat × Int :=
  let e := min e1 e2
  let a : Int := (m1 * 2 ^ (e1 - e).toNat : Nat)
  let b : Int := (m2 * 2 ^ (e2 - e).toNat : Nat)
  let x := (if n1 then -a else a) + (if n2 then -b else b)
  (decide (x < 0), x.natAbs, e)

/-- The canonical NaN as a rounded result (R134). -/
def FloatFmt.nanResult (f : FloatFmt) (fl : Flags) : Rounded := ⟨f.nan.getD 0, fl⟩

/-- Round a dyadic result; an exact zero sum has the given sign (R206). -/
def FloatFmt.finish (f : FloatFmt) (rnd : Nat) (zeroNeg neg : Bool) (m : Nat) (e : Int) : Rounded :=
  if m = 0 then ⟨f.signed zeroNeg 0, 0#5⟩ else f.round rnd false 0 ⟨neg, m, e, false⟩

/-- The sign of an exact zero sum (R206). -/
def zeroSign (rnd : Nat) (n1 n2 : Bool) : Bool := if n1 == n2 then n1 else rnd == 2

/-- FADD over values (R206); FSUB negates its second operand first. -/
def FloatFmt.add (f : FloatFmt) (rnd : Nat) (a c : FVal) : Rounded :=
  if a.isNan || c.isNan then f.nanResult (nanFlag (a.isSnan || c.isSnan))
  else match a, c with
    | .inf s, .inf t => if s == t then ⟨f.infCode s, 0#5⟩ else f.nanResult flagNV
    | .inf s, _ => ⟨f.infCode s, 0#5⟩
    | _, .inf t => ⟨f.infCode t, 0#5⟩
    | .fin n1 m1 e1, .fin n2 m2 e2 =>
      let (n, m, e) := addScaled n1 m1 e1 n2 m2 e2
      f.finish (arithRnd rnd) (zeroSign rnd n1 n2) n m e
    | _, _ => f.nanResult 0#5

/-- A value with its sign flipped. -/
def FVal.negate : FVal → FVal
  | .nan s => .nan s
  | .inf n => .inf (!n)
  | .fin n m e => .fin (!n) m e

/-- The exact product of two values; none when it is ∞ × 0. -/
def FVal.mul (a c : FVal) : Option FVal :=
  match a, c with
  | .nan s, .nan t => some (.nan (s || t))
  | .nan s, _ => some (.nan s)
  | _, .nan t => some (.nan t)
  | .inf s, .inf t => some (.inf (s != t))
  | .inf s, .fin n m _ => if m = 0 then none else some (.inf (s != n))
  | .fin n m _, .inf t => if m = 0 then none else some (.inf (n != t))
  | .fin n1 m1 e1, .fin n2 m2 e2 => some (.fin (n1 != n2) (m1 * m2) (e1 + e2))

/-- FMUL (R206). -/
def FloatFmt.mulR (f : FloatFmt) (rnd : Nat) (a c : FVal) : Rounded :=
  if a.isNan || c.isNan then f.nanResult (nanFlag (a.isSnan || c.isSnan))
  else match a.mul c with
    | none => f.nanResult flagNV
    | some (.inf s) => ⟨f.infCode s, 0#5⟩
    | some (.fin n m e) => f.finish (arithRnd rnd) n n m e
    | some (.nan _) => f.nanResult 0#5

/-- An exact sum of several finite terms. -/
def sumScaled : List FVal → Bool × Nat × Int
  | [] => (false, 0, 0)
  | .fin n m e :: r => let (n2, m2, e2) := sumScaled r; addScaled n m e n2 m2 e2
  | _ :: r => sumScaled r

/-- A sum of exact terms rounded once (R206, R210): infinities that oppose are invalid, and a zero sum takes the common
sign of the terms. -/
def FloatFmt.sumTerms (f : FloatFmt) (rnd : Nat) (ts : List FVal) : Rounded :=
  let infs := ts.filter FVal.isInf
  if infs.isEmpty then
    let (n, m, e) := sumScaled ts
    let z := if ts.all FVal.neg then true else if ts.all (fun t => !t.neg) then false else rnd == 2
    f.finish (arithRnd rnd) z n m e
  else if infs.all FVal.neg then ⟨f.infCode true, 0#5⟩
  else if infs.all (fun t => !t.neg) then ⟨f.infCode false, 0#5⟩
  else f.nanResult flagNV

/-- A fused sum of products and one addend, rounded once into `f` (FFMA, FDOT2: R206, R210). -/
def FloatFmt.fused (f : FloatFmt) (rnd : Nat) (prods : List (FVal × FVal)) (d : FVal) : Rounded :=
  let ps := prods.map fun (a, c) => a.mul c
  let ops := d :: (prods.map Prod.fst ++ prods.map Prod.snd)
  if ps.any Option.isNone then f.nanResult flagNV
  else if ops.any FVal.isNan then f.nanResult (nanFlag (ops.any FVal.isSnan))
  else f.sumTerms rnd (ps.filterMap id ++ [d])

/-- The quotient of two non-zero magnitudes, with enough bits to round. -/
def divExact (neg : Bool) (m1 : Nat) (e1 : Int) (m2 : Nat) (e2 : Int) : Exact :=
  let s := 72 + Nat.log2 m2
  let n := m1 * 2 ^ s
  ⟨neg, n / m2, e1 - e2 - s, n % m2 != 0⟩

/-- FDIV (R206, R211). -/
def FloatFmt.div (f : FloatFmt) (rnd : Nat) (a c : FVal) : Rounded :=
  if a.isNan || c.isNan then f.nanResult (nanFlag (a.isSnan || c.isSnan))
  else match a, c with
    | .inf _, .inf _ => f.nanResult flagNV
    | .inf s, _ => ⟨f.infCode (s != c.neg), 0#5⟩
    | _, .inf t => ⟨f.signed (a.neg != t) 0, 0#5⟩
    | .fin n1 m1 e1, .fin n2 m2 e2 =>
      if m2 = 0 then (if m1 = 0 then f.nanResult flagNV else ⟨f.infCode (n1 != n2), flagDZ⟩)
      else if m1 = 0 then ⟨f.signed (n1 != n2) 0, 0#5⟩
      else f.round (arithRnd rnd) false 0 (divExact (n1 != n2) m1 e1 m2 e2)
    | _, _ => f.nanResult 0#5

/-- A magnitude as m × 2^e with `e` even. -/
def evenExp (m : Nat) (e : Int) : Nat × Int := if e % 2 = 0 then (m, e) else (2 * m, e - 1)

/-- FSQRT (R211, R212). -/
def FloatFmt.sqrt (f : FloatFmt) (rnd : Nat) (a : FVal) : Rounded :=
  match a with
  | .nan s => f.nanResult (nanFlag s)
  | .inf true => f.nanResult flagNV
  | .inf false => ⟨f.infCode false, 0#5⟩
  | .fin n m e =>
    if m = 0 then ⟨f.signed n 0, 0#5⟩
    else if n then f.nanResult flagNV
    else
      let (m, e) := evenExp m e
      let x := m * 2 ^ 128
      let r := isqrt x
      f.round (arithRnd rnd) false 0 ⟨false, r, e / 2 - 64, r * r != x⟩

/-- FRSQ (R211, R212). -/
def FloatFmt.rsqrt (f : FloatFmt) (rnd : Nat) (a : FVal) : Rounded :=
  match a with
  | .nan s => f.nanResult (nanFlag s)
  | .inf true => f.nanResult flagNV
  | .inf false => ⟨f.signed false 0, 0#5⟩
  | .fin n m e =>
    if m = 0 then ⟨f.infCode n, flagDZ⟩
    else if n then f.nanResult flagNV
    else
      let (m, e) := evenExp m e
      let k := 72 + Nat.log2 m
      let r := isqrt (2 ^ (2 * k) / m)
      f.round (arithRnd rnd) false 0 ⟨false, r, -(e / 2) - k, r * r * m != 2 ^ (2 * k)⟩

/-- FRCP (R211, R212). -/
def FloatFmt.rcp (f : FloatFmt) (rnd : Nat) (a : FVal) : Rounded := f.div rnd (.fin false 1 0) a

/-- The order of two values that are not NaN, with −0 below +0 when `zeros` is set (R207) and equal otherwise. -/
def FVal.cmp (zeros : Bool) (a c : FVal) : Ordering :=
  match a, c with
  | .inf s, .inf t => if s == t then .eq else if s then .lt else .gt
  | .inf s, _ => if s then .lt else .gt
  | _, .inf t => if t then .gt else .lt
  | .fin n1 m1 e1, .fin n2 m2 e2 =>
    if m1 = 0 ∧ m2 = 0 then
      if zeros && n1 != n2 then (if n1 then .lt else .gt) else .eq
    else
      let (n, m, _) := addScaled n1 m1 e1 (!n2) m2 e2
      if m = 0 then .eq else if n then .lt else .gt
  | _, _ => .eq

/-- FMIN and FMAX over codes (R207). -/
def FloatFmt.minMax (f : FloatFmt) (isMax : Bool) (a c : Nat) : Rounded :=
  let x := f.read a
  let y := f.read c
  let fl := nanFlag (x.isSnan || y.isSnan)
  if x.isNan && y.isNan then f.nanResult fl
  else if x.isNan then ⟨c, fl⟩
  else if y.isNan then ⟨a, fl⟩
  else match x.cmp true y with
    | .lt => ⟨if isMax then c else a, fl⟩
    | .gt => ⟨if isMax then a else c, fl⟩
    | .eq => ⟨a, fl⟩

/-- FCMP's conditions (R169, Table 10 of ch08): the result and the flag. -/
def floatCond (cond : Nat) (a c : FVal) : Bool × Flags :=
  let un := a.isNan || c.isNan
  let o := a.cmp false c
  let lt := o == .lt
  let eq := o == .eq
  let gt := o == .gt
  let res := if un then cond == 1 || cond == 6 || (decide (8 ≤ cond) && decide (cond < 13))
    else match cond with
      | 0 => eq
      | 1 => !eq
      | 2 => lt
      | 3 => lt || eq
      | 4 => gt
      | 5 => gt || eq
      | 6 => false
      | 7 => true
      | 8 => !lt
      | 9 => !(lt || eq)
      | 10 => !gt
      | 11 => !(gt || eq)
      | _ => eq
  let quietInvalid := (decide (2 ≤ cond) && decide (cond ≤ 5)) || (decide (8 ≤ cond) && decide (cond ≤ 11))
  (res, if a.isSnan || c.isSnan || (un && quietInvalid) then flagNV else 0#5)

/-- FRND (R209). -/
def FloatFmt.rint (f : FloatFmt) (rnd : Nat) (code : Nat) : Rounded :=
  match f.read code with
  | .nan s => f.nanResult (nanFlag s)
  | .inf _ => ⟨code, 0#5⟩
  | .fin n m e =>
    if m = 0 ∨ 0 ≤ e then ⟨code, 0#5⟩
    else
      let (x, _) := roundToInt (arithRnd rnd) ⟨n, m, e, false⟩
      if x = 0 then ⟨f.signed n 0, 0#5⟩
      else ⟨(f.round 0 false 0 ⟨n, x.natAbs, 0, false⟩).code, 0#5⟩

/-- FCLASS (R209): the number of the one bit set. -/
def FloatFmt.classBit (f : FloatFmt) (code : Nat) : Nat :=
  match f.read code with
  | .nan s => if s then 8 else 9
  | .inf n => if n then 0 else 7
  | .fin n m _ =>
    if m = 0 then (if n then 3 else 4)
    else if code % 2 ^ (f.eb + f.mb) < 2 ^ f.mb then (if n then 2 else 5)
    else if n then 1 else 6

/-- One draw of the SR generator (R145): the new state, which is also the draw. -/
def srNext (x : W32) : W32 :=
  let x := x ^^^ (x <<< 13)
  let x := x ^^^ (x >>> 17)
  x ^^^ (x <<< 5)

/-- A seed of 0 installs 0x6A09_E667 (R145). -/
def srSeed (x : W32) : W32 := if x = 0#32 then 0x6A09E667#32 else x

/-- The SR state of lane `l` at group start (R145). -/
def srReset (l : Nat) : W32 := BitVec.ofNat 32 (0x6A09E667 + l)

/-- emax_elem of an MX target format (R146). -/
def mxEmax (fmt : Nat) : Int :=
  match fmt with
  | 4 => 15
  | 5 => 8
  | 6 => 4
  | _ => 2

/-- The binary exponent of a non-zero magnitude: ⌊log2⌋. -/
def floorLog2 (m : Nat) (e : Int) : Int := (Nat.log2 m : Int) + e

/-- The largest ⌊log2 |x|⌋ of finite values; none when all are zero. -/
def maxExponent : List FVal → Option Int
  | [] => none
  | .fin _ m e :: r =>
    if m = 0 then maxExponent r
    else match maxExponent r with
      | none => some (floorLog2 m e)
      | some x => some (max x (floorLog2 m e))
  | _ :: r => maxExponent r

/-- The MX scale code of a block (R146). -/
def mxScale (fmt : Nat) (xs : List FVal) : Nat :=
  if xs.any (fun x => x.isNan || x.isInf) then 255
  else match maxExponent xs with
    | none => 127
    | some a => (max (-127) (min 127 (a - mxEmax fmt)) + 127).toNat

/-- An MX element (R146): the value divided by the scale, rounded into the target format, with the largest finite value
beyond it. -/
def mxElem (f : FloatFmt) (rnd : Nat) (scale u : Nat) (bad : Bool) (v : FVal) : Rounded :=
  if bad then ⟨0, 0#5⟩
  else match v with
    | .fin n m e => f.conv rnd true u (.fin n m (e - ((scale : Int) - 127)))
    | _ => ⟨0, 0#5⟩

/-- Truncation of an element stored into tolerant memory (R147), width `w` 32 or 16. -/
def tolTrunc (w x : Nat) : Nat :=
  let h := w / 2
  let hi := x / 2 ^ h
  let lo := x % 2 ^ h
  let f := if w = 32 then fmtFP32 else fmtFP16
  let qb := if w = 32 then 0x40 else 0x02
  if (f.read x).isNan then (if hi / qb % 2 = 1 then hi else hi + qb)
  else if lo > 2 ^ (h - 1) ∨ (lo = 2 ^ (h - 1) ∧ hi % 2 = 1) then (hi + 1) % 2 ^ h
  else hi

/-- Expansion of a stored half (R147). -/
def tolExpand (w x : Nat) : Nat := x * 2 ^ (w / 2)

end Sys2Proof.Machine
end

