-- ==== Sys2Proof/Machine/Translate.lean ====
section
/-! DEFINITION. Translate.lean: physical addresses (R392, R393), the page ownership table (R313, R314), translation of a
context's and a thread's addresses (R33, R37 to R42), and homing (R43). -/

namespace Sys2Proof.Machine

/-! ### Physical addresses -/

/-- Bytes of one die's memory: 180 GiB (R392). -/
def dieBytes : Nat := 180 * 2 ^ 30

/-- First address of the kick aperture (R318), of the hub register space (R4) and of the POT aperture (R393). -/
def kickBase : Nat := 0xFFFFFF0000000
def hubBase : Nat := 0xFFFFFE0000000
def potBase : Nat := 0xE000000000000

/-- The kick aperture: 4,096 pages. -/
def inKick (a : Nat) : Bool := decide (kickBase ≤ a) && decide (a < kickBase + 4096 * 4096)

/-- The hub register space (R4). -/
def inHub (a : Nat) : Bool := decide (hubBase ≤ a) && decide (a < hubBase + 2 ^ 28)

/-- The POT aperture: 16 B for each physical page (R393). -/
def inPot (a : Nat) : Bool := decide (potBase ≤ a) && decide (a < potBase + 2 ^ 44)

/-- The number of set bits of a die mask. -/
def dieCount (m : Nat) : Nat := popcount 8 m

/-- The window that holds a physical address: a die of it (R392). -/
def State.windowOf (s : State) (a : Nat) : Option Die :=
  (s.dies.find? fun (_, d) => d.valid && decide (d.ilvbase ≤ a) &&
    decide (a < d.ilvbase + dieCount d.wdies * dieBytes)).map Prod.snd

/-- The die that serves an address and the offset within it (R392). -/
def State.dieOffset (s : State) (a : Nat) : Option (Nat × Nat) :=
  (s.windowOf a).map fun d =>
    let k := dieCount d.wdies
    let o := a - d.ilvbase
    if k = 1 then (((bitsOf 8 d.wdies)[0]?).getD 0, o)
    else
      let sh := 12 + d.gran
      let g := o / 2 ^ sh
      (((bitsOf 8 d.wdies)[g % k]?).getD 0, g / k * 2 ^ sh + o % 2 ^ sh)

/-- The channel index of an offset within a die (R392): stack × 64 + pseudo-channel. -/
def channelOf (w : Nat) : Nat := fieldOf w 8 8 ^^^ fieldOf w 16 8 ^^^ fieldOf w 24 8 ^^^ fieldOf w 32 6

/-- Whether an address lies in the memory of a partition (R393). -/
def State.inPartMem (s : State) (p a : Nat) : Bool :=
  match s.dieOffset a with
  | some (d, _) => (s.die d).bound && (s.die d).part == p
  | none => false

/-- The first offset of a die's META region (R393).
[DESIGN CHOICE, log entry 123] -/
def State.metaStart (s : State) (d : Nat) : Nat :=
  dieBytes - 720 * 2 ^ 20 - max 1 (s.part (s.partOfDie d)).ptpool * 2 ^ 30

/-- The physical address of an offset of a die's memory (R392). -/
def State.physAt (s : State) (d w : Nat) : Nat :=
  let x := s.die d
  let ds := bitsOf 8 x.wdies
  if ds.length = 1 then x.ilvbase + w
  else
    let sh := 12 + x.gran
    x.ilvbase + (w / 2 ^ sh * ds.length + ds.findIdx (· == d)) * 2 ^ sh + w % 2 ^ sh

/-- Whether an address lies in the META region of its die. -/
def State.inMeta (s : State) (a : Nat) : Bool :=
  match s.dieOffset a with
  | some (d, w) => decide (s.metaStart d ≤ w)
  | none => false

/-- The folded line number of R43. -/
def foldLine (a : Nat) : Nat :=
  let x := a / 64
  let x := x ^^^ (x >>> 17)
  x ^^^ (x >>> 34)

/-- The core whose slice homes a line that no homed range reached (R43).
[DEDUCED, log entry 101] -/
def State.homeCore (s : State) (a : Nat) : Option Nat :=
  (s.dieOffset a).map fun (d, _) => 176 * d + foldLine a % 176

/-- The core whose slice homes a line reached through a homing range (R43). -/
def homeInCluster (cl a : Nat) : Nat := 176 * (cl / 22) + 8 * (cl % 22) + foldLine a % 8

/-! ### The page ownership table -/

/-- POT states (Table 3 of ch18). -/
def potFree : Nat := 0
def potHost : Nat := 1
def potScrub : Nat := 2
def potOwned : Nat := 3
def potSealed : Nat := 4
def potMeta : Nat := 5
def potShared : Nat := 6
def potKick : Nat := 7

/-- An entry with a state and nothing else. -/
def Pot.plain (st : Nat) : Pot := ⟨st, 0, 0, 0, 0, 0, 0⟩

/-- The entry of a physical page that has one (R313): as at partition release where nothing has changed it. -/
def State.potOf (s : State) (page : Nat) : Pot :=
  Tbl.getD s.store.pot page (Pot.plain (if s.inMeta (4096 * page) then potMeta else potHost))

/-- Whether a page has an entry: a page of the partition's memory or of the kick aperture. -/
def State.hasPot (s : State) (p page : Nat) : Bool := s.inPartMem p (4096 * page) || inKick (4096 * page)

/-- Put a page's entry. -/
def State.putPot (s : State) (page : Nat) (e : Pot) : State :=
  s.modStore fun x => { x with pot := Tbl.put x.pot page e }

/-- A page in a state without an owner: its entry keeps only the version last recorded (Table 3 of ch18). -/
def State.leavePot (s : State) (page st : Nat) : State :=
  s.putPot page { Pot.plain st with version := (s.potOf page).version }

/-- The state that decides accesses: NEXT while the page is in SCRUB (R314). -/
def Pot.judged (e : Pot) : Nat := if e.state = potScrub then e.next else e.state

/-- Host access to a page (Table 4 of ch18): `some` cause refuses it. `lvl` is the thread's level, `read` a read. -/
def Pot.hostCheck (e : Pot) (lvl : Nat) (read : Bool) : Option Nat :=
  let st := e.judged
  if st = potHost ∨ st = potShared then none
  else if st = potMeta ∧ read = true ∧ 1 ≤ lvl then none
  else some 8

/-- Enclave access to a page at a virtual page (Table 4 of ch18): `some` cause refuses it. -/
def Pot.enclaveCheck (e : Pot) (eid vpn : Nat) (kickMap : Bool) : Option Nat :=
  let st := e.judged
  if st = potOwned ∨ st = potShared then if e.owner = eid ∧ e.link = vpn then none else some 8
  else if st = potSealed then if e.owner = eid then some 6 else some 8
  else if st = potKick then if e.owner = eid ∧ kickMap = true then none else some 8
  else some 8

/-! ### Translation -/

/-- What an access needs (R37, step 6 and 7). -/
inductive Need where
  | read
  | write
  | readWrite
  | fetch
  deriving DecidableEq, Repr

/-- Canonical form (R33). -/
def canonical (va : Nat) : Bool := va / 2 ^ 56 == 0 || va / 2 ^ 56 == 255

/-- A virtual page number, va[56:12]. -/
def vpnOf (va : Nat) : Nat := va / 4096 % 2 ^ 45

/-- Whether permissions meet a need. -/
def Need.ok (n : Need) (r w x : Bool) : Bool :=
  match n with
  | .read => r
  | .write => w
  | .readWrite => r && w
  | .fetch => x

/-- The tolerant element width of a format: FP32 as BF16 is 4, FP16 as E5M2 is 2. -/
def tolWidth (tfmt : Nat) : Nat := if tfmt = 0 then 4 else 2

/-- The live base of a range (R38). -/
def RangeEntry.liveBase (e : RangeEntry) : Nat := if e.shen && e.live then e.shbase else e.pbase

/-- Whether an entry matches addresses at all (Table 3 of ch02, R397).
[DEDUCED, log entry 19] -/
def RangeEntry.matches (e : RangeEntry) (tolen : Bool) : Bool :=
  decide (e.cls < 3) && (e.cls != 2 || (tolen && decide (e.tfmt < 2)))

/-- The first range of a context that holds an address (R37, step 3). -/
def State.rangeOf (s : State) (q va : Nat) : Option (Nat × RangeEntry) :=
  let tolen := (s.part (s.partOfQueue q)).tolen
  (s.ctx q).ranges.find? fun (_, e) => e.matches tolen && decide (e.base ≤ va) && decide (va < e.limit)

/-- The physical address of a byte of a range by its live side or the other (R38, R39, R41). -/
def RangeEntry.paOf (e : RangeEntry) (shadow : Bool) (va : Nat) : Nat :=
  let b := if shadow then (if e.live then e.pbase else e.shbase) else e.liveBase
  if e.cls = 2 then b + (va - e.base) / 2 else b + (va - e.base)

/-- The virtual page that LINK must name for a physical page of a range: that of the first virtual byte that maps into it
(R314, R319). -/
def RangeEntry.linkOf (e : RangeEntry) (shadow : Bool) (va : Nat) : Nat :=
  if e.cls = 2 then
    let pa := e.paOf shadow va
    let back := pa % 4096
    vpnOf (e.base + (va - e.base) / 2 * 2 - 2 * min back ((va - e.base) / 2))
  else vpnOf va

/-- Steps 6 and 7 of R37 for a class and an address: TUPLE, the whole-element rule and PROT of tolerant memory, PROT of
atomics at a device. -/
def classCheck (cls tol va n : Nat) (atomic dev : Bool) : Option Nat :=
  if cls = 1 then some 13
  else if cls = 2 ∧ (va % tol ≠ 0 ∨ n % tol ≠ 0) then some 9
  else if cls = 2 ∧ atomic = true then some 7
  else if atomic && dev then some 7
  else none

/-- The number of bytes of physical memory behind a range (R41). -/
def RangeEntry.span (e : RangeEntry) : Nat := if e.cls = 2 then (e.limit - e.base) / 2 else e.limit - e.base

/-- Whether a range's primary or shadow span covers a physical page. -/
def RangeEntry.covers (e : RangeEntry) (page : Nat) : Bool :=
  let has (b : Nat) : Bool := decide (b / 4096 ≤ page) && decide (page < (b + e.span + 4095) / 4096)
  has e.pbase || (e.shen && has e.shbase)

/-- A context's translation of an access of `n` bytes at a canonical address that lies in one page (R37, steps 2 to 7).
`atomic` marks atomics, counters and reductions; `shadow` the side that is not live (R39). A TUPLE range asks for no
permission: R36 gives TUPLE whatever the range permits.
[DEDUCED, log entry 117] -/
def State.xlateCtx (s : State) (q va n : Nat) (need : Need) (atomic shadow : Bool) : Except Nat Xlat :=
  let eid := (s.ctx q).eid
  let part := s.partOfQueue q
  if !canonical va then .error 6
  else
    match s.rangeOf q va with
    | some (i, e) =>
      let pa := e.paOf shadow va
      if !s.hasPot part (pa / 4096) then .error 6
      else
        match (s.potOf (pa / 4096)).enclaveCheck eid (e.linkOf shadow va) false with
        | some c => .error c
        | none =>
          if e.cls ≠ 1 ∧ need.ok e.r e.w e.x = false then .error 7
          else
            let tol := if e.cls = 2 then tolWidth e.tfmt else 0
            match classCheck e.cls tol va n atomic (inKick pa) with
            | some c => .error c
            | none => .ok ⟨pa, inKick pa, tol, some i⟩
    | none =>
      match (Tbl.get? s.hub.enclaves eid).bind fun en => Tbl.get? en.map (vpnOf va) with
      | none => .error 6
      | some l =>
        let pa := 4096 * l.ppn + va % 4096
        if l.sealed then .error 6
        else if !s.hasPot part l.ppn then .error 6
        else
          match (s.potOf l.ppn).enclaveCheck eid (vpnOf va) (bitOf l.attr 5) with
          | some c => .error c
          | none =>
            if !need.ok l.r l.w l.x then .error 7
            else
              match classCheck 0 0 va n atomic (inKick pa) with
              | some c => .error c
              | none => .ok ⟨pa, inKick pa, 0, none⟩

/-- A leaf found by a page-table walk: physical address of the byte, permissions, tolerant width, and the 4 KiB pages that
one fill translates. -/
structure Leaf where
  pa : Nat
  r : Bool
  w : Bool
  x : Bool
  tol : Nat
  span : Nat
  deriving DecidableEq, Repr

/-- Whether the C64 hint of a level-1 entry holds (R40): the 16 aligned entries around it agree in every field but PPN, and their
PPNs count up from one aligned to 64 KiB. -/
def State.c64 (s : State) (table index : Nat) : Bool :=
  let e (i : Nat) : Nat := s.peek (table + 8 * (index / 16 * 16 + i)) 8
  let rest (x : Nat) : Nat := x % 2 ^ 12 + 2 ^ 52 * (x / 2 ^ 52)
  fieldOf (e 0) 12 40 % 16 == 0 && (List.range 16).all fun i =>
    rest (e i) == rest (e 0) && fieldOf (e i) 12 40 == fieldOf (e 0) 12 40 + i

/-- Whether a line's error is one that poisons it when it is met (R415). -/
def latentHard (code : Nat) : Bool := code == 2 || code == 6 || code == 8

/-- Why a read of a line gives no data (R321, R417): its tag fails, or it holds an uncorrectable error. -/
def State.lineCause (s : State) (a : Nat) : Option Nat :=
  if s.store.latent = [] ∧ s.store.poison = [] then none
  else
    let code := Tbl.fget 0 s.store.latent (a / 64)
    if code = 3 then some 0x15
    else if latentHard code = true ∨ (Tbl.get? s.store.poison (a / 64)).isSome = true then some 0x12
    else none

/-- The entry that a page-table walk reads at an address: 0, which is invalid, beyond the partition (R390), and where the line gives no
data (R321). -/
def State.tableEntry (s : State) (part a : Nat) : Nat :=
  if s.inPartMem part a && (s.lineCause a).isNone then s.peek a 8 else 0

/-- The error that a page-table walk meets in a table's line (R321, R417). -/
def State.walkErr (s : State) (part : Nat) : Nat → Nat → Nat → Option Nat
  | 0, _, _ => none
  | lvl + 1, root, va =>
    let a := root + 8 * fieldOf va (12 + 9 * lvl) 9
    let e := s.tableEntry part a
    match if s.inPartMem part a then s.lineCause a else none with
    | some c => some c
    | none => if !bitOf e 0 || bitOf e 4 then none else s.walkErr part lvl (fieldOf e 12 40 * 4096) va

/-- The page-table walk (R40) from a table at `root` at a level (5 down to 1), with the permissions met so far; `tolen` as
R397. `none` is an invalid entry. -/
def State.walk (s : State) (part : Nat) (tolen : Bool) : Nat → Nat → Nat → Bool → Bool → Bool → Option Leaf
  | 0, _, _, _, _, _ => none
  | lvl + 1, root, va, r, w, x =>
    let e := s.tableEntry part (root + 8 * fieldOf va (12 + 9 * lvl) 9)
    let ppn := fieldOf e 12 40
    let cls := fieldOf e 5 2
    let r := r && bitOf e 1
    let w := w && bitOf e 2
    let x := x && bitOf e 3
    let small := if lvl = 0 ∧ bitOf e 9 = true ∧ s.c64 root (fieldOf va 12 9) = true then 16 else 1
    if !bitOf e 0 || fieldOf e 52 12 != 0 || fieldOf e 10 2 != 0 || cls == 1 || cls == 3 then none
    else if bitOf e 4 then
      if 2 < lvl then none
      else if ppn % 2 ^ (9 * lvl) != 0 then none
      else if cls == 2 then
        if lvl != 0 || !tolen then none
        else some ⟨ppn * 4096 + b01 (bitOf e 8) * 2048 + va % 4096 / 2, r, w, x, tolWidth (b01 (bitOf e 7)), small⟩
      else some ⟨ppn * 4096 + va % 2 ^ (12 + 9 * lvl), r, w, x, 0, if lvl = 0 then small else 2 ^ (9 * lvl)⟩
    else s.walk part tolen lvl (ppn * 4096) va r w x

/-- The host-domain walk of a thread: its address space, and the guest-physical stage below hypervisor level (R270).
[DEDUCED, log entry 17] -/
def State.walkHost (s : State) (t : Thread) (part va : Nat) : Option Leaf :=
  let tolen := (s.part part).tolen
  match s.walk part tolen 5 t.ptroot.toNat va true true true with
  | none => none
  | some l =>
    if t.hgpt = 0#64 ∨ t.lvl = 2 then some l
    else
      match s.walk part tolen 5 t.hgpt.toNat l.pa true true true with
      | none => none
      | some m => some ⟨m.pa, l.r && m.r, l.w && m.w, l.x && m.x, if l.tol = 0 then m.tol else l.tol,
          if l.tol = 0 ∧ m.tol = 0 then min l.span m.span else 1⟩

/-- The guest stage that applies to a thread.
[DEDUCED, log entry 17] -/
def Thread.stage (t : Thread) : Nat := if t.lvl = 2 then 0 else t.hgpt.toNat

/-- Whether a cached translation holds a virtual page. -/
def TlbEntry.holds (e : TlbEntry) (vpn : Nat) : Bool := decide (e.vpn ≤ vpn) && decide (vpn < e.vpn + e.span)

/-- Whether a cached translation reaches a physical page. -/
def TlbEntry.reaches (e : TlbEntry) (page : Nat) : Bool :=
  decide (e.pa / 4096 ≤ page) && decide (page < e.pa / 4096 + e.span)

/-- The translation a control core has cached for a thread's page (R286).
[DESIGN CHOICE, log entry 16] -/
def State.tlbFind (s : State) (t : Thread) (part va : Nat) : Option TlbEntry :=
  s.hub.tlb.find? fun e => e.part == part && e.root == t.ptroot.toNat && e.stage == t.stage && e.holds (vpnOf va)

/-- A thread's leaf: the cached translation, or the walk.
[DEDUCED, log entry 17] -/
def State.leafHost (s : State) (t : Thread) (part va : Nat) : Option Leaf :=
  match s.tlbFind t part va with
  | some e => some ⟨e.pa + 4096 * (vpnOf va - e.vpn) + (if e.tol = 0 then va % 4096 else va % 4096 / 2), e.r, e.w, e.x, e.tol, e.span⟩
  | none => s.walkHost t part va

/-- The cause of a host-domain translation that finds no leaf: the error of a table's line, or XLAT. -/
def State.leafCause (s : State) (t : Thread) (part va : Nat) : Nat :=
  match s.walkErr part 5 t.ptroot.toNat va with
  | some c => c
  | none =>
    match s.walk part (s.part part).tolen 5 t.ptroot.toNat va true true true with
    | none => 6
    | some l => if t.hgpt = 0#64 ∨ t.lvl = 2 then 6 else (s.walkErr part 5 t.hgpt.toNat l.pa).getD 6

/-- The state after a thread's host-domain translation has been filled into the caches of its partition: its whole leaf.
[DESIGN CHOICE, log entry 16] -/
def State.tlbFill (s : State) (t : Thread) (part va : Nat) : State :=
  if t.eid ≠ 0 then s
  else
    match s.tlbFind t part va with
    | some _ => s
    | none =>
      match s.walkHost t part va with
      | none => s
      | some l =>
        let i := vpnOf va % l.span
        let base := l.pa - 4096 * i - (if l.tol = 0 then va % 4096 else va % 4096 / 2)
        s.modHub fun h => { h with
          tlb := h.tlb ++ [⟨part, t.ptroot.toNat, t.stage, vpnOf va - i, base, l.r, l.w, l.x, l.tol, l.span⟩] }

/-- The host-domain translations of a physical page shot down (R37, R283). -/
def State.dropHost (s : State) (page : Nat) : State :=
  s.modHub fun h => { h with tlb := h.tlb.filter fun e => !e.reaches page }

/-- A thread's translation of an access of `n` bytes that lies in one page (R37): the host domain by page tables, an enclave
by its own (R268, R130). An instruction fetch counts as a read for Table 4 of ch18.
[DESIGN CHOICE, log entry 119] -/
def State.xlateThread (s : State) (tid va n : Nat) (need : Need) (atomic : Bool) : Except Nat Xlat :=
  let t := s.thread tid
  let part := s.partOfThread tid
  if !canonical va then .error 6
  else if t.eid = 0 then
    match s.leafHost t part va with
    | none => .error (s.leafCause t part va)
    | some l =>
      let dev := inHub l.pa || inKick l.pa || inPot l.pa
      let own : Option Nat :=
        if inHub l.pa || inPot l.pa then none
        else if !s.hasPot part (l.pa / 4096) then some 6
        else (s.potOf (l.pa / 4096)).hostCheck t.lvl (need == .read || need == .fetch)
      match own with
      | some c => .error c
      | none =>
        if !need.ok l.r l.w l.x then .error 7
        else
          match classCheck (if l.tol = 0 then 0 else 2) l.tol va n atomic dev with
          | some c => .error c
          | none =>
            if inPot l.pa && (need == .write || (need == .read && t.lvl == 0)) then .error 8
            else .ok ⟨l.pa, dev, l.tol, none⟩
  else
    match (Tbl.get? s.hub.enclaves t.eid).bind fun en => Tbl.get? en.map (vpnOf va) with
    | none => .error 6
    | some l =>
      let pa := 4096 * l.ppn + va % 4096
      if l.sealed then .error 6
      else if !s.hasPot part l.ppn then .error 6
      else
        match (s.potOf l.ppn).enclaveCheck t.eid (vpnOf va) (bitOf l.attr 5) with
        | some c => .error c
        | none =>
          if !need.ok l.r l.w l.x then .error 7
          else
            match classCheck 0 0 va n atomic (inKick pa) with
            | some c => .error c
            | none => .ok ⟨pa, inKick pa, 0, none⟩

/-! ### Performed accesses -/

/-- Bytes read through a translation (R41): tolerant elements are expanded. -/
def State.readAt (s : State) (x : Xlat) (n : Nat) : Nat :=
  if x.tol = 0 then s.peek x.pa n
  else
    let k := n / x.tol
    (List.range k).foldl
      (fun acc i => acc + tolExpand (8 * x.tol) (s.peek (x.pa + i * (x.tol / 2)) (x.tol / 2)) * 2 ^ (8 * x.tol * i)) 0

/-- The bytes a store writes and where, through a translation (R41): tolerant elements are truncated. -/
def storeBytes (tol pa n data : Nat) : Nat × List Byte :=
  if tol = 0 then (pa, leBytes n data)
  else
    (pa, (List.range (n / tol)).flatMap fun i =>
      leBytes (tol / 2) (tolTrunc (8 * tol) (fieldOf data (8 * tol * i) (8 * tol))))

end Sys2Proof.Machine
end

