-- ==== Sys2Proof/Machine/Report.lean ====
section
/-! DEFINITION. Report.lean: posting vectors (R375) and the error log (R419, R420). -/

namespace Sys2Proof.Machine

/-- The enabled virtual function that owns a queue (R373). -/
def State.vfOfQueue (s : State) (q : Nat) : Option (Nat × Vf) :=
  s.hub.vfs.find? fun (_, f) => f.enable && decide (f.qbase ≤ q) && decide (q < f.qbase + f.qcount)

/-- The enabled virtual function whose range holds a vector (R375). -/
def State.vfOfVector (s : State) (v : Nat) : Option (Nat × Vf) :=
  s.hub.vfs.find? fun (_, f) => f.enable && decide (f.vbase ≤ v) && decide (v < f.vbase + f.vcount)

/-- Whether a post is discarded (R375, R390); `src` is the partition that posts, where one does, and `q` the posting queue, if a queue
posts. -/
def State.postDropped (s : State) (src : Option Nat) (q : Option Nat) (v : Nat) : Bool :=
  let r := s.vec v
  let own := q.bind s.vfOfQueue
  let outside := match own with
    | some (_, f) => !(decide (f.vbase ≤ v) && decide (v < f.vbase + f.vcount))
    | none => false
  let target := ((s.vfOfVector v).map fun x => x.2.target).getD 0
  let part := (s.vfOfVector v).map fun x => x.2.part
  let dest := s.partOfThread r.dest
  outside || r.mode == 0 || (r.mode == 1 && target == 0) || (decide (2 ≤ r.mode) && target != 0)
    || part.any (fun p => dest != p) || src.any fun p => dest != p || part.any fun x => x != p

/-- Post a vector from a partition: PEND, and its delivery while it is not masked (R375). -/
def State.postFrom (s : State) (src : Option Nat) (q : Option Nat) (v : Nat) : State :=
  if s.postDropped src q v then
    match q with
    | some q => s.modQueue q fun x => { x with irqdrop := true }
    | none => s
  else (s.putVec v { s.vec v with pend := true }).later (.vectorDelivery v)

/-- A vector posted by a queue. -/
def State.post (s : State) (q v : Nat) : State := s.postFrom (some (s.partOfQueue q)) (some q) v

/-- A vector posted by a compute die, or by a hub die, which belongs to no partition. -/
def State.postDie (s : State) (d v : Nat) : State := s.postFrom (if d < 8 then some (s.partOfDie d) else none) none v

/-- An error-log entry's bytes (Table 3 of ch26). -/
def errEntry (time addr cls kind cause eid core synd : Nat) : List Byte :=
  leBytes 8 time ++ leBytes 8 addr ++ leBytes 1 cls ++ leBytes 1 kind ++ leBytes 1 cause ++ leBytes 1 0
    ++ leBytes 2 eid ++ leBytes 2 core ++ leBytes 4 synd ++ leBytes 4 0

/-- An entry with one more identical error merged into it. -/
def errRepeat (e : List Byte) : List Byte := e.take 28 ++ leBytes 4 (leNat (e.drop 28) + 1)

/-- The entry that an error merges into (Table 3 of ch26): the same address, class, kind, cause, owner and core, written within
1 ms.
[DEDUCED, log entry 80] -/
def State.mergeSlot (s : State) (b : ErrBlock) (e : List Byte) : Option (Nat × List Byte) :=
  b.entries.find? fun (n, x) =>
    (x.drop 8).take 16 == (e.drop 8).take 16 && decide (s.ac ≤ Tbl.fget 0 b.written n + 700000)

/-- TIME on a die: that of its partition. -/
def State.timeOfDie (s : State) (d : Nat) : Nat := s.time (s.partOfDie d)

/-- An error logged on a die's block (R419, R420): counters, the entry, OVF, and VEC as ERRCTL says. One that merges into an
entry (Table 3 of ch26) counts in its REPEAT, and writes and posts nothing more. SYND is open: the manual gives no codes' bits.
[DEDUCED, log entry 80] -/
def State.logError (s : State) (d addr cls kind cause eid core : Nat) : State :=
  let b := s.errBlock d
  let head := (b.head + 1) % 65536
  let lapped := decide ((b.tail + 256) % 65536 = b.head % 65536)
  let count (t : Table Nat) : Table Nat := Tbl.fset 0 t cls ((Tbl.fget 0 t cls + 1) % 2 ^ 64)
  let b := { b with
    cecnt := if kind = 0 then count b.cecnt else b.cecnt
    uecnt := if kind = 1 ∨ kind = 3 then count b.uecnt else b.uecnt }
  let e := errEntry (s.timeOfDie d) addr cls kind cause eid core (s.freeNow (0x300 + d)).toNat
  match s.mergeSlot b e with
  | some (n, x) =>
    s.modHub fun h => { h with errs := Tbl.put h.errs d { b with entries := Tbl.put b.entries n (errRepeat x) } }
  | none =>
    let s := s.modHub fun h => { h with errs := Tbl.put h.errs d { b with
      head := head
      ovf := b.ovf || lapped
      entries := Tbl.put b.entries (b.head % 256) e
      written := Tbl.put b.written (b.head % 256) s.ac } }
    if (if kind = 0 then b.ceirq else b.ueirq) then s.postDie d b.vec else s

/-- The die whose memory holds an address. -/
def State.dieOfAddr (s : State) (a : Nat) : Nat := ((s.dieOffset a).map Prod.fst).getD 0

/-- The home die of a line, whose synchronisation engine serves it (R44): that of a homed range over it in its partition, or the one
whose memory holds it (R43). -/
def State.homeDie (s : State) (a : Nat) : Nat :=
  let homed := s.simt.ctxs.findSome? fun c => c.2.ranges.find? fun e =>
    e.2.homen && s.partOfDie (e.2.homecl / 22) == s.partOfQueue c.1 && e.2.covers (a / 4096)
  (homed.map fun e => e.2.homecl / 22).getD (s.dieOfAddr a)

/-- What a read of a line with an error finds (R415): its class, whether it is corrected, and whether it stays. -/
structure LineErr where
  cls : Nat
  hard : Bool
  stays : Bool
  deriving DecidableEq, Repr

/-- The errors of lines by their codes (R415, Table 1): an error in HBM4 stays until the patrol writes the line back; one in an
SRAM is gone once it is corrected, and a clean slice line is read again from HBM4.
[DESIGN CHOICE, log entry 81] -/
def lineErr (code : Nat) : LineErr :=
  match code with
  | 1 => ⟨5, false, true⟩
  | 2 => ⟨5, true, false⟩
  | 4 => ⟨3, false, false⟩
  | 5 => ⟨3, false, false⟩
  | 6 => ⟨3, true, false⟩
  | 7 => ⟨4, false, false⟩
  | _ => ⟨4, true, false⟩

/-- A line with an error that a read meets (R415, R416, R321): a correctable one is counted and logged, an uncorrectable one
becomes poison in memory, an integrity failure is logged with its core and EID.
[DESIGN CHOICE, log entry 81] -/
def State.meetLine (s : State) (eid core line : Nat) : State :=
  let log (s : State) (cls kind cause : Nat) : State := s.logError (s.dieOfAddr (64 * line)) (64 * line) cls kind cause eid core
  match Tbl.get? s.store.latent line with
  | none => s
  | some 3 => log s 5 3 0x15
  | some k =>
    let e := lineErr k
    let s := if e.stays then s else s.modStore fun x => { x with latent := Tbl.del x.latent line }
    if e.hard then log (s.modStore fun x => { x with poison := Tbl.put x.poison line 0 }) e.cls 1 0x12 else log s e.cls 0 0

/-! ### Errors in a core's own structures (classes 0 to 2 of R415) -/

/-- The place that the log gives a word of a core's structure (Table 3 of ch26). -/
def unitAddr (core sched row : Nat) : Nat := core % 176 + 256 * (sched % 4) + 65536 * (row % 65536)

/-- An error of a core's structure logged: 1 is corrected; 2 poisons, with kind REG (R415). -/
def State.logUnit (s : State) (core sched row cls e eid : Nat) : State :=
  s.logError (dieOfCore core) (unitAddr core sched row) cls (if e = 1 then 0 else 1) (if e = 1 then 0 else 0x13) eid core

/-- The errors that stand at some keys. -/
def errsAt (t : Table Nat) (keys : List Nat) : List (Nat × Nat) :=
  if t = [] then [] else keys.dedup.filterMap fun k => (Tbl.get? t k).map fun e => (k, e)

/-- A poison table with the uncorrectable ones among some errors, under a mark. -/
def poisonErrs (t : Table Nat) (mark : Nat) (hits : List (Nat × Nat)) : Table Nat :=
  hits.foldl (fun t x => if x.2 = 1 then t else Tbl.put t x.1 mark) t

/-- The row that the log gives a register: v by number, 96 + g, and so on. -/
def regRow (key : Nat) : Nat := if key < 3072 then key / 32 else 96 + (key - 3072)

/-- The poison that reading some registers would meet: their marks, and their errors that are uncorrectable (R415, R417). -/
def Regs.marks (r : Regs) (keys : List Nat) : Table Nat := poisonErrs r.poison 0 (errsAt r.errs keys)

/-- Registers read: their errors are met (R415). -/
def State.meetRegs (s : State) (gid : Nat) (keys : List Nat) : State :=
  match s.group? gid with
  | none => s
  | some g =>
    let hits := errsAt g.regs.errs keys
    if hits = [] then s
    else
      hits.foldl (fun s x => s.logUnit g.place.core g.place.sched (regRow x.1) 0 x.2 (s.ctx g.place.ctx).eid)
        (s.putGroup gid { g with regs := { g.regs with
          errs := hits.foldl (fun t x => Tbl.del t x.1) g.regs.errs, poison := poisonErrs g.regs.poison 0 hits } })

/-- Accumulator words read: their errors are met (R415). -/
def State.meetAcc (s : State) (gid : Nat) (keys : List Nat) : State :=
  match s.group? gid with
  | none => s
  | some g =>
    let hits := errsAt g.accErrs keys
    if hits = [] then s
    else
      hits.foldl (fun s x => s.logUnit g.place.core g.place.sched (x.1 / 128) 2 x.2 (s.ctx g.place.ctx).eid)
        (s.putGroup gid { g with
          accErrs := hits.foldl (fun t x => Tbl.del t x.1) g.accErrs, accPoison := poisonErrs g.accPoison 0x13 hits })

/-- A live slot read: the errors of its banks are met (R415). -/
def State.meetSlot (s : State) (k : Nat) : State :=
  match Tbl.get? s.simt.slots k with
  | none => s
  | some v =>
    if v.errs = [] then s
    else
      let eid := ((s.group? v.owner).map fun g => (s.ctx g.place.ctx).eid).getD 0
      v.errs.foldl (fun s x => s.logUnit (k / 8) (k / 2 % 4) (256 + x.1 / 32) 2 x.2 eid)
        (s.modSimt fun y => { y with slots := Tbl.put y.slots k { v with errs := [], bad := poisonErrs v.bad 0x13 v.errs } })

/-- Local store read: the errors of its words are met (R415). -/
def State.meetLocal (s : State) (team off n : Nat) : State :=
  match Tbl.get? s.simt.localErrs team, Tbl.get? s.simt.teams team with
  | some errs, some t =>
    let hits := errs.filter fun x => decide (8 * x.1 < off + n) && decide (off < 8 * x.1 + 8)
    if hits = [] then s
    else
      let eid := ((Tbl.get? s.simt.tasks t.task).map fun k => (s.ctx k.ctx).eid).getD 0
      hits.foldl (fun s x => s.logUnit t.core 0 x.1 1 x.2 eid)
        (s.modSimt fun y => { y with
          localErrs := Tbl.put y.localErrs team (hits.foldl (fun t x => Tbl.del t x.1) errs)
          localPoison := Tbl.put y.localPoison team
            ((hits.filter fun x => x.2 != 1).foldl (fun ws x => if ws.contains x.1 then ws else ws ++ [x.1])
              (Tbl.getD y.localPoison team [])) })
  | _, _ => s

/-- Everything of a group read, as a stop, a swap or a dump reads it: the errors of its registers, rows and slots are met (R415). -/
def State.meetGroup (s : State) (gid : Nat) : State :=
  match s.group? gid with
  | none => s
  | some g =>
    (((s.simt.slots.filter fun x => x.2.owner == gid).foldl (fun s x => s.meetSlot x.1) s).meetRegs gid
      (g.regs.errs.map Prod.fst)).meetAcc gid (g.accErrs.map Prod.fst)

/-- Everything of a team read. -/
def State.meetTeam (s : State) (id : Nat) : State :=
  match Tbl.get? s.simt.teams id with
  | none => s
  | some t => (t.groups.foldl State.meetGroup s).meetLocal id 0 t.localLen

/-- The poison that reading some registers of a control thread would meet (R415, R417). -/
def Thread.marks (t : Thread) (keys : List Nat) : Table Nat := poisonErrs t.poison 0 (errsAt t.errs keys)

/-- A control thread's registers read: their errors are met, and logged on its hub die (R419). -/
def State.meetThread (s : State) (tid : Nat) (keys : List Nat) : State :=
  let t := s.thread tid
  let hits := errsAt t.errs keys
  if hits = [] then s
  else
    hits.foldl (fun s x => s.logError (8 + tid / 64) (tid / 2 % 32 + 65536 * (96 + x.1)) 0 (if x.2 = 1 then 0 else 1)
        (if x.2 = 1 then 0 else 0x13) t.eid 0xFFFF)
      (s.putThread tid { t with
        errs := hits.foldl (fun u x => Tbl.del u x.1) t.errs, poison := poisonErrs t.poison 0 hits })

/-- The error that stopped a thread's instruction logged (R321, R415): its line is that of its address, a physical one from 2^64
on. -/
def State.logThread (s : State) (tid cause va : Nat) : State :=
  let pa := if 2 ^ 64 ≤ va then some (va - 2 ^ 64) else match s.xlateThread tid va 1 .read false with
    | .ok x => some x.pa
    | .error _ => none
  match pa with
  | some a => if (cause = 0x12 ∨ cause = 0x15) ∧ (latentHard (Tbl.fget 0 s.store.latent (a / 64)) = true ∨ Tbl.fget 0 s.store.latent (a / 64) = 3) then
    s.meetLine (s.thread tid).eid 0xFFFF (a / 64) else s
  | none => s

end Sys2Proof.Machine
end

