-- ==== Sys2Proof/Machine/Registers.lean ====
section
/-! DEFINITION. Registers.lean: reads of the kick pages. -/

namespace Sys2Proof.Machine

/-- A number's `n` bytes from byte `o` of a register or table. -/
def cutBytes (x o n : Nat) : Nat := x / 2 ^ (8 * o) % 2 ^ (8 * n)

/-- A read of a kick page (Table 7 of ch18). -/
def State.kickRead (s : State) (a n : Nat) : Nat :=
  let q := (a - kickBase) / 4096
  let o := a % 4096
  let c := s.ctx q
  if 0x40 ≤ o ∧ o < 0x80 then leNat ((c.rstage.drop (o - 0x40)).take n)
  else if 0x88 ≤ o ∧ o < 0x90 then cutBytes c.rstat (o - 0x88) n
  else 0

/-- Whether a read of RSTAT waits for a range command that has not completed (R319).
[DEDUCED, log entry 78] -/
def State.rstatWaits (s : State) (a : Nat) : Bool :=
  inKick a && decide (0x88 ≤ a % 4096) && decide (a % 4096 < 0x90) && s.agenda.any fun e => match e.2 with
    | .deviceWrite b _ _ => b == a / 4096 * 4096 + 0x80
    | _ => false

end Sys2Proof.Machine
end

