-- ==== Sys2Proof/Machine/Rows.lean ====
section
/-! DEFINITION. Rows.lean: HBM4 rows: activation counts and throttling (R382), refresh and access-as-refresh (R402). Which
row an address lies in, and which accesses activate it, the manual leaves open: both are free values. -/

namespace Sys2Proof.Machine

/-- The stack and pseudo-channel of a physical address (R392). -/
def State.stackOf (s : State) (a : Nat) : Option (Nat × Nat) :=
  (s.dieOffset a).map fun (d, w) => let c := channelOf w; (4 * d + c / 64, c % 64)

/-- The key slot under which a page's lines are encrypted (R321): the tenant of an access (R382). -/
def State.tenantOf (s : State) (a : Nat) : Nat :=
  let e := s.potOf (a / 4096)
  if e.judged = potOwned ∨ e.judged = potSealed then ((Tbl.get? s.hub.enclaves e.owner).map Enclave.keySlot).getD 0 else 0

/-- A release or forced refresh is charged to a function, or to the host class of the stack's partition (R382, R397). -/
def State.chargeVf (s : State) (stack vf : Nat) : State :=
  match Tbl.get? s.hub.vfs vf with
  | some f => s.putVf vf { f with throt := (f.throt + 1) % 2 ^ 64 }
  | none => s.modPart (s.partOfDie (stack / 4)) fun p => { p with throt := (p.throt + 1) % 2 ^ 64 }

/-- A row's activation in access-as-refresh (R402): its group's mask gains it, and a full mask sets the timestamp, at an ac. -/
def Stack.aarMark (h : Stack) (ac row : Nat) : Stack :=
  if !h.aar then h
  else
    let grp := row / 8
    let old := Tbl.fget 0 h.masks grp
    let m := if bitOf old (row % 8) then old else old + 2 ^ (row % 8)
    if m = 255 then { h with masks := Tbl.del h.masks grp, stamps := Tbl.put h.stamps grp ac }
    else { h with masks := Tbl.put h.masks grp m }

/-- Rows refreshed (R382): their counts are cleared, and throttle entries with nothing held are removed. -/
def Stack.refreshRows (h : Stack) (p : Nat → Bool) : Stack :=
  { h with
    acts := h.acts.filter fun a => !p a.1
    held := (h.held.map fun e => if p e.row then { e with fresh := true } else e).filter fun e =>
      !(e.fresh && e.waiting.isEmpty) }

/-- The rows of a group refreshed (R382, R402): its mask is cleared too. -/
def Stack.refreshGroup (h : Stack) (row : Nat) : Stack :=
  { h.refreshRows (fun r => r / 8 == row / 8) with masks := Tbl.del h.masks (row / 8), stamps := Tbl.del h.stamps (row / 8) }

/-- One activation of a row counted (R382, R402). -/
def Stack.activate (h : Stack) (ac row : Nat) : Stack :=
  { h.aarMark ac row with acts := Tbl.put h.acts row (Tbl.fget 0 h.acts row + 1) }

/-! ### The lending handshake (R400) -/

/-- A pair's two bits in a lending word. -/
def pairBits (x pair : Nat) : Nat := fieldOf x (2 * pair) 2

/-- A lending word with a pair's bits set. -/
def pairPut (x pair v : Nat) : Nat := x - pairBits x pair * 4 ^ pair + v * 4 ^ pair

/-- The channel that lends under a code. -/
def lenderOf (pair code : Nat) : Nat := if code = 1 then 2 * pair else 2 * pair + 1

/-- A pair starts its handshake towards a LENDSTAT code, which stands within 1.5 µs (R400); one that is under way ends with the
new code instead.
[DESIGN CHOICE, log entry 62] -/
def State.lendShake (s : State) (stack pair code : Nat) : State :=
  let h := s.hbm stack
  let s' := s.putHbm stack { h with shaking := Tbl.put h.shaking pair code }
  if (Tbl.get? h.shaking pair).isSome then s' else s'.laterWithin 1050 (.lendDone stack pair)

/-- The handshake ends: LENDSTAT changes, and the requests held meanwhile go on. A stack that has reached 100 °C lends nothing
(R401). -/
def State.lendEnd (s : State) (stack pair : Nat) : State :=
  let h := s.hbm stack
  match Tbl.get? h.shaking pair with
  | none => s
  | some code =>
    let hot := code != 0 && decide (400 ≤ s.stackTemp stack)
    let s := s.putHbm stack { h with
      lendstat := pairPut h.lendstat pair (if hot then 0 else code)
      lenderr := if hot then 256 * pair + 3 else h.lenderr
      shaking := Tbl.del h.shaking pair
      lendHeld := h.lendHeld.filter fun e => e.1 != pair }
    (h.lendHeld.filter fun e => e.1 == pair).foldl (fun s e => s.soon e.2) s

/-- A pair whose LENDREQ differs from LENDSTAT tries to lend again (R400), after a time that the manual leaves open. -/
def State.lendAgain (s : State) (stack pair : Nat) : State :=
  let h := s.hbm stack
  let v := pairBits h.lendreq pair
  if pairBits h.lendstat pair = (if v = 3 then 0 else v) ∨ (Tbl.get? h.shaking pair).isSome = true then s
  else s.later (.lendDone stack pair)

/-- Whether a request to a pseudo-channel waits for its pair's handshake, and the state after it has come (R400): a request to
a lender takes its lanes back. -/
def State.lendGate (s : State) (stack chan : Nat) (ev : Event) : State × Bool :=
  let h := s.hbm stack
  let pair := chan / 2
  let code := pairBits h.lendstat pair
  let hold (s : State) : State :=
    let h := s.hbm stack
    s.putHbm stack { h with lendHeld := h.lendHeld ++ [(pair, ev)] }
  if (Tbl.get? h.shaking pair).isSome then (hold s, true)
  else if code ≠ 0 ∧ lenderOf pair code = chan then (hold (s.lendShake stack pair 0), true)
  else (s, false)

/-- A request that reaches its row: whether it activates it is a free choice; an activation is counted, and one that crosses the
threshold takes a throttle entry, or refreshes the row where all 64 are in use (R382). -/
def State.rowCount (s : State) (t chan row tenant vf : Nat) : State :=
  if s.freshBool then
    let s := s.drawn
    let h := (s.hbm t).activate s.ac row
    if Tbl.fget 0 h.acts row ≤ (s.part (s.partOfDie (t / 4))).hot then s.putHbm t h
    else if (h.held.filter fun e => e.chan == chan).length < 64 then
      s.putHbm t { h with held := h.held ++ [⟨chan, row, tenant, vf, [], false⟩] }
    else (s.putHbm t (h.refreshRows fun r => r == row)).chargeVf t vf
  else s.drawn

/-- The gate that a memory request passes on its way to its row: `true` when the request is held (R382). `ev` is the event
that performs it. A request to a pair in its lending handshake is held before that (R400).
[DESIGN CHOICE, log entry 8] -/
def State.rowGate (s : State) (pa vf : Nat) (ev : Event) : State × Bool :=
  match s.stackOf pa with
  | none => (s, false)
  | some (t, chan) =>
    let (s, lends) := s.lendGate t chan ev
    if lends then (s, true) else
    let h := s.hbm t
    let row := Config.rowOf pa
    let tenant := s.tenantOf pa
    if h.granted.contains (ev, row) then (s.putHbm t { h with granted := h.granted.erase (ev, row) }, false)
    else if h.held.any (fun e => e.row == row && e.tenant == tenant) then
      ((s.putHbm t { h with held := h.held.map fun e =>
          if e.row == row && e.tenant == tenant then { e with waiting := e.waiting ++ [ev] } else e }).later
        (.throttleRelease t row), true)
    else (s.rowCount t chan row tenant vf, false)

/-- A request that passed the gate of its row, so that it passes again when the event that makes it comes again: others of its requests
are held (R382). -/
def State.rowGranted (s : State) (ev : Event) (pa : Nat) : State :=
  match s.stackOf pa with
  | none => s
  | some (t, _) => s.putHbm t { s.hbm t with granted := (ev, Config.rowOf pa) :: (s.hbm t).granted }

/-- A request that an instruction or the front end makes and awaits at once, within a latency of its own: it is counted at its row, its
hold, if there is one, charged, and a lender takes its lanes back (R382, R400).
[DESIGN CHOICE, log entry 8] -/
def State.rowTouch (s : State) (pa vf : Nat) : State :=
  match s.stackOf pa with
  | none => s
  | some (t, chan) =>
    let code := pairBits (s.hbm t).lendstat (chan / 2)
    let s := if code ≠ 0 ∧ lenderOf (chan / 2) code = chan ∧ (Tbl.get? (s.hbm t).shaking (chan / 2)).isNone = true then
        s.lendShake t (chan / 2) 0
      else s
    let h := s.hbm t
    let row := Config.rowOf pa
    let tenant := s.tenantOf pa
    if h.held.any fun e => e.row == row && e.tenant == tenant then (s.putHbm t (h.activate s.ac row)).chargeVf t vf
    else s.rowCount t chan row tenant vf

/-- Whether an event stands in a held queue. -/
def State.rowWaits (s : State) (ev : Event) : Bool :=
  s.store.hbm.any fun p => (p.2.held.any fun e => e.waiting.contains ev) || p.2.lendHeld.any fun e => e.2 == ev

/-- A control thread's request passes the gate of its row (R382): while it is held, the thread stays at its instruction. -/
def State.threadGate (s : State) (tid : Nat) (x : Xlat) : State × Bool :=
  if x.dev then (s, false)
  else if s.rowWaits (.rowGrant tid) then (s, true)
  else s.rowGate x.pa 256 (.rowGrant tid)

/-- THROTTLE_RELEASE: one held activation of the row is released, counted and charged (R382). -/
def execThrottleRelease (stack row : Nat) (s : State) : Out :=
  let h := s.hbm stack
  match h.held.find? fun e => e.row == row && !e.waiting.isEmpty with
  | none => .next s
  | some e =>
    match e.waiting with
    | [] => .next s
    | ev :: rest =>
      let h' := { h.activate s.ac row with
        granted := (ev, row) :: h.granted
        held := (h.held.map fun x => if x = e then { x with waiting := rest } else x).filter fun x =>
          !(x.fresh && x.waiting.isEmpty) }
      .next (((s.putHbm stack h').chargeVf stack e.vf).soon ev)

/-- REFRESH: the scheduled refresh of a row's group: skipped when its timestamp stands in the window (R402), otherwise
performed (R382). -/
def execRefresh (stack row : Nat) (s : State) : Out :=
  let h := s.hbm stack
  if h.aar && (Tbl.get? h.stamps (row / 8)).any (fun t => decide (s.ac ≤ t + Config.refreshWindow)) then
    .next (s.putHbm stack { h with refskip := (h.refskip + 1) % 2 ^ 64, stamps := Tbl.del h.stamps (row / 8) })
  else .next (s.putHbm stack (h.refreshGroup row))

end Sys2Proof.Machine
end

