-- ==== Sys2Proof/Machine/Flags.lean ====
section
/-! DEFINITION. Flags.lean: FSTAT (R201), `fit` (R178), and what a computation of elements answers: an image and flags. -/

namespace Sys2Proof.Machine

/-- A register image computed, with the FSTAT flags it raises. -/
structure Res where
  x : W64
  fl : Flags
  deriving DecidableEq, Repr

/-- An image that raises no flag. -/
def Res.pure (x : W64) : Res := ⟨x, 0#5⟩

/-- `fit` (R178): saturation sets OF, a wrap sets nothing; the code has width `w`. -/
def fit (sat signed : Bool) (w : Nat) (x : Int) : Nat × Flags :=
  if sat && (decide (x < intMin signed w) || decide (intMax signed w < x)) then
    (wrapInt w (if x < intMin signed w then intMin signed w else intMax signed w), flagOF)
  else (wrapInt w x, 0#5)

/-- FSTAT with flags raised (R201): flags stick. -/
def fstatOr (f : W64) (fl : Flags) : W64 := f ||| fl.setWidth 64

/-- FSTAT as SWRITE leaves it (R201): bits [63:5] are ignored. -/
def fstatSet (x : W64) : W64 := x &&& 0x1F#64

/-- The elements of an image, combined again: element `e` of width `w` at bit `w × e`. -/
def packElems (w : Nat) : List (Nat × Flags) → Nat → Nat × Flags
  | [], _ => (0, 0#5)
  | (x, fl) :: r, e =>
    let (y, fr) := packElems w r (e + 1)
    (x % 2 ^ w * 2 ^ (w * e) + y, fl ||| fr)

/-- Each of `n` elements of width `w` of an image computed by `f` from the element's number (R177). -/
def mapElems (w n : Nat) (f : Nat → Nat × Flags) : Res :=
  let (x, fl) := packElems w ((List.range n).map f) 0
  ⟨BitVec.ofNat 64 x, fl⟩

/-- Element `e` of width `w` of an image. -/
def elem (w e : Nat) (x : W64) : Nat := fieldOf x.toNat (w * e) w

end Sys2Proof.Machine
end

