-- ==== Sys2Proof/Machine/Operands.lean ====
section
/-! DEFINITION. Operands.lean: MODE and guards (R156, R157), and every operand form (R151 to R155): its value, the registers
it reads, and when it is an OPND fault. -/

namespace Sys2Proof

/-! ### Register names for the hazard rules -/

/-- Register codes: v0 to v95 are 0 to 95, g0 to g63 are 96 on, p0 to p7 are 160 on, q0 to q7 are 168 on. -/
def codeG (n : Nat) : Nat := 96 + n
def codeP (n : Nat) : Nat := 160 + n
def codeQ (n : Nat) : Nat := 168 + n

/-- The codes of FSTAT and of the lanes' SR states, which poison and errors reach like a register's (R415, R417). -/
def codeFstat : Nat := 177
def codeSr : Nat := 178

/-- The codes of a `v` register at a width. -/
def codesV (wide : Bool) (n : Nat) : List Nat := if wide then [n, n + 1] else [n]

/-- The registers a vector source reads. -/
def Opnd.vCodes (wide : Bool) : Opnd → List Nat
  | .v n => codesV wide n
  | .g n => [codeG n]
  | .q n => [codeQ n]
  | _ => []

/-- The registers a uniform source reads. -/
def Opnd.uCodes : Opnd → List Nat
  | .g n => [codeG n]
  | .q n => [codeQ n]
  | _ => []

/-! ### Lengths -/

/-- Trailer words of an operand (R149). -/
def Opnd.words : Opnd → Nat
  | .lit32 _ => 1
  | .lit64 _ => 2
  | _ => 0

/-- Words of each instruction form (R149). -/
def Op1.len (x : Op1) : Nat := 1 + x.a.words
def Op2.len (x : Op2) : Nat := 1 + x.a.words
def Op3.len (x : Op3) : Nat := 1 + x.a.words + x.c.words
def OpAC.len (x : OpAC) : Nat := 1 + x.a.words + x.c.words
def OpReg.len (x : OpReg) : Nat := 1 + x.a.words
def CmpI.len (x : CmpI) : Nat := 1 + x.a.words + x.c.words
def OpCode.len (x : OpCode) : Nat := 1 + x.a.words
def ACode.len (x : ACode) : Nat := 1 + x.a.words
def RrOp.len (x : RrOp) : Nat := 1 + x.c.words
def Load.len (x : Load) : Nat := 1 + x.a.words
def Store.len (x : Store) : Nat := 1 + x.a.words + x.c.words
def Gath.len (x : Gath) : Nat := 1 + x.c.words
def AtomI.len (x : AtomI) : Nat := 2 + x.a.words + x.c.words
def RedI.len (x : RedI) : Nat := 2 + x.a.words + x.c.words
def MmagI.len (x : MmagI) : Nat := 2 + x.a.words + x.c.words
def BrqI.len (x : BrqI) : Nat := 2 + x.c.words
def SpawnI.len (x : SpawnI) : Nat := 2 + x.a.words
def ReadLaneI.len (x : ReadLaneI) : Nat := 1 + x.c.words
def CtrWaitI.len (x : CtrWaitI) : Nat := 1 + x.a.words + x.c.words
def SlotAC.len (x : SlotAC) : Nat := 1 + x.a.words

end Sys2Proof

namespace Sys2Proof.Machine

/-! ### MODE -/

/-- The fields of MODE (Table 4 of ch08). -/
def modeGrd (m : W32) : Nat := fieldOf m.toNat 0 4
def modeEty (m : W32) : Nat := fieldOf m.toNat 4 4
def modeRnd (m : W32) : Nat := fieldOf m.toNat 8 3
def modeSat (m : W32) : Bool := bitOf m.toNat 11
def modeFa (m : W32) : Nat := fieldOf m.toNat 12 4
def modeFb (m : W32) : Nat := fieldOf m.toNat 16 4
def modeFac (m : W32) : Nat := fieldOf m.toNat 20 2
def modeScm (m : W32) : Nat := fieldOf m.toNat 22 2

/-- MODE with reserved bits dropped (R156). -/
def modeMask (m : W32) : W32 := m &&& 0x00FFFFFF#32

/-- A field of MODE replaced: `n` bits at bit `lo`. -/
def modePut (m : W32) (lo n x : Nat) : W32 :=
  BitVec.ofNat 32 (m.toNat - fieldOf m.toNat lo n * 2 ^ lo + x % 2 ^ n * 2 ^ lo)

/-! ### What an instruction can read -/

/-- Everything an instruction's operands are read from: registers, the MODE that governs, the split's index (0 on a control
core), the group slot (the hardware thread on a control core), VREGS, the split's mask, and whether it is a SIMT group. -/
structure Rd where
  v : Nat → Nat → W32
  g : Nat → W64
  p : Nat → W32
  q : Nat → Bool
  mode : W32
  split : Nat
  gslot : Nat
  vregs : Nat
  mask : W32
  simt : Bool

/-- A `p` register of a group: p7 reads true in every lane (R154). -/
def Regs.rdP (r : Regs) (n : Nat) : W32 := if n = 7 then 0xFFFFFFFF#32 else Tbl.fget 0#32 r.p n

/-- A `q` register: q7 reads true (R154). -/
def rdQ (q : Table Bool) (n : Nat) : Bool := if n = 7 then true else Tbl.fget false q n

/-- One lane of a `v` register. -/
def Regs.rdV (r : Regs) (n l : Nat) : W32 := Tbl.fget 0#32 r.v (32 * n + l)

/-- A `g` register. -/
def Regs.rdG (r : Regs) (n : Nat) : W64 := Tbl.fget 0#64 r.g n

/-- What a split's instruction reads. -/
def State.rdSplit (s : State) (g : Group) (sp : Nat) (p : Split) : Rd :=
  { v := g.regs.rdV, g := g.regs.rdG, p := g.regs.rdP, q := rdQ g.regs.q, mode := modeAt s.ac p.modeQ p.mode,
    split := sp, gslot := g.place.slot, vregs := s.vregsOf g, mask := p.mask, simt := true }

/-- What a control thread's instruction reads: split reads 0, gslot the hardware thread (R152). -/
def Thread.rd (t : Thread) (tid : Nat) : Rd :=
  { v := fun _ _ => 0#32, g := Tbl.fget 0#64 t.g, p := fun _ => 0#32, q := rdQ t.q, mode := t.mode, split := 0,
    gslot := tid % 2, vregs := 0, mask := 0#32, simt := false }

/-- What every vector instruction reads beside its operands: the MODE of its split (its code is 288 + the split's index), and the
guard's register (R157). -/
def Rd.modeCodes (r : Rd) : List Nat := [288 + r.split, codeP (modeGrd r.mode % 8)]

/-- The code of the MODE that an instruction reads: its split's, or its control thread's. -/
def Rd.modeCode (r : Rd) : Nat := if r.simt then 288 + r.split else 200

/-- What a conversion reads beside them: under the rounding SR, the SR states (R145). -/
def Rd.srCodes (r : Rd) : List Nat := if modeRnd r.mode = 5 then [codeSr] else []

/-- Whether the guard of MODE is true in a lane (R157). -/
def Rd.guard (r : Rd) (l : Nat) : Bool :=
  hasLane (r.p (modeGrd r.mode % 8)) l != bitOf (modeGrd r.mode) 3

/-- `active(split)` (R157). -/
def Rd.active (r : Rd) : W32 := maskWhere fun l => hasLane r.mask l && r.guard l

/-- The lanes of `active(split)`, ascending. -/
def Rd.lanes (r : Rd) : List Nat := allLanes.filter fun l => hasLane r.mask l && r.guard l

/-- A pair of `v` registers as a 64-bit value (R154). -/
def Rd.pair (r : Rd) (n l : Nat) : W64 := r.v (n + 1) l ++ r.v n l

/-! ### Vector-class sources (Table 2 of ch08, R153) -/

/-- The constant one in the element type: packed types hold it in every element (R153). -/
def oneImage (ety : Nat) : Nat :=
  match ety with
  | 4 => 0x00010001
  | 5 => 0x00010001
  | 6 => 0x01010101
  | 7 => 0x01010101
  | 8 => 0x3F800000
  | 9 => 0x3C003C00
  | 10 => 0x3F803F80
  | _ => 1

/-- LIT32 at 64 bits: sign-extended under a signed or floating-point ETY, zero-extended otherwise (R153). -/
def lit32Wide (ety : Nat) (x : W32) : W64 := extLit (etySigned ety || etyFloat ety) x

/-- A vector source in a lane, at 32 or (`wide`) 64 bits. -/
def Rd.vec (r : Rd) (wide : Bool) (o : Opnd) (l : Nat) : W64 :=
  match o with
  | .v n => if wide then r.pair n l else (r.v n l).setWidth 64
  | .g n => if wide then r.g n else ((r.g n).setWidth 32).setWidth 64
  | .q n => BitVec.ofNat 64 (b01 (r.q n))
  | .zero => 0#64
  | .one => BitVec.ofNat 64 (oneImage (modeEty r.mode))
  | .lane => BitVec.ofNat 64 l
  | .quarter => BitVec.ofNat 64 (l / 8)
  | .split => BitVec.ofNat 64 r.split
  | .gslot => BitVec.ofNat 64 r.gslot
  | .lit32 x => if wide then lit32Wide (modeEty r.mode) x else x.setWidth 64
  | .lit64 x => if wide then x else (x.setWidth 32).setWidth 64

/-- Whether a `v` register of a width is an OPND fault (R154): beyond VREGS, or an odd pair. -/
def Rd.vBad (r : Rd) (wide : Bool) (n : Nat) : Bool :=
  if wide then n % 2 == 1 || decide (r.vregs ≤ n + 1) else decide (r.vregs ≤ n)

/-- Whether a vector source is an OPND fault at a width (R154); a LIT64 follows MODE.ETY alone (R153).
[DEDUCED, log entry 129] -/
def Rd.vecBad (r : Rd) (wide : Bool) : Opnd → Bool
  | .v n => r.vBad wide n
  | .lit64 _ => !ety64 (modeEty r.mode)
  | _ => false

/-- Whether a 32-bit offset source is an OPND fault: LIT64 is one under every ETY (R234, R235). -/
def Rd.offBad (r : Rd) : Opnd → Bool
  | .v n => r.vBad false n
  | .lit64 _ => true
  | _ => false

/-! ### Uniform-class sources (Table 3 of ch08, R153) -/

/-- The constant one of a uniform word: a single element's 1 (R153). -/
def oneUni (ety : Nat) : Nat :=
  match ety with
  | 8 => 0x3F800000
  | 9 => 0x3C00
  | 10 => 0x3F80
  | _ => 1

/-- A uniform source. -/
def Rd.uni (r : Rd) (o : Opnd) : W64 :=
  match o with
  | .v _ => 0#64
  | .g n => r.g n
  | .q n => BitVec.ofNat 64 (b01 (r.q n))
  | .zero => 0#64
  | .one => BitVec.ofNat 64 (oneUni (modeEty r.mode))
  | .lane => 0#64
  | .quarter => 0#64
  | .split => BitVec.ofNat 64 r.split
  | .gslot => BitVec.ofNat 64 r.gslot
  | .lit32 x => lit32Wide (modeEty r.mode) x
  | .lit64 x => x

end Sys2Proof.Machine
end

