-- ==== Sys2Proof/Machine/Issue.lean ====
section
/-! DEFINITION. Issue.lean: what every instruction does at issue, once: the order of its faults (R167), the hazard rules
(R158 to R160), runs (R161), safe points (R293), and the writing of results. -/

namespace Sys2Proof.Machine

/-! ### Results -/

/-- No register written. -/
def RegWrites.none : RegWrites := ⟨[], [], [], [], 0#5, Option.none, []⟩

/-- One `g` register written. -/
def RegWrites.gOne (n : Nat) (x : W64) : RegWrites := { RegWrites.none with g := [(n, x)] }

/-- Poison keys of a write: the registers it writes. -/
def RegWrites.keys (w : RegWrites) : List Nat :=
  w.v.map Prod.fst ++ w.g.map (fun x => 3072 + x.1) ++ w.p.map (fun x => 3136 + x.1) ++ w.q.map (fun x => 3144 + x.1)
    ++ if w.fset.isSome then [3153] else []

/-- A predicate register with the lanes of a mask replaced. -/
def mergeMask (old mask new : W32) : W32 := (old &&& ~~~mask) ||| (new &&& mask)

/-- A group's registers after a result is written at an ac: writes to p7 and q7 are discarded (R154); flags stick, but one
written at or before the instant of an SWRITE of FSTAT is overwritten by it (R199). -/
def Regs.write (r : Regs) (ac : Nat) (w : RegWrites) : Regs :=
  { r with
    v := w.v.foldl (fun t x => Tbl.fset 0#32 t x.1 x.2) r.v
    g := w.g.foldl (fun t x => Tbl.fset 0#64 t x.1 x.2) r.g
    p := w.p.foldl (fun t x => if x.1 = 7 then t else Tbl.fset 0#32 t x.1 (mergeMask (Tbl.fget 0#32 t x.1) x.2.1 x.2.2)) r.p
    q := w.q.foldl (fun t x => if x.1 = 7 then t else Tbl.fset false t x.1 x.2) r.q
    fstat := match w.fset with
      | some x => fstatSet x
      | none => if r.fsetAt = some ac then r.fstat else fstatOr r.fstat w.flags
    fsetAt := if w.fset.isSome then some ac else r.fsetAt
    poison := if r.poison = [] ∧ w.px = [] then []
      else w.px.foldl (fun t x => Tbl.put t x.1 x.2) (w.keys.foldl Tbl.del r.poison)
    errs := if r.errs = [] then [] else w.keys.foldl Tbl.del r.errs }

/-- The keys of the registers of a thread that a result writes. -/
def RegWrites.threadKeys (w : RegWrites) : List Nat :=
  w.g.map Prod.fst ++ w.q.map (fun y => 72 + y.1) ++ if w.fset.isSome then [81] else []

/-- Registers, by their poison keys, that are written: what was wrong with them is gone (R415, R417). -/
def Regs.clean (r : Regs) (keys : List Nat) : Regs :=
  { r with poison := keys.foldl Tbl.del r.poison, errs := keys.foldl Tbl.del r.errs }

/-- A control thread's registers after a result (R160). -/
def Thread.write (t : Thread) (w : RegWrites) : Thread :=
  { t with
    g := w.g.foldl (fun x y => Tbl.fset 0#64 x y.1 y.2) t.g
    q := w.q.foldl (fun x y => if y.1 = 7 then x else Tbl.fset false x y.1 y.2) t.q
    fstat := match w.fset with
      | some x => fstatSet x
      | none => fstatOr t.fstat w.flags
    poison := if t.poison = [] ∧ w.px = [] then []
      else w.px.foldl (fun x y => Tbl.put x (y.1 - 3072) y.2) (w.threadKeys.foldl Tbl.del t.poison)
    errs := if t.errs = [] then [] else w.threadKeys.foldl Tbl.del t.errs }

/-! ### Hazards and poison -/

/-- Whether a register's pending bit is set (R159); no variable-latency instruction writes a `p` register (codes 160 to
167). -/
def Group.isPending (g : Group) (c : Nat) : Bool :=
  g.flights.any fun f => !f.done &&
    (if c < 96 then f.dv.contains c else if c < 160 then f.dg.contains (c - 96)
      else decide (168 ≤ c) && f.dq.contains (c - 168))

/-- The poison keys of a register: a `v` register, or the SR state, in each lane of a mask (R417). -/
def poisonKeys (active : W32) (c : Nat) : List Nat :=
  if c < 96 then (lanesOf active).map fun l => 32 * c + l
  else if c = codeSr then (lanesOf active).map fun l => 3200 + l
  else [3072 + (c - 96)]

/-- What a poison mark reports: cause and value (R417). -/
def poisonCause (k : Nat) : Nat × Nat := if k = 0 then (0x13, 0) else (0x12, k - 1)

/-- The first poisoned register that is read, with its mark (R417). -/
def poisonFirst (t : Table Nat) (keys : List Nat) : Option (Nat × Nat) :=
  if t = [] then none else keys.findSome? fun k => (Tbl.get? t k).map fun x => (k, x)

/-- The poison that reading registers meets: cause and value (R417). -/
def poisonMet (t : Table Nat) (keys : List Nat) : Option (Nat × Nat) := (poisonFirst t keys).map fun k => poisonCause k.2

/-- The poison that a split's sources meet, with the lane of a `v` register (R417, R293). -/
def poisonFlt (t : Table Nat) (keys : List Nat) : Option Flt :=
  (poisonFirst t keys).map fun k =>
    ⟨(poisonCause k.2).1, (poisonCause k.2).2, if k.1 < 3072 then some (k.1 % 32) else none⟩

/-! ### Safe points -/

/-- The ordinal of an address in the running kernel's safe-point table (R292, R296). -/
def State.ordinalOf (s : State) (g : Group) (pc : W64) : Option Nat :=
  (s.taskOf g).bind fun t =>
    let off := (pc.toNat + 2 ^ 64 - t.launch.code) % 2 ^ 64
    if off % 4 = 0 then t.spt.findIdx? fun e => e.offset == off / 4 else none

/-- Whether batch number `a` is `b` or earlier, as 16-bit serial numbers (R105). -/
def serialLe (a b : Nat) : Bool := decide ((b + 65536 - a % 65536) % 65536 < 32768)

/-- What a split that passes a safe point meets there: the trap of a poisoned register (R417), or the report of a batch
that completed without an MWAIT naming it (R115). -/
def Group.pointTrap (g : Group) : Option (Nat × Nat) :=
  match g.regs.poison with
  | (_, k) :: _ => some (poisonCause k)
  | [] => (g.mat.reports.find? fun r => serialLe r.1 g.mat.completed).map fun r => (r.2, 0)

/-- A split or parked set some of whose lanes have passed a safe point, `off` instructions ago (R293). -/
def Split.atPoint (p : Split) (mask : W32) (ord off : Nat) (mode : W32) : Split :=
  let old := (p.pieces.map fun x => { x with mask := x.mask &&& ~~~mask }).filter fun x => x.mask != 0#32
  { p with pieces := if p.mask &&& mask = 0#32 then old else ⟨p.mask &&& mask, ord, off, false, mode⟩ :: old }

/-- A group some of whose lanes have passed a safe point: their SR states there are kept (R145), and its reports are
raised (R115). -/
def Group.passed (g : Group) (mask : W32) (sr : Table W32) : Group :=
  { g with
    regs := { g.regs with
      srSp := (lanesOf mask).foldl (fun t l => Tbl.put t l (Tbl.getD sr l (srReset l))) g.regs.srSp }
    mat := { g.mat with reports := g.mat.reports.filter fun r => !serialLe r.1 g.mat.completed } }

/-- A group put as it is after a safe point, whose traps that waited for one are raised (R417, R115). -/
def State.putPassed (s : State) (gid ord off : Nat) (g g' : Group) : State :=
  match g.pointTrap with
  | some (c, v) => (s.putGroup gid g').haltAt gid c v ord off
  | none => s.putGroup gid g'

/-- Lanes of a group's splits and parked sets pass a safe point whose result is written: the last one is `ord`, `off`
instructions ago, with the SR states and MODE there (R293). -/
def State.passPending (s : State) (gid : Nat) (x : SpPend) : State :=
  match s.group? gid with
  | none => s
  | some g =>
    let pass (p : Split) : Split := p.atPoint x.mask x.ord x.off x.mode
    s.putPassed gid x.ord x.off g
      ({ g with splits := g.splits.map (fun (p : Nat × Split) => (p.1, pass p.2)), sets := g.sets.map pass }.passed (x.mask &&& g.live) x.sr)

/-- A split passes a safe point as its instruction issues, with the SR states and MODE as they stand; a safe point before it
that waits for a result is behind it (R295).
[DEDUCED, log entry 107] -/
def State.passPoint (s : State) (gid sp ord off : Nat) : State :=
  match (s.group? gid).bind fun g => (g.split? sp).map fun p => (g, p) with
  | none => s
  | some (g, p) => s.putPassed gid ord off g
      ((g.putSplit sp { p.atPoint p.mask ord off (modeLast p.modeQ p.mode) with spQ := [] }).passed p.mask g.regs.sr)

/-- The newest parked set passes a safe point as it is formed. -/
def State.passNewSet (s : State) (gid ord : Nat) : State :=
  match (s.group? gid).bind fun g => g.sets.getLast?.map fun p => (g, p) with
  | none => s
  | some (g, p) => s.putPassed gid ord 0 g
      ({ g with sets := g.sets.dropLast ++ [{ p.atPoint p.mask ord 0 (modeLast p.modeQ p.mode) with spQ := [] }] }.passed p.mask
        g.regs.sr)

/-! ### Issue on a SIMT group -/

/-- What an instruction is to the issue rules: its marks and length, whether it must end its run (R190) or carry S (R295),
whether its operands are an OPND fault, the registers it reads and writes, the kind its XLAT gives a fault-buffer entry. -/
structure Spec where
  m : Marks
  len : Nat
  needB : Bool
  needS : Bool
  bad : Bool
  srcs : List Nat
  dsts : List Nat
  rkind : Nat

/-- A scheduler's split whose run it issues (R25). -/
def State.putSched (s : State) (k : Nat) (c : Option (Nat × Nat)) : State :=
  s.modSimt fun x => { x with scheds := Tbl.put x.scheds k { Tbl.getD x.scheds k ⟨none, none⟩ with cur := c } }

/-- A split has issued in this ac: its core's window restarts (R28), and its scheduler has issued (R433). -/
def State.noteIssue (s : State) (gid sp : Nat) (g : Group) : State :=
  s.modSimt fun x => { x with
    lastIssue := Tbl.put x.lastIssue g.place.core s.ac
    scheds := Tbl.put x.scheds g.place.schedNo
      { Tbl.getD x.scheds g.place.schedNo ⟨none, none⟩ with last := some (s.ac, gid, sp) } }

/-- Whether every split of a group is held or parked (Table 5 of ch27). -/
def Group.stopped (g : Group) : Bool := g.splits.all fun p => p.2.held || p.2.park.isSome

/-- With HOLDTEAM, a stepped group that has stopped holds the other groups of its team at their next safe points (R436). -/
def State.spreadHold (s : State) (gid : Nat) : State :=
  match s.group? gid with
  | none => s
  | some g =>
    if g.stepOn && g.stopped && (s.traceQ g.place.ctx).holdteam then
      s.modSimt fun x => { x with groups := x.groups.map fun (i, h) =>
        (i, if h.place.team = g.place.team ∧ i ≠ gid then { h with stepHeld := true } else h) }
    else s

/-- Every stepped group that has stopped holds its team (R436). -/
def State.stepHolds (s : State) : State :=
  (s.simt.groups.filter fun g => g.2.stepOn).foldl (fun s g => s.spreadHold g.1) s

/-- The held splits of a group released: each runs on to its next safe point (R435). -/
def State.releaseHeld (s : State) (gid : Nat) : State :=
  match s.group? gid with
  | none => s
  | some g =>
    let held := g.splits.filter fun p => p.2.held
    let s := s.putGroup gid { g with
      splits := g.splits.map fun p => (p.1, { p.2 with held := false })
      sets := g.sets.map fun p => { p with held := false } }
    held.foldl (fun s p => s.at (max s.ac p.2.readyAt) (.runEndMerge gid p.1)) s

/-- The holds of a team end once none of its groups is stepped (R436). -/
def State.releaseTeam (s : State) (team : Nat) : State :=
  let mine := s.simt.groups.filter fun g => g.2.place.team == team
  if mine.any fun g => g.2.stepOn then s
  else mine.foldl (fun s g => if g.2.stepHeld then (s.modGroup g.1 fun h => { h with stepHeld := false }).releaseHeld g.1 else s) s

/-- The bookkeeping after a split's instruction has issued: next address, run, safe point, W marker (R161, R293, R148); a
split of a group that is stepped is held at a safe point (R435). -/
def State.advance (s : State) (gid sp : Nat) (m : Marks) (len : Nat) (fixed : Bool) (next : Option W64)
    (park : Option Park) : State :=
  match s.group? gid with
  | none => s.pop
  | some g =>
    match g.split? sp with
    | none => s.pop
    | some p =>
      let pc := next.getD (p.pc + BitVec.ofNat 64 (4 * len))
      let ord := if m.s || next.isSome then s.ordinalOf g pc else none
      let hold := (g.stepOn || g.stepHeld) && ord.isSome
      let ends := m.b || m.w || park.isSome || hold
      let p' := { p with
        pc := pc
        run := if ends then 0 else p.run + 1
        ready := false
        readyAt := if ends then s.ac + 4 else p.readyAt
        passed := 0
        park := park
        wpend := m.w
        held := p.held || hold
        pieces := p.pieces.map fun x => { x with off := x.off + 1 }
        spQ := (p.spQ.map fun x => { x with off := x.off + 1 }) ++
          (match ord with
            | some k => if fixed then [⟨p.mask, s.ac + 4, k, 0, g.regs.sr, modeLast p.modeQ p.mode⟩] else []
            | none => []) }
      let s := s.putGroup gid (g.putSplit sp p')
      let s := match ord with
        | some k => if fixed then s.at (s.ac + 4) (.fixedLatencyWriteback gid) else s.passPoint gid sp k 0
        | none => s
      let s := if ends then
          (if park.isNone then s.at (s.ac + 4) (.runEndMerge gid sp) else s).putSched g.place.schedNo none
        else s
      (s.noteIssue gid sp g).pop

/-- A group's run ends: the split that issues it, where it is another than `sp`, is ready again 4 ac from now. -/
def State.endRun (s : State) (gid sp : Nat) (g : Group) : State :=
  match (Tbl.get? s.simt.scheds g.place.schedNo).bind Sched.cur with
  | some (i, j) =>
    if i ≠ gid then s
    else if j = sp then s.putSched g.place.schedNo none
    else ((s.putSched g.place.schedNo none).modSplit gid j fun p =>
      { p with run := 0, ready := false, readyAt := s.ac + 4 }).at (s.ac + 4) (.runEndMerge gid j)
  | none => s

/-- A replay-mode XLAT (R47, R48): the group is parked with its split at the instruction, the fill goes to the die's fault
buffer and the driver is interrupted, or the context halts if the buffer is full.
[DESIGN CHOICE, log entry 39] -/
def State.replayPark (s : State) (gid sp kind : Nat) (f : Flt) : State :=
  match s.group? gid with
  | none => s
  | some g =>
    let die := dieOfCore g.place.core
    let buf := Tbl.getD s.simt.fb die []
    if 1024 ≤ buf.length then
      (s.modSimt fun x => { x with fbOverflow := if x.fbOverflow.contains die then x.fbOverflow else die :: x.fbOverflow }).haltFlt
        gid sp f
    else
      let i := Tbl.free buf 1024 0
      let e : FbEntry := ⟨f.value, kind, g.place.ctx, (s.ctx g.place.ctx).eid, gid, sp, g.place.core,
        16 * g.place.sched + g.place.slot, none, f.lane⟩
      (((s.modSimt fun x => { x with fb := Tbl.put x.fb die (Tbl.put buf i e) }).modSplit gid sp fun p =>
        { p with run := 0, ready := false, readyAt := s.ac, park := some (.replay die i) }).endRun gid sp g).postDie die
          (Config.fillVector die)

/-- A replay-mode XLAT of an instruction at issue. -/
def State.replayFault (s : State) (gid sp kind value : Nat) : State := (s.replayPark gid sp kind ⟨6, value, none⟩).pop

/-- A fault of an instruction at which a split is parked: an XLAT of a context with REPLAY policy is served by replay (R47). -/
def State.parkedFlt (s : State) (gid sp : Nat) (g : Group) (rkind : Nat) (f : Flt) : State :=
  if f.cause = 6 ∧ bitOf (s.policyOf (s.ctx g.place.ctx).eid) 2 = true then s.replayPark gid sp rkind f
  else s.haltFlt gid sp f

/-- A fault of an instruction at issue: an XLAT of a context with REPLAY policy is served by replay (R47). -/
def State.issueFault (s : State) (gid sp : Nat) (g : Group) (rkind cause value : Nat) : State :=
  if cause = 6 ∧ bitOf (s.policyOf (s.ctx g.place.ctx).eid) 2 = true then s.replayFault gid sp rkind value
  else s.simtFault gid sp cause value

/-- A fault of an instruction at issue, at its lane's safe point. -/
def State.issueFlt (s : State) (gid sp : Nat) (g : Group) (rkind : Nat) (f : Flt) : State :=
  (s.parkedFlt gid sp g rkind f).pop

/-- What an instruction's body answers: the state with its effect, the address branched to, what parks the split, and what
follows the bookkeeping of the issue. -/
structure Done where
  s : State
  next : Option W64
  park : Option Park
  post : State → State

/-- An effect with no branch and no wait. -/
def Done.plain (s : State) : Done := ⟨s, none, none, id⟩

/-- The 25th instruction of a run, a missing B or W, a missing S: RUN (R161, R190, R295).
[DEDUCED, log entry 104] -/
def Spec.runBad (i : Spec) (run : Nat) : Bool :=
  decide (24 ≤ run) || (i.needB && !(i.m.b || i.m.w)) || (i.needS && !i.m.s)

/-- The faults of an instruction that come before its own (R167): RUN, OPND, PEND, the trap of a poisoned source (R417);
`k` is what follows. The errors of the registers that it reads are met (R415). -/
def State.issueGuard (s : State) (gid sp : Nat) (g : Group) (p : Split) (i : Spec) (active : W32) (k : State) : State :=
  if i.runBad p.run then s.simtFault gid sp 3 0
  else if i.bad then s.simtFault gid sp 2 0
  else if (i.srcs ++ i.dsts).any g.isPending then s.simtFault gid sp 4 0
  else
    let keys := i.srcs.flatMap (poisonKeys active)
    match poisonFlt (g.regs.marks keys) keys with
    | some f => ((s.meetRegs gid keys).haltFlt gid sp f).pop
    | none => if errsAt g.regs.errs keys = [] then k else k.meetRegs gid keys

/-- Issue of an instruction by a split, its faults in the order of R167. -/
def State.issueSplit (s : State) (gid sp : Nat) (g : Group) (p : Split) (i : Spec) (active : W32) (fixed : Bool)
    (body : Except Flt Done) : State :=
  s.issueGuard gid sp g p i active <|
    match body with
    | .error f => s.issueFlt gid sp g i.rkind f
    | .ok d => d.post (d.s.advance gid sp i.m i.len fixed d.next d.park)

/-- A split parked at an instruction that has not issued (R26): its run ends, its address and safe point stay. -/
def State.stall (s : State) (gid sp : Nat) (park : Park) : State :=
  match s.group? gid with
  | none => s.pop
  | some g =>
    ((s.modSplit gid sp fun p =>
      { p with run := 0, ready := false, readyAt := s.ac + 4, passed := 0, park := some park }).putSched g.place.schedNo none).pop

/-- An instruction at which a split was parked has issued (R26, R293, R435): its next address, its safe point, and the
split ready when its run's end allows. -/
def State.resumeAfter (s : State) (gid sp : Nat) (m : Marks) (len : Nat) : State :=
  match (s.group? gid).bind fun g => (g.split? sp).map fun p => (g, p) with
  | none => s
  | some (g, p) =>
    let pc := p.pc + BitVec.ofNat 64 (4 * len)
    let ord := if m.s then s.ordinalOf g pc else none
    let s := s.modSplit gid sp fun p => { p with
      pc := pc, park := none, wpend := m.w, held := p.held || ((g.stepOn || g.stepHeld) && ord.isSome),
      pieces := p.pieces.map fun x => { x with off := x.off + 1 }
      spQ := p.spQ.map fun x => { x with off := x.off + 1 } }
    let s := match ord with
      | some k => s.passPoint gid sp k 0
      | none => s
    (s.noteIssue gid sp g).at (max s.ac p.readyAt) (.runEndMerge gid sp)

/-- Fixed-latency results on their way: written 4 ac from now (R158).
[DEDUCED, log entry 25] -/
def State.putFixed (s : State) (gid : Nat) (lanes : W32) (w : RegWrites) : State :=
  (s.modGroup gid fun g => { g with fixed := g.fixed ++ [⟨s.ac + 4, lanes, w⟩] }).at (s.ac + 4) (.fixedLatencyWriteback gid)

/-- A flight that writes a result computed at issue (R159). -/
def Flight.result (sp : Nat) (lanes : W32) (w : RegWrites) : Flight :=
  { id := 0, sp := sp, kind := .alu, lanes := lanes, path := none, done := false,
    dv := (w.v.map fun x => x.1 / 32).dedup, dg := w.g.map Prod.fst, dq := (w.q.map Prod.fst).filter fun q => q != 7, w := w, acc := [],
    acq := false, rel := false, nt := false, scope := 0, tag := none, gather := false, back := [] }

/-- A global load counted for sampling, and its tag where it is the one in 2^LLOG2: the access of its lowest lane (R433). -/
def State.tagLoad (s : State) (g : Group) (f : Flight) : State × Option (Nat × Nat × Nat × Nat) :=
  let q := g.place.ctx
  let load := match f.kind with
    | .load _ => true
    | _ => false
  match f.acc with
  | a :: _ =>
    if load && (s.traceQ q).load && a.team.isNone then
      let t := s.traceS g.place.schedNo q
      let pt := ((g.split? f.sp).map fun p => p.point ((lowestLane p.mask).getD 0)).getD (0, 0)
      (s.putTraceS g.place.schedNo q { t with loads := t.loads + 1 },
        if (t.loads + 1) % 2 ^ (s.traceQ q).llog2 = 0 then some (pt.1, pt.2, s.time (s.partOfQueue q), a.pa) else none)
    else (s, none)
  | [] => (s, none)

/-- Put an instruction of a group in flight; `ev` is the event that its number gets, after an open latency. -/
def State.launch (s : State) (gid : Nat) (f : Flight) (ev : Nat → Nat → Event) : State :=
  match s.group? gid with
  | none => s
  | some g =>
    let (s, tag) := s.tagLoad g f
    (s.putGroup gid
      { g with flights := g.flights ++ [{ f with id := g.nextFlight, tag := tag }], nextFlight := g.nextFlight + 1 }).later
      (ev gid g.nextFlight)

/-- A variable-latency result computed at issue, on its way (R159). -/
def State.putVar (s : State) (gid sp : Nat) (lanes : W32) (w : RegWrites) : State :=
  s.launch gid (Flight.result sp lanes w) .variableLatencyResult

/-! ### Issue by kind of agent -/

/-- The agent that issues: a split of a group, or a control thread. An Easel context issues sketch words only. -/
def State.issuer (s : State) (simt : Nat → Nat → Group → Split → State) (thread : Nat → Thread → State) : Out :=
  match s.turns with
  | .split gid sp :: _ =>
    match s.group? gid with
    | none => .fault .noIssuer
    | some g =>
      match g.split? sp with
      | none => .fault .noIssuer
      | some p => .next (simt gid sp g p)
  | .thread t :: _ => .next (thread t (s.thread t))
  | _ => .fault .noIssuer

/-- Issue on a control core (R160, R167): OPND, then the trap of a poisoned source, then the body's own faults, with the error
that a memory fault reports; then the pc moves on. -/
def State.issueThread (s : State) (tid : Nat) (t : Thread) (i : Spec) (body : Except (Nat × Nat) (State × Option W64)) :
    State :=
  if i.bad then s.threadFault tid 2 0
  else
    let keys := i.srcs.map fun c => c - 96
    let met (s : State) : State := if errsAt t.errs keys = [] then s else s.meetThread tid keys
    match poisonMet (t.marks keys) keys with
    | some (c, v) => (met s).threadFault tid c v
    | none =>
      match body with
      | .error (c, v) => ((met s).logThread tid c v).threadFault tid c v
      | .ok (s, next) =>
        ((met s).modThread tid fun t => { t with pc := next.getD (t.pc + BitVec.ofNat 64 (4 * i.len)) }).pop

/-- A vector-class computation on the lanes `act` (R157): fixed- or variable-latency results. UNDEF on a control core
(R165). -/
def vecAluOn (s : State) (act : Rd → W32) (spec : Rd → Spec) (fixed : Bool) (f : Rd → Except Flt RegWrites) :
    Out :=
  s.issuer
    (fun gid sp g p =>
      let rd := s.rdSplit g sp p
      let i := spec rd
      let i := { i with srcs := rd.modeCodes ++ i.srcs }
      s.issueSplit gid sp g p i (act rd) fixed <|
        match f rd with
        | .error e => .error e
        | .ok w =>
          .ok (Done.plain (if act rd = 0#32 then s else if fixed then s.putFixed gid (act rd) w
            else s.putVar gid sp (act rd) w)))
    (fun t _ => s.threadFault t 1 0)

/-- A vector-class computation on `active(split)` (R157). -/
def vecAlu (s : State) (spec : Rd → Spec) (fixed : Bool) (f : Rd → Except Flt RegWrites) : Out :=
  vecAluOn s Rd.active spec fixed f

/-- A uniform-class computation (R157): once for the split, or for a control thread. -/
def uniAlu (s : State) (spec : Rd → Spec) (fixed : Bool) (f : Rd → Except (Nat × Nat) RegWrites) : Out :=
  s.issuer
    (fun gid sp g p =>
      let rd := s.rdSplit g sp p
      s.issueSplit gid sp g p (spec rd) p.mask fixed <|
        match f rd with
        | .error e => .error (Flt.plain e)
        | .ok w => .ok (Done.plain (if fixed then s.putFixed gid p.mask w else s.putVar gid sp p.mask w)))
    (fun tid t =>
      let rd := t.rd tid
      s.issueThread tid t (spec rd) <|
        match f rd with
        | .error e => .error e
        | .ok w => .ok (s.modThread tid fun t => t.write w, none))

/-- Any instruction of SIMT groups only: UNDEF on a control core (R165). -/
def simtOnly (s : State) (spec : Rd → Spec) (active : Rd → W32)
    (body : Nat → Nat → Group → Split → Rd → Except Flt Done) : Out :=
  s.issuer
    (fun gid sp g p =>
      let rd := s.rdSplit g sp p
      s.issueSplit gid sp g p (spec rd) (active rd) false (body gid sp g p rd))
    (fun t _ => s.threadFault t 1 0)

/-- An instruction of SIMT groups only that may park its split before it issues. -/
def simtStall (s : State) (spec : Rd → Spec) (active : Rd → W32)
    (wait : Nat → Nat → Group → Split → Rd → Except (Nat × Nat) (Option (State × Park)))
    (body : Nat → Nat → Group → Split → Rd → Except Flt Done) : Out :=
  s.issuer
    (fun gid sp g p =>
      let rd := s.rdSplit g sp p
      s.issueGuard gid sp g p (spec rd) (active rd) <|
        match wait gid sp g p rd with
        | .error (c, v) => s.issueFault gid sp g (spec rd).rkind c v
        | .ok (some (s, k)) => s.stall gid sp k
        | .ok none => s.issueSplit gid sp g p (spec rd) (active rd) false (body gid sp g p rd))
    (fun t _ => s.threadFault t 1 0)

/-- A uniform instruction that may park its split before it issues, and has no other effect on a group. -/
def uniStall (s : State) (spec : Rd → Spec)
    (wait : Nat → Nat → Group → Split → Rd → Except (Nat × Nat) (State × Option Park))
    (thread : Nat → Thread → Rd → Except (Nat × Nat) (State × Option W64)) : Out :=
  s.issuer
    (fun gid sp g p =>
      let rd := s.rdSplit g sp p
      s.issueGuard gid sp g p (spec rd) p.mask <|
        match wait gid sp g p rd with
        | .error (c, v) => s.issueFault gid sp g (spec rd).rkind c v
        | .ok (s, some k) => s.stall gid sp k
        | .ok (s, none) => s.issueSplit gid sp g p (spec rd) p.mask false (.ok (Done.plain s)))
    (fun tid t =>
      let rd := t.rd tid
      s.issueThread tid t (spec rd) (thread tid t rd))

/-- Any uniform instruction of both kinds of core. -/
def uniBoth (s : State) (fixed : Bool) (spec : Rd → Spec) (simt : Nat → Nat → Group → Split → Rd → Except (Nat × Nat) Done)
    (thread : Nat → Thread → Rd → Except (Nat × Nat) (State × Option W64)) : Out :=
  s.issuer
    (fun gid sp g p =>
      let rd := s.rdSplit g sp p
      s.issueSplit gid sp g p (spec rd) p.mask fixed ((simt gid sp g p rd).mapError Flt.plain))
    (fun tid t =>
      let rd := t.rd tid
      s.issueThread tid t (spec rd) (thread tid t rd))

/-- An instruction of control cores only, at a privilege level: UNDEF on a SIMT group, PRIV below the level (R165). -/
def threadOnly (s : State) (level : Nat) (spec : Rd → Spec)
    (body : Nat → Thread → Rd → Except (Nat × Nat) (State × Option W64)) : Out :=
  s.issuer
    (fun gid sp _ _ => s.simtFault gid sp 1 0)
    (fun tid t =>
      let rd := t.rd tid
      if t.lvl < level then s.threadFault tid 5 0 else s.issueThread tid t (spec rd) (body tid t rd))

/-- The plain spec of an instruction. -/
def Spec.of (m : Marks) (len : Nat) (bad : Bool) (srcs dsts : List Nat) : Spec :=
  ⟨m, len, false, false, bad, srcs, dsts, 0⟩

end Sys2Proof.Machine
end

