-- ==== Sys2Proof/Machine/TraceOps.lean ====
section
/-! DEFINITION. TraceOps.lean: branch-and-mask trace packets and sync points (R429 to R432), which instructions and events
stage on their scheduler. -/

namespace Sys2Proof.Machine

/-- Chunks that a scheduler can stage: 256 B (R432, R441). -/
def stageRoom : Nat := 4

/-- A group's trace state. -/
def State.traceG (s : State) (gid : Nat) : TraceG := Tbl.getD s.hub.traceG gid ⟨0, 0, 0, false, false⟩

/-- Put a group's trace state. -/
def State.putTraceG (s : State) (gid : Nat) (x : TraceG) : State :=
  s.modHub fun h => { h with traceG := Tbl.put h.traceG gid x }

/-- Packet bytes of a chunk. -/
def Chunk.size (c : Chunk) : Nat := (c.packets.map List.length).sum

/-- Chunks that take no more packets. -/
def TraceK.close (t : TraceK) (p : Chunk → Bool) : TraceK :=
  { t with chunks := t.chunks.map fun c => if p c then { c with closed := true } else c }

/-- A packet of a context in the staging (R428): in its open chunk where it fits there, else in a new one. A chunk holds packets of
one context, whose buffer it goes to. -/
def TraceK.add (t : TraceK) (q ac : Nat) (pk : List Byte) : TraceK :=
  let open_ (c : Chunk) : Bool := c.ctx == q && !c.closed
  if t.chunks.any fun c => open_ c && decide (c.size + pk.length ≤ 56) then
    { t with chunks := t.chunks.map fun c => if open_ c then { c with packets := c.packets ++ [pk] } else c }
  else
    let t := t.close open_
    { t with chunks := t.chunks ++ [⟨q, [pk], ac, false⟩] }

/-- Whether a scheduler's path to memory is backed up in this ac: a free choice (R432).
[DESIGN CHOICE, log entry 93] -/
def State.pathBusy (s : State) (k : Nat) : Bool := bitOf (s.freeNow (0x10000 + k)).toNat 0

/-- Whether a packet finds the staging full (R432): it needs a chunk beyond the room, and no chunk can be written. -/
def State.stageFull (s : State) (k : Nat) (t : TraceK) : Bool := decide (stageRoom < t.chunks.length) && s.pathBusy k

/-- Stage a packet, or lose it and count it when the staging is full, until LOSS has been written (R432). A chunk is written when
the next packet does not fit it, and within 4,096 ac of its first packet (R428).
[DEDUCED, log entry 92] -/
def State.stage (s : State) (k q : Nat) (pk : List Byte) : State :=
  let t := s.traceK k
  let t' := t.add q s.ac pk
  let lost := Tbl.getD t.lost q 0
  if lost ≠ 0 ∨ s.stageFull k t' = true then
    s.putTraceK k { t.close (fun c => c.ctx == q) with lost := Tbl.put t.lost q (lost + 1) }
  else
    let s' := s.putTraceK k t'
    if t'.chunks.length = t.chunks.length then s' else (s'.at (s.ac + 4096) (.chunkFlush k)).soon (.chunkFlush k)

/-- A packet's header byte: type and group slot (R429). -/
def packetHead (ty slot : Nat) : Byte := BitVec.ofNat 8 (16 * ty + slot % 16)

/-- Whether a group's context is traced.
[DEDUCED, log entry 92] -/
def State.traced (s : State) (g : Group) : Bool := (s.traceQ g.place.ctx).trace

/-- TIME for a group (R200). -/
def State.timeOf (s : State) (g : Group) : Nat := s.time (s.partOfDie (dieOfCore g.place.core))

/-- LEAF of a group: the mixed-radix index of its coordinates (R429). -/
def leafOf : List Nat → List Nat → Nat
  | [], _ => 0
  | c :: cs, e :: es => c + e * leafOf cs es
  | c :: cs, [] => c + leafOf cs []

/-- The extents of a group's launch. -/
def State.extents (s : State) (g : Group) : List Nat := ((s.taskOf g).map fun t => t.launch.levels.map Level.extent).getD []

/-- A sync point (R431): one SYNC for each split in index order; the current split becomes the lowest. -/
def State.syncPoint (s : State) (gid : Nat) (g : Group) : State :=
  let n := g.splits.length
  let tm := s.timeOf g
  let s' := g.splits.foldl (fun s (i, p) =>
    let (ord, off) := p.point ((lowestLane p.mask).getD 0)
    s.stage g.place.schedNo g.place.ctx
      ([packetHead 1 g.place.slot, BitVec.ofNat 8 (i + 4 * n)] ++ leBytes 4 ord ++ leBytes 1 off ++ leBytes 8 tm
        ++ leBytes 4 p.mask.toNat)) s
  s'.putTraceG gid ⟨((g.splits.head?).map Prod.fst).getD 0, tm, 0, false, true⟩

/-- The sync point of a group's start or resume, preceded by GROUP (R431). -/
def State.traceStart (s : State) (gid : Nat) : State :=
  match s.group? gid with
  | none => s
  | some g =>
    if !s.traced g then s
    else
      (s.stage g.place.schedNo g.place.ctx
        ([packetHead 9 g.place.slot] ++ leBytes 4 g.place.top ++ leBytes 4 (leafOf g.place.coords (s.extents g)))).syncPoint
        gid g

/-- The sync point after every 32 packets of a slot (R431), once the instruction or merge that wrote the last of them is done:
each split's offset is that of the next instruction it issues (R442). -/
def State.syncDue (s : State) (gid : Nat) : State :=
  match s.group? gid with
  | none => s
  | some g => if s.traced g && decide (32 ≤ (s.traceG gid).count) then s.syncPoint gid g else s

/-- A SWITCH where a packet is of another split than the slot's current one (R429). -/
def State.traceSwitch (s : State) (gid : Nat) (g : Group) (sw : Option Nat) : State :=
  let t := s.traceG gid
  match sw with
  | some sp => if t.cur = sp then s
      else (s.stage g.place.schedNo g.place.ctx [packetHead 8 g.place.slot, BitVec.ofNat 8 sp]).putTraceG gid
        { t with cur := sp, count := t.count + 1 }
  | none => s

/-- A packet with a delta byte (R430), a SWITCH before it where it names another split than the current one (R429). `g` is the group
before the instruction that causes the packet, which a sync point that comes first shows (R442); `body` are the bytes after the
delta; `sw` the split it is of. -/
def State.tracePacketOf (s : State) (gid : Nat) (g : Group) (ty : Nat) (sw : Option Nat) (delta : Bool) (body : List Byte) : State :=
  if !s.traced g then s
  else
    let k := g.place.schedNo
    let q := g.place.ctx
    let slot := g.place.slot
    let t := s.timeOf g
    let g0 := s.traceG gid
    let stale := decide (255 ≤ (t - g0.tref) / 4) && decide (2 ^ 32 ≤ t - g0.tref)
    let s := (if g0.due || !g0.begun || stale then s.syncPoint gid g else s).traceSwitch gid g sw
    let s := if 32 ≤ (s.traceG gid).count then (s.syncPoint gid g).traceSwitch gid g sw else s
    let g1 := s.traceG gid
    let d := (t - g1.tref) / 4
    let long := decide (255 ≤ d)
    let s := if delta && long then s.stage k q ([packetHead 15 slot] ++ leBytes 4 (t - g1.tref)) else s
    let s := s.stage k q ([packetHead ty slot] ++ (if delta then [BitVec.ofNat 8 (if long then 255 else d)] else []) ++ body)
    let g2 : TraceG := { g1 with tref := if !delta then g1.tref else if long then t else g1.tref + 4 * d,
                                 count := g1.count + 1 }
    s.putTraceG gid g2

/-- A packet that an instruction causes before it changes its group. -/
def State.tracePacket (s : State) (gid ty : Nat) (sw : Option Nat) (delta : Bool) (body : List Byte) : State :=
  match s.group? gid with
  | none => s
  | some g => s.tracePacketOf gid g ty sw delta body

end Sys2Proof.Machine
end

