-- ==== Sys2Proof/Machine/Splits.lean ====
section
/-! DEFINITION. Splits.lean: dividing, joining, merging and ending splits and parked lane sets (R8 to R12, R193 to R195). -/

namespace Sys2Proof.Machine

/-- The lanes of a split that lie in a mask, at an address, keeping their last safe points (R8, R293). -/
def Split.restrict (p : Split) (mask : W32) (pc : W64) : Split :=
  { p with mask := p.mask &&& mask, pc := pc
           pieces := (p.pieces.map fun x => { x with mask := x.mask &&& mask }).filter fun x => !decide (x.mask = 0#32)
           spQ := (p.spQ.map fun x => { x with mask := x.mask &&& mask }).filter fun x => !decide (x.mask = 0#32) }

/-- The lowest free split index, 0 to 3 (R8). -/
def Group.freeIndex (g : Group) : Option Nat := [0, 1, 2, 3].find? fun i => (g.split? i).isNone

/-- Whether a split or parked set has executed a JOIN and is held there. -/
def Split.atJoin (p : Split) : Bool := p.park == some .join

/-- Whether an address is that of a JOIN at which a split or a parked set is held (R11). -/
def Group.joinHeld (g : Group) (pc : W64) : Bool :=
  (g.splits.any fun (_, p) => p.atJoin && p.pc == pc) || g.sets.any fun p => p.atJoin && p.pc == pc

/-- The oldest parked set takes a free index (R9), and is ready 4 ac from now.
[DEDUCED, log entry 26] -/
def State.promote (s : State) (gid : Nat) : State :=
  match s.group? gid with
  | none => s
  | some g =>
    match g.freeIndex, g.sets with
    | some i, p :: rest =>
      let heldJoin := g.joinHeld p.pc
      let p' := { p with run := 0, ready := false, readyAt := s.ac + 4, passed := 0,
                         pieces := p.pieces.map fun x => { x with wasSet := false },
                         park := if heldJoin then some .join else none }
      let s := s.putGroup gid { g.putSplit i p' with sets := rest }
      if heldJoin then s else s.at (s.ac + 4) (.runEndMerge gid i)
    | _, _ => s

/-- Parked sets take every free index (R9). -/
def State.promoteAll (s : State) (gid : Nat) : Nat → State
  | 0 => s
  | n + 1 => (s.promote gid).promoteAll gid n

/-- While a parked set waits at no held JOIN, held splits give up their indices to the oldest parked sets (R11). -/
def State.rotateJoin (s : State) (gid : Nat) : Nat → State
  | 0 => s
  | n + 1 =>
    match s.group? gid with
    | none => s
    | some g =>
      if g.sets.all fun p => g.joinHeld p.pc then s
      else
        match g.splits.find? fun (_, p) => p.atJoin with
        | none => s
        | some (i, p) =>
          ((s.putGroup gid { g with splits := Tbl.del g.splits i, sets := g.sets ++ [p] }).promote gid).rotateJoin gid n

/-- A split or parked set released from a JOIN (R11, R195): it continues after it, 4 ac from now. -/
def Split.release (p : Split) (ac : Nat) : Split := { p with pc := p.pc + 4#64, park := none, readyAt := ac + 4 }

/-- Merge the lanes of split or set `b` into `a` (R10): they keep their own last safe points (R293).
[DEDUCED, log entry 28] -/
def Split.absorb (a b : Split) (set : Bool) : Split :=
  { a with mask := a.mask ||| b.mask
           readyAt := max a.readyAt b.readyAt
           pieces := a.pieces ++ b.pieces.map fun x => { x with wasSet := x.wasSet || set }
           spQ := a.spQ ++ b.spQ }

/-- Whether two splits merge (R10): next address and MODE agree. -/
def Split.agrees (a b : Split) : Bool := a.pc == b.pc && modeLast a.modeQ a.mode == modeLast b.modeQ b.mode

/-- A group after split `i` has merged into split `low`. -/
def Group.takeSplit (g : Group) (low i : Nat) : Group :=
  match g.split? low, g.split? i with
  | some a, some b => { g with
      splits := Tbl.put (Tbl.del g.splits i) low (a.absorb b false)
      flights := g.flights.map fun f => if f.sp = i then { f with sp := low } else f }
  | _, _ => g

/-- A group after the oldest parked set of a kind has merged into split `low`. -/
def Group.takeSet (g : Group) (low : Nat) (p : Split → Bool) : Group :=
  match g.split? low, g.sets.find? p with
  | some a, some b => { g.putSplit low (a.absorb b true) with sets := g.sets.eraseP p }
  | _, _ => g

/-- One merge into split `low`, traced as MERGE (R429): `snap` is the group before the instruction that causes it, `code` its byte. -/
def State.mergeOne (s : State) (gid low code : Nat) (snap : Group) (f : Group → Group) : State :=
  match s.group? gid with
  | none => s
  | some g =>
    let mask := (((f g).split? low).map Split.mask).getD 0#32
    ((s.tracePacketOf gid snap 5 none true (BitVec.ofNat 8 code :: leBytes 4 mask.toNat)).putGroup gid (f g)).syncDue gid

/-- Splits, and the parked sets of a kind, merged into split `low` one by one. -/
def State.mergeAll (s : State) (gid low : Nat) (snap : Group) (others : List Nat) (p : Split → Bool) : State :=
  let n := ((s.group? gid).map fun g => g.sets.countP p).getD 0
  (List.range n).foldl (fun s _ => s.mergeOne gid low (low + 16) snap fun g => g.takeSet low p)
    (others.foldl (fun s i => s.mergeOne gid low (low + 4 * i) snap fun g => g.takeSplit low i) s)

/-- The splits that a JOIN releases merge at once, the lowest index of those that agree staying (R10, R11, R442). -/
def State.mergeJoin (s : State) (gid : Nat) (snap : Group) (pc : W64) : List Nat → State
  | [] => s
  | i :: r =>
    match (s.group? gid).bind fun g => (g.split? i).map fun a => (g, a) with
    | none => s.mergeJoin gid snap pc r
    | some (g, a) =>
      let with_ (b : Split) : Bool := b.agrees a && !b.held
      if a.held then s.mergeJoin gid snap pc r
      else (s.mergeAll gid i snap (r.filter fun j => (g.split? j).any with_) with_).mergeJoin gid snap pc r

/-- The JOIN test (R11): every live lane is held, a parked set where its next address is a held JOIN; those held at the lowest
address are released, ready 4 ac from now (R195), and merge. -/
def State.joinTest (s : State) (gid : Nat) (snap : Group) : State :=
  match s.group? gid with
  | none => s
  | some g =>
    match minOf (((g.splits.map Prod.snd ++ g.sets).filter Split.atJoin).map fun p => p.pc.toNat) with
    | none => s
    | some low =>
      if g.splits.all (fun x => x.2.atJoin) && g.sets.all (fun p => g.joinHeld p.pc) then
        let lowPc := BitVec.ofNat 64 low
        let out := (g.splits.filter fun (_, p) => p.pc == lowPc).map Prod.fst
        let g' := { g with
          splits := g.splits.map fun (i, p) => if p.pc = lowPc then (i, p.release s.ac) else (i, p)
          sets := g.sets.map fun p => if p.pc = lowPc then p.release s.ac else p }
        let s := out.foldl (fun s i => s.at (s.ac + 4) (.runEndMerge gid i)) (s.putGroup gid g')
        (s.mergeJoin gid snap lowPc out).promoteAll gid 4
      else s

/-- Held splits make room, the JOINs are tested, and held splits make room for the sets that are released (R11). -/
def State.joinStep (s : State) (gid : Nat) (snap : Group) : State :=
  ((s.rotateJoin gid 64).joinTest gid snap).rotateJoin gid 64

/-- What an EXIT of lanes leaves of a flight (R194): a vector result stays for the lanes that live, a uniform result until no
lane that issued it is left; stores, atomics, copies, spawns and deposits are performed. `none` removes the flight. -/
def Flight.afterExit (f : Flight) (mask : W32) : Option Flight :=
  if f.done then some f
  else
    let left := f.lanes &&& ~~~mask
    let gone := left == 0#32
    let f' := { f with
      lanes := left
      dv := if gone then [] else f.dv
      dg := if gone then [] else f.dg
      dq := if gone then [] else f.dq
      w := { f.w with v := f.w.v.filter (fun x => !hasLane mask (x.1 % 32))
                      g := if gone then [] else f.w.g
                      q := if gone then [] else f.w.q } }
    match f.kind with
    | .alu => if gone && f.path.isNone then none else some f'
    | .load _ =>
      if gone then none else some { f' with acc := f.acc.filter fun a => f.dv.isEmpty || !hasLane mask a.lane }
    | _ => some f'

/-- A group that has no live lane, and no SPAWN outstanding (R12), exits. -/
def State.tryExit (s : State) (gid : Nat) : State :=
  match s.group? gid with
  | none => s
  | some g => if g.live = 0#32 ∧ g.exited = false ∧ g.pathCount 7 = 0 then s.soon (.groupExit gid) else s

/-- Splits parked on a W marker whose group has no result left to write become ready (R148, R26); those parked on WAITC whose
path has fallen to their bound too (R80). -/
def State.recheck (s : State) (gid : Nat) : State :=
  match s.group? gid with
  | none => s
  | some g =>
    g.splits.foldl (fun s (i, p) =>
      match p.park with
      | some .wmark => if g.pendingAny then s else s.wake gid i
      | some (.waitc path bound m len) => if g.pathCount path ≤ bound then s.resumeAfter gid i m len else s
      | some (.ntdrain ids m) =>
        if g.flights.any (fun f => ids.contains f.id && !f.done) then s else s.resumeAfter gid i m 1
      | _ => s) s

/-- A path's counter falls past every operation that has reached its event, oldest first (R79). -/
def dropDone (paths : List Nat) : List Flight → List Flight
  | [] => []
  | f :: r =>
    match f.path with
    | some k => if f.done && !paths.contains k then dropDone paths r
        else f :: dropDone (if f.done then paths else k :: paths) r
    | none => if f.done then dropDone paths r else f :: dropDone paths r

/-- Remove the finished flights of a group and wake what waited for them: its exit and its task's completion too (R58). -/
def State.settle (s : State) (gid : Nat) : State :=
  let s := ((s.modGroup gid fun g => { g with flights := dropDone [] g.flights }).recheck gid).tryExit gid
  match s.group? gid with
  | some g => if g.exited then s.soon (.taskComplete g.place.task) else s
  | none => s

/-- End the lanes of a split (R12, R194): its index frees, its pending results are discarded, a JOIN test may be satisfied,
the oldest parked set takes the index. -/
def State.endSplit (s : State) (gid sp : Nat) : State :=
  match s.group? gid with
  | none => s
  | some g =>
    match g.split? sp with
    | none => s
    | some p =>
      let g' := { g with splits := Tbl.del g.splits sp, flights := g.flights.filterMap fun f => f.afterExit p.mask }
      (((s.putGroup gid g').promote gid).joinStep gid g').settle gid

/-- A split that is ready merges with every ready split and parked set that agrees with it (R10); the lowest index stays, and
the merged split has been passed over by no run. Each merge is traced (R429).
[DESIGN CHOICE, log entry 108] -/
def State.mergeReady (s : State) (gid sp : Nat) : State :=
  match (s.group? gid).bind fun g => (g.split? sp).map fun p => (g, p) with
  | none => s
  | some (g, p) =>
    let withMe := (g.splits.filter fun (i, q) => i != sp && q.ready && !q.held && q.agrees p).map Prod.fst
    if withMe = [] ∧ g.sets.all (fun q => !q.agrees p) = true then s
    else
      let low := withMe.foldl min sp
      let s := s.mergeAll gid low g ((sp :: withMe).filter fun i => i != low) fun q => q.agrees p
      (s.modSplit gid low fun x => { x with readySince := max p.readySince x.readyAt, passed := 0, yielded := p.yielded }).promoteAll
        gid 4

/-- A split whose wait is over, or whose run has ended: it parks on an unfinished W marker, or becomes ready and merges
(R10, R25, R148). A held split, or one that is parked or not yet due, waits. -/
def State.runEnd (s : State) (gid sp : Nat) : State :=
  match s.group? gid with
  | none => s
  | some g =>
    match g.split? sp with
    | none => s
    | some p =>
      if p.ready || p.park.isSome || decide (s.ac < p.readyAt) then s
      else if p.wpend && g.pendingAny then s.modSplit gid sp fun p => { p with park := some .wmark }
      else
        let s := s.putGroup gid (g.putSplit sp { p with
          wpend := false, ready := !p.held, run := 0, readySince := s.ac,
          mode := modeLast p.modeQ p.mode, modeQ := [] })
        if p.held then s else s.mergeReady gid sp

/-- RUN_END_MERGE: a split that ends a run becomes ready and merges (R10, R25). -/
def execRunEndMerge (gid sp : Nat) (s : State) : Out := .next (s.runEnd gid sp)

/-- The next addresses of a BRV divide the split (R8, R193): the lanes at the lower address stay, the others form a new split
with the lowest free index or a parked set. Each passes the safe point its address is (R293). -/
def State.divide (s : State) (gid sp : Nat) (taken : W32) (target fall : W64) (m : Marks) : State :=
  match s.group? gid with
  | none => s
  | some g =>
    match g.split? sp with
    | none => s
    | some p =>
      let p := { p with mode := modeLast p.modeQ p.mode, modeQ := [] }
      let t := taken &&& p.mask
      let f := p.mask &&& ~~~taken
      let point (s : State) (i : Nat) (pc : W64) (branch : Bool) : State :=
        match if branch || m.s then s.ordinalOf g pc else none with
        | some k => if g.stepOn || g.stepHeld then (s.modSplit gid i fun x => { x with held := true }).passPoint gid i k 0
            else s.passPoint gid i k 0
        | none => s
      if t = 0#32 ∨ f = 0#32 ∨ target = fall then
        let pc := if t = 0#32 then fall else target
        point (s.putGroup gid (g.putSplit sp { p with pc := pc })) sp pc (!decide (t = 0#32))
      else
        let lowTaken := decide (target.toNat < fall.toNat)
        let (stay, stayPc, go, goPc) := if lowTaken then (t, target, f, fall) else (f, fall, t, target)
        let mine := p.restrict stay stayPc
        let other := p.restrict go goPc
        match g.freeIndex with
        | some i =>
          let s := (s.putGroup gid ((g.putSplit sp mine).putSplit i other)).at (s.ac + 4) (.runEndMerge gid i)
          point (point s sp stayPc lowTaken) i goPc (!lowTaken)
        | none =>
          let ord := if !lowTaken || m.s then s.ordinalOf g goPc else none
          let set := { other with readyAt := s.ac + 4, held := other.held || ((g.stepOn || g.stepHeld) && ord.isSome) }
          let s := s.putGroup gid { g.putSplit sp mine with sets := g.sets ++ [set] }
          let s := match ord with
            | some k => s.passNewSet gid k
            | none => s
          (point s sp stayPc lowTaken).rotateJoin gid 64

end Sys2Proof.Machine
end

