-- ==== Sys2Proof/Machine/Access.lean ====
section
/-! DEFINITION. Access.lean: memory accesses as they are performed: dirty marks (R380), poison (R415 to R417), waking
counter waits (R78), local store, and the order of a group's accesses (R53, R56, R241, R234). -/

namespace Sys2Proof.Machine

/-! ### Writes -/

/-- The bytes of one half of a dirty log (R380). -/
def Vf.halfSize (f : Vf) : Nat := alignUp 4096 (4096 + 128 * f.qcount)

/-- Set a bit of a dirty log, where the log lies in HOST pages. -/
def State.setBit (s : State) (a bit : Nat) : State :=
  let x := (s.byte (a + bit / 8)).toNat
  if bitOf x (bit % 8) || (s.potOf ((a + bit / 8) / 4096)).judged != potHost then s else s.poke (a + bit / 8) [BitVec.ofNat 8 (x + 2 ^ (bit % 8))]

/-- The ring page of a queue that a physical page is, if it is one (R380, R333). -/
def State.ringPage (s : State) (q : Queue) (page : Nat) : Option Nat :=
  let e := s.potOf page
  let first := vpnOf q.ring
  let n := ceilDiv (64 * 2 ^ q.log2) 4096
  if q.eid ≠ 0 ∧ e.judged = potOwned ∧ e.owner = q.eid ∧ first ≤ e.link ∧ e.link < first + n then some (e.link - first)
  else none

/-- The dirty marks of a write to a page, made before it (R380). -/
def State.dirtyRing (s : State) (page : Nat) : State :=
  s.hub.vfs.foldl (fun s (_, f) =>
    if !(f.enable && f.dirty) then s
    else
      s.hub.queues.foldl (fun s (q, x) =>
        if decide (f.qbase ≤ q) && decide (q < f.qbase + f.qcount) then
          match s.ringPage x page with
          | some p => s.setBit (f.dlog + f.half * f.halfSize + 0x1000 + 128 * (q - f.qbase)) p
          | none => s
        else s) s) s

/-- The dirty mark of a front-end add for a queue of a virtual function, to a counter at a virtual address (R380). -/
def State.dirtyCounter (s : State) (q va : Nat) : State :=
  match s.vfOfQueue q with
  | none => s
  | some (_, f) =>
    let base := f.dlog + f.half * f.halfSize
    let n := s.peek base 4
    if !f.dirty || (s.potOf (base / 4096)).judged != potHost then s
    else if n < 511 then (s.pokeNat (base + 8 + 8 * n) 8 (vpnOf va)).pokeNat base 4 (n + 1)
    else s.setBit (base + 4) 0

/-- The pages that `n` bytes touch. -/
def pagesOf (a n : Nat) : List Nat := (List.range ((a + n - 1) / 4096 - a / 4096 + 1)).map fun i => a / 4096 + i

/-- The lines that `n` bytes touch. -/
def linesOf (a n : Nat) : List Nat := (List.range ((a + n - 1) / 64 - a / 64 + 1)).map fun i => a / 64 + i

/-- A write of a whole line clears its poison (R416), and gives it a new tag (R321): an error that it held is gone. -/
def State.clearPoison (s : State) (a n : Nat) : State :=
  let left (line : Nat) : Bool := !(decide (a ≤ 64 * line) && decide (64 * line + 64 ≤ a + n))
  if s.store.poison = [] ∧ s.store.latent = [] then s
  else
    s.modStore fun x => { x with
      poison := x.poison.filter fun p => left p.1
      latent := x.latent.filter fun p => left p.1 }

/-- The waits on counters that a write of bytes may satisfy end when they do (R78, R341): splits, threads and packets. A packet
that has been satisfied waits for 0, which every later value meets. -/
def State.wakeCounters (s : State) (a n : Nat) : State :=
  let hit (c t : Nat) : Bool := decide (a < c + 8) && decide (c < a + n) && decide (t ≤ s.peek c 8)
  let splits := s.simt.groups.flatMap fun (gid, g) => g.splits.filterMap fun (sp, p) =>
    match p.park with
    | some (.ctr c _ t _ m len) => if hit c t then some (gid, sp, Park.woken m len) else none
    | _ => none
  let threads := s.hub.threads.filterMap fun (t, x) =>
    match x.wait with
    | some (c, tg, nx) => if hit c tg then some (t, nx) else none
    | none => none
  let queues := s.hub.queues.filterMap fun (q, x) =>
    match x.pkt.bind Packet.wait with
    | some (c, tg) => if hit c tg then some (q, c) else none
    | none => none
  let s := splits.foldl (fun s (gid, sp, k) =>
    (s.modSplit gid sp fun p => { p with park := some k }).laterWithin 200 (.ctrwaitWake gid sp)) s
  let s := threads.foldl (fun s (t, nx) => s.modThread t fun x => { x with wait := none, pc := nx }) s
  queues.foldl (fun s (q, c) =>
    (s.modQueue q fun x => { x with pkt := x.pkt.map fun k => { k with wait := some (c, 0) } }).laterWithin 200
      (.queueWaitWake q)) s

/-- The entry of a page whose every line has been scrubbed: its next state (R315). -/
def Pot.scrubbed (e : Pot) : Pot :=
  if e.next = potOwned ∨ e.next = potShared then { e with state := e.next, next := 0, lines := 0 }
  else { Pot.plain e.next with version := e.version }

/-- A line of a page in SCRUB is scrubbed when it is first read or written (R316); the last one ends the page's SCRUB (R315).
[DEDUCED, log entry 53] -/
def State.scrubLine (s : State) (line : Nat) : State :=
  match Tbl.get? s.store.pot (line / 64) with
  | some e =>
    if e.state = potScrub ∧ bitOf e.lines (line % 64) = false then
      let e := { e with lines := e.lines + 2 ^ (line % 64) }
      s.putPot (line / 64) (if e.lines = 2 ^ 64 - 1 then e.scrubbed else e)
    else s
  | none => s

/-- The lines that an access touches scrubbed. -/
def State.scrubLines (s : State) (a n : Nat) : State :=
  if s.store.pot.any fun p => p.2.state == potScrub then (linesOf a n).foldl State.scrubLine s else s

/-- A write to memory as it is performed. -/
def State.write (s : State) (a : Nat) (bs : List Byte) : State :=
  if bs = [] then s
  else ((((pagesOf a bs.length).foldl State.dirtyRing (s.scrubLines a bs.length)).poke a bs).clearPoison a bs.length).wakeCounters a bs.length

/-- A number written as `n` bytes. -/
def State.writeNat (s : State) (a n x : Nat) : State := s.write a (leBytes n x)

/-! ### Synchronisation engines (R44) -/

/-- Lines that one engine's 16 MiB hold. -/
def engineLines : Nat := 262144

/-- Whether a split, a thread or a queue waits at a counter in a line (R78, R341): such a line is not idle. -/
def State.awaitedLine (s : State) (line : Nat) : Bool :=
  (s.simt.groups.any fun g => g.2.splits.any fun p => match p.2.park with
    | some (.ctr pa _ _ _ _ _) => pa / 64 == line
    | _ => false)
  || (s.hub.threads.any fun t => t.2.wait.any fun w => w.1 / 64 == line)
  || s.hub.queues.any fun q => (q.2.pkt.bind Packet.wait).any fun w => w.1 / 64 == line

/-- A line returned to its home slice. -/
def State.fromEngine (s : State) (line : Nat) : State :=
  s.modStore fun x => { x with syncLines := Tbl.del x.syncLines line, syncOver := x.syncOver.erase line }

/-- Room for a new line of a die (R44): the oldest idle line goes home where its engine is full; `none` where no line is idle. -/
def State.engineRoom (s : State) (die : Nat) : Option State :=
  let mine := s.store.syncLines.filter fun l => !s.store.syncOver.contains l.1 && s.homeDie (64 * l.1) == die
  if mine.length < engineLines then some s
  else
    ((mine.filter fun l => !s.awaitedLine l.1).foldl (fun b l => match b with
      | none => some l
      | some o => if l.2 < o.2 then some l else some o) none).map fun l => s.fromEngine l.1

/-- An atomic moves its line into the synchronisation engine of its home die, or into the engine's overflow area (R44). -/
def State.toEngine (s : State) (a : Nat) : State :=
  let line := a / 64
  let s :=
    if (Tbl.get? s.store.syncLines line).isSome || decide (s.store.syncLines.length < engineLines) then s
    else (s.engineRoom (s.homeDie a)).getD (s.modStore fun x => { x with syncOver := line :: x.syncOver })
  (s.modStore fun x => { x with syncLines := Tbl.put x.syncLines line s.ac }).at (s.ac + 4096) (.syncEngineLineReturn line)

/-- A hardware add to a counter (R89, R338): modulo 2^64, at the engine of its line. -/
def State.addCounter (s : State) (a k : Nat) : State :=
  let s := s.toEngine a
  s.writeNat a 8 ((s.peek a 8 + k) % 2 ^ 64)

/-- An add that the front end makes for a queue (R342, R380). -/
def State.frontEndAdd (s : State) (q va pa k : Nat) : State :=
  ((s.dirtyCounter q va).rowTouch pa (((s.vfOfQueue q).map Prod.fst).getD 256)).addCounter pa k

/-! ### Reads that meet an error -/

/-- The errors that a read of `n` bytes meets.
[DESIGN CHOICE, log entry 81] -/
def State.meet (s : State) (eid core a n : Nat) : State :=
  let s := s.scrubLines a n
  if s.store.latent = [] then s else (linesOf a n).foldl (fun s l => s.meetLine eid core l) s

/-- Whether a read of `n` bytes fails its integrity tag (R321). -/
def State.integ (s : State) (a n : Nat) : Bool :=
  if s.store.latent = [] then false else (linesOf a n).any fun l => Tbl.fget 0 s.store.latent l == 3

/-- The first poisoned byte among `n`, as an offset (R417).
[DEDUCED, log entry 103] -/
def State.poisonedAt (s : State) (a n : Nat) : Option Nat :=
  if s.store.poison = [] then none
  else ((linesOf a n).find? fun l => (Tbl.get? s.store.poison l).isSome).map fun l => 64 * l - a

/-- Why a hardware read of `n` bytes for an instruction traps (R321, R415 to R417): a failed tag, or an uncorrectable error.
[DEDUCED, log entry 54] -/
def State.readBad (s : State) (a n : Nat) : Option Nat :=
  let hard := if s.store.latent = [] then false else (linesOf a n).any fun l => latentHard (Tbl.fget 0 s.store.latent l)
  if s.integ a n then some 0x15 else if hard || (s.poisonedAt a n).isSome then some 0x12 else none

/-! ### Local store -/

/-- A number at an offset of a team's local store. -/
def State.localPeek (s : State) (team off : Nat) : Nat → Nat
  | 0 => 0
  | n + 1 => (Tbl.fget 0#8 (Tbl.getD s.simt.locals team []) off).toNat + 256 * s.localPeek team (off + 1) n

/-- Bytes written into a local store. -/
def localPut (t : Table Byte) (off : Nat) : List Byte → Table Byte
  | [] => t
  | b :: r => localPut (Tbl.fset 0#8 t off b) (off + 1) r

/-- Bytes written into a team's local store; a whole 8 B word written is no longer poisoned. -/
def State.localWrite (s : State) (team off : Nat) (bs : List Byte) : State :=
  s.modSimt fun x => { x with
    locals := Tbl.put x.locals team (localPut (Tbl.getD x.locals team []) off bs)
    localPoison := match Tbl.get? x.localPoison team with
      | none => x.localPoison
      | some ws => Tbl.put x.localPoison team
          (ws.filter fun w => !(decide (off ≤ 8 * w) && decide (8 * w + 8 ≤ off + bs.length)))
    localErrs := match Tbl.get? x.localErrs team with
      | none => x.localErrs
      | some es => Tbl.put x.localErrs team
          (es.filter fun e => !(decide (off ≤ 8 * e.1) && decide (8 * e.1 + 8 ≤ off + bs.length))) }

/-- Whether a poisoned word lies among `n` local bytes (R417).
[DEDUCED, log entry 103] -/
def State.localPoisoned (s : State) (team off n : Nat) : Bool :=
  match Tbl.get? s.simt.localPoison team with
  | none => false
  | some ws => ws.any fun w => decide (8 * w < off + n) && decide (off < 8 * w + 8)

/-! ### Accesses -/

/-- Bytes of an access size code, and whether it sign-extends (R228). -/
def sizeBytes (code : Nat) : Nat := if code < 2 then 1 else if code < 4 then 2 else if code < 6 then 4 else 8
def sizeSigned (code : Nat) : Bool := code == 1 || code == 3 || code == 5

/-- A value loaded, extended to 64 bits (R229). -/
def extend (code x : Nat) : W64 :=
  if sizeSigned code then sext64 (8 * sizeBytes code) x else zext64 (8 * sizeBytes code) x

/-- An access as a translation. -/
def Acc.xlat (a : Acc) : Xlat := ⟨a.pa, false, a.tol, none⟩

/-- Physical bytes of an access: half in tolerant memory (R41). -/
def Acc.span (a : Acc) : Nat := if a.tol = 0 then a.n else a.n / 2

/-- What an access reads now.
[DESIGN CHOICE, log entry 12] -/
def State.readAcc (s : State) (a : Acc) : Nat :=
  match a.team with
  | some t => s.localPeek t a.pa a.n
  | none => if inKick a.pa then s.kickRead a.pa a.n else s.readAt a.xlat a.n

/-- The poison an access meets, as a register's mark: 0 for REG, 1 + virtual address for MEM. -/
def State.accPoison (s : State) (a : Acc) : Option Nat :=
  match a.team with
  | some t => if s.localPoisoned t a.pa a.n then some 0 else none
  | none => (s.poisonedAt a.pa a.span).map fun o => 1 + a.va + (if a.tol = 0 then o else 2 * o)

/-- An access written: local store, a device register, or memory.
[DESIGN CHOICE, log entry 12] -/
def State.writeAcc (s : State) (a : Acc) : State :=
  match a.team with
  | some t => s.localWrite t a.pa (leBytes a.n a.data)
  | none =>
    if inKick a.pa then s.soon (.deviceWrite a.pa a.n a.data)
    else
      let (pa, bs) := storeBytes a.tol a.pa a.n a.data
      s.write pa bs

/-- Accesses written together: a line that they cover between them is no longer poisoned (R416). -/
def State.writeAccs (s : State) (accs : List Acc) : State :=
  let s := accs.foldl State.writeAcc s
  if s.store.poison = [] ∧ s.store.latent = [] then s
  else
    let ours := accs.filter fun a => a.team.isNone && !inKick a.pa
    let whole (line : Nat) : Bool := (List.range 64).all fun i =>
      ours.any fun a => decide (a.pa ≤ 64 * line + i) && decide (64 * line + i < a.pa + a.span)
    ((ours.flatMap fun a => linesOf a.pa a.span).dedup.filter whole).foldl (fun s l => s.clearPoison (64 * l) 64) s

/-- Whether an access is the second piece of an element whose first piece is the other (R34). -/
def Acc.continues (b a : Acc) : Bool := a.team.isNone && b.team.isNone && b.lane == a.lane && b.va == (a.va + a.n) % 2 ^ 64

/-- The accesses that are performed together, and those from the first second piece on, which is performed by itself (R34). -/
def splitPieces : List Acc → List Acc × List Acc
  | a :: b :: r =>
    if b.continues a then ([a], b :: r) else (a :: (splitPieces (b :: r)).1, (splitPieces (b :: r)).2)
  | x => (x, [])

/-- A read that has been performed: it keeps its value, marked by `cmp`, which a read does not use otherwise. -/
def State.sampled (s : State) (a : Acc) : Acc := { a with data := s.readAcc a, cmp := 1 }

/-! ### The order of a group's accesses -/

/-- Whether two accesses share a byte.
[DEDUCED, log entry 15] -/
def Acc.meets (a b : Acc) : Bool :=
  a.team == b.team && decide (a.pa < b.pa + b.span) && decide (b.pa < a.pa + a.span)

/-- Whether a flight is a memory access. -/
def Flight.isMem (f : Flight) : Bool :=
  match f.kind with
  | .load _ => true
  | .store => true
  | .atom _ _ _ => true
  | _ => false

/-- Whether a flight accesses local store. -/
def Flight.isLocal (f : Flight) : Bool := f.acc.any fun a => a.team.isSome

/-- Whether a flight is a fence. -/
def Flight.isFence (f : Flight) : Bool := f.kind == .fence

/-- Whether a flight is an access, or a synchronising operation, that an earlier acquire holds (R56): a memory access, a fence,
an arrival, a copy, a tuple request or a SPAWN. -/
def Flight.isOrdered (f : Flight) : Bool := f.isMem || f.isFence || f.rel || f.acq || f.path.isSome

/-- Whether a flight is an access of its group that others may have to follow (R53, R56, R58): a memory access, a fence, an
acquire, or a deposit. -/
def Flight.isAccess (f : Flight) : Bool := f.isMem || f.isFence || f.acq || (f.rel && f.path == some 6)

/-- Whether a release awaits a flight (R56): a memory access other than STNT (R68), or a deposit.
[DESIGN CHOICE, log entry 125] -/
def Flight.isCovered (f : Flight) : Bool := (f.isMem && !f.nt) || (f.rel && f.path == some 6)

/-- Whether flight `f`, issued after `e`, waits until `e` is done: an acquire holds what follows (a tuple request that of its
own lanes), a fence holds what follows, a release or a fence waits for what precedes, local accesses go in issue order, and
accesses that share a byte keep their order (R53, R56, R234, R241).
[DESIGN CHOICE, log entry 13; DESIGN CHOICE, log entry 14] -/
def Flight.waitsFor (f e : Flight) : Bool :=
  !e.done &&
    ((e.acq && f.isOrdered && (e.path != some 6 || e.lanes &&& f.lanes != 0#32))
      || (e.isFence && (f.isMem || f.isFence || f.rel))
      || ((f.rel || f.isFence) && e.isCovered) || (f.isLocal && e.isLocal)
      || (f.isMem && e.isMem && f.acc.any fun a => e.acc.any a.meets))

/-- Whether a flight is held: by an earlier one it waits for, or, where it is a global access, by a release write whose own
condition is not met (R241).
[DESIGN CHOICE, log entry 13] -/
def heldIn (f : Flight) : List Flight → List Flight → Bool
  | _, [] => false
  | before, e :: r =>
    if e.id = f.id then false
    else f.waitsFor e || (f.isMem && !f.isLocal && e.rel && e.isMem && !e.done && before.any e.waitsFor)
      || heldIn f (before ++ [e]) r

/-- Whether a flight of a group is held now. -/
def Group.heldFlight (g : Group) (f : Flight) : Bool := heldIn f [] g.flights

/-- A flight that is not done. -/
def Group.flight? (g : Group) (id : Nat) : Option Flight := g.flights.find? fun f => f.id == id && !f.done

/-- Change a flight. -/
def State.modFlight (s : State) (gid id : Nat) (f : Flight → Flight) : State :=
  s.modGroup gid fun g => { g with flights := g.flights.map fun x => if x.id = id then f x else x }

/-- A flight has reached its event: its pending bits clear, its path's counter may fall, and waits are looked at again. -/
def State.finishFlight (s : State) (gid id : Nat) : State := (s.modFlight gid id fun f => { f with done := true }).settle gid

/-- The function that a group's accesses are charged to (R381): 256 for the host class. -/
def State.vfOfGroup (s : State) (g : Group) : Nat := ((s.vfOfQueue g.place.ctx).map Prod.fst).getD 256

/-- Requests pass the gates of their rows one by one (R382): `true` when one is held; those before it, `passed`, have passed theirs
when they come again. -/
def State.gateAll (s : State) (vf : Nat) (ev : Event) (passed : List Nat) : List Acc → State × Bool
  | [] => (s, false)
  | a :: r =>
    if a.team.isSome || inKick a.pa then s.gateAll vf ev passed r
    else
      let (s', held) := s.rowGate a.pa vf ev
      if held then (passed.foldl (fun s pa => s.rowGranted ev pa) s', true) else s'.gateAll vf ev (a.pa :: passed) r

/-- The gates of the rows of an event's requests. -/
def State.rowsPass (s : State) (vf : Nat) (ev : Event) (accs : List Acc) : State × Bool := s.gateAll vf ev [] accs

end Sys2Proof.Machine
end

