-- ==== Sys2Proof/Machine/Hub.lean ====
section
/-! DEFINITION. Hub.lean: the hub register space (R4): which register an address names, who reaches it, and what it reads as; the
scan path (R437); and the POT aperture (R313, R393). -/

namespace Sys2Proof.Machine

/-- One entry of a group record: a split or a parked set (Table 6). -/
def entryBytes (kind index : Nat) (p : Split) : List Byte :=
  let x := p.pieces.head?.getD ⟨p.mask, 0, 0, false, p.mode⟩
  leBytes 4 x.ord ++ leBytes 4 p.mask.toNat ++ leBytes 4 p.mode.toNat ++ leBytes 1 x.off ++ leBytes 1 kind ++ leBytes 1 index
    ++ leBytes 1 0

/-- The group of a context that occupies a place (Tables 4 and 6 of ch27). -/
def State.groupAt (s : State) (q value : Nat) : Option (Nat × Group) :=
  s.simt.groups.find? fun g => g.2.place.ctx == q && g.2.place.core == fieldOf value 0 11
    && g.2.place.sched == fieldOf value 12 2 && g.2.place.slot == fieldOf value 16 4 && !g.2.exited
    && (s.teamOf g.2).map Team.state == some .resident

/-! ### The scan path (R437) -/

/-- A split or parked-set entry: slots 0 to 3 the splits, 4 to 35 the parked sets.
[DEDUCED, log entry 96] -/
def Group.scanEntry (g : Group) (i : Nat) : List Byte :=
  if i < 4 then ((g.split? i).map (entryBytes 0 i)).getD [] else ((g.sets[i - 4]?).map (entryBytes 1 (i - 4))).getD []

/-- The 64 bits that SCANSEL names of a group, or none for an index outside its space.
[DEDUCED, log entry 96] -/
def State.scanWord (s : State) (gid : Nat) (g : Group) (space i : Nat) : Option Nat :=
  match space with
  | 0 => if i < 32 * s.vregsOf g then some (g.regs.rdV (i / 32) (i % 32)).toNat else none
  | 1 => if i < 64 then some (g.regs.rdG i).toNat else none
  | 2 => if i < 8 then some (g.regs.rdP i).toNat else none
  | 3 => if i < 8 then some (b01 (rdQ g.regs.q i)) else none
  | 4 => if i < 36 then some (leNat ((g.scanEntry i).take 8)) else none
  | 5 =>
    if i = 0 then some g.regs.fstat.toNat
    else if i < 33 then some (Tbl.getD g.regs.sr (i - 1) 0#32).toNat
    else if i = 33 then some (leNat ((List.range 8).map fun k => BitVec.ofNat 8 (g.pathCount k)))
    else none
  | 6 =>
    match s.teamOf g with
    | some t => if 8 * i + 8 ≤ t.localLen then some (s.localPeek g.place.team (8 * i) 8) else none
    | none => none
  | _ => if i < 128 * s.accRows g then some (Tbl.fget 0#32 (Tbl.getD s.simt.accs gid []) i).toNat else none

/-- A read of SCANDATA (R437): the value, and RESULT. -/
def State.scanRead (s : State) (q : Nat) : Nat × Nat :=
  let sel := (s.traceQ q).scansel.toNat
  if !(s.ctx q).frozen then (0, 3)
  else if !bitOf (s.policyOf (s.ctx q).eid) 0 then (0, 2)
  else
    match s.groupAt q sel with
    | none => (0, 5)
    | some (gid, g) =>
      match s.scanWord gid g (fieldOf sel 20 3) (fieldOf sel 24 32) with
      | some x => (x, 0)
      | none => (0, 4)

/-! ### Addresses -/

/-- A register block of the hub space with its index, and the byte offset within the block. -/
inductive HubReg where
  | queue (q off : Nat)
  | sketches (p off : Nat)
  | context (q off : Nat)
  | tracing (q off : Nat)
  | faults (d off : Nat)
  | vf (v off : Nat)
  | vector (v off : Nat)
  | pending (t off : Nat)
  | partition (p off : Nat)
  | stack (t off : Nat)
  | die (d off : Nat)
  | errors (d off : Nat)
  | dump (off : Nat)
  | modul (off : Nat)
  | power (p off : Nat)
  | reserved
  deriving DecidableEq, Repr

/-- A block that holds an offset: blocks of `size` bytes from `base`, `n` of them. -/
def blockAt (o base size n : Nat) : Option (Nat × Nat) :=
  if base ≤ o ∧ o < base + size * n then some ((o - base) / size, (o - base) % size) else none

/-- The register of an address of the hub space. -/
def hubReg (a : Nat) : HubReg :=
  let o := a - hubBase
  match blockAt o 0 256 4096, blockAt o 0x100000 0x1000 8, blockAt o 0x400000 256 4096, blockAt o 0x500000 256 4096,
    blockAt o 0x600000 0x10000 8, blockAt o 0x800000 0x1000 256, blockAt o 0xA00000 16 4096, blockAt o 0xA10000 64 128 with
  | some (i, k), _, _, _, _, _, _, _ => .queue i k
  | _, some (i, k), _, _, _, _, _, _ => .sketches i k
  | _, _, some (i, k), _, _, _, _, _ => .context i k
  | _, _, _, some (i, k), _, _, _, _ => .tracing i k
  | _, _, _, _, some (i, k), _, _, _ => .faults i k
  | _, _, _, _, _, some (i, k), _, _ => .vf i k
  | _, _, _, _, _, _, some (i, k), _ => .vector i k
  | _, _, _, _, _, _, _, some (i, k) => .pending i k
  | _, _, _, _, _, _, _, _ =>
    match blockAt o 0xB00000 0x1000 8, blockAt o 0xC00000 0x1000 32, blockAt o 0xD00000 0x1000 8, blockAt o 0xE00000 0x10000 10,
      blockAt o 0xF00000 0x1000 1, blockAt o 0x1100000 0x1000 1, blockAt o 0x1200000 0x1000 8 with
    | some (i, k), _, _, _, _, _, _ => .partition i k
    | _, some (i, k), _, _, _, _, _ => .stack i k
    | _, _, some (i, k), _, _, _, _ => .die i k
    | _, _, _, some (i, k), _, _, _ => .errors i k
    | _, _, _, _, some (_, k), _, _ => .dump k
    | _, _, _, _, _, some (_, k), _ => .modul k
    | _, _, _, _, _, _, some (i, k) => .power i k
    | _, _, _, _, _, _, _ => .reserved

/-- Whether a thread of a partition at a level reaches a register: the blocks of queues, contexts, traces and fault buffers of
its own partition at kernel level (R329, R356, R360, R426), a stack of its own partition at hypervisor level (R399), and every
other block at hypervisor level (R346, R372, R374, R391, R397, R419, R422, R444, R446).
[DEDUCED, log entry 76] -/
def State.reaches (s : State) (part lvl : Nat) : HubReg → Bool
  | .queue q _ => decide (1 ≤ lvl) && s.partOfQueue q == part
  | .context q _ => decide (1 ≤ lvl) && s.partOfQueue q == part
  | .tracing q _ => decide (1 ≤ lvl) && s.partOfQueue q == part
  | .faults d _ => decide (1 ≤ lvl) && s.partOfDie d == part
  | .stack t _ => lvl == 2 && s.partOfDie (t / 4) == part
  | .reserved => false
  | _ => lvl == 2

/-! ### What each register reads as -/

/-- The bits of a flag that stand at a position. -/
def flagAt (b : Bool) (i : Nat) : Nat := if b then 2 ^ i else 0

/-- The budget of a queue's sketch (R346): that in its header. -/
def State.sketchBudget (s : State) (q : Nat) : Nat :=
  let x := s.queue q
  if x.eid = 0 then 0
  else if x.sketch = 1 then 32
  else
    match Tbl.get? s.hub.sketches (65536 * s.partOfQueue q + x.sketch) with
    | some k => ((k.words[3]?).getD 0#32).toNat % 65536
    | none => 0

/-- A queue's block (Tables 1 to 3 of ch19). -/
def State.queueWord (s : State) (q off : Nat) : Nat :=
  let x := s.queue q
  match off with
  | 0x00 => flagAt x.enable 0 + flagAt x.errirq 4 + 2 ^ 8 * x.prio
  | 0x08 => x.ring
  | 0x10 => x.log2
  | 0x18 => x.head
  | 0x20 => x.tail
  | 0x28 => x.state + 2 ^ 8 * x.fcode + flagAt x.kickerr 16 + flagAt x.irqdrop 17 + flagAt x.cfgerr 18 + 2 ^ 32 * x.fidx
  | 0x30 => if x.eid = 0 then 0 else x.eid + 2 ^ 16 * q
  | 0x38 => x.sketch + 2 ^ 16 * s.sketchBudget q
  | 0x40 => x.spq
  | 0x48 => x.vecBase + 2 ^ 12 * x.vecCount
  | 0x50 => x.pkts
  | 0x58 => x.drops
  | _ => 0

/-- A partition's sketch store block (Table 7 of ch19). -/
def State.sketchWord (s : State) (p off : Nat) : Nat :=
  let x := s.part p
  if off = 0 then x.skbuf
  else if off = 0x10 then x.skstat
  else if 0x20 ≤ off ∧ off < 0x40 then leNat ((x.skhash.drop (off - 0x20)).take 8)
  else 0

/-- A context's block (Tables 2 to 4 of ch20): zero where the queue is not bound. -/
def State.contextWord (s : State) (q off : Nat) : Nat :=
  let c := s.ctx q
  if c.eid = 0 then 0
  else
    match off with
    | 0x00 => (if c.frozen then 5 else c.state) + flagAt c.vacBusy 3 + flagAt c.swapfull 4 + 2 ^ 8 * c.cause
    | 0x08 => c.cxfault
    | 0x10 => c.cxswap
    | 0x18 => c.cxswapsz
    | 0x20 => b01 c.haltIrq
    | 0x30 => c.vacResult + 2 ^ 32 * c.claimed.length + flagAt c.vacBusy 63
    | _ => 0

/-- A trace and debug block (Tables 1 and 2 of ch27). -/
def State.traceWord (s : State) (q off : Nat) : Nat :=
  let x := s.traceQ q
  if (s.queue q).eid = 0 then 0
  else
    match off with
    | 0x00 => flagAt x.trace 0 + flagAt x.stall 1 + flagAt x.load 2 + flagAt x.holdteam 4 + 2 ^ 8 * x.slog2 + 2 ^ 16 * x.llog2
    | 0x08 => x.trbuf
    | 0x10 => x.trsize
    | 0x18 => x.smbuf
    | 0x20 => x.smsize
    | 0x28 => x.result + flagAt x.dropped 8
    | 0x38 => x.dbgres.toNat
    | 0x40 => x.scansel.toNat
    | 0x48 => (s.scanRead q).1
    | _ => 0

/-- A fault-buffer entry's words (Table 7 of ch02). -/
def FbEntry.word (e : FbEntry) (hi : Bool) : Nat :=
  if hi then e.eid + 2 ^ 16 * e.core + 2 ^ 32 * e.slot + 2 ^ 40 * 6 else e.va / 4096 * 4096 + e.kind

/-- A die's fault buffer (Table 8 of ch20). -/
def State.faultWord (s : State) (d off : Nat) : Nat :=
  let t := Tbl.getD s.simt.fb d []
  if off = 0 then t.length + flagAt (s.simt.fbOverflow.contains d) 16 + flagAt (s.simt.fbBad.contains d) 17
  else if 0x4000 ≤ off ∧ off < 0x8000 then
    ((Tbl.get? t ((off - 0x4000) / 16)).map fun e => e.word (off % 16 == 8)).getD 0
  else 0

/-- A virtual function's block (Tables 1 to 3 of ch21). -/
def State.vfWord (s : State) (v off : Nat) : Nat :=
  let f := s.vf v
  match off with
  | 0x00 => flagAt f.enable 0 + flagAt f.dirty 2 + 2 ^ 8 * f.part + 2 ^ 16 * f.target
  | 0x08 => f.state + flagAt f.cfgerr 8 + 2 ^ 9 * f.half + 2 ^ 16 * f.flrs
  | 0x10 => f.qbase + 2 ^ 16 * f.qcount
  | 0x18 => f.vbase + 2 ^ 16 * f.vcount
  | 0x20 => f.drop
  | 0x28 => f.weight
  | 0x30 => f.throt
  | 0x38 => f.dlog
  | 0x48 => f.qbuf
  | 0x50 => f.qres
  | _ => 0

/-- A vector's entry (Table 4 of ch21). -/
def State.vectorWord (s : State) (v off : Nat) : Nat :=
  let x := s.vec v
  if off = 0 then x.mode + flagAt x.mask 3 + 2 ^ 16 * x.dest + 2 ^ 32 * x.gvec else b01 x.pend

/-- A word of a thread's virtual pending bits.
[DEDUCED, log entry 75] -/
def State.pendingWord (s : State) (t off : Nat) : Nat :=
  if off < 32 then ((List.range 64).filter fun i => s.hub.vpend.any fun k => k.1 == 256 * t + 8 * off + i).foldl (fun x i => x + 2 ^ i) 0
  else 0

/-- Cores of a partition in service (R397, R421). -/
def State.coresInService (s : State) (p : Nat) : Nat :=
  ((s.dies.filter fun d => d.2.bound && d.2.part == p).map fun d => 176 - d.2.retired.length).sum

/-- A partition's block (Table 2 of ch24): zero where it does not exist.
[DEDUCED, log entry 91] -/
def State.partitionWord (s : State) (p off : Nat) : Nat :=
  let x := s.part p
  if x.dies = 0 then 0
  else
    match off with
    | 0x00 => flagAt x.resetting 1
    | 0x08 => x.state + flagAt x.cfgerr 2 + 2 ^ 8 * x.dies + 2 ^ 16 * x.ccg + 2 ^ 32 * s.coresInService p
    | 0x10 => b01 x.tolen + 2 ^ 8 * x.ptpool + 2 ^ 16 * x.tupsz + 2 ^ 24 * x.tupdies
    | 0x18 => x.hostw
    | 0x20 => x.hot
    | 0x28 => x.tthr
    | 0x30 => 16383 - (s.hub.enclaves.filter fun e => e.2.part == p).length
    | 0x38 => x.throt
    | _ => 0

/-- A stack's block (Table 3 of ch24). -/
def State.stackWord (s : State) (t off : Nat) : Nat :=
  let h := s.hbm t
  match off with
  | 0x00 => h.lendreq
  | 0x08 => h.lendstat
  | 0x10 => h.lenderr
  | 0x18 => b01 h.aar
  | 0x20 => h.refskip
  | 0x28 => s.stackTemp t
  | _ => 0

/-- A die's partition registers (Table 1 of ch24). -/
def State.dieWord (s : State) (d off : Nat) : Nat :=
  let x := s.die d
  let p := s.part x.part
  match off with
  | 0x00 => x.ilvbase
  | 0x08 => b01 x.valid + 2 ^ 24 * x.gran + 2 ^ 32 * x.wdies
  | 0x10 => if x.bound then x.part + 2 ^ 8 * p.dies + 2 ^ 16 * p.ccg + 2 ^ 24 else 0
  | _ => 0

/-- An error block (Table 2 of ch26). -/
def State.errorWord (s : State) (d off : Nat) : Nat :=
  let b := s.errBlock d
  if off = 0 then b.head + flagAt b.ovf 16
  else if off = 8 then flagAt b.ueirq 0 + flagAt b.ceirq 1 + 2 ^ 16 * b.vec
  else if off = 0x10 then b.tail
  else if 0x40 ≤ off ∧ off < 0x58 then
    if d < 8 then ((List.range 64).filter fun i => (s.die d).retired.contains (8 * (off - 0x40) + i)).foldl (fun x i => x + 2 ^ i) 0
    else 0
  else if 0x100 ≤ off ∧ off < 0x140 then Tbl.fget 0 b.cecnt ((off - 0x100) / 8)
  else if 0x200 ≤ off ∧ off < 0x240 then Tbl.fget 0 b.uecnt ((off - 0x200) / 8)
  else if 0x1000 ≤ off ∧ off < 0x3000 then
    leNat (((Tbl.getD b.entries ((off - 0x1000) / 32) []).drop (off % 32)).take 8)
  else 0

/-- The dump engine's block (Table 4 of ch26). -/
def State.dumpWord (s : State) (off : Nat) : Nat :=
  let d := s.hub.dump
  match off with
  | 0x08 => d.key
  | 0x10 => d.buf
  | 0x18 => d.size
  | 0x20 => d.result + flagAt d.busy.isSome 63
  | 0x28 => d.len
  | _ => 0

/-- A module's own values (R444): STEP and SERIAL, which the manual does not fix; SERIAL is never 0.
[DESIGN CHOICE, log entry 9] -/
def modStep : Nat := (Config.freeWord (2 ^ 64 * 0x400)).toNat % 256
def modSerial : Nat := 1 + (Config.freeWord (2 ^ 64 * 0x401)).toNat % (2 ^ 64 - 1)

/-- "NK8-1536-A", padded with zeros. -/
def partNo : List Byte :=
  [0x4E#8, 0x4B#8, 0x38#8, 0x2D#8, 0x31#8, 0x35#8, 0x33#8, 0x36#8, 0x2D#8, 0x41#8] ++ List.replicate 6 0#8

/-- The module block (Table 1 of ch30). -/
def State.moduleWord (s : State) (off : Nat) : Nat :=
  match off with
  | 0x00 => 0x4B4C + 2 ^ 16 * 8 + 2 ^ 32 * modStep
  | 0x08 => modSerial
  | 0x10 => leNat (partNo.take 8)
  | 0x18 => leNat (partNo.drop 8)
  | 0x20 => s.module.stage + 2 ^ 8 * s.module.code + flagAt s.module.prevtrip 16
  | 0x28 => s.modPower + 2 ^ 32 * s.inletTemp
  | 0x30 => s.module.limit
  | _ => 0

/-- A partition's power block (Table 3 of ch30): zero where the partition does not exist. -/
def State.powerWord (s : State) (p off : Nat) : Nat :=
  let x := s.part p
  if x.dies = 0 then 0
  else
    match off with
    | 0x00 => x.cap + 2 ^ 8 * x.eff + flagAt (decide (x.thermStep < 28)) 16 + flagAt (decide (x.limitStep < 28)) 17
    | 0x08 => flagAt x.gate 0 + flagAt x.gated 1 + flagAt x.gerr 2
    | 0x10 => s.partPower p
    | 0x18 => s.partTemp p
    | _ => 0

/-- The 64 bits of the register at an offset that is a multiple of 8. -/
def State.hubWord (s : State) : HubReg → Nat
  | .queue q o => s.queueWord q o
  | .sketches p o => s.sketchWord p o
  | .context q o => s.contextWord q o
  | .tracing q o => s.traceWord q o
  | .faults d o => s.faultWord d o
  | .vf v o => s.vfWord v o
  | .vector v o => s.vectorWord v o
  | .pending t o => s.pendingWord t o
  | .partition p o => s.partitionWord p o
  | .stack t o => s.stackWord t o
  | .die d o => s.dieWord d o
  | .errors d o => s.errorWord d o
  | .dump o => s.dumpWord o
  | .modul o => s.moduleWord o
  | .power p o => s.powerWord p o
  | .reserved => 0

/-! ### The POT aperture -/

/-- A page's 128-bit entry (Table 3 of ch18). -/
def Pot.bits (e : Pot) : Nat :=
  e.owner + 2 ^ 16 * e.state + 2 ^ 19 * (if e.state = potScrub then e.next else 0) + 2 ^ 22 * e.attr + 2 ^ 32 * e.version
    + 2 ^ 64 * (if e.state = potScrub then e.lines else e.link)

/-- `n` bytes of the aperture as a thread of a partition reads them (R393).
[DEDUCED, log entry 18] -/
def State.potRead (s : State) (part a n : Nat) : Nat :=
  let page := (a - potBase) / 16
  if s.hasPot part page then cutBytes (s.potOf page).bits (a % 16) n else 0

/-- What reads at an address find: the entries of its die's pages in the lower 720 MiB of a META region, in the order of the pages
(R393); memory elsewhere.
[DESIGN CHOICE, log entry 123] -/
def State.metaEntry (s : State) (a : Nat) : Option Nat :=
  match s.dieOffset a with
  | none => none
  | some (d, w) =>
    let m := s.metaStart d
    if m ≤ w ∧ w < m + 720 * 2 ^ 20 then some (s.potOf (s.physAt d ((w - m) / 16 * 4096) / 4096)).bits else none

/-! ### Device accesses -/

/-- A device read by a thread of a partition at a level, of `n` bytes. -/
def State.devRead (s : State) (part lvl a n : Nat) : Nat :=
  if inKick a then if s.partOfQueue ((a - kickBase) / 4096) = part then s.kickRead a n else 0
  else if inPot a then s.potRead part a n
  else
    let r := hubReg (a / 8 * 8)
    if s.reaches part lvl r then cutBytes (s.hubWord r) (a % 8) n else 0

/-- Whether a device write by a thread of a partition at a level reaches a register: nothing crosses from one partition to another
(R390). -/
def State.devMayWrite (s : State) (part lvl a : Nat) : Bool :=
  (inKick a && s.partOfQueue ((a - kickBase) / 4096) == part) || (inHub a && s.reaches part lvl (hubReg (a / 8 * 8)))

/-- What a device read changes: SCANDATA sets RESULT (R437). -/
def State.devReadDone (s : State) (part lvl a : Nat) : State :=
  if !inHub a then s
  else
    match hubReg (a / 8 * 8) with
    | .tracing q 0x48 =>
      if s.reaches part lvl (.tracing q 0x48) && (s.queue q).eid != 0 then
        s.putTraceQ q { s.traceQ q with result := (s.scanRead q).2 }
      else s
    | _ => s

end Sys2Proof.Machine
end

