-- ==== Sys2Proof/Machine/Memory.lean ====
section
/-! DEFINITION. Memory.lean: loads and stores, global (R227 to R233), local (R234), gathers and scatters (R235), fences
(R240) and WAITC (R245). -/

namespace Sys2Proof.Machine

/-! ### Address and data operands -/

/-- A vector address operand in a lane (R227). -/
def Rd.addr (r : Rd) (a : Opnd) (l : Nat) : W64 :=
  match a with
  | .v n => r.pair n l
  | .g n => r.g n
  | .lit32 x => x.signExtend 64
  | .lit64 x => x
  | _ => 0#64

/-- Whether a vector address operand is an OPND fault (R227). -/
def Rd.addrBad (r : Rd) : Opnd → Bool
  | .v n => r.vBad true n
  | .g _ => false
  | .lit32 _ => false
  | .lit64 _ => false
  | _ => true

/-- A uniform address operand, by the same rules (R227): MODE.ETY does not matter to it, so that the constant one is 1.
[DEDUCED, log entry 110] -/
def Rd.addrU (r : Rd) (a : Opnd) : W64 :=
  match a with
  | .one => 1#64
  | .lit32 x => x.signExtend 64
  | o => r.uni o

/-- Store data of a vector source at a width (R229). -/
def Rd.dataV (r : Rd) (wide : Bool) (o : Opnd) (l : Nat) : W64 :=
  match o with
  | .v n => if wide then r.pair n l else (r.v n l).setWidth 64
  | .g n => if wide then r.g n else ((r.g n).setWidth 32).setWidth 64
  | .lit32 x => if wide then x.signExtend 64 else x.setWidth 64
  | .lit64 x => if wide then x else (x.setWidth 32).setWidth 64
  | o => r.vec false o l

/-- Whether store data are an OPND fault: an odd pair, or beyond VREGS. -/
def Rd.dataBad (r : Rd) (wide : Bool) : Opnd → Bool
  | .v n => r.vBad wide n
  | _ => false

/-- Store data of a uniform source (R229). -/
def Rd.dataU (r : Rd) (wide : Bool) (o : Opnd) : W64 :=
  match o with
  | .lit32 x => if wide then x.signExtend 64 else x.setWidth 64
  | o => if wide then r.uni o else ((r.uni o).setWidth 32).setWidth 64

/-! ### Translating the accesses of an instruction -/

/-- The part of an access of `n` bytes that lies in the line of its first byte. -/
def firstPiece (va n : Nat) : Nat := min n (64 - va % 64)

/-- One piece of an access, translated (R37). -/
def State.pieceAt (s : State) (q l va n data cmp : Nat) (need : Need) (atomic : Bool) : Except (Nat × Nat) Acc :=
  match s.xlateCtx q va n need atomic false with
  | .error c => .error (c, va)
  | .ok x => .ok ⟨l, none, va, x.pa, n, x.tol, data, cmp⟩

/-- An access of a lane: in one line, or (a gather or scatter element that crosses) in two (R34, R45). `align` asks for
natural alignment. -/
def State.accAt (s : State) (q l va n data cmp : Nat) (need : Need) (atomic align : Bool) :
    Except (Nat × Nat) (List Acc) :=
  if align && va % n != 0 then .error (9, va)
  else
    let k := firstPiece va n
    match s.pieceAt q l va k (data % 2 ^ (8 * k)) cmp need atomic with
    | .error e => .error e
    | .ok a =>
      if k = n then .ok [a]
      else
        match s.pieceAt q l ((va + k) % 2 ^ 64) (n - k) (data / 2 ^ (8 * k)) cmp need atomic with
        | .error e => .error e
        | .ok b => .ok [a, b]

/-- The accesses of lanes in ascending order: the lowest faulting lane decides (R167). -/
def collect (f : Nat → Except (Nat × Nat) (List Acc)) : List Nat → Except Flt (List Acc)
  | [] => .ok []
  | l :: r =>
    match f l with
    | .error (c, v) => .error ⟨c, v, some l⟩
    | .ok as =>
      match collect f r with
      | .error e => .error e
      | .ok bs => .ok (as ++ bs)

/-- The bytes of a team's local store. -/
def State.localLen (s : State) (g : Group) : Nat := ((s.teamOf g).map Team.localLen).getD 0

/-- A local access of a lane (R234, R32, R34): ALIGN, then RANGE. -/
def State.localAt (s : State) (g : Group) (l off n data : Nat) : Except (Nat × Nat) (List Acc) :=
  if off % n ≠ 0 then .error (9, off)
  else if s.localLen g < off + n then .error (0x0A, off)
  else .ok [⟨l, some g.place.team, off, off, n, 0, data, 0⟩]

/-! ### Flights of accesses -/

/-- A flight of accesses on a path (R79). -/
def Flight.access (sp : Nat) (kind : FlightKind) (lanes : W32) (path : Nat) (acc : List Acc) : Flight :=
  { id := 0, sp := sp, kind := kind, lanes := lanes, path := some path, done := false, dv := [], dg := [], dq := [],
    w := RegWrites.none, acc := acc, acq := false, rel := false, nt := false, scope := 0, tag := none, gather := false, back := [] }

/-- Put a flight of accesses on its way, unless no lane is active (R79). -/
def State.send (s : State) (gid : Nat) (f : Flight) : State :=
  if f.lanes = 0#32 then s
  else
    s.launch gid f (match f.kind with
      | .store => .storePerformed
      | .atom _ _ _ => .atomicPerformed
      | _ => .variableLatencyResult)

/-- The registers a vector load of a size writes. -/
def loadRegs (size d : Nat) : List Nat := codesV (size == 6) d

/-- Ordering parts of a load or store: acquire, release, non-temporal. -/
structure Order where
  acq : Bool
  rel : Bool
  nt : Bool
  deriving DecidableEq, Repr

/-- A relaxed access. -/
def Order.relaxed : Order := ⟨false, false, false⟩

/-- A vector load from global memory (R229). -/
def vecLoad (x : Load) (o : Order) (s : State) : Out :=
  simtOnly s
    (fun rd => { Spec.of x.m x.len (rd.vBad (x.acc.size == 6) x.d || rd.addrBad x.a)
      (rd.modeCodes ++ x.a.vCodes true) (loadRegs x.acc.size x.d) with rkind := 0 })
    Rd.active fun gid sp g _ rd =>
      match collect (fun l => s.accAt g.place.ctx l (rd.addr x.a l).toNat (sizeBytes x.acc.size) 0 0 .read false true)
          rd.lanes with
      | .error e => .error e
      | .ok acc =>
        .ok (Done.plain (s.send gid { Flight.access sp (.load x.acc.size) rd.active 0 acc with
          dv := loadRegs x.acc.size x.d, acq := o.acq, scope := x.acc.scope }))

/-- A vector store to global memory (R229, R230). -/
def vecStore (x : Store) (o : Order) (s : State) : Out :=
  let wide := x.acc.size == 6
  simtOnly s
    (fun rd => { Spec.of x.m x.len (rd.dataBad wide x.c || rd.addrBad x.a)
      (rd.modeCodes ++ (x.a.vCodes true ++ x.c.vCodes wide)) [] with rkind := 1 })
    Rd.active fun gid sp g _ rd =>
      let n := sizeBytes x.acc.size
      match collect (fun l => s.accAt g.place.ctx l (rd.addr x.a l).toNat n
          ((rd.dataV wide x.c l).toNat % 2 ^ (8 * n)) 0 .write false true) rd.lanes with
      | .error e => .error e
      | .ok acc =>
        .ok (Done.plain (s.send gid { Flight.access sp .store rd.active 1 acc with
          rel := o.rel, nt := o.nt, scope := x.acc.scope }))

/-! ### Uniform loads and stores -/

/-- The bytes that a thread reads through a translation: of a META page, the ownership entries that it holds (R393). -/
def State.threadValue (s : State) (x : Xlat) (n : Nat) : Nat :=
  match s.metaEntry x.pa with
  | some e => cutBytes e (x.pa % 16) n
  | none => s.readAt x n

/-- What a thread reads at a translated address: a device register, or memory with the errors and poison it meets; INTEG is
a fault (R321).
[DESIGN CHOICE, log entry 47] -/
def State.threadRead (s : State) (tid va n d size : Nat) (x : Xlat) : Except (Nat × Nat) (State × RegWrites) :=
  let t := s.thread tid
  let part := s.partOfThread tid
  if x.dev then
    let lvl := if t.eid = 0 then t.lvl else 0
    .ok (s.devReadDone part lvl x.pa, RegWrites.gOne d (extend size (s.devRead part lvl x.pa n)))
  else
    let s := (s.tlbFill t part va).meet t.eid 0xFFFF x.pa n
    if s.integ x.pa n then .error (0x15, va)
    else
      .ok (s, { RegWrites.gOne d (extend size (s.threadValue x n)) with
        px := match s.poisonedAt x.pa (if x.tol = 0 then n else n / 2) with
          | some o => [(3072 + d, 1 + va + (if x.tol = 0 then o else 2 * o))]
          | none => [] })

/-- What a thread writes at a translated address.
[DESIGN CHOICE, log entry 47] -/
def State.threadWrite (s : State) (tid va n data : Nat) (x : Xlat) : State :=
  let t := s.thread tid
  let part := s.partOfThread tid
  let s := s.tlbFill t part va
  if x.dev then
    if s.devMayWrite part (if t.eid = 0 then t.lvl else 0) x.pa then s.soon (.deviceWrite x.pa n data) else s
  else
    let (pa, bs) := storeBytes x.tol x.pa n data
    s.write pa bs

/-- A thread's translation of an aligned access, with its fault and address. -/
def State.threadXlat (s : State) (tid va n : Nat) (need : Need) (atomic : Bool) : Except (Nat × Nat) Xlat :=
  if va % n ≠ 0 then .error (9, va)
  else
    match s.xlateThread tid va n need atomic with
    | .error c => .error (c, va)
    | .ok x => .ok x

/-- A uniform load (R229): LDU and LDUACQ. -/
def uniLoad (x : Load) (o : Order) (s : State) : Out :=
  let n := sizeBytes x.acc.size
  uniBoth s false (fun _ => Spec.of x.m x.len false x.a.uCodes [codeG x.d])
    (fun gid sp g p rd =>
      match s.accAt g.place.ctx 0 (rd.addrU x.a).toNat n 0 0 .read false true with
      | .error e => .error e
      | .ok acc =>
        .ok (Done.plain (s.send gid { Flight.access sp (.load x.acc.size) p.mask 0 acc with
          dg := [x.d], acq := o.acq, scope := x.acc.scope })))
    (fun tid t rd =>
      let va := (rd.addrU x.a).toNat
      match s.threadXlat tid va n .read false with
      | .error e => .error e
      | .ok xl =>
        if s.rstatWaits xl.pa then .ok (s, some t.pc)
        else
          match s.threadGate tid xl with
          | (s, true) => .ok (s, some t.pc)
          | (s, false) =>
            match s.threadRead tid va n x.d x.acc.size xl with
            | .error e => .error e
            | .ok (s, w) => .ok (s.modThread tid fun t => t.write w, none))

/-- A uniform store (R229): STU and STUREL. -/
def uniStore (x : Store) (o : Order) (s : State) : Out :=
  let n := sizeBytes x.acc.size
  let wide := x.acc.size == 6
  uniBoth s false (fun _ => { Spec.of x.m x.len false (x.a.uCodes ++ x.c.uCodes) [] with rkind := 1 })
    (fun gid sp g p rd =>
      match s.accAt g.place.ctx 0 (rd.addrU x.a).toNat n ((rd.dataU wide x.c).toNat % 2 ^ (8 * n)) 0 .write false true with
      | .error e => .error e
      | .ok acc =>
        .ok (Done.plain (s.send gid { Flight.access sp .store p.mask 1 acc with rel := o.rel, scope := x.acc.scope })))
    (fun tid t rd =>
      let va := (rd.addrU x.a).toNat
      match s.threadXlat tid va n .write false with
      | .error e => .error e
      | .ok xl =>
        match s.threadGate tid xl with
        | (s, true) => .ok (s, some t.pc)
        | (s, false) => .ok (s.threadWrite tid va n ((rd.dataU wide x.c).toNat % 2 ^ (8 * n)) xl, none))

def execLd (x : Load) (s : State) : Out := vecLoad x Order.relaxed s
def execSt (x : Store) (s : State) : Out := vecStore x Order.relaxed s
def execLdacq (x : Load) (s : State) : Out := vecLoad x ⟨true, false, false⟩ s
def execStrel (x : Store) (s : State) : Out := vecStore x ⟨false, true, false⟩ s
/-- STNT stands outside every release (R232, R68). -/
def execStnt (x : Store) (s : State) : Out := vecStore x ⟨false, false, true⟩ s
def execLdu (x : Load) (s : State) : Out := uniLoad x Order.relaxed s
def execStu (x : Store) (s : State) : Out := uniStore x Order.relaxed s
def execLduacq (x : Load) (s : State) : Out := uniLoad x ⟨true, false, false⟩ s
def execSturel (x : Store) (s : State) : Out := uniStore x ⟨false, true, false⟩ s

/-- PREF (R233): a hint that no program sees; it raises no lane fault and is no access. -/
def execPref (x : Op1) (s : State) : Out :=
  simtOnly s (fun rd => Spec.of x.m x.len (rd.addrBad x.a) (rd.modeCodes ++ x.a.vCodes true) []) Rd.active
    fun _ _ _ _ _ => .ok (Done.plain s)

/-! ### Local store (R234) -/

/-- A local load of `n` bytes into `regs`. -/
def localLoad (m : Marks) (len : Nat) (a : Opnd) (size n : Nat) (regs : List Nat) (bad : Rd → Bool) (s : State) : Out :=
  simtOnly s
    (fun rd => Spec.of m len (bad rd || rd.offBad a) (rd.modeCodes ++ a.vCodes false) regs)
    Rd.active fun gid sp g _ rd =>
      match collect (fun l => s.localAt g l ((rd.vec false a l).toNat % 2 ^ 32) n 0) rd.lanes with
      | .error e => .error e
      | .ok acc => .ok (Done.plain (s.send gid { Flight.access sp (.load size) rd.active 2 acc with dv := regs }))

/-- A local store of `n` bytes. -/
def localStore (m : Marks) (len : Nat) (a : Opnd) (n : Nat) (srcs : List Nat) (bad : Rd → Bool) (data : Rd → Nat → Nat)
    (s : State) : Out :=
  simtOnly s
    (fun rd => Spec.of m len (bad rd || rd.offBad a) (rd.modeCodes ++ (a.vCodes false ++ srcs)) [])
    Rd.active fun gid sp g _ rd =>
      match collect (fun l => s.localAt g l ((rd.vec false a l).toNat % 2 ^ 32) n (data rd l % 2 ^ (8 * n))) rd.lanes with
      | .error e => .error e
      | .ok acc => .ok (Done.plain (s.send gid (Flight.access sp .store rd.active 3 acc)))

def execLdl (x : Load) (s : State) : Out :=
  localLoad x.m x.len x.a x.acc.size (sizeBytes x.acc.size) (loadRegs x.acc.size x.d)
    (fun rd => rd.vBad (x.acc.size == 6) x.d) s

def execStl (x : Store) (s : State) : Out :=
  let wide := x.acc.size == 6
  localStore x.m x.len x.a (sizeBytes x.acc.size) (x.c.vCodes wide) (fun rd => rd.dataBad wide x.c)
    (fun rd l => (rd.dataV wide x.c l).toNat) s

/-- Four consecutive registers. -/
def execLdl4 (x : Op2) (s : State) : Out :=
  localLoad x.m x.len x.a 6 16 (regRange4 x.d) (fun rd => decide (rd.vregs < x.d + 4)) s
where regRange4 (d : Nat) : List Nat := [d, d + 1, d + 2, d + 3]

def execStl4 (x : OpReg) (s : State) : Out :=
  localStore x.m x.len x.a 16 [x.c, x.c + 1, x.c + 2, x.c + 3] (fun rd => decide (rd.vregs < x.c + 4))
    (fun rd l => (rd.pair x.c l).toNat + 2 ^ 64 * (rd.pair (x.c + 2) l).toNat) s

/-! ### Gathers and scatters (R235) -/

/-- The access size code of a gather's element: sign-extended under INT8 and INT16. -/
def gathSize (ety : Nat) : Nat :=
  match ety with
  | 6 => 1
  | 7 => 0
  | 4 => 3
  | 5 => 2
  | 9 => 2
  | 10 => 2
  | 2 => 6
  | 3 => 6
  | _ => 4

/-- The address of a lane's element (R45). -/
def gathAddr (rd : Rd) (x : Gath) (l : Nat) : Nat := ((rd.g x.base).toNat + (rd.vec false x.c l).toNat % 2 ^ 32) % 2 ^ 64

/-- The issue spec of GLD and GST. -/
def specGath (x : Gath) (store : Bool) (rd : Rd) : Spec :=
  let ety := modeEty rd.mode
  let regs := codesV (ety64 ety) x.d
  { Spec.of x.m x.len (!decide (ety < 11) || rd.vBad (ety64 ety) x.d || rd.offBad x.c)
      (rd.modeCodes ++ codeG x.base :: (x.c.vCodes false ++ if store then regs else []))
      (if store then [] else regs) with rkind := if store then 5 else 4 }

def execGld (x : Gath) (s : State) : Out :=
  simtOnly s (specGath x false) Rd.active fun gid sp g _ rd =>
    let size := gathSize (modeEty rd.mode)
    match collect (fun l => s.accAt g.place.ctx l (gathAddr rd x l) (sizeBytes size) 0 0 .read false false) rd.lanes with
    | .error e => .error e
    | .ok acc => .ok (Done.plain (s.send gid { Flight.access sp (.load size) rd.active 0 acc with
      dv := loadRegs size x.d, gather := true }))

def execGst (x : Gath) (s : State) : Out :=
  simtOnly s (specGath x true) Rd.active fun gid sp g _ rd =>
    let size := gathSize (modeEty rd.mode)
    let n := sizeBytes size
    match collect (fun l => s.accAt g.place.ctx l (gathAddr rd x l) n
        ((if n = 8 then rd.pair x.d l else (rd.v x.d l).setWidth 64).toNat % 2 ^ (8 * n)) 0 .write false false) rd.lanes with
    | .error e => .error e
    | .ok acc => .ok (Done.plain (s.send gid (Flight.access sp .store rd.active 1 acc)))

/-! ### Fences and waits -/

/-- FENCE (R240, R241): it holds the group's later accesses until the earlier ones are performed; a control core's accesses
are performed in order. -/
def execFence (x : CodeI) (s : State) : Out :=
  uniBoth s false (fun _ => Spec.of x.m 1 false [] [])
    (fun gid sp _ p _ => .ok (Done.plain (s.launch gid
      { Flight.result sp p.mask RegWrites.none with kind := .fence, scope := x.code } .variableLatencyResult)))
    (fun _ _ _ => .ok (s, none))

/-- The STNT writes of a group that are not performed. -/
def Group.ntFlights (g : Group) : List Nat := (g.flights.filter fun f => f.nt && !f.done).map Flight.id

/-- NTDRAIN (R240, R68): the split parks until the group's earlier STNT writes are performed. -/
def execNtdrain (x : CodeI) (s : State) : Out :=
  uniStall s (fun _ => Spec.of x.m 1 false [] [])
    (fun _ _ g _ _ => .ok (s, if g.ntFlights = [] then none else some (.ntdrain g.ntFlights x.m)))
    (fun _ _ _ => .ok (s, none))

/-- WAITC (R245, R80): the split parks until the path's counter is at or below the bound. -/
def execWaitc (x : ACode) (s : State) : Out :=
  uniStall s (fun rd => Spec.of x.m x.len false (if rd.simt then x.a.uCodes else []) [])
    (fun _ _ g _ rd =>
      .ok (s, if g.pathCount x.code ≤ (rd.uni x.a).toNat then none
        else some (.waitc x.code (rd.uni x.a).toNat x.m x.len)))
    (fun _ _ _ => .ok (s, none))

end Sys2Proof.Machine
end

