-- ==== Sys2Proof/Machine/Atomic.lean ====
section
/-! DEFINITION. Atomic.lean: atomics and completion counters (R236 to R239, R244, R77, R78), and the synchronisation engine
(R44). -/

namespace Sys2Proof.Machine

/-- Bytes of an atomic type, and its signedness (Table 5 of ch11). -/
def atomBytes (type : Nat) : Nat := if type = 2 ∨ type = 3 then 8 else 4
def atomSigned (type : Nat) : Bool := type == 1 || type == 3

/-- What an atomic writes (R237); `none` is a CAS that fails. -/
def atomNew (op type old c cmp : Nat) : Option Nat :=
  let w := 8 * atomBytes type
  let sg := atomSigned type
  match op with
  | 0 => some ((old + c) % 2 ^ w)
  | 1 => some (if readInt sg w old ≤ readInt sg w c then old else c)
  | 2 => some (if readInt sg w old ≤ readInt sg w c then c else old)
  | 3 => some (old &&& c)
  | 4 => some (old ||| c)
  | 5 => some (old ^^^ c)
  | 6 => some c
  | 7 => if old = cmp then some c else none
  | 8 => some (fmtFP32.add 0 (fmtFP32.read old) (fmtFP32.read c)).code
  | 9 => some (fmtFP32.minMax false old c).code
  | _ => some (fmtFP32.minMax true old c).code

/-- The old value as a uniform destination receives it (R237). -/
def atomExtend (type x : Nat) : W64 :=
  if atomSigned type then sext64 (8 * atomBytes type) x else zext64 (8 * atomBytes type) x

/-- One atomic performed (R237): the state, and the old value. -/
def State.atomicAt (s : State) (op type a c cmp : Nat) : State × Nat :=
  let n := atomBytes type
  let old := s.peek a n
  let s := s.toEngine a
  match atomNew op type old c cmp with
  | none => (s, old)
  | some x => (s.writeNat a n x, old)

/-- The atomics of lanes in ascending order (R238): the state, and each lane's old value.
[DESIGN CHOICE, log entry 12] -/
def State.atomics (s : State) (op type : Nat) : List Acc → State × List (Nat × Nat)
  | [] => (s, [])
  | a :: r =>
    let (s, old) := s.atomicAt op type a.pa a.data a.cmp
    let (s, rest) := s.atomics op type r
    (s, (a.lane, old) :: rest)

/-- The enclave of a group's context. -/
def State.eidOf (s : State) (g : Group) : Nat := (s.ctx g.place.ctx).eid

/-- The first access of a flight that fails its integrity tag (R321). -/
def State.integAcc (s : State) (acc : List Acc) : Option Acc :=
  acc.find? fun a => a.team.isNone && !inKick a.pa && s.integ a.pa a.span

/-- Errors that the accesses of a flight meet as they read (R415). -/
def State.meetAll (s : State) (g : Group) (acc : List Acc) : State :=
  acc.foldl (fun s a => match a.team with
    | some t => s.meetLocal t a.pa a.n
    | none => if inKick a.pa then s else s.meet (s.eidOf g) g.place.core a.pa a.span) s

/-- The trap of the first access whose line is poisoned (R417). -/
def State.poisonTrap (s : State) (acc : List Acc) : Option Flt :=
  acc.findSome? fun a => match s.accPoison a with
    | some (k + 1) => some ⟨0x12, k, some a.lane⟩
    | some 0 => some ⟨0x13, 0, some a.lane⟩
    | none => none

/-- The constant one of an atomic: a 1 of its own TYPE, since MODE does not matter to it (R237).
[DEDUCED, log entry 110] -/
def atomOne (type : Nat) : Nat := if type = 4 then 0x3F800000 else 1

/-- A vector atomic's operand C (R237): bits [31:0], or all 64 of a pair, a g register or a literal.
[DEDUCED, log entry 131] -/
def atomDataV (rd : Rd) (type : Nat) (o : Opnd) (l : Nat) : Nat :=
  match o with
  | .one => atomOne type
  | o => (rd.dataV (atomBytes type == 8) o l).toNat

/-- A uniform atomic's operand C (R237).
[DEDUCED, log entry 131] -/
def atomDataU (rd : Rd) (type : Nat) (o : Opnd) : Nat :=
  match o with
  | .one => atomOne type
  | o => (rd.dataU (atomBytes type == 8) o).toNat

/-- Whether C is an OPND fault (R236, R154).
[DEDUCED, log entry 130] -/
def atomDataBad (rd : Rd) (wide : Bool) : Opnd → Bool
  | .v n => rd.vBad wide n
  | .lit64 _ => !wide
  | _ => false

/-- Ordering parts of an atomic (Table 2 of ch03): a non-returning one has no acquire part. -/
def orderOf (c : AtomCtl) (ret : Bool) : Order :=
  ⟨ret && (c.order == 1 || c.order == 3), c.order == 2 || c.order == 3, false⟩

/-- A vector atomic: ATOMV with its destination, REDV without. -/
def vecAtomic (m : Marks) (len : Nat) (d : Option Nat) (a c : Opnd) (ctl : AtomCtl) (s : State) : Out :=
  let wide := atomBytes ctl.type == 8
  let n := atomBytes ctl.type
  let regs := match d with
    | some d => codesV wide d
    | none => []
  simtOnly s
    (fun rd => { Spec.of m len (rd.addrBad a || atomDataBad rd wide c || (d.any (rd.vBad wide)))
      (rd.modeCodes ++ (a.vCodes true ++ c.vCodes wide ++ regs)) regs with needS := true, rkind := 2 })
    Rd.active fun gid sp g p rd =>
      match collect (fun l => s.accAt g.place.ctx l (rd.addr a l).toNat n (atomDataV rd ctl.type c l % 2 ^ (8 * n))
          (match d with
            | some d => if wide then (rd.pair d l).toNat else (rd.v d l).toNat
            | none => 0) .readWrite true true) rd.lanes with
      | .error e => .error e
      | .ok acc =>
        match s.poisonTrap acc with
        | some f => .error f
        | none =>
          let o := orderOf ctl d.isSome
          .ok (Done.plain (s.send gid { Flight.access sp (.atom ctl.op ctl.type d.isSome) rd.active 4 acc with
            dv := regs, acq := o.acq, rel := o.rel, scope := ctl.scope, back := p.pieces }))

/-- A uniform atomic: ATOM and CTRADD with their destination, REDU without. -/
def uniAtomic (m : Marks) (len : Nat) (d : Option Nat) (a c : Opnd) (ctl : AtomCtl) (s : State) : Out :=
  let n := atomBytes ctl.type
  let dst := match d with
    | some d => [codeG d]
    | none => []
  uniBoth s false
    (fun _ => { Spec.of m len false (a.uCodes ++ c.uCodes ++ dst) dst with needS := true, rkind := 2 })
    (fun gid sp g p rd =>
      match s.accAt g.place.ctx 0 (rd.addrU a).toNat n (atomDataU rd ctl.type c % 2 ^ (8 * n))
          (match d with
            | some d => (rd.g d).toNat % 2 ^ (8 * n)
            | none => 0) .readWrite true true with
      | .error e => .error e
      | .ok acc =>
        match s.poisonTrap acc with
        | some f => .error (f.cause, f.value)
        | none =>
          let o := orderOf ctl d.isSome
          .ok (Done.plain (s.send gid { Flight.access sp (.atom ctl.op ctl.type d.isSome) p.mask 4 acc with
            dg := d.toList, acq := o.acq, rel := o.rel, scope := ctl.scope, back := p.pieces })))
    (fun tid t rd =>
      let va := (rd.addrU a).toNat
      match s.threadXlat tid va n .readWrite true with
      | .error e => .error e
      | .ok x =>
        match s.threadGate tid x with
        | (s, true) => .ok (s, some t.pc)
        | (s, false) =>
          let s := (s.tlbFill t (s.partOfThread tid) va).meet t.eid 0xFFFF x.pa n
          if s.integ x.pa n then .error (0x15, va)
          else
            match s.poisonedAt x.pa n with
            | some _ => .error (0x12, va)
            | none =>
              let cmp := match d with
                | some d => (rd.g d).toNat % 2 ^ (8 * n)
                | none => 0
              let (s, old) := s.atomicAt ctl.op ctl.type x.pa (atomDataU rd ctl.type c % 2 ^ (8 * n)) cmp
              .ok (match d with
                | some d => s.modThread tid fun t => t.write (RegWrites.gOne d (atomExtend ctl.type old))
                | none => s, none))

def execAtomv (x : AtomI) (s : State) : Out := vecAtomic x.m x.len (some x.d) x.a x.c x.ctl s
def execRedv (x : RedI) (s : State) : Out := vecAtomic x.m x.len none x.a x.c x.ctl s
def execAtom (x : AtomI) (s : State) : Out := uniAtomic x.m x.len (some x.d) x.a x.c x.ctl s
def execRedu (x : RedI) (s : State) : Out := uniAtomic x.m x.len none x.a x.c x.ctl s

/-- CTRADD (R239): an ATOM with OP ADD and TYPE UINT64. -/
def execCtradd (x : AtomI) (s : State) : Out :=
  uniAtomic x.m x.len (some x.d) x.a x.c { x.ctl with op := 0, type := 2 } s

/-- SYNC_ENGINE_LINE_RETURN (R44): a line goes home after 4,096 ac without an atomic. -/
def execSyncEngineLineReturn (line : Nat) (s : State) : Out :=
  match Tbl.get? s.store.syncLines line with
  | none => .next s
  | some last => .next (if last + 4096 ≤ s.ac then s.fromEngine line else s)

/-- An atomic performed: the state, and the registers that its reply writes, in the lanes that live (R194). -/
def State.atomicNow (s : State) (f : Flight) (op type : Nat) : State × RegWrites :=
  let (s, olds) := s.atomics op type f.acc
  (s, match f.dg with
    | d :: _ => RegWrites.gOne d (atomExtend type ((olds.head?.map Prod.snd).getD 0))
    | [] => { RegWrites.none with
        v := (olds.filter fun o => hasLane f.lanes o.1).flatMap fun (l, x) =>
          (f.dv.zipIdx).map fun (r, k) => (32 * r + l, BitVec.ofNat 32 (x / 2 ^ (32 * k))) })

/-- An atomic of a group performed (R237): a returning one sends its reply. -/
def State.atomDone (s : State) (gid : Nat) (f : Flight) (op type : Nat) (ret : Bool) : State :=
  let (s, w) := s.atomicNow f op type
  if ret then (s.modFlight gid f.id (fun f => { f with kind := .reply, w := w })).later (.variableLatencyResult gid f.id)
  else s.finishFlight gid f.id

/-- Lanes taken back to where they were: what had passed a safe point since has not (R417). -/
def Split.takeBack (p : Split) (lanes : W32) (back : List Piece) : Split :=
  { p with pieces :=
      ((back.map fun (x : Piece) => { x with mask := x.mask &&& p.mask &&& lanes }) ++
        (p.pieces.map fun (x : Piece) => { x with mask := x.mask &&& ~~~lanes })).filter fun x => x.mask != 0#32 }

/-- An atomic whose line is poisoned, or fails its tag, is not performed (R417, R321): its context halts, and its own safe point
counts as not passed.
[DESIGN CHOICE, log entry 81] -/
def State.atomFail (s : State) (gid : Nat) (f : Flight) (e : Flt) : State :=
  let l := e.lane.getD ((lowestLane f.lanes).getD 0)
  let pt := match f.back.find? fun x => hasLane x.mask l with
    | some x => (x.ord, x.off)
    | none => (0, 0)
  (s.modGroup gid fun g => { g with
    flights := g.flights.filter fun x => x.id != f.id
    splits := g.splits.map fun p => (p.1, p.2.takeBack f.lanes f.back)
    sets := g.sets.map fun p => p.takeBack f.lanes f.back }).haltAt gid e.cause e.value pt.1 pt.2

/-- An atomic of a group as it comes to be performed: its lines' errors are met (R415, R417). -/
def State.atomTry (s : State) (gid : Nat) (g : Group) (f : Flight) (op type : Nat) (ret : Bool) : State :=
  let s := s.meetAll g f.acc
  match (s.integAcc f.acc).map (fun a => (⟨0x15, a.va, some a.lane⟩ : Flt)), s.poisonTrap f.acc with
  | some e, _ => s.atomFail gid f e
  | none, some e => s.atomFail gid f e
  | none, none => s.atomDone gid f op type ret

/-- ATOMIC_PERFORMED (R237): the atomic is performed at its engine; a returning one sends its reply. -/
def execAtomicPerformed (gid id : Nat) (s : State) : Out :=
  match s.group? gid with
  | none => .next s
  | some g =>
    match g.flight? id with
    | none => .next s
    | some f =>
      match f.kind with
      | .atom op type ret =>
        if g.heldFlight f then .next (s.at (s.ac + 1) (.atomicPerformed gid id))
        else
          let (s, held) := s.rowsPass (s.vfOfGroup g) (.atomicPerformed gid id) f.acc
          if held then .next s
          else
            .next (s.atomTry gid g f op type ret)
      | _ => .next s

end Sys2Proof.Machine
end

