-- ==== Sys2Proof/Machine/Control.lean ====
section
/-! DEFINITION. Control.lean: branches, calls, divergence, EXIT, JOIN, YIELD, TRAP and BKPT (R162, R190 to R195, R198,
R202). -/

namespace Sys2Proof.Machine

/-- The spec of a branch: it must end its run (R190). -/
def Spec.branch (m : Marks) (len : Nat) (needS : Bool) (srcs dsts : List Nat) : Spec :=
  { Spec.of m len false srcs dsts with needB := true, needS := needS, rkind := 3 }

/-- A direct branch target (R162): the base word's address plus the signed offset. -/
def directTarget (pc : W64) (off : W32) : W64 := pc + off.signExtend 64

/-- A direct branch's offset must be a multiple of 4, or it is an ALIGN fault at the branch (R162). -/
def offBad (off : W32) : Bool := off.toNat % 4 != 0

/-- A direct target or its fault. -/
def direct (pc : W64) (off : W32) : Except (Nat × Nat) W64 :=
  if offBad off then .error (9, (directTarget pc off).toNat) else .ok (directTarget pc off)

/-- An indirect branch's address on a SIMT group (R192): ALIGN, then RUN where it is no safe point of the kernel. -/
def State.indirect (s : State) (g : Group) (x : W64) : Except (Nat × Nat) W64 :=
  if x.toNat % 4 ≠ 0 then .error (9, x.toNat)
  else if (s.ordinalOf g x).isNone then .error (3, 0) else .ok x

/-- An indirect branch's address on a control core: only its alignment (R192). -/
def indirectThread (x : W64) : Except (Nat × Nat) W64 := if x.toNat % 4 ≠ 0 then .error (9, x.toNat) else .ok x

/-- BRA (R191). -/
def execBra (x : BraI) (s : State) : Out :=
  uniBoth s false (fun _ => Spec.branch x.m 2 false [] [])
    (fun _ _ _ p _ =>
      match direct p.pc x.off with
      | .error e => .error e
      | .ok t => .ok ⟨s, some t, none, id⟩)
    (fun _ t _ =>
      match direct t.pc x.off with
      | .error e => .error e
      | .ok a => .ok (s, some a))

/-- Whether BRQ branches (R191): (c ≠ 0) xor Z. -/
def brqTaken (x : BrqI) (rd : Rd) : Bool := decide (rd.uni x.c ≠ 0#64) != x.z

/-- BRQ (R191), traced as TAKEN or NOTTAKEN (R429). -/
def execBrq (x : BrqI) (s : State) : Out :=
  uniBoth s false (fun _ => Spec.branch x.m x.len false x.c.uCodes [])
    (fun gid sp _ p rd =>
      match direct p.pc x.off with
      | .error e => .error e
      | .ok t =>
        .ok ⟨s.tracePacket gid (if brqTaken x rd then 2 else 3) (some sp) true [],
          if brqTaken x rd then some t else none, none, fun s => s.syncDue gid⟩)
    (fun _ t rd =>
      match direct t.pc x.off with
      | .error e => .error e
      | .ok a => .ok (s, if brqTaken x rd then some a else none))

/-- The lanes of the split that a BRV takes (R193). -/
def brvTaken (x : BrvI) (rd : Rd) : W32 := rd.mask &&& (if x.inv then ~~~(rd.p x.p) else rd.p x.p)

/-- The split index that a BRV's new split gets, for its trace packet (R429): 0, with the parked bit, where none is free. -/
def divergeByte (g : Group) (sp : Nat) (taken mask : W32) (same : Bool) : Nat :=
  if taken = 0#32 ∨ taken = mask ∨ same = true then sp
  else
    match g.freeIndex with
    | some i => sp + 4 * i
    | none => sp + 16

/-- BRV (R193): it divides the split by lane (R8, R9), traced as DIVERGE (R429). UNDEF on a control core. -/
def execBrv (x : BrvI) (s : State) : Out :=
  simtOnly s (fun _ => Spec.branch { x.m with s := false } 2 false [codeP x.p] []) (fun rd => rd.mask)
    fun gid sp g p rd =>
      match direct p.pc x.off with
      | .error e => .error (Flt.plain e)
      | .ok t =>
        let fall := p.pc + 8#64
        let taken := brvTaken x rd
        .ok ⟨s.tracePacket gid 4 none true
            (BitVec.ofNat 8 (divergeByte g sp taken rd.mask (decide (t = fall))) :: leBytes 4 taken.toNat),
          none, none, fun s => (s.divide gid sp taken t fall x.m).syncDue gid⟩

/-- The ordinal that an INDIRECT packet names (R429). -/
def State.traceIndirect (s : State) (gid sp : Nat) (g : Group) (t : W64) : State :=
  s.tracePacket gid 6 (some sp) true (leBytes 4 ((s.ordinalOf g t).getD 0))

/-- JMPI (R191). -/
def execJmpi (x : R1) (s : State) : Out :=
  uniBoth s false (fun _ => Spec.branch x.m 1 false [codeG x.r] [])
    (fun gid sp g _ rd =>
      match s.indirect g (rd.g x.r) with
      | .error e => .error e
      | .ok t => .ok ⟨s.traceIndirect gid sp g t, some t, none, fun s => s.syncDue gid⟩)
    (fun _ _ rd =>
      match indirectThread (rd.g x.r) with
      | .error e => .error e
      | .ok t => .ok (s, some t))

/-- RET (R191). -/
def execRet (x : R1) (s : State) : Out :=
  uniBoth s false (fun _ => Spec.branch x.m 1 false [codeG x.r] [])
    (fun gid sp g _ rd =>
      match s.indirect g (rd.g x.r) with
      | .error e => .error e
      | .ok t => .ok ⟨s.traceIndirect gid sp g t, some t, none, fun s => s.syncDue gid⟩)
    (fun _ _ rd =>
      match indirectThread (rd.g x.r) with
      | .error e => .error e
      | .ok t => .ok (s, some t))

/-- A call's link, written as the branch issues (R191), so that it is never pending (R159).
[DEDUCED, log entry 105] -/
def State.putLink (s : State) (gid : Nat) (p : Split) (d len : Nat) : State :=
  s.modGroup gid fun g => { g with regs := g.regs.write s.ac (RegWrites.gOne d (p.pc + BitVec.ofNat 64 (4 * len))) }

/-- CALL (R191): the link, then the branch. -/
def execCall (x : CallI) (s : State) : Out :=
  uniBoth s false (fun _ => Spec.branch x.m 2 true [] [codeG x.d])
    (fun gid sp _ p _ =>
      match direct p.pc x.off with
      | .error e => .error e
      | .ok t => .ok ⟨s.putLink gid p x.d 2, some t, none, id⟩)
    (fun tid t _ =>
      match direct t.pc x.off with
      | .error e => .error e
      | .ok a => .ok (s.modThread tid fun t => t.write (RegWrites.gOne x.d (t.pc + 8#64)), some a))

/-- CALLI (R191): the address is read before the link is written. -/
def execCalli (x : Rr) (s : State) : Out :=
  uniBoth s false (fun _ => Spec.branch x.m 1 true [codeG x.a] [codeG x.d])
    (fun gid sp g p rd =>
      match s.indirect g (rd.g x.a) with
      | .error e => .error e
      | .ok t => .ok ⟨(s.traceIndirect gid sp g t).putLink gid p x.d 1, some t, none, fun s => s.syncDue gid⟩)
    (fun tid _ rd =>
      match indirectThread (rd.g x.a) with
      | .error e => .error e
      | .ok t => .ok (s.modThread tid fun t => t.write (RegWrites.gOne x.d (t.pc + 4#64)), some t))

/-- A control thread ends (R202): a thread inside an enclave first leaves it by a synchronous exit, and no trap is taken. -/
def State.threadExit (s : State) (tid : Nat) (t : Thread) : State :=
  let s := if t.eid = 0 then s else s.enclaveExit tid true (t.pc + 4#64) 4 0 0#64
  s.modThread tid fun t' => { t' with running := false, lvl := if t.eid = 0 then t'.lvl else t.encLvl }

/-- EXIT (R194, R202), traced as EXIT (R429). -/
def execExit (x : Op0) (s : State) : Out :=
  uniBoth s false (fun _ => Spec.branch x.m 1 false [] [])
    (fun gid sp _ _ _ =>
      .ok ⟨s.tracePacket gid 7 none true [BitVec.ofNat 8 sp], none, none, fun s => (s.endSplit gid sp).syncDue gid⟩)
    (fun tid t _ => .ok (s.threadExit tid t, none))

/-- JOIN (R11, R195): the split is held at the JOIN's address. -/
def execJoin (x : Op0) (s : State) : Out :=
  simtOnly s (fun _ => Spec.branch x.m 1 false [] []) (fun rd => rd.mask) fun gid sp g p _ =>
    .ok ⟨s, none, some .join, fun s =>
      (s.modSplit gid sp fun q => { q with pc := p.pc }).joinStep gid g⟩

/-- YIELD (R195): at the next run boundary another ready split goes first; a hint on a control core. -/
def execYield (x : Op0) (s : State) : Out :=
  uniBoth s false (fun _ => Spec.branch x.m 1 false [] [])
    (fun gid sp _ _ _ => .ok ⟨s, none, none, fun s => s.modSplit gid sp fun q => { q with yielded := true }⟩)
    (fun _ _ _ => .ok (s, none))

/-- The spec of TRAP and BKPT: both must carry S (R198). -/
def trapSpec (x : Op1) : Spec := { Spec.of x.m x.len false x.a.uCodes [] with needS := true }

/-- A TRAP or BKPT of a control core (R198): CLASS FAULT, the return address the next instruction. -/
def State.threadTrap (s : State) (tid : Nat) (t : Thread) (cause len num : Nat) : State :=
  s.trap tid ⟨0, cause, faultLevel t.lvl, t.pc + BitVec.ofNat 64 (4 * len), BitVec.ofNat 64 num, false⟩

/-- A trap's thread continues at the vector: the pc that the trap set. -/
def trapped (s : State) (tid : Nat) : Except (Nat × Nat) (State × Option W64) := .ok (s, some (s.thread tid).pc)

/-- TRAP (R198): the context halts with TRAPI at the TRAP's own safe point, the number in bits [15:0]. -/
def execTrap (x : Op1) (s : State) : Out :=
  uniBoth s false (fun _ => trapSpec x)
    (fun gid sp _ _ rd =>
      .ok ⟨s, none, none, fun s => s.haltGroup gid sp 0x0F ((rd.uni x.a).toNat % 2 ^ 16)⟩)
    (fun tid t rd => trapped (s.threadTrap tid t 0x0F x.len ((rd.uni x.a).toNat % 2 ^ 16)) tid)

/-- BKPT (R198): as TRAP with cause BKPT under DEBUG policy; without it no effect. -/
def execBkpt (x : Op1) (s : State) : Out :=
  uniBoth s false (fun _ => trapSpec x)
    (fun gid sp g _ rd =>
      .ok ⟨s, none, none, fun s' =>
        if bitOf (s.policyOf (s.ctx g.place.ctx).eid) 0 then s'.haltGroup gid sp 0x10 ((rd.uni x.a).toNat % 2 ^ 16)
        else s'⟩)
    (fun tid t rd => trapped (s.threadTrap tid t 0x10 x.len ((rd.uni x.a).toNat % 2 ^ 16)) tid)

end Sys2Proof.Machine
end

