-- ==== Sys2Proof/Machine/Integer.lean ====
section
/-! DEFINITION. Integer.lean: the integer instructions, MOV, SEL and ICMP (R177 to R186), vector and uniform. -/

namespace Sys2Proof.Machine

/-- What an integer instruction computes of one element: saturation and signedness of the type, width, the codes of a, c
and d (R177). -/
abbrev ElemOp := Bool → Bool → Nat → Nat → Nat → Nat → Nat × Flags

/-- An element operation whose exact result is fitted (R178). -/
def fitOp (f : Int → Int → Int → Int) : ElemOp := fun sat sg w a c d =>
  fit sat sg w (f (readInt sg w a) (readInt sg w c) (readInt sg w d))

/-- An element operation on codes, written mod 2^w. -/
def codeOp (f : Bool → Nat → Nat → Nat → Nat → Nat) : ElemOp := fun _ sg w a c d => (f sg w a c d % 2 ^ w, 0#5)

/-- The rows of Table 1 of ch09. -/
def opAdd : ElemOp := fitOp fun a c _ => a + c
def opSub : ElemOp := fitOp fun a c _ => a - c
def opMul : ElemOp := fitOp fun a c _ => a * c
def opMad : ElemOp := fitOp fun a c d => a * c + d
def opNeg : ElemOp := fitOp fun a _ _ => -a

/-- |a|: unchanged under an unsigned type (R179). -/
def opAbs : ElemOp := fitOp fun a _ _ => |a|

/-- The upper w bits of the 2w-bit product. -/
def opMulh : ElemOp := codeOp fun sg w a c _ => wrapInt w (readInt sg w a * readInt sg w c / (2 ^ w : Nat))

/-- The smaller and the larger. -/
def opMin : ElemOp := codeOp fun sg w a c _ => if readInt sg w a ≤ readInt sg w c then a else c
def opMax : ElemOp := codeOp fun sg w a c _ => if readInt sg w a ≤ readInt sg w c then c else a

/-- Bitwise rows. -/
def opAnd : ElemOp := codeOp fun _ _ a c _ => a &&& c
def opOr : ElemOp := codeOp fun _ _ a c _ => a ||| c
def opXor : ElemOp := codeOp fun _ _ a c _ => a ^^^ c
def opAndn : ElemOp := codeOp fun _ w a c _ => a &&& (2 ^ w - 1 - c % 2 ^ w)
def opNot : ElemOp := codeOp fun _ w a _ _ => 2 ^ w - 1 - a % 2 ^ w

/-- Shifts and rotate (R180). -/
def opShl : ElemOp := codeOp fun _ w a c _ => if w ≤ c then 0 else a * 2 ^ c
def opShr : ElemOp := codeOp fun _ w a c _ => if w ≤ c then 0 else a / 2 ^ c
def opSar : ElemOp := codeOp fun _ w a c _ => wrapInt w (signedOf w a / (2 ^ (if w ≤ c then w else c) : Nat))
def opRotl : ElemOp := codeOp fun _ w a c _ => a * 2 ^ (c % w) + a / 2 ^ (w - c % w)

/-- The effective length of a bit field (R181). -/
def fieldLen (w c : Nat) : Nat :=
  let pos := fieldOf c 0 8
  if w ≤ pos then 0 else min (fieldOf c 8 8) (w - pos)

/-- BFX (R181). -/
def opBfx : ElemOp := codeOp fun sg w a c _ =>
  let n := fieldLen w c
  let x := fieldOf a (fieldOf c 0 8) n
  if n = 0 then 0 else if sg then wrapInt w (signedOf n x) else x

/-- BFI (R181). -/
def opBfi : ElemOp := codeOp fun _ w a c d =>
  let pos := fieldOf c 0 8
  let n := fieldLen w c
  if n = 0 then d else d - fieldOf d pos n * 2 ^ pos + a % 2 ^ n * 2 ^ pos

/-- Bit counts and reversal. -/
def opPopc : ElemOp := codeOp fun _ w a _ _ => popcount w a
def opClz : ElemOp := codeOp fun _ w a _ _ => w - bitLen w a
def opCtz : ElemOp := codeOp fun _ w a _ _ => trailZeros w a
def opBrev : ElemOp := codeOp fun _ w a _ _ => revBits w a

/-- The quotient rounded toward zero, with the fixed borderline cases (R182). -/
def opDiv : ElemOp := codeOp fun sg w a c _ =>
  if c = 0 then 2 ^ w - 1 else wrapInt w (Int.tdiv (readInt sg w a) (readInt sg w c))

/-- The remainder a − c × quotient (R182). -/
def opRem : ElemOp := codeOp fun sg w a c _ =>
  if c = 0 then a else wrapInt w (Int.tmod (readInt sg w a) (readInt sg w c))

/-- The type a bitwise row reads (R177): FP32 as UINT32, FP16 and BF16 as packed UINT16. -/
def bitEty (ety : Nat) : Nat := if ety = 8 then 1 else if ety = 9 ∨ ety = 10 then 5 else ety

/-- Whether the element type is an OPND fault: an arithmetic row needs an integer type, a bitwise row no reserved one. -/
def etyBad (arith : Bool) (ety : Nat) : Bool := if arith then !decide (ety < 8) else !decide (ety < 11)

/-- A lane's image as writes of `v(d)` or the pair. -/
def laneWrites (wide : Bool) (d l : Nat) (x : W64) : List (Nat × W32) :=
  if wide then [(32 * d + l, x.setWidth 32), (32 * (d + 1) + l, (x >>> 32).setWidth 32)]
  else [(32 * d + l, x.setWidth 32)]

/-- A computation of an image per lane of `lanes`. -/
def laneImages (lanes : List Nat) (wide : Bool) (d : Nat) (f : Nat → Res) : RegWrites :=
  { RegWrites.none with
    v := lanes.flatMap fun l => laneWrites wide d l (f l).x
    flags := lanes.foldl (fun fl l => fl ||| (f l).fl) 0#5 }

/-- The issue spec of a vector instruction with destination `d`, sources `a` and `c`, all at one width. -/
def specV3 (x : Op3) (bad readsD wide : Bool) (rd : Rd) : Spec :=
  Spec.of x.m x.len (bad || rd.vBad wide x.d || rd.vecBad wide x.a || rd.vecBad wide x.c)
    (x.a.vCodes wide ++ x.c.vCodes wide ++ if readsD then codesV wide x.d else []) (codesV wide x.d)

/-- The same with source `a` only. -/
def specV2 (x : Op2) (bad wide : Bool) (rd : Rd) : Spec :=
  Spec.of x.m x.len (bad || rd.vBad wide x.d || rd.vecBad wide x.a) (x.a.vCodes wide) (codesV wide x.d)

/-- The element type an integer row reads. -/
def intEty (arith : Bool) (rd : Rd) : Nat := if arith then modeEty rd.mode else bitEty (modeEty rd.mode)

/-- The image of an integer row in one lane (R177). -/
def intLane (arith : Bool) (op : ElemOp) (rd : Rd) (a c : Opnd) (d l : Nat) : Res :=
  let ety := intEty arith rd
  let w := elemWidth ety
  let wide := ety64 ety
  let ia := rd.vec wide a l
  let ic := rd.vec wide c l
  let id := if wide then rd.pair d l else (rd.v d l).setWidth 64
  mapElems w (elemCount ety) fun e => op (modeSat rd.mode) (etySigned ety) w (elem w e ia) (elem w e ic) (elem w e id)

/-- A vector integer row with two sources (R177, R179). -/
def vecInt3 (arith readsD fixed : Bool) (op : ElemOp) (x : Op3) (s : State) : Out :=
  vecAlu s (fun rd => specV3 x (etyBad arith (modeEty rd.mode)) readsD (ety64 (modeEty rd.mode)) rd) fixed fun rd =>
    .ok (laneImages rd.lanes (ety64 (modeEty rd.mode)) x.d (intLane arith op rd x.a x.c x.d))

/-- A vector integer row with one source. -/
def vecInt2 (arith : Bool) (op : ElemOp) (x : Op2) (s : State) : Out :=
  vecAlu s (fun rd => specV2 x (etyBad arith (modeEty rd.mode)) (ety64 (modeEty rd.mode)) rd) true fun rd =>
    .ok (laneImages rd.lanes (ety64 (modeEty rd.mode)) x.d (intLane arith op rd x.a .zero x.d))

/-- The value of a uniform integer row (R184): at the element's width, then extended by the signedness of the type. -/
def intUni (arith : Bool) (op : ElemOp) (rd : Rd) (a c d : W64) : Res :=
  let ety := intEty arith rd
  let w := elemWidth ety
  let r := op (modeSat rd.mode) (etySigned ety) w (a.toNat % 2 ^ w) (c.toNat % 2 ^ w) (d.toNat % 2 ^ w)
  ⟨if etySigned ety then sext64 w r.1 else zext64 w r.1, r.2⟩

/-- A result written to `g(d)` with its flags. -/
def gRes (d : Nat) (r : Res) : RegWrites := { RegWrites.none with g := [(d, r.x)], flags := r.fl }

/-- A uniform integer row with two sources (R184). -/
def uniInt3 (arith readsD : Bool) (op : ElemOp) (x : Op3) (s : State) : Out :=
  uniAlu s (fun rd => Spec.of x.m x.len (etyBad arith (modeEty rd.mode))
      (rd.modeCode :: (x.a.uCodes ++ x.c.uCodes ++ if readsD then [codeG x.d] else [])) [codeG x.d]) true fun rd =>
    .ok (gRes x.d (intUni arith op rd (rd.uni x.a) (rd.uni x.c) (rd.g x.d)))

/-- A uniform integer row with one source. -/
def uniInt2 (arith : Bool) (op : ElemOp) (x : Op2) (s : State) : Out :=
  uniAlu s (fun rd => Spec.of x.m x.len (etyBad arith (modeEty rd.mode)) (rd.modeCode :: x.a.uCodes) [codeG x.d]) true fun rd =>
    .ok (gRes x.d (intUni arith op rd (rd.uni x.a) 0#64 (rd.g x.d)))

/-! ### The vector instructions (R179) -/

def execIadd (x : Op3) (s : State) : Out := vecInt3 true false true opAdd x s
def execIsub (x : Op3) (s : State) : Out := vecInt3 true false true opSub x s
def execImul (x : Op3) (s : State) : Out := vecInt3 true false true opMul x s
def execImulh (x : Op3) (s : State) : Out := vecInt3 true false true opMulh x s
def execImad (x : Op3) (s : State) : Out := vecInt3 true true true opMad x s
def execImin (x : Op3) (s : State) : Out := vecInt3 true false true opMin x s
def execImax (x : Op3) (s : State) : Out := vecInt3 true false true opMax x s
def execIabs (x : Op2) (s : State) : Out := vecInt2 true opAbs x s
def execIneg (x : Op2) (s : State) : Out := vecInt2 true opNeg x s
def execAndV (x : Op3) (s : State) : Out := vecInt3 false false true opAnd x s
def execOrV (x : Op3) (s : State) : Out := vecInt3 false false true opOr x s
def execXorV (x : Op3) (s : State) : Out := vecInt3 false false true opXor x s
def execAndn (x : Op3) (s : State) : Out := vecInt3 false false true opAndn x s
def execNotV (x : Op2) (s : State) : Out := vecInt2 false opNot x s
def execShl (x : Op3) (s : State) : Out := vecInt3 false false true opShl x s
def execShr (x : Op3) (s : State) : Out := vecInt3 false false true opShr x s
def execSar (x : Op3) (s : State) : Out := vecInt3 true false true opSar x s
def execRotl (x : Op3) (s : State) : Out := vecInt3 false false true opRotl x s
def execBfx (x : Op3) (s : State) : Out := vecInt3 false false true opBfx x s
def execBfi (x : Op3) (s : State) : Out := vecInt3 false true true opBfi x s
def execPopc (x : Op2) (s : State) : Out := vecInt2 false opPopc x s
def execClz (x : Op2) (s : State) : Out := vecInt2 false opClz x s
def execCtz (x : Op2) (s : State) : Out := vecInt2 false opCtz x s
def execBrev (x : Op2) (s : State) : Out := vecInt2 false opBrev x s

/-- IDIV and IREM are variable-latency (R158, R182). -/
def execIdiv (x : Op3) (s : State) : Out := vecInt3 true false false opDiv x s
def execIrem (x : Op3) (s : State) : Out := vecInt3 true false false opRem x s

/-- IDP4 in a lane (R183): d plus the sum of the byte products, fitted at width 32. -/
def idp4Lane (rd : Rd) (x : Op3) (l : Nat) : Res :=
  let sg := modeEty rd.mode == 6
  let a := rd.vec false x.a l
  let c := rd.vec false x.c l
  let sum : Int := (List.range 4).foldl (fun t e => t + readInt sg 8 (elem 8 e a) * readInt sg 8 (elem 8 e c)) 0
  let r := fit (modeSat rd.mode) sg 32 (readInt sg 32 (rd.v x.d l).toNat + sum)
  ⟨BitVec.ofNat 64 r.1, r.2⟩

def execIdp4 (x : Op3) (s : State) : Out :=
  vecAlu s (fun rd => specV3 x (modeEty rd.mode != 6 && modeEty rd.mode != 7) true false rd) true fun rd =>
    .ok (laneImages rd.lanes false x.d (idp4Lane rd x))

/-- MULW in a lane (R183): the exact 64-bit product. -/
def mulwLane (rd : Rd) (x : Op3) (l : Nat) : Res :=
  let sg := modeEty rd.mode == 0
  Res.pure (BitVec.ofInt 64
    (readInt sg 32 (rd.vec false x.a l).toNat * readInt sg 32 (rd.vec false x.c l).toNat))

def execMulw (x : Op3) (s : State) : Out :=
  vecAlu s (fun rd =>
      Spec.of x.m x.len (!decide (modeEty rd.mode < 2) || rd.vBad true x.d || rd.vecBad false x.a || rd.vecBad false x.c)
        (x.a.vCodes false ++ x.c.vCodes false) (codesV true x.d)) true fun rd =>
    .ok (laneImages rd.lanes true x.d (mulwLane rd x))

/-- One byte of PRMT (R183): nibble `n` picks a byte of c:a, or its top bit spread. -/
def prmtByte (a c n : Nat) : Nat :=
  let b := fieldOf (a + c * 2 ^ 32) (8 * (n % 8)) 8
  if n / 8 % 2 = 1 then (if b / 128 = 1 then 255 else 0) else b

/-- PRMT in a lane (R183). -/
def prmtLane (rd : Rd) (x : Op3) (l : Nat) : Res :=
  let a := (rd.vec false x.a l).toNat % 2 ^ 32
  let c := (rd.vec false x.c l).toNat % 2 ^ 32
  let d := (rd.v x.d l).toNat
  Res.pure (BitVec.ofNat 64
    ((List.range 4).foldl (fun t i => t + prmtByte a c (fieldOf d (4 * i) 4) * 2 ^ (8 * i)) 0))

def execPrmt (x : Op3) (s : State) : Out :=
  vecAlu s (fun rd => specV3 x (ety64 (modeEty rd.mode)) true false rd) true fun rd =>
    .ok (laneImages rd.lanes false x.d (prmtLane rd x))

/-- MOV copies the register image, a pair under a 64-bit type (R185). -/
def execMov (x : Op2) (s : State) : Out :=
  vecAlu s (fun rd => specV2 x (etyBad false (modeEty rd.mode)) (ety64 (modeEty rd.mode)) rd) true fun rd =>
    .ok (laneImages rd.lanes (ety64 (modeEty rd.mode)) x.d fun l => Res.pure (rd.vec (ety64 (modeEty rd.mode)) x.a l))

/-- SEL writes every lane of the split's mask: a where the guard is true, c elsewhere (R185). -/
def execSel (x : Op3) (s : State) : Out :=
  vecAluOn s Rd.mask (fun rd => specV3 x (etyBad false (modeEty rd.mode)) false (ety64 (modeEty rd.mode)) rd) true fun rd =>
    .ok (laneImages (lanesOf rd.mask) (ety64 (modeEty rd.mode)) x.d fun l =>
      Res.pure (rd.vec (ety64 (modeEty rd.mode)) (if rd.guard l then x.a else x.c) l))

/-- The condition of an integer compare (Table 10 of ch08). -/
def intCond (cond : Nat) (a c : Int) : Bool :=
  match cond with
  | 0 => decide (a = c)
  | 1 => decide (a ≠ c)
  | 2 => decide (a < c)
  | 3 => decide (a ≤ c)
  | 4 => decide (c < a)
  | 5 => decide (c ≤ a)
  | 7 => true
  | _ => false

/-- Whether ICMP refuses an element type: it compares single integer elements only (R169, R186). -/
def icmpBad (ety : Nat) : Bool := !decide (ety < 4)

/-- The lanes where an ICMP holds. -/
def icmpMask (rd : Rd) (x : CmpI) : W32 :=
  let ety := modeEty rd.mode
  let w := elemWidth ety
  maskWhere fun l => intCond x.cond (readInt (etySigned ety) w (rd.vec (ety64 ety) x.a l).toNat)
    (readInt (etySigned ety) w (rd.vec (ety64 ety) x.c l).toNat)

/-- The issue spec of a vector compare. -/
def specCmp (x : CmpI) (bad wide : Bool) (rd : Rd) : Spec :=
  Spec.of x.m x.len (bad || rd.vecBad wide x.a || rd.vecBad wide x.c) (x.a.vCodes wide ++ x.c.vCodes wide) [codeP x.pd]

def execIcmp (x : CmpI) (s : State) : Out :=
  vecAlu s (fun rd => specCmp x (icmpBad (modeEty rd.mode)) (ety64 (modeEty rd.mode)) rd) true fun rd =>
    .ok { RegWrites.none with p := [(x.pd, rd.active, icmpMask rd x)] }

/-! ### The uniform instructions (R184) -/

def execIaddU (x : Op3) (s : State) : Out := uniInt3 true false opAdd x s
def execIsubU (x : Op3) (s : State) : Out := uniInt3 true false opSub x s
def execImulU (x : Op3) (s : State) : Out := uniInt3 true false opMul x s
def execImulhU (x : Op3) (s : State) : Out := uniInt3 true false opMulh x s
def execImadU (x : Op3) (s : State) : Out := uniInt3 true true opMad x s
def execIminU (x : Op3) (s : State) : Out := uniInt3 true false opMin x s
def execImaxU (x : Op3) (s : State) : Out := uniInt3 true false opMax x s
def execIabsU (x : Op2) (s : State) : Out := uniInt2 true opAbs x s
def execInegU (x : Op2) (s : State) : Out := uniInt2 true opNeg x s
def execAndU (x : Op3) (s : State) : Out := uniInt3 false false opAnd x s
def execOrU (x : Op3) (s : State) : Out := uniInt3 false false opOr x s
def execXorU (x : Op3) (s : State) : Out := uniInt3 false false opXor x s
def execAndnU (x : Op3) (s : State) : Out := uniInt3 false false opAndn x s
def execNotU (x : Op2) (s : State) : Out := uniInt2 false opNot x s
def execShlU (x : Op3) (s : State) : Out := uniInt3 false false opShl x s
def execShrU (x : Op3) (s : State) : Out := uniInt3 false false opShr x s
def execSarU (x : Op3) (s : State) : Out := uniInt3 true false opSar x s
def execRotlU (x : Op3) (s : State) : Out := uniInt3 false false opRotl x s
def execBfxU (x : Op3) (s : State) : Out := uniInt3 false false opBfx x s
def execBfiU (x : Op3) (s : State) : Out := uniInt3 false true opBfi x s
def execPopcU (x : Op2) (s : State) : Out := uniInt2 false opPopc x s
def execClzU (x : Op2) (s : State) : Out := uniInt2 false opClz x s
def execCtzU (x : Op2) (s : State) : Out := uniInt2 false opCtz x s
def execBrevU (x : Op2) (s : State) : Out := uniInt2 false opBrev x s

/-- Uniform MOV copies all 64 bits whatever ETY holds (R185). -/
def execMovU (x : Op2) (s : State) : Out :=
  uniAlu s (fun _ => Spec.of x.m x.len false x.a.uCodes [codeG x.d]) true fun rd =>
    .ok (RegWrites.gOne x.d (rd.uni x.a))

def execIcmpU (x : CmpI) (s : State) : Out :=
  uniAlu s (fun rd => Spec.of x.m x.len (icmpBad (modeEty rd.mode)) (rd.modeCode :: (x.a.uCodes ++ x.c.uCodes)) [codeQ x.pd]) true fun rd =>
    let ety := modeEty rd.mode
    .ok { RegWrites.none with q := [(x.pd, intCond x.cond (readInt (etySigned ety) (elemWidth ety) (rd.uni x.a).toNat)
      (readInt (etySigned ety) (elemWidth ety) (rd.uni x.c).toNat))] }

end Sys2Proof.Machine
end

