-- ==== Sys2Proof/Machine/Sfu.lean ====
section
/-! DEFINITION. Sfu.lean: FEXP2, FLOG2, FSIN and FCOS (R211, R212). Each is faithfully rounded: the result is one of the
two neighbours of the exact value, and which one is `Config.sfuUp`'s choice. The exact value is bracketed by a fixed-point
series of 400 bits; no operand's value that is not exact lies nearer than that to a representable value. -/

namespace Sys2Proof.Machine

/-- Fraction bits of the fixed-point series. -/
def sfuBits : Nat := 400

/-- Σ 1 / (k 2^k) for k = n down to 1: ln 2 in fixed point. -/
def ln2Sum : Nat → Nat
  | 0 => 0
  | k + 1 => 2 ^ sfuBits / ((k + 1) * 2 ^ (k + 1)) + ln2Sum k

/-- arctan (1 / x) in fixed point: the terms from index `k`, `n` of them, alternating. -/
def arctanSum (x : Nat) : Nat → Nat → Int
  | 0, _ => 0
  | n + 1, k => (2 ^ sfuBits / ((2 * k + 1) * x ^ (2 * k + 1)) : Nat) - arctanSum x n (k + 1)

/-- 2π in fixed point (Machin's formula). -/
def twoPi : Nat := (2 * (16 * arctanSum 5 180 0 - 4 * arctanSum 239 60 0)).toNat

/-- exp's Taylor sum for a fixed-point argument, from term `k` with value `t`, `n` terms. -/
def expSum (x : Nat) : Nat → Nat → Nat → Nat
  | 0, _, _ => 0
  | n + 1, k, t => t + expSum x n (k + 1) (t * x / 2 ^ sfuBits / (k + 1))

/-- The alternating Taylor sums of sine and cosine, from term `t` with index `k`. -/
def trigSum (x : Nat) : Nat → Nat → Nat → Int
  | 0, _, _ => 0
  | n + 1, k, t => (t : Int) - trigSum x n (k + 2) (t * x / 2 ^ sfuBits * x / 2 ^ sfuBits / ((k + 1) * (k + 2)))

/-- Bits of log2 of y in [1, 2), y in fixed point, by repeated squaring: `n` bits. -/
def log2Bits : Nat → Nat → Nat
  | 0, _ => 0
  | n + 1, y =>
    let y := y * y / 2 ^ sfuBits
    if 2 ^ (sfuBits + 1) ≤ y then 2 ^ n + log2Bits n (y / 2) else log2Bits n y

/-- One of the two neighbours of a value that is not representable (R211), with the flags of R143.
[DESIGN CHOICE, log entry 6] -/
def FloatFmt.faithful (f : FloatFmt) (up : Bool) (x : Exact) : Rounded :=
  let q := f.quantum x
  let s := splitAt x q
  let lo := f.magCode q s.n
  if f.maxCode < lo then ⟨if up then f.infCode x.neg else f.signed x.neg f.maxCode, flagOF ||| flagNX⟩
  else
    let mag := if up then lo + 1 else lo
    if f.maxCode < mag then ⟨f.infCode x.neg, flagOF ||| flagNX⟩
    else ⟨f.signed x.neg mag, if mag ≠ 0 ∧ mag < 2 ^ f.mb then flagNX ||| flagUF else flagNX⟩

/-- A number of the format to which `Config.sfuUp` is applied: the fraction width tells the formats apart. -/
def FloatFmt.sfuTag (f : FloatFmt) : Nat := f.mb

/-- FEXP2 (R211, R212). -/
def FloatFmt.exp2 (f : FloatFmt) (code : Nat) : Rounded :=
  match f.read code with
  | .nan s => f.nanResult (nanFlag s)
  | .inf n => if n then ⟨f.signed false 0, 0#5⟩ else ⟨f.infCode false, 0#5⟩
  | .fin n m e =>
    let up := Config.sfuUp 0 f.sfuTag code
    -- the integer part below, and the fraction above it in fixed point
    if 0 ≤ e ∨ m = 0 then
      let j := min 4096 (m * 2 ^ e.toNat)
      let k : Int := if n then -(j : Int) else j
      let x : Exact := ⟨false, 1, k, false⟩
      if (splitAt x (f.quantum x)).inexact || decide (f.maxCode < f.magCode (f.quantum x) (splitAt x (f.quantum x)).n)
      then f.faithful up x
      else f.round 0 false 0 x
    else
      let sh := (-e).toNat
      let ip := min 4096 (m / 2 ^ sh)
      let fr := m % 2 ^ sh
      if fr = 0 then
        let x : Exact := ⟨false, 1, if n then -(ip : Int) else ip, false⟩
        if (splitAt x (f.quantum x)).inexact || decide (f.maxCode < f.magCode (f.quantum x) (splitAt x (f.quantum x)).n)
        then f.faithful up x
        else f.round 0 false 0 x
      else
        let k : Int := if n then -(ip : Int) - 1 else ip
        let fr := if n then 2 ^ sh - fr else fr
        let arg := fr * ln2Sum sfuBits / 2 ^ sh
        f.faithful up ⟨false, expSum arg 90 0 (2 ^ sfuBits), k - sfuBits, true⟩

/-- FLOG2 (R211, R212). -/
def FloatFmt.log2 (f : FloatFmt) (code : Nat) : Rounded :=
  match f.read code with
  | .nan s => f.nanResult (nanFlag s)
  | .inf n => if n then f.nanResult flagNV else ⟨f.infCode false, 0#5⟩
  | .fin n m e =>
    if m = 0 then ⟨f.infCode true, flagDZ⟩
    else if n then f.nanResult flagNV
    else
      let l := Nat.log2 m
      let k := floorLog2 m e
      if m = 2 ^ l then
        (if k = 0 then ⟨f.signed false 0, 0#5⟩ else f.round 0 false 0 ⟨decide (k < 0), k.natAbs, 0, false⟩)
      else
        let fr := log2Bits 128 (m * 2 ^ sfuBits / 2 ^ l)
        let x : Int := k * (2 ^ 128 : Nat) + fr
        f.faithful (Config.sfuUp 1 f.sfuTag code) ⟨decide (x < 0), x.natAbs, -128, true⟩

/-- sin 2πt for t in [0, 1/4] given as a numerator over 2^sh, in fixed point. -/
def sinTurns (num sh : Nat) : Nat :=
  let x := num * twoPi / 2 ^ sh
  (trigSum x 80 1 x).toNat

/-- cos 2πt likewise. -/
def cosTurns (num sh : Nat) : Nat :=
  let x := num * twoPi / 2 ^ sh
  (trigSum x 80 0 (2 ^ sfuBits)).toNat

/-- FSIN (`cosine` false) and FCOS (R211, R212). -/
def FloatFmt.trig (f : FloatFmt) (cosine : Bool) (code : Nat) : Rounded :=
  match f.read code with
  | .nan s => f.nanResult (nanFlag s)
  | .inf _ => f.nanResult flagNV
  | .fin n m e =>
    let one := f.bias * 2 ^ f.mb
    let sh := (max (-e) 2).toNat
    let t := (m * 2 ^ (e + sh).toNat) % 2 ^ sh        -- |a| mod 1, over 2^sh
    let quarter := 2 ^ (sh - 2)
    if t % quarter = 0 then
      -- a multiple of 1/4: exact (Table 2 of ch10)
      let j := t / quarter
      if cosine then
        (if j = 0 then ⟨one, 0#5⟩ else if j = 2 then ⟨f.signed true one, 0#5⟩ else ⟨f.signed false 0, 0#5⟩)
      else
        (if j = 0 ∨ j = 2 then ⟨f.signed n 0, 0#5⟩ else ⟨f.signed (n != (j == 3)) one, 0#5⟩)
    else
      let j := t / quarter
      let r := t % quarter
      let up := Config.sfuUp (if cosine then 3 else 2) f.sfuTag code
      -- reduce to [0, 1/4): sine of quarter j
      let useCos := (j % 2 == 1) != cosine
      let neg := if cosine then (j == 1 || j == 2) else (n != decide (2 ≤ j))
      let v := if useCos then cosTurns r sh else sinTurns r sh
      f.faithful up ⟨neg, v, -(sfuBits : Int), true⟩

end Sys2Proof.Machine
end

