-- ==== Sys2Proof/Machine/Float.lean ====
section
/-! DEFINITION. Float.lean: the floating-point instructions (R203 to R212). -/

namespace Sys2Proof.Machine

/-- Whether a rounding mode is reserved: OPND where an instruction uses it (R156). -/
def rndBad (rd : Rd) : Bool := decide (5 < modeRnd rd.mode)

/-- Whether the element type or (where it is used) the rounding mode is an OPND fault of a floating-point row (R204). -/
def fltBad (usesRnd : Bool) (rd : Rd) : Bool := !etyFloat (modeEty rd.mode) || (usesRnd && rndBad rd)

/-- What a floating-point row computes of one element: format, rounding mode, codes of a, c and d. -/
abbrev FltOp := FloatFmt → Nat → Nat → Nat → Nat → Rounded

/-- The image of a floating-point row in one lane (R204). -/
def fltLane (op : FltOp) (rd : Rd) (a c : Opnd) (d l : Nat) : Res :=
  let ety := modeEty rd.mode
  let w := elemWidth ety
  let ia := rd.vec false a l
  let ic := rd.vec false c l
  let id := (rd.v d l).setWidth 64
  mapElems w (elemCount ety) fun e =>
    let r := op (etyFloatFmt ety) (modeRnd rd.mode) (elem w e ia) (elem w e ic) (elem w e id)
    (r.code, r.flags)

/-- A floating-point row with two sources. -/
def vecFlt3 (readsD fixed usesRnd : Bool) (op : FltOp) (x : Op3) (s : State) : Out :=
  vecAlu s (fun rd => specV3 x (fltBad usesRnd rd) readsD false rd) fixed fun rd =>
    .ok (laneImages rd.lanes false x.d (fltLane op rd x.a x.c x.d))

/-- A floating-point row with one source. -/
def vecFlt2 (fixed usesRnd : Bool) (op : FltOp) (x : Op2) (s : State) : Out :=
  vecAlu s (fun rd => specV2 x (fltBad usesRnd rd) false rd) fixed fun rd =>
    .ok (laneImages rd.lanes false x.d (fltLane op rd x.a .zero x.d))

/-- Rows of R206 over codes. -/
def opFadd : FltOp := fun f rnd a c _ => f.add rnd (f.read a) (f.read c)
def opFsub : FltOp := fun f rnd a c _ => f.add rnd (f.read a) (f.read c).negate
def opFmul : FltOp := fun f rnd a c _ => f.mulR rnd (f.read a) (f.read c)
def opFfma : FltOp := fun f rnd a c d => f.fused rnd [(f.read a, f.read c)] (f.read d)
def opFdiv : FltOp := fun f rnd a c _ => f.div rnd (f.read a) (f.read c)

/-- FABS and FNEG change the sign bit only (R205). -/
def opFabs : FltOp := fun f _ a _ _ => ⟨a % 2 ^ (f.eb + f.mb), 0#5⟩
def opFneg : FltOp := fun f _ a _ _ => ⟨(a + 2 ^ (f.eb + f.mb)) % 2 ^ f.width, 0#5⟩

def execFadd (x : Op3) (s : State) : Out := vecFlt3 false true true opFadd x s
def execFsub (x : Op3) (s : State) : Out := vecFlt3 false true true opFsub x s
def execFmul (x : Op3) (s : State) : Out := vecFlt3 false true true opFmul x s
def execFfma (x : Op3) (s : State) : Out := vecFlt3 true true true opFfma x s
def execFmin (x : Op3) (s : State) : Out := vecFlt3 false true false (fun f _ a c _ => f.minMax false a c) x s
def execFmax (x : Op3) (s : State) : Out := vecFlt3 false true false (fun f _ a c _ => f.minMax true a c) x s
def execFabs (x : Op2) (s : State) : Out := vecFlt2 true false opFabs x s
def execFneg (x : Op2) (s : State) : Out := vecFlt2 true false opFneg x s

/-- FCMP in a lane: element 0 of a and c (R208). -/
def fcmpLane (rd : Rd) (x : CmpI) (l : Nat) : Bool × Flags :=
  let f := etyFloatFmt (modeEty rd.mode)
  floatCond x.cond (f.read (rd.vec false x.a l).toNat) (f.read (rd.vec false x.c l).toNat)

/-- FCMP (R208, R169). -/
def execFcmp (x : CmpI) (s : State) : Out :=
  vecAlu s (fun rd => specCmp x (fltBad false rd) false rd) true fun rd =>
    .ok { RegWrites.none with
      p := [(x.pd, rd.active, maskWhere fun l => (fcmpLane rd x l).1)]
      flags := rd.lanes.foldl (fun fl l => fl ||| (fcmpLane rd x l).2) 0#5 }

/-! ### The special function unit (R211, R212) -/

def execFrcp (x : Op2) (s : State) : Out := vecFlt2 false true (fun f rnd a _ _ => f.rcp rnd (f.read a)) x s
def execFrsq (x : Op2) (s : State) : Out := vecFlt2 false true (fun f rnd a _ _ => f.rsqrt rnd (f.read a)) x s
def execFsqrt (x : Op2) (s : State) : Out := vecFlt2 false true (fun f rnd a _ _ => f.sqrt rnd (f.read a)) x s
def execFexp2 (x : Op2) (s : State) : Out := vecFlt2 false false (fun f _ a _ _ => f.exp2 a) x s
def execFlog2 (x : Op2) (s : State) : Out := vecFlt2 false false (fun f _ a _ _ => f.log2 a) x s
def execFsin (x : Op2) (s : State) : Out := vecFlt2 false false (fun f _ a _ _ => f.trig false a) x s
def execFcos (x : Op2) (s : State) : Out := vecFlt2 false false (fun f _ a _ _ => f.trig true a) x s
def execFdiv (x : Op3) (s : State) : Out := vecFlt3 false false true opFdiv x s

/-- FRND and FCLASS (R209). -/
def execFrnd (x : Op2) (s : State) : Out := vecFlt2 true true (fun f rnd a _ _ => f.rint rnd a) x s
def execFclass (x : Op2) (s : State) : Out := vecFlt2 true false (fun f _ a _ _ => ⟨2 ^ f.classBit a, 0#5⟩) x s

/-- FDOT2 in a lane (R210): d as FP32 plus two products, rounded once. -/
def fdot2Lane (rd : Rd) (x : Op3) (l : Nat) : Res :=
  let f := etyFloatFmt (modeEty rd.mode)
  let a := rd.vec false x.a l
  let c := rd.vec false x.c l
  let r := fmtFP32.fused (modeRnd rd.mode)
    [(f.read (elem 16 0 a), f.read (elem 16 0 c)), (f.read (elem 16 1 a), f.read (elem 16 1 c))]
    (fmtFP32.read (rd.v x.d l).toNat)
  ⟨BitVec.ofNat 64 r.code, r.flags⟩

/-- FDOT2 (R210). -/
def execFdot2 (x : Op3) (s : State) : Out :=
  vecAlu s (fun rd => specV3 x (fltBad true rd || modeEty rd.mode == 8) true false rd) true fun rd =>
    .ok (laneImages rd.lanes false x.d (fdot2Lane rd x))

end Sys2Proof.Machine
end

