-- ==== Sys2Proof/Machine/Convert.lean ====
section
/-! DEFINITION. Convert.lean: conversions, MX blocks, 6-bit packing, CMPR24 and SRSEED (R213 to R220). -/

namespace Sys2Proof.Machine

/-! ### The SR generator in use (R145) -/

/-- `n` successive draws from a state. -/
def srDraws : Nat → W32 → List W32
  | 0, _ => []
  | n + 1, x => srNext x :: srDraws n (srNext x)

/-- Draw `k` of a list, as SR's u. -/
def drawAt (ds : List W32) (k : Nat) : Nat := ((ds[k]?).getD 0#32).toNat

/-- The SR state of a lane. -/
def Regs.srOf (r : Regs) (l : Nat) : W32 := Tbl.getD r.sr l (srReset l)

/-- The draws of each lane of a conversion that takes `n` of them under SR, and none otherwise. -/
def Regs.draws (r : Regs) (rd : Rd) (n l : Nat) : List W32 := if modeRnd rd.mode = 5 then srDraws n (r.srOf l) else []

/-- SR states after conversions that took `n` draws in each lane of `lanes`. -/
def Regs.drew (r : Regs) (rd : Rd) (lanes : List Nat) (n : Nat) : Regs :=
  if modeRnd rd.mode = 5 then
    { r with sr := lanes.foldl (fun t l => Tbl.put t l ((srDraws n (r.srOf l)).getLastD (r.srOf l))) r.sr }
  else r

/-- A conversion: `n` draws in each active lane under SR (R145), results of `f` from the lanes' draws. -/
def vecConv (s : State) (spec : Rd → Spec) (fixed : Bool) (n : Rd → Nat → Nat)
    (f : Rd → (Nat → List W32) → Except Flt RegWrites) : Out :=
  s.issuer
    (fun gid sp g p =>
      let rd := s.rdSplit g sp p
      let i := spec rd
      let i := { i with srcs := rd.modeCodes ++ rd.srCodes ++ i.srcs }
      s.issueSplit gid sp g p i rd.active fixed <|
        match f rd fun l => g.regs.draws rd (n rd l) l with
        | .error e => .error e
        | .ok w =>
          if rd.active = 0#32 then .ok (Done.plain s)
          else
            let s := s.modGroup gid fun g => { g with
              regs := rd.lanes.foldl (fun r l => r.drew rd [l] (n rd l)) g.regs }
            .ok (Done.plain (if fixed then s.putFixed gid rd.active w else s.putVar gid sp rd.active w)))
    (fun t _ => s.threadFault t 1 0)

/-! ### CVT and CVTPK (R213, R214) -/

/-- CVT's target of a code, and whether it fills a pair. -/
def cvtTarget (code : Nat) : Option NumFmt := if code < 64 then etyFmt (code % 16) else numFmt (code % 16)

/-- Whether CVT's target is 64 bits wide. -/
def cvtWide (code : Nat) : Bool := code == 2 || code == 3

/-- CVT in a lane: element 0 of a by MODE.ETY. -/
def cvtLane (rd : Rd) (x : OpCode) (ds : List W32) (l : Nat) : Res :=
  let ety := modeEty rd.mode
  match etyFmt ety, cvtTarget x.code with
  | some src, some dst =>
    let r := convert src dst (modeRnd rd.mode) (modeSat rd.mode) (drawAt ds 0)
      ((rd.vec (ety64 ety) x.a l).toNat % 2 ^ elemWidth ety)
    ⟨BitVec.ofNat 64 r.code, r.flags⟩
  | _, _ => Res.pure 0#64

/-- CVT (R213). -/
def execCvt (x : OpCode) (s : State) : Out :=
  vecConv s (fun rd =>
      let wide := ety64 (modeEty rd.mode)
      Spec.of x.m x.len (etyBad false (modeEty rd.mode) || rndBad rd || rd.vBad (cvtWide x.code) x.d || rd.vecBad wide x.a)
        (x.a.vCodes wide) (codesV (cvtWide x.code) x.d)) true (fun _ _ => 1) fun rd ds =>
    .ok (laneImages rd.lanes (cvtWide x.code) x.d fun l => cvtLane rd x (ds l) l)

/-- CVTPK in a lane (R214). -/
def cvtpkLane (rd : Rd) (x : Op3) (ds : List W32) (l : Nat) : Res :=
  let f := etyFloatFmt (modeEty rd.mode)
  let one (o : Opnd) (k : Nat) : Rounded :=
    f.conv (modeRnd rd.mode) (modeSat rd.mode) (drawAt ds k) (fmtFP32.read (rd.vec false o l).toNat)
  let r0 := one x.a 0
  let r1 := one x.c 1
  ⟨BitVec.ofNat 64 (r0.code + 2 ^ 16 * r1.code), r0.flags ||| r1.flags⟩

/-- CVTPK (R214). -/
def execCvtpk (x : Op3) (s : State) : Out :=
  vecConv s (fun rd => specV3 x (fltBad true rd || modeEty rd.mode == 8) false false rd) true (fun _ _ => 2) fun rd ds =>
    .ok (laneImages rd.lanes false x.d fun l => cvtpkLane rd x (ds l) l)

/-! ### MX blocks (R215, R216) -/

/-- Element `i` of the block: a in lane `i` if it is active, else +0 (R215). -/
def mxValue (rd : Rd) (a : Opnd) (i : Nat) : FVal :=
  if hasLane rd.active i then fmtFP32.read (rd.vec false a i).toNat else .fin false 0 0

/-- An MX block encoded (R146): the scale code, and each element's code with its flags. -/
def mxBlock (rd : Rd) (fmt : Nat) (a : Opnd) (ds : Nat → List W32) : Nat × List Rounded :=
  let xs := allLanes.map (mxValue rd a)
  let scale := mxScale fmt xs
  let bad := xs.any fun x => x.isNan || x.isInf
  let snan := xs.any FVal.isSnan
  match numFmt fmt with
  | some (.float f) =>
    (scale, allLanes.map fun i =>
      let r := mxElem f (modeRnd rd.mode) scale (drawAt (ds i) 0) bad (mxValue rd a i)
      ⟨r.code, r.flags ||| nanFlag (bad && snan)⟩)
  | _ => (scale, [])

/-- The flags of a block. -/
def blockFlags (rs : List Rounded) : Flags := rs.foldl (fun fl r => fl ||| r.flags) 0#5

/-- `n` codes from element `j` on, `w` bits apart. -/
def packCodes (rs : List Rounded) (w j n : Nat) : Nat :=
  (List.range n).foldl (fun t k => t + ((rs[j + k]?).map Rounded.code).getD 0 * 2 ^ (w * k)) 0

/-- The issue of the three MX instructions: ETY 8, variable latency, one draw a lane. -/
def mxIssue (s : State) (m : Marks) (len d fmt : Nat) (a : Opnd) (f : Nat × List Rounded → Nat → Nat) : Out :=
  vecConv s (fun rd => Spec.of m len (modeEty rd.mode != 8 || rndBad rd || rd.vBad false d || rd.vecBad false a)
      (a.vCodes false) [d]) false (fun _ _ => 1) fun rd ds =>
    let b := mxBlock rd fmt a ds
    .ok { laneImages rd.lanes false d (fun l => Res.pure (BitVec.ofNat 64 (f b l))) with flags := blockFlags b.2 }

/-- MXSC: the scale code (R215). -/
def execMxsc (x : OpCode) (s : State) : Out := mxIssue s x.m x.len x.d x.code x.a fun b _ => b.1

/-- CVTN8: four codes a lane (R216). -/
def execCvtn8 (x : OpCode) (s : State) : Out :=
  mxIssue s x.m x.len x.d x.code x.a fun b l => packCodes b.2 8 (4 * (l % 8)) 4

/-- CVTN4: eight E2M1 codes a lane (R216). -/
def execCvtn4 (x : Op2) (s : State) : Out := mxIssue s x.m x.len x.d 8 x.a fun b l => packCodes b.2 4 (8 * (l % 4)) 8

/-! ### CVTW (R217) -/

/-- The format of CVTW's c, and how many codes a register holds: OPND for a reserved bit or format. -/
def cvtwForm (c : Nat) : Option (Nat × Nat) :=
  let f := fieldOf c 0 4
  if fieldOf c 4 4 ≠ 0 ∨ fieldOf c 16 16 ≠ 0 ∨ f < 4 ∨ 13 < f then none
  else some (f, if f = 8 ∨ f = 13 then 8 else 4)

/-- How many registers CVTW writes in a lane. -/
def cvtwCount (rd : Rd) (x : Op3) (l : Nat) : Nat := ((cvtwForm (rd.vec false x.c l).toNat).map Prod.snd).getD 4

/-- The most registers CVTW writes in any active lane, at least four. -/
def cvtwMost (rd : Rd) (x : Op3) : Nat := rd.lanes.foldl (fun n l => max n (cvtwCount rd x l)) 4

/-- The registers that CVTW needs whatever its lanes hold (R154): those of a literal c's format, else four. -/
def cvtwRoom (x : Op3) : Nat :=
  match x.c with
  | .lit32 w => ((cvtwForm w.toNat).map Prod.snd).getD 4
  | _ => 4

/-- CVTW's destinations: v registers only, the missing ones are its OPND (R217). -/
def cvtwDsts (rd : Rd) (x : Op3) : List Nat :=
  ((List.range (cvtwMost rd x)).map fun k => x.d + k).filter fun k => decide (k < rd.vregs)

/-- A value times 2^k. -/
def FVal.scale (v : FVal) (k : Int) : FVal :=
  match v with
  | .fin n m e => .fin n m (e + k)
  | _ => v

/-- Output `k` of CVTW in a lane. -/
def cvtwOut (rd : Rd) (x : Op3) (ds : List W32) (l k : Nat) : Rounded :=
  let c := (rd.vec false x.c l).toNat
  match cvtwForm c with
  | none => ⟨0, 0#5⟩
  | some (f, n) =>
    let w := 32 / n
    match numFmt f with
    | none => ⟨0, 0#5⟩
    | some nf =>
      let v := nf.read (fieldOf (rd.vec false x.a l).toNat (w * k) w)
      let s := fieldOf c 8 8
      if s = 255 then fmtFP32.nanResult (nanFlag v.isSnan)
      else fmtFP32.conv (modeRnd rd.mode) (modeSat rd.mode) (drawAt ds k) (v.scale ((s : Int) - 127))

/-- CVTW (R217): no room for the registers of every form is its OPND at decode; a reserved value of c in an active lane, or
no room for the registers that a lane's c asks for, its OPND at execution. -/
def execCvtw (x : Op3) (s : State) : Out :=
  vecConv s (fun rd =>
      Spec.of x.m x.len (modeEty rd.mode != 8 || rndBad rd || rd.vBad false x.d || decide (rd.vregs < x.d + cvtwRoom x)
          || rd.vecBad false x.a || rd.vecBad false x.c)
        (x.a.vCodes false ++ x.c.vCodes false) (cvtwDsts rd x)) false
      (fun rd l => cvtwCount rd x l) fun rd ds =>
    if rd.lanes.any (fun l => (cvtwForm (rd.vec false x.c l).toNat).isNone || decide (rd.vregs < x.d + cvtwCount rd x l))
    then .error (Flt.plain (2, 0))
    else
      .ok { RegWrites.none with
        v := rd.lanes.flatMap fun l => (List.range (cvtwCount rd x l)).map fun k =>
          (32 * (x.d + k) + l, BitVec.ofNat 32 (cvtwOut rd x (ds l) l k).code)
        flags := rd.lanes.foldl (fun fl l => (List.range (cvtwCount rd x l)).foldl
          (fun fl k => fl ||| (cvtwOut rd x (ds l) l k).flags) fl) 0#5 }

/-! ### PACK6, UNPK6 (R218) -/

/-- `n` consecutive registers of a lane as one little-endian value. -/
def Rd.wide (r : Rd) (a l : Nat) : Nat → Nat
  | 0 => 0
  | n + 1 => (r.v a l).toNat + 2 ^ 32 * r.wide (a + 1) l n

/-- A value written to `n` consecutive registers of a lane. -/
def wideWrites (d l x : Nat) (n : Nat) : List (Nat × W32) :=
  (List.range n).map fun k => (32 * (d + k) + l, BitVec.ofNat 32 (x / 2 ^ (32 * k)))

/-- Registers `d` to `d + n − 1` named, and beyond VREGS or not. -/
def regRange (d n : Nat) : List Nat := (List.range n).map fun k => d + k
def Rd.rangeBad (r : Rd) (d n : Nat) : Bool := decide (r.vregs < d + n)

/-- A row that moves a range of registers of each lane to another through a function of the whole value. -/
def vecRange (m : Marks) (d nd a na : Nat) (f : Nat → Nat) (s : State) : Out :=
  vecAlu s (fun rd => Spec.of m 1 (rd.rangeBad d nd || rd.rangeBad a na) (regRange a na) (regRange d nd)) true fun rd =>
    .ok { RegWrites.none with v := rd.lanes.flatMap fun l => wideWrites d l (f (rd.wide a l na)) nd }

/-- Sixteen byte containers into 96 bits, and back. -/
def pack6 (x : Nat) : Nat := (List.range 16).foldl (fun t i => t + fieldOf x (8 * i) 6 * 2 ^ (6 * i)) 0
def unpk6 (x : Nat) : Nat := (List.range 16).foldl (fun t i => t + fieldOf x (6 * i) 6 * 2 ^ (8 * i)) 0

def execPack6 (x : Rr) (s : State) : Out := vecRange x.m x.d 3 x.a 4 pack6 s
def execUnpk6 (x : Rr) (s : State) : Out := vecRange x.m x.d 4 x.a 3 unpk6 s

/-! ### CMPR24 (R219, R114) -/

/-- Whether element x's magnitude is strictly above y's (R114). -/
def magAbove (ety x y : Nat) : Bool :=
  match etyFmt ety with
  | some (.float f) =>
    let mx := x % 2 ^ (f.eb + f.mb)
    let my := y % 2 ^ (f.eb + f.mb)
    let nx := (f.read x).isNan
    let ny := (f.read y).isNan
    if nx || ny then nx && !ny else decide (my < mx)
  | some (.int sg w) => decide ((readInt sg w y).natAbs < (readInt sg w x).natAbs)
  | _ => false

/-- The index of the largest magnitude among some indices, ties to the lower. -/
def largestAt (ety : Nat) (xs : List Nat) : List Nat → Option Nat
  | [] => none
  | i :: r => match largestAt ety xs r with
    | none => some i
    | some j => some (if magAbove ety ((xs[j]?).getD 0) ((xs[i]?).getD 0) then j else i)

/-- The two kept indices, ascending. -/
def keptPair (ety : Nat) (xs : List Nat) : Nat × Nat :=
  let i := (largestAt ety xs [0, 1, 2, 3]).getD 0
  let j := (largestAt ety xs ([0, 1, 2, 3].filter fun k => k != i)).getD 0
  (min i j, max i j)

/-- The registers CMPR24 reads and writes under a type (Table 3 of ch10). -/
def cmprRead (ety : Nat) : Nat := 4 * elemWidth ety / 32
def cmprWrite (ety : Nat) : Nat := if elemWidth ety = 32 then 3 else 2

/-- CMPR24 in a lane: the kept pair, then the nibble in its own register. -/
def cmprLane (rd : Rd) (x : Rr) (l : Nat) : List (Nat × W32) :=
  let ety := modeEty rd.mode
  let w := elemWidth ety
  let v := rd.wide x.a l (cmprRead ety)
  let xs := (List.range 4).map fun e => fieldOf v (w * e) w
  let (i, j) := keptPair ety xs
  let kept := (xs[i]?).getD 0 + (xs[j]?).getD 0 * 2 ^ w
  let top := cmprWrite ety - 1
  wideWrites x.d l kept top ++ [(32 * (x.d + top) + l, BitVec.ofNat 32 (i + 4 * j))]

/-- CMPR24 (R219). -/
def execCmpr24 (x : Rr) (s : State) : Out :=
  vecAlu s (fun rd =>
      let ety := modeEty rd.mode
      Spec.of x.m 1 (etyBad false ety || ety64 ety || rd.rangeBad x.d (cmprWrite ety) || rd.rangeBad x.a (cmprRead ety))
        (regRange x.a (cmprRead ety)) (regRange x.d (cmprWrite ety))) true fun rd =>
    .ok { RegWrites.none with v := rd.lanes.flatMap (cmprLane rd x) }

/-- The SR states of some lanes set: what was wrong with them is gone (R220). -/
def Regs.seed (r : Regs) (lanes : List Nat) (f : Nat → W32) : Regs :=
  { r.clean (lanes.map (3200 + ·)) with sr := lanes.foldl (fun t l => Tbl.put t l (f l)) r.sr }

/-- SRSEED (R220): it acts at once and writes no register. -/
def execSrseed (x : Op1) (s : State) : Out :=
  s.issuer
    (fun gid sp g p =>
      let rd := s.rdSplit g sp p
      s.issueSplit gid sp g p
        (Spec.of x.m x.len (rd.vecBad false x.a) (rd.modeCodes ++ x.a.vCodes false) []) rd.active true
        (.ok (Done.plain (s.modGroup gid fun g => { g with
          regs := g.regs.seed rd.lanes fun l => srSeed ((rd.vec false x.a l).setWidth 32) }))))
    (fun t _ => s.threadFault t 1 0)

end Sys2Proof.Machine
end

