-- ==== Sys2Proof/Machine/Buffers.lean ====
section
/-! DEFINITION. Buffers.lean: the trace and sample buffers of a context (R427, R428, R432) and load samples (R433). -/

namespace Sys2Proof.Machine

/-- The physical address of `n` bytes of a buffer: an OWNED page of the enclave, in a NORMAL page or range, with W (R427). -/
def State.bufferPa (s : State) (q va n : Nat) : Option Nat :=
  match s.xlateCtx q va n .write false false with
  | .error _ => none
  | .ok x =>
    let e := s.potOf (x.pa / 4096)
    let normal := match s.rangeOf q va with
      | some (_, r) => r.cls == 0
      | none => true
    if normal && e.judged == potOwned && e.owner == (s.ctx q).eid then some x.pa else none

/-- A chunk or record that was not written (R427, R428). -/
def State.bufferDrop (s : State) (q : Nat) : State := s.putTraceQ q { s.traceQ q with dropped := true }

/-- One unit written into a ring of a size in bytes, and WR after it; dropped where it does not fit or cannot be written. -/
def State.ringUnit (s : State) (q base size : Nat) (unit : List Byte) : State :=
  match s.bufferPa q base 64 with
  | none => s.bufferDrop q
  | some h =>
    let wr := s.peek h 8
    let rd := s.peek (h + 8) 8
    if size - 64 < wr + unit.length - rd then s.bufferDrop q
    else
      match s.bufferPa q (base + 64 + wr % (size - 64)) unit.length with
      | none => s.bufferDrop q
      | some a => (s.write a unit).writeNat h 8 (wr + unit.length)

/-- A chunk (R428): core, scheduler, SEQ, USED, packets and PAD. -/
def chunkBytes (k seq : Nat) (ps : List (List Byte)) : List Byte :=
  let body := ps.flatten
  leBytes 2 (k / 4) ++ leBytes 1 (k % 4) ++ leBytes 1 seq ++ leBytes 1 body.length ++ leBytes 3 0 ++ body
    ++ List.replicate (56 - body.length) 0#8

/-- The chunks of a kind written in order, each with the next SEQ, and out of the staging; the room that they leave lets LOSS be
written (R428, R432). -/
def State.writeChunks (s : State) (k : Nat) (p : Chunk → Bool) : State :=
  let t := s.traceK k
  let out := t.chunks.filter p
  let s := s.putTraceK k { t with chunks := t.chunks.filter (fun c => !p c), seq := (t.seq + out.length) % 256 }
  let s := out.zipIdx.foldl (fun s (c, i) =>
    let x := s.traceQ c.ctx
    s.ringUnit c.ctx x.trbuf (4096 * x.trsize) (chunkBytes k ((t.seq + i) % 256) c.packets)) s
  if t.lost = [] then s else s.soon (.lossMark k)

/-- The chunks of a context written, at a halt or a swap-out (R428). -/
def State.flushCtx (s : State) (q : Nat) : State :=
  (s.hub.traceK.filter fun t => t.2.chunks.any fun c => c.ctx == q).foldl (fun s t => s.writeChunks t.1 fun c => c.ctx == q) s

/-- The chunk of a context on a scheduler takes no more, and is written (R428: at a group's exit). -/
def State.flushSoon (s : State) (k q : Nat) : State :=
  (s.putTraceK k ((s.traceK k).close fun c => c.ctx == q)).soon (.chunkFlush k)

/-- The bytes common to every sample: ordinal, offset, kind, a byte, place, TIME, six bytes, core, TOPIDX, LEAF (Table 8 of
ch27). -/
def State.sampleBytes (s : State) (g : Group) (ord off kind b6 time : Nat) (mid : List Byte) : List Byte :=
  leBytes 4 ord ++ leBytes 1 off ++ leBytes 1 kind ++ leBytes 1 b6 ++ leBytes 1 (16 * g.place.sched + g.place.slot)
    ++ leBytes 8 time ++ mid ++ leBytes 2 g.place.core ++ leBytes 4 g.place.top
    ++ leBytes 4 (leafOf g.place.coords (s.extents g))

/-- A sample written to a context's buffer. -/
def State.putSample (s : State) (q : Nat) (bs : List Byte) : State :=
  let x := s.traceQ q
  s.ringUnit q x.smbuf (4096 * x.smsize) bs

/-- A tagged load's record as its destination is written (R433). Where it was served, and how its time divides, is free.
[DESIGN CHOICE, log entry 95] -/
def State.loadSample (s : State) (g : Group) (f : Flight) : State :=
  match f.tag with
  | none => s
  | some (ord, off, time, pa) =>
    let q := g.place.ctx
    let e := s.time (s.partOfQueue q) - time
    let a := (s.freeNow 1).toNat % (e + 1)
    let b := (s.freeNow 2).toNat % (e - a + 1)
    let home := if (s.homeCore pa).map dieOfCore == some (dieOfCore g.place.core) then 0 else 1
    let served := [home, 3] ++ if f.gather then [4] else []
    let level := if (Tbl.get? s.store.syncLines (pa / 64)).isSome then 2
      else served.getD ((s.freeNow 3).toNat % served.length) home
    let w (x : Nat) : List Byte := leBytes 2 (min x 65535)
    s.putSample q (s.sampleBytes g ord off 1 level time (w a ++ w b ++ w (e - a - b)))

end Sys2Proof.Machine
end

