-- ==== Sys2Proof/Machine/Pipeline.lean ====
section
/-! DEFINITION. Pipeline.lean: results and stores as they arrive (R158, R159), and RUN_START (R25 to R27). -/

namespace Sys2Proof.Machine

/-- Fixed-latency results that are due are written, and the safe points that waited for them are passed (R158, R293). -/
def State.writeback (s : State) (gid : Nat) : State :=
  match s.group? gid with
  | none => s
  | some g =>
    let due := g.fixed.filter fun x => decide (x.due ≤ s.ac)
    let regs := due.foldl (fun r x => r.write s.ac x.w) g.regs
    let all := (g.splits.map Prod.snd ++ g.sets).flatMap Split.spQ
    let later (p : Split) : Split := { p with spQ := p.spQ.filter fun x => decide (s.ac < x.due) }
    let s' := s.putGroup gid { g with
      regs := regs
      fixed := g.fixed.filter fun x => decide (s.ac < x.due)
      splits := g.splits.map fun p => (p.1, later p.2)
      sets := g.sets.map later }
    (all.filter fun x => decide (x.due ≤ s.ac)).foldl (fun s x => s.passPending gid x) s'

/-- FIXED_LATENCY_WRITEBACK (R158). -/
def execFixedLatencyWriteback (gid : Nat) (s : State) : Out := .next (s.writeback gid)

/-- The bytes of a lane's accesses, in order, as one number; what was read earlier stands in the access. -/
def State.laneValue (s : State) (l : Nat) : List Acc → Nat
  | [] => 0
  | a :: r =>
    if a.lane = l then (if a.cmp = 1 then a.data else s.readAcc a) + 2 ^ (8 * a.n) * s.laneValue l r else s.laneValue l r

/-- The poison that a lane's accesses meet (R417). -/
def State.lanePoison (s : State) (l : Nat) (acc : List Acc) : Option Nat :=
  (acc.filter fun a => a.lane == l).findSome? s.accPoison

/-- What a load writes: each lane's value, extended (R229), into its registers, with its poison. -/
def State.loadWrites (s : State) (f : Flight) (size : Nat) : RegWrites :=
  match f.dg with
  | d :: _ =>
    { RegWrites.gOne d (extend size (s.laneValue 0 f.acc)) with
      px := match s.lanePoison 0 f.acc with
        | some k => [(3072 + d, k)]
        | none => [] }
  | [] =>
    let lanes := (f.acc.map Acc.lane).dedup
    { RegWrites.none with
      v := lanes.flatMap fun l =>
        let x := s.laneValue l f.acc
        match f.dv with
        | [r] => [(32 * r + l, (extend size x).setWidth 32)]
        | rs => rs.zipIdx.map fun (r, k) => (32 * r + l, BitVec.ofNat 32 (x / 2 ^ (32 * k)))
      px := lanes.flatMap fun l => match s.lanePoison l f.acc with
        | some k => f.dv.map fun r => (32 * r + l, k)
        | none => [] }

/-- A result written to a group's registers. -/
def State.writeRegs (s : State) (gid : Nat) (w : RegWrites) : State :=
  s.modGroup gid fun g => { g with regs := g.regs.write s.ac w }

/-- What a result brings about: the barrier phase of an arrival that has been performed may complete (R74), and the task of a
SPAWN that has been performed may be dispatched (R57). -/
def State.arrived (s : State) (q : Nat) (f : Flight) : State :=
  match f.kind with
  | .arrive bar _ => s.soon (.barrierPhaseComplete bar)
  | .reply => if f.path = some 7 then s.soon (.teamPlacement (s.partOfQueue q)) else s
  | _ => s

/-- A load performed: its result is written, or its integrity failure halts the context (R321). -/
def State.loadDone (s : State) (gid : Nat) (g : Group) (f : Flight) (size : Nat) : State :=
  let s := (s.meetAll g f.acc).loadSample g f
  match s.integAcc f.acc with
  | some b => (s.modGroup gid fun g => { g with flights := g.flights.filter fun x => x.id != f.id }).haltFlt gid f.sp
      ⟨0x15, b.va, if f.dv = [] then lowestLane f.lanes else some b.lane⟩
  | none => (s.writeRegs gid (s.loadWrites f size)).finishFlight gid f.id

/-- A step of a load (R34): its accesses up to the next second piece are read. The last step ends it.
[DESIGN CHOICE, log entry 12] -/
def State.loadStep (s : State) (gid id : Nat) (g : Group) (f : Flight) (size : Nat) : State :=
  let read := f.acc.filter fun a => a.cmp == 1
  let (now, rest) := splitPieces (f.acc.filter fun a => a.cmp != 1)
  if rest = [] then s.loadDone gid g f size
  else (s.modFlight gid id fun x => { x with acc := read ++ now.map s.sampled ++ rest }).later (.variableLatencyResult gid id)

/-- A step of a store (R34, R230): its accesses up to the next second piece are written, the highest lane last. The last step ends
it.
[DESIGN CHOICE, log entry 12] -/
def State.storeStep (s : State) (gid id : Nat) (f : Flight) : State :=
  let (now, rest) := splitPieces f.acc
  let s := s.writeAccs now
  if rest = [] then s.finishFlight gid id
  else (s.modFlight gid id fun x => { x with acc := rest }).later (.storePerformed gid id)

/-- VARIABLE_LATENCY_RESULT (R159): a result is written, once nothing that the group issued before it holds it. -/
def execVariableLatencyResult (gid id : Nat) (s : State) : Out :=
  match s.group? gid with
  | none => .next s
  | some g =>
    match g.flight? id with
    | none => .next s
    | some f =>
      if g.heldFlight f || f.acc.any (fun a => a.team.isNone && s.rstatWaits a.pa) then
        .next (s.at (s.ac + 1) (.variableLatencyResult gid id))
      else
        match f.kind with
        | .load size =>
          let (s, held) := s.rowsPass (s.vfOfGroup g) (.variableLatencyResult gid id) f.acc
          .next (if held then s else s.loadStep gid id g f size)
        | .store => .next s
        | .atom _ _ _ => .next s
        | .copy _ => .next s
        | .spawn => .next s
        | _ => .next (((s.writeRegs gid f.w).finishFlight gid id).arrived g.place.ctx f)

/-- A memory access or a fence of a group performed at once. -/
def State.memNow (s : State) (gid id : Nat) : State :=
  match (s.group? gid).bind fun g => (g.flight? id).map fun f => (g, f) with
  | none => s
  | some (g, f) =>
    match f.kind with
    | .load size => s.loadDone gid g f size
    | .store => (s.writeAccs f.acc).finishFlight gid id
    | .atom op type ret => s.atomTry gid g f op type ret
    | .fence => s.finishFlight gid id
    | _ => s

/-- STORE_PERFORMED (R53, R230): every byte is written at its point of coherence, the highest lane last. -/
def execStorePerformed (gid id : Nat) (s : State) : Out :=
  match s.group? gid with
  | none => .next s
  | some g =>
    match g.flight? id with
    | none => .next s
    | some f =>
      match f.kind with
      | .store =>
        if g.heldFlight f then .next (s.at (s.ac + 1) (.storePerformed gid id))
        else
          let (s, held) := s.rowsPass (s.vfOfGroup g) (.storePerformed gid id) f.acc
          if held then .next s
          else .next (s.storeStep gid id f)
      | _ => .next s

/-! ### RUN_START -/

/-- Whether a split may be chosen by its scheduler (R25, R26, R80). -/
def State.splitReady (s : State) (g : Group) (p : Split) : Bool :=
  p.ready && !p.held && p.park.isNone && decide (p.readyAt ≤ s.ac) && s.ctxRuns g.place.ctx
    && ((s.teamOf g).map Team.state == some .resident)
    && (List.range 8).all (fun k => decide (g.pathCount k ≤ 231))
    && !(g.splits.any fun x => match x.2.park with
      | some (.replay _ _) => true
      | _ => false)

/-- The launch priority of a group's task (R27). -/
def State.prioOf (s : State) (g : Group) : Nat := ((s.taskOf g).map fun t => t.launch.prio).getD 0

/-- A candidate of a scheduler: group, split index, and what R27 compares. -/
structure Cand where
  gid : Nat
  sp : Nat
  prio : Nat
  since : Nat
  slot : Nat
  passed : Nat
  yielded : Bool
  deriving DecidableEq, Repr

/-- The ready splits of a scheduler. -/
def State.cands (s : State) (k : Nat) : List Cand :=
  s.simt.groups.flatMap fun (gid, g) =>
    if g.place.schedNo != k then []
    else g.splits.filterMap fun (i, p) =>
      if s.splitReady g p then some ⟨gid, i, s.prioOf g, p.readySince, g.place.slot, p.passed, p.yielded⟩ else none

/-- Whether `a` is taken before `b` (R27). -/
def Cand.before (a b : Cand) : Bool :=
  let oldA := decide (256 ≤ a.passed)
  let oldB := decide (256 ≤ b.passed)
  if oldA != oldB then oldA
  else if !oldA && a.prio != b.prio then decide (b.prio < a.prio)
  else if a.since != b.since then decide (a.since < b.since)
  else if a.slot != b.slot then decide (a.slot < b.slot)
  else decide (a.sp < b.sp)

/-- The first of a list by R27. -/
def pickCand : List Cand → Option Cand
  | [] => none
  | c :: r => match pickCand r with
    | none => some c
    | some d => some (if d.before c then d else c)

/-- The split that a scheduler takes next: one that yielded only where there is no other (R195). -/
def State.chosen (s : State) (k : Nat) : Option Cand :=
  let all := s.cands k
  match pickCand (all.filter fun c => !c.yielded) with
  | some c => some c
  | none => pickCand all

/-- The splits of a scheduler after a run starts: those passed over count it (R27), and a YIELD has had its boundary. -/
def State.passOver (s : State) (k gid sp : Nat) (waiting : List Cand) : State :=
  s.modSimt fun x => { x with groups := x.groups.map fun (i, g) =>
    if g.place.schedNo != k then (i, g)
    else (i, { g with splits := g.splits.map fun (j, p) =>
      (j, if i = gid ∧ j = sp then { p with ready := false, yielded := false, run := 0, passed := 0 }
        else if waiting.any fun c => c.gid == i && c.sp == j then { p with yielded := false, passed := p.passed + 1 }
        else { p with yielded := false }) }) }

/-- RUN_START: a scheduler without a run takes a ready split (R25, R27), which issues in this ac. -/
def execRunStart (sched : Nat) (s : State) : Out :=
  if ((Tbl.get? s.simt.scheds sched).bind Sched.cur).isSome then .next s
  else
    match s.chosen sched with
    | none => .next s
    | some c =>
      let s := (s.passOver sched c.gid c.sp (s.cands sched)).putSched sched (some (c.gid, c.sp))
      .next { s with turns := s.turns ++ [.split c.gid c.sp] }

end Sys2Proof.Machine
end

