-- ==== Sys2Proof/Machine/Tuple.lean ====
section
/-! DEFINITION. Tuple.lean: tuple regions (R118 to R131) and the tuple instructions (R265, R266). A request is served at its
home slice by an event of its own, and its reply is written as it is served. -/

namespace Sys2Proof.Machine

/-! ### Home slices (R119, R397) -/

/-- Tuple entries of one eligible slice of a partition. -/
def Part.tupEntries (p : Part) : Nat :=
  match p.tupsz with
  | 0 => 0
  | 1 => 1024
  | 2 => 2048
  | _ => 4096

/-- The eligible slices of a partition. -/
def Part.eligible (p : Part) : Nat := if p.tupsz = 0 then 0 else 176 * dieCount p.tupdies

/-- The hash of a tag in a region. -/
def tupleHash (pbase tag : Nat) : Nat :=
  let y := fieldOf pbase 12 40 ^^^ (tag * 0x9E3779B1 % 2 ^ 32)
  y ^^^ (y >>> 17) ^^^ (y >>> 34)

/-- The home slice: 176 × die + slice, the h-th eligible slice in ascending order. -/
def State.homeSlice (s : State) (part pbase tag : Nat) : Option Nat :=
  let p := s.part part
  if p.eligible = 0 then none
  else
    let h := tupleHash pbase tag % p.eligible
    ((bitsOf 8 p.tupdies)[h / 176]?).map fun d => 176 * d + h % 176

/-! ### Regions (R118, R130) -/

/-- A region as a request names it: partition, PBASE, BASE, tuples of backing memory. -/
structure Region where
  part : Nat
  pbase : Nat
  base : Nat
  room : Nat
  deriving DecidableEq, Repr

/-- The last checks of a range entry as a region (R118): SHEN and permissions. Its backing room is that of this entry's span,
where two entries with one PBASE have spans of their own (R125).
[DESIGN CHOICE, log entry 120] -/
def regionOf (part : Nat) (e : RangeEntry) (writes : Bool) : Except (Nat × Nat) Region :=
  if e.shen then .error (0x0D, e.base)
  else if !e.r || (writes && !e.w) then .error (7, e.base)
  else .ok ⟨part, e.pbase, e.base, (e.limit - e.base) / 64⟩

/-- The ownership check of a byte of a range (R37, step 5), of a context in a partition. -/
def State.rangeOwn (s : State) (part eid va : Nat) (e : RangeEntry) : Option Nat :=
  let page := e.paOf false va / 4096
  if !s.hasPot part page then some 6 else (s.potOf page).enclaveCheck eid (e.linkOf false va) false

/-- The region that a group's operand names (R118): TUPLE where the partition has no eligible slice (R119), then steps 2, 3 and 5
of R37, then the entry's own checks. -/
def State.regionSimt (s : State) (q va : Nat) (writes : Bool) : Except (Nat × Nat) Region :=
  let part := s.partOfQueue q
  if (s.part part).eligible = 0 then .error (0x0D, va)
  else if !canonical va then .error (6, va)
  else
    match s.rangeOf q va with
    | none => .error (0x0D, va)
    | some (_, e) =>
      match s.rangeOwn part (s.ctx q).eid va e with
      | some c => .error (c, va)
      | none => if e.cls ≠ 1 ∨ e.base ≠ va then .error (0x0D, va) else regionOf part e writes

/-- The range of an enclave's contexts, in ascending queue number, that is a tuple region at a base (R130). -/
def State.enclaveRegion (s : State) (eid va : Nat) : Option RangeEntry :=
  (s.simt.ctxs.filter fun c => c.2.eid == eid).findSome? fun c =>
    (c.2.ranges.find? fun e => e.2.cls == 1 && e.2.base == va).map Prod.snd

/-- The region that a thread's operand names (R130): TUPLE in the host domain and where no context's range has that base; then
R118's other checks. -/
def State.regionThread (s : State) (tid va : Nat) (writes : Bool) : Except (Nat × Nat) Region :=
  let t := s.thread tid
  let part := s.partOfThread tid
  if t.eid = 0 ∨ (s.part part).eligible = 0 then .error (0x0D, va)
  else
    match s.enclaveRegion t.eid va with
    | none => .error (0x0D, va)
    | some e =>
      match s.rangeOwn part t.eid va e with
      | some c => .error (c, va)
      | none => regionOf part e writes

/-! ### Matching (R121) -/

/-- Whether a field matches. -/
def fieldMatches (mode : Nat) (x lo hi : W64) : Bool :=
  match mode with
  | 0 => true
  | 1 => x == lo
  | 2 => (x ^^^ lo) &&& hi == 0#64
  | _ => decide (lo.toNat ≤ x.toNat) && decide (x.toNat ≤ hi.toNat)

/-- Whether every field matches; the lists have the pattern's arity. -/
def fieldsMatch : List Nat → List W64 → List W64 → List W64 → Bool
  | m :: ms, x :: xs, lo :: los, hi :: his => fieldMatches m x lo hi && fieldsMatch ms xs los his
  | _, _, _, _ => true

/-- Whether a request's pattern matches a tuple (R121). -/
def TupReq.matches (r : TupReq) (region tag : Nat) (fields : List W64) : Bool :=
  r.region == region && r.tag == tag && r.fields.length == fields.length && fieldsMatch r.modes fields r.fields r.his

/-! ### Replies (R122) -/

/-- A status word. -/
def statusWord (status arity tag : Nat) : W64 := BitVec.ofNat 64 (status * 2 ^ 40 + arity * 2 ^ 32 + tag)

/-- What a reply writes: TDEP echoes its own tag and arity; TCOPY and TTAKE their tuple's fields, or zeros. -/
def TupReq.reply (r : TupReq) (status : Nat) (fields : List W64) : RegWrites :=
  let ok := status == 0
  let st := if r.kind = 0 ∨ ok then statusWord status r.fields.length r.tag else statusWord status 0 0
  { RegWrites.none with
    g := (r.d, st) :: (if r.kind = 0 then [] else
      (List.range 4).map fun i => (r.d + 1 + i, if ok then (fields[i]?).getD 0#64 else 0#64))
    q := if r.st = 7 then [] else [(r.st, ok)] }

/-- A TCANCEL's reply: the count withdrawn. -/
def TupReq.cancelReply (r : TupReq) : RegWrites :=
  { RegWrites.none with
    g := [(r.d, BitVec.ofNat 64 r.count)]
    q := if r.st = 7 then [] else [(r.st, decide (r.count ≠ 0))] }

/-- A request that is done is forgotten. -/
def State.dropReq (s : State) (id : Nat) : State := s.modStore fun x => { x with reqs := Tbl.del x.reqs id }

/-- The context of a group that asked. -/
def State.askerCtx (s : State) (who : Asker) : Option Nat :=
  match who with
  | .thread _ => none
  | .split gid _ => (s.group? gid).map fun g => g.place.ctx

/-- What an EXIT leaves of a reply (R194): the registers that its flight still names. -/
def State.replyLeft (s : State) (gid id : Nat) (w : RegWrites) : RegWrites :=
  match (s.group? gid).bind fun g => g.flight? id with
  | none => RegWrites.none
  | some f => { w with g := w.g.filter fun x => f.dg.contains x.1, q := w.q.filter fun x => f.dq.contains x.1 }

/-- A reply written (R122, R124, R130): to a group, whose parked split goes on, or to a thread, which moves on. -/
def State.tupWrite (s : State) (id : Nat) (r : TupReq) (w : RegWrites) : State :=
  let s := s.dropReq id
  match r.who with
  | .thread t => s.modThread t fun x => { x.write w with tupleWait := none, pc := x.pc + 8#64 }
  | .split gid _ =>
    let s := (s.writeRegs gid (s.replyLeft gid r.flight w)).finishFlight gid r.flight
    match s.group? gid with
    | none => s
    | some g => g.splits.foldl (fun s (i, p) =>
        match p.park with
        | some (.tuple k m) => if k = id then s.resumeAfter gid i m 2 else s
        | _ => s) s

/-- Whether a page holds a part of a request's region. -/
def TupReq.holds (r : TupReq) (page : Nat) : Bool :=
  decide (r.region / 4096 ≤ page) && decide (page < (r.region + 64 * r.room + 4095) / 4096)

/-- Change a request. -/
def State.putReq (s : State) (id : Nat) (r : TupReq) : State := s.modStore fun x => { x with reqs := Tbl.put x.reqs id r }

/-- The event that serves a request. -/
def serveEvent (kind id : Nat) : Event :=
  match kind with
  | 0 => .tdepServe id
  | 1 => .tcopyServe id
  | 2 => .ttakeServe id
  | _ => .tcancelServe id

/-- A request answered (R122): the reply is written, or waits for the clocks of a frozen context (R290). -/
def State.tupReply (s : State) (id : Nat) (r : TupReq) (w : RegWrites) : State :=
  match (s.askerCtx r.who).filter fun q => (s.ctx q).frozen with
  | none => s.tupWrite id r w
  | some q => (s.putReq id { r with parked := false, answer := some w }).modCtx q fun c => { c with
      heldEvents := c.heldEvents ++ [(0, serveEvent r.kind id)] }

/-! ### Serving (R123, R125, R126) -/

/-- The tuples of a region. -/
def State.tuplesOf (s : State) (region : Nat) : List Tup := Tbl.getD s.store.tuples region []

/-- Put a region's tuples. -/
def State.putTuples (s : State) (region : Nat) (ts : List Tup) : State :=
  s.modStore fun x => { x with tuples := Tbl.put x.tuples region ts }

/-- Tuples that a slice's own storage holds. -/
def State.sliceLoad (s : State) (slice : Nat) : Nat :=
  (s.store.tuples.map fun t => (t.2.filter fun x => x.slice == slice && !x.spilled).length).sum

/-- Whether two askers are the same group or thread. -/
def Asker.same : Asker → Asker → Bool
  | .split a _, .split b _ => a == b
  | .thread a, .thread b => a == b
  | _, _ => false

/-- Whether a request waits: an earlier one of its asker to the same slice has not been served (R123), or a release waits for
what precedes it (R127). -/
def State.reqWaits (s : State) (id : Nat) (r : TupReq) (slice : Nat) : Bool :=
  (s.store.reqs.any fun x => decide (x.1 < id) && !x.2.parked && x.2.answer.isNone && x.2.who.same r.who &&
    (x.2.slice == slice && x.2.kind != 3 || x.2.slices.contains slice))
  || match r.who with
    | .split gid _ => (s.group? gid).any fun g => (g.flight? r.flight).any g.heldFlight
    | .thread _ => false

/-- The requests of a kind parked at a slice that match a new tuple, in order of parking. -/
def State.parkedFor (s : State) (r : TupReq) (kind : Nat) : List (Nat × TupReq) :=
  ((s.store.reqs.filter fun x => x.2.parked && x.2.kind == kind && x.2.slice == r.slice
    && x.2.matches r.region r.tag r.fields).mergeSort fun a b => decide (a.2.parkedAt ≤ b.2.parkedAt))

/-- Whether a deposit finds room: in its slice (`false`: not spilled) or in the region's backing memory (R125). -/
def State.depositRoom (s : State) (r : TupReq) : Option Bool :=
  if s.sliceLoad r.slice < (s.part r.part).tupEntries then some false
  else if ((s.tuplesOf r.region).filter Tup.spilled).length < r.room then some true
  else none

/-- A deposit served (R123): parked copies are satisfied in order of parking, then the earliest parked take; else the tuple is
stored, or FULL. -/
def State.serveDeposit (s : State) (id : Nat) (r : TupReq) : State :=
  let takes := s.parkedFor r 2
  if takes = [] ∧ s.depositRoom r = none then s.tupReply id r (r.reply 3 [])
  else
    let s := (s.parkedFor r 1).foldl (fun s x => s.tupReply x.1 x.2 (x.2.reply 0 r.fields)) s
    let s := match takes with
      | x :: _ => s.tupReply x.1 x.2 (x.2.reply 0 r.fields)
      | [] =>
        let t : Tup := ⟨s.store.tupAge, r.slice, (s.depositRoom r).getD false, r.tag, r.fields⟩
        (s.putTuples r.region (s.tuplesOf r.region ++ [t])).modStore fun x => { x with tupAge := x.tupAge + 1 }
    s.tupReply id r (r.reply 0 [])

/-- The oldest stored tuple that a request matches. -/
def State.oldestMatch (s : State) (r : TupReq) : Option Tup :=
  ((s.tuplesOf r.region).filter fun t => r.matches r.region t.tag t.fields).foldl
    (fun b t => match b with
      | none => some t
      | some x => if t.age < x.age then some t else b) none

/-- Whether the group that asked was lost with its core (R31). -/
def State.askerLost (s : State) (who : Asker) : Bool :=
  match who with
  | .thread _ => false
  | .split gid _ => ((s.group? gid).bind s.teamOf).any fun t => t.state == .lost

/-- A request given up with its group's flight: nothing of it is left. -/
def State.dropAsked (s : State) (id : Nat) (r : TupReq) : State :=
  let s := s.dropReq id
  match r.who with
  | .thread _ => s
  | .split gid _ => s.modGroup gid fun g => { g with flights := g.flights.filter fun f => f.id != r.flight }

/-- A TCOPY or TTAKE served (R123, R126): a match, NOMATCH, REFUSED, or parked. -/
def State.serveMatch (s : State) (id : Nat) (r : TupReq) (take : Bool) : State :=
  match s.oldestMatch r with
  | some t =>
    let s := if take then s.putTuples r.region ((s.tuplesOf r.region).filter fun x => x.age != t.age) else s
    s.tupReply id r (r.reply 0 t.fields)
  | none =>
    if r.nb then s.tupReply id r (r.reply 1 [])
    else if 256 ≤ (s.store.reqs.filter fun x => x.2.parked && x.2.slice == r.slice).length then
      s.tupReply id r (r.reply 2 [])
    else if s.askerLost r.who then s.dropAsked id r
    else (s.putReq id { r with parked := true, parkedAt := s.store.tupAge }).modStore fun x =>
      { x with tupAge := x.tupAge + 1 }

/-- One slice withdraws the parked requests of a group in a region, and answers (R128). -/
def State.cancelAt (s : State) (id : Nat) (r : TupReq) (h : Nat) (rest : List Nat) : State × TupReq :=
  let mine := s.store.reqs.filter fun x => x.2.parked && x.2.slice == h && x.2.region == r.region && x.2.who.same r.who
  let s := mine.foldl (fun s x => s.tupReply x.1 x.2 (x.2.reply 4 [])) s
  let r := { r with slices := rest, count := r.count + mine.length }
  (s.putReq id r, r)

/-- Every slice that has not answered a TCANCEL does. -/
def State.cancelRest (s : State) (id : Nat) (r : TupReq) : List Nat → State
  | [] => s.tupReply id r r.cancelReply
  | h :: rest => let (s, r) := s.cancelAt id r h rest; s.cancelRest id r rest

/-- A request that is neither parked nor answered served at once (R123). -/
def State.serveNow (s : State) (id : Nat) (r : TupReq) : State :=
  if r.parked || r.answer.isSome then s
  else
    match r.kind with
    | 0 => s.serveDeposit id r
    | 1 => s.serveMatch id r false
    | 2 => s.serveMatch id r true
    | _ => s.cancelRest id r r.slices

/-! ### Accesses performed at once -/

/-- The reply of a flight brought about at once: its tuple request is served, or what it carries is written. -/
def State.replyNow (s : State) (gid : Nat) (f : Flight) : State :=
  match s.store.reqs.find? fun r => r.2.flight == f.id && r.2.who.same (.split gid f.sp) with
  | some (id, r) => s.serveNow id r
  | none => (s.writeRegs gid f.w).finishFlight gid f.id

/-- An access or a tuple request of a group performed at once. -/
def State.accessNow (s : State) (gid id : Nat) : State :=
  match (s.group? gid).bind fun g => g.flight? id with
  | none => s
  | some f => if f.kind = .reply then s.replyNow gid f else s.memNow gid id

/-- The accesses of a group below a number that are not performed. -/
def Group.earlier (g : Group) (before : Nat) : List Flight :=
  g.flights.filter fun f => decide (f.id < before) && !f.done && f.isAccess

/-- The accesses of a request's group before it, and its tuple requests, performed in issue order (R56, R123). -/
def State.beforeReq (s : State) (r : TupReq) : State :=
  match r.who with
  | .thread _ => s
  | .split gid _ =>
    match s.group? gid with
    | none => s
    | some g => (g.flights.filter fun f => decide (f.id < r.flight) && !f.done && (f.isAccess || f.path == some 6)).foldl
        (fun s f => s.accessNow gid f.id) s

/-! ### The serve events -/

/-- A request at a home slice: an answer that has waited is written (R290); else it is served once nothing holds it, and by the ac
that R131 gives it, what it must follow having been performed. -/
def State.atSlice (s : State) (id : Nat) (r : TupReq) (slice : Nat) (serve : State → State) : State :=
  match r.answer with
  | some w => s.tupWrite id r w
  | none =>
    if !s.reqWaits id r slice then serve s
    else if s.ac < r.due then s.at (s.ac + 1) (serveEvent r.kind id)
    else serve (s.beforeReq r)

/-- The event that serves a request of a kind. -/
def State.tupServe (s : State) (kind id : Nat) : State :=
  match Tbl.get? s.store.reqs id with
  | none => s
  | some r => if r.kind ≠ kind ∨ r.parked = true then s else s.atSlice id r r.slice fun s => s.serveNow id r

/-- TDEP_SERVE (R123). -/
def execTdepServe (id : Nat) (s : State) : Out := .next (s.tupServe 0 id)

/-- TCOPY_SERVE (R123). -/
def execTcopyServe (id : Nat) (s : State) : Out := .next (s.tupServe 1 id)

/-- TTAKE_SERVE (R123). -/
def execTtakeServe (id : Nat) (s : State) : Out := .next (s.tupServe 2 id)

/-- One slice answers a TCANCEL (R128); the next answers within what R131 leaves. -/
def State.serveCancel (s : State) (id : Nat) (r : TupReq) (h : Nat) (rest : List Nat) : State :=
  (s.cancelAt id r h rest).1.laterWithin (r.due - s.ac) (.tcancelServe id)

/-- TCANCEL_SERVE (R128): when every slice concerned has answered, the count is written. -/
def execTcancelServe (id : Nat) (s : State) : Out :=
  match Tbl.get? s.store.reqs id with
  | none => .next s
  | some r =>
    if r.kind ≠ 3 then .next s
    else
      match r.slices with
      | [] => .next (s.tupReply id r ((r.answer).getD r.cancelReply))
      | h :: rest => .next (s.atSlice id r h fun s => s.serveCancel id r h rest)

/-! ### Issue (R266) -/

/-- The modes of the fields. -/
def tupModes (c : TupCtl) : List Nat := [c.f0, c.f1, c.f2, c.f3]

/-- Whether a mode reads a mask or an upper bound. -/
def modeHi (m : Nat) : Bool := decide (2 ≤ m)

/-- The registers that a tuple instruction reads. -/
def tupSrcs (x : TupI) : List Nat :=
  [codeG x.a, codeG (x.a + 1), codeG (x.a + 2), codeG (x.a + 3), codeG (x.a + 4), codeG x.c]
    ++ ((tupModes x.ctl).zipIdx.filter fun m => modeHi m.1 && decide (x.ctl.mask + m.2 ≤ 63)).map fun m => codeG (x.ctl.mask + m.2)

/-- The registers that a reply writes. -/
def tupDests (kind d st : Nat) : List Nat × List Nat :=
  ((if kind = 1 ∨ kind = 2 then [d, d + 1, d + 2, d + 3, d + 4] else [d]), if st = 7 then [] else [st])

/-- The execution checks and the request of TDEP (0), TCOPY (1) and TTAKE (2), in the order of R266. -/
def tupRequest (kind : Nat) (x : TupI) (rd : Rd) (region : Except (Nat × Nat) Region) (who : Asker) (s : State) :
    Except (Nat × Nat) TupReq :=
  match region with
  | .error e => .error e
  | .ok rg =>
    let head := (rd.g x.a).toNat
    let n := fieldOf head 32 3
    let modes := if kind = 0 then [] else (tupModes x.ctl).take n
    if fieldOf head 35 29 ≠ 0 ∨ 4 < n then .error (2, 0)
    else if (modes.zipIdx.any fun m => modeHi m.1 && decide (63 < x.ctl.mask + m.2)) then .error (2, 0)
    else
      let tag := fieldOf head 0 32
      .ok { who := who, flight := 0, kind := kind, part := rg.part, region := rg.pbase, base := rg.base, room := rg.room,
            slice := (s.homeSlice rg.part rg.pbase tag).getD 0, tag := tag,
            fields := (List.range n).map fun i => rd.g (x.a + 1 + i), modes := modes,
            his := (List.range n).map fun i => rd.g (x.ctl.mask + i), nb := x.ctl.nb, d := x.d, st := x.ctl.st,
            parked := false, parkedAt := 0, slices := [], count := 0, due := 0, answer := none }

/-- The latency bound of a request of a die's core (R131), without spill: whether a slice that it goes to lies on another die. -/
def TupReq.bound (r : TupReq) (die : Nat) : Nat :=
  40 + (if (if r.kind = 3 then r.slices else [r.slice]).any fun h => h / 176 != die then 80 else 0)

/-- The number of the next request: above every one there is, so that numbers rise in issue order. -/
def State.nextReq (s : State) : Nat := Tbl.next s.store.reqs

/-- A group's request sent: its flight, on path TUPLE (R79), and the event that serves it. -/
def State.sendTuple (s : State) (gid sp : Nat) (g : Group) (p : Split) (r : TupReq) : State :=
  let id := s.nextReq
  let (dg, dq) := tupDests r.kind r.d r.st
  let f : Flight := { Flight.result sp p.mask RegWrites.none with
    id := g.nextFlight, kind := .reply, path := some 6, dg := dg, dq := dq, rel := r.kind == 0,
    acq := (r.kind == 1 || r.kind == 2) && r.nb }
  let s := s.modGroup gid fun g => { g with flights := g.flights ++ [f], nextFlight := g.nextFlight + 1 }
  let n := r.bound (dieOfCore g.place.core)
  (s.putReq id { r with flight := g.nextFlight, due := s.ac + n }).laterWithin n (serveEvent r.kind id)

/-- A thread's request sent: it stalls (R130). Control cores lie on no die of slices (R131); a TCANCEL that no slice is concerned
in is on no die either. -/
def State.sendTupleThread (s : State) (tid : Nat) (r : TupReq) : State :=
  let id := s.nextReq
  let n := if r.kind = 3 ∧ r.slices = [] then 40 else 120
  ((s.modThread tid fun t => { t with tupleWait := some id }).putReq id { r with due := s.ac + n }).laterWithin n
    (serveEvent r.kind id)

/-- A thread's tuple instruction: it stays at the instruction until its reply is written. -/
def tupThread (s : State) (tid : Nat) (t : Thread) (spec : Spec) (req : Except (Nat × Nat) TupReq) : State :=
  s.issueThread tid t spec <|
    match req with
    | .error e => .error e
    | .ok r => .ok (s.sendTupleThread tid r, some t.pc)

/-- The issue spec of a tuple instruction. -/
def tupSpec (kind : Nat) (m : Marks) (d st : Nat) (srcs : List Nat) : Spec :=
  let ds := tupDests kind d st
  { Spec.of m 2 false srcs (ds.1.map codeG ++ ds.2.map codeQ) with needS := true, rkind := 0 }

/-- TDEP, TCOPY and TTAKE: a blocking request parks its split at the instruction (R124, R129). -/
def tupIssue (kind : Nat) (x : TupI) (s : State) : Out :=
  let spec := tupSpec kind x.m x.d x.ctl.st (tupSrcs x)
  let writes := kind != 1
  s.issuer
    (fun gid sp g p =>
      let rd := s.rdSplit g sp p
      s.issueGuard gid sp g p spec p.mask <|
        match tupRequest kind x rd (s.regionSimt g.place.ctx (rd.g x.c).toNat writes) (.split gid sp) s with
        | .error (c, v) => s.issueFault gid sp g 0 c v
        | .ok r =>
          if kind ≠ 0 ∧ r.nb = false then (s.sendTuple gid sp g p r).stall gid sp (.tuple s.nextReq x.m)
          else (s.sendTuple gid sp g p r).advance gid sp x.m 2 false none none)
    (fun tid t => tupThread s tid t spec
      (tupRequest kind x (t.rd tid) (s.regionThread tid ((t.rd tid).g x.c).toNat writes) (.thread tid) s))

def execTdep (x : TupI) (s : State) : Out := tupIssue 0 x s
def execTcopy (x : TupI) (s : State) : Out := tupIssue 1 x s
def execTtake (x : TupI) (s : State) : Out := tupIssue 2 x s

/-- The slices where requests of an asker in a region are on their way or parked (R128). -/
def State.slicesOf (s : State) (region : Nat) (who : Asker) : List Nat :=
  ((s.store.reqs.filter fun x => x.2.region == region && x.2.who.same who && x.2.kind != 3).map fun x => x.2.slice).dedup

/-- A TCANCEL's request. -/
def cancelRequest (x : TcanI) (region : Except (Nat × Nat) Region) (who : Asker) (s : State) : Except (Nat × Nat) TupReq :=
  match region with
  | .error e => .error e
  | .ok rg =>
    .ok { who := who, flight := 0, kind := 3, part := rg.part, region := rg.pbase, base := rg.base, room := rg.room, slice := 0, tag := 0,
          fields := [], modes := [], his := [], nb := false, d := x.d, st := x.ctl.st, parked := false, parkedAt := 0,
          slices := s.slicesOf rg.pbase who, count := 0, due := 0, answer := none }

/-- TCANCEL (R128, R266). -/
def execTcancel (x : TcanI) (s : State) : Out :=
  let spec := tupSpec 3 x.m x.d x.ctl.st [codeG x.c]
  s.issuer
    (fun gid sp g p =>
      let rd := s.rdSplit g sp p
      s.issueGuard gid sp g p spec p.mask <|
        match cancelRequest x (s.regionSimt g.place.ctx (rd.g x.c).toNat false) (.split gid sp) s with
        | .error (c, v) => s.issueFault gid sp g 0 c v
        | .ok r => (s.sendTuple gid sp g p r).advance gid sp x.m 2 false none none)
    (fun tid t => tupThread s tid t spec
      (cancelRequest x (s.regionThread tid ((t.rd tid).g x.c).toNat false) (.thread tid) s))

end Sys2Proof.Machine
end

