-- ==== Sys2Proof/Machine/Ordered.lean ====
section
/-! DEFINITION. Ordered.lean: reads that an instruction makes as it issues (CPY, SPAWN, MMA, CTRWAIT), in their place among the
group's accesses (R53, R56, R60, R63), and CTRWAIT (R244, R78). -/

namespace Sys2Proof.Machine

/-- A state that an event leads to. -/
def outState (o : Out) (s : State) : State :=
  match o with
  | .next t => t
  | _ => s

/-- A read of some bytes that a group makes as an instruction issues, by lanes of a mask. -/
def readFlight (before : Nat) (lanes : W32) (acc : List Acc) : Flight :=
  { Flight.access 0 (.load 6) lanes 0 acc with id := before }

/-- The accesses that a read must follow, and those before them, performed first, in issue order: the split goes on issuing, so
the instruction does not wait (R25, R241).
[DESIGN CHOICE, log entry 109] -/
def State.readAfter (s : State) (gid before : Nat) (lanes : W32) (acc : List Acc) : State :=
  match s.group? gid with
  | none => s
  | some g =>
    if heldIn (readFlight before lanes acc) [] (g.flights.filter fun f => decide (f.id < before)) then
      (g.earlier before).foldl (fun s f => s.accessNow gid f.id) s
    else s

/-- Every earlier access of a group performed, before a read that follows them all (R63).
[DESIGN CHOICE, log entry 109] -/
def State.readAfterAll (s : State) (gid before : Nat) : State :=
  match s.group? gid with
  | none => s
  | some g => (g.earlier before).foldl (fun s f => s.accessNow gid f.id) s

/-- The bytes of records of a context, as accesses. -/
def State.recordAccs (s : State) (q : Nat) (rs : List (Nat × Nat)) : List Acc :=
  rs.filterMap fun (va, n) => match s.xlateCtx q va n .read false false with
    | .ok x => some ⟨0, none, va, x.pa, n, x.tol, 0, 0⟩
    | .error _ => none

/-- The records that a group's instruction reads as it issues: their errors are met (R415), and they are counted at their rows (R382). -/
def State.readRecords (s : State) (g : Group) (rs : List (Nat × Nat)) : State :=
  let acc := s.recordAccs g.place.ctx rs
  acc.foldl (fun s a => if inKick a.pa then s else s.rowTouch a.pa (s.vfOfGroup g)) (s.meetAll g acc)

/-- An instruction of SIMT groups only that reads memory as it issues: `prep` brings about what those reads follow. A context
that halts meanwhile issues nothing. -/
def simtAfter (s : State) (spec : Rd → Spec) (active : Rd → W32) (prep : Nat → Group → Split → Rd → State)
    (issue : State → Nat → Nat → Group → Split → Rd → State) : Out :=
  s.issuer
    (fun gid sp g p =>
      let rd := s.rdSplit g sp p
      s.issueGuard gid sp g p (spec rd) (active rd) <|
        let s' := prep gid g p rd
        match (s'.group? gid).bind fun g => (g.split? sp).map fun p => (g, p) with
        | none => s'.pop
        | some (g, p) => if s'.ctxRuns g.place.ctx then issue s' gid sp g p rd else s'.pop)
    (fun t _ => s.threadFault t 1 0)

/-! ### CTRWAIT -/

/-- CTRWAIT on a group (R244, R78): the counter is tested after the group's earlier accesses that it must follow; the split
parks unless the value satisfies the target.
[DEDUCED, log entry 111] -/
def State.ctrTest (s : State) (gid sp : Nat) (g : Group) (p : Split) (spec : Spec) (acc : List Acc) (x : CtrWaitI)
    (va target : Nat) : State :=
  let s := s.meetAll g acc
  match (s.integAcc acc).map (fun a => (⟨0x15, a.va, none⟩ : Flt)), s.poisonTrap acc with
  | some f, _ => s.issueFlt gid sp g 0 f
  | none, some f => s.issueFlt gid sp g 0 f
  | none, none =>
    let pa := ((acc.head?).map Acc.pa).getD 0
    let s := (s.rowTouch pa (s.vfOfGroup g)).toEngine pa
    if target ≤ s.peek pa 8 then s.issueSplit gid sp g p spec p.mask false (.ok (Done.plain s))
    else s.stall gid sp (.ctr pa va target x.scope x.m x.len)

/-- CTRWAIT (R244, R78): it parks the split, or stalls the thread, until the counter reaches the target. -/
def execCtrwait (x : CtrWaitI) (s : State) : Out :=
  let spec : Spec := { Spec.of x.m x.len false (x.a.uCodes ++ x.c.uCodes) [] with needS := true, rkind := 0 }
  s.issuer
    (fun gid sp g p =>
      let rd := s.rdSplit g sp p
      s.issueGuard gid sp g p spec p.mask <|
        let va := (rd.addrU x.a).toNat
        match s.accAt g.place.ctx 0 va 8 0 0 .readWrite true true with
        | .error e => s.issueFlt gid sp g 0 (Flt.plain e)
        | .ok acc =>
          let s' := s.readAfter gid g.nextFlight p.mask acc
          match (s'.group? gid).bind fun g => (g.split? sp).map fun p => (g, p) with
          | none => s'.pop
          | some (g, p) =>
            if s'.ctxRuns g.place.ctx then s'.ctrTest gid sp g p spec acc x va (rd.uni x.c).toNat else s'.pop)
    (fun tid t =>
      let rd := t.rd tid
      s.issueThread tid t spec <|
        let va := (rd.addrU x.a).toNat
        match s.threadXlat tid va 8 .readWrite true with
        | .error e => .error e
        | .ok xl =>
          match s.threadGate tid xl with
          | (s, true) => .ok (s, some t.pc)
          | (s, false) =>
            let s := (s.tlbFill t (s.partOfThread tid) va).meet t.eid 0xFFFF xl.pa 8
            if s.integ xl.pa 8 then .error (0x15, va)
            else
              match s.poisonedAt xl.pa 8 with
              | some _ => .error (0x12, va)
              | none =>
                let target := (rd.uni x.c).toNat
                let s := s.toEngine xl.pa
                if target ≤ s.peek xl.pa 8 then .ok (s, none)
                else
                  .ok (s.modThread tid fun t => { t with wait := some (xl.pa, target, t.pc + BitVec.ofNat 64 (4 * x.len)) },
                    some t.pc))

end Sys2Proof.Machine
end

