-- ==== Sys2Proof/Machine/Sync.lean ====
section
/-! DEFINITION. Sync.lean: barriers (R70 to R76, R242, R243) and counter wakes. -/

namespace Sys2Proof.Machine

/-! ### Barriers of a group (R19, R70) -/

/-- The extents of a launch, innermost first. -/
def Task.extents (t : Task) : List Nat := t.launch.levels.map Level.extent

/-- The index, within its launch, of the level-k unit that holds a group with these coordinates (R21). -/
def unitIndex (ext coords : List Nat) (top k : Nat) : Nat :=
  leafOf (coords.drop k) (ext.drop k) + top * (ext.drop k).prod

/-- A barrier's key: task, level (15 for the launch), unit, number. -/
def barKey (task k unit n : Nat) : Nat := ((task * 16 + k) * 2 ^ 32 + unit) * 64 + n

/-- The parts of a barrier's key. -/
def barTask (key : Nat) : Nat := key / 64 / 2 ^ 32 / 16
def barLevel (key : Nat) : Nat := key / 64 / 2 ^ 32 % 16
def barUnit (key : Nat) : Nat := key / 64 % 2 ^ 32

/-- The level that owns number `n` of a domain: the innermost level bound to it owns the first BARS numbers (R19). -/
def ownerLevel (domain : Nat) : Nat → List Level → Nat → Option (Nat × Nat)
  | _, [], _ => none
  | k, l :: r, n =>
    if l.domain ≠ domain then ownerLevel domain (k + 1) r n
    else if n < l.bars then some (k, n)
    else ownerLevel domain (k + 1) r (n - l.bars)

/-- The barrier that a code names for a group (R70); none where the group may not name it (OPND). -/
def State.barrierOf (s : State) (g : Group) (code : Nat) : Option Nat :=
  (s.taskOf g).bind fun t =>
    let n := code % 32
    let pl := g.place
    match code / 32 with
    | 0 => if n < t.launch.tbars then some (barKey pl.task 1 (unitIndex t.extents pl.coords pl.top 1) n) else none
    | 3 => if n < 4 then some (barKey pl.task 15 0 n) else none
    | lv => (ownerLevel (lv + 1) 1 t.launch.levels n).map fun (k, m) =>
        barKey pl.task k (unitIndex t.extents pl.coords pl.top k) m

/-- A barrier: at phase 0 with no arrival until something arrives. -/
def State.bar (s : State) (key : Nat) : Barrier := Tbl.getD s.simt.bars key ⟨0, [], []⟩

/-- Put a barrier. -/
def State.putBar (s : State) (key : Nat) (b : Barrier) : State :=
  s.modSimt fun x => { x with bars := Tbl.put x.bars key b }

/-- Whether a group is a member of a barrier: one of the owning unit's. -/
def memberOf (t : Task) (pl : Place) (key : Nat) : Bool :=
  pl.task == barTask key && (barLevel key == 15 || unitIndex t.extents pl.coords pl.top (barLevel key) == barUnit key)

/-- How many groups a barrier's unit has. -/
def memberCount (t : Task) (key : Nat) : Nat :=
  if barLevel key = 15 then t.trec.units * t.extents.prod else (t.extents.take (barLevel key)).prod

/-- Members that have left: exited or lost groups (R73). -/
def State.leftMembers (s : State) (t : Task) (key : Nat) : List Nat :=
  (s.simt.groups.filter fun p => p.2.exited && memberOf t p.2.place key).map Prod.fst

/-- Whether an arrival counted in a phase has not been performed (R74, R75). -/
def State.arrivalPending (s : State) (key phase : Nat) : Bool :=
  (s.simt.groups.any fun p => p.2.flights.any fun f => f.kind == .arrive key phase && !f.done)
    || s.simt.deferred.any fun p => p.2.bar == key && p.2.phase == phase

/-- Whether the current phase completes: every current member has an arrival in it, and each has been performed. -/
def State.phaseDone (s : State) (key : Nat) : Bool :=
  match Tbl.get? s.simt.tasks (barTask key) with
  | none => false
  | some t =>
    let b := s.bar key
    !b.cur.isEmpty && !s.arrivalPending key b.phase &&
      ((b.cur ++ (s.leftMembers t key).filter fun i => !b.cur.contains i).length == memberCount t key)

/-- Where an arrival of a group is counted (R71): the barrier after it and the phase; none two or more phases ahead. -/
def Barrier.arrive (b : Barrier) (gid : Nat) : Option (Barrier × Nat) :=
  if !b.cur.contains gid then some ({ b with cur := b.cur ++ [gid] }, b.phase)
  else if !b.nxt.contains gid then some ({ b with nxt := b.nxt ++ [gid] }, (b.phase + 1) % 2 ^ 32)
  else none

/-- Whether a phase has completed, by 32-bit serial numbers (R71).
[DESIGN CHOICE, log entry 27] -/
def Barrier.completed (b : Barrier) (phase : Nat) : Bool := !decide ((phase + 2 ^ 32 - b.phase) % 2 ^ 32 < 2 ^ 31)

/-- BARRIER_PHASE_COMPLETE (R71, R74): the next phase is current, and the waiters of the completed one are ready. -/
def execBarrierPhaseComplete (bar : Nat) (s : State) : Out :=
  if !s.phaseDone bar then .next s
  else
    let b := s.bar bar
    let s := s.putBar bar ⟨(b.phase + 1) % 2 ^ 32, b.nxt, []⟩
    let waiting := s.simt.groups.flatMap fun (gid, g) => g.splits.filterMap fun (sp, p) =>
      match p.park with
      | some (.barwait k ph m len) => if k = bar ∧ (s.bar bar).completed ph = true then some (gid, sp, some (m, len)) else none
      | some (.barsync k ph) => if k = bar ∧ (s.bar bar).completed ph = true then some (gid, sp, none) else none
      | _ => none
    let s := waiting.foldl (fun s (gid, sp, o) => match o with
      | some (m, len) => s.resumeAfter gid sp m len
      | none => s.wake gid sp) s
    .next (if s.phaseDone bar then s.soon (.barrierPhaseComplete bar) else s)

/-- The flight of an arrival (R74): its phase, if it has a destination. -/
def Flight.arrival (sp : Nat) (lanes : W32) (key phase : Nat) (d : Option Nat) : Flight :=
  { Flight.result sp lanes (match d with
      | some d => RegWrites.gOne d (BitVec.ofNat 64 phase)
      | none => RegWrites.none) with kind := .arrive key phase, rel := true }

/-- An arrival of a group: the state after it is counted and on its way, and its phase; OPND otherwise (R70, R71). -/
def State.arriveAt (s : State) (gid sp : Nat) (g : Group) (lanes : W32) (code : Nat) (d : Option Nat) :
    Except (Nat × Nat) (State × Nat × Nat) :=
  match s.barrierOf g code with
  | none => .error (2, 0)
  | some key =>
    match (s.bar key).arrive gid with
    | none => .error (2, 0)
    | some (b, phase) =>
      .ok ((s.putBar key b).launch gid (Flight.arrival sp lanes key phase d) .variableLatencyResult, key, phase)

/-- BARARR (R242): one arrival; g(d) receives its phase. -/
def execBararr (x : DCode) (s : State) : Out :=
  simtOnly s (fun _ => { Spec.of x.m 1 false [] [codeG x.d] with needS := true }) (fun rd => rd.mask)
    fun gid sp g p _ =>
      match s.arriveAt gid sp g p.mask x.code (some x.d) with
      | .error e => .error (Flt.plain e)
      | .ok (s, _, _) => .ok (Done.plain s)

/-- BARWAIT (R242): it parks the split until the phase has completed. -/
def execBarwait (x : ACode) (s : State) : Out :=
  simtStall s (fun _ => { Spec.of x.m x.len false x.a.uCodes [] with needS := true }) (fun rd => rd.mask)
    (fun _ _ g _ rd =>
      match s.barrierOf g x.code with
      | none => .error (2, 0)
      | some key =>
        let phase := (rd.uni x.a).toNat % 2 ^ 32
        .ok (if (s.bar key).completed phase then none else some (s, .barwait key phase x.m x.len)))
    fun _ _ _ _ _ => .ok (Done.plain s)

/-- BARSYNC (R242): one arrival, and a wait for its phase. -/
def execBarsync (x : CodeI) (s : State) : Out :=
  simtOnly s (fun _ => { Spec.of x.m 1 false [] [] with needS := true }) (fun rd => rd.mask)
    fun gid sp g p _ =>
      match s.arriveAt gid sp g p.mask x.code none with
      | .error e => .error (Flt.plain e)
      | .ok (s, key, phase) => .ok ⟨s, none, some (.barsync key phase), id⟩

/-- Put a deferred arrival. -/
def State.putDeferred (s : State) (id : Nat) (d : Deferred) : State :=
  s.modSimt fun x => { x with deferred := Tbl.put x.deferred id d }

/-- BARDEF (R75, R242): an arrival bound to the copies with DEFER since the last one; OPND beyond 32 pending. -/
def execBardef (x : DCode) (s : State) : Out :=
  simtOnly s (fun _ => { Spec.of x.m 1 false [] [codeG x.d] with needS := true }) (fun rd => rd.mask)
    fun gid sp g p _ =>
      if 32 ≤ (s.simt.deferred.filter fun e => e.2.gid == gid).length then .error ⟨2, 0, none⟩
      else
        match s.barrierOf g x.code with
        | none => .error ⟨2, 0, none⟩
        | some key =>
          match (s.bar key).arrive gid with
          | none => .error ⟨2, 0, none⟩
          | some (b, phase) =>
            let id := s.newId fun x => Tbl.next x.deferred
            let s := ((s.putBar key b).launch gid { Flight.result sp p.mask (RegWrites.gOne x.d (BitVec.ofNat 64 phase)) with
                kind := .reply } .variableLatencyResult).modGroup gid
              fun g => { g with
                deferCopies := []
                nextFlight := g.nextFlight + 1
                flights := g.flights ++ [{ Flight.result sp p.mask RegWrites.none with
                  id := g.nextFlight, kind := .arrive key phase, rel := true }] }
            let fl := ((s.group? gid).map fun g => g.nextFlight - 1).getD 0
            let copies := g.deferCopies.filter fun c => (Tbl.get? s.simt.copies c).isSome
            .ok (Done.plain ((s.putDeferred id ⟨gid, key, x.code, phase, copies, fl⟩).soon (.deferredArrival id)))

/-- Whether a copy that a deferred arrival is bound to still holds it: it has landed, and a shadowed one is published
(R75). -/
def State.copyHolds (s : State) (c : Nat) : Bool :=
  match Tbl.get? s.simt.copies c with
  | none => false
  | some k => !k.landed || (k.ctl.shadow && !k.published)

/-- DEFERRED_ARRIVAL (R75): performed when every bound copy has landed and, if shadowed, been published. -/
def execDeferredArrival (id : Nat) (s : State) : Out :=
  match Tbl.get? s.simt.deferred id with
  | none => .next s
  | some d =>
    if d.copies.any s.copyHolds then .next s
    else if ((s.group? d.gid).any fun g => (g.flight? d.flight).any g.heldFlight) then
      .next (s.at (s.ac + 1) (.deferredArrival id))
    else
      let s := s.modSimt fun x => { x with deferred := Tbl.del x.deferred id }
      .next ((s.finishFlight d.gid d.flight).soon (.barrierPhaseComplete d.bar))

/-- Deferred arrivals are looked at again (R75). -/
def State.recheckDeferred (s : State) : State := s.simt.deferred.foldl (fun s p => s.soon (.deferredArrival p.1)) s

/-- CTRWAIT_WAKE (R78): the waiter becomes ready. -/
def execCtrwaitWake (gid sp : Nat) (s : State) : Out :=
  match (s.group? gid).bind (·.split? sp) with
  | some p => match p.park with
    | some (.woken m len) => .next (s.resumeAfter gid sp m len)
    | _ => .next s
  | none => .next s

end Sys2Proof.Machine
end

