-- ==== Sys2Proof/Machine/Copy.lean ====
section
/-! DEFINITION. Copy.lean: asynchronous copies (R82 to R91, R246, R451, R63 to R65) and PUBLISH (R66, R67, R247). -/

namespace Sys2Proof.Machine

/-! ### Tensor layout records (R83) -/

/-- Bits of an element type code (Table 5 of ch04). -/
def typeBits (code : Nat) : Nat :=
  match code with
  | 0 => 4
  | 1 => 6
  | 2 => 8
  | 3 => 16
  | 4 => 32
  | _ => 64

/-- A layout record as its 64 bytes read. -/
def layoutOf (x : Nat) : Layout :=
  { base := cutBytes x 0 8, etype := cutBytes x 8 1, rank := cutBytes x 9 1,
    dims := (List.range 5).map fun d => cutBytes x (12 + 4 * d) 4,
    strs := (List.range 4).map fun d => cutBytes x (32 + 8 * d) 8 }

/-- Entry `d` of a list of numbers. -/
def nth (xs : List Nat) (d : Nat) : Nat := (xs[d]?).getD 0

/-- Whether a record is invalid (R83); `x` is its 64 bytes. -/
def layoutBad (x : Nat) : Bool :=
  let l := layoutOf x
  !decide (1 ≤ l.rank) || !decide (l.rank ≤ 5) || decide (5 < l.etype) || cutBytes x 10 2 != 0
    || (List.range 5).any (fun d => if d < l.rank then nth l.dims d == 0 || decide (2 ^ 24 < nth l.dims d) else nth l.dims d != 0)
    || (List.range 4).any (fun d => (nth l.strs d % 16 != 0) || (decide (l.rank ≤ d + 1) && nth l.strs d != 0))
    || l.base % 16 != 0

/-! ### Issue (R82, R451) -/

/-- A 64 B record of the leader read (R88): ALIGN, translation, then the failed tag or the poison that it meets. -/
def State.recordAt (s : State) (q va : Nat) : Except (Nat × Nat) Nat :=
  if va % 64 ≠ 0 then .error (9, va)
  else
    match s.xlateCtx q va 64 .read false false with
    | .error c => .error (c, va)
    | .ok x =>
      let span := if x.tol = 0 then 64 else 32
      if s.integ x.pa span then .error (0x15, va)
      else
        match s.poisonedAt x.pa span with
        | some o => .error (0x12, va + o)
        | none => .ok (s.readAt x 64)

/-- A counter of the leader (R82, R77): its physical address, if it is enabled. -/
def State.counterAt (s : State) (q : Nat) (en : Bool) (va : Nat) : Except (Nat × Nat) (Option Nat) :=
  if !en then .ok none
  else if va % 8 ≠ 0 then .error (9, va)
  else
    match s.xlateCtx q va 8 .readWrite true false with
    | .error c => .error (c, va)
    | .ok x => .ok (some x.pa)

/-- The first coordinate and the extent of dimension `d` (R84). -/
def coordStart (w : Nat) : Nat := w % 2 ^ 24
def coordExt (w : Nat) : Nat := w / 2 ^ 24 % 256 + 1

/-- Whether the coordinate words are an OPND fault (R84). -/
def coordsBad (l : Layout) (ws : List Nat) : Bool :=
  (List.range 5).any (fun d => decide (l.rank ≤ d) && nth ws d != 0)
    || (l.etype == 0 && (coordStart (nth ws 0) % 2 == 1 || coordExt (nth ws 0) % 2 == 1))
    || (l.etype == 1 && (coordStart (nth ws 0) % 4 != 0 || coordExt (nth ws 0) % 4 != 0))

/-- The element size of a reduction type in bits (Table 7 of ch04). -/
def redBitsOf (ety : Nat) : Nat := if ety = 2 ∨ ety = 3 then 64 else if ety = 9 ∨ ety = 10 then 16 else 32

/-- The bytes of a box (R85). -/
def boxBytes (l : Layout) (exts : List Nat) : Nat := exts.prod * typeBits l.etype / 8

/-- Elements of one 512 B unit (R90): whole groups of four for 6-bit elements. -/
def unitElems (etype : Nat) : Nat := 4096 / typeBits etype / 4 * 4

/-- What the leader's operands answer: the copy, or its fault (R451). -/
def State.copyOf (s : State) (gid : Nat) (g : Group) (p : Split) (rd : Rd) (x : CpyI) (l : Nat) :
    Except (Nat × Nat) Copy :=
  let q := g.place.ctx
  let c := x.ctl
  match s.recordAt q (rd.pair x.a l).toNat with
  | .error e => .error e
  | .ok r1 =>
    match if c.dir = 2 then s.recordAt q (rd.pair x.d l).toNat else .ok 0 with
    | .error e => .error e
    | .ok r2 =>
      match s.counterAt q c.srcen (rd.g c.srcctr).toNat with
      | .error e => .error e
      | .ok sc =>
        match s.counterAt q c.puben (rd.g c.pubctr).toNat with
        | .error e => .error e
        | .ok pc =>
          let l1 := layoutOf r1
          let l2 := layoutOf r2
          let ws := (List.range 5).map fun d => (rd.v (x.c + d) l).toNat
          let exts := ws.map coordExt
          let off := (rd.v x.d l).toNat
          if layoutBad r1 || (c.dir == 2 && layoutBad r2) then .error (0x0C, 0)
          else if coordsBad l1 ws || (c.dir == 2 && l1.etype != l2.etype)
              || (c.red != 0 && (c.shadow || typeBits l1.etype != redBitsOf c.ety)) then .error (2, 0)
          else if c.dir ≠ 2 ∧ off % 16 ≠ 0 then .error (9, off)
          else if c.dir ≠ 2 ∧ s.localLen g < off + boxBytes l1 exts then .error (0x0A, off)
          else
            let (ord, o) := p.point l
            .ok { gid := gid, ctx := q, team := g.place.team, core := g.place.core, ctl := c, glob := l1, dst := l2,
                  starts := ws.map coordStart, exts := exts, localOff := off, srcctr := sc, pubctr := pc,
                  srcVa := if c.srcen then (rd.g c.srcctr).toNat else 0, pubVa := if c.puben then (rd.g c.pubctr).toNat else 0, stale := false,
                  flight := g.nextFlight, ord := ord, off := o, unitAt := 0,
                  units := ceilDiv exts.prod (unitElems l1.etype), stopped := false, cause := none, srcDone := false, landed := false,
                  published := false, toPublish := [], old := [] }

/-- Put a copy. -/
def State.putCopy (s : State) (id : Nat) (c : Copy) : State :=
  s.modSimt fun x => { x with copies := Tbl.put x.copies id c }

/-- Change a copy. -/
def State.modCopy (s : State) (id : Nat) (f : Copy → Copy) : State :=
  s.modSimt fun x => { x with copies := Tbl.mod x.copies id f }

/-! ### Elements (R84, R85) -/

/-- The box coordinates of element `e`, dimension 0 innermost. -/
def boxCoords : List Nat → Nat → List Nat
  | [], _ => []
  | n :: r, e => e % n :: boxCoords r (e / n)

/-- Whether coordinates are in bounds of a record (R85): a dimension beyond the rank has coordinate 0 only.
[DESIGN CHOICE, log entry 112] -/
def Layout.inBounds (l : Layout) (cs : List Nat) : Bool :=
  (List.range 5).all fun d => decide (nth cs d < if d < l.rank then nth l.dims d else 1)

/-- The address in bits of an element of a record. -/
def Layout.bitAddr (l : Layout) (cs : List Nat) : Nat :=
  8 * (l.base + ((List.range 4).map fun d => nth cs (d + 1) * nth l.strs d).sum) + nth cs 0 * typeBits l.etype

/-- The global coordinates of a box element. -/
def Copy.globCoords (c : Copy) (e : Nat) : List Nat := List.zipWith (· + ·) c.starts (boxCoords c.exts e)

/-- The local address in bits of a box element: packed row-major from D. -/
def Copy.localBit (c : Copy) (e : Nat) : Nat := 8 * c.localOff + e * typeBits c.glob.etype

/-- The bytes that `n` bits from a bit address lie in. -/
def bitSpan (b n : Nat) : Nat := (b + n - 1) / 8 - b / 8 + 1

/-- `n` bits of a number of bytes, from bit `b` of the address, and the number with them replaced. -/
def bitsGet (x b n : Nat) : Nat := x / 2 ^ (b % 8) % 2 ^ n
def bitsPut (x b n y : Nat) : Nat := x - bitsGet x b n * 2 ^ (b % 8) + y % 2 ^ n * 2 ^ (b % 8)

/-- A read of the copy engine (R88): its translation's fault, MEMUE, INTEG, or the value. -/
def State.engRead (s : State) (q va n : Nat) (shadow : Bool) (need : Need) (atomic : Bool) : Except (Nat × Nat) (Nat × Xlat) :=
  match s.xlateCtx q va n need atomic shadow with
  | .error c => .error (c, va)
  | .ok x =>
    let span := if x.tol = 0 then n else n / 2
    if s.integ x.pa span then .error (0x15, va)
    else
      match s.poisonedAt x.pa span with
      | some o => .error (0x12, va + o)
      | none => .ok (s.readAt x n, x)

/-- Bytes read one by one, as one number. -/
def State.engBytes (s : State) (q : Nat) (shadow : Bool) (need : Need) : Nat → Nat → Except (Nat × Nat) Nat
  | _, 0 => .ok 0
  | va, n + 1 =>
    match s.engRead q va 1 shadow need false with
    | .error e => .error e
    | .ok (b, _) =>
      match s.engBytes q shadow need (va + 1) n with
      | .error e => .error e
      | .ok r => .ok (b + 256 * r)

/-- An element read from global memory. -/
def State.readElem (s : State) (q bit size : Nat) : Except (Nat × Nat) Nat :=
  if 8 ≤ size then
    match s.engRead q (bit / 8 % 2 ^ 64) (size / 8) false .read false with
    | .error e => .error e
    | .ok (x, _) => .ok x
  else
    match s.engBytes q false .read (bit / 8 % 2 ^ 64) (bitSpan bit size) with
    | .error e => .error e
    | .ok x => .ok (bitsGet x bit size)

/-- A write of the copy engine through a translation. -/
def State.engWrite (s : State) (q va n data : Nat) (shadow : Bool) : Except (Nat × Nat) State :=
  match s.xlateCtx q va n .write false shadow with
  | .error c => .error (c, va)
  | .ok x =>
    let (pa, bs) := storeBytes x.tol x.pa n data
    .ok (s.write pa bs)

/-- Bytes written one by one. -/
def State.engPut (s : State) (q : Nat) (shadow : Bool) : Nat → Nat → Nat → Except (Nat × Nat) State
  | _, 0, _ => .ok s
  | va, n + 1, x =>
    match s.engWrite q va 1 (x % 256) shadow with
    | .error e => .error e
    | .ok s => s.engPut q shadow (va + 1) n (x / 256)

/-- The bytes around an element smaller than a byte, on the side it is written to: their present values. -/
def State.rawBytes (s : State) (q : Nat) (shadow : Bool) : Nat → Nat → Nat
  | _, 0 => 0
  | va, n + 1 =>
    (match s.xlateCtx q va 1 .write false shadow with
      | .ok x => s.readAt x 1
      | .error _ => 0) + 256 * s.rawBytes q shadow (va + 1) n

/-- An element written to global memory. -/
def State.writeElem (s : State) (q bit size data : Nat) (shadow : Bool) : Except (Nat × Nat) State :=
  let va := bit / 8 % 2 ^ 64
  if 8 ≤ size then s.engWrite q va (size / 8) data shadow
  else
    let n := bitSpan bit size
    s.engPut q shadow va n (bitsPut (s.rawBytes q shadow va n) bit size data)

/-- A reduction of codes (R86): RED 1 add, 2 min, 3 max, 4 and, 5 or. -/
def reduceCode (red ety old x : Nat) : Nat :=
  let w := redBitsOf ety
  if 8 ≤ ety then
    let f := etyFloatFmt ety
    if red = 1 then (f.add 0 (f.read old) (f.read x)).code else (f.minMax (red == 3) old x).code
  else
    let sg := ety % 2 == 0
    match red with
    | 1 => (old + x) % 2 ^ w
    | 2 => if readInt sg w old ≤ readInt sg w x then old else x
    | 3 => if readInt sg w old ≤ readInt sg w x then x else old
    | 4 => old &&& x
    | _ => old ||| x

/-- One element reduced into global memory, as a relaxed atomic (R65, R86). -/
def State.reduceElem (s : State) (q bit size red ety data : Nat) : Except (Nat × Nat) State :=
  match s.engRead q (bit / 8 % 2 ^ 64) (size / 8) false .readWrite true with
  | .error e => .error e
  | .ok (old, x) => .ok ((s.toEngine x.pa).writeNat x.pa (size / 8) (reduceCode red ety old data))

/-- An element read from local store, and one written. -/
def State.localElem (s : State) (team bit size : Nat) : Nat :=
  bitsGet (s.localPeek team (bit / 8) (bitSpan bit size)) bit size
def State.localPutElem (s : State) (team bit size data : Nat) : State :=
  let n := bitSpan bit size
  s.localWrite team (bit / 8) (leBytes n (bitsPut (s.localPeek team (bit / 8) n) bit size data))

/-- Whether a shadowed write may go to an address (Table 4 of ch02): a range with a shadow base. -/
def State.shadowOk (s : State) (q va : Nat) : Bool := (s.rangeOf q va).any fun r => r.2.shen

/-! ### Elements that overlap (R65, R87) -/

/-- Whether elements of a box may overlap in a record: not where each row lies past the end of the smaller ones. -/
def Layout.mayOverlap (l : Layout) (exts : List Nat) : Bool :=
  let rows := ((List.range 4).filterMap fun d =>
    if nth exts (d + 1) ≤ 1 then none else some (8 * nth l.strs d, nth exts (d + 1))).mergeSort fun a b => decide (a.1 ≤ b.1)
  let r := rows.foldl (fun (acc : Bool × Nat) (x : Nat × Nat) => (acc.1 || decide (x.1 < acc.2), acc.2 + x.1 * (x.2 - 1)))
    (false, typeBits l.etype * nth exts 0)
  r.1 || decide (2 ^ 67 < r.2)

/-- Whether a bit of memory belongs to one of the elements given. -/
def Copy.covers (c : Copy) (l : Layout) (coords : Nat → List Nat) (es : List Nat) (bit : Nat) : Bool :=
  es.any fun e => l.inBounds (coords e) && decide ((bit + 2 ^ 67 - l.bitAddr (coords e) % 2 ^ 67) % 2 ^ 67 < typeBits l.etype)

/-- The value that an element has on the side it is written to. -/
def State.rawElem (s : State) (q bit size : Nat) (shadow : Bool) : Nat :=
  let va := bit / 8 % 2 ^ 64
  if 8 ≤ size then
    match s.xlateCtx q va (size / 8) .write false shadow with
    | .ok x => s.readAt x (size / 8)
    | .error _ => 0
  else bitsGet (s.rawBytes q shadow va (bitSpan bit size)) bit size

/-- What is written for an element whose bytes other elements of the copy cover: each such byte keeps the earlier element's
value or takes this one's, a free choice (R87).
[DESIGN CHOICE, log entry 46] -/
def State.overlaid (s : State) (q bit size data : Nat) (shadow : Bool) (covered : Nat → Bool) : Nat :=
  let old := s.rawElem q bit size shadow
  (List.range size).foldl (fun acc j =>
    let keep := covered (bit + j) && Config.freeBool (s.free + ((bit + j) / 8 - bit / 8))
    acc + (if (if keep then old else data) / 2 ^ j % 2 = 1 then 2 ^ j else 0)) 0

/-- The physical bytes of an element that is written. -/
def State.elemPas (s : State) (q bit size : Nat) : List Nat :=
  let va := bit / 8 % 2 ^ 64
  if 8 ≤ size then
    match s.xlateCtx q va (size / 8) .write false false with
    | .ok x => (List.range (if x.tol = 0 then size / 8 else size / 16)).map (x.pa + ·)
    | .error _ => []
  else (List.range (bitSpan bit size)).filterMap fun i =>
    match s.xlateCtx q ((va + i) % 2 ^ 64) 1 .write false false with
    | .ok x => some x.pa
    | .error _ => none

/-- The bytes that a copy has overwritten, at their values before it, kept in its record while it lasts. -/
def State.oldOf (s : State) (c : Copy) : List Host.Cell :=
  ((s.simt.copies.find? fun k => k.2.gid == c.gid && k.2.flight == c.flight).map fun k => k.2.old).getD []

/-- Keep the present values of bytes that a global-to-global copy is about to overwrite on the side it reads (R87).
[DESIGN CHOICE, log entry 46] -/
def State.keepOld (s : State) (c : Copy) (bit size : Nat) : State :=
  if c.ctl.dir ≠ 2 ∨ c.ctl.shadow = true then s
  else
    let had := s.oldOf c
    let more := ((s.elemPas c.ctx bit size).filter fun a => had.all fun x => x.1 != a).map fun a => (a, s.byte a)
    s.modSimt fun x => { x with copies := x.copies.map fun k =>
      if k.2.gid == c.gid && k.2.flight == c.flight then (k.1, { k.2 with old := had ++ more }) else k }

/-- An element written to the destination of a copy in global memory: `cover` says which bits elements of the copy that were
written before it cover. Under SHADOW, PROT for an address in no shadowed range comes before what its translation would meet.
[DESIGN CHOICE, log entry 118] -/
def State.copyOut (s : State) (c : Copy) (l : Layout) (cs : List Nat) (data : Nat) (cover : Nat → Bool) :
    Except (Nat × Nat) State :=
  let size := typeBits l.etype
  let bit := l.bitAddr cs
  if !l.inBounds cs then .ok s
  else if c.ctl.shadow && !s.shadowOk c.ctx (bit / 8 % 2 ^ 64) then .error (7, bit / 8 % 2 ^ 64)
  else
    let s := s.keepOld c bit size
    if c.ctl.red ≠ 0 then s.reduceElem c.ctx bit size c.ctl.red c.ctl.ety data
    else if l.mayOverlap c.exts then
      ({ s with free := s.free + 9 } : State).writeElem c.ctx bit size (s.overlaid c.ctx bit size data c.ctl.shadow cover) c.ctl.shadow
    else s.writeElem c.ctx bit size data c.ctl.shadow

/-- What a source element of a global-to-global copy is read from: memory as it is, or, a free choice, memory as it was before
the copy (R87).
[DESIGN CHOICE, log entry 46] -/
def State.sourceSide (s : State) (c : Copy) : State :=
  if s.freshBool then (s.oldOf c).foldl (fun s x => s.poke x.1 [x.2]) s else s

/-- A fault of a transfer (R88): cause, address, and the kind that its XLAT gives a fault-buffer entry (R48). -/
structure CopyFlt where
  cause : Nat
  value : Nat
  kind : Nat
  deriving DecidableEq, Repr

/-- A fault of a source read (kind 0), and of a destination write: kind 2 for a reduction, else 1 (R48). -/
def CopyFlt.source (e : Nat × Nat) : CopyFlt := ⟨e.1, e.2, 0⟩
def CopyFlt.dest (c : Copy) (e : Nat × Nat) : CopyFlt := ⟨e.1, e.2, if c.ctl.red = 0 then 1 else 2⟩

/-- Element `e` of a copy (Table 6 of ch04), after the elements `before`. -/
def State.copyElem (s : State) (c : Copy) (before : List Nat) (e : Nat) : Except CopyFlt State :=
  let size := typeBits c.glob.etype
  let cs := c.globCoords e
  match c.ctl.dir with
  | 0 =>
    if !c.glob.inBounds cs then .ok (s.localPutElem c.team (c.localBit e) size 0)
    else
      match s.readElem c.ctx (c.glob.bitAddr cs) size with
      | .error f => .error (.source f)
      | .ok x => .ok (s.localPutElem c.team (c.localBit e) size x)
  | 1 =>
    if !c.glob.inBounds cs then .ok s
    else if s.localPoisoned c.team (c.localBit e / 8) (bitSpan (c.localBit e) size) then .error (.source (0x12, 0))
    else (s.copyOut c c.glob cs (s.localElem c.team (c.localBit e) size) (c.covers c.glob c.globCoords before)).mapError
      (.dest c)
  | _ =>
    match if c.glob.inBounds cs then (s.sourceSide c).readElem c.ctx (c.glob.bitAddr cs) size else .ok 0 with
    | .error f => .error (.source f)
    | .ok x => (s.drawn.copyOut c c.dst (boxCoords c.exts e) x (c.covers c.dst (boxCoords c.exts) before)).mapError (.dest c)

/-- Elements in the order given, after the elements `before`. -/
def State.copyEach (s : State) (c : Copy) (before : List Nat) : List Nat → Except CopyFlt State
  | [] => .ok s
  | e :: r =>
    match s.copyElem c before e with
    | .error f => .error f
    | .ok s => s.copyEach c (e :: before) r

/-- A list in a free order: each element goes to a place that a free value gives.
[DESIGN CHOICE, log entry 45] -/
def shuffled : Nat → List Nat → List Nat
  | _, [] => []
  | n, e :: r =>
    let t := shuffled (n + 1) r
    let i := (Config.freeWord n).toNat % (t.length + 1)
    t.take i ++ e :: t.drop i

/-- The elements of a unit: in a free order where their order shows, in a reduction (R65) and where a source may meet what the
copy writes (R87).
[DESIGN CHOICE, log entry 45] -/
def State.copyElems (s : State) (c : Copy) (es : List Nat) : Except CopyFlt State :=
  let l := if c.ctl.dir = 2 then c.dst else c.glob
  let past := if l.mayOverlap c.exts then List.range (unitElems c.glob.etype * c.unitAt) else []
  if c.ctl.red = 0 ∧ c.ctl.dir ≠ 2 then s.copyEach c past es
  else ({ s with free := s.free + es.length } : State).copyEach c past (shuffled s.free es)

/-! ### The ranges a shadowed copy writes (R66) -/

/-- The rows of a box: coordinates of dimensions 1 to 4. -/
def rowCoords : List Nat → List (List Nat)
  | [] => [[]]
  | n :: r => (rowCoords r).flatMap fun cs => (List.range n).map fun i => i :: cs

/-- The ranges of a context that hold an in-bounds destination element of a copy. -/
def State.rangesWritten (s : State) (c : Copy) : List Nat :=
  if !c.ctl.shadow then []
  else
    let l := if c.ctl.dir = 2 then c.dst else c.glob
    let starts := if c.ctl.dir = 2 then [0, 0, 0, 0, 0] else c.starts
    let n0 := min (nth starts 0 + nth c.exts 0) (nth l.dims 0) - nth starts 0
    let rows := (rowCoords c.exts.tail).filterMap fun cs =>
      let gs := List.zipWith (· + ·) starts (0 :: cs)
      if n0 = 0 ∨ l.inBounds gs = false then none
      else some (l.bitAddr gs / 8, (l.bitAddr gs + n0 * typeBits l.etype + 7) / 8)
    ((s.ctx c.ctx).ranges.filter fun r => rows.any fun (lo, hi) => decide (lo < r.2.limit) && decide (r.2.base < hi)).map Prod.fst

/-- A number for a copy: that of the free value it draws, so that none is ever used again (R75, R76). -/
def State.newCopy (s : State) : Nat := s.free

/-- The issue spec of CPY (R246). -/
def specCpy (x : CpyI) (rd : Rd) : Spec :=
  let dw := x.ctl.dir == 2
  { Spec.of x.m 2 (rd.vBad true x.a || rd.vBad dw x.d || decide (rd.vregs < x.c + 5))
      (rd.modeCodes ++ (codesV true x.a ++ codesV dw x.d ++ [x.c, x.c + 1, x.c + 2, x.c + 3, x.c + 4]
        ++ (if x.ctl.srcen then [codeG x.ctl.srcctr] else []) ++ (if x.ctl.puben then [codeG x.ctl.pubctr] else []))) []
    with needS := true, rkind := 0 }

/-- The lane that leads, as a mask. -/
def Rd.leader (rd : Rd) : W32 :=
  match rd.lanes with
  | l :: _ => laneBit l
  | [] => 0#32

/-- The layout records that a CPY's leader reads. -/
def cpyRecords (x : CpyI) (rd : Rd) : List (Nat × Nat) :=
  match rd.lanes with
  | [] => []
  | l :: _ => ((rd.pair x.a l).toNat, 64) :: if x.ctl.dir = 2 then [((rd.pair x.d l).toNat, 64)] else []

/-- The kind of the access that an XLAT of a CPY names (R48): its records are read, its counters are atomics. -/
def State.cpyKind (s : State) (q : Nat) (x : CpyI) (rd : Rd) : Nat :=
  if (cpyRecords x rd).any fun r => match s.recordAt q r.1 with
    | .ok _ => false
    | .error _ => true
  then 0 else 2

/-- A copy on its way (R79, R246). -/
def State.sendCopy (s : State) (gid sp l : Nat) (x : CpyI) (c : Copy) : State :=
  let id := s.newCopy
  let s := (s.putCopy id { c with toPublish := s.rangesWritten c }).modGroup gid fun g => { g with
    nextFlight := g.nextFlight + 1
    flights := g.flights ++ [{ Flight.access sp (.copy id) (laneBit l) 5 [] with id := g.nextFlight }]
    deferCopies := if x.ctl.defer then g.deferCopies ++ [id] else g.deferCopies }
  s.later (.copyUnitTransfer id)

/-- CPY (R246): the leader lane issues one copy; its records are read after every earlier access of its
group (R63). -/
def execCpy (x : CpyI) (s : State) : Out :=
  simtAfter s (specCpy x) Rd.leader
    (fun gid g _ rd => (s.readAfterAll gid g.nextFlight).readRecords g (cpyRecords x rd))
    fun s gid sp g p rd => s.issueSplit gid sp g p { specCpy x rd with rkind := s.cpyKind g.place.ctx x rd } rd.leader false <|
      match rd.lanes with
      | [] => .ok (Done.plain s)
      | l :: _ =>
        match s.copyOf gid g p rd x l with
        | .error (c, v) => .error ⟨c, v, some l⟩
        | .ok c => .ok (Done.plain (s.sendCopy gid sp l x c))

/-! ### The copy engine (R63, R88 to R91) -/

/-- Whether a copy's first access must wait: for the group's accesses before the CPY (R63), or for a PUBLISH of a range that
it writes which reached the range table before the copy was accepted (R66). -/
def State.copyWaits (s : State) (id : Nat) (c : Copy) : Bool :=
  (c.unitAt == 0 && (s.group? c.gid).any fun g =>
    (g.flights.takeWhile fun f => f.id != c.flight).any fun f => !f.done && f.isAccess)
  || s.simt.publishes.any fun p => p.2.reached && p.2.ctx == c.ctx && c.toPublish.contains p.2.range && !p.2.await.contains id
    && !p.2.covers.contains id

/-- A transfer fault halts the context with the CPY's point, and its stop record carries the cause (R88, R353); an XLAT under
REPLAY pauses the copy (R47). -/
def State.copyFault (s : State) (id : Nat) (c : Copy) (f : CopyFlt) : State :=
  let s := s.modCopy id fun c => { c with stopped := true }
  let die := dieOfCore c.core
  let buf := Tbl.getD s.simt.fb die []
  let pl := ((s.group? c.gid).map Group.place).getD ⟨c.ctx, 0, c.team, 0, c.core, 0, 0, 0, []⟩
  let halt (s : State) : State := (s.modCopy id fun c => { c with cause := some f.cause }).raiseHalt c.ctx
    ⟨f.cause, 1, c.core, pl.sched, pl.slot, some c.gid, c.ord, c.off, f.value, s.ac, []⟩
  if f.cause = 6 ∧ bitOf (s.policyOf (s.ctx c.ctx).eid) 2 = true then
    if 1024 ≤ buf.length then
      halt (s.modSimt fun x => { x with fbOverflow := if x.fbOverflow.contains die then x.fbOverflow else die :: x.fbOverflow })
    else
      let i := Tbl.free buf 1024 0
      (s.modSimt fun x => { x with fb := Tbl.put x.fb die (Tbl.put buf i ⟨f.value, f.kind, c.ctx,
        (s.ctx c.ctx).eid, c.gid, 0, c.core, 16 * pl.sched + pl.slot, some id, none⟩) }).postDie die (Config.fillVector die)
  else halt s

/-- The physical lines of a unit's elements in global memory. -/
def State.copyLines (s : State) (c : Copy) (es : List Nat) : List Nat :=
  (es.flatMap fun e =>
    let g := if c.glob.inBounds (c.globCoords e) then [c.glob.bitAddr (c.globCoords e)] else []
    let d := if c.ctl.dir = 2 ∧ c.dst.inBounds (boxCoords c.exts e) = true then [c.dst.bitAddr (boxCoords c.exts e)] else []
    (g ++ d).filterMap fun b =>
      match s.xlateCtx c.ctx (b / 8 % 2 ^ 64) 1 (if c.ctl.dir = 0 then .read else .write) false c.ctl.shadow with
      | .ok x => some (x.pa / 64)
      | .error _ => none).dedup

/-- The elements of a copy's next unit (R90). -/
def Copy.unitNow (c : Copy) : List Nat :=
  let k := unitElems c.glob.etype
  ((List.range k).map fun i => k * c.unitAt + i).filter fun e => decide (e < c.exts.prod)

/-- The lines that a unit's elements are read from in global memory: the source's, and a reduction's destination. -/
def State.copyReads (s : State) (c : Copy) (es : List Nat) : List Nat :=
  (es.flatMap fun e =>
    let g := if c.ctl.dir ≠ 1 ∧ c.glob.inBounds (c.globCoords e) = true then [(c.glob.bitAddr (c.globCoords e), Need.read)] else []
    let d := if c.ctl.red = 0 then [] else if c.ctl.dir = 2 then
        (if c.dst.inBounds (boxCoords c.exts e) then [(c.dst.bitAddr (boxCoords c.exts e), Need.readWrite)] else [])
      else if c.glob.inBounds (c.globCoords e) then [(c.glob.bitAddr (c.globCoords e), Need.readWrite)] else []
    (g ++ d).filterMap fun b =>
      match s.xlateCtx c.ctx (b.1 / 8 % 2 ^ 64) 1 b.2 (b.2 == .readWrite) false with
      | .ok x => some (x.pa / 64)
      | .error _ => none).dedup

/-- The errors that a unit's reads meet (R415): of local store and of lines. -/
def State.meetUnit (s : State) (c : Copy) : State :=
  let eid := (s.ctx c.ctx).eid
  let s := if s.simt.localErrs = [] ∨ c.ctl.dir ≠ 1 then s
    else c.unitNow.foldl (fun s e =>
      s.meetLocal c.team (c.localBit e / 8) (bitSpan (c.localBit e) (typeBits c.glob.etype))) s
  if s.store.latent = [] then s else (s.copyReads c c.unitNow).foldl (fun s l => s.meetLine eid c.core l) s

/-- A line that a unit's elements cover between them is no longer poisoned (R416). -/
def State.clearUnit (s : State) (c : Copy) : State :=
  if (s.store.poison = [] ∧ s.store.latent = []) ∨ c.ctl.dir = 0 ∨ c.ctl.shadow = true then s
  else
    let l := if c.ctl.dir = 2 then c.dst else c.glob
    let coords (e : Nat) : List Nat := if c.ctl.dir = 2 then boxCoords c.exts e else c.globCoords e
    let pas := (c.unitNow.filter fun e => l.inBounds (coords e)).flatMap fun e => s.elemPas c.ctx (l.bitAddr (coords e)) (typeBits l.etype)
    ((pas.map fun a => a / 64).dedup.filter fun n => (List.range 64).all fun i => pas.contains (64 * n + i)).foldl
      (fun s n => s.clearPoison (64 * n) 64) s

/-- Requests for lines, for the gates of their rows (R382). -/
def lineAccs (lines : List Nat) : List Acc := lines.map fun l => ⟨0, none, 0, 64 * l, 64, 0, 0, 0⟩

/-- Whether the copy engine of a copy's cluster has moved a unit in this ac (R90). -/
def State.engineBusy (s : State) (c : Copy) : Bool := Tbl.get? s.simt.engines (c.core / 8) == some s.ac

/-- The copy engine of a copy's cluster moves a unit in this ac. -/
def State.useEngine (s : State) (c : Copy) : State :=
  s.modSimt fun x => { x with engines := Tbl.put x.engines (c.core / 8) s.ac }

/-- COPY_UNIT_TRANSFER (R90): one 512 B unit, at most one an engine and ac. Once the halt line has risen the copy stops at its
next unit (R350, R351).
[DEDUCED, log entry 44] -/
def execCopyUnitTransfer (copy : Nat) (s : State) : Out :=
  match Tbl.get? s.simt.copies copy with
  | none => .next s
  | some c =>
    if c.stopped || c.srcDone then .next s
    else if (s.ctx c.ctx).halt.isSome then .next (s.modCopy copy fun c => { c with stopped := true })
    else if s.copyWaits copy c || (s.ctx c.ctx).frozen || s.engineBusy c then .next (s.at (s.ac + 1) (.copyUnitTransfer copy))
    else
      let (s, held) := s.rowsPass ((s.group? c.gid).map s.vfOfGroup |>.getD 256) (.copyUnitTransfer copy)
        (lineAccs (s.copyLines c c.unitNow))
      if held then .next s else
      let s := (s.useEngine c).meetUnit c
      match s.copyElems c c.unitNow with
      | .error f => .next (s.copyFault copy c f)
      | .ok s =>
        let s := (s.clearUnit c).modCopy copy fun c => { c with unitAt := c.unitAt + 1 }
        .next (if c.unitAt + 1 < c.units then s.at (s.ac + 1) (.copyUnitTransfer copy) else s.soon (.sourceReleased copy))

/-- What comes next for a copy. -/
def Copy.nextEvent (c : Copy) (id : Nat) : Event :=
  if c.landed then .published id else if c.srcDone then .landed id else .copyUnitTransfer id

/-- A counter of a copy, if it has one, gains one (R89): at its snapshot, or at its address translated again. -/
def State.copyCount (s : State) (c : Copy) (pa : Option Nat) (va : Nat) : Except CopyFlt State :=
  match pa with
  | none => .ok s
  | some a =>
    if !c.stale then .ok (s.addCounter a 1)
    else
      match s.xlateCtx c.ctx va 8 .readWrite true false with
      | .error k => .error ⟨k, va, 2⟩
      | .ok x => .ok (s.addCounter x.pa 1)

/-- SOURCE_RELEASED (R64, R89): every source read is performed; SRCCTR gains one. -/
def execSourceReleased (copy : Nat) (s : State) : Out :=
  match Tbl.get? s.simt.copies copy with
  | none => .next s
  | some c =>
    if c.srcDone || decide (c.unitAt < c.units) then .next s
    else
      match (s.modCopy copy fun c => { c with srcDone := true }).copyCount c c.srcctr c.srcVa with
      | .error f => .next (s.copyFault copy c f)
      | .ok s => .next (s.later (.landed copy))

/-- A copy that has landed and been published is no longer kept. -/
def State.dropCopy (s : State) (id : Nat) : State :=
  match Tbl.get? s.simt.copies id with
  | some c => if c.landed && c.published then s.modSimt fun x => { x with copies := Tbl.del x.copies id } else s
  | none => s

/-- LANDED (R64): every destination write is performed; the COPY counter may fall, and waits on the copy are looked at. -/
def execLanded (copy : Nat) (s : State) : Out :=
  match Tbl.get? s.simt.copies copy with
  | none => .next s
  | some c =>
    if c.landed || !c.srcDone then .next s
    else
      let s := (s.modCopy copy fun c => { c with landed := true }).finishFlight c.gid c.flight
      let s := s.simt.publishes.foldl (fun s p => if p.2.await.contains copy then s.soon (.publishPoint p.1) else s) s
      let s := if c.toPublish = [] then s.soon (.published copy) else s
      .next (s.recheckDeferred.soon (.teamResourceFree c.team))

/-- PUBLISHED (R64, R89): PUBCTR gains one. -/
def execPublished (copy : Nat) (s : State) : Out :=
  match Tbl.get? s.simt.copies copy with
  | none => .next s
  | some c =>
    if c.published || !c.landed || c.toPublish != [] then .next s
    else
      match (s.modCopy copy fun c => { c with published := true }).copyCount c c.pubctr c.pubVa with
      | .error f => .next (s.copyFault copy c f)
      | .ok s => .next (s.recheckDeferred.dropCopy copy)

end Sys2Proof.Machine
end

