-- ==== Sys2Proof/Machine/Tiles.lean ====
section
/-! DEFINITION. Tiles.lean: what a matrix pass computes (R92 to R102, R107 to R111): tiles, scales and tables read through
the pages pinned at acceptance, the float and integer sums, and the counting banks. -/

namespace Sys2Proof

/-- n and K of a control word (R92), and the K elements per row of A that are stored (R101). -/
def MmaCtl.n (c : MmaCtl) : Nat := 8 * 2 ^ c.ncode
def MmaCtl.k (c : MmaCtl) : Nat := 32 * c.kb
def MmaCtl.kEff (c : MmaCtl) : Nat := if c.sparse then c.k / 2 else c.k

end Sys2Proof

namespace Sys2Proof.Machine

/-! ### Formats (R93, R97) -/

/-- Bits of an element of a tile in memory: a KF19 element has a 32-bit container (R93). -/
def tileBits (fmt : Nat) : Nat :=
  match fmt with
  | 0 => 32
  | 1 => 32
  | 2 => 16
  | 3 => 16
  | 6 => 6
  | 7 => 6
  | 10 => 6
  | 8 => 4
  | 13 => 4
  | _ => 8

/-- The set F8/6 of Table 2 of ch05. -/
def isF86 (fmt : Nat) : Bool := [4, 5, 6, 7, 9, 10].contains fmt

/-- A row of Table 2 of ch05: FAC, the SCM values permitted, SPARSE, SIDE, the SCM values under which PERSIST is permitted,
and κ as a fraction. -/
structure PairRule where
  fac : Nat
  scms : List Nat
  sparse : Bool
  side : Bool
  persist : List Nat
  kn : Nat
  kd : Nat
  deriving DecidableEq, Repr

/-- The legal pairs of formats (R97). -/
def pairRule (fa fb : Nat) : Option PairRule :=
  if fa = 0 ∧ fb = 0 then some ⟨0, [0], false, true, [], 1, 4⟩
  else if fa = 1 ∧ fb = 1 then some ⟨0, [0], false, true, [], 1, 1⟩
  else if (fa = 2 ∨ fa = 3) ∧ fa = fb then some ⟨0, [0], true, true, [], 2, 1⟩
  else if isF86 fa && isF86 fb then
    some ⟨0, if [9, 10].contains fa || [9, 10].contains fb then [0, 2] else [0, 1, 2], true, true, [], 4, 1⟩
  else if (fa = 11 ∨ fa = 12) ∧ (fb = 11 ∨ fb = 12) then some ⟨1, [0], true, false, [], 4, 1⟩
  else if fa = 8 ∧ fb = 8 then some ⟨0, [0, 1, 2], false, false, [0, 2], 32, 1⟩
  else if fa = 13 ∧ fb = 13 then some ⟨1, [0], false, false, [0], 32, 1⟩
  else none

/-- The counting datapath's formats. -/
def isCounting (fmt : Nat) : Bool := fmt == 8 || fmt == 13

/-- A counting operation that uses a live slot: INT4, or E2M1 without MX scales (R110). -/
def usesSlot (mode : W32) : Bool := isCounting (modeFa mode) && modeScm mode != 1

/-- The ac of one pass (R106). -/
def passCost (c : MmaCtl) (mode : W32) : Nat :=
  match pairRule (modeFa mode) (modeFb mode) with
  | some r => 12 + ceilDiv (c.kEff * r.kd) r.kn
  | none => 12

/-- The passes of one multiplication (R99): 32 columns each on the counting path. -/
def passesOf (c : MmaCtl) (mode : W32) : Nat := if isCounting (modeFa mode) then ceilDiv c.n 32 else 1

/-! ### Pinned memory (R103) -/

/-- Pages pinned at acceptance: virtual page, physical address of its first byte, tolerant width. -/
abbrev Pins := List (Nat × Nat × Nat)

/-- Pin the lines of `len` bytes at an address, page by page, for at most `fuel` pages (R103). -/
def State.pinRange (s : State) (q : Nat) : Nat → Pins → Nat → Nat → Except (Nat × Nat) Pins
  | 0, pins, _, _ => .ok pins
  | fuel + 1, pins, va, len =>
    if len = 0 then .ok pins
    else
      let k := min len (4096 - va % 4096)
      let rest (pins : Pins) := s.pinRange q fuel pins ((va + k) % 2 ^ 64) (len - k)
      if canonical va && (Tbl.get? pins (vpnOf va)).isSome then rest pins
      else
        let lo := va / 64 * 64
        match s.xlateCtx q lo (alignUp 64 (va + k) - lo) .read false false with
        | .error c => .error (c, va)
        | .ok x => rest (pins ++ [(vpnOf va, x.pa - (if x.tol = 0 then lo % 4096 else lo % 4096 / 2), x.tol)])

/-- Pin several ranges, in order. -/
def State.pinRanges (s : State) (q : Nat) : Pins → List (Nat × Nat) → Except (Nat × Nat) Pins
  | pins, [] => .ok pins
  | pins, (va, len) :: r =>
    match s.pinRange q (len / 4096 + 2) pins (va % 2 ^ 64) len with
    | .error e => .error e
    | .ok pins => s.pinRanges q pins r

/-- The physical byte of a pinned virtual byte, and the tolerant width. -/
def Pins.find (pins : Pins) (va : Nat) : Nat × Nat :=
  match Tbl.get? pins (vpnOf va) with
  | some (pa, tol) => (if tol = 0 then pa + va % 4096 else pa + va % 4096 / tol * (tol / 2), tol)
  | none => (0, 0)

/-- A byte read through a pinned page; tolerant elements are expanded (R41). -/
def State.pinByte (s : State) (pins : Pins) (va : Nat) : Nat :=
  let (pa, tol) := pins.find va
  if tol = 0 then (s.byte pa).toNat
  else fieldOf (tolExpand (8 * tol) (s.peek pa (tol / 2))) (8 * (va % tol)) 8

/-- Bytes read through pinned pages, as one number. -/
def State.pinNat (s : State) (pins : Pins) (va : Nat) : Nat → Nat
  | 0 => 0
  | n + 1 => s.pinByte pins (va % 2 ^ 64) + 256 * s.pinNat pins (va + 1) n

/-- `size` bits at a bit address. -/
def State.pinBits (s : State) (pins : Pins) (bit size : Nat) : Nat :=
  s.pinNat pins (bit / 8) ((bit + size - 1) / 8 - bit / 8 + 1) / 2 ^ (bit % 8) % 2 ^ size

/-- The error that a read of bytes meets: INTEG, or MEMUE of a poisoned line (R116). -/
def State.pinError (s : State) (pins : Pins) (va n : Nat) : Nat :=
  if s.store.poison = [] ∧ s.store.latent = [] then 0
  else
    ((List.range n).findSome? fun i =>
      let pa := (pins.find ((va + i) % 2 ^ 64)).1
      if s.integ pa 1 then some 0x15
      else if (s.poisonedAt pa 1).isSome || latentHard (Tbl.fget 0 s.store.latent (pa / 64)) then some 0x12 else none).getD 0

/-! ### Tiles (R93) -/

/-- The bit address of A's element (row, k) and of B's (k, column). -/
def aBit (c : MmaCtl) (fmt : Nat) (r : TileRec) (row k : Nat) : Nat :=
  if c.ta then 8 * (r.base + k * r.stride) + row * tileBits fmt else 8 * (r.base + row * r.stride) + k * tileBits fmt
def bBit (c : MmaCtl) (fmt : Nat) (r : TileRec) (k col : Nat) : Nat :=
  if c.tb then 8 * (r.base + col * r.stride) + k * tileBits fmt else 8 * (r.base + k * r.stride) + col * tileBits fmt

/-- The byte ranges of a tile of A with `m` rows, and of a tile of B (R93). -/
def aRanges (c : MmaCtl) (fmt : Nat) (r : TileRec) (m : Nat) : List (Nat × Nat) :=
  if c.ta then (List.range c.kEff).map fun k => (r.base + k * r.stride, ceilDiv (m * tileBits fmt) 8)
  else (List.range m).map fun i => (r.base + i * r.stride, ceilDiv (c.kEff * tileBits fmt) 8)
def bRanges (c : MmaCtl) (fmt : Nat) (r : TileRec) : List (Nat × Nat) :=
  if c.tb then (List.range c.n).map fun j => (r.base + j * r.stride, ceilDiv (c.k * tileBits fmt) 8)
  else (List.range c.k).map fun k => (r.base + k * r.stride, ceilDiv (c.n * tileBits fmt) 8)

/-- The byte ranges of scales: one per row or column under SCM 1, one word under SCM 2 (R95). -/
def scaleRanges (scm : Nat) (c : MmaCtl) (r : TileRec) (count : Nat) : List (Nat × Nat) :=
  if scm = 1 then (List.range count).map fun i => (r.sbase + i * r.sstride, c.kb)
  else if scm = 2 then [(r.sbase, 4)] else []

/-- A code as a value: KF19 takes bits [18:0] of its container (R93). -/
def matVal (fmt code : Nat) : FVal :=
  match numFmt fmt with
  | some f => f.read code
  | none => .fin false 0 0

/-- An integer operand's value. -/
def matInt (fmt code : Nat) : Int :=
  match numFmt fmt with
  | some (.int sg w) => readInt sg w code
  | _ => 0

/-- The value of an E8M0 scale (R95). -/
def e8m0 (e : Nat) : FVal := if e = 255 then .nan false else .fin false 1 ((e : Int) - 127)

/-- The scale of a row or column for an element of K (R95), under SCM 1 or 2. -/
def State.scaleOf (s : State) (pins : Pins) (scm : Nat) (r : TileRec) (i k : Nat) : FVal :=
  if scm = 1 then e8m0 (s.pinByte pins ((r.sbase + i * r.sstride + k / 32) % 2 ^ 64))
  else if scm = 2 then fmtFP32.read (s.pinNat pins r.sbase 4)
  else .fin false 1 0

/-- The FP32 code of a tensor scale: 1.0 under SCM 0 (R97). -/
def State.tensorScale (s : State) (pins : Pins) (scm : Nat) (r : TileRec) : Nat :=
  if scm = 2 then s.pinNat pins r.sbase 4 else 0x3F800000

/-! ### Placement (R101, R102) -/

/-- The instruction's row that a unit's row stands for is `irow + i`; its stored elements as (position in K, index). Elements of
B at positions that no kept element names take no part (R101).
[DESIGN CHOICE, log entry 113] -/
def State.placement (s : State) (team : Nat) (o : MatOp) (u : MatUnit) (i : Nat) : List (Nat × Nat) :=
  if !o.ctl.sparse then (List.range o.ctl.k).map fun k => (k, k)
  else
    (List.range (o.ctl.k / 4)).flatMap fun g =>
      let nib := fieldOf (s.localPeek team (o.metaOff + (u.irow + i) * (o.ctl.k / 8) + g / 2) 1) (4 * (g % 2)) 4
      [(4 * g + nib % 4, 2 * g), (4 * g + nib / 4, 2 * g + 1)]

/-- The side-list entries of a row: (k, FP32 code) (R102). -/
def State.sideTerms (s : State) (team : Nat) (o : MatOp) (u : MatUnit) (i : Nat) : List (Nat × Nat) :=
  if !o.ctl.side then []
  else
    (List.range (s.localPeek team o.sideOff 4)).filterMap fun e =>
      let x := s.localPeek team (o.sideOff + 8 + 8 * e) 8
      if fieldOf x 0 8 = u.irow + i ∧ fieldOf x 16 16 < o.ctl.k then some (fieldOf x 16 16, fieldOf x 32 32) else none

/-! ### Sums -/

/-- The exact product of factors; none for an infinity times a zero. -/
def prodOf : List FVal → Option FVal
  | [] => some (.fin false 1 0)
  | a :: r => match prodOf r with
    | none => none
    | some b => a.mul b

/-- One chunk of the float path (R98): D := round_RNE_FP32(D + Σ products), and whether it overflowed. A sum that is exactly
zero takes the common sign of its terms, and is +0 where they differ.
[DESIGN CHOICE, log entry 114] -/
def floatChunk (d : Nat) (terms : List (List FVal)) : Nat × Bool :=
  if terms = [] then (d, false)
  else
    let ps := terms.map prodOf
    let v := fmtFP32.read d
    if terms.any (fun t => t.any FVal.isNan) || v.isNan || ps.any Option.isNone then (0x7FC00000, false)
    else
      let r := fmtFP32.sumTerms 0 (ps.filterMap id ++ [v])
      (r.code, r.flags &&& flagOF != 0#5)

/-- An integer added to an INT32 word, wrapped or saturated (R98), and whether it clamped. -/
def addInt32 (sat : Bool) (d : Nat) (x : Int) : Nat × Bool :=
  let (c, fl) := fit sat true 32 (readInt true 32 d + x)
  (c, fl != 0#5)

/-- The elements of a chunk size (R98). -/
def chunkOf (fa fb : Nat) : Nat := if fa = 0 ∧ fb = 0 then 4 else 16

/-- Output (i, j) of a unit on the float or integer path, from its word before (R98). -/
def State.sumOut (s : State) (team : Nat) (o : MatOp) (u : MatUnit) (pins : Pins) (d0 i j : Nat) : Nat × Bool :=
  let fa := modeFa o.mode
  let fb := modeFb o.mode
  let scm := modeScm o.mode
  let ch := chunkOf fa fb
  let place := s.placement team o u i
  let side := s.sideTerms team o u i
  let a (x : Nat) : Nat := s.pinBits pins (aBit o.ctl fa u.a (u.arow + i) x) (tileBits fa)
  let b (k : Nat) : Nat := s.pinBits pins (bBit o.ctl fb u.b k j) (tileBits fb)
  (List.range (ceilDiv o.ctl.k ch)).foldl
    (fun acc c =>
      let inC (k : Nat) : Bool := k / ch == c
      let ks := place.filter fun p => inC p.1
      let r :=
        if modeFac o.mode = 1 then
          addInt32 (modeSat o.mode) acc.1 ((ks.map fun p => matInt fa (a p.2) * matInt fb (b p.1)).sum)
        else
          floatChunk acc.1
            ((ks.map fun p => [matVal fa (a p.2), matVal fb (b p.1), s.scaleOf pins scm u.a (u.arow + i) p.1,
                s.scaleOf pins scm u.b j p.1])
              ++ (side.filter fun p => inC p.1).map fun p => [fmtFP32.read p.2, matVal fb (b p.1)])
      (r.1, acc.2 || r.2))
    (d0, false)

/-! ### Counting (R107 to R111) -/

/-- The magnitudes of the product classes (Table 3 of ch05). -/
def classesE2M1 : List Nat := [1, 2, 3, 4, 6, 8, 9, 12, 16, 18, 24, 32, 36, 48, 64, 72, 96, 144]
def classesInt4 : List Nat :=
  [1, 2, 3, 4, 5, 6, 7, 8, 9, 10, 12, 14, 15, 16, 18, 20, 21, 24, 25, 28, 30, 32, 35, 36, 40, 42, 48, 49, 56, 64]

/-- The classes of a format. -/
def classesOf (int4 : Bool) : List Nat := if int4 then classesInt4 else classesE2M1

/-- A code of a counting format as an integer: twice the value for E2M1. -/
def countVal (int4 : Bool) (code : Nat) : Int :=
  if int4 then readInt true 4 code
  else
    let m : Int := match code % 8 with
      | 0 => 0
      | 1 => 1
      | 2 => 2
      | 3 => 3
      | 4 => 4
      | 5 => 6
      | 6 => 8
      | _ => 12
    if code / 8 % 2 = 1 then -m else m

/-- The class of a non-zero product, and its sign (R107). -/
def classOf (int4 : Bool) (p : Int) : Option (Nat × Int) :=
  if p = 0 then none
  else ((classesOf int4).findIdx? fun m => m == p.natAbs).map fun k => (k, if p < 0 then -1 else 1)

/-- S of a bank (R108): Σ count × m. -/
def bankSum (int4 : Bool) (count : Nat → Int) : Int := ((classesOf int4).zipIdx.map fun x => count x.2 * (x.1 : Int)).sum

/-- An integer as a value times 2^e. -/
def intVal (x : Int) (e : Int) : FVal := .fin (decide (x < 0)) x.natAbs e

/-- The drain of a bank into a word (R108), with scale values: D + S × Π scales, NaN for a NaN scale. -/
def drainFloat (d : Nat) (sum e : Int) (scales : List FVal) : Nat × Bool := floatChunk d [intVal sum e :: scales]

/-- A drain of a live slot's or a wide bank's position (R108): E2M1 with tensor scales, or INT4. -/
def drainWord (int4 sat : Bool) (sa sb : Nat) (d : Nat) (sum : Int) : Nat × Bool :=
  if int4 then addInt32 sat d sum else drainFloat d sum (-2) [fmtFP32.read sa, fmtFP32.read sb]

/-! ### The accumulator store -/

/-- A word of a group's rows. -/
def State.acc (s : State) (gid row col : Nat) : W32 := Tbl.fget 0#32 (Tbl.getD s.simt.accs gid []) (128 * row + col)

/-- Words written, each with the cause that poisons it (0 for none): word, value, cause. -/
def State.putAcc (s : State) (gid : Nat) (ws : List (Nat × W32 × Nat)) : State :=
  let s := s.modSimt fun x => { x with
    accs := Tbl.put x.accs gid (ws.foldl (fun t w => Tbl.fset 0#32 t w.1 w.2.1) (Tbl.getD x.accs gid [])) }
  s.modGroup gid fun g =>
    if g.accPoison = [] ∧ g.accErrs = [] ∧ ws.all (fun w => w.2.2 == 0) then g
    else { g with
      accPoison := ws.foldl (fun t w => Tbl.fset 0 t w.1 w.2.2) g.accPoison
      accErrs := ws.foldl (fun t w => Tbl.del t w.1) g.accErrs }

/-- FSTAT overflow of a group (R98, R111). -/
def State.accOverflow (s : State) (gid : Nat) (b : Bool) : State :=
  if b then s.modGroup gid fun g => { g with regs := g.regs.write s.ac { RegWrites.none with flags := flagOF } } else s

/-! ### Errors of a unit's operands (R116) -/

/-- The cause that poisons output (i, j): of its row of A and scale, its column of B and scale, the operation's tables. -/
def State.outError (s : State) (team : Nat) (o : MatOp) (u : MatUnit) (pins : Pins) (i j : Nat) : Nat :=
  if u.err ≠ 0 then u.err
  else if s.store.poison = [] ∧ s.store.latent = [] ∧ s.simt.localPoison = [] then 0
  else
    let fa := modeFa o.mode
    let fb := modeFb o.mode
    let scm := modeScm o.mode
    let bit (b size : Nat) : Nat := s.pinError pins (b / 8 % 2 ^ 64) ((b + size - 1) / 8 - b / 8 + 1)
    let scale (r : TileRec) (x k : Nat) : Nat :=
      if scm = 1 then s.pinError pins ((r.sbase + x * r.sstride + k / 32) % 2 ^ 64) 1
      else if scm = 2 then s.pinError pins r.sbase 4 else 0
    let causes := (List.range o.ctl.kEff).map (fun x => bit (aBit o.ctl fa u.a (u.arow + i) x) (tileBits fa))
      ++ (List.range o.ctl.k).flatMap (fun k => [bit (bBit o.ctl fb u.b k j) (tileBits fb),
          scale u.a (u.arow + i) k, scale u.b j k])
      ++ [if o.ctl.sparse && s.localPoisoned team (o.metaOff + (u.irow + i) * (o.ctl.k / 8)) (o.ctl.k / 8) then 0x12 else 0,
          if o.ctl.side && s.localPoisoned team o.sideOff (8 + 8 * s.localPeek team o.sideOff 4) then 0x12 else 0]
    (causes.find? fun c => c != 0).getD 0

/-- The byte ranges that a unit reads. -/
def MatUnit.ranges (u : MatUnit) (o : MatOp) : List (Nat × Nat) :=
  aRanges o.ctl (modeFa o.mode) { u.a with base := if o.ctl.ta then u.a.base else u.a.base + u.arow * u.a.stride } u.m
    ++ bRanges o.ctl (modeFb o.mode) u.b ++ scaleRanges (modeScm o.mode) o.ctl u.a u.m
    ++ scaleRanges (modeScm o.mode) o.ctl u.b o.ctl.n

/-- The physical lines that a unit reads through its pins. -/
def MatUnit.lines (u : MatUnit) (o : MatOp) (pins : Pins) : List Nat :=
  (u.ranges o).flatMap fun (va, len) =>
    (List.range ((va + len - 1) / 64 - va / 64 + 1)).map fun i => (pins.find ((va / 64 + i) * 64 % 2 ^ 64)).1 / 64

end Sys2Proof.Machine
end

