-- ==== Sys2Proof/Machine/Matrix.lean ====
section
/-! DEFINITION. Matrix.lean: the matrix instructions, the acceptance and passes of operations, and batches (R92 to R106,
R115, R116, R249 to R259, R351). -/

namespace Sys2Proof.Machine

/-! ### Live slots (R110, R111) -/

/-- The number of a scheduler's live slot. -/
def slotNo (sched slot : Nat) : Nat := 2 * sched + slot

/-- A bound live slot. -/
def State.slot? (s : State) (k : Nat) : Option LiveSlot := Tbl.get? s.simt.slots k

/-- Put a live slot, or unbind it. -/
def State.putSlot (s : State) (k : Nat) (x : Option LiveSlot) : State :=
  s.modSimt fun y => { y with slots := match x with
    | some v => Tbl.put y.slots k v
    | none => Tbl.del y.slots k }

/-- Whether a slot is bound to, or claimed by an accepted operation of, another group (R110, R113). -/
def State.slotTaken (s : State) (gid k : Nat) : Bool :=
  ((s.slot? k).any fun x => x.owner != gid)
  || s.simt.ops.any fun o => o.accepted && o.gid != gid && slotNo o.sched o.ctl.slot == k && usesSlot o.mode &&
    match o.kind with
    | .gemm _ _ => true
    | _ => false

/-- A count of a live slot. -/
def LiveSlot.count (x : LiveSlot) (i j k : Nat) : Int := Tbl.fget 0 x.banks ((32 * i + j) * 32 + k)

/-- The cause that poisons a word of a group's rows. -/
def State.accBad (s : State) (gid key : Nat) : Nat := ((s.group? gid).map fun g => Tbl.fget 0 g.accPoison key).getD 0

/-- The words that a slot's drain writes (R111): every position of the touched rows that lie within ACC. -/
def State.drainWords (s : State) (x : LiveSlot) (sat : Bool) (rows : Nat) : List (Nat × W32 × Nat) × Bool :=
  let ws := (List.range 32).flatMap fun i =>
    if !hasLane x.touched i || decide (rows ≤ x.row0 + i) then []
    else (List.range x.n).map fun j =>
      let key := 128 * (x.row0 + i) + x.col + j
      let (d, f) := drainWord x.int4 sat x.sa x.sb (s.acc x.owner (x.row0 + i) (x.col + j)).toNat
        (bankSum x.int4 fun k => x.count i j k)
      let bad := Tbl.fget 0 x.bad (32 * i + j)
      (key, d, f, if bad = 0 then s.accBad x.owner key else bad)
  (ws.map fun w => (w.1, BitVec.ofNat 32 w.2.1, w.2.2.2), ws.any fun w => w.2.2.1)

/-- Drain a slot (R111): it stays bound, with no count, depth or touched row. -/
def State.drainSlot (s : State) (k : Nat) (sat : Bool) : State :=
  match s.slot? k with
  | none => s
  | some x =>
    let rows := ((s.group? x.owner).map s.accRows).getD 0
    let (ws, f) := s.drainWords x sat rows
    ((s.putAcc x.owner ws).accOverflow x.owner f).putSlot k (some { x with depth := 0, touched := 0#32, banks := [], bad := [] })

/-- Drain a slot and unbind it. -/
def State.drainUnbind (s : State) (k : Nat) (sat : Bool) : State := (s.drainSlot k sat).putSlot k none

/-! ### Passes -/

/-- The words of a float or integer pass (R98), or of an MX pass over columns `cols` (R109). -/
def State.unitWords (s : State) (team : Nat) (o : MatOp) (u : MatUnit) (pins : Pins) (cols : List Nat) :
    List (Nat × W32 × Nat) × Bool :=
  let fa := modeFa o.mode
  let ws := (List.range u.m).flatMap fun i => cols.map fun j =>
    let key := 128 * (u.row + i) + u.col + j
    let d0 := if o.ctl.zero then 0 else (s.acc o.gid (u.row + i) (u.col + j)).toNat
    let old := if o.ctl.zero then 0 else s.accBad o.gid key
    let err := s.outError team o u pins i j
    let (d, f) :=
      if isCounting fa then
        (List.range o.ctl.kb).foldl (fun acc b =>
          let sum := ((List.range 32).map fun x => let k := 32 * b + x
            countVal false (s.pinBits pins (aBit o.ctl fa u.a (u.arow + i) k) 4)
              * countVal false (s.pinBits pins (bBit o.ctl fa u.b k j) 4)).sum
          let r := drainFloat acc.1 sum (-2) [s.scaleOf pins 1 u.a (u.arow + i) (32 * b), s.scaleOf pins 1 u.b j (32 * b)]
          (r.1, acc.2 || r.2)) (d0, false)
      else s.sumOut team o u pins d0 i j
    (key, d, f, if err = 0 then old else err)
  (ws.map fun w => (w.1, BitVec.ofNat 32 w.2.1, w.2.2.2), ws.any fun w => w.2.2.1)

/-- One block of 32 K-steps counted into a slot (R107, R110 step 4). -/
def State.countBlock (s : State) (o : MatOp) (u : MatUnit) (pins : Pins) (x : LiveSlot) (b : Nat) : LiveSlot :=
  let fa := modeFa o.mode
  let i0 := u.row - x.row0
  let hits := (List.range u.m).flatMap fun i => (List.range x.n).flatMap fun j => (List.range 32).filterMap fun t =>
    let k := 32 * b + t
    (classOf x.int4 (countVal x.int4 (s.pinBits pins (aBit o.ctl fa u.a (u.arow + i) k) 4)
      * countVal x.int4 (s.pinBits pins (bBit o.ctl fa u.b k j) 4))).map fun c => ((32 * (i0 + i) + j) * 32 + c.1, c.2)
  { x with
    depth := x.depth + 32
    touched := x.touched ||| maskWhere fun l => decide (i0 ≤ l) && decide (l < i0 + u.m)
    banks := hits.foldl (fun t h => Tbl.fset 0 t h.1 (Tbl.fget 0 t h.1 + h.2)) x.banks }

/-- The positions of a live slot that a unit's operands poison (R116). -/
def State.countErrors (s : State) (team : Nat) (o : MatOp) (u : MatUnit) (pins : Pins) (x : LiveSlot) : LiveSlot :=
  let cells := (List.range u.m).flatMap fun i => (List.range x.n).filterMap fun j =>
    let e := s.outError team o u pins i j
    if e = 0 then none else some (32 * (u.row - x.row0 + i) + j, e)
  { x with bad := cells.foldl (fun t c => Tbl.fset 0 t c.1 c.2) x.bad }

/-- The blocks of an operation, draining before one that would pass depth 255 (R110, step 4). -/
def State.countBlocks (s : State) (team : Nat) (o : MatOp) (u : MatUnit) (pins : Pins) (k : Nat) : List Nat → State
  | [] => s
  | b :: r =>
    let s := if (s.slot? k).any fun x => decide (255 < x.depth + 32) then s.drainSlot k (modeSat o.mode) else s
    match s.slot? k with
    | none => s
    | some x => (s.putSlot k (some (s.countErrors team o u pins (s.countBlock o u pins x b)))).countBlocks team o u pins k r

/-- A counting operation on a live slot (R110). ZERO sets the tile to 0 before the operation's first drain, which may be the one
that unbinds the slot (R108, R111). -/
def State.countOp (s : State) (team : Nat) (o : MatOp) (u : MatUnit) (pins : Pins) : State :=
  let k := slotNo o.sched o.ctl.slot
  let int4 := modeFa o.mode == 13
  let sa := if int4 then 0 else s.tensorScale pins (modeScm o.mode) u.a
  let sb := if int4 then 0 else s.tensorScale pins (modeScm o.mode) u.b
  let want : LiveSlot := ⟨o.gid, u.row / 32 * 32, u.col, o.ctl.n, int4, sa, sb, 0, 0#32, [], [], []⟩
  let same := (s.slot? k).any fun x =>
    x.row0 == want.row0 && x.col == want.col && x.n == want.n && x.int4 == int4 && x.sa == sa && x.sb == sb
  let tile := (List.range u.m).flatMap fun i => (List.range o.ctl.n).map fun j => (i, j)
  let s := if o.ctl.zero then s.putAcc o.gid (tile.map fun (i, j) => (128 * (u.row + i) + u.col + j, 0#32, 0)) else s
  let s := if same then s
    else (if (s.slot? k).isSome then s.drainUnbind k (modeSat o.mode) else s).putSlot k (some want)
  let s := if (s.slot? k).any fun x => decide (255 < x.depth + o.ctl.k) then s.drainSlot k (modeSat o.mode) else s
  let s := s.countBlocks team o u pins k (List.range o.ctl.kb)
  if o.ctl.persist then s else s.drainUnbind k (modeSat o.mode)

/-- One pass of a multiplication (R99, R106). -/
def State.runPass (s : State) (team : Nat) (o : MatOp) (u : MatUnit) (pins : Pins) : State :=
  if usesSlot o.mode then s.countOp team o u pins
  else
    let cols := if isCounting (modeFa o.mode) then
        (List.range 32).filterMap fun j => if 32 * o.passesDone + j < o.ctl.n then some (32 * o.passesDone + j) else none
      else List.range o.ctl.n
    let (ws, f) := s.unitWords team o u pins cols
    (s.putAcc o.gid ws).accOverflow o.gid f

/-- The first error that a pass of a unit meets, for the report of its batch (R116). -/
def State.unitError (s : State) (team : Nat) (o : MatOp) (u : MatUnit) (pins : Pins) : Nat :=
  if s.store.poison = [] ∧ s.store.latent = [] ∧ s.simt.localPoison = [] then 0
  else
    ((List.range u.m).findSome? fun i => (List.range o.ctl.n).findSome? fun j =>
      let e := s.outError team o u pins i j
      if e = 0 then none else some e).getD 0

/-- Words that hold an unspecified value (R115, R257): free values.
[DEDUCED, log entry 40] -/
def State.freeWords (s : State) (gid : Nat) : List Nat → State
  | [] => s
  | k :: r => ((s.putAcc gid [(k, s.freshWord.setWidth 32, 0)]).drawn).freeWords gid r

/-- The words of a unit's tile. -/
def MatUnit.tile (u : MatUnit) (n : Nat) : List Nat :=
  (List.range u.m).flatMap fun i => (List.range n).map fun j => 128 * (u.row + i) + u.col + j

/-- ACZERO (R258) and ACCPY (R259) as they are performed. -/
def State.runCopy (s : State) (o : MatOp) (gid : Nat) (k : MatKind) (col w : Nat) : State :=
  match s.group? gid with
  | none => s
  | some g =>
    match k with
    | .zero row n =>
      s.putAcc gid ((List.range n).flatMap fun i => (List.range w).map fun j => (128 * (row + i) + col + j, 0#32, 0))
    | .copy true row n off =>
      let cells := (List.range n).flatMap fun i => (List.range w).map fun j => (i, j)
      match cells.findSome? fun (i, j) => Tbl.get? g.accPoison (128 * (row + i) + col + j) with
      | some c => s.haltAt gid c 0 o.ord o.off
      | none => cells.foldl (fun s (i, j) =>
          s.localWrite g.place.team (off + 4 * (w * i + j)) (leBytes 4 (s.acc gid (row + i) (col + j)).toNat)) s
    | .copy false row n off =>
      s.putAcc gid ((List.range n).flatMap fun i => (List.range w).map fun j =>
        let a := off + 4 * (w * i + j)
        (128 * (row + i) + col + j, BitVec.ofNat 32 (s.localPeek g.place.team a 4),
          if s.localPoisoned g.place.team a 4 then 0x12 else 0))
    | .gemm _ _ => s

/-! ### Engine queues and batches -/

/-- The operations that an engine has accepted, in order. -/
def State.engineOps (s : State) (k : Nat) : List MatOp := s.simt.ops.filter fun o => o.accepted && o.sched == k

/-- Change an operation. -/
def State.modOp (s : State) (id : Nat) (f : MatOp → MatOp) : State :=
  s.modSimt fun x => { x with ops := x.ops.map fun o => if o.id = id then f o else o }

/-- The ac that an operation's next pass takes (R106); the manual gives no time for ACZERO and ACCPY, nor for an operation's tiles
to reach the engine before its first pass: free latencies.
[DEDUCED, log entry 43] -/
def State.passTime (s : State) (o : MatOp) : Nat :=
  match o.kind with
  | .gemm _ _ => passCost o.ctl o.mode + if o.unitsDone = 0 ∧ o.passesDone = 0 then Config.latency s.free else 0
  | _ => Config.latency s.free

/-- The engine's next pass, a pass's time from now. -/
def State.startPass (s : State) (k : Nat) : State :=
  match s.engineOps k with
  | [] => s
  | o :: _ => { s.at (s.ac + s.passTime o) (.matrixPass k) with free := s.free + 1 }

/-- A batch's operations without one, and with its report (R115, R116). -/
def MatState.finish (m : MatState) (id report : Nat) : MatState :=
  let b := match m.batches.find? fun b => b.2.contains id with
    | some x => x.1
    | none => (m.newest + 1) % 65536
  { m with
    current := m.current.erase id
    batches := m.batches.map fun b => (b.1, b.2.erase id)
    reports := if report = 0 then m.reports else m.reports ++ [(b, report)] }

/-- The number of the next operation. -/
def State.nextOp (s : State) : Nat := s.simt.ops.foldl (fun n o => max n (o.id + 1)) 0

/-- Splits of a group that wait for its matrix operations become ready (R113). -/
def State.wakeMatrix (s : State) (gid : Nat) : State :=
  match s.group? gid with
  | none => s
  | some g =>
    if s.simt.ops.any fun o => o.accepted && o.gid == gid then s
    else g.splits.foldl (fun s x => if x.2.park = some .matrix then s.wake gid x.1 else s) s

/-- An operation has been performed: its batch may complete, instructions that wait are looked at, and the engine goes on
(R104, R105, R351). -/
def State.finishOp (s : State) (k : Nat) (o : MatOp) : State :=
  let s := s.modSimt fun x => { x with ops := x.ops.filter fun y => y.id != o.id }
  let s := s.modGroup o.gid fun g => { g with mat := g.mat.finish o.id o.report }
  let s := s.laterWithin 64 (.batchComplete o.gid)
  let s := (s.simt.ops.filter fun y => !y.accepted && y.sched == k).foldl (fun s y => s.soon (.operationAcceptance y.id)) s
  match s.group? o.gid with
  | some g => ((s.wakeMatrix o.gid).soon (.teamResourceFree g.place.team)).soon (.taskComplete g.place.task)
  | none => s

/-- Whether an operation must wait for accesses that precede it (R63, R104), or for a frozen context (R290). -/
def State.opWaits (s : State) (o : MatOp) : Bool :=
  match s.group? o.gid with
  | none => false
  | some g => (s.ctx g.place.ctx).frozen
      || !(g.earlier o.before).isEmpty

/-- The unit that an operation performs next. -/
def MatOp.unitNow (o : MatOp) : Option (MatUnit × Pins) :=
  match o.kind with
  | .gemm units pins => (units[o.unitsDone]?).map fun u => (u, pins)
  | _ => none

/-- The errors that a pass's reads of its tile, its live slot and its tables meet (R415). -/
def State.meetPass (s : State) (o : MatOp) (u : MatUnit) : State :=
  let team := ((s.group? o.gid).map fun g => g.place.team).getD 0
  let s := if o.ctl.sparse then s.meetLocal team (o.metaOff + u.irow * (o.ctl.k / 8)) (u.m * (o.ctl.k / 8)) else s
  let s := if o.ctl.side then s.meetLocal team o.sideOff (8 + 8 * s.localPeek team o.sideOff 4) else s
  if usesSlot o.mode then (s.meetSlot (slotNo o.sched o.ctl.slot)).meetAcc o.gid (((s.group? o.gid).map fun g => g.accErrs.map Prod.fst).getD [])
  else if o.ctl.zero then s
  else s.meetAcc o.gid (u.tile o.ctl.n)

/-- The errors that ACCPY's reads meet (R415). -/
def State.meetCopy (s : State) (o : MatOp) (k : MatKind) : State :=
  match k with
  | .copy true row n _ => s.meetAcc o.gid ((List.range n).flatMap fun i =>
      (List.range o.sideOff).map fun j => 128 * (row + i) + o.metaOff + j)
  | .copy false _ n off => s.meetLocal (((s.group? o.gid).map fun g => g.place.team).getD 0) off (4 * o.sideOff * n)
  | _ => s

/-- The words of every unit of an operation: the tile that a mismatch leaves unspecified (R115). -/
def MatOp.tiles (o : MatOp) (units : List MatUnit) : List Nat := (units.flatMap fun u => u.tile o.ctl.n).dedup

/-- A residue mismatch logged with its core and EID (R419). -/
def State.logResidue (s : State) (o : MatOp) (u : MatUnit) : State :=
  match s.group? o.gid with
  | none => s
  | some g => s.logError (dieOfCore g.place.core) (unitAddr g.place.core g.place.sched u.row) 2 2 0x14 (s.eidOf g) g.place.core

/-- One pass of an operation, with its drains and its residue check (R106, R115); the last one ends it.
[DEDUCED, log entry 42] -/
def State.passOp (s : State) (engine : Nat) (o : MatOp) : State :=
  match o.kind with
  | .gemm units pins =>
    match units[o.unitsDone]? with
    | none => s.finishOp engine o
    | some u =>
      let g := s.group? o.gid
      let team := (g.map fun g => g.place.team).getD 0
      let eid := (g.map s.eidOf).getD 0
      let core := (g.map fun g => g.place.core).getD 0xFFFF
      let s := s.meetPass o u
      let s := if s.store.latent = [] then s else (u.lines o pins).dedup.foldl (fun s l => s.meetLine eid core l) s
      let err := if o.report ≠ 0 then o.report else if o.taint ≠ 0 then o.taint else s.unitError team o u pins
      let s := s.runPass team o u pins
      let upset := s.simt.upsets.contains engine
      let s := if upset then
          (s.modSimt fun x => { x with upsets := x.upsets.erase engine }).logResidue o u
        else s
      let lost := if o.ctl.zero then [] else o.clobber.filter fun w => (u.tile o.ctl.n).contains w
      let s := s.freeWords o.gid lost
      let last := decide (passesOf o.ctl o.mode ≤ o.passesDone + 1)
      let o := { o with
        report := if upset then 0x14 else err
        passesDone := if last then 0 else o.passesDone + 1
        unitsDone := if last then o.unitsDone + 1 else o.unitsDone }
      let s := s.modOp o.id fun _ => o
      if units.length ≤ o.unitsDone then
        (if o.report = 0x14 then s.freeWords o.gid (o.tiles units) else s).finishOp engine o
      else s
  | k => ((s.meetCopy o k).runCopy o o.gid k o.metaOff o.sideOff).finishOp engine o

/-- MATRIX_PASS (R106): one pass of an engine's first operation, once its lines pass their rows' gates (R382). -/
def execMatrixPass (engine : Nat) (s : State) : Out :=
  match s.engineOps engine with
  | [] => .next s
  | o :: _ =>
    if s.opWaits o then .next (s.at (s.ac + 1) (.matrixPass engine))
    else
      let lines := match o.unitNow with
        | some (u, pins) => u.lines o pins
        | none => []
      let (s, held) := s.rowsPass (((s.group? o.gid).map s.vfOfGroup).getD 256) (.matrixPass engine) (lineAccs lines)
      .next (if held then s else (s.passOp engine o).startPass engine)

/-- The passes that an operation still has, at most. -/
def MatOp.passesLeft (o : MatOp) : Nat :=
  match o.kind with
  | .gemm units _ => units.length * passesOf o.ctl o.mode + 1
  | _ => 1

/-- An operation's passes performed one after another (R351). -/
def State.runOp (s : State) (id : Nat) : Nat → State
  | 0 => s
  | n + 1 =>
    match s.simt.ops.find? fun o => o.id == id with
    | none => s
    | some o => (s.passOp o.sched o).runOp id n

/-- Every accepted operation of a group performed at once, at a stop (R117, R351); the engine goes on with the next. -/
def State.runOps (s : State) (gid : Nat) : State :=
  (s.simt.ops.filter fun o => o.accepted && o.gid == gid).foldl (fun s o =>
    let s := s.runOp o.id o.passesLeft
    { s with agenda := s.agenda.filter fun x => x.2 != Event.matrixPass o.sched }.startPass o.sched) s

/-- An accepted operation joins its group's current batch and its engine's queue. -/
def State.accept (s : State) (o : MatOp) : State :=
  let idle := (s.engineOps o.sched).isEmpty
  let s := s.modSimt fun x => { x with ops := x.ops.filter (fun y => y.id != o.id) ++ [{ o with accepted := true }] }
  let s := s.modGroup o.gid fun g => { g with mat := { g.mat with current := g.mat.current ++ [o.id] } }
  if idle then s.startPass o.sched else s

/-! ### The checks of R253 -/

/-- The error that a read of `n` virtual bytes meets: INTEG, MEMUE or none (R116). -/
def State.readError (s : State) (x : Xlat) (n : Nat) : Nat :=
  let k := if x.tol = 0 then n else n / 2
  if s.integ x.pa k then 0x15 else if (s.poisonedAt x.pa k).isSome then 0x12 else 0

/-- A tile record read at an address (R94): its translation's fault, RECORD, or the record and the error it met. -/
def State.recordOf (s : State) (q va : Nat) : Except (Nat × Nat) (TileRec × Nat) :=
  match s.xlateCtx q va 32 .read false false with
  | .error c => .error (c, va)
  | .ok x =>
    let w := s.readAt x 32
    if fieldOf w 64 32 = 0 ∨ fieldOf w 96 32 ≠ 0 ∨ fieldOf w 224 32 ≠ 0 then .error (0x0C, 0)
    else .ok (⟨fieldOf w 0 64, fieldOf w 64 32, fieldOf w 128 64, fieldOf w 192 32⟩, s.readError x 32)

/-- The records at several addresses. -/
def State.recordsOf (s : State) (q : Nat) : List Nat → Except (Nat × Nat) (List (TileRec × Nat))
  | [] => .ok []
  | va :: r =>
    match s.recordOf q va with
    | .error e => .error e
    | .ok x =>
      match s.recordsOf q r with
      | .error e => .error e
      | .ok xs => .ok (x :: xs)

/-- The entries of a segment table (R100): rows, B record address and the error that the entry or an earlier one met. -/
def State.segments (s : State) (q err : Nat) : Nat → Nat → Except (Nat × Nat) (List (Nat × Nat × Nat) × Nat)
  | 0, _ => .ok ([], err)
  | n + 1, va =>
    match s.xlateCtx q va 16 .read false false with
    | .error c => .error (c, va)
    | .ok x =>
      let w := s.readAt x 16
      let err := if err = 0 then s.readError x 16 else err
      if fieldOf w 32 32 ≠ 0 then .error (0x0C, 0)
      else if fieldOf w 0 32 = 0 then .ok ([], err)
      else
        match s.segments q err n ((va + 16) % 2 ^ 64) with
        | .error e => .error e
        | .ok (r, e) => .ok ((fieldOf w 0 32, fieldOf w 64 64, err) :: r, e)

/-- Check 2 of R253: an MMAG's segments, with at most 32 rows in all; an MMA is one segment of its M rows. -/
def State.segsOf (s : State) (q : Nat) (o : MatOp) (c : Nat) : Except (Nat × Nat) (List (Nat × Nat × Nat) × Nat) :=
  if !o.grouped then .ok ([(o.ctl.m, c, 0)], 0)
  else if c % 16 ≠ 0 then .error (9, c)
  else
    match s.segments q 0 32 c with
    | .error e => .error e
    | .ok (r, e) => if 32 < (r.map Prod.fst).sum then .error (0x0C, 0) else .ok (r, e)

/-- Check 1 of R253: FMT. -/
def fmtBad (o : MatOp) : Bool :=
  match pairRule (modeFa o.mode) (modeFb o.mode) with
  | none => true
  | some r => modeFac o.mode != r.fac || !r.scms.contains (modeScm o.mode) || (o.ctl.sparse && (!r.sparse || o.ctl.ta))
      || (o.ctl.side && !r.side) || (o.ctl.persist && !r.persist.contains (modeScm o.mode))
      || (usesSlot o.mode && decide (32 < o.ctl.n))

/-- Checks 3 and 4 of R253: ALIGN and RANGE of coordinates, record addresses, slots and local-store tables; `irow` is the
first of the instruction's rows. -/
def State.placeBad (s : State) (g : Group) (o : MatOp) (row col m irow ra : Nat) (rbs : List Nat) : Option (Nat × Nat) :=
  let len := s.localLen g
  if col % 8 ≠ 0 ∨ (usesSlot o.mode = true ∧ 32 < row % 32 + m) then some (9, 0)
  else if ra % 32 ≠ 0 then some (9, ra)
  else
    match rbs.find? fun b => b % 32 != 0 with
    | some b => some (9, b)
    | none =>
      if (o.ctl.sparse = true ∧ o.metaOff % 256 ≠ 0) ∨ (o.ctl.side = true ∧ o.sideOff % 64 ≠ 0) then some (9, 0)
      else if s.accRows g < row + m ∨ 128 < col + o.ctl.n then some (0x0A, 0)
      else if usesSlot o.mode && s.slotTaken o.gid (slotNo o.sched o.ctl.slot) then some (0x0A, 0)
      else if o.ctl.sparse && decide (len < o.metaOff + (irow + m) * (o.ctl.k / 8)) then some (0x0A, 0)
      else if o.ctl.side && (decide (len < o.sideOff + 8)
          || decide (len < o.sideOff + 8 + 8 * s.localPeek g.place.team o.sideOff 4)) then some (0x0A, 0)
      else none

/-- Whether a record's BASE, STRIDE or tensor scale is misaligned (R93, R95). -/
def recAlignBad (scm : Nat) (r : TileRec) : Bool :=
  r.base % 16 != 0 || r.stride % 16 != 0 || (scm == 2 && r.sbase % 4 != 0)

/-- Check 6 of R253: every line of A, B and their scales is translated and pinned.
[DESIGN CHOICE, log entry 132] -/
def State.pinTiles (s : State) (q : Nat) (o : MatOp) (pins : Pins) (ra : TileRec) (m : Nat) (rbs : List TileRec) :
    Except (Nat × Nat) Pins :=
  let scm := modeScm o.mode
  match (ra :: rbs).find? (recAlignBad scm) with
  | some r => .error (9, if r.base % 16 ≠ 0 ∨ r.stride % 16 ≠ 0 then r.base else r.sbase)
  | none =>
    s.pinRanges q pins (aRanges o.ctl (modeFa o.mode) ra m ++ (if m = 0 then [] else scaleRanges scm o.ctl ra m)
      ++ rbs.flatMap fun rb => bRanges o.ctl (modeFb o.mode) rb ++ scaleRanges scm o.ctl rb o.ctl.n)

/-- The units of segments, one after another in A's rows and the accumulator's (R100, R254): rows, B's record, and the error that
poisons the unit. -/
def segUnits (a : TileRec) (col : Nat) : Nat → Nat → List (Nat × TileRec × Nat) → List MatUnit
  | _, _, [] => []
  | row, arow, (m, b, err) :: r => ⟨row, col, m, arow, arow, a, b, err⟩ :: segUnits a col (row + m) (arow + m) r

/-- The first of two errors that is one. -/
def firstErr (a b : Nat) : Nat := if a = 0 then b else a

/-- A quarter of an MMA, or an MMAG, checked in the order of R253: its units, its pins and the first error its records met. -/
def State.checkOne (s : State) (g : Group) (o : MatOp) (pins : Pins) (q : Nat) (d a c : W64) :
    Except (Nat × Nat) (List MatUnit × Pins × Nat) :=
  let ctx := g.place.ctx
  let row := fieldOf d.toNat 0 16
  let col := fieldOf d.toNat 16 16
  if fmtBad o then .error (0x0B, 0)
  else
    match s.segsOf ctx o c.toNat with
    | .error e => .error e
    | .ok (segs, err) =>
      let m := (segs.map Prod.fst).sum
      let irow := if o.grouped then 0 else 8 * q
      let bs := segs.map fun x => x.2.1
      match s.placeBad g o row col m irow a.toNat bs with
      | some e => .error e
      | none =>
        match s.recordOf ctx a.toNat with
        | .error e => .error e
        | .ok (ra, ea) =>
          match s.recordsOf ctx bs with
          | .error e => .error e
          | .ok rbs =>
            match s.pinTiles ctx o pins ra m (rbs.map Prod.fst) with
            | .error e => .error e
            | .ok pins =>
              let us := segUnits ra col row 0 (List.zipWith (fun x b => (x.1, b.1, firstErr x.2.2 (firstErr ea b.2))) segs rbs)
              .ok (us.map (fun u => if o.grouped then u else { u with irow := irow }), pins,
                (rbs.map Prod.snd).foldl firstErr (firstErr err ea))

/-- Every quarter in ascending order (R253): a fault is that of the quarter's lane, an MMAG's of no lane. -/
def State.checkAll (s : State) (g : Group) (o : MatOp) : Pins → List (Nat × W64 × W64 × W64) →
    Except Flt (List MatUnit × Pins × Nat)
  | pins, [] => .ok ([], pins, 0)
  | pins, (l, d, a, c) :: r =>
    match s.checkOne g o pins (l / 8) d a c with
    | .error (e, v) => .error ⟨e, v, if o.grouped then none else some l⟩
    | .ok (us, pins, err) =>
      match s.checkAll g o pins r with
      | .error e => .error e
      | .ok (vs, pins, err') => .ok (us ++ vs, pins, firstErr err err')

/-- An offered MMA or MMAG after its checks: the operation as it will be accepted. -/
def State.checkOffer (s : State) (g : Group) (o : MatOp) : Except Flt MatOp :=
  match s.checkAll g o [] o.offer with
  | .error e => .error e
  | .ok (us, pins, err) => .ok { o with kind := .gemm us pins, taint := err }

/-- The records and segment tables that an offered operation reads: address and bytes. -/
def State.offerReads (s : State) (q : Nat) (o : MatOp) : List (Nat × Nat) :=
  o.offer.flatMap fun (_, _, a, c) =>
    (a.toNat, 32) :: match s.segsOf q o c.toNat with
      | .error _ => []
      | .ok (segs, _) => (segs.map fun x => (x.2.1, 32)) ++
          if o.grouped then (List.range (min 32 (segs.length + 1))).map fun i => ((c.toNat + 16 * i) % 2 ^ 64, 16) else []

/-- What precedes the checks of an offered operation: the group's accesses before it (R63, R104), and the errors that the reads
of its records meet (R116). -/
def State.beforeOffer (s : State) (g : Group) (o : MatOp) : State :=
  let s := s.readAfterAll o.gid o.before
  s.readRecords g (s.offerReads g.place.ctx o)

/-- The units of an operation. -/
def MatOp.units (o : MatOp) : List MatUnit :=
  match o.kind with
  | .gemm us _ => us
  | _ => []

/-- The cost of an operation (R106). -/
def MatOp.cost (o : MatOp) : Nat := o.units.length * passesOf o.ctl o.mode * passCost o.ctl o.mode

/-- Whether the tile fetch unit accepts an operation now (R351). -/
def State.hasRoom (s : State) (o : MatOp) : Bool :=
  let es := s.engineOps o.sched
  es.isEmpty || decide ((es.map MatOp.cost).sum + o.cost ≤ 1536)

/-! ### MMA and MMAG -/

/-- An MMA or MMAG about to be offered. -/
def State.offerOf (s : State) (gid sp : Nat) (g : Group) (rd : Rd) (ctl : MmaCtl) (grouped : Bool)
    (offer : List (Nat × W64 × W64 × W64)) : MatOp :=
  { id := s.nextOp, gid := gid, sp := sp, sched := g.place.schedNo, kind := .gemm [] [], ctl := ctl, mode := rd.mode,
    metaOff := g.mat.metaOff, sideOff := g.mat.sideOff, accepted := false, offer := offer, grouped := grouped,
    before := g.nextFlight, clobber := [], ord := 0, off := 0, unitsDone := 0,
    passesDone := 0, taint := 0, report := 0 }

/-- An operation with no unit is not accepted (R254). -/
def State.acceptUnits (s : State) (o : MatOp) : State := if o.units = [] then s else s.accept o

/-- Whether MODE holds a reserved value that a matrix operation uses: OPND (R156). -/
def matModeBad (rd : Rd) : Bool :=
  decide (13 < modeFa rd.mode) || decide (13 < modeFb rd.mode) || decide (1 < modeFac rd.mode) || modeScm rd.mode == 3

/-- Issue of an MMA or MMAG: its checks, and acceptance at once where the unit has room; else the split parks until
OPERATION_ACCEPTANCE (R351). -/
def matIssue (spec : Rd → Spec) (active : Rd → W32) (m : Marks) (len : Nat) (ctl : MmaCtl) (grouped : Bool)
    (offer : Rd → List (Nat × W64 × W64 × W64)) (s : State) : Out :=
  simtAfter s spec active
    (fun gid g _ rd => s.beforeOffer g (s.offerOf gid 0 g rd ctl grouped (offer rd)))
    fun s gid sp g p rd =>
      let o := s.offerOf gid sp g rd ctl grouped (offer rd)
      match s.checkOffer g o with
      | .error f => s.issueFlt gid sp g 0 f
      | .ok k =>
        if k.units = [] ∨ s.hasRoom k = true then
          s.issueSplit gid sp g p (spec rd) (active rd) false (.ok (Done.plain (s.acceptUnits k)))
        else (s.modSimt fun x => { x with ops := x.ops ++ [o] }).stall gid sp (.accept o.id m len)

/-- The lowest active lane of each quarter that has one (R92). -/
def Rd.quarters (rd : Rd) : List Nat :=
  [0, 1, 2, 3].filterMap fun q => (rd.lanes.find? fun l => l / 8 == q)

/-- MMA (R252). -/
def execMma (x : MmaI) (s : State) : Out :=
  matIssue
    (fun rd => { Spec.of x.m 2 (decide (rd.vregs ≤ x.d) || rd.vBad true x.a || rd.vBad true x.c || matModeBad rd)
      (rd.modeCodes ++ x.d :: (codesV true x.a ++ codesV true x.c)) [] with needS := true })
    Rd.active x.m 2 x.ctl false
    (fun rd => rd.quarters.map fun l => (l, (rd.v x.d l).setWidth 64, rd.pair x.a l, rd.pair x.c l)) s

/-- MMAG (R254). -/
def execMmag (x : MmagI) (s : State) : Out :=
  matIssue
    (fun rd => { Spec.of x.m x.len (matModeBad rd) (rd.modeCode :: (x.d.uCodes ++ x.a.uCodes ++ x.c.uCodes)) [] with needS := true })
    (fun rd => rd.mask) x.m x.len x.ctl true (fun rd => [(0, rd.uni x.d, rd.addrU x.a, rd.addrU x.c)]) s

/-- OPERATION_ACCEPTANCE (R351): every operation of a parked MMA or MMAG is accepted together, once there is room; a check
that fails then is the instruction's fault (R103), and an XLAT under REPLAY is replayed (R47). -/
def execOperationAcceptance (id : Nat) (s : State) : Out :=
  match s.simt.ops.find? fun o => o.id == id && !o.accepted with
  | none => .next s
  | some o =>
    match (s.group? o.gid).bind fun g => (g.split? o.sp).map fun p => (g, p) with
    | none => .next s
    | some (g, p) =>
      match p.park with
      | some (.accept k m len) =>
        if k ≠ id ∨ (s.ctx g.place.ctx).halt.isSome ∨ (s.ctx g.place.ctx).frozen = true then .next s
        else
          let s := s.beforeOffer g o
          let gone := s.modSimt fun x => { x with ops := x.ops.filter fun y => y.id != id }
          if !s.ctxRuns g.place.ctx then .next s
          else
            match s.checkOffer g o with
            | .error f => .next (gone.parkedFlt o.gid o.sp g 0 f)
            | .ok k =>
              if k.units = [] ∨ s.hasRoom k = true then .next ((gone.acceptUnits k).resumeAfter o.gid o.sp m len)
              else .next s
      | _ => .next s

/-! ### Batches (R105, R256) -/

/-- Close a batch (R105): the number that MFENCE writes. -/
def MatState.close (m : MatState) : MatState × Nat :=
  let b := (m.newest + 1) % 65536
  ({ m with newest := b, current := [], batches := m.batches ++ [(b, m.current)] }, b)

/-- MFENCE's effect: the batch is closed and its number is on its way to g(d). -/
def State.closeBatch (s : State) (gid sp d : Nat) : State :=
  match s.group? gid with
  | none => s
  | some g =>
    let (m, b) := g.mat.close
    let s := s.putGroup gid { g with mat := m }
    let lanes := ((g.split? sp).map Split.mask).getD 0#32
    let s := s.launch gid { Flight.result sp lanes (RegWrites.gOne d (BitVec.ofNat 64 b)) with kind := .reply }
      .variableLatencyResult
    if g.mat.current = [] then s.laterWithin 64 (.batchComplete gid) else s

/-- MFENCE (R256): a ninth open batch parks the split. -/
def execMfence (x : R1) (s : State) : Out :=
  simtStall s (fun _ => { Spec.of x.m 1 false [] [codeG x.r] with needS := true }) (fun rd => rd.mask)
    (fun _ _ g _ _ => .ok (if 8 ≤ g.mat.batches.length then some (s, .batchFull x.m x.r) else none))
    fun gid sp _ _ _ => .ok (Done.plain (s.closeBatch gid sp x.r))

/-- Whether a batch number is ahead of the group's newest (R256). -/
def batchAhead (m : MatState) (b : Nat) : Bool := b != m.newest && serialLe m.newest b

/-- The report that an MWAIT of a batch meets (R115, R116). -/
def MatState.reportFor (m : MatState) (b : Nat) : Option Nat :=
  (m.reports.find? fun r => serialLe r.1 b).map Prod.snd

/-- Whether a batch and every earlier one have completed: no open batch is it or an earlier one (R256). -/
def MatState.doneUpTo (m : MatState) (b : Nat) : Bool := m.batches.all fun x => !serialLe x.1 b

/-- The reports left once those of a batch and of earlier ones have been made. -/
def MatState.reported (m : MatState) (b : Nat) : MatState := { m with reports := m.reports.filter fun r => !serialLe r.1 b }

/-- A report of a batch made at an MWAIT, which is not passed (R256). -/
def State.reportBatch (s : State) (gid sp b c : Nat) : State :=
  ((s.modGroup gid fun g => { g with mat := g.mat.reported b }).haltGroup gid sp c 0).modSplit gid sp fun p =>
    { p with park := some .matrix }

/-- MWAIT (R256): a batch ahead is an OPND fault; one that has not completed parks the split; a report is a trap. -/
def execMwait (x : Op1) (s : State) : Out :=
  let len := x.len
  simtStall s (fun _ => { Spec.of x.m len false x.a.uCodes [] with needS := true }) (fun rd => rd.mask)
    (fun gid sp g _ rd =>
      let b := fieldOf (rd.uni x.a).toNat 0 16
      if batchAhead g.mat b then .error (2, 0)
      else if !g.mat.doneUpTo b then .ok (some (s, .mwait b x.m len))
      else
        match g.mat.reportFor b with
        | some c => .ok (some (s.reportBatch gid sp b c, .matrix))
        | none => .ok none)
    fun _ _ _ _ _ => .ok (Done.plain s)

/-- A parked MWAIT whose batch has completed: it is passed, or it reports (R256). -/
def State.mwaitDone (s : State) (gid sp b : Nat) (m : Marks) (len : Nat) : State :=
  match s.group? gid with
  | none => s
  | some g =>
    match g.mat.reportFor b with
    | none => s.resumeAfter gid sp m len
    | some c => s.reportBatch gid sp b c

/-- Batches completed in number order (R105). -/
def MatState.complete (m : MatState) : Nat → MatState
  | 0 => m
  | n + 1 =>
    match m.batches with
    | (b, []) :: r => MatState.complete { m with completed := b, batches := r } n
    | _ => m

/-- What the completion of batches lets go on: MWAITs, and an MFENCE that waited to close its batch. -/
def State.batchWake (s : State) (gid : Nat) : State :=
  match s.group? gid with
  | none => s
  | some g =>
    g.splits.foldl (fun s (i, p) =>
      match p.park with
      | some (.mwait b m len) => if g.mat.doneUpTo b then s.mwaitDone gid i b m len else s
      | some (.batchFull m d) =>
        if (s.group? gid).any (fun h => decide (h.mat.batches.length < 8)) && (s.ctx g.place.ctx).halt.isNone then
          (s.closeBatch gid i d).resumeAfter gid i m 1
        else s
      | _ => s) s

/-- BATCH_COMPLETE (R105): batches complete in number order. -/
def execBatchComplete (gid : Nat) (s : State) : Out :=
  .next ((s.modGroup gid fun g => { g with mat := g.mat.complete 8 }).batchWake gid)

/-! ### Accumulator words (R255, R257 to R259) -/

/-- MSETAUX (R255). -/
def execMsetaux (x : OpAC) (s : State) : Out :=
  simtOnly s (fun _ => Spec.of x.m x.len false (x.a.uCodes ++ x.c.uCodes) []) (fun rd => rd.mask) fun gid _ _ _ rd =>
    .ok (Done.plain (s.modGroup gid fun g => { g with mat := { g.mat with
      metaOff := (rd.uni x.a).toNat % 2 ^ 32, sideOff := (rd.uni x.c).toNat % 2 ^ 32 } }))

/-- The word that a lane of ACRD or ACWR reaches (R257), or RANGE.
[DEDUCED, log entry 41] -/
def State.acWord (s : State) (g : Group) (rd : Rd) (a : Opnd) (l : Nat) : Except (Nat × Nat) (Nat × Nat) :=
  let x := (rd.vec false a l).toNat
  if s.accRows g ≤ fieldOf x 0 16 ∨ 127 < fieldOf x 16 16 + l then .error (0x0A, 0)
  else .ok (l, 128 * fieldOf x 0 16 + fieldOf x 16 16 + l)

/-- The words of the active lanes, ascending. -/
def State.acWords (s : State) (g : Group) (rd : Rd) (a : Opnd) : List Nat → Except Flt (List (Nat × Nat))
  | [] => .ok []
  | l :: r =>
    match s.acWord g rd a l with
    | .error (c, v) => .error ⟨c, v, some l⟩
    | .ok w =>
      match s.acWords g rd a r with
      | .error e => .error e
      | .ok ws => .ok (w :: ws)

/-- ACRD (R257): a word that a failed tile read poisons traps (R116); one with an error of its own poisons the destination (R417). -/
def execAcrd (x : Op2) (s : State) : Out :=
  simtOnly s
    (fun rd => Spec.of x.m x.len (decide (rd.vregs ≤ x.d) || rd.vecBad false x.a)
      (rd.modeCodes ++ x.a.vCodes false) [x.d])
    Rd.active fun gid sp g _ rd =>
      match s.acWords g rd x.a rd.lanes with
      | .error e => .error e
      | .ok ws =>
        let s := s.meetAcc gid (ws.map Prod.snd)
        let bad (k : Nat) : Nat := s.accBad gid k
        match ws.findSome? fun w => if bad w.2 = 0 ∨ bad w.2 = 0x13 then none else some (bad w.2, w.1) with
        | some (c, l) => .error ⟨c, 0, some l⟩
        | none =>
          let w : RegWrites := { RegWrites.none with
            v := ws.map fun w => (32 * x.d + w.1, s.acc gid (w.2 / 128) (w.2 % 128))
            px := ws.filterMap fun w => if bad w.2 = 0x13 then some (32 * x.d + w.1, 0) else none }
          .ok (Done.plain (if ws = [] then s else s.putVar gid sp rd.active w))

/-- Words written under unfinished operations of the group that accumulate into them (R257).
[DEDUCED, log entry 40] -/
def State.clobberOps (s : State) (gid : Nat) (ws : List Nat) : State :=
  s.modSimt fun x => { x with ops := x.ops.map fun o =>
    if o.gid = gid ∧ o.accepted = true then { o with clobber := o.clobber ++ ws } else o }

/-- ACWR (R257): the highest lane's value stays. -/
def execAcwr (x : OpAC) (s : State) : Out :=
  simtOnly s
    (fun rd => Spec.of x.m x.len (rd.vecBad false x.a || rd.vecBad false x.c)
      (rd.modeCodes ++ (x.a.vCodes false ++ x.c.vCodes false)) [])
    Rd.active fun gid _ g _ rd =>
      match s.acWords g rd x.a rd.lanes with
      | .error e => .error e
      | .ok ws =>
        .ok (Done.plain ((s.putAcc gid (ws.map fun w => (w.2, (rd.vec false x.c w.1).setWidth 32, 0))).clobberOps gid
          (ws.map Prod.snd)))

/-- A tile size of ACZERO or ACCPY outside its limits (R258). -/
def tileSizeBad (c : Nat) : Bool :=
  let h := fieldOf c 0 16
  let w := fieldOf c 16 16
  decide (h < 1) || decide (256 < h) || w % 8 != 0 || decide (w < 8) || decide (128 < w)

/-- An accumulator operation of a group: the column in the place of the metadata offset, the width in the side list's. -/
def State.accOp (s : State) (gid sp : Nat) (g : Group) (rd : Rd) (k : MatKind) (col w : Nat) : State :=
  let pt := ((g.split? sp).map fun p => p.point ((lowestLane p.mask).getD 0)).getD (0, 0)
  s.accept { id := s.nextOp, gid := gid, sp := sp, sched := g.place.schedNo, kind := k,
             ctl := ⟨0, 0, 0, false, false, false, 0, false, false, false⟩, mode := rd.mode, metaOff := col, sideOff := w,
             accepted := false, offer := [], grouped := false, before := g.nextFlight, clobber := [], ord := pt.1,
             off := pt.2, unitsDone := 0, passesDone := 0, taint := 0, report := 0 }

/-- ACZERO (R258). -/
def execAczero (x : OpAC) (s : State) : Out :=
  simtOnly s (fun _ => Spec.of x.m x.len false (x.a.uCodes ++ x.c.uCodes) []) (fun rd => rd.mask) fun gid sp g _ rd =>
    let a := (rd.uni x.a).toNat
    let c := (rd.uni x.c).toNat
    let row := fieldOf a 0 16
    let col := fieldOf a 16 16
    let h := fieldOf c 0 16
    let w := fieldOf c 16 16
    if tileSizeBad c then .error ⟨2, 0, none⟩
    else if col % 8 ≠ 0 then .error ⟨9, 0, none⟩
    else if s.accRows g < row + h ∨ 128 < col + w then .error ⟨0x0A, 0, none⟩
    else .ok (Done.plain (s.accOp gid sp g rd (.zero row h) col w))

/-- ACCPY (R259). -/
def execAccpy (x : OpAC) (s : State) : Out :=
  simtOnly s (fun _ => Spec.of x.m x.len false (x.a.uCodes ++ x.c.uCodes) []) (fun rd => rd.mask) fun gid sp g _ rd =>
    let a := (rd.uni x.a).toNat
    let c := (rd.uni x.c).toNat
    let row := fieldOf a 0 16
    let col := fieldOf a 16 16
    let off := fieldOf a 32 32
    let h := fieldOf c 0 16
    let w := fieldOf c 16 16
    if tileSizeBad c || fieldOf c 33 31 != 0 then .error ⟨2, 0, none⟩
    else if off % 16 ≠ 0 ∨ col % 8 ≠ 0 then .error ⟨9, if off % 16 ≠ 0 then off else 0, none⟩
    else if s.localLen g < off + 4 * w * h ∨ s.accRows g < row + h ∨ 128 < col + w then .error ⟨0x0A, 0, none⟩
    else .ok (Done.plain (s.accOp gid sp g rd (.copy (!bitOf c 32) row h off) col w))

end Sys2Proof.Machine
end

