-- ==== Sys2Proof/Machine/CountBank.lean ====
section
/-! DEFINITION. CountBank.lean: the count-bank instructions (R112, R113, R260 to R264). Each is performed at its issue, once
the group's earlier matrix, accumulator-copy and count-bank operations have been performed. -/

namespace Sys2Proof.Machine

/-! ### Wide banks (R112) -/

/-- The accumulator word that holds counter `k` of position (i, j) of a window of `n` columns saved at a row. -/
def bankWord (origin n i j k : Nat) : Nat := 128 * (origin + i * n / 8 + j / 8) + 16 * (j % 8) + k / 2

/-- A counter of a wide bank, as its 16-bit code. -/
def State.bankCode (s : State) (gid origin n i j k : Nat) : Nat :=
  let w := bankWord origin n i j k
  fieldOf (s.acc gid (w / 128) (w % 128)).toNat (16 * (k % 2)) 16

/-- A counter's value. -/
def State.bankCount (s : State) (gid origin n i j k : Nat) : Int := signedOf 16 (s.bankCode gid origin n i j k)

/-- The state of a bank: OVF, kind, TOUCHED. -/
def State.bankState (s : State) (gid origin n i j : Nat) : Bool × Nat × Bool :=
  let x := s.bankCode gid origin n i j 31
  (bitOf x 0, fieldOf x 1 2, bitOf x 3)

/-- The state counter's code. -/
def bankStateCode (ovf : Bool) (kind : Nat) (touched : Bool) : Nat := b01 ovf + 2 * kind + 8 * b01 touched

/-- The sixteen words of a bank: counters 0 to 29, counter 30 as 0, the state. -/
def bankImage (count : Nat → Int) (st : Nat) : List W32 :=
  (List.range 16).map fun w =>
    let c (k : Nat) : Nat := if k < 30 then wrapInt 16 (count k) else if k = 30 then 0 else st
    BitVec.ofNat 32 (c (2 * w) + 65536 * c (2 * w + 1))

/-- The writes of a bank. -/
def bankWrites (origin n i j : Nat) (err : Nat) (ws : List W32) : List (Nat × W32 × Nat) :=
  ws.zipIdx.map fun x => (bankWord origin n i j (2 * x.2), x.1, err)

/-- The poison of a bank's words (R116). -/
def Group.bankBad (g : Group) (origin n i j : Nat) : Nat :=
  if g.accPoison = [] then 0
  else ((List.range 16).findSome? fun w => Tbl.get? g.accPoison (bankWord origin n i j (2 * w))).getD 0

/-- The positions of `m` rows of `n` columns. -/
def positions (m n : Nat) : List (Nat × Nat) := (List.range m).flatMap fun i => (List.range n).map fun j => (i, j)

/-! ### Operands (R260) -/

/-- The fields of a window word. -/
structure Window where
  m : Nat
  n : Nat
  col : Nat
  row : Nat
  deriving DecidableEq, Repr

/-- A window word, or none where it is an OPND fault; `drain` for CBDRAINW. -/
def windowOf (x : Nat) (drain : Bool) : Option Window :=
  let w : Window := ⟨fieldOf x 32 6, fieldOf x 24 8, fieldOf x 16 8, fieldOf x 0 16⟩
  if fieldOf x 38 26 ≠ 0 ∨ !(w.n == 8 || w.n == 16 || w.n == 32) ∨ w.col % 8 ≠ 0 ∨ 128 < w.col + w.n then none
  else if drain then (if 1 ≤ w.m ∧ w.m ≤ 32 then some w else none)
  else if w.m = 0 ∧ w.row % 32 = 0 then some w else none

/-- The two scales of a scale pair. -/
def scalePair (x : W64) : Nat × Nat := (fieldOf x.toNat 0 32, fieldOf x.toNat 32 32)

/-- Whether a bank origin's column is not 0: ALIGN. -/
def originBad (x : Nat) : Bool := fieldOf x 16 16 != 0

/-- Whether a group has matrix operations that are not performed: the instruction waits (R113). -/
def State.matrixBusy (s : State) (gid : Nat) : Bool := s.simt.ops.any fun o => o.accepted && o.gid == gid

/-- What a count-bank instruction reads of its group's rows and of its slots: the errors there are met (R415). -/
def State.meetBanks (s : State) (gid : Nat) : State :=
  match s.group? gid with
  | none => s
  | some g => (((s.simt.slots.filter fun x => x.2.owner == gid).foldl (fun s x => s.meetSlot x.1) s).meetAcc gid
      (g.accErrs.map Prod.fst))

/-- A count-bank instruction: `mode` is its OPND fault of a reserved MODE (R156), `opnd` that of its operands' values (R260); then
the wait, and its body. -/
def countBank (m : Marks) (len : Nat) (needS : Bool) (srcs : Rd → List Nat) (mode opnd : Rd → Bool)
    (body : State → Nat → Group → Rd → Except (Nat × Nat) State) (s : State) : Out :=
  simtStall s (fun rd => { Spec.of m len (mode rd) (srcs rd) [] with needS := needS }) (fun rd => rd.mask)
    (fun gid _ _ _ rd => if opnd rd then .error (2, 0) else .ok (if s.matrixBusy gid then some (s, .matrix) else none))
    fun gid _ g _ rd =>
      let s := s.meetBanks gid
      match body s gid ((s.group? gid).getD g) rd with
      | .error e => .error (Flt.plain e)
      | .ok s => .ok (Done.plain s)

/-- The slot number of a group's engine. -/
def Group.slotKey (g : Group) (slot : Nat) : Nat := slotNo g.place.schedNo slot

/-! ### The instructions -/

/-- CBDRAIN (R261): drains by R111 and unbinds. -/
def execCbdrain (x : CodeI) (s : State) : Out :=
  countBank x.m 1 true (fun rd => [rd.modeCode]) (fun _ => false) (fun _ => false) (fun s gid g rd =>
    let k := g.slotKey x.code
    if s.slotTaken gid k || (s.slot? k).isNone then .error (0x0A, 0) else .ok (s.drainUnbind k (modeSat rd.mode))) s

/-- CBCLR (R261): unbinds without draining; an unbound slot stays. -/
def execCbclr (x : CodeI) (s : State) : Out :=
  countBank x.m 1 false (fun _ => []) (fun _ => false) (fun _ => false) (fun s gid g _ =>
    let k := g.slotKey x.code
    if s.slotTaken gid k then .error (0x0A, 0) else .ok (s.putSlot k none)) s

/-- The writes of CBSAVE: every position of the window, with the row's TOUCHED bit and OVF 0, and the bank's poison. -/
def saveWrites (v : LiveSlot) (origin : Nat) : List (Nat × W32 × Nat) :=
  (positions 32 v.n).flatMap fun (i, j) =>
    bankWrites origin v.n i j (Tbl.fget 0 v.bad (32 * i + j))
      (bankImage (v.count i j) (bankStateCode false (if v.int4 then 2 else 1) (hasLane v.touched i)))

/-- CBSAVE (R261). -/
def execCbsave (x : ACode) (s : State) : Out :=
  countBank x.m x.len true (fun _ => x.a.uCodes) (fun _ => false) (fun _ => false) (fun s gid g rd =>
    let k := g.slotKey x.code
    let a := (rd.uni x.a).toNat
    if originBad a then .error (9, 0)
    else if s.slotTaken gid k then .error (0x0A, 0)
    else
      match s.slot? k with
      | none => .error (0x0A, 0)
      | some v =>
        if s.accRows g < fieldOf a 0 16 + 4 * v.n then .error (0x0A, 0)
        else .ok ((s.putAcc gid (saveWrites v (fieldOf a 0 16))).putSlot k none)) s

/-- The slot that CBLOAD binds (R262). -/
def State.loadSlot (s : State) (gid origin : Nat) (g : Group) (w : Window) (int4 : Bool) (sc : Nat × Nat) : LiveSlot :=
  let counts := (positions 32 w.n).flatMap fun (i, j) => (List.range (classesOf int4).length).map fun k =>
    ((32 * i + j) * 32 + k, s.bankCount gid origin w.n i j k)
  { owner := gid, row0 := w.row, col := w.col, n := w.n, int4 := int4, sa := if int4 then 0 else sc.1,
    sb := if int4 then 0 else sc.2, depth := counts.foldl (fun d c => max d c.2.natAbs) 0,
    touched := maskWhere fun i => (List.range w.n).any fun j => (s.bankState gid origin w.n i j).2.2,
    banks := counts.foldl (fun t c => Tbl.fset 0 t c.1 c.2) []
    bad := (positions 32 w.n).foldl (fun t (i, j) => Tbl.fset 0 t (32 * i + j) (g.bankBad origin w.n i j)) []
    errs := [] }

/-- CBLOAD (R262): its checks, the drain of its own slot, then the load. -/
def execCbload (x : SlotAC) (s : State) : Out :=
  countBank x.m x.len true (fun rd => rd.modeCode :: (x.a.uCodes ++ [codeG x.c, codeG (x.c + 1)]))
    (fun _ => false) (fun rd => (windowOf (rd.g x.c).toNat false).isNone) (fun s gid g rd =>
      let k := g.slotKey x.slot
      let a := (rd.uni x.a).toNat
      let origin := fieldOf a 0 16
      match windowOf (rd.g x.c).toNat false with
      | none => .error (2, 0)
      | some w =>
        let cells := positions 32 w.n
        let kind := (s.bankState gid origin w.n 0 0).2.1
        if originBad a then .error (9, 0)
        else if s.accRows g < origin + 4 * w.n ∨ s.slotTaken gid k = true then .error (0x0A, 0)
        else if !(kind == 1 || kind == 2) || cells.any (fun p => (s.bankState gid origin w.n p.1 p.2).2.1 != kind) then
          .error (0x0B, 0)
        else if cells.any fun p => (s.bankState gid origin w.n p.1 p.2).1 || (List.range 30).any fun c =>
            decide (255 < (s.bankCount gid origin w.n p.1 p.2 c).natAbs) then .error (0x0A, 0)
        else
          let s := s.drainUnbind k (modeSat rd.mode)
          .ok (s.putSlot k (some (s.loadSlot gid origin ((s.group? gid).getD g) w (kind == 2) (scalePair (rd.g (x.c + 1))))))) s

/-- A counter of a merge: its value and whether it saturated (R263). -/
def mergeCount (a b : Int) : Int × Bool :=
  let x := a + b
  (max (-32768) (min 32767 x), decide (x < -32768) || decide (32767 < x))

/-- The writes of CBMERGE: 8R positions, of rows of eight, every source bank read before any write (R263). -/
def State.mergeWrites (s : State) (gid : Nat) (g : Group) (dst src r : Nat) : List (Nat × W32 × Nat) :=
  (positions r 8).flatMap fun (i, j) =>
    let cs := (List.range 30).map fun k => mergeCount (s.bankCount gid dst 8 i j k) (s.bankCount gid src 8 i j k)
    let a := s.bankState gid dst 8 i j
    let b := s.bankState gid src 8 i j
    let bad := g.bankBad dst 8 i j
    bankWrites dst 8 i j (if bad = 0 then g.bankBad src 8 i j else bad)
      (bankImage (fun k => ((cs[k]?).map Prod.fst).getD 0)
        (bankStateCode (a.1 || b.1 || cs.any Prod.snd) a.2.1 (a.2.2 || b.2.2)))

/-- CBMERGE (R263). -/
def execCbmerge (x : OpAC) (s : State) : Out :=
  countBank x.m x.len true (fun _ => x.a.uCodes ++ x.c.uCodes)
    (fun _ => false) (fun rd => let c := (rd.uni x.c).toNat
      decide (fieldOf c 32 16 < 1) || decide (256 < fieldOf c 32 16) || fieldOf c 48 16 != 0) (fun s gid g rd =>
    let a := (rd.uni x.a).toNat
    let c := (rd.uni x.c).toNat
    let dst := fieldOf a 0 16
    let src := fieldOf c 0 16
    let r := fieldOf c 32 16
    if originBad a || originBad c then .error (9, 0)
    else if s.accRows g < dst + r ∨ s.accRows g < src + r then .error (0x0A, 0)
    else if (positions r 8).any fun p =>
        let k := (s.bankState gid dst 8 p.1 p.2).2.1
        !(k == 1 || k == 2) || (s.bankState gid src 8 p.1 p.2).2.1 != k then .error (0x0B, 0)
    else .ok (s.putAcc gid (s.mergeWrites gid g dst src r))) s

/-- The words of CBDRAINW (R264), and whether FSTAT overflow is set. -/
def State.drainWide (s : State) (gid : Nat) (g : Group) (origin : Nat) (w : Window) (int4 sat : Bool) (sc : Nat × Nat) :
    List (Nat × W32 × Nat) × Bool :=
  let ws := (positions w.m w.n).filterMap fun (i, j) =>
    let st := s.bankState gid origin w.n i j
    if !st.2.2 then none
    else
      let key := 128 * (w.row + i) + w.col + j
      let (d, f) := drainWord int4 sat sc.1 sc.2 (s.acc gid (w.row + i) (w.col + j)).toNat
        (bankSum int4 fun k => s.bankCount gid origin w.n i j k)
      let bad := g.bankBad origin w.n i j
      some (key, d, if bad = 0 then Tbl.fget 0 g.accPoison key else bad, f || st.1)
  (ws.map fun w => (w.1, BitVec.ofNat 32 w.2.1, w.2.2.1), ws.any fun w => w.2.2.2)

/-- Whether MODE is not one of the two that CBDRAINW permits (R264). -/
def drainwFmtBad (m : W32) : Bool :=
  !((modeFa m == 8 && modeFb m == 8 && modeFac m == 0 && (modeScm m == 0 || modeScm m == 2))
    || (modeFa m == 13 && modeFb m == 13 && modeFac m == 1 && modeScm m == 0))

/-- CBDRAINW (R264). -/
def execCbdrainw (x : OpReg) (s : State) : Out :=
  countBank x.m x.len true (fun rd => rd.modeCode :: (x.a.uCodes ++ [codeG x.c, codeG (x.c + 1)]))
    matModeBad (fun rd => (windowOf (rd.g x.c).toNat true).isNone) (fun s gid g rd =>
      let a := (rd.uni x.a).toNat
      let origin := fieldOf a 0 16
      match windowOf (rd.g x.c).toNat true with
      | none => .error (2, 0)
      | some w =>
        let int4 := modeFa rd.mode == 13
        if drainwFmtBad rd.mode then .error (0x0B, 0)
        else if originBad a then .error (9, 0)
        else if s.accRows g < origin + ceilDiv (w.m * w.n) 8 ∨ s.accRows g < w.row + w.m ∨ 128 < w.col + w.n then
          .error (0x0A, 0)
        else if (positions w.m w.n).any fun p => (s.bankState gid origin w.n p.1 p.2).2.1 != (if int4 then 2 else 1) then
          .error (0x0B, 0)
        else
          let sc := if modeScm rd.mode = 2 then scalePair (rd.g (x.c + 1)) else (0x3F800000, 0x3F800000)
          let (ws, f) := s.drainWide gid g origin w int4 (modeSat rd.mode) sc
          .ok ((s.putAcc gid ws).accOverflow gid f)) s

end Sys2Proof.Machine
end

