-- ==== Sys2Proof/Machine/CrossLane.lean ====
section
/-! DEFINITION. CrossLane.lean: the cross-lane instructions (R221 to R226). -/

namespace Sys2Proof.Machine

/-- The width rule of the cross-lane instructions: a pair under a 64-bit type (R221). -/
def Rd.wideEty (r : Rd) : Bool := ety64 (modeEty r.mode)

/-! ### Shuffles (R222) -/

/-- The issue spec of a shuffle: `c` is 32 bits. -/
def specShfl (x : Op3) (rd : Rd) : Spec :=
  Spec.of x.m x.len (etyBad false (modeEty rd.mode) || rd.vBad rd.wideEty x.d || rd.vecBad rd.wideEty x.a || rd.vecBad false x.c)
    (x.a.vCodes rd.wideEty ++ x.c.vCodes false) (codesV rd.wideEty x.d)

/-- A shuffle whose source lane is computed from the lane and c. -/
def shuffle (src : Nat → Nat → Option Nat) (x : Op3) (s : State) : Out :=
  vecAlu s (specShfl x) false fun rd =>
    .ok (laneImages rd.lanes rd.wideEty x.d fun l =>
      let from? := (src l ((rd.vec false x.c l).toNat % 2 ^ 32)).filter (hasLane rd.active)
      Res.pure (rd.vec rd.wideEty x.a (from?.getD l)))

/-- A source lane read as an unsigned 32-bit number: it counts where it lies within 0 to 31. -/
def laneOf (x : Nat) : Option Nat := if x % 2 ^ 32 < 32 then some (x % 2 ^ 32) else none

def execShfl (x : Op3) (s : State) : Out := shuffle (fun _ c => some (c % 32)) x s
def execShflx (x : Op3) (s : State) : Out := shuffle (fun l c => some (l ^^^ (c % 32))) x s
def execShflup (x : Op3) (s : State) : Out := shuffle (fun l c => laneOf (l + 2 ^ 32 - c)) x s
def execShfldn (x : Op3) (s : State) : Out := shuffle (fun l c => laneOf (l + c)) x s

/-! ### Reductions (R223) -/

/-- A reduction of the codes of one element position; `none` stands for an inactive lane. -/
abbrev RedOp := Nat → Bool → List (Option Nat) → Nat × Flags

/-- The issue of a reduction: one value, each element position on its own, to every active lane. -/
def reduce (bad : Rd → Bool) (op : RedOp) (x : Op2) (s : State) : Out :=
  vecAlu s (fun rd => specV2 x (bad rd) rd.wideEty rd) false fun rd =>
    let ety := modeEty rd.mode
    let w := elemWidth ety
    let r := mapElems w (elemCount ety) fun e =>
      op ety (modeSat rd.mode) (allLanes.map fun l =>
        if hasLane rd.active l then some (elem w e (rd.vec rd.wideEty x.a l)) else none)
    .ok { laneImages rd.lanes rd.wideEty x.d (fun _ => Res.pure r.x) with flags := r.fl }

/-- Whether a type is reserved. -/
def redBad (rd : Rd) : Bool := etyBad false (modeEty rd.mode)

/-- One level of the tree: neighbours added, rounding to nearest even. -/
def treeLevel (f : FloatFmt) : List Nat → List Nat × Flags
  | a :: c :: r =>
    let x := f.add 0 (f.read a) (f.read c)
    let (rs, fl) := treeLevel f r
    (x.code :: rs, x.flags ||| fl)
  | r => (r, 0#5)

/-- The pairwise tree of R223. -/
def treeAdd (f : FloatFmt) : Nat → List Nat → Nat × Flags
  | 0, xs => ((xs.head?).getD 0, 0#5)
  | n + 1, xs =>
    let (ys, fl) := treeLevel f xs
    let (r, fr) := treeAdd f n ys
    (r, fl ||| fr)

/-- The exact sum of integer elements. -/
def intSum (sg : Bool) (w : Nat) (xs : List (Option Nat)) : Int :=
  xs.foldl (fun t x => match x with
    | some c => t + readInt sg w c
    | none => t) 0

/-- ADD. -/
def redAdd : RedOp := fun ety sat xs =>
  if etyFloat ety then treeAdd (etyFloatFmt ety) 5 (xs.map fun x => x.getD 0)
  else fit sat (etySigned ety) (elemWidth ety) (intSum (etySigned ety) (elemWidth ety) xs)

/-- MIN and MAX, with the identity in inactive lanes. -/
def redMinMax (isMax : Bool) : RedOp := fun ety _ xs =>
  if etyFloat ety then
    let f := etyFloatFmt ety
    let id := f.infCode isMax
    xs.foldl (fun acc x =>
      let r := f.minMax isMax acc.1 (x.getD id)
      (r.code, acc.2 ||| r.flags)) (((xs.head?).bind fun x => x).getD id, 0#5)
  else
    let sg := etySigned ety
    let w := elemWidth ety
    let id : Nat := wrapInt w (if isMax then intMin sg w else intMax sg w)
    (xs.foldl (fun acc x =>
      let y := x.getD id
      if (if isMax then decide (readInt sg w acc < readInt sg w y) else decide (readInt sg w y < readInt sg w acc))
      then y else acc) id, 0#5)

/-- A bitwise reduction with its identity. -/
def redBits (f : Nat → Nat → Nat) (ones : Bool) : RedOp := fun ety _ xs =>
  let id := if ones then 2 ^ elemWidth ety - 1 else 0
  (xs.foldl (fun acc x => f acc (x.getD id)) id, 0#5)

def execRedadd (x : Op2) (s : State) : Out := reduce redBad redAdd x s
def execRedmin (x : Op2) (s : State) : Out := reduce redBad (redMinMax false) x s
def execRedmax (x : Op2) (s : State) : Out := reduce redBad (redMinMax true) x s
def execRedand (x : Op2) (s : State) : Out := reduce redBad (redBits (· &&& ·) true) x s
def execRedor (x : Op2) (s : State) : Out := reduce redBad (redBits (· ||| ·) false) x s
def execRedxor (x : Op2) (s : State) : Out := reduce redBad (redBits (· ^^^ ·) false) x s

/-! ### MINIDX and MAXIDX (R224) -/

/-- Whether key `y` beats key `x`, which stands in a lower lane; a NaN loses to every number. -/
def keyBeats (isMax : Bool) (ety x y : Nat) : Bool :=
  if ety = 8 then
    let a := fmtFP32.read x
    let c := fmtFP32.read y
    if c.isNan then false
    else if a.isNan then true
    else (a.cmp true c) == (if isMax then .lt else .gt)
  else
    let a := readInt (ety == 0) 32 x
    let c := readInt (ety == 0) 32 y
    if isMax then decide (a < c) else decide (c < a)

/-- The winner's lane among active lanes: ties go to the lowest. -/
def keyWinner (isMax : Bool) (ety : Nat) (key : Nat → Nat) : List Nat → Option Nat → Option Nat
  | [], w => w
  | l :: r, none => keyWinner isMax ety key r (some l)
  | l :: r, some w => keyWinner isMax ety key r (if keyBeats isMax ety (key w) (key l) then some l else some w)

/-- The winning key as written: the canonical NaN where every active key is a NaN. -/
def keyOut (ety key : Nat) : Nat := if ety = 8 ∧ (fmtFP32.read key).isNan = true then 0x7FC00000 else key

/-- MINIDX and MAXIDX. -/
def minMaxIdx (isMax : Bool) (x : Op2) (s : State) : Out :=
  vecAlu s (fun rd =>
      let ety := modeEty rd.mode
      Spec.of x.m x.len (!(ety == 0 || ety == 1 || ety == 8) || rd.vBad true x.d || rd.vecBad false x.a)
        (x.a.vCodes false) (codesV true x.d)) false fun rd =>
    let ety := modeEty rd.mode
    let key (l : Nat) : Nat := (rd.vec false x.a l).toNat
    let w := (keyWinner isMax ety key rd.lanes none).getD 0
    let fl := nanFlag (ety == 8 && rd.lanes.any fun l => (fmtFP32.read (key l)).isSnan)
    .ok { laneImages rd.lanes true x.d (fun _ => Res.pure (BitVec.ofNat 64 (keyOut ety (key w) + 2 ^ 32 * w))) with
      flags := fl }

def execMinidx (x : Op2) (s : State) : Out := minMaxIdx false x s
def execMaxidx (x : Op2) (s : State) : Out := minMaxIdx true x s

/-! ### SCANADD and MATCH (R225, R226) -/

/-- SCANADD in a lane: the prefix sum of each element over the active lanes up to it. -/
def scanLane (rd : Rd) (x : Op2) (l : Nat) : Res :=
  let ety := modeEty rd.mode
  let w := elemWidth ety
  mapElems w (elemCount ety) fun e =>
    fit (modeSat rd.mode) (etySigned ety) w (intSum (etySigned ety) w ((rd.lanes.filter fun k => decide (k ≤ l)).map fun k =>
      some (elem w e (rd.vec rd.wideEty x.a k))))

/-- SCANADD (R225). -/
def execScanadd (x : Op2) (s : State) : Out :=
  vecAlu s (fun rd => specV2 x (!etyInt (modeEty rd.mode)) rd.wideEty rd) false fun rd =>
    .ok (laneImages rd.lanes rd.wideEty x.d (scanLane rd x))

/-- MATCH (R226): the active lanes whose a is the same, bit for bit. -/
def execMatchV (x : Op2) (s : State) : Out :=
  vecAlu s (fun rd => specV2 x (redBad rd) rd.wideEty rd) false fun rd =>
    .ok (laneImages rd.lanes rd.wideEty x.d fun l =>
      Res.pure ((maskWhere fun k => hasLane rd.active k && rd.vec rd.wideEty x.a k == rd.vec rd.wideEty x.a l).setWidth 64))

end Sys2Proof.Machine
end

