-- ==== Sys2Proof/Machine/Crypto.lean ====
section
/-! DEFINITION. Crypto.lean: the cryptographic functions the manual names. SHA3-256 has no key, and is computed. Of the
others, which act under keys drawn at random, each is an open function of its input bytes (`Config.crypto`), of the length
the manual states. -/

namespace Sys2Proof.Machine

/-- The `n` bytes that function `fn` gives for an input.
[DESIGN CHOICE, log entry 7] -/
def cryptoOut (fn : Nat) (x : List Byte) (n : Nat) : List Byte := (Config.crypto fn x n ++ List.replicate n 0#8).take n

/-! ### SHA3-256: a state of 25 lanes of 64 bits, lane x + 5y at place (x, y) -/

/-- The rotation of each lane. -/
def keccakRot : List Nat :=
  [0, 1, 62, 28, 27, 36, 44, 6, 55, 20, 3, 10, 43, 25, 39, 41, 45, 15, 21, 8, 18, 2, 61, 56, 14]

/-- The constant of each round. -/
def keccakConst : List W64 :=
  [0x0000000000000001#64, 0x0000000000008082#64, 0x800000000000808A#64, 0x8000000080008000#64, 0x000000000000808B#64,
    0x0000000080000001#64, 0x8000000080008081#64, 0x8000000000008009#64, 0x000000000000008A#64, 0x0000000000000088#64,
    0x0000000080008009#64, 0x000000008000000A#64, 0x000000008000808B#64, 0x800000000000008B#64, 0x8000000000008089#64,
    0x8000000000008003#64, 0x8000000000008002#64, 0x8000000000000080#64, 0x000000000000800A#64, 0x800000008000000A#64,
    0x8000000080008081#64, 0x8000000000008080#64, 0x0000000080000001#64, 0x8000000080008008#64]

/-- A lane of a state. -/
def laneAt (a : List W64) (i : Nat) : W64 := (a[i]?).getD 0#64

/-- One round of Keccak-f[1600].
[PRESUMED, log entry 106] -/
def keccakRound (a : List W64) (rc : W64) : List W64 :=
  let c := (List.range 5).map fun x =>
    laneAt a x ^^^ laneAt a (x + 5) ^^^ laneAt a (x + 10) ^^^ laneAt a (x + 15) ^^^ laneAt a (x + 20)
  let d := (List.range 5).map fun x => laneAt c ((x + 4) % 5) ^^^ (laneAt c ((x + 1) % 5)).rotateLeft 1
  let r := (List.range 25).map fun i => (laneAt a i ^^^ laneAt d (i % 5)).rotateLeft ((keccakRot[i]?).getD 0)
  let b := (List.range 25).map fun i => laneAt r ((i % 5 + 3 * (i / 5)) % 5 + 5 * (i % 5))
  (List.range 25).map fun i =>
    let x := i % 5
    let y := 5 * (i / 5)
    let v := laneAt b i ^^^ (~~~(laneAt b ((x + 1) % 5 + y)) &&& laneAt b ((x + 2) % 5 + y))
    if i = 0 then v ^^^ rc else v

/-- Keccak-f[1600]. -/
def keccakF (a : List W64) : List W64 := keccakConst.foldl keccakRound a

/-- A state with a block of 136 bytes added. -/
def keccakAbsorb (a : List W64) (block : List Byte) : List W64 :=
  keccakF ((List.range 25).map fun i =>
    if i < 17 then laneAt a i ^^^ BitVec.ofNat 64 (leNat ((block.drop (8 * i)).take 8)) else laneAt a i)

/-- `n` blocks of 136 bytes taken in. -/
def keccakBlocks (a : List W64) : Nat → List Byte → List W64
  | 0, _ => a
  | n + 1, x => keccakBlocks (keccakAbsorb a (x.take 136)) n (x.drop 136)

/-- The padding of SHA3-256: 0x06, zeros to the block's end, and 0x80 in its last byte. -/
def sha3Pad (x : List Byte) : List Byte :=
  let k := 135 - x.length % 136
  x ++ (if k = 0 then [0x86#8] else 0x06#8 :: List.replicate (k - 1) 0#8 ++ [0x80#8])

/-- SHA3-256 (R310, R346, R405).
[PRESUMED, log entry 106] -/
def sha3 (x : List Byte) : List Byte :=
  ((keccakBlocks (List.replicate 25 0#64) (x.length / 136 + 1) (sha3Pad x)).take 4).flatMap fun w => leBytes 8 w.toNat

/-- Cipher text and tag under a key and IV (R325, R361, R365). -/
def sealBytes (x : List Byte) (n : Nat) : List Byte := cryptoOut 2 x n

/-- A key wrapped by AES key wrap (RFC 3394): 40 bytes. -/
def wrapKey (x : List Byte) : List Byte := cryptoOut 3 x 40

/-- An ML-DSA-44 signature: 2,420 bytes. -/
def sign (x : List Byte) : List Byte := cryptoOut 4 x 2420

/-- Random bytes, drawn fresh each time.
[DESIGN CHOICE, log entry 7] -/
def State.random (s : State) (n : Nat) : List Byte × State := (cryptoOut 5 (leBytes 8 s.free) n, s.drawn)

/-- A random key of 256 bits, drawn fresh each time (R320, R325, R361, R365). -/
def State.freshKey (s : State) : Nat × State := (leNat (s.random 32).1, (s.random 32).2)

/-! ### The keys of the root of trust (R405, R406) -/

/-- The identity key's public half, from the device secret (R405). -/
def Rot.idPublic (r : Rot) : List Byte := cryptoOut 7 (leBytes 32 r.secret) 1312

/-- A signature of the identity key. -/
def Rot.idSign (r : Rot) (x : List Byte) : List Byte := Machine.sign (leBytes 32 r.secret ++ x)

/-- A signature of the attestation key (R405). -/
def Rot.sign (r : Rot) (x : List Byte) : List Byte := Machine.sign (leBytes 32 r.attKey ++ x)

/-- A key derived from a session's exported master secret, with a label (R406). -/
def Session.derive (x : Session) (label : List Nat) : List Byte := cryptoOut 16 (leBytes 32 x.master ++ label.map (BitVec.ofNat 8)) 32

/-- The migration key of a session: label "migrate" (R406, R370). -/
def Session.migrateKey (x : Session) : List Byte := x.derive [0x6D, 0x69, 0x67, 0x72, 0x61, 0x74, 0x65]

/-- The KFL stream key of a session: label "kfl stream" (R406, R322). -/
def Session.kflKey (x : Session) : List Byte := x.derive [0x6B, 0x66, 0x6C, 0x20, 0x73, 0x74, 0x72, 0x65, 0x61, 0x6D]

end Sys2Proof.Machine
end

