-- ==== Sys2Proof/Machine/Stops.lean ====
section
/-! DEFINITION. Stops.lean: the skid (R350 to R355), rollback (R293, R294), the report page (R359), and teams that leave
their core and come back (R28, R361). -/

namespace Sys2Proof.Machine

/-! ### Withdrawing and completing the work of a group (R351) -/

/-- Free every fault-buffer entry that a predicate names (R360). -/
def State.freeFb (s : State) (p : FbEntry → Bool) : State :=
  s.modSimt fun x => { x with fb := x.fb.map fun d => (d.1, d.2.filter fun e => !p e.2) }

/-- What a split parked at an instruction gives up at a stop: a blocking tuple request (R129), an operation not accepted
(R351), a SPAWN on a full queue (R278), a fault-buffer entry (R360). MWAIT and BARSYNC keep their waits (R243, R267), and a reply that has
been made is delivered (R129). -/
def State.withdrawSplit (s : State) (gid sp : Nat) (k : Park) : State :=
  let free (s : State) : State := s.modSplit gid sp fun p => { p with park := none }
  let note (kind value : Nat) (g : Group) : Group := { g with
    withdrawn := g.withdrawn ++ [(kind, sp, ((g.split? sp).map fun p => (p.point ((lowestLane p.mask).getD 0)).1).getD 0, value)] }
  match k with
  | .tuple id _ =>
    match Tbl.get? s.store.reqs id with
    | none => free s
    | some r =>
      match r.answer with
      | some w => s.tupWrite id r w
      | none => free ((s.dropReq id).modGroup gid fun g => { note 0 r.base g with
        flights := g.flights.filter fun f => f.id != r.flight })
  | .ctr _ _ target _ _ _ => free (s.modGroup gid (note 1 target))
  | .accept op _ _ => free (s.modSimt fun x => { x with ops := x.ops.filter fun o => o.id != op })
  | .spawnFull id _ _ _ => free (s.modGroup gid fun g => { g with flights := g.flights.filter fun f => f.id != id })
  | .replay d i => free (s.modSimt fun x => { x with fb := Tbl.mod x.fb d fun b => Tbl.del b i })
  | .mwait _ _ _ => s
  | .barsync _ _ => s
  | _ => free s

/-- A group's results discarded and its waits withdrawn (R351). -/
def State.withdrawGroup (s : State) (gid : Nat) : State :=
  match s.group? gid with
  | none => s
  | some g =>
    let s := s.modGroup gid Group.discard
    g.splits.foldl (fun s (i, p) => match p.park with
      | some k => s.withdrawSplit gid i k
      | none => s) s

/-- Whether a flight outlives a stop: a copy, a PUBLISH, a deferred arrival (R76, R91, R247). -/
def State.outlives (s : State) (gid : Nat) (f : Flight) : Bool :=
  (match f.kind with
    | .copy _ => true
    | _ => false)
  || s.simt.publishes.any (fun p => p.2.gid == gid && p.2.flight == f.id)
  || s.simt.deferred.any fun d => d.2.gid == gid && d.2.flight == f.id

/-- An instruction in flight performed within the skid (R351, R248): what is left of it after its results were discarded. -/
def State.performNow (s : State) (gid : Nat) (f : Flight) : State :=
  if f.done || s.outlives gid f then s
  else
    match f.kind with
    | .reply => (s.replyNow gid f).arrived ((s.group? gid).elim 0 fun g => g.place.ctx) f
    | .arrive _ _ => ((s.writeRegs gid f.w).finishFlight gid f.id).arrived ((s.group? gid).elim 0 fun g => g.place.ctx) f
    | .atom _ _ _ =>
      let s := s.memNow gid f.id
      (((s.group? gid).bind fun g => g.flight? f.id).map (s.replyNow gid)).getD s
    | _ => s.memNow gid f.id

/-- All the work of a group that the skid completes, performed in the order of issue (R351). -/
def State.completeGroup (s : State) (gid : Nat) : State :=
  match s.group? gid with
  | none => s
  | some g =>
    let s := g.flights.foldl (fun s f => s.performNow gid f) s
    outState (execBatchComplete gid (s.runOps gid)) s

/-- Whether a group has work that the skid still awaits.
[DEDUCED, log entry 36] -/
def State.skidWork (s : State) (gid : Nat) (g : Group) : Bool :=
  g.flights.any (fun f => !f.done && !s.outlives gid f) || s.matrixBusy gid
    || g.splits.any fun x => match x.2.park with
      | some (.mwait _ _ _) => true
      | _ => false

/-! ### Rollback (R293, R294) -/

/-- The address of an ordinal. -/
def Task.pointPc (t : Task) (ord : Nat) : W64 :=
  BitVec.ofNat 64 (t.launch.code + 4 * ((t.spt[ord]?).map SptEntry.offset).getD 0)

/-- A piece rolled back to its safe point: it issues from there. Its offset is recorded (R367) until it does. -/
def Piece.restart (x : Piece) (t : Task) (p : Split) (ac : Nat) : Split :=
  { mask := x.mask, pc := t.pointPc x.ord, mode := x.mode, modeQ := [], run := 0, ready := !p.held, readyAt := ac,
    readySince := ac, passed := 0, park := none, wpend := false, yielded := false, held := p.held,
    pieces := [{ x with wasSet := false }], spQ := [] }

/-- Pieces in ascending order of their lowest lane. -/
def byLane (ps : List Piece) : List Piece :=
  ps.mergeSort fun a b => decide ((lowestLane a.mask).getD 32 ≤ (lowestLane b.mask).getD 32)

/-- The pieces of a group that find no place of their own: former splits by lowest lane take the lowest free index; the rest
are the newest parked sets (R293). -/
def placePieces (splits : Table Split) (sets : List Split) : List (Piece × Split) → Table Split × List Split × List Split
  | [] => (splits, sets, [])
  | (x, p) :: r =>
    match if x.wasSet then none else [0, 1, 2, 3].find? fun i => (Tbl.get? splits i).isNone with
    | some i => placePieces (Tbl.put splits i p) sets r
    | none =>
      let (a, b, c) := placePieces splits sets r
      (a, b, p :: c)

/-- Every split and parked set rolled back to its safe points (R293); the SR states are those of the safe points (R145). -/
def Group.rollback (g : Group) (t : Task) (ac : Nat) : Group :=
  let heads := g.splits.filterMap fun (i, p) =>
    if p.keepsWait then some (i, { p with ready := false, run := 0 })
    else (byLane p.pieces).head?.map fun x => (i, x.restart t p ac)
  let rest := g.splits.flatMap fun (_, p) =>
    if p.keepsWait then [] else ((byLane p.pieces).drop 1).map fun x => (x, x.restart t p ac)
  let olds := g.sets.filterMap fun p => (byLane p.pieces).head?.map fun x => x.restart t p ac
  let more := g.sets.flatMap fun p => ((byLane p.pieces).drop 1).map fun x => (x, x.restart t p ac)
  let late := (rest ++ more).mergeSort fun a b =>
    decide ((lowestLane a.1.mask).getD 32 ≤ (lowestLane b.1.mask).getD 32)
  let (splits, sets, newest) := placePieces heads olds late
  { g with splits := splits, sets := sets ++ newest, fixed := [], regs := { g.regs with sr := g.regs.srSp } }

/-- The ordinals of a group's entries. -/
def Group.ordinals (g : Group) : List Nat :=
  (g.splits.flatMap fun x => x.2.pieces.map Piece.ord) ++ g.sets.flatMap fun x => x.pieces.map Piece.ord

/-- The live union of a group (R367): maps of v, p, q and g. -/
def Group.liveUnion (g : Group) (t : Task) : Nat × Nat × Nat × Nat :=
  g.ordinals.foldl (fun (v, p, q, x) o => match t.spt[o]? with
    | some e => (v ||| e.livev, p ||| e.livep, q ||| e.liveq, x ||| e.liveg)
    | none => (v, p, q, x)) (0, 0, 0, 0)

/-- Whether MODE is live at an ordinal. -/
def Task.modeLive (t : Task) (ord : Nat) : Bool := ((t.spt[ord]?).map SptEntry.modeLive).getD false

/-- Whether a poison key's register is in a union. -/
def keyLive (u : Nat × Nat × Nat × Nat) (k : Nat) : Bool :=
  if k < 3072 then bitOf u.1 (k / 32) else if k < 3136 then bitOf u.2.2.2 (k - 3072)
  else if k < 3144 then bitOf u.2.1 (k - 3136) else bitOf u.2.2.1 (k - 3144)

/-- The saved registers: those that the live union names; the others are 0 (R294). -/
def Regs.restrict (r : Regs) (u : Nat × Nat × Nat × Nat) : Regs :=
  { r with
    v := r.v.filter fun x => bitOf u.1 (x.1 / 32)
    p := r.p.filter fun x => bitOf u.2.1 x.1
    q := r.q.filter fun x => bitOf u.2.2.1 x.1
    g := r.g.filter fun x => bitOf u.2.2.2 x.1
    poison := r.poison.filter fun x => keyLive u x.1 }

/-- Every split's MODE, by its safe point: MODE that no live map names is `f` of a running number (R294). -/
def Group.setModes (g : Group) (t : Task) (f : Nat → W32) : Group :=
  let fix (n : Nat) (p : Split) : Split :=
    match p.pieces with
    | [x] => if t.modeLive x.ord then p else { p with mode := f n, modeQ := [], pieces := [{ x with mode := f n }] }
    | _ => p
  { g with splits := g.splits.map fun (i, p) => (i, fix i p)
           sets := g.sets.zipIdx.map fun (p, n) => fix (4 + n) p }

/-- The `v` registers with a poisoned lane. -/
def Regs.badV (r : Regs) : List Nat := ((r.poison.filter fun x => decide (x.1 < 3072)).map fun x => x.1 / 32).dedup

/-- Registers as a record restores them (R367): a poisoned one is 0 and poisoned as a whole, a lane of its own keeping its kind. -/
def Regs.wholePoison (r : Regs) : Regs :=
  let whole (t : Table Nat) (n : Nat) : Table Nat :=
    let k := (((r.poison.find? fun x => x.1 / 32 == n).map Prod.snd).getD 0)
    (List.range 32).foldl (fun t l => if (Tbl.get? t (32 * n + l)).isSome then t else Tbl.put t (32 * n + l) k) t
  let ok (k : Nat) : Bool := (Tbl.get? r.poison k).isNone
  { r with
    v := r.v.filter fun x => !r.badV.contains (x.1 / 32)
    g := r.g.filter fun x => ok (3072 + x.1)
    p := r.p.filter fun x => ok (3136 + x.1)
    q := r.q.filter fun x => ok (3144 + x.1)
    poison := r.badV.foldl whole r.poison }

/-- A group as it is restored elsewhere: registers outside the live union 0, MODE at its reset value unless live (R294), poisoned
registers as R367 has them.
[DEDUCED, log entry 35] -/
def Group.saved (g : Group) (t : Task) : Group :=
  { g.setModes t (fun _ => modeReset) with regs := (g.regs.restrict (g.liveUnion t)).wholePoison }

/-- The registers that a union does not name hold values that the manual leaves open after a resume in place (R355); what is
poisoned stays so (R417).
[DEDUCED, log entry 35] -/
def Regs.freed (r : Regs) (u : Nat × Nat × Nat × Nat) (vregs n : Nat) : Regs :=
  let r := { r.restrict u with poison := r.poison }
  let vs := ((List.range vregs).filter fun i => !bitOf u.1 i).flatMap fun i => (List.range 32).map fun l => 32 * i + l
  let ps := (List.range 7).filter fun i => !bitOf u.2.1 i
  let qs := (List.range 7).filter fun i => !bitOf u.2.2.1 i
  let gs := (List.range 64).filter fun i => !bitOf u.2.2.2 i
  { r with
    v := vs.foldl (fun t k => Tbl.fset 0#32 t k ((Config.freeWord (n + k)).setWidth 32)) r.v
    p := ps.foldl (fun t k => Tbl.fset 0#32 t k ((Config.freeWord (n + 3136 + k)).setWidth 32)) r.p
    q := qs.foldl (fun t k => Tbl.fset false t k (Config.freeBool (n + 3144 + k))) r.q
    g := gs.foldl (fun t k => Tbl.fset 0#64 t k (Config.freeWord (n + 3072 + k))) r.g }

/-- Free values that a resume in place draws for a group. -/
def resumeDraws : Nat := 3200

/-- A group resumed in place (R355).
[DEDUCED, log entry 35] -/
def State.resumeGroup (s : State) (gid : Nat) : State :=
  match (s.group? gid).bind fun g => (s.taskOf g).map fun t => (g, t) with
  | none => s
  | some (g, t) =>
    let g := g.setModes t fun n => modeMask ((Config.freeWord (s.free + 3160 + n)).setWidth 32)
    let s' := s.putGroup gid { g with
      regs := g.regs.freed (g.liveUnion t) t.launch.vregs s.free
      stop := none
      withdrawn := []
      splits := g.splits.map fun (i, p) => (i, p.again s.ac)
      sets := g.sets.map fun p => p.again s.ac }
    { s' with free := s'.free + resumeDraws }.promoteAll gid 4

/-! ### The swap area (R358) -/

/-- The physical address of a byte of the swap area, whose page must be OWNED by the enclave with R and W. -/
def State.swapByte (s : State) (q off : Nat) : Option Nat :=
  let c := s.ctx q
  let va := c.cxswap + off
  if c.cxswap = 0 ∨ 65536 * c.cxswapsz ≤ off then none
  else
    match (Tbl.get? s.hub.enclaves c.eid).bind fun e => Tbl.get? e.map (vpnOf va) with
    | none => none
    | some l =>
      let e := s.potOf l.ppn
      if l.r && l.w && !l.sealed && e.judged == potOwned && e.owner == c.eid && e.link == vpnOf va then
        some (4096 * l.ppn + va % 4096)
      else none

/-- Bytes written to the swap area, page by page; none where a page is not so owned. -/
def State.swapWrite (s : State) (q : Nat) : Nat → Nat → List Byte → Option State
  | 0, _, _ => some s
  | n + 1, off, bs =>
    if bs = [] then some s
    else
      match s.swapByte q off with
      | none => none
      | some pa => (s.write pa (bs.take 4096)).swapWrite q n (off + 4096) (bs.drop 4096)

/-- Bytes read from the swap area. -/
def State.swapRead (s : State) (q : Nat) : Nat → Nat → Nat → Option (List Byte)
  | 0, _, _ => some []
  | n + 1, off, len =>
    match s.swapByte q off with
    | none => none
    | some pa => (s.swapRead q n (off + 4096) (len - 4096)).map fun r => s.bytes pa (min 4096 len) ++ r

/-! ### SKID_END (R351 to R359) -/

/-- The groups of a context on a core: teams that are resident. -/
def State.residentGroups (s : State) (q : Nat) : List Nat :=
  (s.simt.groups.filter fun x => x.2.place.ctx == q && (s.teamOf x.2).map Team.state == some .resident).map Prod.fst

/-- The copies of a context, or of a team of it, stopped at their unit (R91). -/
def State.stopCopies (s : State) (p : Copy → Bool) : State :=
  let ids := (s.simt.copies.filter fun c => p c.2 && !c.2.srcDone).map Prod.fst
  { s with
    simt := { s.simt with copies := s.simt.copies.map fun c => if ids.contains c.1 then (c.1, { c.2 with stopped := true }) else c }
    agenda := s.agenda.filter fun x => match x.2 with
      | .copyUnitTransfer c => !ids.contains c
      | _ => true }

/-- Copies go on from their next unit (R91). -/
def State.resumeCopies (s : State) (p : Copy → Bool) (core : Option Nat) : State :=
  (s.simt.copies.filter fun c => p c.2 && c.2.stopped).foldl (fun s c =>
    (s.modCopy c.1 fun x => { x with stopped := false, cause := none, core := core.getD x.core }).later (c.2.nextEvent c.1)) s

/-- Schedulers whose run belongs to a group no longer issue it. -/
def State.endRuns (s : State) (gids : List Nat) : State :=
  { s with
    simt := { s.simt with scheds := s.simt.scheds.map fun k => match k.2.cur with
      | some (gid, _) => if gids.contains gid then (k.1, { k.2 with cur := none }) else k
      | none => k }
    turns := s.turns.filter fun a => match a with
      | .split gid _ => !gids.contains gid
      | _ => true }

/-- A group stopped: its work withdrawn or complete, its counters 0 but for the copies that resume (R81), and its splits at
their safe points; HALTPEER unless it met a fault of its own (R351, R353). -/
def State.stopGroup (s : State) (gid : Nat) (peer : Bool) : State :=
  let s := (s.withdrawGroup gid).completeGroup gid
  match (s.group? gid).bind fun g => (s.taskOf g).map fun t => (g, t) with
  | none => s
  | some (g, t) =>
    let g := { g.rollback t s.ac with flights := g.flights.filter fun f => !f.done }
    let st : StopInfo := ⟨0x18, (g.ordinals.head?).getD 0, 0, 0, false⟩
    (s.putGroup gid { g with stop := if peer then some (g.stop.getD st) else g.stop }).endRuns [gid]

/-- The report page after SEQ (Table 5). -/
def reportBytes (h : Halt) (time : Nat) (pl : Option Place) : List Byte :=
  let coords := (List.range 8).flatMap fun k => leBytes 4 (((pl.map Place.coords).getD [])[k]?.getD 0)
  let lost := (h.lost.take 16).flatMap fun (top, cs) =>
    leBytes 4 top ++ (List.range 7).flatMap fun k => leBytes 4 (cs[k]?.getD 0)
  let known := pl.isSome
  let body := leBytes 1 h.cause ++ leBytes 1 (min 16 h.lost.length) ++ leBytes 2 0
    ++ leBytes 4 (if known then h.ord else 0) ++ leBytes 1 (if known then h.off else 0) ++ leBytes 7 0
    ++ leBytes 8 (if known then h.value else 0) ++ leBytes 8 time
    ++ leBytes 4 ((pl.map Place.top).getD 0) ++ leBytes 4 0 ++ coords ++ lost
  body ++ List.replicate (4096 - 8 - body.length) 0#8

/-- The report page written, and SEQ's add (R359); dropped where the page is not the enclave's (R358). -/
def State.writeReport (s : State) (q : Nat) (h : Halt) : State :=
  match s.swapByte q 0 with
  | none => s
  | some pa =>
    let time := h.time - (s.part (s.partOfQueue q)).timeBase
    (s.write (pa + 8) (reportBytes h time ((h.gid.bind s.group?).map Group.place))).addCounter pa 1

/-- What of the execution side belongs to a context; `keep` asks for it, and otherwise for the rest. -/
def Simt.split (x : Simt) (q : Nat) (keep : Bool) : Simt :=
  let sel (b : Bool) : Bool := b == keep
  let tasks := (x.tasks.filter fun t => t.2.ctx == q).map Prod.fst
  let teams := (x.teams.filter fun t => tasks.contains t.2.task).map Prod.fst
  let gids := (x.groups.filter fun g => g.2.place.ctx == q).map Prod.fst
  { x with
    groups := x.groups.filter fun g => sel (gids.contains g.1)
    teams := x.teams.filter fun t => sel (teams.contains t.1)
    tasks := x.tasks.filter fun t => sel (tasks.contains t.1)
    trees := x.trees.filter fun t => sel (t.2.queue == q)
    spawnQs := x.spawnQs.filter fun k => sel (k.1 / 4096 == q)
    bars := x.bars.filter fun b => sel (tasks.contains (barTask b.1))
    deferred := x.deferred.filter fun d => sel (gids.contains d.2.gid)
    locals := x.locals.filter fun l => sel (teams.contains l.1)
    localPoison := x.localPoison.filter fun l => sel (teams.contains l.1)
    localErrs := x.localErrs.filter fun l => sel (teams.contains l.1)
    accs := x.accs.filter fun a => sel (gids.contains a.1)
    slots := x.slots.filter fun v => sel (gids.contains v.2.owner)
    ops := x.ops.filter fun o => sel (gids.contains o.gid)
    copies := x.copies.filter fun c => sel (c.2.ctx == q)
    publishes := x.publishes.filter fun p => sel (p.2.ctx == q) }

/-- A halt posts vector QVEC.BASE + 1 where HALTIRQ asks for it (R356). -/
def State.haltVector (s : State) (q : Nat) : State :=
  let x := s.queue q
  if !(s.ctx q).haltIrq then s
  else if x.vecCount < 2 then s.putQueue q { x with irqdrop := true }
  else s.post q (x.vecBase + 1)

/-- The packet of a context that stops (R344): abandoned unless its commit has begun. -/
def State.stopPacket (s : State) (q : Nat) : State :=
  let x := s.queue q
  if x.state = 3 ∧ (x.pkt.map fun p => p.commit.isNone) = some true then
    { s with turns := s.turns.filter fun a => a != Agent.easel q }.putQueue q { x with state := 2, pkt := none, readySince := s.ac }
  else s

/-- The group that raised the halt is the one whose record says so (R367). -/
def State.markFirst (s : State) (h : Halt) : State :=
  match h.gid with
  | some gid => if h.rank = 0 then s.modGroup gid fun g => { g with stop := g.stop.map fun x => { x with first := true } } else s
  | none => s

/-- The end of the skid (R354): every engine has stopped, and the context is HALTED. -/
def State.endSkid (s : State) (q : Nat) (h : Halt) : State :=
  let gids := s.residentGroups q
  let s := (gids.foldl (fun s gid => s.stopGroup gid true) s).markFirst h
  let s := (((s.stopCopies fun c => c.ctx == q).freeFb fun e => e.ctx == q).stopPacket q).flushCtx q
  let vpn := if h.cause = 6 ∨ h.cause = 8 then vpnOf h.value else 0
  let s := (s.dumpBreak q).modCtx q fun c => { c with
    state := 2, cause := h.cause, cxfault := vpn, vacBusy := false, vacResult := if c.vacBusy then 0 else c.vacResult }
  (s.writeReport q h).haltVector q

/-- The skid's length at most (R352). -/
def State.skidBound (s : State) (gids : List Nat) : Nat :=
  (s.simt.ops.filter fun o => o.accepted && gids.contains o.gid && decide (1536 < o.cost)).foldl
    (fun n o => max n (o.cost + 512)) 2048

/-- SKID_END (R354): it comes when the context's engines have completed what R351 names, within the bound of R352. -/
def execSkidEnd (queue : Nat) (s : State) : Out :=
  let c := s.ctx queue
  match c.halt with
  | none => .next s
  | some h =>
    if c.state ≠ 1 then .next s
    else
      let gids := s.residentGroups queue
      let s := gids.foldl State.withdrawGroup s
      if (gids.any fun gid => (s.group? gid).any (s.skidWork gid)) && decide (s.ac < h.time + s.skidBound gids) then
        .next (s.at (s.ac + 1) (.skidEnd queue))
      else .next (s.endSkid queue h)

end Sys2Proof.Machine
end

