-- ==== Sys2Proof/Machine/Sections.lean ====
section
/-! DEFINITION. Sections.lean: the state of a context, or of one team of it, as the plain bytes of image sections (R366 to
R368). -/

namespace Sys2Proof.Machine

/-- The context of a team. -/
def State.ctxOfTeam (s : State) (t : Team) : Nat := ((Tbl.get? s.simt.tasks t.task).map Task.ctx).getD 0

/-! ### Records (R366 to R368) -/

/-- The groups of a context that an image holds, in order: of teams that are resident or swapped, and not exited. -/
def State.imageGroups (s : State) (q : Nat) : List (Nat × Group) :=
  s.simt.groups.filter fun x => x.2.place.ctx == q && !x.2.exited &&
    ((s.teamOf x.2).any fun t => t.state == .resident || t.state == .swapped)

/-- The teams of a context that an image holds. -/
def State.imageTeams (s : State) (q : Nat) : List (Nat × Team) :=
  s.simt.teams.filter fun x => s.ctxOfTeam x.2 == q && (x.2.state == .resident || x.2.state == .swapped)

/-- A group's index within GROUPS; 0xFFFF_FFFF for a group that is not there. -/
def indexIn (gs : List (Nat × Group)) (gid : Nat) : Nat := ((gs.findIdx? fun x => x.1 == gid)).getD 0xFFFFFFFF

/-- Zero bytes up to a multiple of 16. -/
def padTo16 (bs : List Byte) : List Byte := bs ++ List.replicate (alignUp 16 bs.length - bs.length) 0#8

/-- The maps of a live union (Table 6): v, p, q, g. -/
def unionBytes (u : Nat × Nat × Nat × Nat) : List Byte :=
  leBytes 12 u.1 ++ leBytes 1 u.2.1 ++ leBytes 1 u.2.2.1 ++ leBytes 2 0 ++ leBytes 8 u.2.2.2

/-- The registers that one kind of poison marks, as maps. -/
def poisonMap (t : Table Nat) (mem : Bool) : Nat × Nat × Nat × Nat :=
  let ks := (t.filter fun x => decide (x.2 ≠ 0) == mem).map Prod.fst
  let bits (lo n d : Nat) : Nat := ((List.range n).filter fun i => ks.any fun k => decide (lo ≤ k) && (k - lo) / d == i).foldl
    (fun x i => x + 2 ^ i) 0
  (bits 0 96 32, bits 3136 8 1, bits 3144 8 1, bits 3072 64 1)

/-- A group record (R367): only saved registers are marked poisoned. -/
def groupBytes (g : Group) (t : Task) (swapped : Bool) : List Byte :=
  let u := g.liveUnion t
  let st := g.stop.getD ⟨0x18, 0, 0, 0, false⟩
  let poison := g.regs.poison.filter fun x => keyLive u x.1
  let poisoned := !poison.isEmpty
  let bad (k : Nat) : Bool := (Tbl.get? g.regs.poison k).isSome
  let head := leBytes 4 g.place.top ++ leBytes 1 st.cause ++ leBytes 1 (g.splits.length + g.sets.length)
    ++ leBytes 2 (b01 st.first + 2 * b01 swapped + 4 * b01 poisoned)
    ++ ((List.range 8).flatMap fun k => leBytes 4 ((g.place.coords[k]?).getD 0)) ++ leBytes 8 st.value
    ++ leBytes 8 g.regs.fstat.toNat ++ unionBytes u ++ leBytes 16 0
  let entries := (g.splits.flatMap fun x => entryBytes 0 x.1 x.2) ++ g.sets.zipIdx.flatMap fun x => entryBytes 1 x.2 x.1
  let sr := (List.range 32).flatMap fun l => leBytes 4 (Tbl.getD g.regs.sr l 0#32).toNat
  let regs := (((List.range 96).filter (bitOf u.1)).flatMap fun r => (List.range 32).flatMap fun l =>
      leBytes 4 (if g.regs.badV.contains r then 0 else (g.regs.rdV r l).toNat))
    ++ (((List.range 64).filter (bitOf u.2.2.2)).flatMap fun r => leBytes 8 (if bad (3072 + r) then 0 else (g.regs.rdG r).toNat))
    ++ (((List.range 7).filter (bitOf u.2.1)).flatMap fun r => leBytes 4 (if bad (3136 + r) then 0 else (g.regs.rdP r).toNat))
    ++ (((List.range 7).filter (bitOf u.2.2.1)).flatMap fun r => leBytes 1 (if bad (3144 + r) then 0 else b01 (rdQ g.regs.q r)))
  let tail := if poisoned then unionBytes (poisonMap poison true) ++ leBytes 8 0
      ++ unionBytes (poisonMap poison false) ++ leBytes 8 0 else []
  padTo16 (head ++ entries ++ sr ++ regs) ++ tail

/-- A tensor layout record's 64 bytes (R83). -/
def layoutBytes (l : Layout) : List Byte :=
  leBytes 8 l.base ++ leBytes 1 l.etype ++ leBytes 1 l.rank ++ leBytes 2 0 ++ (l.dims.flatMap fun d => leBytes 4 d)
    ++ (l.strs.flatMap fun d => leBytes 8 d)

/-- A copy stop record (R368): its own cause, or HALTPEER; `bar` is the BAR entry of the deferred arrival bound to it. -/
def copyBytes (c : Copy) (gindex bar : Nat) : List Byte :=
  leBytes 4 gindex ++ leBytes 1 (c.cause.getD 0x18) ++ leBytes 1 0
    ++ leBytes 2 (b01 c.srcDone + 2 * b01 c.landed + 4 * b01 (c.landed && !c.toPublish.isEmpty) + 16 * b01 c.ctl.defer)
    ++ leBytes 4 c.ord ++ leBytes 1 c.off ++ leBytes 3 0 ++ leBytes 4 (CpyCtl.enc c.ctl).toNat
    ++ leBytes 4 (if c.ctl.dir = 2 then 0 else c.localOff) ++ leBytes 8 c.unitAt
    ++ ((List.range 5).flatMap fun d => leBytes 4 (nth c.starts d + 2 ^ 24 * (nth c.exts d - 1))) ++ leBytes 12 0
    ++ layoutBytes c.glob ++ (if c.ctl.dir = 2 then layoutBytes c.dst else leBytes 64 0)
    ++ leBytes 8 c.srcVa ++ leBytes 8 c.pubVa ++ leBytes 4 bar ++ leBytes 44 0

/-- The stop record of a PUBLISH that has reached its range table (R247, R368). -/
def publishBytes (p : Publish) (gindex : Nat) : List Byte :=
  leBytes 4 gindex ++ leBytes 1 0x18 ++ leBytes 1 0 ++ leBytes 2 8 ++ leBytes 4 p.ord ++ leBytes 1 p.off ++ leBytes 51 0
    ++ leBytes 8 p.va ++ leBytes 136 0 ++ leBytes 4 0xFFFFFFFF ++ leBytes 44 0

/-- A BAR entry (Table 9): code, kind, phase, index, arrivals counted in the current and the next phase, bound copies. -/
def barBytes (code kind phase index cur nxt copies : Nat) : List Byte :=
  leBytes 1 code ++ leBytes 1 kind ++ leBytes 2 0 ++ leBytes 4 phase ++ leBytes 4 index ++ leBytes 4 cur ++ leBytes 4 nxt
    ++ leBytes 4 copies ++ leBytes 8 0

/-- The barrier code that a barrier's key stands for (R70): a launch barrier's, a team barrier's, or the number that counts on
from those of the levels inside it that are bound to its domain (R19). -/
def State.keyCode (s : State) (key : Nat) : Nat :=
  let n := key % 64
  let k := barLevel key
  if k = 15 then 96 + n
  else if k ≤ 1 then n
  else
    let ls := ((Tbl.get? s.simt.tasks (barTask key)).map fun t => t.launch.levels).getD []
    let dom := ((ls[k - 1]?).map Level.domain).getD 1
    32 * (dom - 1) + (((ls.take (k - 1)).filter fun l => l.domain == dom).map Level.bars).sum + n

/-- The barriers whose phase state a record holds: a context's, or those that belong to one of its teams. -/
def State.recordBars (s : State) (q : Nat) (team : Option Nat) : List (Nat × Barrier) :=
  s.simt.bars.filter fun b =>
    (Tbl.get? s.simt.tasks (barTask b.1)).any (fun t => t.ctx == q) && match team.bind (Tbl.get? s.simt.teams) with
      | none => true
      | some t => barTask b.1 == t.task && barLevel b.1 == 1 && barUnit b.1 == t.index

/-- The BAR entries of some groups, each with the deferred arrival that it stands for. -/
def State.barEntries (s : State) (q : Nat) (team : Option Nat) (gs : List (Nat × Group)) : List (Option Nat × List Byte) :=
  ((s.recordBars q team).map fun b =>
    (none, barBytes (s.keyCode b.1) 0 b.2.phase (barUnit b.1) b.2.cur.length b.2.nxt.length 0))
  ++ (gs.flatMap fun g => g.2.splits.filterMap fun p => match p.2.park with
    | some (.barsync key phase) => some (none, barBytes (s.keyCode key) 1 phase (indexIn gs g.1) 0 0 0)
    | _ => none)
  ++ (s.simt.deferred.filter fun d => gs.any fun g => g.1 == d.2.gid).map fun d =>
    (some d.1, barBytes d.2.code 2 d.2.phase (indexIn gs d.2.gid) 0 0 d.2.copies.length)

/-- The BAR entry of the deferred arrival that a copy is bound to, or 0xFFFF_FFFF (R368). -/
def State.barIndex (s : State) (es : List (Option Nat × List Byte)) (copy : Nat) : Nat :=
  (es.findIdx? fun e => e.1.any fun d => (Tbl.get? s.simt.deferred d).any fun x => x.copies.contains copy).getD 0xFFFFFFFF

/-- A BANKS entry (Table 9): the slot's place and its 32 × n wide banks (R112). -/
def slotBytes (x : LiveSlot) (gindex slot : Nat) : List Byte :=
  leBytes 4 gindex ++ leBytes 1 slot ++ leBytes 1 (if x.int4 then 13 else 8) ++ leBytes 1 x.n ++ leBytes 1 x.depth
    ++ leBytes 2 x.row0 ++ leBytes 2 x.col ++ leBytes 4 x.touched.toNat
    ++ leBytes 4 (if x.int4 then 0 else x.sa) ++ leBytes 4 (if x.int4 then 0 else x.sb) ++ leBytes 40 0
    ++ (List.range (32 * x.n)).flatMap fun p => (List.range 32).flatMap fun k =>
      leBytes 2 (if k = 31 then (if x.int4 then 4 else 2) + 8 * b01 (bitOf x.touched.toNat (p / x.n))
        else if Tbl.fget 0 x.bad (32 * (p / x.n) + p % x.n) != 0 then 0
        else wrapInt 16 (x.count (p / x.n) (p % x.n) k))

/-- The live slots of a context's groups, with owner, slot and binding: on the die and in team records. -/
def State.imageSlots (s : State) (gs : List (Nat × Group)) (ts : List (Nat × Team)) : List (Nat × Nat × LiveSlot) :=
  ((s.simt.slots.filter fun x => gs.any fun g => g.1 == x.2.owner).map fun x => (x.2.owner, x.1 % 2, x.2))
    ++ ts.flatMap fun t => t.2.saved.map fun x => (x.2.owner, x.1 % 2, x.2)

/-- A task record's 64 bytes (R302). -/
def taskBytes (t : TaskRec) : List Byte :=
  leBytes 8 t.launchAddr ++ leBytes 8 t.param ++ leBytes 8 t.aff ++ leBytes 4 t.units ++ leBytes 4 0 ++ leBytes 8 t.doneAddr
    ++ leBytes 24 0

/-- The spawn trees of a context with their waiting tasks, as SPAWN entries. -/
def State.spawnEntries (s : State) (q : Nat) : List (List Byte) :=
  (s.simt.trees.filter fun x => x.2.queue == q).map fun x =>
    let waiting := s.simt.tasks.filter fun t => t.2.tree == x.1 && !t.2.begun
    leBytes 8 x.2.counter ++ leBytes 8 x.2.doneAddr ++ leBytes 4 waiting.length ++ leBytes 12 0
      ++ waiting.flatMap fun t => taskBytes t.2.trec

/-- The sections of a context's image (R366), or of the record of one of its teams (R361): type and entries, in ascending type
order. -/
def State.sections (s : State) (q : Nat) (team : Option Nat) : List (Nat × List (List Byte)) :=
  let mine (t : Nat) : Bool := team.all fun x => x == t
  let gs := (s.imageGroups q).filter fun g => mine g.2.place.team
  let ts := (s.imageTeams q).filter fun t => mine t.1
  let swapped (g : Group) : Bool := (s.teamOf g).any fun t => t.state == .swapped
  let lead (t : Nat × Team) : Option Group := t.2.groups.head?.bind s.group?
  let bars := s.barEntries q team gs
  let all : List (Nat × List (List Byte)) :=
    [ (1, gs.filterMap fun g => (s.taskOf g.2).map fun t => groupBytes g.2 t (swapped g.2)),
      (3, ts.map fun t =>
        leBytes 4 (((lead t).map fun g => g.place.top).getD 0)
          ++ ((List.range 7).flatMap fun k => leBytes 4 ((((lead t).map fun g => g.place.coords).getD [])[k + 1]?.getD 0))
          ++ (List.range t.2.localLen).map fun i => Tbl.fget 0#8 (Tbl.getD s.simt.locals t.1 []) i),
      (4, gs.map fun g =>
        let rows := s.accRows g.2
        leBytes 4 (indexIn gs g.1) ++ leBytes 2 rows ++ leBytes 10 0 ++ (List.range (128 * rows)).flatMap fun k =>
          leBytes 4 (Tbl.fget 0#32 (Tbl.getD s.simt.accs g.1 []) k).toNat),
      (5, (s.imageSlots gs ts).map fun x => slotBytes x.2.2 (indexIn gs x.1) x.2.1),
      (6, ((s.simt.copies.filter fun c => c.2.ctx == q && !c.2.published && mine c.2.team).map fun c =>
          copyBytes c.2 (indexIn gs c.2.gid) (s.barIndex bars c.1))
        ++ (s.simt.publishes.filter fun p => p.2.ctx == q && (team.isNone || gs.any fun g => g.1 == p.2.gid)).map fun p =>
          publishBytes p.2 (indexIn gs p.2.gid)),
      (7, bars.map Prod.snd),
      (8, gs.map fun g => leBytes 4 (indexIn gs g.1) ++ leBytes 2 g.2.mat.completed ++ leBytes 2 g.2.mat.newest
        ++ leBytes 4 g.2.mat.metaOff ++ leBytes 4 g.2.mat.sideOff),
      (9, gs.flatMap fun g => (g.2.withdrawn.filter fun w => w.1 == 0).map fun w =>
        leBytes 4 (indexIn gs g.1) ++ leBytes 4 w.2.1 ++ leBytes 4 w.2.2.1 ++ leBytes 4 w.2.2.2),
      (10, if team.isNone then s.spawnEntries q else []),
      (11, gs.flatMap fun g => (g.2.withdrawn.filter fun w => w.1 == 1).map fun w =>
        leBytes 4 (indexIn gs g.1) ++ leBytes 4 w.2.1 ++ leBytes 4 w.2.2.1 ++ leBytes 4 w.2.2.2) ]
  all.filter fun x => !x.2.isEmpty

end Sys2Proof.Machine
end

