-- ==== Sys2Proof/Machine/Swap.lean ====
section
/-! DEFINITION. Swap.lean: teams written to the swap area as sealed records, and records read back (R28, R361, R362). -/

namespace Sys2Proof.Machine

/-- The bytes of a team's record (R361). -/
def State.teamSize (s : State) (id : Nat) (t : Team) : Nat :=
  let (vregs, acc) := ((Tbl.get? s.simt.tasks t.task).map fun k => (k.launch.vregs, k.launch.acc)).getD (0, 0)
  let slots := (s.simt.slots.filter fun x => t.groups.contains x.2.owner).length
  let copies := (s.simt.copies.filter fun c => c.2.team == id && !c.2.landed).length
  1024 + t.localLen + t.groups.length * (1536 + 128 * vregs + 512 * acc) + 65600 * slots + 256 * copies

/-- Blocks that a team's record needs (R361). -/
def State.teamBlocks (s : State) (id : Nat) (t : Team) : Nat := ceilDiv (s.teamSize id t + 16) 65536

/-- The first free blocks of a context's swap area; none where there are too few. -/
def Ctx.freeBlocks (c : Ctx) (n : Nat) : Option (List Nat) :=
  let bs := (((List.range c.cxswapsz).drop 1).filter fun b => !c.swapUsed.contains b).take n
  if bs.length = n ∧ c.cxswap ≠ 0 then some bs else none

/-- Whether a team can be written to its context's swap area now. -/
def State.canSwap (s : State) (id : Nat) (t : Team) : Bool :=
  let q := s.ctxOfTeam t
  match (s.ctx q).freeBlocks (s.teamBlocks id t) with
  | none => false
  | some bs => bs.all fun b => (List.range 16).all fun i => (s.swapByte q (65536 * b + 4096 * i)).isSome

/-- The swap blocks of a team taken, so that those of another may be looked for beside them. -/
def State.reserveBlocks (s : State) (id : Nat) (t : Team) : State :=
  s.modCtx (s.ctxOfTeam t) fun c => { c with swapUsed := c.swapUsed ++ (c.freeBlocks (s.teamBlocks id t)).getD [] }

/-- A team's groups and copies stopped, and its trace flushed, as a swap stops them (R28, R361). -/
def State.stopTeam (s : State) (id : Nat) (t : Team) : State :=
  let s := ((t.groups.foldl (fun s gid => s.stopGroup gid false) s).stopCopies fun c => c.team == id).meetTeam id
  (s.freeFb fun e => e.copy.any fun c => (Tbl.get? s.simt.copies c).any fun x => x.team == id).flushCtx (s.ctxOfTeam t)

/-- Whether some teams can all be written to their contexts' swap areas as they are once stopped, each beside those before it
(R28, R363). -/
def State.canSwapAll (s : State) : List Nat → Bool
  | [] => true
  | id :: r =>
    match Tbl.get? s.simt.teams id with
    | none => s.canSwapAll r
    | some t =>
      let s := s.stopTeam id t
      s.canSwap id t && (s.reserveBlocks id t).canSwapAll r

/-- A record written block by block. -/
def State.writeBlocks (s : State) (q : Nat) : List Nat → List Byte → State
  | [], _ => s
  | b :: r, bs => (((s.swapWrite q 16 (65536 * b) (bs.take 65536)).getD s)).writeBlocks q r (bs.drop 65536)

/-- A record read block by block. -/
def State.readBlocks (s : State) (q : Nat) : List Nat → Nat → List Byte
  | [], _ => []
  | b :: r, len => ((s.swapRead q 16 (65536 * b) (min 65536 len)).getD []) ++ s.readBlocks q r (len - 65536)

/-- A team's record (R361): its image sections, sealed under the context's residency key and its next IV, with the tag. -/
def State.teamRecord (s : State) (id : Nat) (t : Team) : List Byte :=
  let q := s.ctxOfTeam t
  let c := s.ctx q
  let plain := (s.sections q (some id)).flatMap fun x => x.2.flatten
  sealBytes (leBytes 32 c.residencyKey ++ leBytes 4 q ++ leBytes 8 c.swapIv ++ plain) (s.teamSize id t + 16)

/-- Whether the record of a swapped team is in the swap area as it was written: its tag holds (R361, R362). -/
def State.recordHolds (s : State) (q : Nat) (t : Team) : Bool := s.readBlocks q t.blocks t.record.length == t.record

/-- A team stopped alone and written as a sealed record (R361); where it cannot be written nothing is done and SWAPFULL is
set. -/
def State.swapOut (s : State) (id : Nat) : State :=
  match Tbl.get? s.simt.teams id with
  | none => s
  | some t =>
    let q := s.ctxOfTeam t
    if t.state ≠ .resident then s
    else
      let s' := s.stopTeam id t
      match (s'.ctx q).freeBlocks (s'.teamBlocks id t), s'.canSwap id t with
      | some bs, true =>
        let s := s'
        let record := s.teamRecord id t
        let mine := s.simt.slots.filter fun x => t.groups.contains x.2.owner
        let saved := mine.filterMap fun x => (s.group? x.2.owner).map fun g => (2 * g.place.member + x.1 % 2, x.2)
        let t' : Team := { t with state := .swapped, blocks := bs, record := record, saved := saved, since := s.ac }
        let s := s.modSimt fun x => { x with
          teams := Tbl.put x.teams id t'
          slots := x.slots.filter fun y => !t.groups.contains y.2.owner
          groups := x.groups.map fun (gid, g) =>
            if g.place.team = id then (gid, match Tbl.get? x.tasks t.task with
              | some k => g.saved k
              | none => g) else (gid, g) }
        let s := s.modCtx q fun c => { c with swapUsed := c.swapUsed ++ bs, swapIv := c.swapIv + 1 }
        (s.writeBlocks q bs record).soon (.teamPlacement (s.partOfQueue q))
      | _, _ => s.modCtx q fun c => { c with swapfull := true }

end Sys2Proof.Machine
end

