-- ==== Sys2Proof/Machine/Records.lean ====
section
/-! DEFINITION. Records.lean: the launch and task records as the front end reads and checks them (R17, R18, R28, R300 to
R302). -/

namespace Sys2Proof.Machine

/-! ### Fields -/

/-- A level-table entry (Table 8 of ch14) and whether its reserved field is zero. -/
def levelOf (x : Nat) : Level × Bool :=
  (⟨fieldOf x 0 8, fieldOf x 8 8, fieldOf x 32 32, fieldOf x 64 64⟩, fieldOf x 16 16 == 0)

/-- The number of the 16 B level entry k of a launch record. -/
def levelField (x k : Nat) : Nat := fieldOf x (8 * (0x30 + 16 * k)) 128

/-- A launch record's fields (Table 7 of ch14). -/
def launchOf (x : Nat) : LaunchRec :=
  { code := fieldOf x 64 64, spt := fieldOf x 128 64, spcount := fieldOf x 192 32, vregs := fieldOf x 224 16,
    gpt := fieldOf x 240 16, localBytes := fieldOf x 256 32, acc := fieldOf x 288 16, prio := fieldOf x 304 8,
    tbars := fieldOf x 312 8, window := fieldOf x 320 32, sqdepth := fieldOf x 352 32, stepall := bitOf x 48,
    levels := (List.range (fieldOf x 32 16)).map fun k => (levelOf (levelField x k)).1 }

/-- A task record's fields (Table 9 of ch14). -/
def taskRecOf (x : Nat) : TaskRec :=
  { launchAddr := fieldOf x 0 64, param := fieldOf x 64 64, aff := fieldOf x 128 64, units := fieldOf x 192 32,
    doneAddr := fieldOf x 256 64 }

/-- A safe-point table entry (Table 2 of ch14). -/
def sptEntryOf (x : Nat) : SptEntry :=
  { offset := fieldOf x 0 32, modeLive := bitOf x 32, livev := fieldOf x 64 96, livep := fieldOf x 160 8,
    liveq := fieldOf x 168 8, liveg := fieldOf x 192 64 }

/-! ### The checks of a launch record -/

/-- The limits of Table 7 of ch14, reserved fields and unused level entries included. -/
def launchFieldsBad (x : Nat) : Bool :=
  let l := launchOf x
  let n := fieldOf x 32 16
  fieldOf x 0 32 != 256 || n == 0 || decide (8 < n) || decide (1 < fieldOf x 48 16) || l.code % 64 != 0 || l.spt % 32 != 0
    || l.spcount == 0 || decide (l.vregs < 8) || decide (96 < l.vregs) || l.vregs % 8 != 0 || l.gpt == 0
    || decide (16 < l.gpt) || decide (262144 < l.localBytes) || l.acc % 8 != 0 || decide (256 < l.acc) || decide (3 < l.prio)
    || decide (32 < l.tbars) || (l.window != 0 && (decide (l.window < 4096) || decide (1048576 < l.window)))
    || decide (65536 < l.sqdepth) || fieldOf x (8 * 0xB0) 640 != 0
    || (List.range 8).any fun k => if k < n then !(levelOf (levelField x k)).2 else levelField x k != 0

/-- Whether a level's domain is lower than that of the level below it. -/
def domainsFall : List Level → Bool
  | a :: b :: r => decide (b.domain < a.domain) || domainsFall (b :: r)
  | _ => false

/-- R17: domain codes 1 TEAM, 2 CLUSTER, 3 DIE, 4 MODULE. -/
def levelsBad (l : LaunchRec) : Bool :=
  match l.levels with
  | [] => true
  | l1 :: rest =>
    l1.domain != 1 || l1.extent != l.gpt || l1.bars != 0 || (rest.any fun x => x.domain == 1 && x.extent != 1)
      || (l.levels.any fun x => x.domain == 0 || decide (4 < x.domain) || x.extent == 0 || (x.domain == 4 && x.bars != 0))
      || domainsFall l.levels

/-- T_core (R15). -/
def coreCapacity (l : LaunchRec) : Nat :=
  let c := ceilDiv l.gpt 4
  let terms := [(16, c), (512, c * l.vregs), (256, ceilDiv l.localBytes 1024), (256, c * l.acc), (32, l.tbars)]
  (minOf ((terms.filter fun t => t.2 != 0).map fun t => t.1 / t.2)).getD 0

/-- teams(k) (R18), for k = 1 on. -/
def teamsUpTo (l : LaunchRec) (k : Nat) : Nat := ((l.levels.map Level.extent).take k |>.drop 1).prod

/-- The cores in service in a partition (R390, R421). -/
def State.coresOf (s : State) (part : Nat) : List Nat :=
  s.dies.flatMap fun (d, x) =>
    if x.bound ∧ x.part = part then
      ((List.range 176).filter fun c => !x.retired.contains c).map fun c => 176 * d + c
    else []

/-- R18: the fit checks and the barrier checks. -/
def fitBad (l : LaunchRec) (cores : Nat) : Bool :=
  let t := coreCapacity l
  let sum (dom : Nat) : Nat := ((l.levels.filter fun x => x.domain == dom).map Level.bars).sum
  ((l.levels.zipIdx).any fun (x, k) =>
    let p := match x.domain with
      | 1 => 1
      | 2 => 8
      | 3 => 176
      | _ => cores
    decide (p * t < teamsUpTo l (k + 1)))
  || t == 0 || decide (16 < sum 2) || decide (8 < sum 3)

/-- The entries of a safe-point table, as far as its addresses translate.
[DEDUCED, log entry 32] -/
def State.readSpt (s : State) (q va : Nat) : Nat → List SptEntry
  | 0 => []
  | n + 1 =>
    match s.xlateCtx q va 32 .read false false with
    | .error _ => []
    | .ok x => sptEntryOf (s.readAt x 32) :: s.readSpt q ((va + 32) % 2 ^ 64) n

/-- A record read: its bytes as a number. -/
def State.recordBytes (s : State) (q va n : Nat) : Except Nat Nat :=
  match s.xlateCtx q va n .read false false with
  | .error c => .error c
  | .ok x => .ok (s.readAt x n)

/-- A launch record checked (R300): none where a check fails. -/
def State.checkLaunch (s : State) (q x : Nat) : Option (LaunchRec × List SptEntry) :=
  let l := launchOf x
  if launchFieldsBad x || levelsBad l || fitBad l (s.coresOf (s.partOfQueue q)).length then none
  else
    match s.xlateCtx q l.code 4 .fetch false false, s.xlateCtx q l.spt 32 .read false false with
    | .ok _, .ok _ => some (l, s.readSpt q l.spt l.spcount)
    | _, _ => none

/-- A counter of the front end: 8 B aligned, in NORMAL memory with R and W permission (R77, R302). -/
def State.frontCounter (s : State) (q va : Nat) : Option Nat :=
  if va % 8 ≠ 0 then none
  else
    match s.xlateCtx q va 8 .readWrite true false with
    | .error _ => none
    | .ok x => some x.pa

/-- A task record checked (R302). -/
def State.checkTask (s : State) (q x : Nat) : Option TaskRec :=
  let t := taskRecOf x
  if t.launchAddr % 256 ≠ 0 ∨ t.units = 0 ∨ fieldOf x 224 32 ≠ 0 ∨ fieldOf x 320 192 ≠ 0 then none
  else if t.doneAddr ≠ 0 ∧ s.frontCounter q t.doneAddr = none then none
  else some t

/-- A task named by address, with its records read and checked (R277, R340): the fault otherwise. -/
def State.readTask (s : State) (q va : Nat) : Except (Nat × Nat) (Option (TaskRec × LaunchRec × List SptEntry)) :=
  if va % 64 ≠ 0 then .error (9, va)
  else
    match s.recordBytes q va 64 with
    | .error c => .error (c, va)
    | .ok x =>
      let la := (taskRecOf x).launchAddr
      if la % 256 ≠ 0 then .ok none
      else
        match s.recordBytes q la 256 with
        | .error c => .error (c, la)
        | .ok y =>
          match s.checkTask q x, s.checkLaunch q y with
          | some t, some (l, spt) => .ok (some (t, l, spt))
          | _, _ => .ok none

/-- The launch record and safe-point table that a task record read names: addresses and bytes. -/
def State.launchReads (s : State) (q va : Nat) : List (Nat × Nat) :=
  match s.recordBytes q va 64 with
  | .error _ => []
  | .ok x =>
    let la := (taskRecOf x).launchAddr
    match s.recordBytes q la 256 with
    | .error _ => []
    | .ok y => (la, 256) :: (List.range (launchOf y).spcount).map fun i => (((launchOf y).spt + 32 * i) % 2 ^ 64, 32)

end Sys2Proof.Machine
end

