-- ==== Sys2Proof/Machine/Tasks.lean ====
section
/-! DEFINITION. Tasks.lean: tasks, spawn trees and SPAWN (R22, R23, R277, R342, R343), the exit of groups and tasks (R12,
R14, R58), placement (R13, R15, R19, R24), and the forward-progress swap (R28, R29). -/

namespace Sys2Proof.Machine

/-! ### Tasks and trees -/

/-- The teams of a task. -/
def Task.teamCount (t : Task) : Nat := t.trec.units * teamsUpTo t.launch t.launch.levels.length

/-- The teams of a task that exist. -/
def State.teamsOf (s : State) (task : Nat) : List (Nat × Team) := s.simt.teams.filter fun x => x.2.task == task

/-- Whether every group of a task has exited (a lost team counts as exited, R31). -/
def State.taskExited (s : State) (id : Nat) (t : Task) : Bool :=
  t.nextTeam == t.teamCount && (s.simt.groups.all fun g => g.2.place.task != id || g.2.exited)
    && ((s.teamsOf id).all fun x => x.2.state != .swapped)

/-- The task entries that a front end holds (R342). -/
def State.taskEntries (s : State) (die : Nat) : Nat :=
  (s.simt.tasks.filter fun x => dieOfQueue x.2.ctx == die && !s.taskExited x.1 x.2).length

/-- The tree entries that a front end holds (R342). -/
def State.treeEntries (s : State) (die : Nat) : Nat := (s.simt.trees.filter fun x => dieOfQueue x.2.queue == die).length

/-- A task accepted (R22): the last in its spawn queue. -/
def State.acceptTask (s : State) (tree q : Nat) (t : TaskRec) (l : LaunchRec) (spt : List SptEntry) (sq : Option Nat)
    (after : Option (Nat × Nat)) : State :=
  let id := s.newId fun x => Tbl.next x.tasks
  let task : Task :=
    { tree := tree, ctx := q, launch := l, trec := t, spt := spt, sq := sq, order := id, nextTeam := 0, begun := false,
      after := after, since := s.ac, completed := false }
  (s.modSimt fun x => { x with
    tasks := Tbl.put x.tasks id task
    spawnQs := match sq with
      | some k => Tbl.put x.spawnQs (4096 * q + k) (Tbl.getD x.spawnQs (4096 * q + k) [] ++ [id])
      | none => x.spawnQs }).soon (.teamPlacement (s.partOfQueue q))

/-- Whether a spawn queue is full for a tree (R343, R300). -/
def State.spawnFull (s : State) (q sq tree : Nat) : Bool :=
  let depth := ((Tbl.get? s.simt.trees tree).map Tree.sqdepth).getD 64
  let depth := if depth = 0 then 64 else depth
  let waiting := (Tbl.getD s.simt.spawnQs (4096 * q + sq) []).filter fun t =>
    (Tbl.get? s.simt.tasks t).any fun x => x.tree == tree
  decide (depth ≤ waiting.length) || decide (16384 ≤ s.taskEntries (dieOfQueue q))

/-- The flight of a SPAWN (R79, R277): what it writes to ST. -/
def spawnFlight (sp : Nat) (lanes : W32) (st : Nat) (taken : Bool) : Flight :=
  { Flight.result sp lanes { RegWrites.none with q := [(st, taken)] } with kind := .reply, path := some 7, rel := taken }

/-- The task of a SPAWN accepted: released by the SPAWN's flight, and the tree gains one (R277, R23, R57). -/
def State.spawnTask (s : State) (gid : Nat) (g : Group) (flight : Nat) (x : SpawnTry) : State :=
  let tree := ((s.taskOf g).map Task.tree).getD 0
  (s.acceptTask tree g.place.ctx x.trec x.launch x.spt (some x.sq) (some (gid, flight))).modSimt fun y => { y with
    trees := Tbl.mod y.trees tree fun t => { t with counter := t.counter + 1 } }

/-- A SPAWN accepted as it issues. -/
def State.spawnTake (s : State) (gid sp : Nat) (g : Group) (lanes : W32) (x : SpawnTry) : State :=
  (s.launch gid (spawnFlight sp lanes x.st true) .variableLatencyResult).spawnTask gid g g.nextFlight x

/-- A SPAWN that finds its queue full and waits: it has issued for its path (R79), and its flight stands still. -/
def State.spawnWait (s : State) (gid sp : Nat) (lanes : W32) (st : Nat) : State :=
  s.modGroup gid fun g => { g with
    nextFlight := g.nextFlight + 1
    flights := g.flights ++ [{ spawnFlight sp lanes st true with id := g.nextFlight, kind := .spawn }] }

/-- The spawn queues of a context (R329). -/
def Queue.spawnCount (x : Queue) : Nat := max 1 x.spq

/-- The issue spec of SPAWN. -/
def specSpawn (x : SpawnI) : Spec := { Spec.of x.m x.len false x.a.uCodes [codeQ x.ctl.st] with needS := true, rkind := 0 }

/-- The reads of a SPAWN's records take their place after the group's earlier accesses (R53): the task record, then what it
names. -/
def State.spawnReads (s : State) (gid : Nat) (g : Group) (lanes : W32) (va : Nat) : State :=
  let q := g.place.ctx
  let s := s.readAfter gid g.nextFlight lanes (s.recordAccs q [(va, 64)])
  (s.readAfter gid g.nextFlight lanes (s.recordAccs q (s.launchReads q va))).readRecords g ((va, 64) :: s.launchReads q va)

/-- A SPAWN whose records pass their checks (R277): accepted, FULL, or parked on its full queue. -/
def State.spawnIssue (s : State) (gid sp : Nat) (g : Group) (p : Split) (x : SpawnI) (tr : SpawnTry) : State :=
  let tree := ((s.taskOf g).map Task.tree).getD 0
  if !s.spawnFull g.place.ctx x.ctl.sq tree then
    (s.spawnTake gid sp g p.mask tr).advance gid sp x.m x.len false none none
  else if x.ctl.nb then
    (s.launch gid (spawnFlight sp p.mask x.ctl.st false) .variableLatencyResult).advance gid sp x.m x.len false none none
  else (s.spawnWait gid sp p.mask x.ctl.st).stall gid sp (.spawnFull g.nextFlight tr x.m x.len)

/-- SPAWN (R277): its checks in order, then accepted, FULL, or parked. -/
def execSpawn (x : SpawnI) (s : State) : Out :=
  simtAfter s (fun _ => specSpawn x) (fun rd => rd.mask)
    (fun gid g p rd => s.spawnReads gid g p.mask (rd.uni x.a).toNat)
    fun s gid sp g p rd =>
      match s.readTask g.place.ctx (rd.uni x.a).toNat with
      | .error (c, v) => s.issueFault gid sp g 0 c v
      | .ok r =>
        if (s.queue g.place.ctx).spawnCount ≤ x.ctl.sq then s.simtFault gid sp 0x0E 0
        else
          match r with
          | none => s.simtFault gid sp 0x0C 0
          | some (t, l, spt) => s.spawnIssue gid sp g p x ⟨x.ctl.sq, x.ctl.st, t, l, spt⟩

/-- SPAWN_ACCEPT (R277): a parked SPAWN whose queue has room: its flight goes on. -/
def execSpawnAccept (gid sp : Nat) (s : State) : Out :=
  match (s.group? gid).bind fun g => (g.split? sp).map fun p => (g, p) with
  | none => .next s
  | some (g, p) =>
    match p.park with
    | some (.spawnFull id x m len) =>
      let tree := ((s.taskOf g).map Task.tree).getD 0
      if s.spawnFull g.place.ctx x.sq tree then .next s
      else
        let s := (s.modFlight gid id fun f => { f with kind := .reply }).spawnTask gid g id x
        .next ((s.resumeAfter gid sp m len).later (.variableLatencyResult gid id))
    | _ => .next s

/-- Parked SPAWNs and commits that wait for a table are looked at again. -/
def State.recheckSpawns (s : State) : State :=
  let ws := s.simt.groups.flatMap fun (gid, g) => g.splits.filterMap fun (sp, p) => match p.park with
    | some (.spawnFull _ _ _ _) => some (gid, sp)
    | _ => none
  let s := ws.foldl (fun s (gid, sp) => s.soon (.spawnAccept gid sp)) s
  (s.hub.queues.filter fun x => (x.2.pkt.bind Packet.commit).isSome).foldl (fun s x => s.soon (.launchCommit x.1)) s

/-! ### Exit -/

/-- Barriers of which a group is a member are looked at again (R73). -/
def State.recheckBars (s : State) (g : Group) : State :=
  match s.taskOf g with
  | none => s
  | some t => s.simt.bars.foldl (fun s b => if memberOf t g.place b.1 then s.soon (.barrierPhaseComplete b.1) else s) s

/-- GROUP_EXIT (R12): a group with no live lane and no SPAWN outstanding has exited; it leaves its barriers (R73). -/
def execGroupExit (gid : Nat) (s : State) : Out :=
  match s.group? gid with
  | none => .next s
  | some g =>
    if g.exited || g.live != 0#32 || g.pathCount 7 != 0 then .next s
    else
      let s := ((((s.putGroup gid { g with exited := true, stepOn := false }).releaseTeam g.place.team).flushSoon g.place.schedNo
        g.place.ctx)).recheckBars g
      .next ((((s.soon (.teamResourceFree g.place.team)).soon (.taskComplete g.place.task)).soon
        (.teamPlacement (s.partOfQueue g.place.ctx))).recheckSpawns)

/-- Whether a team's resources are free (R14): every group has exited, its copies of DIR 0 and 1 have landed, and its groups'
matrix operations have completed (R105). -/
def State.teamDone (s : State) (id : Nat) (t : Team) : Bool :=
  t.groups.all (fun gid => (s.group? gid).all Group.exited && !s.matrixBusy gid)
    && !s.simt.copies.any fun c => c.2.team == id && !c.2.landed && c.2.ctl.dir != 2

/-- TEAM_RESOURCE_FREE (R14): the accumulator rows of exited groups with no operation left, and the team's local store and
barriers; a later team finds them zero (R35). -/
def execTeamResourceFree (team : Nat) (s : State) : Out :=
  match Tbl.get? s.simt.teams team with
  | none => .next s
  | some t =>
    if t.state ≠ .resident then .next s
    else
      let gone := t.groups.filter fun gid => (s.group? gid).all Group.exited && !s.matrixBusy gid
      let s := s.modSimt fun x => { x with
        accs := gone.foldl Tbl.del x.accs
        slots := x.slots.filter fun y => !gone.contains y.2.owner }
      let s := if s.teamDone team t then s.modSimt fun x => { x with
          teams := Tbl.put x.teams team { t with state := .freed }
          locals := Tbl.del x.locals team
          localPoison := Tbl.del x.localPoison team
          localErrs := Tbl.del x.localErrs team }
        else s
      .next (s.soon (.teamPlacement (s.partOfQueue (s.ctxOfTeam t))))

/-- Whether an access that a task awaits has not been performed (R58). -/
def Flight.awaited (f : Flight) : Bool :=
  !f.done && match f.kind with
    | .store => true
    | .atom _ _ _ => true
    | .copy _ => true
    | .reply => f.path == some 6
    | _ => false

/-- Whether a task completes (R58). -/
def State.taskDone (s : State) (id : Nat) (t : Task) : Bool :=
  s.taskExited id t && s.simt.groups.all fun g => g.2.place.task != id || !g.2.flights.any Flight.awaited

/-- A front end's add to a done counter (R23): made where its address still translates.
[DEDUCED, log entry 33] -/
def State.frontAdd (s : State) (q va : Nat) : State :=
  if va = 0 then s
  else
    match s.frontCounter q va with
    | some pa => s.frontEndAdd q va pa 1
    | none => s

/-- The groups, teams and barriers of a task removed, with all that hangs on them. -/
def State.dropTask (s : State) (id : Nat) : State :=
  let gids := (s.simt.groups.filter fun g => g.2.place.task == id).map Prod.fst
  s.modSimt fun x => { x with
    tasks := Tbl.del x.tasks id
    groups := x.groups.filter fun g => g.2.place.task != id
    teams := x.teams.filter fun t => t.2.task != id
    bars := x.bars.filter fun b => barTask b.1 != id
    deferred := x.deferred.filter fun d => !gids.contains d.2.gid
    accs := gids.foldl Tbl.del x.accs
    slots := x.slots.filter fun y => !gids.contains y.2.owner
    locals := x.locals.filter fun l => !(x.teams.any fun t => t.1 == l.1 && t.2.task == id) }

/-- The adds of a completed task (R58, R23): its done counter, then the tree's counter, then the tree's done counter. -/
def State.completeTask (s : State) (id : Nat) (t : Task) : State :=
  let s := (s.frontAdd t.ctx t.trec.doneAddr).modSimt fun x => { x with tasks := Tbl.put x.tasks id { t with completed := true } }
  let s :=
    match Tbl.get? s.simt.trees t.tree with
    | none => s
    | some tr =>
      if tr.counter ≤ 1 then (s.modSimt fun x => { x with trees := Tbl.del x.trees t.tree }).frontAdd tr.queue tr.doneAddr
      else s.modSimt fun x => { x with trees := Tbl.put x.trees t.tree { tr with counter := tr.counter - 1 } }
  (s.soon (.teamPlacement (s.partOfQueue t.ctx))).recheckSpawns

/-- Whether a group of a task has matrix operations that are not performed: it keeps its rows (R14, R105). -/
def State.taskBusy (s : State) (id : Nat) : Bool := s.simt.groups.any fun g => g.2.place.task == id && s.matrixBusy g.1

/-- TASK_COMPLETE (R58, R23): the adds of a task that completes, and its entry's end once its groups' matrix operations have
completed (R14). -/
def execTaskComplete (task : Nat) (s : State) : Out :=
  match Tbl.get? s.simt.tasks task with
  | none => .next s
  | some t =>
    if !s.taskDone task t then .next s
    else
      let busy := s.taskBusy task
      let s := if t.completed then s else s.completeTask task t
      .next (if busy then s else (s.dropTask task).soon (.teamPlacement (s.partOfQueue t.ctx)))

/-! ### Room (R13, R15, R19) -/

/-- The residents of a core that some teams would leave: groups that hold a slot, with their teams. -/
def State.coreGroups (s : State) (core : Nat) (skip : List Nat) : List (Nat × Group) :=
  s.simt.groups.filter fun g => g.2.place.core == core && !skip.contains g.2.place.team
    && ((s.teamOf g.2).map Team.state == some .resident)

/-- The resident groups of a core that have not exited: its load (R24). -/
def State.coreLoad (s : State) (core : Nat) : Nat := ((s.coreGroups core []).filter fun g => !g.2.exited).length

/-- The resident teams of a core, but some. -/
def State.coreTeams (s : State) (core : Nat) (skip : List Nat) : List (Nat × Team) :=
  s.simt.teams.filter fun t => t.2.core == core && t.2.state == .resident && !skip.contains t.1

/-- A team that waits to be placed: its task, its index, and its number where it has been placed before (R29). -/
structure Waiting where
  task : Nat
  index : Nat
  team : Option Nat
  deriving DecidableEq, Repr

/-- Whether the groups of a launch fit a core with offset `b` (R13, R15). -/
def State.fitsAt (s : State) (core b : Nat) (skip : List Nat) (l : LaunchRec) (saved : List Nat) : Bool :=
  let gs := s.coreGroups core skip
  let ts := s.coreTeams core skip
  let launchOfTeam (t : Team) : Option LaunchRec := (Tbl.get? s.simt.tasks t.task).map Task.launch
  (List.range 4).all (fun k =>
    let n := ((List.range l.gpt).filter fun j => (j + b) % 4 == k).length
    let mine := gs.filter fun g => g.2.place.sched == k
    let held := mine.filter fun g => !g.2.exited
    let acc := ((mine.filter fun g => !g.2.exited || s.matrixBusy g.1).map fun g => s.accRows g.2).sum
    decide (held.length + n ≤ 16) && decide ((held.map fun g => s.vregsOf g.2).sum + n * l.vregs ≤ 512)
      && decide (acc + n * l.acc ≤ 256))
  && decide ((ts.map fun t => t.2.localLen).sum + alignUp 1024 l.localBytes ≤ 262144)
  && decide ((ts.map fun t => ((launchOfTeam t.2).map LaunchRec.tbars).getD 0).sum + l.tbars ≤ 32)
  && saved.all fun k =>
    match Tbl.get? s.simt.slots (2 * (4 * core + (k / 2 + b) % 4) + k % 2) with
    | none => true
    | some v => !(gs.any fun g => g.1 == v.owner)

/-- The offset with which a team fits a core: the core chooses one, a free choice (R13).
[DESIGN CHOICE, log entry 29] -/
def State.roomAt (s : State) (core : Nat) (skip : List Nat) (w : Waiting) : Option Nat :=
  match Tbl.get? s.simt.tasks w.task with
  | none => none
  | some t =>
    let saved := ((w.team.bind (Tbl.get? s.simt.teams)).map fun x => x.saved.map Prod.fst).getD []
    ((List.range 4).map fun b => (b + s.freshWord.toNat % 4) % 4).find? fun b => s.fitsAt core b skip t.launch saved

/-- The cluster of a core (R1). -/
def clusterOf (core : Nat) : Nat := core / 8

/-- The instance of a domain that holds a core: a cluster or a die. -/
def instanceOf (domain core : Nat) : Nat := if domain = 2 then clusterOf core else dieOfCore core

/-- The teams of one unit of a level. -/
def State.unitTeams (s : State) (task k u : Nat) (l : LaunchRec) : List (Nat × Team) :=
  (s.teamsOf task).filter fun t => t.2.index / teamsUpTo l k == u

/-- The instance to which a unit is tied: that of a resident team, or, where none of its teams is swapped out, of one that has
ended (R24, R30).
[DEDUCED, log entry 34] -/
def State.unitAt (s : State) (task k u domain : Nat) (l : LaunchRec) : Option Nat :=
  let ts := s.unitTeams task k u l
  match ts.find? fun t => t.2.state == .resident with
  | some t => some (instanceOf domain t.2.core)
  | none => if ts.any fun t => t.2.state == .swapped then none else ts.head?.map fun t => instanceOf domain t.2.core

/-- The levels of a launch bound to CLUSTER or DIE, as level number and entry. -/
def boundLevels (l : LaunchRec) : List (Nat × Level) :=
  (l.levels.zipIdx.map fun (x, k) => (k + 1, x)).filter fun x => x.2.domain == 2 || x.2.domain == 3

/-- The instance that holds a unit's barriers (R19): that of a resident team, of one that is swapped out, or of one that has
ended. -/
def State.unitHeldAt (s : State) (task k u domain : Nat) (l : LaunchRec) : Option Nat :=
  let ts := s.unitTeams task k u l
  ((ts.find? fun t => t.2.state == .resident) <|> (ts.find? fun t => t.2.state == .swapped) <|> ts.head?).map fun t =>
    instanceOf domain t.2.core

/-- Whether every team of a unit has been freed or lost (R19). -/
def State.unitOver (s : State) (task k u : Nat) (l : LaunchRec) : Bool :=
  let ts := s.unitTeams task k u l
  ts.length == teamsUpTo l k && ts.all fun t => t.2.state == .freed || t.2.state == .lost

/-- The barriers of an instance that units hold, as (task, level, unit, barriers) (R19). -/
def State.heldBars (s : State) (domain inst : Nat) : List (Nat × Nat × Nat × Nat) :=
  (s.simt.tasks.flatMap fun (id, t) =>
    (boundLevels t.launch).flatMap fun (k, lv) =>
      if lv.domain != domain || lv.bars == 0 then []
      else (((s.teamsOf id).map fun x => x.2.index / teamsUpTo t.launch k).dedup).filterMap fun u =>
        if s.unitHeldAt id k u domain t.launch = some inst ∧ s.unitOver id k u t.launch = false then some (id, k, u, lv.bars)
        else none)

/-- Whether the instances of a core hold, or can give, the barriers of a team's units (R19, R24). -/
def State.barsRoom (s : State) (core : Nat) (w : Waiting) (l : LaunchRec) : Bool :=
  [(2, 16), (3, 8)].all fun (domain, limit) =>
    let held := s.heldBars domain (instanceOf domain core)
    let need := ((boundLevels l).filter fun x => x.2.domain == domain && x.2.bars != 0
      && !(held.any fun h => h.1 == w.task && h.2.1 == x.1 && h.2.2.1 == w.index / teamsUpTo l x.1)).map fun x => x.2.bars
    decide ((held.map fun h => h.2.2.2).sum + need.sum ≤ limit)

/-- Whether a core may take a team of a task: it is in service, not claimed, and its instances agree with its units'. -/
def State.coreAllowed (s : State) (core : Nat) (w : Waiting) (t : Task) : Bool :=
  (s.coresOf (s.partOfQueue t.ctx)).contains core && !s.simt.coreReset.contains core && !(s.ctx t.ctx).claimed.contains core
    && ((boundLevels t.launch).all fun (k, lv) =>
      match s.unitAt w.task k (w.index / teamsUpTo t.launch k) lv.domain t.launch with
      | some i => instanceOf lv.domain core == i
      | none => true)
    && s.barsRoom core w t.launch

/-! ### Affinity (R24) -/

/-- A team's affinity address: that of its innermost CLUSTER- or DIE-bound unit.
[DESIGN CHOICE, log entry 124] -/
def affinityOf (t : Task) (index : Nat) : Nat :=
  let l := t.launch
  let n := l.levels.length
  let top := index / teamsUpTo l n
  let base := t.trec.aff + top * ((l.levels[n - 1]?).map Level.stride).getD 0
  ((l.levels.zipIdx.map fun (x, k) => (k + 1, x)).filter fun x => decide (1 < x.1) && decide (x.1 < n)
    && (x.2.domain == 2 || x.2.domain == 3)).foldl
    (fun a x => a + index / teamsUpTo l x.1 % ((l.levels[x.1]?).map Level.extent).getD 1 * x.2.stride) base % 2 ^ 64

/-- An affinity address translated in the task's context: the range that homes it, and its physical address. -/
def State.affinityPa (s : State) (q va : Nat) : Option (Option Nat × Nat) :=
  match s.xlateCtx q va 1 .read false false, s.xlateCtx q va 1 .write false false, s.xlateCtx q va 1 .fetch false false with
  | .ok x, _, _ => some (x.range, x.pa)
  | _, .ok x, _ => some (x.range, x.pa)
  | _, _, .ok x => some (x.range, x.pa)
  | _, _, _ => none

/-- The tiers of clusters that a team is offered to (R24). -/
def State.tiers (s : State) (t : Task) (w : Waiting) : List (List Nat) :=
  let all := (s.coresOf (s.partOfQueue t.ctx)).map clusterOf |>.dedup
  if t.trec.aff = 0 then [all]
  else
    match s.affinityPa t.ctx (affinityOf t w.index) with
    | none => [all]
    | some (r, pa) =>
      if !s.inPartMem (s.partOfQueue t.ctx) pa then [all]
      else
        let home := match (r.bind fun i => Tbl.get? (s.ctx t.ctx).ranges i) with
          | some e => if e.homen && s.partOfDie (e.homecl / 22) == s.partOfQueue t.ctx then some (homeInCluster e.homecl pa)
            else s.homeCore pa
          | none => s.homeCore pa
        let die := (s.dieOffset pa).map Prod.fst
        [(home.map clusterOf).toList, all.filter fun c => some (c / 22) == die, all]

/-- The first of least value in a list. -/
def leastBy (f : Nat → Nat) : List Nat → Option Nat
  | [] => none
  | a :: r => match leastBy f r with
    | none => some a
    | some b => some (if f a ≤ f b then a else b)

/-- The cores of a cluster, in order. -/
def clusterCores (c : Nat) : List Nat := (List.range 8).map fun i => 8 * c + i

/-- The core that a waiting team goes to (R24): the least-loaded with room of the least-loaded cluster with room. -/
def State.chooseCore (s : State) (w : Waiting) (t : Task) : Option Nat :=
  let ok (core : Nat) : Bool := s.coreAllowed core w t && (s.roomAt core [] w).isSome
  (s.tiers t w).findSome? fun cs =>
    match leastBy (fun c => ((clusterCores c).map s.coreLoad).sum) (cs.filter fun c => (clusterCores c).any ok) with
    | none => none
    | some c => leastBy s.coreLoad ((clusterCores c).filter ok)

/-! ### Placing a team -/

/-- A group's coordinates (R21): its member number, then its place in each level. -/
def coordsOf (l : LaunchRec) (index member : Nat) : List Nat :=
  member :: ((l.levels.zipIdx.map fun (x, k) => (k + 1, x)).drop 1).map fun x => index / teamsUpTo l (x.1 - 1) % x.2.extent

/-- A group slot of a scheduler that no group holds (R7): which, is free.
[DESIGN CHOICE, log entry 29] -/
def State.freeSlot (s : State) (core sched : Nat) : Nat :=
  let used := ((s.coreGroups core []).filter fun g => g.2.place.sched == sched && !g.2.exited).map fun g => g.2.place.slot
  let slots := (List.range 16).filter fun i => !used.contains i
  (slots[s.freshWord.toNat / 4 % slots.length]?).getD 0

/-- The group that an event is about. -/
def Event.gid? : Event → Option Nat
  | .fixedLatencyWriteback gid => some gid
  | .variableLatencyResult gid _ => some gid
  | .runEndMerge gid _ => some gid
  | .groupExit gid => some gid
  | .spawnAccept gid _ => some gid
  | .atomicPerformed gid _ => some gid
  | .storePerformed gid _ => some gid
  | .ctrwaitWake gid _ => some gid
  | .batchComplete gid => some gid
  | _ => none

/-- A number for a new group: none that a group, or work under way of one that is gone, still bears. -/
def State.newGid (s : State) : Nat :=
  let x := s.simt
  let events := s.agenda ++ x.ctxs.flatMap fun c => c.2.heldEvents
  let asked := s.store.reqs.filterMap fun r => match r.2.who with
    | .split gid _ => some gid
    | .thread _ => none
  let used := x.copies.map (fun c => c.2.gid) ++ x.publishes.map (fun p => p.2.gid) ++ x.deferred.map (fun d => d.2.gid)
    ++ x.ops.map (fun o => o.gid) ++ asked ++ events.filterMap fun e => e.2.gid?
  used.foldl (fun n g => max n (g + 1)) (s.newId fun x => Tbl.next x.groups)

/-- Group `j` of a team placed for the first time (R303): its registers at their start, g0 the parameter. -/
def State.startGroup (s : State) (task team core b index : Nat) (t : Task) (j : Nat) : State :=
  let gid := s.newGid
  let sched := (j + b) % 4
  let pl : Place :=
    { ctx := t.ctx, task := task, team := team, member := j, core := core, sched := sched, slot := s.freeSlot core sched,
      top := index / teamsUpTo t.launch t.launch.levels.length, coords := coordsOf t.launch index j }
  let g := Group.start pl (BitVec.ofNat 64 t.launch.code)
  let g := { g with
    regs := { g.regs with g := Tbl.fset 0#64 g.regs.g 0 (BitVec.ofNat 64 t.trec.param) }
    splits := g.splits.map fun (i, p) => (i, { p with readyAt := s.ac, readySince := s.ac }) }
  let s := (s.putGroup gid g).modSimt fun x => { x with
    teams := Tbl.mod x.teams team fun y => { y with groups := y.groups ++ [gid] } }
  ((s.traceStart gid).modSimt fun x => { x with accs := Tbl.del x.accs gid }).drawn

/-- A team placed for the first time (R13). -/
def State.startTeam (s : State) (w : Waiting) (t : Task) (core b : Nat) : State :=
  let id := s.newId fun x => Tbl.next x.teams
  let team : Team :=
    { task := w.task, index := w.index, state := .resident, core := core, b := b, groups := [],
      localLen := alignUp 1024 t.launch.localBytes, blocks := [], record := [], saved := [], since := s.ac }
  let key := t.sq.map fun k => 4096 * t.ctx + k
  let s := s.modSimt fun x => { x with
    teams := Tbl.put x.teams id team
    tasks := Tbl.put x.tasks w.task { t with nextTeam := t.nextTeam + 1, begun := true }
    spawnQs := match key with
      | some k => Tbl.put x.spawnQs k ((Tbl.getD x.spawnQs k []).erase w.task)
      | none => x.spawnQs }
  ((List.range t.launch.gpt).foldl (fun s j => s.startGroup w.task id core b w.index t j) s).recheckSpawns

/-- A group of a team that comes back (R29, R361): its place, and its splits ready. -/
def State.returnGroup (s : State) (core b gid : Nat) : State :=
  match s.group? gid with
  | none => s
  | some g =>
    if g.exited then s.putGroup gid { g with place := { g.place with core := core, sched := (g.place.member + b) % 4 } }
    else
      let sched := (g.place.member + b) % 4
      let pl := { g.place with core := core, sched := sched, slot := s.freeSlot core sched }
      let s := s.putGroup gid { g with
        place := pl
        stop := none
        withdrawn := []
        splits := g.splits.map fun (i, p) => (i, p.again s.ac)
        sets := g.sets.map fun p => p.again s.ac }
      ((s.promoteAll gid 4).traceStart gid).drawn

/-- A swapped team placed again (R361): its record is checked, its state restored, its copies go on; a record that fails its
tag halts the context with INTEG. -/
def State.returnTeam (s : State) (id : Nat) (t : Team) (q core b : Nat) : State :=
  if !s.recordHolds q t then
    s.raiseHalt q ⟨0x15, 2, core, 0, 0, none, 0, 0, 0, s.ac, []⟩
  else
    let s := s.modSimt fun x => { x with
      teams := Tbl.put x.teams id { t with state := .resident, core := core, b := b, blocks := [], record := [], saved := [] }
      slots := t.saved.foldl (fun y v => Tbl.put y (2 * (4 * core + (v.1 / 2 + b) % 4) + v.1 % 2) v.2) x.slots }
    let s := s.modCtx q fun c => { c with swapUsed := c.swapUsed.filter fun k => !t.blocks.contains k }
    (t.groups.foldl (fun s gid => s.returnGroup core b gid) s).resumeCopies (fun c => c.team == id) (some core)

/-- Whether two teams of a launch share a unit bound to CLUSTER or DIE. -/
def sharesUnit (l : LaunchRec) (i j : Nat) : Bool := (boundLevels l).any fun (k, _) => i / teamsUpTo l k == j / teamsUpTo l k

/-- The units of a team are where it is placed: those of their teams that are swapped out go there with them (R30). -/
def State.moveUnits (s : State) (w : Waiting) (t : Task) (core : Nat) : State :=
  s.modSimt fun x => { x with teams := x.teams.map fun y =>
    if y.2.task = w.task ∧ y.2.state = .swapped ∧ sharesUnit t.launch y.2.index w.index = true then (y.1, { y.2 with core := core })
    else y }

/-- A waiting team placed on a core: the core's window restarts (R28), whether or not a swap made the room.
[DESIGN CHOICE, log entry 116] -/
def State.placeAt (s : State) (w : Waiting) (t : Task) (core b : Nat) : State :=
  let s := (s.modSimt fun x => { x with lastIssue := Tbl.put x.lastIssue core s.ac }).moveUnits w t core
  match w.team.bind fun id => (Tbl.get? s.simt.teams id).map fun x => (id, x) with
  | some (id, x) => s.returnTeam id x t.ctx core b
  | none => s.startTeam w t core b

/-! ### TEAM_PLACEMENT (R22, R24, R29, R343) -/

/-- Whether the SPAWN that released a task has been performed (R57). -/
def State.released (s : State) (t : Task) : Bool :=
  match t.after with
  | none => true
  | some (gid, f) => !((s.group? gid).any fun g => (g.flight? f).isSome)

/-- Whether the next unit of a task may be dispatched: in its spawn queue every earlier task has begun (R22). -/
def State.mayBegin (s : State) (id : Nat) (t : Task) : Bool :=
  s.released t && (t.begun || match t.sq with
    | some k => (Tbl.getD s.simt.spawnQs (4096 * t.ctx + k) []).head? == some id
    | none => true)

/-- The waiting teams of a partition's running contexts, by launch priority, then by how long they have waited: a team not yet
placed since its task's acceptance, a swapped one since it left (R28, R29, R343).
[DEDUCED, log entry 30] -/
def State.waitingTeams (s : State) (part : Nat) : List (Waiting × Task) :=
  let mine := s.simt.tasks.filter fun x => s.partOfQueue x.2.ctx == part && s.ctxRuns x.2.ctx
  let back := s.simt.teams.filterMap fun (id, x) =>
    if x.state != .swapped then none
    else (mine.find? fun t => t.1 == x.task).map fun t => (x.since, (⟨x.task, x.index, some id⟩ : Waiting), t.2)
  let fresh := mine.filterMap fun (id, t) =>
    if decide (t.nextTeam < t.teamCount) && s.mayBegin id t then some (t.since, (⟨id, t.nextTeam, none⟩ : Waiting), t) else none
  ((back ++ fresh).mergeSort fun a b =>
    let (p, q) := (a.2.2.launch.prio, b.2.2.launch.prio)
    decide (q < p) || (p == q && (decide (a.1 < b.1) || (a.1 == b.1 &&
      (decide (a.2.2.order < b.2.2.order) || (a.2.2.order == b.2.2.order && decide (a.2.1.index ≤ b.2.1.index))))))).map Prod.snd

/-- The progress window of a core: the smallest among the launches resident on it (R28). -/
def State.coreWindow (s : State) (core : Nat) : Nat :=
  (minOf ((s.coreTeams core []).filterMap fun t => (Tbl.get? s.simt.tasks t.2.task).map fun k =>
    if k.launch.window = 0 then 65536 else k.launch.window)).getD 65536

/-- The ac at which a core's window ends if nothing of it issues before. -/
def State.windowEnd (s : State) (core : Nat) : Nat := Tbl.getD s.simt.lastIssue core 0 + s.coreWindow core

/-- The cores of a partition with a resident team watch their windows while a team waits (R28). -/
def State.watchCores (s : State) (part : Nat) : State :=
  let cores := ((s.simt.teams.filter fun t => t.2.state == .resident && s.partOfDie (dieOfCore t.2.core) == part).map
    fun t => t.2.core).dedup
  cores.foldl (fun s core => if s.agenda.any fun e => e.2 == .progressSwap core then s
    else s.at (max (s.ac + 1) (s.windowEnd core)) (.progressSwap core)) s

/-- TEAM_PLACEMENT: one waiting team of a partition is placed, the first in order that finds room. -/
def execTeamPlacement (part : Nat) (s : State) : Out :=
  let ws := s.waitingTeams part
  match ws.findSome? fun (w, t) => (s.chooseCore w t).map fun core => (w, t, core) with
  | some (w, t, core) => .next ((s.placeAt w t core ((s.roomAt core [] w).getD 0)).soon (.teamPlacement part))
  | none => .next (if ws.isEmpty then s else s.watchCores part)

/-! ### PROGRESS_SWAP (R28) -/

/-- Whether a live split is parked on a wait that a swap may relieve; one that single step holds is not (R435). -/
def Split.blocked (p : Split) : Bool :=
  !p.held && match p.park with
  | some (.barwait _ _ _ _) => true
  | some (.barsync _ _) => true
  | some (.ctr _ _ _ _ _ _) => true
  | some (.tuple _ _) => true
  | some (.spawnFull _ _ _ _) => true
  | _ => false

/-- Whether a team is blocked, and since when (R28).
[DEDUCED, log entry 31] -/
def State.blockedSince (s : State) (t : Team) : Option Nat :=
  let gs := (t.groups.filterMap s.group?).filter fun g => !g.exited
  if !gs.isEmpty && (gs.all fun g => !g.splits.isEmpty && g.splits.all fun p => p.2.blocked) && s.ctxRuns (s.ctxOfTeam t) then
    some ((gs.flatMap fun g => g.splits.map fun p => p.2.readyAt).foldl max 0)
  else none

/-- The blocked teams of a core, longest blocked first. -/
def State.blockedTeams (s : State) (core : Nat) : List Nat :=
  let ts := (s.coreTeams core []).filterMap fun (id, t) => (s.blockedSince t).map fun n => (id, n)
  (ts.mergeSort fun a b => decide (a.2 ≤ b.2)).map Prod.fst

/-- A choice of teams to swap out: those that leave, those for whose records the swap area has no room beside those of the
others, and the offset with which the placed team then fits. -/
structure SwapPlan where
  out : List Nat
  full : List Nat
  b : Option Nat
  deriving DecidableEq, Repr

/-- The fewest of the blocked teams, longest blocked first, whose departure lets a team fit a core (R28, R361). -/
def State.fewest (s : State) (core : Nat) (w : Waiting) (out full : List Nat) : List Nat → SwapPlan
  | [] => ⟨out, full, s.roomAt core out w⟩
  | id :: r =>
    match s.roomAt core out w with
    | some b => ⟨out, full, some b⟩
    | none => if s.canSwapAll (out ++ [id]) then s.fewest core w (out ++ [id]) full r else s.fewest core w out (full ++ [id]) r

/-- SWAPFULL of the contexts of some teams (R361). -/
def State.setSwapfull (s : State) (ids : List Nat) : State :=
  ids.foldl (fun s id => match Tbl.get? s.simt.teams id with
    | some t => s.modCtx (s.ctxOfTeam t) fun c => { c with swapfull := true }
    | none => s) s

/-- PROGRESS_SWAP: a core that has issued nothing for its window swaps out blocked teams until the first waiting team fits,
which takes their place. -/
def execProgressSwap (core : Nat) (s : State) : Out :=
  let part := s.partOfDie (dieOfCore core)
  match s.waitingTeams part with
  | [] => .next s
  | (w, t) :: _ =>
    if s.ac < s.windowEnd core then .next (s.at (s.windowEnd core) (.progressSwap core))
    else if !s.coreAllowed core w t then .next (s.at (s.ac + 1) (.progressSwap core))
    else
      let plan := s.fewest core w [] [] (s.blockedTeams core)
      let s := s.setSwapfull plan.full
      match plan.b with
      | none => .next (s.at (s.ac + 1) (.progressSwap core))
      | some b => .next ((plan.out.foldl State.swapOut s).placeAt w t core b)

end Sys2Proof.Machine
end

