-- ==== Sys2Proof/Machine/System.lean ====
section
/-! DEFINITION. System.lean: SREAD and SWRITE over the special registers (R199, R200, R270), the traps and returns of control
threads (R272 to R275), interrupts (R375), TLBI (R286), and starting a thread (R202). -/

namespace Sys2Proof.Machine

/-! ### Special registers -/

/-- Special register numbers that a SIMT group may read (Table 7 of ch09). -/
def sprSimt (n : Nat) : Bool := decide (n < 0x40)

/-- Special register numbers that a control thread may read (Table 7 of ch09, Table 1 of ch13). -/
def sprThread (n : Nat) : Bool := [0x14, 0x15, 0x16, 0x18].contains n || decide (0x40 ≤ n)

/-- The level that a special register needs on a control core. -/
def sprLevel (n : Nat) : Nat :=
  if n = 0x40 ∨ n = 0x4F then 0 else if 0x48 ≤ n then 2 else if 0x41 ≤ n then 1 else 0

/-- Whether a special register can be written. -/
def sprWritable (n : Nat) : Bool := n == 0x14 || (decide (0x41 ≤ n) && decide (n < 0x4F))

/-- What a group reads in a special register (Table 7 of ch09).
[DEDUCED, log entry 24] -/
def State.sprGroup (s : State) (g : Group) (p : Split) (n : Nat) : W64 :=
  let lv (f : Task → Nat) : Nat := ((s.taskOf g).map f).getD 0
  BitVec.ofNat 64 <|
    if n < 8 then (g.place.coords[n]?).getD 0
    else if n = 0x08 then g.place.top
    else if n = 0x09 then lv fun t => t.trec.units
    else if n = 0x0A then lv fun t => t.launch.levels.length
    else if n < 0x13 then lv fun t => ((t.launch.levels[n - 0x0B]?).map Level.extent).getD 0
    else if n = 0x13 then lv fun t => t.trec.param
    else if n = 0x14 then g.regs.fstat.toNat
    else if n = 0x15 then s.time (s.partOfQueue g.place.ctx)
    else if n = 0x16 then g.place.core
    else if n = 0x17 then 16 * g.place.sched + g.place.slot
    else if n = 0x18 then (s.ctx g.place.ctx).eid
    else if n = 0x19 then p.mask.toNat
    else if n = 0x1A then g.live.toNat
    else if n = 0x1B then lv fun t => t.launch.prio
    else 0

/-- A register of a level's trap registers, by its number from xVEC on. -/
def TrapRegs.read (r : TrapRegs) (k : Nat) : W64 :=
  match k with
  | 0 => r.vec
  | 1 => r.epc
  | 2 => r.cause.setWidth 64
  | 3 => r.val
  | 4 => r.stat.setWidth 64
  | _ => r.scr

/-- A write of one of a level's trap registers (R270, R271): reserved bits are ignored. -/
def TrapRegs.set (r : TrapRegs) (k : Nat) (x : W64) : TrapRegs :=
  match k with
  | 0 => { r with vec := x &&& ~~~(0x3F#64) }
  | 1 => { r with epc := x }
  | 2 => { r with cause := x.setWidth 32 &&& 0x1FFFF#32 }
  | 3 => { r with val := x }
  | 4 => { r with stat := x.setWidth 32 &&& 0xF#32 }
  | _ => { r with scr := x }

/-- What a control thread reads in a special register (Table 7 of ch09, Table 1 of ch13). -/
def State.sprOfThread (s : State) (tid : Nat) (t : Thread) (n : Nat) : W64 :=
  if n = 0x14 then t.fstat
  else if n = 0x15 then BitVec.ofNat 64 (s.time (s.partOfThread tid))
  else if n = 0x16 then BitVec.ofNat 64 tid
  else if n = 0x18 then BitVec.ofNat 64 t.eid
  else if n = 0x40 then BitVec.ofNat 64 t.lvl
  else if n = 0x47 then t.ptroot
  else if n = 0x4E then t.hgpt
  else if n = 0x4F then BitVec.ofNat 64 (s.partOfThread tid)
  else if n < 0x47 then t.k.read (n - 0x41)
  else t.h.read (n - 0x48)

/-- A control thread's write of a special register.
[DEDUCED, log entry 102] -/
def Thread.sprSet (t : Thread) (n : Nat) (x : W64) : Thread :=
  if n = 0x14 then { t with fstat := fstatSet x }
  else if n = 0x47 then { t with ptroot := x &&& ~~~(0xFFF#64) }
  else if n = 0x4E then { t with hgpt := x }
  else if n < 0x47 then { t with k := t.k.set (n - 0x41) x }
  else { t with h := t.h.set (n - 0x48) x }

/-- Whether a thread's access to a special register is a PRIV fault (R199, R270): a level above its own, or a thread inside an
enclave that names a control-core register other than PLVL and CPART. -/
def Thread.sprPriv (t : Thread) (n : Nat) : Bool := decide (t.lvl < sprLevel n)

/-- SREAD (R199): variable-latency; it samples the register as it issues. -/
def execSread (x : DCode) (s : State) : Out :=
  s.issuer
    (fun gid sp g p =>
      s.issueSplit gid sp g p (Spec.of x.m 1 (!sprSimt x.code) (if x.code = 0x14 then [codeFstat] else []) [codeG x.d]) p.mask false
        (.ok (Done.plain (s.putVar gid sp p.mask (RegWrites.gOne x.d (s.sprGroup g p x.code))))))
    (fun tid t =>
      if t.sprPriv x.code then s.threadFault tid 5 0
      else
        s.issueThread tid t (Spec.of x.m 1 (!sprThread x.code) (if x.code = 0x14 then [codeFstat] else []) [codeG x.d])
          (.ok (s.modThread tid fun t => t.write (RegWrites.gOne x.d (s.sprOfThread tid t x.code)), none)))

/-- SWRITE (R199): it takes effect 4 ac after it issues; on a control core, at issue. -/
def execSwrite (x : ACode) (s : State) : Out :=
  s.issuer
    (fun gid sp g p =>
      s.issueSplit gid sp g p (Spec.of x.m x.len (!(sprSimt x.code && sprWritable x.code)) x.a.uCodes []) p.mask true
        (.ok (Done.plain (s.putFixed gid p.mask { RegWrites.none with fset := some ((s.rdSplit g sp p).uni x.a) }))))
    (fun tid t =>
      if t.sprPriv x.code then s.threadFault tid 5 0
      else
        s.issueThread tid t (Spec.of x.m x.len (!(sprThread x.code && sprWritable x.code)) x.a.uCodes [])
          (.ok (s.modThread tid fun t' => t'.sprSet x.code ((t.rd tid).uni x.a), none)))

/-! ### Calls, returns and waits -/

/-- An operand field that names g0 to g62, for the pair that an instruction reads or writes (R276, R279). -/
def pairOk (n : Nat) : Bool := decide (n < 63)

/-- SYSCALL (R275): from user level to kernel level; above it, OPND. -/
def execSyscall (x : Op0) (s : State) : Out :=
  threadOnly s 0 (fun _ => Spec.of x.m 1 false [] []) fun tid t _ =>
    if t.lvl ≠ 0 then .error (2, 0) else trapped (s.trap tid ⟨1, 0, 1, t.pc + 4#64, 0#64, true⟩) tid

/-- HVCALL (R275): from kernel level to hypervisor level, from user level to kernel level; at hypervisor level, OPND. -/
def execHvcall (x : Op0) (s : State) : Out :=
  threadOnly s 0 (fun _ => Spec.of x.m 1 false [] []) fun tid t _ =>
    if t.lvl = 2 then .error (2, 0) else trapped (s.trap tid ⟨2, 0, t.lvl + 1, t.pc + 4#64, 0#64, true⟩) tid

/-- ERET (R273): OPND at user level, and where PL is not below the current level.
[DEDUCED, log entry 48] -/
def execEret (x : Op0) (s : State) : Out :=
  threadOnly s 0 (fun _ => Spec.of x.m 1 false [] []) fun tid t _ =>
    if t.lvl = 0 then .error (2, 0)
    else if t.lvl ≤ fieldOf (if t.lvl = 2 then t.h.stat else t.k.stat).toNat 2 2 then .error (2, 0)
    else trapped (s.modThread tid Thread.eret) tid

/-! ### Interrupts (R375) -/

/-- The physical interrupts raised at a thread, lowest number first. -/
def State.physOf (s : State) (t : Nat) : Option Nat :=
  minOf ((s.hub.ppend.filter fun x => x / 4096 == t).map fun x => x % 4096)

/-- The virtual interrupts pending for a thread, lowest number first. -/
def State.virtOf (s : State) (t : Nat) : Option Nat :=
  minOf ((s.hub.vpend.filter fun x => x.1 / 256 == t).map fun x => x.1 % 256)

/-- The interrupt that a thread takes next (R375): physical ones first; as `vector`, a virtual one counts from 4096. -/
def State.interruptOf (s : State) (tid : Nat) : Option Nat :=
  let t := s.thread tid
  let phys := if t.lvl < 2 || bitOf t.h.stat.toNat 0 then s.physOf tid else none
  let virt := if t.lvl = 0 || (t.lvl == 1 && bitOf t.k.stat.toNat 0) then s.virtOf tid else none
  match phys with
  | some v => some v
  | none => virt.map fun v => 4096 + v

/-- Whether an interrupt is pending for a thread at its level or above (R275). -/
def State.interruptPending (s : State) (tid : Nat) : Bool :=
  (s.physOf tid).isSome || (decide ((s.thread tid).lvl < 2) && (s.virtOf tid).isSome)

/-- Whether a thread is between instructions, or in a wait that an interrupt ends (R78, R130, R275): an instruction of ch13 that
waits is none (R269). -/
def State.interruptible (s : State) (tid : Nat) : Bool :=
  let t := s.thread tid
  t.running && !t.wfi && t.resets.isNone && t.sealing.isNone && t.queued.isNone && match t.tupleWait with
    | some id => ((Tbl.get? s.store.reqs id).map TupReq.parked).getD true
    | none => true

/-- The tuple request that an interrupt withdraws (R130): the thread returns to the instruction. -/
def State.withdrawThread (s : State) (tid : Nat) : State :=
  match (s.thread tid).tupleWait with
  | some id => (s.dropReq id).modThread tid fun t => { t with tupleWait := none }
  | none => s

/-- TRAP_ENTRY (R272, R375): a thread takes an interrupt; its pending bit clears. -/
def execTrapEntry (thread vector : Nat) (s : State) : Out :=
  if s.interruptible thread && s.interruptOf thread == some vector then
    let s := s.withdrawThread thread
    let virt := decide (4096 ≤ vector)
    let v := vector % 4096
    let s := s.modHub fun h =>
      if virt then { h with vpend := h.vpend.filter fun x => x.1 != 256 * thread + v }
      else { h with ppend := h.ppend.filter fun x => x != 4096 * thread + v }
    .next (s.trap thread ⟨3, 0, if virt then 1 else 2, (s.thread thread).pc, BitVec.ofNat 64 v, false⟩)
  else .next s

/-- WFI (R275): it stalls the thread unless an interrupt is pending. -/
def execWfi (x : Op0) (s : State) : Out :=
  threadOnly s 0 (fun _ => Spec.of x.m 1 false [] []) fun tid _ _ =>
    .ok (if s.interruptPending tid then s else s.modThread tid fun t => { t with wfi := true }, none)

/-- WFI_WAKE (R275). -/
def execWfiWake (thread : Nat) (s : State) : Out :=
  .next (if (s.thread thread).wfi && s.interruptPending thread then s.modThread thread fun t => { t with wfi := false } else s)

/-! ### TLBI (R286) -/

/-- Invalidate the host-domain translations of a partition that a test names.
[DESIGN CHOICE, log entry 16] -/
def State.tlbDrop (s : State) (p : TlbEntry → Bool) : State :=
  s.modHub fun h => { h with tlb := h.tlb.filter fun e => !p e }

/-- TLBI.ALL. -/
def execTlbiAll (x : Op0) (s : State) : Out :=
  threadOnly s 1 (fun _ => Spec.of x.m 1 false [] []) fun tid _ _ =>
    let part := s.partOfThread tid
    .ok (s.tlbDrop fun e => e.part == part, none)

/-- TLBI.PAGE: the page that holds the address, in the current address space. -/
def execTlbiPage (x : Op1) (s : State) : Out :=
  threadOnly s 1 (fun _ => Spec.of x.m x.len false x.a.uCodes []) fun tid t rd =>
    let part := s.partOfThread tid
    .ok (s.tlbDrop fun e => e.part == part && e.root == t.ptroot.toNat && e.holds (vpnOf (rd.uni x.a).toNat), none)

/-- TLBI.SPACE: every translation of the address space whose level-5 table is at the address. -/
def execTlbiSpace (x : Op1) (s : State) : Out :=
  threadOnly s 1 (fun _ => Spec.of x.m x.len false x.a.uCodes []) fun tid _ rd =>
    let part := s.partOfThread tid
    .ok (s.tlbDrop fun e => e.part == part && e.root == (rd.uni x.a).toNat, none)

/-- A control thread started: every register is at its reset value (R270). -/
def State.startThread (s : State) (thread lvl : Nat) (pc : W64) : State :=
  s.putThread thread { Thread.reset with running := true, lvl := lvl, pc := pc }

/-- THREAD_START (R202, R270): the hypervisor starts a control thread at a level.
[DESIGN CHOICE, log entry 50] -/
def execThreadStart (thread lvl pc : Nat) (s : State) : Out :=
  .next (if (s.thread thread).running || decide (128 ≤ thread) || decide (2 < lvl) then s
    else s.startThread thread lvl (BitVec.ofNat 64 pc))

end Sys2Proof.Machine
end

