-- ==== Sys2Proof/Machine/Enclave.lean ====
section
/-! DEFINITION. Enclave.lean: enclaves and page ownership: ECREATE, EENTER, EEXIT, EDESTROY (R280 to R282, R310 to R312,
R317), PGASSIGN, PGSEAL, PGUNSEAL and SCRUB (R283, R285, R315, R316, R325 to R327), and the range port (R318, R319). -/

namespace Sys2Proof.Machine

/-! ### What the system instructions share (R269, R276, R279) -/

/-- A status word that reports a failure (R276). -/
def failStatus (reason : Nat) : W64 := BitVec.ofNat 64 (0xFFFF0000 + reason)

/-- Status reasons (Table 4 of ch13). -/
def stBadDesc : Nat := 0x01
def stNoEid : Nat := 0x02
def stNoKey : Nat := 0x03
def stNoMeta : Nat := 0x04
def stPageState : Nat := 0x05
def stBadEid : Nat := 0x06
def stBusy : Nat := 0x07
def stState : Nat := 0x08
def stStale : Nat := 0x09
def stTag : Nat := 0x0A
def stToken : Nat := 0x0B
def stPolicy : Nat := 0x0C
def stNoSpace : Nat := 0x0D
def stSketch : Nat := 0x0E

/-- The reason of a refusal for which the manual names none (R418): free.
[DEDUCED, log entry 70] -/
def State.openReason (s : State) : Nat := 1 + (s.freeNow 4).toNat % 14

/-- A thread's `g` register written. -/
def State.setG (s : State) (tid d : Nat) (x : W64) : State := s.modThread tid fun t => t.write (RegWrites.gOne d x)

/-- A failure reported in g(d). -/
def State.fail (s : State) (tid d reason : Nat) : State := s.setG tid d (failStatus reason)

/-- What an instruction that returns a status answers: the reason of its failure, or its state. -/
abbrev Sys := Except Nat State

/-- The status of an answer written to g(d): 0 on success (R276). -/
def State.answer (s : State) (tid d : Nat) (r : Sys) : State :=
  match r with
  | .error e => s.fail tid d e
  | .ok t => t.setG tid d 0#64

/-- A system instruction with a status in g(d): its operand faults, then its body. -/
def sysOp (s : State) (level : Nat) (m : Marks) (len d : Nat) (bad : Bool) (srcs : List Nat)
    (body : Nat → Thread → Rd → Except (Nat × Nat) Sys) : Out :=
  threadOnly s level (fun _ => Spec.of m len bad srcs [codeG d]) fun tid t rd =>
    match body tid t rd with
    | .error e => .error e
    | .ok r => .ok (s.answer tid d r, none)

/-- Lines of 64 B of a buffer in the caller's host-domain space, each by its translation. -/
def State.bufLines (s : State) (tid : Nat) (need : Need) (va : Nat) : Nat → Except (Nat × Nat) (List Xlat)
  | 0 => .ok []
  | n + 1 =>
    match s.xlateThread tid va 64 need false with
    | .error c => .error (c, va)
    | .ok x =>
      match s.bufLines tid need ((va + 64) % 2 ^ 64) n with
      | .error e => .error e
      | .ok r => .ok (x :: r)

/-- A record or buffer of `n` bytes (R279): 64 B aligned, and translated line by line. -/
def State.buffer (s : State) (tid : Nat) (need : Need) (va n : Nat) : Except (Nat × Nat) (List Xlat) :=
  if va % 64 ≠ 0 then .error (9, va) else s.bufLines tid need va (ceilDiv n 64)

/-- The bytes of a buffer. -/
def State.bufRead (s : State) (xs : List Xlat) (n : Nat) : List Byte := (xs.flatMap fun x => leBytes 64 (s.readAt x 64)).take n

/-- A buffer that a record is read from, with the errors that the reads meet (R416, R321). -/
def State.record (s : State) (tid va n : Nat) : Except (Nat × Nat) (List Byte) :=
  match s.buffer tid .read va n with
  | .error e => .error e
  | .ok xs =>
    match xs.findSome? fun x => s.readBad x.pa 64 with
    | some c => .error (c, va)
    | none => .ok (s.bufRead xs n)

/-- Bytes written into a buffer. -/
def State.bufWrite (s : State) : List Xlat → List Byte → State
  | [], _ => s
  | x :: r, bs =>
    let k := min 64 bs.length
    let (pa, out) := if k = 64 then storeBytes x.tol x.pa 64 (leNat (bs.take 64)) else (x.pa, bs.take k)
    (s.write pa out).bufWrite r (bs.drop 64)

/-- A little-endian field of a record. -/
def fieldAt (bs : List Byte) (o n : Nat) : Nat := leNat ((bs.drop o).take n)

/-! ### Ending every use of a page (R315) -/

/-- Whether a flight reads or writes memory at a physical address that a test names. -/
def Flight.reaches (f : Flight) (p : Nat → Bool) : Bool := !f.done && f.isMem && f.acc.any fun a => a.team.isNone && p a.pa

/-- Whether a matrix operation has pinned a line at a physical address that a test names (R103). -/
def MatOp.pins (o : MatOp) (p : Nat → Bool) : Bool :=
  match o.kind with
  | .gemm _ pages => o.accepted && pages.any fun pg => p pg.2.1
  | _ => false

/-- Waits at a counter that a test names end: the instruction translates again (R315, R319). A wait that has been satisfied, which
waits for 0, goes on at the next word (R341). -/
def State.dropWaits (s : State) (p : Nat → Bool) : State :=
  let splits := s.simt.groups.flatMap fun (gid, g) => g.splits.filterMap fun (sp, x) =>
    match x.park with
    | some (.ctr pa _ _ _ _ _) => if p pa then some (gid, sp) else none
    | _ => none
  let waits (k : Packet) : Bool := k.wait.any fun w => p w.1 && w.2 != 0
  let s := splits.foldl (fun s (gid, sp) => s.wake gid sp) s
  s.modHub fun h => { h with
    threads := h.threads.map fun t => (t.1, if t.2.wait.any fun w => p w.1 then { t.2 with wait := none } else t.2)
    queues := h.queues.map fun q =>
      (q.1, match q.2.pkt with
        | some k => if waits k then { q.2 with pkt := some { k with wait := none, pc := k.pc - 1, used := k.used - 1 } }.settle s.ac else q.2
        | none => q.2) }

/-- Copies whose counters a test names translate them again (R315, R319). -/
def State.staleCopies (s : State) (p : Nat → Bool) : State :=
  s.modSimt fun x => { x with copies := x.copies.map fun c =>
    (c.1, if c.2.srcctr.any p || c.2.pubctr.any p then { c.2 with stale := true } else c.2) }

/-- A request that is parked given up: its instruction issues again, and translates again. -/
def State.redoAsked (s : State) (id : Nat) (r : TupReq) : State :=
  let s := s.dropAsked id r
  match r.who with
  | .thread t => s.modThread t fun x => { x with tupleWait := none }
  | .split gid sp => s.wake gid sp

/-- Requests of the regions that a test names: those on their way are served, and those that are parked issue again. -/
def State.drainTuples (s : State) (t : TupReq → Bool) : State :=
  let mine (s : State) : List (Nat × TupReq) := s.store.reqs.filter fun r => t r.2 && r.2.answer.isNone
  let s := (mine s).foldl (fun s r => let s := s.beforeReq r.2
    ((Tbl.get? s.store.reqs r.1).map (s.serveNow r.1)).getD s) s
  (mine s).foldl (fun s r => ((Tbl.get? s.store.reqs r.1).map (s.redoAsked r.1)).getD s) s

/-- Every access to the addresses that a test names performed, every operation that has pinned one run, and every wait, counter of a
copy and tuple request of a region that the other test names performed or translated again (R315, R319).
[DEDUCED, log entry 52] -/
def State.drainWhere (s : State) (p : Nat → Bool) (t : TupReq → Bool) : State :=
  let s := (s.simt.groups.filter fun x => x.2.flights.any fun f => f.reaches p).foldl
    (fun s x => (x.2.flights.filter Flight.isMem).foldl (fun s f => s.performNow x.1 f) s) s
  let s := ((s.simt.ops.filter fun o => o.pins p).map MatOp.gid).foldl (fun s g => outState (execBatchComplete g (s.runOps g)) s) s
  ((s.staleCopies p).drainTuples t).dropWaits p


/-- A page leaves OWNED, SHARED or SEALED (R315): its translations end, every range entry over it loses its V bit, and
every access to it is performed. -/
def State.shootPage (s : State) (page : Nat) : State :=
  let s := (s.drainWhere (fun pa => pa / 4096 == page) fun r => r.holds page).dropHost page
  s.modSimt fun x => { x with ctxs := x.ctxs.map fun c =>
    (c.1, { c.2 with ranges := c.2.ranges.filter fun e => !e.2.covers page }) }

/-- Change an enclave. -/
def State.modEnclave (s : State) (eid : Nat) (f : Enclave → Enclave) : State :=
  s.modHub fun h => { h with enclaves := Tbl.mod h.enclaves eid f }

/-! ### Page tables (R40, R280, R393) -/

/-- The first offset of a die's pool of page-table pages, and the pages in it (R393). -/
def State.poolStart (s : State) (d : Nat) : Nat := s.metaStart d + 720 * 2 ^ 20
def State.poolPages (s : State) (d : Nat) : Nat := (dieBytes - s.poolStart d) / 4096

/-- Whether a physical page is one of a partition's pool. -/
def State.inPool (s : State) (part page : Nat) : Bool :=
  match s.dieOffset (4096 * page) with
  | some (d, w) => (s.die d).bound && (s.die d).part == part && decide (s.poolStart d ≤ w)
  | none => false

/-- Every page that holds a table. -/
def State.tableFrames (s : State) : List Nat := s.hub.enclaves.flatMap fun e => e.2.tables.map Prod.snd

/-- Whether a table may take a page: one that holds none, in META or FREE. -/
def State.tableFree (s : State) (page : Nat) : Bool :=
  !s.tableFrames.contains page && ((s.potOf page).state == potMeta || (s.potOf page).state == potFree)

/-- The first page of a die's pool, from page `i` on, that a table may take. -/
def State.poolFrom (s : State) (d : Nat) : Nat → Nat → Option Nat
  | 0, _ => none
  | n + 1, i =>
    let page := s.physAt d (s.poolStart d + 4096 * i) / 4096
    if s.tableFree page then some page else s.poolFrom d n (i + 1)

/-- The pool page that the next table takes: the first of the partition's dies that has one.
[DESIGN CHOICE, log entry 20] -/
def State.poolPage (s : State) (part : Nat) : Option Nat :=
  (bitsOf 8 (s.part part).dies).findSome? fun d =>
    s.poolFrom d (min (s.poolPages d) (s.tableFrames.length + s.store.pot.length + 1)) 0

/-- The key of the table that serves a virtual page at a level (R40). -/
def tableKey (level vpn : Nat) : Nat := level * 2 ^ 45 + vpn / 2 ^ (9 * level)

/-- An enclave's tables that a virtual page lacks. -/
def missingTables (e : Enclave) (vpn : Nat) : List Nat := [5, 4, 3, 2, 1].filter fun l => (Tbl.get? e.tables (tableKey l vpn)).isNone

/-- The entry of a virtual page in a table at a level. -/
def tableSlot (frame level vpn : Nat) : Nat := 4096 * frame + 8 * (vpn / 2 ^ (9 * (level - 1)) % 512)

/-- One table of an enclave made (R280): a zeroed pool page, named by its parent's entry. -/
def State.growTable (s : State) (eid vpn level : Nat) : State :=
  match Tbl.get? s.hub.enclaves eid with
  | none => s
  | some e =>
    match s.poolPage e.part with
    | none => s
    | some page =>
      let s := (s.modStore fun x => { x with mem := x.mem.filter fun c => c.1 / 4096 != page }).poke (4096 * page) (leBytes 4096 0)
      let s := (s.putPot page { Pot.plain potMeta with version := (s.potOf page).version }).modEnclave eid fun e =>
        { e with tables := Tbl.put e.tables (tableKey level vpn) page }
      match Tbl.get? e.tables (tableKey (level + 1) vpn) with
      | some up => s.pokeNat (tableSlot up (level + 1) vpn) 8 (4096 * page + 0xF)
      | none => s

/-- The tables of a virtual page made where they are missing. -/
def State.growTables (s : State) (eid vpn : Nat) : State :=
  match Tbl.get? s.hub.enclaves eid with
  | none => s
  | some e => (missingTables e vpn).foldl (fun s l => s.growTable eid vpn l) s

/-- The page-table word of a leaf (Table 5 of ch02). Of a sealed one (R285), which no walk takes, it is free.
[DESIGN CHOICE, log entry 20] -/
def leafWord (eid vpn : Nat) (l : EncLeaf) : Nat :=
  if l.sealed then leNat (cryptoOut 8 (leBytes 2 eid ++ leBytes 8 vpn ++ leBytes 8 l.version) 8)
  else 4096 * l.ppn + 16 + 8 * b01 l.x + 4 * b01 l.w + 2 * b01 l.r + 1

/-- A virtual page of an enclave mapped by a leaf, or unmapped, in its tables. -/
def State.mapLeaf (s : State) (eid vpn : Nat) (l : Option EncLeaf) : State :=
  let s := s.modEnclave eid fun e => { e with map := match l with
    | some l => Tbl.put e.map vpn l
    | none => Tbl.del e.map vpn }
  match (Tbl.get? s.hub.enclaves eid).bind fun e => Tbl.get? e.tables (tableKey 1 vpn) with
  | some frame => s.pokeNat (tableSlot frame 1 vpn) 8 ((l.map (leafWord eid vpn)).getD 0)
  | none => s

/-- The mapping of a page that its owner loses: a sealed leaf stays (R327). -/
def State.unmapPage (s : State) (page : Nat) : State :=
  let eid := (s.potOf page).owner
  match (Tbl.get? s.hub.enclaves eid).bind fun e => e.map.find? fun l => l.2.ppn == page && !l.2.sealed with
  | some l => s.mapLeaf eid l.1 none
  | none => s

/-- The keys of a partition's live enclaves in every base die of it, beside its host key (R320). -/
def State.installKeys (s : State) : State :=
  let keys (d : Die) : Table Nat := (s.hub.enclaves.filter fun e => d.bound && e.2.part == d.part).foldl
    (fun t e => Tbl.put t e.2.keySlot e.2.memKey) (d.keys.filter fun k => k.1 == 0)
  { s with dies := s.dies.map fun (y : Nat × Die) => (y.1, { y.2 with keys := keys y.2 }) }

/-- A page enters SCRUB (R316): from now on nothing reads what it held, and an uncorrectable line that scrubbing finds is logged
(R416). Every line is scrubbed within 20 µs.
[DEDUCED, log entry 53] -/
def State.enterScrub (s : State) (page next owner attr link : Nat) : State :=
  let s := (s.store.latent.filter fun l => l.1 / 64 == page).foldl (fun s l => s.meetLine (s.potOf page).owner 0xFFFF l.1) s
  let s := s.modStore fun x => { x with
    mem := x.mem.filter fun c => c.1 / 4096 != page
    poison := x.poison.filter fun c => c.1 / 64 != page
    latent := x.latent.filter fun c => c.1 / 64 != page }
  (s.putPot page ⟨potScrub, owner, next, attr, (s.potOf page).version, link, 0⟩).laterWithin 14000 (.scrub page)

/-- SCRUB (R316): the lines that are left are scrubbed, and the page takes its next state. -/
def execScrub (page : Nat) (s : State) : Out :=
  match Tbl.get? s.store.pot page with
  | none => .next s
  | some e => if e.state = potScrub then .next (s.putPot page e.scrubbed) else .next s

/-- A partition's host key in slot 0 of its base dies (R320). -/
def State.putHostKey (s : State) (part key : Nat) : State :=
  { s with dies := s.dies.map fun (y : Nat × Die) =>
    if y.2.bound && y.2.part == part then (y.1, { y.2 with keys := Tbl.put y.2.keys 0 key }) else y }

/-! ### ECREATE (R280, R310 to R312) -/

/-- A page-list entry: target, source page address, attributes, and whether bits [63:52] are zero. -/
structure PageEntry where
  target : Nat
  source : Nat
  attr : Nat
  high : Nat
  deriving DecidableEq, Repr

/-- The page list in physical memory (R310, R311); nothing is read from beyond the partition (R390).
[DEDUCED, log entry 54] -/
def State.pageList (s : State) (part a n : Nat) : List PageEntry :=
  (List.range n).map fun i =>
    let at8 (b : Nat) : Nat := if s.inPartMem part b then s.peek b 8 else 0
    let y := at8 (a + 16 * i + 8)
    ⟨at8 (a + 16 * i), fieldOf y 12 40 * 4096, fieldOf y 0 12, fieldOf y 52 12⟩

/-- Kinds of page-list entries (Table 2 of ch18). -/
def PageEntry.tcp (e : PageEntry) : Bool := bitOf e.attr 3
def PageEntry.ring (e : PageEntry) : Bool := bitOf e.attr 4
def PageEntry.kick (e : PageEntry) : Bool := bitOf e.attr 5

/-- Every entry is mapped except a TCP entry with R = 0 (R311).
[DEDUCED, log entry 21] -/
def PageEntry.mapped (e : PageEntry) : Bool := !e.tcp || bitOf e.attr 0

/-- Whether an entry by itself breaks R311. -/
def PageEntry.bad (e : PageEntry) : Bool :=
  let r := bitOf e.attr 0
  let w := bitOf e.attr 1
  let x := bitOf e.attr 2
  decide (64 ≤ e.attr) || e.high != 0 || e.target % 4096 != 0 || !canonical e.target
    || decide (1 < b01 e.tcp + b01 e.ring + b01 e.kick)
    || (e.kick && (x || !w)) || (e.ring && (x || !r || !w)) || (e.tcp && (w || x || (!r && e.target != 0)))

/-- Whether two numbers of a list are equal. -/
def hasDup (xs : List Nat) : Bool := (xs.foldl (fun t x => Tbl.put t x ()) []).length != xs.length

/-- Whether a page list breaks R311 for a partition. -/
def State.pageListBad (s : State) (part threads queues : Nat) (es : List PageEntry) : Bool :=
  let real := es.filter fun e => !e.kick
  es.any PageEntry.bad || hasDup ((es.filter PageEntry.mapped).map PageEntry.target) || hasDup (real.map PageEntry.source)
    || real.any (fun e => !s.inPartMem part e.source)
    || (es.filter PageEntry.tcp).length != threads || (es.filter PageEntry.kick).length != queues

/-- The first queue that a descriptor binds (R328). -/
def queueBase (kickpa : Nat) : Nat := (kickpa - kickBase) / 4096

/-- Whether the queues that a descriptor names cannot be bound (R310, R328). -/
def State.queuesBad (s : State) (part queues kickpa : Nat) : Bool :=
  if queues = 0 then kickpa != 0
  else
    !inKick kickpa || kickpa % 4096 != 0 || decide (4096 < queueBase kickpa + queues)
      || (List.range queues).any fun i =>
        let q := queueBase kickpa + i
        (s.queue q).eid != 0 || s.partOfQueue q != part

/-- Whether a descriptor breaks a limit of Table 1 of ch18.
[DEDUCED, log entry 54] -/
def State.descBad (s : State) (part : Nat) (d : List Byte) : Bool :=
  let threads := fieldAt d 0 2
  let queues := fieldAt d 2 2
  let pages := fieldAt d 4 4
  threads == 0 || decide (128 < threads) || decide (64 < queues) || pages == 0 || decide (262144 < pages)
    || fieldAt d 8 8 % 16 != 0 || s.queuesBad part queues (fieldAt d 0x10 8) || fieldAt d 0x18 8 % 4 != 0
    || decide (16 ≤ fieldAt d 0x20 4) || (d.drop 0x68).any fun b => b != 0#8

/-- Whether no page of the list with X holds the entry address (R310). -/
def entryBad (entry : Nat) (es : List PageEntry) : Bool :=
  !es.any fun e => e.mapped && bitOf e.attr 2 && e.target / 4096 == entry / 4096

/-- The stock sketch's image (R348). -/
def stockWords : List W32 :=
  [0x4B534B45#32, 0x00190001#32, 0x00000001#32, 0x00000020#32, 0#32, 0#32, 0#32, 0#32,
    0x0F100000#32, 0x08210400#32, 0x0F300008#32, 0x0F400010#32, 0x0F500018#32, 0x01600001#32, 0x09260000#32, 0x0C000002#32,
    0x12350000#32, 0x16000001#32, 0x01600002#32, 0x09260000#32, 0x0C000002#32, 0x13340000#32, 0x16000001#32, 0x01600003#32,
    0x09260000#32, 0x0C000002#32, 0x14340000#32, 0x16000001#32, 0x01600004#32, 0x09260000#32, 0x0C000001#32, 0x16000001#32,
    0x18000080#32]

/-- The bytes of words. -/
def wordsBytes (ws : List W32) : List Byte := ws.flatMap fun w => leBytes 4 w.toNat

/-- A loaded sketch of a partition, header first (R346): id 1 is always present. -/
def State.sketch? (s : State) (part id : Nat) : Option Sketch :=
  if id = 1 then some ⟨sha3 (wordsBytes stockWords), stockWords⟩ else Tbl.get? s.hub.sketches (65536 * part + id)

/-- The lowest enclave identifier that is free (R280). -/
def State.freeEid (s : State) : Option Nat :=
  let e := Tbl.free s.hub.enclaves 65536 1
  if e < 65536 then some e else none

/-- The lowest key slot that is free (R320). -/
def State.freeKeySlot (s : State) : Option Nat :=
  let k := Tbl.free (s.hub.keySlotsUsed.map fun i => (i, ())) 16384 1
  if k < 16384 then some k else none

/-- Page-table pages that a set of virtual pages needs: one table for each prefix at each level (R40). -/
def tablePages (vpns : List Nat) : Nat :=
  1 + [9, 18, 27, 36].foldl (fun n k => n + (vpns.map fun v => v / 2 ^ k).dedup.length) 0

/-- Whether a partition's pool of page-table pages has fewer than `extra` that a table may take (R276, R393). -/
def State.poolFull (s : State) (part extra : Nat) : Bool :=
  let frames := s.tableFrames.filter fun p => s.inPool part p
  let left := s.store.pot.filter fun p =>
    p.2.state != potMeta && p.2.state != potFree && !frames.contains p.1 && s.inPool part p.1
  decide ((bitsOf 8 (s.part part).dies).foldl (fun n d => n + s.poolPages d) 0 < frames.length + left.length + extra)

/-- The leaf of a page-list entry. -/
def PageEntry.leaf (e : PageEntry) (ppn : Nat) : EncLeaf :=
  ⟨ppn, bitOf e.attr 0, bitOf e.attr 1, bitOf e.attr 2, false, 0, e.attr % 64⟩

/-- The physical pages of the entries in order: a KICKMAP entry's is the next queue's kick page. -/
def pagesFor (kickpa : Nat) : Nat → List PageEntry → List (PageEntry × Nat)
  | _, [] => []
  | k, e :: r => if e.kick then (e, kickpa / 4096 + k) :: pagesFor kickpa (k + 1) r else (e, e.source / 4096) :: pagesFor kickpa k r

/-- The measurement (R312). -/
def State.measure (s : State) (d : List Byte) (es : List PageEntry) : List Byte :=
  sha3 (d.take 0x68 ++ es.flatMap fun e =>
    leBytes 8 e.target ++ leBytes 2 e.attr ++ if e.kick then List.replicate 32 0#8 else sha3 (s.bytes e.source 4096))

/-- A queue's trace block at reset, and nothing of its context staged (R426). -/
def State.resetTrace (s : State) (q : Nat) : State :=
  s.modHub fun h => { h with
    traceQ := Tbl.del h.traceQ q
    traceS := h.traceS.filter fun t => t.1 % 4096 != q
    traceK := h.traceK.map fun t => (t.1, { t.2 with
      chunks := t.2.chunks.filter fun c => c.ctx != q, lost := Tbl.del t.2.lost q }) }

/-- A queue bound to an enclave, and its context: RESIDENT, with no team, version 0 and a residency key of its own (R328, R356,
R361). -/
def State.bindQueue (s : State) (eid sketch q : Nat) : State :=
  let (key, s) := s.freshKey
  let root := ((Tbl.get? s.hub.enclaves eid).bind fun e => Tbl.get? e.tables (tableKey 5 0)).getD 0
  ((s.putQueue q { Queue.reset with eid := eid, sketch := sketch }).resetTrace q).putCtx q
    { Ctx.reset with eid := eid, state := 1, residencyKey := key, ptroot := 4096 * root }

/-- The moves of ECREATE, every check having passed (R280 steps 3 to 5). -/
def State.makeEnclave (s : State) (part eid slot : Nat) (d : List Byte) (es : List PageEntry) : State :=
  let kickpa := fieldAt d 0x10 8
  let pages := pagesFor kickpa 0 es
  let (sk, s) := s.freshKey
  let (mem, s) := s.freshKey
  let queues := (List.range (fieldAt d 2 2)).map fun i => queueBase kickpa + i
  let en : Enclave := {
    part := part, threads := fieldAt d 0 2, tcps := (pages.filter fun x => x.1.tcp).map (fun x => 4096 * x.2),
    entry := fieldAt d 0x18 8, policy := fieldAt d 0x20 4, sketch := fieldAt d 0x24 4, dumpKey := (d.drop 0x28).take 32, descr := d,
    keySlot := slot, sealKey := sk, measurement := s.measure d es, map := [], queues := queues, birth := s.time part,
    memKey := mem, tables := [] }
  let s := s.modHub fun h => { h with
    enclaves := Tbl.put h.enclaves eid en
    keySlotsUsed := slot :: h.keySlotsUsed }
  let s := pages.foldl (fun s x =>
    let s := s.dropHost x.2
    let s :=
      if x.1.kick then s.putPot x.2 ⟨potKick, eid, 0, x.1.attr % 64, (s.potOf x.2).version, 0, 0⟩
      else s.putPot x.2 ⟨potOwned, eid, 0, x.1.attr % 64, (s.potOf x.2).version, if x.1.mapped then vpnOf x.1.target else 0, 0⟩
    if x.1.mapped then (s.growTables eid (vpnOf x.1.target)).mapLeaf eid (vpnOf x.1.target) (some (x.1.leaf x.2)) else s) s
  let s := en.tcps.foldl (fun s a => s.write a (leBytes 4096 0)) s
  (queues.foldl (fun s q => s.bindQueue eid (fieldAt d 0x24 4) q) s).installKeys

/-- What ECREATE answers: the reason of a failure, or the enclave's number and the state (R280). -/
def State.createEnclave (s : State) (part : Nat) (d : List Byte) : Except Nat (Nat × State) :=
  let es := s.pageList part (fieldAt d 8 8) (fieldAt d 4 4)
  let real := es.filter fun e => !e.kick
  if (s.part part).state ≠ 0 then .error stBusy
  else if (s.part part).refusing then .error s.openReason
  else if s.descBad part d then .error stBadDesc
  else if s.pageListBad part (fieldAt d 0 2) (fieldAt d 2 2) es || entryBad (fieldAt d 0x18 8) es then .error stBadDesc
  else if !(s.sketch? part (fieldAt d 0x24 4)).any fun k => k.hash == (d.drop 0x48).take 32 then .error stSketch
  else if real.any fun e => (s.potOf (e.source / 4096)).state != potHost then .error stPageState
  else
    match s.freeEid with
    | none => .error stNoEid
    | some eid =>
      match s.freeKeySlot with
      | none => .error stNoKey
      | some slot =>
        if s.poolFull part (tablePages ((es.filter PageEntry.mapped).map fun e => vpnOf e.target)) then
          .error stNoMeta
        else .ok (eid, s.makeEnclave part eid slot d es)

/-- A list or page that ECREATE reads whose bytes an error keeps from it (R321, R417): the trap's cause and the physical
address, counted from 2^64. -/
def State.createBad (s : State) (part : Nat) (d : List Byte) : Option (Nat × Nat) :=
  if s.descBad part d then none
  else
    match s.readBad (fieldAt d 8 8) (16 * fieldAt d 4 4) with
    | some c => some (c, 2 ^ 64 + fieldAt d 8 8)
    | none =>
      match s.createEnclave part d with
      | .error _ => none
      | .ok _ => (s.pageList part (fieldAt d 8 8) (fieldAt d 4 4)).findSome? fun e =>
          if e.kick then none else (s.readBad e.source 4096).map fun c => (c, 2 ^ 64 + e.source)

/-- ECREATE (R280).
[DEDUCED, log entry 51] -/
def execEcreate (x : Rr) (s : State) : Out :=
  threadOnly s 1 (fun _ => Spec.of x.m 1 false [codeG x.a] [codeG x.d]) fun tid _ rd =>
    match s.record tid (rd.g x.a).toNat 256 with
    | .error e => .error e
    | .ok d =>
      match s.createBad (s.partOfThread tid) d with
      | some e => .error e
      | none =>
        match s.createEnclave (s.partOfThread tid) d with
        | .error r => .ok (s.fail tid x.d r, none)
        | .ok (eid, s) => .ok (s.setG tid x.d (BitVec.ofNat 64 eid), none)

/-! ### EENTER, EEXIT, EDESTROY -/

/-- The g registers of a thread control page from register `k` on, and the caller's below it. -/
def State.tcpG (s : State) (pa k : Nat) (g : Table W64) : Table W64 :=
  (List.range 64).foldl (fun t n =>
    Tbl.fset 0#64 t n (if n < k then Tbl.fget 0#64 g n else BitVec.ofNat 64 (s.peek (pa + 0x40 + 8 * n) 8))) []

/-- The thread inside an enclave as its control page at `pa` decides (Table of R281).
[DEDUCED, log entry 55] -/
def State.enterThread (s : State) (t : Thread) (eid i pa len : Nat) (entry : Nat) : Thread :=
  let st := s.peek pa 4
  let t := { t with eid := eid, tidx := i, lvl := 0, encRet := t.pc + BitVec.ofNat 64 (4 * len), encLvl := t.lvl }
  if st = 0 then { t.cleared 4 with pc := BitVec.ofNat 64 entry }
  else
    let k := if st = 2 then 4 else 0
    { t with
      g := s.tcpG pa k t.g
      q := (List.range 7).foldl (fun y n => Tbl.fset false y n (bitOf (s.peek (pa + 0x240 + n) 1) 0)) []
      mode := BitVec.ofNat 32 (s.peek (pa + 0x10) 4)
      fstat := BitVec.ofNat 64 (s.peek (pa + 0x18) 8)
      pc := BitVec.ofNat 64 (s.peek (pa + 8) 8)
      poison := t.poison.filter fun p => decide (p.1 < k) }

/-- EENTER (R281): the thread enters an enclave of its partition, as the thread control page says; BADEID, BUSY.
[DEDUCED, log entry 49] -/
def execEenter (x : Rrr) (s : State) : Out :=
  threadOnly s 0 (fun _ => Spec.of x.m 1 false [codeG x.a, codeG x.c] [codeG x.d]) fun tid t rd =>
    let eid := (rd.g x.a).toNat
    let i := (rd.g x.c).toNat
    if t.eid ≠ 0 then .error (2, 0)
    else
      match (Tbl.get? s.hub.enclaves eid).filter fun e => e.part == s.partOfThread tid && decide (i < e.threads) with
      | none => .ok (s.fail tid x.d stBadEid, none)
      | some e =>
        match s.tcpAt eid i with
        | none => .ok (s.fail tid x.d stBadEid, none)
        | some pa =>
          match s.readBad pa 0x248 with
          | some c => .error (c, 2 ^ 64 + pa)
          | none =>
          if s.peek pa 4 = 1 then .ok (s.fail tid x.d stBusy, none)
          else
            let t' := s.enterThread t eid i pa 1 e.entry
            .ok ((s.write pa (leBytes 4 1)).putThread tid t', some t'.pc)

/-- EEXIT (R282): a synchronous exit with CLASS EEXIT; in the host domain OPND (R279). -/
def execEexit (x : Op0) (s : State) : Out :=
  threadOnly s 0 (fun _ => Spec.of x.m 1 false [] []) fun tid t _ =>
    if t.eid = 0 then .error (2, 0) else trapped (s.trap tid ⟨4, 0, 1, t.pc + 4#64, 0#64, true⟩) tid

/-- Whether a context holds its enclave's destruction back (R282): a packet of its queue does, and so does what a context that
is neither SEALED nor OUT holds. -/
def State.ctxHolds (s : State) (q : Nat) : Bool :=
  let c := s.ctx q
  (s.queue q).pkt.isSome || c.frozen || (decide (c.state < 3) &&
    (c.state == 2 || c.halt.isSome || c.vacBusy
      || s.simt.teams.any (fun t => s.ctxOfTeam t.2 == q && (t.2.state == .resident || t.2.state == .swapped || t.2.state == .waiting))
      || s.simt.trees.any (fun t => t.2.queue == q && t.2.counter != 0)))
    || s.hub.threads.any fun t => t.2.sealing.any fun x => x.1 == q

/-- The pages of an enclave given up (R282): OWNED, SEALED and page-table ones through SCRUB, SHARED and KICK ones to FREE. -/
def State.freePages (s : State) (eid : Nat) (e : Enclave) : State :=
  let s := (s.store.pot.filter fun p => p.2.owner == eid && p.2.state != potFree).foldl (fun s p =>
    if p.2.state = potOwned ∨ p.2.state = potSealed ∨ p.2.state = potScrub then
      (s.shootPage p.1).enterScrub p.1 potFree 0 0 0
    else if p.2.state = potShared ∨ p.2.state = potKick then (s.shootPage p.1).leavePot p.1 potFree
    else s) s
  e.tables.foldl (fun s t => (s.dropHost t.2).enterScrub t.2 potFree 0 0 0) s

/-- A queue unbound: its registers and its context's are reset (R328), and what a SEALED context left on the die is gone. -/
def State.unbindQueue (s : State) (q : Nat) : State :=
  { s with
    simt := { s.simt.split q false with ctxs := Tbl.del s.simt.ctxs q }
    hub := { s.hub with queues := Tbl.del s.hub.queues q, traceQ := Tbl.del s.hub.traceQ q } }.recheckSpawns

/-- EDESTROY's steps (R282): every stream is unbound from the enclave, and its keys and records are erased. -/
def State.destroyEnclave (s : State) (eid : Nat) (e : Enclave) : State :=
  let s := (s.freePages eid e).modHub fun h => { h with
    enclaves := Tbl.del h.enclaves eid
    pages := h.pages.filter fun p => p.2.eid != eid
    keySlotsUsed := h.keySlotsUsed.filter fun k => k != e.keySlot
    tdis := h.tdis.map fun t => (t.1, { t.2 with bound := t.2.bound.filter fun b => b.2 != eid })
    ideKeys := h.ideKeys.filter fun k => Tbl.getD h.ideEid k.1 0 != eid
    ideEid := h.ideEid.filter fun k => k.2 != eid
    rot := { h.rot with evidence := Tbl.del h.rot.evidence eid } }
  (e.queues.foldl State.unbindQueue s).installKeys

/-- EDESTROY (R282). -/
def execEdestroy (x : Rr) (s : State) : Out :=
  sysOp s 1 x.m 1 x.d false [codeG x.a] fun tid _ rd =>
    let eid := (rd.g x.a).toNat
    match (Tbl.get? s.hub.enclaves eid).filter fun e => e.part == s.partOfThread tid with
    | none => .ok (.error stBadEid)
    | some e =>
      if s.hub.threads.any (fun t => t.2.running && t.2.eid == eid) || e.queues.any s.ctxHolds then .ok (.error stBusy)
      else .ok (.ok (s.destroyEnclave eid e))

/-! ### PGASSIGN (R283, R315) -/

/-- A page assigned to an enclave at a virtual page: through SCRUB, or a HOST page shared as it stands (Table 8). -/
def State.assignTo (s : State) (page eid new attr vpn : Nat) (scrub : Bool) : State :=
  let leaf : EncLeaf := ⟨page, bitOf attr 0, bitOf attr 1, false, false, 0, attr⟩
  let s := s.dropHost page
  let s := if scrub then s.enterScrub page new eid attr vpn else s.putPot page ⟨new, eid, 0, attr, (s.potOf page).version, vpn, 0⟩
  (s.growTables eid vpn).mapLeaf eid vpn (some leaf)

/-- The pool pages that an assignment takes from those a table may take: the missing tables, and the page itself where it is
one of them. -/
def State.poolTaken (s : State) (part page : Nat) (e : Enclave) (vpn : Nat) : Nat :=
  (missingTables e vpn).length + b01 (s.inPool part page && s.tableFree page)

/-- What PGASSIGN does with a page of the caller's partition (R283). -/
def State.assignPage (s : State) (part pa gc : Nat) (va : W64) (ctl : PgaCtl) : Sys :=
  let page := pa / 4096
  let enc := decide (ctl.new = potOwned ∨ ctl.new = potShared)
  let kick := inKick pa
  if pa % 4096 ≠ 0 || decide (65536 ≤ gc) || (!enc && gc != 0) || (!kick && !s.inPartMem part pa)
      || (enc && (va.toNat % 4096 != 0 || !canonical va.toNat)) then .error stBadDesc
  else if kick then .error stPageState
  else
    let st := (s.potOf page).state
    if enc = false then
      if st = potFree ∨ st = potHost then .ok ((s.dropHost page).leavePot page ctl.new)
      else if st = potOwned ∨ st = potSealed then
        .ok (((s.shootPage page).unmapPage page).enterScrub page ctl.new 0 0 0)
      else if st = potShared then .ok (((s.shootPage page).unmapPage page).leavePot page ctl.new)
      else .error stPageState
    else
      match (Tbl.get? s.hub.enclaves gc).filter fun e => e.part == part with
      | none => .error stBadEid
      | some e =>
        let vpn := vpnOf va.toNat
        if !(st == potFree || st == potHost) then .error stPageState
        else if (Tbl.get? e.map vpn).isSome then .error stState
        else if s.poolFull part (s.poolTaken part page e vpn) then .error stNoMeta
        else .ok (s.assignTo page gc ctl.new (b01 ctl.r + 2 * b01 ctl.w) vpn (!(st == potHost && ctl.new == potShared)))

/-- PGASSIGN (R283).
[DEDUCED, log entry 52] -/
def execPgassign (x : PgaI) (s : State) : Out :=
  sysOp s 1 x.m 2 x.d false ([codeG x.a, codeG x.c] ++ if x.ctl.new = potOwned ∨ x.ctl.new = potShared then [codeG x.ctl.va] else [])
    fun tid _ rd => .ok (s.assignPage (s.partOfThread tid) (rd.g x.a).toNat (rd.g x.c).toNat (rd.g x.ctl.va) x.ctl)

/-! ### PGSEAL and PGUNSEAL (R285, R325 to R327) -/

/-- A sealed page's header before the tag (Table 11 of ch18). -/
def pageHeader (eid attr vpn version : Nat) : List Byte :=
  leBytes 4 0x4B535047 ++ leBytes 2 eid ++ leBytes 2 (attr % 8) ++ leBytes 8 vpn ++ leBytes 8 version ++ leBytes 24 0

/-- The sealed image of a page: header, tag, cipher text (R325). -/
def pageImage (key eid attr vpn version : Nat) (plain : List Byte) : List Byte :=
  let h := pageHeader eid attr vpn version
  h ++ sealBytes (leBytes 32 key ++ leBytes 6 vpn ++ leBytes 6 version ++ h ++ plain) 4112

/-- The sealed page kept for an enclave's virtual page: the last one only, since an older one is STALE. -/
def State.keepPage (s : State) (p : SealedPage) : State :=
  s.modHub fun h => { h with
    pages := Tbl.put (h.pages.filter fun x => !(x.2.eid == p.eid && x.2.va == p.va)) (Tbl.next h.pages) p }

/-- An enclave's page given up to its image (R285): its uses end, its version rises, and the image stands in the buffer. -/
def State.sealPage (s : State) (eid vpn : Nat) (e : Enclave) (l : EncLeaf) (buf : List Xlat) : State :=
  let s := s.shootPage l.ppn
  let v := l.version + 1
  let plain := s.bytes (4096 * l.ppn) 4096
  let img := pageImage e.sealKey eid l.attr vpn v plain
  let s := s.mapLeaf eid vpn (some { l with sealed := true, version := v })
  let s := (s.putPot l.ppn { s.potOf l.ppn with state := potSealed, version := v }).keepPage ⟨eid, vpn, v, plain, img⟩
  s.bufWrite buf img

/-- PGSEAL (R285): the buffer first, then the status checks. -/
def execPgseal (x : Rrr) (s : State) : Out :=
  sysOp s 1 x.m 1 x.d (!pairOk x.a) [codeG x.a, codeG (x.a + 1), codeG x.c] fun tid _ rd =>
    match s.buffer tid .write (rd.g x.c).toNat 4160 with
    | .error e => .error e
    | .ok buf =>
      let eid := (rd.g x.a).toNat
      let va := (rd.g (x.a + 1)).toNat
      match (Tbl.get? s.hub.enclaves eid).filter fun e => e.part == s.partOfThread tid with
      | none => .ok (.error stBadEid)
      | some e =>
        match (if canonical va && va % 4096 == 0 then Tbl.get? e.map (vpnOf va) else none) with
        | none => .ok (.error stPageState)
        | some l =>
          if l.sealed || (s.potOf l.ppn).state != potOwned || fieldOf l.attr 3 3 != 0 then .ok (.error stPageState)
          else if l.version = 0xFFFFFFFF then .ok (.error stState)
          else
            match s.readBad (4096 * l.ppn) 4096 with
            | some c => .error (c, 2 ^ 64 + 4096 * l.ppn)
            | none => .ok (.ok (s.sealPage eid (vpnOf va) e l buf))

/-- A sealed page back in a frame (R285): its bytes, its owner, and its leaf mapped there. -/
def State.unsealTo (s : State) (page eid vpn : Nat) (l : EncLeaf) (bytes : List Byte) : State :=
  (((s.dropHost page).write (4096 * page) bytes).putPot page ⟨potOwned, eid, 0, l.attr, l.version, vpn, 0⟩).mapLeaf eid vpn
    (some { l with ppn := page, sealed := false })

/-- PGUNSEAL of an image into a frame (R285): the checks in their order, then the page. -/
def State.unsealPage (s : State) (part pa : Nat) (img : List Byte) : Sys :=
  let eid := fieldAt img 4 2
  let vpn := fieldAt img 8 8
  if fieldAt img 0 4 ≠ 0x4B535047 then .error stBadDesc
  else
    match (Tbl.get? s.hub.enclaves eid).filter fun e => e.part == part with
    | none => .error stBadEid
    | some e =>
      match (Tbl.get? e.map vpn).filter EncLeaf.sealed with
      | none => .error stState
      | some l =>
        let st := (s.potOf (pa / 4096)).state
        if fieldAt img 16 8 ≠ l.version then .error stStale
        else
          match (s.hub.pages.map Prod.snd).find? fun p => p.eid == eid && p.va == vpn && p.version == l.version && p.sealed == img with
          | none => .error stTag
          | some p =>
            if inKick pa || !(st == potFree || st == potHost) then .error stPageState
            else .ok (s.unsealTo (pa / 4096) eid vpn l p.bytes)

/-- PGUNSEAL (R285): the frame's address first, then the image. -/
def execPgunseal (x : Rrr) (s : State) : Out :=
  sysOp s 1 x.m 1 x.d false [codeG x.a, codeG x.c] fun tid _ rd =>
    let part := s.partOfThread tid
    let pa := (rd.g x.c).toNat
    if pa % 4096 ≠ 0 || (!inKick pa && !s.inPartMem part pa) then .ok (.error stBadDesc)
    else
      match s.record tid (rd.g x.a).toNat 4160 with
      | .error e => .error e
      | .ok img => .ok (s.unsealPage part pa img)

/-! ### The range port (R318, R319) -/

/-- The range entry staged in RSTAGE, and whether its V bit is set (Tables 2 and 3 of ch02): LIVE is 0. -/
def stagedRange (bs : List Byte) : RangeEntry × Bool :=
  let a := fieldAt bs 0x20 4
  (⟨fieldAt bs 0 8, fieldAt bs 8 8, fieldAt bs 0x10 8, fieldAt bs 0x18 8, false, bitOf a 29, bitOf a 28, fieldOf a 20 8,
    fieldOf a 18 2, fieldOf a 16 2, bitOf a 2, bitOf a 1, bitOf a 0⟩, bitOf a 31)

/-- A physical base of a range: bits [63:52] and [11:0] zero. -/
def physBad (a : Nat) : Bool := a % 4096 != 0 || decide (2 ^ 52 ≤ a)

/-- BADENTRY: a field of Table 2 or 3 of ch02 is violated (R319). -/
def rangeBad (bs : List Byte) : Bool :=
  let e := (stagedRange bs).1
  !canonical e.base || !canonical e.limit || e.base % 4096 != 0 || e.limit % 4096 != 0 || decide (e.limit ≤ e.base)
    || physBad e.pbase || (e.shen && physBad e.shbase) || decide (175 < e.homecl)
    || fieldOf (fieldAt bs 0x20 4) 3 13 != 0 || (bs.drop 0x24).any (fun b => b != 0#8)
    || (e.cls == 2 && (e.limit - e.base) % 8192 != 0)

/-- Whether a physical page of a span does not meet step 3 of R319 for an enclave. -/
def State.ownerBad (s : State) (part eid : Nat) (e : RangeEntry) (pb page : Nat) : Bool :=
  let p := s.potOf page
  let st := p.judged
  let first := e.base + (if e.cls = 2 then 2 else 1) * (4096 * page - pb)
  !s.inPartMem part (4096 * page) || !(st == potOwned || st == potShared) || p.owner != eid || p.link != vpnOf first
    || (e.r && !bitOf p.attr 0) || (e.w && !bitOf p.attr 1) || (e.x && !bitOf p.attr 2)
    || (e.cls == 1 && (st != potOwned || !bitOf p.attr 0 || !bitOf p.attr 1))

/-- The pages of a span. -/
def RangeEntry.pages (e : RangeEntry) (pb : Nat) : List Nat := (List.range (ceilDiv e.span 4096)).map fun i => pb / 4096 + i

/-- The first failure of R319 for an entry in place `i` of a context: 3, 1 or 2, or 0. -/
def State.rangeResult (s : State) (q i : Nat) (bs : List Byte) : Nat :=
  let e := (stagedRange bs).1
  let c := s.ctx q
  if rangeBad bs then 3
  else if c.ranges.any fun r => r.1 != i && decide (r.2.base < e.limit) && decide (e.base < r.2.limit) then 1
  else if (e.pages e.pbase).any (s.ownerBad (s.partOfQueue q) c.eid e e.pbase)
      || (e.shen && (e.pages e.shbase).any (s.ownerBad (s.partOfQueue q) c.eid e e.shbase)) then 2
  else 0

/-- Whether a tuple region has a valid range in some context of its enclave, place `i` of context `q` apart (R118). -/
def State.regionHeld (s : State) (eid q i pbase : Nat) : Bool :=
  s.simt.ctxs.any fun c => c.2.eid == eid && c.2.ranges.any fun r =>
    !(c.1 == q && r.1 == i) && r.2.cls == 1 && r.2.pbase == pbase

/-- A region emptied (R118, R319). -/
def State.emptyRegion (s : State) (pbase : Nat) : State := s.modStore fun x => { x with tuples := Tbl.del x.tuples pbase }

/-- The old entry of a place given up: every access through it is performed (R319). -/
def State.dropRange (s : State) (q i : Nat) : State :=
  match Tbl.get? (s.ctx q).ranges i with
  | none => s
  | some e =>
    let s := s.drainWhere (fun pa => e.covers (pa / 4096)) fun r => e.cls == 1 && r.region == e.pbase
    s.modCtx q fun c => { c with ranges := Tbl.del c.ranges i }

/-- A range command's result in RSTAT. -/
def State.rstat (s : State) (q r : Nat) : State := s.modCtx q fun c => { c with rstat := r }

/-- Whether an entry has a PUBLISH in progress, for which a command waits (R319). -/
def State.publishing (s : State) (q i : Nat) : Bool := s.simt.publishes.any fun p => p.2.ctx == q && p.2.range == i && p.2.reached

/-- Whether a command has a reserved bit set (Table 8 of ch18). -/
def rcmdBad (value : Nat) : Bool := fieldOf value 10 54 != 0 || bitOf value 7

/-- RCMD_WRITE (R319): the entry in RSTAGE checked and installed. -/
def execRcmdWrite (queue value : Nat) (s : State) : Out :=
  let i := value % 128
  let c := s.ctx queue
  if c.eid = 0 then .next s
  else if rcmdBad value then .next (s.rstat queue 3)
  else if s.publishing queue i then .next (s.at (s.ac + 1) (.deviceWrite (kickBase + 4096 * queue + 0x80) 8 value))
  else
    let r := s.rangeResult queue i c.rstage
    if r ≠ 0 then .next (s.rstat queue r)
    else
      let (e, valid) := stagedRange c.rstage
      let old := Tbl.get? c.ranges i
      let s := s.dropRange queue i
      let s := match old with
        | some o => if o.cls = 1 then s.emptyRegion o.pbase else s
        | none => s
      let s := if e.cls = 1 && !s.regionHeld c.eid queue i e.pbase then s.emptyRegion e.pbase else s
      .next ((if valid then s.modCtx queue fun c => { c with ranges := Tbl.put c.ranges i e } else s).rstat queue 0)

/-- RCMD_INVAL (R319): the entry's V bit cleared. -/
def execRcmdInval (queue value : Nat) (s : State) : Out :=
  let i := value % 128
  if (s.ctx queue).eid = 0 then .next s
  else if rcmdBad value then .next (s.rstat queue 3)
  else if s.publishing queue i then .next (s.at (s.ac + 1) (.deviceWrite (kickBase + 4096 * queue + 0x80) 8 value))
  else .next ((s.dropRange queue i).rstat queue 0)

end Sys2Proof.Machine
end

