-- ==== Sys2Proof/Machine/Queues.lean ====
section
/-! DEFINITION. Queues.lean: kicks (R332), QCTL (R330, R336), the Easel's assignment of packets (R334, R335), the end of a packet
and its commit (R336, R342), and waits on counters (R341). -/

namespace Sys2Proof.Machine

/-! ### Ring indices and states -/

/-- Indices that have been kicked and not consumed: (QTAIL − QHEAD) mod 2^32. -/
def Queue.kicked (x : Queue) : Nat := (x.tail + 2 ^ 32 - x.head % 2 ^ 32) % 2 ^ 32

/-- A queue fault (R336): the staged effects are discarded, FIDX and FCODE say what happened, and ERRIRQ posts QVEC.BASE. -/
def State.queueFault (s : State) (q code : Nat) : State :=
  let x := s.queue q
  let s := s.putQueue q { x with state := 5, pkt := none, fidx := x.head, fcode := code }
  if x.errirq then s.post q x.vecBase else s

/-! ### KICK and QCTL -/

/-- Whether a queue's virtual function is RESETTING (R377). -/
def State.gateShut (s : State) (q : Nat) : Bool := (s.vfOfQueue q).any fun x => x.2.state == 2

/-- KICK (R332, R377): the new tail is taken where the ring has room for it; otherwise KICKERR, also where the partition
refuses kicks (R418). A kick equal to QTAIL changes nothing. The gate of a function under reset drops it. -/
def execKick (queue value : Nat) (s : State) : Out :=
  let x := s.queue queue
  let t := value % 2 ^ 32
  match (s.vfOfQueue queue).filter fun f => f.2.state == 2 with
  | some (v, f) => .next (s.putVf v { f with drop := (f.drop + 1) % 2 ^ 64 })
  | none =>
    if t = x.tail ∧ (s.part (s.partOfQueue queue)).refusing = false then .next s
    else if (t + 2 ^ 32 - x.tail) % 2 ^ 32 + x.kicked ≤ 2 ^ x.log2 ∧ (s.part (s.partOfQueue queue)).refusing = false then
      .next (s.putQueue queue (let y := { x with tail := t }; if x.state = 1 then y.settle s.ac else y))
    else .next (s.putQueue queue { x with kickerr := true })

/-- QCTL_ENABLE (R330, R336): PRIO, ERRIRQ and ENABLE written. A refused enable sets CFGERR; clearing ENABLE lets a running
packet end, and a WAITING one keeps its state. -/
def execQctlEnable (queue value : Nat) (s : State) : Out :=
  let x := s.queue queue
  let x := { x with prio := fieldOf value 8 2, errirq := bitOf value 4 }
  if bitOf value 0 then
    if x.enable then .next (s.putQueue queue x)
    else if x.log2 = 0 ∨ 16 < x.log2 ∨ x.ring % 4096 ≠ 0 then .next (s.putQueue queue { x with cfgerr := true })
    else
      let y := { x with enable := true, fcode := 0 }
      if x.state = 3 then .next (s.putQueue queue y)
      else
        let y := y.settle s.ac
        .next (let s := s.putQueue queue y; if y.state = 4 then s.laterWithin 200 (.queueWaitWake queue) else s)
  else if !x.enable || x.state == 3 || x.state == 5 then .next (s.putQueue queue { x with enable := false })
  else .next (s.putQueue queue { x with enable := false, state := 0 })

/-- QCTL_SKIP (R330): in FAULTED, QHEAD passes the packet. -/
def execQctlSkip (queue value : Nat) (s : State) : Out :=
  let x := s.queue queue
  if bitOf value 16 && x.state == 5 then
    .next (s.putQueue queue ({ x with head := (x.head + 1) % 2 ^ 32, fcode := 0, state := 0 }.settle s.ac))
  else .next s

/-! ### The Easel -/

/-- A packet before its first operation (R335). -/
def Packet.start : Packet :=
  { x := [], eq := false, lt := false, pc := 0, used := 0, staged := [], loops := [], wait := none, commit := none }

/-- Whether a queue may take an Easel context (R334, R344, R289): it is READY, its context is RESIDENT and not frozen, and its
partition takes packets, or the packet has begun. -/
def State.takesPacket (s : State) (q : Nat) (x : Queue) : Bool :=
  let c := s.ctx q
  x.state == 2 && c.state == 1 && !c.frozen && !s.gateShut q && ((s.part (s.partOfQueue q)).state == 0 || x.pkt.isSome)

/-- The READY queues of a front end that may take a context. -/
def State.readyQueues (s : State) (die : Nat) : List (Nat × Queue) :=
  s.hub.queues.filter fun y => dieOfQueue y.1 == die && s.takesPacket y.1 y.2

/-- Whether a queue goes before another (R334). -/
def Queue.before (x y : Nat × Queue) : Bool :=
  let px := decide (256 ≤ x.2.passedOver)
  let py := decide (256 ≤ y.2.passedOver)
  if px != py then px
  else if x.2.prio != y.2.prio then decide (y.2.prio < x.2.prio)
  else if x.2.readySince != y.2.readySince then decide (x.2.readySince < y.2.readySince)
  else decide (x.1 < y.1)

/-- The queue that a free context takes. -/
def firstQueue : List (Nat × Queue) → Option (Nat × Queue)
  | [] => none
  | x :: r =>
    match firstQueue r with
    | none => some x
    | some y => if Queue.before y x then some y else some x

/-- EASEL_ASSIGN (R334, R335): a free context of a front end takes a READY queue; SKETCH where its sketch is not loaded. -/
def execEaselAssign (die : Nat) (s : State) : Out :=
  let busy := (s.hub.queues.filter fun y => dieOfQueue y.1 == die && y.2.state == 3).length
  match firstQueue (s.readyQueues die) with
  | none => .next s
  | some (q, x) =>
    if 64 ≤ busy then .next s
    else
      let s := (s.readyQueues die).foldl (fun s y =>
        s.putQueue y.1 { y.2 with passedOver := if y.1 = q then 0 else y.2.passedOver + 1 }) s
      let s := if (s.readyQueues die).length ≤ 1 then s else s.soon (.easelAssign die)
      .next (match s.sketch? (s.partOfQueue q) x.sketch with
        | none => s.queueFault q 8
        | some _ => s.modQueue q fun y => { y with state := 3, pkt := some (y.pkt.getD Packet.start) })

/-! ### The end of a packet -/

/-- A packet that has ended: `n` indices are consumed (R336). -/
def State.endPacket (s : State) (q n : Nat) (drop : Bool) : State :=
  s.modQueue q fun x =>
    { x with
      head := (x.head + n) % 2 ^ 32, pkts := (x.pkts + 1) % 2 ^ 64, state := 0, pkt := none
      drops := if drop then (x.drops + 1) % 2 ^ 64 else x.drops }.settle s.ac

/-- One staged effect committed: a LAUNCH apart (R336, R337, R340). -/
def State.commitOne (s : State) (q : Nat) : Staged → State
  | .launch _ _ _ _ => s
  | .signal va pa k => s.frontEndAdd q va pa k
  | .irq n =>
    let x := s.queue q
    if n < x.vecCount then s.post q (x.vecBase + n) else s.putQueue q { x with irqdrop := true }
  | .streg w v => s.modQueue q fun x => { x with scratch := Tbl.fset 0#64 x.scratch w v }

/-- Staged effects committed in order up to the first LAUNCH. -/
def State.commitTo (s : State) (q : Nat) : List Staged → State × List Staged
  | [] => (s, [])
  | .launch t l spt d :: r => (s, .launch t l spt d :: r)
  | e :: r => (s.commitOne q e).commitTo q r

/-- A commit that goes on (R336): a LAUNCH waits for its own step; the packet ends when nothing is staged. -/
def State.commitOn (s : State) (q n : Nat) (drop : Bool) (staged : List Staged) : State :=
  let (s, rest) := s.commitTo q staged
  match rest with
  | [] => s.endPacket q n drop
  | _ :: _ =>
    (s.modQueue q fun x => { x with pkt := x.pkt.map fun (k : Packet) => { k with staged := rest, commit := some (n, drop) } }).soon
      (.launchCommit q)

/-- A seed accepted (R342): its tree with counter 1, and its task. -/
def State.acceptSeed (s : State) (q : Nat) (t : TaskRec) (l : LaunchRec) (spt : List SptEntry) (done : Nat) : State :=
  let id := s.newId fun x => Tbl.next x.trees
  (s.modSimt fun x => { x with trees := Tbl.put x.trees id ⟨q, 1, done, l.sqdepth⟩ }).acceptTask id q t l spt none none

/-- LAUNCH_COMMIT (R336, R342): the LAUNCH at the head of a commit is accepted where the tree and task tables have room; while
they have none it waits. -/
def execLaunchCommit (queue : Nat) (s : State) : Out :=
  match (s.queue queue).pkt with
  | none => .next s
  | some k =>
    match k.commit, k.staged with
    | some (n, drop), .launch t l spt d :: r =>
      let die := dieOfQueue queue
      if s.treeEntries die < 4096 ∧ s.taskEntries die < 16384 then
        .next ((s.acceptSeed queue t l spt d).commitOn queue n drop r)
      else .next s
    | _, _ => .next s

/-- QUEUE_WAIT_WAKE (R341): a WAITING queue whose counter a write has left at or above the target is READY again. -/
def execQueueWaitWake (queue : Nat) (s : State) : Out :=
  let x := s.queue queue
  match x.pkt with
  | none => .next s
  | some k =>
    match k.wait with
    | none => .next s
    | some (pa, target) =>
      if target ≤ s.peek pa 8 then
        .next (s.putQueue queue ({ x with pkt := some { k with wait := none } }.settle s.ac))
      else .next s

end Sys2Proof.Machine
end

