-- ==== Sys2Proof/Machine/Fetch.lean ====
section
/-! DEFINITION. Fetch.lean: instruction fetch (R162), the opcodes that each kind of agent does not have (R163, R165), and the
order of their faults (R167). -/

namespace Sys2Proof.Machine

/-- Instruction words fetched one after another, each by its own translation (R162): the first fault ends the fetch with
its cause and address. -/
def fetchWords (rd : Nat → Except Nat W32) (pc : Nat) : Nat → Except (Nat × Nat) (List W32)
  | 0 => .ok []
  | n + 1 =>
    match rd pc with
    | .error c => .error (c, pc)
    | .ok w =>
      match fetchWords rd ((pc + 4) % 2 ^ 64) n with
      | .error e => .error e
      | .ok r => .ok (w :: r)

/-- One word of a group's code (R162), naturally aligned (R34, R37). -/
def State.fetchSimt (s : State) (q pc : Nat) : Except Nat W32 :=
  if pc % 4 ≠ 0 then .error 9 else
  match s.xlateCtx q pc 4 .fetch false false with
  | .error c => .error c
  | .ok x => .ok (BitVec.ofNat 32 (s.readAt x 4))

/-- One word of a thread's code (R162), naturally aligned (R34, R37). -/
def State.fetchThread (s : State) (tid pc : Nat) : Except Nat W32 :=
  if pc % 4 ≠ 0 then .error 9 else
  match s.xlateThread tid pc 4 .fetch false with
  | .error c => .error c
  | .ok x => .ok (BitVec.ofNat 32 (s.readAt x 4))

/-- Whether an opcode is UNDEF on a SIMT group (R163 to R165). -/
def undefSimt (u : Bool) (op : Nat) : Bool := !definedOp u op || (u && decide (0x68 ≤ op))

/-- Whether an opcode is UNDEF on a control core (R165). -/
def undefThread (u : Bool) (op : Nat) : Bool :=
  !definedOp u op || !u || [0x22, 0x28, 0x2C, 0x2D, 0x2E, 0x2F, 0x34, 0x35, 0x38, 0x39, 0x3A, 0x3B].contains op
    || (decide (0x50 ≤ op) && decide (op < 0x5A))

/-- The level that an opcode needs on a control core (R165): 0 user, 1 kernel, 2 hypervisor. -/
def opLevel (op : Nat) : Nat :=
  if [0x77, 0x78, 0x79].contains op then 2
  else if [0x68, 0x6B, 0x6C, 0x6D, 0x6E, 0x6F, 0x70, 0x71, 0x72, 0x7A].contains op then 1 else 0

/-- Whether a word's marks are a RUN fault of its opcode (R161, R190, R295). -/
def rawRunBad (u : Bool) (op : Nat) (m : Marks) (run : Nat) : Bool :=
  let needB := u && decide (0x20 ≤ op) && decide (op < 0x2A)
  let needS := if u then
      [0x24, 0x25, 0x2A, 0x2B, 0x2C, 0x34, 0x35, 0x38, 0x39, 0x3A, 0x3B, 0x3C, 0x3D, 0x42, 0x43, 0x50, 0x54, 0x55, 0x56,
        0x57, 0x59, 0x60, 0x61, 0x62, 0x63].contains op
    else [0x5C, 0x5D, 0x66, 0x67, 0x68].contains op
  decide (24 ≤ run) || (needB && !(m.b || m.w)) || (needS && !m.s)

/-- UNDEF_OPCODE (R163, R165): a word whose opcode is UNDEF for the agent that issues is an UNDEF fault. -/
def execUndefOpcode (word : W32) (s : State) : Out :=
  let u := bitOf word.toNat 28
  let op := fieldOf word.toNat 21 7
  match s.turns with
  | .split gid sp :: _ => .next (if undefSimt u op then s.simtFault gid sp 1 0 else s)
  | .thread t :: _ => .next (if undefThread u op then s.threadFault t 1 0 else s)
  | _ => .next s

end Sys2Proof.Machine
end

