-- ==== Sys2Proof/Machine/Image.lean ====
section
/-! DEFINITION. Image.lean: the sealed context image: its sections as plain bytes, its header, and what a context takes off
the die and puts back (R365 to R369). -/

namespace Sys2Proof.Machine

/-! ### The image (R365) -/

/-- A section's table entry. -/
def sectionEntry (type count offset length : Nat) : List Byte :=
  leBytes 2 type ++ leBytes 2 0 ++ leBytes 4 count ++ leBytes 4 offset ++ leBytes 4 length

/-- Sections laid out from an offset on: their table entries, and the sealed bytes, each section at a multiple of 64. -/
def sealSections (key version : Nat) : Nat → Nat → List (Nat × List (List Byte)) → List Byte × List Byte
  | _, _, [] => ([], [])
  | i, off, (type, es) :: r =>
    let plain := es.flatten
    let entry := sectionEntry type es.length off plain.length
    let body := sealBytes (leBytes 32 key ++ leBytes 8 version ++ leBytes 4 i ++ entry ++ plain) (plain.length + 16)
    let len := alignUp 64 body.length
    let (t, b) := sealSections key version (i + 1) (off + len) r
    (entry ++ t, body ++ List.replicate (len - body.length) 0#8 ++ b)

/-- The bytes of a context's image (Table 10 of ch20). -/
def State.imageBytes (s : State) (q version key sealKey time : Nat) : List Byte :=
  let secs := s.sections q none
  let (table, body) := sealSections key version 0 0x200 secs
  let head := leBytes 4 0x4B534349 ++ leBytes 2 1 ++ leBytes 2 (s.ctx q).eid ++ leBytes 4 q ++ leBytes 4 secs.length
    ++ leBytes 8 version ++ leBytes 8 time ++ wrapKey (leBytes 32 sealKey ++ leBytes 32 key) ++ leBytes 56 0
    ++ table ++ leBytes (256 - table.length) 0 ++ leBytes 96 0
  head ++ sealBytes (leBytes 32 key ++ leBytes 8 version ++ leBytes 4 0xFFFFFFFF ++ head) 16 ++ leBytes 16 0 ++ body

/-- Whether an image's section count, table or types are invalid (R453, step 7). -/
def sectionsBad (h : List Byte) : Bool :=
  let n := fieldAt h 0x0C 4
  decide (16 < n) || (List.range 16).any fun i =>
    let o := 0x80 + 16 * i
    if i < n then
      let t := fieldAt h o 2
      t == 0 || t == 2 || decide (12 ≤ t) || fieldAt h (o + 2) 2 != 0
    else fieldAt h o 16 != 0

/-! ### Off the die and back (R287, R369) -/

/-- Only the tables that `Simt.split` takes, as a part of their own. -/
def Simt.part (x : Simt) (q : Nat) : Simt :=
  { x.split q true with ctxs := [], scheds := [], upsets := [], fb := [], fbOverflow := [], fbBad := [], coreReset := [],
                        lastIssue := [] }

/-- Entries added to a table. -/
def tblUnion {α : Type} (a b : Table α) : Table α := b.foldl (fun t x => Tbl.put t x.1 x.2) a

/-- A part put back. -/
def Simt.join (x y : Simt) : Simt :=
  { x with
    groups := tblUnion x.groups y.groups
    teams := tblUnion x.teams y.teams
    tasks := tblUnion x.tasks y.tasks
    trees := tblUnion x.trees y.trees
    spawnQs := tblUnion x.spawnQs y.spawnQs
    bars := tblUnion x.bars y.bars
    deferred := tblUnion x.deferred y.deferred
    locals := tblUnion x.locals y.locals
    localPoison := tblUnion x.localPoison y.localPoison
    localErrs := tblUnion x.localErrs y.localErrs
    accs := tblUnion x.accs y.accs
    copies := tblUnion x.copies y.copies
    publishes := tblUnion x.publishes y.publishes }

/-- A part moved to another context (R371). -/
def Simt.rebind (x : Simt) (q : Nat) : Simt :=
  { x with
    groups := x.groups.map fun g => (g.1, { g.2 with place := { g.2.place with ctx := q } })
    tasks := x.tasks.map fun t => (t.1, { t.2 with ctx := q })
    trees := x.trees.map fun t => (t.1, { t.2 with queue := q })
    spawnQs := x.spawnQs.map fun k => (4096 * q + k.1 % 4096, k.2)
    copies := x.copies.map fun c => (c.1, { c.2 with ctx := q })
    publishes := x.publishes.map fun p => (p.1, { p.2 with ctx := q }) }

/-- The part of an execution side that an image sealed on another module restores in a context (R371), numbered from `base` on:
the image's sections name no launch of a placed team (Table 9 of ch20), so the manual leaves it open.
[DEDUCED, log entry 56] -/
opaque Config.foreignPart : Nat → Nat → List Byte → Simt

/-- Whether a part can be a context's and is one of waiting teams: its tables in order, its numbers from `base` on, copies from
`free` on, and everything of this context. -/
def Simt.fits (x : Simt) (q base free : Nat) : Bool :=
  let fresh {α : Type} (t : Table α) : Bool := Tbl.sorted t && t.all fun y => decide (base ≤ y.1)
  let ids {α : Type} (t : Table α) : Bool := Tbl.sorted t && t.all fun y =>
    decide (free ≤ y.1) && decide (y.1 < free + x.copies.length + x.publishes.length)
  fresh x.groups && fresh x.teams && fresh x.tasks && fresh x.trees && fresh x.deferred && ids x.copies && ids x.publishes
    && Tbl.sorted x.spawnQs && Tbl.sorted x.bars && Tbl.sorted x.locals && Tbl.sorted x.localPoison && Tbl.sorted x.localErrs && Tbl.sorted x.accs
    && x.groups.all (fun g => g.2.place.ctx == q && (Tbl.get? x.teams g.2.place.team).isSome && (Tbl.get? x.tasks g.2.place.task).isSome)
    && x.teams.all (fun t => t.2.state == .swapped && t.2.blocks.isEmpty && t.2.record.isEmpty)
    && x.tasks.all (fun t => t.2.ctx == q) && x.trees.all (fun t => t.2.queue == q) && x.spawnQs.all (fun k => k.1 / 4096 == q)
    && x.bars.all (fun b => (Tbl.get? x.tasks (barTask b.1)).isSome) && x.locals.all (fun l => (Tbl.get? x.teams l.1).isSome)
    && x.localPoison.all (fun l => (Tbl.get? x.teams l.1).isSome) && x.localErrs.all (fun l => (Tbl.get? x.teams l.1).isSome) && x.accs.all (fun a => (Tbl.get? x.groups a.1).isSome)
    && x.copies.all (fun c => c.2.ctx == q && c.2.stopped) && x.publishes.all (fun p => p.2.ctx == q)

/-- A section's entries as bytes that an image must hold: FLAGS of a group record tells where its team stood then, which a restored part
does not keep. -/
def sectionMask (type : Nat) (entries : List (List Byte)) : List (Option Byte) :=
  entries.flatMap fun e => e.zipIdx.map fun b => if type = 1 ∧ b.2 = 6 then none else some b.1

/-- Whether bytes are as a mask has them. -/
def masked : List (Option Byte) → List Byte → Bool
  | [], [] => true
  | o :: r, b :: bs => o.all (· == b) && masked r bs
  | _, _ => false

/-- Whether a part, in a context, is what an image's sections hold (R366, R369): registers, local store, rows, slots, copies, barriers,
matrix state and spawn trees, byte for byte. TUPLE and CTRWAIT entries are not acted on.
[DEDUCED, log entry 56] -/
def State.agrees (s : State) (q : Nat) (x : Simt) (ps : List (Nat × List Byte)) : Bool :=
  let t := { s with simt := (s.simt.split q false).join x }
  let ours := (t.sections q none).filter fun e => e.1 != 9 && e.1 != 11
  let theirs := ps.filter fun p => p.1 != 9 && p.1 != 11
  ours.length == theirs.length && (ours.zip theirs).all fun p => p.1.1 == p.2.1 && masked (sectionMask p.1.1 p.1.2) p.2.2

/-- The part that an image of another module restores: one that a context can hold, and whose sections are the image's (R369). -/
def State.foreign (s : State) (q : Nat) (head : List Byte) (ps : List (List Byte)) : Simt :=
  let plain := (head :: ps).flatten
  let base := s.newId fun x => max (max (Tbl.next x.groups) (Tbl.next x.teams))
    (max (max (Tbl.next x.tasks) (Tbl.next x.trees)) (Tbl.next x.deferred))
  let x := (Config.foreignPart q base plain).part q
  if x.fits q base s.free && s.agrees q x (ps.zipIdx.map fun p => (fieldAt head (0x80 + 16 * p.2) 2, p.1)) then x else Simt.reset

/-- The image key that a token carries: IKEY unwrapped under the migration key of its session (R370, R371). -/
def State.tokenKey (s : State) (tok : List Byte) : List Byte :=
  match Tbl.get? s.hub.rot.sessions (fieldAt tok 0xC8 4) with
  | some x => cryptoOut 6 (x.migrateKey ++ (tok.drop 0xA0).take 40) 32
  | none => []

/-- Whether HTAG holds under an image key (R365). -/
def headHolds (key h : List Byte) : Bool :=
  sealBytes (key ++ (h.drop 0x10).take 8 ++ leBytes 4 0xFFFFFFFF ++ h.take 0x1E0) 16 == (h.drop 0x1E0).take 16

/-- A section's plain bytes under an image key; none where its tag does not hold (R365). -/
def openSection (key h : List Byte) (i : Nat) (bs : List Byte) : Option (List Byte) :=
  let head := key ++ (h.drop 0x10).take 8 ++ leBytes 4 i ++ (h.drop (0x80 + 16 * i)).take 16
  let n := bs.length - 16
  let plain := cryptoOut 7 (head ++ bs.take n) n
  if sealBytes (head ++ plain) bs.length = bs then some plain else none

/-- The teams of a part made waiting teams: what their cores held goes with them (R369, R29). -/
def State.outTeams (s : State) (q : Nat) : State :=
  let ids := ((s.imageTeams q).filter fun t => t.2.state == .resident).map Prod.fst
  s.modSimt fun x =>
    let saved (t : Nat) : List (Nat × LiveSlot) := x.slots.filterMap fun v =>
      ((Tbl.get? x.groups v.2.owner).filter fun g => g.place.team == t).map fun g => (2 * g.place.member + v.1 % 2, v.2)
    { x with
      teams := x.teams.map fun t => if s.ctxOfTeam t.2 == q then
        (if ids.contains t.1 then (t.1, { t.2 with state := .swapped, blocks := [], record := [], saved := saved t.1 })
          else (t.1, { t.2 with blocks := [], record := [] })) else t
      slots := x.slots.filter fun v => !((Tbl.get? x.groups v.2.owner).any fun g => ids.contains g.place.team)
      groups := x.groups.map fun g => if ids.contains g.2.place.team then
        (g.1, match Tbl.get? x.tasks g.2.place.task with
          | some k => g.2.saved k
          | none => g.2) else g }

end Sys2Proof.Machine
end

