-- ==== Sys2Proof/Machine/Handover.lean ====
section
/-! DEFINITION. Handover.lean: sealing, committing, aborting and loading contexts (R287, R365 to R371, R453), FREEZE (R290),
CORERST (R31, R288), claimed cores (R30, R363, R364), and the replay buffer (R360). -/

namespace Sys2Proof.Machine

/-! ### Selectors (R279) -/

/-- A context selector with a bit set in [63:28]. -/
def selectorBad (x : Nat) : Bool := decide (2 ^ 28 ≤ x)

/-- The queue of the context that a selector names, if it is one of the enclave it names, in the caller's partition. -/
def State.selected (s : State) (tid x : Nat) : Option Nat :=
  let q := x / 2 ^ 16
  let eid := (s.queue q).eid
  if eid ≠ 0 ∧ eid = x % 2 ^ 16 ∧ s.partOfQueue q = s.partOfThread tid then some q else none

/-- The sealing key of an enclave. -/
def State.sealKeyOf (s : State) (eid : Nat) : Nat := ((Tbl.get? s.hub.enclaves eid).map Enclave.sealKey).getD 0

/-! ### Lost teams (R31) -/

/-- A group whose team is lost has exited; it leaves its barriers, an arrival in an incomplete phase included. -/
def State.buryGroup (s : State) (gid : Nat) (g : Group) : State :=
  let s := s.modSimt fun x => { x with
    groups := Tbl.put x.groups gid { g with exited := true, splits := [], sets := [] }
    bars := x.bars.map fun b => (b.1, { b.2 with cur := b.2.cur.erase gid, nxt := b.2.nxt.erase gid }) }
  ((s.recheckBars g).soon (.taskComplete g.place.task)).recheckSpawns

/-- The lost teams of a context withdrawn, as it resumes.
[DEDUCED, log entry 38] -/
def State.buryLost (s : State) (q : Nat) : State :=
  (s.simt.groups.filter fun x => x.2.place.ctx == q && !x.2.exited && ((s.teamOf x.2).any fun t => t.state == .lost)).foldl
    (fun s x => s.buryGroup x.1 x.2) s

/-- The part of a flight that has left its core: what a reset of the core does not take back.
[DEDUCED, log entry 37] -/
def Flight.sent (f : Flight) : Bool :=
  match f.kind with
  | .store => true
  | .atom _ _ _ => true
  | .reply => true
  | _ => false

/-- The parked tuple requests of some groups given up (R31). -/
def State.dropParked (s : State) (gids : List Nat) : State :=
  (s.store.reqs.filter fun r => r.2.parked && match r.2.who with
    | .split gid _ => gids.contains gid
    | .thread _ => false).foldl (fun s r => s.dropAsked r.1 r.2) s

/-- The PUBLISHes of a context looked at again: a copy that one of them awaits may be gone (R66). -/
def State.recheckPublishes (s : State) (q : Nat) : State :=
  s.simt.publishes.foldl (fun s p => if p.2.ctx = q then s.soon (.publishPoint p.1) else s) s

/-- A team lost with its core: its registers, local store and accumulator rows are gone, and with them its parked requests and
what its unfinished copies had still to move or to count.
[DEDUCED, log entry 37] -/
def State.loseTeam (s : State) (id : Nat) (t : Team) : State :=
  let mine (gid : Nat) : Bool := t.groups.contains gid
  let s := (s.endRuns t.groups).dropParked t.groups
  let s := s.modSimt fun x => { x with
    teams := Tbl.put x.teams id { t with state := .lost }
    groups := x.groups.map fun g => if mine g.1 then
      (g.1, { g.2 with regs := Regs.start, fixed := [], flights := g.2.flights.filter Flight.sent, mat := MatState.start }) else g
    ops := x.ops.filter fun o => !mine o.gid
    slots := x.slots.filter fun v => !mine v.2.owner
    accs := t.groups.foldl Tbl.del x.accs
    locals := Tbl.del x.locals id
    localPoison := Tbl.del x.localPoison id
    localErrs := Tbl.del x.localErrs id
    deferred := x.deferred.filter fun d => !mine d.2.gid
    copies := x.copies.filter fun c => c.2.team != id }
  s.recheckPublishes (s.ctxOfTeam t)

/-- The coordinates by which a lost team is listed: TOPIDX, then COORD2 to COORD8. -/
def State.teamPlace (s : State) (t : Team) : Nat × List Nat :=
  match t.groups.head?.bind s.group? with
  | some g => (g.place.top, g.place.coords.drop 1)
  | none => (t.index, [])

/-- A core under reset: its teams are lost, and each context with one of them halts with CORELOST (R31). -/
def State.loseCore (s : State) (core : Nat) : State :=
  let ts := s.coreTeams core []
  let qs := (ts.map fun t => s.ctxOfTeam t.2).dedup
  let lost (q : Nat) : List (Nat × List Nat) := (ts.filter fun t => s.ctxOfTeam t.2 == q).map fun t => s.teamPlace t.2
  let s' := ts.foldl (fun s t => s.loseTeam t.1 t.2) s
  qs.foldl (fun s q => s.raiseHalt q ⟨0x16, 2, core, 0, 0, none, 0, 0, 0, s.ac, lost q⟩) s'

/-- CORERST (R288): it returns once the core's reset is complete, within 40 µs; with RETIRE the core then leaves service. -/
def execCorerst (x : Op2) (s : State) : Out :=
  threadOnly s 2 (fun _ => Spec.of x.m x.len false x.a.uCodes [codeG x.d]) fun tid t rd =>
    let v := (rd.uni x.a).toNat
    let core := v % 2048
    let die := s.die (core / 176)
    if v / 2048 % 32 ≠ 0 ∨ 2 ^ 17 ≤ v ∨ 1407 < core then .error (2, 0)
    else
      match t.resets with
      | some (c, due) =>
        if s.ac < due then .ok (s, some t.pc)
        else
          let s := (s.modThread tid fun t => { t with resets := none }).modSimt fun y => { y with coreReset := y.coreReset.erase c }
          let s := if bitOf v 16 then { s with dies := Tbl.put s.dies (c / 176) { die with retired := c % 176 :: die.retired } }
            else s
          let s := s.logError (core / 176) (core % 176) 0 4 0 0 core
          .ok ((s.soon (.teamPlacement die.part)).setG tid x.d 0#64, none)
      | none =>
        if s.simt.coreReset.contains core then .ok (s.fail tid x.d stBusy, none)
        else if (s.part die.part).gated then .ok (s.fail tid x.d stState, none)
        else if die.retired.contains (core % 176) then .ok (s.fail tid x.d stState, none)
        else
          let s := (s.loseCore core).modSimt fun y => { y with coreReset := core :: y.coreReset }
          let due := s.ac + min 28000 (Config.latency s.free)
          .ok (s.drawn.modThread tid fun t => { t with resets := some (core, due) }, some t.pc)

/-! ### CTXSEAL, CTXCOMMIT, CTXABORT (R287) -/

/-- Whether what acts on a context waits at the root of trust (R291, R410): for a CTXSEAL of it that another thread began, or for
an instruction or a request that arrived earlier. `k` is its place in the order of arrival. -/
def State.mustWait (s : State) (tid q k : Nat) : Bool :=
  (s.hub.threads.any fun t => t.1 != tid && ((t.2.sealing.map Prod.fst) == some q || t.2.queued.any fun x => x.1 == q && decide (x.2 < k)))
  || s.agenda.any fun e => match e.2 with
    | .evidence j r => r.arg == (s.ctx q).eid && decide (j < k)
    | _ => false

/-- A thread's place in the order of arrival: the one it has, or the next. -/
def State.ticket (s : State) (tid : Nat) : Nat := ((s.thread tid).queued.map Prod.snd).getD s.free

/-- A thread whose instruction goes on. -/
def State.unqueue (s : State) (tid : Nat) : State := s.modThread tid fun t => { t with queued := none }

/-- A thread that waits at its instruction. -/
def State.enqueue (s : State) (tid q k : Nat) : State := s.drawn.modThread tid fun t => { t with queued := some (q, k) }

/-- Whether a CTXSEAL of a context is under way (R290). -/
def State.sealBusy (s : State) (q : Nat) : Bool := s.hub.threads.any fun t => (t.2.sealing.map Prod.fst) == some q

/-- CTXSEAL's halt (R287): with PREEMPT, unless the context's halt line is up already; a claim in progress completes first
(R364). -/
def State.sealHalt (s : State) (q : Nat) : State :=
  let c := s.ctx q
  if c.vacBusy || c.halt.isSome then s else s.raiseHalt q ⟨0x17, 2, 0, 0, 0, none, 0, 0, 0, s.ac, []⟩

/-- A CTXSEAL that has ended, with its status word in g(d): the thread goes on. -/
def State.sealDone (s : State) (tid d : Nat) (status : W64) : State :=
  (s.modThread tid fun t => { t with sealing := none }).setG tid d status

/-- The context's team records decrypted (R365): each must be in the swap area as it was written (R361, R362). -/
def State.recordsHold (s : State) (q : Nat) : Bool :=
  ((s.imageTeams q).filter fun t => t.2.state == .swapped && !t.2.record.isEmpty).all fun t => s.recordHolds q t.2

/-- The image written (R365), with VERSION V + 1; TAG where a team record has been changed.
[DESIGN CHOICE, log entry 115; DEDUCED, log entry 122] -/
def State.writeImage (s : State) (tid d size q : Nat) (buf : List Xlat) : State :=
  if !s.recordsHold q then s.sealDone tid d (failStatus stTag)
  else
    let c := s.ctx q
    let s := (s.simt.teams.filter fun t => s.ctxOfTeam t.2 == q && t.2.state == .resident).foldl (fun s t => s.meetTeam t.1) s
    let (key, s) := s.freshKey
    let sk := s.sealKeyOf c.eid
    let img := s.imageBytes q (c.version + 1) key sk (s.time (s.partOfQueue q))
    let s := s.setG tid (d + 1) (BitVec.ofNat 64 img.length)
    if size < img.length then s.sealDone tid d (failStatus stNoSpace)
    else
      let s := (s.bufWrite buf img).modHub fun h => { h with
        images := Tbl.put h.images (Tbl.next h.images) ⟨img, c.eid, q, c.version + 1, sk, key, Simt.reset⟩ }
      (s.modCtx q fun c => { c with state := 3, imageKey := key }).sealDone tid d 0#64

/-- A CTXSEAL under way: once the context is HALTED its image is written, after a latency that the manual leaves open (R365); until
then the thread stays at the instruction.
[DESIGN CHOICE, log entry 4] -/
def State.sealStep (s : State) (tid d size : Nat) (pc : W64) (q : Nat) (buf : List Xlat) (due : Option Nat) :
    State × Option W64 :=
  let st := (s.ctx q).state
  let wait (s : State) (due : Option Nat) : State := s.modThread tid fun t => { t with sealing := some (q, buf, due) }
  if st = 1 then (wait (s.sealHalt q) none, some pc)
  else if st = 2 then
    match due with
    | some n => if s.ac < n then (wait s due, some pc) else (s.writeImage tid d size q buf, none)
    | none => (wait s.drawn (some (s.ac + Config.latency s.free)), some pc)
  else (s.sealDone tid d (failStatus stState), none)

/-- CTXSEAL (R287): the status conditions, the buffer, the halt, and after the skid the image with VERSION V + 1.
[DEDUCED, log entry 51; DEDUCED, log entry 52] -/
def execCtxseal (x : Rrr) (s : State) : Out :=
  threadOnly s 1 (fun _ => Spec.of x.m 1 (!pairOk x.d || !pairOk x.c) [codeG x.a, codeG x.c, codeG (x.c + 1)] [codeG x.d])
    fun tid t rd =>
      let sel := (rd.g x.a).toNat
      let size := (rd.g (x.c + 1)).toNat
      match t.sealing with
      | some (q, buf, due) => .ok (s.sealStep tid x.d size t.pc q buf due)
      | none =>
        if selectorBad sel then .error (2, 0)
        else
          match s.selected tid sel with
          | none => .ok (s.fail tid x.d stBadEid, none)
          | some q =>
            let c := s.ctx q
            let k := s.ticket tid
            if s.mustWait tid q k then .ok (s.enqueue tid q k, some t.pc)
            else
            let s := s.unqueue tid
            if c.frozen then .ok (s.fail tid x.d stBusy, none)
            else if c.state ≠ 1 ∧ c.state ≠ 2 then .ok (s.fail tid x.d stState, none)
            else
              match s.buffer tid .write (rd.g x.c).toNat size with
              | .error e => .error e
              | .ok buf => .ok (s.sealStep tid x.d size t.pc q buf none)

/-- A group without its step flag and holds (R436). -/
def Group.unstep (g : Group) : Group :=
  { g with stepOn := false, stepHeld := false, splits := g.splits.map (fun p => (p.1, { p.2 with held := false }))
           sets := g.sets.map fun p => { p with held := false } }

/-- The context taken off the die: its state is in its image alone (R287). -/
def State.commitCtx (s : State) (q : Nat) (migrated : Bool) : State :=
  let s := (s.buryLost q).outTeams q
  let c := s.ctx q
  let part := s.simt.part q
  let part := { part with
    groups := part.groups.map fun g => (g.1, g.2.unstep)
    copies := part.copies.map fun c => (c.1, { c.2 with stale := true }) }
  let s := s.putTraceQ q TraceQ.reset
  let s := { s with
    simt := s.simt.split q false
    hub := { s.hub with images := s.hub.images.map fun (i : Nat × Image) =>
      if i.2.queue = q ∧ i.2.eid = c.eid ∧ i.2.version = c.version + 1 then (i.1, { i.2 with simt := part }) else i } }
  (s.modCtx q fun c => { c with
    version := c.version + 1, state := 4, residencyKey := 0, imageKey := 0, swapUsed := [], halt := none, migrated := migrated }).recheckSpawns

/-- The session with the peer whose identity a token names (R370). -/
def State.sessionOf (s : State) (peer : List Byte) : Option (Nat × Session) :=
  s.hub.rot.sessions.find? fun x => x.2.ready && leBytes 32 x.2.peer == peer

/-- The fields of a commit token that its signature covers (Table 11 of ch20). -/
def tokenBody (eid q dctx version deid : Nat) (src dst meas nonce ikey : List Byte) (session : Nat) : List Byte :=
  leBytes 4 0x4B434D54 ++ leBytes 2 1 ++ leBytes 2 eid ++ leBytes 4 q ++ leBytes 4 dctx ++ leBytes 8 version ++ leBytes 2 deid
    ++ leBytes 6 0 ++ src ++ dst ++ meas ++ nonce ++ ikey ++ leBytes 4 session ++ leBytes 52 0

/-- A commit token of a context, from the fields that the caller wrote; none where no session names the destination. -/
def State.token (s : State) (q : Nat) (given : List Byte) : Option (List Byte × State) :=
  let c := s.ctx q
  let dst := (given.drop 0x40).take 32
  (s.sessionOf dst).map fun (id, x) =>
    let (nonce, s) := s.random 32
    let meas := ((Tbl.get? s.hub.enclaves c.eid).map Enclave.measurement).getD []
    let body := tokenBody c.eid q (fieldAt given 0x0C 4) (c.version + 1) (fieldAt given 0x18 2) s.hub.rot.idHash dst meas nonce
      (wrapKey (x.migrateKey ++ leBytes 32 c.imageKey)) id
    (body ++ s.hub.rot.sign body ++ leBytes 12 0, s)

/-- A handover instruction with a selector in g(a) and a status in g(d) (R287): it waits for a CTXSEAL of the context that is
under way. -/
def handoverOp (s : State) (m : Marks) (d a : Nat) (srcs : List Nat)
    (body : State → Nat → Rd → Nat → Except (Nat × Nat) Sys) : Out :=
  threadOnly s 1 (fun _ => Spec.of m 1 false (codeG a :: srcs) [codeG d]) fun tid t rd =>
    let sel := (rd.g a).toNat
    if selectorBad sel then .error (2, 0)
    else
      match s.selected tid sel with
      | none => .ok (s.fail tid d stBadEid, none)
      | some q =>
        let k := s.ticket tid
        if s.mustWait tid q k then .ok (s.enqueue tid q k, some t.pc)
        else
          match body (s.unqueue tid) tid rd q with
          | .error e => .error e
          | .ok r => .ok ((s.unqueue tid).answer tid d r, none)

/-- CTXCOMMIT (R287, R370).
[DEDUCED, log entry 51] -/
def execCtxcommit (x : Rrr) (s : State) : Out :=
  handoverOp s x.m x.d x.a [codeG x.c] fun s tid rd q =>
        let dest := (rd.g x.c).toNat
        let c := s.ctx q
        if c.frozen then .ok (.error stBusy)
        else if c.state ≠ 3 then .ok (.error stState)
        else if dest = 0 then .ok (.ok (s.commitCtx q false))
        else if !bitOf (s.policyOf c.eid) 3 then .ok (.error stPolicy)
        else
          match s.record tid dest 2688, s.buffer tid .write dest 2688 with
          | .error e, _ => .error e
          | _, .error e => .error e
          | .ok given, .ok buf =>
            match s.token q given with
            | none => .ok (.error stToken)
            | some (bs, s) => .ok (.ok ((s.bufWrite buf bs).commitCtx q true))

/-- A context that goes on on the die (R355, R364): lost teams are withdrawn, teams on claimed cores leave, and every group
goes on from its safe points. -/
def State.resumeCtx (s : State) (q : Nat) : State :=
  let s := ((s.dumpBreak q).buryLost q).modCtx q fun c => { c with state := 1, halt := none, imageKey := 0 }
  let claimed := (s.ctx q).claimed
  let s := ((s.imageTeams q).filter fun t => t.2.state == .resident && claimed.contains t.2.core).foldl
    (fun s t => s.swapOut t.1) s
  let gids := (s.residentGroups q).filter fun gid => !((s.group? gid).any Group.exited)
  let s := gids.foldl State.traceStart (gids.foldl State.resumeGroup s)
  let s := s.resumeCopies (fun c => c.ctx == q && ((Tbl.get? s.simt.teams c.team).any fun t => t.state != .swapped)) none
  (s.soon (.teamPlacement (s.partOfQueue q))).soon (.easelAssign (dieOfQueue q))

/-- CTXABORT (R287). -/
def execCtxabort (x : Rr) (s : State) : Out :=
  handoverOp s x.m x.d x.a [] fun s _ _ q =>
        let c := s.ctx q
        if c.frozen then .ok (.error stBusy)
        else if c.state = 3 then .ok (.ok ((s.modCtx q fun c => { c with version := c.version + 2 }).resumeCtx q))
        else if c.state = 2 then .ok (.ok (s.resumeCtx q))
        else .ok (.error stState)

/-! ### CTXLOAD (R453, R369, R371) -/

/-- The checks of a token for an image's header (R371): the reason of a failure, or the destination queue. -/
def State.checkToken (s : State) (part : Nat) (tok h : List Byte) : Except Nat Nat :=
  let deid := fieldAt tok 0x18 2
  let dctx := fieldAt tok 0x0C 4
  let nonce := (tok.drop 0x80).take 32
  let signed := (Tbl.get? s.hub.rot.sessions (fieldAt tok 0xC8 4)).any fun x =>
    Config.verifies 1 (leBytes 32 x.peer) (tok.take (0x100 + 2420))
  if fieldAt tok 0 4 ≠ 0x4B434D54 || fieldAt tok 4 2 != 1 || !signed || (tok.drop 0x40).take 32 != s.hub.rot.idHash
      || s.hub.rot.nonces.contains nonce then .error stToken
  else
    match (Tbl.get? s.hub.enclaves deid).filter fun e => e.part == part && e.queues.contains dctx with
    | none => .error stBadEid
    | some e =>
      if !bitOf e.policy 3 then .error stPolicy
      else if e.measurement ≠ (tok.drop 0x60).take 32 || fieldAt h 6 2 != fieldAt tok 6 2 || fieldAt h 8 4 != fieldAt tok 8 4
          || fieldAt h 0x10 8 != fieldAt tok 0x10 8 then .error stToken
      else .ok dctx

/-- The queue that an image is loaded into (R453, steps 2 and 3): that of its header, or of a valid token; the header's enclave
and context must be there in either case. A context committed with a token needs one (R370).
[DEDUCED, log entry 56] -/
def State.loadTarget (s : State) (part : Nat) (tok : Option (List Byte)) (h : List Byte) : Except Nat Nat :=
  let q := fieldAt h 8 4
  let known := (Tbl.get? s.hub.enclaves (fieldAt h 6 2)).any fun e => e.part == part && e.queues.contains q
  match tok with
  | some t =>
    match s.checkToken part t h with
    | .error r => .error r
    | .ok d => if known then .ok d else .error stBadEid
  | none => if !known then .error stBadEid else if (s.ctx q).migrated then .error stToken else .ok q

/-- The image of this module that a header belongs to: it is the header that was sealed, and the key that opens it is the one it was
sealed under: that of the enclave's sealing key, or the one that a token carries. The 16 bytes after HTAG are under no tag (R365).
[DEDUCED, log entry 56] -/
def State.imageOf (s : State) (h : List Byte) (opens : Image → Bool) : Option Image :=
  (s.hub.images.map Prod.snd).find? fun i => i.bytes.take 0x1F0 == h.take 0x1F0 && opens i

/-- The sections of an image as (offset, bytes with tag). -/
def sectionsOf (h : List Byte) : List (Nat × Nat) :=
  (List.range (min 16 (fieldAt h 0x0C 4))).map fun i => (fieldAt h (0x80 + 16 * i + 8) 4, fieldAt h (0x80 + 16 * i + 12) 4 + 16)

/-- The sections of an image opened in their order by `f`, none at the first whose tag does not hold; a translation fault of one
ends the check. -/
def State.openAll (s : State) (tid va : Nat) (f : Nat → Nat → List Byte → Option (List Byte)) :
    Nat → List (Nat × Nat) → Except (Nat × Nat) (Option (List (List Byte)))
  | _, [] => .ok (some [])
  | i, (off, n) :: r =>
    match s.record tid ((va + off) % 2 ^ 64) n with
    | .error e => .error e
    | .ok bs =>
      match f i off bs with
      | none => .ok none
      | some p =>
        match s.openAll tid va f (i + 1) r with
        | .error e => .error e
        | .ok x => .ok (x.map fun ps => p :: ps)

/-- What an image brings: its part of the execution side and its version. -/
structure Loaded where
  simt : Simt
  version : Nat

/-- The image behind a header, as a way to open its sections and to restore it: one of this module, or one that a token gives the
key of (R371); none where HTAG does not hold. -/
def State.imageKind (s : State) (q : Nat) (tok : Option (List Byte)) (h : List Byte) :
    Option ((Nat → Nat → List Byte → Option (List Byte)) × (List (List Byte) → Loaded)) :=
  let own := s.imageOf h fun i => match tok with
    | some t => s.tokenKey t == leBytes 32 i.key
    | none => i.sealKey == s.sealKeyOf (s.ctx q).eid
  match own, tok with
  | some im, _ =>
    some (fun _ off bs => if bs = (im.bytes.drop off).take bs.length then some [] else none,
      fun _ => ⟨if im.queue = q then im.simt else im.simt.rebind q, im.version⟩)
  | none, none => none
  | none, some t =>
    let key := s.tokenKey t
    if !headHolds key h || (s.hub.images.any fun i => i.2.bytes.take 0x1F0 == h.take 0x1F0) then none
    else some (fun i _ bs => openSection key h i bs, fun ps => ⟨s.foreign q h ps, fieldAt h 0x10 8⟩)

/-- The work of a loaded context goes on: barriers, PUBLISHes, deferred arrivals and copies are looked at again. Copies of teams
that have left their cores for good go on at once (R91); the others with their team (R369). -/
def State.wakeCtx (s : State) (q : Nat) : State :=
  let s := s.simt.bars.foldl (fun s b => s.soon (.barrierPhaseComplete b.1)) s
  let s := s.simt.publishes.foldl (fun s p => if p.2.ctx = q then s.soon (if p.2.atPoint then .publishComplete p.1
    else .publishPoint p.1) else s) s
  let s := (s.simt.copies.filter fun c => c.2.ctx == q && c.2.srcDone).foldl (fun s c =>
    s.soon (if c.2.landed then .published c.1 else .landed c.1)) s
  let s := s.resumeCopies (fun c => c.ctx == q && ((Tbl.get? s.simt.teams c.team).any fun t => t.state != .swapped)) none
  (s.recheckDeferred.soon (.teamPlacement (s.partOfQueue q))).soon (.easelAssign (dieOfQueue q))

/-- A context restored from its image (R369): a new residency key, and every team a waiting team. -/
def State.loadCtx (s : State) (q : Nat) (x : Loaded) (h : List Byte) (nonce : Option (List Byte)) : State :=
  let (key, s) := s.freshKey
  let s := { s with simt := (s.simt.split q false).join x.simt
                    free := s.free + x.simt.copies.length + x.simt.publishes.length }
  let s := s.modHub fun y => { y with
    images := y.images.map fun i => if i.2.bytes.take 0x1F0 = h.take 0x1F0 then (i.1, { i.2 with simt := Simt.reset }) else i
    rot := match nonce with
      | some n => { y.rot with nonces := n :: y.rot.nonces }
      | none => y.rot }
  (s.modCtx q fun c => { c with
    state := 1, halt := none, cause := 0, cxfault := 0, version := x.version + 1, migrated := false, residencyKey := key,
    imageKey := 0, swapUsed := [] }).wakeCtx q

/-- The checks of R453 from step 4 on.
[DEDUCED, log entry 56] -/
def State.checkLoad (s : State) (tid va q : Nat) (tok : Option (List Byte)) (h : List Byte) : Except (Nat × Nat) Sys :=
  let c := s.ctx q
  if c.frozen || (s.part (s.partOfQueue q)).state != 0 then .ok (.error stBusy)
  else if (s.part (s.partOfQueue q)).refusing then .ok (.error s.openReason)
  else if tok.isNone ∧ c.state ≠ 4 then .ok (.error stState)
  else
    match s.imageKind q tok h with
    | none => .ok (.error stTag)
    | some (opens, restore) =>
      if sectionsBad h then .ok (.error stBadDesc)
      else if tok.isNone ∧ fieldAt h 0x10 8 ≠ c.version then .ok (.error stStale)
      else
        match s.openAll tid va opens 0 (sectionsOf h) with
        | .error e => .error e
        | .ok none => .ok (.error stTag)
        | .ok (some ps) =>
          let x := restore ps
          let die := dieOfQueue q
          if 4096 < s.treeEntries die + x.simt.trees.length ∨ 16384 < s.taskEntries die + x.simt.tasks.length then
            .ok (.error stBusy)
          else .ok (.ok (s.loadCtx q x h (tok.map fun t => (t.drop 0x80).take 32)))

/-- The buffer of a token that an operand names, and its bytes; none where it names no token. -/
def State.tokenAt (s : State) (tid va : Nat) : Except (Nat × Nat) (Option (List Byte)) :=
  if va = 0 then .ok none
  else
    match s.record tid va 2688 with
    | .error e => .error e
    | .ok t => .ok (some t)

/-- CTXLOAD (R453): it waits for a CTXSEAL of the context that is under way (R291).
[DEDUCED, log entry 51] -/
def execCtxload (x : Rrr) (s : State) : Out :=
  threadOnly s 1 (fun _ => Spec.of x.m 1 false [codeG x.a, codeG x.c] [codeG x.d]) fun tid t rd =>
    let va := (rd.g x.a).toNat
    let k := s.ticket tid
    let s := s.unqueue tid
    match s.record tid va 512 with
    | .error e => .error e
    | .ok h =>
      if fieldAt h 0 4 ≠ 0x4B534349 ∨ fieldAt h 4 2 ≠ 1 then .ok (s.fail tid x.d stBadDesc, none)
      else
        match s.tokenAt tid (rd.g x.c).toNat with
        | .error e => .error e
        | .ok tok =>
          match s.loadTarget (s.partOfThread tid) tok h with
          | .error r => .ok (s.fail tid x.d r, none)
          | .ok q =>
            if s.mustWait tid q k then .ok (s.enqueue tid q k, some t.pc)
            else
              match s.checkLoad tid va q tok h with
              | .error e => .error e
              | .ok r => .ok (s.answer tid x.d r, none)

/-! ### FREEZE (R290) -/

/-- The context whose unit an event belongs to: a reply that waited for its clocks too. -/
def State.eventCtx (s : State) (e : Event) : Option Nat :=
  let ofGroup (gid : Nat) : Option Nat := (s.group? gid).map fun g => g.place.ctx
  let answered (r : Nat) : Option Nat :=
    ((Tbl.get? s.store.reqs r).filter fun x => x.answer.isSome).bind fun x => s.askerCtx x.who
  match e with
  | .fixedLatencyWriteback gid => ofGroup gid
  | .variableLatencyResult gid _ => ofGroup gid
  | .runEndMerge gid _ => ofGroup gid
  | .groupExit gid => ofGroup gid
  | .atomicPerformed gid _ => ofGroup gid
  | .storePerformed gid _ => ofGroup gid
  | .ctrwaitWake gid _ => ofGroup gid
  | .batchComplete gid => ofGroup gid
  | .spawnAccept gid _ => ofGroup gid
  | .copyUnitTransfer c => (Tbl.get? s.simt.copies c).map Copy.ctx
  | .sourceReleased c => (Tbl.get? s.simt.copies c).map Copy.ctx
  | .landed c => (Tbl.get? s.simt.copies c).map Copy.ctx
  | .published c => (Tbl.get? s.simt.copies c).map Copy.ctx
  | .publishPoint p => (Tbl.get? s.simt.publishes p).map Publish.ctx
  | .publishComplete p => (Tbl.get? s.simt.publishes p).map Publish.ctx
  | .deferredArrival d => (Tbl.get? s.simt.deferred d).bind fun x => ofGroup x.gid
  | .operationAcceptance o => (s.simt.ops.find? fun x => x.id == o).bind fun x => ofGroup x.gid
  | .matrixPass k => (s.engineOps k).head?.bind fun o => ofGroup o.gid
  | .barrierPhaseComplete b => (Tbl.get? s.simt.tasks (barTask b)).map Task.ctx
  | .skidEnd q => some q
  | .claimComplete q => some q
  | .tdepServe r => answered r
  | .tcopyServe r => answered r
  | .ttakeServe r => answered r
  | .tcancelServe r => answered r
  | _ => none

/-- An event of a frozen context that comes due: it waits for the thaw (R290). -/
def State.holdEvent (s : State) (q : Nat) (e : Event) : State :=
  s.modCtx q fun c => { c with heldEvents := c.heldEvents ++ [(0, e)] }

/-- The partition whose arithmetic clock an event waits for (R2, R448). -/
def State.eventPart (s : State) (e : Event) : Option Nat :=
  let served (r : Nat) : Option Nat := (Tbl.get? s.store.reqs r).map TupReq.part
  match s.eventCtx e, e with
  | some q, _ => some (s.partOfQueue q)
  | none, .tdepServe r => served r
  | none, .tcopyServe r => served r
  | none, .ttakeServe r => served r
  | none, .tcancelServe r => served r
  | none, .queueWaitWake q => some (s.partOfQueue q)
  | none, .syncEngineLineReturn l => some (s.partOfDie (s.homeDie (64 * l)))
  | none, .chunkFlush k => some (s.partOfDie (dieOfCore (k / 4)))
  | none, .lossMark k => some (s.partOfDie (dieOfCore (k / 4)))
  | none, .runStart k => some (s.partOfDie (dieOfCore (k / 4)))
  | none, .progressSwap c => some (s.partOfDie (dieOfCore c))
  | none, _ => none

/-- The clocks of a context's units gated: its events wait, with the ac that each has left. -/
def State.freezeCtx (s : State) (q : Nat) : State :=
  let mine (x : Nat × Event) : Bool := s.eventCtx x.2 == some q
  let held := (s.agenda.filter mine).map fun x => (x.1 - s.ac, x.2)
  ({ s with agenda := s.agenda.filter fun x => !mine x }.dumpBreak q).modCtx q fun c => { c with frozen := true, heldEvents := held, frozenAt := s.ac }

/-- The clocks of a context run again from the next ac. -/
def State.thawCtx (s : State) (q : Nat) : State :=
  let c := s.ctx q
  let again := c.heldEvents.map fun (x : Nat × Event) => (s.ac + 1 + x.1, x.2)
  (({ s with agenda := s.agenda ++ again }.dumpBreak q).putCtx q { c with frozen := false, heldEvents := [] }).delayCtx q (s.ac + 1 - c.frozenAt)

/-- FREEZE (R290). -/
def execFreeze (x : RrOp) (s : State) : Out :=
  sysOp s 2 x.m x.len x.d false (codeG x.a :: x.c.uCodes) fun tid _ rd =>
    let sel := (rd.g x.a).toNat
    let op := (rd.uni x.c).toNat
    if selectorBad sel ∨ 1 < op then .error (2, 0)
    else
      match s.selected tid sel with
      | none => .ok (.error stBadEid)
      | some q =>
        let c := s.ctx q
        if !bitOf (s.policyOf c.eid) 0 then .ok (.error stPolicy)
        else if s.sealBusy q then .ok (.error stBusy)
        else if c.state ≠ 1 ∨ c.frozen = decide (op = 1) then .ok (.error stState)
        else .ok (.ok (if op = 1 then s.freezeCtx q else s.thawCtx q))

/-! ### Claimed cores (R363, R364) -/

/-- The resident groups of a context on a core. -/
def State.ctxLoad (s : State) (q core : Nat) : Nat :=
  ((s.coreGroups core []).filter fun g => g.2.place.ctx == q && !g.2.exited).length

/-- Whether a resident launch of a context binds CLUSTER. -/
def State.bindsCluster (s : State) (q : Nat) : Bool :=
  (s.imageTeams q).any fun t => t.2.state == .resident && (Tbl.get? s.simt.tasks t.2.task).any fun k =>
    k.launch.levels.any fun l => l.domain == 2

/-- The first `n` of a list by least load, ties to the highest number. -/
def fewestFirst (load : Nat → Nat) (n : Nat) (xs : List Nat) : List Nat :=
  (xs.mergeSort fun a b => decide (load a < load b) || (load a == load b && decide (b ≤ a))).take n

/-- The cores that a claim of `n` chooses; none where `n` exceeds the candidates.
[DEDUCED, log entry 57] -/
def State.claimCores (s : State) (q n : Nat) : Option (List Nat) :=
  let cand := (s.coresOf (s.partOfQueue q)).filter fun c => !(s.ctx q).claimed.contains c
  if cand.length < n then none
  else if s.bindsCluster q then
    let cls := (cand.map clusterOf).dedup
    let k := ceilDiv n 8
    if cls.length < k then none
    else
      let chosen := fewestFirst (fun c => ((clusterCores c).map (s.ctxLoad q)).sum) k cls
      some (cand.filter fun c => chosen.contains (clusterOf c))
  else some (fewestFirst (s.ctxLoad q) n cand)

/-- The result of a write to CXVAC. -/
def State.claimResult (s : State) (q r : Nat) : State := s.modCtx q fun c => { c with vacResult := r }

/-- CXVAC_CLAIM (R363): the checks in their order, then the cores claimed and their teams swapped out. -/
def execCxvacClaim (queue n : Nat) (s : State) : Out :=
  let c := s.ctx queue
  if c.eid = 0 then .next s
  else if c.vacBusy then .next (s.claimResult queue 1)
  else if c.state ≠ 1 ∨ c.frozen = true then .next (s.claimResult queue 2)
  else if 2048 ≤ n then .next (s.claimResult queue 3)
  else
    match s.claimCores queue n with
    | none => .next (s.claimResult queue 3)
    | some cores =>
      let ts := (s.imageTeams queue).filter fun t => t.2.state == .resident && cores.contains t.2.core
      if !s.canSwapAll (ts.map Prod.fst) then
        .next ((s.claimResult queue 4).modCtx queue fun c => { c with swapfull := true })
      else
        let bytes := (ts.map fun t => s.teamSize t.1 t.2).sum
        let s := s.modCtx queue fun c => { c with vacBusy := true, claimed := c.claimed ++ cores }
        let s := ts.foldl (fun s t => s.swapOut t.1) s
        .next ((s.soon (.teamPlacement (s.partOfQueue queue))).laterWithin (2144 + bytes / 512) (.claimComplete queue))

/-- CLAIM_COMPLETE (R363): BUSY clears, and the result is OK; under a halt that is the work of the skid's end (R364). -/
def execClaimComplete (queue : Nat) (s : State) : Out :=
  .next (if (s.ctx queue).vacBusy ∧ (s.ctx queue).halt = none then s.modCtx queue fun c => { c with vacBusy := false, vacResult := 0 } else s)

/-- CXVAC_RELEASE (R363): a write of 0 releases every claimed core. -/
def execCxvacRelease (queue : Nat) (s : State) : Out :=
  let c := s.ctx queue
  if c.eid = 0 then .next s
  else if c.vacBusy then .next (s.claimResult queue 1)
  else .next ((s.modCtx queue fun c => { c with claimed := [], vacResult := 0 }).soon (.teamPlacement (s.partOfQueue queue)))

/-! ### The replay buffer (R360) -/

/-- An entry of a die's fault buffer freed. -/
def State.fbFree (s : State) (die i : Nat) : State :=
  s.modSimt fun x => { x with fb := Tbl.put x.fb die (Tbl.del (Tbl.getD x.fb die []) i) }

/-- An entry of a die's fault buffer. -/
def State.fbEntry? (s : State) (die i : Nat) : Option FbEntry := Tbl.get? (Tbl.getD s.simt.fb die []) i

/-- A write to FBREPLAY that names no entry, or has a reserved bit set. -/
def State.badReplay (s : State) (die : Nat) : State :=
  s.modSimt fun x => { x with fbBad := if x.fbBad.contains die then x.fbBad else die :: x.fbBad }

/-- What waited for an entry goes on: the split issues its instruction again, the copy its unit. -/
def State.fbResume (s : State) (e : FbEntry) : State :=
  match e.copy with
  | some id =>
    match Tbl.get? s.simt.copies id with
    | some c => (s.modCopy id fun k => { k with stopped := false, cause := none }).later (c.nextEvent id)
    | none => s
  | none => s.wake e.gid e.sp

/-- FBREPLAY_RETRY (R360). -/
def execFbreplayRetry (die index : Nat) (s : State) : Out :=
  match s.fbEntry? die index with
  | none => .next (s.badReplay die)
  | some e => .next ((s.fbFree die index).fbResume e)

/-- FBREPLAY_ABANDON (R360): the context halts with XLAT, as in normal service. -/
def execFbreplayAbandon (die index : Nat) (s : State) : Out :=
  match s.fbEntry? die index with
  | none => .next (s.badReplay die)
  | some e =>
    let s := s.fbFree die index
    match e.copy.bind (Tbl.get? s.simt.copies) with
    | some c =>
      let s := s.modSimt fun x => { x with copies := x.copies.map fun k => if some k.1 = e.copy then (k.1, { k.2 with cause := some 6 }) else k }
      let pl := ((s.group? c.gid).map Group.place).getD ⟨c.ctx, 0, c.team, 0, c.core, 0, 0, 0, []⟩
      .next (s.raiseHalt c.ctx ⟨6, 1, c.core, pl.sched, pl.slot, some c.gid, c.ord, c.off, e.va, s.ac, []⟩)
    | none => .next ((s.modSplit e.gid e.sp fun p => { p with park := none }).haltFlt e.gid e.sp ⟨6, e.va, e.lane⟩)

end Sys2Proof.Machine
end

