-- ==== Sys2Proof/Machine/Trace.lean ====
section
/-! DEFINITION. Trace.lean: enabling trace and sampling (R427), flushes and losses (R428, R432), stall samples (R433), and single
step (R434 to R436). -/

namespace Sys2Proof.Machine

/-! ### TRCTL (R426, R427) -/

/-- Whether a buffer of a size in pages can be used (R427). -/
def State.bufferGood (s : State) (q base size : Nat) : Bool :=
  decide (1 ≤ size) && (List.range size).all fun i => (s.bufferPa q (base + 4096 * i) 64).isSome

/-- A trace that starts anew for a context: every slot takes a sync point before its first packet. -/
def State.traceAnew (s : State) (q : Nat) : State :=
  s.modHub fun h => { h with traceG := h.traceG.filter fun t => !((s.group? t.1).any fun g => g.place.ctx == q) }

/-- TRCTL_ENABLE (R426, R427): a write of TRCTL. A bit that would be set is refused with BADBUF, or BADREQ for a period
outside 6 to 16, and stays 0.
[DEDUCED, log entry 92; DESIGN CHOICE, log entry 93] -/
def execTrctlEnable (queue value : Nat) (s : State) : Out :=
  let x := s.traceQ queue
  if (s.queue queue).eid = 0 then .next s
  else
    let slog2 := fieldOf value 8 5
    let setT := bitOf value 0 && !x.trace
    let setS := bitOf value 1 && !x.stall
    let setL := bitOf value 2 && !x.load
    let badT := setT && !s.bufferGood queue x.trbuf x.trsize
    let badM := (setS || setL) && !s.bufferGood queue x.smbuf x.smsize
    let badN := setS && (decide (slog2 < 6) || decide (16 < slog2))
    let s := if bitOf value 0 || !x.trace then s else s.flushCtx queue
    let s := if setT && !badT then s.traceAnew queue else s
    let result := if badT then 1 else if badN then 4 else if badM then 1 else if setT || setS || setL then 0 else x.result
    .next (s.putTraceQ queue { s.traceQ queue with
      llog2 := fieldOf value 16 4, slog2 := slog2, holdteam := bitOf value 4
      trace := bitOf value 0 && !badT
      stall := bitOf value 1 && !(setS && (badM || badN))
      load := bitOf value 2 && !(setL && badM)
      result := result })

/-! ### Flushes and losses (R428, R432) -/

/-- CHUNK_FLUSH (R428): the chunks of a scheduler that are full, or have waited 4,096 ac, are written, unless its path is backed
up; where the staging holds more than its room, every chunk is. -/
def execChunkFlush (sched : Nat) (s : State) : Out :=
  let t := (s.traceK sched).close fun c =>
    decide (c.first + 4096 ≤ s.ac) || decide (stageRoom < (s.traceK sched).chunks.length)
  let s := s.putTraceK sched t
  .next (if t.chunks.all fun c => !c.closed then s
    else if s.pathBusy sched then s.at (s.ac + 1) (.chunkFlush sched)
    else s.writeChunks sched Chunk.closed)

/-- LOSS for the packets of a context: the count is written, and every slot with a live group takes a sync point before its next
packet.
[DESIGN CHOICE, log entry 93] -/
def State.lossOne (s : State) (k q n : Nat) : State :=
  let t := s.traceK k
  let t := { t with lost := Tbl.del t.lost q }
  let pk := 0xEF#8 :: leBytes 2 (min n 65535)
  if s.stageFull k (t.add q s.ac pk) then s
  else
    let s := (s.putTraceK k t).stage k q pk
    s.simt.groups.foldl (fun s g =>
      if g.2.place.schedNo = k ∧ g.2.exited = false then s.putTraceG g.1 { s.traceG g.1 with due := true } else s) s

/-- LOSS (R432). -/
def execLossMark (sched : Nat) (s : State) : Out :=
  .next ((s.traceK sched).lost.foldl (fun s t => s.lossOne sched t.1 t.2) s)

/-! ### Stall samples (R433) -/

/-- The reason of a group's split on W, by the group's oldest pending result (Table 7, R148). -/
def Group.waitReason (g : Group) : Nat :=
  match g.flights.find? fun f => !f.done && !(f.dv.isEmpty && f.dg.isEmpty && f.dq.isEmpty) with
  | none => 5
  | some f =>
    match f.kind with
    | .load _ => if f.isLocal then 4 else 3
    | .atom _ _ _ => 6
    | .reply => if f.path = some 4 then 6 else 7
    | _ => 5

/-- Whether a group issued in this ac, and which split of it did (R433). -/
def State.issuedNow (s : State) (gid : Nat) (g : Group) : Option Nat :=
  match (Tbl.get? s.simt.scheds g.place.schedNo).bind Sched.last with
  | some (ac, i, sp) => if ac = s.ac ∧ i = gid then some sp else none
  | none => none

/-- Why a split waits: the first of Table 7 that applies.
[DEDUCED, log entry 94] -/
def State.stallReason (s : State) (gid sp : Nat) (g : Group) (p : Split) : Nat :=
  if s.issuedNow gid g = some sp then 0
  else if p.ready && !p.held && decide (p.readyAt ≤ s.ac) then
    (if (List.range 8).any fun k => decide (231 < g.pathCount k) then 14 else 1)
  else if s.ac < p.readyAt then 2
  else
    match p.park with
    | some .wmark => g.waitReason
    | some (.tuple _ _) => 7
    | some (.waitc _ _ _ _) => 8
    | some (.mwait _ _ _) => 9
    | some (.batchFull _ _) => 9
    | some (.accept _ _ _) => 9
    | some .matrix => 9
    | some (.barwait _ _ _ _) => 10
    | some (.barsync _ _) => 10
    | some (.ctr _ _ _ _ _ _) => 11
    | some (.woken _ _) => 11
    | some (.spawnFull _ _ _ _) => 12
    | some .join => 13
    | some (.ntdrain _ _) => 15
    | some (.replay _ _) => 17
    | none => if p.held then 16 else 17

/-- The split that a sample takes: ready longest, or else the lowest index. -/
def sampleSplit : Table Split → Option (Nat × Split)
  | [] => none
  | x :: r =>
    match sampleSplit r with
    | none => some x
    | some y =>
      if x.2.ready && y.2.ready then (if y.2.readySince < x.2.readySince then some y else some x)
      else if y.2.ready then some y
      else some x

/-- The next of a scheduler's groups in slot rotation. -/
def nextSlot (rotate : Nat) (gs : List (Nat × Group)) : Option (Nat × Group) :=
  let least (x : List (Nat × Group)) : Option (Nat × Group) :=
    x.foldl (fun m g => match m with
      | none => some g
      | some h => if g.2.place.slot < h.2.place.slot then some g else m) none
  (least (gs.filter fun g => decide (rotate ≤ g.2.place.slot))).or (least gs)

/-- One stall sample of a context on a scheduler. -/
def State.sampleCtx (s : State) (k q : Nat) : State :=
  match nextSlot (s.traceS k q).rotate (s.simt.groups.filter fun g => g.2.place.schedNo == k && g.2.place.ctx == q && !g.2.exited
    && (s.teamOf g.2).map Team.state == some .resident) with
  | none => s
  | some (gid, g) =>
    let s := s.putTraceS k q { s.traceS k q with rotate := (g.place.slot + 1) % 16 }
    match sampleSplit g.splits with
    | none => s
    | some (sp, p) =>
      let (ord, off) := p.point ((lowestLane p.mask).getD 0)
      s.putSample q (s.sampleBytes g ord off 0 (s.stallReason gid sp g p + 128 * b01 (s.issuedNow gid g).isSome) (s.timeOf g)
        (leBytes 1 sp ++ leBytes 5 0))

/-- STALL_SAMPLE (R433): for each context whose period has come. -/
def execStallSample (sched : Nat) (s : State) : Out :=
  .next ((s.hub.traceQ.filter fun t => t.2.stall && s.time (s.partOfQueue t.1) % 2 ^ t.2.slog2 == 0).foldl
    (fun s t => s.sampleCtx sched t.1) s)

/-! ### Single step (R434 to R436) -/

/-- DBGRES of a group (Table 5 of ch27). -/
def Group.dbgres (g : Group) : W64 :=
  match g.splits.find? fun p => p.2.held with
  | some (_, p) =>
    let (ord, off) := p.point ((lowestLane p.mask).getD 0)
    BitVec.ofNat 64 (2 ^ 63 + 2 ^ 62 * b01 g.stopped + 2 ^ 32 * off + ord)
  | none => BitVec.ofNat 64 (2 ^ 63 + 2 ^ 62 * b01 g.stopped)

/-- RESULT and DBGRES of a context's block. -/
def State.debugResult (s : State) (q result : Nat) (res : W64) : State :=
  s.putTraceQ q { s.traceQ q with result := result, dbgres := res }

/-- The result of a command that has found its group. -/
def State.debugDone (s : State) (gid : Nat) : State :=
  match s.group? gid with
  | some g => s.debugResult g.place.ctx 0 g.dbgres
  | none => s

/-- The refusals before the group is looked for (R434). -/
def State.debugRefused (s : State) (q : Nat) : Option Nat :=
  if !bitOf (s.policyOf (s.ctx q).eid) 0 then some 2
  else if (s.ctx q).state != 1 || (s.ctx q).frozen then some 3
  else none

/-- A step command on a group, unless it is refused. -/
def State.debugOp (s : State) (gid : Nat) (op : Group → State) : Out :=
  match s.group? gid with
  | none => .next s
  | some g =>
    match s.debugRefused g.place.ctx with
    | some r => .next (s.debugResult g.place.ctx r 0#64)
    | none => .next ((op g).debugDone gid)

/-- STEPON (R435). -/
def execStepon (gid : Nat) (s : State) : Out :=
  s.debugOp gid fun _ => s.modGroup gid fun g => { g with stepOn := true }

/-- STEPOFF (R435, R436): the flag is cleared, and the held splits are released. -/
def execStepoff (gid : Nat) (s : State) : Out :=
  s.debugOp gid fun g => (((s.modGroup gid fun g => { g with stepOn := false }).releaseHeld gid).releaseTeam g.place.team)

/-- GO (R435): every held split is released. -/
def execGoStep (gid : Nat) (s : State) : Out := s.debugOp gid fun _ => s.releaseHeld gid

/-- A write of DBGCMD (R434). -/
def State.dbgcmd (s : State) (q value : Nat) : Out :=
  match s.debugRefused q with
  | some r => .next (s.debugResult q r 0#64)
  | none =>
    let op := fieldOf value 20 2
    if op = 0 ∨ bitOf value 11 ∨ fieldOf value 14 2 ≠ 0 ∨ 2 ^ 22 ≤ value then .next (s.debugResult q 4 0#64)
    else
      match s.groupAt q value with
      | none => .next (s.debugResult q 5 0#64)
      | some (gid, _) => if op = 1 then execStepon gid s else if op = 2 then execStepoff gid s else execGoStep gid s

end Sys2Proof.Machine
end

