-- ==== Sys2Proof/Machine/Partition.lean ====
section
/-! DEFINITION. Partition.lean: PARTCTL (R289), windows and boundaries (R390 to R396), the partition configuration (R397), and
the lending of pseudo-channels (R399 to R401). -/

namespace Sys2Proof.Machine

/-! ### What PARTCTL shares (R289) -/

/-- The partitions of a mask. -/
def partsOf (mask : Nat) : List Nat := bitsOf 8 mask

/-- Whether a mask is refused: bits above 7, no bit, or a partition that does not exist (R289). -/
def State.partMaskBad (s : State) (mask : Nat) : Bool :=
  mask == 0 || decide (256 ≤ mask) || (partsOf mask).any fun p => (s.part p).dies == 0

/-- The dies of a set of partitions. -/
def State.diesOfParts (s : State) (ps : List Nat) : List Nat :=
  (List.range 8).filter fun d => (s.die d).bound && ps.contains (s.die d).part

/-- Whether a named partition holds a live enclave. -/
def State.holdsEnclave (s : State) (p : Nat) : Bool := s.hub.enclaves.any fun e => e.2.part == p

/-- Whether a partition has a running control thread. -/
def State.runsThread (s : State) (p : Nat) : Bool := s.hub.threads.any fun t => t.2.running && s.partOfThread t.1 == p

/-- A PARTCTL: its operand faults and its mask; `img` when the image address is read.
[DEDUCED, log entry 58] -/
def partctl (x : Rrr) (s : State) (img : Bool) (body : Nat → List Nat → Rd → Except (Nat × Nat) State) : Out :=
  threadOnly s 2
    (fun _ => Spec.of x.m 2 (!pairOk x.d) ([codeG x.a] ++ if img then [codeG x.c] else []) [codeG x.d, codeG (x.d + 1)])
    fun tid _ rd =>
      let mask := (rd.g x.a).toNat
      if s.partMaskBad mask then .ok (s.fail tid x.d stBadDesc, none)
      else
        match body tid (partsOf mask) rd with
        | .error e => .error e
        | .ok t => .ok (t, none)

/-- Whether every partition of a list is QUIESCED. -/
def State.quiesced (s : State) (ps : List Nat) : Bool := ps.all fun p => (s.part p).state == 2

/-- Whether a partition of a list is power-gated (R449). -/
def State.anyGated (s : State) (ps : List Nat) : Bool := ps.any fun p => (s.part p).gated

/-! ### QUIESCE, SHOOT and RESUME -/

/-- A queue has a command in flight (R398).
[DEDUCED, log entry 65] -/
def State.inFlight (s : State) (q : Nat) : Bool :=
  let c := s.ctx q
  (s.queue q).pkt.isSome || s.simt.trees.any (fun t => t.2.queue == q && t.2.counter != 0)
    || c.state == 2 || c.frozen

/-- The tuples of a partition's regions discarded (R119, R289). -/
def State.dropTuples (s : State) (p : Nat) : State :=
  s.modStore fun x => { x with tuples := x.tuples.filter fun r => !s.inPartMem p r.1 }

/-- PARTCTL QUIESCE (R289, R398): DRAINING; then BUSY with the lowest queue in flight, or QUIESCED. -/
def execPartctlQuiesce (x : Rrr) (s : State) : Out :=
  partctl x s false fun tid ps _ =>
    match (s.hub.queues.filter fun q => ps.contains (s.partOfQueue q.1) && s.inFlight q.1).map Prod.fst with
    | q :: r =>
      let s := ps.foldl (fun s p => s.modPart p fun y => { y with state := 1 }) s
      .ok ((s.setG tid (x.d + 1) (BitVec.ofNat 64 ((minOf (q :: r)).getD q))).fail tid x.d stBusy)
    | [] => .ok ((ps.foldl (fun s p => (s.dropTuples p).modPart p fun y => { y with state := 2 }) s).setG tid x.d 0#64)

/-- PARTCTL SHOOT (R289): every translation cached for the named partitions is invalidated. -/
def execPartctlShoot (x : Rrr) (s : State) : Out :=
  partctl x s false fun tid ps _ =>
    if !s.quiesced ps then .ok (s.fail tid x.d stState)
    else
      let s := s.tlbDrop fun e => ps.contains e.part
      .ok ((ps.foldl (fun s p => s.modPart p fun y => { y with shootDue := false }) s).setG tid x.d 0#64)

/-- PRCFG's fields as software reads them (R397). -/
def Part.prcfg (p : Part) : Nat := 2 ^ 24 * p.tupdies + 65536 * p.tupsz + 256 * p.ptpool + b01 p.tolen

/-- The layout in force, as flash keeps it at a RESUME (R445). -/
def State.storeLayout (s : State) : State :=
  let dies := (List.range 8).map fun d => ((s.die d).ilvbase, (s.die d).wdies, (s.die d).gran, (s.die d).part)
  let parts := (List.range 8).map fun p => ((s.part p).ccg, (s.part p).prcfg)
  { s with module := { s.module with layout := some (dies, parts) } }

/-- PARTCTL RESUME (R289, R398): from DRAINING or QUIESCED to RUNNING; STATE while a partition is gated (R449). -/
def execPartctlResume (x : Rrr) (s : State) : Out :=
  partctl x s false fun tid ps _ =>
    if ps.any (fun p => (s.part p).state == 0) || s.anyGated ps then .ok (s.fail tid x.d stState)
    else .ok (((ps.foldl (fun s p => s.modPart p fun y => { y with state := 0 }) s).storeLayout).setG tid x.d 0#64)

/-! ### WRITEILV (R392, R394) -/

/-- The entry of a die in a WRITEILV image: base, dies, granule, V, and whether a reserved bit is set. -/
structure IlvEntry where
  base : Nat
  wdies : Nat
  gran : Nat
  valid : Bool
  reserved : Bool
  deriving DecidableEq, Repr

/-- An entry from its two words (Table 1 of ch24). -/
def ilvOf (base cfg : Nat) : IlvEntry :=
  ⟨base, fieldOf cfg 32 8, fieldOf cfg 24 5, bitOf cfg 0,
    base % 2 ^ 30 != 0 || decide (2 ^ 52 ≤ base) || fieldOf cfg 40 24 != 0 || fieldOf cfg 29 3 != 0 || fieldOf cfg 1 23 != 0⟩

/-- The last byte but one of a window: its end (R392). -/
def IlvEntry.stop (e : IlvEntry) : Nat := e.base + dieCount e.wdies * dieBytes

/-- The windows after a WRITEILV by die: the image's for the named dies, the present ones for the others. -/
def State.ilvAfter (s : State) (dies : List Nat) (img : List Byte) (d : Nat) : IlvEntry :=
  if dies.contains d then ilvOf (fieldAt img (16 * d) 8) (fieldAt img (16 * d + 8) 8)
  else ⟨(s.die d).ilvbase, (s.die d).wdies, (s.die d).gran, (s.die d).valid, false⟩

/-- Whether the windows of a set of dies break R394; `e` gives the windows and `part` the partitions of all dies. -/
def windowsBad (e : Nat → IlvEntry) (part : Nat → Option Nat) (dies : List Nat) : Bool :=
  dies.any fun d =>
    (e d).reserved || decide (18 < (e d).gran) || !(e d).valid || !bitOf (e d).wdies d
      || (bitsOf 8 (e d).wdies).any (fun k => part k == none || part k != part d || e k != e d)
      || !([1, 2, 4, 8].contains (dieCount (e d).wdies)) || decide (0x20000000000 < (e d).stop)
      || (List.range 8).any fun k =>
        (e k).valid && (e k).wdies != (e d).wdies && decide ((e k).base < (e d).stop) && decide ((e d).base < (e k).stop)

/-- The partition of a die that has one. -/
def State.diePart (s : State) (d : Nat) : Option Nat := if (s.die d).bound then some (s.die d).part else none

/-- Whether a WRITEILV image is refused (R394).
[DEDUCED, log entry 61] -/
def State.ilvBad (s : State) (dies : List Nat) (img : List Byte) : Bool :=
  ((List.range 8).any fun d => !dies.contains d && (fieldAt img (16 * d) 8 != 0 || fieldAt img (16 * d + 8) 8 != 0))
    || windowsBad (s.ilvAfter dies img) s.diePart dies

/-- Every line of the memory of a set of partitions zero, and every page HOST or META (R394). -/
def State.wipeMemory (s : State) (ps : List Nat) : State :=
  let own (a : Nat) : Bool := ps.any fun p => s.inPartMem p a
  s.modStore fun x => { x with
    mem := x.mem.filter fun c => !own c.1
    poison := x.poison.filter fun c => !own (64 * c.1)
    latent := x.latent.filter fun c => !own (64 * c.1)
    pot := x.pot.filter fun c => !own (4096 * c.1) }

/-- Every page of a partition but META through SCRUB to HOST, with the version last recorded, its kick pages too (R378, R315). -/
def State.resetPages (s : State) (part : Nat) : State :=
  let mine (page : Nat) : Bool := (s.inPartMem part (4096 * page) && (s.potOf page).state != potMeta)
    || (inKick (4096 * page) && s.partOfQueue (page - kickBase / 4096) == part)
  s.modStore fun x => { x with
    mem := x.mem.filter fun c => !mine (c.1 / 4096)
    poison := x.poison.filter fun c => !mine (c.1 / 64)
    latent := x.latent.filter fun c => !mine (c.1 / 64)
    pot := x.pot.map fun c => if mine c.1 then (c.1, { Pot.plain potHost with version := c.2.version }) else c }

/-- PARTCTL WRITEILV (R289, R394). -/
def execPartctlWriteilv (x : Rrr) (s : State) : Out :=
  partctl x s true fun tid ps rd =>
    if !s.quiesced ps || s.anyGated ps then .ok (s.fail tid x.d stState)
    else
      match s.record tid (rd.g x.c).toNat 128 with
      | .error e => .error e
      | .ok img =>
        let dies := s.diesOfParts ps
        if s.ilvBad dies img then .ok (s.fail tid x.d stBadDesc)
        else if ps.any s.holdsEnclave then .ok (s.fail tid x.d stState)
        else
          let e := s.ilvAfter dies img
          let s := s.wipeMemory ps
          let s := { s with dies := s.dies.map fun (y : Nat × Die) =>
            if dies.contains y.1 then
              (y.1, { y.2 with ilvbase := (e y.1).base, wdies := (e y.1).wdies, gran := (e y.1).gran, valid := true })
            else y }
          .ok ((ps.foldl (fun s p => s.modPart p fun y => { y with shootDue := true }) s).setG tid x.d 0#64)

/-! ### WRITEBND (R395, R396) -/

/-- The fields of a BND word: partition, dies, groups (Table 1 of ch24). -/
def bndPart (w : Nat) : Nat := fieldOf w 0 3
def bndDies (w : Nat) : Nat := fieldOf w 8 8
def bndCcg (w : Nat) : Nat := fieldOf w 16 8

/-- The BND word of a die. -/
def State.bndWord (s : State) (d : Nat) : Nat :=
  let x := s.die d
  let p := s.part x.part
  if x.bound then 2 ^ 24 + 65536 * p.ccg + 256 * p.dies + x.part else 0

/-- The dies that a WRITEBND image gives to a partition. -/
def diesGiven (dies : List Nat) (w : Nat → Nat) (p : Nat) : Nat :=
  (dies.filter fun d => bndPart (w d) == p).foldl (fun m d => m + 2 ^ d) 0

/-- The groups of a partition after a WRITEBND: of a named one, those of its first die's word. -/
def State.ccgAfter (s : State) (ps dies : List Nat) (w : Nat → Nat) (p : Nat) : Nat :=
  if ps.contains p then ((dies.find? fun d => bndPart (w d) == p).map fun d => bndCcg (w d)).getD 0 else (s.part p).ccg

/-- Whether a WRITEBND image is refused (R395). -/
def State.bndBad (s : State) (ps dies : List Nat) (w : Nat → Nat) : Bool :=
  let groups := (ps.map fun p => (s.part p).ccg).foldl (· ||| ·) 0
  let after := (List.range 8).map fun p => s.ccgAfter ps dies w p
  ((List.range 8).any fun d => !dies.contains d && w d != 0)
  || (dies.any fun d =>
    !bitOf (w d) 24 || fieldOf (w d) 25 39 != 0 || fieldOf (w d) 3 5 != 0 || !ps.contains (bndPart (w d))
      || bndDies (w d) != diesGiven dies w (bndPart (w d)) || bndCcg (w d) == 0
      || dies.any fun k => bndPart (w k) == bndPart (w d) && bndCcg (w k) != bndCcg (w d))
  || (List.range 8).any fun g =>
    let n := (after.filter fun c => bitOf c g).length
    decide (1 < n) || (bitOf groups g && n == 0)

/-- Whether a former partition goes as a whole into one new partition.
[DEDUCED, log entry 60] -/
def State.movesWhole (s : State) (ps dies : List Nat) (w : Nat → Nat) (p : Nat) : Bool :=
  match (s.diesOfParts [p]).map fun d => bndPart (w d) with
  | [] => true
  | q :: r => r.all (· == q) && (bitsOf 8 (s.part p).ccg).all fun g => bitOf (s.ccgAfter ps dies w q) g

/-- Whether a WRITEBND would part live work (R395): a die or group leaves a partition with a live enclave or a running
thread, which does not move as a whole. -/
def State.bndLive (s : State) (ps dies : List Nat) (w : Nat → Nat) : Bool :=
  ps.any fun p => (s.holdsEnclave p || s.runsThread p) && !s.movesWhole ps dies w p

/-- The partition that a former one's live work goes to.
[DEDUCED, log entry 60] -/
def State.partAfter (s : State) (w : Nat → Nat) (p : Nat) : Nat := ((s.diesOfParts [p]).head?.map fun d => bndPart (w d)).getD p

/-- The boundaries rewritten (R395, R396): dies, groups, and the live enclaves and loaded sketches of a merged part. The slices that
hold tuples change with the dies, and the tuples are discarded (R119); the joined partitions' keys go into every die (R320).
[DEDUCED, log entry 59] -/
def State.writeBnd (s : State) (ps dies : List Nat) (w : Nat → Nat) : State :=
  let s := ps.foldl State.dropTuples s
  let to' := fun p => if ps.contains p then s.partAfter w p else p
  let ccg := s.ccgAfter ps dies w
  State.installKeys { s with
    dies := s.dies.map fun (y : Nat × Die) => if dies.contains y.1 then (y.1, { y.2 with part := bndPart (w y.1) }) else y
    parts := s.parts.map fun (y : Nat × Part) =>
      if ps.contains y.1 then
        (y.1, { y.2 with dies := diesGiven dies w y.1, tupdies := y.2.tupdies &&& diesGiven dies w y.1, ccg := ccg y.1, shootDue := true })
      else y
    hub := { s.hub with
      enclaves := s.hub.enclaves.map fun (y : Nat × Enclave) => (y.1, { y.2 with part := to' y.2.part })
      sketches := s.hub.sketches.foldl (fun t (y : Nat × Sketch) =>
        let k := 65536 * to' (y.1 / 65536) + y.1 % 65536
        if (Tbl.get? t k).isSome then t else Tbl.put t k y.2) [] } }

/-- PARTCTL WRITEBND (R289, R395). -/
def execPartctlWritebnd (x : Rrr) (s : State) : Out :=
  partctl x s true fun tid ps rd =>
    if !s.quiesced ps || s.anyGated ps then .ok (s.fail tid x.d stState)
    else
      match s.record tid (rd.g x.c).toNat 64 with
      | .error e => .error e
      | .ok img =>
        let dies := s.diesOfParts ps
        let w := fun d => fieldAt img (8 * d) 8
        if s.bndBad ps dies w then .ok (s.fail tid x.d stBadDesc)
        else if s.bndLive ps dies w then .ok (s.fail tid x.d stState)
        else .ok ((s.writeBnd ps dies w).setG tid x.d 0#64)

/-! ### The partition configuration (R397) -/

/-- The entries of a partition's pages after its META regions have changed: each is META or HOST, with the version last recorded, where
it was META or is now (R393). -/
def State.remeta (s : State) (part : Nat) : State :=
  s.modStore fun x => { x with
    pot := x.pot.map fun e => if s.inPartMem part (4096 * e.1) && (s.inMeta (4096 * e.1) || e.2.state == potMeta) then
        (e.1, { Pot.plain (if s.inMeta (4096 * e.1) then potMeta else potHost) with version := e.2.version })
      else e }

/-- PRCFG_WRITE (R397): it takes effect while the partition is QUIESCED; otherwise, for a die outside the partition, or for a
new PTPOOL beside a live enclave, it is ignored and CFGERR is set.
[DESIGN CHOICE, log entry 127] -/
def execPrcfgWrite (part value : Nat) (s : State) : Out :=
  let p := s.part part
  let tup := fieldOf value 24 8
  let pool := fieldOf value 8 5
  if p.dies = 0 then .next s
  else if p.state ≠ 2 ∨ tup &&& p.dies ≠ tup ∨ (pool ≠ p.ptpool ∧ s.holdsEnclave part) then
    .next (s.putPart part { p with cfgerr := true })
  else
    .next (((s.dropTuples part).putPart part
      { p with tupdies := tup, tupsz := fieldOf value 16 2, ptpool := pool, tolen := bitOf value 0 }).remeta part)

/-! ### Lending (R399 to R401) -/

/-- Whether a channel has requests outstanding or held (R401).
[DESIGN CHOICE, log entry 62] -/
def State.channelBusy (s : State) (stack chan : Nat) : Bool :=
  (s.hbm stack).held.any (fun e => e.chan == chan && !e.waiting.isEmpty) || (s.hbm stack).lendHeld.any (fun e => e.1 == chan / 2)
    || s.simt.groups.any fun g => g.2.flights.any fun f => f.reaches fun a => s.stackOf a == some (stack, chan)

/-- Why a lending request is refused (Table 4 of ch24): 0 where it is not. Whether more than four refreshes are postponed is
a free choice.
[DESIGN CHOICE, log entry 62] -/
def State.lendRefusal (s : State) (stack pair code : Nat) : Nat :=
  if s.channelBusy stack (lenderOf pair code) then 1
  else if s.freshBool then 2
  else if 380 ≤ s.stackTemp stack then 3
  else 0

/-- A handshake's end; or, where none is under way, a pair whose LENDREQ still differs from LENDSTAT tries again (R400).
[DESIGN CHOICE, log entry 62] -/
def State.lendNext (s : State) (stack pair : Nat) : State :=
  let h := s.hbm stack
  let v := pairBits h.lendreq pair
  let code := if v = 3 then 0 else v
  if (Tbl.get? h.shaking pair).isSome then (s.lendEnd stack pair).lendAgain stack pair
  else if pairBits h.lendstat pair = code then s
  else if code = 0 then s.lendShake stack pair 0
  else
    let r := s.lendRefusal stack pair code
    if r = 0 then s.drawn.lendShake stack pair code
    else (s.drawn.putHbm stack { h with lenderr := 256 * pair + r }).lendAgain stack pair

/-- LENDREQ_WRITE (R400, R401): a pair's bits in LENDREQ written; where they differ from LENDSTAT the pair starts or ends its
lending by the handshake, unless the request is refused.
[DESIGN CHOICE, log entry 62] -/
def execLendreqWrite (stack pair value : Nat) (s : State) : Out :=
  let v := value % 4
  let code := if v = 3 then 0 else v
  let h := s.hbm stack
  let s1 := s.putHbm stack { h with lendreq := pairPut h.lendreq pair v }
  if (Tbl.get? h.shaking pair).getD (pairBits h.lendstat pair) = code then .next s1
  else if code = 0 then .next (s1.lendShake stack pair 0)
  else
    let r := s.lendRefusal stack pair code
    .next (if r = 0 then s1.drawn.lendShake stack pair code
      else (s1.drawn.putHbm stack { h with lendreq := pairPut h.lendreq pair v, lenderr := 256 * pair + r }).lendAgain stack pair)

/-- LEND_RECLAIM (R400): a request to the lender takes its lanes back, by the handshake. -/
def execLendReclaim (stack pair : Nat) (s : State) : Out :=
  .next (if pairBits (s.hbm stack).lendstat pair = 0 then s else s.lendShake stack pair 0)

/-- LEND_THERMAL_RECLAIM (R401): at 100 °C a lent pair is reclaimed, with reason THERMAL. -/
def execLendThermalReclaim (stack pair : Nat) (s : State) : Out :=
  let h := s.hbm stack
  if 400 ≤ s.stackTemp stack ∧ pairBits h.lendstat pair ≠ 0 then
    .next ((s.putHbm stack { h with lendstat := pairPut h.lendstat pair 0, lenderr := 256 * pair + 3 }).lendAgain stack pair)
  else .next s

end Sys2Proof.Machine
end

