-- ==== Sys2Proof/Machine/Sketch.lean ====
section
/-! DEFINITION. Sketch.lean: the operations of a sketch (R335 to R342), and the sketch store with its verifier (R346, R347). -/

namespace Sys2Proof.Machine

/-- What an operation does to its packet: it goes on, ends with a fault code, ends consuming indices, or waits. -/
inductive SkEnd where
  | go (k : Packet)
  | fault (code : Nat)
  | done (n : Nat) (drop : Bool)
  | wait (pa target : Nat)
  deriving DecidableEq, Repr

/-- A register: x0 reads 0 (R335). -/
def Packet.reg (k : Packet) (r : Nat) : W64 := if r = 0 then 0#64 else Tbl.fget 0#64 k.x r

/-- A register written: a write to x0 is discarded. -/
def Packet.setReg (k : Packet) (r : Nat) (v : W64) : Packet := if r = 0 then k else { k with x := Tbl.fset 0#64 k.x r v }

/-- An effect staged: the ninth is STAGE (R336). -/
def Packet.stage (k : Packet) (e : Staged) : SkEnd :=
  if 8 ≤ k.staged.length then .fault 7 else .go { k with staged := k.staged ++ [e] }

/-- The budget of a queue's sketch (R346). -/
def State.budgetOf (s : State) (q : Nat) : Nat :=
  match s.sketch? (s.partOfQueue q) (s.queue q).sketch with
  | some k => ((k.words[3]?).getD 0#32).toNat % 65536
  | none => 0

/-- Run one operation of the packet whose turn it is: it counts against the budget (R335), then acts. -/
def sketchRun (s : State) (body : Nat → Queue → Packet → SkEnd) : Out :=
  match s.turns with
  | .easel q :: _ =>
    let s := s.pop
    let x := s.queue q
    match x.pkt with
    | none => .next s
    | some k =>
      if s.budgetOf q ≤ k.used then .next (s.queueFault q 1)
      else
        let k := { k with used := k.used + 1, pc := k.pc + 1 }
        match body q x k with
        | .go k' => .next (s.putQueue q { x with pkt := some k' })
        | .fault c => .next (s.queueFault q c)
        | .done n drop =>
          if x.kicked < n then .next (s.queueFault q 6)
          else .next ((s.putQueue q { x with pkt := some { k with commit := some (n, drop) } }).commitOn q n drop k.staged)
        | .wait pa t => .next ((s.putQueue q { x with state := 4, pkt := some { k with wait := some (pa, t) } }).toEngine pa)
  | _ => .fault .noIssuer

/-- An operation that only changes registers or flags. -/
def sketchAlu (s : State) (f : Packet → Packet) : Out := sketchRun s fun _ _ k => .go (f k)

/-! ### Arithmetic, flags and branches (Table 4 of ch19) -/

/-- The signed immediate. -/
def skSimm (x : SkWord) : W64 := sext64 16 x.imm

/-- Bits of a word replaced by a lane of 16. -/
def putLane (old : W64) (lane imm : Nat) : W64 :=
  BitVec.ofNat 64 (old.toNat - fieldOf old.toNat (16 * lane) 16 * 2 ^ (16 * lane) + imm * 2 ^ (16 * lane))

def execSketchNop (_x : SkWord) (s : State) : Out := sketchAlu s id

def execSketchMovi (x : SkWord) (s : State) : Out :=
  sketchAlu s fun k => k.setReg x.a (if x.b = 0 then BitVec.ofNat 64 x.imm else putLane (k.reg x.a) x.b x.imm)

def execSketchAdd (x : SkWord) (s : State) : Out := sketchAlu s fun k => k.setReg x.a (k.reg x.a + k.reg x.b + skSimm x)

def execSketchSub (x : SkWord) (s : State) : Out := sketchAlu s fun k => k.setReg x.a (k.reg x.a - k.reg x.b)

def execSketchAnd (x : SkWord) (s : State) : Out := sketchAlu s fun k => k.setReg x.a (k.reg x.a &&& k.reg x.b)

def execSketchOr (x : SkWord) (s : State) : Out := sketchAlu s fun k => k.setReg x.a (k.reg x.a ||| k.reg x.b)

def execSketchShl (x : SkWord) (s : State) : Out := sketchAlu s fun k => k.setReg x.a (k.reg x.a <<< x.imm)

def execSketchShr (x : SkWord) (s : State) : Out := sketchAlu s fun k => k.setReg x.a (k.reg x.a >>> x.imm)

def execSketchMask (x : SkWord) (s : State) : Out :=
  sketchAlu s fun k => k.setReg x.a (BitVec.ofNat 64 (fieldOf (k.reg x.b).toNat (x.imm % 64) (x.imm / 64)))

def execSketchCmp (x : SkWord) (s : State) : Out :=
  sketchAlu s fun k => { k with eq := k.reg x.a == k.reg x.b, lt := decide ((k.reg x.a).toNat < (k.reg x.b).toNat) }

def execSketchSel (x : SkWord) (s : State) : Out :=
  sketchAlu s fun k => if (if x.imm = 0 then k.eq else k.lt) then k.setReg x.a (k.reg x.b) else k

def execSketchBeq (x : SkWord) (s : State) : Out := sketchAlu s fun k => if k.eq then { k with pc := k.pc + x.imm } else k

def execSketchBne (x : SkWord) (s : State) : Out := sketchAlu s fun k => if k.eq then k else { k with pc := k.pc + x.imm }

/-- LOOP: the body begins at the next word, with n iterations to run (R339). -/
def execSketchLoop (x : SkWord) (s : State) : Out := sketchAlu s fun k => { k with loops := (k.pc, x.imm) :: k.loops }

/-- ENDL: back to the first word of the body while iterations remain (R339). -/
def execSketchEndl (_x : SkWord) (s : State) : Out :=
  sketchAlu s fun k =>
    match k.loops with
    | [] => k
    | (first, n) :: r => if 1 < n then { k with loops := (first, n - 1) :: r, pc := first } else { k with loops := r }

/-! ### The ring, the window and staged effects -/

/-- Eight bytes of a ring index (R332, R333): none where the read fails translation, ownership or the RING attribute. -/
def State.ringWord (s : State) (q : Nat) (x : Queue) (idx off : Nat) : Option W64 :=
  let va := (x.ring + 64 * ((x.head + idx) % 2 ^ x.log2) + off) % 2 ^ 64
  match s.xlateCtx q va 8 .read false false with
  | .error _ => none
  | .ok t =>
    let e := s.potOf (t.pa / 4096)
    if e.judged = potOwned ∧ e.owner = x.eid ∧ bitOf e.attr 4 then some (BitVec.ofNat 64 (s.readAt t 8)) else none

/-- LDQ: RING beyond the kicked indices, RINGMAP where the read fails (R338, R333). -/
def execSketchLdq (x : SkWord) (s : State) : Out :=
  sketchRun s fun q y k =>
    let i := (k.reg x.b).toNat
    if y.kicked ≤ i then .fault 2
    else
      match s.ringWord q y i x.imm with
      | none => .fault 3
      | some v => .go (k.setReg x.a v)

/-- A word of a queue's register window (R337). -/
def State.windowWord (s : State) (q : Nat) (x : Queue) (w : Nat) : W64 :=
  match w with
  | 0 => BitVec.ofNat 64 x.head
  | 1 => BitVec.ofNat 64 x.tail
  | 2 => BitVec.ofNat 64 (2 ^ x.log2)
  | 3 => BitVec.ofNat 64 (65536 * q + x.eid)
  | 4 => BitVec.ofNat 64 (s.time (s.partOfQueue q))
  | 5 => BitVec.ofNat 64 x.pkts
  | 6 => BitVec.ofNat 64 x.drops
  | 7 => 0#64
  | _ => Tbl.fget 0#64 x.scratch w

def execSketchLdreg (x : SkWord) (s : State) : Out := sketchRun s fun q y k => .go (k.setReg x.a (s.windowWord q y x.imm))

def execSketchStreg (x : SkWord) (s : State) : Out := sketchRun s fun _ _ k => k.stage (.streg x.imm (k.reg x.a))

/-- LAUNCH (R340): RECORD, then COUNTER, then the acceptance is staged with the records as read.
[DEDUCED, log entry 66] -/
def execSketchLaunch (x : SkWord) (s : State) : Out :=
  sketchRun s fun q _ k =>
    let done := (k.reg x.b).toNat
    match s.readTask q (k.reg x.a).toNat with
    | .ok (some (t, l, spt)) =>
      if done ≠ 0 ∧ s.frontCounter q done = none then .fault 5 else k.stage (.launch t l spt done)
    | _ => .fault 4

/-- SIGNAL (R340): COUNTER, then the add is staged. -/
def execSketchSignal (x : SkWord) (s : State) : Out :=
  sketchRun s fun q _ k =>
    match s.frontCounter q (k.reg x.a).toNat with
    | none => .fault 5
    | some pa => k.stage (.signal (k.reg x.a).toNat pa (k.reg x.b).toNat)

/-- WAIT (R341). -/
def execSketchWait (x : SkWord) (s : State) : Out :=
  sketchRun s fun q _ k =>
    match s.frontCounter q (k.reg x.a).toNat with
    | none => .fault 5
    | some pa => if (k.reg x.b).toNat ≤ s.peek pa 8 then .go k else .wait pa (k.reg x.b).toNat

def execSketchIrq (x : SkWord) (s : State) : Out := sketchRun s fun _ _ k => k.stage (.irq x.imm)

/-- DONE (R336, R338): SLOTS where more indices are consumed than were kicked. -/
def execSketchDone (x : SkWord) (s : State) : Out := sketchRun s fun _ _ _ => .done x.imm false

/-- DROP (R336). -/
def execSketchDrop (x : SkWord) (s : State) : Out := sketchRun s fun _ _ _ => .done x.imm true

def execSketchFault (x : SkWord) (s : State) : Out := sketchRun s fun _ _ _ => .fault x.imm

/-! ### The verifier (R347) -/

/-- A word's opcode and immediate (R338). -/
def skOp (w : W32) : Nat := fieldOf w.toNat 24 8
def skImm (w : W32) : Nat := fieldOf w.toNat 0 16

/-- The word at an index. -/
def skAt (ws : List W32) (i : Nat) : W32 := (ws[i]?).getD 0#32

/-- The LOOP that encloses each word, as 1 + its index and 0 at the top level, with the matching LOOP of each ENDL: one pass
with a stack. An ENDL belongs to its body. -/
def skRegions : List W32 → Nat → List Nat → List Nat
  | [], _, _ => []
  | w :: r, i, st =>
    let here := st.headD 0
    if skOp w = 0x0D then here :: skRegions r (i + 1) ((i + 1) :: st)
    else if skOp w = 0x0E then here :: skRegions r (i + 1) st.tail
    else here :: skRegions r (i + 1) st

/-- Whether a word is a branch that breaks R339 or leaves the sketch.
[DEDUCED, log entry 67] -/
def branchBad (ws : List W32) (regions : List Nat) (i : Nat) : Bool :=
  let w := skAt ws i
  let t := i + 1 + skImm w
  (skOp w == 0x0B || skOp w == 0x0C) && (decide (ws.length ≤ t) || regions[t]? != regions[i]?)

/-- The first LOOP or ENDL that breaks R339: an ENDL with no LOOP, a third level, or a LOOP with no ENDL. -/
def loopFail : List W32 → Nat → List Nat → Option Nat
  | [], _, st => st.getLast?
  | w :: r, i, st =>
    if skOp w = 0x0D then if 2 ≤ st.length then some i else loopFail r (i + 1) (i :: st)
    else if skOp w = 0x0E then if st = [] then some i else loopFail r (i + 1) st.tail
    else loopFail r (i + 1) st

/-- The ENDL that matches each open LOOP, found from word `i` on: depth 0 at the start of the body. -/
def endlFrom : List W32 → Nat → Nat → Option Nat
  | [], _, _ => none
  | w :: r, i, depth =>
    if skOp w = 0x0D then endlFrom r (i + 1) (depth + 1)
    else if skOp w = 0x0E then if depth = 0 then some i else endlFrom r (i + 1) (depth - 1)
    else endlFrom r (i + 1) depth

/-- The longer of two paths. -/
def maxOpt : Option Nat → Option Nat → Option Nat
  | none, y => y
  | x, none => x
  | some x, some y => some (max x y)

/-- A path made longer. -/
def addOpt (n : Nat) (x : Option Nat) : Option Nat := x.map (· + n)

/-- The longest paths from a word: to the end of its body or past the last word, and to an ending. -/
structure SkPath where
  thru : Option Nat
  exit : Option Nat
  deriving DecidableEq, Repr

/-- The paths from word `i`, given those of later words. -/
def skPath (ws : List W32) (t : Table SkPath) (i : Nat) : SkPath :=
  let w := skAt ws i
  let op := skOp w
  let from' (j : Nat) : SkPath := if ws.length ≤ j then ⟨some 0, none⟩ else Tbl.getD t j ⟨none, none⟩
  if op = 0x16 ∨ op = 0x17 ∨ op = 0x18 then ⟨none, some 1⟩
  else if op = 0x0E then ⟨some 1, none⟩
  else if op = 0x0B ∨ op = 0x0C then
    let a := from' (i + 1)
    let b := from' (i + 1 + skImm w)
    ⟨addOpt 1 (maxOpt a.thru b.thru), addOpt 1 (maxOpt a.exit b.exit)⟩
  else if op = 0x0D then
    let n := skImm w
    let body := from' (i + 1)
    let after := from' (((endlFrom (ws.drop (i + 1)) (i + 1) 0).getD ws.length) + 1)
    match body.thru with
    | none => ⟨none, addOpt 1 body.exit⟩
    | some b => ⟨addOpt (1 + n * b) after.thru, maxOpt (addOpt (1 + (n - 1) * b) body.exit) (addOpt (1 + n * b) after.exit)⟩
  else
    let a := from' (i + 1)
    ⟨addOpt 1 a.thru, addOpt 1 a.exit⟩

/-- The paths of every word, the last first. -/
def skPaths (ws : List W32) : Nat → Table SkPath → Table SkPath
  | 0, t => t
  | n + 1, t => skPaths ws n (Tbl.put t n (skPath ws t n))

/-- Whether a header is refused (R346): as bytes. -/
def skHeaderBad (h : List Byte) : Bool :=
  let words := fieldAt h 6 2
  let id := fieldAt h 8 4
  let b := fieldAt h 0x0C 2
  fieldAt h 0 4 != 0x4B534B45 || fieldAt h 4 2 != 1 || words == 0 || decide (1024 < words) || id == 0 || decide (65535 < id)
    || decide (b < 16) || decide (1024 < b) || (h.drop 0x0E).any fun x => x != 0#8

/-- The first word that a test names. -/
def firstWord (n : Nat) (p : Nat → Bool) : Option Nat := (List.range n).find? p

/-- The checks of a sketch's words (R347, OPCODE to BOUND): the code and the first failing word. -/
def skWordsFail (ws : List W32) : Option (Nat × Nat) :=
  let n := ws.length
  let regions := skRegions ws 0 []
  match firstWord n fun i => decide (0x19 ≤ skOp (skAt ws i)) with
  | some i => some (2, i)
  | none =>
    match firstWord n fun i => (decodeSketch (skAt ws i)).isNone with
    | some i => some (3, i)
    | none =>
      match firstWord n (branchBad ws regions) with
      | some i => some (4, i)
      | none =>
        match loopFail ws 0 [] with
        | some i => some (5, i)
        | none =>
          let p := skPath ws (skPaths ws n []) 0
          if p.thru.isSome then some (6, n - 1)
          else if p.exit.any fun k => decide (65536 < k) then some (7, 0)
          else none

/-! ### The sketch store (R346) -/

/-- The loaded sketches of a partition, the stock sketch apart. -/
def State.sketchesOf (s : State) (part : Nat) : List (Nat × Sketch) := s.hub.sketches.filter fun y => y.1 / 65536 == part

/-- Whether the store has no room for a sketch of `n` words: 64 sketches and 32,768 words, the stock sketch among them.
[DEDUCED, log entry 69] -/
def State.storeFull (s : State) (part n : Nat) : Bool :=
  let ks := s.sketchesOf part
  decide (63 ≤ ks.length) || decide (32768 < 25 + (ks.map fun y => y.2.words.length - 8).sum + n)

/-- Whether an image lies in HOST pages. -/
def State.inHostPages (s : State) (part a n : Nat) : Bool :=
  a % 64 == 0 && (List.range (ceilDiv (a % 4096 + n) 4096)).all fun i =>
    s.inPartMem part (a + 4096 * i) && (s.potOf (a / 4096 + i)).judged == potHost

/-- The words of an image. -/
def bytesWords : Nat → List Byte → List W32
  | 0, _ => []
  | n + 1, bs => BitVec.ofNat 32 (leNat (bs.take 4)) :: bytesWords n (bs.drop 4)

/-- SKSTAT and SKHASH after a command: on success the hash. -/
def State.skResult (s : State) (part code word : Nat) (hash : Option (List Byte)) : State :=
  s.modPart part fun p => { p with skstat := code + 65536 * word, skhash := hash.getD p.skhash }

/-- SKCMD_LOAD (R346, R347): the image at SKIMG is verified and loaded. An image that cannot be read fails as its header.
[DEDUCED, log entry 68; DEDUCED, log entry 69] -/
def execSkcmdLoad (part value : Nat) (s : State) : Out :=
  let a := (s.part part).skbuf
  if value % 4 ≠ 1 then .next s
  else if !s.inHostPages part a 32 then .next (s.skResult part 1 0 none)
  else
    let h := s.bytes a 32
    let n := fieldAt h 6 2
    let id := fieldAt h 8 4
    if skHeaderBad h || !s.inHostPages part a (32 + 4 * n) then .next (s.skResult part 1 0 none)
    else
      let bs := s.bytes (a + 32) (4 * n)
      let ws := bytesWords n bs
      match skWordsFail ws with
      | some (c, i) => .next (s.skResult part c i none)
      | none =>
        if id = 1 ∨ (s.sketch? part id).isSome then .next (s.skResult part 8 0 none)
        else if s.storeFull part n then .next (s.skResult part 9 0 none)
        else
          let hash := sha3 (h ++ bs)
          .next ((s.modHub fun y => { y with
            sketches := Tbl.put y.sketches (65536 * part + id) ⟨hash, bytesWords 8 h ++ ws⟩ }).skResult part 0 0 (some hash))

/-- SKCMD_UNLOAD (R346, R347): INUSE while a bound queue names the id, and for the stock sketch; UNKNOWN where it is not
loaded. -/
def execSkcmdUnload (part value : Nat) (s : State) : Out :=
  let id := fieldOf value 16 32
  if value % 4 ≠ 2 then .next s
  else if id = 1 ∨ s.hub.queues.any (fun q => q.2.eid != 0 && q.2.sketch == id && s.partOfQueue q.1 == part) then
    .next (s.skResult part 10 0 none)
  else
    match (if id < 65536 then s.sketch? part id else none) with
    | none => .next (s.skResult part 11 0 none)
    | some k =>
      .next ((s.modHub fun y => { y with sketches := Tbl.del y.sketches (65536 * part + id) }).skResult part 0 0 (some k.hash))

end Sys2Proof.Machine
end

