-- ==== Sys2Proof/Machine/Virtual.lean ====
section
/-! DEFINITION. Virtual.lean: delivery of vectors (R375, R376), virtual functions: enable, reset, dirty-log harvest, queue export
and import (R373, R377 to R380), and the reset of a partition (R378). -/

namespace Sys2Proof.Machine

/-! ### Vectors -/

/-- VECTOR_DELIVERY (R375): a pending vector that is not masked is delivered, and PEND is cleared. -/
def execVectorDelivery (vector : Nat) (s : State) : Out :=
  let v := s.vec vector
  if !v.pend || v.mask then .next s
  else
    let s := s.putVec vector { v with pend := false }
    match v.mode with
    | 1 =>
      match s.vfOfVector vector with
      | none => .next s
      | some (i, f) =>
        let e := vector - f.vbase
        if f.fmask || f.masks.contains e then .next (s.putVf i { f with pba := if f.pba.contains e then f.pba else e :: f.pba })
        else .next (s.modHub fun h => { h with msix := h.msix ++ [(i, e)] })
    | 2 =>
      let k := 256 * v.dest + v.gvec
      .next (s.modHub fun h => { h with vpend := if h.vpend.contains (k, vector) then h.vpend else (k, vector) :: h.vpend })
    | 3 =>
      let k := 4096 * v.dest + vector
      .next (s.modHub fun h => { h with ppend := if h.ppend.contains k then h.ppend else k :: h.ppend })
    | _ => .next s

/-- A mask of a function's MSI-X table set or cleared (R375): the function's own (`none`) or that of an entry. What is pending and
no longer masked is sent. -/
def State.msixMask (s : State) (vf : Nat) (e : Option Nat) (on : Bool) : State :=
  let f := s.vf vf
  let f := match e with
    | none => { f with fmask := on }
    | some e =>
      if f.vcount ≤ e then f
      else { f with masks := if !on then f.masks.erase e else if f.masks.contains e then f.masks else e :: f.masks }
  if f.fmask then s.putVf vf f
  else
    (s.putVf vf { f with pba := f.pba.filter f.masks.contains }).modHub fun h => { h with
      msix := h.msix ++ ((f.pba.filter fun e => !f.masks.contains e).map fun e => (vf, e)) }

/-! ### Enable and reset of a function -/

/-- The queues of a function. -/
def Vf.queues (f : Vf) : List Nat := (List.range f.qcount).map fun i => f.qbase + i

/-- Whether two ranges share a number. -/
def rangesMeet (a n b m : Nat) : Bool := decide (0 < n) && decide (0 < m) && decide (a < b + m) && decide (b < a + n)

/-- Whether an enable is refused (R373). -/
def State.enableBad (s : State) (vf : Nat) (f : Vf) : Bool :=
  decide (4096 < f.qbase + f.qcount) || f.queues.any (fun q => s.partOfQueue q != f.part || !(s.die (dieOfQueue q)).bound)
    || decide (4096 < f.vbase + f.vcount) || f.target == 3
    || s.hub.vfs.any fun (k, g) => k != vf && g.enable &&
      (rangesMeet f.qbase f.qcount g.qbase g.qcount || rangesMeet f.vbase f.vcount g.vbase g.vcount)

/-- VF_ENABLE (R373). -/
def execVfEnable (vf : Nat) (s : State) : Out :=
  let f := s.vf vf
  if f.enable || decide (256 ≤ vf) then .next s
  else if s.enableBad vf f then .next (s.putVf vf { f with cfgerr := true })
  else .next (s.putVf vf { f with enable := true, state := 1 })

/-- A context's state discarded (R378): it halts, its work in flight is done once, and nothing of it is left; its version
passes every image. -/
def State.discardCtx (s : State) (q : Nat) : State :=
  let gids := s.residentGroups q
  let s := gids.foldl (fun s gid => s.stopGroup gid true) s
  let s := ((s.stopCopies fun c => c.ctx == q).freeFb fun e => e.ctx == q).flushCtx q
  let (key, s) := s.freshKey
  let s := { s with simt := s.simt.split q false }
  (s.modCtx q fun c => { c with
    state := 1, frozen := false, halt := none, cause := 0, cxfault := 0, claimed := [], vacBusy := false, heldEvents := [], swapUsed := [],
    version := c.version + (if c.state = 3 then 2 else 1), residencyKey := key, imageKey := 0 }).recheckSpawns

/-- A queue's packet dropped (R378): a commit that has begun completes, its launches apart, whose trees are discarded. -/
def State.dropPacket (s : State) (q : Nat) : State :=
  let s := match (s.queue q).pkt with
    | some k => if k.commit.isSome then k.staged.foldl (fun (s : State) e => s.commitOne q e) s else s
    | none => s
  { s with turns := s.turns.filter fun a => a != Agent.easel q }.modQueue q fun x =>
    { x with pkt := none, enable := false, state := 0 }

/-- The work of a queue ended (R378): its packet and, where it is bound, its context. -/
def State.killQueue (s : State) (q : Nat) : State :=
  if (s.queue q).eid = 0 then s.dropPacket q else (s.dropPacket q).discardCtx q

/-- The FLR's steps from the gate point on: every context of the function halts. -/
def State.flrSteps (s : State) (vf : Nat) (f : Vf) : State :=
  (f.queues.foldl State.killQueue (s.putVf vf { f with gateHeld := false })).laterWithin 7002048 (.flrComplete vf)

/-- The gate takes an FLR (R377): STATE is RESETTING. The FLR holds there while a CTXSEAL of one of the function's contexts is
under way.
[DEDUCED, log entry 71] -/
def State.startFlr (s : State) (vf : Nat) (f : Vf) (off : Bool) : State :=
  let f := { f with state := 2, disabling := off }
  if f.queues.any s.sealBusy then (s.putVf vf { f with gateHeld := true }).at (s.ac + 1) (.flrComplete vf) else s.flrSteps vf f

/-- VF_FLR (R377): a function-level reset of an ACTIVE function; while it is RESETTING a further one is ignored. -/
def execVfFlr (vf : Nat) (s : State) : Out :=
  let f := s.vf vf
  if f.state = 1 then .next (s.startFlr vf f false) else .next s

/-- VF_DISABLE (R373): an FLR, after which the function is DISABLED. -/
def execVfDisable (vf : Nat) (s : State) : Out :=
  let f := s.vf vf
  if f.state = 1 then .next (s.startFlr vf f true)
  else if f.state = 2 then .next (s.putVf vf { f with disabling := true })
  else .next s

/-- A queue's registers at reset: QOWNER alone is kept (R378); its trace block likewise (R426). -/
def State.resetQueue (s : State) (q : Nat) : State :=
  let x := s.queue q
  (s.putQueue q { Queue.reset with eid := x.eid }).resetTrace q

/-- A vector cleared: PEND, and the virtual pending bits it has set. -/
def State.clearVector (s : State) (v : Nat) : State :=
  let r := s.vec v
  (if r.pend then s.putVec v { r with pend := false } else s).modHub fun h => { h with vpend := h.vpend.filter fun k => k.2 != v }

/-- FLR_COMPLETE (R377, R378): an FLR that is held at the gate goes on when it can; otherwise queues and vectors are reset, and the function is ACTIVE again, or DISABLED. -/
def execFlrComplete (vf : Nat) (s : State) : Out :=
  let f := s.vf vf
  if f.state ≠ 2 then .next s
  else if f.gateHeld then
    .next (if f.queues.any s.sealBusy then s.at (s.ac + 1) (.flrComplete vf) else s.flrSteps vf f)
  else
    let s := f.queues.foldl State.resetQueue s
    let s := (s.hub.vecs.filter fun v => decide (f.vbase ≤ v.1) && decide (v.1 < f.vbase + f.vcount)).foldl
      (fun s v => s.clearVector v.1) s
    .next (s.putVf vf { f with
      state := if f.disabling then 0 else 1, enable := !f.disabling, disabling := false, flrs := (f.flrs + 1) % 256, pba := [] })

/-! ### The dirty log, export and import -/

/-- VF_HARVEST (R380): the other half is zeroed, and HALF switches. -/
def execVfHarvest (vf : Nat) (s : State) : Out :=
  let f := s.vf vf
  let base := f.dlog + (1 - f.half) * f.halfSize
  let s := s.modStore fun x => { x with
    mem := x.mem.filter fun c => !(decide (base ≤ c.1) && decide (c.1 < base + f.halfSize) &&
      (s.potOf (c.1 / 4096)).judged == potHost) }
  .next (s.putVf vf { f with half := 1 - f.half })

/-- A queue record (Table 7 of ch21). -/
def Queue.record (x : Queue) : List Byte :=
  let state := if x.state = 5 then 5 else if x.pkt.isSome || x.head != x.tail then 2 else 1
  leBytes 4 0x4B514558 ++ leBytes 2 1 ++ leBytes 1 state ++ leBytes 1 x.prio ++ leBytes 8 x.ring ++ leBytes 4 x.head
    ++ leBytes 4 x.tail ++ leBytes 1 x.log2 ++ leBytes 1 x.fcode ++ leBytes 1 (b01 x.errirq) ++ leBytes 1 0
    ++ leBytes 4 x.fidx ++ leBytes 2 x.spq ++ leBytes 2 x.vecBase ++ leBytes 1 x.vecCount ++ leBytes 3 0
    ++ leBytes 8 x.pkts ++ leBytes 8 x.drops ++ leBytes 8 0
    ++ (List.range 24).flatMap fun i => leBytes 8 (Tbl.fget 0#64 x.scratch (8 + i)).toNat

/-- Whether an imported record is refused for a function (Table 6 of ch21, BADREC). -/
def Vf.recordBad (f : Vf) (r : List Byte) : Bool :=
  let log2 := fieldAt r 0x18 1
  let ring := fieldAt r 8 8
  let vb := fieldAt r 0x22 2
  let vc := fieldAt r 0x24 1
  fieldAt r 0 4 != 0x4B514558 || fieldAt r 4 2 != 1 || log2 == 0 || decide (16 < log2) || !canonical ring || ring % 4096 != 0
    || decide (2 ^ log2 < (fieldAt r 0x14 4 + 2 ^ 32 - fieldAt r 0x10 4) % 2 ^ 32)
    || (vc != 0 && !(decide (f.vbase ≤ vb) && decide (vb + vc ≤ f.vbase + f.vcount)))
    || !([1, 2, 5].contains (fieldAt r 6 1)) || fieldAt r 0x1B 1 != 0 || fieldAt r 0x25 3 != 0 || fieldAt r 0x38 8 != 0

/-- A queue with an imported record: ENABLE stays 0, owner and sketch are kept (R379), and a packet that runs goes on to its end
(R336). -/
def Queue.load (x : Queue) (r : List Byte) : Queue :=
  { x with
    prio := fieldAt r 7 1 % 4, ring := fieldAt r 8 8, head := fieldAt r 0x10 4, tail := fieldAt r 0x14 4
    log2 := fieldAt r 0x18 1, fcode := fieldAt r 0x19 1, errirq := fieldAt r 0x1A 1 % 2 == 1, fidx := fieldAt r 0x1C 4
    spq := fieldAt r 0x20 2 % 8192, vecBase := fieldAt r 0x22 2 % 4096, vecCount := fieldAt r 0x24 1 % 32
    pkts := fieldAt r 0x28 8, drops := fieldAt r 0x30 8, pkt := if x.state = 3 then x.pkt else none
    state := if x.state = 3 then 3 else if fieldAt r 6 1 = 5 then 5 else 0
    scratch := (List.range 24).foldl (fun t i => Tbl.fset 0#64 t (8 + i) (BitVec.ofNat 64 (fieldAt r (0x40 + 8 * i) 8))) [] }

/-- The queue that a VFQCMD names, or the result of its first checks (Table 6 of ch21).
[DEDUCED, log entry 73] -/
def State.vfqQueue (s : State) (f : Vf) (value op : Nat) : Except Nat Nat :=
  let q := fieldOf value 16 12
  if value % 4 ≠ op ∨ fieldOf value 2 14 ≠ 0 ∨ fieldOf value 28 36 ≠ 0 ∨ q < f.qbase ∨ f.qbase + f.qcount ≤ q then .error 1
  else if (s.queue q).eid = 0 ∨ (s.queue q).enable = true then .error 2
  else .ok q

/-- The result of a VFQCMD in VFQSTAT. -/
def State.vfResult (s : State) (vf r : Nat) : State := s.putVf vf { s.vf vf with qres := r }

/-- VFQCMD_EXPORT (R379): a queue's record written at VFQBUF; a WAITING packet is abandoned, and a RUNNING one runs to its end
(R336). -/
def execVfqcmdExport (vf value : Nat) (s : State) : Out :=
  let f := s.vf vf
  match s.vfqQueue f value 1 with
  | .error r => .next (s.vfResult vf r)
  | .ok q =>
    if !s.inHostPages f.part f.qbuf 256 then .next (s.vfResult vf 4)
    else
      let x := s.queue q
      .next (((s.putQueue q { x with pkt := if x.state = 3 then x.pkt else none }).write f.qbuf x.record).vfResult vf 0)

/-- VFQCMD_IMPORT (R379): a queue's registers and scratch words read from the record at VFQBUF. -/
def execVfqcmdImport (vf value : Nat) (s : State) : Out :=
  let f := s.vf vf
  match s.vfqQueue f value 2 with
  | .error r => .next (s.vfResult vf r)
  | .ok q =>
    let r := s.bytes f.qbuf 256
    if f.recordBad r then .next (s.vfResult vf 3)
    else if !s.inHostPages f.part f.qbuf 256 then .next (s.vfResult vf 4)
    else .next ((s.modQueue q fun x => x.load r).vfResult vf 0)

/-! ### Partition reset (R378) -/

/-- The vectors of a partition: those of its functions, and those delivered to its threads.
[DEDUCED, log entry 74] -/
def State.vectorsOf (s : State) (p : Nat) : List Nat :=
  (s.hub.vecs.filter fun v => match s.vfOfVector v.1 with
    | some (_, f) => f.part == p
    | none => s.partOfThread v.2.dest == p).map Prod.fst

/-- PARTITION_RESET (R378): every enclave, page, key, sketch and function of a QUIESCED partition. -/
def execPartitionReset (part : Nat) (s : State) : Out :=
  let p := s.part part
  if p.dies = 0 ∨ (p.state ≠ 2 ∧ p.resetting = false) then .next s
  else
    let vfs := s.hub.vfs.filter fun f => f.2.enable && f.2.part == part
    let s := ((s.hub.queues.filter fun q => s.partOfQueue q.1 == part).map Prod.fst).foldl
      (fun s q => (s.killQueue q).resetQueue q) s
    let s := (s.hub.enclaves.filter fun e => e.2.part == part).foldl (fun s e => s.destroyEnclave e.1 e.2) s
    let s := vfs.foldl (fun s f => s.putVf f.1 { f.2 with
      state := if f.2.disabling then 0 else 1, enable := !f.2.disabling, disabling := false, flrs := (f.2.flrs + 1) % 256, pba := [] }) s
    let s := (s.vectorsOf part).foldl (fun s v => (s.clearVector v).putVec v Vec.reset) s
    let (key, s) := s.freshKey
    let s := ((s.dropTuples part).resetPages part).tlbDrop fun e => e.part == part
    let s := { s with
      dies := s.dies.map fun (d : Nat × Die) => if d.2.bound && d.2.part == part then (d.1, { d.2 with retired := [] }) else d
      store := { s.store with reqs := s.store.reqs.filter fun r => r.2.part != part }
      hub := { s.hub with
        sketches := s.hub.sketches.filter fun k => k.1 / 65536 != part
        ppend := s.hub.ppend.filter fun k => s.partOfThread (k / 4096) != part
        vpend := s.hub.vpend.filter fun k => s.partOfThread (k.1 / 256) != part } }
    .next ((s.modPart part fun p => { p with hostKey := key, resetting := false, refusing := false }).putHostKey part key)

end Sys2Proof.Machine
end

