-- ==== Sys2Proof/Machine/Power.lean ====
section
/-! DEFINITION. Power.lean: bring-up (R404, R445), loss of power (R448), clock steps (R446 to R448), power gating (R449), and the
clock of a partition below 700 MHz (R447). -/

namespace Sys2Proof.Machine

/-! ### Firmware and keys at bring-up (R404, R405) -/

/-- A firmware image's record. -/
def Rot.image (r : Rot) (i : Nat) : Firmware := Tbl.getD r.fw i (Firmware.reset i)

/-- The firmware digest: over the five image digests in index order (R404). -/
def Rot.digestOf (r : Rot) : List Byte := sha3 ((List.range 5).flatMap fun i => (r.image (i + 1)).digest)

/-- The digest taken again, and with it the attestation key, which the device secret and the digest give together (R405). -/
def Rot.rekey (r : Rot) : Rot :=
  let d := r.digestOf
  { r with fwDigest := d, attKey := leNat (cryptoOut 6 (leBytes 32 r.secret ++ d) 32) }

/-- Whether a copy runs: its signature verifies, and its version is not below the fuse counter (R404). -/
def Firmware.runs (f : Firmware) : Bool := f.good && decide (f.fuse ≤ f.svn)

/-- The image with the two copies of its A/B pair exchanged. -/
def Firmware.other (f : Firmware) : Option Firmware :=
  f.staged.map fun (d, v, ok) => { f with digest := d, svn := v, good := ok, staged := some (f.digest, f.svn, f.good) }

/-- An image that has run: its fuse counter is its version (R404). -/
def Firmware.ran (f : Firmware) : Firmware := { f with fuse := max f.fuse f.svn }

/-- The copy that bring-up runs: the running one, or else the other of the A/B pair; none where neither passes. -/
def Firmware.boot (f : Firmware) : Option Firmware :=
  if f.runs then some f.ran else (f.other.filter Firmware.runs).map Firmware.ran

/-- Images 2 to 5 in order, with the code of the first failure (R445), 2 where no copy verifies and 3 below the fuse counter, or 0;
those before it have run (R404). -/
def Rot.bootAll (r : Rot) : List Nat → Rot × Nat
  | [] => (r, 0)
  | i :: rest =>
    match (r.image i).boot with
    | some f => ({ r with fw := Tbl.put r.fw i f }).bootAll rest
    | none => (r, if (r.image i).good || (r.image i).other.any Firmware.good then 3 else 2)

/-! ### Release (R445, R394, R320) -/

/-- The default layout: partition 0 with every die and group, and one window. -/
def defaultLayout : List (Nat × Nat × Nat × Nat) × List (Nat × Nat) :=
  (List.replicate 8 (0, 255, 0, 0), (255, 256) :: List.replicate 7 (0, 256))

/-- A die's window in a stored layout. -/
def layoutIlv (l : List (Nat × Nat × Nat × Nat)) (d : Nat) : IlvEntry :=
  let x := (l[d]?).getD (0, 0, 0, 0)
  ⟨x.1, x.2.1, x.2.2.1, true, x.1 % 2 ^ 30 != 0⟩

/-- A die's partition in a stored layout. -/
def layoutPart (l : List (Nat × Nat × Nat × Nat)) (d : Nat) : Nat := ((l[d]?).getD (0, 0, 0, 0)).2.2.2

/-- Whether a stored layout breaks R394 or R395. -/
def bootLayoutBad (l : List (Nat × Nat × Nat × Nat) × List (Nat × Nat)) : Bool :=
  l.1.length != 8 || l.2.length != 8
    || windowsBad (layoutIlv l.1) (fun d => if d < 8 then some (layoutPart l.1 d) else none) (List.range 8)
    || ((List.range 8).any fun g => (l.2.filter fun p => bitOf p.1 g).length != 1)
    || (List.range 8).any fun d => decide (7 < layoutPart l.1 d) || ((l.2[layoutPart l.1 d]?).getD (0, 0)).1 == 0

/-- A partition released RUNNING with its part of a layout (R445). -/
def State.releasePart (s : State) (l : List (Nat × Nat × Nat × Nat) × List (Nat × Nat)) (p : Nat) : State :=
  let dies := ((List.range 8).filter fun d => layoutPart l.1 d == p).foldl (fun m d => m + 2 ^ d) 0
  if dies = 0 then s
  else
    let (ccg, cfg) := (l.2[p]?).getD (0, 256)
    let (key, s) := s.freshKey
    (s.putPart p { Part.reset with
      dies := dies, ccg := ccg, tupdies := fieldOf cfg 24 8, tupsz := fieldOf cfg 16 2, ptpool := fieldOf cfg 8 5,
      tolen := bitOf cfg 0, hostKey := key, timeBase := s.ac }).putHostKey p key

/-- Every die and partition of a layout. -/
def State.release (s : State) (l : List (Nat × Nat × Nat × Nat) × List (Nat × Nat)) : State :=
  let s := { s with
    dies := (List.range 8).map fun d =>
      (d, { Die.reset with
        ilvbase := (layoutIlv l.1 d).base, wdies := (layoutIlv l.1 d).wdies, gran := (layoutIlv l.1 d).gran
        valid := true, bound := true, part := layoutPart l.1 d })
    parts := [] }
  (List.range 8).foldl (fun s p => s.releasePart l p) s

/-- Bring-up stopped at a stage with a code. -/
def State.bootStop (s : State) (stage code : Nat) : State :=
  { s with module := { s.module with stage := stage, code := code } }

/-- POWER_ON (R445): the six stages in order; at stage 4 the first thread of control-core group 0 runs boot firmware, whose
address is free, and link training draws the links' first keys (R322).
[DEDUCED, log entry 90] -/
def execPowerOn (s : State) : Out :=
  if s.module.stage ≠ 0 ∨ s.module.code ≠ 0 then .next s
  else
    let s := { s with module := { s.module with on := true, prevtrip := s.module.tripLatched, tripLatched := false } }
    if !s.module.supply then .next (s.bootStop 0 1)
    else
      let (r, code) := s.hub.rot.bootAll [2, 3, 4, 5]
      let s := s.modRot fun _ => r
      if code ≠ 0 then .next (s.bootStop 2 code)
      else
        let s := s.modRot fun r => { r.rekey with idHash := sha3 r.idPublic }
        let (seed, s) := s.freshKey
        let s := s.modHub fun h => { h with linkSeed := seed, links := [] }
        let s := s.startThread 0 2 Config.bootPc
        if !s.module.trained then .next (s.bootStop 4 4)
        else if !s.module.linked then .next (s.bootStop 4 5)
        else
          match s.module.layout with
          | none => .next ((s.release defaultLayout).bootStop 6 0)
          | some l =>
            if bootLayoutBad l then .next ((s.release defaultLayout).bootStop 6 6) else .next ((s.release l).bootStop 6 0)

/-! ### Loss of power (R445, R448) -/

/-- Everything lost but the fuses and the root of trust's flash. -/
def State.powerOff (s : State) (trip : Bool) : State :=
  { State.reset with
    ac := s.ac
    free := s.free
    agenda := []
    module := { Module.reset with
      on := false, layout := s.module.layout, supply := s.module.supply, trained := s.module.trained, linked := s.module.linked
      tripLatched := trip || s.module.tripLatched }
    hub := { Hub.reset with rot := { Rot.reset with fw := s.hub.rot.fw, secret := s.hub.rot.secret } } }

/-- MODULE_POWER_OFF (R445). -/
def execModulePowerOff (s : State) : Out := .next (s.powerOff false)

/-- Whether a junction is at 110 °C or the inlet above 50 °C (R448). -/
def State.tripNow (s : State) : Bool :=
  decide (200 < s.inletTemp) || (List.range 10).any fun d => decide (440 ≤ s.dieTemp d)

/-- THERMAL_TRIP (R448): power goes at once, and the trip is latched. -/
def execThermalTrip (s : State) : Out := .next (if s.module.on && s.tripNow then s.powerOff true else s)

/-! ### Clock steps (R446 to R448) -/

/-- EFF: the least of CAP, the thermal step and the limit step; a gated partition keeps its EFF until the ungate (R449).
[DEDUCED, log entry 98] -/
def Part.step (p : Part) : Part := if p.gated then p else { p with eff := min p.cap (min p.thermStep p.limitStep) }

/-- A hardware step one lower or one higher, between 8 and 28.
[DEDUCED, log entry 97] -/
def stepBy (up : Bool) (n : Nat) : Nat := if up then min 28 (n + 1) else max 8 (n - 1)

/-- LIMIT_STEP (R447): above MODLIM every running partition's step falls; below 95 % of it it rises.
[DEDUCED, log entry 86] -/
def execLimitStep (up : Bool) (s : State) : Out :=
  let w := s.modPower
  if (up && decide (100 * w < 95 * s.module.limit)) || (!up && decide (s.module.limit < w)) then
    .next { s with parts := s.parts.map fun (x : Nat × Part) =>
      if x.2.dies = 0 ∨ x.2.gated then x else (x.1, { x.2 with limitStep := stepBy up x.2.limitStep }.step) }
  else .next s

/-- THERMAL_STEP (R448): at 95 °C the partition's step falls; below 90 °C it rises. -/
def execThermalStep (part : Nat) (up : Bool) (s : State) : Out :=
  let t := s.partTemp part
  let p := s.part part
  if p.dies = 0 then .next s
  else if (up && decide (t < 360)) || (!up && decide (380 ≤ t)) then
    .next (s.putPart part { p with thermStep := stepBy up p.thermStep }.step)
  else .next s

/-- PCLK_CAP_WRITE (R446, R447): CAP clamped to 8 to 28; EFF follows. -/
def execPclkCapWrite (part value : Nat) (s : State) : Out :=
  let p := s.part part
  if p.dies = 0 then .next s
  else .next (s.putPart part { p with cap := max 8 (min 28 (value % 32)) }.step)

/-! ### Power gating (R449) -/

/-- Whether a context of a partition holds a team. -/
def State.holdsTeam (s : State) (part : Nat) : Bool :=
  s.simt.teams.any fun t => s.partOfQueue (s.ctxOfTeam t.2) == part && (t.2.state == .waiting || t.2.state == .resident || t.2.state == .swapped)

/-- PGATE_GATE (R449): refused with GERR unless the partition is QUIESCED and holds no team. -/
def execPgateGate (part : Nat) (s : State) : Out :=
  let p := s.part part
  if p.dies = 0 ∨ p.gated then .next s
  else if p.state ≠ 2 || s.holdsTeam part then .next (s.putPart part { p with gerr := true })
  else .next (s.putPart part { p with gate := true, gated := true })

/-- PGATE_UNGATE (R449): the dies have power again, and a CAP written meanwhile takes effect. -/
def execPgateUngate (part : Nat) (s : State) : Out :=
  let p := s.part part
  .next (if p.gated then s.putPart part { p with gate := false, gated := false }.step else s)

/-! ### A slower clock (R447) -/

/-- The partitions whose arithmetic clock does not tick in this ac of 700 MHz, and every phase moved on. -/
def State.clockPhases (s : State) : List Nat × State :=
  let slow := s.parts.filter fun p => p.2.dies != 0 && decide (p.2.eff < 28)
  (((slow.filter fun p => decide (p.2.phase + p.2.eff < 28)).map Prod.fst),
    { s with parts := s.parts.map fun (p : Nat × Part) =>
      if p.2.dies = 0 ∨ 28 ≤ p.2.eff then p
      else (p.1, { p.2 with phase := if p.2.phase + p.2.eff < 28 then p.2.phase + p.2.eff else p.2.phase + p.2.eff - 28 }) })

/-- A partition whose clock does not tick: TIME and everything due in it stand still for this ac. -/
def State.stallPart (s : State) (part : Nat) : State :=
  let mine (q : Nat) : Bool := s.partOfQueue q == part
  let onCore (core : Nat) : Bool := s.partOfDie (dieOfCore core) == part
  let s := { s with agenda := s.agenda.map fun (e : Nat × Event) => if s.eventPart e.2 = some part then (e.1 + 1, e.2) else e }
  let s := (s.modPart part fun p => { p with timeBase := p.timeBase + 1 }).modSimt fun x => { x with
    groups := x.groups.map fun g => if mine g.2.place.ctx && !(s.ctx g.2.place.ctx).frozen then (g.1, g.2.delay 1) else g
    ctxs := x.ctxs.map fun (c : Nat × Ctx) => if mine c.1 then (c.1, { c.2 with
      frozenAt := if c.2.frozen then c.2.frozenAt + 1 else c.2.frozenAt
      halt := if c.2.state = 1 then c.2.halt.map fun h => { h with time := h.time + 1 } else c.2.halt }) else c
    lastIssue := x.lastIssue.map fun (k : Nat × Nat) => if onCore k.1 then (k.1, k.2 + 1) else k }
  let s := s.modStore fun x => { x with
    syncLines := x.syncLines.map fun (l : Nat × Nat) => if s.partOfDie (s.homeDie (64 * l.1)) = part then (l.1, l.2 + 1) else l
    reqs := x.reqs.map fun (r : Nat × TupReq) => if r.2.part = part then (r.1, { r.2 with due := r.2.due + 1 }) else r }
  s.modHub fun h => { h with
    traceK := h.traceK.map fun (k : Nat × TraceK) => if onCore (k.1 / 4) then (k.1, { k.2 with
      chunks := k.2.chunks.map fun c => { c with first := c.first + 1 } }) else k }

end Sys2Proof.Machine
end

