-- ==== Sys2Proof/Machine/Reliability.lean ====
section
/-! DEFINITION. Reliability.lean: patrol (R416), control-state errors (R418), dumps (R422 to R424), and firmware updates (R425,
R404). -/

namespace Sys2Proof.Machine

/-- PATROL (R416, R415): a line of HBM4 read: an error that can be corrected is, and the line written back; one that cannot is poisoned
in memory and logged. No context traps. -/
def execPatrol (stack line : Nat) (s : State) : Out :=
  let code := Tbl.fget 0 s.store.latent line
  if (s.stackOf (64 * line)).map Prod.fst ≠ some stack ∨ 3 < code then .next s
  else
    let s' := s.meetLine 0 0xFFFF line
    .next (if code = 1 then s'.modStore fun x => { x with latent := Tbl.del x.latent line } else s')

/-- The contexts with a group in a barrier's membership. -/
def State.barCtxs (s : State) (bar : Nat) : List Nat :=
  match Tbl.get? s.simt.tasks (barTask bar) with
  | some t => [t.ctx]
  | none => []

/-- The contexts that own an entry of the damaged word of an uncorrectable error in control state (R418): of queues, range, tree or
task entries (kind 0, by queue), or of barriers' members (kind 1). A word may hold entries of several. -/
def State.wordOwners (s : State) (owners : List Nat) (kind : Nat) : List Nat :=
  (if kind = 0 then owners.filter fun q => (s.queue q).eid != 0
  else if kind = 1 then owners.flatMap s.barCtxs
  else []).dedup

/-- UNCORRECTABLE_CONTROL_ERROR (R418 to R420): every owner's context halts with REGUE, and the log names the first owner's enclave;
with no owner the die posts its machine check, whatever UEIRQ holds, and its partition refuses new enclaves, loads and kicks. -/
def execUncorrectableControlError (die : Nat) (owners : List Nat) (kind : Nat) (s : State) : Out :=
  let qs := s.wordOwners owners kind
  let eid := ((qs.head?).map fun q => (s.ctx q).eid).getD 0
  let s := s.logError die (65536 * ((owners.head?).getD 0 % 65536)) 7 1 (if qs = [] then 0 else 0x13) eid 0xFFFF
  if qs = [] then
    let s := s.postDie die (s.errBlock die).vec
    .next (if die < 8 ∧ (s.die die).bound then s.modPart (s.partOfDie die) fun p => { p with refusing := true } else s)
  else .next (qs.foldl (fun s q => s.raiseHalt q ⟨0x13, 2, 0, 0, 0, none, 0, 0, 0, s.ac, []⟩) s)

/-! ### Dumps (R422 to R424) -/

/-- A dump's end: its result and DMPLEN. -/
def State.dumpResult (s : State) (r len : Nat) : State :=
  s.modHub fun h => { h with dump := { h.dump with result := r, len := len, busy := none } }

/-- Whether bytes lie in HOST pages of some partition. -/
def State.inAnyHost (s : State) (a n : Nat) : Bool := s.parts.any fun p => s.inHostPages p.1 a n

/-- Whether a context that holds a team is neither HALTED nor FROZEN (R422). -/
def State.dumpRuns (s : State) (e : Enclave) : Bool :=
  e.queues.any fun q => (s.ctx q).state != 2 && !(s.ctx q).frozen
    && s.simt.teams.any fun t => s.ctxOfTeam t.2 == q && (t.2.state == .waiting || t.2.state == .resident || t.2.state == .swapped)

/-- The first reason for which a dump does not start (R422), or the enclave. -/
def State.dumpStart (s : State) (value : Nat) : Except Nat Enclave :=
  let d := s.hub.dump
  if d.busy.isSome then .error 6
  else if fieldOf value 18 46 ≠ 0 ∨ fieldOf value 16 2 ≠ 1 ∨ d.key % 64 ≠ 0 ∨ d.buf % 4096 ≠ 0 ∨ s.inAnyHost d.key 1184 = false
      ∨ s.inAnyHost d.buf (max d.size 1) = false then .error 1
  else
    match Tbl.get? s.hub.enclaves (fieldOf value 0 16) with
    | none => .error 2
    | some e =>
      if !bitOf e.policy 1 then .error 3
      else if s.dumpRuns e then .error 7
      else if sha3 (s.bytes d.key 1184) ≠ e.dumpKey then .error 4
      else .ok e

/-- The header of a dump (R424).
[DEDUCED, log entry 79] -/
def State.dumpHeader (s : State) (eid records : Nat) (e : Enclave) : List Byte :=
  leBytes 4 0x4B444D50 ++ leBytes 2 1 ++ leBytes 2 eid ++ leBytes 4 records ++ leBytes 4 0 ++ leBytes 8 (s.time e.part)
    ++ s.hub.rot.idHash ++ leBytes 8 0

/-- An entry that a dump holds (R423, R424): die, class, unit, whether it holds an error, and its bytes with that error as zeros. -/
structure DumpEntry where
  die : Nat
  cls : Nat
  unit : Nat
  poison : Bool
  bytes : List Byte
  deriving DecidableEq, Repr

/-- The register rows of a group, and its uniform state: v, g, p, q, FSTAT, and the SR state of each lane. -/
def dumpRegs (rows : Nat) (g : Regs) : List Byte :=
  let marks := g.marks (g.errs.map Prod.fst)
  let bad (k : Nat) : Bool := (Tbl.get? marks k).isSome
  ((List.range rows).flatMap fun r => (List.range 32).flatMap fun l => leBytes 4 (if bad (32 * r + l) then 0 else (g.rdV r l).toNat))
    ++ ((List.range 64).flatMap fun r => leBytes 8 (if bad (3072 + r) then 0 else (g.rdG r).toNat))
    ++ ((List.range 8).flatMap fun r => leBytes 4 (if bad (3136 + r) then 0 else (g.rdP r).toNat))
    ++ ((List.range 8).flatMap fun r => leBytes 1 (if bad (3144 + r) then 0 else b01 (rdQ g.q r)))
    ++ leBytes 8 (if bad 3153 then 0 else g.fstat.toNat)
    ++ (List.range 32).flatMap fun l => leBytes 4 (if bad (3200 + l) then 0 else (Tbl.getD g.sr l 0#32).toNat)

/-- The words of a team's local store that hold an uncorrectable error. -/
def State.localBad (s : State) (team : Nat) : List Nat :=
  Tbl.getD s.simt.localPoison team [] ++ ((Tbl.getD s.simt.localErrs team []).filter fun e => e.2 != 1).map Prod.fst

/-- A team's local-store allocation. -/
def State.dumpLocal (s : State) (team len : Nat) : List Byte :=
  let bad := s.localBad team
  (List.range len).map fun i => if bad.contains (i / 8) then 0#8 else Tbl.fget 0#8 (Tbl.getD s.simt.locals team []) i

/-- The entries of a group of an enclave: register rows, accumulator rows and live slots. -/
def State.dumpGroup (s : State) (gid : Nat) (g : Group) : List DumpEntry :=
  let die := dieOfCore g.place.core
  let unit := 4 * g.place.core + g.place.sched
  let rows := s.accRows g
  let acc := poisonErrs g.accPoison 0x13 g.accErrs
  [⟨die, 0, unit, !(g.regs.marks (g.regs.errs.map Prod.fst)).isEmpty, dumpRegs (s.vregsOf g) g.regs⟩]
    ++ (if rows = 0 then [] else
      [⟨die, 2, unit, !acc.isEmpty, (List.range (128 * rows)).flatMap fun k =>
        leBytes 4 (if (Tbl.get? acc k).isSome then 0 else (Tbl.fget 0#32 (Tbl.getD s.simt.accs gid []) k).toNat)⟩])
    ++ (s.simt.slots.filter fun x => x.2.owner == gid).map fun x =>
      let v := { x.2 with bad := poisonErrs x.2.bad 0x13 x.2.errs }
      ⟨die, 2, unit, !v.bad.isEmpty, slotBytes v g.place.slot (x.1 % 2)⟩

/-- A line of an enclave's page in a slice (class 3) or an engine (class 4). -/
def State.dumpLine (s : State) (cls line : Nat) : DumpEntry :=
  let bad := (s.readBad (64 * line) 64).isSome
  ⟨s.dieOfAddr (64 * line), cls, if cls = 3 then (s.homeCore (64 * line)).getD 0 else 0, bad,
    if bad then List.replicate 64 0#8 else s.bytes (64 * line) 64⟩

/-- The entries whose owner is an enclave (R423), in order of die, class and unit: class 0 registers, 1 local store, 2 accumulators
and live slots, 3 slice lines, 4 engine lines. Control state has none. Which lines of its pages stand in a slice is free.
[DESIGN CHOICE, log entry 121] -/
def State.dumpEntries (s : State) (eid : Nat) : List DumpEntry :=
  let pages := (s.store.pot.filter fun p => p.2.owner == eid && (p.2.state == potOwned || p.2.state == potShared)).map Prod.fst
  let mine (line : Nat) : Bool := pages.contains (line / 64)
  let teams := s.simt.teams.filter fun t => (s.ctx (s.ctxOfTeam t.2)).eid == eid && t.2.state == .resident
  let groups := s.simt.groups.filter fun g => teams.any fun t => t.1 == g.2.place.team
  let engine := (s.store.syncLines.filter fun l => mine l.1 && !s.store.syncOver.contains l.1).map Prod.fst
  let slice := (pages.flatMap fun p => (List.range 64).map fun i => 64 * p + i).filter fun l =>
    !engine.contains l && Config.freeBool (2 ^ 64 * (s.free + 1) + l)
  let all := (groups.flatMap fun g => s.dumpGroup g.1 g.2)
    ++ (teams.filter fun t => t.2.localLen != 0).map (fun t =>
      ⟨dieOfCore t.2.core, 1, 4 * t.2.core, !(s.localBad t.1).isEmpty, s.dumpLocal t.1 t.2.localLen⟩)
    ++ slice.map (s.dumpLine 3) ++ engine.map (s.dumpLine 4)
  all.mergeSort fun a b => decide (a.die < b.die) || (a.die == b.die && (decide (a.cls < b.cls) ||
    (a.cls == b.cls && decide (a.unit ≤ b.unit))))

/-- A record's header, and the record with number `i` under a dump's key (R424), padded to 64 B. -/
def DumpEntry.head (x : DumpEntry) : List Byte :=
  leBytes 1 x.die ++ leBytes 1 x.cls ++ leBytes 2 (b01 x.poison) ++ leBytes 4 x.unit ++ leBytes 4 (alignUp 16 x.bytes.length) ++ leBytes 4 0

def dumpRecord (key fileHead : List Byte) (i : Nat) (x : DumpEntry) : List Byte :=
  let plain := padTo16 x.bytes
  let r := x.head ++ sealBytes (key ++ leBytes 4 i ++ leBytes 8 0 ++ fileHead ++ x.head ++ plain) (plain.length + 16)
  r ++ List.replicate (alignUp 64 r.length - r.length) 0#8

/-- The bytes of a dump (R424): header, the key encapsulated to the tenant, and the records. -/
def State.dumpBytes (s : State) (eid : Nat) (e : Enclave) (seed : List Byte) : List Byte :=
  let es := s.dumpEntries eid
  let head := s.dumpHeader eid es.length e
  let tenant := s.bytes s.hub.dump.key 1184
  let key := sha3 (cryptoOut 15 (tenant ++ seed) 32 ++ [0x44#8])
  head ++ cryptoOut 12 (tenant ++ seed) 1088 ++ es.zipIdx.flatMap fun x => dumpRecord key head x.2 x.1

/-- DMPCMD_START (R422): the checks; the dump then runs to its own end. -/
def execDmpcmdStart (value : Nat) (s : State) : Out :=
  match s.dumpStart value with
  | .error 6 => .next (s.modHub fun h => { h with dump := { h.dump with result := 6 } })
  | .error r => .next (s.dumpResult r 0)
  | .ok _ => .next ((s.modHub fun h => { h with dump := { h.dump with busy := some (fieldOf value 0 16) } }).later .dumpEnd)

/-- The errors of an enclave's lines that the dump engine finds (R416): an uncorrectable one is poisoned in memory and logged. -/
def State.dumpMeets (s : State) (eid : Nat) : State :=
  (s.store.latent.filter fun l => (s.potOf (l.1 / 64)).owner == eid).foldl (fun s l => s.meetLine eid 0xFFFF l.1) s

/-- The end of the walk (R423, R424): the whole dump is written, or NOSPACE says how long it is.
[DESIGN CHOICE, log entry 121] -/
def State.endDump (s : State) : State :=
  match s.hub.dump.busy with
  | none => s
  | some eid =>
    match Tbl.get? s.hub.enclaves eid with
    | none => s.dumpResult 2 0
    | some e =>
      let s := s.dumpMeets eid
      let (seed, t) := s.random 32
      let bs := s.dumpBytes eid e seed
      let d := s.hub.dump
      if d.size < bs.length then s.dumpResult 5 bs.length
      else if !s.inAnyHost d.buf bs.length then s.dumpResult 1 0
      else (t.write d.buf bs).dumpResult 0 bs.length

/-! ### Firmware updates (R425, R404) -/

/-- FIRMWARE_STAGING (R425): an image put into the idle copy, once R404 has passed it. -/
def execFirmwareStaging (req : FwReq) (s : State) : Out :=
  let f := s.hub.rot.image req.slot
  if req.slot < 2 ∨ 5 < req.slot ∨ req.good = false ∨ req.svn < f.fuse then .next s
  else .next (s.modRot fun r => { r with fw := Tbl.put r.fw req.slot { f with staged := some (leBytes 32 req.hash, req.svn, req.good) } })

/-- FIRMWARE_ACTIVATION (R425, R405): the staged copy is checked again and runs; the digest and the attestation key change; with
the root of trust's own firmware SPDM sessions end. -/
def execFirmwareActivation (image : Nat) (s : State) : Out :=
  let f := s.hub.rot.image image
  match f.other.filter Firmware.runs with
  | none => .next s
  | some f =>
    if image < 2 ∨ 5 < image then .next s
    else
      .next (s.modRot fun r =>
        ({ r with
          fw := Tbl.put r.fw image f.ran
          sessions := if image = 2 then [] else r.sessions
          negotiated := r.negotiated && image != 2 }).rekey)

end Sys2Proof.Machine
end

