-- ==== Sys2Proof/Machine/Trust.lean ====
section
/-! DEFINITION. Trust.lean: link keys (R322, R323), IDE and TDISP (R324), accesses from outside the module (R314), the SPDM
responder (R406, R407), evidence (R408 to R410) and pods (R411 to R413). -/

namespace Sys2Proof.Machine

/-! ### Link keys (R322, R323) -/

/-- A link direction whose first key is installed (R322). -/
def Link.start : Link := { keyIdx := 0, next := false, gen := 0, flits := 0, retrans := 0, outstanding := [] }

/-- A link direction: links are numbered 16 × die + unit, with the hubs as dies 8 and 9 and their PCI Express ports as unit 0.
[DESIGN CHOICE, log entry 89] -/
def State.linkDir (s : State) (k : Nat) : Link := Tbl.getD s.hub.links k Link.start

/-- Put a link direction. -/
def State.putLinkDir (s : State) (k : Nat) (x : Link) : State := s.modHub fun h => { h with links := Tbl.put h.links k x }

/-- The key of an IDE stream's sub-stream: 1 more holds the key in use. -/
def ideKey (port stream sub : Nat) : Nat := ((1024 * port + stream) * 8 + sub) * 2

/-- The external port of a link, if it is one: the two PCI Express ports and the sixteen KFL ports. -/
def linkPort (link : Nat) : Option Nat :=
  if link < 128 ∨ 8 < link % 16 then none
  else some (if link % 16 = 0 then link / 16 - 8 else 2 + 8 * (link / 16 - 8) + (link % 16 - 1))

/-- The key of a direction's generation (Table 9 of ch18): from the root of trust at link training, or, of an external port, the key
in use of its link stream.
[DESIGN CHOICE, log entry 7] -/
def State.linkKey (s : State) (k gen : Nat) : List Byte :=
  let seed := match linkPort (k / 2) with
    | some p => Tbl.fget 0 s.hub.ideKeys (ideKey p 0 0 + 1)
    | none => s.hub.linkSeed
  cryptoOut 14 (leBytes 32 seed ++ leBytes 4 k ++ leBytes 8 gen) 32

/-- What seals a direction's next flit (R322): key index, key, and IV: the link identifier, then the counter. -/
def State.linkSeal (s : State) (k : Nat) : Nat × List Byte × List Byte :=
  let x := s.linkDir k
  (x.keyIdx, s.linkKey k x.gen, leBytes 4 k ++ leBytes 8 x.flits)

/-- Whether a link is a PCI Express port, with a completion timeout of its own (R323). -/
def pcieLink (link : Nat) : Bool := decide (128 ≤ link) && link % 16 == 0

/-- The new key of a direction (R323): the unused index takes it, with a counter from 0. The old index stays while a request
issued under it is outstanding: for at most 1 ms, or a PCI Express port's own completion timeout. How many are, below 64, is free.
[DESIGN CHOICE, log entry 89] -/
def State.switchKey (s : State) (link k : Nat) : State :=
  let x := s.linkDir k
  if x.next then s
  else
    let reqs := (List.range ((Config.freeWord s.free).toNat % 64)).map fun i => s.free + 1 + i
    let y := { x with keyIdx := 1 - x.keyIdx, gen := x.gen + 1, flits := 0, next := !reqs.isEmpty,
                      outstanding := reqs.map fun r => (r, x.keyIdx) }
    reqs.foldl (fun s r => if pcieLink link then s.later (.completionTimeout r) else s.laterWithin 700000 (.completionTimeout r))
      ({ s with free := s.free + 65 }.putLinkDir k y)

/-- A flit sent on a direction: the next counter (R322). The key is switched before the counter reaches 2^40. -/
def State.sendFlit (s : State) (link k : Nat) : State :=
  let x := s.linkDir k
  let s := if x.flits + 2 ≥ 2 ^ 40 then s.switchKey link k else s
  s.putLinkDir k { s.linkDir k with flits := (s.linkDir k).flits + 1 }

/-- KEY_SWITCH (R323): the root of trust commands a new key for a link direction. -/
def execKeySwitch (link dir : Nat) (s : State) : Out :=
  if 160 ≤ link then .next s else .next (s.switchKey link (2 * link + dir % 2))

/-- COMPLETION_TIMEOUT (R323): the request is answered, under the key index of its request, or times out, and an old index without
requests retires. A completion that comes later is discarded: nothing is left that it answers. -/
def execCompletionTimeout (req : Nat) (s : State) : Out :=
  .next (s.modHub fun h => { h with links := h.links.map fun (l : Nat × Link) =>
    let out := l.2.outstanding.filter fun r => r.1 != req
    (l.1, { l.2 with outstanding := out, next := l.2.next && out.any fun r => r.2 != l.2.keyIdx }) })

/-- LINK_RETRANSMIT (R323, R415): a flit under a retired index, or whose tag fails, was discarded; it is sent again under the key's
next counter, and the error is counted.
[DESIGN CHOICE, log entry 89] -/
def execLinkRetransmit (link dir : Nat) (s : State) : Out :=
  if 160 ≤ link then .next s
  else
    let k := 2 * link + dir % 2
    let s := s.sendFlit link k
    .next ((s.putLinkDir k { s.linkDir k with retrans := (s.linkDir k).retrans + 1 }).logError (link / 16) 0 6 0 0 0 0xFFFF)

/-! ### The root of trust's answers -/

/-- Whether the root of trust answers: the module is on, and its firmware runs (R404). -/
def State.rotUp (s : State) : Bool := s.module.on && s.hub.rot.idHash != []

/-- An answer sent. -/
def State.reply (s : State) (r : List Byte) : State := s.modRot fun x => { x with reply := r }

/-- An SPDM error response.
[PRESUMED, log entry 82] -/
def spdmError (code : Nat) : List Byte := [0x7F#8, BitVec.ofNat 8 code]

/-- Unsupported request.
[PRESUMED, log entry 82] -/
def unsupported : List Byte := spdmError 7

/-- A request that is answered: with a state and a response.
[PRESUMED, log entry 82] -/
def State.respond (s : State) (r : List Byte) : Out := .next (if s.rotUp then s.reply r else s)

/-- A session that is established. -/
def State.session? (s : State) (n : Nat) : Option Session := (Tbl.get? s.hub.rot.sessions n).filter Session.ready

/-- The certificate chain of a slot (R405): slot 0 of the identity key; slot 1 of the attestation key, certified by the identity key
with the firmware digest. -/
def Rot.chain (r : Rot) (slot : Nat) : List Byte :=
  let identity := Config.crypto 10 r.idPublic 0
  if slot = 0 then identity
  else
    let body := cryptoOut 7 (leBytes 32 r.attKey) 1312 ++ r.fwDigest
    identity ++ body ++ r.idSign body

/-- A request (R406): of version 1.4, and of the message whose code it bears; everything else is refused as unsupported. -/
def State.spdm (s : State) (req : SpdmReq) (code : Nat) (body : Out) : Out :=
  if !s.rotUp then .next s
  else if req.code ≠ code ∨ (req.version ≠ 0x14 ∧ code ≠ 0x84) ∨ 3 < req.port then s.respond unsupported
  else body

/-- A Kelhel operation (R407): a VENDOR_DEFINED_REQUEST of VendorID 0x4B4C; an unknown operation code is BADREQ. -/
def State.kelhel (s : State) (req : SpdmReq) (op : Nat) (body : Out) : Out :=
  s.spdm req 0xFE <|
    if req.vendor ≠ 0x4B4C then s.respond unsupported
    else if req.op ≠ op then s.respond [3#8]
    else body

/-! ### SPDM (R406) -/

/-- GET_VERSION: 1.4 only. -/
def execGetVersion (req : SpdmReq) (s : State) : Out := s.spdm req 0x84 (s.respond [0x04#8, 0x14#8])

/-- GET_CAPABILITIES. -/
def execGetCapabilities (req : SpdmReq) (s : State) : Out := s.spdm req 0xE1 (s.respond (0x61#8 :: cryptoOut 9 [] 8))

/-- NEGOTIATE_ALGORITHMS: the requester must offer ML-DSA-44, ML-KEM-768, SHA3-256 and AES-256-GCM (bits 0 to 3). -/
def execNegotiateAlgorithms (req : SpdmReq) (s : State) : Out :=
  s.spdm req 0xE3 <|
  if req.arg % 16 = 15 then .next ((s.modRot fun r => { r with negotiated := true }).reply [0x63#8, 0x0F#8])
  else s.respond unsupported

/-- GET_DIGESTS: the hash of each slot's chain. -/
def execGetDigests (req : SpdmReq) (s : State) : Out :=
  s.spdm req 0x81 <| s.respond (0x01#8 :: sha3 (s.hub.rot.chain 0) ++ sha3 (s.hub.rot.chain 1))

/-- GET_CERTIFICATE: slot 0 or 1 (R405). -/
def execGetCertificate (req : SpdmReq) (s : State) : Out :=
  s.spdm req 0x82 <|
  if req.arg < 2 then s.respond (0x02#8 :: s.hub.rot.chain req.arg) else s.respond unsupported

/-- CHALLENGE: a signature over the slot's chain, the firmware digest and the requester's nonce. -/
def execChallenge (req : SpdmReq) (s : State) : Out :=
  s.spdm req 0x83 <|
  if 2 ≤ req.arg then s.respond unsupported
  else
    let r := s.hub.rot
    let body := sha3 (r.chain req.arg) ++ r.fwDigest ++ req.data
    s.respond (0x03#8 :: body ++ (if req.arg = 1 then r.sign body else r.idSign body))

/-- A measurement block: 1 to 5 the image digests, 6 the firmware digest. -/
def Rot.block (r : Rot) (i : Nat) : List Byte :=
  BitVec.ofNat 8 i :: if i = 6 then r.fwDigest else (r.image i).digest

/-- GET_MEASUREMENTS: how many blocks (0), one block, or all of them (255), signed with the requester's nonce. -/
def execGetMeasurements (req : SpdmReq) (s : State) : Out :=
  s.spdm req 0xE0 <|
  let r := s.hub.rot
  let signed (b : List Byte) : List Byte := 0x60#8 :: b ++ r.sign (b ++ req.data)
  if req.arg = 0 then s.respond [0x60#8, 6#8]
  else if req.arg = 255 then s.respond (signed ([1, 2, 3, 4, 5, 6].flatMap r.block))
  else if req.arg ≤ 6 then s.respond (signed (r.block req.arg))
  else s.respond unsupported

/-- A session number that is free, from 1 to 64. -/
def Rot.freeSession (r : Rot) : Option Nat := (List.range' 1 64).find? fun n => (Tbl.get? r.sessions n).isNone

/-- KEY_EXCHANGE: a new session, with the peer `arg`, whose handshake FINISH completes. -/
def execKeyExchange (req : SpdmReq) (s : State) : Out :=
  s.spdm req 0xE4 <|
  if !s.hub.rot.negotiated then s.respond (spdmError 4)
  else
    match s.hub.rot.freeSession with
    | none => s.respond (spdmError 0x0A)
    | some n =>
      let (key, s) := s.freshKey
      let (master, s) := s.freshKey
      .next ((s.modRot fun r => { r with sessions := Tbl.put r.sessions n ⟨req.arg, false, key, master⟩ }).reply
        (0x64#8 :: leBytes 2 n ++ cryptoOut 12 (leBytes 32 key) 1088))

/-- FINISH: the session is established when the requester's proof verifies. -/
def execFinish (req : SpdmReq) (s : State) : Out :=
  s.spdm req 0xE5 <|
    match Tbl.get? s.hub.rot.sessions req.session with
    | none => s.respond (spdmError 2)
    | some x =>
      if x.ready then s.respond (spdmError 4)
      else if Config.verifies 3 (leBytes 32 x.key) req.data then
        .next ((s.modRot fun r => { r with sessions := Tbl.put r.sessions req.session { x with ready := true } }).reply [0x65#8])
      else s.respond (spdmError 6)

/-- HEARTBEAT. -/
def execHeartbeat (req : SpdmReq) (s : State) : Out :=
  s.spdm req 0xE8 <| s.respond (if (s.session? req.session).isSome then [0x68#8] else spdmError 2)

/-- KEY_UPDATE: the session has a new key. -/
def execKeyUpdate (req : SpdmReq) (s : State) : Out :=
  s.spdm req 0xE9 <|
  match s.session? req.session with
  | none => s.respond (spdmError 2)
  | some x =>
      let (key, s) := s.freshKey
      .next ((s.modRot fun r => { r with sessions := Tbl.put r.sessions req.session { x with key := key } }).reply [0x69#8])

/-- END_SESSION. -/
def execEndSession (req : SpdmReq) (s : State) : Out :=
  s.spdm req 0xEC <|
  if (s.session? req.session).isNone then s.respond (spdmError 2)
  else .next ((s.modRot fun r => { r with sessions := Tbl.del r.sessions req.session }).reply [0x6C#8])

/-! ### Evidence (R408 to R410) -/

/-- Whether an enclave is RUNNING (R409). -/
def State.enclaveRuns (s : State) (eid : Nat) : Bool :=
  s.hub.threads.any (fun t => t.2.running && t.2.eid == eid)
    || s.simt.teams.any fun t =>
      (t.2.state == .waiting || t.2.state == .resident || t.2.state == .swapped) && (s.ctx (s.ctxOfTeam t.2)).eid == eid

/-- FLAGS and VERSION of an enclave as they stand (R409, R408). -/
def State.enclaveNow (s : State) (eid : Nat) (e : Enclave) : Nat × Nat :=
  let state := if s.enclaveRuns eid then 1 else if (s.part e.part).gated then 4 else 2
  let isSealed := e.queues.any fun q => (s.ctx q).state == 3 || (s.ctx q).state == 4
  (state + 8 * b01 isSealed, (e.queues.map fun q => (s.ctx q).version).foldl max 0)

/-- The root of trust records the changes of FLAGS and VERSION (R409).
[DEDUCED, log entry 85] -/
def State.observe (s : State) : State :=
  if s.hub.enclaves = [] && s.hub.rot.evidence = [] then s
  else
    let rec' : Table EvRec := s.hub.enclaves.map fun (e : Nat × Enclave) =>
      let now := s.enclaveNow e.1 e.2
      let new : EvRec := ⟨now.1, now.2, s.time e.2.part⟩
      (e.1, match Tbl.get? s.hub.rot.evidence e.1 with
        | some r => if r.flags = now.1 ∧ r.version = now.2 then r else new
        | none => new)
    s.modRot fun r => { r with evidence := rec' }

/-- The signed part of an evidence record (Table 4 of ch25). -/
def State.evidenceBody (s : State) (eid : Nat) (e : Enclave) (nonce : List Byte) : List Byte :=
  let r := Tbl.getD s.hub.rot.evidence eid ⟨0, 0, 0⟩
  leBytes 2 eid ++ leBytes 2 r.flags ++ leBytes 4 e.policy ++ e.measurement ++ nonce ++ s.hub.rot.fwDigest
    ++ leBytes 8 r.version ++ leBytes 8 r.obstime ++ s.hub.rot.idHash ++ leBytes 1 e.part ++ leBytes 103 0

/-- Whether a request for an enclave's evidence waits (R410): for a CTXSEAL of a context of it, or for an instruction that arrived
earlier and waits. -/
def State.evidenceWaits (s : State) (eid k : Nat) : Bool :=
  s.hub.threads.any fun t => (t.2.sealing.any fun x => (s.ctx x.1).eid == eid)
    || t.2.queued.any fun x => (s.ctx x.1).eid == eid && decide (x.2 < k)

/-- A request for evidence served in its turn, or again in the next ac (R410). -/
def State.evidenceAt (s : State) (k : Nat) (req : SpdmReq) : Out :=
  if s.evidenceWaits req.arg k then .next (s.at (s.ac + 1) (.evidence k req))
  else
    let s := s.observe
    match Tbl.get? s.hub.enclaves req.arg with
    | none => s.respond [1#8]
    | some e =>
      let body := s.evidenceBody req.arg e req.data
      s.respond (0#8 :: body ++ s.hub.rot.sign body)

/-- GET_ENCLAVE_EVIDENCE (R407, R408): with or without a session; `arg` is the EID and `data` the nonce. -/
def execGetEnclaveEvidence (req : SpdmReq) (s : State) : Out :=
  s.kelhel req 1 <|
    if 65536 ≤ req.arg ∨ req.data.length ≠ 32 then s.respond [3#8] else s.drawn.evidenceAt s.free req

/-! ### Pods (R411 to R413) -/

/-- A leaf, and a node (R412). -/
def podLeaf (body : List Byte) : List Byte := sha3 (0#8 :: body)
def podNode (l r : List Byte) : List Byte := sha3 (1#8 :: l ++ r)

/-- One level up: nodes paired from the left, an unpaired last one carried (R412). -/
def podUp : List (List Byte) → List (List Byte)
  | l :: r :: rest => podNode l r :: podUp rest
  | x => x

/-- The root of a list of nodes, in at most `n` levels. -/
def podRoot : Nat → List (List Byte) → List Byte
  | 0, x => x.headD []
  | _ + 1, [] => []
  | _ + 1, [x] => x
  | n + 1, x => podRoot n (podUp x)

/-- The siblings met from node `i` to the root, with their sides (R412). -/
def podPath : Nat → Nat → List (List Byte) → List (Nat × List Byte)
  | 0, _, _ => []
  | n + 1, i, x =>
    if x.length ≤ 1 then []
    else
      let here := if i % 2 = 1 then [(0, (x[i - 1]?).getD [])] else if i + 1 < x.length then [(1, (x[i + 1]?).getD [])] else []
      here ++ podPath n (i / 2) (podUp x)

/-- A member's record as the leader gathers it (R411): its own from its records; a peer's over a session with it. A peer's
answer is open; it is accepted only as R411 says.
[DEDUCED, log entry 88] -/
def State.member (s : State) (nonce : List Byte) (idh : List Byte) (eid : Nat) : Option (List Byte) × State :=
  if idh = s.hub.rot.idHash then
    ((Tbl.get? s.hub.enclaves eid).map fun e => s.evidenceBody eid e nonce, s)
  else
    match s.hub.rot.sessions.find? fun x => x.2.ready && x.2.peer == leNat idh with
    | none => (none, s)
    | some _ =>
      let rec' := cryptoOut 13 (leBytes 8 s.free ++ idh ++ leBytes 2 eid ++ nonce) 2676
      let body := rec'.take 256
      let good := s.freshBool && Config.verifies 4 idh rec' && Config.verifies 5 body (rec'.drop 256)
        && body.take 2 == leBytes 2 eid && (body.drop 40).take 32 == nonce && (body.drop 120).take 32 == idh
      (if good then some body else none, s.drawn)

/-- The members' bodies in request order, or the first that fails. -/
def State.members (s : State) (nonce : List Byte) (data : List Byte) : Nat → Nat → Except Nat (List (List Byte)) × State
  | 0, _ => (.ok [], s)
  | n + 1, i =>
    match s.member nonce ((data.drop (34 * i)).take 32) (leNat ((data.drop (34 * i + 32)).take 2)) with
    | (none, s) => (.error i, s)
    | (some b, s) =>
      match s.members nonce data n (i + 1) with
      | (.ok r, s) => (.ok (b :: r), s)
      | (.error e, s) => (.error e, s)

/-- The signed part of a pod statement (Table 5 of ch25).
[DESIGN CHOICE, log entry 23; DEDUCED, log entry 88] -/
def State.podBody (s : State) (nonce : List Byte) (bodies : List (List Byte)) : List Byte :=
  leBytes 4 0x4B504F44 ++ leBytes 2 1 ++ leBytes 2 0 ++ leBytes 4 bodies.length ++ leBytes 4 0 ++ nonce
    ++ podRoot 13 (bodies.map podLeaf) ++ s.hub.rot.idHash ++ leBytes 8 (s.time 0) ++ leBytes 8 0

/-- POD_FORM (R411 to R413): `arg` members, listed in `data` after the pod nonce. The members' answers come within 100 ms; a fifth
pod operation is BUSY (R407).
[DEDUCED, log entry 88] -/
def execPodForm (req : SpdmReq) (s : State) : Out :=
  s.kelhel req 2 <|
    if (s.session? req.session).isNone then s.respond unsupported
    else if req.arg = 0 ∨ 4096 < req.arg ∨ req.data.length ≠ 32 + 34 * req.arg then s.respond [3#8]
    else if 4 ≤ s.hub.rot.podOps then s.respond [2#8]
    else .next ((s.modRot fun r => { r with podOps := r.podOps + 1 }).laterWithin 70000000 (.podDone req))

/-- A pod formed, or refused for a member (R411 to R413). -/
def State.podDone (s : State) (req : SpdmReq) : Out :=
  let nonce := req.data.take 32
  let s := s.modRot fun r => { r with podOps := r.podOps - 1 }
  match s.observe.members nonce (req.data.drop 32) req.arg 0 with
  | (.error i, s) => s.respond (4#8 :: leBytes 2 i)
  | (.ok bodies, s) =>
    let body := s.podBody nonce bodies
    .next ((s.modRot fun r => { r with pods := (⟨nonce, bodies⟩ :: r.pods).take 64 }).reply (0#8 :: body ++ s.hub.rot.sign body))

/-- GET_POD_PATH (R412, R413): the body and path of member `arg` of the pod whose nonce is `data`. -/
def execGetPodPath (req : SpdmReq) (s : State) : Out :=
  s.kelhel req 3 <|
  if (s.session? req.session).isNone then s.respond unsupported
  else if req.data.length ≠ 32 then s.respond [3#8]
  else if 4 ≤ s.hub.rot.podOps then s.respond [2#8]
  else
    match s.hub.rot.pods.find? fun p => p.nonce == req.data with
    | none => s.respond [5#8]
    | some p =>
      match p.bodies[req.arg]? with
      | none => s.respond [3#8]
      | some b =>
        let path := podPath 13 req.arg (p.bodies.map podLeaf)
        s.respond (0#8 :: b ++ (BitVec.ofNat 8 path.length :: path.flatMap fun x => BitVec.ofNat 8 x.1 :: x.2))

/-! ### IDE and TDISP (R324) -/

/-- Whether a port has a stream (Table 10 of ch18): a PCI Express port the link stream 0 and 64 selective ones, a KFL port 1,024. -/
def streamOk (port stream : Nat) : Bool :=
  if port < 2 then decide (stream < 65) else decide (port < 18) && decide (stream < 1024)

/-- IDE_KM_REQUEST (R322, R324): within a session only; 1 programs a key, for an enclave or none, 2 puts it in use, 3 stops the
stream. The key of a KFL stream is derived from the session's (R406).
[PRESUMED, log entry 83] -/
def execIdeKmRequest (req : IdeReq) (s : State) : Out :=
  if !s.rotUp then .next s
  else if (s.session? req.session).isNone || !streamOk req.port req.stream || decide (8 ≤ req.sub) then s.respond unsupported
  else
    let k := ideKey req.port req.stream req.sub
    let key := if req.port < 2 then req.key
      else leNat (((s.session? req.session).map fun x => cryptoOut 16 (x.kflKey ++ leBytes 4 k) 32).getD [])
    match req.op with
    | 1 =>
      if req.eid ≠ 0 ∧ (Tbl.get? s.hub.enclaves req.eid).isNone = true then s.respond unsupported
      else
        .next ((s.modHub fun h => { h with
          ideKeys := Tbl.put h.ideKeys k key
          ideEid := Tbl.fset 0 h.ideEid k req.eid }).reply [1#8])
    | 2 =>
      match Tbl.get? s.hub.ideKeys k with
      | some key => .next ((s.modHub fun h => { h with
          ideKeys := Tbl.put h.ideKeys (k + 1) key
          ideEid := Tbl.fset 0 h.ideEid (k + 1) (Tbl.fget 0 h.ideEid k) }).reply [2#8])
      | none => s.respond (spdmError 4)
    | 3 => .next ((s.modHub fun h => { h with
        ideKeys := Tbl.del (Tbl.del h.ideKeys k) (k + 1)
        ideEid := Tbl.del (Tbl.del h.ideEid k) (k + 1) }).reply [3#8])
    | _ => s.respond unsupported

/-- The keys in use on a stream (1024 × port + stream). -/
def State.streamKeys (s : State) (st : Nat) : List Nat :=
  (s.hub.ideKeys.filter fun k => k.1 / 16 == st && k.1 % 2 == 1).map Prod.fst

/-- Whether a stream is selective and has a key in use. -/
def State.streamLive (s : State) (st : Nat) : Bool := (st % 1024 != 0 || decide (2048 ≤ st)) && !(s.streamKeys st).isEmpty

/-- Whether a stream's keys are those that the root of trust programmed for an enclave (R324). -/
def State.streamFor (s : State) (st eid : Nat) : Bool :=
  s.streamLive st && eid != 0 && (s.streamKeys st).all fun k => Tbl.fget 0 s.hub.ideEid k == eid

/-- A device interface. -/
def State.tdi (s : State) (t : Nat) : Tdi := Tbl.getD s.hub.tdis t ⟨0, [], 0⟩

/-- TDISP_REQUEST (R324): 1 locks an unlocked TDI, 2 starts a locked one under its nonce, 3 unlocks it, 4 binds a TDI in RUN on a
stream, 5 is an error.
[PRESUMED, log entry 83] -/
def execTdispRequest (req : TdispReq) (s : State) : Out :=
  let t := s.tdi req.tdi
  let put (x : Tdi) : Out := .next (s.modHub fun h => { h with tdis := Tbl.put h.tdis req.tdi x })
  if !s.rotUp then .next s
  else
    match req.op with
    | 1 => if t.state = 0 then
        let (n, s) := s.freshKey
        .next (s.modHub fun h => { h with tdis := Tbl.put h.tdis req.tdi ⟨1, [], n⟩ })
      else .next s
    | 2 => if t.state = 1 ∧ req.nonce = t.nonce then put { t with state := 2 } else .next s
    | 3 => put ⟨0, [], 0⟩
    | 4 => if t.state = 2 ∧ s.streamLive req.stream = true ∧ t.bound.all (fun b => b.1 != req.stream)
          ∧ (req.tdi < 256 ∨ s.streamFor req.stream req.eid = true) then
        put { t with bound := (req.stream, if req.tdi < 256 then 0 else req.eid) :: t.bound }
      else .next s
    | 5 => put { t with state := 3, bound := [] }
    | _ => .next s

/-! ### Accesses from outside (R314) -/

/-- The enclave whose access an inbound access is (R324): it arrives on a stream whose key is the enclave's, from a TDI in RUN that
is bound to it on the stream, or from a peer module. -/
def State.boundEid (s : State) (req : InboundReq) : Option Nat :=
  match req.stream with
  | none => none
  | some st =>
    let eid :=
      if req.source = 2 then (s.streamKeys st).head?.map fun k => Tbl.fget 0 s.hub.ideEid k
      else
        let t := s.tdi req.agent
        if req.source = 1 ∧ 256 ≤ req.agent ∧ t.state = 2 then (t.bound.find? fun b => b.1 == st).map Prod.snd else none
    eid.filter (s.streamFor st)

/-- Whether a request is one of a virtual function. -/
def ofVf (req : InboundReq) : Bool := req.source == 1 && decide (req.agent < 256)

/-- Whether an inbound access of a function is refused: the function is not presented on the port (R373), or its TDI is in RUN and
the access arrives on another stream than the bound one (R324). -/
def State.offStream (s : State) (req : InboundReq) : Bool :=
  let t := s.tdi req.agent
  let f := s.vf req.agent
  ofVf req &&
    (!f.enable || !(f.target == 1 || f.target == 2) || (req.stream.any fun st => st / 1024 + 1 != f.target)
      || (t.state == 2 && !(req.stream.any fun st => s.streamLive st && t.bound.any fun b => b.1 == st)))

/-- Whether an inbound access may reach a page (Table 4 of ch18). -/
def State.inboundPage (s : State) (eid : Option Nat) (page : Nat) : Bool :=
  let e := s.potOf page
  match eid with
  | some i => (e.judged == potOwned || e.judged == potShared) && e.owner == i
  | none => e.judged == potHost || e.judged == potShared

/-- Whether an inbound access may reach every page of it: as the POT says, and for a function within its partition (R390). -/
def State.inboundOk (s : State) (req : InboundReq) (n : Nat) : Bool :=
  (pagesOf req.addr n).all fun p => (s.dieOffset (4096 * p)).isSome && s.inboundPage (s.boundEid req) p
    && (!(ofVf req) || s.inPartMem (s.vf req.agent).part (4096 * p))

/-- The board manager's access over MCTP (R444): from stage 2 on it reads the first 0x40 bytes of the module block. -/
def State.mctpRead (s : State) (req : InboundReq) : State :=
  if req.write || decide (s.module.stage < 2) || decide (req.addr < hubBase + 0x1100000) || decide (hubBase + 0x1100040 < req.addr + req.len) then s
  else
    let block := (List.range 8).flatMap fun i => leBytes 8 (s.moduleWord (8 * i))
    s.modHub fun h => { h with dmaReply := (block.drop (req.addr - (hubBase + 0x1100000))).take req.len }

/-- INBOUND_DEVICE_ACCESS (R314, R324): performed where every page of it may be reached, through the gates of its rows (R382), and
discarded otherwise; a read that fails its tag returns no data (R321). A kick comes from a function's TDI in RUN on its bound
stream, to a queue of its own. A function's MSI-X table takes its masks (R375).
[DEDUCED, log entry 84] -/
def execInboundDeviceAccess (req : InboundReq) (s : State) : Out :=
  let n := if req.write then req.bytes.length else req.len
  if !s.module.on || s.offStream req then .next s
  else if req.source = 3 then .next (s.mctpRead req)
  else
    match req.msix with
    | some (e, on) => .next (if ofVf req then s.msixMask req.agent e on else s)
    | none =>
      if n = 0 then .next s
      else if inKick req.addr then
        let f := s.vf req.agent
        let q := (req.addr - kickBase) / 4096
        if req.write && ofVf req && (s.tdi req.agent).state == 2 && decide (f.qbase ≤ q) && decide (q < f.qbase + f.qcount)
            && req.addr % 4096 == 0 && n == 8 then
          .next (s.soon (.deviceWrite req.addr 8 (leNat req.bytes)))
        else .next s
      else if !s.inboundOk req n then .next (if req.write then s else s.modHub fun h => { h with dmaReply := [] })
      else
        let (s, held) := s.rowsPass 256 (.inboundAccess req) (lineAccs (linesOf req.addr n))
        if held then .next s
        else if req.write then .next (s.write req.addr req.bytes)
        else
          let s := s.meet ((s.boundEid req).getD 0) 0xFFFF req.addr n
          .next (s.modHub fun h => { h with dmaReply := if s.integ req.addr n then [] else s.bytes req.addr n })

end Sys2Proof.Machine
end

