-- ==== Sys2Proof/Machine/Mmio.lean ====
section
/-! DEFINITION. Mmio.lean: what a write to each register of the hub space and of the kick pages does (R4). A write of fewer than
8 bytes leaves the other bytes of a read-write register, and writes zero to the others of a command or W1C register. -/

namespace Sys2Proof.Machine

/-- A 64-bit register with `n` bytes from byte `o` replaced.
[DEDUCED, log entry 77] -/
def putBytes (old o n value : Nat) : Nat :=
  old - cutBytes old o n * 2 ^ (8 * o) + value % 2 ^ (8 * n) * 2 ^ (8 * o)

/-! ### Kick pages (R318) -/

/-- RSTAGE with bytes replaced. -/
def stagePut (old : List Byte) (o : Nat) (bs : List Byte) : List Byte :=
  let full := (old ++ List.replicate (64 - old.length) 0#8).take 64
  full.take o ++ bs ++ full.drop (o + bs.length)

/-- A write to a kick page (Tables 7 and 8 of ch18, R332): a KICK that is not 8 bytes is ignored, with KICKERR.
[DEDUCED, log entry 70] -/
def State.kickWrite (s : State) (a n value : Nat) : Out :=
  let q := (a - kickBase) / 4096
  let o := a % 4096
  if o < 8 then
    if n = 8 then execKick q value s
    else .next (if s.gateShut q then s else s.modQueue q fun x => { x with kickerr := true })
  else if (s.ctx q).eid = 0 then .next s
  else if 0x40 ≤ o ∧ o + n ≤ 0x80 then
    .next (s.modCtx q fun c => { c with rstage := stagePut c.rstage (o - 0x40) (leBytes n value) })
  else if 0x80 ≤ o ∧ o < 0x88 then
    let w := value % 2 ^ (8 * n) * 2 ^ (8 * (o - 0x80))
    match fieldOf w 8 2 with
    | 1 => execRcmdWrite q w s
    | 2 => execRcmdInval q w s
    | 3 => .next (s.rstat q 3)
    | _ => .next (if rcmdBad w then s.rstat q 3 else s)
  else .next s

/-! ### Hub blocks: `w` is the value written with zeros around it, `m` the register with the bytes replaced -/

/-- A queue's block (R329, R330, R331).
[DEDUCED, log entry 63; DEDUCED, log entry 64] -/
def State.queueWrite (s : State) (q off w m : Nat) : Out :=
  let x := s.queue q
  match off with
  | 0x00 => execQctlSkip q w (outState (execQctlEnable q m s) s)
  | 0x08 => .next (if x.enable then s else s.putQueue q { x with ring := m })
  | 0x10 => .next (if x.enable then s else s.putQueue q { x with log2 := m % 32 })
  | 0x28 => .next (s.putQueue q { x with
      kickerr := x.kickerr && !bitOf w 16, irqdrop := x.irqdrop && !bitOf w 17, cfgerr := x.cfgerr && !bitOf w 18 })
  | 0x40 => .next (if x.enable then s else s.putQueue q { x with spq := m % 8192 })
  | 0x48 => .next (if x.enable then s else s.putQueue q { x with vecBase := m % 4096, vecCount := fieldOf m 12 5 })
  | _ => .next s

/-- A partition's sketch store block (R346). -/
def State.sketchWrite (s : State) (p off w m : Nat) : Out :=
  if (s.part p).dies = 0 then .next s
  else
    match off with
    | 0x00 => .next (s.modPart p fun x => { x with skbuf := m })
    | 0x08 => if w % 4 = 1 then execSkcmdLoad p w s else execSkcmdUnload p w s
    | _ => .next s

/-- A context's block (R356, R363).
[DEDUCED, log entry 57] -/
def State.contextWrite (s : State) (q off w m : Nat) : Out :=
  let c := s.ctx q
  if c.eid = 0 then .next s
  else
    match off with
    | 0x00 => .next (s.putCtx q { c with swapfull := c.swapfull && !bitOf w 4 })
    | 0x10 => .next (if c.swapUsed ≠ [] || c.vacBusy then s else s.putCtx q { c with cxswap := m / 65536 * 65536 })
    | 0x18 => .next (if c.swapUsed ≠ [] || c.vacBusy then s else s.putCtx q { c with cxswapsz := m % 65536 })
    | 0x20 => .next (s.putCtx q { c with haltIrq := bitOf m 0 })
    | 0x28 => if w = 0 then execCxvacRelease q s else execCxvacClaim q w s
    | _ => .next s

/-- A trace and debug block (R426, R434). -/
def State.traceWrite (s : State) (q off w m : Nat) : Out :=
  let x := s.traceQ q
  let busy := x.trace || x.stall || x.load
  if (s.queue q).eid = 0 then .next s
  else
    match off with
    | 0x00 => execTrctlEnable q m s
    | 0x08 => .next (if busy then s else s.putTraceQ q { x with trbuf := m / 4096 * 4096 })
    | 0x10 => .next (if busy then s else s.putTraceQ q { x with trsize := m % 65536 })
    | 0x18 => .next (if busy then s else s.putTraceQ q { x with smbuf := m / 4096 * 4096 })
    | 0x20 => .next (if busy then s else s.putTraceQ q { x with smsize := m % 65536 })
    | 0x28 => .next (s.putTraceQ q { x with dropped := x.dropped && !bitOf w 8 })
    | 0x30 => s.dbgcmd q w
    | 0x40 => .next (s.putTraceQ q { x with scansel := BitVec.ofNat 64 m &&& 0x00FFFFFFFF7F37FF#64 })
    | _ => .next s

/-- A die's fault buffer (R360). -/
def State.faultWrite (s : State) (d off w : Nat) : Out :=
  match off with
  | 0x00 => .next (s.modSimt fun x => { x with
      fbOverflow := if bitOf w 16 then x.fbOverflow.filter fun i => i != d else x.fbOverflow
      fbBad := if bitOf w 17 then x.fbBad.filter fun i => i != d else x.fbBad })
  | 0x08 =>
    if fieldOf w 10 6 ≠ 0 ∨ fieldOf w 17 47 ≠ 0 then .next (s.badReplay d)
    else if bitOf w 16 then execFbreplayAbandon d (w % 1024) s
    else execFbreplayRetry d (w % 1024) s
  | _ => .next s

/-- VFCTL (R372, R373): the fields, then HARVEST, then FLR, then ENABLE.
[DEDUCED, log entry 71; DEDUCED, log entry 72] -/
def State.vfctlWrite (s : State) (v w m : Nat) : Out :=
  let f := s.vf v
  let f := if f.enable then { f with dirty := bitOf m 2 }
    else { f with dirty := bitOf m 2, part := fieldOf m 8 3, target := fieldOf m 16 2 }
  let on := f.enable
  let s := s.putVf v f
  let s := if bitOf w 3 then outState (execVfHarvest v s) s else s
  let s := if bitOf w 1 then outState (execVfFlr v s) s else s
  if bitOf m 0 && !on then execVfEnable v s else if !bitOf m 0 && on then execVfDisable v s else .next s

/-- A virtual function's block (R372, R379). -/
def State.vfWrite (s : State) (v off w m : Nat) : Out :=
  let f := s.vf v
  match off with
  | 0x00 => s.vfctlWrite v w m
  | 0x08 => .next (s.putVf v { f with cfgerr := f.cfgerr && !bitOf w 8 })
  | 0x10 => .next (if f.enable then s else s.putVf v { f with qbase := m % 4096, qcount := fieldOf m 16 13 })
  | 0x18 => .next (if f.enable then s else s.putVf v { f with vbase := m % 4096, vcount := fieldOf m 16 12 })
  | 0x28 => .next (s.putVf v { f with weight := m % 256 })
  | 0x38 => .next (if f.enable then s else s.putVf v { f with dlog := m / 4096 * 4096 })
  | 0x40 => if w % 4 = 2 then execVfqcmdImport v w s else execVfqcmdExport v w s
  | 0x48 => .next (s.putVf v { f with qbuf := m / 64 * 64 })
  | _ => .next s

/-- A vector's entry (R374, R375): a pending vector that is no longer masked is delivered. -/
def State.vectorWrite (s : State) (v off w m : Nat) : Out :=
  let x := s.vec v
  if off = 0 then
    let y : Vec := { x with mode := m % 4, mask := bitOf m 3, dest := fieldOf m 16 7, gvec := fieldOf m 32 8 }
    let s := s.putVec v y
    .next (if y.pend && !y.mask then s.soon (.vectorDelivery v) else s)
  else .next (s.putVec v { x with pend := x.pend && !bitOf w 0 })

/-- A word of a thread's virtual pending bits (R374).
[DEDUCED, log entry 75] -/
def State.pendingWrite (s : State) (t off w : Nat) : Out :=
  if 32 ≤ off then .next s
  else
    .next (s.modHub fun h => { h with vpend := h.vpend.filter fun k =>
      !(k.1 / 256 == t && k.1 % 256 / 64 == off / 8 && bitOf w (k.1 % 64)) })

/-- A partition's block (R397, R378).
[DEDUCED, log entry 87] -/
def State.partitionWrite (s : State) (p off w m : Nat) : Out :=
  let x := s.part p
  if x.dies = 0 then .next s
  else
    match off with
    | 0x00 =>
      if bitOf w 0 && x.state == 2 && !x.resetting then
        .next ((s.putPart p { x with resetting := true }).laterWithin 35000000 (.partitionReset p))
      else .next s
    | 0x08 => .next (s.putPart p { x with cfgerr := x.cfgerr && !bitOf w 2 })
    | 0x10 => execPrcfgWrite p m s
    | 0x18 => .next (s.putPart p { x with hostw := m % 256 })
    | 0x20 => .next (s.putPart p { x with hot := max 512 (m % 16384) })
    | 0x28 => .next (s.putPart p { x with tthr := m % 64 })
    | _ => .next s

/-- LENDREQ (R399): each pair's bits. -/
def State.lendWrite (s : State) (t m : Nat) : State :=
  (List.range 32).foldl (fun s i => outState (execLendreqWrite t i (fieldOf m (2 * i) 2) s) s) s

/-- A stack's block (R399). -/
def State.stackWrite (s : State) (t off w m : Nat) : Out :=
  match off with
  | 0x00 => .next (s.lendWrite t m)
  | 0x10 => .next (if bitOf w 0 then s.putHbm t { s.hbm t with lenderr := 0 } else s)
  | 0x18 => .next (s.putHbm t (if bitOf m 0 then { s.hbm t with aar := true } else { s.hbm t with aar := false, masks := [], stamps := [] }))
  | _ => .next s

/-- An error block (R419). -/
def State.errorWrite (s : State) (d off w m : Nat) : Out :=
  let b := s.errBlock d
  let put (b : ErrBlock) : Out := .next (s.modHub fun h => { h with errs := Tbl.put h.errs d b })
  match off with
  | 0x00 => put { b with ovf := b.ovf && !bitOf w 16 }
  | 0x08 => put { b with ueirq := bitOf m 0, ceirq := bitOf m 1, vec := fieldOf m 16 12 }
  | 0x10 => put { b with tail := m % 65536 }
  | _ => .next s

/-- The dump engine's block (R422). -/
def State.dumpWrite (s : State) (off w m : Nat) : Out :=
  let put (f : Dump → Dump) : Out := .next (s.modHub fun h => { h with dump := f h.dump })
  match off with
  | 0x00 => execDmpcmdStart w s
  | 0x08 => put fun d => { d with key := m }
  | 0x10 => put fun d => { d with buf := m }
  | 0x18 => put fun d => { d with size := m }
  | _ => .next s

/-- MODLIM (R444): clamped to 2,000 to 10,800 W. -/
def State.moduleWrite (s : State) (off m : Nat) : Out :=
  if off = 0x30 then .next { s with module := { s.module with limit := max 2000 (min 10800 (m % 2 ^ 32)) } } else .next s

/-- A partition's power block (R446, R449): clearing GATE powers the dies within 2 ms, and GATED clears then.
[DEDUCED, log entry 98] -/
def State.powerWrite (s : State) (p off w m : Nat) : Out :=
  if (s.part p).dies = 0 then .next s
  else if off = 0 then execPclkCapWrite p m s
  else if off = 8 then
    let s := s.modPart p fun x => { x with gerr := x.gerr && !bitOf w 2 }
    let on := (s.part p).gate
    if bitOf m 0 && !on then execPgateGate p s
    else if !bitOf m 0 && on then
      .next ((s.modPart p fun x => { x with gate := false }).laterWithin 1400000 (.pgateUngate p))
    else .next s
  else .next s

/-- A write of `n` bytes from byte `o` of a register.
[DEDUCED, log entry 77] -/
def State.hubWrite (s : State) (r : HubReg) (o n value : Nat) : Out :=
  let w := value % 2 ^ (8 * n) * 2 ^ (8 * o)
  let m := putBytes (s.hubWord r) o n value
  match r with
  | .queue q k => s.queueWrite q k w m
  | .sketches p k => s.sketchWrite p k w m
  | .context q k => s.contextWrite q k w m
  | .tracing q k => s.traceWrite q k w m
  | .faults d k => s.faultWrite d k w
  | .vf v k => s.vfWrite v k w m
  | .vector v k => s.vectorWrite v k w m
  | .pending t k => s.pendingWrite t k w
  | .partition p k => s.partitionWrite p k w m
  | .stack t k => s.stackWrite t k w m
  | .die _ _ => .next s
  | .errors d k => s.errorWrite d k w m
  | .dump k => s.dumpWrite k w m
  | .modul k => s.moduleWrite k m
  | .power p k => s.powerWrite p k w m
  | .reserved => .next s

/-- REGISTER_WRITE (R4): a write that has reached a register. -/
def execRegisterWrite (addr size value : Nat) (s : State) : Out :=
  if inKick addr then s.kickWrite addr size value
  else if inHub addr then s.hubWrite (hubReg (addr / 8 * 8)) (addr % 8) size value
  else .next s

end Sys2Proof.Machine
end

