-- ==== Sys2Proof/Machine/Predicate.lean ====
section
/-! DEFINITION. Predicate.lean: predicate instructions (R187), mode instructions (R188, R189) and lane queries (R196,
R197). -/

namespace Sys2Proof.Machine

/-- A predicate row (R187): p[d] := f p[a] p[c] in each active lane. -/
def predRow (f : W32 → W32 → W32) (x : Rrr) (s : State) : Out :=
  vecAlu s (fun _ => Spec.of x.m 1 false [codeP x.a, codeP x.c] [codeP x.d]) true fun rd =>
    .ok { RegWrites.none with p := [(x.d, rd.active, f (rd.p x.a) (rd.p x.c))] }

def execPand (x : Rrr) (s : State) : Out := predRow (fun a c => a &&& c) x s
def execPor (x : Rrr) (s : State) : Out := predRow (fun a c => a ||| c) x s
def execPxor (x : Rrr) (s : State) : Out := predRow (fun a c => a ^^^ c) x s
def execPandn (x : Rrr) (s : State) : Out := predRow (fun a c => a &&& ~~~c) x s

/-- PSET (R187): p[d] := bits [31:0] of a are not zero. -/
def execPset (x : Op2) (s : State) : Out :=
  vecAlu s (fun rd => Spec.of x.m x.len (rd.vecBad false x.a) (x.a.vCodes false) [codeP x.d]) true fun rd =>
    .ok { RegWrites.none with
      p := [(x.d, rd.active, maskWhere fun l => decide ((rd.vec false x.a l).setWidth 32 ≠ 0#32))] }

/-- PGET (R187): v(d) := 1 where p[a], else 0. -/
def execPget (x : Rr) (s : State) : Out :=
  vecAlu s (fun rd => Spec.of x.m 1 (rd.vBad false x.d) [codeP x.a] [x.d]) true fun rd =>
    .ok (laneImages rd.lanes false x.d fun l => Res.pure (BitVec.ofNat 64 (b01 (hasLane (rd.p x.a) l))))

/-! ### Mode -/

/-- A MODE write of a split: it governs from 4 ac on (R158, R189); what was wrong with the old one is gone (R417).
[DEDUCED, log entry 22] -/
def State.putMode (s : State) (gid sp : Nat) (x : W32) : State :=
  (s.modGroup gid fun g => { g with regs := g.regs.clean [3264 + sp] }).modSplit gid sp fun p =>
    { p with modeQ := p.modeQ ++ [(s.ac + 4, x)] }

/-- A MODE write of a control thread (R160). -/
def Thread.putMode (t : Thread) (x : W32) : Thread :=
  { t with mode := x, poison := Tbl.del t.poison 104, errs := Tbl.del t.errs 104 }

/-- SETMODE (R188): MODE := a[23:0]. -/
def execSetmode (x : Op1) (s : State) : Out :=
  uniBoth s true (fun _ => Spec.of x.m x.len false x.a.uCodes [])
    (fun gid sp _ _ rd => .ok (Done.plain (s.putMode gid sp (modeMask ((rd.uni x.a).setWidth 32)))))
    (fun tid _ rd => .ok (s.modThread tid fun t => t.putMode (modeMask ((rd.uni x.a).setWidth 32)), none))

/-- GETMODE (R188, R189): the MODE that governs it. -/
def execGetmode (x : R1) (s : State) : Out :=
  uniAlu s (fun rd => Spec.of x.m 1 false [rd.modeCode] [codeG x.r]) true fun rd => .ok (RegWrites.gOne x.r (rd.mode.setWidth 64))

/-- The low bit and width of MODEF's fields (Table 4 of ch09).
[DEDUCED, log entry 22] -/
def modefField (code : Nat) : Nat × Nat :=
  match code with
  | 0 => (0, 4)
  | 1 => (4, 4)
  | 2 => (8, 3)
  | 3 => (11, 1)
  | 4 => (12, 4)
  | 5 => (16, 4)
  | 6 => (20, 2)
  | _ => (22, 2)

/-- A MODE as MODEF leaves it: the named field replaced (R188); OPND for a value wider than its field. -/
def modefValue (rd : Rd) (x : ACode) (mode : W32) : Except (Nat × Nat) W32 :=
  let (lo, n) := modefField x.code
  if 2 ^ n ≤ (rd.uni x.a).toNat then .error (2, 0) else .ok (modePut mode lo n (rd.uni x.a).toNat)

/-- MODEF (R188): on a group, the field of the MODE that the writes before it leave (R189). -/
def execModef (x : ACode) (s : State) : Out :=
  uniBoth s true (fun rd => Spec.of x.m x.len false (rd.modeCode :: x.a.uCodes) [])
    (fun gid sp _ p rd =>
      match modefValue rd x (modeLast p.modeQ p.mode) with
      | .error e => .error e
      | .ok m => .ok (Done.plain (s.putMode gid sp m)))
    (fun tid _ rd =>
      match modefValue rd x rd.mode with
      | .error e => .error e
      | .ok m => .ok (s.modThread tid fun t => t.putMode m, none))

/-! ### Lane queries -/

/-- A variable-latency uniform result of a SIMT group only. -/
def simtUniVar (s : State) (spec : Rd → Spec) (f : Rd → Except (Nat × Nat) RegWrites) : Out :=
  simtOnly s spec (fun rd => rd.mask) fun gid sp _ p rd =>
    match f rd with
    | .error e => .error (Flt.plain e)
    | .ok w => .ok (Done.plain (s.putVar gid sp p.mask w))

/-- The vote of a mode over the lanes of a mask (R196). -/
def voteOf (mode : Nat) (mask bits : W32) : Bool :=
  match mode with
  | 0 => mask &&& bits == mask
  | 1 => mask &&& bits != 0#32
  | 2 => mask &&& bits == mask || mask &&& bits == 0#32
  | _ => mask &&& bits == 0#32

/-- VOTE (R196): it reads the split's mask and is not guarded. -/
def execVote (x : VoteI) (s : State) : Out :=
  simtUniVar s (fun _ => Spec.of x.m 1 false [codeP x.p] [codeQ x.q]) fun rd =>
    .ok { RegWrites.none with q := [(x.q, voteOf x.mode rd.mask (rd.p x.p))] }

/-- BALLOT (R196). -/
def execBallot (x : Rr) (s : State) : Out :=
  simtUniVar s (fun _ => Spec.of x.m 1 false [codeP x.a] [codeG x.d]) fun rd =>
    .ok (RegWrites.gOne x.d ((rd.mask &&& rd.p x.a).setWidth 64))

/-- Whether READLANE is an OPND fault at decode (R154, R156, R197). -/
def readLaneBad (rd : Rd) (x : ReadLaneI) : Bool :=
  etyBad false (modeEty rd.mode) || rd.vBad (ety64 (modeEty rd.mode)) x.a

/-- The poison that READLANE carries from the word it reads (R417). -/
def readLanePoison (g : Group) (wide : Bool) (a l d : Nat) : List (Nat × Nat) :=
  match (codesV wide a).findSome? fun r => Tbl.get? g.regs.poison (32 * r + l) with
  | some k => [(3072 + d, k)]
  | none => []

/-- READLANE (R197): the value of any lane of the group; OPND for a lane above 31. A poisoned word poisons g(d) (R417). -/
def execReadlane (x : ReadLaneI) (s : State) : Out :=
  simtOnly s
    (fun rd => Spec.of x.m x.len (readLaneBad rd x) x.c.uCodes (codeG x.d :: codesV (ety64 (modeEty rd.mode)) x.a))
    (fun rd => rd.mask) fun gid sp g p rd =>
      let l := (rd.uni x.c).toNat
      let wide := ety64 (modeEty rd.mode)
      if 31 < l then .error ⟨2, 0, none⟩
      else
        .ok (Done.plain (s.putVar gid sp p.mask { RegWrites.none with
          g := [(x.d, if wide then rd.pair x.a l else (rd.v x.a l).setWidth 64)]
          px := readLanePoison g wide x.a l x.d }))

end Sys2Proof.Machine
end

