-- ==== Sys2Proof/Machine/Publish.lean ====
section
/-! DEFINITION. Publish.lean: PUBLISH (R66, R67, R247). -/

namespace Sys2Proof.Machine

/-- The range that a PUBLISH's address names, or its fault (R247): steps 2 to 5 of R37, then PROT without W, or outside every range with
a shadow base; R36's TUPLE is not for it. -/
def State.publishRange (s : State) (q va : Nat) : Except (Nat × Nat) Nat :=
  if !canonical va then .error (6, va)
  else
    match s.rangeOf q va with
    | none =>
      match s.xlateCtx q (va / 8 * 8) 8 .write false false with
      | .error c => .error (c, va)
      | .ok _ => .error (7, va)
    | some (i, e) =>
      match s.rangeOwn (s.partOfQueue q) (s.ctx q).eid va e with
      | some c => .error (c, va)
      | none => if e.w && e.shen then .ok i else .error (7, va)

/-- A PUBLISH on its way to the range table: its release part is a flight of no path (R247).
[DESIGN CHOICE, log entry 126] -/
def State.sendPublish (s : State) (gid sp : Nat) (p : Split) (l va range scope : Nat) : State :=
  let id := s.free
  match s.group? gid with
  | none => s
  | some g =>
    let (ord, off) := p.point l
    let s := s.drawn.modGroup gid fun g => { g with
      nextFlight := g.nextFlight + 1
      flights := g.flights ++ [{ Flight.result sp p.mask RegWrites.none with
        id := g.nextFlight, kind := .reply, rel := true, scope := scope }] }
    (s.modSimt fun y => { y with
      publishes := Tbl.put y.publishes id ⟨gid, sp, g.place.ctx, range, scope, [], [], g.nextFlight, false, false, ord, off, va⟩ }).soon
        (.publishPoint id)

/-- The issue spec of PUBLISH (R247). -/
def specPublish (x : ACode) (rd : Rd) : Spec :=
  { Spec.of x.m x.len (rd.addrBad x.a) (rd.modeCodes ++ x.a.vCodes true) [] with needS := true, rkind := 1 }

/-- PUBLISH (R247): the leader lane names a range. -/
def execPublish (x : ACode) (s : State) : Out :=
  simtOnly s (specPublish x) Rd.leader fun gid sp g p rd =>
    match rd.lanes with
    | [] => .ok (Done.plain s)
    | l :: _ =>
      match s.publishRange g.place.ctx (rd.addr x.a l).toNat with
      | .error (c, v) => .error ⟨c, v, some l⟩
      | .ok i => .ok (Done.plain (s.sendPublish gid sp p l (rd.addr x.a l).toNat i x.code))

/-- Change a PUBLISH. -/
def State.modPublish (s : State) (id : Nat) (f : Publish → Publish) : State :=
  s.modSimt fun x => { x with publishes := Tbl.mod x.publishes id f }

/-- The shadowed copies into a range that have not landed, and those that have and are not published. -/
def State.shadowCopies (s : State) (q range : Nat) (landed : Bool) : List Nat :=
  (s.simt.copies.filter fun c => c.2.ctx == q && c.2.landed == landed && c.2.toPublish.contains range).map Prod.fst

/-- Whether an earlier PUBLISH of the same range is incomplete: PUBLISHes act in the order of their numbers (R247). -/
def State.behindPublish (s : State) (id : Nat) (p : Publish) : Bool :=
  s.simt.publishes.any fun o => o.2.ctx == p.ctx && o.2.range == p.range && decide (o.1 < id)

/-- A PUBLISH reaches its range table: the shadowed copies accepted until now are those that it awaits (R66). -/
def State.reachTable (s : State) (id : Nat) (p : Publish) : State :=
  if p.reached then s
  else s.modPublish id fun x => { x with reached := true, await := s.shadowCopies p.ctx p.range false }

/-- Whether a PUBLISH awaits a copy that has not landed (R66, step 1). -/
def State.publishAwaits (s : State) (p : Publish) : Bool :=
  p.await.any fun c => (Tbl.get? s.simt.copies c).any fun k => !k.landed

/-- PUBLISH_POINT (R66, steps 1 and 2; R247): the PUBLISH has reached its range table, where it is held while an earlier one of
the range is incomplete. When every copy it awaits has landed, LIVE is inverted. -/
def execPublishPoint (id : Nat) (s : State) : Out :=
  match Tbl.get? s.simt.publishes id with
  | none => .next s
  | some p =>
    let s := s.reachTable id p
    let p := (Tbl.get? s.simt.publishes id).getD p
    if p.atPoint || s.behindPublish id p || s.publishAwaits p then .next s
    else
      let covers := s.shadowCopies p.ctx p.range true
      let s := s.modPublish id fun p => { p with covers := covers, atPoint := true }
      let s := s.modCtx p.ctx fun c => { c with ranges := Tbl.mod c.ranges p.range fun r => { r with live := !r.live } }
      .next (s.laterWithin 600 (.publishComplete id))

/-- Whether a physical address lies on the side of a range that is not live. -/
def RangeEntry.onOldSide (r : RangeEntry) (pa : Nat) : Bool :=
  let b := if r.live then r.pbase else r.shbase
  let n := if r.cls = 2 then (r.limit - r.base) / 2 else r.limit - r.base
  decide (b ≤ pa) && decide (pa < b + n)

/-- Whether a flight holds an access that was translated with a range's former LIVE value. -/
def Flight.onOldSide (f : Flight) (r : RangeEntry) : Bool :=
  f.isMem && !f.done && f.acc.any fun a => a.team.isNone && decide (r.base ≤ a.va) && decide (a.va < r.limit) && r.onOldSide a.pa

/-- Whether an accepted operation's pages lie on a range's former side. -/
def MatOp.onOldSide (o : MatOp) (r : RangeEntry) : Bool :=
  o.accepted && match o.kind with
    | .gemm _ pages => pages.any fun pg => r.onOldSide pg.2.1
    | _ => false

/-- The accesses translated with a range's former LIVE value performed (R66, step 3): each in its place among those of its
group. -/
def State.performOld (s : State) (q : Nat) (r : RangeEntry) : State :=
  s.simt.groups.foldl (fun s (gid, g) =>
    if g.place.ctx ≠ q then s
    else
      let s := match (g.flights.filter fun f => f.onOldSide r).getLast? with
        | some f => s.readAfterAll gid (f.id + 1)
        | none => s
      if s.simt.ops.any fun o => o.gid == gid && o.onOldSide r then outState (execBatchComplete gid (s.runOps gid)) s else s) s

/-- PUBLISH_COMPLETE (R66, step 3): within 600 ac every access translated with the former LIVE value, and every access that its
release part covers, has been performed; the copies that it covers may be published, and the next PUBLISH of the range acts. -/
def execPublishComplete (id : Nat) (s : State) : Out :=
  match Tbl.get? s.simt.publishes id with
  | none => .next s
  | some p =>
    if !p.atPoint then .next s
    else
      let s := s.readAfterAll p.gid p.flight
      let s := ((Tbl.get? (s.ctx p.ctx).ranges p.range).map (s.performOld p.ctx)).getD s
      let s := (s.modSimt fun x => { x with publishes := Tbl.del x.publishes id }).finishFlight p.gid p.flight
      let s := p.covers.foldl (fun s c => (s.modCopy c fun k => { k with toPublish := k.toPublish.erase p.range }).soon
        (.published c)) s
      .next (s.simt.publishes.foldl (fun s o =>
        if o.2.ctx = p.ctx ∧ o.2.range = p.range then s.soon (.publishPoint o.1) else s) s)

end Sys2Proof.Machine
end

