-- ==== Sys2Proof/Machine/Agenda.lean ====
section
/-! DEFINITION. Agenda.lean: the meaning of each event under way. -/

namespace Sys2Proof.Machine

/-- Carry out an event of the agenda: the meaning of the instruction of the same name. -/
def doEvent (e : Event) (s : State) : Out :=
  match e with
  | .fixedLatencyWriteback gid => execFixedLatencyWriteback gid s
  | .variableLatencyResult gid id => execVariableLatencyResult gid id s
  | .runStart sched => execRunStart sched s
  | .runEndMerge gid sp => execRunEndMerge gid sp s
  | .groupExit gid => execGroupExit gid s
  | .teamResourceFree team => execTeamResourceFree team s
  | .teamPlacement part => execTeamPlacement part s
  | .taskComplete task => execTaskComplete task s
  | .spawnAccept gid sp => execSpawnAccept gid sp s
  | .progressSwap core => execProgressSwap core s
  | .syncEngineLineReturn line => execSyncEngineLineReturn line s
  | .atomicPerformed gid id => execAtomicPerformed gid id s
  | .storePerformed gid id => execStorePerformed gid id s
  | .copyUnitTransfer copy => execCopyUnitTransfer copy s
  | .sourceReleased copy => execSourceReleased copy s
  | .landed copy => execLanded copy s
  | .published copy => execPublished copy s
  | .deferredArrival id => execDeferredArrival id s
  | .publishPoint id => execPublishPoint id s
  | .publishComplete id => execPublishComplete id s
  | .barrierPhaseComplete bar => execBarrierPhaseComplete bar s
  | .ctrwaitWake gid sp => execCtrwaitWake gid sp s
  | .operationAcceptance id => execOperationAcceptance id s
  | .matrixPass engine => execMatrixPass engine s
  | .batchComplete gid => execBatchComplete gid s
  | .tdepServe id => execTdepServe id s
  | .tcopyServe id => execTcopyServe id s
  | .ttakeServe id => execTtakeServe id s
  | .tcancelServe id => execTcancelServe id s
  | .skidEnd queue => execSkidEnd queue s
  | .claimComplete queue => execClaimComplete queue s
  | .easelAssign die => execEaselAssign die s
  | .launchCommit queue => execLaunchCommit queue s
  | .queueWaitWake queue => execQueueWaitWake queue s
  | .scrub page => execScrub page s
  | .trapEntry thread vector => execTrapEntry thread vector s
  | .wfiWake thread => execWfiWake thread s
  | .vectorDelivery vector => execVectorDelivery vector s
  | .flrComplete vf => execFlrComplete vf s
  | .throttleRelease stack row => execThrottleRelease stack row s
  | .lendDone stack pair => .next (s.lendNext stack pair)
  | .pgateUngate part => execPgateUngate part s
  | .partitionReset part => execPartitionReset part s
  | .limitStep up => execLimitStep up s
  | .thermalStep part up => execThermalStep part up s
  | .thermalTrip => execThermalTrip s
  | .lendThermalReclaim stack pair => execLendThermalReclaim stack pair s
  | .completionTimeout req => execCompletionTimeout req s
  | .chunkFlush sched => execChunkFlush sched s
  | .lossMark sched => execLossMark sched s
  | .stallSample sched => execStallSample sched s
  | .powerOn => execPowerOn s
  | .deviceWrite addr size value => execRegisterWrite addr size value s
  | .dumpEnd => .next s.endDump
  | .rowGrant _ => .next s
  | .inboundAccess req => execInboundDeviceAccess req s
  | .evidence k req => s.evidenceAt k req
  | .podDone req => s.podDone req

/-- An event that is due: it is carried out, or waits while its context's clocks stand still (R290).
[DESIGN CHOICE, log entry 100] -/
def runEvent (e : Event) (s : State) : Out :=
  match (s.eventCtx e).filter fun q => (s.ctx q).frozen with
  | some q => .next (s.holdEvent q e)
  | none => doEvent e s

end Sys2Proof.Machine
end

