-- ==== Sys2Proof/Machine/Place.lean ====
section
/-! DEFINITION. Place.lean: a state in which a given instruction is the next that is fetched: what ECREATE, a launch, a thread start
or a sketch load would have brought about. -/

namespace Sys2Proof.Machine

/-- The address, virtual and physical, at which the words are put. -/
def placeAddr : Nat := 0x10000

/-- A placed enclave: number 1 of partition 0, with queue 0. -/
def placeEnclave : Enclave :=
  { part := 0, threads := 1, tcps := [], entry := 0, policy := 0, sketch := 1, dumpKey := [], descr := [], keySlot := 1,
    sealKey := 0, measurement := [], map := [], queues := [0], birth := 0, memKey := 0, tables := [] }

/-- A placed launch: one group of 96 v registers. -/
def placeLaunch : LaunchRec :=
  { code := placeAddr, spt := 0, spcount := 0, vregs := 96, gpt := 1, localBytes := 0, acc := 32, prio := 0, tbars := 0,
    window := 0, sqdepth := 0, stepall := false, levels := [⟨0, 0, 1, 1⟩] }

/-- A placed task record. -/
def placeTask : TaskRec := { launchAddr := 0, param := 0, aff := 0, units := 1, doneAddr := 0 }

/-- The range entry through which a placed group fetches. -/
def placeRange : RangeEntry :=
  { base := placeAddr, limit := placeAddr + 4096, pbase := placeAddr, shbase := 0, live := false, shen := false, homen := false,
    homecl := 0, cls := 0, tfmt := 0, x := true, w := true, r := true }

/-- The place of the group: core 0, scheduler 0, slot 0. -/
def placeOf : Place := { ctx := 0, task := 0, team := 0, member := 0, core := 0, sched := 0, slot := 0, top := 0, coords := [0] }

/-- The module released with the default layout, nothing under way, and an enclave with a RESIDENT context at queue 0.
[DESIGN CHOICE, log entry 1] -/
def State.placeBase (s : State) : State :=
  let s := ({ s with agenda := [] }.release defaultLayout).bootStop 6 0
  let s := s.modHub fun h => { h with
    enclaves := [(1, placeEnclave)], queues := [(0, { Queue.reset with eid := 1, sketch := 1 })] }
  s.modSimt fun x => { x with ctxs := [(0, { Ctx.reset with eid := 1, state := 1, ranges := [(0, placeRange)] })] }

/-- A group of one split at the words.
[DESIGN CHOICE, log entry 1] -/
def State.placeGroup (s : State) : State :=
  let s := s.modSimt fun x => { x with
    groups := [(0, Group.start placeOf (BitVec.ofNat 64 placeAddr))]
    teams := [(0, ⟨0, 0, .resident, 0, 0, [0], 0, [], [], [], 0⟩)]
    tasks := [(0, ⟨0, 0, placeLaunch, placeTask, [], none, 0, 1, true, none, 0, false⟩)]
    trees := [(0, ⟨0, 1, 0, 0⟩)]
    scheds := [(0, ⟨some (0, 0), none⟩)] }
  { s.putPot (placeAddr / 4096) ⟨potOwned, 1, 0, 0, 0, placeAddr / 4096, 0⟩ with turns := [.split 0 0] }

/-- A control thread at hypervisor level at the words, its tables mapping the first GiB onto itself (R40).
[DESIGN CHOICE, log entry 1] -/
def State.placeThread (s : State) : State :=
  let s := ((s.pokeNat 0x100000 8 0x10100F).pokeNat 0x101000 8 0x10200F).pokeNat 0x102000 8 0x1F
  { s.putThread 0 { Thread.reset with running := true, lvl := 2, pc := BitVec.ofNat 64 placeAddr, ptroot := 0x100000#64 } with
    turns := [.thread 0] }

/-- A packet whose sketch is the word.
[DESIGN CHOICE, log entry 1] -/
def State.placeSketch (s : State) (w : W32) : State :=
  let s := s.modHub fun h => { h with
    queues := [(0, { Queue.reset with eid := 1, sketch := 2, enable := true, log2 := 1, state := 3, pkt := some Packet.start })]
    sketches := [(2, ⟨[], List.replicate 3 0#32 ++ [16#32] ++ List.replicate 4 0#32 ++ [w]⟩)] }
  { s with turns := [.easel 0] }

/-- Whether the Amitia decoder takes the words. -/
def isAmitia (w : Nat) : Bool :=
  match decode [tableWord w 0, tableWord w 1, tableWord w 2, tableWord w 3] with
  | .ok _ => true
  | .error _ => false

/-- The state with the words of `w` where the next step fetches.
[DESIGN CHOICE, log entry 1] -/
def State.placeWord (s : State) (w : Nat) : State :=
  let s := s.placeBase
  let code := s.poke placeAddr (leBytes 16 w)
  let u := bitOf w 28
  let op := fieldOf w 21 7
  if isAmitia w then (if undefSimt u op then code.placeThread else code.placeGroup)
  else if (decodeSketch (tableWord w 0)).isSome then s.placeSketch (tableWord w 0)
  else code.placeGroup

end Sys2Proof.Machine
end

