-- ==== Sys2Proof/Machine/Dispatch.lean ====
section
/-! DEFINITION. Dispatch.lean: one arm for each constructor of `Instr`. -/

namespace Sys2Proof.Machine

/-- Run one instruction. -/
def exec (i : Instr) (s : State) : Host.Outcome State Fault Refusal :=
  match i with
  | .iadd x => Sys2Proof.Machine.execIadd x s
  | .isub x => Sys2Proof.Machine.execIsub x s
  | .imul x => Sys2Proof.Machine.execImul x s
  | .imulh x => Sys2Proof.Machine.execImulh x s
  | .imad x => Sys2Proof.Machine.execImad x s
  | .imin x => Sys2Proof.Machine.execImin x s
  | .imax x => Sys2Proof.Machine.execImax x s
  | .iabs x => Sys2Proof.Machine.execIabs x s
  | .ineg x => Sys2Proof.Machine.execIneg x s
  | .andV x => Sys2Proof.Machine.execAndV x s
  | .orV x => Sys2Proof.Machine.execOrV x s
  | .xorV x => Sys2Proof.Machine.execXorV x s
  | .andn x => Sys2Proof.Machine.execAndn x s
  | .notV x => Sys2Proof.Machine.execNotV x s
  | .shl x => Sys2Proof.Machine.execShl x s
  | .shr x => Sys2Proof.Machine.execShr x s
  | .sar x => Sys2Proof.Machine.execSar x s
  | .rotl x => Sys2Proof.Machine.execRotl x s
  | .bfx x => Sys2Proof.Machine.execBfx x s
  | .bfi x => Sys2Proof.Machine.execBfi x s
  | .popc x => Sys2Proof.Machine.execPopc x s
  | .clz x => Sys2Proof.Machine.execClz x s
  | .ctz x => Sys2Proof.Machine.execCtz x s
  | .brev x => Sys2Proof.Machine.execBrev x s
  | .idp4 x => Sys2Proof.Machine.execIdp4 x s
  | .idiv x => Sys2Proof.Machine.execIdiv x s
  | .irem x => Sys2Proof.Machine.execIrem x s
  | .mov x => Sys2Proof.Machine.execMov x s
  | .sel x => Sys2Proof.Machine.execSel x s
  | .icmp x => Sys2Proof.Machine.execIcmp x s
  | .mulw x => Sys2Proof.Machine.execMulw x s
  | .prmt x => Sys2Proof.Machine.execPrmt x s
  | .iaddU x => Sys2Proof.Machine.execIaddU x s
  | .isubU x => Sys2Proof.Machine.execIsubU x s
  | .imulU x => Sys2Proof.Machine.execImulU x s
  | .imulhU x => Sys2Proof.Machine.execImulhU x s
  | .imadU x => Sys2Proof.Machine.execImadU x s
  | .iminU x => Sys2Proof.Machine.execIminU x s
  | .imaxU x => Sys2Proof.Machine.execImaxU x s
  | .iabsU x => Sys2Proof.Machine.execIabsU x s
  | .inegU x => Sys2Proof.Machine.execInegU x s
  | .andU x => Sys2Proof.Machine.execAndU x s
  | .orU x => Sys2Proof.Machine.execOrU x s
  | .xorU x => Sys2Proof.Machine.execXorU x s
  | .andnU x => Sys2Proof.Machine.execAndnU x s
  | .notU x => Sys2Proof.Machine.execNotU x s
  | .shlU x => Sys2Proof.Machine.execShlU x s
  | .shrU x => Sys2Proof.Machine.execShrU x s
  | .sarU x => Sys2Proof.Machine.execSarU x s
  | .rotlU x => Sys2Proof.Machine.execRotlU x s
  | .bfxU x => Sys2Proof.Machine.execBfxU x s
  | .bfiU x => Sys2Proof.Machine.execBfiU x s
  | .popcU x => Sys2Proof.Machine.execPopcU x s
  | .clzU x => Sys2Proof.Machine.execClzU x s
  | .ctzU x => Sys2Proof.Machine.execCtzU x s
  | .brevU x => Sys2Proof.Machine.execBrevU x s
  | .movU x => Sys2Proof.Machine.execMovU x s
  | .icmpU x => Sys2Proof.Machine.execIcmpU x s
  | .fadd x => Sys2Proof.Machine.execFadd x s
  | .fsub x => Sys2Proof.Machine.execFsub x s
  | .fmul x => Sys2Proof.Machine.execFmul x s
  | .ffma x => Sys2Proof.Machine.execFfma x s
  | .fmin x => Sys2Proof.Machine.execFmin x s
  | .fmax x => Sys2Proof.Machine.execFmax x s
  | .fabs x => Sys2Proof.Machine.execFabs x s
  | .fneg x => Sys2Proof.Machine.execFneg x s
  | .fcmp x => Sys2Proof.Machine.execFcmp x s
  | .frcp x => Sys2Proof.Machine.execFrcp x s
  | .frsq x => Sys2Proof.Machine.execFrsq x s
  | .fsqrt x => Sys2Proof.Machine.execFsqrt x s
  | .fexp2 x => Sys2Proof.Machine.execFexp2 x s
  | .flog2 x => Sys2Proof.Machine.execFlog2 x s
  | .fsin x => Sys2Proof.Machine.execFsin x s
  | .fcos x => Sys2Proof.Machine.execFcos x s
  | .fdiv x => Sys2Proof.Machine.execFdiv x s
  | .frnd x => Sys2Proof.Machine.execFrnd x s
  | .fclass x => Sys2Proof.Machine.execFclass x s
  | .fdot2 x => Sys2Proof.Machine.execFdot2 x s
  | .cvt x => Sys2Proof.Machine.execCvt x s
  | .cvtpk x => Sys2Proof.Machine.execCvtpk x s
  | .cvtn8 x => Sys2Proof.Machine.execCvtn8 x s
  | .cvtn4 x => Sys2Proof.Machine.execCvtn4 x s
  | .cvtw x => Sys2Proof.Machine.execCvtw x s
  | .pack6 x => Sys2Proof.Machine.execPack6 x s
  | .unpk6 x => Sys2Proof.Machine.execUnpk6 x s
  | .mxsc x => Sys2Proof.Machine.execMxsc x s
  | .cmpr24 x => Sys2Proof.Machine.execCmpr24 x s
  | .srseed x => Sys2Proof.Machine.execSrseed x s
  | .shfl x => Sys2Proof.Machine.execShfl x s
  | .shflx x => Sys2Proof.Machine.execShflx x s
  | .shflup x => Sys2Proof.Machine.execShflup x s
  | .shfldn x => Sys2Proof.Machine.execShfldn x s
  | .redadd x => Sys2Proof.Machine.execRedadd x s
  | .redmin x => Sys2Proof.Machine.execRedmin x s
  | .redmax x => Sys2Proof.Machine.execRedmax x s
  | .redand x => Sys2Proof.Machine.execRedand x s
  | .redor x => Sys2Proof.Machine.execRedor x s
  | .redxor x => Sys2Proof.Machine.execRedxor x s
  | .minidx x => Sys2Proof.Machine.execMinidx x s
  | .maxidx x => Sys2Proof.Machine.execMaxidx x s
  | .scanadd x => Sys2Proof.Machine.execScanadd x s
  | .matchV x => Sys2Proof.Machine.execMatchV x s
  | .ld x => Sys2Proof.Machine.execLd x s
  | .st x => Sys2Proof.Machine.execSt x s
  | .ldl x => Sys2Proof.Machine.execLdl x s
  | .stl x => Sys2Proof.Machine.execStl x s
  | .ldl4 x => Sys2Proof.Machine.execLdl4 x s
  | .stl4 x => Sys2Proof.Machine.execStl4 x s
  | .gld x => Sys2Proof.Machine.execGld x s
  | .gst x => Sys2Proof.Machine.execGst x s
  | .ldacq x => Sys2Proof.Machine.execLdacq x s
  | .strel x => Sys2Proof.Machine.execStrel x s
  | .stnt x => Sys2Proof.Machine.execStnt x s
  | .pref x => Sys2Proof.Machine.execPref x s
  | .atomv x => Sys2Proof.Machine.execAtomv x s
  | .redv x => Sys2Proof.Machine.execRedv x s
  | .acrd x => Sys2Proof.Machine.execAcrd x s
  | .acwr x => Sys2Proof.Machine.execAcwr x s
  | .pand x => Sys2Proof.Machine.execPand x s
  | .por x => Sys2Proof.Machine.execPor x s
  | .pxor x => Sys2Proof.Machine.execPxor x s
  | .pandn x => Sys2Proof.Machine.execPandn x s
  | .pset x => Sys2Proof.Machine.execPset x s
  | .pget x => Sys2Proof.Machine.execPget x s
  | .cpy x => Sys2Proof.Machine.execCpy x s
  | .publish x => Sys2Proof.Machine.execPublish x s
  | .mma x => Sys2Proof.Machine.execMma x s
  | .bra x => Sys2Proof.Machine.execBra x s
  | .brq x => Sys2Proof.Machine.execBrq x s
  | .brv x => Sys2Proof.Machine.execBrv x s
  | .jmpi x => Sys2Proof.Machine.execJmpi x s
  | .call x => Sys2Proof.Machine.execCall x s
  | .calli x => Sys2Proof.Machine.execCalli x s
  | .ret x => Sys2Proof.Machine.execRet x s
  | .exit x => Sys2Proof.Machine.execExit x s
  | .join x => Sys2Proof.Machine.execJoin x s
  | .yield x => Sys2Proof.Machine.execYield x s
  | .trap x => Sys2Proof.Machine.execTrap x s
  | .bkpt x => Sys2Proof.Machine.execBkpt x s
  | .spawn x => Sys2Proof.Machine.execSpawn x s
  | .readlane x => Sys2Proof.Machine.execReadlane x s
  | .vote x => Sys2Proof.Machine.execVote x s
  | .ballot x => Sys2Proof.Machine.execBallot x s
  | .setmode x => Sys2Proof.Machine.execSetmode x s
  | .getmode x => Sys2Proof.Machine.execGetmode x s
  | .modef x => Sys2Proof.Machine.execModef x s
  | .waitc x => Sys2Proof.Machine.execWaitc x s
  | .mfence x => Sys2Proof.Machine.execMfence x s
  | .mwait x => Sys2Proof.Machine.execMwait x s
  | .fence x => Sys2Proof.Machine.execFence x s
  | .ntdrain x => Sys2Proof.Machine.execNtdrain x s
  | .bararr x => Sys2Proof.Machine.execBararr x s
  | .barwait x => Sys2Proof.Machine.execBarwait x s
  | .barsync x => Sys2Proof.Machine.execBarsync x s
  | .bardef x => Sys2Proof.Machine.execBardef x s
  | .ctradd x => Sys2Proof.Machine.execCtradd x s
  | .ctrwait x => Sys2Proof.Machine.execCtrwait x s
  | .sread x => Sys2Proof.Machine.execSread x s
  | .swrite x => Sys2Proof.Machine.execSwrite x s
  | .ldu x => Sys2Proof.Machine.execLdu x s
  | .stu x => Sys2Proof.Machine.execStu x s
  | .atom x => Sys2Proof.Machine.execAtom x s
  | .redu x => Sys2Proof.Machine.execRedu x s
  | .lduacq x => Sys2Proof.Machine.execLduacq x s
  | .sturel x => Sys2Proof.Machine.execSturel x s
  | .mmag x => Sys2Proof.Machine.execMmag x s
  | .msetaux x => Sys2Proof.Machine.execMsetaux x s
  | .aczero x => Sys2Proof.Machine.execAczero x s
  | .accpy x => Sys2Proof.Machine.execAccpy x s
  | .cbdrain x => Sys2Proof.Machine.execCbdrain x s
  | .cbsave x => Sys2Proof.Machine.execCbsave x s
  | .cbload x => Sys2Proof.Machine.execCbload x s
  | .cbmerge x => Sys2Proof.Machine.execCbmerge x s
  | .cbclr x => Sys2Proof.Machine.execCbclr x s
  | .cbdrainw x => Sys2Proof.Machine.execCbdrainw x s
  | .tdep x => Sys2Proof.Machine.execTdep x s
  | .tcopy x => Sys2Proof.Machine.execTcopy x s
  | .ttake x => Sys2Proof.Machine.execTtake x s
  | .tcancel x => Sys2Proof.Machine.execTcancel x s
  | .ecreate x => Sys2Proof.Machine.execEcreate x s
  | .eenter x => Sys2Proof.Machine.execEenter x s
  | .eexit x => Sys2Proof.Machine.execEexit x s
  | .edestroy x => Sys2Proof.Machine.execEdestroy x s
  | .pgassign x => Sys2Proof.Machine.execPgassign x s
  | .pgseal x => Sys2Proof.Machine.execPgseal x s
  | .pgunseal x => Sys2Proof.Machine.execPgunseal x s
  | .ctxseal x => Sys2Proof.Machine.execCtxseal x s
  | .ctxcommit x => Sys2Proof.Machine.execCtxcommit x s
  | .ctxload x => Sys2Proof.Machine.execCtxload x s
  | .tlbiAll x => Sys2Proof.Machine.execTlbiAll x s
  | .tlbiPage x => Sys2Proof.Machine.execTlbiPage x s
  | .tlbiSpace x => Sys2Proof.Machine.execTlbiSpace x s
  | .syscall x => Sys2Proof.Machine.execSyscall x s
  | .hvcall x => Sys2Proof.Machine.execHvcall x s
  | .eret x => Sys2Proof.Machine.execEret x s
  | .wfi x => Sys2Proof.Machine.execWfi x s
  | .corerst x => Sys2Proof.Machine.execCorerst x s
  | .partctlQuiesce x => Sys2Proof.Machine.execPartctlQuiesce x s
  | .partctlWriteilv x => Sys2Proof.Machine.execPartctlWriteilv x s
  | .partctlWritebnd x => Sys2Proof.Machine.execPartctlWritebnd x s
  | .partctlShoot x => Sys2Proof.Machine.execPartctlShoot x s
  | .partctlResume x => Sys2Proof.Machine.execPartctlResume x s
  | .freeze x => Sys2Proof.Machine.execFreeze x s
  | .ctxabort x => Sys2Proof.Machine.execCtxabort x s
  | .sketchNop x => Sys2Proof.Machine.execSketchNop x s
  | .sketchMovi x => Sys2Proof.Machine.execSketchMovi x s
  | .sketchAdd x => Sys2Proof.Machine.execSketchAdd x s
  | .sketchSub x => Sys2Proof.Machine.execSketchSub x s
  | .sketchAnd x => Sys2Proof.Machine.execSketchAnd x s
  | .sketchOr x => Sys2Proof.Machine.execSketchOr x s
  | .sketchShl x => Sys2Proof.Machine.execSketchShl x s
  | .sketchShr x => Sys2Proof.Machine.execSketchShr x s
  | .sketchMask x => Sys2Proof.Machine.execSketchMask x s
  | .sketchCmp x => Sys2Proof.Machine.execSketchCmp x s
  | .sketchSel x => Sys2Proof.Machine.execSketchSel x s
  | .sketchBeq x => Sys2Proof.Machine.execSketchBeq x s
  | .sketchBne x => Sys2Proof.Machine.execSketchBne x s
  | .sketchLoop x => Sys2Proof.Machine.execSketchLoop x s
  | .sketchEndl x => Sys2Proof.Machine.execSketchEndl x s
  | .sketchLdq x => Sys2Proof.Machine.execSketchLdq x s
  | .sketchLdreg x => Sys2Proof.Machine.execSketchLdreg x s
  | .sketchStreg x => Sys2Proof.Machine.execSketchStreg x s
  | .sketchLaunch x => Sys2Proof.Machine.execSketchLaunch x s
  | .sketchSignal x => Sys2Proof.Machine.execSketchSignal x s
  | .sketchWait x => Sys2Proof.Machine.execSketchWait x s
  | .sketchIrq x => Sys2Proof.Machine.execSketchIrq x s
  | .sketchDone x => Sys2Proof.Machine.execSketchDone x s
  | .sketchDrop x => Sys2Proof.Machine.execSketchDrop x s
  | .sketchFault x => Sys2Proof.Machine.execSketchFault x s
  | .fixedLatencyWriteback gid => Sys2Proof.Machine.execFixedLatencyWriteback gid s
  | .variableLatencyResult gid id => Sys2Proof.Machine.execVariableLatencyResult gid id s
  | .runStart sched => Sys2Proof.Machine.execRunStart sched s
  | .runEndMerge gid sp => Sys2Proof.Machine.execRunEndMerge gid sp s
  | .groupExit gid => Sys2Proof.Machine.execGroupExit gid s
  | .teamResourceFree team => Sys2Proof.Machine.execTeamResourceFree team s
  | .teamPlacement part => Sys2Proof.Machine.execTeamPlacement part s
  | .taskComplete task => Sys2Proof.Machine.execTaskComplete task s
  | .spawnAccept gid sp => Sys2Proof.Machine.execSpawnAccept gid sp s
  | .progressSwap core => Sys2Proof.Machine.execProgressSwap core s
  | .syncEngineLineReturn line => Sys2Proof.Machine.execSyncEngineLineReturn line s
  | .atomicPerformed gid id => Sys2Proof.Machine.execAtomicPerformed gid id s
  | .storePerformed gid id => Sys2Proof.Machine.execStorePerformed gid id s
  | .fbreplayRetry die index => Sys2Proof.Machine.execFbreplayRetry die index s
  | .fbreplayAbandon die index => Sys2Proof.Machine.execFbreplayAbandon die index s
  | .copyUnitTransfer copy => Sys2Proof.Machine.execCopyUnitTransfer copy s
  | .sourceReleased copy => Sys2Proof.Machine.execSourceReleased copy s
  | .landed copy => Sys2Proof.Machine.execLanded copy s
  | .published copy => Sys2Proof.Machine.execPublished copy s
  | .deferredArrival id => Sys2Proof.Machine.execDeferredArrival id s
  | .publishPoint id => Sys2Proof.Machine.execPublishPoint id s
  | .publishComplete id => Sys2Proof.Machine.execPublishComplete id s
  | .barrierPhaseComplete bar => Sys2Proof.Machine.execBarrierPhaseComplete bar s
  | .ctrwaitWake gid sp => Sys2Proof.Machine.execCtrwaitWake gid sp s
  | .operationAcceptance id => Sys2Proof.Machine.execOperationAcceptance id s
  | .matrixPass engine => Sys2Proof.Machine.execMatrixPass engine s
  | .batchComplete gid => Sys2Proof.Machine.execBatchComplete gid s
  | .tdepServe id => Sys2Proof.Machine.execTdepServe id s
  | .tcopyServe id => Sys2Proof.Machine.execTcopyServe id s
  | .ttakeServe id => Sys2Proof.Machine.execTtakeServe id s
  | .tcancelServe id => Sys2Proof.Machine.execTcancelServe id s
  | .skidEnd queue => Sys2Proof.Machine.execSkidEnd queue s
  | .cxvacClaim queue n => Sys2Proof.Machine.execCxvacClaim queue n s
  | .cxvacRelease queue => Sys2Proof.Machine.execCxvacRelease queue s
  | .claimComplete queue => Sys2Proof.Machine.execClaimComplete queue s
  | .kick queue value => Sys2Proof.Machine.execKick queue value s
  | .qctlEnable queue value => Sys2Proof.Machine.execQctlEnable queue value s
  | .qctlSkip queue value => Sys2Proof.Machine.execQctlSkip queue value s
  | .easelAssign die => Sys2Proof.Machine.execEaselAssign die s
  | .launchCommit queue => Sys2Proof.Machine.execLaunchCommit queue s
  | .queueWaitWake queue => Sys2Proof.Machine.execQueueWaitWake queue s
  | .rcmdWrite queue value => Sys2Proof.Machine.execRcmdWrite queue value s
  | .rcmdInval queue value => Sys2Proof.Machine.execRcmdInval queue value s
  | .skcmdLoad part value => Sys2Proof.Machine.execSkcmdLoad part value s
  | .skcmdUnload part value => Sys2Proof.Machine.execSkcmdUnload part value s
  | .scrub page => Sys2Proof.Machine.execScrub page s
  | .trapEntry thread vector => Sys2Proof.Machine.execTrapEntry thread vector s
  | .wfiWake thread => Sys2Proof.Machine.execWfiWake thread s
  | .vectorDelivery vector => Sys2Proof.Machine.execVectorDelivery vector s
  | .vfEnable vf => Sys2Proof.Machine.execVfEnable vf s
  | .vfDisable vf => Sys2Proof.Machine.execVfDisable vf s
  | .vfFlr vf => Sys2Proof.Machine.execVfFlr vf s
  | .flrComplete vf => Sys2Proof.Machine.execFlrComplete vf s
  | .vfHarvest vf => Sys2Proof.Machine.execVfHarvest vf s
  | .vfqcmdExport vf value => Sys2Proof.Machine.execVfqcmdExport vf value s
  | .vfqcmdImport vf value => Sys2Proof.Machine.execVfqcmdImport vf value s
  | .partitionReset part => Sys2Proof.Machine.execPartitionReset part s
  | .prcfgWrite part value => Sys2Proof.Machine.execPrcfgWrite part value s
  | .lendreqWrite stack pair value => Sys2Proof.Machine.execLendreqWrite stack pair value s
  | .lendReclaim stack pair => Sys2Proof.Machine.execLendReclaim stack pair s
  | .lendThermalReclaim stack pair => Sys2Proof.Machine.execLendThermalReclaim stack pair s
  | .refresh stack row => Sys2Proof.Machine.execRefresh stack row s
  | .throttleRelease stack row => Sys2Proof.Machine.execThrottleRelease stack row s
  | .patrol stack line => Sys2Proof.Machine.execPatrol stack line s
  | .keySwitch link dir => Sys2Proof.Machine.execKeySwitch link dir s
  | .linkRetransmit link dir => Sys2Proof.Machine.execLinkRetransmit link dir s
  | .uncorrectableControlError die owners kind => Sys2Proof.Machine.execUncorrectableControlError die owners kind s
  | .dmpcmdStart value => Sys2Proof.Machine.execDmpcmdStart value s
  | .firmwareActivation image => Sys2Proof.Machine.execFirmwareActivation image s
  | .getVersion req => Sys2Proof.Machine.execGetVersion req s
  | .getCapabilities req => Sys2Proof.Machine.execGetCapabilities req s
  | .negotiateAlgorithms req => Sys2Proof.Machine.execNegotiateAlgorithms req s
  | .getDigests req => Sys2Proof.Machine.execGetDigests req s
  | .getCertificate req => Sys2Proof.Machine.execGetCertificate req s
  | .challenge req => Sys2Proof.Machine.execChallenge req s
  | .getMeasurements req => Sys2Proof.Machine.execGetMeasurements req s
  | .keyExchange req => Sys2Proof.Machine.execKeyExchange req s
  | .finish req => Sys2Proof.Machine.execFinish req s
  | .heartbeat req => Sys2Proof.Machine.execHeartbeat req s
  | .keyUpdate req => Sys2Proof.Machine.execKeyUpdate req s
  | .endSession req => Sys2Proof.Machine.execEndSession req s
  | .getEnclaveEvidence req => Sys2Proof.Machine.execGetEnclaveEvidence req s
  | .podForm req => Sys2Proof.Machine.execPodForm req s
  | .getPodPath req => Sys2Proof.Machine.execGetPodPath req s
  | .trctlEnable queue value => Sys2Proof.Machine.execTrctlEnable queue value s
  | .chunkFlush sched => Sys2Proof.Machine.execChunkFlush sched s
  | .lossMark sched => Sys2Proof.Machine.execLossMark sched s
  | .stallSample sched => Sys2Proof.Machine.execStallSample sched s
  | .stepon gid => Sys2Proof.Machine.execStepon gid s
  | .stepoff gid => Sys2Proof.Machine.execStepoff gid s
  | .goStep gid => Sys2Proof.Machine.execGoStep gid s
  | .powerOn => Sys2Proof.Machine.execPowerOn s
  | .limitStep up => Sys2Proof.Machine.execLimitStep up s
  | .thermalStep part up => Sys2Proof.Machine.execThermalStep part up s
  | .thermalTrip => Sys2Proof.Machine.execThermalTrip s
  | .pgateGate part => Sys2Proof.Machine.execPgateGate part s
  | .pgateUngate part => Sys2Proof.Machine.execPgateUngate part s
  | .registerWrite addr size value => Sys2Proof.Machine.execRegisterWrite addr size value s
  | .undefOpcode word => Sys2Proof.Machine.execUndefOpcode word s
  | .inboundDeviceAccess req => Sys2Proof.Machine.execInboundDeviceAccess req s
  | .tdispRequest req => Sys2Proof.Machine.execTdispRequest req s
  | .ideKmRequest req => Sys2Proof.Machine.execIdeKmRequest req s
  | .completionTimeout req => Sys2Proof.Machine.execCompletionTimeout req s
  | .modulePowerOff => Sys2Proof.Machine.execModulePowerOff s
  | .threadStart thread lvl pc => Sys2Proof.Machine.execThreadStart thread lvl pc s
  | .firmwareStaging req => Sys2Proof.Machine.execFirmwareStaging req s
  | .pclkCapWrite part value => Sys2Proof.Machine.execPclkCapWrite part value s

end Sys2Proof.Machine
end

