-- ==== Sys2Proof/Machine/Turns.lean ====
section
/-! DEFINITION. Turns.lean: the turn of each agent (R162 to R167, R335), and the clock's tick to the next ac. -/

namespace Sys2Proof.Machine

/-- A split whose run its scheduler issues and whose context runs. -/
def State.mayIssue (s : State) (gid sp : Nat) (g : Group) : Bool :=
  s.ctxRuns g.place.ctx && ((Tbl.get? s.simt.scheds g.place.schedNo).map Sched.cur == some (some (gid, sp)))

/-- The turn of a split: fetch, decode, issue (R162 to R167). -/
def State.turnSimt (s : State) (gid sp : Nat) : Out :=
  match s.group? gid with
  | none => .next s.pop
  | some g =>
    match g.split? sp with
    | none => .next s.pop
    | some p =>
      let q := g.place.ctx
      if !s.mayIssue gid sp g then .next s.pop
      else
        match s.fetchSimt q p.pc.toNat with
        | .error c => .next (s.issueFault gid sp g 3 c p.pc.toNat)
        | .ok base =>
          let u := bitOf base.toNat 28
          let op := fieldOf base.toNat 21 7
          let m : Marks := ⟨bitOf base.toNat 31, bitOf base.toNat 30, bitOf base.toNat 29⟩
          if undefSimt u op then execUndefOpcode base s
          else
            match fetchWords (s.fetchSimt q) p.pc.toNat (min 4 (wordCount base)) with
            | .error (c, a) => .next (s.issueFault gid sp g 3 c a)
            | .ok ws =>
              match decode ws with
              | .ok (i, _) => exec i s
              | .error _ => .next (s.simtFault gid sp (if rawRunBad u op m p.run then 3 else 2) 0)

/-- The level that an instruction asks for by its base word (R167): its own, or that of the register an SREAD or SWRITE names. -/
def wordLevel (base : W32) : Nat :=
  let op := fieldOf base.toNat 21 7
  let sr := fieldOf base.toNat 0 7
  if bitOf base.toNat 28 && (op == 0x3E || op == 0x3F) && srAssigned sr then sprLevel sr else opLevel op

/-- The turn of a control thread: fetch, decode, issue (R160, R165, R167). -/
def State.turnThread (s : State) (tid : Nat) : Out :=
  let t := s.thread tid
  if !t.running || t.wfi || t.wait.isSome || t.tupleWait.isSome then .next s.pop
  else
    let s := s.tlbFill t (s.partOfThread tid) t.pc.toNat
    match s.fetchThread tid t.pc.toNat with
    | .error c => .next ((s.logThread tid c t.pc.toNat).threadFault tid c t.pc.toNat)
    | .ok base =>
      let u := bitOf base.toNat 28
      let op := fieldOf base.toNat 21 7
      if undefThread u op then execUndefOpcode base s
      else
        match fetchWords (s.fetchThread tid) t.pc.toNat (min 4 (wordCount base)) with
        | .error (c, a) => .next ((s.logThread tid c a).threadFault tid c a)
        | .ok ws =>
          if t.lvl < wordLevel base then .next (s.threadFault tid 5 0)
          else
            match decode ws with
            | .ok (i, _) => exec i s
            | .error _ => .next (s.threadFault tid 2 0)

/-- The turn of an Easel context: the next word of its packet's sketch (R335, R338). -/
def State.turnEasel (s : State) (q : Nat) : Out :=
  let x := s.queue q
  match x.pkt with
  | none => .next s.pop
  | some k =>
    if x.state ≠ 3 || k.commit.isSome then .next s.pop
    else
      match (s.sketch? (s.partOfQueue q) x.sketch).bind fun c => (c.words[8 + k.pc]?).bind decodeSketch with
      | some i => exec i s
      | none => .next (s.pop.queueFault q 8)

/-- Events that come after the turns of their ac: a stall sample sees what has issued in it (R433). -/
def Event.late : Event → Bool
  | .stallSample _ => true
  | _ => false

/-- The first event that is due, and the agenda without it; a late one is due once the turns are over.
[DESIGN CHOICE, log entry 11] -/
def takeDue (ac : Nat) (idle : Bool) : List (Nat × Event) → Option (Event × List (Nat × Event))
  | [] => none
  | (d, e) :: r =>
    if d ≤ ac ∧ (idle || !e.late) = true then some (e, r)
    else match takeDue ac idle r with
      | none => none
      | some (e', r') => some (e', (d, e) :: r')

/-- The schedulers that have a group and no run. -/
def State.idleScheds (s : State) : List Nat :=
  ((s.simt.groups.map fun p => p.2.place.schedNo).dedup).filter fun k =>
    !((Tbl.get? s.simt.scheds k).bind Sched.cur).isSome

/-- The partition of a scheduler. -/
def State.partOfSched (s : State) (k : Nat) : Nat := s.partOfDie (dieOfCore (k / 4))

/-- The control threads that issue.
[DESIGN CHOICE, log entry 47] -/
def State.threadTurns (s : State) : List Agent :=
  (s.hub.threads.filter fun p => p.2.running && !p.2.wfi && p.2.wait.isNone && p.2.tupleWait.isNone).map
    fun p => Agent.thread p.1

/-- The Easel contexts that run an operation. -/
def State.easelTurns (s : State) : List Agent :=
  (s.hub.queues.filter fun p => p.2.state == 3 && (p.2.pkt.map fun k => k.commit.isNone) == some true).map fun p => Agent.easel p.1

/-- The agents that issue in an ac: the runs of the schedulers whose clock ticks, the control threads, and the Easel contexts,
whose clock is twice as fast (R335).
[DESIGN CHOICE, log entry 11] -/
def State.agents (s : State) (slow : List Nat) : List Agent :=
  (s.simt.scheds.filterMap fun p => if slow.contains (s.partOfSched p.1) then none else p.2.cur.map fun c => Agent.split c.1 c.2)
    ++ s.threadTurns ++ s.easelTurns ++ s.easelTurns

/-! ### What hardware begins of itself at an ac -/

/-- Interrupts that threads take, and waits that they end (R375, R275). -/
def State.threadEvents (s : State) : List Event :=
  s.hub.threads.filterMap fun t =>
    if t.2.wfi then (if s.interruptPending t.1 then some (.wfiWake t.1) else none)
    else if s.interruptible t.1 then (s.interruptOf t.1).map fun v => Event.trapEntry t.1 v
    else none

/-- The clock's periods of 100 µs and 1 ms (R447, R448), and the thermal trip.
[DEDUCED, log entry 97] -/
def State.clockEvents (s : State) : List Event :=
  let every (n : Nat) (up : Bool) : List Event :=
    if s.ac % n = 0 then Event.limitStep up :: s.parts.map fun p => Event.thermalStep p.1 up else []
  every 70000 false ++ every 700000 true ++ (if s.tripNow then [.thermalTrip] else [])

/-- Lent pairs of stacks at 100 °C (R401). -/
def State.lendEvents (s : State) : List Event :=
  s.store.hbm.flatMap fun h =>
    if h.2.lendstat ≠ 0 ∧ 400 ≤ s.stackTemp h.1 then
      ((List.range 32).filter fun i => pairBits h.2.lendstat i != 0).map fun i => Event.lendThermalReclaim h.1 i
    else []

/-- The schedulers of the contexts whose sampling period has come (R433).
[DEDUCED, log entry 94] -/
def State.sampleEvents (s : State) (slow : List Nat) : List Event :=
  let due (k : Nat) : Bool := s.hub.traceQ.any fun t => t.2.stall && s.partOfQueue t.1 == s.partOfSched k
    && s.time (s.partOfQueue t.1) % 2 ^ t.2.slog2 == 0
  (((s.simt.groups.map fun g => g.2.place.schedNo).dedup).filter fun k => !slow.contains (s.partOfSched k) && due k).map
    Event.stallSample

/-- Everything that hardware begins at this ac.
[DESIGN CHOICE, log entry 11] -/
def State.tickEvents (s : State) (slow : List Nat) : List Event :=
  ((s.idleScheds.filter fun k => !slow.contains (s.partOfSched k)).map fun k => Event.runStart k)
    ++ ((List.range 8).filter fun d => !(s.readyQueues d).isEmpty).map Event.easelAssign
    ++ s.threadEvents ++ s.clockEvents ++ s.lendEvents ++ s.sampleEvents slow

/-- The next ac: the root of trust records what it has seen in this one (R409), the partitions whose clock is slower stand still
where it does not tick, and the agents of the ac have their turns. -/
def State.tick (s : State) : State :=
  let (slow, s) := { s.observe.stepHolds with ac := s.ac + 1 }.clockPhases
  let s := slow.foldl State.stallPart s
  let s := { s with turns := s.agents slow }
  { s with agenda := s.agenda ++ (s.tickEvents slow).map fun e => (s.ac, e) }

end Sys2Proof.Machine
end

