-- ==== Sys2Proof/Machine/Step.lean ====
section
/-! DEFINITION. Step.lean: one indivisible step of the part (ch95): an event that is due, or the next instruction of this
ac, or the tick of the clock to the next ac. -/

namespace Sys2Proof.Machine

/-- One step of the part. While the module is off nothing happens: POWER_ON comes from outside (R404, R445).
[DESIGN CHOICE, log entry 1] -/
def step (s : State) : Host.Outcome State Fault Refusal :=
  match takeDue s.ac s.turns.isEmpty s.agenda with
  | some (e, rest) => runEvent e { s with agenda := rest }
  | none =>
    match s.turns with
    | .split gid sp :: _ => s.turnSimt gid sp
    | .thread t :: _ => s.turnThread t
    | .easel q :: _ => s.turnEasel q
    | [] => .next (if s.module.on then s.tick else s)

/-- The state with an instruction where the next step fetches (the row's words, zeros above them): of a group where the word
is one of SIMT groups, of a control thread where only control cores have it, of a sketch where it is a sketch word only. -/
def State.withFetchWord (s : State) (nbits w : Nat) : State := s.placeWord (w % 2 ^ nbits)

end Sys2Proof.Machine
end

