-- ==== Sys2Proof/Safety.lean ====
section
/-! DEFINITION. Safety.lean: what claims about the machine speak of: who issues, when an instruction meets none of the faults that
come before its own (R167), and the invariants of the state. -/

namespace Sys2Proof.Machine

/-! ### Who issues -/

/-- The split `sp` of the group `gid` issues next. -/
def State.AtSplit (s : State) (gid sp : Nat) (g : Group) (p : Split) : Prop :=
  s.turns.head? = some (.split gid sp) ∧ s.group? gid = some g ∧ g.split? sp = some p

/-- The control thread `tid` issues next. -/
def State.AtThread (s : State) (tid : Nat) (t : Thread) : Prop :=
  s.turns.head? = some (.thread tid) ∧ s.thread tid = t

/-- The split `sp` of the group `gid` issues next, and `rd` is what its instruction reads. -/
def State.Issues (s : State) (gid sp : Nat) (g : Group) (p : Split) (rd : Rd) : Prop :=
  s.AtSplit gid sp g p ∧ s.rdSplit g sp p = rd

/-- The packet `k` of queue `q` issues its next operation, within its sketch's budget (R335). -/
def State.AtPacket (s : State) (q : Nat) (x : Queue) (k : Packet) : Prop :=
  s.turns.head? = some (.easel q) ∧ s.queue q = x ∧ x.pkt = some k ∧ k.used < s.budgetOf q

/-- An entry of the agenda whose time has not come: it is not due, or comes after the turns of its ac (log entry 11). -/
def State.NotYet (s : State) (x : Nat × Event) : Prop := s.ac < x.1 ∨ (x.2.late = true ∧ s.turns.isEmpty = false)

/-- Nothing of the agenda is due: the step is a turn, or the clock's tick. -/
def State.quiet (s : State) : Prop := ∀ x ∈ s.agenda, s.NotYet x

/-! ### Events -/

/-- The instruction of the same name that an event of the agenda is. Five events are none: they end what an instruction has begun
(a lending's handshake, a dump, a row's grant, an answer of the root of trust). -/
def Event.Is (i : Instr) : Event → Prop
  | .fixedLatencyWriteback gid => i = .fixedLatencyWriteback gid
  | .variableLatencyResult gid id => i = .variableLatencyResult gid id
  | .runStart sched => i = .runStart sched
  | .runEndMerge gid sp => i = .runEndMerge gid sp
  | .groupExit gid => i = .groupExit gid
  | .teamResourceFree team => i = .teamResourceFree team
  | .teamPlacement part => i = .teamPlacement part
  | .taskComplete task => i = .taskComplete task
  | .spawnAccept gid sp => i = .spawnAccept gid sp
  | .progressSwap core => i = .progressSwap core
  | .syncEngineLineReturn line => i = .syncEngineLineReturn line
  | .atomicPerformed gid id => i = .atomicPerformed gid id
  | .storePerformed gid id => i = .storePerformed gid id
  | .copyUnitTransfer copy => i = .copyUnitTransfer copy
  | .sourceReleased copy => i = .sourceReleased copy
  | .landed copy => i = .landed copy
  | .published copy => i = .published copy
  | .deferredArrival id => i = .deferredArrival id
  | .publishPoint id => i = .publishPoint id
  | .publishComplete id => i = .publishComplete id
  | .barrierPhaseComplete bar => i = .barrierPhaseComplete bar
  | .ctrwaitWake gid sp => i = .ctrwaitWake gid sp
  | .operationAcceptance id => i = .operationAcceptance id
  | .matrixPass engine => i = .matrixPass engine
  | .batchComplete gid => i = .batchComplete gid
  | .tdepServe id => i = .tdepServe id
  | .tcopyServe id => i = .tcopyServe id
  | .ttakeServe id => i = .ttakeServe id
  | .tcancelServe id => i = .tcancelServe id
  | .skidEnd queue => i = .skidEnd queue
  | .claimComplete queue => i = .claimComplete queue
  | .easelAssign die => i = .easelAssign die
  | .launchCommit queue => i = .launchCommit queue
  | .queueWaitWake queue => i = .queueWaitWake queue
  | .scrub page => i = .scrub page
  | .trapEntry thread vector => i = .trapEntry thread vector
  | .wfiWake thread => i = .wfiWake thread
  | .vectorDelivery vector => i = .vectorDelivery vector
  | .flrComplete vf => i = .flrComplete vf
  | .throttleRelease stack row => i = .throttleRelease stack row
  | .lendDone _ _ => False
  | .pgateUngate part => i = .pgateUngate part
  | .partitionReset part => i = .partitionReset part
  | .limitStep up => i = .limitStep up
  | .thermalStep part up => i = .thermalStep part up
  | .thermalTrip => i = .thermalTrip
  | .lendThermalReclaim stack pair => i = .lendThermalReclaim stack pair
  | .completionTimeout req => i = .completionTimeout req
  | .chunkFlush sched => i = .chunkFlush sched
  | .lossMark sched => i = .lossMark sched
  | .stallSample sched => i = .stallSample sched
  | .powerOn => i = .powerOn
  | .deviceWrite addr size value => i = .registerWrite addr size value
  | .inboundAccess req => i = .inboundDeviceAccess req
  | .dumpEnd => False
  | .rowGrant _ => False
  | .evidence _ _ => False
  | .podDone _ => False

/-! ### An instruction that meets none of the faults before its own -/

/-- On a group (R167): no RUN, OPND, PEND, and neither an error nor poison in a source (R415, R417). -/
def Group.Passes (g : Group) (p : Split) (i : Spec) (active : W32) : Prop :=
  i.runBad p.run = false ∧ i.bad = false ∧ (i.srcs ++ i.dsts).any g.isPending = false
    ∧ errsAt g.regs.errs (i.srcs.flatMap (poisonKeys active)) = []
    ∧ poisonMet g.regs.poison (i.srcs.flatMap (poisonKeys active)) = none

/-- On a control core (R160, R167): no OPND, and neither an error nor poison in a source. -/
def Thread.Passes (t : Thread) (i : Spec) : Prop :=
  i.bad = false ∧ errsAt t.errs (i.srcs.map fun c => c - 96) = []
    ∧ poisonMet t.poison (i.srcs.map fun c => c - 96) = none

/-- The faults before its own met by none: the guard of MODE is one of the registers that a vector instruction reads. -/
def Spec.guarded (i : Spec) (rd : Rd) : Spec := { i with srcs := rd.modeCodes ++ i.srcs }

/-- The same of a conversion, which under SR reads the SR states too. -/
def Spec.guardedSr (i : Spec) (rd : Rd) : Spec := { i with srcs := rd.modeCodes ++ rd.srCodes ++ i.srcs }

/-! ### The states that instructions end in -/

/-- A group after an instruction that computes a result in the lanes `act`: on its way for 4 ac, or for an open latency. -/
def State.vecDone (s : State) (gid sp : Nat) (m : Marks) (len : Nat) (act : W32) (fixed : Bool) (w : RegWrites) : State :=
  (if act = 0#32 then s else if fixed then s.putFixed gid act w else s.putVar gid sp act w).advance gid sp m len fixed
    none none

/-- A group after a uniform instruction that computes a result, which it does for the split whatever the guard. -/
def State.uniDone (s : State) (gid sp : Nat) (p : Split) (m : Marks) (len : Nat) (fixed : Bool) (w : RegWrites) : State :=
  (if fixed then s.putFixed gid p.mask w else s.putVar gid sp p.mask w).advance gid sp m len fixed none none

/-- A group after a conversion: under SR, each active lane has taken `n` draws (R145), and the result is on its way. -/
def State.convDone (s : State) (gid sp : Nat) (rd : Rd) (m : Marks) (len : Nat) (fixed : Bool) (n : Nat → Nat)
    (w : RegWrites) : State :=
  (if rd.active = 0#32 then s
    else
      let s := s.modGroup gid fun g => { g with regs := rd.lanes.foldl (fun r l => r.drew rd [l] (n l)) g.regs }
      if fixed then s.putFixed gid rd.active w else s.putVar gid sp rd.active w).advance gid sp m len fixed none none

/-- The state after an instruction of a control thread: the thread as given, and its turn is over. -/
def State.threadDone (s : State) (tid : Nat) (t : Thread) : State := (s.putThread tid t).pop

/-- The thread's pc after an instruction of `len` words that goes on to the next. -/
def Thread.onward (t : Thread) (len : Nat) : Thread := { t with pc := t.pc + BitVec.ofNat 64 (4 * len) }

/-- The state after a system instruction of a control thread that goes on: its pc past `len` words, its turn over. -/
def State.sysDone (s : State) (tid len : Nat) : State := (s.modThread tid fun t => t.onward len).pop

/-! ### Invariants -/

/-- Memory is in its canonical form: addresses rising, no byte 0 listed. -/
def State.memCanonical (s : State) : Prop := Memory.wf s.store.mem = true

end Sys2Proof.Machine
end

