-- ==== Sys2Proof/Certificates/Slice0/Obligations.lean ====
section
/-! DEFINITION. Obligations.lean: the statements for the provers. -/

open Sys2Proof Sys2Proof.Machine

/-! ### Encoding -/

/-- O1. For every well-formed Amitia instruction, with every operand, literal, code and control word at every value that its
encoding admits, decoding its words gives it back, and leaves whatever words follow (R148 to R155). -/
def Obligations.AmitiaWordsDecode : Prop :=
  ∀ i : Instr, WellFormed i → i.toRaw.isSome = true →
    ∀ rest : List W32, decode (encode i ++ rest) = .ok (i, rest)

/-- O2. Whatever words decode, the instruction is well formed and its encoding is exactly the words read: every bit of every
word is in the instruction, or is a reserved or unused field that the decoder has checked (R150, R166). So each word has one
meaning. -/
def Obligations.DecodeReadsEveryBit : Prop :=
  ∀ (ws rest : List W32) (i : Instr), decode ws = .ok (i, rest) → WellFormed i ∧ encode i ++ rest = ws

/-- O3. A well-formed sketch operation is one word, which decodes to it; and a word that decodes is the encoding of the
well-formed operation that it decodes to (R338): unused fields and undefined opcodes are rejected. -/
def Obligations.SketchWordsDecode : Prop :=
  (∀ i : Instr, WellFormed i → i.toSketch.isSome = true → ∃ w : W32, encode i = [w] ∧ decodeSketch w = some i)
    ∧ ∀ (w : W32) (i : Instr), decodeSketch w = some i → WellFormed i ∧ encode i = [w]

/-- O4. Words that the manual works out decode to the instructions that it names: IADD and MOV (ch08), BRA and ICMP.LT
(ch08), SETMODE, BRV and BALLOT (ch09), ATOM.CAS (ch11), MMA and MFENCE (ch12), SYSCALL and EENTER (ch13). -/
def Obligations.ManualWordsDecode : Prop :=
  decode [0x0000407C#32, 5#32] = .ok (.iadd ⟨⟨false, false, false⟩, 1, .v 0, .lit32 5#32⟩, [])
    ∧ decode [0x036100F0#32] = .ok (.mov ⟨⟨false, false, false⟩, 4, .v 1⟩, [])
    ∧ decode [0x03A44103#32] = .ok (.icmp ⟨⟨false, false, false⟩, 2, 1, .v 2, .v 3⟩, [])
    ∧ decode [0x2D02050C#32, 0x128#32] = .ok (.mma ⟨⟨false, false, true⟩, 8, 10, 12,
        ⟨8, 2, 2, false, false, false, 0, false, false, false⟩⟩, [])
    ∧ decode [0x945C3E01#32, 0x18#32] = .ok (.brv ⟨⟨true, false, false⟩, 0x18#32, 1, false⟩, [])
    ∧ decode [0x7840C170#32, 0x1C7#32] = .ok (.atom ⟨⟨false, true, true⟩, 3, .g 2, .zero, ⟨7, 4, 3, 0⟩⟩, [])
    ∧ decode [0x7682B870#32] = .ok (.mfence ⟨⟨false, true, true⟩, 10⟩, [])
    ∧ decode [0x1D214082#32] = .ok (.eenter ⟨⟨false, false, false⟩, 5, 1, 2⟩, [])
    ∧ decode [0x941C3E70#32, 0xFFFFFFE0#32] = .ok (.bra ⟨⟨true, false, false⟩, 0xFFFFFFE0#32⟩, [])
    ∧ decode [0x961C3E70#32, 7#32] = .ok (.setmode ⟨⟨true, false, false⟩, .lit32 7#32⟩, [])
    ∧ decode [0x55E040F0#32] = .ok (.ballot ⟨⟨false, true, false⟩, 1, 1⟩, [])
    ∧ decode [0x1E7C3870#32] = .ok (.syscall ⟨⟨false, false, false⟩⟩, [])

/-! ### Vector computations (R157 to R160, R177 to R187) -/

/-- O5. The vector integer rows (R179) complete: where no fault comes before (R167), the result of each active lane, and of
no other, is on its way to v(d) (the pair under a 64-bit type), written 4 ac later, or after the divider's own time; the
elements are those of MODE.ETY, each computed by its row (R177, R179 to R182). The group then goes on to the next
instruction. -/
def Obligations.VectorIntegerRows : Prop :=
  (∀ row ∈ ([
      (.iadd, true, false, true, opAdd), (.isub, true, false, true, opSub),
      (.imul, true, false, true, opMul), (.imulh, true, false, true, opMulh),
      (.imad, true, true, true, opMad), (.imin, true, false, true, opMin), (.imax, true, false, true, opMax),
      (.andV, false, false, true, opAnd), (.orV, false, false, true, opOr),
      (.xorV, false, false, true, opXor), (.andn, false, false, true, opAndn),
      (.shl, false, false, true, opShl), (.shr, false, false, true, opShr), (.sar, true, false, true, opSar),
      (.rotl, false, false, true, opRotl), (.bfx, false, false, true, opBfx),
      (.bfi, false, true, true, opBfi), (.idiv, true, false, false, opDiv), (.irem, true, false, false, opRem)] :
        List ((Op3 → Instr) × Bool × Bool × Bool × ElemOp)),
    ∀ (x : Op3) (s : State) (gid sp : Nat) (g : Group) (p : Split) (rd : Rd), s.Issues gid sp g p rd →
      g.Passes p ((specV3 x (etyBad row.2.1 (modeEty rd.mode)) row.2.2.1 (ety64 (modeEty rd.mode)) rd).guarded rd) rd.active →
      exec (row.1 x) s = .next (s.vecDone gid sp x.m x.len rd.active row.2.2.2.1
        (laneImages rd.lanes (ety64 (modeEty rd.mode)) x.d (intLane row.2.1 row.2.2.2.2 rd x.a x.c x.d))))
  ∧ ∀ row ∈ ([
      (.iabs, true, opAbs), (.ineg, true, opNeg), (.notV, false, opNot), (.popc, false, opPopc),
      (.clz, false, opClz), (.ctz, false, opCtz), (.brev, false, opBrev)] : List ((Op2 → Instr) × Bool × ElemOp)),
    ∀ (x : Op2) (s : State) (gid sp : Nat) (g : Group) (p : Split) (rd : Rd), s.Issues gid sp g p rd →
      g.Passes p ((specV2 x (etyBad row.2.1 (modeEty rd.mode)) (ety64 (modeEty rd.mode)) rd).guarded rd) rd.active →
      exec (row.1 x) s = .next (s.vecDone gid sp x.m x.len rd.active true
        (laneImages rd.lanes (ety64 (modeEty rd.mode)) x.d (intLane row.2.1 row.2.2 rd x.a .zero x.d)))

/-- O6. IDP4 (v(d) plus four byte products, fitted at 32 bits), MULW (the exact 64-bit product to the pair of d), PRMT (four
bytes picked by nibbles), MOV (the image of a, a pair under a 64-bit type) complete in the active lanes; SEL writes every
lane of the split's mask, a where the guard is true and c elsewhere (R185); ICMP writes the bits of p(d) of the active lanes
(R186). -/
def Obligations.VectorMoveAndPartialRows : Prop :=
  ∀ (s : State) (gid sp : Nat) (g : Group) (p : Split) (rd : Rd), s.Issues gid sp g p rd →
    (∀ x : Op3, g.Passes p ((specV3 x (modeEty rd.mode != 6 && modeEty rd.mode != 7) true false rd).guarded rd) rd.active →
      exec (.idp4 x) s = .next (s.vecDone gid sp x.m x.len rd.active true (laneImages rd.lanes false x.d fun l =>
        let r := fit (modeSat rd.mode) (modeEty rd.mode == 6) 32
          (readInt (modeEty rd.mode == 6) 32 (rd.v x.d l).toNat + (List.range 4).foldl (fun t e => t
            + readInt (modeEty rd.mode == 6) 8 (elem 8 e (rd.vec false x.a l))
              * readInt (modeEty rd.mode == 6) 8 (elem 8 e (rd.vec false x.c l))) 0)
        ⟨BitVec.ofNat 64 r.1, r.2⟩)))
    ∧ (∀ x : Op3, g.Passes p ((Spec.of x.m x.len (!decide (modeEty rd.mode < 2) || rd.vBad true x.d || rd.vecBad false x.a
          || rd.vecBad false x.c) (x.a.vCodes false ++ x.c.vCodes false) (codesV true x.d)).guarded rd) rd.active →
      exec (.mulw x) s = .next (s.vecDone gid sp x.m x.len rd.active true (laneImages rd.lanes true x.d fun l =>
        Res.pure (BitVec.ofInt 64 (readInt (modeEty rd.mode == 0) 32 (rd.vec false x.a l).toNat
          * readInt (modeEty rd.mode == 0) 32 (rd.vec false x.c l).toNat)))))
    ∧ (∀ x : Op3, g.Passes p ((specV3 x (ety64 (modeEty rd.mode)) true false rd).guarded rd) rd.active →
      exec (.prmt x) s = .next (s.vecDone gid sp x.m x.len rd.active true (laneImages rd.lanes false x.d fun l =>
        Res.pure (BitVec.ofNat 64 ((List.range 4).foldl (fun t i => t
          + prmtByte ((rd.vec false x.a l).toNat % 2 ^ 32) ((rd.vec false x.c l).toNat % 2 ^ 32)
            (fieldOf (rd.v x.d l).toNat (4 * i) 4) * 2 ^ (8 * i)) 0)))))
    ∧ (∀ x : Op2, g.Passes p ((specV2 x (etyBad false (modeEty rd.mode)) (ety64 (modeEty rd.mode)) rd).guarded rd) rd.active →
      exec (.mov x) s = .next (s.vecDone gid sp x.m x.len rd.active true
        (laneImages rd.lanes (ety64 (modeEty rd.mode)) x.d fun l => Res.pure (rd.vec (ety64 (modeEty rd.mode)) x.a l))))
    ∧ (∀ x : Op3, g.Passes p ((specV3 x (etyBad false (modeEty rd.mode)) false (ety64 (modeEty rd.mode)) rd).guarded rd)
          rd.mask →
      exec (.sel x) s = .next (s.vecDone gid sp x.m x.len rd.mask true
        (laneImages (lanesOf rd.mask) (ety64 (modeEty rd.mode)) x.d fun l =>
          Res.pure (rd.vec (ety64 (modeEty rd.mode)) (if rd.guard l then x.a else x.c) l))))
    ∧ ∀ x : CmpI, g.Passes p ((specCmp x (icmpBad (modeEty rd.mode)) (ety64 (modeEty rd.mode)) rd).guarded rd) rd.active →
      exec (.icmp x) s = .next (s.vecDone gid sp x.m x.len rd.active true
        { RegWrites.none with p := [(x.pd, rd.active, maskWhere fun l => intCond x.cond
          (readInt (etySigned (modeEty rd.mode)) (elemWidth (modeEty rd.mode)) (rd.vec (ety64 (modeEty rd.mode)) x.a l).toNat)
          (readInt (etySigned (modeEty rd.mode)) (elemWidth (modeEty rd.mode)) (rd.vec (ety64 (modeEty rd.mode)) x.c l).toNat))] })

/-- O7. The floating-point rows complete where no fault comes before: each element of each active lane is computed by its
row in the format of MODE.ETY under MODE.RND (R204 to R209, R211, R212); FCMP writes the active lanes' bits of p(d) (R208);
FDOT2 adds two products to v(d) as FP32 and rounds once (R210). The special functions answer after their own time, the
others after 4 ac. -/
def Obligations.FloatRows : Prop :=
  (∀ row ∈ ([(.fadd, false, true, true, opFadd), (.fsub, false, true, true, opFsub), (.fmul, false, true, true, opFmul),
      (.ffma, true, true, true, opFfma), (.fmin, false, true, false, fun f _ a c _ => f.minMax false a c),
      (.fmax, false, true, false, fun f _ a c _ => f.minMax true a c), (.fdiv, false, false, true, opFdiv)] :
        List ((Op3 → Instr) × Bool × Bool × Bool × FltOp)),
    ∀ (x : Op3) (s : State) (gid sp : Nat) (g : Group) (p : Split) (rd : Rd), s.Issues gid sp g p rd →
      g.Passes p ((specV3 x (fltBad row.2.2.2.1 rd) row.2.1 false rd).guarded rd) rd.active →
      exec (row.1 x) s = .next (s.vecDone gid sp x.m x.len rd.active row.2.2.1
        (laneImages rd.lanes false x.d (fltLane row.2.2.2.2 rd x.a x.c x.d))))
  ∧ (∀ row ∈ ([(.fabs, true, false, opFabs), (.fneg, true, false, opFneg),
      (.fclass, true, false, fun f _ a _ _ => ⟨2 ^ f.classBit a, 0#5⟩), (.frnd, true, true, fun f rnd a _ _ => f.rint rnd a),
      (.frcp, false, true, fun f rnd a _ _ => f.rcp rnd (f.read a)), (.frsq, false, true, fun f rnd a _ _ => f.rsqrt rnd (f.read a)),
      (.fsqrt, false, true, fun f rnd a _ _ => f.sqrt rnd (f.read a)), (.fexp2, false, false, fun f _ a _ _ => f.exp2 a),
      (.flog2, false, false, fun f _ a _ _ => f.log2 a), (.fsin, false, false, fun f _ a _ _ => f.trig false a),
      (.fcos, false, false, fun f _ a _ _ => f.trig true a)] : List ((Op2 → Instr) × Bool × Bool × FltOp)),
    ∀ (x : Op2) (s : State) (gid sp : Nat) (g : Group) (p : Split) (rd : Rd), s.Issues gid sp g p rd →
      g.Passes p ((specV2 x (fltBad row.2.2.1 rd) false rd).guarded rd) rd.active →
      exec (row.1 x) s = .next (s.vecDone gid sp x.m x.len rd.active row.2.1
        (laneImages rd.lanes false x.d (fltLane row.2.2.2 rd x.a .zero x.d))))
  ∧ (∀ (x : CmpI) (s : State) (gid sp : Nat) (g : Group) (p : Split) (rd : Rd), s.Issues gid sp g p rd →
      g.Passes p ((specCmp x (fltBad false rd) false rd).guarded rd) rd.active →
      exec (.fcmp x) s = .next (s.vecDone gid sp x.m x.len rd.active true { RegWrites.none with
        p := [(x.pd, rd.active, maskWhere fun l => (fcmpLane rd x l).1)]
        flags := rd.lanes.foldl (fun fl l => fl ||| (fcmpLane rd x l).2) 0#5 }))
  ∧ ∀ (x : Op3) (s : State) (gid sp : Nat) (g : Group) (p : Split) (rd : Rd), s.Issues gid sp g p rd →
      g.Passes p ((specV3 x (fltBad true rd || modeEty rd.mode == 8) true false rd).guarded rd) rd.active →
      exec (.fdot2 x) s = .next (s.vecDone gid sp x.m x.len rd.active true (laneImages rd.lanes false x.d (fdot2Lane rd x)))

/-- O8. CVT, CVTPK, MXSC, CVTN8, CVTN4 and CVTW complete where no fault comes before, each active lane having taken its
draws (R145): one for CVT and a block's element, two for CVTPK, one for each code of CVTW. PACK6, UNPK6 and CMPR24 write
their registers in the active lanes 4 ac later. SRSEED sets the SR states of the active lanes at once and writes no register
(R220). -/
def Obligations.ConversionRows : Prop :=
  ∀ (s : State) (gid sp : Nat) (g : Group) (p : Split) (rd : Rd), s.Issues gid sp g p rd →
    (∀ x : OpCode, g.Passes p ((Spec.of x.m x.len (etyBad false (modeEty rd.mode) || rndBad rd || rd.vBad (cvtWide x.code) x.d
          || rd.vecBad (ety64 (modeEty rd.mode)) x.a) (x.a.vCodes (ety64 (modeEty rd.mode)))
          (codesV (cvtWide x.code) x.d)).guardedSr rd) rd.active →
      exec (.cvt x) s = .next (s.convDone gid sp rd x.m x.len true (fun _ => 1)
        (laneImages rd.lanes (cvtWide x.code) x.d fun l => cvtLane rd x (g.regs.draws rd 1 l) l)))
    ∧ (∀ x : Op3, g.Passes p ((specV3 x (fltBad true rd || modeEty rd.mode == 8) false false rd).guardedSr rd) rd.active →
      exec (.cvtpk x) s = .next (s.convDone gid sp rd x.m x.len true (fun _ => 2)
        (laneImages rd.lanes false x.d fun l => cvtpkLane rd x (g.regs.draws rd 2 l) l)))
    ∧ (∀ x : Op3, g.Passes p ((Spec.of x.m x.len (modeEty rd.mode != 8 || rndBad rd || rd.vBad false x.d
          || decide (rd.vregs < x.d + cvtwRoom x) || rd.vecBad false x.a || rd.vecBad false x.c)
          (x.a.vCodes false ++ x.c.vCodes false) (cvtwDsts rd x)).guardedSr rd) rd.active →
      (∀ l ∈ rd.lanes, (cvtwForm (rd.vec false x.c l).toNat).isSome = true ∧ x.d + cvtwCount rd x l ≤ rd.vregs) →
      exec (.cvtw x) s = .next (s.convDone gid sp rd x.m x.len false (cvtwCount rd x) { RegWrites.none with
        v := rd.lanes.flatMap fun l => (List.range (cvtwCount rd x l)).map fun k =>
          (32 * (x.d + k) + l, BitVec.ofNat 32 (cvtwOut rd x (g.regs.draws rd (cvtwCount rd x l) l) l k).code)
        flags := rd.lanes.foldl (fun fl l => (List.range (cvtwCount rd x l)).foldl
          (fun fl k => fl ||| (cvtwOut rd x (g.regs.draws rd (cvtwCount rd x l) l) l k).flags) fl) 0#5 }))
    ∧ (∀ (x : OpCode), g.Passes p ((Spec.of x.m x.len (modeEty rd.mode != 8 || rndBad rd || rd.vBad false x.d
          || rd.vecBad false x.a) (x.a.vCodes false) [x.d]).guardedSr rd) rd.active →
      exec (.mxsc x) s = .next (s.convDone gid sp rd x.m x.len false (fun _ => 1)
          { laneImages rd.lanes false x.d (fun _ => Res.pure (BitVec.ofNat 64
              (mxBlock rd x.code x.a fun l => g.regs.draws rd 1 l).1)) with
            flags := blockFlags (mxBlock rd x.code x.a fun l => g.regs.draws rd 1 l).2 })
        ∧ exec (.cvtn8 x) s = .next (s.convDone gid sp rd x.m x.len false (fun _ => 1)
          { laneImages rd.lanes false x.d (fun l => Res.pure (BitVec.ofNat 64
              (packCodes (mxBlock rd x.code x.a fun l => g.regs.draws rd 1 l).2 8 (4 * (l % 8)) 4))) with
            flags := blockFlags (mxBlock rd x.code x.a fun l => g.regs.draws rd 1 l).2 }))
    ∧ (∀ (x : Op2), g.Passes p ((Spec.of x.m x.len (modeEty rd.mode != 8 || rndBad rd || rd.vBad false x.d
          || rd.vecBad false x.a) (x.a.vCodes false) [x.d]).guardedSr rd) rd.active →
      exec (.cvtn4 x) s = .next (s.convDone gid sp rd x.m x.len false (fun _ => 1)
          { laneImages rd.lanes false x.d (fun l => Res.pure (BitVec.ofNat 64
              (packCodes (mxBlock rd 8 x.a fun l => g.regs.draws rd 1 l).2 4 (8 * (l % 4)) 8))) with
            flags := blockFlags (mxBlock rd 8 x.a fun l => g.regs.draws rd 1 l).2 }))
    ∧ (∀ (x : Rr), g.Passes p ((Spec.of x.m 1 (rd.rangeBad x.d 3 || rd.rangeBad x.a 4) (regRange x.a 4)
          (regRange x.d 3)).guarded rd) rd.active →
      exec (.pack6 x) s = .next (s.vecDone gid sp x.m 1 rd.active true
        { RegWrites.none with v := rd.lanes.flatMap fun l => wideWrites x.d l (pack6 (rd.wide x.a l 4)) 3 }))
    ∧ (∀ (x : Rr), g.Passes p ((Spec.of x.m 1 (rd.rangeBad x.d 4 || rd.rangeBad x.a 3) (regRange x.a 3)
          (regRange x.d 4)).guarded rd) rd.active →
      exec (.unpk6 x) s = .next (s.vecDone gid sp x.m 1 rd.active true
        { RegWrites.none with v := rd.lanes.flatMap fun l => wideWrites x.d l (unpk6 (rd.wide x.a l 3)) 4 }))
    ∧ (∀ (x : Rr), g.Passes p ((Spec.of x.m 1 (etyBad false (modeEty rd.mode) || ety64 (modeEty rd.mode)
          || rd.rangeBad x.d (cmprWrite (modeEty rd.mode)) || rd.rangeBad x.a (cmprRead (modeEty rd.mode)))
          (regRange x.a (cmprRead (modeEty rd.mode))) (regRange x.d (cmprWrite (modeEty rd.mode)))).guarded rd) rd.active →
      exec (.cmpr24 x) s = .next (s.vecDone gid sp x.m 1 rd.active true
        { RegWrites.none with v := rd.lanes.flatMap (cmprLane rd x) }))
    ∧ ∀ (x : Op1), g.Passes p ((Spec.of x.m x.len (rd.vecBad false x.a) (x.a.vCodes false) []).guarded rd) rd.active →
      exec (.srseed x) s = .next ((s.modGroup gid fun g => { g with
        regs := g.regs.seed rd.lanes fun l => srSeed ((rd.vec false x.a l).setWidth 32) }).advance gid sp x.m x.len true none none)
      ∧ (g.regs.seed rd.lanes fun l => srSeed ((rd.vec false x.a l).setWidth 32)).v = g.regs.v
      ∧ ∀ l, (g.regs.seed rd.lanes fun l => srSeed ((rd.vec false x.a l).setWidth 32)).srOf l
          = if l ∈ rd.lanes then srSeed ((rd.vec false x.a l).setWidth 32) else g.regs.srOf l

/-- O9. The 26 uniform integer rows, MOV and ICMP complete once for the split, whatever the guard, or for a control thread
(R184): the row is applied at the element's width, and the result, extended to 64 bits by the signedness of the type, goes
to g(d); on a control core at once. Uniform MOV copies all 64 bits (R185); uniform ICMP writes q(d) (R186). -/
def Obligations.UniformIntegerRows : Prop :=
  (∀ row ∈ ([(.iaddU, true, false, opAdd), (.isubU, true, false, opSub), (.imulU, true, false, opMul),
      (.imulhU, true, false, opMulh), (.imadU, true, true, opMad), (.iminU, true, false, opMin), (.imaxU, true, false, opMax),
      (.andU, false, false, opAnd), (.orU, false, false, opOr), (.xorU, false, false, opXor), (.andnU, false, false, opAndn),
      (.shlU, false, false, opShl), (.shrU, false, false, opShr), (.sarU, true, false, opSar), (.rotlU, false, false, opRotl),
      (.bfxU, false, false, opBfx), (.bfiU, false, true, opBfi)] : List ((Op3 → Instr) × Bool × Bool × ElemOp)), ∀ (x : Op3) (s : State),
    (∀ (gid sp : Nat) (g : Group) (p : Split) (rd : Rd), s.Issues gid sp g p rd →
      g.Passes p (Spec.of x.m x.len (etyBad row.2.1 (modeEty rd.mode))
        (rd.modeCode :: (x.a.uCodes ++ x.c.uCodes ++ if row.2.2.1 then [codeG x.d] else [])) [codeG x.d]) p.mask →
      exec (row.1 x) s = .next (s.uniDone gid sp p x.m x.len true
        (gRes x.d (intUni row.2.1 row.2.2.2 rd (rd.uni x.a) (rd.uni x.c) (rd.g x.d)))))
    ∧ ∀ (tid : Nat) (t : Thread), s.AtThread tid t →
      t.Passes (Spec.of x.m x.len (etyBad row.2.1 (modeEty t.mode))
        ((t.rd tid).modeCode :: (x.a.uCodes ++ x.c.uCodes ++ if row.2.2.1 then [codeG x.d] else [])) [codeG x.d]) →
      exec (row.1 x) s = .next (s.threadDone tid ((t.write
        (gRes x.d (intUni row.2.1 row.2.2.2 (t.rd tid) ((t.rd tid).uni x.a) ((t.rd tid).uni x.c) ((t.rd tid).g x.d)))).onward x.len)))
  ∧ (∀ row ∈ ([(.iabsU, true, opAbs), (.inegU, true, opNeg), (.notU, false, opNot), (.popcU, false, opPopc),
      (.clzU, false, opClz), (.ctzU, false, opCtz), (.brevU, false, opBrev)] : List ((Op2 → Instr) × Bool × ElemOp)), ∀ (x : Op2) (s : State),
    (∀ (gid sp : Nat) (g : Group) (p : Split) (rd : Rd), s.Issues gid sp g p rd →
      g.Passes p (Spec.of x.m x.len (etyBad row.2.1 (modeEty rd.mode)) (rd.modeCode :: x.a.uCodes) [codeG x.d]) p.mask →
      exec (row.1 x) s = .next (s.uniDone gid sp p x.m x.len true
        (gRes x.d (intUni row.2.1 row.2.2 rd (rd.uni x.a) 0#64 (rd.g x.d)))))
    ∧ ∀ (tid : Nat) (t : Thread), s.AtThread tid t →
      t.Passes (Spec.of x.m x.len (etyBad row.2.1 (modeEty t.mode)) ((t.rd tid).modeCode :: x.a.uCodes) [codeG x.d]) →
      exec (row.1 x) s = .next (s.threadDone tid ((t.write
        (gRes x.d (intUni row.2.1 row.2.2 (t.rd tid) ((t.rd tid).uni x.a) 0#64 ((t.rd tid).g x.d)))).onward x.len)))
  ∧ (∀ (x : Op2) (s : State),
    (∀ (gid sp : Nat) (g : Group) (p : Split) (rd : Rd), s.Issues gid sp g p rd →
      g.Passes p (Spec.of x.m x.len false x.a.uCodes [codeG x.d]) p.mask →
      exec (.movU x) s = .next (s.uniDone gid sp p x.m x.len true (RegWrites.gOne x.d (rd.uni x.a))))
    ∧ ∀ (tid : Nat) (t : Thread), s.AtThread tid t → t.Passes (Spec.of x.m x.len false x.a.uCodes [codeG x.d]) →
      exec (.movU x) s = .next (s.threadDone tid ((t.write (RegWrites.gOne x.d ((t.rd tid).uni x.a))).onward x.len)))
  ∧ ∀ (x : CmpI) (s : State),
    (∀ (gid sp : Nat) (g : Group) (p : Split) (rd : Rd), s.Issues gid sp g p rd →
      g.Passes p (Spec.of x.m x.len (icmpBad (modeEty rd.mode)) (rd.modeCode :: (x.a.uCodes ++ x.c.uCodes)) [codeQ x.pd]) p.mask →
      exec (.icmpU x) s = .next (s.uniDone gid sp p x.m x.len true { RegWrites.none with
        q := [(x.pd, intCond x.cond (readInt (etySigned (modeEty rd.mode)) (elemWidth (modeEty rd.mode)) (rd.uni x.a).toNat)
          (readInt (etySigned (modeEty rd.mode)) (elemWidth (modeEty rd.mode)) (rd.uni x.c).toNat))] }))
    ∧ ∀ (tid : Nat) (t : Thread), s.AtThread tid t →
      t.Passes (Spec.of x.m x.len (icmpBad (modeEty t.mode)) ((t.rd tid).modeCode :: (x.a.uCodes ++ x.c.uCodes)) [codeQ x.pd]) →
      exec (.icmpU x) s = .next (s.threadDone tid ((t.write { RegWrites.none with
        q := [(x.pd, intCond x.cond
          (readInt (etySigned (modeEty t.mode)) (elemWidth (modeEty t.mode)) ((t.rd tid).uni x.a).toNat)
          (readInt (etySigned (modeEty t.mode)) (elemWidth (modeEty t.mode)) ((t.rd tid).uni x.c).toNat))] }).onward x.len))

/-- O10. R178: with SAT, a value outside the type's range is clamped and sets OF; otherwise the code is x mod 2^w, read back
as signed or unsigned by ETY, and no flag is set. No integer instruction of ch09 sets a flag other than OF (4), and OF only
under SAT: the rows of Table 1 as vector and as uniform instructions, and IDP4; MULW, PRMT, MOV, SEL and ICMP, vector and
uniform, set none (each completes as vecAlu or uniAlu writes what is given here). -/
def Obligations.FitRule : Prop :=
  (∀ (sat sg : Bool) (w : Nat) (x : Int), 0 < w →
    (sat = true → x < intMin sg w → fit sat sg w x = (wrapInt w (intMin sg w), 4#5) ∧ readInt sg w (fit sat sg w x).1 = intMin sg w)
    ∧ (sat = true → intMax sg w < x → fit sat sg w x = (wrapInt w (intMax sg w), 4#5)
        ∧ readInt sg w (fit sat sg w x).1 = intMax sg w)
    ∧ (sat = false ∨ (intMin sg w ≤ x ∧ x ≤ intMax sg w) → (fit sat sg w x).2 = 0#5
        ∧ ((fit sat sg w x).1 : Int) = x % 2 ^ w)
    ∧ (intMin sg w ≤ x → x ≤ intMax sg w → readInt sg w (fit sat sg w x).1 = x))
  ∧ (∀ op ∈ ([opAdd, opSub, opMul, opMulh, opMad, opMin, opMax, opAbs, opNeg, opAnd, opOr, opXor, opAndn, opNot, opShl, opShr,
      opSar, opRotl, opBfx, opBfi, opPopc, opClz, opCtz, opBrev, opDiv, opRem] : List ElemOp),
      ∀ (sat sg : Bool) (w a c d : Nat), (op sat sg w a c d).2 = 0#5 ∨ (sat = true ∧ (op sat sg w a c d).2 = 4#5))
  ∧ (∀ op ∈ ([opAdd, opSub, opMul, opMulh, opMad, opMin, opMax, opAbs, opNeg, opAnd, opOr, opXor, opAndn, opNot, opShl, opShr,
      opSar, opRotl, opBfx, opBfi, opPopc, opClz, opCtz, opBrev, opDiv, opRem] : List ElemOp),
      ∀ (arith : Bool) (rd : Rd) (a c : Opnd) (d l : Nat) (ua uc ud : W64),
        ((intLane arith op rd a c d l).fl = 0#5 ∨ (modeSat rd.mode = true ∧ (intLane arith op rd a c d l).fl = 4#5))
        ∧ ((intUni arith op rd ua uc ud).fl = 0#5 ∨ (modeSat rd.mode = true ∧ (intUni arith op rd ua uc ud).fl = 4#5))
        ∧ (gRes d (intUni arith op rd ua uc ud)).flags = (intUni arith op rd ua uc ud).fl)
  ∧ (∀ (rd : Rd) (x : Op3) (l : Nat), (mulwLane rd x l).fl = 0#5 ∧ (prmtLane rd x l).fl = 0#5
      ∧ ((idp4Lane rd x l).fl = 0#5 ∨ (modeSat rd.mode = true ∧ (idp4Lane rd x l).fl = 4#5)))
  ∧ (∀ (lanes : List Nat) (wide : Bool) (d : Nat) (f : Nat → Res), (∀ l, (f l).fl = 0#5 ∨ (f l).fl = 4#5) →
      (laneImages lanes wide d f).flags = 0#5 ∨ (∃ l ∈ lanes, (f l).fl = 4#5) ∧ (laneImages lanes wide d f).flags = 4#5)
  ∧ (∀ (x : Op2) (y : Op3) (s : State) (gid sp : Nat) (g : Group) (p : Split) (rd : Rd), s.Issues gid sp g p rd →
      (g.Passes p ((specV2 x (etyBad false (modeEty rd.mode)) (ety64 (modeEty rd.mode)) rd).guarded rd) rd.active →
        ∃ w : RegWrites, w.flags = 0#5 ∧ exec (.mov x) s = .next (s.vecDone gid sp x.m x.len rd.active true w))
      ∧ (g.Passes p ((specV3 y (etyBad false (modeEty rd.mode)) false (ety64 (modeEty rd.mode)) rd).guarded rd) rd.mask →
        ∃ w : RegWrites, w.flags = 0#5 ∧ exec (.sel y) s = .next (s.vecDone gid sp y.m y.len rd.mask true w)))
  ∧ ∀ (x : CmpI) (y : Op2) (s : State),
    (∀ (gid sp : Nat) (g : Group) (p : Split) (rd : Rd), s.Issues gid sp g p rd →
      (g.Passes p ((specCmp x (icmpBad (modeEty rd.mode)) (ety64 (modeEty rd.mode)) rd).guarded rd) rd.active →
        ∃ w : RegWrites, w.flags = 0#5 ∧ exec (.icmp x) s = .next (s.vecDone gid sp x.m x.len rd.active true w))
      ∧ (g.Passes p (Spec.of x.m x.len (icmpBad (modeEty rd.mode)) (rd.modeCode :: (x.a.uCodes ++ x.c.uCodes)) [codeQ x.pd]) p.mask →
        ∃ w : RegWrites, w.flags = 0#5 ∧ exec (.icmpU x) s = .next (s.uniDone gid sp p x.m x.len true w))
      ∧ (g.Passes p (Spec.of y.m y.len false y.a.uCodes [codeG y.d]) p.mask →
        ∃ w : RegWrites, w.flags = 0#5 ∧ exec (.movU y) s = .next (s.uniDone gid sp p y.m y.len true w)))
    ∧ ∀ (tid : Nat) (t : Thread), s.AtThread tid t →
      (t.Passes (Spec.of x.m x.len (icmpBad (modeEty t.mode)) ((t.rd tid).modeCode :: (x.a.uCodes ++ x.c.uCodes)) [codeQ x.pd]) →
        ∃ w : RegWrites, w.flags = 0#5 ∧ exec (.icmpU x) s = .next (s.threadDone tid ((t.write w).onward x.len)))
      ∧ (t.Passes (Spec.of y.m y.len false y.a.uCodes [codeG y.d]) →
        ∃ w : RegWrites, w.flags = 0#5 ∧ exec (.movU y) s = .next (s.threadDone tid ((t.write w).onward y.len)))

/-- O11. R180: the count is element c of the same position, unsigned at full width; SHL and SHR give 0 for a count at or
above w; SAR fills with the top bit whatever the signedness, for a count at or above w with w copies of it; ROTL rotates by
c mod w. Each element of a packed register uses its own count: element e of the image is the shift of elements e. -/
def Obligations.ShiftRule : Prop :=
  (∀ (w : Nat) (sat sg : Bool) (a c d : BitVec w), 0 < w →
    opShl sat sg w a.toNat c.toNat d.toNat = ((a <<< c.toNat).toNat, 0#5)
    ∧ opShr sat sg w a.toNat c.toNat d.toNat = ((a >>> c.toNat).toNat, 0#5)
    ∧ (w ≤ c.toNat → (opShl sat sg w a.toNat c.toNat d.toNat).1 = 0 ∧ (opShr sat sg w a.toNat c.toNat d.toNat).1 = 0)
    ∧ opSar sat sg w a.toNat c.toNat d.toNat = ((a.sshiftRight c.toNat).toNat, 0#5)
    ∧ (w ≤ c.toNat → (opSar sat sg w a.toNat c.toNat d.toNat).1 = if a.msb then 2 ^ w - 1 else 0)
    ∧ opRotl sat sg w a.toNat c.toNat d.toNat = ((a.rotateLeft (c.toNat % w)).toNat, 0#5))
  ∧ ∀ (op : ElemOp) (arith : Bool) (rd : Rd) (a c : Opnd) (d l e : Nat),
      (op, arith) ∈ ([(opShl, false), (opShr, false), (opSar, true), (opRotl, false)] : List (ElemOp × Bool)) →
      etyBad arith (modeEty rd.mode) = false → ety64 (modeEty rd.mode) = false → e < elemCount (intEty arith rd) →
      elem (elemWidth (intEty arith rd)) e (intLane arith op rd a c d l).x
        = (op (modeSat rd.mode) (etySigned (intEty arith rd)) (elemWidth (intEty arith rd))
            (elem (elemWidth (intEty arith rd)) e (rd.vec false a l)) (elem (elemWidth (intEty arith rd)) e (rd.vec false c l))
            (elem (elemWidth (intEty arith rd)) e ((rd.v d l).setWidth 64))).1

/-- O12. R182: IDIV gives the quotient rounded toward zero, and IREM a − c × quotient, which takes the sign of a; both
ignore MODE.SAT and set no flag; by 0 the quotient is −1 (all ones) and the remainder a; the most negative number by −1
gives itself and 0. These are the elements of IDIV and IREM wherever they complete. -/
def Obligations.DivisionRule : Prop :=
  (∀ (w : Nat) (sat sg : Bool) (a c d : BitVec w), 0 < w →
    (opDiv sat sg w a.toNat c.toNat d.toNat).2 = 0#5 ∧ (opRem sat sg w a.toNat c.toNat d.toNat).2 = 0#5
    ∧ (c ≠ 0#w → (opDiv sat false w a.toNat c.toNat d.toNat).1 = a.toNat / c.toNat
        ∧ (opDiv sat true w a.toNat c.toNat d.toNat).1 = (BitVec.ofInt w (a.toInt.tdiv c.toInt)).toNat
        ∧ (opRem sat sg w a.toNat c.toNat d.toNat).1
          = (a - c * BitVec.ofNat w (opDiv sat sg w a.toNat c.toNat d.toNat).1).toNat
        ∧ (BitVec.ofNat w (opRem sat true w a.toNat c.toNat d.toNat).1).toInt = a.toInt.tmod c.toInt)
    ∧ (c = 0#w → (opDiv sat sg w a.toNat c.toNat d.toNat).1 = (BitVec.allOnes w).toNat
        ∧ (opRem sat sg w a.toNat c.toNat d.toNat).1 = a.toNat)
    ∧ (a = BitVec.intMin w → c = BitVec.allOnes w → (opDiv sat true w a.toNat c.toNat d.toNat).1 = a.toNat
        ∧ (opRem sat true w a.toNat c.toNat d.toNat).1 = 0))
  ∧ ∀ row ∈ ([(.idiv, opDiv), (.irem, opRem)] : List ((Op3 → Instr) × ElemOp)),
    ∀ (x : Op3) (s : State) (gid sp : Nat) (g : Group) (p : Split) (rd : Rd), s.Issues gid sp g p rd →
      g.Passes p ((specV3 x (etyBad true (modeEty rd.mode)) false (ety64 (modeEty rd.mode)) rd).guarded rd) rd.active →
      exec (row.1 x) s = .next (s.vecDone gid sp x.m x.len rd.active false
        (laneImages rd.lanes (ety64 (modeEty rd.mode)) x.d (intLane true row.2 rd x.a x.c x.d)))

/-- O13. At every width, the element operations of Table 1 of ch09 are the operations of two's complement words: sums,
differences, products, negation and |a| wrap mod 2^w without SAT, and with SAT are the exact value clamped to the type's
range, with OF where it lies outside (R178); MIN and MAX order by the type's signedness, IMULH is the upper half, the
bitwise rows act bit for bit, BREV reverses, POPC, CLZ and CTZ count (w for 0); BFX and BFI take position and length from
bytes 0 and 1 of c, cut to what lies in the element (R181); |a| is a under an unsigned type. -/
def Obligations.IntegerElementValues : Prop :=
  (∀ (w : Nat) (sat sg : Bool) (a c d : BitVec w), 0 < w →
    opAdd false sg w a.toNat c.toNat d.toNat = ((a + c).toNat, 0#5)
    ∧ opSub false sg w a.toNat c.toNat d.toNat = ((a - c).toNat, 0#5)
    ∧ opMul false sg w a.toNat c.toNat d.toNat = ((a * c).toNat, 0#5)
    ∧ opMad false sg w a.toNat c.toNat d.toNat = ((a * c + d).toNat, 0#5)
    ∧ opNeg false sg w a.toNat c.toNat d.toNat = ((-a).toNat, 0#5)
    ∧ opAbs false true w a.toNat c.toNat d.toNat = (a.abs.toNat, 0#5)
    ∧ opAbs sat false w a.toNat c.toNat d.toNat = (a.toNat, 0#5)
    ∧ opMin sat true w a.toNat c.toNat d.toNat = ((if a.sle c then a else c).toNat, 0#5)
    ∧ opMin sat false w a.toNat c.toNat d.toNat = ((if a.ule c then a else c).toNat, 0#5)
    ∧ opMax sat true w a.toNat c.toNat d.toNat = ((if a.sle c then c else a).toNat, 0#5)
    ∧ opMax sat false w a.toNat c.toNat d.toNat = ((if a.ule c then c else a).toNat, 0#5)
    ∧ opMulh sat false w a.toNat c.toNat d.toNat = (a.toNat * c.toNat / 2 ^ w, 0#5)
    ∧ opMulh sat true w a.toNat c.toNat d.toNat = ((BitVec.ofInt w (a.toInt * c.toInt / 2 ^ w)).toNat, 0#5)
    ∧ opAnd sat sg w a.toNat c.toNat d.toNat = ((a &&& c).toNat, 0#5)
    ∧ opOr sat sg w a.toNat c.toNat d.toNat = ((a ||| c).toNat, 0#5)
    ∧ opXor sat sg w a.toNat c.toNat d.toNat = ((a ^^^ c).toNat, 0#5)
    ∧ opAndn sat sg w a.toNat c.toNat d.toNat = ((a &&& ~~~c).toNat, 0#5)
    ∧ opNot sat sg w a.toNat c.toNat d.toNat = ((~~~a).toNat, 0#5)
    ∧ opBrev sat sg w a.toNat c.toNat d.toNat = (a.reverse.toNat, 0#5))
  ∧ (∀ (w : Nat) (sg : Bool) (a c d : BitVec w), 0 < w →
      ∀ row ∈ [(opAdd, readInt sg w a.toNat + readInt sg w c.toNat), (opSub, readInt sg w a.toNat - readInt sg w c.toNat),
        (opMul, readInt sg w a.toNat * readInt sg w c.toNat),
        (opMad, readInt sg w a.toNat * readInt sg w c.toNat + readInt sg w d.toNat), (opNeg, -readInt sg w a.toNat),
        (opAbs, |readInt sg w a.toNat|)],
      readInt sg w (row.1 true sg w a.toNat c.toNat d.toNat).1 = max (intMin sg w) (min (intMax sg w) row.2)
      ∧ ((row.1 true sg w a.toNat c.toNat d.toNat).2 = 4#5 ↔ row.2 < intMin sg w ∨ intMax sg w < row.2))
  ∧ (∀ (w : Nat) (sat sg : Bool) (a c d : BitVec w), 0 < w →
      (opPopc sat sg w a.toNat c.toNat d.toNat).1 = (List.range w).countP a.getLsbD
      ∧ (opClz sat sg w a.toNat c.toNat d.toNat).1 ≤ w
      ∧ (∀ k, w ≤ k + (opClz sat sg w a.toNat c.toNat d.toNat).1 → a.getLsbD k = false)
      ∧ ((opClz sat sg w a.toNat c.toNat d.toNat).1 < w → a.getLsbD (w - 1 - (opClz sat sg w a.toNat c.toNat d.toNat).1) = true)
      ∧ (opCtz sat sg w a.toNat c.toNat d.toNat).1 ≤ w
      ∧ (∀ k, k < (opCtz sat sg w a.toNat c.toNat d.toNat).1 → a.getLsbD k = false)
      ∧ ((opCtz sat sg w a.toNat c.toNat d.toNat).1 < w → a.getLsbD (opCtz sat sg w a.toNat c.toNat d.toNat).1 = true))
  ∧ ∀ (w : Nat) (sat sg : Bool) (a c d : BitVec w) (pos n : Nat), 0 < w → pos = c.toNat % 256 →
      n = min (c.toNat / 256 % 256) (w - pos) →
      (opBfx sat sg w a.toNat c.toNat d.toNat).1
          = (if sg then (a.extractLsb' pos n).signExtend w else (a.extractLsb' pos n).setWidth w).toNat
      ∧ (opBfi sat sg w a.toNat c.toNat d.toNat).1 < 2 ^ w
      ∧ ∀ k, k < w → (BitVec.ofNat w (opBfi sat sg w a.toNat c.toNat d.toNat).1).getLsbD k
          = if pos ≤ k ∧ k < pos + n then a.getLsbD (k - pos) else d.getLsbD k

/-- O14. PACK6 writes code i, bits [5:0] of byte i of the source, to bits [6i + 5:6i] of the 96-bit value; UNPK6 writes code
i to byte i with bits [7:6] zero (R218). So unpacking what was packed gives the source with bits [7:6] of every byte
cleared, and packing what was unpacked gives the 96 bits back. -/
def Obligations.PackedCodesRoundTrip : Prop :=
  (∀ x i : Nat, i < 16 → fieldOf (pack6 x) (6 * i) 6 = fieldOf x (8 * i) 6 ∧ fieldOf (unpk6 x) (8 * i) 8 = fieldOf x (6 * i) 6)
  ∧ (∀ x : Nat, pack6 x < 2 ^ 96 ∧ unpk6 x < 2 ^ 128)
  ∧ (∀ x : Nat, pack6 (unpk6 x) = x % 2 ^ 96)
  ∧ ∀ x i : Nat, i < 16 → fieldOf (unpk6 (pack6 x)) (8 * i) 8 = fieldOf x (8 * i) 6

/-- O15. The cross-lane instructions complete where no fault comes before. A shuffle's active lane takes a of its source
lane where that lane is active, else its own (R222). A reduction puts one value of all active lanes, each element position
on its own, in every active lane (R223). MINIDX and MAXIDX put the winning key and its lane in the pair (R224); SCANADD the
running sum (R225); MATCH the mask of active lanes with the same a (R226). -/
def Obligations.CrossLaneRows : Prop :=
  (∀ row ∈ ([(.shfl, fun _ c => some (c % 32)), (.shflx, fun l c => some (l ^^^ (c % 32))),
      (.shflup, fun l c => laneOf (l + 2 ^ 32 - c)), (.shfldn, fun l c => laneOf (l + c))] :
        List ((Op3 → Instr) × (Nat → Nat → Option Nat))),
    ∀ (x : Op3) (s : State) (gid sp : Nat) (g : Group) (p : Split) (rd : Rd), s.Issues gid sp g p rd →
      g.Passes p ((specShfl x rd).guarded rd) rd.active →
      exec (row.1 x) s = .next (s.vecDone gid sp x.m x.len rd.active false (laneImages rd.lanes rd.wideEty x.d fun l =>
        Res.pure (match row.2 l (rd.vec false x.c l).toNat with
          | some k => if hasLane rd.active k then rd.vec rd.wideEty x.a k else rd.vec rd.wideEty x.a l
          | none => rd.vec rd.wideEty x.a l))))
  ∧ (∀ row ∈ ([(.redadd, redAdd), (.redmin, redMinMax false), (.redmax, redMinMax true), (.redand, redBits (· &&& ·) true),
      (.redor, redBits (· ||| ·) false), (.redxor, redBits (· ^^^ ·) false)] : List ((Op2 → Instr) × RedOp)),
    ∀ (x : Op2) (s : State) (gid sp : Nat) (g : Group) (p : Split) (rd : Rd), s.Issues gid sp g p rd →
      g.Passes p ((specV2 x (redBad rd) rd.wideEty rd).guarded rd) rd.active →
      exec (row.1 x) s = .next (s.vecDone gid sp x.m x.len rd.active false
        (let r := mapElems (elemWidth (modeEty rd.mode)) (elemCount (modeEty rd.mode)) fun e =>
          row.2 (modeEty rd.mode) (modeSat rd.mode) (allLanes.map fun l => if hasLane rd.active l then
            some (elem (elemWidth (modeEty rd.mode)) e (rd.vec rd.wideEty x.a l)) else none)
        { laneImages rd.lanes rd.wideEty x.d (fun _ => Res.pure r.x) with flags := r.fl })))
  ∧ (∀ row ∈ ([(.minidx, false), (.maxidx, true)] : List ((Op2 → Instr) × Bool)),
    ∀ (x : Op2) (s : State) (gid sp : Nat) (g : Group) (p : Split) (rd : Rd), s.Issues gid sp g p rd →
      g.Passes p ((Spec.of x.m x.len (!(modeEty rd.mode == 0 || modeEty rd.mode == 1 || modeEty rd.mode == 8)
        || rd.vBad true x.d || rd.vecBad false x.a) (x.a.vCodes false) (codesV true x.d)).guarded rd) rd.active →
      exec (row.1 x) s = .next (s.vecDone gid sp x.m x.len rd.active false
        (let key (l : Nat) : Nat := (rd.vec false x.a l).toNat
        let w := (keyWinner row.2 (modeEty rd.mode) key rd.lanes none).getD 0
        { laneImages rd.lanes true x.d (fun _ => Res.pure (BitVec.ofNat 64 (keyOut (modeEty rd.mode) (key w) + 2 ^ 32 * w))) with
          flags := nanFlag (modeEty rd.mode == 8 && rd.lanes.any fun l => (fmtFP32.read (key l)).isSnan) })))
  ∧ ∀ (x : Op2) (s : State) (gid sp : Nat) (g : Group) (p : Split) (rd : Rd), s.Issues gid sp g p rd →
      (g.Passes p ((specV2 x (!etyInt (modeEty rd.mode)) rd.wideEty rd).guarded rd) rd.active →
        exec (.scanadd x) s = .next (s.vecDone gid sp x.m x.len rd.active false
          (laneImages rd.lanes rd.wideEty x.d (scanLane rd x))))
      ∧ (g.Passes p ((specV2 x (redBad rd) rd.wideEty rd).guarded rd) rd.active →
        exec (.matchV x) s = .next (s.vecDone gid sp x.m x.len rd.active false (laneImages rd.lanes rd.wideEty x.d fun l =>
          Res.pure ((maskWhere fun k => hasLane rd.active k && rd.vec rd.wideEty x.a k == rd.vec rd.wideEty x.a l).setWidth 64))))

/-- O16. PAND, POR, PXOR and PANDN write the active lanes' bits of p(d); PSET sets them where bits [31:0] of a are not zero;
PGET writes 1 or 0 to v(d) (R187). VOTE and BALLOT read the split's mask, not the guard (R196); READLANE reads any lane of
the group (R197), and a lane number above 31 is an OPND fault. -/
def Obligations.PredicateRows : Prop :=
  ∀ (s : State) (gid sp : Nat) (g : Group) (p : Split) (rd : Rd), s.Issues gid sp g p rd →
    (∀ row ∈ ([(.pand, fun a c => a &&& c), (.por, fun a c => a ||| c), (.pxor, fun a c => a ^^^ c),
        (.pandn, fun a c => a &&& ~~~c)] : List ((Rrr → Instr) × (W32 → W32 → W32))), ∀ x : Rrr,
      g.Passes p ((Spec.of x.m 1 false [codeP x.a, codeP x.c] [codeP x.d]).guarded rd) rd.active →
      exec (row.1 x) s = .next (s.vecDone gid sp x.m 1 rd.active true
        { RegWrites.none with p := [(x.d, rd.active, row.2 (rd.p x.a) (rd.p x.c))] }))
    ∧ (∀ x : Op2, g.Passes p ((Spec.of x.m x.len (rd.vecBad false x.a) (x.a.vCodes false) [codeP x.d]).guarded rd) rd.active →
      exec (.pset x) s = .next (s.vecDone gid sp x.m x.len rd.active true { RegWrites.none with
        p := [(x.d, rd.active, maskWhere fun l => decide ((rd.vec false x.a l).setWidth 32 ≠ 0#32))] }))
    ∧ (∀ x : Rr, g.Passes p ((Spec.of x.m 1 (rd.vBad false x.d) [codeP x.a] [x.d]).guarded rd) rd.active →
      exec (.pget x) s = .next (s.vecDone gid sp x.m 1 rd.active true (laneImages rd.lanes false x.d fun l =>
        Res.pure (BitVec.ofNat 64 (b01 (hasLane (rd.p x.a) l))))))
    ∧ (∀ x : VoteI, g.Passes p (Spec.of x.m 1 false [codeP x.p] [codeQ x.q]) rd.mask →
      exec (.vote x) s = .next (s.uniDone gid sp p x.m 1 false
        { RegWrites.none with q := [(x.q, voteOf x.mode rd.mask (rd.p x.p))] }))
    ∧ (∀ x : Rr, g.Passes p (Spec.of x.m 1 false [codeP x.a] [codeG x.d]) rd.mask →
      exec (.ballot x) s = .next (s.uniDone gid sp p x.m 1 false (RegWrites.gOne x.d ((rd.mask &&& rd.p x.a).setWidth 64))))
    ∧ ∀ x : ReadLaneI, g.Passes p (Spec.of x.m x.len (readLaneBad rd x) x.c.uCodes
        (codeG x.d :: codesV (ety64 (modeEty rd.mode)) x.a)) rd.mask →
      ((rd.uni x.c).toNat ≤ 31 → exec (.readlane x) s = .next (s.uniDone gid sp p x.m x.len false { RegWrites.none with
          g := [(x.d, if ety64 (modeEty rd.mode) then rd.pair x.a (rd.uni x.c).toNat
            else (rd.v x.a (rd.uni x.c).toNat).setWidth 64)]
          px := readLanePoison g (ety64 (modeEty rd.mode)) x.a (rd.uni x.c).toNat x.d }))
      ∧ (31 < (rd.uni x.c).toNat → exec (.readlane x) s = .next (s.simtFault gid sp 2 0))

/-- O17. SETMODE sets MODE to a with bits [31:24] dropped; MODEF replaces one field of the MODE and is an OPND fault for a
value wider than it, on either kind of core; GETMODE writes the governing MODE to g(d) (R188). On a group the new MODE
governs from 4 ac on (R189), on a control core at once. Which MODE a MODEF within those 4 ac changes is not stated: the
newest written is the model's choice (log entry 22). -/
def Obligations.ModeInstructions : Prop :=
  (∀ (s : State) (gid sp : Nat) (g : Group) (p : Split) (rd : Rd), s.Issues gid sp g p rd →
    (∀ x : Op1, g.Passes p (Spec.of x.m x.len false x.a.uCodes []) p.mask →
      exec (.setmode x) s = .next ((s.putMode gid sp ((rd.uni x.a).setWidth 32 &&& 0x00FFFFFF#32)).advance gid sp x.m x.len true
        none none))
    ∧ (∀ x : R1, g.Passes p (Spec.of x.m 1 false [rd.modeCode] [codeG x.r]) p.mask →
      exec (.getmode x) s = .next (s.uniDone gid sp p x.m 1 true (RegWrites.gOne x.r ((modeAt s.ac p.modeQ p.mode).setWidth 64))))
    ∧ ∀ x : ACode, g.Passes p (Spec.of x.m x.len false (rd.modeCode :: x.a.uCodes) []) p.mask →
      ((rd.uni x.a).toNat < 2 ^ (modefField x.code).2 →
        exec (.modef x) s = .next ((s.putMode gid sp (modePut (modeLast p.modeQ p.mode) (modefField x.code).1 (modefField x.code).2
          (rd.uni x.a).toNat)).advance gid sp x.m x.len true none none))
      ∧ (2 ^ (modefField x.code).2 ≤ (rd.uni x.a).toNat → exec (.modef x) s = .next (s.simtFault gid sp 2 0)))
  ∧ (∀ (s : State) (tid : Nat) (t : Thread), s.AtThread tid t →
    (∀ x : Op1, t.Passes (Spec.of x.m x.len false x.a.uCodes []) →
      exec (.setmode x) s = .next (s.threadDone tid
        ((t.putMode (((t.rd tid).uni x.a).setWidth 32 &&& 0x00FFFFFF#32)).onward x.len)))
    ∧ (∀ x : R1, t.Passes (Spec.of x.m 1 false [(t.rd tid).modeCode] [codeG x.r]) →
      exec (.getmode x) s = .next (s.threadDone tid ((t.write (RegWrites.gOne x.r (t.mode.setWidth 64))).onward 1)))
    ∧ ∀ x : ACode, t.Passes (Spec.of x.m x.len false ((t.rd tid).modeCode :: x.a.uCodes) []) →
      (((t.rd tid).uni x.a).toNat < 2 ^ (modefField x.code).2 →
        exec (.modef x) s = .next (s.threadDone tid
          ((t.putMode (modePut t.mode (modefField x.code).1 (modefField x.code).2 ((t.rd tid).uni x.a).toNat)).onward x.len)))
      ∧ (2 ^ (modefField x.code).2 ≤ ((t.rd tid).uni x.a).toNat → exec (.modef x) s = .next (s.threadFault tid 2 0)))
  ∧ (∀ (s : State) (gid sp : Nat) (g : Group) (p : Split) (x : W32), s.group? gid = some g → g.split? sp = some p →
    (((s.putMode gid sp x).group? gid).bind fun h => h.split? sp) = some { p with modeQ := p.modeQ ++ [(s.ac + 4, x)] }
    ∧ ((s.putMode gid sp x).group? gid).map (fun h => (h.regs.v, h.regs.g, h.regs.p, h.regs.q, h.regs.fstat, h.fixed, h.flights))
        = some (g.regs.v, g.regs.g, g.regs.p, g.regs.q, g.regs.fstat, g.fixed, g.flights))
  ∧ (∀ (t : Thread) (x : W32), (t.putMode x).mode = x ∧ (t.putMode x).g = t.g ∧ (t.putMode x).q = t.q
    ∧ (t.putMode x).fstat = t.fstat ∧ (t.putMode x).pc = t.pc)
  ∧ ∀ (ac due : Nat) (q : List (Nat × W32)) (m x : W32), modeAt ac [(due, x)] m = (if due ≤ ac then x else m)
    ∧ modeLast (q ++ [(due, x)]) m = x

/-- O18. A lane result, written, puts its image in v(d) (the high word in v(d + 1) of a pair) of its own lanes, a predicate
result the bits of p(d) of its lanes, a uniform result g(d) or q(d); flags are or-ed into FSTAT; every other lane, v, g, p
and q register, and the SR states, stay. Writes of p7 and q7 are discarded, and both read true (R154). -/
def Obligations.RegisterWriteRule : Prop :=
  (∀ (r : Regs) (ac : Nat) (lanes : List Nat) (wide : Bool) (d : Nat) (f : Nat → Res), lanes.Nodup → (∀ l ∈ lanes, l < 32) →
    (∀ n l, l < 32 → (r.write ac (laneImages lanes wide d f)).rdV n l
        = if l ∈ lanes ∧ n = d then (f l).x.setWidth 32
          else if l ∈ lanes ∧ wide = true ∧ n = d + 1 then ((f l).x >>> 32).setWidth 32 else r.rdV n l)
    ∧ (∀ n, (r.write ac (laneImages lanes wide d f)).rdG n = r.rdG n)
    ∧ (∀ n, (r.write ac (laneImages lanes wide d f)).rdP n = r.rdP n)
    ∧ (r.write ac (laneImages lanes wide d f)).q = r.q ∧ (r.write ac (laneImages lanes wide d f)).sr = r.sr
    ∧ (r.fsetAt ≠ some ac → (r.write ac (laneImages lanes wide d f)).fstat
        = r.fstat ||| (lanes.foldl (fun fl l => fl ||| (f l).fl) 0#5).setWidth 64))
  ∧ (∀ (r : Regs) (ac d : Nat) (mask x : W32),
    (∀ n, (r.write ac { RegWrites.none with p := [(d, mask, x)] }).rdP n
        = if n = d ∧ d ≠ 7 then (r.rdP d &&& ~~~mask) ||| (x &&& mask) else r.rdP n)
    ∧ (r.write ac { RegWrites.none with p := [(d, mask, x)] }).rdP 7 = 0xFFFFFFFF#32
    ∧ (∀ n l, (r.write ac { RegWrites.none with p := [(d, mask, x)] }).rdV n l = r.rdV n l)
    ∧ (∀ n, (r.write ac { RegWrites.none with p := [(d, mask, x)] }).rdG n = r.rdG n))
  ∧ (∀ (r : Regs) (ac d : Nat) (x : W64) (n : Nat),
    (r.write ac (RegWrites.gOne d x)).rdG n = (if n = d then x else r.rdG n)
    ∧ (∀ l, (r.write ac (RegWrites.gOne d x)).rdV n l = r.rdV n l) ∧ (r.write ac (RegWrites.gOne d x)).rdP n = r.rdP n)
  ∧ (∀ (r : Regs) (ac d : Nat) (b : Bool) (n : Nat),
    rdQ (r.write ac { RegWrites.none with q := [(d, b)] }).q n = (if n = d ∧ d ≠ 7 then b else rdQ r.q n)
    ∧ rdQ (r.write ac { RegWrites.none with q := [(d, b)] }).q 7 = true)
  ∧ ∀ (t : Thread) (d : Nat) (x : W64) (b : Bool) (n : Nat),
    Tbl.fget 0#64 (t.write (RegWrites.gOne d x)).g n = (if n = d then x else Tbl.fget 0#64 t.g n)
    ∧ rdQ (t.write (RegWrites.gOne d x)).q n = rdQ t.q n ∧ (t.write (RegWrites.gOne d x)).fstat = t.fstat
    ∧ rdQ (t.write { RegWrites.none with q := [(d, b)] }).q n = (if n = d ∧ d ≠ 7 then b else rdQ t.q n)

/-- O19. The result of a fixed-latency instruction waits 4 ac (R158). FIXED_LATENCY_WRITEBACK writes the results of the
group that are due, in the order of issue, and keeps the others waiting; where no safe point waits for one of them, memory,
every other group and the rest of the group stay as they were. VARIABLE_LATENCY_RESULT writes a result computed at issue,
which nothing holds up. -/
def Obligations.FixedLatencyWriteback : Prop :=
  (∀ (s : State) (gid : Nat) (g : Group), s.group? gid = some g →
    (∀ q ∈ g.splits, ∀ y ∈ q.2.spQ, s.ac < y.due) → (∀ q ∈ g.sets, ∀ y ∈ q.spQ, s.ac < y.due) →
    exec (.fixedLatencyWriteback gid) s = .next (s.putGroup gid { g with
      regs := (g.fixed.filter fun x => decide (x.due ≤ s.ac)).foldl (fun r x => r.write s.ac x.w) g.regs
      fixed := g.fixed.filter fun x => decide (s.ac < x.due) }))
  ∧ (∀ (s : State) (gid : Nat) (g : Group) (act : W32) (w : RegWrites), s.group? gid = some g →
    ((s.putFixed gid act w).group? gid).map Group.fixed = some (g.fixed ++ [⟨s.ac + 4, act, w⟩])
    ∧ (s.ac + 4, Event.fixedLatencyWriteback gid) ∈ (s.putFixed gid act w).agenda
    ∧ ((s.putFixed gid act w).group? gid).map Group.regs = some g.regs)
  ∧ ∀ (s : State) (gid id : Nat) (g : Group) (f : Flight), s.group? gid = some g → g.flight? id = some f →
    f.kind = .alu → f.acc = [] → g.heldFlight f = false →
    exec (.variableLatencyResult gid id) s
      = .next ((s.modGroup gid fun g => { g with regs := g.regs.write s.ac f.w }).finishFlight gid id)

/-! ### Steps -/

/-- O20. When no event is due: a split that may issue, whose words at the pc are those of a well-formed Amitia instruction
that SIMT groups have, runs exec of it at that state; a control thread that issues likewise, at its level, at the state with
the translation of the pc cached (that it is cached at the step is the model's choice, log entry 16: R286 says only that a
core may cache translations); a running queue whose packet is not in commit runs the next word of its sketch (R335). exec
itself moves the pc on. -/
def Obligations.StepRunsDecoded : Prop :=
  (∀ (s : State) (gid sp : Nat) (g : Group) (p : Split) (i : Instr) (r : Raw), s.quiet → s.AtSplit gid sp g p →
    s.mayIssue gid sp g = true → WellFormed i → i.toRaw = some r → undefSimt r.u r.op = false →
    fetchWords (s.fetchSimt g.place.ctx) p.pc.toNat (encode i).length = .ok (encode i) →
    step s = exec i s)
  ∧ (∀ (s : State) (tid : Nat) (t : Thread) (i : Instr) (r : Raw), s.quiet → s.AtThread tid t →
    t.running = true → t.wfi = false → t.wait = none → t.tupleWait = none →
    WellFormed i → i.toRaw = some r → undefThread r.u r.op = false → opLevel r.op ≤ t.lvl →
    fetchWords ((s.tlbFill t (s.partOfThread tid) t.pc.toNat).fetchThread tid) t.pc.toNat (encode i).length = .ok (encode i) →
    step s = exec i (s.tlbFill t (s.partOfThread tid) t.pc.toNat))
  ∧ ∀ (s : State) (q : Nat) (k : Packet) (c : Sketch) (i : Instr), s.quiet → s.turns.head? = some (.easel q) →
    (s.queue q).pkt = some k → (s.queue q).state = 3 → k.commit = none →
    s.sketch? (s.partOfQueue q) (s.queue q).sketch = some c → WellFormed i → i.toSketch.isSome = true →
    (∃ w : W32, encode i = [w] ∧ c.words[8 + k.pc]? = some w) →
    step s = exec i s

/-- O21. When an event of the agenda is due, and none before it is, the step takes it off the agenda and is exec of the
instruction of the same name, a write that has reached a hub register being a REGISTER_WRITE; the events that are no
instruction (the end of a lending's handshake or of a dump, a row's grant, an answer of the root of trust) do what their
names say. While the clocks of its context stand still it is held for them instead (log entry 100). With nothing due and no
turn left the clock ticks to the next ac while the module is on; while it is off the state stays (log entry 1: POWER_ON
comes from outside). That the events of an ac come before its turns, and its stall samples after them, is the model's choice
(log entry 11). -/
def Obligations.StepWithoutATurn : Prop :=
  (∀ (s : State) (pre post : List (Nat × Event)) (due : Nat) (e : Event), s.agenda = pre ++ (due, e) :: post →
    (∀ x ∈ pre, s.NotYet x) → due ≤ s.ac → e.late = false ∨ s.turns = [] →
    (∀ q, s.eventCtx e = some q → (s.ctx q).frozen = true →
      step s = .next ({ s with agenda := pre ++ post }.holdEvent q e))
    ∧ ((∀ q, s.eventCtx e = some q → (s.ctx q).frozen = false) →
      (∀ i : Instr, e.Is i → step s = exec i { s with agenda := pre ++ post })
      ∧ ((∃ i : Instr, e.Is i) ∨ (∃ stack pair, e = .lendDone stack pair) ∨ e = .dumpEnd ∨ (∃ x, e = .rowGrant x)
        ∨ (∃ k req, e = .evidence k req) ∨ ∃ req, e = .podDone req)
      ∧ (∀ stack pair, e = .lendDone stack pair → step s = .next ({ s with agenda := pre ++ post }.lendNext stack pair))
      ∧ (e = .dumpEnd → step s = .next { s with agenda := pre ++ post }.endDump)
      ∧ (∀ x, e = .rowGrant x → step s = .next { s with agenda := pre ++ post })
      ∧ (∀ k req, e = .evidence k req → step s = { s with agenda := pre ++ post }.evidenceAt k req)
      ∧ ∀ req, e = .podDone req → step s = { s with agenda := pre ++ post }.podDone req))
  ∧ ∀ s : State, s.quiet → s.turns = [] →
    (s.module.on = true → step s = .next s.tick ∧ s.tick.ac = s.ac + 1)
    ∧ (s.module.on = false → step s = .next s)

/-- O22. A vector-class word, or a uniform one of SIMT groups only, run by a control thread, and a uniform word of control
cores only run by a SIMT group, is an UNDEF fault (cause 1, value 0) whatever its operands (R165). -/
def Obligations.UndefinedOnTheOtherCore : Prop :=
  ∀ (i : Instr) (r : Raw) (s : State), i.toRaw = some r →
    (∀ (tid : Nat) (t : Thread), s.AtThread tid t → undefThread r.u r.op = true → exec i s = .next (s.threadFault tid 1 0))
    ∧ ∀ (gid sp : Nat) (g : Group) (p : Split), s.AtSplit gid sp g p → undefSimt r.u r.op = true →
      exec i s = .next (s.simtFault gid sp 1 0)

/-- O23. On a control core, an instruction that needs the kernel or the hypervisor level, run by a thread of a lower level,
is a PRIV fault (cause 5, value 0) and has no other effect than the trap (R165). -/
def Obligations.PrivilegedBelowTheirLevel : Prop :=
  ∀ (i : Instr) (r : Raw) (s : State) (tid : Nat) (t : Thread), i.toRaw = some r → s.AtThread tid t →
    undefThread r.u r.op = false → t.lvl < opLevel r.op → exec i s = .next (s.threadFault tid 5 0)

/-! ### Control flow (R161, R190 to R198, R202) -/

/-- O24. Where no safe point is at the next address and the group is not stepped: the split goes on at the address branched
to or after the instruction's words; a B or W marker, or a wait, ends the run and makes the split ready 4 ac on; else the
run's count rises by one. The split's turn is over; registers, memory, the hub, other splits and other groups stay. -/
def Obligations.IssueBookkeeping : Prop :=
  ∀ (s : State) (gid sp : Nat) (g : Group) (p : Split) (m : Marks) (len : Nat) (fixed : Bool) (next : Option W64)
    (park : Option Park), s.group? gid = some g → g.split? sp = some p → g.stepOn = false → g.stepHeld = false →
    ((m.s = false ∧ next = none) ∨ s.ordinalOf g (next.getD (p.pc + BitVec.ofNat 64 (4 * len))) = none) →
    ∃ (h : Group) (q : Split), (s.advance gid sp m len fixed next park).group? gid = some h ∧ h.split? sp = some q
      ∧ q.pc = next.getD (p.pc + BitVec.ofNat 64 (4 * len)) ∧ q.mask = p.mask ∧ q.mode = p.mode ∧ q.modeQ = p.modeQ
      ∧ q.run = (if m.b || m.w || park.isSome then 0 else p.run + 1)
      ∧ q.readyAt = (if m.b || m.w || park.isSome then s.ac + 4 else p.readyAt) ∧ q.park = park ∧ q.wpend = m.w
      ∧ h.regs = g.regs ∧ h.fixed = g.fixed ∧ h.flights = g.flights ∧ h.mat = g.mat ∧ h.sets = g.sets
      ∧ (∀ i, i ≠ sp → h.split? i = g.split? i)
      ∧ (∀ k, k ≠ gid → (s.advance gid sp m len fixed next park).group? k = s.group? k)
      ∧ (s.advance gid sp m len fixed next park).turns = s.turns.tail
      ∧ (s.advance gid sp m len fixed next park).store = s.store ∧ (s.advance gid sp m len fixed next park).hub = s.hub
      ∧ (s.advance gid sp m len fixed next park).ac = s.ac

/-- O25. On a group, BRA branches to its pc plus the signed offset, BRQ where (c ≠ 0) xor Z; JMPI, RET and CALLI to g(r),
which must be a multiple of 4 (ALIGN, 9) and a safe point of the kernel (RUN, 3); CALL and CALLI write the address after
their words to g(d). A direct offset that is no multiple of 4 is an ALIGN fault. Branches of a traced context stage their
packets (R429), and the sync point after 32 (R431). That the link is in g(d) at issue is the model's choice (log entry 105).
-/
def Obligations.BranchesOnGroups : Prop :=
  ∀ (s : State) (gid sp : Nat) (g : Group) (p : Split) (rd : Rd), s.Issues gid sp g p rd →
    (∀ x : BraI, g.Passes p (Spec.branch x.m 2 false [] []) p.mask →
      (x.off.toNat % 4 = 0 → exec (.bra x) s = .next (s.advance gid sp x.m 2 false (some (p.pc + x.off.signExtend 64)) none))
      ∧ (x.off.toNat % 4 ≠ 0 → exec (.bra x) s = .next (s.simtFault gid sp 9 (p.pc + x.off.signExtend 64).toNat)))
    ∧ (∀ x : BrqI, g.Passes p (Spec.branch x.m x.len false x.c.uCodes []) p.mask → x.off.toNat % 4 = 0 →
      ((rd.uni x.c ≠ 0#64 ↔ x.z = false) → exec (.brq x) s = .next ((s.tracePacket gid 2 (some sp) true []).advance gid sp x.m x.len
        false (some (p.pc + x.off.signExtend 64)) none |>.syncDue gid))
      ∧ ((rd.uni x.c ≠ 0#64 ↔ x.z = true) → exec (.brq x) s = .next ((s.tracePacket gid 3 (some sp) true []).advance gid sp x.m
        x.len false none none |>.syncDue gid)))
    ∧ (∀ x : BrqI, g.Passes p (Spec.branch x.m x.len false x.c.uCodes []) p.mask → x.off.toNat % 4 ≠ 0 →
      exec (.brq x) s = .next (s.simtFault gid sp 9 (p.pc + x.off.signExtend 64).toNat))
    ∧ (∀ b ∈ ([.jmpi, .ret] : List (R1 → Instr)), ∀ x : R1, g.Passes p (Spec.branch x.m 1 false [codeG x.r] []) p.mask →
      ((rd.g x.r).toNat % 4 = 0 → (s.ordinalOf g (rd.g x.r)).isSome = true →
        exec (b x) s = .next ((s.traceIndirect gid sp g (rd.g x.r)).advance gid sp x.m 1 false (some (rd.g x.r)) none |>.syncDue gid))
      ∧ ((rd.g x.r).toNat % 4 ≠ 0 → exec (b x) s = .next (s.simtFault gid sp 9 (rd.g x.r).toNat))
      ∧ ((rd.g x.r).toNat % 4 = 0 → s.ordinalOf g (rd.g x.r) = none → exec (b x) s = .next (s.simtFault gid sp 3 0)))
    ∧ (∀ x : CallI, g.Passes p (Spec.branch x.m 2 true [] [codeG x.d]) p.mask → x.off.toNat % 4 = 0 →
      exec (.call x) s = .next ((s.modGroup gid fun g => { g with
        regs := g.regs.write s.ac (RegWrites.gOne x.d (p.pc + 8#64)) }).advance gid sp x.m 2 false
          (some (p.pc + x.off.signExtend 64)) none))
    ∧ (∀ x : CallI, g.Passes p (Spec.branch x.m 2 true [] [codeG x.d]) p.mask → x.off.toNat % 4 ≠ 0 →
      exec (.call x) s = .next (s.simtFault gid sp 9 (p.pc + x.off.signExtend 64).toNat))
    ∧ (∀ x : Rr, g.Passes p (Spec.branch x.m 1 true [codeG x.a] [codeG x.d]) p.mask →
      ((rd.g x.a).toNat % 4 ≠ 0 → exec (.calli x) s = .next (s.simtFault gid sp 9 (rd.g x.a).toNat))
      ∧ ((rd.g x.a).toNat % 4 = 0 → s.ordinalOf g (rd.g x.a) = none → exec (.calli x) s = .next (s.simtFault gid sp 3 0)))
    ∧ ∀ x : Rr, g.Passes p (Spec.branch x.m 1 true [codeG x.a] [codeG x.d]) p.mask → (rd.g x.a).toNat % 4 = 0 →
      (s.ordinalOf g (rd.g x.a)).isSome = true →
      exec (.calli x) s = .next (((s.traceIndirect gid sp g (rd.g x.a)).modGroup gid fun g => { g with
        regs := g.regs.write s.ac (RegWrites.gOne x.d (p.pc + 4#64)) }).advance gid sp x.m 1 false (some (rd.g x.a)) none |>.syncDue gid)

/-- O26. A control thread branches at once; indirect addresses need only be multiples of 4 (R192); CALL and CALLI write the
link first. YIELD is a hint. TRAP and BKPT trap with CLASS FAULT, causes 0x0F and 0x10, the number in xVAL and the next
instruction in xEPC, and the thread goes on at the vector (R198). EXIT outside an enclave ends the thread: it issues nothing
more (R202). -/
def Obligations.BranchesOnControlCores : Prop :=
  ∀ (s : State) (tid : Nat) (t : Thread), s.AtThread tid t →
    (∀ x : BraI, t.Passes (Spec.branch x.m 2 false [] []) →
      (x.off.toNat % 4 = 0 → exec (.bra x) s = .next (s.threadDone tid { t with pc := t.pc + x.off.signExtend 64 }))
      ∧ (x.off.toNat % 4 ≠ 0 → exec (.bra x) s = .next (s.threadFault tid 9 (t.pc + x.off.signExtend 64).toNat)))
    ∧ (∀ x : BrqI, t.Passes (Spec.branch x.m x.len false x.c.uCodes []) → x.off.toNat % 4 = 0 →
      exec (.brq x) s = .next (s.threadDone tid (if ((t.rd tid).uni x.c ≠ 0#64 ↔ x.z = false)
        then { t with pc := t.pc + x.off.signExtend 64 } else t.onward x.len)))
    ∧ (∀ x : BrqI, t.Passes (Spec.branch x.m x.len false x.c.uCodes []) → x.off.toNat % 4 ≠ 0 →
      exec (.brq x) s = .next (s.threadFault tid 9 (t.pc + x.off.signExtend 64).toNat))
    ∧ (∀ b ∈ ([.jmpi, .ret] : List (R1 → Instr)), ∀ x : R1, t.Passes (Spec.branch x.m 1 false [codeG x.r] []) →
      (((t.rd tid).g x.r).toNat % 4 = 0 → exec (b x) s = .next (s.threadDone tid { t with pc := (t.rd tid).g x.r }))
      ∧ (((t.rd tid).g x.r).toNat % 4 ≠ 0 → exec (b x) s = .next (s.threadFault tid 9 ((t.rd tid).g x.r).toNat)))
    ∧ (∀ x : CallI, t.Passes (Spec.branch x.m 2 true [] [codeG x.d]) → x.off.toNat % 4 = 0 →
      exec (.call x) s = .next (s.threadDone tid { t.write (RegWrites.gOne x.d (t.pc + 8#64)) with
        pc := t.pc + x.off.signExtend 64 }))
    ∧ (∀ x : CallI, t.Passes (Spec.branch x.m 2 true [] [codeG x.d]) → x.off.toNat % 4 ≠ 0 →
      exec (.call x) s = .next (s.threadFault tid 9 (t.pc + x.off.signExtend 64).toNat))
    ∧ (∀ x : Rr, t.Passes (Spec.branch x.m 1 true [codeG x.a] [codeG x.d]) → ((t.rd tid).g x.a).toNat % 4 ≠ 0 →
      exec (.calli x) s = .next (s.threadFault tid 9 ((t.rd tid).g x.a).toNat))
    ∧ (∀ x : Rr, t.Passes (Spec.branch x.m 1 true [codeG x.a] [codeG x.d]) → ((t.rd tid).g x.a).toNat % 4 = 0 →
      exec (.calli x) s = .next (s.threadDone tid { t.write (RegWrites.gOne x.d (t.pc + 4#64)) with pc := (t.rd tid).g x.a }))
    ∧ (∀ x : Op0, t.Passes (Spec.branch x.m 1 false [] []) →
      exec (.yield x) s = .next (s.threadDone tid (t.onward 1))
      ∧ (t.eid = 0 → exec (.exit x) s = .next (s.threadDone tid ({ t with running := false }.onward 1))))
    ∧ ∀ k ∈ ([(.trap, 0x0F), (.bkpt, 0x10)] : List ((Op1 → Instr) × Nat)), ∀ x : Op1, t.Passes (trapSpec x) →
      exec (k.1 x) s = .next (s.trap tid ⟨0, k.2, if t.lvl = 2 then 2 else 1, t.pc + BitVec.ofNat 64 (4 * x.len),
        BitVec.ofNat 64 (((t.rd tid).uni x.a).toNat % 2 ^ 16), false⟩).pop

/-- O27. BRV divides the split: the taken lanes, those of p (or not p), go to the target, the others on (R193); EXIT ends
the split's lanes (R194); JOIN holds the split at its own address, held splits make room for parked sets, and the JOIN test
follows (R11); YIELD lets another split go first (R195). TRAP halts the context with TRAPI and the number in bits [15:0] of
a; BKPT likewise under DEBUG policy, and has no effect without (R198). -/
def Obligations.SplitControl : Prop :=
  ∀ (s : State) (gid sp : Nat) (g : Group) (p : Split) (rd : Rd), s.Issues gid sp g p rd →
    (∀ x : BrvI, g.Passes p (Spec.branch { x.m with s := false } 2 false [codeP x.p] []) p.mask → x.off.toNat % 4 = 0 →
      exec (.brv x) s = .next (((s.tracePacket gid 4 none true
        (BitVec.ofNat 8 (divergeByte g sp (p.mask &&& (if x.inv then ~~~(rd.p x.p) else rd.p x.p)) p.mask
            (decide (p.pc + x.off.signExtend 64 = p.pc + 8#64)))
          :: leBytes 4 (p.mask &&& (if x.inv then ~~~(rd.p x.p) else rd.p x.p)).toNat)).advance gid sp { x.m with s := false } 2
            false none none).divide gid sp (p.mask &&& (if x.inv then ~~~(rd.p x.p) else rd.p x.p))
              (p.pc + x.off.signExtend 64) (p.pc + 8#64) x.m |>.syncDue gid))
    ∧ (∀ x : Op0, g.Passes p (Spec.branch x.m 1 false [] []) p.mask →
      exec (.join x) s = .next (((s.advance gid sp x.m 1 false none (some .join)).modSplit gid sp fun q =>
        { q with pc := p.pc }).joinStep gid g)
      ∧ exec (.exit x) s = .next (((s.tracePacket gid 7 none true [BitVec.ofNat 8 sp]).advance gid sp x.m 1 false none
        none).endSplit gid sp |>.syncDue gid)
      ∧ exec (.yield x) s = .next ((s.advance gid sp x.m 1 false none none).modSplit gid sp fun q => { q with yielded := true }))
    ∧ ∀ x : Op1, g.Passes p (trapSpec x) p.mask →
      exec (.trap x) s = .next ((s.advance gid sp x.m x.len false none none).haltGroup gid sp 0x0F ((rd.uni x.a).toNat % 2 ^ 16))
      ∧ (bitOf (s.policyOf (s.ctx g.place.ctx).eid) 0 = true → exec (.bkpt x) s
        = .next ((s.advance gid sp x.m x.len false none none).haltGroup gid sp 0x10 ((rd.uni x.a).toNat % 2 ^ 16)))
      ∧ (bitOf (s.policyOf (s.ctx g.place.ctx).eid) 0 = false → exec (.bkpt x) s
        = .next (s.advance gid sp x.m x.len false none none))

/-- O28. A BRV whose taken and untaken lanes are both some, and go to different addresses, with an index free: the split
keeps the lanes of the lower address, the lowest free index gets the others, each with its own lanes, address and the
split's MODE; here where neither address is a safe point. Registers and memory stay. -/
def Obligations.DivergenceRule : Prop :=
  ∀ (s : State) (gid sp i : Nat) (g : Group) (p : Split) (taken : W32) (target fall : W64) (m : Marks), s.group? gid = some g →
    g.split? sp = some p → g.freeIndex = some i → taken &&& p.mask ≠ 0#32 → p.mask &&& ~~~taken ≠ 0#32 → target ≠ fall →
    s.ordinalOf g target = none → s.ordinalOf g fall = none →
    ∃ (h : Group) (a b : Split), (s.divide gid sp taken target fall m).group? gid = some h
      ∧ h.split? sp = some a ∧ h.split? i = some b ∧ i ≠ sp
      ∧ (if target.toNat < fall.toNat then a.pc = target ∧ a.mask = taken &&& p.mask ∧ b.pc = fall ∧ b.mask = p.mask &&& ~~~taken
          else a.pc = fall ∧ a.mask = p.mask &&& ~~~taken ∧ b.pc = target ∧ b.mask = taken &&& p.mask)
      ∧ a.mask &&& b.mask = 0#32 ∧ a.mask ||| b.mask = p.mask
      ∧ a.mode = modeLast p.modeQ p.mode ∧ b.mode = modeLast p.modeQ p.mode ∧ h.regs = g.regs
      ∧ (s.divide gid sp taken target fall m).store = s.store

/-! ### Memory (R33 to R58, R227 to R241) -/

/-- O29. LD and LDACQ read each active lane at its own address, LDU and LDUACQ once for the split, GLD at g(base) plus the
unsigned 32-bit offset of the lane. Where every access translates, the load is in flight, its destination pending, and the
group goes on; the lowest faulting lane gives the fault (R167). PREF is a hint: it has no effect (R233). -/
def Obligations.LoadsOnGroups : Prop :=
  ∀ (s : State) (gid sp : Nat) (g : Group) (p : Split) (rd : Rd), s.Issues gid sp g p rd →
    (∀ row ∈ ([(.ld, false), (.ldacq, true)] : List ((Load → Instr) × Bool)), ∀ x : Load,
      g.Passes p (Spec.of x.m x.len (rd.vBad (x.acc.size == 6) x.d || rd.addrBad x.a)
        (rd.modeCodes ++ x.a.vCodes true) (loadRegs x.acc.size x.d)) rd.active →
      (∀ acc, collect (fun l => s.accAt g.place.ctx l (rd.addr x.a l).toNat (sizeBytes x.acc.size) 0 0 .read false true) rd.lanes
          = .ok acc →
        exec (row.1 x) s = .next ((s.send gid { Flight.access sp (.load x.acc.size) rd.active 0 acc with
          dv := loadRegs x.acc.size x.d, acq := row.2, scope := x.acc.scope }).advance gid sp x.m x.len false none none))
      ∧ ∀ e, collect (fun l => s.accAt g.place.ctx l (rd.addr x.a l).toNat (sizeBytes x.acc.size) 0 0 .read false true) rd.lanes
          = .error e → exec (row.1 x) s = .next (s.issueFlt gid sp g 0 e))
    ∧ (∀ row ∈ ([(.ldu, false), (.lduacq, true)] : List ((Load → Instr) × Bool)), ∀ x : Load,
      g.Passes p (Spec.of x.m x.len false x.a.uCodes [codeG x.d]) p.mask →
      (∀ acc, s.accAt g.place.ctx 0 (rd.addrU x.a).toNat (sizeBytes x.acc.size) 0 0 .read false true = .ok acc →
        exec (row.1 x) s = .next ((s.send gid { Flight.access sp (.load x.acc.size) p.mask 0 acc with
          dg := [x.d], acq := row.2, scope := x.acc.scope }).advance gid sp x.m x.len false none none))
      ∧ ∀ c v, s.accAt g.place.ctx 0 (rd.addrU x.a).toNat (sizeBytes x.acc.size) 0 0 .read false true = .error (c, v) →
        exec (row.1 x) s = .next (s.issueFault gid sp g 0 c v))
    ∧ (∀ x : Gath, g.Passes p (specGath x false rd) rd.active →
      ∀ acc, collect (fun l => s.accAt g.place.ctx l (gathAddr rd x l) (sizeBytes (gathSize (modeEty rd.mode))) 0 0 .read false
          false) rd.lanes = .ok acc →
        exec (.gld x) s = .next ((s.send gid { Flight.access sp (.load (gathSize (modeEty rd.mode))) rd.active 0 acc with
          dv := loadRegs (gathSize (modeEty rd.mode)) x.d, gather := true }).advance gid sp x.m x.len false none none))
    ∧ ∀ x : Op1, g.Passes p (Spec.of x.m x.len (rd.addrBad x.a) (rd.modeCodes ++ x.a.vCodes true) []) rd.active →
      exec (.pref x) s = .next (s.advance gid sp x.m x.len false none none)

/-- O30. ST, STREL and STNT write the low bytes of C of each active lane at its own address, STU and STUREL once for the
split, GST at g(base) plus the lane's offset. Where every access translates, the store is in flight (STORE_PERFORMED writes
it, with the release or non-temporal mark of its name), memory is not yet written, and the group goes on. -/
def Obligations.StoresOnGroups : Prop :=
  ∀ (s : State) (gid sp : Nat) (g : Group) (p : Split) (rd : Rd), s.Issues gid sp g p rd →
    (∀ row ∈ ([(.st, false, false), (.strel, true, false), (.stnt, false, true)] : List ((Store → Instr) × Bool × Bool)), ∀ x : Store,
      g.Passes p { Spec.of x.m x.len (rd.dataBad (x.acc.size == 6) x.c || rd.addrBad x.a) (rd.modeCodes
          ++ (x.a.vCodes true ++ x.c.vCodes (x.acc.size == 6))) [] with rkind := 1 } rd.active →
      (∀ acc, collect (fun l => s.accAt g.place.ctx l (rd.addr x.a l).toNat (sizeBytes x.acc.size)
          ((rd.dataV (x.acc.size == 6) x.c l).toNat % 2 ^ (8 * sizeBytes x.acc.size)) 0 .write false true) rd.lanes = .ok acc →
        exec (row.1 x) s = .next ((s.send gid { Flight.access sp .store rd.active 1 acc with
          rel := row.2.1, nt := row.2.2, scope := x.acc.scope }).advance gid sp x.m x.len false none none))
      ∧ ∀ e, collect (fun l => s.accAt g.place.ctx l (rd.addr x.a l).toNat (sizeBytes x.acc.size)
          ((rd.dataV (x.acc.size == 6) x.c l).toNat % 2 ^ (8 * sizeBytes x.acc.size)) 0 .write false true) rd.lanes = .error e →
        exec (row.1 x) s = .next (s.issueFlt gid sp g 1 e))
    ∧ (∀ row ∈ ([(.stu, false), (.sturel, true)] : List ((Store → Instr) × Bool)), ∀ x : Store,
      g.Passes p { Spec.of x.m x.len false (x.a.uCodes ++ x.c.uCodes) [] with rkind := 1 } p.mask →
      ∀ acc, s.accAt g.place.ctx 0 (rd.addrU x.a).toNat (sizeBytes x.acc.size)
          ((rd.dataU (x.acc.size == 6) x.c).toNat % 2 ^ (8 * sizeBytes x.acc.size)) 0 .write false true = .ok acc →
        exec (row.1 x) s = .next ((s.send gid { Flight.access sp .store p.mask 1 acc with
          rel := row.2, scope := x.acc.scope }).advance gid sp x.m x.len false none none))
    ∧ ∀ x : Gath, g.Passes p (specGath x true rd) rd.active →
      ∀ acc, collect (fun l => s.accAt g.place.ctx l (gathAddr rd x l) (sizeBytes (gathSize (modeEty rd.mode)))
          ((if sizeBytes (gathSize (modeEty rd.mode)) = 8 then rd.pair x.d l else (rd.v x.d l).setWidth 64).toNat
            % 2 ^ (8 * sizeBytes (gathSize (modeEty rd.mode)))) 0 .write false false) rd.lanes = .ok acc →
        exec (.gst x) s = .next ((s.send gid (Flight.access sp .store rd.active 1 acc)).advance gid sp x.m x.len false none none)

/-- O31. LDL, LDL4, STL and STL4 access the team's local store at the lane's 32-bit offset, 16 bytes for the fours (R234):
an offset that is no multiple of the size is an ALIGN fault (9), one whose bytes end beyond the team's local store a RANGE
fault (10), the lowest lane's; otherwise the access is in flight and the group goes on. -/
def Obligations.LocalStoreAccesses : Prop :=
  (∀ (s : State) (g : Group) (l off n data : Nat),
    s.localAt g l off n data = if off % n ≠ 0 then .error (9, off) else if s.localLen g < off + n then .error (10, off)
      else .ok [⟨l, some g.place.team, off, off, n, 0, data, 0⟩])
  ∧ ∀ (s : State) (gid sp : Nat) (g : Group) (p : Split) (rd : Rd) (acc : List Acc), s.Issues gid sp g p rd →
    (∀ x : Load, g.Passes p (Spec.of x.m x.len (rd.vBad (x.acc.size == 6) x.d || rd.offBad x.a)
        (rd.modeCodes ++ x.a.vCodes false) (loadRegs x.acc.size x.d)) rd.active →
      collect (fun l => s.localAt g l ((rd.vec false x.a l).toNat % 2 ^ 32) (sizeBytes x.acc.size) 0) rd.lanes = .ok acc →
      exec (.ldl x) s = .next ((s.send gid { Flight.access sp (.load x.acc.size) rd.active 2 acc with
        dv := loadRegs x.acc.size x.d }).advance gid sp x.m x.len false none none))
    ∧ (∀ x : Op2, g.Passes p (Spec.of x.m x.len (decide (rd.vregs < x.d + 4) || rd.offBad x.a)
        (rd.modeCodes ++ x.a.vCodes false) [x.d, x.d + 1, x.d + 2, x.d + 3]) rd.active →
      collect (fun l => s.localAt g l ((rd.vec false x.a l).toNat % 2 ^ 32) 16 0) rd.lanes = .ok acc →
      exec (.ldl4 x) s = .next ((s.send gid { Flight.access sp (.load 6) rd.active 2 acc with
        dv := [x.d, x.d + 1, x.d + 2, x.d + 3] }).advance gid sp x.m x.len false none none))
    ∧ (∀ x : Store, g.Passes p (Spec.of x.m x.len (rd.dataBad (x.acc.size == 6) x.c || rd.offBad x.a)
        (rd.modeCodes ++ (x.a.vCodes false ++ x.c.vCodes (x.acc.size == 6))) []) rd.active →
      collect (fun l => s.localAt g l ((rd.vec false x.a l).toNat % 2 ^ 32) (sizeBytes x.acc.size)
        ((rd.dataV (x.acc.size == 6) x.c l).toNat % 2 ^ (8 * sizeBytes x.acc.size))) rd.lanes = .ok acc →
      exec (.stl x) s = .next ((s.send gid (Flight.access sp .store rd.active 3 acc)).advance gid sp x.m x.len false none none))
    ∧ (∀ x : OpReg, g.Passes p (Spec.of x.m x.len (decide (rd.vregs < x.c + 4) || rd.offBad x.a)
        (rd.modeCodes ++ (x.a.vCodes false ++ [x.c, x.c + 1, x.c + 2, x.c + 3])) []) rd.active →
      collect (fun l => s.localAt g l ((rd.vec false x.a l).toNat % 2 ^ 32) 16
        (((rd.pair x.c l).toNat + 2 ^ 64 * (rd.pair (x.c + 2) l).toNat) % 2 ^ 128)) rd.lanes = .ok acc →
      exec (.stl4 x) s = .next ((s.send gid (Flight.access sp .store rd.active 3 acc)).advance gid sp x.m x.len false none none))
    ∧ ∀ (e : Flt) (x : Load), g.Passes p (Spec.of x.m x.len (rd.vBad (x.acc.size == 6) x.d || rd.offBad x.a)
        (rd.modeCodes ++ x.a.vCodes false) (loadRegs x.acc.size x.d)) rd.active → e.cause ≠ 6 →
      collect (fun l => s.localAt g l ((rd.vec false x.a l).toNat % 2 ^ 32) (sizeBytes x.acc.size) 0) rd.lanes = .error e →
      exec (.ldl x) s = .next (s.haltFlt gid sp e).pop

/-- O32. When a store that nothing holds up is performed, each access's bytes are written at its physical address, low byte
first (R3), tolerant elements truncated (R41), the highest lane last; the second piece of an element that crosses a line is
left to a step of its own (R34). While no function logs dirty pages, every byte outside the accesses reads as before. A
store of one access to ordinary memory leaves exactly its bytes there. That the lanes' bytes are written in one step is the
model's choice (log entry 12). -/
def Obligations.StorePerformed : Prop :=
  ∀ (s s' : State) (gid id : Nat) (g : Group) (f : Flight), s.group? gid = some g → g.flight? id = some f → f.kind = .store →
    g.heldFlight f = false → s.rowsPass (s.vfOfGroup g) (.storePerformed gid id) f.acc = (s', false) →
    (∀ v ∈ s.hub.vfs, v.2.dirty = false) →
    ((splitPieces f.acc).2 = [] →
      exec (.storePerformed gid id) s = .next ((s'.writeAccs f.acc).finishFlight gid id))
    ∧ ((splitPieces f.acc).2 ≠ [] → exec (.storePerformed gid id) s = .next (((s'.writeAccs (splitPieces f.acc).1).modFlight
        gid id fun x => { x with acc := (splitPieces f.acc).2 }).later (.storePerformed gid id)))
    ∧ ∀ u : State, exec (.storePerformed gid id) s = .next u →
      (∀ c : Nat, (∀ a ∈ f.acc, a.team = none → inKick a.pa = false →
          c < a.pa ∨ a.pa + (storeBytes a.tol a.pa a.n a.data).2.length ≤ c) → u.byte c = s.byte c)
      ∧ ∀ a : Acc, f.acc = [a] → a.team = none → inKick a.pa = false → a.tol = 0 → ∀ k, k < a.n →
        u.byte (a.pa + k) = BitVec.ofNat 8 (a.data / 2 ^ (8 * k))

/-- O33. When a load of ordinary memory that nothing holds up returns and meets no error, each lane's bytes, as memory holds
them then, are extended by the size code (R229) and written to its destination: g(d) for a uniform load, v(d) or the pair of
each lane otherwise. Before the second piece of an element that crosses a line, what has been read stands in the flight, and
the rest follows in a step of its own (R34). Memory stays as it was. That the lanes are read in one step is the model's
choice (log entry 12). -/
def Obligations.LoadReturns : Prop :=
  ∀ (s s' : State) (gid id size : Nat) (g : Group) (f : Flight), s.group? gid = some g → g.flight? id = some f →
    f.kind = .load size → g.heldFlight f = false → (∀ a ∈ f.acc, a.team = none → s.rstatWaits a.pa = false) →
    s.rowsPass (s.vfOfGroup g) (.variableLatencyResult gid id) f.acc = (s', false) →
    s.store.latent = [] → s.simt.localErrs = [] → f.tag = none → (∀ e ∈ s.store.pot, e.2.state ≠ potScrub) →
    ((splitPieces (f.acc.filter fun a => a.cmp != 1)).2 = [] →
      exec (.variableLatencyResult gid id) s = .next ((s'.writeRegs gid (s'.loadWrites f size)).finishFlight gid id))
    ∧ ((splitPieces (f.acc.filter fun a => a.cmp != 1)).2 ≠ [] →
      exec (.variableLatencyResult gid id) s = .next ((s'.modFlight gid id fun x => { x with
        acc := (f.acc.filter fun a => a.cmp == 1) ++ (splitPieces (f.acc.filter fun a => a.cmp != 1)).1.map s'.sampled
          ++ (splitPieces (f.acc.filter fun a => a.cmp != 1)).2 }).later (.variableLatencyResult gid id)))
    ∧ ∀ u : State, exec (.variableLatencyResult gid id) s = .next u → u.store.mem = s.store.mem

/-- O34. On a control core an aligned LDU, STU (or their ordered forms), ATOM, REDU or CTRADD of ordinary memory whose row
is not held (R382), where no error lies in memory and no function logs dirty pages, is performed at once: a load puts the
bytes, extended by its size code, in g(d) (of a META page, the ownership entries there); a store writes its bytes and no
other; an atomic puts the old value in g(d) and writes what its operation gives. FENCE has no effect there. That an access
is performed in the step that issues it, and that its translation is cached then, are the model's choices (log entries 47
and 16). -/
def Obligations.MemoryAccessesOfThreads : Prop :=
  (∀ (s : State) (tid : Nat) (t : Thread), s.AtThread tid t → t.wait = none → s.store.latent = [] → s.store.poison = [] →
      (∀ e ∈ s.store.pot, e.2.state ≠ potScrub) → (∀ v ∈ s.hub.vfs, v.2.dirty = false) →
    (∀ i ∈ ([.ldu, .lduacq] : List (Load → Instr)), ∀ (x : Load) (xl : Xlat) (s' : State),
      t.Passes (Spec.of x.m x.len false x.a.uCodes [codeG x.d]) →
      s.threadXlat tid ((t.rd tid).addrU x.a).toNat (sizeBytes x.acc.size) .read false = .ok xl → xl.dev = false →
      s.rstatWaits xl.pa = false → s.threadGate tid xl = (s', false) →
      exec (i x) s = .next ((s'.tlbFill t (s'.partOfThread tid) ((t.rd tid).addrU x.a).toNat).threadDone tid
        ((t.write (RegWrites.gOne x.d (extend x.acc.size (s.threadValue xl (sizeBytes x.acc.size))))).onward x.len))
        ∧ (s.metaEntry xl.pa = none → s.threadValue xl (sizeBytes x.acc.size) = s.readAt xl (sizeBytes x.acc.size)))
    ∧ (∀ i ∈ ([.stu, .sturel] : List (Store → Instr)), ∀ (x : Store) (xl : Xlat) (s' : State),
      t.Passes { Spec.of x.m x.len false (x.a.uCodes ++ x.c.uCodes) [] with rkind := 1 } →
      s.threadXlat tid ((t.rd tid).addrU x.a).toNat (sizeBytes x.acc.size) .write false = .ok xl → xl.dev = false →
      s.threadGate tid xl = (s', false) →
      ∃ u : State, exec (i x) s = .next u ∧ (u.thread tid) = t.onward x.len ∧ ∀ c : Nat,
        u.byte c = (if xl.pa ≤ c ∧ c < xl.pa + (storeBytes xl.tol xl.pa (sizeBytes x.acc.size)
            (((t.rd tid).dataU (x.acc.size == 6) x.c).toNat % 2 ^ (8 * sizeBytes x.acc.size))).2.length
          then ((storeBytes xl.tol xl.pa (sizeBytes x.acc.size)
            (((t.rd tid).dataU (x.acc.size == 6) x.c).toNat % 2 ^ (8 * sizeBytes x.acc.size))).2[c - xl.pa]?).getD 0#8
          else s.byte c))
    ∧ (∀ (x : AtomI) (xl : Xlat) (new : Nat) (s' : State),
      t.Passes { Spec.of x.m x.len false (x.a.uCodes ++ x.c.uCodes ++ [codeG x.d]) [codeG x.d] with needS := true, rkind := 2 } →
      s.threadXlat tid ((t.rd tid).addrU x.a).toNat (atomBytes x.ctl.type) .readWrite true = .ok xl → s.threadGate tid xl = (s', false) →
      atomNew x.ctl.op x.ctl.type (s.peek xl.pa (atomBytes x.ctl.type))
        (atomDataU (t.rd tid) x.ctl.type x.c % 2 ^ (8 * atomBytes x.ctl.type))
        (((t.rd tid).g x.d).toNat % 2 ^ (8 * atomBytes x.ctl.type)) = some new →
      ∃ u : State, exec (.atom x) s = .next u
        ∧ Tbl.fget 0#64 (u.thread tid).g x.d = atomExtend x.ctl.type (s.peek xl.pa (atomBytes x.ctl.type))
        ∧ (u.thread tid).pc = t.pc + BitVec.ofNat 64 (4 * x.len)
        ∧ u.bytes xl.pa (atomBytes x.ctl.type) = leBytes (atomBytes x.ctl.type) new
        ∧ ∀ c : Nat, c < xl.pa ∨ xl.pa + atomBytes x.ctl.type ≤ c → u.byte c = s.byte c)
    ∧ (∀ (x : AtomI) (xl : Xlat) (s' : State),
      t.Passes { Spec.of x.m x.len false (x.a.uCodes ++ x.c.uCodes ++ [codeG x.d]) [codeG x.d] with needS := true, rkind := 2 } →
      s.threadXlat tid ((t.rd tid).addrU x.a).toNat 8 .readWrite true = .ok xl → s.threadGate tid xl = (s', false) →
      ∃ u : State, exec (.ctradd x) s = .next u ∧ Tbl.fget 0#64 (u.thread tid).g x.d = BitVec.ofNat 64 (s.peek xl.pa 8)
        ∧ u.bytes xl.pa 8 = leBytes 8 (s.peek xl.pa 8 + atomDataU (t.rd tid) 2 x.c)
        ∧ ∀ c : Nat, c < xl.pa ∨ xl.pa + 8 ≤ c → u.byte c = s.byte c)
    ∧ (∀ (x : RedI) (xl : Xlat) (new : Nat) (s' : State), t.Passes { Spec.of x.m x.len false (x.a.uCodes ++ x.c.uCodes) [] with
        needS := true, rkind := 2 } →
      s.threadXlat tid ((t.rd tid).addrU x.a).toNat (atomBytes x.ctl.type) .readWrite true = .ok xl → s.threadGate tid xl = (s', false) →
      atomNew x.ctl.op x.ctl.type (s.peek xl.pa (atomBytes x.ctl.type))
        (atomDataU (t.rd tid) x.ctl.type x.c % 2 ^ (8 * atomBytes x.ctl.type)) 0 = some new →
      ∃ u : State, exec (.redu x) s = .next u ∧ (u.thread tid).g = t.g
        ∧ u.bytes xl.pa (atomBytes x.ctl.type) = leBytes (atomBytes x.ctl.type) new
        ∧ ∀ c : Nat, c < xl.pa ∨ xl.pa + atomBytes x.ctl.type ≤ c → u.byte c = s.byte c))
  ∧ ∀ (s : State) (tid : Nat) (t : Thread) (x : CodeI), s.AtThread tid t → t.Passes (Spec.of x.m 1 false [] []) →
    exec (.fence x) s = .next (s.threadDone tid (t.onward 1))

/-- O35. ATOMV and REDV access each active lane's address, ATOM, REDU and CTRADD one address; where every access translates
and meets no poison, the atomic is in flight. ATOMIC_PERFORMED performs the lanes in ascending order: each puts what the
operation gives of the value in memory and operand C (CAS: C where the value equals D; MIN and MAX by the TYPE's signedness;
FADD, FMIN and FMAX as FP32, rounded to nearest even) and answers the old value; a returning atomic's reply follows. On a
line that is poisoned when it comes to be performed nothing is: the context halts, and memory stays (R417). That a constant
one is 1 in the TYPE is DEDUCED (log entry 110), and that the lanes are performed in one step the model's choice (log entry
12). -/
def Obligations.AtomicsOnGroups : Prop :=
  (∀ (s : State) (gid sp : Nat) (g : Group) (p : Split) (rd : Rd) (acc : List Acc), s.Issues gid sp g p rd → s.poisonTrap acc = none →
    (∀ x : AtomI, g.Passes p { Spec.of x.m x.len (rd.addrBad x.a || atomDataBad rd (atomBytes x.ctl.type == 8) x.c
          || rd.vBad (atomBytes x.ctl.type == 8) x.d) (rd.modeCodes ++ (x.a.vCodes true
            ++ x.c.vCodes (atomBytes x.ctl.type == 8) ++ codesV (atomBytes x.ctl.type == 8) x.d))
          (codesV (atomBytes x.ctl.type == 8) x.d) with needS := true, rkind := 2 } rd.active →
      collect (fun l => s.accAt g.place.ctx l (rd.addr x.a l).toNat (atomBytes x.ctl.type)
          (atomDataV rd x.ctl.type x.c l % 2 ^ (8 * atomBytes x.ctl.type))
          (if atomBytes x.ctl.type == 8 then (rd.pair x.d l).toNat else (rd.v x.d l).toNat) .readWrite true true) rd.lanes = .ok acc →
      exec (.atomv x) s = .next ((s.send gid { Flight.access sp (.atom x.ctl.op x.ctl.type true) rd.active 4 acc with
        dv := codesV (atomBytes x.ctl.type == 8) x.d, acq := (orderOf x.ctl true).acq, rel := (orderOf x.ctl true).rel
        scope := x.ctl.scope, back := p.pieces }).advance gid sp x.m x.len false none none))
    ∧ (∀ x : RedI, g.Passes p { Spec.of x.m x.len (rd.addrBad x.a || atomDataBad rd (atomBytes x.ctl.type == 8) x.c)
          (rd.modeCodes ++ (x.a.vCodes true ++ x.c.vCodes (atomBytes x.ctl.type == 8))) [] with
          needS := true, rkind := 2 } rd.active →
      collect (fun l => s.accAt g.place.ctx l (rd.addr x.a l).toNat (atomBytes x.ctl.type)
          (atomDataV rd x.ctl.type x.c l % 2 ^ (8 * atomBytes x.ctl.type)) 0 .readWrite true true) rd.lanes = .ok acc →
      exec (.redv x) s = .next ((s.send gid { Flight.access sp (.atom x.ctl.op x.ctl.type false) rd.active 4 acc with
        rel := (orderOf x.ctl false).rel, scope := x.ctl.scope, back := p.pieces }).advance gid sp x.m x.len false none none))
    ∧ (∀ x : AtomI, g.Passes p { Spec.of x.m x.len false (x.a.uCodes ++ x.c.uCodes ++ [codeG x.d]) [codeG x.d] with
          needS := true, rkind := 2 } p.mask →
      (s.accAt g.place.ctx 0 (rd.addrU x.a).toNat (atomBytes x.ctl.type)
          (atomDataU rd x.ctl.type x.c % 2 ^ (8 * atomBytes x.ctl.type))
          ((rd.g x.d).toNat % 2 ^ (8 * atomBytes x.ctl.type)) .readWrite true true = .ok acc →
        exec (.atom x) s = .next ((s.send gid { Flight.access sp (.atom x.ctl.op x.ctl.type true) p.mask 4 acc with
          dg := [x.d], acq := (orderOf x.ctl true).acq, rel := (orderOf x.ctl true).rel, scope := x.ctl.scope, back := p.pieces }).advance gid sp
            x.m x.len false none none))
      ∧ (s.accAt g.place.ctx 0 (rd.addrU x.a).toNat 8 (atomDataU rd 2 x.c % 2 ^ 64) ((rd.g x.d).toNat % 2 ^ 64)
          .readWrite true true = .ok acc →
        exec (.ctradd x) s = .next ((s.send gid { Flight.access sp (.atom 0 2 true) p.mask 4 acc with
          dg := [x.d], acq := (orderOf x.ctl true).acq, rel := (orderOf x.ctl true).rel, scope := x.ctl.scope, back := p.pieces }).advance gid sp
            x.m x.len false none none)))
    ∧ ∀ x : RedI, g.Passes p { Spec.of x.m x.len false (x.a.uCodes ++ x.c.uCodes) [] with needS := true, rkind := 2 } p.mask →
      s.accAt g.place.ctx 0 (rd.addrU x.a).toNat (atomBytes x.ctl.type)
          (atomDataU rd x.ctl.type x.c % 2 ^ (8 * atomBytes x.ctl.type)) 0 .readWrite true true = .ok acc →
      exec (.redu x) s = .next ((s.send gid { Flight.access sp (.atom x.ctl.op x.ctl.type false) p.mask 4 acc with
        rel := (orderOf x.ctl false).rel, scope := x.ctl.scope, back := p.pieces }).advance gid sp x.m x.len false none none))
  ∧ (∀ (s s' : State) (gid id op type : Nat) (g : Group) (f : Flight), s.group? gid = some g → g.flight? id = some f →
    g.heldFlight f = false → s.rowsPass (s.vfOfGroup g) (.atomicPerformed gid id) f.acc = (s', false) →
    s.store.latent = [] → (∀ a ∈ f.acc, a.team = none) → (∀ e ∈ s.store.pot, e.2.state ≠ potScrub) →
    (s.store.poison = [] → f.kind = .atom op type false →
      exec (.atomicPerformed gid id) s = .next ((s'.atomics op type f.acc).1.finishFlight gid id))
    ∧ (s.store.poison = [] → f.kind = .atom op type true →
      exec (.atomicPerformed gid id) s = .next (((s'.atomics op type f.acc).1.modFlight gid id
        fun f => { f with kind := .reply, w := (s'.atomicNow f op type).2 }).later (.variableLatencyResult gid id)))
    ∧ ∀ (e : Flt) (ret : Bool), s.poisonTrap f.acc = some e → f.kind = .atom op type ret →
      exec (.atomicPerformed gid id) s = .next (s'.atomFail gid f e) ∧ (s'.atomFail gid f e).store.mem = s.store.mem)
  ∧ (∀ (s : State) (op type : Nat) (a : Acc) (r : List Acc),
    s.atomics op type (a :: r) = (((s.atomicAt op type a.pa a.data a.cmp).1.atomics op type r).1,
      (a.lane, s.peek a.pa (atomBytes type)) :: ((s.atomicAt op type a.pa a.data a.cmp).1.atomics op type r).2))
  ∧ ∀ type old c cmp : Nat, atomNew 0 type old c cmp = some ((old + c) % 2 ^ (8 * atomBytes type))
      ∧ atomNew 3 type old c cmp = some (old &&& c) ∧ atomNew 4 type old c cmp = some (old ||| c)
      ∧ atomNew 5 type old c cmp = some (old ^^^ c) ∧ atomNew 6 type old c cmp = some c
      ∧ atomNew 7 type old c cmp = (if old = cmp then some c else none)
      ∧ ((type = 0 ∨ type = 2) → old < 2 ^ (8 * atomBytes type) → c < 2 ^ (8 * atomBytes type) →
          atomNew 1 type old c cmp = some (min old c) ∧ atomNew 2 type old c cmp = some (max old c))
      ∧ ((type = 1 ∨ type = 3) →
          atomNew 1 type old c cmp = some (if (BitVec.ofNat (8 * atomBytes type) old).sle (BitVec.ofNat (8 * atomBytes type) c)
            then old else c)
          ∧ atomNew 2 type old c cmp = some (if (BitVec.ofNat (8 * atomBytes type) old).sle (BitVec.ofNat (8 * atomBytes type) c)
            then c else old))
      ∧ atomNew 8 4 old c cmp = some (fmtFP32.add 0 (fmtFP32.read old) (fmtFP32.read c)).code
      ∧ atomNew 9 4 old c cmp = some (fmtFP32.minMax false old c).code
      ∧ atomNew 10 4 old c cmp = some (fmtFP32.minMax true old c).code

/-! ### Waits, barriers, fences, counters (R68 to R80, R240 to R245) -/

/-- O36. On a group, FENCE takes its place among the group's accesses; WAITC goes on when its path's counter is at or below
the bound, NTDRAIN when no earlier STNT write is left, CTRWAIT when the counter, read after the accesses that it must follow
(R241), has reached the target, and each parks its split otherwise, with nothing issued. On a control core WAITC and NTDRAIN
have no effect (R245), and CTRWAIT goes on when the counter has reached the target. CTRWAIT asks R and W of the counter
(R77, log entry 111); that the accesses it follows are performed in its own step is the model's choice (log entry 109). -/
def Obligations.WaitsAndFences : Prop :=
  (∀ (s : State) (gid sp : Nat) (g : Group) (p : Split) (rd : Rd), s.Issues gid sp g p rd →
    (∀ x : CodeI, g.Passes p (Spec.of x.m 1 false [] []) p.mask →
      exec (.fence x) s = .next ((s.launch gid { Flight.result sp p.mask RegWrites.none with kind := .fence, scope := x.code }
        .variableLatencyResult).advance gid sp x.m 1 false none none)
      ∧ (g.ntFlights = [] → exec (.ntdrain x) s = .next (s.advance gid sp x.m 1 false none none))
      ∧ (g.ntFlights ≠ [] → exec (.ntdrain x) s = .next (s.stall gid sp (.ntdrain g.ntFlights x.m))))
    ∧ (∀ x : ACode, g.Passes p (Spec.of x.m x.len false x.a.uCodes []) p.mask →
      (g.pathCount x.code ≤ (rd.uni x.a).toNat → exec (.waitc x) s = .next (s.advance gid sp x.m x.len false none none))
      ∧ ((rd.uni x.a).toNat < g.pathCount x.code →
        exec (.waitc x) s = .next (s.stall gid sp (.waitc x.code (rd.uni x.a).toNat x.m x.len))))
    ∧ ∀ (x : CtrWaitI) (a : Acc) (r : List Acc) (s' : State) (h : Group) (q : Split), g.Passes p { Spec.of x.m x.len false
        (x.a.uCodes ++ x.c.uCodes) [] with needS := true, rkind := 0 } p.mask →
      s.accAt g.place.ctx 0 (rd.addrU x.a).toNat 8 0 0 .readWrite true true = .ok (a :: r) →
      s.readAfter gid g.nextFlight p.mask (a :: r) = s' → s'.group? gid = some h → h.split? sp = some q →
      s'.ctxRuns h.place.ctx = true → h.Passes q { Spec.of x.m x.len false (x.a.uCodes ++ x.c.uCodes) [] with
        needS := true, rkind := 0 } q.mask → s'.poisonTrap (a :: r) = none → s'.store.latent = [] →
      (∀ e ∈ s'.store.pot, e.2.state ≠ potScrub) →
      ((rd.uni x.c).toNat ≤ s'.peek a.pa 8 →
        exec (.ctrwait x) s = .next (((s'.rowTouch a.pa (s'.vfOfGroup h)).toEngine a.pa).advance gid sp x.m x.len false none none))
      ∧ (s'.peek a.pa 8 < (rd.uni x.c).toNat → exec (.ctrwait x) s = .next (((s'.rowTouch a.pa (s'.vfOfGroup h)).toEngine a.pa).stall gid sp
          (.ctr a.pa (rd.addrU x.a).toNat (rd.uni x.c).toNat x.scope x.m x.len)))
      ∧ (heldIn (readFlight g.nextFlight p.mask (a :: r)) [] (g.flights.filter fun f => decide (f.id < g.nextFlight)) = false →
        s' = s))
  ∧ (∀ (s : State) (tid : Nat) (t : Thread), s.AtThread tid t →
    (∀ x : ACode, t.Passes (Spec.of x.m x.len false [] []) → exec (.waitc x) s = .next (s.threadDone tid (t.onward x.len)))
    ∧ (∀ x : CodeI, t.Passes (Spec.of x.m 1 false [] []) → exec (.ntdrain x) s = .next (s.threadDone tid (t.onward 1)))
    ∧ ∀ (x : CtrWaitI) (xl : Xlat) (s' : State), t.Passes { Spec.of x.m x.len false (x.a.uCodes ++ x.c.uCodes) [] with
        needS := true, rkind := 0 } →
      s.threadXlat tid ((t.rd tid).addrU x.a).toNat 8 .readWrite true = .ok xl → s.threadGate tid xl = (s', false) →
      s.store.latent = [] → s.store.poison = [] →
      (∀ e ∈ s.store.pot, e.2.state ≠ potScrub) → ((t.rd tid).uni x.c).toNat ≤ s.peek xl.pa 8 →
      exec (.ctrwait x) s = .next (((s'.tlbFill t (s'.partOfThread tid) ((t.rd tid).addrU x.a).toNat).toEngine xl.pa).threadDone tid
        (t.onward x.len)))
  ∧ ∀ (s : State) (gid sp : Nat) (g : Group) (p : Split) (k : Park), s.group? gid = some g → g.split? sp = some p →
    ∃ (h : Group) (q : Split), (s.stall gid sp k).group? gid = some h ∧ h.split? sp = some q ∧ q.park = some k ∧ q.pc = p.pc
      ∧ q.mask = p.mask ∧ h.regs = g.regs ∧ (s.stall gid sp k).store = s.store

/-- O37. BARARR counts one arrival of the group in the barrier's current phase (or the next, if it has one there), its
flight a release, and puts the phase in g(d); BARSYNC arrives and parks for that phase; BARWAIT goes on when the phase has
completed and parks otherwise; BARDEF arrives when the copies with DEFER have landed. A barrier that the group may not name,
or a third arrival, is an OPND fault. -/
def Obligations.BarrierInstructions : Prop :=
  ∀ (s : State) (gid sp key phase : Nat) (b : Barrier) (g : Group) (p : Split) (rd : Rd), s.Issues gid sp g p rd →
    (∀ x : DCode, g.Passes p { Spec.of x.m 1 false [] [codeG x.d] with needS := true } rd.mask →
      (s.barrierOf g x.code = some key → (s.bar key).arrive gid = some (b, phase) →
        exec (.bararr x) s = .next (((s.putBar key b).launch gid (Flight.arrival sp p.mask key phase (some x.d))
          .variableLatencyResult).advance gid sp x.m 1 false none none))
      ∧ (s.barrierOf g x.code = none → exec (.bararr x) s = .next (s.simtFault gid sp 2 0)
          ∧ exec (.bardef x) s = .next (s.simtFault gid sp 2 0))
      ∧ (s.barrierOf g x.code = some key → (s.bar key).arrive gid = none →
        exec (.bararr x) s = .next (s.simtFault gid sp 2 0) ∧ exec (.bardef x) s = .next (s.simtFault gid sp 2 0))
      ∧ (s.barrierOf g x.code = some key → (s.bar key).arrive gid = some (b, phase) →
        (s.simt.deferred.filter fun e => e.2.gid == gid).length < 32 → ∃ t : State, exec (.bardef x) s = .next t
          ∧ t.bar key = b ∧ t.simt.deferred.length = s.simt.deferred.length + 1 ∧ t.turns = s.turns.tail))
    ∧ (∀ x : CodeI, g.Passes p { Spec.of x.m 1 false [] [] with needS := true } rd.mask →
      s.barrierOf g x.code = some key → (s.bar key).arrive gid = some (b, phase) →
      exec (.barsync x) s = .next (((s.putBar key b).launch gid (Flight.arrival sp p.mask key phase none)
        .variableLatencyResult).advance gid sp x.m 1 false none (some (.barsync key phase))))
    ∧ ∀ x : ACode, g.Passes p { Spec.of x.m x.len false x.a.uCodes [] with needS := true } rd.mask →
      s.barrierOf g x.code = some key →
      ((s.bar key).completed ((rd.uni x.a).toNat % 2 ^ 32) = true →
        exec (.barwait x) s = .next (s.advance gid sp x.m x.len false none none))
      ∧ ((s.bar key).completed ((rd.uni x.a).toNat % 2 ^ 32) = false →
        exec (.barwait x) s = .next (s.stall gid sp (.barwait key ((rd.uni x.a).toNat % 2 ^ 32) x.m x.len)))

/-! ### Matrix operations and the count bank (R92 to R117, R252 to R264) -/

/-- O38. The group's earlier accesses performed (R63, R104; that they are in the same step is the model's choice, log entry
109), an MMA (a quarter for each quarter with an active lane) or MMAG whose checks pass is accepted at once where the fetch
unit has room, and else parks as offered; a failed check is the instruction's fault. MSETAUX sets the group's two offsets.
MFENCE closes the current batch, unless eight are open, when it parks. MWAIT goes on when its batch has completed, parks
when it has not, and is an OPND fault for a batch ahead of the newest. -/
def Obligations.MatrixInstructions : Prop :=
  ∀ (s : State) (gid sp : Nat) (g : Group) (p : Split) (rd : Rd), s.Issues gid sp g p rd →
    (∀ (x : MmaI) (u : State) (h : Group) (q : Split) (offer : List (Nat × W64 × W64 × W64)) (o : MatOp),
      g.Passes p { Spec.of x.m 2 (decide (rd.vregs ≤ x.d) || rd.vBad true x.a || rd.vBad true x.c || matModeBad rd)
        (rd.modeCodes ++ x.d :: (codesV true x.a ++ codesV true x.c)) [] with needS := true } rd.active →
      offer = (rd.quarters.map fun l => (l, (rd.v x.d l).setWidth 64, rd.pair x.a l, rd.pair x.c l)) →
      s.beforeOffer g (s.offerOf gid 0 g rd x.ctl false offer) = u → u.group? gid = some h → h.split? sp = some q →
      u.ctxRuns h.place.ctx = true → o = u.offerOf gid sp h rd x.ctl false offer →
      (∀ k, u.checkOffer h o = .ok k → (k.units = [] ∨ u.hasRoom k = true) →
        h.Passes q { Spec.of x.m 2 (decide (rd.vregs ≤ x.d) || rd.vBad true x.a || rd.vBad true x.c || matModeBad rd)
          (rd.modeCodes ++ x.d :: (codesV true x.a ++ codesV true x.c)) [] with needS := true } rd.active →
        exec (.mma x) s = .next ((u.acceptUnits k).advance gid sp x.m 2 false none none))
      ∧ (∀ k, u.checkOffer h o = .ok k → k.units ≠ [] → u.hasRoom k = false →
        exec (.mma x) s = .next ((u.modSimt fun y => { y with ops := y.ops ++ [o] }).stall gid sp (.accept o.id x.m 2)))
      ∧ ∀ e, u.checkOffer h o = .error e → exec (.mma x) s = .next (u.issueFlt gid sp h 0 e))
    ∧ (∀ (x : MmagI) (u : State) (h : Group) (q : Split) (k : MatOp),
      g.Passes p { Spec.of x.m x.len (matModeBad rd) (rd.modeCode :: (x.d.uCodes ++ x.a.uCodes ++ x.c.uCodes)) [] with needS := true } rd.mask →
      s.beforeOffer g (s.offerOf gid 0 g rd x.ctl true [(0, rd.uni x.d, rd.addrU x.a, rd.addrU x.c)]) = u →
      u.group? gid = some h → h.split? sp = some q → u.ctxRuns h.place.ctx = true →
      h.Passes q { Spec.of x.m x.len (matModeBad rd) (rd.modeCode :: (x.d.uCodes ++ x.a.uCodes ++ x.c.uCodes)) [] with needS := true } rd.mask →
      u.checkOffer h (u.offerOf gid sp h rd x.ctl true [(0, rd.uni x.d, rd.addrU x.a, rd.addrU x.c)]) = .ok k →
        (k.units = [] ∨ u.hasRoom k = true) →
        exec (.mmag x) s = .next ((u.acceptUnits k).advance gid sp x.m x.len false none none))
    ∧ (∀ x : OpAC, g.Passes p (Spec.of x.m x.len false (x.a.uCodes ++ x.c.uCodes) []) rd.mask →
      exec (.msetaux x) s = .next ((s.modGroup gid fun h => { h with mat := { h.mat with
        metaOff := (rd.uni x.a).toNat % 2 ^ 32, sideOff := (rd.uni x.c).toNat % 2 ^ 32 } }).advance gid sp x.m x.len false
          none none))
    ∧ (∀ x : R1, g.Passes p { Spec.of x.m 1 false [] [codeG x.r] with needS := true } rd.mask →
      (g.mat.batches.length < 8 → exec (.mfence x) s = .next ((s.closeBatch gid sp x.r).advance gid sp x.m 1 false none none))
      ∧ (8 ≤ g.mat.batches.length → exec (.mfence x) s = .next (s.stall gid sp (.batchFull x.m x.r))))
    ∧ ∀ x : Op1, g.Passes p { Spec.of x.m x.len false x.a.uCodes [] with needS := true } rd.mask →
      ∀ b, b = fieldOf (rd.uni x.a).toNat 0 16 →
      (batchAhead g.mat b = true → exec (.mwait x) s = .next (s.simtFault gid sp 2 0))
      ∧ (batchAhead g.mat b = false → g.mat.doneUpTo b = false →
        exec (.mwait x) s = .next (s.stall gid sp (.mwait b x.m x.len)))
      ∧ (batchAhead g.mat b = false → g.mat.doneUpTo b = true → g.mat.reportFor b = none →
        exec (.mwait x) s = .next (s.advance gid sp x.m x.len false none none))

/-- O39. ACRD reads and ACWR writes, in each active lane, the word at row a[15:0], column a[31:16] + lane; a row beyond the
group's rows or a column beyond 127 is a RANGE fault. A word that a failed operation poisoned is a trap of the lowest lane
(R116), one with an error of its own poisons v(d) (R417). ACZERO and ACCPY of a tile within the rows are accepted by the
engine in the group's issue order; a bad size is OPND, a bad column or offset ALIGN, a tile outside RANGE. That an ACRD
reads what the passes performed by then have left, and that a word under an unfinished accumulation becomes free, are
DEDUCED (log entries 41 and 40). -/
def Obligations.AccumulatorWords : Prop :=
  ∀ (s : State) (gid sp : Nat) (g : Group) (p : Split) (rd : Rd), s.Issues gid sp g p rd →
    (∀ (x : Op2) (ws : List (Nat × Nat)), g.Passes p (Spec.of x.m x.len (decide (rd.vregs ≤ x.d) || rd.vecBad false x.a)
        (rd.modeCodes ++ x.a.vCodes false) [x.d]) rd.active → s.acWords g rd x.a rd.lanes = .ok ws →
      errsAt g.accErrs (ws.map Prod.snd) = [] →
      ((∀ w ∈ ws, Tbl.fget 0 g.accPoison w.2 = 0 ∨ Tbl.fget 0 g.accPoison w.2 = 0x13) → ws ≠ [] →
        exec (.acrd x) s = .next ((s.putVar gid sp rd.active { RegWrites.none with
          v := ws.map fun w => (32 * x.d + w.1, s.acc gid (w.2 / 128) (w.2 % 128))
          px := ws.filterMap fun w => if Tbl.fget 0 g.accPoison w.2 = 0x13 then some (32 * x.d + w.1, 0) else none }).advance gid sp
            x.m x.len false none none))
      ∧ ∀ (pre post : List (Nat × Nat)) (l k : Nat), ws = pre ++ (l, k) :: post →
        (∀ w ∈ pre, Tbl.fget 0 g.accPoison w.2 = 0 ∨ Tbl.fget 0 g.accPoison w.2 = 0x13) →
        Tbl.fget 0 g.accPoison k ≠ 0 → Tbl.fget 0 g.accPoison k ≠ 0x13 →
        exec (.acrd x) s = .next (s.issueFlt gid sp g 0 ⟨Tbl.fget 0 g.accPoison k, 0, some l⟩))
    ∧ (∀ (x : OpAC) (ws : List (Nat × Nat)), g.Passes p (Spec.of x.m x.len (rd.vecBad false x.a || rd.vecBad false x.c)
        (rd.modeCodes ++ (x.a.vCodes false ++ x.c.vCodes false)) []) rd.active →
      s.acWords g rd x.a rd.lanes = .ok ws →
      exec (.acwr x) s = .next (((s.putAcc gid (ws.map fun w => (w.2, (rd.vec false x.c w.1).setWidth 32, 0))).clobberOps gid
        (ws.map Prod.snd)).advance gid sp x.m x.len false none none))
    ∧ (∀ (x : Op2) (l : Nat), (s.accRows g ≤ fieldOf (rd.vec false x.a l).toNat 0 16
          ∨ 127 < fieldOf (rd.vec false x.a l).toNat 16 16 + l) → s.acWord g rd x.a l = .error (10, 0))
    ∧ ∀ (x : OpAC) (a c : Nat), g.Passes p (Spec.of x.m x.len false (x.a.uCodes ++ x.c.uCodes) []) rd.mask →
      a = (rd.uni x.a).toNat → c = (rd.uni x.c).toNat →
      (tileSizeBad c = true → exec (.aczero x) s = .next (s.simtFault gid sp 2 0))
      ∧ (tileSizeBad c = false → fieldOf a 16 16 % 8 ≠ 0 → exec (.aczero x) s = .next (s.simtFault gid sp 9 0))
      ∧ (tileSizeBad c = false → fieldOf a 16 16 % 8 = 0 → fieldOf a 0 16 + fieldOf c 0 16 ≤ s.accRows g →
        fieldOf a 16 16 + fieldOf c 16 16 ≤ 128 →
        exec (.aczero x) s = .next ((s.accOp gid sp g rd (.zero (fieldOf a 0 16) (fieldOf c 0 16)) (fieldOf a 16 16)
          (fieldOf c 16 16)).advance gid sp x.m x.len false none none))
      ∧ (tileSizeBad c = false → fieldOf a 16 16 % 8 = 0 →
        s.accRows g < fieldOf a 0 16 + fieldOf c 0 16 ∨ 128 < fieldOf a 16 16 + fieldOf c 16 16 →
        exec (.aczero x) s = .next (s.simtFault gid sp 10 0))
      ∧ (tileSizeBad c = true ∨ fieldOf c 33 31 ≠ 0 → exec (.accpy x) s = .next (s.simtFault gid sp 2 0))
      ∧ (tileSizeBad c = false → fieldOf c 33 31 = 0 → fieldOf a 32 32 % 16 ≠ 0 →
        exec (.accpy x) s = .next (s.simtFault gid sp 9 (fieldOf a 32 32)))
      ∧ (tileSizeBad c = false → fieldOf c 33 31 = 0 → fieldOf a 32 32 % 16 = 0 → fieldOf a 16 16 % 8 ≠ 0 →
        exec (.accpy x) s = .next (s.simtFault gid sp 9 0))
      ∧ (tileSizeBad c = false → fieldOf c 33 31 = 0 → fieldOf a 32 32 % 16 = 0 → fieldOf a 16 16 % 8 = 0 →
        (s.localLen g < fieldOf a 32 32 + 4 * fieldOf c 16 16 * fieldOf c 0 16
          ∨ s.accRows g < fieldOf a 0 16 + fieldOf c 0 16 ∨ 128 < fieldOf a 16 16 + fieldOf c 16 16) →
        exec (.accpy x) s = .next (s.simtFault gid sp 10 0))
      ∧ (tileSizeBad c = false → fieldOf c 33 31 = 0 → fieldOf a 32 32 % 16 = 0 → fieldOf a 16 16 % 8 = 0 →
        fieldOf a 32 32 + 4 * fieldOf c 16 16 * fieldOf c 0 16 ≤ s.localLen g → fieldOf a 0 16 + fieldOf c 0 16 ≤ s.accRows g →
        fieldOf a 16 16 + fieldOf c 16 16 ≤ 128 →
        exec (.accpy x) s = .next ((s.accOp gid sp g rd (.copy (!bitOf c 32) (fieldOf a 0 16) (fieldOf c 0 16)
          (fieldOf a 32 32)) (fieldOf a 16 16) (fieldOf c 16 16)).advance gid sp x.m x.len false none none))

/-- O40. A count-bank instruction parks while the group has accepted matrix operations (R113). Then, where no error lies in
the group's rows and slots, CBDRAIN drains its bound slot into the accumulator and unbinds it, CBCLR unbinds it, CBSAVE
writes its counts to the banks and unbinds it, CBLOAD drains what was bound, then binds it from the banks, CBMERGE adds the
source banks to the destination's, CBDRAINW drains banks into accumulator words. -/
def Obligations.CountBankInstructions : Prop :=
  ∀ (s : State) (gid sp : Nat) (g : Group) (p : Split) (rd : Rd), s.Issues gid sp g p rd → g.accErrs = [] →
    (∀ y ∈ s.simt.slots, y.2.owner = gid → y.2.errs = []) →
    (∀ x : CodeI, g.Passes p { Spec.of x.m 1 false [rd.modeCode] [] with needS := true } rd.mask →
      (s.matrixBusy gid = true → exec (.cbdrain x) s = .next (s.stall gid sp .matrix))
      ∧ (s.matrixBusy gid = false → s.slotTaken gid (g.slotKey x.code) = false → (s.slot? (g.slotKey x.code)).isSome = true →
        exec (.cbdrain x) s = .next ((s.drainUnbind (g.slotKey x.code) (modeSat rd.mode)).advance gid sp x.m 1 false none none))
      ∧ (s.matrixBusy gid = false → (s.slotTaken gid (g.slotKey x.code) = true ∨ s.slot? (g.slotKey x.code) = none) →
        exec (.cbdrain x) s = .next (s.simtFault gid sp 10 0)))
    ∧ (∀ x : CodeI, g.Passes p (Spec.of x.m 1 false [] []) rd.mask → s.matrixBusy gid = false →
      s.slotTaken gid (g.slotKey x.code) = false →
      exec (.cbclr x) s = .next ((s.putSlot (g.slotKey x.code) none).advance gid sp x.m 1 false none none))
    ∧ (∀ (x : ACode) (v : LiveSlot), g.Passes p { Spec.of x.m x.len false x.a.uCodes [] with needS := true } rd.mask →
      s.matrixBusy gid = false → fieldOf (rd.uni x.a).toNat 16 16 = 0 → s.slotTaken gid (g.slotKey x.code) = false →
      s.slot? (g.slotKey x.code) = some v → fieldOf (rd.uni x.a).toNat 0 16 + 4 * v.n ≤ s.accRows g →
      exec (.cbsave x) s = .next (((s.putAcc gid (saveWrites v (fieldOf (rd.uni x.a).toNat 0 16))).putSlot (g.slotKey x.code)
        none).advance gid sp x.m x.len false none none))
    ∧ (∀ (x : SlotAC) (w : Window) (kind : Nat), g.Passes p { Spec.of x.m x.len false (rd.modeCode :: (x.a.uCodes
        ++ [codeG x.c, codeG (x.c + 1)])) [] with needS := true } rd.mask → s.matrixBusy gid = false → windowOf (rd.g x.c).toNat false = some w →
      fieldOf (rd.uni x.a).toNat 16 16 = 0 → fieldOf (rd.uni x.a).toNat 0 16 + 4 * w.n ≤ s.accRows g →
      s.slotTaken gid (g.slotKey x.slot) = false → (kind = 1 ∨ kind = 2) →
      (∀ q ∈ positions 32 w.n, (s.bankState gid (fieldOf (rd.uni x.a).toNat 0 16) w.n q.1 q.2).2.1 = kind
        ∧ (s.bankState gid (fieldOf (rd.uni x.a).toNat 0 16) w.n q.1 q.2).1 = false
        ∧ ∀ c ∈ List.range 30, (s.bankCount gid (fieldOf (rd.uni x.a).toNat 0 16) w.n q.1 q.2 c).natAbs ≤ 255) →
      (s.bankState gid (fieldOf (rd.uni x.a).toNat 0 16) w.n 0 0).2.1 = kind →
      ∀ u : State, u = s.drainUnbind (g.slotKey x.slot) (modeSat rd.mode) →
      exec (.cbload x) s = .next ((u.putSlot (g.slotKey x.slot) (some (u.loadSlot gid (fieldOf (rd.uni x.a).toNat 0 16)
        ((u.group? gid).getD g) w (kind == 2) (scalePair (rd.g (x.c + 1)))))).advance gid sp x.m x.len false none none))
    ∧ (∀ (x : OpAC) (a c : Nat), g.Passes p { Spec.of x.m x.len false (x.a.uCodes ++ x.c.uCodes) [] with needS := true } rd.mask →
      a = (rd.uni x.a).toNat → c = (rd.uni x.c).toNat → s.matrixBusy gid = false →
      1 ≤ fieldOf c 32 16 → fieldOf c 32 16 ≤ 256 → fieldOf c 48 16 = 0 → fieldOf a 16 16 = 0 → fieldOf c 16 16 = 0 →
      fieldOf a 0 16 + fieldOf c 32 16 ≤ s.accRows g → fieldOf c 0 16 + fieldOf c 32 16 ≤ s.accRows g →
      (∀ q ∈ positions (fieldOf c 32 16) 8, ((s.bankState gid (fieldOf a 0 16) 8 q.1 q.2).2.1 = 1
          ∨ (s.bankState gid (fieldOf a 0 16) 8 q.1 q.2).2.1 = 2)
        ∧ (s.bankState gid (fieldOf c 0 16) 8 q.1 q.2).2.1 = (s.bankState gid (fieldOf a 0 16) 8 q.1 q.2).2.1) →
      exec (.cbmerge x) s = .next ((s.putAcc gid (s.mergeWrites gid g (fieldOf a 0 16) (fieldOf c 0 16)
        (fieldOf c 32 16))).advance gid sp x.m x.len false none none))
    ∧ ∀ (x : OpReg) (w : Window) (a : Nat), g.Passes p { Spec.of x.m x.len (matModeBad rd) (rd.modeCode :: (x.a.uCodes
        ++ [codeG x.c, codeG (x.c + 1)])) [] with needS := true } rd.mask → a = (rd.uni x.a).toNat → s.matrixBusy gid = false →
      windowOf (rd.g x.c).toNat true = some w → drainwFmtBad rd.mode = false → fieldOf a 16 16 = 0 →
      fieldOf a 0 16 + ceilDiv (w.m * w.n) 8 ≤ s.accRows g → w.row + w.m ≤ s.accRows g →
      (∀ q ∈ positions w.m w.n, (s.bankState gid (fieldOf a 0 16) w.n q.1 q.2).2.1 = if modeFa rd.mode == 13 then 2 else 1) →
      ∀ r, r = s.drainWide gid g (fieldOf a 0 16) w (modeFa rd.mode == 13) (modeSat rd.mode)
          (if modeScm rd.mode = 2 then scalePair (rd.g (x.c + 1)) else (0x3F800000, 0x3F800000)) →
      exec (.cbdrainw x) s = .next (((s.putAcc gid r.1).accOverflow gid r.2).advance gid sp x.m x.len false none none)

/-! ### Copies, publication, spawning, special registers, tuples, traps (R65 to R67, R118 to R131, R199, R246, R247, R266 to R277) -/

/-- O41. The accesses that its reads follow performed first, in the same step (R53, R63; the step is the model's choice, log
entry 109), CPY of the leader lane puts one copy, with its flight, on its way; PUBLISH of the leader lane names a shadowed
range; with no lane active neither has an effect of its own. SPAWN of a good task on a queue with room is taken. SREAD
samples the register as it issues; SWRITE of FSTAT takes effect 4 ac on, on a control core at once; below a register's level
it is a PRIV fault. -/
def Obligations.CopiesPublishesSpawnsAndSpecialRegisters : Prop :=
  ∀ (s : State) (gid sp : Nat) (g : Group) (p : Split) (rd : Rd), s.Issues gid sp g p rd →
    (∀ (x : CpyI) (u : State) (h : Group) (q : Split), g.Passes p (specCpy x rd) rd.leader →
      (s.readAfterAll gid g.nextFlight).readRecords g (cpyRecords x rd) = u → u.group? gid = some h →
      h.split? sp = some q → u.ctxRuns h.place.ctx = true → h.Passes q (specCpy x rd) rd.leader →
      (∀ (l : Nat) (r : List Nat) (c : Copy), rd.lanes = l :: r → u.copyOf gid h q rd x l = .ok c →
        exec (.cpy x) s = .next ((u.sendCopy gid sp l x c).advance gid sp x.m 2 false none none)
        ∧ Tbl.get? (u.sendCopy gid sp l x c).simt.copies u.newCopy = some { c with toPublish := u.rangesWritten c }
        ∧ (u.sendCopy gid sp l x c).store = u.store
        ∧ ((u.sendCopy gid sp l x c).group? gid).map (fun k => k.pathCount 5) = some (h.pathCount 5 + 1)
        ∧ (x.ctl.defer = true → ((u.sendCopy gid sp l x c).group? gid).any fun k => k.deferCopies.contains u.newCopy))
      ∧ (rd.lanes = [] → exec (.cpy x) s = .next (u.advance gid sp x.m 2 false none none)))
    ∧ (∀ x : ACode, g.Passes p (specPublish x rd) rd.leader →
      (∀ (l : Nat) (r : List Nat) (i : Nat), rd.lanes = l :: r → s.publishRange g.place.ctx (rd.addr x.a l).toNat = .ok i →
        exec (.publish x) s = .next ((s.sendPublish gid sp p l (rd.addr x.a l).toNat i x.code).advance gid sp x.m x.len false
          none none)
        ∧ Tbl.get? (s.sendPublish gid sp p l (rd.addr x.a l).toNat i x.code).simt.publishes s.free
          = some ⟨gid, sp, g.place.ctx, i, x.code, [], [], g.nextFlight, false, false, (p.point l).1, (p.point l).2,
              (rd.addr x.a l).toNat⟩
        ∧ (s.ac, Event.publishPoint s.free) ∈ (s.sendPublish gid sp p l (rd.addr x.a l).toNat i x.code).agenda
        ∧ (s.sendPublish gid sp p l (rd.addr x.a l).toNat i x.code).store = s.store)
      ∧ (rd.lanes = [] → exec (.publish x) s = .next (s.advance gid sp x.m x.len false none none)))
    ∧ (∀ (x : SpawnI) (tr : TaskRec) (l : LaunchRec) (spt : List SptEntry) (u : State) (h : Group) (q : Split),
      g.Passes p (specSpawn x) p.mask → s.spawnReads gid g p.mask (rd.uni x.a).toNat = u → u.group? gid = some h →
      h.split? sp = some q → u.ctxRuns h.place.ctx = true →
      u.readTask h.place.ctx (rd.uni x.a).toNat = .ok (some (tr, l, spt)) → x.ctl.sq < (u.queue h.place.ctx).spawnCount →
      u.spawnFull h.place.ctx x.ctl.sq (((u.taskOf h).map Task.tree).getD 0) = false →
      exec (.spawn x) s = .next ((u.spawnTake gid sp h q.mask ⟨x.ctl.sq, x.ctl.st, tr, l, spt⟩).advance gid sp x.m x.len false
        none none))
    ∧ (∀ x : DCode, g.Passes p (Spec.of x.m 1 (!decide (x.code < 0x40)) (if x.code = 0x14 then [codeFstat] else []) [codeG x.d]) p.mask →
      exec (.sread x) s = .next (s.uniDone gid sp p x.m 1 false (RegWrites.gOne x.d (s.sprGroup g p x.code))))
    ∧ (∀ x : ACode, g.Passes p (Spec.of x.m x.len (!decide (x.code = 0x14)) x.a.uCodes []) p.mask →
      exec (.swrite x) s = .next (s.uniDone gid sp p x.m x.len true { RegWrites.none with fset := some (rd.uni x.a) }))
    ∧ ∀ (tid : Nat) (t : Thread) (u : State), u.AtThread tid t →
      (∀ x : DCode, sprLevel x.code ≤ t.lvl → t.Passes (Spec.of x.m 1 (!sprThread x.code) (if x.code = 0x14 then [codeFstat] else []) [codeG x.d]) →
        exec (.sread x) u = .next (u.threadDone tid ((t.write (RegWrites.gOne x.d (u.sprOfThread tid t x.code))).onward 1)))
      ∧ (∀ x : ACode, sprLevel x.code ≤ t.lvl → t.Passes (Spec.of x.m x.len (!(sprThread x.code && sprWritable x.code))
          x.a.uCodes []) →
        exec (.swrite x) u = .next (u.threadDone tid ((t.sprSet x.code ((t.rd tid).uni x.a)).onward x.len)))
      ∧ (∀ x : DCode, t.lvl < sprLevel x.code → exec (.sread x) u = .next (u.threadFault tid 5 0))

/-- O42. A tuple instruction whose checks pass sends its request, on path TUPLE: TDEP, TCANCEL and the non-blocking forms go
on, a blocking TCOPY or TTAKE parks its split at the instruction until the reply is written (R124). A control thread stalls
at the instruction until its reply (R130). TTAKE and TDEP need a region that may be written. -/
def Obligations.TupleInstructions : Prop :=
  (∀ (s : State) (gid sp : Nat) (g : Group) (p : Split) (rd : Rd), s.Issues gid sp g p rd →
    (∀ row ∈ ([(.tdep, 0), (.tcopy, 1), (.ttake, 2)] : List ((TupI → Instr) × Nat)), ∀ (x : TupI) (r : TupReq),
      g.Passes p (tupSpec row.2 x.m x.d x.ctl.st (tupSrcs x)) p.mask →
      tupRequest row.2 x rd (s.regionSimt g.place.ctx (rd.g x.c).toNat (row.2 != 1)) (.split gid sp) s = .ok r →
      ((row.2 = 0 ∨ x.ctl.nb = true) → exec (row.1 x) s = .next ((s.sendTuple gid sp g p r).advance gid sp x.m 2 false none none))
      ∧ (row.2 ≠ 0 → x.ctl.nb = false →
        exec (row.1 x) s = .next ((s.sendTuple gid sp g p r).stall gid sp (.tuple s.nextReq x.m))))
    ∧ ∀ (x : TcanI) (r : TupReq), g.Passes p (tupSpec 3 x.m x.d x.ctl.st [codeG x.c]) p.mask →
      cancelRequest x (s.regionSimt g.place.ctx (rd.g x.c).toNat false) (.split gid sp) s = .ok r →
      exec (.tcancel x) s = .next ((s.sendTuple gid sp g p r).advance gid sp x.m 2 false none none))
  ∧ (∀ (s : State) (tid : Nat) (t : Thread), s.AtThread tid t →
    ∀ row ∈ ([(.tdep, 0), (.tcopy, 1), (.ttake, 2)] : List ((TupI → Instr) × Nat)), ∀ (x : TupI) (r : TupReq),
      t.Passes (tupSpec row.2 x.m x.d x.ctl.st (tupSrcs x)) →
      tupRequest row.2 x (t.rd tid) (s.regionThread tid ((t.rd tid).g x.c).toNat (row.2 != 1)) (.thread tid) s = .ok r →
      ∃ u : State, exec (row.1 x) s = .next u ∧ (u.thread tid).tupleWait = some s.nextReq ∧ (u.thread tid).pc = t.pc
        ∧ Tbl.get? u.store.reqs s.nextReq = some { r with due := s.ac + 120 })
  ∧ (∀ (m : Nat) (x lo hi : W64), fieldMatches 0 x lo hi = true ∧ (fieldMatches 1 x lo hi = true ↔ x = lo)
    ∧ (fieldMatches 2 x lo hi = true ↔ ∀ k, hi.getLsbD k = true → x.getLsbD k = lo.getLsbD k)
    ∧ (3 ≤ m → (fieldMatches m x lo hi = true ↔ lo ≤ x ∧ x ≤ hi)))

/-- O43. R272, host domain: entry to level x (kernel, or hypervisor) writes xEPC the return address, xCAUSE the class and
code with ENC 0, xVAL the value, xSTAT.PL the level before, xSTAT.PIE the former xSTAT.IE and xSTAT.IE 0; the level becomes
x and the pc xVEC. The general registers, the other level's trap registers, memory and every other thread stay. A fault is a
trap of CLASS 0 at the instruction itself, to kernel level or from the hypervisor to it, its address in xVAL for XLAT, PROT,
OWN and ALIGN. -/
def Obligations.TrapEntry : Prop :=
  (∀ (s : State) (tid : Nat) (t : Thread) (tr : Trap), s.thread tid = t → t.eid = 0 → (tr.level = 1 ∨ tr.level = 2) →
    t.lvl < 4 → ∀ u, u = (s.trap tid tr).thread tid →
    (tr.level = 2 → u.h = { t.h with epc := tr.epc, cause := BitVec.ofNat 32 (256 * tr.cls + tr.code), val := tr.value
                                     stat := BitVec.ofNat 32 (4 * t.lvl + 2 * (if t.h.stat.getLsbD 0 then 1 else 0)) }
        ∧ u.k = t.k ∧ u.lvl = 2 ∧ u.pc = t.h.vec)
    ∧ (tr.level = 1 → u.k = { t.k with epc := tr.epc, cause := BitVec.ofNat 32 (256 * tr.cls + tr.code), val := tr.value
                                       stat := BitVec.ofNat 32 (4 * t.lvl + 2 * (if t.k.stat.getLsbD 0 then 1 else 0)) }
        ∧ u.h = t.h ∧ u.lvl = 1 ∧ u.pc = t.k.vec)
    ∧ u.g = t.g ∧ u.q = t.q ∧ u.fstat = t.fstat ∧ u.mode = t.mode ∧ u.eid = 0 ∧ u.ptroot = t.ptroot ∧ u.hgpt = t.hgpt
    ∧ (s.trap tid tr).store = s.store ∧ (s.trap tid tr).simt = s.simt ∧ (∀ k, k ≠ tid → (s.trap tid tr).thread k = s.thread k))
  ∧ ∀ (s : State) (tid : Nat) (t : Thread) (cause value : Nat), s.thread tid = t → t.eid = 0 → t.lvl ≤ 2 →
    ∀ u, u = (s.threadFault tid cause value).thread tid →
    (t.lvl < 2 → u.lvl = 1 ∧ u.pc = t.k.vec ∧ u.k.epc = t.pc ∧ u.k.cause = BitVec.ofNat 32 cause
      ∧ u.k.val = (if cause = 6 ∨ cause = 7 ∨ cause = 8 ∨ cause = 9 then BitVec.ofNat 64 value else 0#64))
    ∧ (t.lvl = 2 → u.lvl = 2 ∧ u.pc = t.h.vec ∧ u.h.epc = t.pc ∧ u.h.cause = BitVec.ofNat 32 cause
      ∧ u.h.val = (if cause = 6 ∨ cause = 7 ∨ cause = 8 ∨ cause = 9 then BitVec.ofNat 64 value else 0#64))
    ∧ u.g = t.g ∧ (s.threadFault tid cause value).store = s.store ∧ (s.threadFault tid cause value).turns = s.turns.tail

/-- O44. SYSCALL at user level traps to kernel level with CLASS 1, HVCALL one level up with CLASS 2, the next instruction in
xEPC; elsewhere OPND. ERET from level x sets xSTAT.IE to xSTAT.PIE and goes to level xSTAT.PL at xEPC; at user level, or
with PL at or above x, OPND (R273). WFI stalls the thread unless an interrupt is pending. TLBI drops the named host
translations of the partition, no others. -/
def Obligations.CallsReturnsAndWaits : Prop :=
  ∀ (s : State) (tid : Nat) (t : Thread), s.AtThread tid t →
    (∀ x : Op0, t.Passes (Spec.of x.m 1 false [] []) →
      (t.lvl = 0 → exec (.syscall x) s = .next (s.trap tid ⟨1, 0, 1, t.pc + 4#64, 0#64, true⟩).pop)
      ∧ (t.lvl ≠ 0 → exec (.syscall x) s = .next (s.threadFault tid 2 0))
      ∧ (t.lvl < 2 → exec (.hvcall x) s = .next (s.trap tid ⟨2, 0, t.lvl + 1, t.pc + 4#64, 0#64, true⟩).pop)
      ∧ (t.lvl = 2 → exec (.hvcall x) s = .next (s.threadFault tid 2 0))
      ∧ (t.lvl = 0 → exec (.eret x) s = .next (s.threadFault tid 2 0))
      ∧ (t.lvl = 1 → fieldOf t.k.stat.toNat 2 2 = 0 → exec (.eret x) s = .next (s.threadDone tid { t with
          k := { t.k with stat := BitVec.ofNat 32 (t.k.stat.toNat / 2 * 2 + (if t.k.stat.getLsbD 1 then 1 else 0)) }
          lvl := 0, pc := t.k.epc }))
      ∧ (t.lvl = 2 → fieldOf t.h.stat.toNat 2 2 < 2 → exec (.eret x) s = .next (s.threadDone tid { t with
          h := { t.h with stat := BitVec.ofNat 32 (t.h.stat.toNat / 2 * 2 + (if t.h.stat.getLsbD 1 then 1 else 0)) }
          lvl := fieldOf t.h.stat.toNat 2 2, pc := t.h.epc }))
      ∧ (t.lvl = 1 → 1 ≤ fieldOf t.k.stat.toNat 2 2 → exec (.eret x) s = .next (s.threadFault tid 2 0))
      ∧ (t.lvl = 2 → 2 ≤ fieldOf t.h.stat.toNat 2 2 → exec (.eret x) s = .next (s.threadFault tid 2 0))
      ∧ (s.interruptPending tid = true → exec (.wfi x) s = .next (s.threadDone tid (t.onward 1)))
      ∧ (s.interruptPending tid = false → exec (.wfi x) s = .next (s.threadDone tid ({ t with wfi := true }.onward 1)))
      ∧ (1 ≤ t.lvl → exec (.tlbiAll x) s = .next ((s.modHub fun h => { h with
          tlb := h.tlb.filter fun e => e.part != s.partOfThread tid }).threadDone tid (t.onward 1))))
    ∧ ∀ x : Op1, t.Passes (Spec.of x.m x.len false x.a.uCodes []) → 1 ≤ t.lvl →
      exec (.tlbiPage x) s = .next ((s.modHub fun h => { h with tlb := h.tlb.filter fun e => !(e.part == s.partOfThread tid
        && e.root == t.ptroot.toNat && e.holds (vpnOf ((t.rd tid).uni x.a).toNat)) }).threadDone tid (t.onward x.len))
      ∧ exec (.tlbiSpace x) s = .next ((s.modHub fun h => { h with tlb := h.tlb.filter fun e => !(e.part == s.partOfThread tid
        && e.root == ((t.rd tid).uni x.a).toNat) }).threadDone tid (t.onward x.len))

/-! ### Enclaves, page ownership, handover and partitions (R31, R280 to R290, R310 to R327, R363 to R371, R390 to R398, R453) -/

/-- O45. A good descriptor gives g(d) a fresh EID, whose enclave belongs to the caller's partition and carries its threads
and measurement; a failed check is reported and creates nothing. EENTER of a free thread control page marks it BUSY and
enters at user level, keeping the return address and level outside. It enters from every level, hypervisor level too, to
which it then returns (the model's choice, log entry 49). An EID of no live enclave or of one of another partition (the
model's choice for the latter, log entry 51), or an index that is no thread of it, is BADEID, a BUSY page BUSY; a page with
a poisoned line is the subject of no clause. EEXIT leaves through a synchronous exit of CLASS EXIT (4); in the host domain
OPND. EDESTROY removes an idle enclave; a thread inside makes it BUSY, and an EID that is not of the partition is BADEID. -/
def Obligations.EnclaveInstructions : Prop :=
  ∀ (s : State) (tid : Nat) (t : Thread), s.AtThread tid t →
    (∀ (x : Rr) (d : List Byte), 1 ≤ t.lvl → t.Passes (Spec.of x.m 1 false [codeG x.a] [codeG x.d]) →
      s.record tid ((t.rd tid).g x.a).toNat 256 = .ok d → s.createBad (s.partOfThread tid) d = none →
      (∀ r, s.createEnclave (s.partOfThread tid) d = .error r → exec (.ecreate x) s = .next ((s.fail tid x.d r).sysDone tid 1))
      ∧ ∀ (eid : Nat) (u : State), s.createEnclave (s.partOfThread tid) d = .ok (eid, u) →
        exec (.ecreate x) s = .next ((u.setG tid x.d (BitVec.ofNat 64 eid)).sysDone tid 1)
        ∧ 1 ≤ eid ∧ eid < 65536 ∧ Tbl.get? s.hub.enclaves eid = none
        ∧ (∃ e, Tbl.get? u.hub.enclaves eid = some e ∧ e.part = s.partOfThread tid ∧ e.threads = fieldAt d 0 2 ∧ e.descr = d
          ∧ e.measurement = s.measure d (s.pageList (s.partOfThread tid) (fieldAt d 8 8) (fieldAt d 4 4)))
        ∧ ∀ k, k ≠ eid → Tbl.get? u.hub.enclaves k = Tbl.get? s.hub.enclaves k)
    ∧ (∀ (x : Rrr) (e : Enclave) (pa : Nat), t.eid = 0 → t.Passes (Spec.of x.m 1 false [codeG x.a, codeG x.c] [codeG x.d]) →
      Tbl.get? s.hub.enclaves ((t.rd tid).g x.a).toNat = some e → e.part = s.partOfThread tid →
      ((t.rd tid).g x.c).toNat < e.threads → s.tcpAt ((t.rd tid).g x.a).toNat ((t.rd tid).g x.c).toNat = some pa →
      s.readBad pa 0x248 = none →
      (s.peek pa 4 ≠ 1 → ∃ u, exec (.eenter x) s = .next u
        ∧ u.thread tid = s.enterThread t ((t.rd tid).g x.a).toNat ((t.rd tid).g x.c).toNat pa 1 e.entry
        ∧ (u.thread tid).lvl = 0 ∧ (u.thread tid).eid = ((t.rd tid).g x.a).toNat ∧ (u.thread tid).encRet = t.pc + 4#64
        ∧ (u.thread tid).encLvl = t.lvl ∧ (s.peek pa 4 = 0 → (u.thread tid).pc = BitVec.ofNat 64 e.entry)
        ∧ u.store = (s.write pa (leBytes 4 1)).store)
      ∧ (s.peek pa 4 = 1 → exec (.eenter x) s = .next ((s.fail tid x.d stBusy).sysDone tid 1)))
    ∧ (∀ x : Rrr, t.eid = 0 → t.Passes (Spec.of x.m 1 false [codeG x.a, codeG x.c] [codeG x.d]) →
      (∀ e, Tbl.get? s.hub.enclaves ((t.rd tid).g x.a).toNat = some e →
        e.part ≠ s.partOfThread tid ∨ e.threads ≤ ((t.rd tid).g x.c).toNat) →
      exec (.eenter x) s = .next ((s.fail tid x.d stBadEid).sysDone tid 1))
    ∧ (∀ x : Op0, t.Passes (Spec.of x.m 1 false [] []) →
      (t.eid = 0 → exec (.eexit x) s = .next (s.threadFault tid 2 0))
      ∧ (t.eid ≠ 0 → exec (.eexit x) s = .next (s.trap tid ⟨4, 0, 1, t.pc + 4#64, 0#64, true⟩).pop))
    ∧ (∀ x : Rr, 1 ≤ t.lvl → t.Passes (Spec.of x.m 1 false [codeG x.a] [codeG x.d]) →
      (∀ e, Tbl.get? s.hub.enclaves ((t.rd tid).g x.a).toNat = some e → e.part ≠ s.partOfThread tid) →
      exec (.edestroy x) s = .next ((s.fail tid x.d stBadEid).sysDone tid 1))
    ∧ ∀ (x : Rr) (e : Enclave), 1 ≤ t.lvl → t.Passes (Spec.of x.m 1 false [codeG x.a] [codeG x.d]) →
      Tbl.get? s.hub.enclaves ((t.rd tid).g x.a).toNat = some e → e.part = s.partOfThread tid →
      ((s.hub.threads.any (fun y => y.2.running && y.2.eid == ((t.rd tid).g x.a).toNat) || e.queues.any s.ctxHolds) = true →
        exec (.edestroy x) s = .next ((s.fail tid x.d stBusy).sysDone tid 1))
      ∧ ((s.hub.threads.any (fun y => y.2.running && y.2.eid == ((t.rd tid).g x.a).toNat) || e.queues.any s.ctxHolds) = false →
        exec (.edestroy x) s = .next (((s.destroyEnclave ((t.rd tid).g x.a).toNat e).setG tid x.d 0#64).sysDone tid 1)
        ∧ Tbl.get? (s.destroyEnclave ((t.rd tid).g x.a).toNat e).hub.enclaves ((t.rd tid).g x.a).toNat = none)

/-- O46. PGASSIGN of a page that may change its owner completes with status 0, for each move of Table 8 with its own effect;
any other answers its reason, and then nothing else changes. A page that leaves an enclave goes through SCRUB, in which none
of its bytes is left. PGSEAL of an owned page of the enclave, into a buffer that translates, completes with status 0: the
page is SEALED with the next version. PGUNSEAL of the last image of a sealed page into a HOST frame completes with status 0:
the frame is OWNED by the enclave, with the page's bytes. An image that names no live enclave is BADEID, a version that is
not the last STALE. That a page in SCRUB reads as zero at once (log entry 53), that the tables of an assigned page grow in
the same step (log entry 20), and that accesses in flight are performed in it (log entry 52) are the model's choice. -/
def Obligations.PageOwnership : Prop :=
  ∀ (s : State) (tid : Nat) (t : Thread), s.AtThread tid t → 1 ≤ t.lvl →
    (∀ x : PgaI, t.Passes (Spec.of x.m 2 false ([codeG x.a, codeG x.c]
        ++ if x.ctl.new = potOwned ∨ x.ctl.new = potShared then [codeG x.ctl.va] else []) [codeG x.d]) →
      ∀ (pa : Nat) (r : Sys), ((t.rd tid).g x.a).toNat = pa →
      s.assignPage (s.partOfThread tid) pa ((t.rd tid).g x.c).toNat ((t.rd tid).g x.ctl.va) x.ctl = r →
      exec (.pgassign x) s = .next ((s.answer tid x.d r).sysDone tid 2)
      ∧ (∀ e, r = .error e → s.answer tid x.d r = s.setG tid x.d (failStatus e))
      ∧ (∀ u, r = .ok u → s.answer tid x.d r = u.setG tid x.d 0#64)
      ∧ (pa % 4096 ≠ 0 → r = .error stBadDesc)
      ∧ (pa % 4096 = 0 → ((t.rd tid).g x.c).toNat < 65536 → inKick pa = false → s.inPartMem (s.partOfThread tid) pa = true →
        (∀ e, (x.ctl.new = potOwned ∨ x.ctl.new = potShared) → ((t.rd tid).g x.ctl.va).toNat % 4096 = 0 →
          canonical ((t.rd tid).g x.ctl.va).toNat = true → Tbl.get? s.hub.enclaves ((t.rd tid).g x.c).toNat = some e →
          e.part = s.partOfThread tid → ((s.potOf (pa / 4096)).state = potHost ∨ (s.potOf (pa / 4096)).state = potFree) →
          Tbl.get? e.map (vpnOf ((t.rd tid).g x.ctl.va).toNat) = none →
          s.poolFull (s.partOfThread tid) (s.poolTaken (s.partOfThread tid) (pa / 4096) e (vpnOf ((t.rd tid).g x.ctl.va).toNat)) = false →
          ∃ u, u = s.assignTo (pa / 4096) ((t.rd tid).g x.c).toNat x.ctl.new (b01 x.ctl.r + 2 * b01 x.ctl.w)
              (vpnOf ((t.rd tid).g x.ctl.va).toNat) (!((s.potOf (pa / 4096)).state == potHost && x.ctl.new == potShared))
            ∧ exec (.pgassign x) s = .next ((u.setG tid x.d 0#64).sysDone tid 2)
            ∧ (u.potOf (pa / 4096)).owner = ((t.rd tid).g x.c).toNat
            ∧ (u.potOf (pa / 4096)).state
              = (if (s.potOf (pa / 4096)).state = potHost ∧ x.ctl.new = potShared then potShared else potScrub))
        ∧ (x.ctl.new ≠ potOwned → x.ctl.new ≠ potShared → (t.rd tid).g x.c = 0#64 →
          (((s.potOf (pa / 4096)).state = potFree ∨ (s.potOf (pa / 4096)).state = potHost) → exec (.pgassign x) s
            = .next ((((s.dropHost (pa / 4096)).leavePot (pa / 4096) x.ctl.new).setG tid x.d 0#64).sysDone tid 2))
          ∧ (((s.potOf (pa / 4096)).state = potOwned ∨ (s.potOf (pa / 4096)).state = potSealed) → exec (.pgassign x) s
            = .next (((((s.shootPage (pa / 4096)).unmapPage (pa / 4096)).enterScrub (pa / 4096) x.ctl.new 0 0 0).setG
                tid x.d 0#64).sysDone tid 2))
          ∧ ((s.potOf (pa / 4096)).state = potShared → exec (.pgassign x) s
            = .next (((((s.shootPage (pa / 4096)).unmapPage (pa / 4096)).leavePot (pa / 4096) x.ctl.new).setG
                tid x.d 0#64).sysDone tid 2)))))
    ∧ (∀ (page next owner attr link a : Nat), a / 4096 = page →
      (s.enterScrub page next owner attr link).peek a 1 = 0 ∧ ((s.enterScrub page next owner attr link).potOf page).state = potScrub)
    ∧ (∀ (x : Rrr) (buf : List Xlat) (e : Enclave) (l : EncLeaf), t.Passes (Spec.of x.m 1 (!pairOk x.a)
        [codeG x.a, codeG (x.a + 1), codeG x.c] [codeG x.d]) → s.buffer tid .write ((t.rd tid).g x.c).toNat 4160 = .ok buf →
      Tbl.get? s.hub.enclaves ((t.rd tid).g x.a).toNat = some e → e.part = s.partOfThread tid →
      canonical ((t.rd tid).g (x.a + 1)).toNat = true → ((t.rd tid).g (x.a + 1)).toNat % 4096 = 0 →
      Tbl.get? e.map (vpnOf ((t.rd tid).g (x.a + 1)).toNat) = some l → l.sealed = false → (s.potOf l.ppn).state = potOwned →
      fieldOf l.attr 3 3 = 0 → l.version ≠ 0xFFFFFFFF → s.readBad (4096 * l.ppn) 4096 = none →
      ∃ u, u = s.sealPage ((t.rd tid).g x.a).toNat (vpnOf ((t.rd tid).g (x.a + 1)).toNat) e l buf
        ∧ exec (.pgseal x) s = .next ((u.setG tid x.d 0#64).sysDone tid 1)
        ∧ (u.potOf l.ppn).state = potSealed ∧ (u.potOf l.ppn).version = l.version + 1)
    ∧ ∀ (x : Rrr) (img : List Byte), t.Passes (Spec.of x.m 1 false [codeG x.a, codeG x.c] [codeG x.d]) →
      s.record tid ((t.rd tid).g x.a).toNat 4160 = .ok img → ((t.rd tid).g x.c).toNat % 4096 = 0 →
      inKick ((t.rd tid).g x.c).toNat = false → s.inPartMem (s.partOfThread tid) ((t.rd tid).g x.c).toNat = true →
      fieldAt img 0 4 = 0x4B535047 →
      (Tbl.get? s.hub.enclaves (fieldAt img 4 2) = none →
        exec (.pgunseal x) s = .next ((s.fail tid x.d stBadEid).sysDone tid 1))
      ∧ ∀ (e : Enclave) (l : EncLeaf), Tbl.get? s.hub.enclaves (fieldAt img 4 2) = some e → e.part = s.partOfThread tid →
        Tbl.get? e.map (fieldAt img 8 8) = some l → l.sealed = true →
        (fieldAt img 16 8 ≠ l.version → exec (.pgunseal x) s = .next ((s.fail tid x.d stStale).sysDone tid 1))
        ∧ ∀ p, fieldAt img 16 8 = l.version → ((s.hub.pages.map Prod.snd).find? fun p => p.eid == fieldAt img 4 2
            && p.va == fieldAt img 8 8 && p.version == l.version && p.sealed == img) = some p →
          (s.potOf (((t.rd tid).g x.c).toNat / 4096)).state = potHost →
          ∃ u, u = s.unsealTo (((t.rd tid).g x.c).toNat / 4096) (fieldAt img 4 2) (fieldAt img 8 8) l p.bytes
            ∧ exec (.pgunseal x) s = .next ((u.setG tid x.d 0#64).sysDone tid 1)
            ∧ (u.potOf (((t.rd tid).g x.c).toNat / 4096)).state = potOwned
            ∧ (u.potOf (((t.rd tid).g x.c).toNat / 4096)).owner = fieldAt img 4 2

/-- O47. For a selector of the partition's own context, with nothing of the context before it at the root of trust: CTXSEAL
of a RESIDENT one raises its halt line and stays at the instruction; of a HALTED one it stays for a latency that is open,
then writes the image and ends, SEALED with the size in g(d+1), NOSPACE where the buffer is too small, TAG where a team
record was changed. CTXCOMMIT of a SEALED one takes it off the die with the next version; CTXABORT goes on from SEALED, with
the version raised by 2, or from HALTED. FREEZE needs the DEBUG policy. CTXLOAD of a bad header is BADDESC, of one with no
target the reason of that, of a context that is not on the die STATE; otherwise it answers what its checks answer, and on
success the context is RESIDENT. CORERST of a core in service resets it and waits; when the time has come the core is in
service again, or retired with RETIRE, an error log entry of KIND 4 is written and g(d) is 0. A context frozen is BUSY, one
in another state STATE. The order of the conditions (log entry 51), the image written in one step (log entry 52) after an
open time (log entry 4), TAG for a changed record (log entry 115) and the order of CTXLOAD's checks (log entry 56) are the
model's choice. -/
def Obligations.HandoverInstructions : Prop :=
  ∀ (s : State) (tid : Nat) (t : Thread), s.AtThread tid t →
    (∀ (x : Rr) (q : Nat) (w : State), 1 ≤ t.lvl → t.Passes (Spec.of x.m 1 false [codeG x.a] [codeG x.d]) →
      selectorBad ((t.rd tid).g x.a).toNat = false → s.selected tid ((t.rd tid).g x.a).toNat = some q →
      s.mustWait tid q (s.ticket tid) = false → w = s.unqueue tid →
      ((s.ctx q).frozen = true → exec (.ctxabort x) s = .next ((w.fail tid x.d stBusy).sysDone tid 1))
      ∧ ((s.ctx q).frozen = false → (s.ctx q).state = 3 → exec (.ctxabort x) s
        = .next ((((w.modCtx q fun c => { c with version := c.version + 2 }).resumeCtx q).setG tid x.d 0#64).sysDone tid 1))
      ∧ ((s.ctx q).frozen = false → (s.ctx q).state = 2 →
        exec (.ctxabort x) s = .next (((w.resumeCtx q).setG tid x.d 0#64).sysDone tid 1))
      ∧ ((s.ctx q).frozen = false → (s.ctx q).state ≠ 2 → (s.ctx q).state ≠ 3 →
        exec (.ctxabort x) s = .next ((w.fail tid x.d stState).sysDone tid 1)))
    ∧ (∀ (x : Rrr) (q : Nat) (buf : List Xlat) (due : Option Nat) (w : State), 1 ≤ t.lvl →
      t.Passes (Spec.of x.m 1 (!pairOk x.d || !pairOk x.c) [codeG x.a, codeG x.c, codeG (x.c + 1)] [codeG x.d]) →
      ((t.sealing = none ∧ selectorBad ((t.rd tid).g x.a).toNat = false ∧ s.selected tid ((t.rd tid).g x.a).toNat = some q
          ∧ s.mustWait tid q (s.ticket tid) = false ∧ (s.ctx q).frozen = false ∧ due = none ∧ w = s.unqueue tid
          ∧ w.buffer tid .write ((t.rd tid).g x.c).toNat ((t.rd tid).g (x.c + 1)).toNat = .ok buf)
        ∨ (t.sealing = some (q, buf, due) ∧ w = s)) →
      ((s.ctx q).state = 1 → ∃ u, exec (.ctxseal x) s = .next u ∧ (u.thread tid).sealing = some (q, buf, none)
        ∧ (u.thread tid).pc = t.pc ∧ u.turns = (w.sealHalt q).turns.tail ∧ ((s.ctx q).vacBusy = false → (u.ctx q).halt ≠ none))
      ∧ ((s.ctx q).state = 2 → due = none → ∃ u n, exec (.ctxseal x) s = .next u ∧ s.ac ≤ n
        ∧ (u.thread tid).sealing = some (q, buf, some n) ∧ (u.thread tid).pc = t.pc ∧ u.ctx q = s.ctx q)
      ∧ (∀ n, (s.ctx q).state = 2 → due = some n → s.ac < n → ∃ u, exec (.ctxseal x) s = .next u
        ∧ (u.thread tid).sealing = some (q, buf, some n) ∧ (u.thread tid).pc = t.pc ∧ u.ctx q = s.ctx q)
      ∧ (∀ n, (s.ctx q).state = 2 → due = some n → n ≤ s.ac →
        ∃ u, u = s.writeImage tid x.d ((t.rd tid).g (x.c + 1)).toNat q buf
        ∧ exec (.ctxseal x) s = .next (u.sysDone tid 1) ∧ (u.thread tid).sealing = none
        ∧ (s.recordsHold q = false → u.ctx q = s.ctx q ∧ Tbl.fget 0#64 (u.thread tid).g x.d = failStatus stTag)
        ∧ (s.recordsHold q = true → ∃ n : Nat, Tbl.fget 0#64 (u.thread tid).g (x.d + 1) = BitVec.ofNat 64 n
          ∧ (n ≤ ((t.rd tid).g (x.c + 1)).toNat → (u.ctx q).state = 3 ∧ Tbl.fget 0#64 (u.thread tid).g x.d = 0#64)
          ∧ (((t.rd tid).g (x.c + 1)).toNat < n → u.ctx q = s.ctx q
            ∧ Tbl.fget 0#64 (u.thread tid).g x.d = failStatus stNoSpace)))
      ∧ ((s.ctx q).state ≠ 1 → (s.ctx q).state ≠ 2 → t.sealing ≠ none →
        exec (.ctxseal x) s = .next ((s.sealDone tid x.d (failStatus stState)).sysDone tid 1)))
    ∧ (∀ (x : Rrr) (q : Nat) (w : State), 1 ≤ t.lvl →
      t.Passes (Spec.of x.m 1 (!pairOk x.d || !pairOk x.c) [codeG x.a, codeG x.c, codeG (x.c + 1)] [codeG x.d]) →
      t.sealing = none → selectorBad ((t.rd tid).g x.a).toNat = false → s.selected tid ((t.rd tid).g x.a).toNat = some q →
      s.mustWait tid q (s.ticket tid) = false → w = s.unqueue tid →
      ((s.ctx q).frozen = true → exec (.ctxseal x) s = .next ((w.fail tid x.d stBusy).sysDone tid 1))
      ∧ ((s.ctx q).frozen = false → (s.ctx q).state ≠ 1 → (s.ctx q).state ≠ 2 →
        exec (.ctxseal x) s = .next ((w.fail tid x.d stState).sysDone tid 1)))
    ∧ (∀ (x : Rrr) (q : Nat) (w : State), 1 ≤ t.lvl → t.Passes (Spec.of x.m 1 false [codeG x.a, codeG x.c] [codeG x.d]) →
      selectorBad ((t.rd tid).g x.a).toNat = false → s.selected tid ((t.rd tid).g x.a).toNat = some q →
      s.mustWait tid q (s.ticket tid) = false → w = s.unqueue tid →
      ((s.ctx q).frozen = true → exec (.ctxcommit x) s = .next ((w.fail tid x.d stBusy).sysDone tid 1))
      ∧ ((s.ctx q).frozen = false → (s.ctx q).state ≠ 3 → exec (.ctxcommit x) s = .next ((w.fail tid x.d stState).sysDone tid 1))
      ∧ ((s.ctx q).frozen = false → (s.ctx q).state = 3 → (t.rd tid).g x.c = 0#64 →
        exec (.ctxcommit x) s = .next (((w.commitCtx q false).setG tid x.d 0#64).sysDone tid 1)
        ∧ ((w.commitCtx q false).ctx q).state = 4 ∧ (w.commitCtx q false).residentGroups q = []))
    ∧ (∀ (x : Rrr) (h : List Byte) (w : State), 1 ≤ t.lvl → t.Passes (Spec.of x.m 1 false [codeG x.a, codeG x.c] [codeG x.d]) →
      w = s.unqueue tid → w.record tid ((t.rd tid).g x.a).toNat 512 = .ok h → (t.rd tid).g x.c = 0#64 →
      ((fieldAt h 0 4 ≠ 0x4B534349 ∨ fieldAt h 4 2 ≠ 1) → exec (.ctxload x) s = .next ((w.fail tid x.d stBadDesc).sysDone tid 1))
      ∧ (fieldAt h 0 4 = 0x4B534349 → fieldAt h 4 2 = 1 →
        (∀ r, w.loadTarget (s.partOfThread tid) none h = .error r → exec (.ctxload x) s = .next ((w.fail tid x.d r).sysDone tid 1))
        ∧ ∀ q, w.loadTarget (s.partOfThread tid) none h = .ok q → w.mustWait tid q (s.ticket tid) = false →
          ((s.ctx q).frozen = true → exec (.ctxload x) s = .next ((w.fail tid x.d stBusy).sysDone tid 1))
          ∧ ((s.ctx q).frozen = false → (s.part (s.partOfQueue q)).state = 0 → (s.part (s.partOfQueue q)).refusing = false →
            (s.ctx q).state ≠ 4 → exec (.ctxload x) s = .next ((w.fail tid x.d stState).sysDone tid 1))
          ∧ ∀ r : Sys, w.checkLoad tid ((t.rd tid).g x.a).toNat q none h = .ok r →
            exec (.ctxload x) s = .next ((w.answer tid x.d r).sysDone tid 1) ∧ ∀ v, r = .ok v → (v.ctx q).state = 1))
    ∧ (∀ (x : RrOp) (q : Nat), 2 ≤ t.lvl → t.Passes (Spec.of x.m x.len false (codeG x.a :: x.c.uCodes) [codeG x.d]) →
      selectorBad ((t.rd tid).g x.a).toNat = false → s.selected tid ((t.rd tid).g x.a).toNat = some q →
      (bitOf (s.policyOf (s.ctx q).eid) 0 = false → ((t.rd tid).uni x.c).toNat ≤ 1 →
        exec (.freeze x) s = .next ((s.fail tid x.d stPolicy).sysDone tid x.len))
      ∧ (bitOf (s.policyOf (s.ctx q).eid) 0 = true → s.sealBusy q = false → (s.ctx q).state = 1 →
        ((s.ctx q).frozen = false → ((t.rd tid).uni x.c).toNat = 1 →
          exec (.freeze x) s = .next (((s.freezeCtx q).setG tid x.d 0#64).sysDone tid x.len))
        ∧ ((s.ctx q).frozen = true → ((t.rd tid).uni x.c).toNat = 0 →
          exec (.freeze x) s = .next (((s.thawCtx q).setG tid x.d 0#64).sysDone tid x.len))))
    ∧ ∀ (x : Op2) (v core : Nat), 2 ≤ t.lvl → t.Passes (Spec.of x.m x.len false x.a.uCodes [codeG x.d]) →
      v = ((t.rd tid).uni x.a).toNat → core = v % 2048 → v / 2048 % 32 = 0 → v < 2 ^ 17 → core ≤ 1407 →
      (t.resets = none → s.simt.coreReset.contains core = false → (s.part (s.die (core / 176)).part).gated = false →
        (s.die (core / 176)).retired.contains (core % 176) = false →
        ∃ (u : State) (due : Nat), exec (.corerst x) s = .next u ∧ due ≤ s.ac + 28000
          ∧ u.thread tid = { t with resets := some (core, due) } ∧ u.simt.coreReset.contains core = true)
      ∧ (t.resets = none → s.simt.coreReset.contains core = true → exec (.corerst x) s = .next ((s.fail tid x.d stBusy).sysDone tid x.len))
      ∧ (∀ due, t.resets = some (core, due) →
        (s.ac < due → exec (.corerst x) s = .next (s.threadDone tid { t with pc := t.pc }))
        ∧ ∀ w y : State, due ≤ s.ac → w = ((s.modThread tid fun y => { y with resets := none }).modSimt fun y => { y with
            coreReset := y.coreReset.erase core }) →
          y = (if bitOf v 16 then
            { w with dies := Tbl.put w.dies (core / 176) { s.die (core / 176) with
                retired := core % 176 :: (s.die (core / 176)).retired } } else w) →
          exec (.corerst x) s = .next ((((y.logError (core / 176) (core % 176) 0 4 0 0 core).soon
            (.teamPlacement (s.die (core / 176)).part)).setG tid x.d 0#64).sysDone tid x.len))

/-- O48. At hypervisor level, with a good pair and mask: QUIESCE with work in flight makes the partitions DRAINING and
reports BUSY with the lowest queue in g(d+1), otherwise QUIESCED with status 0; SHOOT and the two writes are STATE unless
every named partition is QUIESCED; SHOOT then drops their translations; RESUME makes them RUNNING unless one runs or is
gated. A bad image is BADDESC; a good WRITEILV zeroes the partitions' memory. A bad mask is BADDESC and changes nothing
else. That RESUME of a RUNNING partition is STATE is the model's choice (log entry 58). -/
def Obligations.PartitionControl : Prop :=
  ∀ (s : State) (tid : Nat) (t : Thread) (x : Rrr) (img : Bool) (ps : List Nat), s.AtThread tid t → t.lvl = 2 →
    t.Passes (Spec.of x.m 2 (!pairOk x.d) ([codeG x.a] ++ if img then [codeG x.c] else []) [codeG x.d, codeG (x.d + 1)]) →
    partsOf ((t.rd tid).g x.a).toNat = ps →
    (s.partMaskBad ((t.rd tid).g x.a).toNat = true →
      (img = false → exec (.partctlQuiesce x) s = .next ((s.fail tid x.d stBadDesc).sysDone tid 2)
        ∧ exec (.partctlShoot x) s = .next ((s.fail tid x.d stBadDesc).sysDone tid 2)
        ∧ exec (.partctlResume x) s = .next ((s.fail tid x.d stBadDesc).sysDone tid 2))
      ∧ (img = true → exec (.partctlWriteilv x) s = .next ((s.fail tid x.d stBadDesc).sysDone tid 2)
        ∧ exec (.partctlWritebnd x) s = .next ((s.fail tid x.d stBadDesc).sysDone tid 2)))
    ∧ (s.partMaskBad ((t.rd tid).g x.a).toNat = false → img = false →
      (((s.hub.queues.any fun q => ps.contains (s.partOfQueue q.1) && s.inFlight q.1) = true →
          ∃ u, exec (.partctlQuiesce x) s = .next u ∧ (∀ p ∈ ps, (u.part p).state = 1)
            ∧ Tbl.fget 0#64 (u.thread tid).g x.d = failStatus stBusy)
        ∧ ((s.hub.queues.any fun q => ps.contains (s.partOfQueue q.1) && s.inFlight q.1) = false →
          ∃ u, exec (.partctlQuiesce x) s = .next u ∧ (∀ p ∈ ps, (u.part p).state = 2) ∧ Tbl.fget 0#64 (u.thread tid).g x.d = 0#64
            ∧ ∀ p, p ∉ ps → u.part p = s.part p))
      ∧ ((s.quiesced ps = false → exec (.partctlShoot x) s = .next ((s.fail tid x.d stState).sysDone tid 2))
        ∧ (s.quiesced ps = true → ∃ u, exec (.partctlShoot x) s = .next u
          ∧ u.hub.tlb = s.hub.tlb.filter (fun e => !ps.contains e.part) ∧ (∀ p ∈ ps, (u.part p).shootDue = false)))
      ∧ (((ps.any (fun p => (s.part p).state == 0) || s.anyGated ps) = true →
          exec (.partctlResume x) s = .next ((s.fail tid x.d stState).sysDone tid 2))
        ∧ ((ps.any (fun p => (s.part p).state == 0) || s.anyGated ps) = false →
          ∃ u, exec (.partctlResume x) s = .next u ∧ (∀ p ∈ ps, (u.part p).state = 0) ∧ u.store = s.store)))
    ∧ (s.partMaskBad ((t.rd tid).g x.a).toNat = false → img = true →
      ((s.quiesced ps = false ∨ s.anyGated ps = true) →
        exec (.partctlWriteilv x) s = .next ((s.fail tid x.d stState).sysDone tid 2)
        ∧ exec (.partctlWritebnd x) s = .next ((s.fail tid x.d stState).sysDone tid 2))
      ∧ (s.quiesced ps = true → s.anyGated ps = false →
        (∀ b, s.record tid ((t.rd tid).g x.c).toNat 128 = .ok b →
          (s.ilvBad (s.diesOfParts ps) b = true → exec (.partctlWriteilv x) s = .next ((s.fail tid x.d stBadDesc).sysDone tid 2))
          ∧ (s.ilvBad (s.diesOfParts ps) b = false → ps.any s.holdsEnclave = false →
            ∃ u, exec (.partctlWriteilv x) s = .next u ∧ (∀ p ∈ ps, (u.part p).shootDue = true)
              ∧ u.store = (s.wipeMemory ps).store))
        ∧ (∀ b, s.record tid ((t.rd tid).g x.c).toNat 64 = .ok b →
          (s.bndBad ps (s.diesOfParts ps) (fun d => fieldAt b (8 * d) 8) = true →
            exec (.partctlWritebnd x) s = .next ((s.fail tid x.d stBadDesc).sysDone tid 2))
          ∧ (s.bndBad ps (s.diesOfParts ps) (fun d => fieldAt b (8 * d) 8) = false →
            s.bndLive ps (s.diesOfParts ps) (fun d => fieldAt b (8 * d) 8) = false →
            exec (.partctlWritebnd x) s
              = .next (((s.writeBnd ps (s.diesOfParts ps) fun d => fieldAt b (8 * d) 8).setG tid x.d 0#64).sysDone tid 2)))))

/-! ### The operations of a sketch (R335 to R342) -/

/-- O49. One operation of the packet whose turn it is counts against the budget and moves the next word on; x0 reads 0 and a
write to it is discarded. The arithmetic, flag, branch and loop operations change only the packet; LDQ, LDREG read the ring
and the window; STREG, LAUNCH, SIGNAL and IRQ stage an effect, the ninth is the fault STAGE (7); a WAIT whose counter is
short makes the queue WAITING; DONE and DROP of more indices than were kicked are SLOTS (6), and otherwise commit; FAULT
ends with its own code. That LAUNCH, SIGNAL and WAIT check their addresses before the count of staged effects is the model's
choice (log entry 66). -/
def Obligations.SketchOperations : Prop :=
  ∀ (s : State) (q : Nat) (x : Queue) (k : Packet), s.AtPacket q x k →
    ∀ (c : Packet) (go : Packet → Host.Outcome State Fault Refusal), c = { k with used := k.used + 1, pc := k.pc + 1 } →
      (∀ c', go c' = .next (s.pop.putQueue q { x with pkt := some c' })) →
    (∀ r : Nat, c.reg r = (if r = 0 then 0#64 else Tbl.fget 0#64 k.x r)) ∧ (∀ v, c.setReg 0 v = c)
    ∧ (∀ (r : Nat) (v : W64), r ≠ 0 → (c.setReg r v).reg r = v ∧ ∀ r', r' ≠ r → (c.setReg r v).reg r' = c.reg r')
    ∧ (∀ (v : W64) (l m i : Nat), l < 4 → m < 4 → i < 65536 →
        fieldOf (putLane v l i).toNat (16 * m) 16 = if m = l then i else fieldOf v.toNat (16 * m) 16)
    ∧ (∀ w : SkWord, ∀ row ∈ ([
        (.sketchNop w, c),
        (.sketchMovi w, c.setReg w.a (if w.b = 0 then BitVec.ofNat 64 w.imm else putLane (c.reg w.a) w.b w.imm)),
        (.sketchAdd w, c.setReg w.a (c.reg w.a + c.reg w.b + BitVec.signExtend 64 (BitVec.ofNat 16 w.imm))),
        (.sketchSub w, c.setReg w.a (c.reg w.a - c.reg w.b)),
        (.sketchAnd w, c.setReg w.a (c.reg w.a &&& c.reg w.b)),
        (.sketchOr w, c.setReg w.a (c.reg w.a ||| c.reg w.b)),
        (.sketchShl w, c.setReg w.a (c.reg w.a <<< w.imm)),
        (.sketchShr w, c.setReg w.a (c.reg w.a >>> w.imm)),
        (.sketchMask w, c.setReg w.a (BitVec.ofNat 64 ((c.reg w.b).toNat / 2 ^ (w.imm % 64) % 2 ^ (w.imm / 64)))),
        (.sketchCmp w, { c with eq := c.reg w.a == c.reg w.b, lt := decide ((c.reg w.a).toNat < (c.reg w.b).toNat) }),
        (.sketchSel w, if (if w.imm = 0 then c.eq else c.lt) then c.setReg w.a (c.reg w.b) else c),
        (.sketchBeq w, if c.eq then { c with pc := k.pc + 1 + w.imm } else c),
        (.sketchBne w, if c.eq then c else { c with pc := k.pc + 1 + w.imm }),
        (.sketchLoop w, { c with loops := (k.pc + 1, w.imm) :: k.loops }),
        (.sketchLdreg w, c.setReg w.a (s.windowWord q x w.imm))] : List (Instr × Packet)), exec row.1 s = go row.2)
    ∧ (∀ (w : SkWord) (first n : Nat) (r : List (Nat × Nat)), k.loops = (first, n) :: r →
      (1 < n → exec (.sketchEndl w) s = go { c with loops := (first, n - 1) :: r, pc := first })
      ∧ (n ≤ 1 → exec (.sketchEndl w) s = go { c with loops := r }))
    ∧ (∀ w : SkWord,
      (x.kicked ≤ (c.reg w.b).toNat → exec (.sketchLdq w) s = .next (s.pop.queueFault q 2))
      ∧ ((c.reg w.b).toNat < x.kicked → s.ringWord q x (c.reg w.b).toNat w.imm = none →
        exec (.sketchLdq w) s = .next (s.pop.queueFault q 3))
      ∧ ∀ v, (c.reg w.b).toNat < x.kicked → s.ringWord q x (c.reg w.b).toNat w.imm = some v →
        exec (.sketchLdq w) s = go (c.setReg w.a v))
    ∧ (∀ (w : SkWord) (pa : Nat) (t : TaskRec) (l : LaunchRec) (spt : List SptEntry),
      (∀ row ∈ ([
        (.sketchStreg w, True, .streg w.imm (c.reg w.a)), (.sketchIrq w, True, .irq w.imm),
        (.sketchSignal w, s.frontCounter q (c.reg w.a).toNat = some pa, .signal (c.reg w.a).toNat pa (c.reg w.b).toNat),
        (.sketchLaunch w, s.readTask q (c.reg w.a).toNat = .ok (some (t, l, spt)) ∧ ((c.reg w.b).toNat = 0 ∨
          s.frontCounter q (c.reg w.b).toNat ≠ none), .launch t l spt (c.reg w.b).toNat)] : List (Instr × Prop × Staged)), row.2.1 →
        (k.staged.length < 8 → exec row.1 s = go { c with staged := k.staged ++ [row.2.2] })
        ∧ (8 ≤ k.staged.length → exec row.1 s = .next (s.pop.queueFault q 7)))
      ∧ (s.frontCounter q (c.reg w.a).toNat = none → exec (.sketchSignal w) s = .next (s.pop.queueFault q 5)
        ∧ exec (.sketchWait w) s = .next (s.pop.queueFault q 5))
      ∧ ((∀ y, s.readTask q (c.reg w.a).toNat ≠ .ok (some y)) → exec (.sketchLaunch w) s = .next (s.pop.queueFault q 4))
      ∧ (s.frontCounter q (c.reg w.a).toNat = some pa →
        ((c.reg w.b).toNat ≤ s.peek pa 8 → exec (.sketchWait w) s = go c)
        ∧ (s.peek pa 8 < (c.reg w.b).toNat → exec (.sketchWait w) s
          = .next ((s.pop.putQueue q { x with state := 4, pkt := some { c with wait := some (pa, (c.reg w.b).toNat) } }).toEngine pa))))
    ∧ ∀ w : SkWord, exec (.sketchFault w) s = .next (s.pop.queueFault q w.imm)
      ∧ (x.kicked < w.imm → exec (.sketchDone w) s = .next (s.pop.queueFault q 6)
        ∧ exec (.sketchDrop w) s = .next (s.pop.queueFault q 6))
      ∧ (w.imm ≤ x.kicked → k.staged = [] →
        (∃ u, exec (.sketchDone w) s = .next u ∧ (u.queue q).head = (x.head + w.imm) % 2 ^ 32 ∧ (u.queue q).pkts = (x.pkts + 1) % 2 ^ 64
          ∧ (u.queue q).drops = x.drops ∧ (u.queue q).pkt = none ∧ u.store = s.store)
        ∧ (∃ u, exec (.sketchDrop w) s = .next u ∧ (u.queue q).head = (x.head + w.imm) % 2 ^ 32
          ∧ (u.queue q).drops = (x.drops + 1) % 2 ^ 64 ∧ (u.queue q).pkt = none))
      ∧ (w.imm ≤ x.kicked → exec (.sketchDone w) s
        = .next ((s.pop.putQueue q { x with pkt := some { c with commit := some (w.imm, false) } }).commitOn q w.imm false k.staged))

/-! ### Events (ch95): what each does where it is enabled, and that it does nothing elsewhere -/

/-- O50. RUN_START gives the chosen split its turn. RUN_END_MERGE makes a split ready, parks it on an unfinished W marker,
and merges two ready splits that agree into the lower index. GROUP_EXIT, TEAM_RESOURCE_FREE and TASK_COMPLETE end a group, a
team and a task, whose tree's counter falls; the task's entry stays while a matrix operation of its groups is unfinished.
TEAM_PLACEMENT and PROGRESS_SWAP place the first team that fits. SPAWN_ACCEPT takes a parked SPAWN. FBREPLAY lets what
waited go on, or halts its context. STEPON, STEPOFF and GO act on the group's flag and holds, unless refused. That an event
that is not enabled changes nothing (log entry 100), the order of waiting teams of equal age (log entry 30), from when a
team counts as blocked (log entry 31), that every placement restarts a core's window (log entry 116), and the count that a
merged split starts with (log entry 108) are the model's choice. -/
def Obligations.TaskAndGroupEvents : Prop :=
  (∀ (s : State) (k : Nat),
    ((Tbl.get? s.simt.scheds k).bind Sched.cur = none → ∀ c, s.chosen k = some c → ∃ u, exec (.runStart k) s = .next u
      ∧ u.turns = s.turns ++ [.split c.gid c.sp] ∧ (Tbl.get? u.simt.scheds k).bind Sched.cur = some (c.gid, c.sp))
    ∧ (((Tbl.get? s.simt.scheds k).bind Sched.cur).isSome = true ∨ s.chosen k = none → exec (.runStart k) s = .next s))
  ∧ (∀ (s : State) (gid a b : Nat) (g : Group) (p o : Split), s.group? gid = some g → g.split? b = some p →
    ((p.ready = true ∨ p.park.isSome = true ∨ s.ac < p.readyAt) → exec (.runEndMerge gid b) s = .next s)
    ∧ (p.ready = false → p.park = none → p.readyAt ≤ s.ac →
      (p.wpend = true → g.pendingAny = true →
        exec (.runEndMerge gid b) s = .next (s.modSplit gid b fun p => { p with park := some .wmark }))
      ∧ ((p.wpend && g.pendingAny) = false → p.held = false → g.sets = [] →
        (g.splits = [(b, p)] → ∃ u, exec (.runEndMerge gid b) s = .next u ∧ (u.group? gid).bind (·.split? b) = some { p with
          wpend := false, ready := true, run := 0, readySince := s.ac, mode := modeLast p.modeQ p.mode, modeQ := [] })
        ∧ (g.splits = [(a, o), (b, p)] → a < b → o.ready = true → o.held = false → o.pc = p.pc →
          modeLast o.modeQ o.mode = modeLast p.modeQ p.mode → ∃ u, exec (.runEndMerge gid b) s = .next u
            ∧ ((u.group? gid).bind (·.split? a)).map Split.mask = some (p.mask ||| o.mask)
            ∧ (u.group? gid).bind (·.split? b) = none))))
  ∧ (∀ (s : State) (gid : Nat) (g : Group), s.group? gid = some g →
    (g.exited = false → g.live = 0#32 → g.pathCount 7 = 0 → ∃ (u : State) (h : Group), exec (.groupExit gid) s = .next u
      ∧ u.group? gid = some h ∧ h.exited = true ∧ (s.ac, Event.teamResourceFree g.place.team) ∈ u.agenda)
    ∧ ((g.exited = true ∨ g.live ≠ 0#32 ∨ g.pathCount 7 ≠ 0) → exec (.groupExit gid) s = .next s))
  ∧ (∀ (s : State) (id : Nat) (t : Team), Tbl.get? s.simt.teams id = some t →
    (t.state = .resident → s.teamDone id t = true → ∃ u, exec (.teamResourceFree id) s = .next u
      ∧ Tbl.get? u.simt.teams id = some { t with state := .freed } ∧ Tbl.get? u.simt.locals id = none)
    ∧ (t.state ≠ .resident → exec (.teamResourceFree id) s = .next s))
  ∧ (∀ (s : State) (part : Nat),
    (s.waitingTeams part = [] → exec (.teamPlacement part) s = .next s)
    ∧ (s.waitingTeams part ≠ [] → (s.waitingTeams part).findSome? (fun (w, t) => (s.chooseCore w t).map fun core => (w, t, core)) = none →
      exec (.teamPlacement part) s = .next (s.watchCores part))
    ∧ ∀ (w : Waiting) (t : Task) (core : Nat),
      (s.waitingTeams part).findSome? (fun (w, t) => (s.chooseCore w t).map fun core => (w, t, core)) = some (w, t, core) →
      exec (.teamPlacement part) s = .next ((s.placeAt w t core ((s.roomAt core [] w).getD 0)).soon (.teamPlacement part)))
  ∧ (∀ (s : State) (id : Nat) (t : Task), Tbl.get? s.simt.tasks id = some t →
    (s.taskDone id t = false → exec (.taskComplete id) s = .next s)
    ∧ (s.taskDone id t = true → t.completed = true → (s.taskBusy id = true → exec (.taskComplete id) s = .next s)
      ∧ (s.taskBusy id = false → exec (.taskComplete id) s = .next ((s.dropTask id).soon (.teamPlacement (s.partOfQueue t.ctx)))))
    ∧ ∀ tr, s.taskDone id t = true → t.completed = false → Tbl.get? s.simt.trees t.tree = some tr → ∃ u, exec (.taskComplete id) s = .next u
      ∧ Tbl.get? u.simt.tasks id = (if s.taskBusy id then some { t with completed := true } else none)
      ∧ Tbl.get? u.simt.trees t.tree = (if tr.counter ≤ 1 then none else some { tr with counter := tr.counter - 1 }))
  ∧ (∀ (s : State) (gid sp id len : Nat) (g : Group) (p : Split) (x : SpawnTry) (m : Marks), s.group? gid = some g →
    g.split? sp = some p → p.park = some (.spawnFull id x m len) →
    (s.spawnFull g.place.ctx x.sq (((s.taskOf g).map Task.tree).getD 0) = true → exec (.spawnAccept gid sp) s = .next s)
    ∧ (s.spawnFull g.place.ctx x.sq (((s.taskOf g).map Task.tree).getD 0) = false →
      exec (.spawnAccept gid sp) s = .next (((((s.modFlight gid id fun f => { f with kind := .reply }).spawnTask gid g id x).resumeAfter
        gid sp m len)).later (.variableLatencyResult gid id))))
  ∧ (∀ (s : State) (core : Nat),
    (s.waitingTeams (s.partOfDie (dieOfCore core)) = [] → exec (.progressSwap core) s = .next s)
    ∧ ∀ (w : Waiting) (t : Task) (r : List (Waiting × Task)), s.waitingTeams (s.partOfDie (dieOfCore core)) = (w, t) :: r →
      (s.ac < s.windowEnd core → exec (.progressSwap core) s = .next (s.at (s.windowEnd core) (.progressSwap core)))
      ∧ (s.windowEnd core ≤ s.ac → s.coreAllowed core w t = false →
        exec (.progressSwap core) s = .next (s.at (s.ac + 1) (.progressSwap core)))
      ∧ ∀ plan, s.windowEnd core ≤ s.ac → s.coreAllowed core w t = true → plan = s.fewest core w [] [] (s.blockedTeams core) →
        (∀ b, plan.b = some b →
          exec (.progressSwap core) s = .next ((plan.out.foldl State.swapOut (s.setSwapfull plan.full)).placeAt w t core b))
        ∧ (plan.b = none → exec (.progressSwap core) s = .next ((s.setSwapfull plan.full).at (s.ac + 1) (.progressSwap core))))
  ∧ (∀ (s : State) (die i : Nat),
    (s.fbEntry? die i = none → ∃ u, exec (.fbreplayRetry die i) s = .next u ∧ exec (.fbreplayAbandon die i) s = .next u
      ∧ u.simt.fbBad.contains die = true ∧ u.simt.groups = s.simt.groups)
    ∧ ∀ e, s.fbEntry? die i = some e → (s.fbFree die i).fbEntry? die i = none
      ∧ (e.copy = none → exec (.fbreplayRetry die i) s = .next ((s.fbFree die i).wake e.gid e.sp)
        ∧ exec (.fbreplayAbandon die i) s = .next (((s.fbFree die i).modSplit e.gid e.sp fun p => { p with park := none }).haltFlt
          e.gid e.sp ⟨6, e.va, e.lane⟩))
      ∧ ∀ id, e.copy = some id → (Tbl.get? s.simt.copies id = none → exec (.fbreplayRetry die i) s = .next (s.fbFree die i))
        ∧ ∀ c, Tbl.get? s.simt.copies id = some c → exec (.fbreplayRetry die i) s
            = .next (((s.fbFree die i).modCopy id fun k => { k with stopped := false, cause := none }).later (c.nextEvent id))
          ∧ ((s.ctx c.ctx).state = 1 → (s.ctx c.ctx).halt = none → ∃ u, exec (.fbreplayAbandon die i) s = .next u
            ∧ (u.ctx c.ctx).halt.map Halt.cause = some 6))
  ∧ ∀ (s : State) (gid : Nat) (g : Group), s.group? gid = some g →
    (∀ r, s.debugRefused g.place.ctx = some r → ∀ i ∈ [Instr.stepon gid, .stepoff gid, .goStep gid],
      exec i s = .next (s.debugResult g.place.ctx r 0#64))
    ∧ (s.debugRefused g.place.ctx = none →
      (∃ (u : State) (h : Group), exec (.stepon gid) s = .next u ∧ u.group? gid = some h ∧ h.stepOn = true
        ∧ (u.traceQ g.place.ctx).result = 0)
      ∧ (∃ (u : State) (h : Group), exec (.stepoff gid) s = .next u ∧ u.group? gid = some h ∧ h.stepOn = false
        ∧ ∀ p ∈ h.splits, p.2.held = false)
      ∧ ∃ (u : State) (h : Group), exec (.goStep gid) s = .next u ∧ u.group? gid = some h ∧ h.stepOn = g.stepOn
        ∧ ∀ p ∈ h.splits, p.2.held = false)

/-- O51. A group arrives at most once in the current phase and once in the next (R71); a completed phase makes the next one
current. A deferred arrival is performed when its copies hold it no longer. A PUBLISH that reaches its range table awaits
the shadowed copies accepted before; PUBLISH_POINT then waits for them and for an earlier PUBLISH of the range, and inverts
LIVE. PUBLISH_COMPLETE removes the PUBLISH. A woken wait goes on. A line idle for 4,096 ac goes home. That nothing changes
where an event is not enabled (log entry 100), that waiters are ready in the step in which the phase completes (log entry
27), and which copies a PUBLISH finds at its table (log entry 126) are the model's choice. -/
def Obligations.SyncEvents : Prop :=
  (∀ (b c : Barrier) (gid phase : Nat), b.arrive gid = some (c, phase) →
    (gid ∉ b.cur → c.cur = b.cur ++ [gid] ∧ c.nxt = b.nxt ∧ phase = b.phase)
    ∧ (gid ∈ b.cur → gid ∉ b.nxt ∧ c.cur = b.cur ∧ c.nxt = b.nxt ++ [gid] ∧ phase = (b.phase + 1) % 2 ^ 32) ∧ c.phase = b.phase)
  ∧ (∀ (b : Barrier) (gid : Nat), b.arrive gid = none ↔ gid ∈ b.cur ∧ gid ∈ b.nxt)
  ∧ (∀ b : Barrier, b.phase < 2 ^ 32 → b.completed b.phase = false
    ∧ ∀ k, 1 ≤ k → k ≤ 2 ^ 31 → b.completed ((b.phase + 2 ^ 32 - k) % 2 ^ 32) = true)
  ∧ (∀ (s : State) (key : Nat),
    (s.phaseDone key = false → exec (.barrierPhaseComplete key) s = .next s)
    ∧ (s.phaseDone key = true → ∃ u, exec (.barrierPhaseComplete key) s = .next u
      ∧ u.bar key = ⟨((s.bar key).phase + 1) % 2 ^ 32, (s.bar key).nxt, []⟩))
  ∧ (∀ (s : State) (id : Nat) (d : Deferred), Tbl.get? s.simt.deferred id = some d →
    (d.copies.any s.copyHolds = true → exec (.deferredArrival id) s = .next s)
    ∧ (d.copies.any s.copyHolds = false → (s.group? d.gid).any (fun g => (g.flight? d.flight).any g.heldFlight) = false →
      ∃ u, exec (.deferredArrival id) s = .next u ∧ Tbl.get? u.simt.deferred id = none
        ∧ (s.ac, Event.barrierPhaseComplete d.bar) ∈ u.agenda)
    ∧ (d.copies.any s.copyHolds = false → (s.group? d.gid).any (fun g => (g.flight? d.flight).any g.heldFlight) = true →
      exec (.deferredArrival id) s = .next (s.at (s.ac + 1) (.deferredArrival id))))
  ∧ (∀ (s : State) (id : Nat) (p : Publish), Tbl.get? s.simt.publishes id = some p →
    (p.atPoint = true → p.reached = true → exec (.publishPoint id) s = .next s)
    ∧ (p.atPoint = false → exec (.publishComplete id) s = .next s)
    ∧ (∀ r, r = s.reachTable id p → Tbl.get? r.simt.publishes id
        = some (if p.reached then p else { p with reached := true, await := s.shadowCopies p.ctx p.range false })
      ∧ (p.atPoint = false → ∀ p', Tbl.get? r.simt.publishes id = some p' →
        ((r.behindPublish id p' || r.publishAwaits p') = true → exec (.publishPoint id) s = .next r)
        ∧ ((r.behindPublish id p' || r.publishAwaits p') = false → ∃ u, exec (.publishPoint id) s = .next u
          ∧ Tbl.get? (u.ctx p.ctx).ranges p.range = (Tbl.get? (s.ctx p.ctx).ranges p.range).map (fun r => { r with live := !r.live })
          ∧ (Tbl.get? u.simt.publishes id).map Publish.atPoint = some true)))
    ∧ (p.atPoint = true → ∃ u, exec (.publishComplete id) s = .next u ∧ Tbl.get? u.simt.publishes id = none))
  ∧ (∀ (s : State) (gid sp : Nat) (g : Group) (p : Split), s.group? gid = some g → g.split? sp = some p →
    (∀ m len, p.park = some (.woken m len) → exec (.ctrwaitWake gid sp) s = .next (s.resumeAfter gid sp m len))
    ∧ (p.park = none → exec (.ctrwaitWake gid sp) s = .next s))
  ∧ ∀ (s : State) (line last : Nat), Tbl.get? s.store.syncLines line = some last →
    (last + 4096 ≤ s.ac → ∃ u, exec (.syncEngineLineReturn line) s = .next u ∧ Tbl.get? u.store.syncLines line = none
      ∧ u.store.mem = s.store.mem)
    ∧ (s.ac < last + 4096 → exec (.syncEngineLineReturn line) s = .next s)

/-- O52. A copy unit moves its elements and the next follows, one unit an engine and ac; with its context's halt line up the
copy stops. With the last unit read the source is released, SRCCTR gaining one, then the copy lands and is published. A
matrix engine performs one pass of its first operation; batches complete in number order while they are empty. A deposit
that nothing awaits is stored, or refused where there is no room; a match is copied or taken, a non-blocking request without
one is answered NOMATCH; a cancel with no slice left is answered. Where an event is not enabled nothing changes, or it comes
again. That (log entry 100), which of an engine's copies moves (log entry 44), the reads of an offer made with its checks
(log entry 109), and ACZERO and ACCPY as one step (log entry 43) are the model's choice. A counter whose translation has
ended is translated again, and faults as the transfer does. -/
def Obligations.EngineEvents : Prop :=
  (∀ (s : State) (id : Nat) (c : Copy), Tbl.get? s.simt.copies id = some c →
    ((c.stopped = true ∨ c.srcDone = true) → exec (.copyUnitTransfer id) s = .next s)
    ∧ (c.stopped = false → c.srcDone = false → (s.ctx c.ctx).halt.isSome = true →
      exec (.copyUnitTransfer id) s = .next (s.modCopy id fun c => { c with stopped := true }))
    ∧ (c.stopped = false → c.srcDone = false → (s.ctx c.ctx).halt = none →
      (s.copyWaits id c || (s.ctx c.ctx).frozen || s.engineBusy c) = true →
      exec (.copyUnitTransfer id) s = .next (s.at (s.ac + 1) (.copyUnitTransfer id)))
    ∧ (∀ r : State, c.stopped = false → c.srcDone = false → (s.ctx c.ctx).halt = none →
      (s.copyWaits id c || (s.ctx c.ctx).frozen || s.engineBusy c) = false →
      s.rowsPass (((s.group? c.gid).map s.vfOfGroup).getD 256) (.copyUnitTransfer id) (lineAccs (s.copyLines c c.unitNow)) = (r, false) →
      ∀ w, w = (r.useEngine c).meetUnit c →
      (∀ e, w.copyElems c c.unitNow = .error e → exec (.copyUnitTransfer id) s = .next (w.copyFault id c e))
      ∧ ∀ u, w.copyElems c c.unitNow = .ok u → ∃ v, exec (.copyUnitTransfer id) s = .next v ∧ v.store = (u.clearUnit c).store
        ∧ v.store.mem = u.store.mem
        ∧ (Tbl.get? v.simt.copies id).map Copy.unitAt = (Tbl.get? u.simt.copies id).map (fun k => k.unitAt + 1))
    ∧ ((c.srcDone = true ∨ c.unitAt < c.units) → exec (.sourceReleased id) s = .next s)
    ∧ (c.srcDone = false → c.units ≤ c.unitAt → c.srcctr = none ∨ c.stale = false → ∃ v, exec (.sourceReleased id) s = .next v
      ∧ (Tbl.get? v.simt.copies id).map Copy.srcDone = some true
      ∧ (c.srcctr = none → v.store = s.store)
      ∧ ∀ pa, c.srcctr = some pa → v.store = ((s.modCopy id fun k => { k with srcDone := true }).addCounter pa 1).store)
    ∧ (∀ pa, c.srcDone = false → c.units ≤ c.unitAt → c.srcctr = some pa → c.stale = true →
      (∀ e, s.xlateCtx c.ctx c.srcVa 8 .readWrite true false = .error e →
        exec (.sourceReleased id) s = .next (s.copyFault id c ⟨e, c.srcVa, 2⟩))
      ∧ ∀ x, s.xlateCtx c.ctx c.srcVa 8 .readWrite true false = .ok x → ∃ v, exec (.sourceReleased id) s = .next v
        ∧ v.store = ((s.modCopy id fun k => { k with srcDone := true }).addCounter x.pa 1).store)
    ∧ ((c.landed = true ∨ c.srcDone = false) → exec (.landed id) s = .next s)
    ∧ (c.landed = false → c.srcDone = true → ∃ v, exec (.landed id) s = .next v
      ∧ (Tbl.get? v.simt.copies id).map Copy.landed = some true)
    ∧ ((c.published = true ∨ c.landed = false) → exec (.published id) s = .next s)
    ∧ (c.published = false → c.landed = true → c.toPublish = [] → c.pubctr = none ∨ c.stale = false →
      ∃ v, exec (.published id) s = .next v ∧ Tbl.get? v.simt.copies id = none
        ∧ (c.pubctr = none → v.store = s.store)
        ∧ ∀ pa, c.pubctr = some pa → v.store = ((s.modCopy id fun k => { k with published := true }).addCounter pa 1).store))
  ∧ (∀ (s : State) (k : Nat),
    (s.engineOps k = [] → exec (.matrixPass k) s = .next s)
    ∧ ∀ (o : MatOp) (r : List MatOp), s.engineOps k = o :: r →
      (s.opWaits o = true → exec (.matrixPass k) s = .next (s.at (s.ac + 1) (.matrixPass k)))
      ∧ ∀ (u : State) (held : Bool), s.opWaits o = false →
        s.rowsPass (((s.group? o.gid).map s.vfOfGroup).getD 256) (.matrixPass k)
          (lineAccs ((o.unitNow.map fun x => x.1.lines o x.2).getD [])) = (u, held) →
        exec (.matrixPass k) s = .next (if held then u else (u.passOp k o).startPass k))
  ∧ (∀ (s : State) (id len : Nat) (o k : MatOp) (g : Group) (p : Split) (m : Marks),
    (s.simt.ops.find? fun o => o.id == id && !o.accepted) = some o → s.group? o.gid = some g → g.split? o.sp = some p →
    p.park = some (.accept id m len) → (s.ctx g.place.ctx).halt = none → (s.ctx g.place.ctx).frozen = false →
    ∀ u, u = s.beforeOffer g o → u.ctxRuns g.place.ctx = true →
    (∀ f, u.checkOffer g o = .error f → exec (.operationAcceptance id) s = .next
      ((u.modSimt fun x => { x with ops := x.ops.filter fun y => y.id != id }).parkedFlt o.gid o.sp g 0 f))
    ∧ (u.checkOffer g o = .ok k →
      ((k.units = [] ∨ u.hasRoom k = true) → exec (.operationAcceptance id) s = .next
        (((u.modSimt fun x => { x with ops := x.ops.filter fun y => y.id != id }).acceptUnits k).resumeAfter o.gid o.sp m len))
      ∧ (k.units ≠ [] → u.hasRoom k = false → exec (.operationAcceptance id) s = .next u)))
  ∧ (∀ (s : State) (gid : Nat) (g : Group), s.group? gid = some g → g.splits = [] → g.mat.batches.length ≤ 8 →
    ∃ (u : State) (h : Group), exec (.batchComplete gid) s = .next u ∧ u.group? gid = some h
      ∧ h.mat.batches = g.mat.batches.dropWhile (fun b => b.2.isEmpty)
      ∧ h.mat.completed = (((g.mat.batches.takeWhile fun b => b.2.isEmpty).getLast?).map Prod.fst).getD g.mat.completed)
  ∧ (∀ (s : State) (id : Nat) (r : TupReq), Tbl.get? s.store.reqs id = some r → r.answer = none →
    (s.reqWaits id r r.slice = false →
      (r.kind = 0 → r.parked = false → s.parkedFor r 2 = [] → s.parkedFor r 1 = [] →
        (s.depositRoom r = none → exec (.tdepServe id) s = .next (s.tupReply id r (r.reply 3 [])))
        ∧ ∀ sp, s.depositRoom r = some sp → ∃ u, exec (.tdepServe id) s = .next u
          ∧ u.tuplesOf r.region = s.tuplesOf r.region ++ [⟨s.store.tupAge, r.slice, sp, r.tag, r.fields⟩])
      ∧ (∀ t, s.oldestMatch r = some t → r.parked = false →
        (r.kind = 1 → exec (.tcopyServe id) s = .next (s.tupReply id r (r.reply 0 t.fields)))
        ∧ (r.kind = 2 → ∃ u, exec (.ttakeServe id) s = .next u
          ∧ u.tuplesOf r.region = (s.tuplesOf r.region).filter (fun x => x.age != t.age)))
      ∧ (s.oldestMatch r = none → r.parked = false → r.nb = true →
        (r.kind = 1 → exec (.tcopyServe id) s = .next (s.tupReply id r (r.reply 1 [])))
        ∧ (r.kind = 2 → exec (.ttakeServe id) s = .next (s.tupReply id r (r.reply 1 [])))))
    ∧ (s.reqWaits id r r.slice = true → s.ac < r.due → r.parked = false →
      ∀ i ∈ ([(0, .tdepServe id), (1, .tcopyServe id), (2, .ttakeServe id)] : List (Nat × Instr)), r.kind = i.1 →
        exec i.2 s = .next (s.at (s.ac + 1) (serveEvent r.kind id)))
    ∧ (r.kind = 0 → r.parked = false → s.reqWaits id r r.slice = true → r.due ≤ s.ac →
      exec (.tdepServe id) s = .next ((s.beforeReq r).serveDeposit id r))
    ∧ (∀ i ∈ ([(1, .tcopyServe id, false), (2, .ttakeServe id, true)] : List (Nat × Instr × Bool)), r.kind = i.1 → r.parked = false →
      s.reqWaits id r r.slice = true → r.due ≤ s.ac → exec i.2.1 s = .next ((s.beforeReq r).serveMatch id r i.2.2))
    ∧ (r.parked = true → exec (.tdepServe id) s = .next s ∧ exec (.tcopyServe id) s = .next s ∧ exec (.ttakeServe id) s = .next s)
    ∧ (r.kind = 3 → r.slices = [] → exec (.tcancelServe id) s = .next (s.tupReply id r r.cancelReply))
    ∧ (r.kind ≠ 3 → exec (.tcancelServe id) s = .next s))

/-- O53. A kick within the ring moves QTAIL, one equal to it changes nothing, one beyond it sets KICKERR. QCTL enables a
good queue, and SKIP passes a faulted packet. The Easel takes the first READY queue, SKETCH (8) where its sketch is not
loaded. A LAUNCH commits while the tables have room; a wait ends at its target. At the end of the skid the context is HALTED
with its cause. Claims and range and sketch commands report their result, the first check that fails decides it, and have
their effect where all hold. A scrubbed page takes its next state. That nothing changes where an event is not enabled (log
entry 100), that a claim or a release while BUSY is refused (log entry 57), that FAULTED outlasts a cleared ENABLE (log
entry 63), the codes of an image that cannot be read and of the stock sketch (log entries 68 and 69), and that a page in
SCRUB reads as zero at once (log entry 53) are the model's choice. -/
def Obligations.QueueAndContextEvents : Prop :=
  (∀ (s : State) (q v n : Nat) (y : Vf), ((s.vfOfQueue q).filter fun f => f.2.state == 2) = some (n, y) →
    exec (.kick q v) s = .next (s.putVf n { y with drop := (y.drop + 1) % 2 ^ 64 }))
  ∧ (∀ (s : State) (q v : Nat) (x : Queue), s.queue q = x →
    ((s.vfOfQueue q).filter fun f => f.2.state == 2) = none →
    (v % 2 ^ 32 = x.tail → (s.part (s.partOfQueue q)).refusing = false → exec (.kick q v) s = .next s)
    ∧ (v % 2 ^ 32 ≠ x.tail → (v % 2 ^ 32 + 2 ^ 32 - x.tail) % 2 ^ 32 + x.kicked ≤ 2 ^ x.log2 →
      (s.part (s.partOfQueue q)).refusing = false →
      ∃ u, exec (.kick q v) s = .next u ∧ (u.queue q).tail = v % 2 ^ 32 ∧ (u.queue q).head = x.head
        ∧ (u.queue q).kickerr = x.kickerr
        ∧ (x.state = 1 → x.enable = true → x.pkt = none → x.head ≠ v % 2 ^ 32 → (u.queue q).state = 2))
    ∧ ((v % 2 ^ 32 ≠ x.tail ∧ 2 ^ x.log2 < (v % 2 ^ 32 + 2 ^ 32 - x.tail) % 2 ^ 32 + x.kicked ∨ (s.part (s.partOfQueue q)).refusing = true) →
      exec (.kick q v) s = .next (s.putQueue q { x with kickerr := true })))
  ∧ (∀ (s : State) (q v : Nat) (x : Queue), s.queue q = x → x.enable = false →
    (bitOf v 0 = true → (x.log2 = 0 ∨ 16 < x.log2 ∨ x.ring % 4096 ≠ 0) → exec (.qctlEnable q v) s
      = .next (s.putQueue q { x with prio := fieldOf v 8 2, errirq := bitOf v 4, cfgerr := true }))
    ∧ (bitOf v 0 = true → 1 ≤ x.log2 → x.log2 ≤ 16 → x.ring % 4096 = 0 → ∃ u, exec (.qctlEnable q v) s = .next u
      ∧ (u.queue q).enable = true ∧ (u.queue q).fcode = 0 ∧ (u.queue q).prio = fieldOf v 8 2 ∧ (u.queue q).errirq = bitOf v 4)
    ∧ (bitOf v 0 = false → exec (.qctlEnable q v) s = .next (s.putQueue q { x with prio := fieldOf v 8 2, errirq := bitOf v 4 })))
  ∧ (∀ (s : State) (q v : Nat) (x : Queue), s.queue q = x → x.enable = true →
    exec (.qctlEnable q v) s = .next (s.putQueue q { x with
      prio := fieldOf v 8 2, errirq := bitOf v 4, enable := bitOf v 0
      state := if bitOf v 0 = true ∨ x.state = 3 ∨ x.state = 5 then x.state else 0 }))
  ∧ (∀ (s : State) (q v : Nat) (x : Queue), s.queue q = x →
    (bitOf v 16 = true → x.state = 5 → ∃ u, exec (.qctlSkip q v) s = .next u ∧ (u.queue q).head = (x.head + 1) % 2 ^ 32
      ∧ (u.queue q).fcode = 0)
    ∧ ((bitOf v 16 = false ∨ x.state ≠ 5) → exec (.qctlSkip q v) s = .next s))
  ∧ (∀ (s : State) (die : Nat),
    ((s.readyQueues die = [] ∨ 64 ≤ (s.hub.queues.filter fun y => dieOfQueue y.1 == die && y.2.state == 3).length) →
      exec (.easelAssign die) s = .next s)
    ∧ ∀ q x, firstQueue (s.readyQueues die) = some (q, x) →
      (s.hub.queues.filter fun y => dieOfQueue y.1 == die && y.2.state == 3).length < 64 →
      ((s.sketch? (s.partOfQueue q) x.sketch).isSome = true → ∃ u, exec (.easelAssign die) s = .next u ∧ (u.queue q).state = 3
        ∧ (u.queue q).pkt.isSome = true)
      ∧ (s.sketch? (s.partOfQueue q) x.sketch = none → ∃ u, exec (.easelAssign die) s = .next u ∧ (u.queue q).state = 5
        ∧ (u.queue q).fcode = 8))
  ∧ (∀ (s : State) (q : Nat) (k : Packet), (s.queue q).pkt = some k →
    (∀ n drop t l spt d r, k.commit = some (n, drop) → k.staged = .launch t l spt d :: r →
      (s.treeEntries (dieOfQueue q) < 4096 → s.taskEntries (dieOfQueue q) < 16384 →
        exec (.launchCommit q) s = .next ((s.acceptSeed q t l spt d).commitOn q n drop r))
      ∧ ((4096 ≤ s.treeEntries (dieOfQueue q) ∨ 16384 ≤ s.taskEntries (dieOfQueue q)) → exec (.launchCommit q) s = .next s))
    ∧ ∀ pa target, k.wait = some (pa, target) →
      (s.peek pa 8 < target → exec (.queueWaitWake q) s = .next s)
      ∧ ((s.queue q).state = 4 → (s.queue q).enable = true → target ≤ s.peek pa 8 → ∃ u, exec (.queueWaitWake q) s = .next u
        ∧ (u.queue q).state = 2 ∧ (u.queue q).pkt = some { k with wait := none }))
  ∧ (∀ (s : State) (q : Nat),
    ((s.ctx q).halt = none → exec (.skidEnd q) s = .next s)
    ∧ ∀ h u, (s.ctx q).halt = some h → (s.ctx q).state = 1 → (s.residentGroups q).foldl State.withdrawGroup s = u →
      (((s.residentGroups q).any fun gid => (u.group? gid).any (u.skidWork gid)) = false
          ∨ h.time + u.skidBound (s.residentGroups q) ≤ u.ac →
        exec (.skidEnd q) s = .next (u.endSkid q h) ∧ ((u.endSkid q h).ctx q).state = 2 ∧ ((u.endSkid q h).ctx q).cause = h.cause)
      ∧ (((s.residentGroups q).any fun gid => (u.group? gid).any (u.skidWork gid)) = true →
        u.ac < h.time + u.skidBound (s.residentGroups q) → exec (.skidEnd q) s = .next (u.at (u.ac + 1) (.skidEnd q))))
  ∧ (∀ (s : State) (q n : Nat), (s.ctx q).eid ≠ 0 →
    ((s.ctx q).vacBusy = true → exec (.cxvacClaim q n) s = .next (s.claimResult q 1) ∧ exec (.cxvacRelease q) s = .next (s.claimResult q 1)
      ∧ exec (.claimComplete q) s
        = .next (if (s.ctx q).halt = none then s.modCtx q fun c => { c with vacBusy := false, vacResult := 0 } else s))
    ∧ ((s.ctx q).vacBusy = false →
      ((s.ctx q).state ≠ 1 ∨ (s.ctx q).frozen = true → exec (.cxvacClaim q n) s = .next (s.claimResult q 2))
      ∧ ((s.ctx q).state = 1 → (s.ctx q).frozen = false → (2048 ≤ n ∨ s.claimCores q n = none) →
        exec (.cxvacClaim q n) s = .next (s.claimResult q 3))
      ∧ (∀ cores ts, (s.ctx q).state = 1 → (s.ctx q).frozen = false → n < 2048 → s.claimCores q n = some cores →
        ((s.imageTeams q).filter fun t => t.2.state == .resident && cores.contains t.2.core) = ts →
        (s.canSwapAll (ts.map Prod.fst) = false → exec (.cxvacClaim q n) s
          = .next ((s.claimResult q 4).modCtx q fun c => { c with swapfull := true }))
        ∧ (s.canSwapAll (ts.map Prod.fst) = true →
          ∃ u, exec (.cxvacClaim q n) s = .next u ∧ (u.ctx q).claimed = (s.ctx q).claimed ++ cores ∧ (u.ctx q).vacBusy = true))
      ∧ (∃ u, exec (.cxvacRelease q) s = .next u ∧ (u.ctx q).claimed = [] ∧ (u.ctx q).vacResult = 0)
      ∧ exec (.claimComplete q) s = .next s))
  ∧ (∀ (s : State) (q v : Nat), (s.ctx q).eid ≠ 0 →
    (rcmdBad v = true → exec (.rcmdWrite q v) s = .next (s.rstat q 3) ∧ exec (.rcmdInval q v) s = .next (s.rstat q 3))
    ∧ (rcmdBad v = false → s.publishing q (v % 128) = true → ∀ w, w = s.at (s.ac + 1) (.deviceWrite (kickBase + 4096 * q + 0x80) 8 v) →
      exec (.rcmdWrite q v) s = .next w ∧ exec (.rcmdInval q v) s = .next w)
    ∧ (rcmdBad v = false → s.publishing q (v % 128) = false →
      (s.rangeResult q (v % 128) (s.ctx q).rstage ≠ 0 →
        exec (.rcmdWrite q v) s = .next (s.rstat q (s.rangeResult q (v % 128) (s.ctx q).rstage)))
      ∧ (s.rangeResult q (v % 128) (s.ctx q).rstage = 0 →
        ∃ u, exec (.rcmdWrite q v) s = .next u ∧ (u.ctx q).rstat = 0 ∧ Tbl.get? (u.ctx q).ranges (v % 128)
          = (if (stagedRange (s.ctx q).rstage).2 = true then some (stagedRange (s.ctx q).rstage).1 else none))
      ∧ ∃ u, exec (.rcmdInval q v) s = .next u ∧ (u.ctx q).rstat = 0 ∧ Tbl.get? (u.ctx q).ranges (v % 128) = none))
  ∧ (∀ (s : State) (p v : Nat),
    (v % 4 ≠ 1 → exec (.skcmdLoad p v) s = .next s) ∧ (v % 4 ≠ 2 → exec (.skcmdUnload p v) s = .next s)
    ∧ (v % 4 = 1 → (s.inHostPages p (s.part p).skbuf 32 = false ∨ skHeaderBad (s.bytes (s.part p).skbuf 32) = true
        ∨ s.inHostPages p (s.part p).skbuf (32 + 4 * fieldAt (s.bytes (s.part p).skbuf 32) 6 2) = false) →
      exec (.skcmdLoad p v) s = .next (s.skResult p 1 0 none))
    ∧ (∀ (h bs : List Byte) (ws : List W32), v % 4 = 1 → s.inHostPages p (s.part p).skbuf 32 = true →
      s.bytes (s.part p).skbuf 32 = h → skHeaderBad h = false → s.inHostPages p (s.part p).skbuf (32 + 4 * fieldAt h 6 2) = true →
      s.bytes ((s.part p).skbuf + 32) (4 * fieldAt h 6 2) = bs → bytesWords (fieldAt h 6 2) bs = ws →
      (∀ c i, skWordsFail ws = some (c, i) → exec (.skcmdLoad p v) s = .next (s.skResult p c i none))
      ∧ (skWordsFail ws = none → (fieldAt h 8 4 = 1 ∨ (s.sketch? p (fieldAt h 8 4)).isSome = true) →
        exec (.skcmdLoad p v) s = .next (s.skResult p 8 0 none))
      ∧ (skWordsFail ws = none → fieldAt h 8 4 ≠ 1 → s.sketch? p (fieldAt h 8 4) = none → s.storeFull p (fieldAt h 6 2) = true →
        exec (.skcmdLoad p v) s = .next (s.skResult p 9 0 none))
      ∧ (skWordsFail ws = none → fieldAt h 8 4 ≠ 1 → s.sketch? p (fieldAt h 8 4) = none → s.storeFull p (fieldAt h 6 2) = false →
        ∃ u, exec (.skcmdLoad p v) s = .next u ∧ (u.part p).skstat = 0 ∧ (u.part p).skhash = sha3 (h ++ bs)
          ∧ Tbl.get? u.hub.sketches (65536 * p + fieldAt h 8 4) = some ⟨sha3 (h ++ bs), bytesWords 8 h ++ ws⟩))
    ∧ (v % 4 = 2 → (fieldOf v 16 32 = 1
        ∨ (s.hub.queues.any fun q => q.2.eid != 0 && q.2.sketch == fieldOf v 16 32 && s.partOfQueue q.1 == p) = true) →
      exec (.skcmdUnload p v) s = .next (s.skResult p 10 0 none))
    ∧ (v % 4 = 2 → fieldOf v 16 32 ≠ 1 → (65536 ≤ fieldOf v 16 32 ∨ s.sketch? p (fieldOf v 16 32) = none) →
      (s.hub.queues.any fun q => q.2.eid != 0 && q.2.sketch == fieldOf v 16 32 && s.partOfQueue q.1 == p) = false →
      exec (.skcmdUnload p v) s = .next (s.skResult p 11 0 none))
    ∧ ∀ k, v % 4 = 2 → fieldOf v 16 32 ≠ 1 → fieldOf v 16 32 < 65536 → s.sketch? p (fieldOf v 16 32) = some k →
      (s.hub.queues.any fun q => q.2.eid != 0 && q.2.sketch == fieldOf v 16 32 && s.partOfQueue q.1 == p) = false →
      ∃ u, exec (.skcmdUnload p v) s = .next u ∧ u.sketch? p (fieldOf v 16 32) = none)
  ∧ ∀ (s : State) (page : Nat) (e : Pot), Tbl.get? s.store.pot page = some e →
    (e.state = potScrub → ∃ u, exec (.scrub page) s = .next u ∧ (u.potOf page).state = e.next ∧ u.store.mem = s.store.mem)
    ∧ (e.state ≠ potScrub → exec (.scrub page) s = .next s)

/-- O54. A pending vector that is not masked becomes a pending bit, a pending-array bit or an MSI-X message; a thread takes
its interrupt as a trap of CLASS 3 with the vector in xVAL, its pending bit clear, to the hypervisor or, a virtual one, to
the kernel. A thread is started once, at a level from 0 to 2. An enabled function is ACTIVE, a refused enable sets CFGERR; a
reset makes it RESETTING, and in the end ACTIVE or DISABLED. A harvest empties the other half of the dirty log. A partition
reset leaves no enclave and no sketch, and every page but META HOST and zero. That nothing changes where an event is not
enabled (log entry 100), that threads are started from outside, with the registers of log entry 3 (log entry 50), how an FLR
halts (log entry 71), the order of VFQCMD's checks (log entry 73), and the vectors that a reset clears (log entry 74) are
the model's choice. -/
def Obligations.ThreadAndFunctionEvents : Prop :=
  (∀ (s : State) (tid v : Nat),
    ((s.interruptible tid && s.interruptOf tid == some v) = false → exec (.trapEntry tid v) s = .next s)
    ∧ ((s.interruptible tid && s.interruptOf tid == some v) = true → (s.thread tid).eid = 0 → ∃ u, exec (.trapEntry tid v) s = .next u
      ∧ (v < 4096 → (u.thread tid).lvl = 2 ∧ (u.thread tid).pc = (s.thread tid).h.vec ∧ (u.thread tid).h.epc = (s.thread tid).pc
        ∧ (u.thread tid).h.cause = 0x300#32 ∧ (u.thread tid).h.val = BitVec.ofNat 64 v ∧ (4096 * tid + v) ∉ u.hub.ppend)
      ∧ (4096 ≤ v → (u.thread tid).lvl = 1 ∧ (u.thread tid).pc = (s.thread tid).k.vec ∧ (u.thread tid).k.epc = (s.thread tid).pc
        ∧ (u.thread tid).k.cause = 0x300#32 ∧ ∀ e ∈ u.hub.vpend, e.1 ≠ 256 * tid + v % 4096))
    ∧ ((s.thread tid).wfi = true → s.interruptPending tid = true →
      exec (.wfiWake tid) s = .next (s.putThread tid { s.thread tid with wfi := false }))
    ∧ (((s.thread tid).wfi = false ∨ s.interruptPending tid = false) → exec (.wfiWake tid) s = .next s)
    ∧ ∀ lvl pc : Nat,
      ((s.thread tid).running = false → tid < 128 → lvl ≤ 2 → exec (.threadStart tid lvl pc) s
        = .next (s.putThread tid { Thread.reset with running := true, lvl := lvl, pc := BitVec.ofNat 64 pc }))
      ∧ (((s.thread tid).running = true ∨ 128 ≤ tid ∨ 2 < lvl) → exec (.threadStart tid lvl pc) s = .next s))
  ∧ (∀ (s : State) (n : Nat) (v : Vec), s.vec n = v →
    ((v.pend = false ∨ v.mask = true) → exec (.vectorDelivery n) s = .next s)
    ∧ (v.pend = true → v.mask = false → ∃ u, exec (.vectorDelivery n) s = .next u ∧ u.vec n = { v with pend := false }
      ∧ (v.mode = 2 → (256 * v.dest + v.gvec, n) ∈ u.hub.vpend) ∧ (v.mode = 3 → (4096 * v.dest + n) ∈ u.hub.ppend)
      ∧ ∀ i f, v.mode = 1 → s.vfOfVector n = some (i, f) →
        ((f.fmask || f.masks.contains (n - f.vbase)) = true → (u.vf i).pba.contains (n - f.vbase) = true ∧ u.hub.msix = s.hub.msix)
        ∧ ((f.fmask || f.masks.contains (n - f.vbase)) = false → u.hub.msix = s.hub.msix ++ [(i, n - f.vbase)])))
  ∧ (∀ (s : State) (k : Nat) (f : Vf), s.vf k = f →
    ((f.enable = true ∨ 256 ≤ k) → exec (.vfEnable k) s = .next s)
    ∧ (f.enable = false → k < 256 → (s.enableBad k f = true → exec (.vfEnable k) s = .next (s.putVf k { f with cfgerr := true }))
      ∧ (s.enableBad k f = false → exec (.vfEnable k) s = .next (s.putVf k { f with enable := true, state := 1 })))
    ∧ (f.state = 1 → (∃ u, exec (.vfFlr k) s = .next u ∧ (u.vf k).state = 2 ∧ (u.vf k).disabling = false)
      ∧ ∃ u, exec (.vfDisable k) s = .next u ∧ (u.vf k).state = 2 ∧ (u.vf k).disabling = true)
    ∧ (f.state ≠ 1 → exec (.vfFlr k) s = .next s)
    ∧ (f.state = 2 → exec (.vfDisable k) s = .next (s.putVf k { f with disabling := true })
      ∧ (f.gateHeld = true → exec (.flrComplete k) s
        = .next (if f.queues.any s.sealBusy then s.at (s.ac + 1) (.flrComplete k) else s.flrSteps k f))
      ∧ (f.gateHeld = false → ∃ u, exec (.flrComplete k) s = .next u ∧ u.vf k = { f with
        state := if f.disabling then 0 else 1, enable := !f.disabling, disabling := false, flrs := (f.flrs + 1) % 256, pba := [] }))
    ∧ (f.state ≠ 2 → exec (.flrComplete k) s = .next s) ∧ (f.state ≠ 1 → f.state ≠ 2 → exec (.vfDisable k) s = .next s)
    ∧ (∃ u, exec (.vfHarvest k) s = .next u ∧ (u.vf k).half = 1 - f.half
      ∧ ∀ a, f.dlog + (1 - f.half) * f.halfSize ≤ a → a < f.dlog + (1 - f.half) * f.halfSize + f.halfSize →
        (s.potOf (a / 4096)).judged = potHost → u.peek a 1 = 0)
    ∧ ∀ v : Nat,
      (∀ r, s.vfqQueue f v 1 = .error r → exec (.vfqcmdExport k v) s = .next (s.vfResult k r))
      ∧ (∀ r, s.vfqQueue f v 2 = .error r → exec (.vfqcmdImport k v) s = .next (s.vfResult k r))
      ∧ (∀ q, s.vfqQueue f v 1 = .ok q → s.inHostPages f.part f.qbuf 256 = true → ∃ u, exec (.vfqcmdExport k v) s = .next u
        ∧ (u.vf k).qres = 0 ∧ u.store.mem = ((s.putQueue q { s.queue q with pkt := if (s.queue q).state = 3 then (s.queue q).pkt else none }).write f.qbuf
          (s.queue q).record).store.mem)
      ∧ (∀ q, s.vfqQueue f v 1 = .ok q → s.inHostPages f.part f.qbuf 256 = false → exec (.vfqcmdExport k v) s = .next (s.vfResult k 4))
      ∧ (∀ q, s.vfqQueue f v 2 = .ok q → f.recordBad (s.bytes f.qbuf 256) = false → s.inHostPages f.part f.qbuf 256 = false →
        exec (.vfqcmdImport k v) s = .next (s.vfResult k 4))
      ∧ (∀ q, s.vfqQueue f v 2 = .ok q → f.recordBad (s.bytes f.qbuf 256) = true → exec (.vfqcmdImport k v) s = .next (s.vfResult k 3))
      ∧ ∀ q, s.vfqQueue f v 2 = .ok q → f.recordBad (s.bytes f.qbuf 256) = false → s.inHostPages f.part f.qbuf 256 = true →
        ∃ u, exec (.vfqcmdImport k v) s = .next u ∧ (u.vf k).qres = 0 ∧ u.queue q = (s.queue q).load (s.bytes f.qbuf 256)
          ∧ u.store = s.store)
  ∧ ∀ (s : State) (p : Nat),
    (((s.part p).dies = 0 ∨ ((s.part p).state ≠ 2 ∧ (s.part p).resetting = false)) → exec (.partitionReset p) s = .next s)
    ∧ ((s.part p).dies ≠ 0 → (s.part p).state = 2 → ∃ u, exec (.partitionReset p) s = .next u
      ∧ (∀ e ∈ u.hub.enclaves, e.2.part ≠ p) ∧ (∀ k ∈ u.hub.sketches, k.1 / 65536 ≠ p)
      ∧ (∀ a, s.inPartMem p a = true → (u.potOf (a / 4096)).state ≠ potMeta → u.peek a 1 = 0 ∧ (u.potOf (a / 4096)).state = potHost)
      ∧ (u.part p).resetting = false ∧ (u.part p).state = 2)

/-- O55. POWER_ON with good firmware, power, training and links releases the stored layout, or the default one, at stage 6,
with the first control thread in boot firmware; a failed stage is kept with its code. Power off leaves reset state but the
fuses, flash, the device secret and the free values. Steps and CAP stay from 8 to 28 and EFF follows. A gate needs a
QUIESCED partition without a team. PRCFG needs a QUIESCED partition. A refresh clears its row group's counts, or is skipped
inside the timestamp's window. A lending request that is not refused, or a reclaim, starts a handshake, and LENDSTAT changes
at its end, when held requests go on. A control error halts its owners, or makes its partition refuse. A dump that may not
start says why; one that starts ends with OK, BADREQ, NOEID or NOSPACE. Firmware runs only when good and at or above its
fuse. That nothing changes where an event is not enabled (log entry 100), the boot thread's address (log entry 1), the
inputs of bring-up (log entry 90), temperatures and power (log entry 10), which partitions run (log entry 86), the least
step (log entry 97), gating at once (log entry 98), whether more than four refreshes are postponed and a request tried again
(log entry 62), the window of a timestamp (log entry 8), errors from outside (log entry 81) and the dump's header (log entry
79) are the model's choice. -/
def Obligations.ModuleEvents : Prop :=
  (∀ s : State,
    ((s.module.stage ≠ 0 ∨ s.module.code ≠ 0) → exec .powerOn s = .next s)
    ∧ (s.module.stage = 0 → s.module.code = 0 → s.module.supply = false → ∃ u, exec .powerOn s = .next u ∧ u.module.stage = 0
      ∧ u.module.code = 1)
    ∧ (s.module.stage = 0 → s.module.code = 0 → s.module.supply = true →
      ∀ r c, s.hub.rot.bootAll [2, 3, 4, 5] = (r, c) →
        (c ≠ 0 → ∃ u, exec .powerOn s = .next u ∧ u.module.stage = 2 ∧ u.module.code = c ∧ u.hub.rot = r)
        ∧ (c = 0 → ∃ u, exec .powerOn s = .next u ∧ u.module.on = true ∧ u.hub.rot.fw = r.fw ∧ u.hub.rot.fwDigest = r.digestOf
          ∧ u.thread 0 = { Thread.reset with running := true, lvl := 2, pc := Config.bootPc }
          ∧ (s.module.trained = false → u.module.stage = 4 ∧ u.module.code = 4)
          ∧ (s.module.trained = true → s.module.linked = false → u.module.stage = 4 ∧ u.module.code = 5)
          ∧ (s.module.trained = true → s.module.linked = true → u.module.stage = 6
            ∧ u.module.code = (if s.module.layout.any bootLayoutBad then 6 else 0)
            ∧ ((s.module.layout = none ∨ s.module.layout.any bootLayoutBad = true) → (u.part 0).dies = 255 ∧ (u.part 0).state = 0
              ∧ ∀ d, d < 8 → (u.die d).part = 0 ∧ (u.die d).bound = true ∧ (u.die d).valid = true)
            ∧ ∀ l d, s.module.layout = some l → bootLayoutBad l = false → d < 8 → (u.die d).part = layoutPart l.1 d ∧ (u.die d).bound = true
              ∧ (u.die d).ilvbase = (layoutIlv l.1 d).base ∧ (u.die d).wdies = (layoutIlv l.1 d).wdies)))
    ∧ (∃ u, exec .modulePowerOff s = .next u ∧ u.module.on = false ∧ u.store = State.reset.store ∧ u.simt = State.reset.simt
      ∧ u.turns = [] ∧ u.hub.rot.fw = s.hub.rot.fw ∧ u.hub.rot.secret = s.hub.rot.secret ∧ u.hub.rot.sessions = []
      ∧ u.module.layout = s.module.layout)
    ∧ ((s.module.on && s.tripNow) = true → ∃ u, exec .thermalTrip s = .next u ∧ u.module.on = false ∧ u.module.tripLatched = true)
    ∧ ((s.module.on && s.tripNow) = false → exec .thermalTrip s = .next s)
    ∧ (s.module.limit < s.modPower → ∃ u, exec (.limitStep false) s = .next u ∧ u.parts.map Prod.fst = s.parts.map Prod.fst
      ∧ ∀ p : Nat, (u.part p).limitStep
        = if (s.part p).dies = 0 ∨ (s.part p).gated = true then (s.part p).limitStep else max 8 ((s.part p).limitStep - 1))
    ∧ (s.modPower ≤ s.module.limit → exec (.limitStep false) s = .next s))
  ∧ (∀ (s : State) (k : Nat) (p : Part), s.part k = p → p.dies ≠ 0 →
    (380 ≤ s.partTemp k → exec (.thermalStep k false) s = .next (s.putPart k { p with thermStep := max 8 (p.thermStep - 1) }.step))
    ∧ (s.partTemp k < 360 → exec (.thermalStep k true) s = .next (s.putPart k { p with thermStep := min 28 (p.thermStep + 1) }.step))
    ∧ (s.partTemp k < 380 → exec (.thermalStep k false) s = .next s)
    ∧ (∀ v, exec (.pclkCapWrite k v) s = .next (s.putPart k { p with cap := max 8 (min 28 (v % 32)) }.step))
    ∧ (p.gated = false → (p.state ≠ 2 ∨ s.holdsTeam k = true) → exec (.pgateGate k) s = .next (s.putPart k { p with gerr := true }))
    ∧ (p.gated = false → p.state = 2 → s.holdsTeam k = false →
      exec (.pgateGate k) s = .next (s.putPart k { p with gate := true, gated := true }))
    ∧ (p.gated = true → exec (.pgateUngate k) s = .next (s.putPart k { p with gate := false, gated := false }.step))
    ∧ (p.gated = false → exec (.pgateUngate k) s = .next s
      ∧ p.step.eff = min p.cap (min p.thermStep p.limitStep))
    ∧ (∀ v, (p.state ≠ 2 ∨ fieldOf v 24 8 &&& p.dies ≠ fieldOf v 24 8 ∨ (fieldOf v 8 5 ≠ p.ptpool ∧ s.holdsEnclave k = true)) →
      exec (.prcfgWrite k v) s = .next (s.putPart k { p with cfgerr := true }))
    ∧ ∀ v, p.state = 2 → fieldOf v 24 8 &&& p.dies = fieldOf v 24 8 → (fieldOf v 8 5 = p.ptpool ∨ s.holdsEnclave k = false) →
      ∃ u, exec (.prcfgWrite k v) s = .next u ∧ u.store.mem = s.store.mem
        ∧ u.part k = { p with tupdies := fieldOf v 24 8, tupsz := fieldOf v 16 2, ptpool := fieldOf v 8 5, tolen := bitOf v 0 })
  ∧ (∀ (s : State) (t pair row : Nat) (h : Stack), s.hbm t = h →
    (pairBits h.lendstat pair ≠ 0 → Tbl.get? h.shaking pair = none → ∃ u n, exec (.lendReclaim t pair) s = .next u
      ∧ u.hbm t = { h with shaking := Tbl.put h.shaking pair 0 } ∧ (n, Event.lendDone t pair) ∈ u.agenda ∧ n ≤ s.ac + 1050)
    ∧ (∀ code, Tbl.get? h.shaking pair = some code → (code = 0 ∨ s.stackTemp t < 400) →
      ((s.lendEnd t pair).hbm t).lendstat = pairPut h.lendstat pair code
      ∧ ∀ ev, (pair, ev) ∈ h.lendHeld → (s.ac, ev) ∈ (s.lendEnd t pair).agenda)
    ∧ (∀ code, Tbl.get? h.shaking pair = some code → code ≠ 0 → 400 ≤ s.stackTemp t →
      ((s.lendEnd t pair).hbm t).lendstat = pairPut h.lendstat pair 0 ∧ ((s.lendEnd t pair).hbm t).lenderr = 256 * pair + 3)
    ∧ (pairBits h.lendstat pair = 0 → exec (.lendReclaim t pair) s = .next s)
    ∧ (400 ≤ s.stackTemp t → pairBits h.lendstat pair ≠ 0 → exec (.lendThermalReclaim t pair) s
      = .next ((s.putHbm t { h with lendstat := pairPut h.lendstat pair 0, lenderr := 256 * pair + 3 }).lendAgain t pair))
    ∧ ((s.stackTemp t < 400 ∨ pairBits h.lendstat pair = 0) → exec (.lendThermalReclaim t pair) s = .next s)
    ∧ (∀ v cur w, (Tbl.get? h.shaking pair).getD (pairBits h.lendstat pair) = cur → w = s.putHbm t { h with lendreq := pairPut h.lendreq pair v } →
      (v = cur ∧ v < 3 ∨ cur = 0 ∧ v = 3 → exec (.lendreqWrite t pair v) s = .next w)
      ∧ ((v = 0 ∨ v = 3) → cur ≠ 0 → exec (.lendreqWrite t pair v) s = .next (w.lendShake t pair 0)))
    ∧ (∀ v cur, (Tbl.get? h.shaking pair).getD (pairBits h.lendstat pair) = cur → (v = 1 ∨ v = 2) → cur ≠ v →
      (s.lendRefusal t pair v = 0 → exec (.lendreqWrite t pair v) s
        = .next ((s.putHbm t { h with lendreq := pairPut h.lendreq pair v }).drawn.lendShake t pair v))
      ∧ (s.lendRefusal t pair v ≠ 0 → exec (.lendreqWrite t pair v) s
        = .next (((s.putHbm t { h with lendreq := pairPut h.lendreq pair v }).drawn.putHbm t
          { h with lendreq := pairPut h.lendreq pair v, lenderr := 256 * pair + s.lendRefusal t pair v }).lendAgain t pair))
      ∧ (s.channelBusy t (lenderOf pair v) = true → s.lendRefusal t pair v = 1)
      ∧ (s.channelBusy t (lenderOf pair v) = false → 380 ≤ s.stackTemp t → s.lendRefusal t pair v ≠ 0))
    ∧ (∀ x v : Nat, pair < 16 → v < 4 → x < 2 ^ 32 → pairBits (pairPut x pair v) pair = v
      ∧ ∀ o, o ≠ pair → pairBits (pairPut x pair v) o = pairBits x o)
    ∧ (∀ n, h.aar = true → Tbl.get? h.stamps (row / 8) = some n → s.ac ≤ n + Config.refreshWindow → exec (.refresh t row) s
      = .next (s.putHbm t { h with refskip := (h.refskip + 1) % 2 ^ 64, stamps := Tbl.del h.stamps (row / 8) }))
    ∧ ((h.aar = false ∨ Tbl.get? h.stamps (row / 8) = none ∨ (∃ n, Tbl.get? h.stamps (row / 8) = some n ∧ n + Config.refreshWindow < s.ac)) → exec (.refresh t row) s = .next (s.putHbm t (h.refreshGroup row)))
    ∧ ((h.held.find? fun e => e.row == row && !e.waiting.isEmpty) = none → exec (.throttleRelease t row) s = .next s)
    ∧ (∀ e ev r, (h.held.find? fun e => e.row == row && !e.waiting.isEmpty) = some e → e.waiting = ev :: r → ∃ u,
      exec (.throttleRelease t row) s = .next u ∧ (s.ac, ev) ∈ u.agenda ∧ (ev, row) ∈ (u.hbm t).granted)
    ∧ ((s.stackOf (64 * row)).map Prod.fst ≠ some t → exec (.patrol t row) s = .next s)
    ∧ ((s.stackOf (64 * row)).map Prod.fst = some t → Tbl.get? s.store.latent row = some 1 → ∃ u, exec (.patrol t row) s = .next u
      ∧ Tbl.get? u.store.latent row = none ∧ u.store.mem = s.store.mem)
    ∧ ((s.stackOf (64 * row)).map Prod.fst = some t → Tbl.get? s.store.latent row = some 2 → ∃ u, exec (.patrol t row) s = .next u
      ∧ (Tbl.get? u.store.poison row).isSome = true ∧ u.store.mem = s.store.mem))
  ∧ (∀ (s : State) (die kind v : Nat) (owners : List Nat),
    (2 ≤ kind → s.wordOwners owners kind = []) ∧ (∀ q, q ∈ s.wordOwners owners 0 ↔ q ∈ owners ∧ (s.queue q).eid ≠ 0)
    ∧ (s.wordOwners owners kind = [] → die < 8 → (s.die die).bound = true →
      ∃ u, exec (.uncorrectableControlError die owners kind) s = .next u ∧ (u.part (s.partOfDie die)).refusing = true)
    ∧ (∃ u, exec (.uncorrectableControlError die owners kind) s = .next u
      ∧ ∀ q ∈ s.wordOwners owners kind, (s.ctx q).state = 1 → (s.ctx q).halt = none → (u.ctx q).halt.map Halt.cause = some 0x13)
    ∧ (s.dumpStart v = .error 6 → exec (.dmpcmdStart v) s = .next (s.modHub fun h => { h with dump := { h.dump with result := 6 } }))
    ∧ (∀ r, r ≠ 6 → s.dumpStart v = .error r → exec (.dmpcmdStart v) s = .next (s.dumpResult r 0))
    ∧ (∀ e, s.dumpStart v = .ok e → ∃ u n, exec (.dmpcmdStart v) s = .next u ∧ u.hub.dump.busy = some (fieldOf v 0 16)
      ∧ (n, Event.dumpEnd) ∈ u.agenda ∧ u.store = s.store)
    ∧ (∀ eid e, s.hub.dump.busy = some eid → Tbl.get? s.hub.enclaves eid = some e → s.endDump.hub.dump.busy = none
      ∧ s.endDump.hub.dump.result ∈ [0, 1, 5] ∧ (s.endDump.hub.dump.result ≠ 0 → s.endDump.store.mem = s.store.mem)
      ∧ (s.endDump.hub.dump.result = 0 → s.endDump.hub.dump.len ≤ s.hub.dump.size))
    ∧ ∀ eid, s.hub.dump.busy = some eid → Tbl.get? s.hub.enclaves eid = none → s.endDump = s.dumpResult 2 0)
  ∧ ∀ (s : State) (q : FwReq) (i : Nat),
    ((q.slot < 2 ∨ 5 < q.slot ∨ q.good = false ∨ q.svn < (s.hub.rot.image q.slot).fuse) → exec (.firmwareStaging q) s = .next s)
    ∧ (2 ≤ q.slot → q.slot ≤ 5 → q.good = true → (s.hub.rot.image q.slot).fuse ≤ q.svn → ∃ u, exec (.firmwareStaging q) s = .next u
      ∧ u.hub.rot.image q.slot = { s.hub.rot.image q.slot with staged := some (leBytes 32 q.hash, q.svn, true) })
    ∧ ((s.hub.rot.image i).staged = none → exec (.firmwareActivation i) s = .next s)
    ∧ ∀ d n ok, (s.hub.rot.image i).staged = some (d, n, ok) → 2 ≤ i → i ≤ 5 →
      ((n < (s.hub.rot.image i).fuse ∨ ok = false) → exec (.firmwareActivation i) s = .next s)
      ∧ ((s.hub.rot.image i).fuse ≤ n → ok = true → ∃ u, exec (.firmwareActivation i) s = .next u ∧ (u.hub.rot.image i).digest = d
        ∧ (u.hub.rot.image i).fuse = n ∧ u.hub.rot.fwDigest = u.hub.rot.digestOf ∧ (i = 2 → u.hub.rot.sessions = [])
        ∧ (u.hub.rot.image i).staged = some ((s.hub.rot.image i).digest, (s.hub.rot.image i).svn, (s.hub.rot.image i).good))

/-- O56. Writes outside the registers do nothing. A word that is UNDEF for the agent whose turn it is faults. TRCTL needs a
bound queue and a good buffer. Trace events change neither registers nor turns. The root of trust answers while it is up:
version 1.4, six measurements, a session after negotiation; a message of another version, port, code or vendor is
unsupported, another operation BADREQ. A pod operation is BUSY beside four others. A TDI starts only from locked under its
nonce. An access from outside reads and writes only pages that its agent may reach; a refused read is answered by no byte.
That nothing changes where an event is not enabled (log entry 100), the message codes and error codes (log entry 82), those
of TDISP and IDE_KM (log entry 83), the numbers of links and how many requests are outstanding (log entry 89), what becomes
of a refused access (log entry 84), when evidence is recorded (log entry 85), members of pods elsewhere (log entry 88), the
order of TRCTL's checks (log entry 93), an access's lanes in one step (log entry 12) and errors from outside (log entry 81)
are the model's choice. -/
def Obligations.RegisterTraceAndTrustEvents : Prop :=
  (∀ (s : State) (a n v : Nat), inKick a = false → inHub a = false → exec (.registerWrite a n v) s = .next s)
  ∧ (∀ (s : State) (a n v : Nat), ∃ u, exec (.registerWrite a n v) s = .next u)
  ∧ (∀ (s : State) (p v : Nat), (s.part p).dies ≠ 0 → v < 32 →
      s.hubWrite (.power p 0) 0 8 v = .next (s.putPart p { s.part p with cap := max 8 (min 28 v) }.step))
  ∧ (∀ (s : State) (w : W32) (gid sp tid : Nat),
    (s.turns.head? = some (.split gid sp) → undefSimt (bitOf w.toNat 28) (fieldOf w.toNat 21 7) = true →
      exec (.undefOpcode w) s = .next (s.simtFault gid sp 1 0))
    ∧ (s.turns.head? = some (.thread tid) → undefThread (bitOf w.toNat 28) (fieldOf w.toNat 21 7) = true →
      exec (.undefOpcode w) s = .next (s.threadFault tid 1 0)))
  ∧ (∀ (s : State) (q k v : Nat),
    ((s.queue q).eid = 0 → exec (.trctlEnable q v) s = .next s)
    ∧ ((s.queue q).eid ≠ 0 → (s.traceQ q).trace = false → bitOf v 0 = true →
      (s.bufferGood q (s.traceQ q).trbuf (s.traceQ q).trsize = false → ∃ u, exec (.trctlEnable q v) s = .next u
        ∧ (u.traceQ q).trace = false ∧ (u.traceQ q).result = 1)
      ∧ (s.bufferGood q (s.traceQ q).trbuf (s.traceQ q).trsize = true → ∃ u, exec (.trctlEnable q v) s = .next u
        ∧ (u.traceQ q).trace = true))
    ∧ (∃ u, exec (.chunkFlush k) s = .next u ∧ u.turns = s.turns ∧ u.ac = s.ac)
    ∧ (∃ u, exec (.lossMark k) s = .next u ∧ u.turns = s.turns ∧ u.simt = s.simt)
    ∧ (∃ u, exec (.stallSample k) s = .next u ∧ u.turns = s.turns ∧ u.ac = s.ac))
  ∧ (∀ (s : State) (l d k : Nat), k = 2 * l + d % 2 →
    (160 ≤ l → exec (.linkRetransmit l d) s = .next s ∧ exec (.keySwitch l d) s = .next s)
    ∧ (l < 160 → (s.linkDir k).flits + 2 < 2 ^ 40 → ∃ u, exec (.linkRetransmit l d) s = .next u
      ∧ u.linkDir k = { s.linkDir k with retrans := (s.linkDir k).retrans + 1, flits := (s.linkDir k).flits + 1 })
    ∧ (l < 160 → 2 ^ 40 ≤ (s.linkDir k).flits + 2 → (s.linkDir k).next = false → ∃ u, exec (.linkRetransmit l d) s = .next u
      ∧ (u.linkDir k).keyIdx = 1 - (s.linkDir k).keyIdx ∧ (u.linkDir k).flits = 1)
    ∧ (l < 160 → (s.linkDir k).next = false → ∃ u, exec (.keySwitch l d) s = .next u
      ∧ (u.linkDir k).keyIdx = 1 - (s.linkDir k).keyIdx ∧ (u.linkDir k).flits = 0 ∧ (u.linkDir k).gen = (s.linkDir k).gen + 1)
    ∧ (l < 160 → (s.linkDir k).next = true → exec (.keySwitch l d) s = .next s)
    ∧ ∃ u, exec (.completionTimeout l) s = .next u ∧ u.hub.links.map Prod.fst = s.hub.links.map Prod.fst
      ∧ ∀ y ∈ u.hub.links, ∀ r ∈ y.2.outstanding, r.1 ≠ l)
  ∧ (∀ (s : State) (r : SpdmReq),
    (s.rotUp = false → ∀ i ∈ [Instr.getVersion r, .getCapabilities r, .negotiateAlgorithms r, .getDigests r, .getCertificate r,
      .challenge r, .getMeasurements r, .keyExchange r, .finish r, .heartbeat r, .keyUpdate r, .endSession r, .getEnclaveEvidence r,
      .podForm r, .getPodPath r], exec i s = .next s)
    ∧ (s.rotUp = true → ∀ row ∈ ([(0x84, .getVersion r), (0xE1, .getCapabilities r), (0xE3, .negotiateAlgorithms r), (0x81, .getDigests r),
        (0x82, .getCertificate r), (0x83, .challenge r), (0xE0, .getMeasurements r), (0xE4, .keyExchange r), (0xE5, .finish r),
        (0xE8, .heartbeat r), (0xE9, .keyUpdate r), (0xEC, .endSession r), (0xFE, .getEnclaveEvidence r), (0xFE, .podForm r),
        (0xFE, .getPodPath r)] : List (Nat × Instr)),
      (r.code ≠ row.1 ∨ 3 < r.port ∨ (r.version ≠ 0x14 ∧ row.1 ≠ 0x84) → exec row.2 s = .next (s.reply unsupported))
      ∧ (r.code = row.1 → r.port ≤ 3 → r.version = 0x14 → row.1 = 0xFE → r.vendor ≠ 0x4B4C → exec row.2 s = .next (s.reply unsupported)))
    ∧ (s.rotUp = true → r.port ≤ 3 → r.version = 0x14 → r.code = 0xFE → r.vendor = 0x4B4C →
      (r.op ≠ 1 → exec (.getEnclaveEvidence r) s = .next (s.reply [3#8])) ∧ (r.op ≠ 2 → exec (.podForm r) s = .next (s.reply [3#8]))
      ∧ (r.op ≠ 3 → exec (.getPodPath r) s = .next (s.reply [3#8])))
    ∧ (∀ c v : Nat → SpdmReq, c = (fun n => { r with code := n, version := 0x14 }) →
        v = (fun n => { r with code := 0xFE, version := 0x14, vendor := 0x4B4C, op := n }) → s.rotUp = true → r.port ≤ 3 →
      (∀ x, exec (.getVersion { r with code := 0x84, version := x }) s = .next (s.reply [0x04#8, 0x14#8]))
      ∧ (∃ x, exec (.getCapabilities (c 0xE1)) s = .next (s.reply (0x61#8 :: x)))
      ∧ (r.arg % 16 = 15 → ∃ u, exec (.negotiateAlgorithms (c 0xE3)) s = .next u ∧ u.hub.rot.negotiated = true
        ∧ u.hub.rot.reply = [0x63#8, 0x0F#8])
      ∧ (r.arg % 16 ≠ 15 → exec (.negotiateAlgorithms (c 0xE3)) s = .next (s.reply unsupported))
      ∧ exec (.getDigests (c 0x81)) s = .next (s.reply (0x01#8 :: sha3 (s.hub.rot.chain 0) ++ sha3 (s.hub.rot.chain 1)))
      ∧ (r.arg < 2 → exec (.getCertificate (c 0x82)) s = .next (s.reply (0x02#8 :: s.hub.rot.chain r.arg)))
      ∧ (2 ≤ r.arg → exec (.getCertificate (c 0x82)) s = .next (s.reply unsupported) ∧ exec (.challenge (c 0x83)) s = .next (s.reply unsupported))
      ∧ (∀ x, r.arg < 2 → x = sha3 (s.hub.rot.chain r.arg) ++ s.hub.rot.fwDigest ++ r.data → exec (.challenge (c 0x83)) s
        = .next (s.reply (0x03#8 :: x ++ if r.arg = 1 then s.hub.rot.sign x else s.hub.rot.idSign x)))
      ∧ (r.arg = 0 → exec (.getMeasurements (c 0xE0)) s = .next (s.reply [0x60#8, 6#8]))
      ∧ (∀ x, (1 ≤ r.arg ∧ r.arg ≤ 6 ∧ x = s.hub.rot.block r.arg ∨ r.arg = 255 ∧ x = [1, 2, 3, 4, 5, 6].flatMap s.hub.rot.block) →
        exec (.getMeasurements (c 0xE0)) s = .next (s.reply (0x60#8 :: x ++ s.hub.rot.sign (x ++ r.data))))
      ∧ (s.hub.rot.negotiated = false → exec (.keyExchange (c 0xE4)) s = .next (s.reply (spdmError 4)))
      ∧ (∀ n, s.hub.rot.negotiated = true → s.hub.rot.freeSession = some n → ∃ u x, exec (.keyExchange (c 0xE4)) s = .next u
        ∧ Tbl.get? u.hub.rot.sessions n = some x ∧ x.peer = r.arg ∧ x.ready = false ∧ 1 ≤ n ∧ n ≤ 64)
      ∧ (s.hub.rot.negotiated = true → s.hub.rot.freeSession = none → exec (.keyExchange (c 0xE4)) s = .next (s.reply (spdmError 0x0A)))
      ∧ (∀ x, Tbl.get? s.hub.rot.sessions r.session = some x → x.ready = false →
        (Config.verifies 3 (leBytes 32 x.key) r.data = true → ∃ u, exec (.finish (c 0xE5)) s = .next u
          ∧ Tbl.get? u.hub.rot.sessions r.session = some { x with ready := true })
        ∧ (Config.verifies 3 (leBytes 32 x.key) r.data = false → exec (.finish (c 0xE5)) s = .next (s.reply (spdmError 6))))
      ∧ (s.session? r.session = none → exec (.heartbeat (c 0xE8)) s = .next (s.reply (spdmError 2))
        ∧ exec (.keyUpdate (c 0xE9)) s = .next (s.reply (spdmError 2)) ∧ exec (.endSession (c 0xEC)) s = .next (s.reply (spdmError 2))
        ∧ exec (.podForm (v 2)) s = .next (s.reply unsupported) ∧ exec (.getPodPath (v 3)) s = .next (s.reply unsupported))
      ∧ (∀ x, s.session? r.session = some x → exec (.heartbeat (c 0xE8)) s = .next (s.reply [0x68#8])
        ∧ (∃ u y, exec (.keyUpdate (c 0xE9)) s = .next u ∧ Tbl.get? u.hub.rot.sessions r.session = some y ∧ y.peer = x.peer
          ∧ y.ready = true ∧ y.master = x.master)
        ∧ (∃ u, exec (.endSession (c 0xEC)) s = .next u ∧ Tbl.get? u.hub.rot.sessions r.session = none)
        ∧ (r.arg = 0 → exec (.podForm (v 2)) s = .next (s.reply [3#8]))
        ∧ (1 ≤ r.arg → r.arg ≤ 4096 → r.data.length = 32 + 34 * r.arg →
          (4 ≤ s.hub.rot.podOps → exec (.podForm (v 2)) s = .next (s.reply [2#8]))
          ∧ (s.hub.rot.podOps < 4 → ∃ u n, exec (.podForm (v 2)) s = .next u ∧ u.hub.rot.podOps = s.hub.rot.podOps + 1
            ∧ (n, Event.podDone (v 2)) ∈ u.agenda ∧ n ≤ s.ac + 70000000))
        ∧ (r.data.length = 32 → 4 ≤ s.hub.rot.podOps → exec (.getPodPath (v 3)) s = .next (s.reply [2#8]))
        ∧ (∀ p b, r.data.length = 32 → s.hub.rot.podOps < 4 → (s.hub.rot.pods.find? fun p => p.nonce == r.data) = some p →
          p.bodies[r.arg]? = some b → ∃ path, exec (.getPodPath (v 3)) s = .next (s.reply (0#8 :: b ++ path)))
        ∧ (r.data.length = 32 → s.hub.rot.podOps < 4 → (s.hub.rot.pods.find? fun p => p.nonce == r.data) = none →
          exec (.getPodPath (v 3)) s = .next (s.reply [5#8])))
      ∧ ((65536 ≤ r.arg ∨ r.data.length ≠ 32) → exec (.getEnclaveEvidence (v 1)) s = .next (s.reply [3#8]))
      ∧ (r.arg < 65536 → r.data.length = 32 →
        (s.drawn.evidenceWaits r.arg s.free = true → exec (.getEnclaveEvidence (v 1)) s
          = .next (s.drawn.at (s.ac + 1) (.evidence s.free (v 1))))
        ∧ (s.drawn.evidenceWaits r.arg s.free = false →
          (Tbl.get? s.hub.enclaves r.arg = none → ∃ u, exec (.getEnclaveEvidence (v 1)) s = .next u ∧ u.hub.rot.reply = [1#8])
          ∧ ∀ e, Tbl.get? s.hub.enclaves r.arg = some e → ∃ (u : State) (sig : List Byte),
            exec (.getEnclaveEvidence (v 1)) s = .next u ∧ u.hub.rot.reply = 0#8 :: u.evidenceBody r.arg e r.data ++ sig))))
  ∧ (∀ (s : State) (r : TdispReq) (t : Tdi), s.rotUp = true → s.tdi r.tdi = t →
    (r.op = 1 → t.state = 0 → ∃ u, exec (.tdispRequest r) s = .next u ∧ (u.tdi r.tdi).state = 1)
    ∧ (r.op = 2 → t.state = 1 → r.nonce = t.nonce → ∃ u, exec (.tdispRequest r) s = .next u ∧ u.tdi r.tdi = { t with state := 2 })
    ∧ (r.op = 2 → (t.state ≠ 1 ∨ r.nonce ≠ t.nonce) → exec (.tdispRequest r) s = .next s)
    ∧ (r.op = 3 → ∃ u, exec (.tdispRequest r) s = .next u ∧ (u.tdi r.tdi).state = 0)
    ∧ (r.op = 5 → ∃ u, exec (.tdispRequest r) s = .next u ∧ (u.tdi r.tdi).state = 3 ∧ (u.tdi r.tdi).bound = []))
  ∧ (∀ (s : State) (r : IdeReq), s.rotUp = true →
    (s.session? r.session = none → exec (.ideKmRequest r) s = .next (s.reply unsupported))
    ∧ ∀ x, s.session? r.session = some x → streamOk r.port r.stream = true → r.sub < 8 →
      (r.op = 1 → (r.eid = 0 ∨ (Tbl.get? s.hub.enclaves r.eid).isSome = true) → ∃ u, exec (.ideKmRequest r) s = .next u
        ∧ (r.port < 2 → Tbl.get? u.hub.ideKeys (ideKey r.port r.stream r.sub) = some r.key)
        ∧ (2 ≤ r.port → Tbl.get? u.hub.ideKeys (ideKey r.port r.stream r.sub)
          = some (leNat (cryptoOut 16 (x.kflKey ++ leBytes 4 (ideKey r.port r.stream r.sub)) 32)))
        ∧ Tbl.fget 0 u.hub.ideEid (ideKey r.port r.stream r.sub) = r.eid)
      ∧ (∀ key, r.op = 2 → Tbl.get? s.hub.ideKeys (ideKey r.port r.stream r.sub) = some key → ∃ u, exec (.ideKmRequest r) s = .next u
        ∧ Tbl.get? u.hub.ideKeys (ideKey r.port r.stream r.sub + 1) = some key)
      ∧ (r.op = 3 → ∃ u, exec (.ideKmRequest r) s = .next u ∧ Tbl.get? u.hub.ideKeys (ideKey r.port r.stream r.sub) = none
        ∧ Tbl.get? u.hub.ideKeys (ideKey r.port r.stream r.sub + 1) = none))
  ∧ (∀ (s : State) (r : InboundReq), s.module.on = true → s.offStream r = false → r.source = 3 →
    exec (.inboundDeviceAccess r) s = .next (s.mctpRead r) ∧ ((s.module.stage < 2 ∨ r.write = true) → s.mctpRead r = s))
  ∧ ∀ (s : State) (r : InboundReq) (n : Nat), s.module.on = true → s.offStream r = false → r.source ≠ 3 →
    n = (if r.write then r.bytes.length else r.len) →
    (∀ e on, r.msix = some (e, on) → ofVf r = true → exec (.inboundDeviceAccess r) s = .next (s.msixMask r.agent e on))
    ∧ (r.msix = none → n ≠ 0 → inKick r.addr = false →
      (s.inboundOk r n = false → exec (.inboundDeviceAccess r) s
        = .next (if r.write then s else s.modHub fun h => { h with dmaReply := [] }))
      ∧ ∀ u held, s.inboundOk r n = true → s.rowsPass 256 (.inboundAccess r) (lineAccs (linesOf r.addr n)) = (u, held) →
        (held = true → exec (.inboundDeviceAccess r) s = .next u)
        ∧ (held = false → r.write = true → exec (.inboundDeviceAccess r) s = .next (u.write r.addr r.bytes))
        ∧ (held = false → r.write = false → ∀ w, w = u.meet ((u.boundEid r).getD 0) 0xFFFF r.addr r.len →
          exec (.inboundDeviceAccess r) s
            = .next (w.modHub fun h => { h with dmaReply := if w.integ r.addr r.len then [] else w.bytes r.addr r.len })))

/-! ### Reset, and what steps keep -/

/-- O57. The values that the register tables give: queue, function, vector, stack, trace and error registers 0, PRCFG's
PTPOOL 1, HOSTW 16, HOT 4,096, TTHR 4, CAP and EFF 28 (R446), MODLIM 10,800 W. STAGE and CODE are 0 and bring-up comes next
(R445). No control thread has been started. That unlisted bytes read 0 (log entry 2), and that reset is the module with
power just applied and POWER_ON due (log entry 1), are the model's choice. -/
def Obligations.ResetValues : Prop :=
  State.reset.agenda = [(0, .powerOn)] ∧ State.reset.turns = [] ∧ State.reset.module.stage = 0 ∧ State.reset.module.code = 0
  ∧ State.reset.module.limit = 10800 ∧ State.reset.store.mem = [] ∧ State.reset.simt.groups = [] ∧ State.reset.hub.enclaves = []
  ∧ (∀ q, (State.reset.queue q).enable = false ∧ (State.reset.queue q).state = 0 ∧ (State.reset.queue q).head = 0
    ∧ (State.reset.queue q).tail = 0 ∧ (State.reset.queue q).ring = 0 ∧ (State.reset.queue q).pkts = 0 ∧ (State.reset.queue q).eid = 0)
  ∧ (∀ v, (State.reset.vf v).enable = false ∧ (State.reset.vf v).state = 0 ∧ (State.reset.vf v).weight = 0)
  ∧ (∀ v, (State.reset.vec v).pend = false ∧ (State.reset.vec v).mask = false ∧ (State.reset.vec v).mode = 0)
  ∧ (∀ t, (State.reset.hbm t).lendstat = 0 ∧ (State.reset.hbm t).aar = false ∧ (State.reset.hbm t).refskip = 0)
  ∧ (∀ q, (State.reset.traceQ q).trace = false ∧ (State.reset.traceQ q).result = 0)
  ∧ (∀ p, (State.reset.part p).ptpool = 1 ∧ (State.reset.part p).hostw = 16 ∧ (State.reset.part p).hot = 4096
    ∧ (State.reset.part p).tthr = 4 ∧ (State.reset.part p).cap = 28 ∧ (State.reset.part p).eff = 28 ∧ (State.reset.part p).gate = false)
  ∧ (∀ t, (State.reset.thread t).running = false) ∧ (∀ a n, State.reset.peek a n = 0)

/-- O58. The invariant that StepKeepsMemoryCanonical speaks of holds at reset: nothing is listed (the model's own form of
memory, log entry 2). -/
def Obligations.ResetMemoryCanonical : Prop :=
  State.reset.memCanonical

/-- O59. Whatever instruction or event a step carries out, from any state whose memory lists its addresses in rising order
and no byte equal to what an unlisted address reads as, the next state's memory is in that form too: equal memories stay
equal data (the model's own form). -/
def Obligations.StepKeepsMemoryCanonical : Prop :=
  ∀ s t : State, s.memCanonical → step s = .next t → t.memCanonical

/-- O60. The frame of every instruction whose statement ends in State.vecDone, uniDone or convDone (a group's computing
instructions) or in threadDone (a control thread's): all of memory and its tables, every control thread, queue, enclave,
partition and die, and the registers of every group stay as they are at issue (a result is written later, by its own event;
an SR draw is the one exception, in the drawing group); after a control thread's instruction everything but that thread
stays. -/
def Obligations.EndStatesFrame : Prop :=
  (∀ (s t : State) (gid sp len : Nat) (n : Nat → Nat) (p : Split) (rd : Rd) (m : Marks) (act : W32) (fixed : Bool) (w : RegWrites),
    (t = s.vecDone gid sp m len act fixed w ∨ t = s.uniDone gid sp p m len fixed w ∨ t = s.convDone gid sp rd m len fixed n w) →
    t.store = s.store ∧ t.ac = s.ac ∧ t.parts = s.parts ∧ t.dies = s.dies ∧ t.module = s.module ∧ t.turns = s.turns.tail
    ∧ t.hub.threads = s.hub.threads ∧ t.hub.queues = s.hub.queues ∧ t.hub.enclaves = s.hub.enclaves ∧ t.hub.vfs = s.hub.vfs
    ∧ t.hub.vecs = s.hub.vecs ∧ t.hub.rot = s.hub.rot ∧ t.simt.accs = s.simt.accs ∧ t.simt.locals = s.simt.locals
    ∧ (∀ k, k ≠ gid → (t.group? k).map Group.regs = (s.group? k).map Group.regs)
    ∧ ∀ g h, s.group? gid = some g → t.group? gid = some h → h.regs.v = g.regs.v ∧ h.regs.g = g.regs.g ∧ h.regs.p = g.regs.p
      ∧ h.regs.q = g.regs.q ∧ h.regs.fstat = g.regs.fstat ∧ h.regs.poison = g.regs.poison ∧ h.place = g.place)
  ∧ ∀ (s : State) (tid : Nat) (x : Thread), (s.threadDone tid x).thread tid = x
    ∧ (∀ k, k ≠ tid → (s.threadDone tid x).thread k = s.thread k) ∧ (s.threadDone tid x).store = s.store
    ∧ (s.threadDone tid x).simt = s.simt ∧ (s.threadDone tid x).hub.queues = s.hub.queues
    ∧ (s.threadDone tid x).parts = s.parts ∧ (s.threadDone tid x).turns = s.turns.tail
end

