-- ==== Sys2Proof/Laws/Decode.lean ====
section
/-! SUPPORT. Laws/Decode.lean: taking an instruction's words apart gives its fields (R148, R149), one lemma for each operand,
control word and shape of instruction. -/

namespace Sys2Proof

set_option linter.unusedSimpArgs false

/-- A plain code of a field: no literal marker. -/
def Fld.ok : Fld → Prop
  | .code n => n < 128 ∧ n ≠ 124 ∧ n ≠ 125
  | _ => True

theorem Fld.base_lt (f : Fld) (h : f.ok) : f.base < 128 := by
  cases f <;> simp [Fld.base, Fld.ok] at * <;> omega

theorem joinWords_low_high (x : W64) : joinWords (lowWord x) (highWord x) = x := by
  apply BitVec.eq_of_getLsbD_eq
  intro i hi
  simp only [joinWords, lowWord, highWord, BitVec.getLsbD_append, BitVec.getLsbD_setWidth, BitVec.getLsbD_ushiftRight]
  by_cases h : i < 32
  · simp [h]
  · simp [h, show 32 + (i - 32) = i by omega, show i - 32 < 32 by omega]

theorem lowWord_join (a b : W32) : lowWord (joinWords a b) = a := by
  apply BitVec.eq_of_getLsbD_eq
  intro i hi
  simp only [joinWords, lowWord, BitVec.getLsbD_setWidth, BitVec.getLsbD_append, hi]
  simp

theorem highWord_join (a b : W32) : highWord (joinWords a b) = b := by
  apply BitVec.eq_of_getLsbD_eq
  intro i hi
  simp only [joinWords, highWord, BitVec.getLsbD_setWidth, BitVec.getLsbD_ushiftRight, BitVec.getLsbD_append, hi]
  simp

theorem takeFld_trailer (f : Fld) (h : f.ok) (rest : List W32) :
    takeFld f.base (f.trailer ++ rest) = .ok (f, rest) := by
  cases f with
  | code n => simp only [Fld.ok] at h; simp [takeFld, Fld.base, Fld.trailer, h.2.1, h.2.2]
  | lit32 x => simp [takeFld, Fld.base, Fld.trailer]
  | lit64 x => simp [takeFld, Fld.base, Fld.trailer, joinWords_low_high]

/-- Raw fields that a base word can hold, in an instruction of at most four words. -/
def Raw.ok (r : Raw) : Prop :=
  r.op < 128 ∧ r.d < 128 ∧ r.a.ok ∧ r.c.ok ∧ definedOp r.u r.op = true ∧ r.ctl.isSome = hasCtl r.u r.op
    ∧ b01 r.ctl.isSome + r.a.trailer.length + r.c.trailer.length ≤ 3

theorem b01_lt (b : Bool) : b01 b < 2 := by cases b <;> decide

theorem Raw.baseWord_toNat (r : Raw) (h : r.ok) : r.baseWord.toNat = 2 ^ 31 * b01 r.m.b + 2 ^ 30 * b01 r.m.w
    + 2 ^ 29 * b01 r.m.s + 2 ^ 28 * b01 r.u + 2 ^ 21 * r.op + 2 ^ 14 * r.d + 2 ^ 7 * r.a.base + r.c.base := by
  obtain ⟨h1, h2, h3, h4, -⟩ := h
  have := Fld.base_lt _ h3; have := Fld.base_lt _ h4
  have := b01_lt r.m.b; have := b01_lt r.m.w; have := b01_lt r.m.s; have := b01_lt r.u
  rw [Raw.baseWord, BitVec.toNat_ofNat]
  apply Nat.mod_eq_of_lt
  omega

theorem b01_beq (b : Bool) : (b01 b == 1) = b := by cases b <;> decide

theorem Raw.baseWord_fields (r : Raw) (h : r.ok) :
    bitOf r.baseWord.toNat 31 = r.m.b ∧ bitOf r.baseWord.toNat 30 = r.m.w ∧ bitOf r.baseWord.toNat 29 = r.m.s
    ∧ bitOf r.baseWord.toNat 28 = r.u ∧ fieldOf r.baseWord.toNat 21 7 = r.op ∧ fieldOf r.baseWord.toNat 14 7 = r.d
    ∧ fieldOf r.baseWord.toNat 7 7 = r.a.base ∧ fieldOf r.baseWord.toNat 0 7 = r.c.base := by
  have e := r.baseWord_toNat h
  obtain ⟨h1, h2, h3, h4, -⟩ := h
  have a1 := Fld.base_lt _ h3; have a2 := Fld.base_lt _ h4
  have b1 := b01_lt r.m.b; have b2 := b01_lt r.m.w; have b3 := b01_lt r.m.s; have b4 := b01_lt r.u
  generalize r.baseWord.toNat = x at *
  simp only [bitOf, fieldOf]
  rw [← b01_beq r.m.b, ← b01_beq r.m.w, ← b01_beq r.m.s, ← b01_beq r.u]
  refine ⟨?_, ?_, ?_, ?_, ?_, ?_, ?_, ?_⟩ <;> first | (congr 1; omega) | omega

theorem Fld.litCount_base (f : Fld) (h : f.ok) : litCount f.base = f.trailer.length := by
  cases f with
  | code n => simp only [Fld.ok] at h; simp [litCount, Fld.base, Fld.trailer, h.2.1, h.2.2]
  | lit32 x => rfl
  | lit64 x => rfl

/-- Taking the words of fields apart gives the fields (R148, R149). -/
theorem parse_words (r : Raw) (h : r.ok) (rest : List W32) : parse (r.words ++ rest) = .ok (r, rest) := by
  obtain ⟨e1, e2, e3, e4, e5, e6, e7, e8⟩ := r.baseWord_fields h
  obtain ⟨-, -, h3, h4, h5, h6, h7⟩ := h
  have hw : wordCount r.baseWord ≤ 4 := by
    simp only [wordCount, e4, e5, e7, e8, Fld.litCount_base _ h3, Fld.litCount_base _ h4, ← h6]; omega
  simp only [Raw.words, List.cons_append, parse, e1, e2, e3, e4, e5, e6, e7, e8, h5]
  have hc : takeCtl r.u r.op (r.ctl.toList ++ r.a.trailer ++ r.c.trailer ++ rest)
      = .ok (r.ctl, r.a.trailer ++ (r.c.trailer ++ rest)) := by
    unfold takeCtl
    rw [← h6]
    cases r.ctl <;> simp
  simp only [hc, Bool.not_true, Bool.false_eq_true, if_false]
  rw [if_neg (by omega), takeFld_trailer _ h3]
  simp only []
  rw [takeFld_trailer _ h4]

/-! ### Operands -/

theorem Opnd.toV_vSrc (o : Opnd) (h : o.vOk = true) : o.toV.vSrc = some o := by
  cases o with
  | v r => simp only [Opnd.vOk, decide_eq_true_eq] at h; simp [Opnd.toV, Fld.vSrc, h]
  | g r =>
    simp only [Opnd.vOk, decide_eq_true_eq] at h
    simp only [Opnd.toV, Fld.vSrc]
    rw [if_neg (by omega), if_pos (by omega)]
    congr; omega
  | q r => simp [Opnd.vOk] at h
  | _ => rfl

theorem Opnd.toV_ok (o : Opnd) (h : o.vOk = true) : o.toV.ok := by
  cases o <;> simp [Opnd.toV, Fld.ok, Opnd.vOk] at * <;> omega

theorem Opnd.toV_trailer (o : Opnd) : o.toV.trailer.length = o.litWords := by cases o <;> rfl

theorem Opnd.toU_uSrc (o : Opnd) (h : o.uOk = true) : o.toU.uSrc = some o := by
  cases o with
  | g r => simp only [Opnd.uOk, decide_eq_true_eq] at h; simp [Opnd.toU, Fld.uSrc, h]
  | q r =>
    simp only [Opnd.uOk, decide_eq_true_eq] at h
    simp only [Opnd.toU, Fld.uSrc]
    rw [if_neg (by omega), if_pos (by omega)]
    congr; omega
  | v r => simp [Opnd.uOk] at h
  | _ => rfl

theorem Opnd.toU_ok (o : Opnd) (h : o.uOk = true) : o.toU.ok := by
  cases o <;> simp [Opnd.toU, Fld.ok, Opnd.uOk] at * <;> omega

theorem Opnd.toU_trailer (o : Opnd) : o.toU.trailer.length = o.litWords := by cases o <;> rfl

theorem Opnd.litWords_le (o : Opnd) : o.litWords ≤ 2 := by cases o <;> simp [Opnd.litWords]

theorem Opnd.addrOk_vOk (o : Opnd) (h : o.addrOk = true) : o.vOk = true := by
  cases o <;> simp [Opnd.addrOk, Opnd.vOk] at * <;> omega

/-! ### Control words -/

theorem AtomCtl.dec_enc (p : AtomCtl → Bool) (x : AtomCtl) (h : x.ok = true) (hp : p x = true) :
    AtomCtl.dec p (some x.enc) = some x := by
  obtain ⟨op, sc, od, ty⟩ := x
  have h' := h
  simp [AtomCtl.ok, AtomCtl.legal, scopeOk] at h'
  have e : (AtomCtl.enc ⟨op, sc, od, ty⟩).toNat = op + 2 ^ 4 * sc + 2 ^ 7 * od + 2 ^ 9 * ty := by
    simp only [AtomCtl.enc, BitVec.toNat_ofNat]; apply Nat.mod_eq_of_lt; omega
  have f1 : fieldOf (op + 2 ^ 4 * sc + 2 ^ 7 * od + 2 ^ 9 * ty) 0 4 = op := by simp only [fieldOf]; omega
  have f2 : fieldOf (op + 2 ^ 4 * sc + 2 ^ 7 * od + 2 ^ 9 * ty) 4 3 = sc := by simp only [fieldOf]; omega
  have f3 : fieldOf (op + 2 ^ 4 * sc + 2 ^ 7 * od + 2 ^ 9 * ty) 7 2 = od := by simp only [fieldOf]; omega
  have f4 : fieldOf (op + 2 ^ 4 * sc + 2 ^ 7 * od + 2 ^ 9 * ty) 9 3 = ty := by simp only [fieldOf]; omega
  simp only [AtomCtl.dec, e, f1, f2, f3, f4]
  rw [if_pos ⟨by omega, hp⟩]

theorem bit_lemma (n : Nat) (b : Bool) (lo : Nat) (h : n / 2 ^ lo % 2 = b01 b) : bitOf n lo = b := by
  rw [bitOf, h]; cases b <;> rfl

theorem CpyCtl.dec_enc (x : CpyCtl) (h : x.ok = true) : CpyCtl.dec (some x.enc) = some x := by
  obtain ⟨dir, red, ety, sh, sc, se, pc, pe, df, ps⟩ := x
  have h' := h
  simp only [CpyCtl.ok, Bool.and_eq_true, decide_eq_true_eq] at h'
  have b1 := b01_lt sh; have b2 := b01_lt se; have b3 := b01_lt pe; have b4 := b01_lt df
  have e : (CpyCtl.enc ⟨dir, red, ety, sh, sc, se, pc, pe, df, ps⟩).toNat = dir + 2 ^ 2 * red + 2 ^ 5 * ety + 2 ^ 9 * b01 sh
      + 2 ^ 10 * sc + 2 ^ 16 * b01 se + 2 ^ 17 * pc + 2 ^ 23 * b01 pe + 2 ^ 24 * b01 df + 2 ^ 25 * ps := by
    simp only [CpyCtl.enc, BitVec.toNat_ofNat]; apply Nat.mod_eq_of_lt; omega
  simp only [CpyCtl.dec, e]
  generalize hn : dir + 2 ^ 2 * red + 2 ^ 5 * ety + 2 ^ 9 * b01 sh + 2 ^ 10 * sc + 2 ^ 16 * b01 se + 2 ^ 17 * pc
    + 2 ^ 23 * b01 pe + 2 ^ 24 * b01 df + 2 ^ 25 * ps = n
  have f1 : fieldOf n 0 2 = dir := by simp only [fieldOf]; omega
  have f2 : fieldOf n 2 3 = red := by simp only [fieldOf]; omega
  have f3 : fieldOf n 5 4 = ety := by simp only [fieldOf]; omega
  have f4 : bitOf n 9 = sh := bit_lemma _ _ _ (by omega)
  have f5 : fieldOf n 10 6 = sc := by simp only [fieldOf]; omega
  have f6 : bitOf n 16 = se := bit_lemma _ _ _ (by omega)
  have f7 : fieldOf n 17 6 = pc := by simp only [fieldOf]; omega
  have f8 : bitOf n 23 = pe := bit_lemma _ _ _ (by omega)
  have f9 : bitOf n 24 = df := bit_lemma _ _ _ (by omega)
  have f10 : fieldOf n 25 3 = ps := by simp only [fieldOf]; omega
  rw [f1, f2, f3, f4, f5, f6, f7, f8, f9, f10, if_pos ⟨by omega, h⟩]

theorem MmaCtl.dec_enc (k : Bool) (x : MmaCtl) (h : x.ok k = true) : MmaCtl.dec k (some x.enc) = some x := by
  obtain ⟨mm, nc, kb, sp, si, pe, sl, ze, ta, tb⟩ := x
  have h' : mm < 16 ∧ nc < 5 ∧ kb < 33 ∧ sl < 2 := by
    simp only [MmaCtl.ok, Bool.and_eq_true, decide_eq_true_eq] at h
    obtain ⟨⟨⟨⟨h1, h2⟩, -⟩, h3⟩, h4⟩ := h
    refine ⟨?_, h2, h3, h4⟩
    split at h1 <;> simp at h1 <;> omega
  have b1 := b01_lt sp; have b2 := b01_lt si; have b3 := b01_lt pe; have b4 := b01_lt ze; have b5 := b01_lt ta; have b6 := b01_lt tb
  have e : (MmaCtl.enc ⟨mm, nc, kb, sp, si, pe, sl, ze, ta, tb⟩).toNat = mm + 2 ^ 4 * nc + 2 ^ 7 * kb + 2 ^ 13 * b01 sp
      + 2 ^ 14 * b01 si + 2 ^ 15 * b01 pe + 2 ^ 16 * sl + 2 ^ 17 * b01 ze + 2 ^ 18 * b01 ta + 2 ^ 19 * b01 tb := by
    simp only [MmaCtl.enc, BitVec.toNat_ofNat]; apply Nat.mod_eq_of_lt; omega
  simp only [MmaCtl.dec, e]
  generalize hn : mm + 2 ^ 4 * nc + 2 ^ 7 * kb + 2 ^ 13 * b01 sp + 2 ^ 14 * b01 si + 2 ^ 15 * b01 pe + 2 ^ 16 * sl
    + 2 ^ 17 * b01 ze + 2 ^ 18 * b01 ta + 2 ^ 19 * b01 tb = n
  have f1 : fieldOf n 0 4 = mm := by simp only [fieldOf]; omega
  have f2 : fieldOf n 4 3 = nc := by simp only [fieldOf]; omega
  have f3 : fieldOf n 7 6 = kb := by simp only [fieldOf]; omega
  have f4 : bitOf n 13 = sp := bit_lemma _ _ _ (by omega)
  have f5 : bitOf n 14 = si := bit_lemma _ _ _ (by omega)
  have f6 : bitOf n 15 = pe := bit_lemma _ _ _ (by omega)
  have f7 : fieldOf n 16 1 = sl := by simp only [fieldOf]; omega
  have f8 : bitOf n 17 = ze := bit_lemma _ _ _ (by omega)
  have f9 : bitOf n 18 = ta := bit_lemma _ _ _ (by omega)
  have f10 : bitOf n 19 = tb := bit_lemma _ _ _ (by omega)
  rw [f1, f2, f3, f4, f5, f6, f7, f8, f9, f10, if_pos ⟨by omega, h⟩]

theorem SpawnCtl.dec_enc (x : SpawnCtl) (h : x.ok = true) : SpawnCtl.dec (some x.enc) = some x := by
  obtain ⟨sq, nb, st⟩ := x
  have h' := h
  simp only [SpawnCtl.ok, Bool.and_eq_true, decide_eq_true_eq] at h'
  have b1 := b01_lt nb
  have e : (SpawnCtl.enc ⟨sq, nb, st⟩).toNat = sq + 2 ^ 12 * b01 nb + 2 ^ 13 * st := by
    simp only [SpawnCtl.enc, BitVec.toNat_ofNat]; apply Nat.mod_eq_of_lt; omega
  simp only [SpawnCtl.dec, e]
  generalize hn : sq + 2 ^ 12 * b01 nb + 2 ^ 13 * st = n
  have f1 : fieldOf n 0 12 = sq := by simp only [fieldOf]; omega
  have f2 : bitOf n 12 = nb := bit_lemma _ _ _ (by omega)
  have f3 : fieldOf n 13 3 = st := by simp only [fieldOf]; omega
  rw [f1, f2, f3, if_pos ⟨by omega, h⟩]

theorem TupCtl.dec_enc (k : Bool) (x : TupCtl) (h : x.ok k = true) : TupCtl.dec k (some x.enc) = some x := by
  obtain ⟨a, b, c, d, ma, st, nb⟩ := x
  have h' := h
  simp only [TupCtl.ok, Bool.and_eq_true, decide_eq_true_eq] at h'
  have b1 := b01_lt nb
  have e : (TupCtl.enc ⟨a, b, c, d, ma, st, nb⟩).toNat = a + 2 ^ 2 * b + 2 ^ 4 * c + 2 ^ 6 * d + 2 ^ 8 * ma + 2 ^ 14 * st
      + 2 ^ 17 * b01 nb := by
    simp only [TupCtl.enc, BitVec.toNat_ofNat]; apply Nat.mod_eq_of_lt; omega
  simp only [TupCtl.dec, e]
  generalize hn : a + 2 ^ 2 * b + 2 ^ 4 * c + 2 ^ 6 * d + 2 ^ 8 * ma + 2 ^ 14 * st + 2 ^ 17 * b01 nb = n
  have f1 : fieldOf n 0 2 = a := by simp only [fieldOf]; omega
  have f2 : fieldOf n 2 2 = b := by simp only [fieldOf]; omega
  have f3 : fieldOf n 4 2 = c := by simp only [fieldOf]; omega
  have f4 : fieldOf n 6 2 = d := by simp only [fieldOf]; omega
  have f5 : fieldOf n 8 6 = ma := by simp only [fieldOf]; omega
  have f6 : fieldOf n 14 3 = st := by simp only [fieldOf]; omega
  have f7 : bitOf n 17 = nb := bit_lemma _ _ _ (by omega)
  rw [f1, f2, f3, f4, f5, f6, f7, if_pos ⟨by omega, h⟩]

theorem PgaCtl.dec_enc (x : PgaCtl) (h : x.ok = true) : PgaCtl.dec (some x.enc) = some x := by
  obtain ⟨nw, r, w, va⟩ := x
  have h' : nw < 8 ∧ va < 64 := by
    simp only [PgaCtl.ok, Bool.and_eq_true, decide_eq_true_eq] at h
    refine ⟨?_, h.2⟩
    have := h.1
    simp at this; omega
  have b1 := b01_lt r; have b2 := b01_lt w
  have e : (PgaCtl.enc ⟨nw, r, w, va⟩).toNat = nw + 2 ^ 3 * b01 r + 2 ^ 4 * b01 w + 2 ^ 5 * va := by
    simp only [PgaCtl.enc, BitVec.toNat_ofNat]; apply Nat.mod_eq_of_lt; omega
  simp only [PgaCtl.dec, e]
  generalize hn : nw + 2 ^ 3 * b01 r + 2 ^ 4 * b01 w + 2 ^ 5 * va = n
  have f1 : fieldOf n 0 3 = nw := by simp only [fieldOf]; omega
  have f2 : bitOf n 3 = r := bit_lemma _ _ _ (by omega)
  have f3 : bitOf n 4 = w := bit_lemma _ _ _ (by omega)
  have f4 : fieldOf n 5 6 = va := by simp only [fieldOf]; omega
  rw [f1, f2, f3, f4, if_pos ⟨by omega, h⟩]

/-- The words of fields decode to what the fields name. -/
theorem decode_words (i : Instr) (r : Raw) (rest : List W32) (e : i.toRaw = some r) (h : r.ok) (t : r.toInstr = some i) :
    decode (encode i ++ rest) = .ok (i, rest) := by
  simp only [decode, encode, e, parse_words r h rest, t]

/-- Fields that fit their places, with `n` control words (R149). -/
def Raw.fit (r : Raw) (n : Nat) : Prop :=
  r.d < 128 ∧ r.a.ok ∧ r.c.ok ∧ n + r.a.trailer.length + r.c.trailer.length ≤ 3 ∧ b01 r.ctl.isSome = n

theorem Fld.ok_code (n : Nat) : (Fld.code n).ok ↔ n < 128 ∧ n ≠ 124 ∧ n ≠ 125 := Iff.rfl
theorem Fld.ok_lit32 (x : W32) : (Fld.lit32 x).ok := trivial
theorem Fld.trailer_code (n : Nat) : (Fld.code n).trailer.length = 0 := rfl
theorem Fld.trailer_lit32 (x : W32) : (Fld.lit32 x).trailer.length = 1 := rfl
theorem noLit64_le (o : Opnd) (h : o.noLit64 = true) : o.litWords ≤ 1 := by
  cases o <;> simp [Opnd.noLit64, Opnd.litWords] at *
theorem okLoad_lt {sc : Bool} {x : Access} (h : x.okLoad sc = true) : x.size < 7 ∧ x.scope < 6 := by
  simp only [Access.okLoad, scopeOk, Bool.and_eq_true, decide_eq_true_eq] at h
  refine ⟨h.1, ?_⟩
  have := h.2
  split at this <;> simp at this <;> omega
theorem okStore_load {sc : Bool} {x : Access} (h : x.okStore sc = true) : x.okLoad sc = true := by
  simp only [Access.okStore, Bool.and_eq_true] at h; exact h.1
theorem accLoad_enc {sc : Bool} {x : Access} (h : x.okLoad sc = true) : (Fld.code x.enc).accLoad sc = some x := by
  obtain ⟨h1, h2⟩ := okLoad_lt h
  obtain ⟨s, z⟩ := x
  simp only at h1 h2
  have e1 : (16 * s + z) / 16 = s := by omega
  have e2 : (16 * s + z) % 8 = z := by omega
  have e3 : (16 * s + z) / 8 % 2 = 0 := by omega
  simp [Fld.accLoad, Access.enc, e1, e2, e3, h]
theorem dAccStore_enc {sc : Bool} {x : Access} (h : x.okStore sc = true) : dAccStore sc x.enc = some x := by
  obtain ⟨h1, h2⟩ := okLoad_lt (okStore_load h)
  obtain ⟨s, z⟩ := x
  simp only at h1 h2
  have e1 : (16 * s + z) / 16 = s := by omega
  have e2 : (16 * s + z) % 8 = z := by omega
  have e3 : (16 * s + z) / 8 % 2 = 0 := by omega
  simp [dAccStore, Access.enc, e1, e2, e3, h]
theorem Access.enc_lt {sc : Bool} {x : Access} (h : x.okLoad sc = true) : x.enc < 96 := by
  obtain ⟨h1, h2⟩ := okLoad_lt h
  simp only [Access.enc]; omega

theorem ok_of_fit {r : Raw} {n : Nat} (h : r.fit n) (h0 : Nat.blt r.op 128 = true) (h1 : definedOp r.u r.op = true)
    (h2 : b01 (hasCtl r.u r.op) = n) : r.ok := by
  obtain ⟨a, b, c, d, e⟩ := h
  refine ⟨by simpa using h0, a, b, c, h1, ?_, by omega⟩
  rw [← h2] at e
  revert e; cases r.ctl.isSome <;> cases hasCtl r.u r.op <;> simp [b01]

theorem Opnd.only_toV {p : Opnd → Bool} {o : Opnd} (h : p o = true) (hv : o.vOk = true) :
    Opnd.only p o.toV.vSrc = some o := by simp [Opnd.only, Opnd.toV_vSrc o hv, h]
theorem Opnd.only_addr {o : Opnd} (h : o.addrOk = true) : Opnd.only Opnd.addrOk o.toV.vSrc = some o :=
  Opnd.only_toV h (Opnd.addrOk_vOk o h)
theorem Opnd.toV_ok_addr {o : Opnd} (h : o.addrOk = true) : o.toV.ok := Opnd.toV_ok o (Opnd.addrOk_vOk o h)
theorem Opnd.only_some {p : Opnd → Bool} {o : Opnd} (h : p o = true) : Opnd.only p (some o) = some o := by
  simp [Opnd.only, h]
theorem cvtCode_lt {n : Nat} (h : cvtCodeOk n = true) : n < 96 := by simp [cvtCodeOk] at h; omega
theorem n8Code_lt {n : Nat} (h : n8CodeOk n = true) : n < 96 := by simp [n8CodeOk] at h; omega
theorem mxCode_lt {n : Nat} (h : mxCodeOk n = true) : n < 96 := by simp [mxCodeOk] at h; omega
theorem scope_lt {n : Nat} (h : scopeOk n = true) : n < 6 := by simpa [scopeOk] using h
theorem barCode_lt {n : Nat} (h : barCodeOk n = true) : n < 100 := by simp [barCodeOk] at h; omega
theorem srAssigned_lt {n : Nat} (h : srAssigned n = true) : n < 96 := by simp [srAssigned] at h; omega
theorem okRed_ok {x : AtomCtl} (h : x.okRed = true) : x.ok = true := by
  simp only [AtomCtl.okRed, Bool.and_eq_true] at h; exact h.1.1
theorem okCtr_ok {x : AtomCtl} (h : x.okCtr = true) : x.ok = true := by
  simp only [AtomCtl.okCtr, Bool.and_eq_true] at h; exact h.1.1
theorem Opnd.toU_code (o : Opnd) (h : o.uOk = true) (hn : o.noLit = true) :
    Fld.code o.toU.codeOf = o.toU ∧ o.toU.codeOf < 128 := by
  cases o <;> simp [Opnd.toU, Fld.codeOf, Opnd.uOk, Opnd.noLit, Opnd.litWords] at * <;> omega
theorem div8 (a b : Nat) (h : b < 8) : (8 * a + b) / 8 = a ∧ (8 * a + b) % 8 = b := by omega

theorem shape0 (u : Bool) (op : Nat) (x : Op3) (h : (decide (x.d < 96) && x.a.vOk && x.c.vOk && lenOk 0 x.a x.c) = true) :
    (x.encV3 u op).decV3 = some x ∧ (x.encV3 u op).fit 0 := by
  obtain ⟨m, d, a, c⟩ := x
  simp only [Bool.and_eq_true, decide_eq_true_eq, lenOk, Bool.or_eq_true, bne_iff_ne, beq_iff_eq] at h
  have la := a.litWords_le
  have lc := c.litWords_le
  constructor
  · simp [Raw.decV3, Op3.encV3, dReg, dUnused, Fld.unused, Fld.off, Fld.codeIf, Fld.reg, Opnd.only_addr, Opnd.only_some, Opnd.toV_vSrc, Opnd.toU_uSrc, h]
  · simp [Raw.decV3, Op3.encV3, Raw.fit, Fld.ok_code, Fld.ok_lit32, Fld.trailer_code, Fld.trailer_lit32, Opnd.toV_ok_addr, Opnd.toV_ok, Opnd.toU_ok, Opnd.toV_trailer, Opnd.toU_trailer, h, show b01 true = 1 from rfl, show b01 false = 0 from rfl]
    try omega
theorem shape1 (u : Bool) (op : Nat) (x : Op2) (h : (decide (x.d < 96) && x.a.vOk) = true) :
    (x.encV2 u op).decV2 = some x ∧ (x.encV2 u op).fit 0 := by
  obtain ⟨m, d, a⟩ := x
  simp only [Bool.and_eq_true, decide_eq_true_eq, lenOk, Bool.or_eq_true, bne_iff_ne, beq_iff_eq] at h
  have la := a.litWords_le
  constructor
  · simp [Raw.decV2, Op2.encV2, dReg, dUnused, Fld.unused, Fld.off, Fld.codeIf, Fld.reg, Opnd.only_addr, Opnd.only_some, Opnd.toV_vSrc, Opnd.toU_uSrc, h]
  · simp [Raw.decV2, Op2.encV2, Raw.fit, Fld.ok_code, Fld.ok_lit32, Fld.trailer_code, Fld.trailer_lit32, Opnd.toV_ok_addr, Opnd.toV_ok, Opnd.toU_ok, Opnd.toV_trailer, Opnd.toU_trailer, h, show b01 true = 1 from rfl, show b01 false = 0 from rfl]
    try omega
theorem shape2 (u : Bool) (op : Nat) (x : CmpI) (h : (decide (x.cond < 8) && decide (x.pd < 8) && x.a.vOk && x.c.vOk && lenOk 0 x.a x.c) = true) :
    (x.encVCMP u op).decVCMP 8 = some x ∧ (x.encVCMP u op).fit 0 := by
  obtain ⟨m, cond, pd, a, c⟩ := x
  simp only [Bool.and_eq_true, decide_eq_true_eq, lenOk, Bool.or_eq_true, bne_iff_ne, beq_iff_eq] at h
  have la := a.litWords_le
  have lc := c.litWords_le
  have dv := div8 cond pd (by omega)
  constructor
  · simp [Raw.decVCMP, CmpI.encVCMP, dReg, dUnused, Fld.unused, Fld.off, Fld.codeIf, Fld.reg, Opnd.only_addr, Opnd.only_some, Opnd.toV_vSrc, Opnd.toU_uSrc, h, dv, show 8 * cond + pd < 128 by omega]
  · simp [Raw.decVCMP, CmpI.encVCMP, Raw.fit, Fld.ok_code, Fld.ok_lit32, Fld.trailer_code, Fld.trailer_lit32, Opnd.toV_ok_addr, Opnd.toV_ok, Opnd.toU_ok, Opnd.toV_trailer, Opnd.toU_trailer, h, show b01 true = 1 from rfl, show b01 false = 0 from rfl]
    try omega
theorem shape3 (u : Bool) (op : Nat) (x : Op3) (h : (decide (x.d < 64) && x.a.uOk && x.c.uOk && lenOk 0 x.a x.c) = true) :
    (x.encU3 u op).decU3 = some x ∧ (x.encU3 u op).fit 0 := by
  obtain ⟨m, d, a, c⟩ := x
  simp only [Bool.and_eq_true, decide_eq_true_eq, lenOk, Bool.or_eq_true, bne_iff_ne, beq_iff_eq] at h
  have la := a.litWords_le
  have lc := c.litWords_le
  constructor
  · simp [Raw.decU3, Op3.encU3, dReg, dUnused, Fld.unused, Fld.off, Fld.codeIf, Fld.reg, Opnd.only_addr, Opnd.only_some, Opnd.toV_vSrc, Opnd.toU_uSrc, h]
  · simp [Raw.decU3, Op3.encU3, Raw.fit, Fld.ok_code, Fld.ok_lit32, Fld.trailer_code, Fld.trailer_lit32, Opnd.toV_ok_addr, Opnd.toV_ok, Opnd.toU_ok, Opnd.toV_trailer, Opnd.toU_trailer, h, show b01 true = 1 from rfl, show b01 false = 0 from rfl]
    try omega
theorem shape4 (u : Bool) (op : Nat) (x : Op2) (h : (decide (x.d < 64) && x.a.uOk) = true) :
    (x.encU2 u op).decU2 = some x ∧ (x.encU2 u op).fit 0 := by
  obtain ⟨m, d, a⟩ := x
  simp only [Bool.and_eq_true, decide_eq_true_eq, lenOk, Bool.or_eq_true, bne_iff_ne, beq_iff_eq] at h
  have la := a.litWords_le
  constructor
  · simp [Raw.decU2, Op2.encU2, dReg, dUnused, Fld.unused, Fld.off, Fld.codeIf, Fld.reg, Opnd.only_addr, Opnd.only_some, Opnd.toV_vSrc, Opnd.toU_uSrc, h]
  · simp [Raw.decU2, Op2.encU2, Raw.fit, Fld.ok_code, Fld.ok_lit32, Fld.trailer_code, Fld.trailer_lit32, Opnd.toV_ok_addr, Opnd.toV_ok, Opnd.toU_ok, Opnd.toV_trailer, Opnd.toU_trailer, h, show b01 true = 1 from rfl, show b01 false = 0 from rfl]
    try omega
theorem shape5 (u : Bool) (op : Nat) (x : CmpI) (h : (decide (x.cond < 8) && decide (x.pd < 8) && x.a.uOk && x.c.uOk && lenOk 0 x.a x.c) = true) :
    (x.encUCMP u op).decUCMP 8 = some x ∧ (x.encUCMP u op).fit 0 := by
  obtain ⟨m, cond, pd, a, c⟩ := x
  simp only [Bool.and_eq_true, decide_eq_true_eq, lenOk, Bool.or_eq_true, bne_iff_ne, beq_iff_eq] at h
  have la := a.litWords_le
  have lc := c.litWords_le
  have dv := div8 cond pd (by omega)
  constructor
  · simp [Raw.decUCMP, CmpI.encUCMP, dReg, dUnused, Fld.unused, Fld.off, Fld.codeIf, Fld.reg, Opnd.only_addr, Opnd.only_some, Opnd.toV_vSrc, Opnd.toU_uSrc, h, dv, show 8 * cond + pd < 128 by omega]
  · simp [Raw.decUCMP, CmpI.encUCMP, Raw.fit, Fld.ok_code, Fld.ok_lit32, Fld.trailer_code, Fld.trailer_lit32, Opnd.toV_ok_addr, Opnd.toV_ok, Opnd.toU_ok, Opnd.toV_trailer, Opnd.toU_trailer, h, show b01 true = 1 from rfl, show b01 false = 0 from rfl]
    try omega
theorem shape6 (u : Bool) (op : Nat) (x : CmpI) (h : (decide (x.cond < 13) && decide (x.pd < 8) && x.a.vOk && x.c.vOk && lenOk 0 x.a x.c) = true) :
    (x.encVCMP u op).decVCMP 13 = some x ∧ (x.encVCMP u op).fit 0 := by
  obtain ⟨m, cond, pd, a, c⟩ := x
  simp only [Bool.and_eq_true, decide_eq_true_eq, lenOk, Bool.or_eq_true, bne_iff_ne, beq_iff_eq] at h
  have la := a.litWords_le
  have lc := c.litWords_le
  have dv := div8 cond pd (by omega)
  constructor
  · simp [Raw.decVCMP, CmpI.encVCMP, dReg, dUnused, Fld.unused, Fld.off, Fld.codeIf, Fld.reg, Opnd.only_addr, Opnd.only_some, Opnd.toV_vSrc, Opnd.toU_uSrc, h, dv, show 8 * cond + pd < 128 by omega]
  · simp [Raw.decVCMP, CmpI.encVCMP, Raw.fit, Fld.ok_code, Fld.ok_lit32, Fld.trailer_code, Fld.trailer_lit32, Opnd.toV_ok_addr, Opnd.toV_ok, Opnd.toU_ok, Opnd.toV_trailer, Opnd.toU_trailer, h, show b01 true = 1 from rfl, show b01 false = 0 from rfl]
    try omega
theorem shape7 (u : Bool) (op : Nat) (x : OpCode) (h : (decide (x.d < 96) && x.a.vOk && cvtCodeOk x.code) = true) :
    (x.encVCODE u op).decVCODE cvtCodeOk = some x ∧ (x.encVCODE u op).fit 0 := by
  obtain ⟨m, d, a, code⟩ := x
  simp only [Bool.and_eq_true, decide_eq_true_eq, lenOk, Bool.or_eq_true, bne_iff_ne, beq_iff_eq] at h
  have la := a.litWords_le
  have hc := cvtCode_lt (n := code) (by simp [h])
  constructor
  · simp [Raw.decVCODE, OpCode.encVCODE, dReg, dUnused, Fld.unused, Fld.off, Fld.codeIf, Fld.reg, Opnd.only_addr, Opnd.only_some, Opnd.toV_vSrc, Opnd.toU_uSrc, h]
  · simp [Raw.decVCODE, OpCode.encVCODE, Raw.fit, Fld.ok_code, Fld.ok_lit32, Fld.trailer_code, Fld.trailer_lit32, Opnd.toV_ok_addr, Opnd.toV_ok, Opnd.toU_ok, Opnd.toV_trailer, Opnd.toU_trailer, h, show b01 true = 1 from rfl, show b01 false = 0 from rfl]
    try omega
theorem shape8 (u : Bool) (op : Nat) (x : OpCode) (h : (decide (x.d < 96) && x.a.vOk && n8CodeOk x.code) = true) :
    (x.encVCODE u op).decVCODE n8CodeOk = some x ∧ (x.encVCODE u op).fit 0 := by
  obtain ⟨m, d, a, code⟩ := x
  simp only [Bool.and_eq_true, decide_eq_true_eq, lenOk, Bool.or_eq_true, bne_iff_ne, beq_iff_eq] at h
  have la := a.litWords_le
  have hc := n8Code_lt (n := code) (by simp [h])
  constructor
  · simp [Raw.decVCODE, OpCode.encVCODE, dReg, dUnused, Fld.unused, Fld.off, Fld.codeIf, Fld.reg, Opnd.only_addr, Opnd.only_some, Opnd.toV_vSrc, Opnd.toU_uSrc, h]
  · simp [Raw.decVCODE, OpCode.encVCODE, Raw.fit, Fld.ok_code, Fld.ok_lit32, Fld.trailer_code, Fld.trailer_lit32, Opnd.toV_ok_addr, Opnd.toV_ok, Opnd.toU_ok, Opnd.toV_trailer, Opnd.toU_trailer, h, show b01 true = 1 from rfl, show b01 false = 0 from rfl]
    try omega
theorem shape9 (u : Bool) (op : Nat) (x : Rr) (h : (decide (x.d < 96) && decide (x.a < 96)) = true) :
    (x.encVRR u op).decVRR = some x ∧ (x.encVRR u op).fit 0 := by
  obtain ⟨m, d, a⟩ := x
  simp only [Bool.and_eq_true, decide_eq_true_eq, lenOk, Bool.or_eq_true, bne_iff_ne, beq_iff_eq] at h
  constructor
  · simp [Raw.decVRR, Rr.encVRR, dReg, dUnused, Fld.unused, Fld.off, Fld.codeIf, Fld.reg, Opnd.only_addr, Opnd.only_some, Opnd.toV_vSrc, Opnd.toU_uSrc, h]
  · simp [Raw.decVRR, Rr.encVRR, Raw.fit, Fld.ok_code, Fld.ok_lit32, Fld.trailer_code, Fld.trailer_lit32, Opnd.toV_ok_addr, Opnd.toV_ok, Opnd.toU_ok, Opnd.toV_trailer, Opnd.toU_trailer, h, show b01 true = 1 from rfl, show b01 false = 0 from rfl]
    try omega
theorem shape10 (u : Bool) (op : Nat) (x : OpCode) (h : (decide (x.d < 96) && x.a.vOk && mxCodeOk x.code) = true) :
    (x.encVCODE u op).decVCODE mxCodeOk = some x ∧ (x.encVCODE u op).fit 0 := by
  obtain ⟨m, d, a, code⟩ := x
  simp only [Bool.and_eq_true, decide_eq_true_eq, lenOk, Bool.or_eq_true, bne_iff_ne, beq_iff_eq] at h
  have la := a.litWords_le
  have hc := mxCode_lt (n := code) (by simp [h])
  constructor
  · simp [Raw.decVCODE, OpCode.encVCODE, dReg, dUnused, Fld.unused, Fld.off, Fld.codeIf, Fld.reg, Opnd.only_addr, Opnd.only_some, Opnd.toV_vSrc, Opnd.toU_uSrc, h]
  · simp [Raw.decVCODE, OpCode.encVCODE, Raw.fit, Fld.ok_code, Fld.ok_lit32, Fld.trailer_code, Fld.trailer_lit32, Opnd.toV_ok_addr, Opnd.toV_ok, Opnd.toU_ok, Opnd.toV_trailer, Opnd.toU_trailer, h, show b01 true = 1 from rfl, show b01 false = 0 from rfl]
    try omega
theorem shape11 (u : Bool) (op : Nat) (x : Op1) (h : (x.a.vOk) = true) :
    (x.encVA1 u op).decVA1 = some x ∧ (x.encVA1 u op).fit 0 := by
  obtain ⟨m, a⟩ := x
  simp only [Bool.and_eq_true, decide_eq_true_eq, lenOk, Bool.or_eq_true, bne_iff_ne, beq_iff_eq] at h
  have la := a.litWords_le
  constructor
  · simp [Raw.decVA1, Op1.encVA1, dReg, dUnused, Fld.unused, Fld.off, Fld.codeIf, Fld.reg, Opnd.only_addr, Opnd.only_some, Opnd.toV_vSrc, Opnd.toU_uSrc, h]
  · simp [Raw.decVA1, Op1.encVA1, Raw.fit, Fld.ok_code, Fld.ok_lit32, Fld.trailer_code, Fld.trailer_lit32, Opnd.toV_ok_addr, Opnd.toV_ok, Opnd.toU_ok, Opnd.toV_trailer, Opnd.toU_trailer, h, show b01 true = 1 from rfl, show b01 false = 0 from rfl]
    try omega
theorem shape12 (u : Bool) (op : Nat) (x : Load) (h : (decide (x.d < 96) && x.a.addrOk && x.acc.okLoad false) = true) :
    (x.encVLD u op).decVLD false = some x ∧ (x.encVLD u op).fit 0 := by
  obtain ⟨m, d, a, acc⟩ := x
  simp only [Bool.and_eq_true, decide_eq_true_eq, lenOk, Bool.or_eq_true, bne_iff_ne, beq_iff_eq] at h
  have la := a.litWords_le
  have h1 : acc.okLoad false = true := by simp [h]
  have h2 := Access.enc_lt h1
  have h3 := accLoad_enc h1
  constructor
  · simp [Raw.decVLD, Load.encVLD, dReg, dUnused, Fld.unused, Fld.off, Fld.codeIf, Fld.reg, Opnd.only_addr, Opnd.only_some, Opnd.toV_vSrc, Opnd.toU_uSrc, h, h3]
  · simp [Raw.decVLD, Load.encVLD, Raw.fit, Fld.ok_code, Fld.ok_lit32, Fld.trailer_code, Fld.trailer_lit32, Opnd.toV_ok_addr, Opnd.toV_ok, Opnd.toU_ok, Opnd.toV_trailer, Opnd.toU_trailer, h, show b01 true = 1 from rfl, show b01 false = 0 from rfl]
    try omega
theorem shape13 (u : Bool) (op : Nat) (x : Store) (h : (x.a.addrOk && x.c.vOk && x.acc.okStore false && lenOk 0 x.a x.c) = true) :
    (x.encVST u op).decVST false = some x ∧ (x.encVST u op).fit 0 := by
  obtain ⟨m, a, c, acc⟩ := x
  simp only [Bool.and_eq_true, decide_eq_true_eq, lenOk, Bool.or_eq_true, bne_iff_ne, beq_iff_eq] at h
  have la := a.litWords_le
  have lc := c.litWords_le
  have h1 : acc.okStore false = true := by simp [h]
  have h2 := Access.enc_lt (okStore_load h1)
  have h3 := dAccStore_enc h1
  constructor
  · simp [Raw.decVST, Store.encVST, dReg, dUnused, Fld.unused, Fld.off, Fld.codeIf, Fld.reg, Opnd.only_addr, Opnd.only_some, Opnd.toV_vSrc, Opnd.toU_uSrc, h, h3]
  · simp [Raw.decVST, Store.encVST, Raw.fit, Fld.ok_code, Fld.ok_lit32, Fld.trailer_code, Fld.trailer_lit32, Opnd.toV_ok_addr, Opnd.toV_ok, Opnd.toU_ok, Opnd.toV_trailer, Opnd.toU_trailer, h, show b01 true = 1 from rfl, show b01 false = 0 from rfl]
    try omega
theorem shape14 (u : Bool) (op : Nat) (x : Load) (h : (decide (x.d < 96) && x.a.vOk && x.a.noLit64 && x.acc.okLoad false) = true) :
    (x.encVLDL u op).decVLDL = some x ∧ (x.encVLDL u op).fit 0 := by
  obtain ⟨m, d, a, acc⟩ := x
  simp only [Bool.and_eq_true, decide_eq_true_eq, lenOk, Bool.or_eq_true, bne_iff_ne, beq_iff_eq] at h
  have la := a.litWords_le
  have h1 : acc.okLoad false = true := by simp [h]
  have h2 := Access.enc_lt h1
  have h3 := accLoad_enc h1
  have na := noLit64_le a (by simp [h])
  constructor
  · simp [Raw.decVLDL, Load.encVLDL, dReg, dUnused, Fld.unused, Fld.off, Fld.codeIf, Fld.reg, Opnd.only_addr, Opnd.only_some, Opnd.toV_vSrc, Opnd.toU_uSrc, h, h3]
  · simp [Raw.decVLDL, Load.encVLDL, Raw.fit, Fld.ok_code, Fld.ok_lit32, Fld.trailer_code, Fld.trailer_lit32, Opnd.toV_ok_addr, Opnd.toV_ok, Opnd.toU_ok, Opnd.toV_trailer, Opnd.toU_trailer, h, show b01 true = 1 from rfl, show b01 false = 0 from rfl]
    try omega
theorem shape15 (u : Bool) (op : Nat) (x : Store) (h : (x.a.vOk && x.a.noLit64 && x.c.vOk && x.acc.okStore false && lenOk 0 x.a x.c) = true) :
    (x.encVSTL u op).decVSTL = some x ∧ (x.encVSTL u op).fit 0 := by
  obtain ⟨m, a, c, acc⟩ := x
  simp only [Bool.and_eq_true, decide_eq_true_eq, lenOk, Bool.or_eq_true, bne_iff_ne, beq_iff_eq] at h
  have la := a.litWords_le
  have lc := c.litWords_le
  have h1 : acc.okStore false = true := by simp [h]
  have h2 := Access.enc_lt (okStore_load h1)
  have h3 := dAccStore_enc h1
  have na := noLit64_le a (by simp [h])
  constructor
  · simp [Raw.decVSTL, Store.encVSTL, dReg, dUnused, Fld.unused, Fld.off, Fld.codeIf, Fld.reg, Opnd.only_addr, Opnd.only_some, Opnd.toV_vSrc, Opnd.toU_uSrc, h, h3]
  · simp [Raw.decVSTL, Store.encVSTL, Raw.fit, Fld.ok_code, Fld.ok_lit32, Fld.trailer_code, Fld.trailer_lit32, Opnd.toV_ok_addr, Opnd.toV_ok, Opnd.toU_ok, Opnd.toV_trailer, Opnd.toU_trailer, h, show b01 true = 1 from rfl, show b01 false = 0 from rfl]
    try omega
theorem shape16 (u : Bool) (op : Nat) (x : Op2) (h : (decide (x.d < 96) && x.a.vOk && x.a.noLit64) = true) :
    (x.encVLDL4 u op).decVLDL4 = some x ∧ (x.encVLDL4 u op).fit 0 := by
  obtain ⟨m, d, a⟩ := x
  simp only [Bool.and_eq_true, decide_eq_true_eq, lenOk, Bool.or_eq_true, bne_iff_ne, beq_iff_eq] at h
  have la := a.litWords_le
  have na := noLit64_le a (by simp [h])
  constructor
  · simp [Raw.decVLDL4, Op2.encVLDL4, dReg, dUnused, Fld.unused, Fld.off, Fld.codeIf, Fld.reg, Opnd.only_addr, Opnd.only_some, Opnd.toV_vSrc, Opnd.toU_uSrc, h]
  · simp [Raw.decVLDL4, Op2.encVLDL4, Raw.fit, Fld.ok_code, Fld.ok_lit32, Fld.trailer_code, Fld.trailer_lit32, Opnd.toV_ok_addr, Opnd.toV_ok, Opnd.toU_ok, Opnd.toV_trailer, Opnd.toU_trailer, h, show b01 true = 1 from rfl, show b01 false = 0 from rfl]
    try omega
theorem shape17 (u : Bool) (op : Nat) (x : OpReg) (h : (x.a.vOk && x.a.noLit64 && decide (x.c < 96)) = true) :
    (x.encVSTL4 u op).decVSTL4 = some x ∧ (x.encVSTL4 u op).fit 0 := by
  obtain ⟨m, a, c⟩ := x
  simp only [Bool.and_eq_true, decide_eq_true_eq, lenOk, Bool.or_eq_true, bne_iff_ne, beq_iff_eq] at h
  have la := a.litWords_le
  have na := noLit64_le a (by simp [h])
  constructor
  · simp [Raw.decVSTL4, OpReg.encVSTL4, dReg, dUnused, Fld.unused, Fld.off, Fld.codeIf, Fld.reg, Opnd.only_addr, Opnd.only_some, Opnd.toV_vSrc, Opnd.toU_uSrc, h]
  · simp [Raw.decVSTL4, OpReg.encVSTL4, Raw.fit, Fld.ok_code, Fld.ok_lit32, Fld.trailer_code, Fld.trailer_lit32, Opnd.toV_ok_addr, Opnd.toV_ok, Opnd.toU_ok, Opnd.toV_trailer, Opnd.toU_trailer, h, show b01 true = 1 from rfl, show b01 false = 0 from rfl]
    try omega
theorem shape18 (u : Bool) (op : Nat) (x : Gath) (h : (decide (x.d < 96) && decide (x.base < 16) && x.c.vOk && x.c.noLit64) = true) :
    (x.encVG u op).decVG = some x ∧ (x.encVG u op).fit 0 := by
  obtain ⟨m, d, base, c⟩ := x
  simp only [Bool.and_eq_true, decide_eq_true_eq, lenOk, Bool.or_eq_true, bne_iff_ne, beq_iff_eq] at h
  have lc := c.litWords_le
  have nc := noLit64_le c (by simp [h])
  constructor
  · simp [Raw.decVG, Gath.encVG, dReg, dUnused, Fld.unused, Fld.off, Fld.codeIf, Fld.reg, Opnd.only_addr, Opnd.only_some, Opnd.toV_vSrc, Opnd.toU_uSrc, h, Fld.vg, show 96 + base < 112 by omega]
  · simp [Raw.decVG, Gath.encVG, Raw.fit, Fld.ok_code, Fld.ok_lit32, Fld.trailer_code, Fld.trailer_lit32, Opnd.toV_ok_addr, Opnd.toV_ok, Opnd.toU_ok, Opnd.toV_trailer, Opnd.toU_trailer, h, show b01 true = 1 from rfl, show b01 false = 0 from rfl]
    try omega
theorem shape19 (u : Bool) (op : Nat) (x : Load) (h : (decide (x.d < 96) && x.a.addrOk && x.acc.okLoad true) = true) :
    (x.encVLD u op).decVLD true = some x ∧ (x.encVLD u op).fit 0 := by
  obtain ⟨m, d, a, acc⟩ := x
  simp only [Bool.and_eq_true, decide_eq_true_eq, lenOk, Bool.or_eq_true, bne_iff_ne, beq_iff_eq] at h
  have la := a.litWords_le
  have h1 : acc.okLoad true = true := by simp [h]
  have h2 := Access.enc_lt h1
  have h3 := accLoad_enc h1
  constructor
  · simp [Raw.decVLD, Load.encVLD, dReg, dUnused, Fld.unused, Fld.off, Fld.codeIf, Fld.reg, Opnd.only_addr, Opnd.only_some, Opnd.toV_vSrc, Opnd.toU_uSrc, h, h3]
  · simp [Raw.decVLD, Load.encVLD, Raw.fit, Fld.ok_code, Fld.ok_lit32, Fld.trailer_code, Fld.trailer_lit32, Opnd.toV_ok_addr, Opnd.toV_ok, Opnd.toU_ok, Opnd.toV_trailer, Opnd.toU_trailer, h, show b01 true = 1 from rfl, show b01 false = 0 from rfl]
    try omega
theorem shape20 (u : Bool) (op : Nat) (x : Store) (h : (x.a.addrOk && x.c.vOk && x.acc.okStore true && lenOk 0 x.a x.c) = true) :
    (x.encVST u op).decVST true = some x ∧ (x.encVST u op).fit 0 := by
  obtain ⟨m, a, c, acc⟩ := x
  simp only [Bool.and_eq_true, decide_eq_true_eq, lenOk, Bool.or_eq_true, bne_iff_ne, beq_iff_eq] at h
  have la := a.litWords_le
  have lc := c.litWords_le
  have h1 : acc.okStore true = true := by simp [h]
  have h2 := Access.enc_lt (okStore_load h1)
  have h3 := dAccStore_enc h1
  constructor
  · simp [Raw.decVST, Store.encVST, dReg, dUnused, Fld.unused, Fld.off, Fld.codeIf, Fld.reg, Opnd.only_addr, Opnd.only_some, Opnd.toV_vSrc, Opnd.toU_uSrc, h, h3]
  · simp [Raw.decVST, Store.encVST, Raw.fit, Fld.ok_code, Fld.ok_lit32, Fld.trailer_code, Fld.trailer_lit32, Opnd.toV_ok_addr, Opnd.toV_ok, Opnd.toU_ok, Opnd.toV_trailer, Opnd.toU_trailer, h, show b01 true = 1 from rfl, show b01 false = 0 from rfl]
    try omega
theorem shape21 (u : Bool) (op : Nat) (x : Op1) (h : (x.a.addrOk) = true) :
    (x.encVADR1 u op).decVADR1 = some x ∧ (x.encVADR1 u op).fit 0 := by
  obtain ⟨m, a⟩ := x
  simp only [Bool.and_eq_true, decide_eq_true_eq, lenOk, Bool.or_eq_true, bne_iff_ne, beq_iff_eq] at h
  have la := a.litWords_le
  constructor
  · simp [Raw.decVADR1, Op1.encVADR1, dReg, dUnused, Fld.unused, Fld.off, Fld.codeIf, Fld.reg, Opnd.only_addr, Opnd.only_some, Opnd.toV_vSrc, Opnd.toU_uSrc, h]
  · simp [Raw.decVADR1, Op1.encVADR1, Raw.fit, Fld.ok_code, Fld.ok_lit32, Fld.trailer_code, Fld.trailer_lit32, Opnd.toV_ok_addr, Opnd.toV_ok, Opnd.toU_ok, Opnd.toV_trailer, Opnd.toU_trailer, h, show b01 true = 1 from rfl, show b01 false = 0 from rfl]
    try omega
theorem shape22 (u : Bool) (op : Nat) (x : AtomI) (h : (decide (x.d < 96) && x.a.addrOk && x.c.vOk && x.ctl.ok && lenOk 1 x.a x.c) = true) :
    (x.encVATOM u op).decVATOM AtomCtl.ok = some x ∧ (x.encVATOM u op).fit 1 := by
  obtain ⟨m, d, a, c, ctl⟩ := x
  simp only [Bool.and_eq_true, decide_eq_true_eq, lenOk, Bool.or_eq_true, bne_iff_ne, beq_iff_eq] at h
  have la := a.litWords_le
  have lc := c.litWords_le
  have hk := AtomCtl.dec_enc AtomCtl.ok ctl (by simp [h]) (by simp [h])
  constructor
  · simp [Raw.decVATOM, AtomI.encVATOM, dReg, dUnused, Fld.unused, Fld.off, Fld.codeIf, Fld.reg, Opnd.only_addr, Opnd.only_some, Opnd.toV_vSrc, Opnd.toU_uSrc, h, hk]
  · simp [Raw.decVATOM, AtomI.encVATOM, Raw.fit, Fld.ok_code, Fld.ok_lit32, Fld.trailer_code, Fld.trailer_lit32, Opnd.toV_ok_addr, Opnd.toV_ok, Opnd.toU_ok, Opnd.toV_trailer, Opnd.toU_trailer, h, show b01 true = 1 from rfl, show b01 false = 0 from rfl]
    try omega
theorem shape23 (u : Bool) (op : Nat) (x : RedI) (h : (x.a.addrOk && x.c.vOk && x.ctl.okRed && lenOk 1 x.a x.c) = true) :
    (x.encVRED u op).decVRED = some x ∧ (x.encVRED u op).fit 1 := by
  obtain ⟨m, a, c, ctl⟩ := x
  simp only [Bool.and_eq_true, decide_eq_true_eq, lenOk, Bool.or_eq_true, bne_iff_ne, beq_iff_eq] at h
  have la := a.litWords_le
  have lc := c.litWords_le
  have hk := AtomCtl.dec_enc AtomCtl.okRed ctl (okRed_ok (by simp [h])) (by simp [h])
  constructor
  · simp [Raw.decVRED, RedI.encVRED, dReg, dUnused, Fld.unused, Fld.off, Fld.codeIf, Fld.reg, Opnd.only_addr, Opnd.only_some, Opnd.toV_vSrc, Opnd.toU_uSrc, h, hk]
  · simp [Raw.decVRED, RedI.encVRED, Raw.fit, Fld.ok_code, Fld.ok_lit32, Fld.trailer_code, Fld.trailer_lit32, Opnd.toV_ok_addr, Opnd.toV_ok, Opnd.toU_ok, Opnd.toV_trailer, Opnd.toU_trailer, h, show b01 true = 1 from rfl, show b01 false = 0 from rfl]
    try omega
theorem shape24 (u : Bool) (op : Nat) (x : OpAC) (h : (x.a.vOk && x.c.vOk && lenOk 0 x.a x.c) = true) :
    (x.encVAC u op).decVAC = some x ∧ (x.encVAC u op).fit 0 := by
  obtain ⟨m, a, c⟩ := x
  simp only [Bool.and_eq_true, decide_eq_true_eq, lenOk, Bool.or_eq_true, bne_iff_ne, beq_iff_eq] at h
  have la := a.litWords_le
  have lc := c.litWords_le
  constructor
  · simp [Raw.decVAC, OpAC.encVAC, dReg, dUnused, Fld.unused, Fld.off, Fld.codeIf, Fld.reg, Opnd.only_addr, Opnd.only_some, Opnd.toV_vSrc, Opnd.toU_uSrc, h]
  · simp [Raw.decVAC, OpAC.encVAC, Raw.fit, Fld.ok_code, Fld.ok_lit32, Fld.trailer_code, Fld.trailer_lit32, Opnd.toV_ok_addr, Opnd.toV_ok, Opnd.toU_ok, Opnd.toV_trailer, Opnd.toU_trailer, h, show b01 true = 1 from rfl, show b01 false = 0 from rfl]
    try omega
theorem shape25 (u : Bool) (op : Nat) (x : Rrr) (h : (decide (x.d < 8) && decide (x.a < 8) && decide (x.c < 8)) = true) :
    (x.encPPP u op).decPPP = some x ∧ (x.encPPP u op).fit 0 := by
  obtain ⟨m, d, a, c⟩ := x
  simp only [Bool.and_eq_true, decide_eq_true_eq, lenOk, Bool.or_eq_true, bne_iff_ne, beq_iff_eq] at h
  constructor
  · simp [Raw.decPPP, Rrr.encPPP, dReg, dUnused, Fld.unused, Fld.off, Fld.codeIf, Fld.reg, Opnd.only_addr, Opnd.only_some, Opnd.toV_vSrc, Opnd.toU_uSrc, h]
  · simp [Raw.decPPP, Rrr.encPPP, Raw.fit, Fld.ok_code, Fld.ok_lit32, Fld.trailer_code, Fld.trailer_lit32, Opnd.toV_ok_addr, Opnd.toV_ok, Opnd.toU_ok, Opnd.toV_trailer, Opnd.toU_trailer, h, show b01 true = 1 from rfl, show b01 false = 0 from rfl]
    try omega
theorem shape26 (u : Bool) (op : Nat) (x : Op2) (h : (decide (x.d < 8) && x.a.vOk) = true) :
    (x.encPSET u op).decPSET = some x ∧ (x.encPSET u op).fit 0 := by
  obtain ⟨m, d, a⟩ := x
  simp only [Bool.and_eq_true, decide_eq_true_eq, lenOk, Bool.or_eq_true, bne_iff_ne, beq_iff_eq] at h
  have la := a.litWords_le
  constructor
  · simp [Raw.decPSET, Op2.encPSET, dReg, dUnused, Fld.unused, Fld.off, Fld.codeIf, Fld.reg, Opnd.only_addr, Opnd.only_some, Opnd.toV_vSrc, Opnd.toU_uSrc, h]
  · simp [Raw.decPSET, Op2.encPSET, Raw.fit, Fld.ok_code, Fld.ok_lit32, Fld.trailer_code, Fld.trailer_lit32, Opnd.toV_ok_addr, Opnd.toV_ok, Opnd.toU_ok, Opnd.toV_trailer, Opnd.toU_trailer, h, show b01 true = 1 from rfl, show b01 false = 0 from rfl]
    try omega
theorem shape27 (u : Bool) (op : Nat) (x : Rr) (h : (decide (x.d < 96) && decide (x.a < 8)) = true) :
    (x.encPGET u op).decPGET = some x ∧ (x.encPGET u op).fit 0 := by
  obtain ⟨m, d, a⟩ := x
  simp only [Bool.and_eq_true, decide_eq_true_eq, lenOk, Bool.or_eq_true, bne_iff_ne, beq_iff_eq] at h
  constructor
  · simp [Raw.decPGET, Rr.encPGET, dReg, dUnused, Fld.unused, Fld.off, Fld.codeIf, Fld.reg, Opnd.only_addr, Opnd.only_some, Opnd.toV_vSrc, Opnd.toU_uSrc, h]
  · simp [Raw.decPGET, Rr.encPGET, Raw.fit, Fld.ok_code, Fld.ok_lit32, Fld.trailer_code, Fld.trailer_lit32, Opnd.toV_ok_addr, Opnd.toV_ok, Opnd.toU_ok, Opnd.toV_trailer, Opnd.toU_trailer, h, show b01 true = 1 from rfl, show b01 false = 0 from rfl]
    try omega
theorem shape28 (u : Bool) (op : Nat) (x : CpyI) (h : (decide (x.d < 96) && decide (x.a < 96) && x.a % 2 == 0 && decide (x.c < 92) && (x.ctl.dir != 2 || x.d % 2 == 0) && x.ctl.ok) = true) :
    (x.encCPY u op).decCPY = some x ∧ (x.encCPY u op).fit 1 := by
  obtain ⟨m, d, a, c, ctl⟩ := x
  simp only [Bool.and_eq_true, decide_eq_true_eq, lenOk, Bool.or_eq_true, bne_iff_ne, beq_iff_eq] at h
  have hk := CpyCtl.dec_enc ctl (by simp [h])
  constructor
  · simp [Raw.decCPY, CpyI.encCPY, dReg, dUnused, Fld.unused, Fld.off, Fld.codeIf, Fld.reg, Opnd.only_addr, Opnd.only_some, Opnd.toV_vSrc, Opnd.toU_uSrc, h, hk]
  · simp [Raw.decCPY, CpyI.encCPY, Raw.fit, Fld.ok_code, Fld.ok_lit32, Fld.trailer_code, Fld.trailer_lit32, Opnd.toV_ok_addr, Opnd.toV_ok, Opnd.toU_ok, Opnd.toV_trailer, Opnd.toU_trailer, h, show b01 true = 1 from rfl, show b01 false = 0 from rfl]
    try omega
theorem shape29 (u : Bool) (op : Nat) (x : ACode) (h : (x.a.addrOk && scopeOk x.code) = true) :
    (x.encPUB u op).decPUB = some x ∧ (x.encPUB u op).fit 0 := by
  obtain ⟨m, a, code⟩ := x
  simp only [Bool.and_eq_true, decide_eq_true_eq, lenOk, Bool.or_eq_true, bne_iff_ne, beq_iff_eq] at h
  have la := a.litWords_le
  have hc := scope_lt (n := code) (by simp [h])
  constructor
  · simp [Raw.decPUB, ACode.encPUB, dReg, dUnused, Fld.unused, Fld.off, Fld.codeIf, Fld.reg, Opnd.only_addr, Opnd.only_some, Opnd.toV_vSrc, Opnd.toU_uSrc, h]
  · simp [Raw.decPUB, ACode.encPUB, Raw.fit, Fld.ok_code, Fld.ok_lit32, Fld.trailer_code, Fld.trailer_lit32, Opnd.toV_ok_addr, Opnd.toV_ok, Opnd.toU_ok, Opnd.toV_trailer, Opnd.toU_trailer, h, show b01 true = 1 from rfl, show b01 false = 0 from rfl]
    try omega
theorem shape30 (u : Bool) (op : Nat) (x : MmaI) (h : (decide (x.d < 96) && decide (x.a < 96) && x.a % 2 == 0 && decide (x.c < 96) && x.c % 2 == 0 && x.ctl.ok true) = true) :
    (x.encMMA u op).decMMA = some x ∧ (x.encMMA u op).fit 1 := by
  obtain ⟨m, d, a, c, ctl⟩ := x
  simp only [Bool.and_eq_true, decide_eq_true_eq, lenOk, Bool.or_eq_true, bne_iff_ne, beq_iff_eq] at h
  have hk := MmaCtl.dec_enc true ctl (by simp [h])
  constructor
  · simp [Raw.decMMA, MmaI.encMMA, dReg, dUnused, Fld.unused, Fld.off, Fld.codeIf, Fld.reg, Opnd.only_addr, Opnd.only_some, Opnd.toV_vSrc, Opnd.toU_uSrc, h, hk]
  · simp [Raw.decMMA, MmaI.encMMA, Raw.fit, Fld.ok_code, Fld.ok_lit32, Fld.trailer_code, Fld.trailer_lit32, Opnd.toV_ok_addr, Opnd.toV_ok, Opnd.toU_ok, Opnd.toV_trailer, Opnd.toU_trailer, h, show b01 true = 1 from rfl, show b01 false = 0 from rfl]
    try omega
theorem shape31 (u : Bool) (op : Nat) (x : BraI) :
    (x.encBRA u op).decBRA = some x ∧ (x.encBRA u op).fit 0 := by
  obtain ⟨m, off⟩ := x
  constructor
  · simp [Raw.decBRA, BraI.encBRA, dReg, dUnused, Fld.unused, Fld.off, Fld.codeIf, Fld.reg, Opnd.only_addr, Opnd.only_some, Opnd.toV_vSrc, Opnd.toU_uSrc]
  · simp [Raw.decBRA, BraI.encBRA, Raw.fit, Fld.ok_code, Fld.ok_lit32, Fld.trailer_code, Fld.trailer_lit32, Opnd.toV_ok_addr, Opnd.toV_ok, Opnd.toU_ok, Opnd.toV_trailer, Opnd.toU_trailer, show b01 true = 1 from rfl, show b01 false = 0 from rfl]
    try omega
theorem shape32 (u : Bool) (op : Nat) (x : BrqI) (h : (x.c.uOk && decide (x.c.litWords ≤ 2)) = true) :
    (x.encBRQ u op).decBRQ = some x ∧ (x.encBRQ u op).fit 0 := by
  obtain ⟨m, z, off, c⟩ := x
  simp only [Bool.and_eq_true, decide_eq_true_eq, lenOk, Bool.or_eq_true, bne_iff_ne, beq_iff_eq] at h
  have lc := c.litWords_le
  have hz : b01 z < 2 := b01_lt z
  have hb : (b01 z == 1) = z := b01_beq z
  constructor
  · simp [Raw.decBRQ, BrqI.encBRQ, dReg, dUnused, Fld.unused, Fld.off, Fld.codeIf, Fld.reg, Opnd.only_addr, Opnd.only_some, Opnd.toV_vSrc, Opnd.toU_uSrc, h, hz, hb]
  · simp [Raw.decBRQ, BrqI.encBRQ, Raw.fit, Fld.ok_code, Fld.ok_lit32, Fld.trailer_code, Fld.trailer_lit32, Opnd.toV_ok_addr, Opnd.toV_ok, Opnd.toU_ok, Opnd.toV_trailer, Opnd.toU_trailer, h, show b01 true = 1 from rfl, show b01 false = 0 from rfl]
    try omega
theorem shape33 (u : Bool) (op : Nat) (x : BrvI) (h : (decide (x.p < 8)) = true) :
    (x.encBRV u op).decBRV = some x ∧ (x.encBRV u op).fit 0 := by
  obtain ⟨m, off, p, inv⟩ := x
  simp only [Bool.and_eq_true, decide_eq_true_eq, lenOk, Bool.or_eq_true, bne_iff_ne, beq_iff_eq] at h
  have hz : b01 inv < 2 := b01_lt inv
  have hp : (p + 8 * b01 inv) % 8 = p := by omega
  have hb : bitOf (p + 8 * b01 inv) 3 = inv := bit_lemma _ _ _ (by omega)
  constructor
  · simp [Raw.decBRV, BrvI.encBRV, dReg, dUnused, Fld.unused, Fld.off, Fld.codeIf, Fld.reg, Opnd.only_addr, Opnd.only_some, Opnd.toV_vSrc, Opnd.toU_uSrc, h, show p + 8 * b01 inv < 16 by omega, hp, hb]
  · simp [Raw.decBRV, BrvI.encBRV, Raw.fit, Fld.ok_code, Fld.ok_lit32, Fld.trailer_code, Fld.trailer_lit32, Opnd.toV_ok_addr, Opnd.toV_ok, Opnd.toU_ok, Opnd.toV_trailer, Opnd.toU_trailer, h, show b01 true = 1 from rfl, show b01 false = 0 from rfl]
    try omega
theorem shape34 (u : Bool) (op : Nat) (x : R1) (h : (decide (x.r < 64)) = true) :
    (x.encUG1 u op).decUG1 = some x ∧ (x.encUG1 u op).fit 0 := by
  obtain ⟨m, r⟩ := x
  simp only [Bool.and_eq_true, decide_eq_true_eq, lenOk, Bool.or_eq_true, bne_iff_ne, beq_iff_eq] at h
  constructor
  · simp [Raw.decUG1, R1.encUG1, dReg, dUnused, Fld.unused, Fld.off, Fld.codeIf, Fld.reg, Opnd.only_addr, Opnd.only_some, Opnd.toV_vSrc, Opnd.toU_uSrc, h]
  · simp [Raw.decUG1, R1.encUG1, Raw.fit, Fld.ok_code, Fld.ok_lit32, Fld.trailer_code, Fld.trailer_lit32, Opnd.toV_ok_addr, Opnd.toV_ok, Opnd.toU_ok, Opnd.toV_trailer, Opnd.toU_trailer, h, show b01 true = 1 from rfl, show b01 false = 0 from rfl]
    try omega
theorem shape35 (u : Bool) (op : Nat) (x : CallI) (h : (decide (x.d < 64)) = true) :
    (x.encCALL u op).decCALL = some x ∧ (x.encCALL u op).fit 0 := by
  obtain ⟨m, d, off⟩ := x
  simp only [Bool.and_eq_true, decide_eq_true_eq, lenOk, Bool.or_eq_true, bne_iff_ne, beq_iff_eq] at h
  constructor
  · simp [Raw.decCALL, CallI.encCALL, dReg, dUnused, Fld.unused, Fld.off, Fld.codeIf, Fld.reg, Opnd.only_addr, Opnd.only_some, Opnd.toV_vSrc, Opnd.toU_uSrc, h]
  · simp [Raw.decCALL, CallI.encCALL, Raw.fit, Fld.ok_code, Fld.ok_lit32, Fld.trailer_code, Fld.trailer_lit32, Opnd.toV_ok_addr, Opnd.toV_ok, Opnd.toU_ok, Opnd.toV_trailer, Opnd.toU_trailer, h, show b01 true = 1 from rfl, show b01 false = 0 from rfl]
    try omega
theorem shape36 (u : Bool) (op : Nat) (x : Rr) (h : (decide (x.d < 64) && decide (x.a < 64)) = true) :
    (x.encGG u op).decGG = some x ∧ (x.encGG u op).fit 0 := by
  obtain ⟨m, d, a⟩ := x
  simp only [Bool.and_eq_true, decide_eq_true_eq, lenOk, Bool.or_eq_true, bne_iff_ne, beq_iff_eq] at h
  constructor
  · simp [Raw.decGG, Rr.encGG, dReg, dUnused, Fld.unused, Fld.off, Fld.codeIf, Fld.reg, Opnd.only_addr, Opnd.only_some, Opnd.toV_vSrc, Opnd.toU_uSrc, h]
  · simp [Raw.decGG, Rr.encGG, Raw.fit, Fld.ok_code, Fld.ok_lit32, Fld.trailer_code, Fld.trailer_lit32, Opnd.toV_ok_addr, Opnd.toV_ok, Opnd.toU_ok, Opnd.toV_trailer, Opnd.toU_trailer, h, show b01 true = 1 from rfl, show b01 false = 0 from rfl]
    try omega
theorem shape37 (u : Bool) (op : Nat) (x : Op0) :
    (x.encU0 u op).decU0 = some x ∧ (x.encU0 u op).fit 0 := by
  obtain ⟨m⟩ := x
  constructor
  · simp [Raw.decU0, Op0.encU0, dReg, dUnused, Fld.unused, Fld.off, Fld.codeIf, Fld.reg, Opnd.only_addr, Opnd.only_some, Opnd.toV_vSrc, Opnd.toU_uSrc]
  · simp [Raw.decU0, Op0.encU0, Raw.fit, Fld.ok_code, Fld.ok_lit32, Fld.trailer_code, Fld.trailer_lit32, Opnd.toV_ok_addr, Opnd.toV_ok, Opnd.toU_ok, Opnd.toV_trailer, Opnd.toU_trailer, show b01 true = 1 from rfl, show b01 false = 0 from rfl]
    try omega
theorem shape38 (u : Bool) (op : Nat) (x : Op1) (h : (x.a.uOk) = true) :
    (x.encUA1 u op).decUA1 = some x ∧ (x.encUA1 u op).fit 0 := by
  obtain ⟨m, a⟩ := x
  simp only [Bool.and_eq_true, decide_eq_true_eq, lenOk, Bool.or_eq_true, bne_iff_ne, beq_iff_eq] at h
  have la := a.litWords_le
  constructor
  · simp [Raw.decUA1, Op1.encUA1, dReg, dUnused, Fld.unused, Fld.off, Fld.codeIf, Fld.reg, Opnd.only_addr, Opnd.only_some, Opnd.toV_vSrc, Opnd.toU_uSrc, h]
  · simp [Raw.decUA1, Op1.encUA1, Raw.fit, Fld.ok_code, Fld.ok_lit32, Fld.trailer_code, Fld.trailer_lit32, Opnd.toV_ok_addr, Opnd.toV_ok, Opnd.toU_ok, Opnd.toV_trailer, Opnd.toU_trailer, h, show b01 true = 1 from rfl, show b01 false = 0 from rfl]
    try omega
theorem shape39 (u : Bool) (op : Nat) (x : SpawnI) (h : (x.a.uOk && x.ctl.ok) = true) :
    (x.encSPAWN u op).decSPAWN = some x ∧ (x.encSPAWN u op).fit 1 := by
  obtain ⟨m, a, ctl⟩ := x
  simp only [Bool.and_eq_true, decide_eq_true_eq, lenOk, Bool.or_eq_true, bne_iff_ne, beq_iff_eq] at h
  have la := a.litWords_le
  have hk := SpawnCtl.dec_enc ctl (by simp [h])
  constructor
  · simp [Raw.decSPAWN, SpawnI.encSPAWN, dReg, dUnused, Fld.unused, Fld.off, Fld.codeIf, Fld.reg, Opnd.only_addr, Opnd.only_some, Opnd.toV_vSrc, Opnd.toU_uSrc, h, hk]
  · simp [Raw.decSPAWN, SpawnI.encSPAWN, Raw.fit, Fld.ok_code, Fld.ok_lit32, Fld.trailer_code, Fld.trailer_lit32, Opnd.toV_ok_addr, Opnd.toV_ok, Opnd.toU_ok, Opnd.toV_trailer, Opnd.toU_trailer, h, show b01 true = 1 from rfl, show b01 false = 0 from rfl]
    try omega
theorem shape40 (u : Bool) (op : Nat) (x : ReadLaneI) (h : (decide (x.d < 64) && decide (x.a < 96) && x.c.uOk) = true) :
    (x.encRDL u op).decRDL = some x ∧ (x.encRDL u op).fit 0 := by
  obtain ⟨m, d, a, c⟩ := x
  simp only [Bool.and_eq_true, decide_eq_true_eq, lenOk, Bool.or_eq_true, bne_iff_ne, beq_iff_eq] at h
  have lc := c.litWords_le
  constructor
  · simp [Raw.decRDL, ReadLaneI.encRDL, dReg, dUnused, Fld.unused, Fld.off, Fld.codeIf, Fld.reg, Opnd.only_addr, Opnd.only_some, Opnd.toV_vSrc, Opnd.toU_uSrc, h]
  · simp [Raw.decRDL, ReadLaneI.encRDL, Raw.fit, Fld.ok_code, Fld.ok_lit32, Fld.trailer_code, Fld.trailer_lit32, Opnd.toV_ok_addr, Opnd.toV_ok, Opnd.toU_ok, Opnd.toV_trailer, Opnd.toU_trailer, h, show b01 true = 1 from rfl, show b01 false = 0 from rfl]
    try omega
theorem shape41 (u : Bool) (op : Nat) (x : VoteI) (h : (decide (x.mode < 4) && decide (x.q < 8) && decide (x.p < 8)) = true) :
    (x.encVOTE u op).decVOTE = some x ∧ (x.encVOTE u op).fit 0 := by
  obtain ⟨m, mode, q, p⟩ := x
  simp only [Bool.and_eq_true, decide_eq_true_eq, lenOk, Bool.or_eq_true, bne_iff_ne, beq_iff_eq] at h
  have dv := div8 mode q (by omega)
  constructor
  · simp [Raw.decVOTE, VoteI.encVOTE, dReg, dUnused, Fld.unused, Fld.off, Fld.codeIf, Fld.reg, Opnd.only_addr, Opnd.only_some, Opnd.toV_vSrc, Opnd.toU_uSrc, h, dv, show 8 * mode + q < 32 by omega]
  · simp [Raw.decVOTE, VoteI.encVOTE, Raw.fit, Fld.ok_code, Fld.ok_lit32, Fld.trailer_code, Fld.trailer_lit32, Opnd.toV_ok_addr, Opnd.toV_ok, Opnd.toU_ok, Opnd.toV_trailer, Opnd.toU_trailer, h, show b01 true = 1 from rfl, show b01 false = 0 from rfl]
    try omega
theorem shape42 (u : Bool) (op : Nat) (x : Rr) (h : (decide (x.d < 64) && decide (x.a < 8)) = true) :
    (x.encBALLOT u op).decBALLOT = some x ∧ (x.encBALLOT u op).fit 0 := by
  obtain ⟨m, d, a⟩ := x
  simp only [Bool.and_eq_true, decide_eq_true_eq, lenOk, Bool.or_eq_true, bne_iff_ne, beq_iff_eq] at h
  constructor
  · simp [Raw.decBALLOT, Rr.encBALLOT, dReg, dUnused, Fld.unused, Fld.off, Fld.codeIf, Fld.reg, Opnd.only_addr, Opnd.only_some, Opnd.toV_vSrc, Opnd.toU_uSrc, h]
  · simp [Raw.decBALLOT, Rr.encBALLOT, Raw.fit, Fld.ok_code, Fld.ok_lit32, Fld.trailer_code, Fld.trailer_lit32, Opnd.toV_ok_addr, Opnd.toV_ok, Opnd.toU_ok, Opnd.toV_trailer, Opnd.toU_trailer, h, show b01 true = 1 from rfl, show b01 false = 0 from rfl]
    try omega
theorem shape43 (u : Bool) (op : Nat) (x : R1) (h : (decide (x.r < 64)) = true) :
    (x.encUD1 u op).decUD1 = some x ∧ (x.encUD1 u op).fit 0 := by
  obtain ⟨m, r⟩ := x
  simp only [Bool.and_eq_true, decide_eq_true_eq, lenOk, Bool.or_eq_true, bne_iff_ne, beq_iff_eq] at h
  constructor
  · simp [Raw.decUD1, R1.encUD1, dReg, dUnused, Fld.unused, Fld.off, Fld.codeIf, Fld.reg, Opnd.only_addr, Opnd.only_some, Opnd.toV_vSrc, Opnd.toU_uSrc, h]
  · simp [Raw.decUD1, R1.encUD1, Raw.fit, Fld.ok_code, Fld.ok_lit32, Fld.trailer_code, Fld.trailer_lit32, Opnd.toV_ok_addr, Opnd.toV_ok, Opnd.toU_ok, Opnd.toV_trailer, Opnd.toU_trailer, h, show b01 true = 1 from rfl, show b01 false = 0 from rfl]
    try omega
theorem shape44 (u : Bool) (op : Nat) (x : ACode) (h : (x.a.uOk && decide (x.code < 8)) = true) :
    (x.encUACODE u op).decUACODE (fun n => decide (n < 8)) = some x ∧ (x.encUACODE u op).fit 0 := by
  obtain ⟨m, a, code⟩ := x
  simp only [Bool.and_eq_true, decide_eq_true_eq, lenOk, Bool.or_eq_true, bne_iff_ne, beq_iff_eq] at h
  have la := a.litWords_le
  constructor
  · simp [Raw.decUACODE, ACode.encUACODE, dReg, dUnused, Fld.unused, Fld.off, Fld.codeIf, Fld.reg, Opnd.only_addr, Opnd.only_some, Opnd.toV_vSrc, Opnd.toU_uSrc, h]
  · simp [Raw.decUACODE, ACode.encUACODE, Raw.fit, Fld.ok_code, Fld.ok_lit32, Fld.trailer_code, Fld.trailer_lit32, Opnd.toV_ok_addr, Opnd.toV_ok, Opnd.toU_ok, Opnd.toV_trailer, Opnd.toU_trailer, h, show b01 true = 1 from rfl, show b01 false = 0 from rfl]
    try omega
theorem shape45 (u : Bool) (op : Nat) (x : CodeI) (h : (scopeOk x.code) = true) :
    (x.encUCODE u op).decUCODE scopeOk = some x ∧ (x.encUCODE u op).fit 0 := by
  obtain ⟨m, code⟩ := x
  simp only [Bool.and_eq_true, decide_eq_true_eq, lenOk, Bool.or_eq_true, bne_iff_ne, beq_iff_eq] at h
  have hc := scope_lt (n := code) (by simp [h])
  constructor
  · simp [Raw.decUCODE, CodeI.encUCODE, dReg, dUnused, Fld.unused, Fld.off, Fld.codeIf, Fld.reg, Opnd.only_addr, Opnd.only_some, Opnd.toV_vSrc, Opnd.toU_uSrc, h]
  · simp [Raw.decUCODE, CodeI.encUCODE, Raw.fit, Fld.ok_code, Fld.ok_lit32, Fld.trailer_code, Fld.trailer_lit32, Opnd.toV_ok_addr, Opnd.toV_ok, Opnd.toU_ok, Opnd.toV_trailer, Opnd.toU_trailer, h, show b01 true = 1 from rfl, show b01 false = 0 from rfl]
    try omega
theorem shape46 (u : Bool) (op : Nat) (x : DCode) (h : (decide (x.d < 64) && barCodeOk x.code) = true) :
    (x.encUDCODE u op).decUDCODE barCodeOk = some x ∧ (x.encUDCODE u op).fit 0 := by
  obtain ⟨m, d, code⟩ := x
  simp only [Bool.and_eq_true, decide_eq_true_eq, lenOk, Bool.or_eq_true, bne_iff_ne, beq_iff_eq] at h
  have hc := barCode_lt (n := code) (by simp [h])
  constructor
  · simp [Raw.decUDCODE, DCode.encUDCODE, dReg, dUnused, Fld.unused, Fld.off, Fld.codeIf, Fld.reg, Opnd.only_addr, Opnd.only_some, Opnd.toV_vSrc, Opnd.toU_uSrc, h]
  · simp [Raw.decUDCODE, DCode.encUDCODE, Raw.fit, Fld.ok_code, Fld.ok_lit32, Fld.trailer_code, Fld.trailer_lit32, Opnd.toV_ok_addr, Opnd.toV_ok, Opnd.toU_ok, Opnd.toV_trailer, Opnd.toU_trailer, h, show b01 true = 1 from rfl, show b01 false = 0 from rfl]
    try omega
theorem shape47 (u : Bool) (op : Nat) (x : ACode) (h : (x.a.uOk && barCodeOk x.code) = true) :
    (x.encUACODE u op).decUACODE barCodeOk = some x ∧ (x.encUACODE u op).fit 0 := by
  obtain ⟨m, a, code⟩ := x
  simp only [Bool.and_eq_true, decide_eq_true_eq, lenOk, Bool.or_eq_true, bne_iff_ne, beq_iff_eq] at h
  have la := a.litWords_le
  have hc := barCode_lt (n := code) (by simp [h])
  constructor
  · simp [Raw.decUACODE, ACode.encUACODE, dReg, dUnused, Fld.unused, Fld.off, Fld.codeIf, Fld.reg, Opnd.only_addr, Opnd.only_some, Opnd.toV_vSrc, Opnd.toU_uSrc, h]
  · simp [Raw.decUACODE, ACode.encUACODE, Raw.fit, Fld.ok_code, Fld.ok_lit32, Fld.trailer_code, Fld.trailer_lit32, Opnd.toV_ok_addr, Opnd.toV_ok, Opnd.toU_ok, Opnd.toV_trailer, Opnd.toU_trailer, h, show b01 true = 1 from rfl, show b01 false = 0 from rfl]
    try omega
theorem shape48 (u : Bool) (op : Nat) (x : CodeI) (h : (barCodeOk x.code) = true) :
    (x.encUCODE u op).decUCODE barCodeOk = some x ∧ (x.encUCODE u op).fit 0 := by
  obtain ⟨m, code⟩ := x
  simp only [Bool.and_eq_true, decide_eq_true_eq, lenOk, Bool.or_eq_true, bne_iff_ne, beq_iff_eq] at h
  have hc := barCode_lt (n := code) (by simp [h])
  constructor
  · simp [Raw.decUCODE, CodeI.encUCODE, dReg, dUnused, Fld.unused, Fld.off, Fld.codeIf, Fld.reg, Opnd.only_addr, Opnd.only_some, Opnd.toV_vSrc, Opnd.toU_uSrc, h]
  · simp [Raw.decUCODE, CodeI.encUCODE, Raw.fit, Fld.ok_code, Fld.ok_lit32, Fld.trailer_code, Fld.trailer_lit32, Opnd.toV_ok_addr, Opnd.toV_ok, Opnd.toU_ok, Opnd.toV_trailer, Opnd.toU_trailer, h, show b01 true = 1 from rfl, show b01 false = 0 from rfl]
    try omega
theorem shape49 (u : Bool) (op : Nat) (x : AtomI) (h : (decide (x.d < 64) && x.a.uOk && x.c.uOk && x.ctl.okCtr && lenOk 1 x.a x.c) = true) :
    (x.encUATOM u op).decUATOM AtomCtl.okCtr = some x ∧ (x.encUATOM u op).fit 1 := by
  obtain ⟨m, d, a, c, ctl⟩ := x
  simp only [Bool.and_eq_true, decide_eq_true_eq, lenOk, Bool.or_eq_true, bne_iff_ne, beq_iff_eq] at h
  have la := a.litWords_le
  have lc := c.litWords_le
  have hk := AtomCtl.dec_enc AtomCtl.okCtr ctl (okCtr_ok (by simp [h])) (by simp [h])
  constructor
  · simp [Raw.decUATOM, AtomI.encUATOM, dReg, dUnused, Fld.unused, Fld.off, Fld.codeIf, Fld.reg, Opnd.only_addr, Opnd.only_some, Opnd.toV_vSrc, Opnd.toU_uSrc, h, hk]
  · simp [Raw.decUATOM, AtomI.encUATOM, Raw.fit, Fld.ok_code, Fld.ok_lit32, Fld.trailer_code, Fld.trailer_lit32, Opnd.toV_ok_addr, Opnd.toV_ok, Opnd.toU_ok, Opnd.toV_trailer, Opnd.toU_trailer, h, show b01 true = 1 from rfl, show b01 false = 0 from rfl]
    try omega
theorem shape50 (u : Bool) (op : Nat) (x : CtrWaitI) (h : (scopeOk x.scope && x.a.uOk && x.c.uOk && lenOk 0 x.a x.c) = true) :
    (x.encCTRWAIT u op).decCTRWAIT = some x ∧ (x.encCTRWAIT u op).fit 0 := by
  obtain ⟨m, scope, a, c⟩ := x
  simp only [Bool.and_eq_true, decide_eq_true_eq, lenOk, Bool.or_eq_true, bne_iff_ne, beq_iff_eq] at h
  have la := a.litWords_le
  have lc := c.litWords_le
  have hc := scope_lt (n := scope) (by simp [h])
  constructor
  · simp [Raw.decCTRWAIT, CtrWaitI.encCTRWAIT, dReg, dUnused, Fld.unused, Fld.off, Fld.codeIf, Fld.reg, Opnd.only_addr, Opnd.only_some, Opnd.toV_vSrc, Opnd.toU_uSrc, h, hc]
  · simp [Raw.decCTRWAIT, CtrWaitI.encCTRWAIT, Raw.fit, Fld.ok_code, Fld.ok_lit32, Fld.trailer_code, Fld.trailer_lit32, Opnd.toV_ok_addr, Opnd.toV_ok, Opnd.toU_ok, Opnd.toV_trailer, Opnd.toU_trailer, h, show b01 true = 1 from rfl, show b01 false = 0 from rfl]
    try omega
theorem shape51 (u : Bool) (op : Nat) (x : DCode) (h : (decide (x.d < 64) && srAssigned x.code) = true) :
    (x.encUDCODE u op).decUDCODE srAssigned = some x ∧ (x.encUDCODE u op).fit 0 := by
  obtain ⟨m, d, code⟩ := x
  simp only [Bool.and_eq_true, decide_eq_true_eq, lenOk, Bool.or_eq_true, bne_iff_ne, beq_iff_eq] at h
  have hc := srAssigned_lt (n := code) (by simp [h])
  constructor
  · simp [Raw.decUDCODE, DCode.encUDCODE, dReg, dUnused, Fld.unused, Fld.off, Fld.codeIf, Fld.reg, Opnd.only_addr, Opnd.only_some, Opnd.toV_vSrc, Opnd.toU_uSrc, h]
  · simp [Raw.decUDCODE, DCode.encUDCODE, Raw.fit, Fld.ok_code, Fld.ok_lit32, Fld.trailer_code, Fld.trailer_lit32, Opnd.toV_ok_addr, Opnd.toV_ok, Opnd.toU_ok, Opnd.toV_trailer, Opnd.toU_trailer, h, show b01 true = 1 from rfl, show b01 false = 0 from rfl]
    try omega
theorem shape52 (u : Bool) (op : Nat) (x : ACode) (h : (x.a.uOk && srAssigned x.code) = true) :
    (x.encUACODE u op).decUACODE srAssigned = some x ∧ (x.encUACODE u op).fit 0 := by
  obtain ⟨m, a, code⟩ := x
  simp only [Bool.and_eq_true, decide_eq_true_eq, lenOk, Bool.or_eq_true, bne_iff_ne, beq_iff_eq] at h
  have la := a.litWords_le
  have hc := srAssigned_lt (n := code) (by simp [h])
  constructor
  · simp [Raw.decUACODE, ACode.encUACODE, dReg, dUnused, Fld.unused, Fld.off, Fld.codeIf, Fld.reg, Opnd.only_addr, Opnd.only_some, Opnd.toV_vSrc, Opnd.toU_uSrc, h]
  · simp [Raw.decUACODE, ACode.encUACODE, Raw.fit, Fld.ok_code, Fld.ok_lit32, Fld.trailer_code, Fld.trailer_lit32, Opnd.toV_ok_addr, Opnd.toV_ok, Opnd.toU_ok, Opnd.toV_trailer, Opnd.toU_trailer, h, show b01 true = 1 from rfl, show b01 false = 0 from rfl]
    try omega
theorem shape53 (u : Bool) (op : Nat) (x : Load) (h : (decide (x.d < 64) && x.a.uOk && x.acc.okLoad false) = true) :
    (x.encULD u op).decULD false = some x ∧ (x.encULD u op).fit 0 := by
  obtain ⟨m, d, a, acc⟩ := x
  simp only [Bool.and_eq_true, decide_eq_true_eq, lenOk, Bool.or_eq_true, bne_iff_ne, beq_iff_eq] at h
  have la := a.litWords_le
  have h1 : acc.okLoad false = true := by simp [h]
  have h2 := Access.enc_lt h1
  have h3 := accLoad_enc h1
  constructor
  · simp [Raw.decULD, Load.encULD, dReg, dUnused, Fld.unused, Fld.off, Fld.codeIf, Fld.reg, Opnd.only_addr, Opnd.only_some, Opnd.toV_vSrc, Opnd.toU_uSrc, h, h3]
  · simp [Raw.decULD, Load.encULD, Raw.fit, Fld.ok_code, Fld.ok_lit32, Fld.trailer_code, Fld.trailer_lit32, Opnd.toV_ok_addr, Opnd.toV_ok, Opnd.toU_ok, Opnd.toV_trailer, Opnd.toU_trailer, h, show b01 true = 1 from rfl, show b01 false = 0 from rfl]
    try omega
theorem shape54 (u : Bool) (op : Nat) (x : Store) (h : (x.a.uOk && x.c.uOk && x.acc.okStore false && lenOk 0 x.a x.c) = true) :
    (x.encUST u op).decUST false = some x ∧ (x.encUST u op).fit 0 := by
  obtain ⟨m, a, c, acc⟩ := x
  simp only [Bool.and_eq_true, decide_eq_true_eq, lenOk, Bool.or_eq_true, bne_iff_ne, beq_iff_eq] at h
  have la := a.litWords_le
  have lc := c.litWords_le
  have h1 : acc.okStore false = true := by simp [h]
  have h2 := Access.enc_lt (okStore_load h1)
  have h3 := dAccStore_enc h1
  constructor
  · simp [Raw.decUST, Store.encUST, dReg, dUnused, Fld.unused, Fld.off, Fld.codeIf, Fld.reg, Opnd.only_addr, Opnd.only_some, Opnd.toV_vSrc, Opnd.toU_uSrc, h, h3]
  · simp [Raw.decUST, Store.encUST, Raw.fit, Fld.ok_code, Fld.ok_lit32, Fld.trailer_code, Fld.trailer_lit32, Opnd.toV_ok_addr, Opnd.toV_ok, Opnd.toU_ok, Opnd.toV_trailer, Opnd.toU_trailer, h, show b01 true = 1 from rfl, show b01 false = 0 from rfl]
    try omega
theorem shape55 (u : Bool) (op : Nat) (x : AtomI) (h : (decide (x.d < 64) && x.a.uOk && x.c.uOk && x.ctl.ok && lenOk 1 x.a x.c) = true) :
    (x.encUATOM u op).decUATOM AtomCtl.ok = some x ∧ (x.encUATOM u op).fit 1 := by
  obtain ⟨m, d, a, c, ctl⟩ := x
  simp only [Bool.and_eq_true, decide_eq_true_eq, lenOk, Bool.or_eq_true, bne_iff_ne, beq_iff_eq] at h
  have la := a.litWords_le
  have lc := c.litWords_le
  have hk := AtomCtl.dec_enc AtomCtl.ok ctl (by simp [h]) (by simp [h])
  constructor
  · simp [Raw.decUATOM, AtomI.encUATOM, dReg, dUnused, Fld.unused, Fld.off, Fld.codeIf, Fld.reg, Opnd.only_addr, Opnd.only_some, Opnd.toV_vSrc, Opnd.toU_uSrc, h, hk]
  · simp [Raw.decUATOM, AtomI.encUATOM, Raw.fit, Fld.ok_code, Fld.ok_lit32, Fld.trailer_code, Fld.trailer_lit32, Opnd.toV_ok_addr, Opnd.toV_ok, Opnd.toU_ok, Opnd.toV_trailer, Opnd.toU_trailer, h, show b01 true = 1 from rfl, show b01 false = 0 from rfl]
    try omega
theorem shape56 (u : Bool) (op : Nat) (x : RedI) (h : (x.a.uOk && x.c.uOk && x.ctl.okRed && lenOk 1 x.a x.c) = true) :
    (x.encURED u op).decURED = some x ∧ (x.encURED u op).fit 1 := by
  obtain ⟨m, a, c, ctl⟩ := x
  simp only [Bool.and_eq_true, decide_eq_true_eq, lenOk, Bool.or_eq_true, bne_iff_ne, beq_iff_eq] at h
  have la := a.litWords_le
  have lc := c.litWords_le
  have hk := AtomCtl.dec_enc AtomCtl.okRed ctl (okRed_ok (by simp [h])) (by simp [h])
  constructor
  · simp [Raw.decURED, RedI.encURED, dReg, dUnused, Fld.unused, Fld.off, Fld.codeIf, Fld.reg, Opnd.only_addr, Opnd.only_some, Opnd.toV_vSrc, Opnd.toU_uSrc, h, hk]
  · simp [Raw.decURED, RedI.encURED, Raw.fit, Fld.ok_code, Fld.ok_lit32, Fld.trailer_code, Fld.trailer_lit32, Opnd.toV_ok_addr, Opnd.toV_ok, Opnd.toU_ok, Opnd.toV_trailer, Opnd.toU_trailer, h, show b01 true = 1 from rfl, show b01 false = 0 from rfl]
    try omega
theorem shape57 (u : Bool) (op : Nat) (x : Load) (h : (decide (x.d < 64) && x.a.uOk && x.acc.okLoad true) = true) :
    (x.encULD u op).decULD true = some x ∧ (x.encULD u op).fit 0 := by
  obtain ⟨m, d, a, acc⟩ := x
  simp only [Bool.and_eq_true, decide_eq_true_eq, lenOk, Bool.or_eq_true, bne_iff_ne, beq_iff_eq] at h
  have la := a.litWords_le
  have h1 : acc.okLoad true = true := by simp [h]
  have h2 := Access.enc_lt h1
  have h3 := accLoad_enc h1
  constructor
  · simp [Raw.decULD, Load.encULD, dReg, dUnused, Fld.unused, Fld.off, Fld.codeIf, Fld.reg, Opnd.only_addr, Opnd.only_some, Opnd.toV_vSrc, Opnd.toU_uSrc, h, h3]
  · simp [Raw.decULD, Load.encULD, Raw.fit, Fld.ok_code, Fld.ok_lit32, Fld.trailer_code, Fld.trailer_lit32, Opnd.toV_ok_addr, Opnd.toV_ok, Opnd.toU_ok, Opnd.toV_trailer, Opnd.toU_trailer, h, show b01 true = 1 from rfl, show b01 false = 0 from rfl]
    try omega
theorem shape58 (u : Bool) (op : Nat) (x : Store) (h : (x.a.uOk && x.c.uOk && x.acc.okStore true && lenOk 0 x.a x.c) = true) :
    (x.encUST u op).decUST true = some x ∧ (x.encUST u op).fit 0 := by
  obtain ⟨m, a, c, acc⟩ := x
  simp only [Bool.and_eq_true, decide_eq_true_eq, lenOk, Bool.or_eq_true, bne_iff_ne, beq_iff_eq] at h
  have la := a.litWords_le
  have lc := c.litWords_le
  have h1 : acc.okStore true = true := by simp [h]
  have h2 := Access.enc_lt (okStore_load h1)
  have h3 := dAccStore_enc h1
  constructor
  · simp [Raw.decUST, Store.encUST, dReg, dUnused, Fld.unused, Fld.off, Fld.codeIf, Fld.reg, Opnd.only_addr, Opnd.only_some, Opnd.toV_vSrc, Opnd.toU_uSrc, h, h3]
  · simp [Raw.decUST, Store.encUST, Raw.fit, Fld.ok_code, Fld.ok_lit32, Fld.trailer_code, Fld.trailer_lit32, Opnd.toV_ok_addr, Opnd.toV_ok, Opnd.toU_ok, Opnd.toV_trailer, Opnd.toU_trailer, h, show b01 true = 1 from rfl, show b01 false = 0 from rfl]
    try omega
theorem shape59 (u : Bool) (op : Nat) (x : MmagI) (h : (x.d.uOk && x.d.noLit && x.a.uOk && x.c.uOk && x.ctl.ok false && lenOk 1 x.a x.c) = true) :
    (x.encMMAG u op).decMMAG = some x ∧ (x.encMMAG u op).fit 1 := by
  obtain ⟨m, d, a, c, ctl⟩ := x
  simp only [Bool.and_eq_true, decide_eq_true_eq, lenOk, Bool.or_eq_true, bne_iff_ne, beq_iff_eq] at h
  have ld := d.litWords_le
  have la := a.litWords_le
  have lc := c.litWords_le
  have hk := MmaCtl.dec_enc false ctl (by simp [h])
  have hd := Opnd.toU_code d (by simp [h]) (by simp [h])
  constructor
  · simp [Raw.decMMAG, MmagI.encMMAG, dReg, dUnused, Fld.unused, Fld.off, Fld.codeIf, Fld.reg, Opnd.only_addr, Opnd.only_some, Opnd.toV_vSrc, Opnd.toU_uSrc, h, hk, hd.1]
  · simp [Raw.decMMAG, MmagI.encMMAG, Raw.fit, Fld.ok_code, Fld.ok_lit32, Fld.trailer_code, Fld.trailer_lit32, Opnd.toV_ok_addr, Opnd.toV_ok, Opnd.toU_ok, Opnd.toV_trailer, Opnd.toU_trailer, h, show b01 true = 1 from rfl, show b01 false = 0 from rfl]
    try omega
theorem shape60 (u : Bool) (op : Nat) (x : OpAC) (h : (x.a.uOk && x.c.uOk && lenOk 0 x.a x.c) = true) :
    (x.encUAC u op).decUAC = some x ∧ (x.encUAC u op).fit 0 := by
  obtain ⟨m, a, c⟩ := x
  simp only [Bool.and_eq_true, decide_eq_true_eq, lenOk, Bool.or_eq_true, bne_iff_ne, beq_iff_eq] at h
  have la := a.litWords_le
  have lc := c.litWords_le
  constructor
  · simp [Raw.decUAC, OpAC.encUAC, dReg, dUnused, Fld.unused, Fld.off, Fld.codeIf, Fld.reg, Opnd.only_addr, Opnd.only_some, Opnd.toV_vSrc, Opnd.toU_uSrc, h]
  · simp [Raw.decUAC, OpAC.encUAC, Raw.fit, Fld.ok_code, Fld.ok_lit32, Fld.trailer_code, Fld.trailer_lit32, Opnd.toV_ok_addr, Opnd.toV_ok, Opnd.toU_ok, Opnd.toV_trailer, Opnd.toU_trailer, h, show b01 true = 1 from rfl, show b01 false = 0 from rfl]
    try omega
theorem shape61 (u : Bool) (op : Nat) (x : CodeI) (h : (decide (x.code < 2)) = true) :
    (x.encSLOT u op).decSLOT = some x ∧ (x.encSLOT u op).fit 0 := by
  obtain ⟨m, code⟩ := x
  simp only [Bool.and_eq_true, decide_eq_true_eq, lenOk, Bool.or_eq_true, bne_iff_ne, beq_iff_eq] at h
  constructor
  · simp [Raw.decSLOT, CodeI.encSLOT, dReg, dUnused, Fld.unused, Fld.off, Fld.codeIf, Fld.reg, Opnd.only_addr, Opnd.only_some, Opnd.toV_vSrc, Opnd.toU_uSrc, h]
  · simp [Raw.decSLOT, CodeI.encSLOT, Raw.fit, Fld.ok_code, Fld.ok_lit32, Fld.trailer_code, Fld.trailer_lit32, Opnd.toV_ok_addr, Opnd.toV_ok, Opnd.toU_ok, Opnd.toV_trailer, Opnd.toU_trailer, h, show b01 true = 1 from rfl, show b01 false = 0 from rfl]
    try omega
theorem shape62 (u : Bool) (op : Nat) (x : ACode) (h : (decide (x.code < 2) && x.a.uOk) = true) :
    (x.encSLOTA u op).decSLOTA = some x ∧ (x.encSLOTA u op).fit 0 := by
  obtain ⟨m, a, code⟩ := x
  simp only [Bool.and_eq_true, decide_eq_true_eq, lenOk, Bool.or_eq_true, bne_iff_ne, beq_iff_eq] at h
  have la := a.litWords_le
  constructor
  · simp [Raw.decSLOTA, ACode.encSLOTA, dReg, dUnused, Fld.unused, Fld.off, Fld.codeIf, Fld.reg, Opnd.only_addr, Opnd.only_some, Opnd.toV_vSrc, Opnd.toU_uSrc, h]
  · simp [Raw.decSLOTA, ACode.encSLOTA, Raw.fit, Fld.ok_code, Fld.ok_lit32, Fld.trailer_code, Fld.trailer_lit32, Opnd.toV_ok_addr, Opnd.toV_ok, Opnd.toU_ok, Opnd.toV_trailer, Opnd.toU_trailer, h, show b01 true = 1 from rfl, show b01 false = 0 from rfl]
    try omega
theorem shape63 (u : Bool) (op : Nat) (x : SlotAC) (h : (decide (x.slot < 2) && x.a.uOk && decide (x.c < 63)) = true) :
    (x.encSLOTAC u op).decSLOTAC = some x ∧ (x.encSLOTAC u op).fit 0 := by
  obtain ⟨m, slot, a, c⟩ := x
  simp only [Bool.and_eq_true, decide_eq_true_eq, lenOk, Bool.or_eq_true, bne_iff_ne, beq_iff_eq] at h
  have la := a.litWords_le
  constructor
  · simp [Raw.decSLOTAC, SlotAC.encSLOTAC, dReg, dUnused, Fld.unused, Fld.off, Fld.codeIf, Fld.reg, Opnd.only_addr, Opnd.only_some, Opnd.toV_vSrc, Opnd.toU_uSrc, h]
  · simp [Raw.decSLOTAC, SlotAC.encSLOTAC, Raw.fit, Fld.ok_code, Fld.ok_lit32, Fld.trailer_code, Fld.trailer_lit32, Opnd.toV_ok_addr, Opnd.toV_ok, Opnd.toU_ok, Opnd.toV_trailer, Opnd.toU_trailer, h, show b01 true = 1 from rfl, show b01 false = 0 from rfl]
    try omega
theorem shape64 (u : Bool) (op : Nat) (x : OpReg) (h : (x.a.uOk && decide (x.c < 63)) = true) :
    (x.encUAG u op).decUAG = some x ∧ (x.encUAG u op).fit 0 := by
  obtain ⟨m, a, c⟩ := x
  simp only [Bool.and_eq_true, decide_eq_true_eq, lenOk, Bool.or_eq_true, bne_iff_ne, beq_iff_eq] at h
  have la := a.litWords_le
  constructor
  · simp [Raw.decUAG, OpReg.encUAG, dReg, dUnused, Fld.unused, Fld.off, Fld.codeIf, Fld.reg, Opnd.only_addr, Opnd.only_some, Opnd.toV_vSrc, Opnd.toU_uSrc, h]
  · simp [Raw.decUAG, OpReg.encUAG, Raw.fit, Fld.ok_code, Fld.ok_lit32, Fld.trailer_code, Fld.trailer_lit32, Opnd.toV_ok_addr, Opnd.toV_ok, Opnd.toU_ok, Opnd.toV_trailer, Opnd.toU_trailer, h, show b01 true = 1 from rfl, show b01 false = 0 from rfl]
    try omega
theorem shape65 (u : Bool) (op : Nat) (x : TupI) (h : (decide (x.d < 64) && decide (x.a < 60) && decide (x.c < 64) && x.ctl.ok false) = true) :
    (x.encTUP u op).decTUP 64 false = some x ∧ (x.encTUP u op).fit 1 := by
  obtain ⟨m, d, a, c, ctl⟩ := x
  simp only [Bool.and_eq_true, decide_eq_true_eq, lenOk, Bool.or_eq_true, bne_iff_ne, beq_iff_eq] at h
  have hk := TupCtl.dec_enc false ctl (by simp [h])
  constructor
  · simp [Raw.decTUP, TupI.encTUP, dReg, dUnused, Fld.unused, Fld.off, Fld.codeIf, Fld.reg, Opnd.only_addr, Opnd.only_some, Opnd.toV_vSrc, Opnd.toU_uSrc, h, hk]
  · simp [Raw.decTUP, TupI.encTUP, Raw.fit, Fld.ok_code, Fld.ok_lit32, Fld.trailer_code, Fld.trailer_lit32, Opnd.toV_ok_addr, Opnd.toV_ok, Opnd.toU_ok, Opnd.toV_trailer, Opnd.toU_trailer, h, show b01 true = 1 from rfl, show b01 false = 0 from rfl]
    try omega
theorem shape66 (u : Bool) (op : Nat) (x : TupI) (h : (decide (x.d < 60) && decide (x.a < 60) && decide (x.c < 64) && x.ctl.ok true) = true) :
    (x.encTUP u op).decTUP 60 true = some x ∧ (x.encTUP u op).fit 1 := by
  obtain ⟨m, d, a, c, ctl⟩ := x
  simp only [Bool.and_eq_true, decide_eq_true_eq, lenOk, Bool.or_eq_true, bne_iff_ne, beq_iff_eq] at h
  have hk := TupCtl.dec_enc true ctl (by simp [h])
  constructor
  · simp [Raw.decTUP, TupI.encTUP, dReg, dUnused, Fld.unused, Fld.off, Fld.codeIf, Fld.reg, Opnd.only_addr, Opnd.only_some, Opnd.toV_vSrc, Opnd.toU_uSrc, h, hk]
  · simp [Raw.decTUP, TupI.encTUP, Raw.fit, Fld.ok_code, Fld.ok_lit32, Fld.trailer_code, Fld.trailer_lit32, Opnd.toV_ok_addr, Opnd.toV_ok, Opnd.toU_ok, Opnd.toV_trailer, Opnd.toU_trailer, h, show b01 true = 1 from rfl, show b01 false = 0 from rfl]
    try omega
theorem shape67 (u : Bool) (op : Nat) (x : TcanI) (h : (decide (x.d < 64) && decide (x.c < 64) && x.ctl.ok false) = true) :
    (x.encTCAN u op).decTCAN = some x ∧ (x.encTCAN u op).fit 1 := by
  obtain ⟨m, d, c, ctl⟩ := x
  simp only [Bool.and_eq_true, decide_eq_true_eq, lenOk, Bool.or_eq_true, bne_iff_ne, beq_iff_eq] at h
  have hk := TupCtl.dec_enc false ctl (by simp [h])
  constructor
  · simp [Raw.decTCAN, TcanI.encTCAN, dReg, dUnused, Fld.unused, Fld.off, Fld.codeIf, Fld.reg, Opnd.only_addr, Opnd.only_some, Opnd.toV_vSrc, Opnd.toU_uSrc, h, hk]
  · simp [Raw.decTCAN, TcanI.encTCAN, Raw.fit, Fld.ok_code, Fld.ok_lit32, Fld.trailer_code, Fld.trailer_lit32, Opnd.toV_ok_addr, Opnd.toV_ok, Opnd.toU_ok, Opnd.toV_trailer, Opnd.toU_trailer, h, show b01 true = 1 from rfl, show b01 false = 0 from rfl]
    try omega
theorem shape68 (u : Bool) (op : Nat) (x : Rrr) (h : (decide (x.d < 64) && decide (x.a < 64) && decide (x.c < 64)) = true) :
    (x.encGGG u op).decGGG 64 64 64 = some x ∧ (x.encGGG u op).fit 0 := by
  obtain ⟨m, d, a, c⟩ := x
  simp only [Bool.and_eq_true, decide_eq_true_eq, lenOk, Bool.or_eq_true, bne_iff_ne, beq_iff_eq] at h
  constructor
  · simp [Raw.decGGG, Rrr.encGGG, dReg, dUnused, Fld.unused, Fld.off, Fld.codeIf, Fld.reg, Opnd.only_addr, Opnd.only_some, Opnd.toV_vSrc, Opnd.toU_uSrc, h]
  · simp [Raw.decGGG, Rrr.encGGG, Raw.fit, Fld.ok_code, Fld.ok_lit32, Fld.trailer_code, Fld.trailer_lit32, Opnd.toV_ok_addr, Opnd.toV_ok, Opnd.toU_ok, Opnd.toV_trailer, Opnd.toU_trailer, h, show b01 true = 1 from rfl, show b01 false = 0 from rfl]
    try omega
theorem shape69 (u : Bool) (op : Nat) (x : PgaI) (h : (decide (x.d < 64) && decide (x.a < 64) && decide (x.c < 64) && x.ctl.ok) = true) :
    (x.encPGA u op).decPGA = some x ∧ (x.encPGA u op).fit 1 := by
  obtain ⟨m, d, a, c, ctl⟩ := x
  simp only [Bool.and_eq_true, decide_eq_true_eq, lenOk, Bool.or_eq_true, bne_iff_ne, beq_iff_eq] at h
  have hk := PgaCtl.dec_enc ctl (by simp [h])
  constructor
  · simp [Raw.decPGA, PgaI.encPGA, dReg, dUnused, Fld.unused, Fld.off, Fld.codeIf, Fld.reg, Opnd.only_addr, Opnd.only_some, Opnd.toV_vSrc, Opnd.toU_uSrc, h, hk]
  · simp [Raw.decPGA, PgaI.encPGA, Raw.fit, Fld.ok_code, Fld.ok_lit32, Fld.trailer_code, Fld.trailer_lit32, Opnd.toV_ok_addr, Opnd.toV_ok, Opnd.toU_ok, Opnd.toV_trailer, Opnd.toU_trailer, h, show b01 true = 1 from rfl, show b01 false = 0 from rfl]
    try omega
theorem shape70 (u : Bool) (op : Nat) (x : Rrr) (h : (decide (x.d < 64) && decide (x.a < 63) && decide (x.c < 64)) = true) :
    (x.encGGG u op).decGGG 64 63 64 = some x ∧ (x.encGGG u op).fit 0 := by
  obtain ⟨m, d, a, c⟩ := x
  simp only [Bool.and_eq_true, decide_eq_true_eq, lenOk, Bool.or_eq_true, bne_iff_ne, beq_iff_eq] at h
  constructor
  · simp [Raw.decGGG, Rrr.encGGG, dReg, dUnused, Fld.unused, Fld.off, Fld.codeIf, Fld.reg, Opnd.only_addr, Opnd.only_some, Opnd.toV_vSrc, Opnd.toU_uSrc, h]
  · simp [Raw.decGGG, Rrr.encGGG, Raw.fit, Fld.ok_code, Fld.ok_lit32, Fld.trailer_code, Fld.trailer_lit32, Opnd.toV_ok_addr, Opnd.toV_ok, Opnd.toU_ok, Opnd.toV_trailer, Opnd.toU_trailer, h, show b01 true = 1 from rfl, show b01 false = 0 from rfl]
    try omega
theorem shape71 (u : Bool) (op : Nat) (x : Rrr) (h : (decide (x.d < 63) && decide (x.a < 64) && decide (x.c < 63)) = true) :
    (x.encGGG u op).decGGG 63 64 63 = some x ∧ (x.encGGG u op).fit 0 := by
  obtain ⟨m, d, a, c⟩ := x
  simp only [Bool.and_eq_true, decide_eq_true_eq, lenOk, Bool.or_eq_true, bne_iff_ne, beq_iff_eq] at h
  constructor
  · simp [Raw.decGGG, Rrr.encGGG, dReg, dUnused, Fld.unused, Fld.off, Fld.codeIf, Fld.reg, Opnd.only_addr, Opnd.only_some, Opnd.toV_vSrc, Opnd.toU_uSrc, h]
  · simp [Raw.decGGG, Rrr.encGGG, Raw.fit, Fld.ok_code, Fld.ok_lit32, Fld.trailer_code, Fld.trailer_lit32, Opnd.toV_ok_addr, Opnd.toV_ok, Opnd.toU_ok, Opnd.toV_trailer, Opnd.toU_trailer, h, show b01 true = 1 from rfl, show b01 false = 0 from rfl]
    try omega
theorem shape72 (u : Bool) (op : Nat) (x : RrOp) (h : (decide (x.d < 64) && decide (x.a < 64) && x.c.uOk) = true) :
    (x.encGGA u op).decGGA = some x ∧ (x.encGGA u op).fit 0 := by
  obtain ⟨m, d, a, c⟩ := x
  simp only [Bool.and_eq_true, decide_eq_true_eq, lenOk, Bool.or_eq_true, bne_iff_ne, beq_iff_eq] at h
  have lc := c.litWords_le
  constructor
  · simp [Raw.decGGA, RrOp.encGGA, dReg, dUnused, Fld.unused, Fld.off, Fld.codeIf, Fld.reg, Opnd.only_addr, Opnd.only_some, Opnd.toV_vSrc, Opnd.toU_uSrc, h]
  · simp [Raw.decGGA, RrOp.encGGA, Raw.fit, Fld.ok_code, Fld.ok_lit32, Fld.trailer_code, Fld.trailer_lit32, Opnd.toV_ok_addr, Opnd.toV_ok, Opnd.toU_ok, Opnd.toV_trailer, Opnd.toU_trailer, h, show b01 true = 1 from rfl, show b01 false = 0 from rfl]
    try omega
/-! ### Sketch words -/

theorem sketch_fields (op : Nat) (x : SkWord) (ho : op < 256) (ha : x.a < 16) (hb : x.b < 16) (hi : x.imm < 65536) :
    sketchFields (sketchWord op x) = x ∧ fieldOf (sketchWord op x).toNat 24 8 = op := by
  have e : (sketchWord op x).toNat = 2 ^ 24 * op + 2 ^ 20 * x.a + 2 ^ 16 * x.b + x.imm := by
    simp only [sketchWord, BitVec.toNat_ofNat]; apply Nat.mod_eq_of_lt; omega
  obtain ⟨a, b, imm⟩ := x
  simp only at ha hb hi e
  simp only [sketchFields, e, fieldOf]
  refine ⟨?_, by omega⟩
  congr 1 <;> omega

theorem SkWord.ok_fits {p q : Bool} {f : Nat → Bool} {x : SkWord} (h : x.ok p q f = true) :
    x.a < 16 ∧ x.b < 16 ∧ x.imm < 65536 := by
  simp only [SkWord.ok, Bool.and_eq_true, decide_eq_true_eq] at h
  obtain ⟨⟨⟨h1, h2⟩, h3⟩, -⟩ := h
  refine ⟨?_, ?_, h3⟩
  · split at h1 <;> simp at h1 <;> omega
  · split at h2 <;> simp at h2 <;> omega

theorem decodeSketch_word (i : Instr) (op : Nat) (x : SkWord) (ho : op < 256) (hx : x.a < 16 ∧ x.b < 16 ∧ x.imm < 65536)
    (e : sketchOp op x = some i) (h : i.wf = true) : decodeSketch (sketchWord op x) = some i := by
  obtain ⟨f1, f2⟩ := sketch_fields op x ho hx.1 hx.2.1 hx.2.2
  simp only [decodeSketch, f1, f2, e, h, if_true]

end Sys2Proof
end

