-- ==== Sys2Proof/Laws/Table.lean ====
section
/-! SUPPORT. Laws/Table.lean: reading a finite map after a write, and the canonical form that every operation keeps. -/

namespace Sys2Proof.Machine.Tbl

variable {α : Type}

@[simp] theorem get?_nil (n : Nat) : get? ([] : Table α) n = none := rfl

theorem get?_cons (k : Nat) (v : α) (r : Table α) (n : Nat) :
    get? ((k, v) :: r) n = if k = n then some v else get? r n := rfl

@[simp] theorem get?_del_same (t : Table α) (n : Nat) : get? (del t n) n = none := by
  induction t with
  | nil => rfl
  | cons p r ih =>
    obtain ⟨k, v⟩ := p
    simp only [del]
    split
    · exact ih
    · rw [get?_cons, if_neg ‹_›, ih]

theorem get?_del_other (t : Table α) {n m : Nat} (h : m ≠ n) : get? (del t n) m = get? t m := by
  induction t with
  | nil => rfl
  | cons p r ih =>
    obtain ⟨k, v⟩ := p
    simp only [del]
    split
    · subst_vars; rw [ih, get?_cons, if_neg (Ne.symm h)]
    · rw [get?_cons, get?_cons, ih]

theorem get?_ins_same (t : Table α) (n : Nat) (x : α) (h : get? t n = none) : get? (ins t n x) n = some x := by
  induction t with
  | nil => simp [ins, get?_cons]
  | cons p r ih =>
    obtain ⟨k, v⟩ := p
    rw [get?_cons] at h
    simp only [ins]
    split
    · simp [get?_cons]
    · by_cases e : k = n
      · simp [e] at h
      · rw [if_neg e] at h; rw [get?_cons, if_neg e, ih h]

theorem get?_ins_other (t : Table α) {n m : Nat} (x : α) (h : m ≠ n) : get? (ins t n x) m = get? t m := by
  induction t with
  | nil => simp [ins, get?_cons, Ne.symm h]
  | cons p r ih =>
    obtain ⟨k, v⟩ := p
    simp only [ins]
    split
    · rw [get?_cons, if_neg (Ne.symm h)]
    · rw [get?_cons, get?_cons, ih]

@[simp] theorem get?_put_same (t : Table α) (n : Nat) (x : α) : get? (put t n x) n = some x :=
  get?_ins_same _ _ _ (get?_del_same t n)

theorem get?_put_other (t : Table α) {n m : Nat} (x : α) (h : m ≠ n) : get? (put t n x) m = get? t m := by
  rw [put, get?_ins_other _ _ h, get?_del_other _ h]

@[simp] theorem getD_put_same (t : Table α) (n : Nat) (x d : α) : getD (put t n x) n d = x := by simp [getD]

theorem getD_put_other (t : Table α) {n m : Nat} (x d : α) (h : m ≠ n) : getD (put t n x) m d = getD t m d := by
  simp [getD, get?_put_other t x h]

theorem fget_fset_same [DecidableEq α] (d : α) (t : Table α) (n : Nat) (x : α) : fget d (fset d t n x) n = x := by
  unfold fget fset
  split
  · simp_all
  · simp

theorem fget_fset_other [DecidableEq α] (d : α) (t : Table α) {n m : Nat} (x : α) (h : m ≠ n) :
    fget d (fset d t n x) m = fget d t m := by
  unfold fget fset
  split
  · rw [get?_del_other _ h]
  · rw [get?_put_other _ _ h]

/-! ### The canonical form -/

theorem sorted_cons (k : Nat) (v : α) (r : Table α) :
    sorted ((k, v) :: r) = true ↔ (∀ p ∈ r, k < p.1) ∧ sorted r = true := by
  induction r generalizing k v with
  | nil => simp [sorted]
  | cons p r ih =>
    obtain ⟨k', v'⟩ := p
    simp only [sorted, Bool.and_eq_true, decide_eq_true_eq]
    constructor
    · rintro ⟨h1, h2⟩
      refine ⟨?_, h2⟩
      intro q hq
      rcases List.mem_cons.mp hq with rfl | hq
      · exact h1
      · exact lt_trans h1 (((ih k' v').mp h2).1 q hq)
    · rintro ⟨h1, h2⟩
      exact ⟨h1 _ (List.mem_cons_self ..), h2⟩

theorem mem_del {t : Table α} {n : Nat} {p : Nat × α} (h : p ∈ del t n) : p ∈ t ∧ p.1 ≠ n := by
  induction t with
  | nil => simp [del] at h
  | cons q r ih =>
    obtain ⟨k, v⟩ := q
    simp only [del] at h
    split at h
    · exact ⟨List.mem_cons_of_mem _ (ih h).1, (ih h).2⟩
    · rcases List.mem_cons.mp h with rfl | h
      · exact ⟨List.mem_cons_self .., ‹_›⟩
      · exact ⟨List.mem_cons_of_mem _ (ih h).1, (ih h).2⟩

theorem mem_ins {t : Table α} {n : Nat} {x : α} {p : Nat × α} (h : p ∈ ins t n x) : p = (n, x) ∨ p ∈ t := by
  induction t with
  | nil => simpa [ins] using h
  | cons q r ih =>
    obtain ⟨k, v⟩ := q
    simp only [ins] at h
    split at h
    · simpa using h
    · rcases List.mem_cons.mp h with rfl | h
      · exact .inr (List.mem_cons_self ..)
      · exact (ih h).imp_right (List.mem_cons_of_mem _)

theorem sorted_del (t : Table α) (n : Nat) (h : sorted t = true) : sorted (del t n) = true := by
  induction t with
  | nil => rfl
  | cons q r ih =>
    obtain ⟨k, v⟩ := q
    obtain ⟨h1, h2⟩ := (sorted_cons ..).mp h
    simp only [del]
    split
    · exact ih h2
    · exact (sorted_cons ..).mpr ⟨fun p hp => h1 p (mem_del hp).1, ih h2⟩

theorem sorted_ins (t : Table α) (n : Nat) (x : α) (h : sorted t = true) (hn : ∀ p ∈ t, p.1 ≠ n) :
    sorted (ins t n x) = true := by
  induction t with
  | nil => rfl
  | cons q r ih =>
    obtain ⟨k, v⟩ := q
    obtain ⟨h1, h2⟩ := (sorted_cons ..).mp h
    simp only [ins]
    split
    · refine (sorted_cons ..).mpr ⟨?_, h⟩
      intro p hp
      rcases List.mem_cons.mp hp with rfl | hp
      · assumption
      · exact lt_trans ‹_› (h1 p hp)
    · have hk : k < n := by
        have := hn (k, v) (List.mem_cons_self ..)
        simp only at this
        omega
      refine (sorted_cons ..).mpr ⟨?_, ih h2 fun p hp => hn p (List.mem_cons_of_mem _ hp)⟩
      intro p hp
      rcases mem_ins hp with rfl | hp
      · exact hk
      · exact h1 p hp

theorem sorted_put (t : Table α) (n : Nat) (x : α) (h : sorted t = true) : sorted (put t n x) = true :=
  sorted_ins _ _ _ (sorted_del t n h) fun _ hp => (mem_del hp).2

theorem sorted_filter (t : Table α) (f : Nat × α → Bool) (h : sorted t = true) : sorted (t.filter f) = true := by
  induction t with
  | nil => rfl
  | cons q r ih =>
    obtain ⟨k, v⟩ := q
    obtain ⟨h1, h2⟩ := (sorted_cons ..).mp h
    rw [List.filter_cons]
    split
    · exact (sorted_cons ..).mpr ⟨fun p hp => h1 p (List.mem_of_mem_filter hp), ih h2⟩
    · exact ih h2

variable [DecidableEq α]

theorem canon_iff (d : α) (t : Table α) : canon d t = true ↔ sorted t = true ∧ ∀ p ∈ t, p.2 ≠ d := by
  simp only [canon, Bool.and_eq_true, List.all_eq_true, Bool.not_eq_true', decide_eq_false_iff_not]

theorem canon_fset (d : α) (t : Table α) (n : Nat) (x : α) (h : canon d t = true) : canon d (fset d t n x) = true := by
  rw [canon_iff] at *
  unfold fset
  split
  · exact ⟨sorted_del _ _ h.1, fun p hp => h.2 p (mem_del hp).1⟩
  · refine ⟨sorted_put _ _ _ h.1, fun p hp => ?_⟩
    rcases mem_ins hp with rfl | hp
    · assumption
    · exact h.2 p (mem_del hp).1

theorem canon_filter (d : α) (t : Table α) (f : Nat × α → Bool) (h : canon d t = true) : canon d (t.filter f) = true := by
  rw [canon_iff] at *
  exact ⟨sorted_filter _ _ h.1, fun p hp => h.2 p (List.mem_of_mem_filter hp)⟩

end Sys2Proof.Machine.Tbl
end

