-- ==== Sys2Proof/Laws/Memory.lean ====
section
/-! SUPPORT. Laws/Memory.lean: memory reads after writes, and the canonical form that every memory operation keeps. -/

namespace Sys2Proof.Machine

@[simp] theorem memByte_memPut_same (m : List Host.Cell) (a : Nat) (b : Byte) : memByte (memPut m a b) a = b :=
  Tbl.fget_fset_same ..

theorem memByte_memPut_other (m : List Host.Cell) {a c : Nat} (b : Byte) (h : c ≠ a) :
    memByte (memPut m a b) c = memByte m c := Tbl.fget_fset_other _ _ _ h

/-- A write leaves every byte outside it as it was. -/
theorem memByte_memWrite_out (bs : List Byte) (m : List Host.Cell) (a c : Nat) (h : c < a ∨ a + bs.length ≤ c) :
    memByte (memWrite m a bs) c = memByte m c := by
  induction bs generalizing m a with
  | nil => rfl
  | cons b r ih =>
    simp only [List.length_cons] at h
    rw [memWrite, ih _ _ (by omega), memByte_memPut_other _ _ (by omega)]

/-- A byte written is the byte read. -/
theorem memByte_memWrite_in (bs : List Byte) (m : List Host.Cell) (a i : Nat) (h : i < bs.length) :
    memByte (memWrite m a bs) (a + i) = bs[i] := by
  induction bs generalizing m a i with
  | nil => simp at h
  | cons b r ih =>
    rw [memWrite]
    cases i with
    | zero => rw [memByte_memWrite_out _ _ _ _ (by omega)]; simp
    | succ j =>
      have e : a + (j + 1) = a + 1 + j := by omega
      rw [e, ih _ _ _ (by simpa using h)]
      simp

/-- Memory operations keep the canonical form. -/
theorem wf_memPut (m : List Host.Cell) (a : Nat) (b : Byte) (h : Memory.wf m = true) : Memory.wf (memPut m a b) = true :=
  Tbl.canon_fset _ _ _ _ h

theorem wf_memWrite (bs : List Byte) (m : List Host.Cell) (a : Nat) (h : Memory.wf m = true) :
    Memory.wf (memWrite m a bs) = true := by
  induction bs generalizing m a with
  | nil => exact h
  | cons b r ih => exact ih _ _ (wf_memPut _ _ _ h)

theorem wf_filter (m : List Host.Cell) (f : Host.Cell → Bool) (h : Memory.wf m = true) : Memory.wf (m.filter f) = true :=
  Tbl.canon_filter _ _ _ h

@[simp] theorem poke_mem (s : State) (a : Nat) (bs : List Byte) : (s.poke a bs).store.mem = memWrite s.store.mem a bs := rfl

theorem wf_poke (s : State) (a : Nat) (bs : List Byte) (h : Memory.wf s.store.mem = true) :
    Memory.wf (s.poke a bs).store.mem = true := wf_memWrite _ _ _ h

/-- The same of the state. -/
theorem byte_poke_out (s : State) (a c : Nat) (bs : List Byte) (h : c < a ∨ a + bs.length ≤ c) :
    (s.poke a bs).byte c = s.byte c := memByte_memWrite_out _ _ _ _ h

theorem byte_poke_in (s : State) (a i : Nat) (bs : List Byte) (h : i < bs.length) :
    (s.poke a bs).byte (a + i) = bs[i] := memByte_memWrite_in _ _ _ _ h

theorem memBytes_eq (m m' : List Host.Cell) (a n : Nat) (h : ∀ i < n, memByte m (a + i) = memByte m' (a + i)) :
    memBytes m a n = memBytes m' a n := by
  induction n generalizing a with
  | zero => rfl
  | succ n ih =>
    have h0 := h 0 (by omega)
    simp only [Nat.add_zero] at h0
    rw [memBytes, memBytes, h0, ih (a + 1) fun i hi => ?_]
    have := h (i + 1) (by omega)
    rwa [show a + (i + 1) = a + 1 + i by omega] at this

/-! The lending handshake moves no byte (R400). -/

@[simp] theorem lendShake_mem (s : State) (t pair code : Nat) : (s.lendShake t pair code).store.mem = s.store.mem := by
  unfold State.lendShake
  dsimp only
  split <;> rfl

theorem foldl_soon_mem (l : List (Nat × Event)) (s : State) :
    (l.foldl (fun s e => s.soon e.2) s).store.mem = s.store.mem := by
  induction l generalizing s with
  | nil => rfl
  | cons e r ih => exact ih (s.soon e.2)

@[simp] theorem lendEnd_mem (s : State) (t pair : Nat) : (s.lendEnd t pair).store.mem = s.store.mem := by
  unfold State.lendEnd
  dsimp only
  split
  · rfl
  · exact foldl_soon_mem _ _

@[simp] theorem lendGate_mem (s : State) (t chan : Nat) (ev : Event) : (s.lendGate t chan ev).1.store.mem = s.store.mem := by
  unfold State.lendGate
  dsimp only
  split
  · rfl
  · split
    · exact lendShake_mem s t _ 0
    · rfl

end Sys2Proof.Machine
end

