-- ==== Sys2Proof/Laws/State.lean ====
section
/-! SUPPORT. Laws/State.lean: what each update of the state leaves as it was, one lemma for each field of each update, and
what it puts. -/

namespace Sys2Proof.Machine

@[simp] theorem modSimt_ac (s : State) (f : Simt → Simt) : (s.modSimt f).ac = s.ac := rfl
@[simp] theorem modSimt_free (s : State) (f : Simt → Simt) : (s.modSimt f).free = s.free := rfl
@[simp] theorem modSimt_turns (s : State) (f : Simt → Simt) : (s.modSimt f).turns = s.turns := rfl
@[simp] theorem modSimt_agenda (s : State) (f : Simt → Simt) : (s.modSimt f).agenda = s.agenda := rfl
@[simp] theorem modSimt_module (s : State) (f : Simt → Simt) : (s.modSimt f).module = s.module := rfl
@[simp] theorem modSimt_dies (s : State) (f : Simt → Simt) : (s.modSimt f).dies = s.dies := rfl
@[simp] theorem modSimt_parts (s : State) (f : Simt → Simt) : (s.modSimt f).parts = s.parts := rfl
@[simp] theorem modSimt_store (s : State) (f : Simt → Simt) : (s.modSimt f).store = s.store := rfl
@[simp] theorem modSimt_hub (s : State) (f : Simt → Simt) : (s.modSimt f).hub = s.hub := rfl
@[simp] theorem modSimt_simt (s : State) (f : Simt → Simt) : (s.modSimt f).simt = f s.simt := rfl

@[simp] theorem modStore_ac (s : State) (f : MemSide → MemSide) : (s.modStore f).ac = s.ac := rfl
@[simp] theorem modStore_free (s : State) (f : MemSide → MemSide) : (s.modStore f).free = s.free := rfl
@[simp] theorem modStore_turns (s : State) (f : MemSide → MemSide) : (s.modStore f).turns = s.turns := rfl
@[simp] theorem modStore_agenda (s : State) (f : MemSide → MemSide) : (s.modStore f).agenda = s.agenda := rfl
@[simp] theorem modStore_module (s : State) (f : MemSide → MemSide) : (s.modStore f).module = s.module := rfl
@[simp] theorem modStore_dies (s : State) (f : MemSide → MemSide) : (s.modStore f).dies = s.dies := rfl
@[simp] theorem modStore_parts (s : State) (f : MemSide → MemSide) : (s.modStore f).parts = s.parts := rfl
@[simp] theorem modStore_simt (s : State) (f : MemSide → MemSide) : (s.modStore f).simt = s.simt := rfl
@[simp] theorem modStore_hub (s : State) (f : MemSide → MemSide) : (s.modStore f).hub = s.hub := rfl
@[simp] theorem modStore_store (s : State) (f : MemSide → MemSide) : (s.modStore f).store = f s.store := rfl

@[simp] theorem modHub_ac (s : State) (f : Hub → Hub) : (s.modHub f).ac = s.ac := rfl
@[simp] theorem modHub_free (s : State) (f : Hub → Hub) : (s.modHub f).free = s.free := rfl
@[simp] theorem modHub_turns (s : State) (f : Hub → Hub) : (s.modHub f).turns = s.turns := rfl
@[simp] theorem modHub_agenda (s : State) (f : Hub → Hub) : (s.modHub f).agenda = s.agenda := rfl
@[simp] theorem modHub_module (s : State) (f : Hub → Hub) : (s.modHub f).module = s.module := rfl
@[simp] theorem modHub_dies (s : State) (f : Hub → Hub) : (s.modHub f).dies = s.dies := rfl
@[simp] theorem modHub_parts (s : State) (f : Hub → Hub) : (s.modHub f).parts = s.parts := rfl
@[simp] theorem modHub_simt (s : State) (f : Hub → Hub) : (s.modHub f).simt = s.simt := rfl
@[simp] theorem modHub_store (s : State) (f : Hub → Hub) : (s.modHub f).store = s.store := rfl
@[simp] theorem modHub_hub (s : State) (f : Hub → Hub) : (s.modHub f).hub = f s.hub := rfl

@[simp] theorem putGroup_ac (s : State) (gid : Nat) (g : Group) : (s.putGroup gid g).ac = s.ac := rfl
@[simp] theorem putGroup_free (s : State) (gid : Nat) (g : Group) : (s.putGroup gid g).free = s.free := rfl
@[simp] theorem putGroup_turns (s : State) (gid : Nat) (g : Group) : (s.putGroup gid g).turns = s.turns := rfl
@[simp] theorem putGroup_agenda (s : State) (gid : Nat) (g : Group) : (s.putGroup gid g).agenda = s.agenda := rfl
@[simp] theorem putGroup_module (s : State) (gid : Nat) (g : Group) : (s.putGroup gid g).module = s.module := rfl
@[simp] theorem putGroup_dies (s : State) (gid : Nat) (g : Group) : (s.putGroup gid g).dies = s.dies := rfl
@[simp] theorem putGroup_parts (s : State) (gid : Nat) (g : Group) : (s.putGroup gid g).parts = s.parts := rfl
@[simp] theorem putGroup_store (s : State) (gid : Nat) (g : Group) : (s.putGroup gid g).store = s.store := rfl
@[simp] theorem putGroup_hub (s : State) (gid : Nat) (g : Group) : (s.putGroup gid g).hub = s.hub := rfl
@[simp] theorem putGroup_simt_teams (s : State) (gid : Nat) (g : Group) : (s.putGroup gid g).simt.teams = s.simt.teams := rfl
@[simp] theorem putGroup_simt_tasks (s : State) (gid : Nat) (g : Group) : (s.putGroup gid g).simt.tasks = s.simt.tasks := rfl
@[simp] theorem putGroup_simt_trees (s : State) (gid : Nat) (g : Group) : (s.putGroup gid g).simt.trees = s.simt.trees := rfl
@[simp] theorem putGroup_simt_spawnQs (s : State) (gid : Nat) (g : Group) : (s.putGroup gid g).simt.spawnQs = s.simt.spawnQs := rfl
@[simp] theorem putGroup_simt_ctxs (s : State) (gid : Nat) (g : Group) : (s.putGroup gid g).simt.ctxs = s.simt.ctxs := rfl
@[simp] theorem putGroup_simt_scheds (s : State) (gid : Nat) (g : Group) : (s.putGroup gid g).simt.scheds = s.simt.scheds := rfl
@[simp] theorem putGroup_simt_bars (s : State) (gid : Nat) (g : Group) : (s.putGroup gid g).simt.bars = s.simt.bars := rfl
@[simp] theorem putGroup_simt_deferred (s : State) (gid : Nat) (g : Group) : (s.putGroup gid g).simt.deferred = s.simt.deferred := rfl
@[simp] theorem putGroup_simt_locals (s : State) (gid : Nat) (g : Group) : (s.putGroup gid g).simt.locals = s.simt.locals := rfl
@[simp] theorem putGroup_simt_localPoison (s : State) (gid : Nat) (g : Group) : (s.putGroup gid g).simt.localPoison = s.simt.localPoison := rfl
@[simp] theorem putGroup_simt_accs (s : State) (gid : Nat) (g : Group) : (s.putGroup gid g).simt.accs = s.simt.accs := rfl
@[simp] theorem putGroup_simt_slots (s : State) (gid : Nat) (g : Group) : (s.putGroup gid g).simt.slots = s.simt.slots := rfl
@[simp] theorem putGroup_simt_ops (s : State) (gid : Nat) (g : Group) : (s.putGroup gid g).simt.ops = s.simt.ops := rfl
@[simp] theorem putGroup_simt_upsets (s : State) (gid : Nat) (g : Group) : (s.putGroup gid g).simt.upsets = s.simt.upsets := rfl
@[simp] theorem putGroup_simt_copies (s : State) (gid : Nat) (g : Group) : (s.putGroup gid g).simt.copies = s.simt.copies := rfl
@[simp] theorem putGroup_simt_publishes (s : State) (gid : Nat) (g : Group) : (s.putGroup gid g).simt.publishes = s.simt.publishes := rfl
@[simp] theorem putGroup_simt_fb (s : State) (gid : Nat) (g : Group) : (s.putGroup gid g).simt.fb = s.simt.fb := rfl
@[simp] theorem putGroup_simt_fbOverflow (s : State) (gid : Nat) (g : Group) : (s.putGroup gid g).simt.fbOverflow = s.simt.fbOverflow := rfl
@[simp] theorem putGroup_simt_fbBad (s : State) (gid : Nat) (g : Group) : (s.putGroup gid g).simt.fbBad = s.simt.fbBad := rfl
@[simp] theorem putGroup_simt_coreReset (s : State) (gid : Nat) (g : Group) : (s.putGroup gid g).simt.coreReset = s.simt.coreReset := rfl
@[simp] theorem putGroup_simt_lastIssue (s : State) (gid : Nat) (g : Group) : (s.putGroup gid g).simt.lastIssue = s.simt.lastIssue := rfl
@[simp] theorem putGroup_simt_engines (s : State) (gid : Nat) (g : Group) : (s.putGroup gid g).simt.engines = s.simt.engines := rfl
@[simp] theorem putGroup_simt_localErrs (s : State) (gid : Nat) (g : Group) : (s.putGroup gid g).simt.localErrs = s.simt.localErrs := rfl

@[simp] theorem putCtx_ac (s : State) (q : Nat) (c : Ctx) : (s.putCtx q c).ac = s.ac := rfl
@[simp] theorem putCtx_free (s : State) (q : Nat) (c : Ctx) : (s.putCtx q c).free = s.free := rfl
@[simp] theorem putCtx_turns (s : State) (q : Nat) (c : Ctx) : (s.putCtx q c).turns = s.turns := rfl
@[simp] theorem putCtx_agenda (s : State) (q : Nat) (c : Ctx) : (s.putCtx q c).agenda = s.agenda := rfl
@[simp] theorem putCtx_module (s : State) (q : Nat) (c : Ctx) : (s.putCtx q c).module = s.module := rfl
@[simp] theorem putCtx_dies (s : State) (q : Nat) (c : Ctx) : (s.putCtx q c).dies = s.dies := rfl
@[simp] theorem putCtx_parts (s : State) (q : Nat) (c : Ctx) : (s.putCtx q c).parts = s.parts := rfl
@[simp] theorem putCtx_store (s : State) (q : Nat) (c : Ctx) : (s.putCtx q c).store = s.store := rfl
@[simp] theorem putCtx_hub (s : State) (q : Nat) (c : Ctx) : (s.putCtx q c).hub = s.hub := rfl
@[simp] theorem putCtx_simt_groups (s : State) (q : Nat) (c : Ctx) : (s.putCtx q c).simt.groups = s.simt.groups := rfl
@[simp] theorem putCtx_simt_teams (s : State) (q : Nat) (c : Ctx) : (s.putCtx q c).simt.teams = s.simt.teams := rfl
@[simp] theorem putCtx_simt_tasks (s : State) (q : Nat) (c : Ctx) : (s.putCtx q c).simt.tasks = s.simt.tasks := rfl
@[simp] theorem putCtx_simt_trees (s : State) (q : Nat) (c : Ctx) : (s.putCtx q c).simt.trees = s.simt.trees := rfl
@[simp] theorem putCtx_simt_spawnQs (s : State) (q : Nat) (c : Ctx) : (s.putCtx q c).simt.spawnQs = s.simt.spawnQs := rfl
@[simp] theorem putCtx_simt_scheds (s : State) (q : Nat) (c : Ctx) : (s.putCtx q c).simt.scheds = s.simt.scheds := rfl
@[simp] theorem putCtx_simt_bars (s : State) (q : Nat) (c : Ctx) : (s.putCtx q c).simt.bars = s.simt.bars := rfl
@[simp] theorem putCtx_simt_deferred (s : State) (q : Nat) (c : Ctx) : (s.putCtx q c).simt.deferred = s.simt.deferred := rfl
@[simp] theorem putCtx_simt_locals (s : State) (q : Nat) (c : Ctx) : (s.putCtx q c).simt.locals = s.simt.locals := rfl
@[simp] theorem putCtx_simt_localPoison (s : State) (q : Nat) (c : Ctx) : (s.putCtx q c).simt.localPoison = s.simt.localPoison := rfl
@[simp] theorem putCtx_simt_accs (s : State) (q : Nat) (c : Ctx) : (s.putCtx q c).simt.accs = s.simt.accs := rfl
@[simp] theorem putCtx_simt_slots (s : State) (q : Nat) (c : Ctx) : (s.putCtx q c).simt.slots = s.simt.slots := rfl
@[simp] theorem putCtx_simt_ops (s : State) (q : Nat) (c : Ctx) : (s.putCtx q c).simt.ops = s.simt.ops := rfl
@[simp] theorem putCtx_simt_upsets (s : State) (q : Nat) (c : Ctx) : (s.putCtx q c).simt.upsets = s.simt.upsets := rfl
@[simp] theorem putCtx_simt_copies (s : State) (q : Nat) (c : Ctx) : (s.putCtx q c).simt.copies = s.simt.copies := rfl
@[simp] theorem putCtx_simt_publishes (s : State) (q : Nat) (c : Ctx) : (s.putCtx q c).simt.publishes = s.simt.publishes := rfl
@[simp] theorem putCtx_simt_fb (s : State) (q : Nat) (c : Ctx) : (s.putCtx q c).simt.fb = s.simt.fb := rfl
@[simp] theorem putCtx_simt_fbOverflow (s : State) (q : Nat) (c : Ctx) : (s.putCtx q c).simt.fbOverflow = s.simt.fbOverflow := rfl
@[simp] theorem putCtx_simt_fbBad (s : State) (q : Nat) (c : Ctx) : (s.putCtx q c).simt.fbBad = s.simt.fbBad := rfl
@[simp] theorem putCtx_simt_coreReset (s : State) (q : Nat) (c : Ctx) : (s.putCtx q c).simt.coreReset = s.simt.coreReset := rfl
@[simp] theorem putCtx_simt_lastIssue (s : State) (q : Nat) (c : Ctx) : (s.putCtx q c).simt.lastIssue = s.simt.lastIssue := rfl
@[simp] theorem putCtx_simt_engines (s : State) (q : Nat) (c : Ctx) : (s.putCtx q c).simt.engines = s.simt.engines := rfl
@[simp] theorem putCtx_simt_localErrs (s : State) (q : Nat) (c : Ctx) : (s.putCtx q c).simt.localErrs = s.simt.localErrs := rfl

@[simp] theorem putSched_ac (s : State) (k : Nat) (c : Option (Nat × Nat)) : (s.putSched k c).ac = s.ac := rfl
@[simp] theorem putSched_free (s : State) (k : Nat) (c : Option (Nat × Nat)) : (s.putSched k c).free = s.free := rfl
@[simp] theorem putSched_turns (s : State) (k : Nat) (c : Option (Nat × Nat)) : (s.putSched k c).turns = s.turns := rfl
@[simp] theorem putSched_agenda (s : State) (k : Nat) (c : Option (Nat × Nat)) : (s.putSched k c).agenda = s.agenda := rfl
@[simp] theorem putSched_module (s : State) (k : Nat) (c : Option (Nat × Nat)) : (s.putSched k c).module = s.module := rfl
@[simp] theorem putSched_dies (s : State) (k : Nat) (c : Option (Nat × Nat)) : (s.putSched k c).dies = s.dies := rfl
@[simp] theorem putSched_parts (s : State) (k : Nat) (c : Option (Nat × Nat)) : (s.putSched k c).parts = s.parts := rfl
@[simp] theorem putSched_store (s : State) (k : Nat) (c : Option (Nat × Nat)) : (s.putSched k c).store = s.store := rfl
@[simp] theorem putSched_hub (s : State) (k : Nat) (c : Option (Nat × Nat)) : (s.putSched k c).hub = s.hub := rfl
@[simp] theorem putSched_simt_groups (s : State) (k : Nat) (c : Option (Nat × Nat)) : (s.putSched k c).simt.groups = s.simt.groups := rfl
@[simp] theorem putSched_simt_teams (s : State) (k : Nat) (c : Option (Nat × Nat)) : (s.putSched k c).simt.teams = s.simt.teams := rfl
@[simp] theorem putSched_simt_tasks (s : State) (k : Nat) (c : Option (Nat × Nat)) : (s.putSched k c).simt.tasks = s.simt.tasks := rfl
@[simp] theorem putSched_simt_trees (s : State) (k : Nat) (c : Option (Nat × Nat)) : (s.putSched k c).simt.trees = s.simt.trees := rfl
@[simp] theorem putSched_simt_spawnQs (s : State) (k : Nat) (c : Option (Nat × Nat)) : (s.putSched k c).simt.spawnQs = s.simt.spawnQs := rfl
@[simp] theorem putSched_simt_ctxs (s : State) (k : Nat) (c : Option (Nat × Nat)) : (s.putSched k c).simt.ctxs = s.simt.ctxs := rfl
@[simp] theorem putSched_simt_bars (s : State) (k : Nat) (c : Option (Nat × Nat)) : (s.putSched k c).simt.bars = s.simt.bars := rfl
@[simp] theorem putSched_simt_deferred (s : State) (k : Nat) (c : Option (Nat × Nat)) : (s.putSched k c).simt.deferred = s.simt.deferred := rfl
@[simp] theorem putSched_simt_locals (s : State) (k : Nat) (c : Option (Nat × Nat)) : (s.putSched k c).simt.locals = s.simt.locals := rfl
@[simp] theorem putSched_simt_localPoison (s : State) (k : Nat) (c : Option (Nat × Nat)) : (s.putSched k c).simt.localPoison = s.simt.localPoison := rfl
@[simp] theorem putSched_simt_accs (s : State) (k : Nat) (c : Option (Nat × Nat)) : (s.putSched k c).simt.accs = s.simt.accs := rfl
@[simp] theorem putSched_simt_slots (s : State) (k : Nat) (c : Option (Nat × Nat)) : (s.putSched k c).simt.slots = s.simt.slots := rfl
@[simp] theorem putSched_simt_ops (s : State) (k : Nat) (c : Option (Nat × Nat)) : (s.putSched k c).simt.ops = s.simt.ops := rfl
@[simp] theorem putSched_simt_upsets (s : State) (k : Nat) (c : Option (Nat × Nat)) : (s.putSched k c).simt.upsets = s.simt.upsets := rfl
@[simp] theorem putSched_simt_copies (s : State) (k : Nat) (c : Option (Nat × Nat)) : (s.putSched k c).simt.copies = s.simt.copies := rfl
@[simp] theorem putSched_simt_publishes (s : State) (k : Nat) (c : Option (Nat × Nat)) : (s.putSched k c).simt.publishes = s.simt.publishes := rfl
@[simp] theorem putSched_simt_fb (s : State) (k : Nat) (c : Option (Nat × Nat)) : (s.putSched k c).simt.fb = s.simt.fb := rfl
@[simp] theorem putSched_simt_fbOverflow (s : State) (k : Nat) (c : Option (Nat × Nat)) : (s.putSched k c).simt.fbOverflow = s.simt.fbOverflow := rfl
@[simp] theorem putSched_simt_fbBad (s : State) (k : Nat) (c : Option (Nat × Nat)) : (s.putSched k c).simt.fbBad = s.simt.fbBad := rfl
@[simp] theorem putSched_simt_coreReset (s : State) (k : Nat) (c : Option (Nat × Nat)) : (s.putSched k c).simt.coreReset = s.simt.coreReset := rfl
@[simp] theorem putSched_simt_lastIssue (s : State) (k : Nat) (c : Option (Nat × Nat)) : (s.putSched k c).simt.lastIssue = s.simt.lastIssue := rfl
@[simp] theorem putSched_simt_engines (s : State) (k : Nat) (c : Option (Nat × Nat)) : (s.putSched k c).simt.engines = s.simt.engines := rfl
@[simp] theorem putSched_simt_localErrs (s : State) (k : Nat) (c : Option (Nat × Nat)) : (s.putSched k c).simt.localErrs = s.simt.localErrs := rfl

@[simp] theorem putQueue_ac (s : State) (q : Nat) (x : Queue) : (s.putQueue q x).ac = s.ac := rfl
@[simp] theorem putQueue_free (s : State) (q : Nat) (x : Queue) : (s.putQueue q x).free = s.free := rfl
@[simp] theorem putQueue_turns (s : State) (q : Nat) (x : Queue) : (s.putQueue q x).turns = s.turns := rfl
@[simp] theorem putQueue_agenda (s : State) (q : Nat) (x : Queue) : (s.putQueue q x).agenda = s.agenda := rfl
@[simp] theorem putQueue_module (s : State) (q : Nat) (x : Queue) : (s.putQueue q x).module = s.module := rfl
@[simp] theorem putQueue_dies (s : State) (q : Nat) (x : Queue) : (s.putQueue q x).dies = s.dies := rfl
@[simp] theorem putQueue_parts (s : State) (q : Nat) (x : Queue) : (s.putQueue q x).parts = s.parts := rfl
@[simp] theorem putQueue_simt (s : State) (q : Nat) (x : Queue) : (s.putQueue q x).simt = s.simt := rfl
@[simp] theorem putQueue_store (s : State) (q : Nat) (x : Queue) : (s.putQueue q x).store = s.store := rfl
@[simp] theorem putQueue_hub_vfs (s : State) (q : Nat) (x : Queue) : (s.putQueue q x).hub.vfs = s.hub.vfs := rfl
@[simp] theorem putQueue_hub_vecs (s : State) (q : Nat) (x : Queue) : (s.putQueue q x).hub.vecs = s.hub.vecs := rfl
@[simp] theorem putQueue_hub_vpend (s : State) (q : Nat) (x : Queue) : (s.putQueue q x).hub.vpend = s.hub.vpend := rfl
@[simp] theorem putQueue_hub_ppend (s : State) (q : Nat) (x : Queue) : (s.putQueue q x).hub.ppend = s.hub.ppend := rfl
@[simp] theorem putQueue_hub_msix (s : State) (q : Nat) (x : Queue) : (s.putQueue q x).hub.msix = s.hub.msix := rfl
@[simp] theorem putQueue_hub_threads (s : State) (q : Nat) (x : Queue) : (s.putQueue q x).hub.threads = s.hub.threads := rfl
@[simp] theorem putQueue_hub_tlb (s : State) (q : Nat) (x : Queue) : (s.putQueue q x).hub.tlb = s.hub.tlb := rfl
@[simp] theorem putQueue_hub_enclaves (s : State) (q : Nat) (x : Queue) : (s.putQueue q x).hub.enclaves = s.hub.enclaves := rfl
@[simp] theorem putQueue_hub_images (s : State) (q : Nat) (x : Queue) : (s.putQueue q x).hub.images = s.hub.images := rfl
@[simp] theorem putQueue_hub_pages (s : State) (q : Nat) (x : Queue) : (s.putQueue q x).hub.pages = s.hub.pages := rfl
@[simp] theorem putQueue_hub_sketches (s : State) (q : Nat) (x : Queue) : (s.putQueue q x).hub.sketches = s.hub.sketches := rfl
@[simp] theorem putQueue_hub_rot (s : State) (q : Nat) (x : Queue) : (s.putQueue q x).hub.rot = s.hub.rot := rfl
@[simp] theorem putQueue_hub_errs (s : State) (q : Nat) (x : Queue) : (s.putQueue q x).hub.errs = s.hub.errs := rfl
@[simp] theorem putQueue_hub_dump (s : State) (q : Nat) (x : Queue) : (s.putQueue q x).hub.dump = s.hub.dump := rfl
@[simp] theorem putQueue_hub_traceQ (s : State) (q : Nat) (x : Queue) : (s.putQueue q x).hub.traceQ = s.hub.traceQ := rfl
@[simp] theorem putQueue_hub_traceS (s : State) (q : Nat) (x : Queue) : (s.putQueue q x).hub.traceS = s.hub.traceS := rfl
@[simp] theorem putQueue_hub_traceG (s : State) (q : Nat) (x : Queue) : (s.putQueue q x).hub.traceG = s.hub.traceG := rfl
@[simp] theorem putQueue_hub_links (s : State) (q : Nat) (x : Queue) : (s.putQueue q x).hub.links = s.hub.links := rfl
@[simp] theorem putQueue_hub_tdis (s : State) (q : Nat) (x : Queue) : (s.putQueue q x).hub.tdis = s.hub.tdis := rfl
@[simp] theorem putQueue_hub_ideKeys (s : State) (q : Nat) (x : Queue) : (s.putQueue q x).hub.ideKeys = s.hub.ideKeys := rfl
@[simp] theorem putQueue_hub_dmaReply (s : State) (q : Nat) (x : Queue) : (s.putQueue q x).hub.dmaReply = s.hub.dmaReply := rfl
@[simp] theorem putQueue_hub_keySlotsUsed (s : State) (q : Nat) (x : Queue) : (s.putQueue q x).hub.keySlotsUsed = s.hub.keySlotsUsed := rfl
@[simp] theorem putQueue_hub_linkSeed (s : State) (q : Nat) (x : Queue) : (s.putQueue q x).hub.linkSeed = s.hub.linkSeed := rfl
@[simp] theorem putQueue_hub_ideEid (s : State) (q : Nat) (x : Queue) : (s.putQueue q x).hub.ideEid = s.hub.ideEid := rfl
@[simp] theorem putQueue_hub_traceK (s : State) (q : Nat) (x : Queue) : (s.putQueue q x).hub.traceK = s.hub.traceK := rfl

@[simp] theorem putThread_ac (s : State) (t : Nat) (x : Thread) : (s.putThread t x).ac = s.ac := rfl
@[simp] theorem putThread_free (s : State) (t : Nat) (x : Thread) : (s.putThread t x).free = s.free := rfl
@[simp] theorem putThread_turns (s : State) (t : Nat) (x : Thread) : (s.putThread t x).turns = s.turns := rfl
@[simp] theorem putThread_agenda (s : State) (t : Nat) (x : Thread) : (s.putThread t x).agenda = s.agenda := rfl
@[simp] theorem putThread_module (s : State) (t : Nat) (x : Thread) : (s.putThread t x).module = s.module := rfl
@[simp] theorem putThread_dies (s : State) (t : Nat) (x : Thread) : (s.putThread t x).dies = s.dies := rfl
@[simp] theorem putThread_parts (s : State) (t : Nat) (x : Thread) : (s.putThread t x).parts = s.parts := rfl
@[simp] theorem putThread_simt (s : State) (t : Nat) (x : Thread) : (s.putThread t x).simt = s.simt := rfl
@[simp] theorem putThread_store (s : State) (t : Nat) (x : Thread) : (s.putThread t x).store = s.store := rfl
@[simp] theorem putThread_hub_queues (s : State) (t : Nat) (x : Thread) : (s.putThread t x).hub.queues = s.hub.queues := rfl
@[simp] theorem putThread_hub_vfs (s : State) (t : Nat) (x : Thread) : (s.putThread t x).hub.vfs = s.hub.vfs := rfl
@[simp] theorem putThread_hub_vecs (s : State) (t : Nat) (x : Thread) : (s.putThread t x).hub.vecs = s.hub.vecs := rfl
@[simp] theorem putThread_hub_vpend (s : State) (t : Nat) (x : Thread) : (s.putThread t x).hub.vpend = s.hub.vpend := rfl
@[simp] theorem putThread_hub_ppend (s : State) (t : Nat) (x : Thread) : (s.putThread t x).hub.ppend = s.hub.ppend := rfl
@[simp] theorem putThread_hub_msix (s : State) (t : Nat) (x : Thread) : (s.putThread t x).hub.msix = s.hub.msix := rfl
@[simp] theorem putThread_hub_tlb (s : State) (t : Nat) (x : Thread) : (s.putThread t x).hub.tlb = s.hub.tlb := rfl
@[simp] theorem putThread_hub_enclaves (s : State) (t : Nat) (x : Thread) : (s.putThread t x).hub.enclaves = s.hub.enclaves := rfl
@[simp] theorem putThread_hub_images (s : State) (t : Nat) (x : Thread) : (s.putThread t x).hub.images = s.hub.images := rfl
@[simp] theorem putThread_hub_pages (s : State) (t : Nat) (x : Thread) : (s.putThread t x).hub.pages = s.hub.pages := rfl
@[simp] theorem putThread_hub_sketches (s : State) (t : Nat) (x : Thread) : (s.putThread t x).hub.sketches = s.hub.sketches := rfl
@[simp] theorem putThread_hub_rot (s : State) (t : Nat) (x : Thread) : (s.putThread t x).hub.rot = s.hub.rot := rfl
@[simp] theorem putThread_hub_errs (s : State) (t : Nat) (x : Thread) : (s.putThread t x).hub.errs = s.hub.errs := rfl
@[simp] theorem putThread_hub_dump (s : State) (t : Nat) (x : Thread) : (s.putThread t x).hub.dump = s.hub.dump := rfl
@[simp] theorem putThread_hub_traceQ (s : State) (t : Nat) (x : Thread) : (s.putThread t x).hub.traceQ = s.hub.traceQ := rfl
@[simp] theorem putThread_hub_traceS (s : State) (t : Nat) (x : Thread) : (s.putThread t x).hub.traceS = s.hub.traceS := rfl
@[simp] theorem putThread_hub_traceG (s : State) (t : Nat) (x : Thread) : (s.putThread t x).hub.traceG = s.hub.traceG := rfl
@[simp] theorem putThread_hub_links (s : State) (t : Nat) (x : Thread) : (s.putThread t x).hub.links = s.hub.links := rfl
@[simp] theorem putThread_hub_tdis (s : State) (t : Nat) (x : Thread) : (s.putThread t x).hub.tdis = s.hub.tdis := rfl
@[simp] theorem putThread_hub_ideKeys (s : State) (t : Nat) (x : Thread) : (s.putThread t x).hub.ideKeys = s.hub.ideKeys := rfl
@[simp] theorem putThread_hub_dmaReply (s : State) (t : Nat) (x : Thread) : (s.putThread t x).hub.dmaReply = s.hub.dmaReply := rfl
@[simp] theorem putThread_hub_keySlotsUsed (s : State) (t : Nat) (x : Thread) : (s.putThread t x).hub.keySlotsUsed = s.hub.keySlotsUsed := rfl
@[simp] theorem putThread_hub_linkSeed (s : State) (t : Nat) (x : Thread) : (s.putThread t x).hub.linkSeed = s.hub.linkSeed := rfl
@[simp] theorem putThread_hub_ideEid (s : State) (t : Nat) (x : Thread) : (s.putThread t x).hub.ideEid = s.hub.ideEid := rfl
@[simp] theorem putThread_hub_traceK (s : State) (t : Nat) (x : Thread) : (s.putThread t x).hub.traceK = s.hub.traceK := rfl

@[simp] theorem modThread_ac (s : State) (t : Nat) (f : Thread → Thread) : (s.modThread t f).ac = s.ac := rfl
@[simp] theorem modThread_free (s : State) (t : Nat) (f : Thread → Thread) : (s.modThread t f).free = s.free := rfl
@[simp] theorem modThread_turns (s : State) (t : Nat) (f : Thread → Thread) : (s.modThread t f).turns = s.turns := rfl
@[simp] theorem modThread_agenda (s : State) (t : Nat) (f : Thread → Thread) : (s.modThread t f).agenda = s.agenda := rfl
@[simp] theorem modThread_module (s : State) (t : Nat) (f : Thread → Thread) : (s.modThread t f).module = s.module := rfl
@[simp] theorem modThread_dies (s : State) (t : Nat) (f : Thread → Thread) : (s.modThread t f).dies = s.dies := rfl
@[simp] theorem modThread_parts (s : State) (t : Nat) (f : Thread → Thread) : (s.modThread t f).parts = s.parts := rfl
@[simp] theorem modThread_simt (s : State) (t : Nat) (f : Thread → Thread) : (s.modThread t f).simt = s.simt := rfl
@[simp] theorem modThread_store (s : State) (t : Nat) (f : Thread → Thread) : (s.modThread t f).store = s.store := rfl
@[simp] theorem modThread_hub_queues (s : State) (t : Nat) (f : Thread → Thread) : (s.modThread t f).hub.queues = s.hub.queues := rfl
@[simp] theorem modThread_hub_vfs (s : State) (t : Nat) (f : Thread → Thread) : (s.modThread t f).hub.vfs = s.hub.vfs := rfl
@[simp] theorem modThread_hub_vecs (s : State) (t : Nat) (f : Thread → Thread) : (s.modThread t f).hub.vecs = s.hub.vecs := rfl
@[simp] theorem modThread_hub_vpend (s : State) (t : Nat) (f : Thread → Thread) : (s.modThread t f).hub.vpend = s.hub.vpend := rfl
@[simp] theorem modThread_hub_ppend (s : State) (t : Nat) (f : Thread → Thread) : (s.modThread t f).hub.ppend = s.hub.ppend := rfl
@[simp] theorem modThread_hub_msix (s : State) (t : Nat) (f : Thread → Thread) : (s.modThread t f).hub.msix = s.hub.msix := rfl
@[simp] theorem modThread_hub_tlb (s : State) (t : Nat) (f : Thread → Thread) : (s.modThread t f).hub.tlb = s.hub.tlb := rfl
@[simp] theorem modThread_hub_enclaves (s : State) (t : Nat) (f : Thread → Thread) : (s.modThread t f).hub.enclaves = s.hub.enclaves := rfl
@[simp] theorem modThread_hub_images (s : State) (t : Nat) (f : Thread → Thread) : (s.modThread t f).hub.images = s.hub.images := rfl
@[simp] theorem modThread_hub_pages (s : State) (t : Nat) (f : Thread → Thread) : (s.modThread t f).hub.pages = s.hub.pages := rfl
@[simp] theorem modThread_hub_sketches (s : State) (t : Nat) (f : Thread → Thread) : (s.modThread t f).hub.sketches = s.hub.sketches := rfl
@[simp] theorem modThread_hub_rot (s : State) (t : Nat) (f : Thread → Thread) : (s.modThread t f).hub.rot = s.hub.rot := rfl
@[simp] theorem modThread_hub_errs (s : State) (t : Nat) (f : Thread → Thread) : (s.modThread t f).hub.errs = s.hub.errs := rfl
@[simp] theorem modThread_hub_dump (s : State) (t : Nat) (f : Thread → Thread) : (s.modThread t f).hub.dump = s.hub.dump := rfl
@[simp] theorem modThread_hub_traceQ (s : State) (t : Nat) (f : Thread → Thread) : (s.modThread t f).hub.traceQ = s.hub.traceQ := rfl
@[simp] theorem modThread_hub_traceS (s : State) (t : Nat) (f : Thread → Thread) : (s.modThread t f).hub.traceS = s.hub.traceS := rfl
@[simp] theorem modThread_hub_traceG (s : State) (t : Nat) (f : Thread → Thread) : (s.modThread t f).hub.traceG = s.hub.traceG := rfl
@[simp] theorem modThread_hub_links (s : State) (t : Nat) (f : Thread → Thread) : (s.modThread t f).hub.links = s.hub.links := rfl
@[simp] theorem modThread_hub_tdis (s : State) (t : Nat) (f : Thread → Thread) : (s.modThread t f).hub.tdis = s.hub.tdis := rfl
@[simp] theorem modThread_hub_ideKeys (s : State) (t : Nat) (f : Thread → Thread) : (s.modThread t f).hub.ideKeys = s.hub.ideKeys := rfl
@[simp] theorem modThread_hub_dmaReply (s : State) (t : Nat) (f : Thread → Thread) : (s.modThread t f).hub.dmaReply = s.hub.dmaReply := rfl
@[simp] theorem modThread_hub_keySlotsUsed (s : State) (t : Nat) (f : Thread → Thread) : (s.modThread t f).hub.keySlotsUsed = s.hub.keySlotsUsed := rfl
@[simp] theorem modThread_hub_linkSeed (s : State) (t : Nat) (f : Thread → Thread) : (s.modThread t f).hub.linkSeed = s.hub.linkSeed := rfl
@[simp] theorem modThread_hub_ideEid (s : State) (t : Nat) (f : Thread → Thread) : (s.modThread t f).hub.ideEid = s.hub.ideEid := rfl
@[simp] theorem modThread_hub_traceK (s : State) (t : Nat) (f : Thread → Thread) : (s.modThread t f).hub.traceK = s.hub.traceK := rfl

@[simp] theorem modQueue_ac (s : State) (q : Nat) (f : Queue → Queue) : (s.modQueue q f).ac = s.ac := rfl
@[simp] theorem modQueue_free (s : State) (q : Nat) (f : Queue → Queue) : (s.modQueue q f).free = s.free := rfl
@[simp] theorem modQueue_turns (s : State) (q : Nat) (f : Queue → Queue) : (s.modQueue q f).turns = s.turns := rfl
@[simp] theorem modQueue_agenda (s : State) (q : Nat) (f : Queue → Queue) : (s.modQueue q f).agenda = s.agenda := rfl
@[simp] theorem modQueue_module (s : State) (q : Nat) (f : Queue → Queue) : (s.modQueue q f).module = s.module := rfl
@[simp] theorem modQueue_dies (s : State) (q : Nat) (f : Queue → Queue) : (s.modQueue q f).dies = s.dies := rfl
@[simp] theorem modQueue_parts (s : State) (q : Nat) (f : Queue → Queue) : (s.modQueue q f).parts = s.parts := rfl
@[simp] theorem modQueue_simt (s : State) (q : Nat) (f : Queue → Queue) : (s.modQueue q f).simt = s.simt := rfl
@[simp] theorem modQueue_store (s : State) (q : Nat) (f : Queue → Queue) : (s.modQueue q f).store = s.store := rfl
@[simp] theorem modQueue_hub_vfs (s : State) (q : Nat) (f : Queue → Queue) : (s.modQueue q f).hub.vfs = s.hub.vfs := rfl
@[simp] theorem modQueue_hub_vecs (s : State) (q : Nat) (f : Queue → Queue) : (s.modQueue q f).hub.vecs = s.hub.vecs := rfl
@[simp] theorem modQueue_hub_vpend (s : State) (q : Nat) (f : Queue → Queue) : (s.modQueue q f).hub.vpend = s.hub.vpend := rfl
@[simp] theorem modQueue_hub_ppend (s : State) (q : Nat) (f : Queue → Queue) : (s.modQueue q f).hub.ppend = s.hub.ppend := rfl
@[simp] theorem modQueue_hub_msix (s : State) (q : Nat) (f : Queue → Queue) : (s.modQueue q f).hub.msix = s.hub.msix := rfl
@[simp] theorem modQueue_hub_threads (s : State) (q : Nat) (f : Queue → Queue) : (s.modQueue q f).hub.threads = s.hub.threads := rfl
@[simp] theorem modQueue_hub_tlb (s : State) (q : Nat) (f : Queue → Queue) : (s.modQueue q f).hub.tlb = s.hub.tlb := rfl
@[simp] theorem modQueue_hub_enclaves (s : State) (q : Nat) (f : Queue → Queue) : (s.modQueue q f).hub.enclaves = s.hub.enclaves := rfl
@[simp] theorem modQueue_hub_images (s : State) (q : Nat) (f : Queue → Queue) : (s.modQueue q f).hub.images = s.hub.images := rfl
@[simp] theorem modQueue_hub_pages (s : State) (q : Nat) (f : Queue → Queue) : (s.modQueue q f).hub.pages = s.hub.pages := rfl
@[simp] theorem modQueue_hub_sketches (s : State) (q : Nat) (f : Queue → Queue) : (s.modQueue q f).hub.sketches = s.hub.sketches := rfl
@[simp] theorem modQueue_hub_rot (s : State) (q : Nat) (f : Queue → Queue) : (s.modQueue q f).hub.rot = s.hub.rot := rfl
@[simp] theorem modQueue_hub_errs (s : State) (q : Nat) (f : Queue → Queue) : (s.modQueue q f).hub.errs = s.hub.errs := rfl
@[simp] theorem modQueue_hub_dump (s : State) (q : Nat) (f : Queue → Queue) : (s.modQueue q f).hub.dump = s.hub.dump := rfl
@[simp] theorem modQueue_hub_traceQ (s : State) (q : Nat) (f : Queue → Queue) : (s.modQueue q f).hub.traceQ = s.hub.traceQ := rfl
@[simp] theorem modQueue_hub_traceS (s : State) (q : Nat) (f : Queue → Queue) : (s.modQueue q f).hub.traceS = s.hub.traceS := rfl
@[simp] theorem modQueue_hub_traceG (s : State) (q : Nat) (f : Queue → Queue) : (s.modQueue q f).hub.traceG = s.hub.traceG := rfl
@[simp] theorem modQueue_hub_links (s : State) (q : Nat) (f : Queue → Queue) : (s.modQueue q f).hub.links = s.hub.links := rfl
@[simp] theorem modQueue_hub_tdis (s : State) (q : Nat) (f : Queue → Queue) : (s.modQueue q f).hub.tdis = s.hub.tdis := rfl
@[simp] theorem modQueue_hub_ideKeys (s : State) (q : Nat) (f : Queue → Queue) : (s.modQueue q f).hub.ideKeys = s.hub.ideKeys := rfl
@[simp] theorem modQueue_hub_dmaReply (s : State) (q : Nat) (f : Queue → Queue) : (s.modQueue q f).hub.dmaReply = s.hub.dmaReply := rfl
@[simp] theorem modQueue_hub_keySlotsUsed (s : State) (q : Nat) (f : Queue → Queue) : (s.modQueue q f).hub.keySlotsUsed = s.hub.keySlotsUsed := rfl
@[simp] theorem modQueue_hub_linkSeed (s : State) (q : Nat) (f : Queue → Queue) : (s.modQueue q f).hub.linkSeed = s.hub.linkSeed := rfl
@[simp] theorem modQueue_hub_ideEid (s : State) (q : Nat) (f : Queue → Queue) : (s.modQueue q f).hub.ideEid = s.hub.ideEid := rfl
@[simp] theorem modQueue_hub_traceK (s : State) (q : Nat) (f : Queue → Queue) : (s.modQueue q f).hub.traceK = s.hub.traceK := rfl

@[simp] theorem modCtx_ac (s : State) (q : Nat) (f : Ctx → Ctx) : (s.modCtx q f).ac = s.ac := rfl
@[simp] theorem modCtx_free (s : State) (q : Nat) (f : Ctx → Ctx) : (s.modCtx q f).free = s.free := rfl
@[simp] theorem modCtx_turns (s : State) (q : Nat) (f : Ctx → Ctx) : (s.modCtx q f).turns = s.turns := rfl
@[simp] theorem modCtx_agenda (s : State) (q : Nat) (f : Ctx → Ctx) : (s.modCtx q f).agenda = s.agenda := rfl
@[simp] theorem modCtx_module (s : State) (q : Nat) (f : Ctx → Ctx) : (s.modCtx q f).module = s.module := rfl
@[simp] theorem modCtx_dies (s : State) (q : Nat) (f : Ctx → Ctx) : (s.modCtx q f).dies = s.dies := rfl
@[simp] theorem modCtx_parts (s : State) (q : Nat) (f : Ctx → Ctx) : (s.modCtx q f).parts = s.parts := rfl
@[simp] theorem modCtx_store (s : State) (q : Nat) (f : Ctx → Ctx) : (s.modCtx q f).store = s.store := rfl
@[simp] theorem modCtx_hub (s : State) (q : Nat) (f : Ctx → Ctx) : (s.modCtx q f).hub = s.hub := rfl
@[simp] theorem modCtx_simt_groups (s : State) (q : Nat) (f : Ctx → Ctx) : (s.modCtx q f).simt.groups = s.simt.groups := rfl
@[simp] theorem modCtx_simt_teams (s : State) (q : Nat) (f : Ctx → Ctx) : (s.modCtx q f).simt.teams = s.simt.teams := rfl
@[simp] theorem modCtx_simt_tasks (s : State) (q : Nat) (f : Ctx → Ctx) : (s.modCtx q f).simt.tasks = s.simt.tasks := rfl
@[simp] theorem modCtx_simt_trees (s : State) (q : Nat) (f : Ctx → Ctx) : (s.modCtx q f).simt.trees = s.simt.trees := rfl
@[simp] theorem modCtx_simt_spawnQs (s : State) (q : Nat) (f : Ctx → Ctx) : (s.modCtx q f).simt.spawnQs = s.simt.spawnQs := rfl
@[simp] theorem modCtx_simt_scheds (s : State) (q : Nat) (f : Ctx → Ctx) : (s.modCtx q f).simt.scheds = s.simt.scheds := rfl
@[simp] theorem modCtx_simt_bars (s : State) (q : Nat) (f : Ctx → Ctx) : (s.modCtx q f).simt.bars = s.simt.bars := rfl
@[simp] theorem modCtx_simt_deferred (s : State) (q : Nat) (f : Ctx → Ctx) : (s.modCtx q f).simt.deferred = s.simt.deferred := rfl
@[simp] theorem modCtx_simt_locals (s : State) (q : Nat) (f : Ctx → Ctx) : (s.modCtx q f).simt.locals = s.simt.locals := rfl
@[simp] theorem modCtx_simt_localPoison (s : State) (q : Nat) (f : Ctx → Ctx) : (s.modCtx q f).simt.localPoison = s.simt.localPoison := rfl
@[simp] theorem modCtx_simt_accs (s : State) (q : Nat) (f : Ctx → Ctx) : (s.modCtx q f).simt.accs = s.simt.accs := rfl
@[simp] theorem modCtx_simt_slots (s : State) (q : Nat) (f : Ctx → Ctx) : (s.modCtx q f).simt.slots = s.simt.slots := rfl
@[simp] theorem modCtx_simt_ops (s : State) (q : Nat) (f : Ctx → Ctx) : (s.modCtx q f).simt.ops = s.simt.ops := rfl
@[simp] theorem modCtx_simt_upsets (s : State) (q : Nat) (f : Ctx → Ctx) : (s.modCtx q f).simt.upsets = s.simt.upsets := rfl
@[simp] theorem modCtx_simt_copies (s : State) (q : Nat) (f : Ctx → Ctx) : (s.modCtx q f).simt.copies = s.simt.copies := rfl
@[simp] theorem modCtx_simt_publishes (s : State) (q : Nat) (f : Ctx → Ctx) : (s.modCtx q f).simt.publishes = s.simt.publishes := rfl
@[simp] theorem modCtx_simt_fb (s : State) (q : Nat) (f : Ctx → Ctx) : (s.modCtx q f).simt.fb = s.simt.fb := rfl
@[simp] theorem modCtx_simt_fbOverflow (s : State) (q : Nat) (f : Ctx → Ctx) : (s.modCtx q f).simt.fbOverflow = s.simt.fbOverflow := rfl
@[simp] theorem modCtx_simt_fbBad (s : State) (q : Nat) (f : Ctx → Ctx) : (s.modCtx q f).simt.fbBad = s.simt.fbBad := rfl
@[simp] theorem modCtx_simt_coreReset (s : State) (q : Nat) (f : Ctx → Ctx) : (s.modCtx q f).simt.coreReset = s.simt.coreReset := rfl
@[simp] theorem modCtx_simt_lastIssue (s : State) (q : Nat) (f : Ctx → Ctx) : (s.modCtx q f).simt.lastIssue = s.simt.lastIssue := rfl
@[simp] theorem modCtx_simt_engines (s : State) (q : Nat) (f : Ctx → Ctx) : (s.modCtx q f).simt.engines = s.simt.engines := rfl
@[simp] theorem modCtx_simt_localErrs (s : State) (q : Nat) (f : Ctx → Ctx) : (s.modCtx q f).simt.localErrs = s.simt.localErrs := rfl

@[simp] theorem putVf_ac (s : State) (v : Nat) (x : Vf) : (s.putVf v x).ac = s.ac := rfl
@[simp] theorem putVf_free (s : State) (v : Nat) (x : Vf) : (s.putVf v x).free = s.free := rfl
@[simp] theorem putVf_turns (s : State) (v : Nat) (x : Vf) : (s.putVf v x).turns = s.turns := rfl
@[simp] theorem putVf_agenda (s : State) (v : Nat) (x : Vf) : (s.putVf v x).agenda = s.agenda := rfl
@[simp] theorem putVf_module (s : State) (v : Nat) (x : Vf) : (s.putVf v x).module = s.module := rfl
@[simp] theorem putVf_dies (s : State) (v : Nat) (x : Vf) : (s.putVf v x).dies = s.dies := rfl
@[simp] theorem putVf_parts (s : State) (v : Nat) (x : Vf) : (s.putVf v x).parts = s.parts := rfl
@[simp] theorem putVf_simt (s : State) (v : Nat) (x : Vf) : (s.putVf v x).simt = s.simt := rfl
@[simp] theorem putVf_store (s : State) (v : Nat) (x : Vf) : (s.putVf v x).store = s.store := rfl
@[simp] theorem putVf_hub_queues (s : State) (v : Nat) (x : Vf) : (s.putVf v x).hub.queues = s.hub.queues := rfl
@[simp] theorem putVf_hub_vecs (s : State) (v : Nat) (x : Vf) : (s.putVf v x).hub.vecs = s.hub.vecs := rfl
@[simp] theorem putVf_hub_vpend (s : State) (v : Nat) (x : Vf) : (s.putVf v x).hub.vpend = s.hub.vpend := rfl
@[simp] theorem putVf_hub_ppend (s : State) (v : Nat) (x : Vf) : (s.putVf v x).hub.ppend = s.hub.ppend := rfl
@[simp] theorem putVf_hub_msix (s : State) (v : Nat) (x : Vf) : (s.putVf v x).hub.msix = s.hub.msix := rfl
@[simp] theorem putVf_hub_threads (s : State) (v : Nat) (x : Vf) : (s.putVf v x).hub.threads = s.hub.threads := rfl
@[simp] theorem putVf_hub_tlb (s : State) (v : Nat) (x : Vf) : (s.putVf v x).hub.tlb = s.hub.tlb := rfl
@[simp] theorem putVf_hub_enclaves (s : State) (v : Nat) (x : Vf) : (s.putVf v x).hub.enclaves = s.hub.enclaves := rfl
@[simp] theorem putVf_hub_images (s : State) (v : Nat) (x : Vf) : (s.putVf v x).hub.images = s.hub.images := rfl
@[simp] theorem putVf_hub_pages (s : State) (v : Nat) (x : Vf) : (s.putVf v x).hub.pages = s.hub.pages := rfl
@[simp] theorem putVf_hub_sketches (s : State) (v : Nat) (x : Vf) : (s.putVf v x).hub.sketches = s.hub.sketches := rfl
@[simp] theorem putVf_hub_rot (s : State) (v : Nat) (x : Vf) : (s.putVf v x).hub.rot = s.hub.rot := rfl
@[simp] theorem putVf_hub_errs (s : State) (v : Nat) (x : Vf) : (s.putVf v x).hub.errs = s.hub.errs := rfl
@[simp] theorem putVf_hub_dump (s : State) (v : Nat) (x : Vf) : (s.putVf v x).hub.dump = s.hub.dump := rfl
@[simp] theorem putVf_hub_traceQ (s : State) (v : Nat) (x : Vf) : (s.putVf v x).hub.traceQ = s.hub.traceQ := rfl
@[simp] theorem putVf_hub_traceS (s : State) (v : Nat) (x : Vf) : (s.putVf v x).hub.traceS = s.hub.traceS := rfl
@[simp] theorem putVf_hub_traceG (s : State) (v : Nat) (x : Vf) : (s.putVf v x).hub.traceG = s.hub.traceG := rfl
@[simp] theorem putVf_hub_links (s : State) (v : Nat) (x : Vf) : (s.putVf v x).hub.links = s.hub.links := rfl
@[simp] theorem putVf_hub_tdis (s : State) (v : Nat) (x : Vf) : (s.putVf v x).hub.tdis = s.hub.tdis := rfl
@[simp] theorem putVf_hub_ideKeys (s : State) (v : Nat) (x : Vf) : (s.putVf v x).hub.ideKeys = s.hub.ideKeys := rfl
@[simp] theorem putVf_hub_dmaReply (s : State) (v : Nat) (x : Vf) : (s.putVf v x).hub.dmaReply = s.hub.dmaReply := rfl
@[simp] theorem putVf_hub_keySlotsUsed (s : State) (v : Nat) (x : Vf) : (s.putVf v x).hub.keySlotsUsed = s.hub.keySlotsUsed := rfl
@[simp] theorem putVf_hub_linkSeed (s : State) (v : Nat) (x : Vf) : (s.putVf v x).hub.linkSeed = s.hub.linkSeed := rfl
@[simp] theorem putVf_hub_ideEid (s : State) (v : Nat) (x : Vf) : (s.putVf v x).hub.ideEid = s.hub.ideEid := rfl
@[simp] theorem putVf_hub_traceK (s : State) (v : Nat) (x : Vf) : (s.putVf v x).hub.traceK = s.hub.traceK := rfl

@[simp] theorem putVec_ac (s : State) (v : Nat) (x : Vec) : (s.putVec v x).ac = s.ac := rfl
@[simp] theorem putVec_free (s : State) (v : Nat) (x : Vec) : (s.putVec v x).free = s.free := rfl
@[simp] theorem putVec_turns (s : State) (v : Nat) (x : Vec) : (s.putVec v x).turns = s.turns := rfl
@[simp] theorem putVec_agenda (s : State) (v : Nat) (x : Vec) : (s.putVec v x).agenda = s.agenda := rfl
@[simp] theorem putVec_module (s : State) (v : Nat) (x : Vec) : (s.putVec v x).module = s.module := rfl
@[simp] theorem putVec_dies (s : State) (v : Nat) (x : Vec) : (s.putVec v x).dies = s.dies := rfl
@[simp] theorem putVec_parts (s : State) (v : Nat) (x : Vec) : (s.putVec v x).parts = s.parts := rfl
@[simp] theorem putVec_simt (s : State) (v : Nat) (x : Vec) : (s.putVec v x).simt = s.simt := rfl
@[simp] theorem putVec_store (s : State) (v : Nat) (x : Vec) : (s.putVec v x).store = s.store := rfl
@[simp] theorem putVec_hub_queues (s : State) (v : Nat) (x : Vec) : (s.putVec v x).hub.queues = s.hub.queues := rfl
@[simp] theorem putVec_hub_vfs (s : State) (v : Nat) (x : Vec) : (s.putVec v x).hub.vfs = s.hub.vfs := rfl
@[simp] theorem putVec_hub_vpend (s : State) (v : Nat) (x : Vec) : (s.putVec v x).hub.vpend = s.hub.vpend := rfl
@[simp] theorem putVec_hub_ppend (s : State) (v : Nat) (x : Vec) : (s.putVec v x).hub.ppend = s.hub.ppend := rfl
@[simp] theorem putVec_hub_msix (s : State) (v : Nat) (x : Vec) : (s.putVec v x).hub.msix = s.hub.msix := rfl
@[simp] theorem putVec_hub_threads (s : State) (v : Nat) (x : Vec) : (s.putVec v x).hub.threads = s.hub.threads := rfl
@[simp] theorem putVec_hub_tlb (s : State) (v : Nat) (x : Vec) : (s.putVec v x).hub.tlb = s.hub.tlb := rfl
@[simp] theorem putVec_hub_enclaves (s : State) (v : Nat) (x : Vec) : (s.putVec v x).hub.enclaves = s.hub.enclaves := rfl
@[simp] theorem putVec_hub_images (s : State) (v : Nat) (x : Vec) : (s.putVec v x).hub.images = s.hub.images := rfl
@[simp] theorem putVec_hub_pages (s : State) (v : Nat) (x : Vec) : (s.putVec v x).hub.pages = s.hub.pages := rfl
@[simp] theorem putVec_hub_sketches (s : State) (v : Nat) (x : Vec) : (s.putVec v x).hub.sketches = s.hub.sketches := rfl
@[simp] theorem putVec_hub_rot (s : State) (v : Nat) (x : Vec) : (s.putVec v x).hub.rot = s.hub.rot := rfl
@[simp] theorem putVec_hub_errs (s : State) (v : Nat) (x : Vec) : (s.putVec v x).hub.errs = s.hub.errs := rfl
@[simp] theorem putVec_hub_dump (s : State) (v : Nat) (x : Vec) : (s.putVec v x).hub.dump = s.hub.dump := rfl
@[simp] theorem putVec_hub_traceQ (s : State) (v : Nat) (x : Vec) : (s.putVec v x).hub.traceQ = s.hub.traceQ := rfl
@[simp] theorem putVec_hub_traceS (s : State) (v : Nat) (x : Vec) : (s.putVec v x).hub.traceS = s.hub.traceS := rfl
@[simp] theorem putVec_hub_traceG (s : State) (v : Nat) (x : Vec) : (s.putVec v x).hub.traceG = s.hub.traceG := rfl
@[simp] theorem putVec_hub_links (s : State) (v : Nat) (x : Vec) : (s.putVec v x).hub.links = s.hub.links := rfl
@[simp] theorem putVec_hub_tdis (s : State) (v : Nat) (x : Vec) : (s.putVec v x).hub.tdis = s.hub.tdis := rfl
@[simp] theorem putVec_hub_ideKeys (s : State) (v : Nat) (x : Vec) : (s.putVec v x).hub.ideKeys = s.hub.ideKeys := rfl
@[simp] theorem putVec_hub_dmaReply (s : State) (v : Nat) (x : Vec) : (s.putVec v x).hub.dmaReply = s.hub.dmaReply := rfl
@[simp] theorem putVec_hub_keySlotsUsed (s : State) (v : Nat) (x : Vec) : (s.putVec v x).hub.keySlotsUsed = s.hub.keySlotsUsed := rfl
@[simp] theorem putVec_hub_linkSeed (s : State) (v : Nat) (x : Vec) : (s.putVec v x).hub.linkSeed = s.hub.linkSeed := rfl
@[simp] theorem putVec_hub_ideEid (s : State) (v : Nat) (x : Vec) : (s.putVec v x).hub.ideEid = s.hub.ideEid := rfl
@[simp] theorem putVec_hub_traceK (s : State) (v : Nat) (x : Vec) : (s.putVec v x).hub.traceK = s.hub.traceK := rfl

@[simp] theorem putPart_ac (s : State) (p : Nat) (x : Part) : (s.putPart p x).ac = s.ac := rfl
@[simp] theorem putPart_free (s : State) (p : Nat) (x : Part) : (s.putPart p x).free = s.free := rfl
@[simp] theorem putPart_turns (s : State) (p : Nat) (x : Part) : (s.putPart p x).turns = s.turns := rfl
@[simp] theorem putPart_agenda (s : State) (p : Nat) (x : Part) : (s.putPart p x).agenda = s.agenda := rfl
@[simp] theorem putPart_module (s : State) (p : Nat) (x : Part) : (s.putPart p x).module = s.module := rfl
@[simp] theorem putPart_dies (s : State) (p : Nat) (x : Part) : (s.putPart p x).dies = s.dies := rfl
@[simp] theorem putPart_simt (s : State) (p : Nat) (x : Part) : (s.putPart p x).simt = s.simt := rfl
@[simp] theorem putPart_store (s : State) (p : Nat) (x : Part) : (s.putPart p x).store = s.store := rfl
@[simp] theorem putPart_hub (s : State) (p : Nat) (x : Part) : (s.putPart p x).hub = s.hub := rfl

@[simp] theorem modPart_ac (s : State) (p : Nat) (f : Part → Part) : (s.modPart p f).ac = s.ac := rfl
@[simp] theorem modPart_free (s : State) (p : Nat) (f : Part → Part) : (s.modPart p f).free = s.free := rfl
@[simp] theorem modPart_turns (s : State) (p : Nat) (f : Part → Part) : (s.modPart p f).turns = s.turns := rfl
@[simp] theorem modPart_agenda (s : State) (p : Nat) (f : Part → Part) : (s.modPart p f).agenda = s.agenda := rfl
@[simp] theorem modPart_module (s : State) (p : Nat) (f : Part → Part) : (s.modPart p f).module = s.module := rfl
@[simp] theorem modPart_dies (s : State) (p : Nat) (f : Part → Part) : (s.modPart p f).dies = s.dies := rfl
@[simp] theorem modPart_simt (s : State) (p : Nat) (f : Part → Part) : (s.modPart p f).simt = s.simt := rfl
@[simp] theorem modPart_store (s : State) (p : Nat) (f : Part → Part) : (s.modPart p f).store = s.store := rfl
@[simp] theorem modPart_hub (s : State) (p : Nat) (f : Part → Part) : (s.modPart p f).hub = s.hub := rfl

@[simp] theorem putHbm_ac (s : State) (t : Nat) (x : Stack) : (s.putHbm t x).ac = s.ac := rfl
@[simp] theorem putHbm_free (s : State) (t : Nat) (x : Stack) : (s.putHbm t x).free = s.free := rfl
@[simp] theorem putHbm_turns (s : State) (t : Nat) (x : Stack) : (s.putHbm t x).turns = s.turns := rfl
@[simp] theorem putHbm_agenda (s : State) (t : Nat) (x : Stack) : (s.putHbm t x).agenda = s.agenda := rfl
@[simp] theorem putHbm_module (s : State) (t : Nat) (x : Stack) : (s.putHbm t x).module = s.module := rfl
@[simp] theorem putHbm_dies (s : State) (t : Nat) (x : Stack) : (s.putHbm t x).dies = s.dies := rfl
@[simp] theorem putHbm_parts (s : State) (t : Nat) (x : Stack) : (s.putHbm t x).parts = s.parts := rfl
@[simp] theorem putHbm_simt (s : State) (t : Nat) (x : Stack) : (s.putHbm t x).simt = s.simt := rfl
@[simp] theorem putHbm_hub (s : State) (t : Nat) (x : Stack) : (s.putHbm t x).hub = s.hub := rfl
@[simp] theorem putHbm_store_mem (s : State) (t : Nat) (x : Stack) : (s.putHbm t x).store.mem = s.store.mem := rfl
@[simp] theorem putHbm_store_poison (s : State) (t : Nat) (x : Stack) : (s.putHbm t x).store.poison = s.store.poison := rfl
@[simp] theorem putHbm_store_latent (s : State) (t : Nat) (x : Stack) : (s.putHbm t x).store.latent = s.store.latent := rfl
@[simp] theorem putHbm_store_syncLines (s : State) (t : Nat) (x : Stack) : (s.putHbm t x).store.syncLines = s.store.syncLines := rfl
@[simp] theorem putHbm_store_pot (s : State) (t : Nat) (x : Stack) : (s.putHbm t x).store.pot = s.store.pot := rfl
@[simp] theorem putHbm_store_tuples (s : State) (t : Nat) (x : Stack) : (s.putHbm t x).store.tuples = s.store.tuples := rfl
@[simp] theorem putHbm_store_tupAge (s : State) (t : Nat) (x : Stack) : (s.putHbm t x).store.tupAge = s.store.tupAge := rfl
@[simp] theorem putHbm_store_reqs (s : State) (t : Nat) (x : Stack) : (s.putHbm t x).store.reqs = s.store.reqs := rfl
@[simp] theorem putHbm_store_syncOver (s : State) (t : Nat) (x : Stack) : (s.putHbm t x).store.syncOver = s.store.syncOver := rfl

@[simp] theorem putTraceQ_ac (s : State) (q : Nat) (x : TraceQ) : (s.putTraceQ q x).ac = s.ac := rfl
@[simp] theorem putTraceQ_free (s : State) (q : Nat) (x : TraceQ) : (s.putTraceQ q x).free = s.free := rfl
@[simp] theorem putTraceQ_turns (s : State) (q : Nat) (x : TraceQ) : (s.putTraceQ q x).turns = s.turns := rfl
@[simp] theorem putTraceQ_agenda (s : State) (q : Nat) (x : TraceQ) : (s.putTraceQ q x).agenda = s.agenda := rfl
@[simp] theorem putTraceQ_module (s : State) (q : Nat) (x : TraceQ) : (s.putTraceQ q x).module = s.module := rfl
@[simp] theorem putTraceQ_dies (s : State) (q : Nat) (x : TraceQ) : (s.putTraceQ q x).dies = s.dies := rfl
@[simp] theorem putTraceQ_parts (s : State) (q : Nat) (x : TraceQ) : (s.putTraceQ q x).parts = s.parts := rfl
@[simp] theorem putTraceQ_simt (s : State) (q : Nat) (x : TraceQ) : (s.putTraceQ q x).simt = s.simt := rfl
@[simp] theorem putTraceQ_store (s : State) (q : Nat) (x : TraceQ) : (s.putTraceQ q x).store = s.store := rfl
@[simp] theorem putTraceQ_hub_queues (s : State) (q : Nat) (x : TraceQ) : (s.putTraceQ q x).hub.queues = s.hub.queues := rfl
@[simp] theorem putTraceQ_hub_vfs (s : State) (q : Nat) (x : TraceQ) : (s.putTraceQ q x).hub.vfs = s.hub.vfs := rfl
@[simp] theorem putTraceQ_hub_vecs (s : State) (q : Nat) (x : TraceQ) : (s.putTraceQ q x).hub.vecs = s.hub.vecs := rfl
@[simp] theorem putTraceQ_hub_vpend (s : State) (q : Nat) (x : TraceQ) : (s.putTraceQ q x).hub.vpend = s.hub.vpend := rfl
@[simp] theorem putTraceQ_hub_ppend (s : State) (q : Nat) (x : TraceQ) : (s.putTraceQ q x).hub.ppend = s.hub.ppend := rfl
@[simp] theorem putTraceQ_hub_msix (s : State) (q : Nat) (x : TraceQ) : (s.putTraceQ q x).hub.msix = s.hub.msix := rfl
@[simp] theorem putTraceQ_hub_threads (s : State) (q : Nat) (x : TraceQ) : (s.putTraceQ q x).hub.threads = s.hub.threads := rfl
@[simp] theorem putTraceQ_hub_tlb (s : State) (q : Nat) (x : TraceQ) : (s.putTraceQ q x).hub.tlb = s.hub.tlb := rfl
@[simp] theorem putTraceQ_hub_enclaves (s : State) (q : Nat) (x : TraceQ) : (s.putTraceQ q x).hub.enclaves = s.hub.enclaves := rfl
@[simp] theorem putTraceQ_hub_images (s : State) (q : Nat) (x : TraceQ) : (s.putTraceQ q x).hub.images = s.hub.images := rfl
@[simp] theorem putTraceQ_hub_pages (s : State) (q : Nat) (x : TraceQ) : (s.putTraceQ q x).hub.pages = s.hub.pages := rfl
@[simp] theorem putTraceQ_hub_sketches (s : State) (q : Nat) (x : TraceQ) : (s.putTraceQ q x).hub.sketches = s.hub.sketches := rfl
@[simp] theorem putTraceQ_hub_rot (s : State) (q : Nat) (x : TraceQ) : (s.putTraceQ q x).hub.rot = s.hub.rot := rfl
@[simp] theorem putTraceQ_hub_errs (s : State) (q : Nat) (x : TraceQ) : (s.putTraceQ q x).hub.errs = s.hub.errs := rfl
@[simp] theorem putTraceQ_hub_dump (s : State) (q : Nat) (x : TraceQ) : (s.putTraceQ q x).hub.dump = s.hub.dump := rfl
@[simp] theorem putTraceQ_hub_traceS (s : State) (q : Nat) (x : TraceQ) : (s.putTraceQ q x).hub.traceS = s.hub.traceS := rfl
@[simp] theorem putTraceQ_hub_traceG (s : State) (q : Nat) (x : TraceQ) : (s.putTraceQ q x).hub.traceG = s.hub.traceG := rfl
@[simp] theorem putTraceQ_hub_links (s : State) (q : Nat) (x : TraceQ) : (s.putTraceQ q x).hub.links = s.hub.links := rfl
@[simp] theorem putTraceQ_hub_tdis (s : State) (q : Nat) (x : TraceQ) : (s.putTraceQ q x).hub.tdis = s.hub.tdis := rfl
@[simp] theorem putTraceQ_hub_ideKeys (s : State) (q : Nat) (x : TraceQ) : (s.putTraceQ q x).hub.ideKeys = s.hub.ideKeys := rfl
@[simp] theorem putTraceQ_hub_dmaReply (s : State) (q : Nat) (x : TraceQ) : (s.putTraceQ q x).hub.dmaReply = s.hub.dmaReply := rfl
@[simp] theorem putTraceQ_hub_keySlotsUsed (s : State) (q : Nat) (x : TraceQ) : (s.putTraceQ q x).hub.keySlotsUsed = s.hub.keySlotsUsed := rfl
@[simp] theorem putTraceQ_hub_linkSeed (s : State) (q : Nat) (x : TraceQ) : (s.putTraceQ q x).hub.linkSeed = s.hub.linkSeed := rfl
@[simp] theorem putTraceQ_hub_ideEid (s : State) (q : Nat) (x : TraceQ) : (s.putTraceQ q x).hub.ideEid = s.hub.ideEid := rfl
@[simp] theorem putTraceQ_hub_traceK (s : State) (q : Nat) (x : TraceQ) : (s.putTraceQ q x).hub.traceK = s.hub.traceK := rfl

@[simp] theorem putTraceS_ac (s : State) (k q : Nat) (x : TraceS) : (s.putTraceS k q x).ac = s.ac := rfl
@[simp] theorem putTraceS_free (s : State) (k q : Nat) (x : TraceS) : (s.putTraceS k q x).free = s.free := rfl
@[simp] theorem putTraceS_turns (s : State) (k q : Nat) (x : TraceS) : (s.putTraceS k q x).turns = s.turns := rfl
@[simp] theorem putTraceS_agenda (s : State) (k q : Nat) (x : TraceS) : (s.putTraceS k q x).agenda = s.agenda := rfl
@[simp] theorem putTraceS_module (s : State) (k q : Nat) (x : TraceS) : (s.putTraceS k q x).module = s.module := rfl
@[simp] theorem putTraceS_dies (s : State) (k q : Nat) (x : TraceS) : (s.putTraceS k q x).dies = s.dies := rfl
@[simp] theorem putTraceS_parts (s : State) (k q : Nat) (x : TraceS) : (s.putTraceS k q x).parts = s.parts := rfl
@[simp] theorem putTraceS_simt (s : State) (k q : Nat) (x : TraceS) : (s.putTraceS k q x).simt = s.simt := rfl
@[simp] theorem putTraceS_store (s : State) (k q : Nat) (x : TraceS) : (s.putTraceS k q x).store = s.store := rfl
@[simp] theorem putTraceS_hub_queues (s : State) (k q : Nat) (x : TraceS) : (s.putTraceS k q x).hub.queues = s.hub.queues := rfl
@[simp] theorem putTraceS_hub_vfs (s : State) (k q : Nat) (x : TraceS) : (s.putTraceS k q x).hub.vfs = s.hub.vfs := rfl
@[simp] theorem putTraceS_hub_vecs (s : State) (k q : Nat) (x : TraceS) : (s.putTraceS k q x).hub.vecs = s.hub.vecs := rfl
@[simp] theorem putTraceS_hub_vpend (s : State) (k q : Nat) (x : TraceS) : (s.putTraceS k q x).hub.vpend = s.hub.vpend := rfl
@[simp] theorem putTraceS_hub_ppend (s : State) (k q : Nat) (x : TraceS) : (s.putTraceS k q x).hub.ppend = s.hub.ppend := rfl
@[simp] theorem putTraceS_hub_msix (s : State) (k q : Nat) (x : TraceS) : (s.putTraceS k q x).hub.msix = s.hub.msix := rfl
@[simp] theorem putTraceS_hub_threads (s : State) (k q : Nat) (x : TraceS) : (s.putTraceS k q x).hub.threads = s.hub.threads := rfl
@[simp] theorem putTraceS_hub_tlb (s : State) (k q : Nat) (x : TraceS) : (s.putTraceS k q x).hub.tlb = s.hub.tlb := rfl
@[simp] theorem putTraceS_hub_enclaves (s : State) (k q : Nat) (x : TraceS) : (s.putTraceS k q x).hub.enclaves = s.hub.enclaves := rfl
@[simp] theorem putTraceS_hub_images (s : State) (k q : Nat) (x : TraceS) : (s.putTraceS k q x).hub.images = s.hub.images := rfl
@[simp] theorem putTraceS_hub_pages (s : State) (k q : Nat) (x : TraceS) : (s.putTraceS k q x).hub.pages = s.hub.pages := rfl
@[simp] theorem putTraceS_hub_sketches (s : State) (k q : Nat) (x : TraceS) : (s.putTraceS k q x).hub.sketches = s.hub.sketches := rfl
@[simp] theorem putTraceS_hub_rot (s : State) (k q : Nat) (x : TraceS) : (s.putTraceS k q x).hub.rot = s.hub.rot := rfl
@[simp] theorem putTraceS_hub_errs (s : State) (k q : Nat) (x : TraceS) : (s.putTraceS k q x).hub.errs = s.hub.errs := rfl
@[simp] theorem putTraceS_hub_dump (s : State) (k q : Nat) (x : TraceS) : (s.putTraceS k q x).hub.dump = s.hub.dump := rfl
@[simp] theorem putTraceS_hub_traceQ (s : State) (k q : Nat) (x : TraceS) : (s.putTraceS k q x).hub.traceQ = s.hub.traceQ := rfl
@[simp] theorem putTraceS_hub_traceG (s : State) (k q : Nat) (x : TraceS) : (s.putTraceS k q x).hub.traceG = s.hub.traceG := rfl
@[simp] theorem putTraceS_hub_links (s : State) (k q : Nat) (x : TraceS) : (s.putTraceS k q x).hub.links = s.hub.links := rfl
@[simp] theorem putTraceS_hub_tdis (s : State) (k q : Nat) (x : TraceS) : (s.putTraceS k q x).hub.tdis = s.hub.tdis := rfl
@[simp] theorem putTraceS_hub_ideKeys (s : State) (k q : Nat) (x : TraceS) : (s.putTraceS k q x).hub.ideKeys = s.hub.ideKeys := rfl
@[simp] theorem putTraceS_hub_dmaReply (s : State) (k q : Nat) (x : TraceS) : (s.putTraceS k q x).hub.dmaReply = s.hub.dmaReply := rfl
@[simp] theorem putTraceS_hub_keySlotsUsed (s : State) (k q : Nat) (x : TraceS) : (s.putTraceS k q x).hub.keySlotsUsed = s.hub.keySlotsUsed := rfl
@[simp] theorem putTraceS_hub_linkSeed (s : State) (k q : Nat) (x : TraceS) : (s.putTraceS k q x).hub.linkSeed = s.hub.linkSeed := rfl
@[simp] theorem putTraceS_hub_ideEid (s : State) (k q : Nat) (x : TraceS) : (s.putTraceS k q x).hub.ideEid = s.hub.ideEid := rfl
@[simp] theorem putTraceS_hub_traceK (s : State) (k q : Nat) (x : TraceS) : (s.putTraceS k q x).hub.traceK = s.hub.traceK := rfl

@[simp] theorem modRot_ac (s : State) (f : Rot → Rot) : (s.modRot f).ac = s.ac := rfl
@[simp] theorem modRot_free (s : State) (f : Rot → Rot) : (s.modRot f).free = s.free := rfl
@[simp] theorem modRot_turns (s : State) (f : Rot → Rot) : (s.modRot f).turns = s.turns := rfl
@[simp] theorem modRot_agenda (s : State) (f : Rot → Rot) : (s.modRot f).agenda = s.agenda := rfl
@[simp] theorem modRot_module (s : State) (f : Rot → Rot) : (s.modRot f).module = s.module := rfl
@[simp] theorem modRot_dies (s : State) (f : Rot → Rot) : (s.modRot f).dies = s.dies := rfl
@[simp] theorem modRot_parts (s : State) (f : Rot → Rot) : (s.modRot f).parts = s.parts := rfl
@[simp] theorem modRot_simt (s : State) (f : Rot → Rot) : (s.modRot f).simt = s.simt := rfl
@[simp] theorem modRot_store (s : State) (f : Rot → Rot) : (s.modRot f).store = s.store := rfl
@[simp] theorem modRot_hub_queues (s : State) (f : Rot → Rot) : (s.modRot f).hub.queues = s.hub.queues := rfl
@[simp] theorem modRot_hub_vfs (s : State) (f : Rot → Rot) : (s.modRot f).hub.vfs = s.hub.vfs := rfl
@[simp] theorem modRot_hub_vecs (s : State) (f : Rot → Rot) : (s.modRot f).hub.vecs = s.hub.vecs := rfl
@[simp] theorem modRot_hub_vpend (s : State) (f : Rot → Rot) : (s.modRot f).hub.vpend = s.hub.vpend := rfl
@[simp] theorem modRot_hub_ppend (s : State) (f : Rot → Rot) : (s.modRot f).hub.ppend = s.hub.ppend := rfl
@[simp] theorem modRot_hub_msix (s : State) (f : Rot → Rot) : (s.modRot f).hub.msix = s.hub.msix := rfl
@[simp] theorem modRot_hub_threads (s : State) (f : Rot → Rot) : (s.modRot f).hub.threads = s.hub.threads := rfl
@[simp] theorem modRot_hub_tlb (s : State) (f : Rot → Rot) : (s.modRot f).hub.tlb = s.hub.tlb := rfl
@[simp] theorem modRot_hub_enclaves (s : State) (f : Rot → Rot) : (s.modRot f).hub.enclaves = s.hub.enclaves := rfl
@[simp] theorem modRot_hub_images (s : State) (f : Rot → Rot) : (s.modRot f).hub.images = s.hub.images := rfl
@[simp] theorem modRot_hub_pages (s : State) (f : Rot → Rot) : (s.modRot f).hub.pages = s.hub.pages := rfl
@[simp] theorem modRot_hub_sketches (s : State) (f : Rot → Rot) : (s.modRot f).hub.sketches = s.hub.sketches := rfl
@[simp] theorem modRot_hub_errs (s : State) (f : Rot → Rot) : (s.modRot f).hub.errs = s.hub.errs := rfl
@[simp] theorem modRot_hub_dump (s : State) (f : Rot → Rot) : (s.modRot f).hub.dump = s.hub.dump := rfl
@[simp] theorem modRot_hub_traceQ (s : State) (f : Rot → Rot) : (s.modRot f).hub.traceQ = s.hub.traceQ := rfl
@[simp] theorem modRot_hub_traceS (s : State) (f : Rot → Rot) : (s.modRot f).hub.traceS = s.hub.traceS := rfl
@[simp] theorem modRot_hub_traceG (s : State) (f : Rot → Rot) : (s.modRot f).hub.traceG = s.hub.traceG := rfl
@[simp] theorem modRot_hub_links (s : State) (f : Rot → Rot) : (s.modRot f).hub.links = s.hub.links := rfl
@[simp] theorem modRot_hub_tdis (s : State) (f : Rot → Rot) : (s.modRot f).hub.tdis = s.hub.tdis := rfl
@[simp] theorem modRot_hub_ideKeys (s : State) (f : Rot → Rot) : (s.modRot f).hub.ideKeys = s.hub.ideKeys := rfl
@[simp] theorem modRot_hub_dmaReply (s : State) (f : Rot → Rot) : (s.modRot f).hub.dmaReply = s.hub.dmaReply := rfl
@[simp] theorem modRot_hub_keySlotsUsed (s : State) (f : Rot → Rot) : (s.modRot f).hub.keySlotsUsed = s.hub.keySlotsUsed := rfl
@[simp] theorem modRot_hub_linkSeed (s : State) (f : Rot → Rot) : (s.modRot f).hub.linkSeed = s.hub.linkSeed := rfl
@[simp] theorem modRot_hub_ideEid (s : State) (f : Rot → Rot) : (s.modRot f).hub.ideEid = s.hub.ideEid := rfl
@[simp] theorem modRot_hub_traceK (s : State) (f : Rot → Rot) : (s.modRot f).hub.traceK = s.hub.traceK := rfl

@[simp] theorem at_ac (s : State) (due : Nat) (e : Event) : (s.at due e).ac = s.ac := rfl
@[simp] theorem at_free (s : State) (due : Nat) (e : Event) : (s.at due e).free = s.free := rfl
@[simp] theorem at_turns (s : State) (due : Nat) (e : Event) : (s.at due e).turns = s.turns := rfl
@[simp] theorem at_module (s : State) (due : Nat) (e : Event) : (s.at due e).module = s.module := rfl
@[simp] theorem at_dies (s : State) (due : Nat) (e : Event) : (s.at due e).dies = s.dies := rfl
@[simp] theorem at_parts (s : State) (due : Nat) (e : Event) : (s.at due e).parts = s.parts := rfl
@[simp] theorem at_simt (s : State) (due : Nat) (e : Event) : (s.at due e).simt = s.simt := rfl
@[simp] theorem at_store (s : State) (due : Nat) (e : Event) : (s.at due e).store = s.store := rfl
@[simp] theorem at_hub (s : State) (due : Nat) (e : Event) : (s.at due e).hub = s.hub := rfl

@[simp] theorem soon_ac (s : State) (e : Event) : (s.soon e).ac = s.ac := rfl
@[simp] theorem soon_free (s : State) (e : Event) : (s.soon e).free = s.free := rfl
@[simp] theorem soon_turns (s : State) (e : Event) : (s.soon e).turns = s.turns := rfl
@[simp] theorem soon_module (s : State) (e : Event) : (s.soon e).module = s.module := rfl
@[simp] theorem soon_dies (s : State) (e : Event) : (s.soon e).dies = s.dies := rfl
@[simp] theorem soon_parts (s : State) (e : Event) : (s.soon e).parts = s.parts := rfl
@[simp] theorem soon_simt (s : State) (e : Event) : (s.soon e).simt = s.simt := rfl
@[simp] theorem soon_store (s : State) (e : Event) : (s.soon e).store = s.store := rfl
@[simp] theorem soon_hub (s : State) (e : Event) : (s.soon e).hub = s.hub := rfl

@[simp] theorem pop_ac (s : State) : (s.pop).ac = s.ac := rfl
@[simp] theorem pop_free (s : State) : (s.pop).free = s.free := rfl
@[simp] theorem pop_agenda (s : State) : (s.pop).agenda = s.agenda := rfl
@[simp] theorem pop_module (s : State) : (s.pop).module = s.module := rfl
@[simp] theorem pop_dies (s : State) : (s.pop).dies = s.dies := rfl
@[simp] theorem pop_parts (s : State) : (s.pop).parts = s.parts := rfl
@[simp] theorem pop_simt (s : State) : (s.pop).simt = s.simt := rfl
@[simp] theorem pop_store (s : State) : (s.pop).store = s.store := rfl
@[simp] theorem pop_hub (s : State) : (s.pop).hub = s.hub := rfl

@[simp] theorem drawn_ac (s : State) : (s.drawn).ac = s.ac := rfl
@[simp] theorem drawn_turns (s : State) : (s.drawn).turns = s.turns := rfl
@[simp] theorem drawn_agenda (s : State) : (s.drawn).agenda = s.agenda := rfl
@[simp] theorem drawn_module (s : State) : (s.drawn).module = s.module := rfl
@[simp] theorem drawn_dies (s : State) : (s.drawn).dies = s.dies := rfl
@[simp] theorem drawn_parts (s : State) : (s.drawn).parts = s.parts := rfl
@[simp] theorem drawn_simt (s : State) : (s.drawn).simt = s.simt := rfl
@[simp] theorem drawn_store (s : State) : (s.drawn).store = s.store := rfl
@[simp] theorem drawn_hub (s : State) : (s.drawn).hub = s.hub := rfl

@[simp] theorem poke_ac (s : State) (a : Nat) (bs : List Byte) : (s.poke a bs).ac = s.ac := rfl
@[simp] theorem poke_free (s : State) (a : Nat) (bs : List Byte) : (s.poke a bs).free = s.free := rfl
@[simp] theorem poke_turns (s : State) (a : Nat) (bs : List Byte) : (s.poke a bs).turns = s.turns := rfl
@[simp] theorem poke_agenda (s : State) (a : Nat) (bs : List Byte) : (s.poke a bs).agenda = s.agenda := rfl
@[simp] theorem poke_module (s : State) (a : Nat) (bs : List Byte) : (s.poke a bs).module = s.module := rfl
@[simp] theorem poke_dies (s : State) (a : Nat) (bs : List Byte) : (s.poke a bs).dies = s.dies := rfl
@[simp] theorem poke_parts (s : State) (a : Nat) (bs : List Byte) : (s.poke a bs).parts = s.parts := rfl
@[simp] theorem poke_simt (s : State) (a : Nat) (bs : List Byte) : (s.poke a bs).simt = s.simt := rfl
@[simp] theorem poke_hub (s : State) (a : Nat) (bs : List Byte) : (s.poke a bs).hub = s.hub := rfl
@[simp] theorem poke_store_poison (s : State) (a : Nat) (bs : List Byte) : (s.poke a bs).store.poison = s.store.poison := rfl
@[simp] theorem poke_store_latent (s : State) (a : Nat) (bs : List Byte) : (s.poke a bs).store.latent = s.store.latent := rfl
@[simp] theorem poke_store_syncLines (s : State) (a : Nat) (bs : List Byte) : (s.poke a bs).store.syncLines = s.store.syncLines := rfl
@[simp] theorem poke_store_pot (s : State) (a : Nat) (bs : List Byte) : (s.poke a bs).store.pot = s.store.pot := rfl
@[simp] theorem poke_store_hbm (s : State) (a : Nat) (bs : List Byte) : (s.poke a bs).store.hbm = s.store.hbm := rfl
@[simp] theorem poke_store_tuples (s : State) (a : Nat) (bs : List Byte) : (s.poke a bs).store.tuples = s.store.tuples := rfl
@[simp] theorem poke_store_tupAge (s : State) (a : Nat) (bs : List Byte) : (s.poke a bs).store.tupAge = s.store.tupAge := rfl
@[simp] theorem poke_store_reqs (s : State) (a : Nat) (bs : List Byte) : (s.poke a bs).store.reqs = s.store.reqs := rfl
@[simp] theorem poke_store_syncOver (s : State) (a : Nat) (bs : List Byte) : (s.poke a bs).store.syncOver = s.store.syncOver := rfl

@[simp] theorem later_ac (s : State) (e : Event) : (s.later e).ac = s.ac := rfl
@[simp] theorem later_turns (s : State) (e : Event) : (s.later e).turns = s.turns := rfl
@[simp] theorem later_module (s : State) (e : Event) : (s.later e).module = s.module := rfl
@[simp] theorem later_dies (s : State) (e : Event) : (s.later e).dies = s.dies := rfl
@[simp] theorem later_parts (s : State) (e : Event) : (s.later e).parts = s.parts := rfl
@[simp] theorem later_simt (s : State) (e : Event) : (s.later e).simt = s.simt := rfl
@[simp] theorem later_store (s : State) (e : Event) : (s.later e).store = s.store := rfl
@[simp] theorem later_hub (s : State) (e : Event) : (s.later e).hub = s.hub := rfl
@[simp] theorem laterWithin_ac (s : State) (n : Nat) (e : Event) : (s.laterWithin n e).ac = s.ac := rfl
@[simp] theorem laterWithin_turns (s : State) (n : Nat) (e : Event) : (s.laterWithin n e).turns = s.turns := rfl
@[simp] theorem laterWithin_module (s : State) (n : Nat) (e : Event) : (s.laterWithin n e).module = s.module := rfl
@[simp] theorem laterWithin_dies (s : State) (n : Nat) (e : Event) : (s.laterWithin n e).dies = s.dies := rfl
@[simp] theorem laterWithin_parts (s : State) (n : Nat) (e : Event) : (s.laterWithin n e).parts = s.parts := rfl
@[simp] theorem laterWithin_simt (s : State) (n : Nat) (e : Event) : (s.laterWithin n e).simt = s.simt := rfl
@[simp] theorem laterWithin_store (s : State) (n : Nat) (e : Event) : (s.laterWithin n e).store = s.store := rfl
@[simp] theorem laterWithin_hub (s : State) (n : Nat) (e : Event) : (s.laterWithin n e).hub = s.hub := rfl

/-! ### What is put is what is read, and nothing else is changed -/

@[simp] theorem group?_putGroup_same (s : State) (gid : Nat) (g : Group) : (s.putGroup gid g).group? gid = some g :=
  Tbl.get?_put_same ..
theorem group?_putGroup_other (s : State) {gid i : Nat} (g : Group) (h : i ≠ gid) : (s.putGroup gid g).group? i = s.group? i :=
  Tbl.get?_put_other _ _ h
@[simp] theorem thread_putThread_same (s : State) (t : Nat) (x : Thread) : (s.putThread t x).thread t = x :=
  Tbl.getD_put_same ..
theorem thread_putThread_other (s : State) {t u : Nat} (x : Thread) (h : u ≠ t) : (s.putThread t x).thread u = s.thread u :=
  Tbl.getD_put_other _ _ _ h
@[simp] theorem thread_modThread_same (s : State) (t : Nat) (f : Thread → Thread) : (s.modThread t f).thread t = f (s.thread t) :=
  Tbl.getD_put_same ..
theorem thread_modThread_other (s : State) {t u : Nat} (f : Thread → Thread) (h : u ≠ t) :
    (s.modThread t f).thread u = s.thread u := Tbl.getD_put_other _ _ _ h
@[simp] theorem queue_putQueue_same (s : State) (q : Nat) (x : Queue) : (s.putQueue q x).queue q = x := Tbl.getD_put_same ..
theorem queue_putQueue_other (s : State) {q r : Nat} (x : Queue) (h : r ≠ q) : (s.putQueue q x).queue r = s.queue r :=
  Tbl.getD_put_other _ _ _ h
@[simp] theorem queue_modQueue_same (s : State) (q : Nat) (f : Queue → Queue) : (s.modQueue q f).queue q = f (s.queue q) :=
  Tbl.getD_put_same ..
@[simp] theorem ctx_putCtx_same (s : State) (q : Nat) (c : Ctx) : (s.putCtx q c).ctx q = c := Tbl.getD_put_same ..
theorem ctx_putCtx_other (s : State) {q r : Nat} (c : Ctx) (h : r ≠ q) : (s.putCtx q c).ctx r = s.ctx r :=
  Tbl.getD_put_other _ _ _ h
@[simp] theorem vf_putVf_same (s : State) (v : Nat) (x : Vf) : (s.putVf v x).vf v = x := Tbl.getD_put_same ..
@[simp] theorem vec_putVec_same (s : State) (v : Nat) (x : Vec) : (s.putVec v x).vec v = x := Tbl.getD_put_same ..
@[simp] theorem part_putPart_same (s : State) (p : Nat) (x : Part) : (s.putPart p x).part p = x := Tbl.getD_put_same ..
@[simp] theorem hbm_putHbm_same (s : State) (t : Nat) (x : Stack) : (s.putHbm t x).hbm t = x := Tbl.getD_put_same ..

/-! ### Groups and threads do not change with time, turns or the agenda -/

@[simp] theorem group?_pop (s : State) (i : Nat) : s.pop.group? i = s.group? i := rfl
@[simp] theorem group?_at (s : State) (d i : Nat) (e : Event) : (s.at d e).group? i = s.group? i := rfl
@[simp] theorem group?_later (s : State) (i : Nat) (e : Event) : (s.later e).group? i = s.group? i := rfl
@[simp] theorem group?_putSched (s : State) (k : Nat) (c : Option (Nat × Nat)) (i : Nat) :
    (s.putSched k c).group? i = s.group? i := rfl
@[simp] theorem thread_pop (s : State) (t : Nat) : s.pop.thread t = s.thread t := rfl
@[simp] theorem thread_at (s : State) (d t : Nat) (e : Event) : (s.at d e).thread t = s.thread t := rfl
@[simp] theorem thread_putGroup (s : State) (gid : Nat) (g : Group) (t : Nat) : (s.putGroup gid g).thread t = s.thread t := rfl
@[simp] theorem byte_pop (s : State) (a : Nat) : s.pop.byte a = s.byte a := rfl
@[simp] theorem byte_at (s : State) (d a : Nat) (e : Event) : (s.at d e).byte a = s.byte a := rfl
@[simp] theorem byte_later (s : State) (a : Nat) (e : Event) : (s.later e).byte a = s.byte a := rfl
@[simp] theorem byte_putGroup (s : State) (gid : Nat) (g : Group) (a : Nat) : (s.putGroup gid g).byte a = s.byte a := rfl
@[simp] theorem byte_putThread (s : State) (t : Nat) (x : Thread) (a : Nat) : (s.putThread t x).byte a = s.byte a := rfl
@[simp] theorem byte_modThread (s : State) (t : Nat) (f : Thread → Thread) (a : Nat) : (s.modThread t f).byte a = s.byte a := rfl
@[simp] theorem byte_putQueue (s : State) (q : Nat) (x : Queue) (a : Nat) : (s.putQueue q x).byte a = s.byte a := rfl

end Sys2Proof.Machine
end

