-- ==== Sys2Proof/Laws/Issue.lean ====
section
/-! SUPPORT. Laws/Issue.lean: what each way of issuing an instruction does, once: the agent, the faults before its own, the
fault of its body, and its completion. -/

namespace Sys2Proof.Machine

theorem issuer_split {s : State} {gid sp : Nat} {g : Group} {p : Split} (h : s.AtSplit gid sp g p)
    (f : Nat → Nat → Group → Split → State) (k : Nat → Thread → State) : s.issuer f k = .next (f gid sp g p) := by
  obtain ⟨h1, h2, h3⟩ := h
  unfold State.issuer
  cases e : s.turns with
  | nil => simp [e] at h1
  | cons a r =>
    simp only [e, List.head?_cons, Option.some.injEq] at h1
    subst h1
    simp [h2, h3]

theorem issuer_thread {s : State} {tid : Nat} {t : Thread} (h : s.AtThread tid t)
    (f : Nat → Nat → Group → Split → State) (k : Nat → Thread → State) : s.issuer f k = .next (k tid t) := by
  obtain ⟨h1, h2⟩ := h
  unfold State.issuer
  cases e : s.turns with
  | nil => simp [e] at h1
  | cons a r =>
    simp only [e, List.head?_cons, Option.some.injEq] at h1
    subst h1
    simp [h2]

theorem issueGuard_pass {g : Group} {p : Split} {i : Spec} {active : W32} (h : g.Passes p i active) (s : State)
    (gid sp : Nat) (k : State) : s.issueGuard gid sp g p i active k = k := by
  obtain ⟨h1, h2, h3, h4, h5⟩ := h
  simp only [poisonMet, Option.map_eq_none_iff] at h5
  simp [State.issueGuard, Regs.marks, poisonErrs, poisonFlt, h1, h2, h3, h4, h5]

theorem issueSplit_ok {g : Group} {p : Split} {i : Spec} {active : W32} (h : g.Passes p i active) (s : State)
    (gid sp : Nat) (fixed : Bool) (d : Done) :
    s.issueSplit gid sp g p i active fixed (.ok d) = d.post (d.s.advance gid sp i.m i.len fixed d.next d.park) := by
  simp [State.issueSplit, issueGuard_pass h]

theorem issueSplit_error {g : Group} {p : Split} {i : Spec} {active : W32} (h : g.Passes p i active) (s : State)
    (gid sp : Nat) (fixed : Bool) (f : Flt) :
    s.issueSplit gid sp g p i active fixed (.error f) = s.issueFlt gid sp g i.rkind f := by
  simp [State.issueSplit, issueGuard_pass h]

theorem issueThread_ok {t : Thread} {i : Spec} (h : t.Passes i) (s s' : State) (tid : Nat) (next : Option W64) :
    s.issueThread tid t i (.ok (s', next))
      = (s'.modThread tid fun t => { t with pc := next.getD (t.pc + BitVec.ofNat 64 (4 * i.len)) }).pop := by
  obtain ⟨h1, h2, h3⟩ := h
  simp [State.issueThread, Thread.marks, poisonErrs, h1, h2, h3]

theorem issueThread_error {t : Thread} {i : Spec} (h : t.Passes i) (s : State) (tid c v : Nat) :
    s.issueThread tid t i (.error (c, v)) = (s.logThread tid c v).threadFault tid c v := by
  obtain ⟨h1, h2, h3⟩ := h
  simp [State.issueThread, Thread.marks, poisonErrs, h1, h2, h3]

/-! ### Each way of issuing, completed -/

theorem vecAluOn_next {s : State} {gid sp : Nat} {g : Group} {p : Split} (h : s.AtSplit gid sp g p) {act : Rd → W32}
    {spec : Rd → Spec} {fixed : Bool} {f : Rd → Except Flt RegWrites} {w : RegWrites}
    (hp : g.Passes p ((spec (s.rdSplit g sp p)).guarded (s.rdSplit g sp p)) (act (s.rdSplit g sp p)))
    (hw : f (s.rdSplit g sp p) = .ok w) :
    vecAluOn s act spec fixed f = .next (s.vecDone gid sp (spec (s.rdSplit g sp p)).m (spec (s.rdSplit g sp p)).len
      (act (s.rdSplit g sp p)) fixed w) := by
  unfold vecAluOn
  rw [issuer_split h]
  simp only [hw]
  exact congrArg _ (issueSplit_ok hp s gid sp fixed _)

theorem vecAlu_next {s : State} {gid sp : Nat} {g : Group} {p : Split} (h : s.AtSplit gid sp g p)
    {spec : Rd → Spec} {fixed : Bool} {f : Rd → Except Flt RegWrites} {w : RegWrites}
    (hp : g.Passes p ((spec (s.rdSplit g sp p)).guarded (s.rdSplit g sp p)) (s.rdSplit g sp p).active)
    (hw : f (s.rdSplit g sp p) = .ok w) :
    vecAlu s spec fixed f = .next (s.vecDone gid sp (spec (s.rdSplit g sp p)).m (spec (s.rdSplit g sp p)).len
      (s.rdSplit g sp p).active fixed w) := vecAluOn_next h hp hw

theorem uniAlu_split {s : State} {gid sp : Nat} {g : Group} {p : Split} (h : s.AtSplit gid sp g p)
    {spec : Rd → Spec} {fixed : Bool} {f : Rd → Except (Nat × Nat) RegWrites} {w : RegWrites}
    (hp : g.Passes p (spec (s.rdSplit g sp p)) p.mask) (hw : f (s.rdSplit g sp p) = .ok w) :
    uniAlu s spec fixed f = .next (s.uniDone gid sp p (spec (s.rdSplit g sp p)).m (spec (s.rdSplit g sp p)).len fixed w) := by
  unfold uniAlu
  rw [issuer_split h]
  simp only [hw]
  exact congrArg _ (issueSplit_ok hp s gid sp fixed _)

theorem simtOnly_next {s : State} {gid sp : Nat} {g : Group} {p : Split} (h : s.AtSplit gid sp g p) {act : Rd → W32}
    {spec : Rd → Spec} {body : Nat → Nat → Group → Split → Rd → Except Flt Done} {d : Done}
    (hp : g.Passes p (spec (s.rdSplit g sp p)) (act (s.rdSplit g sp p)))
    (hd : body gid sp g p (s.rdSplit g sp p) = .ok d) :
    simtOnly s spec act body = .next (d.post (d.s.advance gid sp (spec (s.rdSplit g sp p)).m (spec (s.rdSplit g sp p)).len
      false d.next d.park)) := by
  unfold simtOnly
  rw [issuer_split h]
  simp only [hd]
  exact congrArg _ (issueSplit_ok hp s gid sp false d)

theorem uniBoth_split {s : State} {gid sp : Nat} {g : Group} {p : Split} (h : s.AtSplit gid sp g p) {fixed : Bool}
    {spec : Rd → Spec} {simt : Nat → Nat → Group → Split → Rd → Except (Nat × Nat) Done}
    {thread : Nat → Thread → Rd → Except (Nat × Nat) (State × Option W64)} {d : Done}
    (hp : g.Passes p (spec (s.rdSplit g sp p)) p.mask) (hd : simt gid sp g p (s.rdSplit g sp p) = .ok d) :
    uniBoth s fixed spec simt thread = .next (d.post (d.s.advance gid sp (spec (s.rdSplit g sp p)).m
      (spec (s.rdSplit g sp p)).len fixed d.next d.park)) := by
  unfold uniBoth
  rw [issuer_split h]
  simp only [hd]
  exact congrArg _ (issueSplit_ok hp s gid sp fixed d)

theorem uniBoth_thread {s : State} {tid : Nat} {t : Thread} (h : s.AtThread tid t) {fixed : Bool}
    {spec : Rd → Spec} {simt : Nat → Nat → Group → Split → Rd → Except (Nat × Nat) Done}
    {thread : Nat → Thread → Rd → Except (Nat × Nat) (State × Option W64)} {s' : State} {next : Option W64}
    (hp : t.Passes (spec (t.rd tid))) (hd : thread tid t (t.rd tid) = .ok (s', next)) :
    uniBoth s fixed spec simt thread
      = .next (s'.modThread tid fun u => { u with pc := next.getD (u.pc + BitVec.ofNat 64 (4 * (spec (t.rd tid)).len)) }).pop := by
  unfold uniBoth
  rw [issuer_thread h]
  simp only [hd, issueThread_ok hp]

theorem threadOnly_next {s : State} {tid : Nat} {t : Thread} (h : s.AtThread tid t) {level : Nat} {spec : Rd → Spec}
    {body : Nat → Thread → Rd → Except (Nat × Nat) (State × Option W64)} {s' : State} {next : Option W64}
    (hl : level ≤ t.lvl) (hp : t.Passes (spec (t.rd tid))) (hd : body tid t (t.rd tid) = .ok (s', next)) :
    threadOnly s level spec body
      = .next (s'.modThread tid fun u => { u with pc := next.getD (u.pc + BitVec.ofNat 64 (4 * (spec (t.rd tid)).len)) }).pop := by
  unfold threadOnly
  rw [issuer_thread h]
  simp only [hd, issueThread_ok hp, if_neg (Nat.not_lt.mpr hl)]

theorem threadOnly_priv {s : State} {tid : Nat} {t : Thread} (h : s.AtThread tid t) {level : Nat} {spec : Rd → Spec}
    {body : Nat → Thread → Rd → Except (Nat × Nat) (State × Option W64)} (hl : t.lvl < level) :
    threadOnly s level spec body = .next (s.threadFault tid 5 0) := by
  unfold threadOnly
  rw [issuer_thread h, if_pos hl]

theorem simtOnly_undef {s : State} {tid : Nat} {t : Thread} (h : s.AtThread tid t) {act : Rd → W32}
    {spec : Rd → Spec} {body : Nat → Nat → Group → Split → Rd → Except Flt Done} :
    simtOnly s spec act body = .next (s.threadFault tid 1 0) := issuer_thread h _ _

/-- Two puts of one key are one. -/
theorem put_put {α : Type} (t : Table α) (n : Nat) (x y : α) : Tbl.put (Tbl.put t n x) n y = Tbl.put t n y := by
  have del_ins : ∀ (r : Table α), Tbl.del r n = r → Tbl.del (Tbl.ins r n x) n = r := by
    intro r
    induction r with
    | nil => intro _; simp [Tbl.ins, Tbl.del]
    | cons q r ih =>
      obtain ⟨k, v⟩ := q
      intro h
      have hk : k ≠ n := by
        intro e
        rw [Tbl.del, if_pos e] at h
        have := congrArg List.length h
        have hl : ∀ t : Table α, (Tbl.del t n).length ≤ t.length := by
          intro t
          induction t with
          | nil => simp [Tbl.del]
          | cons q t ih => obtain ⟨k, v⟩ := q; simp only [Tbl.del]; split <;> simp <;> omega
        have := hl r
        simp at *; omega
      rw [Tbl.del, if_neg hk] at h
      simp only [Tbl.ins]
      split
      · rw [Tbl.del, if_pos rfl, Tbl.del, if_neg hk]; exact h
      · rw [Tbl.del, if_neg hk, ih (List.cons.inj h).2]
  have dd : ∀ r : Table α, Tbl.del (Tbl.del r n) n = Tbl.del r n := by
    intro r
    induction r with
    | nil => rfl
    | cons q r ih =>
      obtain ⟨k, v⟩ := q
      simp only [Tbl.del]
      split
      · exact ih
      · rw [Tbl.del, if_neg ‹_›, ih]
  rw [Tbl.put, Tbl.put, Tbl.put, del_ins _ (dd t)]

@[simp] theorem putThread_putThread (s : State) (t : Nat) (x y : Thread) : (s.putThread t x).putThread t y = s.putThread t y := by
  simp [State.putThread, State.modHub, put_put]

@[simp] theorem modThread_modThread (s : State) (t : Nat) (f k : Thread → Thread) :
    (s.modThread t f).modThread t k = s.putThread t (k (f (s.thread t))) := by
  rw [State.modThread, State.modThread, thread_putThread_same, putThread_putThread]

/-- A uniform computation of a control thread: the result is written, and the thread goes on. -/
theorem uniAlu_thread {s : State} {tid : Nat} {t : Thread} (h : s.AtThread tid t)
    {spec : Rd → Spec} {fixed : Bool} {f : Rd → Except (Nat × Nat) RegWrites} {w : RegWrites}
    (hp : t.Passes (spec (t.rd tid))) (hw : f (t.rd tid) = .ok w) :
    uniAlu s spec fixed f = .next (s.threadDone tid ((t.write w).onward (spec (t.rd tid)).len)) := by
  unfold uniAlu
  rw [issuer_thread h]
  simp only [hw, issueThread_ok hp, modThread_modThread, State.threadDone, h.2, Thread.onward]
  rfl

end Sys2Proof.Machine
end

