-- ==== Sys2Proof/Laws/PerInstr.lean ====
section
/-! SUPPORT. Laws/PerInstr.lean: for each instruction, that decoding its words gives it back: the decoder of R148 to R166 for
an Amitia instruction, that of R338 for a sketch operation; a step of hardware has no words. -/

namespace Sys2Proof.Laws.RoundTrip

/-- A well-formed instruction's words decode to it, whatever words follow. -/
def Statement (i : Instr) : Prop :=
  i.wf = true →
    match i.toRaw with
    | some _ => ∀ rest : List W32, decode (encode i ++ rest) = .ok (i, rest)
    | none =>
      match i.toSketch with
      | some _ => ∃ w : W32, encode i = [w] ∧ decodeSketch w = some i
      | none => encode i = []

theorem iadd (x : Op3) : Statement (.iadd x) := fun h rest =>
  decode_words _ _ rest rfl (ok_of_fit (shape0 false 0 x h).2 rfl rfl rfl) (congrArg (Option.map Instr.iadd) (shape0 false 0 x h).1)

theorem isub (x : Op3) : Statement (.isub x) := fun h rest =>
  decode_words _ _ rest rfl (ok_of_fit (shape0 false 1 x h).2 rfl rfl rfl) (congrArg (Option.map Instr.isub) (shape0 false 1 x h).1)

theorem imul (x : Op3) : Statement (.imul x) := fun h rest =>
  decode_words _ _ rest rfl (ok_of_fit (shape0 false 2 x h).2 rfl rfl rfl) (congrArg (Option.map Instr.imul) (shape0 false 2 x h).1)

theorem imulh (x : Op3) : Statement (.imulh x) := fun h rest =>
  decode_words _ _ rest rfl (ok_of_fit (shape0 false 3 x h).2 rfl rfl rfl) (congrArg (Option.map Instr.imulh) (shape0 false 3 x h).1)

theorem imad (x : Op3) : Statement (.imad x) := fun h rest =>
  decode_words _ _ rest rfl (ok_of_fit (shape0 false 4 x h).2 rfl rfl rfl) (congrArg (Option.map Instr.imad) (shape0 false 4 x h).1)

theorem imin (x : Op3) : Statement (.imin x) := fun h rest =>
  decode_words _ _ rest rfl (ok_of_fit (shape0 false 5 x h).2 rfl rfl rfl) (congrArg (Option.map Instr.imin) (shape0 false 5 x h).1)

theorem imax (x : Op3) : Statement (.imax x) := fun h rest =>
  decode_words _ _ rest rfl (ok_of_fit (shape0 false 6 x h).2 rfl rfl rfl) (congrArg (Option.map Instr.imax) (shape0 false 6 x h).1)

theorem iabs (x : Op2) : Statement (.iabs x) := fun h rest =>
  decode_words _ _ rest rfl (ok_of_fit (shape1 false 7 x h).2 rfl rfl rfl) (congrArg (Option.map Instr.iabs) (shape1 false 7 x h).1)

theorem ineg (x : Op2) : Statement (.ineg x) := fun h rest =>
  decode_words _ _ rest rfl (ok_of_fit (shape1 false 8 x h).2 rfl rfl rfl) (congrArg (Option.map Instr.ineg) (shape1 false 8 x h).1)

theorem andV (x : Op3) : Statement (.andV x) := fun h rest =>
  decode_words _ _ rest rfl (ok_of_fit (shape0 false 9 x h).2 rfl rfl rfl) (congrArg (Option.map Instr.andV) (shape0 false 9 x h).1)

theorem orV (x : Op3) : Statement (.orV x) := fun h rest =>
  decode_words _ _ rest rfl (ok_of_fit (shape0 false 10 x h).2 rfl rfl rfl) (congrArg (Option.map Instr.orV) (shape0 false 10 x h).1)

theorem xorV (x : Op3) : Statement (.xorV x) := fun h rest =>
  decode_words _ _ rest rfl (ok_of_fit (shape0 false 11 x h).2 rfl rfl rfl) (congrArg (Option.map Instr.xorV) (shape0 false 11 x h).1)

theorem andn (x : Op3) : Statement (.andn x) := fun h rest =>
  decode_words _ _ rest rfl (ok_of_fit (shape0 false 12 x h).2 rfl rfl rfl) (congrArg (Option.map Instr.andn) (shape0 false 12 x h).1)

theorem notV (x : Op2) : Statement (.notV x) := fun h rest =>
  decode_words _ _ rest rfl (ok_of_fit (shape1 false 13 x h).2 rfl rfl rfl) (congrArg (Option.map Instr.notV) (shape1 false 13 x h).1)

theorem shl (x : Op3) : Statement (.shl x) := fun h rest =>
  decode_words _ _ rest rfl (ok_of_fit (shape0 false 14 x h).2 rfl rfl rfl) (congrArg (Option.map Instr.shl) (shape0 false 14 x h).1)

theorem shr (x : Op3) : Statement (.shr x) := fun h rest =>
  decode_words _ _ rest rfl (ok_of_fit (shape0 false 15 x h).2 rfl rfl rfl) (congrArg (Option.map Instr.shr) (shape0 false 15 x h).1)

theorem sar (x : Op3) : Statement (.sar x) := fun h rest =>
  decode_words _ _ rest rfl (ok_of_fit (shape0 false 16 x h).2 rfl rfl rfl) (congrArg (Option.map Instr.sar) (shape0 false 16 x h).1)

theorem rotl (x : Op3) : Statement (.rotl x) := fun h rest =>
  decode_words _ _ rest rfl (ok_of_fit (shape0 false 17 x h).2 rfl rfl rfl) (congrArg (Option.map Instr.rotl) (shape0 false 17 x h).1)

theorem bfx (x : Op3) : Statement (.bfx x) := fun h rest =>
  decode_words _ _ rest rfl (ok_of_fit (shape0 false 18 x h).2 rfl rfl rfl) (congrArg (Option.map Instr.bfx) (shape0 false 18 x h).1)

theorem bfi (x : Op3) : Statement (.bfi x) := fun h rest =>
  decode_words _ _ rest rfl (ok_of_fit (shape0 false 19 x h).2 rfl rfl rfl) (congrArg (Option.map Instr.bfi) (shape0 false 19 x h).1)

theorem popc (x : Op2) : Statement (.popc x) := fun h rest =>
  decode_words _ _ rest rfl (ok_of_fit (shape1 false 20 x h).2 rfl rfl rfl) (congrArg (Option.map Instr.popc) (shape1 false 20 x h).1)

theorem clz (x : Op2) : Statement (.clz x) := fun h rest =>
  decode_words _ _ rest rfl (ok_of_fit (shape1 false 21 x h).2 rfl rfl rfl) (congrArg (Option.map Instr.clz) (shape1 false 21 x h).1)

theorem ctz (x : Op2) : Statement (.ctz x) := fun h rest =>
  decode_words _ _ rest rfl (ok_of_fit (shape1 false 22 x h).2 rfl rfl rfl) (congrArg (Option.map Instr.ctz) (shape1 false 22 x h).1)

theorem brev (x : Op2) : Statement (.brev x) := fun h rest =>
  decode_words _ _ rest rfl (ok_of_fit (shape1 false 23 x h).2 rfl rfl rfl) (congrArg (Option.map Instr.brev) (shape1 false 23 x h).1)

theorem idp4 (x : Op3) : Statement (.idp4 x) := fun h rest =>
  decode_words _ _ rest rfl (ok_of_fit (shape0 false 24 x h).2 rfl rfl rfl) (congrArg (Option.map Instr.idp4) (shape0 false 24 x h).1)

theorem idiv (x : Op3) : Statement (.idiv x) := fun h rest =>
  decode_words _ _ rest rfl (ok_of_fit (shape0 false 25 x h).2 rfl rfl rfl) (congrArg (Option.map Instr.idiv) (shape0 false 25 x h).1)

theorem irem (x : Op3) : Statement (.irem x) := fun h rest =>
  decode_words _ _ rest rfl (ok_of_fit (shape0 false 26 x h).2 rfl rfl rfl) (congrArg (Option.map Instr.irem) (shape0 false 26 x h).1)

theorem mov (x : Op2) : Statement (.mov x) := fun h rest =>
  decode_words _ _ rest rfl (ok_of_fit (shape1 false 27 x h).2 rfl rfl rfl) (congrArg (Option.map Instr.mov) (shape1 false 27 x h).1)

theorem sel (x : Op3) : Statement (.sel x) := fun h rest =>
  decode_words _ _ rest rfl (ok_of_fit (shape0 false 28 x h).2 rfl rfl rfl) (congrArg (Option.map Instr.sel) (shape0 false 28 x h).1)

theorem icmp (x : CmpI) : Statement (.icmp x) := fun h rest =>
  decode_words _ _ rest rfl (ok_of_fit (shape2 false 29 x h).2 rfl rfl rfl) (congrArg (Option.map Instr.icmp) (shape2 false 29 x h).1)

theorem mulw (x : Op3) : Statement (.mulw x) := fun h rest =>
  decode_words _ _ rest rfl (ok_of_fit (shape0 false 30 x h).2 rfl rfl rfl) (congrArg (Option.map Instr.mulw) (shape0 false 30 x h).1)

theorem prmt (x : Op3) : Statement (.prmt x) := fun h rest =>
  decode_words _ _ rest rfl (ok_of_fit (shape0 false 31 x h).2 rfl rfl rfl) (congrArg (Option.map Instr.prmt) (shape0 false 31 x h).1)

theorem iaddU (x : Op3) : Statement (.iaddU x) := fun h rest =>
  decode_words _ _ rest rfl (ok_of_fit (shape3 true 0 x h).2 rfl rfl rfl) (congrArg (Option.map Instr.iaddU) (shape3 true 0 x h).1)

theorem isubU (x : Op3) : Statement (.isubU x) := fun h rest =>
  decode_words _ _ rest rfl (ok_of_fit (shape3 true 1 x h).2 rfl rfl rfl) (congrArg (Option.map Instr.isubU) (shape3 true 1 x h).1)

theorem imulU (x : Op3) : Statement (.imulU x) := fun h rest =>
  decode_words _ _ rest rfl (ok_of_fit (shape3 true 2 x h).2 rfl rfl rfl) (congrArg (Option.map Instr.imulU) (shape3 true 2 x h).1)

theorem imulhU (x : Op3) : Statement (.imulhU x) := fun h rest =>
  decode_words _ _ rest rfl (ok_of_fit (shape3 true 3 x h).2 rfl rfl rfl) (congrArg (Option.map Instr.imulhU) (shape3 true 3 x h).1)

theorem imadU (x : Op3) : Statement (.imadU x) := fun h rest =>
  decode_words _ _ rest rfl (ok_of_fit (shape3 true 4 x h).2 rfl rfl rfl) (congrArg (Option.map Instr.imadU) (shape3 true 4 x h).1)

theorem iminU (x : Op3) : Statement (.iminU x) := fun h rest =>
  decode_words _ _ rest rfl (ok_of_fit (shape3 true 5 x h).2 rfl rfl rfl) (congrArg (Option.map Instr.iminU) (shape3 true 5 x h).1)

theorem imaxU (x : Op3) : Statement (.imaxU x) := fun h rest =>
  decode_words _ _ rest rfl (ok_of_fit (shape3 true 6 x h).2 rfl rfl rfl) (congrArg (Option.map Instr.imaxU) (shape3 true 6 x h).1)

theorem iabsU (x : Op2) : Statement (.iabsU x) := fun h rest =>
  decode_words _ _ rest rfl (ok_of_fit (shape4 true 7 x h).2 rfl rfl rfl) (congrArg (Option.map Instr.iabsU) (shape4 true 7 x h).1)

theorem inegU (x : Op2) : Statement (.inegU x) := fun h rest =>
  decode_words _ _ rest rfl (ok_of_fit (shape4 true 8 x h).2 rfl rfl rfl) (congrArg (Option.map Instr.inegU) (shape4 true 8 x h).1)

theorem andU (x : Op3) : Statement (.andU x) := fun h rest =>
  decode_words _ _ rest rfl (ok_of_fit (shape3 true 9 x h).2 rfl rfl rfl) (congrArg (Option.map Instr.andU) (shape3 true 9 x h).1)

theorem orU (x : Op3) : Statement (.orU x) := fun h rest =>
  decode_words _ _ rest rfl (ok_of_fit (shape3 true 10 x h).2 rfl rfl rfl) (congrArg (Option.map Instr.orU) (shape3 true 10 x h).1)

theorem xorU (x : Op3) : Statement (.xorU x) := fun h rest =>
  decode_words _ _ rest rfl (ok_of_fit (shape3 true 11 x h).2 rfl rfl rfl) (congrArg (Option.map Instr.xorU) (shape3 true 11 x h).1)

theorem andnU (x : Op3) : Statement (.andnU x) := fun h rest =>
  decode_words _ _ rest rfl (ok_of_fit (shape3 true 12 x h).2 rfl rfl rfl) (congrArg (Option.map Instr.andnU) (shape3 true 12 x h).1)

theorem notU (x : Op2) : Statement (.notU x) := fun h rest =>
  decode_words _ _ rest rfl (ok_of_fit (shape4 true 13 x h).2 rfl rfl rfl) (congrArg (Option.map Instr.notU) (shape4 true 13 x h).1)

theorem shlU (x : Op3) : Statement (.shlU x) := fun h rest =>
  decode_words _ _ rest rfl (ok_of_fit (shape3 true 14 x h).2 rfl rfl rfl) (congrArg (Option.map Instr.shlU) (shape3 true 14 x h).1)

theorem shrU (x : Op3) : Statement (.shrU x) := fun h rest =>
  decode_words _ _ rest rfl (ok_of_fit (shape3 true 15 x h).2 rfl rfl rfl) (congrArg (Option.map Instr.shrU) (shape3 true 15 x h).1)

theorem sarU (x : Op3) : Statement (.sarU x) := fun h rest =>
  decode_words _ _ rest rfl (ok_of_fit (shape3 true 16 x h).2 rfl rfl rfl) (congrArg (Option.map Instr.sarU) (shape3 true 16 x h).1)

theorem rotlU (x : Op3) : Statement (.rotlU x) := fun h rest =>
  decode_words _ _ rest rfl (ok_of_fit (shape3 true 17 x h).2 rfl rfl rfl) (congrArg (Option.map Instr.rotlU) (shape3 true 17 x h).1)

theorem bfxU (x : Op3) : Statement (.bfxU x) := fun h rest =>
  decode_words _ _ rest rfl (ok_of_fit (shape3 true 18 x h).2 rfl rfl rfl) (congrArg (Option.map Instr.bfxU) (shape3 true 18 x h).1)

theorem bfiU (x : Op3) : Statement (.bfiU x) := fun h rest =>
  decode_words _ _ rest rfl (ok_of_fit (shape3 true 19 x h).2 rfl rfl rfl) (congrArg (Option.map Instr.bfiU) (shape3 true 19 x h).1)

theorem popcU (x : Op2) : Statement (.popcU x) := fun h rest =>
  decode_words _ _ rest rfl (ok_of_fit (shape4 true 20 x h).2 rfl rfl rfl) (congrArg (Option.map Instr.popcU) (shape4 true 20 x h).1)

theorem clzU (x : Op2) : Statement (.clzU x) := fun h rest =>
  decode_words _ _ rest rfl (ok_of_fit (shape4 true 21 x h).2 rfl rfl rfl) (congrArg (Option.map Instr.clzU) (shape4 true 21 x h).1)

theorem ctzU (x : Op2) : Statement (.ctzU x) := fun h rest =>
  decode_words _ _ rest rfl (ok_of_fit (shape4 true 22 x h).2 rfl rfl rfl) (congrArg (Option.map Instr.ctzU) (shape4 true 22 x h).1)

theorem brevU (x : Op2) : Statement (.brevU x) := fun h rest =>
  decode_words _ _ rest rfl (ok_of_fit (shape4 true 23 x h).2 rfl rfl rfl) (congrArg (Option.map Instr.brevU) (shape4 true 23 x h).1)

theorem movU (x : Op2) : Statement (.movU x) := fun h rest =>
  decode_words _ _ rest rfl (ok_of_fit (shape4 true 27 x h).2 rfl rfl rfl) (congrArg (Option.map Instr.movU) (shape4 true 27 x h).1)

theorem icmpU (x : CmpI) : Statement (.icmpU x) := fun h rest =>
  decode_words _ _ rest rfl (ok_of_fit (shape5 true 29 x h).2 rfl rfl rfl) (congrArg (Option.map Instr.icmpU) (shape5 true 29 x h).1)

theorem fadd (x : Op3) : Statement (.fadd x) := fun h rest =>
  decode_words _ _ rest rfl (ok_of_fit (shape0 false 32 x h).2 rfl rfl rfl) (congrArg (Option.map Instr.fadd) (shape0 false 32 x h).1)

theorem fsub (x : Op3) : Statement (.fsub x) := fun h rest =>
  decode_words _ _ rest rfl (ok_of_fit (shape0 false 33 x h).2 rfl rfl rfl) (congrArg (Option.map Instr.fsub) (shape0 false 33 x h).1)

theorem fmul (x : Op3) : Statement (.fmul x) := fun h rest =>
  decode_words _ _ rest rfl (ok_of_fit (shape0 false 34 x h).2 rfl rfl rfl) (congrArg (Option.map Instr.fmul) (shape0 false 34 x h).1)

theorem ffma (x : Op3) : Statement (.ffma x) := fun h rest =>
  decode_words _ _ rest rfl (ok_of_fit (shape0 false 35 x h).2 rfl rfl rfl) (congrArg (Option.map Instr.ffma) (shape0 false 35 x h).1)

theorem fmin (x : Op3) : Statement (.fmin x) := fun h rest =>
  decode_words _ _ rest rfl (ok_of_fit (shape0 false 36 x h).2 rfl rfl rfl) (congrArg (Option.map Instr.fmin) (shape0 false 36 x h).1)

theorem fmax (x : Op3) : Statement (.fmax x) := fun h rest =>
  decode_words _ _ rest rfl (ok_of_fit (shape0 false 37 x h).2 rfl rfl rfl) (congrArg (Option.map Instr.fmax) (shape0 false 37 x h).1)

theorem fabs (x : Op2) : Statement (.fabs x) := fun h rest =>
  decode_words _ _ rest rfl (ok_of_fit (shape1 false 38 x h).2 rfl rfl rfl) (congrArg (Option.map Instr.fabs) (shape1 false 38 x h).1)

theorem fneg (x : Op2) : Statement (.fneg x) := fun h rest =>
  decode_words _ _ rest rfl (ok_of_fit (shape1 false 39 x h).2 rfl rfl rfl) (congrArg (Option.map Instr.fneg) (shape1 false 39 x h).1)

theorem fcmp (x : CmpI) : Statement (.fcmp x) := fun h rest =>
  decode_words _ _ rest rfl (ok_of_fit (shape6 false 40 x h).2 rfl rfl rfl) (congrArg (Option.map Instr.fcmp) (shape6 false 40 x h).1)

theorem frcp (x : Op2) : Statement (.frcp x) := fun h rest =>
  decode_words _ _ rest rfl (ok_of_fit (shape1 false 41 x h).2 rfl rfl rfl) (congrArg (Option.map Instr.frcp) (shape1 false 41 x h).1)

theorem frsq (x : Op2) : Statement (.frsq x) := fun h rest =>
  decode_words _ _ rest rfl (ok_of_fit (shape1 false 42 x h).2 rfl rfl rfl) (congrArg (Option.map Instr.frsq) (shape1 false 42 x h).1)

theorem fsqrt (x : Op2) : Statement (.fsqrt x) := fun h rest =>
  decode_words _ _ rest rfl (ok_of_fit (shape1 false 43 x h).2 rfl rfl rfl) (congrArg (Option.map Instr.fsqrt) (shape1 false 43 x h).1)

theorem fexp2 (x : Op2) : Statement (.fexp2 x) := fun h rest =>
  decode_words _ _ rest rfl (ok_of_fit (shape1 false 44 x h).2 rfl rfl rfl) (congrArg (Option.map Instr.fexp2) (shape1 false 44 x h).1)

theorem flog2 (x : Op2) : Statement (.flog2 x) := fun h rest =>
  decode_words _ _ rest rfl (ok_of_fit (shape1 false 45 x h).2 rfl rfl rfl) (congrArg (Option.map Instr.flog2) (shape1 false 45 x h).1)

theorem fsin (x : Op2) : Statement (.fsin x) := fun h rest =>
  decode_words _ _ rest rfl (ok_of_fit (shape1 false 46 x h).2 rfl rfl rfl) (congrArg (Option.map Instr.fsin) (shape1 false 46 x h).1)

theorem fcos (x : Op2) : Statement (.fcos x) := fun h rest =>
  decode_words _ _ rest rfl (ok_of_fit (shape1 false 47 x h).2 rfl rfl rfl) (congrArg (Option.map Instr.fcos) (shape1 false 47 x h).1)

theorem fdiv (x : Op3) : Statement (.fdiv x) := fun h rest =>
  decode_words _ _ rest rfl (ok_of_fit (shape0 false 48 x h).2 rfl rfl rfl) (congrArg (Option.map Instr.fdiv) (shape0 false 48 x h).1)

theorem frnd (x : Op2) : Statement (.frnd x) := fun h rest =>
  decode_words _ _ rest rfl (ok_of_fit (shape1 false 49 x h).2 rfl rfl rfl) (congrArg (Option.map Instr.frnd) (shape1 false 49 x h).1)

theorem fclass (x : Op2) : Statement (.fclass x) := fun h rest =>
  decode_words _ _ rest rfl (ok_of_fit (shape1 false 50 x h).2 rfl rfl rfl) (congrArg (Option.map Instr.fclass) (shape1 false 50 x h).1)

theorem fdot2 (x : Op3) : Statement (.fdot2 x) := fun h rest =>
  decode_words _ _ rest rfl (ok_of_fit (shape0 false 51 x h).2 rfl rfl rfl) (congrArg (Option.map Instr.fdot2) (shape0 false 51 x h).1)

theorem cvt (x : OpCode) : Statement (.cvt x) := fun h rest =>
  decode_words _ _ rest rfl (ok_of_fit (shape7 false 52 x h).2 rfl rfl rfl) (congrArg (Option.map Instr.cvt) (shape7 false 52 x h).1)

theorem cvtpk (x : Op3) : Statement (.cvtpk x) := fun h rest =>
  decode_words _ _ rest rfl (ok_of_fit (shape0 false 53 x h).2 rfl rfl rfl) (congrArg (Option.map Instr.cvtpk) (shape0 false 53 x h).1)

theorem cvtn8 (x : OpCode) : Statement (.cvtn8 x) := fun h rest =>
  decode_words _ _ rest rfl (ok_of_fit (shape8 false 54 x h).2 rfl rfl rfl) (congrArg (Option.map Instr.cvtn8) (shape8 false 54 x h).1)

theorem cvtn4 (x : Op2) : Statement (.cvtn4 x) := fun h rest =>
  decode_words _ _ rest rfl (ok_of_fit (shape1 false 55 x h).2 rfl rfl rfl) (congrArg (Option.map Instr.cvtn4) (shape1 false 55 x h).1)

theorem cvtw (x : Op3) : Statement (.cvtw x) := fun h rest =>
  have h := Bool.and_eq_true_iff.mp h
  decode_words _ _ rest rfl (ok_of_fit (shape0 false 56 x h.1).2 rfl rfl rfl)
    (congrArg (Option.map Instr.cvtw) (show (x.encV3 false 56).decVA3 = some x by
      rw [Raw.decVA3, (shape0 false 56 x h.1).1]; simp [h.2]))

theorem pack6 (x : Rr) : Statement (.pack6 x) := fun h rest =>
  decode_words _ _ rest rfl (ok_of_fit (shape9 false 57 x h).2 rfl rfl rfl) (congrArg (Option.map Instr.pack6) (shape9 false 57 x h).1)

theorem unpk6 (x : Rr) : Statement (.unpk6 x) := fun h rest =>
  decode_words _ _ rest rfl (ok_of_fit (shape9 false 58 x h).2 rfl rfl rfl) (congrArg (Option.map Instr.unpk6) (shape9 false 58 x h).1)

theorem mxsc (x : OpCode) : Statement (.mxsc x) := fun h rest =>
  decode_words _ _ rest rfl (ok_of_fit (shape10 false 59 x h).2 rfl rfl rfl) (congrArg (Option.map Instr.mxsc) (shape10 false 59 x h).1)

theorem cmpr24 (x : Rr) : Statement (.cmpr24 x) := fun h rest =>
  decode_words _ _ rest rfl (ok_of_fit (shape9 false 60 x h).2 rfl rfl rfl) (congrArg (Option.map Instr.cmpr24) (shape9 false 60 x h).1)

theorem srseed (x : Op1) : Statement (.srseed x) := fun h rest =>
  decode_words _ _ rest rfl (ok_of_fit (shape11 false 61 x h).2 rfl rfl rfl) (congrArg (Option.map Instr.srseed) (shape11 false 61 x h).1)

theorem shfl (x : Op3) : Statement (.shfl x) := fun h rest =>
  decode_words _ _ rest rfl (ok_of_fit (shape0 false 64 x h).2 rfl rfl rfl) (congrArg (Option.map Instr.shfl) (shape0 false 64 x h).1)

theorem shflx (x : Op3) : Statement (.shflx x) := fun h rest =>
  decode_words _ _ rest rfl (ok_of_fit (shape0 false 65 x h).2 rfl rfl rfl) (congrArg (Option.map Instr.shflx) (shape0 false 65 x h).1)

theorem shflup (x : Op3) : Statement (.shflup x) := fun h rest =>
  decode_words _ _ rest rfl (ok_of_fit (shape0 false 66 x h).2 rfl rfl rfl) (congrArg (Option.map Instr.shflup) (shape0 false 66 x h).1)

theorem shfldn (x : Op3) : Statement (.shfldn x) := fun h rest =>
  decode_words _ _ rest rfl (ok_of_fit (shape0 false 67 x h).2 rfl rfl rfl) (congrArg (Option.map Instr.shfldn) (shape0 false 67 x h).1)

theorem redadd (x : Op2) : Statement (.redadd x) := fun h rest =>
  decode_words _ _ rest rfl (ok_of_fit (shape1 false 68 x h).2 rfl rfl rfl) (congrArg (Option.map Instr.redadd) (shape1 false 68 x h).1)

theorem redmin (x : Op2) : Statement (.redmin x) := fun h rest =>
  decode_words _ _ rest rfl (ok_of_fit (shape1 false 69 x h).2 rfl rfl rfl) (congrArg (Option.map Instr.redmin) (shape1 false 69 x h).1)

theorem redmax (x : Op2) : Statement (.redmax x) := fun h rest =>
  decode_words _ _ rest rfl (ok_of_fit (shape1 false 70 x h).2 rfl rfl rfl) (congrArg (Option.map Instr.redmax) (shape1 false 70 x h).1)

theorem redand (x : Op2) : Statement (.redand x) := fun h rest =>
  decode_words _ _ rest rfl (ok_of_fit (shape1 false 71 x h).2 rfl rfl rfl) (congrArg (Option.map Instr.redand) (shape1 false 71 x h).1)

theorem redor (x : Op2) : Statement (.redor x) := fun h rest =>
  decode_words _ _ rest rfl (ok_of_fit (shape1 false 72 x h).2 rfl rfl rfl) (congrArg (Option.map Instr.redor) (shape1 false 72 x h).1)

theorem redxor (x : Op2) : Statement (.redxor x) := fun h rest =>
  decode_words _ _ rest rfl (ok_of_fit (shape1 false 73 x h).2 rfl rfl rfl) (congrArg (Option.map Instr.redxor) (shape1 false 73 x h).1)

theorem minidx (x : Op2) : Statement (.minidx x) := fun h rest =>
  decode_words _ _ rest rfl (ok_of_fit (shape1 false 74 x h).2 rfl rfl rfl) (congrArg (Option.map Instr.minidx) (shape1 false 74 x h).1)

theorem maxidx (x : Op2) : Statement (.maxidx x) := fun h rest =>
  decode_words _ _ rest rfl (ok_of_fit (shape1 false 75 x h).2 rfl rfl rfl) (congrArg (Option.map Instr.maxidx) (shape1 false 75 x h).1)

theorem scanadd (x : Op2) : Statement (.scanadd x) := fun h rest =>
  decode_words _ _ rest rfl (ok_of_fit (shape1 false 76 x h).2 rfl rfl rfl) (congrArg (Option.map Instr.scanadd) (shape1 false 76 x h).1)

theorem matchV (x : Op2) : Statement (.matchV x) := fun h rest =>
  decode_words _ _ rest rfl (ok_of_fit (shape1 false 77 x h).2 rfl rfl rfl) (congrArg (Option.map Instr.matchV) (shape1 false 77 x h).1)

theorem ld (x : Load) : Statement (.ld x) := fun h rest =>
  decode_words _ _ rest rfl (ok_of_fit (shape12 false 80 x h).2 rfl rfl rfl) (congrArg (Option.map Instr.ld) (shape12 false 80 x h).1)

theorem st (x : Store) : Statement (.st x) := fun h rest =>
  decode_words _ _ rest rfl (ok_of_fit (shape13 false 81 x h).2 rfl rfl rfl) (congrArg (Option.map Instr.st) (shape13 false 81 x h).1)

theorem ldl (x : Load) : Statement (.ldl x) := fun h rest =>
  decode_words _ _ rest rfl (ok_of_fit (shape14 false 82 x h).2 rfl rfl rfl) (congrArg (Option.map Instr.ldl) (shape14 false 82 x h).1)

theorem stl (x : Store) : Statement (.stl x) := fun h rest =>
  decode_words _ _ rest rfl (ok_of_fit (shape15 false 83 x h).2 rfl rfl rfl) (congrArg (Option.map Instr.stl) (shape15 false 83 x h).1)

theorem ldl4 (x : Op2) : Statement (.ldl4 x) := fun h rest =>
  decode_words _ _ rest rfl (ok_of_fit (shape16 false 84 x h).2 rfl rfl rfl) (congrArg (Option.map Instr.ldl4) (shape16 false 84 x h).1)

theorem stl4 (x : OpReg) : Statement (.stl4 x) := fun h rest =>
  decode_words _ _ rest rfl (ok_of_fit (shape17 false 85 x h).2 rfl rfl rfl) (congrArg (Option.map Instr.stl4) (shape17 false 85 x h).1)

theorem gld (x : Gath) : Statement (.gld x) := fun h rest =>
  decode_words _ _ rest rfl (ok_of_fit (shape18 false 86 x h).2 rfl rfl rfl) (congrArg (Option.map Instr.gld) (shape18 false 86 x h).1)

theorem gst (x : Gath) : Statement (.gst x) := fun h rest =>
  decode_words _ _ rest rfl (ok_of_fit (shape18 false 87 x h).2 rfl rfl rfl) (congrArg (Option.map Instr.gst) (shape18 false 87 x h).1)

theorem ldacq (x : Load) : Statement (.ldacq x) := fun h rest =>
  decode_words _ _ rest rfl (ok_of_fit (shape19 false 88 x h).2 rfl rfl rfl) (congrArg (Option.map Instr.ldacq) (shape19 false 88 x h).1)

theorem strel (x : Store) : Statement (.strel x) := fun h rest =>
  decode_words _ _ rest rfl (ok_of_fit (shape20 false 89 x h).2 rfl rfl rfl) (congrArg (Option.map Instr.strel) (shape20 false 89 x h).1)

theorem stnt (x : Store) : Statement (.stnt x) := fun h rest =>
  decode_words _ _ rest rfl (ok_of_fit (shape13 false 90 x h).2 rfl rfl rfl) (congrArg (Option.map Instr.stnt) (shape13 false 90 x h).1)

theorem pref (x : Op1) : Statement (.pref x) := fun h rest =>
  decode_words _ _ rest rfl (ok_of_fit (shape21 false 91 x h).2 rfl rfl rfl) (congrArg (Option.map Instr.pref) (shape21 false 91 x h).1)

theorem atomv (x : AtomI) : Statement (.atomv x) := fun h rest =>
  decode_words _ _ rest rfl (ok_of_fit (shape22 false 92 x h).2 rfl rfl rfl) (congrArg (Option.map Instr.atomv) (shape22 false 92 x h).1)

theorem redv (x : RedI) : Statement (.redv x) := fun h rest =>
  decode_words _ _ rest rfl (ok_of_fit (shape23 false 93 x h).2 rfl rfl rfl) (congrArg (Option.map Instr.redv) (shape23 false 93 x h).1)

theorem acrd (x : Op2) : Statement (.acrd x) := fun h rest =>
  decode_words _ _ rest rfl (ok_of_fit (shape1 false 94 x h).2 rfl rfl rfl) (congrArg (Option.map Instr.acrd) (shape1 false 94 x h).1)

theorem acwr (x : OpAC) : Statement (.acwr x) := fun h rest =>
  decode_words _ _ rest rfl (ok_of_fit (shape24 false 95 x h).2 rfl rfl rfl) (congrArg (Option.map Instr.acwr) (shape24 false 95 x h).1)

theorem pand (x : Rrr) : Statement (.pand x) := fun h rest =>
  decode_words _ _ rest rfl (ok_of_fit (shape25 false 96 x h).2 rfl rfl rfl) (congrArg (Option.map Instr.pand) (shape25 false 96 x h).1)

theorem por (x : Rrr) : Statement (.por x) := fun h rest =>
  decode_words _ _ rest rfl (ok_of_fit (shape25 false 97 x h).2 rfl rfl rfl) (congrArg (Option.map Instr.por) (shape25 false 97 x h).1)

theorem pxor (x : Rrr) : Statement (.pxor x) := fun h rest =>
  decode_words _ _ rest rfl (ok_of_fit (shape25 false 98 x h).2 rfl rfl rfl) (congrArg (Option.map Instr.pxor) (shape25 false 98 x h).1)

theorem pandn (x : Rrr) : Statement (.pandn x) := fun h rest =>
  decode_words _ _ rest rfl (ok_of_fit (shape25 false 99 x h).2 rfl rfl rfl) (congrArg (Option.map Instr.pandn) (shape25 false 99 x h).1)

theorem pset (x : Op2) : Statement (.pset x) := fun h rest =>
  decode_words _ _ rest rfl (ok_of_fit (shape26 false 100 x h).2 rfl rfl rfl) (congrArg (Option.map Instr.pset) (shape26 false 100 x h).1)

theorem pget (x : Rr) : Statement (.pget x) := fun h rest =>
  decode_words _ _ rest rfl (ok_of_fit (shape27 false 101 x h).2 rfl rfl rfl) (congrArg (Option.map Instr.pget) (shape27 false 101 x h).1)

theorem cpy (x : CpyI) : Statement (.cpy x) := fun h rest =>
  decode_words _ _ rest rfl (ok_of_fit (shape28 false 102 x h).2 rfl rfl rfl) (congrArg (Option.map Instr.cpy) (shape28 false 102 x h).1)

theorem publish (x : ACode) : Statement (.publish x) := fun h rest =>
  decode_words _ _ rest rfl (ok_of_fit (shape29 false 103 x h).2 rfl rfl rfl) (congrArg (Option.map Instr.publish) (shape29 false 103 x h).1)

theorem mma (x : MmaI) : Statement (.mma x) := fun h rest =>
  decode_words _ _ rest rfl (ok_of_fit (shape30 false 104 x h).2 rfl rfl rfl) (congrArg (Option.map Instr.mma) (shape30 false 104 x h).1)

theorem bra (x : BraI) : Statement (.bra x) := fun _ rest =>
  decode_words _ _ rest rfl (ok_of_fit (shape31 true 32 x).2 rfl rfl rfl) (congrArg (Option.map Instr.bra) (shape31 true 32 x).1)

theorem brq (x : BrqI) : Statement (.brq x) := fun h rest =>
  decode_words _ _ rest rfl (ok_of_fit (shape32 true 33 x h).2 rfl rfl rfl) (congrArg (Option.map Instr.brq) (shape32 true 33 x h).1)

theorem brv (x : BrvI) : Statement (.brv x) := fun h rest =>
  decode_words _ _ rest rfl (ok_of_fit (shape33 true 34 x h).2 rfl rfl rfl) (congrArg (Option.map Instr.brv) (shape33 true 34 x h).1)

theorem jmpi (x : R1) : Statement (.jmpi x) := fun h rest =>
  decode_words _ _ rest rfl (ok_of_fit (shape34 true 35 x h).2 rfl rfl rfl) (congrArg (Option.map Instr.jmpi) (shape34 true 35 x h).1)

theorem call (x : CallI) : Statement (.call x) := fun h rest =>
  decode_words _ _ rest rfl (ok_of_fit (shape35 true 36 x h).2 rfl rfl rfl) (congrArg (Option.map Instr.call) (shape35 true 36 x h).1)

theorem calli (x : Rr) : Statement (.calli x) := fun h rest =>
  decode_words _ _ rest rfl (ok_of_fit (shape36 true 37 x h).2 rfl rfl rfl) (congrArg (Option.map Instr.calli) (shape36 true 37 x h).1)

theorem ret (x : R1) : Statement (.ret x) := fun h rest =>
  decode_words _ _ rest rfl (ok_of_fit (shape34 true 38 x h).2 rfl rfl rfl) (congrArg (Option.map Instr.ret) (shape34 true 38 x h).1)

theorem exit (x : Op0) : Statement (.exit x) := fun _ rest =>
  decode_words _ _ rest rfl (ok_of_fit (shape37 true 39 x).2 rfl rfl rfl) (congrArg (Option.map Instr.exit) (shape37 true 39 x).1)

theorem join (x : Op0) : Statement (.join x) := fun _ rest =>
  decode_words _ _ rest rfl (ok_of_fit (shape37 true 40 x).2 rfl rfl rfl) (congrArg (Option.map Instr.join) (shape37 true 40 x).1)

theorem yield (x : Op0) : Statement (.yield x) := fun _ rest =>
  decode_words _ _ rest rfl (ok_of_fit (shape37 true 41 x).2 rfl rfl rfl) (congrArg (Option.map Instr.yield) (shape37 true 41 x).1)

theorem trap (x : Op1) : Statement (.trap x) := fun h rest =>
  decode_words _ _ rest rfl (ok_of_fit (shape38 true 42 x h).2 rfl rfl rfl) (congrArg (Option.map Instr.trap) (shape38 true 42 x h).1)

theorem bkpt (x : Op1) : Statement (.bkpt x) := fun h rest =>
  decode_words _ _ rest rfl (ok_of_fit (shape38 true 43 x h).2 rfl rfl rfl) (congrArg (Option.map Instr.bkpt) (shape38 true 43 x h).1)

theorem spawn (x : SpawnI) : Statement (.spawn x) := fun h rest =>
  decode_words _ _ rest rfl (ok_of_fit (shape39 true 44 x h).2 rfl rfl rfl) (congrArg (Option.map Instr.spawn) (shape39 true 44 x h).1)

theorem readlane (x : ReadLaneI) : Statement (.readlane x) := fun h rest =>
  decode_words _ _ rest rfl (ok_of_fit (shape40 true 45 x h).2 rfl rfl rfl) (congrArg (Option.map Instr.readlane) (shape40 true 45 x h).1)

theorem vote (x : VoteI) : Statement (.vote x) := fun h rest =>
  decode_words _ _ rest rfl (ok_of_fit (shape41 true 46 x h).2 rfl rfl rfl) (congrArg (Option.map Instr.vote) (shape41 true 46 x h).1)

theorem ballot (x : Rr) : Statement (.ballot x) := fun h rest =>
  decode_words _ _ rest rfl (ok_of_fit (shape42 true 47 x h).2 rfl rfl rfl) (congrArg (Option.map Instr.ballot) (shape42 true 47 x h).1)

theorem setmode (x : Op1) : Statement (.setmode x) := fun h rest =>
  decode_words _ _ rest rfl (ok_of_fit (shape38 true 48 x h).2 rfl rfl rfl) (congrArg (Option.map Instr.setmode) (shape38 true 48 x h).1)

theorem getmode (x : R1) : Statement (.getmode x) := fun h rest =>
  decode_words _ _ rest rfl (ok_of_fit (shape43 true 49 x h).2 rfl rfl rfl) (congrArg (Option.map Instr.getmode) (shape43 true 49 x h).1)

theorem modef (x : ACode) : Statement (.modef x) := fun h rest =>
  decode_words _ _ rest rfl (ok_of_fit (shape44 true 50 x h).2 rfl rfl rfl) (congrArg (Option.map Instr.modef) (shape44 true 50 x h).1)

theorem waitc (x : ACode) : Statement (.waitc x) := fun h rest =>
  decode_words _ _ rest rfl (ok_of_fit (shape44 true 51 x h).2 rfl rfl rfl) (congrArg (Option.map Instr.waitc) (shape44 true 51 x h).1)

theorem mfence (x : R1) : Statement (.mfence x) := fun h rest =>
  decode_words _ _ rest rfl (ok_of_fit (shape43 true 52 x h).2 rfl rfl rfl) (congrArg (Option.map Instr.mfence) (shape43 true 52 x h).1)

theorem mwait (x : Op1) : Statement (.mwait x) := fun h rest =>
  decode_words _ _ rest rfl (ok_of_fit (shape38 true 53 x h).2 rfl rfl rfl) (congrArg (Option.map Instr.mwait) (shape38 true 53 x h).1)

theorem fence (x : CodeI) : Statement (.fence x) := fun h rest =>
  decode_words _ _ rest rfl (ok_of_fit (shape45 true 54 x h).2 rfl rfl rfl) (congrArg (Option.map Instr.fence) (shape45 true 54 x h).1)

theorem ntdrain (x : CodeI) : Statement (.ntdrain x) := fun h rest =>
  decode_words _ _ rest rfl (ok_of_fit (shape45 true 55 x h).2 rfl rfl rfl) (congrArg (Option.map Instr.ntdrain) (shape45 true 55 x h).1)

theorem bararr (x : DCode) : Statement (.bararr x) := fun h rest =>
  decode_words _ _ rest rfl (ok_of_fit (shape46 true 56 x h).2 rfl rfl rfl) (congrArg (Option.map Instr.bararr) (shape46 true 56 x h).1)

theorem barwait (x : ACode) : Statement (.barwait x) := fun h rest =>
  decode_words _ _ rest rfl (ok_of_fit (shape47 true 57 x h).2 rfl rfl rfl) (congrArg (Option.map Instr.barwait) (shape47 true 57 x h).1)

theorem barsync (x : CodeI) : Statement (.barsync x) := fun h rest =>
  decode_words _ _ rest rfl (ok_of_fit (shape48 true 58 x h).2 rfl rfl rfl) (congrArg (Option.map Instr.barsync) (shape48 true 58 x h).1)

theorem bardef (x : DCode) : Statement (.bardef x) := fun h rest =>
  decode_words _ _ rest rfl (ok_of_fit (shape46 true 59 x h).2 rfl rfl rfl) (congrArg (Option.map Instr.bardef) (shape46 true 59 x h).1)

theorem ctradd (x : AtomI) : Statement (.ctradd x) := fun h rest =>
  decode_words _ _ rest rfl (ok_of_fit (shape49 true 60 x h).2 rfl rfl rfl) (congrArg (Option.map Instr.ctradd) (shape49 true 60 x h).1)

theorem ctrwait (x : CtrWaitI) : Statement (.ctrwait x) := fun h rest =>
  decode_words _ _ rest rfl (ok_of_fit (shape50 true 61 x h).2 rfl rfl rfl) (congrArg (Option.map Instr.ctrwait) (shape50 true 61 x h).1)

theorem sread (x : DCode) : Statement (.sread x) := fun h rest =>
  decode_words _ _ rest rfl (ok_of_fit (shape51 true 62 x h).2 rfl rfl rfl) (congrArg (Option.map Instr.sread) (shape51 true 62 x h).1)

theorem swrite (x : ACode) : Statement (.swrite x) := fun h rest =>
  decode_words _ _ rest rfl (ok_of_fit (shape52 true 63 x h).2 rfl rfl rfl) (congrArg (Option.map Instr.swrite) (shape52 true 63 x h).1)

theorem ldu (x : Load) : Statement (.ldu x) := fun h rest =>
  decode_words _ _ rest rfl (ok_of_fit (shape53 true 64 x h).2 rfl rfl rfl) (congrArg (Option.map Instr.ldu) (shape53 true 64 x h).1)

theorem stu (x : Store) : Statement (.stu x) := fun h rest =>
  decode_words _ _ rest rfl (ok_of_fit (shape54 true 65 x h).2 rfl rfl rfl) (congrArg (Option.map Instr.stu) (shape54 true 65 x h).1)

theorem atom (x : AtomI) : Statement (.atom x) := fun h rest =>
  decode_words _ _ rest rfl (ok_of_fit (shape55 true 66 x h).2 rfl rfl rfl) (congrArg (Option.map Instr.atom) (shape55 true 66 x h).1)

theorem redu (x : RedI) : Statement (.redu x) := fun h rest =>
  decode_words _ _ rest rfl (ok_of_fit (shape56 true 67 x h).2 rfl rfl rfl) (congrArg (Option.map Instr.redu) (shape56 true 67 x h).1)

theorem lduacq (x : Load) : Statement (.lduacq x) := fun h rest =>
  decode_words _ _ rest rfl (ok_of_fit (shape57 true 68 x h).2 rfl rfl rfl) (congrArg (Option.map Instr.lduacq) (shape57 true 68 x h).1)

theorem sturel (x : Store) : Statement (.sturel x) := fun h rest =>
  decode_words _ _ rest rfl (ok_of_fit (shape58 true 69 x h).2 rfl rfl rfl) (congrArg (Option.map Instr.sturel) (shape58 true 69 x h).1)

theorem mmag (x : MmagI) : Statement (.mmag x) := fun h rest =>
  decode_words _ _ rest rfl (ok_of_fit (shape59 true 80 x h).2 rfl rfl rfl) (congrArg (Option.map Instr.mmag) (shape59 true 80 x h).1)

theorem msetaux (x : OpAC) : Statement (.msetaux x) := fun h rest =>
  decode_words _ _ rest rfl (ok_of_fit (shape60 true 81 x h).2 rfl rfl rfl) (congrArg (Option.map Instr.msetaux) (shape60 true 81 x h).1)

theorem aczero (x : OpAC) : Statement (.aczero x) := fun h rest =>
  decode_words _ _ rest rfl (ok_of_fit (shape60 true 82 x h).2 rfl rfl rfl) (congrArg (Option.map Instr.aczero) (shape60 true 82 x h).1)

theorem accpy (x : OpAC) : Statement (.accpy x) := fun h rest =>
  decode_words _ _ rest rfl (ok_of_fit (shape60 true 83 x h).2 rfl rfl rfl) (congrArg (Option.map Instr.accpy) (shape60 true 83 x h).1)

theorem cbdrain (x : CodeI) : Statement (.cbdrain x) := fun h rest =>
  decode_words _ _ rest rfl (ok_of_fit (shape61 true 84 x h).2 rfl rfl rfl) (congrArg (Option.map Instr.cbdrain) (shape61 true 84 x h).1)

theorem cbsave (x : ACode) : Statement (.cbsave x) := fun h rest =>
  decode_words _ _ rest rfl (ok_of_fit (shape62 true 85 x h).2 rfl rfl rfl) (congrArg (Option.map Instr.cbsave) (shape62 true 85 x h).1)

theorem cbload (x : SlotAC) : Statement (.cbload x) := fun h rest =>
  decode_words _ _ rest rfl (ok_of_fit (shape63 true 86 x h).2 rfl rfl rfl) (congrArg (Option.map Instr.cbload) (shape63 true 86 x h).1)

theorem cbmerge (x : OpAC) : Statement (.cbmerge x) := fun h rest =>
  decode_words _ _ rest rfl (ok_of_fit (shape60 true 87 x h).2 rfl rfl rfl) (congrArg (Option.map Instr.cbmerge) (shape60 true 87 x h).1)

theorem cbclr (x : CodeI) : Statement (.cbclr x) := fun h rest =>
  decode_words _ _ rest rfl (ok_of_fit (shape61 true 88 x h).2 rfl rfl rfl) (congrArg (Option.map Instr.cbclr) (shape61 true 88 x h).1)

theorem cbdrainw (x : OpReg) : Statement (.cbdrainw x) := fun h rest =>
  decode_words _ _ rest rfl (ok_of_fit (shape64 true 89 x h).2 rfl rfl rfl) (congrArg (Option.map Instr.cbdrainw) (shape64 true 89 x h).1)

theorem tdep (x : TupI) : Statement (.tdep x) := fun h rest =>
  decode_words _ _ rest rfl (ok_of_fit (shape65 true 96 x h).2 rfl rfl rfl) (congrArg (Option.map Instr.tdep) (shape65 true 96 x h).1)

theorem tcopy (x : TupI) : Statement (.tcopy x) := fun h rest =>
  decode_words _ _ rest rfl (ok_of_fit (shape66 true 97 x h).2 rfl rfl rfl) (congrArg (Option.map Instr.tcopy) (shape66 true 97 x h).1)

theorem ttake (x : TupI) : Statement (.ttake x) := fun h rest =>
  decode_words _ _ rest rfl (ok_of_fit (shape66 true 98 x h).2 rfl rfl rfl) (congrArg (Option.map Instr.ttake) (shape66 true 98 x h).1)

theorem tcancel (x : TcanI) : Statement (.tcancel x) := fun h rest =>
  decode_words _ _ rest rfl (ok_of_fit (shape67 true 99 x h).2 rfl rfl rfl) (congrArg (Option.map Instr.tcancel) (shape67 true 99 x h).1)

theorem ecreate (x : Rr) : Statement (.ecreate x) := fun h rest =>
  decode_words _ _ rest rfl (ok_of_fit (shape36 true 104 x h).2 rfl rfl rfl) (congrArg (Option.map Instr.ecreate) (shape36 true 104 x h).1)

theorem eenter (x : Rrr) : Statement (.eenter x) := fun h rest =>
  decode_words _ _ rest rfl (ok_of_fit (shape68 true 105 x h).2 rfl rfl rfl) (congrArg (Option.map Instr.eenter) (shape68 true 105 x h).1)

theorem eexit (x : Op0) : Statement (.eexit x) := fun _ rest =>
  decode_words _ _ rest rfl (ok_of_fit (shape37 true 106 x).2 rfl rfl rfl) (congrArg (Option.map Instr.eexit) (shape37 true 106 x).1)

theorem edestroy (x : Rr) : Statement (.edestroy x) := fun h rest =>
  decode_words _ _ rest rfl (ok_of_fit (shape36 true 107 x h).2 rfl rfl rfl) (congrArg (Option.map Instr.edestroy) (shape36 true 107 x h).1)

theorem pgassign (x : PgaI) : Statement (.pgassign x) := fun h rest =>
  decode_words _ _ rest rfl (ok_of_fit (shape69 true 108 x h).2 rfl rfl rfl) (congrArg (Option.map Instr.pgassign) (shape69 true 108 x h).1)

theorem pgseal (x : Rrr) : Statement (.pgseal x) := fun h rest =>
  decode_words _ _ rest rfl (ok_of_fit (shape70 true 109 x h).2 rfl rfl rfl) (congrArg (Option.map Instr.pgseal) (shape70 true 109 x h).1)

theorem pgunseal (x : Rrr) : Statement (.pgunseal x) := fun h rest =>
  decode_words _ _ rest rfl (ok_of_fit (shape68 true 110 x h).2 rfl rfl rfl) (congrArg (Option.map Instr.pgunseal) (shape68 true 110 x h).1)

theorem ctxseal (x : Rrr) : Statement (.ctxseal x) := fun h rest =>
  decode_words _ _ rest rfl (ok_of_fit (shape71 true 111 x h).2 rfl rfl rfl) (congrArg (Option.map Instr.ctxseal) (shape71 true 111 x h).1)

theorem ctxcommit (x : Rrr) : Statement (.ctxcommit x) := fun h rest =>
  decode_words _ _ rest rfl (ok_of_fit (shape68 true 112 x h).2 rfl rfl rfl) (congrArg (Option.map Instr.ctxcommit) (shape68 true 112 x h).1)

theorem ctxload (x : Rrr) : Statement (.ctxload x) := fun h rest =>
  decode_words _ _ rest rfl (ok_of_fit (shape68 true 113 x h).2 rfl rfl rfl) (congrArg (Option.map Instr.ctxload) (shape68 true 113 x h).1)

theorem tlbiAll (x : Op0) : Statement (.tlbiAll x) := by
  intro h rest
  obtain ⟨m⟩ := x
  simp only [Instr.wf, Bool.and_eq_true, decide_eq_true_eq] at h
  refine decode_words _ _ rest rfl (ok_of_fit (n := 0) ?_ rfl rfl rfl) rfl
  simp [Raw.fit, Fld.ok_code, Fld.trailer_code, show b01 false = 0 from rfl]

theorem tlbiPage (x : Op1) : Statement (.tlbiPage x) := by
  intro h rest
  obtain ⟨m, a⟩ := x
  simp only [Instr.wf, Bool.and_eq_true, decide_eq_true_eq] at h
  have la := a.litWords_le
  refine decode_words _ _ rest rfl (ok_of_fit (n := 0) ?_ rfl rfl rfl) ?_
  · simp [Raw.fit, Fld.ok_code, Fld.trailer_code, Opnd.toU_ok, Opnd.toU_trailer, h, show b01 false = 0 from rfl]
    omega
  · simp [Raw.toInstr, Raw.toU, Raw.decTLBI, dUnused, Fld.reg, Opnd.toU_uSrc, h]

theorem tlbiSpace (x : Op1) : Statement (.tlbiSpace x) := by
  intro h rest
  obtain ⟨m, a⟩ := x
  simp only [Instr.wf, Bool.and_eq_true, decide_eq_true_eq] at h
  have la := a.litWords_le
  refine decode_words _ _ rest rfl (ok_of_fit (n := 0) ?_ rfl rfl rfl) ?_
  · simp [Raw.fit, Fld.ok_code, Fld.trailer_code, Opnd.toU_ok, Opnd.toU_trailer, h, show b01 false = 0 from rfl]
    omega
  · simp [Raw.toInstr, Raw.toU, Raw.decTLBI, dUnused, Fld.reg, Opnd.toU_uSrc, h]

theorem syscall (x : Op0) : Statement (.syscall x) := fun _ rest =>
  decode_words _ _ rest rfl (ok_of_fit (shape37 true 115 x).2 rfl rfl rfl) (congrArg (Option.map Instr.syscall) (shape37 true 115 x).1)

theorem hvcall (x : Op0) : Statement (.hvcall x) := fun _ rest =>
  decode_words _ _ rest rfl (ok_of_fit (shape37 true 116 x).2 rfl rfl rfl) (congrArg (Option.map Instr.hvcall) (shape37 true 116 x).1)

theorem eret (x : Op0) : Statement (.eret x) := fun _ rest =>
  decode_words _ _ rest rfl (ok_of_fit (shape37 true 117 x).2 rfl rfl rfl) (congrArg (Option.map Instr.eret) (shape37 true 117 x).1)

theorem wfi (x : Op0) : Statement (.wfi x) := fun _ rest =>
  decode_words _ _ rest rfl (ok_of_fit (shape37 true 118 x).2 rfl rfl rfl) (congrArg (Option.map Instr.wfi) (shape37 true 118 x).1)

theorem corerst (x : Op2) : Statement (.corerst x) := fun h rest =>
  decode_words _ _ rest rfl (ok_of_fit (shape4 true 119 x h).2 rfl rfl rfl) (congrArg (Option.map Instr.corerst) (shape4 true 119 x h).1)

theorem partctlQuiesce (x : Rrr) : Statement (.partctlQuiesce x) := by
  intro h rest
  obtain ⟨m, d, a, c⟩ := x
  simp only [Instr.wf, Bool.and_eq_true, decide_eq_true_eq] at h
  refine decode_words _ _ rest rfl (ok_of_fit (n := 1) ?_ rfl rfl rfl) ?_
  · simp [Raw.fit, Fld.ok_code, Fld.trailer_code, show b01 true = 1 from rfl]
    omega
  · simp [Raw.toInstr, Raw.toU, Raw.decPART, dReg, Fld.reg, h]

theorem partctlWriteilv (x : Rrr) : Statement (.partctlWriteilv x) := by
  intro h rest
  obtain ⟨m, d, a, c⟩ := x
  simp only [Instr.wf, Bool.and_eq_true, decide_eq_true_eq] at h
  refine decode_words _ _ rest rfl (ok_of_fit (n := 1) ?_ rfl rfl rfl) ?_
  · simp [Raw.fit, Fld.ok_code, Fld.trailer_code, show b01 true = 1 from rfl]
    omega
  · simp [Raw.toInstr, Raw.toU, Raw.decPART, dReg, Fld.reg, h]

theorem partctlWritebnd (x : Rrr) : Statement (.partctlWritebnd x) := by
  intro h rest
  obtain ⟨m, d, a, c⟩ := x
  simp only [Instr.wf, Bool.and_eq_true, decide_eq_true_eq] at h
  refine decode_words _ _ rest rfl (ok_of_fit (n := 1) ?_ rfl rfl rfl) ?_
  · simp [Raw.fit, Fld.ok_code, Fld.trailer_code, show b01 true = 1 from rfl]
    omega
  · simp [Raw.toInstr, Raw.toU, Raw.decPART, dReg, Fld.reg, h]

theorem partctlShoot (x : Rrr) : Statement (.partctlShoot x) := by
  intro h rest
  obtain ⟨m, d, a, c⟩ := x
  simp only [Instr.wf, Bool.and_eq_true, decide_eq_true_eq] at h
  refine decode_words _ _ rest rfl (ok_of_fit (n := 1) ?_ rfl rfl rfl) ?_
  · simp [Raw.fit, Fld.ok_code, Fld.trailer_code, show b01 true = 1 from rfl]
    omega
  · simp [Raw.toInstr, Raw.toU, Raw.decPART, dReg, Fld.reg, h]

theorem partctlResume (x : Rrr) : Statement (.partctlResume x) := by
  intro h rest
  obtain ⟨m, d, a, c⟩ := x
  simp only [Instr.wf, Bool.and_eq_true, decide_eq_true_eq] at h
  refine decode_words _ _ rest rfl (ok_of_fit (n := 1) ?_ rfl rfl rfl) ?_
  · simp [Raw.fit, Fld.ok_code, Fld.trailer_code, show b01 true = 1 from rfl]
    omega
  · simp [Raw.toInstr, Raw.toU, Raw.decPART, dReg, Fld.reg, h]

theorem freeze (x : RrOp) : Statement (.freeze x) := fun h rest =>
  decode_words _ _ rest rfl (ok_of_fit (shape72 true 121 x h).2 rfl rfl rfl) (congrArg (Option.map Instr.freeze) (shape72 true 121 x h).1)

theorem ctxabort (x : Rr) : Statement (.ctxabort x) := fun h rest =>
  decode_words _ _ rest rfl (ok_of_fit (shape36 true 122 x h).2 rfl rfl rfl) (congrArg (Option.map Instr.ctxabort) (shape36 true 122 x h).1)

theorem sketchNop (x : SkWord) : Statement (.sketchNop x) := fun h =>
  ⟨_, rfl, decodeSketch_word _ 0 x (by decide) (SkWord.ok_fits (p := false) (q := false) (f := (fun n => n == 0)) h) rfl h⟩

theorem sketchMovi (x : SkWord) : Statement (.sketchMovi x) := fun h =>
  ⟨_, rfl, decodeSketch_word _ 1 x (by decide) (SkWord.ok_fits (by simp only [Instr.wf, Bool.and_eq_true] at h; exact h.1)) rfl h⟩

theorem sketchAdd (x : SkWord) : Statement (.sketchAdd x) := fun h =>
  ⟨_, rfl, decodeSketch_word _ 2 x (by decide) (SkWord.ok_fits (p := true) (q := true) (f := (fun _ => true)) h) rfl h⟩

theorem sketchSub (x : SkWord) : Statement (.sketchSub x) := fun h =>
  ⟨_, rfl, decodeSketch_word _ 3 x (by decide) (SkWord.ok_fits (p := true) (q := true) (f := (fun n => n == 0)) h) rfl h⟩

theorem sketchAnd (x : SkWord) : Statement (.sketchAnd x) := fun h =>
  ⟨_, rfl, decodeSketch_word _ 4 x (by decide) (SkWord.ok_fits (p := true) (q := true) (f := (fun n => n == 0)) h) rfl h⟩

theorem sketchOr (x : SkWord) : Statement (.sketchOr x) := fun h =>
  ⟨_, rfl, decodeSketch_word _ 5 x (by decide) (SkWord.ok_fits (p := true) (q := true) (f := (fun n => n == 0)) h) rfl h⟩

theorem sketchShl (x : SkWord) : Statement (.sketchShl x) := fun h =>
  ⟨_, rfl, decodeSketch_word _ 6 x (by decide) (SkWord.ok_fits (p := true) (q := false) (f := (fun n => decide (n < 64))) h) rfl h⟩

theorem sketchShr (x : SkWord) : Statement (.sketchShr x) := fun h =>
  ⟨_, rfl, decodeSketch_word _ 7 x (by decide) (SkWord.ok_fits (p := true) (q := false) (f := (fun n => decide (n < 64))) h) rfl h⟩

theorem sketchMask (x : SkWord) : Statement (.sketchMask x) := fun h =>
  ⟨_, rfl, decodeSketch_word _ 8 x (by decide) (SkWord.ok_fits (p := true) (q := true) (f := (fun n => decide (1 ≤ n / 64) && decide (n / 64 ≤ 64))) h) rfl h⟩

theorem sketchCmp (x : SkWord) : Statement (.sketchCmp x) := fun h =>
  ⟨_, rfl, decodeSketch_word _ 9 x (by decide) (SkWord.ok_fits (p := true) (q := true) (f := (fun n => n == 0)) h) rfl h⟩

theorem sketchSel (x : SkWord) : Statement (.sketchSel x) := fun h =>
  ⟨_, rfl, decodeSketch_word _ 10 x (by decide) (SkWord.ok_fits (p := true) (q := true) (f := (fun n => decide (n < 2))) h) rfl h⟩

theorem sketchBeq (x : SkWord) : Statement (.sketchBeq x) := fun h =>
  ⟨_, rfl, decodeSketch_word _ 11 x (by decide) (SkWord.ok_fits (p := false) (q := false) (f := (fun n => decide (1 ≤ n))) h) rfl h⟩

theorem sketchBne (x : SkWord) : Statement (.sketchBne x) := fun h =>
  ⟨_, rfl, decodeSketch_word _ 12 x (by decide) (SkWord.ok_fits (p := false) (q := false) (f := (fun n => decide (1 ≤ n))) h) rfl h⟩

theorem sketchLoop (x : SkWord) : Statement (.sketchLoop x) := fun h =>
  ⟨_, rfl, decodeSketch_word _ 13 x (by decide) (SkWord.ok_fits (p := false) (q := false) (f := (fun n => decide (1 ≤ n) && decide (n ≤ 64))) h) rfl h⟩

theorem sketchEndl (x : SkWord) : Statement (.sketchEndl x) := fun h =>
  ⟨_, rfl, decodeSketch_word _ 14 x (by decide) (SkWord.ok_fits (p := false) (q := false) (f := (fun n => n == 0)) h) rfl h⟩

theorem sketchLdq (x : SkWord) : Statement (.sketchLdq x) := fun h =>
  ⟨_, rfl, decodeSketch_word _ 15 x (by decide) (SkWord.ok_fits (p := true) (q := true) (f := (fun n => decide (n ≤ 56) && n % 8 == 0)) h) rfl h⟩

theorem sketchLdreg (x : SkWord) : Statement (.sketchLdreg x) := fun h =>
  ⟨_, rfl, decodeSketch_word _ 16 x (by decide) (SkWord.ok_fits (p := true) (q := false) (f := (fun n => decide (n < 32))) h) rfl h⟩

theorem sketchStreg (x : SkWord) : Statement (.sketchStreg x) := fun h =>
  ⟨_, rfl, decodeSketch_word _ 17 x (by decide) (SkWord.ok_fits (p := true) (q := false) (f := (fun n => decide (8 ≤ n) && decide (n < 32))) h) rfl h⟩

theorem sketchLaunch (x : SkWord) : Statement (.sketchLaunch x) := fun h =>
  ⟨_, rfl, decodeSketch_word _ 18 x (by decide) (SkWord.ok_fits (p := true) (q := true) (f := (fun n => n == 0)) h) rfl h⟩

theorem sketchSignal (x : SkWord) : Statement (.sketchSignal x) := fun h =>
  ⟨_, rfl, decodeSketch_word _ 19 x (by decide) (SkWord.ok_fits (p := true) (q := true) (f := (fun n => n == 0)) h) rfl h⟩

theorem sketchWait (x : SkWord) : Statement (.sketchWait x) := fun h =>
  ⟨_, rfl, decodeSketch_word _ 20 x (by decide) (SkWord.ok_fits (p := true) (q := true) (f := (fun n => n == 0)) h) rfl h⟩

theorem sketchIrq (x : SkWord) : Statement (.sketchIrq x) := fun h =>
  ⟨_, rfl, decodeSketch_word _ 21 x (by decide) (SkWord.ok_fits (p := false) (q := false) (f := (fun n => decide (n < 16))) h) rfl h⟩

theorem sketchDone (x : SkWord) : Statement (.sketchDone x) := fun h =>
  ⟨_, rfl, decodeSketch_word _ 22 x (by decide) (SkWord.ok_fits (p := false) (q := false) (f := (fun n => decide (1 ≤ n) && decide (n ≤ 16))) h) rfl h⟩

theorem sketchDrop (x : SkWord) : Statement (.sketchDrop x) := fun h =>
  ⟨_, rfl, decodeSketch_word _ 23 x (by decide) (SkWord.ok_fits (p := false) (q := false) (f := (fun n => decide (1 ≤ n) && decide (n ≤ 16))) h) rfl h⟩

theorem sketchFault (x : SkWord) : Statement (.sketchFault x) := fun h =>
  ⟨_, rfl, decodeSketch_word _ 24 x (by decide) (SkWord.ok_fits (p := false) (q := false) (f := (fun n => decide (128 ≤ n) && decide (n < 256))) h) rfl h⟩

theorem fixedLatencyWriteback (gid : Nat) : Statement (.fixedLatencyWriteback gid) := fun _ => rfl

theorem variableLatencyResult (gid id : Nat) : Statement (.variableLatencyResult gid id) := fun _ => rfl

theorem runStart (sched : Nat) : Statement (.runStart sched) := fun _ => rfl

theorem runEndMerge (gid sp : Nat) : Statement (.runEndMerge gid sp) := fun _ => rfl

theorem groupExit (gid : Nat) : Statement (.groupExit gid) := fun _ => rfl

theorem teamResourceFree (team : Nat) : Statement (.teamResourceFree team) := fun _ => rfl

theorem teamPlacement (part : Nat) : Statement (.teamPlacement part) := fun _ => rfl

theorem taskComplete (task : Nat) : Statement (.taskComplete task) := fun _ => rfl

theorem spawnAccept (gid sp : Nat) : Statement (.spawnAccept gid sp) := fun _ => rfl

theorem progressSwap (core : Nat) : Statement (.progressSwap core) := fun _ => rfl

theorem syncEngineLineReturn (line : Nat) : Statement (.syncEngineLineReturn line) := fun _ => rfl

theorem atomicPerformed (gid id : Nat) : Statement (.atomicPerformed gid id) := fun _ => rfl

theorem storePerformed (gid id : Nat) : Statement (.storePerformed gid id) := fun _ => rfl

theorem fbreplayRetry (die index : Nat) : Statement (.fbreplayRetry die index) := fun _ => rfl

theorem fbreplayAbandon (die index : Nat) : Statement (.fbreplayAbandon die index) := fun _ => rfl

theorem copyUnitTransfer (copy : Nat) : Statement (.copyUnitTransfer copy) := fun _ => rfl

theorem sourceReleased (copy : Nat) : Statement (.sourceReleased copy) := fun _ => rfl

theorem landed (copy : Nat) : Statement (.landed copy) := fun _ => rfl

theorem published (copy : Nat) : Statement (.published copy) := fun _ => rfl

theorem deferredArrival (id : Nat) : Statement (.deferredArrival id) := fun _ => rfl

theorem publishPoint (id : Nat) : Statement (.publishPoint id) := fun _ => rfl

theorem publishComplete (id : Nat) : Statement (.publishComplete id) := fun _ => rfl

theorem barrierPhaseComplete (bar : Nat) : Statement (.barrierPhaseComplete bar) := fun _ => rfl

theorem ctrwaitWake (gid sp : Nat) : Statement (.ctrwaitWake gid sp) := fun _ => rfl

theorem operationAcceptance (id : Nat) : Statement (.operationAcceptance id) := fun _ => rfl

theorem matrixPass (engine : Nat) : Statement (.matrixPass engine) := fun _ => rfl

theorem batchComplete (gid : Nat) : Statement (.batchComplete gid) := fun _ => rfl

theorem tdepServe (id : Nat) : Statement (.tdepServe id) := fun _ => rfl

theorem tcopyServe (id : Nat) : Statement (.tcopyServe id) := fun _ => rfl

theorem ttakeServe (id : Nat) : Statement (.ttakeServe id) := fun _ => rfl

theorem tcancelServe (id : Nat) : Statement (.tcancelServe id) := fun _ => rfl

theorem skidEnd (queue : Nat) : Statement (.skidEnd queue) := fun _ => rfl

theorem cxvacClaim (queue n : Nat) : Statement (.cxvacClaim queue n) := fun _ => rfl

theorem cxvacRelease (queue : Nat) : Statement (.cxvacRelease queue) := fun _ => rfl

theorem claimComplete (queue : Nat) : Statement (.claimComplete queue) := fun _ => rfl

theorem kick (queue value : Nat) : Statement (.kick queue value) := fun _ => rfl

theorem qctlEnable (queue value : Nat) : Statement (.qctlEnable queue value) := fun _ => rfl

theorem qctlSkip (queue value : Nat) : Statement (.qctlSkip queue value) := fun _ => rfl

theorem easelAssign (die : Nat) : Statement (.easelAssign die) := fun _ => rfl

theorem launchCommit (queue : Nat) : Statement (.launchCommit queue) := fun _ => rfl

theorem queueWaitWake (queue : Nat) : Statement (.queueWaitWake queue) := fun _ => rfl

theorem rcmdWrite (queue value : Nat) : Statement (.rcmdWrite queue value) := fun _ => rfl

theorem rcmdInval (queue value : Nat) : Statement (.rcmdInval queue value) := fun _ => rfl

theorem skcmdLoad (part value : Nat) : Statement (.skcmdLoad part value) := fun _ => rfl

theorem skcmdUnload (part value : Nat) : Statement (.skcmdUnload part value) := fun _ => rfl

theorem scrub (page : Nat) : Statement (.scrub page) := fun _ => rfl

theorem trapEntry (thread vector : Nat) : Statement (.trapEntry thread vector) := fun _ => rfl

theorem wfiWake (thread : Nat) : Statement (.wfiWake thread) := fun _ => rfl

theorem vectorDelivery (vector : Nat) : Statement (.vectorDelivery vector) := fun _ => rfl

theorem vfEnable (vf : Nat) : Statement (.vfEnable vf) := fun _ => rfl

theorem vfDisable (vf : Nat) : Statement (.vfDisable vf) := fun _ => rfl

theorem vfFlr (vf : Nat) : Statement (.vfFlr vf) := fun _ => rfl

theorem flrComplete (vf : Nat) : Statement (.flrComplete vf) := fun _ => rfl

theorem vfHarvest (vf : Nat) : Statement (.vfHarvest vf) := fun _ => rfl

theorem vfqcmdExport (vf value : Nat) : Statement (.vfqcmdExport vf value) := fun _ => rfl

theorem vfqcmdImport (vf value : Nat) : Statement (.vfqcmdImport vf value) := fun _ => rfl

theorem partitionReset (part : Nat) : Statement (.partitionReset part) := fun _ => rfl

theorem prcfgWrite (part value : Nat) : Statement (.prcfgWrite part value) := fun _ => rfl

theorem lendreqWrite (stack pair value : Nat) : Statement (.lendreqWrite stack pair value) := fun _ => rfl

theorem lendReclaim (stack pair : Nat) : Statement (.lendReclaim stack pair) := fun _ => rfl

theorem lendThermalReclaim (stack pair : Nat) : Statement (.lendThermalReclaim stack pair) := fun _ => rfl

theorem refresh (stack row : Nat) : Statement (.refresh stack row) := fun _ => rfl

theorem throttleRelease (stack row : Nat) : Statement (.throttleRelease stack row) := fun _ => rfl

theorem patrol (stack line : Nat) : Statement (.patrol stack line) := fun _ => rfl

theorem keySwitch (link dir : Nat) : Statement (.keySwitch link dir) := fun _ => rfl

theorem linkRetransmit (link dir : Nat) : Statement (.linkRetransmit link dir) := fun _ => rfl

theorem uncorrectableControlError (die : Nat) (owners : List Nat) (kind : Nat) :
    Statement (.uncorrectableControlError die owners kind) := fun _ => rfl

theorem dmpcmdStart (value : Nat) : Statement (.dmpcmdStart value) := fun _ => rfl

theorem firmwareActivation (image : Nat) : Statement (.firmwareActivation image) := fun _ => rfl

theorem getVersion (req : SpdmReq) : Statement (.getVersion req) := fun _ => rfl

theorem getCapabilities (req : SpdmReq) : Statement (.getCapabilities req) := fun _ => rfl

theorem negotiateAlgorithms (req : SpdmReq) : Statement (.negotiateAlgorithms req) := fun _ => rfl

theorem getDigests (req : SpdmReq) : Statement (.getDigests req) := fun _ => rfl

theorem getCertificate (req : SpdmReq) : Statement (.getCertificate req) := fun _ => rfl

theorem challenge (req : SpdmReq) : Statement (.challenge req) := fun _ => rfl

theorem getMeasurements (req : SpdmReq) : Statement (.getMeasurements req) := fun _ => rfl

theorem keyExchange (req : SpdmReq) : Statement (.keyExchange req) := fun _ => rfl

theorem finish (req : SpdmReq) : Statement (.finish req) := fun _ => rfl

theorem heartbeat (req : SpdmReq) : Statement (.heartbeat req) := fun _ => rfl

theorem keyUpdate (req : SpdmReq) : Statement (.keyUpdate req) := fun _ => rfl

theorem endSession (req : SpdmReq) : Statement (.endSession req) := fun _ => rfl

theorem getEnclaveEvidence (req : SpdmReq) : Statement (.getEnclaveEvidence req) := fun _ => rfl

theorem podForm (req : SpdmReq) : Statement (.podForm req) := fun _ => rfl

theorem getPodPath (req : SpdmReq) : Statement (.getPodPath req) := fun _ => rfl

theorem trctlEnable (queue value : Nat) : Statement (.trctlEnable queue value) := fun _ => rfl

theorem chunkFlush (sched : Nat) : Statement (.chunkFlush sched) := fun _ => rfl

theorem lossMark (sched : Nat) : Statement (.lossMark sched) := fun _ => rfl

theorem stallSample (sched : Nat) : Statement (.stallSample sched) := fun _ => rfl

theorem stepon (gid : Nat) : Statement (.stepon gid) := fun _ => rfl

theorem stepoff (gid : Nat) : Statement (.stepoff gid) := fun _ => rfl

theorem goStep (gid : Nat) : Statement (.goStep gid) := fun _ => rfl

theorem powerOn : Statement .powerOn := fun _ => rfl

theorem limitStep (up : Bool) : Statement (.limitStep up) := fun _ => rfl

theorem thermalStep (part : Nat) (up : Bool) : Statement (.thermalStep part up) := fun _ => rfl

theorem thermalTrip : Statement .thermalTrip := fun _ => rfl

theorem pgateGate (part : Nat) : Statement (.pgateGate part) := fun _ => rfl

theorem pgateUngate (part : Nat) : Statement (.pgateUngate part) := fun _ => rfl

theorem registerWrite (addr size value : Nat) : Statement (.registerWrite addr size value) := fun _ => rfl

theorem undefOpcode (word : BitVec 32) : Statement (.undefOpcode word) := fun _ => rfl

theorem inboundDeviceAccess (req : InboundReq) : Statement (.inboundDeviceAccess req) := fun _ => rfl

theorem tdispRequest (req : TdispReq) : Statement (.tdispRequest req) := fun _ => rfl

theorem ideKmRequest (req : IdeReq) : Statement (.ideKmRequest req) := fun _ => rfl

theorem completionTimeout (req : Nat) : Statement (.completionTimeout req) := fun _ => rfl

theorem modulePowerOff : Statement .modulePowerOff := fun _ => rfl

theorem threadStart (thread lvl pc : Nat) : Statement (.threadStart thread lvl pc) := fun _ => rfl

theorem firmwareStaging (req : FwReq) : Statement (.firmwareStaging req) := fun _ => rfl

theorem pclkCapWrite (part value : Nat) : Statement (.pclkCapWrite part value) := fun _ => rfl

end Sys2Proof.Laws.RoundTrip
end

