-- ==== Sys2Proof/Laws/Rows.lean ====
section
/-! SUPPORT. Laws/Rows.lean: what the rows of the computation families do where no fault comes before them, one lemma for each
shape of row. -/

namespace Sys2Proof.Machine

variable {s : State} {gid sp : Nat} {g : Group} {p : Split} {tid : Nat} {t : Thread}

theorem vecInt3_next (arith readsD fixed : Bool) (op : ElemOp) (x : Op3) (h : s.AtSplit gid sp g p)
    (hp : g.Passes p ((specV3 x (etyBad arith (modeEty (s.rdSplit g sp p).mode)) readsD (ety64 (modeEty (s.rdSplit g sp p).mode))
      (s.rdSplit g sp p)).guarded (s.rdSplit g sp p)) (s.rdSplit g sp p).active) :
    vecInt3 arith readsD fixed op x s = .next (s.vecDone gid sp x.m x.len (s.rdSplit g sp p).active fixed
      (laneImages (s.rdSplit g sp p).lanes (ety64 (modeEty (s.rdSplit g sp p).mode)) x.d
        (intLane arith op (s.rdSplit g sp p) x.a x.c x.d))) := vecAlu_next h hp rfl

theorem vecInt2_next (arith : Bool) (op : ElemOp) (x : Op2) (h : s.AtSplit gid sp g p)
    (hp : g.Passes p ((specV2 x (etyBad arith (modeEty (s.rdSplit g sp p).mode)) (ety64 (modeEty (s.rdSplit g sp p).mode))
      (s.rdSplit g sp p)).guarded (s.rdSplit g sp p)) (s.rdSplit g sp p).active) :
    vecInt2 arith op x s = .next (s.vecDone gid sp x.m x.len (s.rdSplit g sp p).active true
      (laneImages (s.rdSplit g sp p).lanes (ety64 (modeEty (s.rdSplit g sp p).mode)) x.d
        (intLane arith op (s.rdSplit g sp p) x.a .zero x.d))) := vecAlu_next h hp rfl

theorem vecFlt3_next (readsD fixed usesRnd : Bool) (op : FltOp) (x : Op3) (h : s.AtSplit gid sp g p)
    (hp : g.Passes p ((specV3 x (fltBad usesRnd (s.rdSplit g sp p)) readsD false (s.rdSplit g sp p)).guarded
      (s.rdSplit g sp p)) (s.rdSplit g sp p).active) :
    vecFlt3 readsD fixed usesRnd op x s = .next (s.vecDone gid sp x.m x.len (s.rdSplit g sp p).active fixed
      (laneImages (s.rdSplit g sp p).lanes false x.d (fltLane op (s.rdSplit g sp p) x.a x.c x.d))) := vecAlu_next h hp rfl

theorem vecFlt2_next (fixed usesRnd : Bool) (op : FltOp) (x : Op2) (h : s.AtSplit gid sp g p)
    (hp : g.Passes p ((specV2 x (fltBad usesRnd (s.rdSplit g sp p)) false (s.rdSplit g sp p)).guarded
      (s.rdSplit g sp p)) (s.rdSplit g sp p).active) :
    vecFlt2 fixed usesRnd op x s = .next (s.vecDone gid sp x.m x.len (s.rdSplit g sp p).active fixed
      (laneImages (s.rdSplit g sp p).lanes false x.d (fltLane op (s.rdSplit g sp p) x.a .zero x.d))) := vecAlu_next h hp rfl

theorem predRow_next (f : W32 → W32 → W32) (x : Rrr) (h : s.AtSplit gid sp g p)
    (hp : g.Passes p ((Spec.of x.m 1 false [codeP x.a, codeP x.c] [codeP x.d]).guarded (s.rdSplit g sp p))
      (s.rdSplit g sp p).active) :
    predRow f x s = .next (s.vecDone gid sp x.m 1 (s.rdSplit g sp p).active true
      { RegWrites.none with p := [(x.d, (s.rdSplit g sp p).active, f ((s.rdSplit g sp p).p x.a) ((s.rdSplit g sp p).p x.c))] }) :=
  vecAlu_next h hp rfl

theorem uniInt3_split (arith readsD : Bool) (op : ElemOp) (x : Op3) (h : s.AtSplit gid sp g p)
    (hp : g.Passes p (Spec.of x.m x.len (etyBad arith (modeEty (s.rdSplit g sp p).mode))
      ((s.rdSplit g sp p).modeCode :: (x.a.uCodes ++ x.c.uCodes ++ if readsD then [codeG x.d] else [])) [codeG x.d]) p.mask) :
    uniInt3 arith readsD op x s = .next (s.uniDone gid sp p x.m x.len true
      (gRes x.d (intUni arith op (s.rdSplit g sp p) ((s.rdSplit g sp p).uni x.a) ((s.rdSplit g sp p).uni x.c)
        ((s.rdSplit g sp p).g x.d)))) := uniAlu_split h hp rfl

theorem uniInt2_split (arith : Bool) (op : ElemOp) (x : Op2) (h : s.AtSplit gid sp g p)
    (hp : g.Passes p (Spec.of x.m x.len (etyBad arith (modeEty (s.rdSplit g sp p).mode))
      ((s.rdSplit g sp p).modeCode :: x.a.uCodes) [codeG x.d]) p.mask) :
    uniInt2 arith op x s = .next (s.uniDone gid sp p x.m x.len true
      (gRes x.d (intUni arith op (s.rdSplit g sp p) ((s.rdSplit g sp p).uni x.a) 0#64 ((s.rdSplit g sp p).g x.d)))) :=
  uniAlu_split h hp rfl

theorem uniInt3_thread (arith readsD : Bool) (op : ElemOp) (x : Op3) (h : s.AtThread tid t)
    (hp : t.Passes (Spec.of x.m x.len (etyBad arith (modeEty t.mode))
      ((t.rd tid).modeCode :: (x.a.uCodes ++ x.c.uCodes ++ if readsD then [codeG x.d] else [])) [codeG x.d])) :
    uniInt3 arith readsD op x s = .next (s.threadDone tid ((t.write
      (gRes x.d (intUni arith op (t.rd tid) ((t.rd tid).uni x.a) ((t.rd tid).uni x.c) ((t.rd tid).g x.d)))).onward x.len)) :=
  uniAlu_thread h hp rfl

theorem uniInt2_thread (arith : Bool) (op : ElemOp) (x : Op2) (h : s.AtThread tid t)
    (hp : t.Passes (Spec.of x.m x.len (etyBad arith (modeEty t.mode)) ((t.rd tid).modeCode :: x.a.uCodes) [codeG x.d])) :
    uniInt2 arith op x s = .next (s.threadDone tid ((t.write
      (gRes x.d (intUni arith op (t.rd tid) ((t.rd tid).uni x.a) 0#64 ((t.rd tid).g x.d)))).onward x.len)) :=
  uniAlu_thread h hp rfl

theorem shuffle_next (src : Nat → Nat → Option Nat) (x : Op3) (h : s.AtSplit gid sp g p)
    (hp : g.Passes p ((specShfl x (s.rdSplit g sp p)).guarded (s.rdSplit g sp p)) (s.rdSplit g sp p).active) :
    shuffle src x s = .next (s.vecDone gid sp x.m x.len (s.rdSplit g sp p).active false
      (laneImages (s.rdSplit g sp p).lanes (s.rdSplit g sp p).wideEty x.d fun l =>
        Res.pure ((s.rdSplit g sp p).vec (s.rdSplit g sp p).wideEty x.a
          (((src l (((s.rdSplit g sp p).vec false x.c l).toNat % 2 ^ 32)).filter
            (hasLane (s.rdSplit g sp p).active)).getD l)))) := vecAlu_next h hp rfl

theorem vecConv_next {spec : Rd → Spec} {fixed : Bool} {n : Rd → Nat → Nat}
    {f : Rd → (Nat → List W32) → Except Flt RegWrites} {w : RegWrites} (h : s.AtSplit gid sp g p)
    (hp : g.Passes p ((spec (s.rdSplit g sp p)).guardedSr (s.rdSplit g sp p)) (s.rdSplit g sp p).active)
    (hw : f (s.rdSplit g sp p) (fun l => g.regs.draws (s.rdSplit g sp p) (n (s.rdSplit g sp p) l) l) = .ok w) :
    vecConv s spec fixed n f = .next (s.convDone gid sp (s.rdSplit g sp p) (spec (s.rdSplit g sp p)).m
      (spec (s.rdSplit g sp p)).len fixed (n (s.rdSplit g sp p)) w) := by
  unfold vecConv
  rw [issuer_split h]
  simp only [hw, State.convDone]
  refine congrArg _ ?_
  by_cases ha : (s.rdSplit g sp p).active = 0#32
  · simp only [ha, if_true]
    rw [← ha]
    exact issueSplit_ok hp s gid sp fixed _
  · simp only [ha, if_false]
    exact issueSplit_ok hp s gid sp fixed _

theorem mxIssue_next (m : Marks) (len d fmt : Nat) (a : Opnd) (f : Nat × List Rounded → Nat → Nat)
    (h : s.AtSplit gid sp g p)
    (hp : g.Passes p ((Spec.of m len (modeEty (s.rdSplit g sp p).mode != 8 || rndBad (s.rdSplit g sp p)
      || (s.rdSplit g sp p).vBad false d || (s.rdSplit g sp p).vecBad false a) (a.vCodes false) [d]).guardedSr (s.rdSplit g sp p))
      (s.rdSplit g sp p).active) :
    mxIssue s m len d fmt a f = .next (s.convDone gid sp (s.rdSplit g sp p) m len false (fun _ => 1)
      { laneImages (s.rdSplit g sp p).lanes false d (fun l => Res.pure (BitVec.ofNat 64
          (f (mxBlock (s.rdSplit g sp p) fmt a fun l => g.regs.draws (s.rdSplit g sp p) 1 l) l))) with
        flags := blockFlags (mxBlock (s.rdSplit g sp p) fmt a fun l => g.regs.draws (s.rdSplit g sp p) 1 l).2 }) :=
  vecConv_next h hp rfl

theorem vecRange_next (m : Marks) (d nd a na : Nat) (f : Nat → Nat) (h : s.AtSplit gid sp g p)
    (hp : g.Passes p ((Spec.of m 1 ((s.rdSplit g sp p).rangeBad d nd || (s.rdSplit g sp p).rangeBad a na) (regRange a na)
      (regRange d nd)).guarded (s.rdSplit g sp p)) (s.rdSplit g sp p).active) :
    vecRange m d nd a na f s = .next (s.vecDone gid sp m 1 (s.rdSplit g sp p).active true
      { RegWrites.none with
        v := (s.rdSplit g sp p).lanes.flatMap fun l => wideWrites d l (f ((s.rdSplit g sp p).wide a l na)) nd }) :=
  vecAlu_next h hp rfl

end Sys2Proof.Machine
end

