-- ==== Sys2Proof/Tests/Slice0.lean ====
section
/-! SUPPORT. Slice0.lean: the model's own tests: for each statement with hypotheses a witness that meets them, words of the
manual decoded, ill-formed terms refused, values that the manual's tables give, and single steps. Expected results come from
the manual, as each test says. -/

namespace Sys2Proof.Tests

open Sys2Proof Sys2Proof.Machine

set_option Elab.async false

/-! ### A small state: the placed group (State.placeGroup), with its split's MODE set -/

/-- The placed group's state with MODE `m`. -/
def stM (m : W32) : State := (State.reset.placeBase.placeGroup).modSplit 0 0 fun p => { p with mode := m }
def splM (m : W32) : Split := { Split.start (BitVec.ofNat 64 placeAddr) with mode := m }
def grpM (m : W32) : Group := { Group.start placeOf (BitVec.ofNat 64 placeAddr) with splits := [(0, splM m)] }
def rdM (m : W32) : Rd := (stM m).rdSplit (grpM m) 0 (splM m)
theorem issuesM (m : W32) : (stM m).Issues 0 0 (grpM m) (splM m) (rdM m) := ⟨⟨rfl, rfl, rfl⟩, rfl⟩

/-- Marks: none, S, B. -/
def m0 : Marks := ⟨false, false, false⟩
def mS : Marks := ⟨false, false, true⟩
def mB : Marks := ⟨true, false, false⟩

/-- MODE with guard p7 and ETY S32, FP32, FP16, S8×4. -/
abbrev eI : W32 := 0x07#32
abbrev eF : W32 := 0x87#32
abbrev eH : W32 := 0x97#32
abbrev eB : W32 := 0x67#32

theorem okOf {ε α : Type} {x : Except ε α} (h : x.toBool = true) : ∃ a, x = .ok a := by
  cases x with
  | ok a => exact ⟨a, rfl⟩
  | error e => cases h

theorem errOf {ε α : Type} {x : Except ε α} (h : x.toBool = false) : ∃ e, x = .error e := by
  cases x with
  | ok a => cases h
  | error e => exact ⟨e, rfl⟩

/-! ### Witnesses: for each statement with hypotheses, a state and operands that meet them together -/

theorem witness_AmitiaWordsDecode :
    WellFormed (.iadd ⟨⟨false, false, false⟩, 1, .v 0, .lit32 5#32⟩) ∧
      (Instr.toRaw (.iadd ⟨⟨false, false, false⟩, 1, .v 0, .lit32 5#32⟩)).isSome = true := by decide +kernel

theorem witness_DecodeReadsEveryBit :
    decode [0x0000407C#32, 5#32, 9#32] = .ok (.iadd ⟨⟨false, false, false⟩, 1, .v 0, .lit32 5#32⟩, [9#32]) := by decide +kernel

theorem witness_SketchWordsDecode :
    WellFormed (.sketchDone ⟨0, 0, 1⟩) ∧ (Instr.toSketch (.sketchDone ⟨0, 0, 1⟩)).isSome = true
      ∧ decodeSketch 0x16000001#32 = some (.sketchDone ⟨0, 0, 1⟩) := by decide +kernel

theorem witness_VectorIntegerRows : (stM eI).Issues 0 0 (grpM eI) (splM eI) (rdM eI)
    ∧ (grpM eI).Passes (splM eI) ((specV3 ⟨m0, 95, .v 0, .lit32 5#32⟩ (etyBad true (modeEty (rdM eI).mode)) true
        (ety64 (modeEty (rdM eI).mode)) (rdM eI)).guarded (rdM eI)) (rdM eI).active
    ∧ (grpM eI).Passes (splM eI) ((specV2 ⟨m0, 95, .lane⟩ (etyBad true (modeEty (rdM eI).mode))
        (ety64 (modeEty (rdM eI).mode)) (rdM eI)).guarded (rdM eI)) (rdM eI).active :=
  ⟨issuesM _, by unfold Group.Passes; decide +kernel, by unfold Group.Passes; decide +kernel⟩

theorem witness_VectorMoveAndPartialRows : (stM eB).Issues 0 0 (grpM eB) (splM eB) (rdM eB)
    ∧ (grpM eB).Passes (splM eB) ((specV3 ⟨m0, 3, .v 0, .v 1⟩ (modeEty (rdM eB).mode != 6 && modeEty (rdM eB).mode != 7) true
        false (rdM eB)).guarded (rdM eB)) (rdM eB).active
    ∧ (grpM eI).Passes (splM eI) ((Spec.of m0 1 (!decide (modeEty (rdM eI).mode < 2) || (rdM eI).vBad true 94
        || (rdM eI).vecBad false (.v 95) || (rdM eI).vecBad false .lane) ((Opnd.v 95).vCodes false ++ Opnd.lane.vCodes false)
        (codesV true 94)).guarded (rdM eI)) (rdM eI).active
    ∧ (grpM eI).Passes (splM eI) ((specV3 ⟨m0, 3, .v 0, .zero⟩ (ety64 (modeEty (rdM eI).mode)) true false
        (rdM eI)).guarded (rdM eI)) (rdM eI).active
    ∧ (grpM eI).Passes (splM eI) ((specV2 ⟨m0, 3, .one⟩ (etyBad false (modeEty (rdM eI).mode)) (ety64 (modeEty (rdM eI).mode))
        (rdM eI)).guarded (rdM eI)) (rdM eI).active
    ∧ (grpM eI).Passes (splM eI) ((specV3 ⟨m0, 3, .v 0, .g 15⟩ (etyBad false (modeEty (rdM eI).mode)) false
        (ety64 (modeEty (rdM eI).mode)) (rdM eI)).guarded (rdM eI)) (rdM eI).mask
    ∧ (grpM eI).Passes (splM eI) ((specCmp ⟨m0, 2, 7, .v 0, .v 1⟩ (icmpBad (modeEty (rdM eI).mode))
        (ety64 (modeEty (rdM eI).mode)) (rdM eI)).guarded (rdM eI)) (rdM eI).active := by
  refine ⟨issuesM _, ?_⟩; unfold Group.Passes; decide +kernel

theorem witness_FloatRows : (stM eF).Issues 0 0 (grpM eF) (splM eF) (rdM eF)
    ∧ (grpM eF).Passes (splM eF) ((specV3 ⟨m0, 1, .v 2, .v 3⟩ (fltBad true (rdM eF)) true false (rdM eF)).guarded (rdM eF))
        (rdM eF).active
    ∧ (grpM eF).Passes (splM eF) ((specV2 ⟨m0, 1, .v 2⟩ (fltBad true (rdM eF)) false (rdM eF)).guarded (rdM eF)) (rdM eF).active
    ∧ (grpM eF).Passes (splM eF) ((specCmp ⟨m0, 1, 0, .v 2, .v 3⟩ (fltBad false (rdM eF)) false (rdM eF)).guarded (rdM eF))
        (rdM eF).active
    ∧ (stM eH).Issues 0 0 (grpM eH) (splM eH) (rdM eH)
    ∧ (grpM eH).Passes (splM eH) ((specV3 ⟨m0, 1, .v 2, .v 3⟩ (fltBad true (rdM eH) || modeEty (rdM eH).mode == 8) true false
        (rdM eH)).guarded (rdM eH)) (rdM eH).active :=
  ⟨issuesM _, by unfold Group.Passes; decide +kernel, by unfold Group.Passes; decide +kernel,
    by unfold Group.Passes; decide +kernel, issuesM _, by unfold Group.Passes; decide +kernel⟩

theorem witness_ConversionRows : (stM eF).Issues 0 0 (grpM eF) (splM eF) (rdM eF) ∧ (stM eH).Issues 0 0 (grpM eH) (splM eH) (rdM eH)
    ∧ (grpM eF).Passes (splM eF) ((Spec.of m0 1 (etyBad false (modeEty (rdM eF).mode) || rndBad (rdM eF)
        || (rdM eF).vBad (cvtWide 2) 94 || (rdM eF).vecBad (ety64 (modeEty (rdM eF).mode)) (.v 0))
        ((Opnd.v 0).vCodes (ety64 (modeEty (rdM eF).mode))) (codesV (cvtWide 2) 94)).guardedSr (rdM eF)) (rdM eF).active
    ∧ (grpM eH).Passes (splM eH) ((specV3 ⟨m0, 3, .v 0, .v 1⟩ (fltBad true (rdM eH) || modeEty (rdM eH).mode == 8) false false
        (rdM eH)).guardedSr (rdM eH)) (rdM eH).active
    ∧ (grpM eF).Passes (splM eF) ((Spec.of m0 2 (modeEty (rdM eF).mode != 8 || rndBad (rdM eF) || (rdM eF).vBad false 1
        || decide ((rdM eF).vregs < 1 + 4) || (rdM eF).vecBad false (.v 0) || (rdM eF).vecBad false (.lit32 0x8008#32))
        ((Opnd.v 0).vCodes false ++ (Opnd.lit32 0x8008#32).vCodes false)
        ((List.range (cvtwMost (rdM eF) ⟨m0, 1, .v 0, .lit32 0x8008#32⟩)).map fun k => 1 + k)).guardedSr (rdM eF)) (rdM eF).active
    ∧ (∀ l ∈ (rdM eF).lanes, (cvtwForm ((rdM eF).vec false (.lit32 0x8008#32) l).toNat).isSome = true
        ∧ 1 + cvtwCount (rdM eF) ⟨m0, 1, .v 0, .lit32 0x8008#32⟩ l ≤ (rdM eF).vregs)
    ∧ (grpM eF).Passes (splM eF) ((Spec.of m0 1 (modeEty (rdM eF).mode != 8 || rndBad (rdM eF) || (rdM eF).vBad false 1
        || (rdM eF).vecBad false (.v 0)) ((Opnd.v 0).vCodes false) [1]).guardedSr (rdM eF)) (rdM eF).active
    ∧ (grpM eF).Passes (splM eF) ((Spec.of m0 1 ((rdM eF).rangeBad 92 4 || (rdM eF).rangeBad 93 3) (regRange 93 3)
        (regRange 92 4)).guarded (rdM eF)) (rdM eF).active
    ∧ (grpM eF).Passes (splM eF) ((Spec.of m0 1 (etyBad false (modeEty (rdM eF).mode) || ety64 (modeEty (rdM eF).mode)
        || (rdM eF).rangeBad 1 (cmprWrite (modeEty (rdM eF).mode)) || (rdM eF).rangeBad 9 (cmprRead (modeEty (rdM eF).mode)))
        (regRange 9 (cmprRead (modeEty (rdM eF).mode))) (regRange 1 (cmprWrite (modeEty (rdM eF).mode)))).guarded (rdM eF))
        (rdM eF).active
    ∧ (grpM eF).Passes (splM eF) ((Spec.of m0 1 ((rdM eF).vecBad false .lane) (Opnd.lane.vCodes false) []).guarded (rdM eF))
        (rdM eF).active := by
  refine ⟨issuesM _, issuesM _, ?_⟩; unfold Group.Passes; decide +kernel

/-- Two numbers that the rules of SAT tell apart, at the edge and one beyond it. -/
theorem witness_FitRule : (0 < 8) ∧ ((-129 : Int) < intMin true 8) ∧ (intMin true 8 ≤ -128) ∧ ((-128 : Int) ≤ intMax true 8)
    ∧ (intMax true 8 < 128) ∧ (intMin false 8 ≤ 0) ∧ ((-1 : Int) < intMin false 8) ∧ (intMax false 8 < 256) := by decide +kernel

theorem witness_ShiftRule : (0 < 32) ∧ (32 ≤ (32#32).toNat) ∧ etyBad true (modeEty (rdM eB).mode) = false
    ∧ ety64 (modeEty (rdM eB).mode) = false ∧ 3 < elemCount (intEty true (rdM eB)) := by decide +kernel

theorem witness_DivisionRule : (1#8 ≠ 0#8) ∧ (BitVec.intMin 8 = 0x80#8) ∧ (BitVec.allOnes 8 = 0xFF#8)
    ∧ (grpM eI).Passes (splM eI) ((specV3 ⟨m0, 95, .v 0, .zero⟩ (etyBad true (modeEty (rdM eI).mode)) false
        (ety64 (modeEty (rdM eI).mode)) (rdM eI)).guarded (rdM eI)) (rdM eI).active := by
  unfold Group.Passes; decide +kernel

theorem witness_IntegerElementValues : (0x0808#32).toNat % 2 ^ 16 = 8 + 256 * 8 ∧ 8 < 256 ∧ 0 < 8 ∧ 8 + 8 ≤ 32
    ∧ (0x2000#32).toNat % 2 ^ 16 = 0 + 256 * 32 ∧ 0 + 32 ≤ 32 := by decide +kernel

theorem witness_PackedCodesRoundTrip : 15 < 16 ∧ fieldOf (pack6 (2 ^ 128 - 1)) 90 6 = 63 := by decide +kernel

theorem witness_CrossLaneRows : (stM eI).Issues 0 0 (grpM eI) (splM eI) (rdM eI)
    ∧ (grpM eI).Passes (splM eI) ((specShfl ⟨m0, 95, .v 0, .v 1⟩ (rdM eI)).guarded (rdM eI)) (rdM eI).active
    ∧ (grpM eI).Passes (splM eI) ((specV2 ⟨m0, 1, .v 0⟩ (redBad (rdM eI)) (rdM eI).wideEty (rdM eI)).guarded (rdM eI)) (rdM eI).active
    ∧ (grpM eI).Passes (splM eI) ((Spec.of m0 1 (!(modeEty (rdM eI).mode == 0 || modeEty (rdM eI).mode == 1
        || modeEty (rdM eI).mode == 8) || (rdM eI).vBad true 94 || (rdM eI).vecBad false .lane) (Opnd.lane.vCodes false)
        (codesV true 94)).guarded (rdM eI)) (rdM eI).active
    ∧ (grpM eI).Passes (splM eI) ((specV2 ⟨m0, 1, .v 0⟩ (!etyInt (modeEty (rdM eI).mode)) (rdM eI).wideEty (rdM eI)).guarded
        (rdM eI)) (rdM eI).active := by
  refine ⟨issuesM _, ?_⟩; unfold Group.Passes; decide +kernel

theorem witness_PredicateRows : (stM eI).Issues 0 0 (grpM eI) (splM eI) (rdM eI)
    ∧ (grpM eI).Passes (splM eI) ((Spec.of m0 1 false [codeP 0, codeP 7] [codeP 1]).guarded (rdM eI)) (rdM eI).active
    ∧ (grpM eI).Passes (splM eI) ((Spec.of m0 1 ((rdM eI).vecBad false .lane) (Opnd.lane.vCodes false) [codeP 1]).guarded
        (rdM eI)) (rdM eI).active
    ∧ (grpM eI).Passes (splM eI) ((Spec.of m0 1 ((rdM eI).vBad false 95) [codeP 7] [95]).guarded (rdM eI)) (rdM eI).active
    ∧ (grpM eI).Passes (splM eI) (Spec.of m0 1 false [codeP 7] [codeQ 0]) (rdM eI).mask
    ∧ (grpM eI).Passes (splM eI) (Spec.of m0 1 false [codeP 7] [codeG 1]) (rdM eI).mask
    ∧ (grpM eI).Passes (splM eI) (Spec.of m0 2 (readLaneBad (rdM eI) ⟨m0, 1, 0, .lit32 32#32⟩) (Opnd.lit32 32#32).uCodes
        (codeG 1 :: codesV (ety64 (modeEty (rdM eI).mode)) 0)) (rdM eI).mask
    ∧ ((rdM eI).uni (.lit32 31#32)).toNat ≤ 31 ∧ 31 < ((rdM eI).uni (.lit32 32#32)).toNat := by
  refine ⟨issuesM _, ?_⟩; unfold Group.Passes; decide +kernel

theorem okWith {ε α : Type} {x : Except ε α} {p : α → Bool} (h : (match x with | .ok a => p a | .error _ => false) = true) :
    ∃ a, x = .ok a ∧ p a = true := by
  cases x with
  | ok a => exact ⟨a, rfl, h⟩
  | error e => cases h

theorem passOf {s : State × Bool} (h : s.2 = false) : ∃ s', s = (s', false) := ⟨s.1, Prod.ext rfl h⟩

theorem witness_ModeInstructions : (stM eI).Issues 0 0 (grpM eI) (splM eI) (rdM eI)
    ∧ (grpM eI).Passes (splM eI) (Spec.of m0 2 false (Opnd.lit32 8#32).uCodes []) (splM eI).mask
    ∧ (grpM eI).Passes (splM eI) (Spec.of m0 1 false [] [codeG 63]) (splM eI).mask
    ∧ ((rdM eI).uni (.lit32 15#32)).toNat < 2 ^ (modefField 0).2 ∧ 2 ^ (modefField 0).2 ≤ ((rdM eI).uni (.lit32 16#32)).toNat := by
  refine ⟨issuesM _, ?_⟩; unfold Group.Passes; decide +kernel

theorem witness_RegisterWriteRule : [0, 31].Nodup ∧ (∀ l ∈ [0, 31], l < 32) ∧ Regs.start.fsetAt ≠ some 0 := by decide +kernel

/-! A control thread at hypervisor level (State.placeThread). -/
def thr : State := State.reset.placeBase.placeThread
def thr0 : Thread := thr.thread 0
def thrAt (f : Thread → Thread) : State := thr.putThread 0 (f thr0)
theorem atThr (f : Thread → Thread) : (thrAt f).AtThread 0 (f thr0) := ⟨rfl, rfl⟩
/-- The placed thread at another level. -/
def lv (n : Nat) (t : Thread) : Thread := { t with lvl := n }

theorem witness_ModeInstructions_thread : (thrAt id).AtThread 0 (id thr0)
    ∧ thr0.Passes (Spec.of m0 2 false (Opnd.lit32 8#32).uCodes []) ∧ thr0.Passes (Spec.of m0 1 false [] [codeG 63])
    ∧ ((thr0.rd 0).uni (.lit32 15#32)).toNat < 2 ^ (modefField 0).2 := by
  refine ⟨atThr _, ?_⟩; unfold Thread.Passes; decide +kernel

theorem witness_UniformIntegerRows : (stM eI).Issues 0 0 (grpM eI) (splM eI) (rdM eI)
    ∧ (grpM eI).Passes (splM eI) (Spec.of m0 1 (etyBad true (modeEty (rdM eI).mode))
        ((Opnd.g 1).uCodes ++ (Opnd.g 63).uCodes ++ [codeG 5]) [codeG 5]) (splM eI).mask
    ∧ (grpM eI).Passes (splM eI) (Spec.of m0 1 (etyBad true (modeEty (rdM eI).mode)) (Opnd.one).uCodes [codeG 5]) (splM eI).mask
    ∧ (grpM eI).Passes (splM eI) (Spec.of m0 1 (icmpBad (modeEty (rdM eI).mode)) ((Opnd.g 1).uCodes ++ (Opnd.q 7).uCodes)
        [codeQ 6]) (splM eI).mask
    ∧ ({ thr0 with mode := eI } : Thread).Passes (Spec.of m0 1 (etyBad true (modeEty eI)) ((Opnd.g 1).uCodes ++ (Opnd.g 63).uCodes
        ++ [codeG 5]) [codeG 5])
    ∧ ({ thr0 with mode := eI } : Thread).Passes (Spec.of m0 1 (icmpBad (modeEty eI)) ((Opnd.g 1).uCodes ++ (Opnd.q 7).uCodes)
        [codeQ 6]) := by
  refine ⟨issuesM _, ?_⟩; unfold Group.Passes Thread.Passes; decide +kernel

/-- A flight of a computed result, the only one of its group. -/
def fl0 : Flight := { Flight.result 0 0xFFFFFFFF#32 (RegWrites.gOne 1 5#64) with id := 0 }
def grpF : Group := { grpM eI with flights := [fl0], nextFlight := 1 }
def stF : State := (stM eI).putGroup 0 grpF

theorem witness_FixedLatencyWriteback : (stM eI).group? 0 = some (grpM eI) ∧ (∀ q ∈ (grpM eI).splits, ∀ y ∈ q.2.spQ, (stM eI).ac < y.due)
    ∧ stF.group? 0 = some grpF ∧ grpF.flight? 0 = some fl0 ∧ fl0.kind = .alu ∧ fl0.acc = [] ∧ grpF.heldFlight fl0 = false := by
  decide +kernel

/-- The words IADD v3, v1, #5 (Table 12 of ch08) at the placed group's pc, and SYSCALL at the placed thread's. -/
def stW : State := (stM eI).poke placeAddr (leBytes 8 0x5_8000C0FC)
def thW : State := (thrAt id).poke placeAddr (leBytes 4 0x1E7C3870)
def iaddW : Instr := .iadd ⟨mB, 3, .v 1, .lit32 5#32⟩
def easelW : State := State.reset.placeBase.placeSketch 0x16000001#32

theorem witness_StepRunsDecoded : stW.quiet ∧ stW.AtSplit 0 0 (grpM eI) (splM eI) ∧ stW.mayIssue 0 0 (grpM eI) = true
    ∧ WellFormed iaddW ∧ (iaddW.toRaw.map fun r => undefSimt r.u r.op) = some false
    ∧ fetchWords (stW.fetchSimt (grpM eI).place.ctx) (splM eI).pc.toNat (encode iaddW).length = .ok (encode iaddW) := by
  unfold State.quiet State.NotYet State.AtSplit; decide +kernel

theorem witness_StepRunsDecoded_thread : thW.quiet ∧ thW.AtThread 0 thr0 ∧ thr0.running = true ∧ thr0.wfi = false ∧ thr0.wait = none
    ∧ thr0.tupleWait = none ∧ WellFormed (.syscall ⟨m0⟩) ∧ ((Instr.syscall ⟨m0⟩).toRaw.map fun r => undefThread r.u r.op) = some false
    ∧ opLevel 0x73 ≤ thr0.lvl
    ∧ fetchWords ((thW.tlbFill thr0 (thW.partOfThread 0) thr0.pc.toNat).fetchThread 0) thr0.pc.toNat
        (encode (.syscall ⟨m0⟩)).length = .ok (encode (.syscall ⟨m0⟩)) := by
  unfold State.quiet State.NotYet State.AtThread; decide +kernel

theorem witness_StepRunsDecoded_sketch : easelW.quiet ∧ easelW.turns.head? = some (.easel 0) ∧ (easelW.queue 0).pkt = some Packet.start
    ∧ (easelW.queue 0).state = 3 ∧ Packet.start.commit = none
    ∧ (easelW.sketch? (easelW.partOfQueue 0) (easelW.queue 0).sketch).map (fun c => c.words[8 + Packet.start.pc]?)
        = some (some 0x16000001#32)
    ∧ encode (.sketchDone ⟨0, 0, 1⟩) = [0x16000001#32] := by
  unfold State.quiet State.NotYet; decide +kernel

theorem witness_StepWithoutATurn : (State.reset.agenda = [] ++ (0, .powerOn) :: []) ∧ 0 ≤ State.reset.ac
    ∧ State.quiet { State.reset with agenda := [] } ∧ ({ State.reset with agenda := [] } : State).turns = []
    ∧ ({ State.reset with agenda := [] } : State).module.on = true
    ∧ ({ State.reset with agenda := [], module := { Module.reset with on := false } } : State).module.on = false := by
  unfold State.quiet State.NotYet; decide +kernel

theorem witness_UndefinedOnTheOtherCore : (thrAt id).AtThread 0 thr0
    ∧ ((Instr.iadd ⟨m0, 1, .v 0, .v 1⟩).toRaw.map fun r => undefThread r.u r.op) = some true
    ∧ (stM eI).AtSplit 0 0 (grpM eI) (splM eI) ∧ ((Instr.syscall ⟨m0⟩).toRaw.map fun r => undefSimt r.u r.op) = some true :=
  ⟨atThr _, by decide +kernel, (issuesM _).1, by decide +kernel⟩

theorem witness_PrivilegedBelowTheirLevel : (thrAt (lv 1)).AtThread 0 (lv 1 thr0) ∧ (thrAt (lv 0)).AtThread 0 (lv 0 thr0)
    ∧ ((Instr.ecreate ⟨m0, 1, 2⟩).toRaw.map fun r => (undefThread r.u r.op, opLevel r.op)) = some (false, 1)
    ∧ ((Instr.corerst ⟨m0, 1, .g 2⟩).toRaw.map fun r => (undefThread r.u r.op, opLevel r.op)) = some (false, 2) :=
  ⟨atThr _, atThr _, by decide +kernel, by decide +kernel⟩

theorem witness_IssueBookkeeping : (stM eI).group? 0 = some (grpM eI) ∧ (grpM eI).split? 0 = some (splM eI)
    ∧ (grpM eI).stepOn = false ∧ (grpM eI).stepHeld = false ∧ (stM eI).ordinalOf (grpM eI) 0x10008#64 = none := by decide +kernel

/-- g1 holds the kernel's entry, which is a safe point. -/
def grpP : Group := { grpM eI with regs := { Regs.start with g := [(1, 0x10000#64), (2, 0x10002#64), (3, 0x10010#64)] } }
def stP : State :=
  ((stM eI).putGroup 0 grpP).modSimt fun x => { x with tasks :=
    [(0, ⟨0, 0, placeLaunch, placeTask, [⟨0, false, 0, 0, 0, 0⟩], none, 0, 1, true, none, 0, false⟩)] }
def rdP : Rd := stP.rdSplit grpP 0 (splM eI)

theorem witness_BranchesOnGroups : stP.Issues 0 0 grpP (splM eI) rdP
    ∧ (grpP.Passes (splM eI) (Spec.branch mB 2 false [] []) (splM eI).mask ∧ (0xFFFFFFFC#32).toNat % 4 = 0 ∧ (2#32).toNat % 4 ≠ 0
      ∧ grpP.Passes (splM eI) (Spec.branch mB 2 false (Opnd.q 7).uCodes []) (splM eI).mask
      ∧ rdP.uni (.q 7) ≠ 0#64 ∧ rdP.uni (.q 0) = 0#64
      ∧ grpP.Passes (splM eI) (Spec.branch mB 1 false [codeG 1] []) (splM eI).mask
      ∧ (rdP.g 1).toNat % 4 = 0 ∧ (stP.ordinalOf grpP (rdP.g 1)).isSome = true ∧ (rdP.g 2).toNat % 4 ≠ 0
      ∧ (rdP.g 3).toNat % 4 = 0 ∧ stP.ordinalOf grpP (rdP.g 3) = none
      ∧ grpP.Passes (splM eI) (Spec.branch ⟨true, false, true⟩ 2 true [] [codeG 63]) (splM eI).mask
      ∧ grpP.Passes (splM eI) (Spec.branch ⟨true, false, true⟩ 1 true [codeG 1] [codeG 63]) (splM eI).mask) := by
  refine ⟨⟨⟨rfl, rfl, rfl⟩, rfl⟩, ?_⟩; unfold Group.Passes; decide +kernel

theorem witness_BranchesOnControlCores : (thrAt id).AtThread 0 thr0
    ∧ (thr0.Passes (Spec.branch mB 2 false [] []) ∧ thr0.Passes (Spec.branch mB 2 false (Opnd.q 7).uCodes [])
      ∧ thr0.Passes (Spec.branch mB 1 false [codeG 1] []) ∧ ((thr0.rd 0).g 1).toNat % 4 = 0
      ∧ thr0.Passes (Spec.branch mB 2 true [] [codeG 63]) ∧ thr0.Passes (Spec.branch mB 1 true [codeG 1] [codeG 63])
      ∧ thr0.eid = 0 ∧ thr0.Passes (trapSpec ⟨mS, .lit32 7#32⟩)
      ∧ ((({ thr0 with g := [(1, 2#64)] } : Thread).rd 0).g 1).toNat % 4 ≠ 0) := by
  refine ⟨atThr _, ?_⟩; unfold Thread.Passes; decide +kernel

theorem witness_SplitControl : (stM eI).Issues 0 0 (grpM eI) (splM eI) (rdM eI)
    ∧ ((grpM eI).Passes (splM eI) (Spec.branch ⟨true, false, false⟩ 2 false [codeP 1] []) (splM eI).mask
      ∧ (grpM eI).Passes (splM eI) (Spec.branch mB 1 false [] []) (splM eI).mask
      ∧ (grpM eI).Passes (splM eI) (trapSpec ⟨mS, .lit32 7#32⟩) (splM eI).mask
      ∧ bitOf ((stM eI).policyOf ((stM eI).ctx (grpM eI).place.ctx).eid) 0 = false
      ∧ bitOf (({ stM eI with hub := { (stM eI).hub with enclaves := [(1, { placeEnclave with policy := 1 })] } } : State).policyOf 1) 0
          = true) := by
  refine ⟨issuesM _, ?_⟩; unfold Group.Passes; decide +kernel

theorem noPoints {s : State} {g : Group} {t : Task} (h : s.taskOf g = some t) (ht : t.spt = []) (a : W64) :
    s.ordinalOf g a = none := by
  unfold State.ordinalOf
  rw [h, Option.bind_some, ht]
  exact ite_self _

theorem witness_DivergenceRule : (stM eI).group? 0 = some (grpM eI) ∧ (grpM eI).split? 0 = some (splM eI)
    ∧ (grpM eI).freeIndex = some 1 ∧ 1#32 &&& (splM eI).mask ≠ 0#32 ∧ (splM eI).mask &&& ~~~1#32 ≠ 0#32
    ∧ 0x10020#64 ≠ 0x10008#64 ∧ ∀ a, (stM eI).ordinalOf (grpM eI) a = none :=
  ⟨(issuesM _).1.2.1, rfl, by decide +kernel, by decide +kernel, by decide +kernel, by decide +kernel,
    noPoints (t := ⟨0, 0, placeLaunch, placeTask, [], none, 0, 1, true, none, 0, false⟩) rfl rfl⟩

/-! A group with one active lane, records in its page, a tuple region, a shadowed range and a local store. -/

/-- MODE with guard p0 (lane 0 alone) and ETY S32. -/
abbrev eD : W32 := 0x00#32
def regsD (v : List (Nat × W32)) (g : List (Nat × W64)) : Regs := { Regs.start with v := v, g := g, p := [(0, 1#32)] }
def vD : List (Nat × W32) := [(64, 0x10100#32), (128, 0x10140#32), (320, 0x0F000000#32)]
def gD : List (Nat × W64) := [(1, 0x12000#64), (2, 0x12000#64), (4, 0x2_00000007#64), (6, 0x00080000#64), (8, 0x00080001#64)]
def grpD : Group := { grpM eD with regs := regsD vD gD }
def pageD (n : Nat) : Nat × Pot := (n, ⟨potOwned, 1, 0, 0, 0, n, 0⟩)
def poked : State :=
  let s := stM eD
  let s := (s.pokeNat 0x10100 8 0x10400).pokeNat 0x10108 4 32
  let s := ((s.pokeNat 0x10140 8 0x10400).pokeNat 0x10148 2 0x0103).pokeNat 0x1014C 4 16
  let s := (s.pokeNat 0x10180 4 8).pokeNat 0x10188 8 0x10100
  let s := (((((s.pokeNat 0x10200 4 256).pokeNat 0x10204 2 1).pokeNat 0x10208 8 0x10000).pokeNat 0x10210 8 0x10000).pokeNat 0x10218 4
    1).pokeNat 0x1021C 4 0x10008
  let s := (s.pokeNat 0x10230 1 1).pokeNat 0x10234 4 1
  (s.pokeNat 0x10300 8 0x10200).pokeNat 0x10318 4 1
def stD : State :=
  let s := poked.putGroup 0 grpD
  let s := s.modSimt fun x => { x with
    teams := [(0, ⟨0, 0, .resident, 0, 0, [0], 4096, [], [], [], 0⟩)]
    ctxs := [(0, { s.ctx 0 with ranges := [(0, placeRange), (1, { placeRange with base := 0x12000, limit := 0x13000, pbase := 0x12000, cls := 1 }),
      (2, { placeRange with base := 0x14000, limit := 0x15000, pbase := 0x14000, shbase := 0x16000, shen := true })] })] }
  let s := s.modStore fun x => { x with pot := [pageD 0x10, pageD 0x12, pageD 0x14, pageD 0x16] }
  s.modPart 0 fun p => { p with tupdies := 1, tupsz := 1 }
def rdD : Rd := stD.rdSplit grpD 0 (splM eD)
theorem issuesD : stD.Issues 0 0 grpD (splM eD) rdD := ⟨⟨rfl, rfl, rfl⟩, rfl⟩

abbrev a0 : Access := ⟨0, 4⟩
abbrev pg : Opnd := .lit32 0x10400#32

theorem witness_LoadsOnGroups : stD.Issues 0 0 grpD (splM eD) rdD
    ∧ (grpD.Passes (splM eD) (Spec.of m0 2 (rdD.vBad (a0.size == 6) 95 || rdD.addrBad pg) (rdD.modeCodes ++ pg.vCodes true)
        (loadRegs a0.size 95)) rdD.active
      ∧ grpD.Passes (splM eD) (Spec.of m0 2 false pg.uCodes [codeG 63]) (splM eD).mask
      ∧ grpD.Passes (splM eD) (specGath ⟨m0, 5, 8, .v 3⟩ false rdD) rdD.active
      ∧ grpD.Passes (splM eD) (Spec.of m0 2 (rdD.addrBad pg) (rdD.modeCodes ++ pg.vCodes true) []) rdD.active)
    ∧ (∃ acc, collect (fun l => stD.accAt 0 l (rdD.addr pg l).toNat (sizeBytes a0.size) 0 0 .read false true) rdD.lanes = .ok acc)
    ∧ (∃ e, collect (fun l => stD.accAt 0 l (rdD.addr (.lit32 0x11000#32) l).toNat (sizeBytes a0.size) 0 0 .read false true) rdD.lanes
        = .error e)
    ∧ (∃ e, stD.accAt 0 0 (rdD.addrU (.lit32 0x10402#32)).toNat (sizeBytes a0.size) 0 0 .read false true = .error e)
    ∧ (∃ acc, stD.accAt 0 0 (rdD.addrU pg).toNat (sizeBytes a0.size) 0 0 .read false true = .ok acc)
    ∧ (∃ acc, collect (fun l => stD.accAt 0 l (0x10401 + l) (sizeBytes (gathSize (modeEty rdD.mode))) 0 0 .read false false) rdD.lanes
        = .ok acc) :=
  ⟨issuesD, by unfold Group.Passes; decide +kernel, okOf (by decide +kernel), errOf (by decide +kernel), errOf (by decide +kernel),
    okOf (by decide +kernel), okOf (by decide +kernel)⟩

theorem witness_StoresOnGroups : stD.Issues 0 0 grpD (splM eD) rdD
    ∧ (grpD.Passes (splM eD) { Spec.of m0 2 (rdD.dataBad (a0.size == 6) (.v 9) || rdD.addrBad pg) (rdD.modeCodes
          ++ (pg.vCodes true ++ (Opnd.v 9).vCodes (a0.size == 6))) [] with rkind := 1 } rdD.active
      ∧ grpD.Passes (splM eD) { Spec.of m0 2 false (pg.uCodes ++ (Opnd.g 3).uCodes) [] with rkind := 1 } (splM eD).mask
      ∧ grpD.Passes (splM eD) (specGath ⟨m0, 5, 8, .v 3⟩ true rdD) rdD.active)
    ∧ (∃ acc, collect (fun l => stD.accAt 0 l (rdD.addr pg l).toNat (sizeBytes a0.size) 7 0 .write false true) rdD.lanes = .ok acc)
    ∧ (∃ e, collect (fun l => stD.accAt 0 l (rdD.addr (.lit32 0x11000#32) l).toNat (sizeBytes a0.size) 7 0 .write false true) rdD.lanes
        = .error e)
    ∧ (∃ acc, stD.accAt 0 0 (rdD.addrU pg).toNat (sizeBytes a0.size) 7 0 .write false true = .ok acc)
    ∧ (∃ acc, collect (fun l => stD.accAt 0 l (0x10401 + l) (sizeBytes (gathSize (modeEty rdD.mode))) 7 0 .write false false) rdD.lanes
        = .ok acc) :=
  ⟨issuesD, by unfold Group.Passes; decide +kernel, okOf (by decide +kernel), errOf (by decide +kernel), okOf (by decide +kernel),
    okOf (by decide +kernel)⟩

theorem witness_LocalStoreAccesses : stD.Issues 0 0 grpD (splM eD) rdD
    ∧ (grpD.Passes (splM eD) (Spec.of m0 1 (rdD.vBad (a0.size == 6) 95 || rdD.offBad .zero) (rdD.modeCodes
          ++ Opnd.zero.vCodes false) (loadRegs a0.size 95)) rdD.active
      ∧ grpD.Passes (splM eD) (Spec.of m0 1 (decide (rdD.vregs < 92 + 4) || rdD.offBad .zero) (rdD.modeCodes
          ++ Opnd.zero.vCodes false) [92, 92 + 1, 92 + 2, 92 + 3]) rdD.active
      ∧ grpD.Passes (splM eD) (Spec.of m0 1 (rdD.dataBad (a0.size == 6) (.v 1) || rdD.offBad .zero) (rdD.modeCodes
          ++ (Opnd.zero.vCodes false ++ (Opnd.v 1).vCodes (a0.size == 6))) []) rdD.active
      ∧ grpD.Passes (splM eD) (Spec.of m0 1 (decide (rdD.vregs < 92 + 4) || rdD.offBad .zero) (rdD.modeCodes
          ++ (Opnd.zero.vCodes false ++ [92, 92 + 1, 92 + 2, 92 + 3])) []) rdD.active)
    ∧ (∃ acc, collect (fun l => stD.localAt grpD l 4092 4 0) rdD.lanes = .ok acc)
    ∧ (∃ acc, collect (fun l => stD.localAt grpD l 4080 16 0) rdD.lanes = .ok acc)
    ∧ (∃ v, collect (fun l => stD.localAt grpD l 4096 4 0) rdD.lanes = .error ⟨10, v, some 0⟩)
    ∧ (∃ v, collect (fun l => stD.localAt grpD l 2 4 0) rdD.lanes = .error ⟨9, v, some 0⟩) :=
  ⟨issuesD, by unfold Group.Passes; decide +kernel, okOf (by decide +kernel), okOf (by decide +kernel), ⟨4096, by decide +kernel⟩,
    ⟨2, by decide +kernel⟩⟩

/-- A store, a load and an atomic in flight, each the only one of its group. -/
def acc0 : Acc := ⟨0, none, 0x10400, 0x10400, 4, 0, 0xDEADBEEF, 0⟩
def flS (k : FlightKind) : Flight := { Flight.access 0 k 1#32 1 [acc0] with id := 0 }
def grpS (k : FlightKind) : Group := { grpD with flights := [flS k], nextFlight := 1 }
def stS (k : FlightKind) : State := stD.putGroup 0 (grpS k)

theorem witness_StorePerformed : (stS .store).group? 0 = some (grpS .store) ∧ (grpS .store).flight? 0 = some (flS .store)
    ∧ (flS .store).kind = .store ∧ (grpS .store).heldFlight (flS .store) = false
    ∧ (∃ s', (stS .store).rowsPass ((stS .store).vfOfGroup (grpS .store)) (.storePerformed 0 0) (flS .store).acc = (s', false))
    ∧ (∀ v ∈ (stS .store).hub.vfs, v.2.dirty = false)
    ∧ (flS .store).acc = [acc0] ∧ acc0.team = none ∧ inKick acc0.pa = false ∧ acc0.tol = 0
    ∧ (splitPieces (flS .store).acc).2 = [] ∧ (splitPieces [acc0, { acc0 with va := 0x10404, pa := 0x10404 }]).2 ≠ [] :=
  ⟨by decide +kernel, by decide +kernel, rfl, by decide +kernel, passOf (by decide +kernel), by decide +kernel, rfl, rfl,
    by decide +kernel, rfl, by decide +kernel, by decide +kernel⟩

theorem witness_LoadReturns : (stS (.load 4)).group? 0 = some (grpS (.load 4)) ∧ (grpS (.load 4)).flight? 0 = some (flS (.load 4))
    ∧ (grpS (.load 4)).heldFlight (flS (.load 4)) = false
    ∧ (∀ a ∈ (flS (.load 4)).acc, a.team = none → (stS (.load 4)).rstatWaits a.pa = false)
    ∧ (∃ s', (stS (.load 4)).rowsPass ((stS (.load 4)).vfOfGroup (grpS (.load 4))) (.variableLatencyResult 0 0) (flS (.load 4)).acc
        = (s', false))
    ∧ (stS (.load 4)).store.latent = [] ∧ (flS (.load 4)).tag = none ∧ (∀ e ∈ (stS (.load 4)).store.pot, e.2.state ≠ potScrub) :=
  ⟨by decide +kernel, by decide +kernel, by decide +kernel, by decide +kernel, passOf (by decide +kernel), by decide +kernel, rfl,
    by decide +kernel⟩

abbrev at0 : AtomCtl := ⟨0, 0, 0, 0⟩
def thrG : State := thrAt id

theorem witness_MemoryAccessesOfThreads : thrG.AtThread 0 thr0
    ∧ (thr0.wait = none ∧ thrG.store.latent = [] ∧ thrG.store.poison = []
      ∧ (∀ e ∈ thrG.store.pot, e.2.state ≠ potScrub) ∧ (∀ v ∈ thrG.hub.vfs, v.2.dirty = false)
      ∧ thr0.Passes (Spec.of m0 2 false pg.uCodes [codeG 63])
      ∧ thr0.Passes { Spec.of m0 2 false (pg.uCodes ++ (Opnd.g 3).uCodes) [] with rkind := 1 }
      ∧ thr0.Passes { Spec.of mS 3 false (pg.uCodes ++ (Opnd.g 3).uCodes ++ [codeG 4]) [codeG 4] with needS := true, rkind := 2 }
      ∧ thr0.Passes { Spec.of mS 3 false (pg.uCodes ++ (Opnd.g 3).uCodes) [] with needS := true, rkind := 2 }
      ∧ thr0.Passes (Spec.of m0 1 false [] []))
    ∧ (∃ xl, thrG.threadXlat 0 ((thr0.rd 0).addrU pg).toNat 4 .read false = .ok xl
        ∧ (!xl.dev && !thrG.rstatWaits xl.pa && !(thrG.threadGate 0 xl).2) = true)
    ∧ (∃ xl, thrG.threadXlat 0 ((thr0.rd 0).addrU pg).toNat 4 .write false = .ok xl
        ∧ (!xl.dev && !(thrG.threadGate 0 xl).2) = true)
    ∧ (∃ xl, thrG.threadXlat 0 ((thr0.rd 0).addrU pg).toNat 8 .readWrite true = .ok xl
        ∧ ((atomNew 0 2 (thrG.peek xl.pa 8) 1 0).isSome && !(thrG.threadGate 0 xl).2) = true) :=
  ⟨⟨rfl, rfl⟩, by unfold Thread.Passes; decide +kernel, okWith (by decide +kernel), okWith (by decide +kernel),
    okWith (by decide +kernel)⟩

theorem witness_AtomicsOnGroups : stD.Issues 0 0 grpD (splM eD) rdD
    ∧ (grpD.Passes (splM eD) { Spec.of mS 3 (rdD.addrBad pg || atomDataBad rdD (atomBytes at0.type == 8) (.v 9)
        || rdD.vBad (atomBytes at0.type == 8) 95) (rdD.modeCodes ++ (pg.vCodes true
          ++ (Opnd.v 9).vCodes (atomBytes at0.type == 8) ++ codesV (atomBytes at0.type == 8) 95))
        (codesV (atomBytes at0.type == 8) 95) with needS := true, rkind := 2 } rdD.active
      ∧ grpD.Passes (splM eD) { Spec.of mS 3 (rdD.addrBad pg || atomDataBad rdD (atomBytes at0.type == 8) (.v 9))
        (rdD.modeCodes ++ (pg.vCodes true ++ (Opnd.v 9).vCodes (atomBytes at0.type == 8))) [] with
        needS := true, rkind := 2 } rdD.active
      ∧ grpD.Passes (splM eD) { Spec.of mS 3 false (pg.uCodes ++ (Opnd.g 3).uCodes ++ [codeG 4]) [codeG 4] with
        needS := true, rkind := 2 } (splM eD).mask
      ∧ grpD.Passes (splM eD) { Spec.of mS 3 false (pg.uCodes ++ (Opnd.g 3).uCodes) [] with needS := true, rkind := 2 } (splM eD).mask)
    ∧ (∃ acc, collect (fun l => stD.accAt 0 l (rdD.addr pg l).toNat 4 5 0 .readWrite true true) rdD.lanes = .ok acc
        ∧ (stD.poisonTrap acc).isNone = true)
    ∧ (∃ acc, stD.accAt 0 0 (rdD.addrU pg).toNat 8 5 0 .readWrite true true = .ok acc ∧ (stD.poisonTrap acc).isNone = true)
    ∧ (grpS (.atom 0 0 true)).flight? 0 = some (flS (.atom 0 0 true)) ∧ (grpS (.atom 0 0 true)).heldFlight (flS (.atom 0 0 true)) = false
    ∧ (∃ s', (stS (.atom 0 0 true)).rowsPass ((stS (.atom 0 0 true)).vfOfGroup (grpS (.atom 0 0 true))) (.atomicPerformed 0 0)
        (flS (.atom 0 0 true)).acc = (s', false)) :=
  ⟨issuesD, by unfold Group.Passes; decide +kernel, okWith (by decide +kernel), okWith (by decide +kernel), by decide +kernel,
    by decide +kernel, passOf (by decide +kernel)⟩

theorem witness_WaitsAndFences : stD.Issues 0 0 grpD (splM eD) rdD
    ∧ (grpD.Passes (splM eD) (Spec.of m0 1 false [] []) (splM eD).mask ∧ grpD.ntFlights = []
      ∧ (({ grpD with flights := [{ flS .store with nt := true }] } : Group).ntFlights ≠ [])
      ∧ grpD.Passes (splM eD) (Spec.of m0 1 false Opnd.zero.uCodes []) (splM eD).mask
      ∧ grpD.pathCount 1 ≤ (rdD.uni .zero).toNat ∧ (rdD.uni .zero).toNat < (grpS .store).pathCount 1
      ∧ grpD.Passes (splM eD) { Spec.of mS 3 false (pg.uCodes ++ Opnd.one.uCodes) [] with needS := true, rkind := 0 } (splM eD).mask
      ∧ (rdD.uni .zero).toNat ≤ stD.peek 0x10400 8 ∧ stD.peek 0x10400 8 < (rdD.uni .one).toNat)
    ∧ (∃ acc, stD.accAt 0 0 (rdD.addrU pg).toNat 8 0 0 .read true true = .ok acc
        ∧ ((stD.poisonTrap acc).isNone && acc.head?.isSome) = true) :=
  ⟨issuesD, by unfold Group.Passes; decide +kernel, okWith (by decide +kernel)⟩

theorem witness_BarrierInstructions : stD.Issues 0 0 grpD (splM eD) rdD
    ∧ (grpD.Passes (splM eD) { Spec.of mS 1 false [] [codeG 3] with needS := true } rdD.mask
      ∧ grpD.Passes (splM eD) { Spec.of mS 1 false [] [] with needS := true } rdD.mask
      ∧ grpD.Passes (splM eD) { Spec.of mS 1 false Opnd.zero.uCodes [] with needS := true } rdD.mask
      ∧ (stD.barrierOf grpD 96).isSome = true ∧ stD.barrierOf grpD 0 = none
      ∧ (Barrier.mk 0 [] []).arrive 0 = some (⟨0, [0], []⟩, 0) ∧ (Barrier.mk 0 [0] []).arrive 0 = some (⟨0, [0], [0]⟩, 1)
      ∧ (Barrier.mk 0 [0] [0]).arrive 0 = none ∧ (Barrier.mk 0 [] []).completed 0 = false
      ∧ (Barrier.mk 0 [] []).completed (2 ^ 32 - 1) = true) :=
  ⟨issuesD, by unfold Group.Passes; decide +kernel⟩

theorem witness_MatrixInstructions : stD.Issues 0 0 grpD (splM eD) rdD
    ∧ (grpD.Passes (splM eD) { Spec.of mS 2 (decide (rdD.vregs ≤ 20) || rdD.vBad true 2 || rdD.vBad true 2 || matModeBad rdD)
        (rdD.modeCodes ++ 20 :: (codesV true 2 ++ codesV true 2)) [] with needS := true } rdD.active
      ∧ grpD.Passes (splM eD) { Spec.of mS 3 (matModeBad rdD) (Opnd.zero.uCodes ++ (Opnd.lit32 0x10100#32).uCodes
        ++ (Opnd.lit32 0x10180#32).uCodes) [] with needS := true } rdD.mask
      ∧ grpD.Passes (splM eD) (Spec.of m0 1 false (Opnd.zero.uCodes ++ Opnd.one.uCodes) []) rdD.mask
      ∧ grpD.Passes (splM eD) { Spec.of mS 1 false [] [codeG 10] with needS := true } rdD.mask ∧ grpD.mat.batches.length < 8
      ∧ grpD.Passes (splM eD) { Spec.of mS 1 false Opnd.zero.uCodes [] with needS := true } rdD.mask
      ∧ batchAhead grpD.mat 0 = false ∧ batchAhead grpD.mat 1 = true ∧ grpD.mat.doneUpTo 0 = true ∧ grpD.mat.reportFor 0 = none
      ∧ batchAhead { MatState.start with newest := 1, batches := [(1, [0])] } 1 = false
      ∧ ({ MatState.start with newest := 1, batches := [(1, [0])] } : MatState).doneUpTo 1 = false)
    ∧ (∃ k, stD.checkOffer grpD (stD.offerOf 0 0 grpD rdD ⟨8, 0, 1, false, false, false, 0, false, false, false⟩ false
        [(0, 0#64, 0x10100#64, 0x10100#64)]) = .ok k ∧ (!decide (k.units = []) && stD.hasRoom k) = true)
    ∧ (∃ e, stD.checkOffer grpD (stD.offerOf 0 0 grpD rdD ⟨8, 0, 1, false, false, false, 0, false, false, false⟩ false
        [(0, 0x40000#64, 0x10100#64, 0x10100#64)]) = .error e)
    ∧ (∃ k, stD.checkOffer grpD (stD.offerOf 0 0 grpD rdD ⟨0, 0, 1, false, false, false, 0, false, false, false⟩ true
        [(0, 0#64, 0x10100#64, 0x10180#64)]) = .ok k ∧ (!decide (k.units = []) && stD.hasRoom k) = true) :=
  ⟨issuesD, by unfold Group.Passes; decide +kernel, okWith (by decide +kernel), errOf (by decide +kernel), okWith (by decide +kernel)⟩

theorem witness_AccumulatorWords : stD.Issues 0 0 grpD (splM eD) rdD
    ∧ (grpD.Passes (splM eD) (Spec.of m0 1 (decide (rdD.vregs ≤ 95) || rdD.vecBad false .zero)
        (rdD.modeCodes ++ Opnd.zero.vCodes false) [95]) rdD.active
      ∧ grpD.Passes (splM eD) (Spec.of m0 1 (rdD.vecBad false .zero || rdD.vecBad false (.v 1))
        (rdD.modeCodes ++ (Opnd.zero.vCodes false ++ (Opnd.v 1).vCodes false)) []) rdD.active
      ∧ stD.accRows grpD = 32 ∧ stD.acWords grpD rdD .zero rdD.lanes = .ok [(0, 0)] ∧ Tbl.get? grpD.accPoison 0 = none
      ∧ stD.accRows grpD ≤ fieldOf (rdD.vec false (.lit32 32#32) 0).toNat 0 16
      ∧ 127 < fieldOf (rdD.vec false (.lit32 0x7F0000#32) 1).toNat 16 16 + 1
      ∧ grpD.Passes (splM eD) (Spec.of m0 1 false ((Opnd.g 6).uCodes ++ (Opnd.g 8).uCodes) []) rdD.mask
      ∧ tileSizeBad 0 = true ∧ tileSizeBad 0x80001 = false ∧ fieldOf 0x40000 16 16 % 8 ≠ 0 ∧ fieldOf 0x80000 16 16 % 8 = 0
      ∧ fieldOf 0x80000 0 16 + fieldOf 0x80001 0 16 ≤ stD.accRows grpD ∧ fieldOf 0x80000 16 16 + fieldOf 0x80001 16 16 ≤ 128
      ∧ fieldOf 0x80001 33 31 = 0 ∧ fieldOf 0x80000 32 32 % 16 = 0
      ∧ fieldOf 0x80000 32 32 + 4 * fieldOf 0x80001 16 16 * fieldOf 0x80001 0 16 ≤ stD.localLen grpD) :=
  ⟨issuesD, by unfold Group.Passes; decide +kernel⟩

/-- Count banks of INT4-free kind 1 in every position of 32 rows by 8 columns, in row order. -/
def bankAcc : Table W32 := (List.range 256).map fun k => (16 * k + 15, 0x00020000#32)
def stC : State := stD.modSimt fun x => { x with accs := [(0, bankAcc)] }
def slot1 : LiveSlot := ⟨0, 0, 0, 8, false, 0, 0, 0, 0#32, [], [], []⟩
def stC1 : State := stC.putSlot (grpD.slotKey 0) (some slot1)
/-- MODE with FA = FB = E2M1 for CBDRAINW. -/
def rdC : Rd := { rdD with mode := 0x88000#32 }

theorem witness_CountBankInstructions : stC.Issues 0 0 grpD (splM eD) (stC.rdSplit grpD 0 (splM eD))
    ∧ (grpD.Passes (splM eD) { Spec.of mS 1 false [] [] with needS := true } rdD.mask ∧ stC.matrixBusy 0 = false
      ∧ stC.slotTaken 0 (grpD.slotKey 0) = false ∧ (stC1.slot? (grpD.slotKey 0)).isSome = true ∧ stC.slot? (grpD.slotKey 0) = none
      ∧ stC1.slot? (grpD.slotKey 0) = some slot1 ∧ fieldOf 0 0 16 + 4 * slot1.n ≤ stC1.accRows grpD
      ∧ grpD.Passes (splM eD) { Spec.of mS 1 false (Opnd.zero.uCodes ++ [codeG 10, codeG 11]) [] with needS := true } rdD.mask
      ∧ grpD.Passes (splM eD) { Spec.of mS 1 false ((Opnd.g 6).uCodes ++ (Opnd.g 8).uCodes) [] with needS := true } rdD.mask
      ∧ windowOf 0x08000000 false = some ⟨0, 8, 0, 0⟩ ∧ windowOf 0x1_08000000 true = some ⟨1, 8, 0, 0⟩
      ∧ drainwFmtBad rdC.mode = false ∧ 0 + ceilDiv (1 * 8) 8 ≤ stC.accRows grpD) :=
  ⟨⟨⟨rfl, rfl, rfl⟩, rfl⟩, by unfold Group.Passes; decide +kernel⟩

theorem witness_CountBankInstructions_banks :
    (∀ q ∈ positions 32 8, (stC.bankState 0 0 8 q.1 q.2).2.1 = 1 ∧ (stC.bankState 0 0 8 q.1 q.2).1 = false)
    ∧ ∀ q ∈ positions 1 8, (stC.bankState 0 (fieldOf 0x10000_00000001 0 16) 8 q.1 q.2).2.1
        = (stC.bankState 0 0 8 q.1 q.2).2.1 := by decide +kernel

theorem witness_CopiesPublishesSpawnsAndSpecialRegisters : stD.Issues 0 0 grpD (splM eD) rdD ∧ rdD.lanes = [0]
    ∧ (grpD.Passes (splM eD) { Spec.of mS 2 (rdD.vBad true 4 || rdD.vBad ((0 : Nat) == 2) 20 || decide (rdD.vregs < 10 + 5))
        (rdD.modeCodes ++ (codesV true 4 ++ codesV ((0 : Nat) == 2) 20 ++ [10, 10 + 1, 10 + 2, 10 + 3, 10 + 4]
          ++ [] ++ [])) [] with needS := true, rkind := 0 } (laneBit 0)
      ∧ grpD.Passes (splM eD) { Spec.of mS 2 (rdD.addrBad (.lit32 0x14000#32)) (rdD.modeCodes
          ++ (Opnd.lit32 0x14000#32).vCodes true) [] with needS := true, rkind := 1 } (laneBit 0)
      ∧ grpD.Passes (splM eD) { Spec.of mS 3 false (Opnd.lit32 0x10300#32).uCodes [codeQ 1] with needS := true, rkind := 0 } (splM eD).mask
      ∧ 0 < (stD.queue 0).spawnCount ∧ stD.spawnFull 0 0 (((stD.taskOf grpD).map Task.tree).getD 0) = false
      ∧ grpD.Passes (splM eD) (Spec.of m0 1 (!decide (0x10 < 0x40)) [] [codeG 5]) (splM eD).mask
      ∧ grpD.Passes (splM eD) (Spec.of m0 1 (!decide (0x14 = 0x14)) Opnd.zero.uCodes []) (splM eD).mask)
    ∧ (∃ c, stD.copyOf 0 grpD (splM eD) rdD ⟨mS, 20, 4, 10, ⟨0, 0, 0, false, 0, false, 0, false, true, 0⟩⟩ 0 = .ok c)
    ∧ (∃ i, stD.publishRange 0 (rdD.addr (.lit32 0x14000#32) 0).toNat = .ok i)
    ∧ (∃ r, stD.readTask 0 (rdD.uni (.lit32 0x10300#32)).toNat = .ok r ∧ r.isSome = true)
    ∧ ((thrAt id).AtThread 0 thr0 ∧ sprLevel 0x42 ≤ thr0.lvl ∧ (lv 0 thr0).lvl < sprLevel 0x42
      ∧ thr0.Passes (Spec.of m0 1 (!sprThread 0x42) [] [codeG 5])
      ∧ thr0.Passes (Spec.of m0 1 (!(sprThread 0x42 && sprWritable 0x42)) Opnd.zero.uCodes [])) :=
  ⟨issuesD, by decide +kernel, by unfold Group.Passes; decide +kernel, okOf (by decide +kernel), okOf (by decide +kernel),
    okWith (by decide +kernel), by unfold State.AtThread Thread.Passes; decide +kernel⟩

/-- A thread of enclave 1. -/
def inE (t : Thread) : Thread := { t with eid := 1, lvl := 0, g := [(1, 0x12000#64), (4, 0x1_00000007#64), (5, 9#64)] }
def tup0 : TupCtl := ⟨1, 0, 0, 0, 6, 1, true⟩

theorem witness_TupleInstructions : stD.Issues 0 0 grpD (splM eD) rdD
    ∧ (grpD.Passes (splM eD) (tupSpec 0 mS 20 tup0.st (tupSrcs ⟨mS, 20, 4, 1, tup0⟩)) (splM eD).mask
      ∧ grpD.Passes (splM eD) (tupSpec 3 mS 20 1 [codeG 1]) (splM eD).mask)
    ∧ (∃ r, tupRequest 0 ⟨mS, 20, 4, 1, tup0⟩ rdD (stD.regionSimt 0 (rdD.g 1).toNat (0 != 1)) (.split 0 0) stD = .ok r)
    ∧ (∃ r, tupRequest 1 ⟨mS, 20, 4, 1, { tup0 with nb := false }⟩ rdD (stD.regionSimt 0 (rdD.g 1).toNat (1 != 1)) (.split 0 0) stD
        = .ok r)
    ∧ (∃ r, cancelRequest ⟨mS, 20, 1, tup0⟩ (stD.regionSimt 0 (rdD.g 1).toNat false) (.split 0 0) stD = .ok r)
    ∧ (State.AtThread ({ stD.putThread 0 (inE thr0) with turns := [.thread 0] }) 0 (inE thr0)
      ∧ (inE thr0).Passes (tupSpec 0 mS 20 tup0.st (tupSrcs ⟨mS, 20, 4, 1, tup0⟩)))
    ∧ (∃ r, tupRequest 0 ⟨mS, 20, 4, 1, tup0⟩ ((inE thr0).rd 0)
        ((stD.putThread 0 (inE thr0)).regionThread 0 (((inE thr0).rd 0).g 1).toNat (0 != 1)) (.thread 0) (stD.putThread 0 (inE thr0))
          = .ok r) :=
  ⟨issuesD, by unfold Group.Passes; decide +kernel, okOf (by decide +kernel), okOf (by decide +kernel), okOf (by decide +kernel),
    ⟨⟨rfl, rfl⟩, by unfold Thread.Passes; decide +kernel⟩, okOf (by decide +kernel)⟩

theorem witness_TrapEntry : (thrAt (lv 1)).thread 0 = lv 1 thr0 ∧ (lv 1 thr0).eid = 0 ∧ (lv 1 thr0).lvl < 2 ∧ (lv 1 thr0).lvl < 4
    ∧ (thrAt id).thread 0 = thr0 ∧ thr0.lvl = 2 ∧ thr0.eid = 0 := by decide +kernel

/-- A kernel thread that a trap of user level entered, and a hypervisor thread that one of kernel level did. -/
def ret1 (t : Thread) : Thread := { t with lvl := 1, k := { TrapRegs.reset with stat := 2#32, epc := 0x10000#64 } }
def ret2 (t : Thread) : Thread := { t with lvl := 2, h := { TrapRegs.reset with stat := 6#32, epc := 0x10000#64 } }

theorem witness_CallsReturnsAndWaits : (thrAt ret1).AtThread 0 (ret1 thr0) ∧ (thrAt ret2).AtThread 0 (ret2 thr0)
    ∧ (thrAt (lv 0)).AtThread 0 (lv 0 thr0)
    ∧ ((ret1 thr0).Passes (Spec.of m0 1 false [] []) ∧ (ret2 thr0).Passes (Spec.of m0 1 false [] [])
      ∧ (lv 0 thr0).Passes (Spec.of m0 1 false [] []) ∧ (lv 0 thr0).lvl = 0
      ∧ (ret1 thr0).lvl = 1 ∧ fieldOf (ret1 thr0).k.stat.toNat 2 2 = 0 ∧ (ret2 thr0).lvl = 2 ∧ fieldOf (ret2 thr0).h.stat.toNat 2 2 < 2
      ∧ 1 ≤ fieldOf ({ (ret1 thr0).k with stat := 4#32 } : TrapRegs).stat.toNat 2 2
      ∧ 2 ≤ fieldOf ({ (ret2 thr0).h with stat := 8#32 } : TrapRegs).stat.toNat 2 2
      ∧ (thrAt ret2).interruptPending 0 = false
      ∧ (({ thrAt ret2 with hub := { (thrAt ret2).hub with ppend := [5] } } : State).interruptPending 0) = true
      ∧ (ret1 thr0).Passes (Spec.of m0 2 false pg.uCodes [])) := by
  refine ⟨atThr _, atThr _, atThr _, ?_⟩; unfold Thread.Passes; decide +kernel

/-! A hypervisor thread of partition 0 with operands in g1 to g9, records at 0x30000, and an enclave with a thread page. -/
def gH : List (Nat × W64) := [(1, 1#64), (2, 0#64), (3, 0x30000#64), (4, 0x40000#64), (5, 0x50000#64), (6, 0x10000#64), (7, 0x70000#64),
  (10, 1#64), (11, 0x60000#64)]
def withG (t : Thread) : Thread := { t with g := gH }
def leaf0 (sealed : Bool) : EncLeaf := ⟨0x61, true, true, false, sealed, 3, 0⟩
def encH : Enclave := { placeEnclave with tcps := [0x20000], map := [(0x60, leaf0 false), (0x62, leaf0 true)] }
def stH : State :=
  let s := (thrAt withG).modHub fun h => { h with enclaves := [(1, encH)] }
  s.modStore fun x => { x with pot := [(0x20, ⟨potOwned, 1, 0, 0, 0, 0, 0⟩), (0x61, ⟨potOwned, 1, 0, 0, 0, 0x60, 0⟩)] }
def rdH : Rd := (withG thr0).rd 0
/-- An image of the sealed page at 0x62 of enclave 1, which the module keeps, at 0x30000. -/
def imgHead : List Byte := leBytes 4 0x4B535047 ++ leBytes 2 1 ++ leBytes 2 0 ++ leBytes 8 0x62 ++ leBytes 8 3
def img0 : List Byte := imgHead ++ List.replicate 4136 0#8
def stU : State := (stH.poke 0x30000 imgHead).modHub fun h => { h with pages := [(0, ⟨1, 0x62, 3, [], img0⟩)] }

theorem witness_EnclaveInstructions : stH.AtThread 0 (withG thr0)
    ∧ (1 ≤ (withG thr0).lvl ∧ (withG thr0).Passes (Spec.of m0 1 false [codeG 3] [codeG 9])
      ∧ (withG thr0).Passes (Spec.of m0 1 false [codeG 1, codeG 2] [codeG 9]) ∧ (withG thr0).eid = 0
      ∧ Tbl.get? stH.hub.enclaves (rdH.g 1).toNat = some encH ∧ encH.part = stH.partOfThread 0 ∧ (rdH.g 2).toNat < encH.threads
      ∧ stH.tcpAt (rdH.g 1).toNat (rdH.g 2).toNat = some 0x20000 ∧ stH.peek 0x20000 4 = 0 ∧ (stH.pokeNat 0x20000 4 1).peek 0x20000 4 = 1
      ∧ Tbl.get? stH.hub.enclaves (rdH.g 5).toNat = none
      ∧ (inE thr0).Passes (Spec.of m0 1 false [] []) ∧ (inE thr0).eid ≠ 0
      ∧ (stH.hub.threads.any (fun y => y.2.running && y.2.eid == 1) || encH.queues.any stH.ctxHolds) = false
      ∧ ((stH.putThread 1 { inE thr0 with running := true }).hub.threads.any fun y => y.2.running && y.2.eid == 1) = true)
    ∧ (∃ d, stH.record 0 (rdH.g 3).toNat 256 = .ok d ∧ (stH.createEnclave 0 d).toBool = false) :=
  ⟨⟨rfl, rfl⟩, by unfold Thread.Passes; decide +kernel, by
    obtain ⟨d, h, k⟩ := okWith (x := stH.record 0 (rdH.g 3).toNat 256) (p := fun d => !(stH.createEnclave 0 d).toBool) (by decide +kernel)
    exact ⟨d, h, by simpa using k⟩⟩

theorem witness_PageOwnership : stH.AtThread 0 (withG thr0) ∧ stU.AtThread 0 (withG thr0)
    ∧ ((withG thr0).Passes (Spec.of m0 2 false ([codeG 4, codeG 1] ++ [codeG 5]) [codeG 9])
      ∧ (rdH.g 4).toNat % 4096 = 0 ∧ (rdH.g 1).toNat = 1 ∧ inKick (rdH.g 4).toNat = false ∧ stH.inPartMem 0 (rdH.g 4).toNat = true
      ∧ (rdH.g 5).toNat % 4096 = 0 ∧ canonical (rdH.g 5).toNat = true ∧ Tbl.get? stH.hub.enclaves 1 = some encH
      ∧ encH.part = stH.partOfThread 0 ∧ (stH.potOf 0x40).state = potHost ∧ Tbl.get? encH.map (vpnOf 0x50000) = none
      ∧ stH.poolFull 0 (stH.poolTaken 0 0x40 encH (vpnOf 0x50000)) = false
      ∧ (withG thr0).Passes (Spec.of m0 2 false ([codeG 4, codeG 2] ++ []) [codeG 9]) ∧ rdH.g 2 = 0#64
      ∧ (stH.potOf 0x61).state = potOwned ∧ ((stH.putPot 0x40 ⟨potShared, 1, 0, 0, 0, 0, 0⟩).potOf 0x40).state = potShared)
    ∧ ((withG thr0).Passes (Spec.of m0 1 (!pairOk 10) [codeG 10, codeG (10 + 1), codeG 3] [codeG 9])
      ∧ (rdH.g 10).toNat = 1 ∧ canonical (rdH.g 11).toNat = true ∧ (rdH.g 11).toNat % 4096 = 0 ∧ vpnOf (rdH.g 11).toNat = 0x60
      ∧ Tbl.get? encH.map 0x60 = some (leaf0 false) ∧ (leaf0 false).sealed = false ∧ (stH.potOf (leaf0 false).ppn).state = potOwned
      ∧ fieldOf (leaf0 false).attr 3 3 = 0 ∧ (leaf0 false).version ≠ 0xFFFFFFFF ∧ stH.readBad (4096 * (leaf0 false).ppn) 4096 = none)
    ∧ ((withG thr0).Passes (Spec.of m0 1 false [codeG 3, codeG 7] [codeG 9]) ∧ (rdH.g 7).toNat % 4096 = 0
      ∧ stU.inPartMem 0 (rdH.g 7).toNat = true ∧ Tbl.get? encH.map 0x62 = some (leaf0 true) ∧ (leaf0 true).sealed = true
      ∧ (stU.potOf ((rdH.g 7).toNat / 4096)).state = potHost)
    ∧ (∃ buf, stH.buffer 0 .write 0x30000 4160 = .ok buf)
    ∧ (∃ img, stU.record 0 0x30000 4160 = .ok img ∧ (fieldAt img 0 4 == 0x4B535047 && fieldAt img 4 2 == 1 && fieldAt img 8 8 == 0x62
        && fieldAt img 16 8 == (leaf0 true).version && ((stU.hub.pages.map Prod.snd).find? fun p => p.eid == 1 && p.va == 0x62
          && p.version == 3 && p.sealed == img).isSome) = true)
    ∧ (∃ img, (stU.pokeNat 0x30010 8 4).record 0 0x30000 4160 = .ok img ∧ (fieldAt img 16 8 != (leaf0 true).version) = true) :=
  ⟨⟨rfl, rfl⟩, ⟨rfl, rfl⟩, by unfold Thread.Passes; decide +kernel, by unfold Thread.Passes; decide +kernel,
    by unfold Thread.Passes; decide +kernel, okOf (by decide +kernel), okWith (by decide +kernel), okWith (by decide +kernel)⟩

theorem witness_HandoverInstructions : stH.AtThread 0 (withG thr0)
    ∧ (1 ≤ (withG thr0).lvl ∧ 2 ≤ (withG thr0).lvl ∧ (withG thr0).Passes (Spec.of m0 1 false [codeG 1] [codeG 9])
      ∧ selectorBad (rdH.g 1).toNat = false ∧ stH.selected 0 (rdH.g 1).toNat = some 0 ∧ (stH.ctx 0).frozen = false ∧ (stH.ctx 0).state = 1
      ∧ (∀ n ∈ [2, 3, 4], ((stH.modCtx 0 fun c => { c with state := n }).ctx 0).state = n)
      ∧ ((stH.modCtx 0 fun c => { c with frozen := true }).ctx 0).frozen = true
      ∧ (withG thr0).Passes (Spec.of m0 1 (!pairOk 10 || !pairOk 4) [codeG 1, codeG 4, codeG (4 + 1)] [codeG 10])
      ∧ (withG thr0).Passes (Spec.of m0 1 false [codeG 1, codeG 2] [codeG 9]) ∧ rdH.g 2 = 0#64
      ∧ (withG thr0).Passes (Spec.of m0 1 false (codeG 1 :: (Opnd.q 7).uCodes) [codeG 9])
      ∧ bitOf (stH.policyOf (stH.ctx 0).eid) 0 = false ∧ (rdH.uni (.q 7)).toNat = 1 ∧ (rdH.uni .zero).toNat = 0
      ∧ (withG thr0).Passes (Spec.of m0 1 false (Opnd.g 2).uCodes [codeG 9]) ∧ (rdH.uni (.g 2)).toNat ≤ 1407
      ∧ stH.mustWait 0 0 (stH.ticket 0) = false ∧ (stH.unqueue 0).ctx 0 = stH.ctx 0 ∧ stH.sealBusy 0 = false ∧ (withG thr0).sealing = none ∧ stH.recordsHold 0 = true
      ∧ (withG thr0).resets = none ∧ stH.simt.coreReset.contains 0 = false ∧ (stH.part (stH.die 0).part).gated = false
      ∧ (stH.die 0).retired.contains 0 = false)
    ∧ (∃ buf, stH.buffer 0 .write 0x40000 0x1000 = .ok buf)
    ∧ (∃ h, stH.record 0 0x30000 512 = .ok h ∧ (fieldAt h 0 4 != 0x4B534349) = true)
    ∧ (∃ h, (((stH.pokeNat 0x30000 4 0x4B534349).pokeNat 0x30004 2 1).pokeNat 0x30006 2 1).record 0 0x30000 512 = .ok h
        ∧ (fieldAt h 0 4 == 0x4B534349 && fieldAt h 4 2 == 1 && (stH.loadTarget 0 none h).toBool
          && (stH.checkLoad 0 0x30000 0 none h).toBool) = true) :=
  ⟨⟨rfl, rfl⟩, by unfold Thread.Passes; decide +kernel, okOf (by decide +kernel), okWith (by decide +kernel), okWith (by decide +kernel)⟩

/-- Partition 0 QUIESCED and without an enclave; the images that leave it as it is at 0x30000 (ILV) and 0x40000 (BND). -/
def stQ : State :=
  let s := ((stH.modHub fun h => { h with enclaves := [] }).modPart 0 fun p => { p with state := 2 })
  let s := (List.range 8).foldl (fun s d => s.pokeNat (0x30008 + 16 * d) 8 0xFF_00000001) s
  (List.range 8).foldl (fun s d => s.pokeNat (0x40000 + 8 * d) 8 0x1FFFF00) s

theorem witness_PartitionControl : stH.AtThread 0 (withG thr0) ∧ stQ.AtThread 0 (withG thr0)
    ∧ ((withG thr0).lvl = 2 ∧ partsOf (rdH.g 1).toNat = [0] ∧ stH.partMaskBad (rdH.g 1).toNat = false ∧ stH.partMaskBad 0 = true
      ∧ stH.partMaskBad 2 = true
      ∧ (withG thr0).Passes (Spec.of m0 2 (!pairOk 10) ([codeG 1] ++ []) [codeG 10, codeG (10 + 1)])
      ∧ (withG thr0).Passes (Spec.of m0 2 (!pairOk 10) ([codeG 1] ++ [codeG 3]) [codeG 10, codeG (10 + 1)])
      ∧ stH.quiesced [0] = false ∧ stQ.quiesced [0] = true ∧ stQ.anyGated [0] = false
      ∧ ([0].any (fun p => (stH.part p).state == 0) || stH.anyGated [0]) = true
      ∧ ([0].any (fun p => (stQ.part p).state == 0) || stQ.anyGated [0]) = false
      ∧ (stH.hub.queues.any fun q => [0].contains (stH.partOfQueue q.1) && stH.inFlight q.1) = false
      ∧ [0].any stQ.holdsEnclave = false)
    ∧ (∃ b, stQ.record 0 0x30000 128 = .ok b ∧ (!stQ.ilvBad (stQ.diesOfParts [0]) b) = true)
    ∧ (∃ b, stQ.record 0 0x31000 128 = .ok b ∧ stQ.ilvBad (stQ.diesOfParts [0]) b = true)
    ∧ (∃ b, stQ.record 0 0x40000 64 = .ok b ∧ (!stQ.bndBad [0] (stQ.diesOfParts [0]) (fun d => fieldAt b (8 * d) 8)
        && !stQ.bndLive [0] (stQ.diesOfParts [0]) (fun d => fieldAt b (8 * d) 8)) = true)
    ∧ (∃ b, stQ.record 0 0x31000 64 = .ok b ∧ stQ.bndBad [0] (stQ.diesOfParts [0]) (fun d => fieldAt b (8 * d) 8) = true) :=
  ⟨⟨rfl, rfl⟩, ⟨rfl, rfl⟩, by unfold Thread.Passes; decide +kernel, okWith (by decide +kernel), okWith (by decide +kernel),
    okWith (by decide +kernel), okWith (by decide +kernel)⟩

/-! A packet in progress with one index kicked, its ring at 0x10000 (mapped, OWNED, its page marked RING). -/
def pktK (loops : List (Nat × Nat)) (staged : List Staged) : Packet := { Packet.start with loops := loops, staged := staged }
def stK (k : Packet) : State :=
  let s := easelW.modStore fun x => { x with pot := [(0x10, ⟨potOwned, 1, 0, 0x10, 0, 0x10, 0⟩)] }
  s.modHub fun h => { h with queues :=
    [(0, { Queue.reset with eid := 1, sketch := 2, enable := true, ring := 0x10000, log2 := 1, tail := 1, state := 3, pkt := some k })] }

theorem witness_SketchOperations : (∀ k ∈ [pktK [] [], pktK [(1, 2)] [], pktK [(1, 1)] [], pktK [] (List.replicate 8 (.irq 0))],
      (stK k).AtPacket 0 ((stK k).queue 0) k)
    ∧ ((stK (pktK [] [])).queue 0).kicked = 1 ∧ ((stK (pktK [] [])).ringWord 0 ((stK (pktK [] [])).queue 0) 0 0).isSome = true
    ∧ (stK (pktK [] [])).ringWord 0 { (stK (pktK [] [])).queue 0 with ring := 0x40000 } 0 0 = none
    ∧ (stK (pktK [] [])).frontCounter 0 0x10100 = some 0x10100 ∧ (stK (pktK [] [])).frontCounter 0 4 = none
    ∧ 0 ≤ (stK (pktK [] [])).peek 0x10100 8 ∧ (stK (pktK [] [])).peek 0x10100 8 < 1
    ∧ ((stK (pktK [] [])).readTask 0 0x10000).toBool = false
    ∧ ((stK (pktK [] [])).queue 0).kicked < 2 ∧ 1 ≤ ((stK (pktK [] [])).queue 0).kicked := by
  unfold State.AtPacket; decide +kernel

/-- The placed group with its scheduler free; its split not ready, and a second split at the same address. -/
def unready (m : W32) (n : Nat) : Split := { splM eI with mask := m, ready := false, readyAt := n }
def stN : State := (stM eI).modSimt fun x => { x with scheds := [] }
def stE : State := (stM eI).putGroup 0 { grpM eI with splits := [(0, { splM eI with mask := 1#32 }), (1, unready 2#32 0)] }
def spawn0 : SpawnTry := ⟨0, 1, placeTask, placeLaunch, []⟩
def stB : State := (stM eI).modHub fun h => { h with enclaves := [(1, { placeEnclave with policy := 1 })] }

theorem witness_TaskAndGroupEvents :
    ((Tbl.get? stN.simt.scheds 0).bind Sched.cur = none ∧ (stN.chosen 0).isSome = true
      ∧ ((Tbl.get? (stM eI).simt.scheds 0).bind Sched.cur).isSome = true)
    ∧ ((stE.group? 0).bind (·.split? 1) = some (unready 2#32 0) ∧ (unready 2#32 0).readyAt ≤ stE.ac
      ∧ ((unready 2#32 0).wpend && (grpM eI).pendingAny) = false ∧ (unready 2#32 0).held = false ∧ (splM eI).held = false
      ∧ (splM eI).ready = true ∧ (splM eI).pc = (unready 2#32 0).pc ∧ grpF.pendingAny = true ∧ stE.ac < (unready 2#32 1).readyAt)
    ∧ (∃ g : Group, ((stM eI).putGroup 0 g).group? 0 = some g ∧ g.exited = false ∧ g.live = 0#32 ∧ g.pathCount 7 = 0)
    ∧ (∃ t, Tbl.get? (stM eI).simt.teams 0 = some t ∧ t.state = .resident
      ∧ ((stM eI).putGroup 0 { grpM eI with exited := true }).teamDone 0 t = true)
    ∧ (∃ t, Tbl.get? (stM eI).simt.tasks 0 = some t ∧ (stM eI).taskDone 0 t = false
      ∧ (Tbl.get? (stM eI).simt.trees t.tree).isSome = true
      ∧ (((stM eI).modSimt fun x => { x with teams := [(0, ⟨0, 0, .freed, 0, 0, [], 0, [], [], [], 0⟩)], groups := [] }).taskDone 0 t) = true)
    ∧ (((grpM eI).putSplit 0 { splM eI with park := some (.spawnFull 0 spawn0 mS 3) }).split? 0
        = some { splM eI with park := some (.spawnFull 0 spawn0 mS 3) }
      ∧ (stM eI).spawnFull 0 0 0 = false)
    ∧ ((stM eI).waitingTeams 0 = [])
    ∧ ((stM eI).fbEntry? 0 0 = none
      ∧ (((stM eI).modSimt fun x => { x with fb := [(0, [(0, ⟨0x10000, 0, 0, 1, 0, 0, 0, 0, none, some 0⟩)])] }).fbEntry? 0 0)
          = some ⟨0x10000, 0, 0, 1, 0, 0, 0, 0, none, some 0⟩)
    ∧ ((stM eI).debugRefused 0 = some 2 ∧ stB.debugRefused 0 = none ∧ stB.group? 0 = some (grpM eI)) := by
  refine ⟨by decide +kernel, by decide +kernel, ⟨{ grpM eI with splits := [] }, by decide +kernel⟩, ⟨_, rfl, by decide +kernel⟩,
    ⟨_, rfl, by decide +kernel⟩, by decide +kernel, by decide +kernel, by decide +kernel, by decide +kernel⟩

/-- The barrier CTX-level code 96 names, with the only member's arrival counted; a deferred arrival; a PUBLISH. -/
def key96 : Nat := (stD.barrierOf grpD 96).getD 0
def def0 : Deferred := ⟨0, key96, 96, 1, [], 0⟩
def pub0 (r a : Bool) : Publish := ⟨0, 0, 0, 2, 0, [], [], 0, r, a, 0, 0, 0⟩
def stY : State := (stD.putBar key96 ⟨0, [0], []⟩).modSimt fun x => { x with deferred := [(0, def0)], publishes := [(0, pub0 false false)] }

theorem witness_SyncEvents : (Barrier.mk 7 [] []).arrive 3 = some (⟨7, [3], []⟩, 7) ∧ (Barrier.mk (2 ^ 32 - 1) [3] []).arrive 3
      = some (⟨2 ^ 32 - 1, [3], [3]⟩, 0) ∧ (Barrier.mk 0 [] []).phase < 2 ^ 32 ∧ 1 ≤ 2 ^ 31
    ∧ stD.phaseDone key96 = false ∧ stY.phaseDone key96 = true
    ∧ (Tbl.get? stY.simt.deferred 0 = some def0 ∧ def0.copies.any stY.copyHolds = false
      ∧ ((stY.group? def0.gid).any fun g => (g.flight? def0.flight).any g.heldFlight) = false)
    ∧ (Tbl.get? stY.simt.publishes 0 = some (pub0 false false) ∧ stY.shadowCopies 0 2 false = []
      ∧ (stY.simt.publishes.any fun o => o.2.ctx == 0 && o.2.range == 2 && decide (o.1 < 0)) = false
      ∧ (stY.reachTable 0 (pub0 false false)).behindPublish 0 (pub0 true false) = false
      ∧ (stY.reachTable 0 (pub0 false false)).publishAwaits (pub0 true false) = false ∧ (pub0 true true).atPoint = true)
    ∧ (({ grpM eI with splits := [(0, { splM eI with park := some (.woken m0 3) })] } : Group).split? 0).map Split.park
        = some (some (.woken m0 3))
    ∧ (Tbl.get? ({ stD.store with syncLines := [(9, 0)] } : MemSide).syncLines 9 = some 0 ∧ 0 + 4096 ≤ 4096 ∧ 4095 < 0 + 4096) := by
  decide +kernel

/-- A copy of 16 elements that has begun, one whose source is read, one that has landed. -/
def copy0 (src land : Bool) : Copy :=
  { gid := 0, ctx := 0, team := 0, core := 0, ctl := ⟨0, 0, 0, false, 0, false, 0, false, false, 0⟩, glob := layoutOf 0, dst := layoutOf 0,
    starts := [0, 0, 0, 0, 0], exts := [16, 1, 1, 1, 1], localOff := 0, srcctr := none, pubctr := none, flight := 0, ord := 0, off := 0,
    unitAt := if src then 1 else 0, units := 1, stopped := false, srcDone := src, landed := land, published := false, toPublish := [], old := [],
    srcVa := 0, pubVa := 0, stale := false, cause := none }
def stCp (c : Copy) : State := stD.modSimt fun x => { x with copies := [(0, c)] }
def opZ : MatOp :=
  { id := 0, gid := 0, sp := 0, sched := 0, kind := .zero 0 1, ctl := ⟨0, 0, 0, false, false, false, 0, false, false, false⟩, mode := eD,
    metaOff := 0, sideOff := 0, accepted := true, offer := [], grouped := false, before := 0, clobber := [], ord := 0, off := 0,
    unitsDone := 0, passesDone := 0, taint := 0, report := 0 }
def stOp : State := stD.modSimt fun x => { x with ops := [opZ] }
def req0 (kind : Nat) (nb parked : Bool) : TupReq :=
  { who := .split 0 0, flight := 0, kind := kind, part := 0, region := 0x12000, base := 0x12000, room := 64, slice := 0, tag := 7, fields := [], modes := [],
    his := [], nb := nb, d := 20, st := 1, parked := parked, parkedAt := 0, slices := [], count := 0, due := 0, answer := none }
def stT (r : TupReq) (ts : List Tup) : State :=
  stD.modStore fun x => { x with reqs := [(0, r)], tuples := if ts.isEmpty then [] else [(0x12000, ts)] }

theorem witness_EngineEvents :
    (Tbl.get? (stCp (copy0 false false)).simt.copies 0 = some (copy0 false false)
      ∧ ((stCp (copy0 false false)).copyWaits 0 (copy0 false false) || ((stCp (copy0 false false)).ctx 0).frozen
        || (stCp (copy0 false false)).engineBusy (copy0 false false)) = false ∧ ((stCp (copy0 false false)).ctx 0).halt = none
      ∧ (copy0 true false).units ≤ (copy0 true false).unitAt ∧ (copy0 true true).toPublish = [])
    ∧ (stD.engineOps 0 = [] ∧ stOp.engineOps 0 = [opZ] ∧ stOp.opWaits opZ = false ∧ opZ.unitNow = none)
    ∧ (∃ u, stOp.rowsPass (((stOp.group? 0).map stOp.vfOfGroup).getD 256) (.matrixPass 0) [] = (u, false))
    ∧ (∃ g : Group, (stD.putGroup 0 g).group? 0 = some g ∧ g.splits = [] ∧ g.mat.batches.length ≤ 8)
    ∧ (Tbl.get? (stT (req0 0 false false) []).store.reqs 0 = some (req0 0 false false)
      ∧ (stT (req0 0 false false) []).reqWaits 0 (req0 0 false false) 0 = false
      ∧ (stT (req0 0 false false) []).parkedFor (req0 0 false false) 2 = [] ∧ (stT (req0 0 false false) []).parkedFor (req0 0 false false) 1 = []
      ∧ (stT (req0 0 false false) []).depositRoom (req0 0 false false) = some false)
    ∧ ((stT (req0 1 true false) []).oldestMatch (req0 1 true false) = none
      ∧ (stT (req0 2 true false) [⟨0, 0, false, 7, []⟩]).oldestMatch (req0 2 true false) = some ⟨0, 0, false, 7, []⟩
      ∧ (req0 3 false false).slices = [] ∧ (req0 2 false true).parked = true) := by
  refine ⟨by decide +kernel, by decide +kernel, passOf (by decide +kernel), ⟨{ grpD with splits := [] }, by decide +kernel⟩,
    by decide +kernel, by decide +kernel⟩

/-- A sketch image of one DONE at 0x30000. -/
def stSk : State :=
  let s := (((stH.pokeNat 0x30000 4 0x4B534B45).pokeNat 0x30004 2 1).pokeNat 0x30006 2 1).pokeNat 0x30008 4 5
  ((s.pokeNat 0x3000C 4 16).pokeNat 0x30020 4 0x16000001).modPart 0 fun p => { p with skbuf := 0x30000 }
def qk (st : Nat) (en : Bool) : Queue := { Queue.reset with eid := 1, sketch := 1, state := st, enable := en, log2 := 4, ring := 0x10000 }
def stKq (x : Queue) : State := (stM eI).putQueue 0 x

theorem witness_QueueAndContextEvents :
    ((stKq (qk 1 true)).queue 0 = qk 1 true ∧ ((stKq (qk 1 true)).vfOfQueue 0).filter (fun f => f.2.state == 2) = none
      ∧ (16 % 2 ^ 32 + 2 ^ 32 - (qk 1 true).tail) % 2 ^ 32 + (qk 1 true).kicked ≤ 2 ^ (qk 1 true).log2
      ∧ 2 ^ (qk 1 true).log2 < (17 % 2 ^ 32 + 2 ^ 32 - (qk 1 true).tail) % 2 ^ 32 + (qk 1 true).kicked
      ∧ ((stKq (qk 1 true)).part ((stKq (qk 1 true)).partOfQueue 0)).refusing = false
      ∧ (qk 1 true).pkt = none ∧ (qk 1 true).head ≠ 16 % 2 ^ 32)
    ∧ ((qk 0 false).enable = false ∧ bitOf 1 0 = true ∧ 1 ≤ (qk 0 false).log2 ∧ (qk 0 false).log2 ≤ 16 ∧ (qk 0 false).ring % 4096 = 0
      ∧ (qk 5 true).state = 5 ∧ bitOf 0x10000 16 = true)
    ∧ ((stKq (qk 1 true)).readyQueues 0 = [] ∧ firstQueue ((stKq (qk 2 true)).readyQueues 0) = some (0, qk 2 true)
      ∧ ((stKq (qk 2 true)).hub.queues.filter fun y => dieOfQueue y.1 == 0 && y.2.state == 3).length < 64
      ∧ ((stKq (qk 2 true)).sketch? ((stKq (qk 2 true)).partOfQueue 0) (qk 2 true).sketch).isSome = true
      ∧ (stKq (qk 2 true)).sketch? 0 9 = none)
    ∧ ((stM eI).treeEntries 0 < 4096 ∧ (stM eI).taskEntries 0 < 16384)
    ∧ (((stM eI).ctx 0).halt = none ∧ ((stM eI).ctx 0).state = 1 ∧ ((stM eI).ctx 0).eid ≠ 0 ∧ ((stM eI).ctx 0).vacBusy = false
      ∧ ((stM eI).claimCores 0 1).isSome = true)
    ∧ (rcmdBad 0xFFFFFFFF = true ∧ rcmdBad 5 = false ∧ (stM eI).publishing 0 5 = false
      ∧ (stM eI).rangeResult 0 5 (List.replicate 32 0#8) ≠ 0)
    ∧ (5 % 4 = 1 ∧ stSk.inHostPages 0 (stSk.part 0).skbuf 32 = true ∧ skHeaderBad (stSk.bytes (stSk.part 0).skbuf 32) = false
      ∧ skWordsFail (bytesWords 1 (stSk.bytes ((stSk.part 0).skbuf + 32) 4)) = none ∧ stSk.sketch? 0 5 = none ∧ stSk.storeFull 0 1 = false
      ∧ skWordsFail [0x19000000#32] ≠ none)
    ∧ (∃ e, Tbl.get? (stM eI).store.pot 0x10 = some e ∧ e.state ≠ potScrub)
    ∧ (((stM eI).putPot 0x10 ⟨potScrub, 1, potOwned, 0, 0, 0, 0⟩).potOf 0x10).state = potScrub := by
  refine ⟨by decide +kernel, by decide +kernel, by decide +kernel, by decide +kernel, by decide +kernel, by decide +kernel,
    by decide +kernel, ⟨_, rfl, by decide +kernel⟩, by decide +kernel⟩

/-- A physical and a virtual interrupt pending at thread 0, interrupts enabled; a vector of each mode. -/
def stI : State := (thrAt (lv 1)).modHub fun h => { h with ppend := [5], threads :=
  [(0, { lv 1 thr0 with k := { TrapRegs.reset with stat := 1#32 }, h := { TrapRegs.reset with stat := 1#32 } })] }
def vec0 (m : Nat) : Vec := { gvec := 3, dest := 0, mask := false, mode := m, pend := true }
def vf0 (n : Nat) : Vf := { Vf.reset with state := n, enable := n != 0, qcount := 1, vbase := 0, vcount := 8 }

theorem witness_ThreadAndFunctionEvents :
    ((stI.interruptible 0 && stI.interruptOf 0 == some 5) = true ∧ (stI.thread 0).eid = 0
      ∧ ((thrAt id).interruptible 0 && (thrAt id).interruptOf 0 == some 5) = false ∧ stI.interruptPending 0 = true)
    ∧ ((thrAt id).thread 1).running = false ∧ ((thrAt id).thread 0).running = true
    ∧ ((thr.putVec 7 (vec0 1)).vec 7 = vec0 1 ∧ (((thr.putVec 7 (vec0 1)).putVf 0 (vf0 1)).vfOfVector 7).isSome = true)
    ∧ (((thr.putVf 0 (vf0 0)).vf 0).enable = false ∧ ((thr.putVf 0 (vf0 1)).vf 0).state = 1 ∧ ((thr.putVf 0 (vf0 2)).vf 0).state = 2
      ∧ thr.enableBad 0 (vf0 0) = false ∧ thr.enableBad 0 { vf0 0 with target := 3 } = true)
    ∧ ((∃ r, (thr.putVf 0 (vf0 1)).vfqQueue (vf0 1) 0 1 = .error r) ∨ (∃ q, (thr.putVf 0 (vf0 1)).vfqQueue (vf0 1) 0 1 = .ok q))
    ∧ ((thr.part 0).dies ≠ 0 ∧ (thr.part 5).dies = 0 ∧ (stQ.part 0).state = 2) := by
  refine ⟨by decide +kernel, by decide +kernel, by decide +kernel, by decide +kernel, by decide +kernel, ?_, by decide +kernel⟩
  cases (thr.putVf 0 (vf0 1)).vfqQueue (vf0 1) 0 1 with
  | error r => exact .inl ⟨r, rfl⟩
  | ok q => exact .inr ⟨q, rfl⟩

theorem witness_ModuleEvents :
    (State.reset.module.stage = 0 ∧ State.reset.module.code = 0 ∧ State.reset.module.supply = true
      ∧ (State.reset.hub.rot.bootAll [2, 3, 4, 5]).2 = 0 ∧ State.reset.module.trained = true ∧ State.reset.module.linked = true
      ∧ State.reset.module.layout = none ∧ thr.module.stage ≠ 0)
    ∧ ((thr.part 0).dies ≠ 0 ∧ (thr.part 0).gated = false ∧ (thr.part 0).state ≠ 2 ∧ stQ.holdsTeam 0 = false ∧ (stQ.part 0).gated = false
      ∧ fieldOf 0x01010100 24 8 &&& (stQ.part 0).dies = fieldOf 0x01010100 24 8 ∧ fieldOf 0x01010100 8 5 = (stQ.part 0).ptpool)
    ∧ (pairBits 0 3 = 0 ∧ 0 < 3 ∧ pairBits 1 0 ≠ 0 ∧ Tbl.get? Stack.reset.shaking 0 = none
      ∧ Tbl.get? ({ Stack.reset with shaking := [(0, 0)], lendHeld := [(0, .rowGrant 0)] } : Stack).shaking 0 = some 0
      ∧ Tbl.get? ({ Stack.reset with aar := true, stamps := [(2, 0)] } : Stack).stamps (17 / 8) = some 0)
    ∧ ((thr.die 0).bound = true ∧ (thr.queue 0).eid ≠ 0 ∧ (thr.ctx 0).state = 1 ∧ (thr.ctx 0).halt = none)
    ∧ ((thr.hub.rot.image 2).fuse ≤ 0 ∧ (thr.hub.rot.image 2).staged = none) := by
  refine ⟨by decide +kernel, ?_⟩
  decide +kernel

theorem witness_RegisterTraceAndTrustEvents : inKick 0x30000 = false ∧ inHub 0x30000 = false ∧ (thr.part 0).dies ≠ 0
    ∧ ((stM eI).turns.head? = some (.split 0 0) ∧ undefSimt (bitOf 0x1E7C3870 28) (fieldOf 0x1E7C3870 21 7) = true
      ∧ (thrAt id).turns.head? = some (.thread 0) ∧ undefThread (bitOf 0x0000407C 28) (fieldOf 0x0000407C 21 7) = true)
    ∧ ((thr.queue 5).eid = 0 ∧ (thr.queue 0).eid ≠ 0 ∧ (thr.traceQ 0).trace = false ∧ bitOf 1 0 = true
      ∧ thr.bufferGood 0 (thr.traceQ 0).trbuf (thr.traceQ 0).trsize = false)
    ∧ ((thr.linkDir 0).next = false) ∧ (thr.modRot fun r => { r with idHash := [0#8] }).rotUp = true ∧ State.reset.rotUp = false ∧ 15 % 16 = 15
    ∧ (({ Rot.reset with negotiated := true } : Rot).freeSession = some 1)
    ∧ ((thr.modRot fun r => { r with sessions := [(1, ⟨0, true, 0, 0⟩)] }).session? 1 = some ⟨0, true, 0, 0⟩ ∧ thr.session? 1 = none)
    ∧ ((thr.tdi 0).state = 0) ∧ thr.module.on = true := by decide +kernel

theorem witness_ResetMemory : State.reset.memCanonical := by unfold State.memCanonical; decide +kernel

theorem witness_EndStatesFrame : (stM eI).group? 0 = some (grpM eI)
    ∧ (((stM eI).vecDone 0 0 m0 1 1#32 true (RegWrites.gOne 1 5#64)).group? 0).isSome = true ∧ (1 : Nat) ≠ 0 := by decide +kernel

/-! ### Witnesses for the clauses that those above leave out -/

/-- A descriptor at 0x30000 that ECREATE accepts (ch18, Tables 1 and 2): one thread, a page of code at 0x80000 and a thread
control page without a mapping, its sketch the one loaded. -/
def stCr : State :=
  let s := ((((stH.pokeNat 0x30000 2 1).pokeNat 0x30004 4 2).pokeNat 0x30008 8 0x31000).pokeNat 0x30018 8 0x80000).pokeNat 0x30024 4 2
  let s := (((s.pokeNat 0x31000 8 0x80000).pokeNat 0x31008 8 0x90005).pokeNat 0x31018 8 0x91008)
  s.modHub fun h => { h with sketches := [(2, ⟨List.replicate 32 0#8, []⟩)] }

theorem witness_EnclaveInstructions_created : stCr.AtThread 0 (withG thr0)
    ∧ ∃ d, stCr.record 0 (rdH.g 3).toNat 256 = .ok d
      ∧ ((stCr.createEnclave 0 d).toBool && (stCr.createBad 0 d).isNone) = true :=
  ⟨⟨rfl, rfl⟩, okWith (by decide +kernel)⟩

theorem witness_EnclaveInstructions_refused : stH.readBad 0x20000 0x248 = none
    ∧ Tbl.get? ({ stH with hub := { stH.hub with enclaves := [(1, { encH with part := 1 })] } } : State).hub.enclaves 1
        = some { encH with part := 1 }
    ∧ ({ encH with part := 1 } : Enclave).part ≠ stH.partOfThread 0 ∧ encH.threads ≤ 1
    ∧ (withG thr0).Passes (Spec.of m0 1 false [] []) ∧ (lv 1 (withG thr0)).eid = 0 ∧ 1 ≤ (lv 1 (withG thr0)).lvl := by
  unfold Thread.Passes; decide +kernel

/-- The thread in a CTXSEAL of context 0; that context in another state; a copy of its record that differs from its team's. -/
def sealT (due : Option Nat) : Thread := { withG thr0 with sealing := some (0, [], due) }
def stSeal (due : Option Nat) (n : Nat) : State := (stH.putThread 0 (sealT due)).modCtx 0 fun c => { c with state := n }
def stRec (due : Option Nat) : State := (stSeal due 2).modSimt fun x => { x with
  tasks := [(0, ⟨0, 0, placeLaunch, placeTask, [], none, 0, 1, true, none, 0, false⟩)]
  teams := [(0, ⟨0, 0, .swapped, 0, 0, [], 0, [0], [1#8], [], 0⟩)] }
/-- Another thread whose CTXABORT of context 0 arrived earlier, and the thread itself behind it. -/
def stBehind : State := ((stH.putThread 1 { withG thr0 with queued := some (0, 3) }).putThread 0 { withG thr0 with queued := some (0, 4) })
def gR : List (Nat × W64) := [(2, 0x10000#64)]
def stCore (due : Option (Nat × Nat)) : State := (stH.putThread 0 { withG thr0 with g := gR, resets := due }).modSimt fun x => { x with
  coreReset := [0] }

theorem witness_HandoverInstructions_sealing :
    (∀ d ∈ [none, some 0, some 5], ∀ n ∈ [1, 2, 4], (stSeal d n).AtThread 0 (sealT d) ∧ ((stSeal d n).ctx 0).state = n)
    ∧ (stSeal (some 5) 2).ac < 5 ∧ 0 ≤ (stSeal (some 0) 2).ac ∧ (stSeal (some 0) 2).recordsHold 0 = true
    ∧ (stRec (some 0)).AtThread 0 (sealT (some 0)) ∧ (stRec (some 0)).recordsHold 0 = false
    ∧ stBehind.mustWait 0 0 (stBehind.ticket 0) = true ∧ stBehind.mustWait 1 0 (stBehind.ticket 1) = false
    ∧ ((stBehind.unqueue 1).thread 1).queued = none
    ∧ (∀ d ∈ [none, some (0, 0), some (0, 5)], (stCore d).AtThread 0 ({ withG thr0 with g := gR, resets := d } : Thread)
      ∧ (stCore d).simt.coreReset.contains 0 = true)
    ∧ ({ withG thr0 with g := gR } : Thread).Passes (Spec.of m0 1 false (Opnd.g 2).uCodes [codeG 9])
    ∧ bitOf ((({ withG thr0 with g := gR } : Thread).rd 0).uni (.g 2)).toNat 16 = true
    ∧ bitOf (({ stH with hub := { stH.hub with enclaves := [(1, { placeEnclave with policy := 1 })] } } : State).policyOf 1) 0 = true := by
  unfold State.AtThread Thread.Passes; decide +kernel

theorem witness_HandoverInstructions_load :
    (∃ h, (((stH.pokeNat 0x30000 4 0x4B534349).pokeNat 0x30004 2 1).pokeNat 0x30006 2 7).record 0 0x30000 512 = .ok h
        ∧ (fieldAt h 0 4 == 0x4B534349 && fieldAt h 4 2 == 1 && !(stH.loadTarget 0 none h).toBool) = true)
    ∧ ((stH.unqueue 0).part ((stH.unqueue 0).partOfQueue 0)).state = 0 ∧ (stH.part (stH.partOfQueue 0)).refusing = false
    ∧ (stH.ctx 0).state ≠ 4 ∧ ((stH.modCtx 0 fun c => { c with frozen := true }).ctx 0).frozen = true
    ∧ ((stH.modCtx 0 fun c => { c with state := 4 }).ctx 0).state = 4 :=
  ⟨okWith (by decide +kernel), by decide +kernel⟩

theorem witness_PartitionControl_busy : stBehind.partMaskBad 1 = false
    ∧ ([0].any fun p => ((stQ.modPart 0 fun p => { p with gated := true }).part p).gated) = true
    ∧ (stH.hub.queues.any fun q => [0].contains (stH.partOfQueue q.1)
        && (stH.putQueue 0 { stH.queue 0 with state := 3, pkt := some Packet.start }).inFlight q.1) = true := by
  decide +kernel

/-! Loads, atomics and waits: no error and no poison in memory, and a poisoned line. -/
def stPoison : State := (stS (.atom 0 0 true)).modStore fun x => { x with poison := [(0x10400 / 64, 0)] }

theorem witness_LoadReturns_quiet : (stS (.load 4)).simt.localErrs = [] ∧ thrG.metaEntry 0x10400 = none
    ∧ (stS (.load 4)).store.poison = [] ∧ (∀ a ∈ (flS (.atom 0 0 true)).acc, a.team = none)
    ∧ (∃ e, stPoison.poisonTrap (flS (.atom 0 0 true)).acc = some e)
    ∧ (∃ s', stPoison.rowsPass (stPoison.vfOfGroup (grpS (.atom 0 0 true))) (.atomicPerformed 0 0) (flS (.atom 0 0 true)).acc = (s', false))
    ∧ stPoison.store.latent = [] ∧ (∀ e ∈ stPoison.store.pot, e.2.state ≠ potScrub)
    ∧ (flS (.atom 0 0 false)).kind = .atom 0 0 false ∧ (grpS (.atom 0 0 false)).heldFlight (flS (.atom 0 0 false)) = false :=
  ⟨by decide +kernel, by decide +kernel, by decide +kernel, by decide +kernel, Option.isSome_iff_exists.mp (by decide +kernel),
    passOf (by decide +kernel), by decide +kernel, by decide +kernel, rfl, by decide +kernel⟩

theorem witness_WaitsAndFences_counter : stD.Issues 0 0 grpD (splM eD) rdD
    ∧ (∃ acc, stD.accAt 0 0 (rdD.addrU pg).toNat 8 0 0 .readWrite true true = .ok acc ∧ (match acc with
        | a :: r => (stD.poisonTrap (a :: r)).isNone && decide ((rdD.uni .zero).toNat ≤ stD.peek a.pa 8)
            && decide (stD.peek a.pa 8 < (rdD.uni .one).toNat) && decide ((stD.readAfter 0 grpD.nextFlight (splM eD).mask (a :: r)).group? 0
              = some grpD) && (stD.readAfter 0 grpD.nextFlight (splM eD).mask (a :: r)).ctxRuns 0
        | [] => false) = true)
    ∧ stD.store.latent = [] ∧ (∀ e ∈ stD.store.pot, e.2.state ≠ potScrub)
    ∧ (∃ xl, thrG.threadXlat 0 ((thr0.rd 0).addrU pg).toNat 8 .readWrite true = .ok xl ∧ (!(thrG.threadGate 0 xl).2
        && decide (((thr0.rd 0).uni .zero).toNat ≤ thrG.peek xl.pa 8)) = true) :=
  ⟨issuesD, okWith (by decide +kernel), by decide +kernel, by decide +kernel, okWith (by decide +kernel)⟩

/-! Branches: a split at whose target no safe point lies, in a kernel that has one elsewhere. -/
theorem witness_BranchesOnGroups_targets :
    (grpP.Passes (splM eI) (Spec.branch ⟨true, false, true⟩ 1 true [codeG 2] [codeG 63]) (splM eI).mask ∧ (rdP.g 2).toNat % 4 ≠ 0
      ∧ grpP.Passes (splM eI) (Spec.branch ⟨true, false, true⟩ 1 true [codeG 3] [codeG 63]) (splM eI).mask
      ∧ (rdP.g 3).toNat % 4 = 0 ∧ stP.ordinalOf grpP (rdP.g 3) = none
      ∧ grpP.Passes (splM eI) (Spec.branch ⟨true, false, true⟩ 2 true [] [codeG 63]) (splM eI).mask ∧ (2#32).toNat % 4 ≠ 0
      ∧ (rdP.uni (.q 7) ≠ 0#64 ↔ true = true) ∧ (rdP.uni (.q 0) ≠ 0#64 ↔ false = true))
    ∧ stP.group? 0 = some grpP ∧ grpP.split? 0 = some (splM eI) ∧ grpP.freeIndex = some 1
    ∧ stP.ordinalOf grpP 0x10020#64 = none ∧ stP.ordinalOf grpP 0x10008#64 = none ∧ (stP.ordinalOf grpP 0x10000#64).isSome = true
    ∧ ((thr0.rd 0).uni (.q 7) ≠ 0#64) ∧ (2#32).toNat % 4 ≠ 0
    ∧ thr0.Passes (Spec.branch mB 2 true [] [codeG 63]) := by
  unfold Group.Passes Thread.Passes; decide +kernel

theorem witness_ModeCodes :
    ((grpM eI).Passes (splM eI) (Spec.of m0 1 (etyBad true (modeEty (rdM eI).mode))
        ((rdM eI).modeCode :: ((Opnd.g 1).uCodes ++ (Opnd.g 63).uCodes ++ [codeG 5])) [codeG 5]) (splM eI).mask
      ∧ (grpM eI).Passes (splM eI) (Spec.of m0 1 (etyBad true (modeEty (rdM eI).mode)) ((rdM eI).modeCode :: Opnd.one.uCodes)
        [codeG 5]) (splM eI).mask
      ∧ (grpM eI).Passes (splM eI) (Spec.of m0 1 (icmpBad (modeEty (rdM eI).mode)) ((rdM eI).modeCode :: ((Opnd.g 1).uCodes
        ++ (Opnd.q 7).uCodes)) [codeQ 6]) (splM eI).mask
      ∧ (grpM eI).Passes (splM eI) (Spec.of m0 1 false [(rdM eI).modeCode] [codeG 63]) (splM eI).mask
      ∧ (grpM eI).Passes (splM eI) (Spec.of m0 2 false ((rdM eI).modeCode :: (Opnd.lit32 8#32).uCodes) []) (splM eI).mask
      ∧ grpD.Passes (splM eD) { Spec.of mS 1 false [rdD.modeCode] [] with needS := true } rdD.mask
      ∧ grpD.Passes (splM eD) { Spec.of mS 1 false (rdD.modeCode :: (Opnd.zero.uCodes ++ [codeG 10, codeG 11])) [] with
        needS := true } rdD.mask
      ∧ grpD.Passes (splM eD) { Spec.of mS 3 (matModeBad rdD) (rdD.modeCode :: (Opnd.zero.uCodes ++ (Opnd.lit32 0x10100#32).uCodes
        ++ (Opnd.lit32 0x10180#32).uCodes)) [] with needS := true } rdD.mask)
    ∧ (({ thr0 with mode := eI } : Thread).Passes (Spec.of m0 1 (etyBad true (modeEty eI)) ((({ thr0 with mode := eI } : Thread).rd 0).modeCode
          :: ((Opnd.g 1).uCodes ++ (Opnd.g 63).uCodes ++ [codeG 5])) [codeG 5])
      ∧ ({ thr0 with mode := eI } : Thread).Passes (Spec.of m0 1 (icmpBad (modeEty eI)) ((({ thr0 with mode := eI } : Thread).rd 0).modeCode
          :: ((Opnd.g 1).uCodes ++ (Opnd.q 7).uCodes)) [codeQ 6])
      ∧ thr0.Passes (Spec.of m0 1 false [(thr0.rd 0).modeCode] [codeG 63])
      ∧ thr0.Passes (Spec.of m0 2 false ((thr0.rd 0).modeCode :: (Opnd.lit32 8#32).uCodes) [])
      ∧ 2 ^ (modefField 0).2 ≤ ((thr0.rd 0).uni (.lit32 16#32)).toNat) := by
  unfold Group.Passes Thread.Passes; decide +kernel

/-- A word of the accumulator with the cause of a failed operation (0x12), and one whose error is its own (0x13). -/
def grpA : Group := { grpD with accPoison := [(0, 0x12), (1, 0x13)] }
theorem witness_AccumulatorWords_faults :
    errsAt grpD.accErrs [0, 0] = [] ∧ Tbl.fget 0 grpA.accPoison 1 = 0x13
    ∧ Tbl.fget 0 grpA.accPoison 0 ≠ 0 ∧ Tbl.fget 0 grpA.accPoison 0 ≠ 0x13
    ∧ tileSizeBad 0x80021 = false ∧ stD.accRows grpD < fieldOf 0x80000 0 16 + fieldOf 0x80021 0 16
    ∧ fieldOf 0x2_00080001 33 31 ≠ 0 ∧ fieldOf 0x8_00080000 32 32 % 16 ≠ 0 ∧ fieldOf 0x10000 16 16 % 8 ≠ 0
    ∧ fieldOf 0x10000 32 32 % 16 = 0 ∧ stD.localLen grpD < fieldOf 0x1000_00080000 32 32 + 4 * fieldOf 0x80001 16 16 * fieldOf 0x80001 0 16
    ∧ grpD.accErrs = [] ∧ (∀ y ∈ stC1.simt.slots, y.2.owner = 0 → y.2.errs = []) ∧ 0 + 1 ≤ stC.accRows grpD := by decide +kernel

/-- A task of one team that waits, its partition's cores all retired but core 0; that core, in service or being reset. -/
def task0 : Task := ⟨0, 0, placeLaunch, placeTask, [], none, 0, 0, true, none, 0, false⟩
def stWait (reset : List Nat) : State :=
  let s := (stM eI).modSimt fun x => { x with tasks := [(0, task0)], teams := [], groups := [], coreReset := reset }
  { s with dies := [(0, { s.die 0 with retired := (List.range 176).tail })] }
def wait0 : Waiting := ⟨0, 0, none⟩

theorem wait_list : (stWait []).waitingTeams 0 = [(wait0, task0)] ∧ (stWait []).coresOf 0 = [0]
    ∧ (stWait []).coreAllowed 0 wait0 task0 = true ∧ ∀ b < 4, (stWait []).fitsAt 0 b [] placeLaunch [] = true := by
  decide +kernel

theorem wait_room : ((stWait []).roomAt 0 [] wait0).isSome = true := by
  obtain ⟨-, -, -, h⟩ := wait_list
  have h0 : (stWait []).roomAt 0 [] wait0 = ((List.range 4).map fun b => (b + (stWait []).freshWord.toNat % 4) % 4).find?
      fun b => (stWait []).fitsAt 0 b [] placeLaunch [] := rfl
  rw [h0, List.find?_isSome]
  exact ⟨_, List.mem_map.2 ⟨0, by decide, rfl⟩, h _ (Nat.mod_lt _ (by decide))⟩

theorem wait_placed : (stWait []).chooseCore wait0 task0 = some 0 := by
  have hok : (fun core => (stWait []).coreAllowed core wait0 task0 && ((stWait []).roomAt core [] wait0).isSome)
      = fun core => (stWait []).coreAllowed core wait0 task0 := by
    funext core
    by_cases hc : core = 0
    · rw [hc, wait_room, Bool.and_true]
    · have : (stWait []).coreAllowed core wait0 task0 = false := by
        unfold State.coreAllowed
        rw [show (stWait []).coresOf ((stWait []).partOfQueue task0.ctx) = [0] from wait_list.2.1]
        simp [hc]
      rw [this, Bool.false_and]
  have h0 : (stWait []).chooseCore wait0 task0
      = ((stWait []).tiers task0 wait0).findSome? fun cs =>
        match leastBy (fun c => ((clusterCores c).map (stWait []).coreLoad).sum) (cs.filter fun c => (clusterCores c).any
          (fun core => (stWait []).coreAllowed core wait0 task0 && ((stWait []).roomAt core [] wait0).isSome)) with
        | none => none
        | some c => leastBy (stWait []).coreLoad ((clusterCores c).filter
          (fun core => (stWait []).coreAllowed core wait0 task0 && ((stWait []).roomAt core [] wait0).isSome)) := rfl
  rw [h0, hok]
  decide +kernel

theorem witness_TaskAndGroupEvents_waiting :
    ((stWait []).waitingTeams 0).findSome? (fun (w, t) => ((stWait []).chooseCore w t).map fun core => (w, t, core))
      = some (wait0, task0, 0)
    ∧ (stWait [0]).waitingTeams 0 = [(wait0, task0)] ∧ (stWait [0]).coreAllowed 0 wait0 task0 = false
    ∧ (stWait []).ac < (stWait []).windowEnd 0 ∧ ({ stWait [0] with ac := 65536 } : State).windowEnd 0 ≤ 65536
    ∧ ({ stWait [] with ac := 65536 } : State).windowEnd 0 ≤ 65536
    ∧ ({ stWait [] with ac := 65536 } : State).waitingTeams 0 = [(wait0, task0)]
    ∧ ({ stWait [] with ac := 65536 } : State).coreAllowed 0 wait0 task0 = true := by
  refine ⟨?_, by decide +kernel⟩
  rw [wait_list.1]
  simp [wait_placed]

/-- A completed task whose only group has an operation that is not performed; a copy that waits in the fault buffer. -/
def doneT : Task := ⟨0, 0, placeLaunch, placeTask, [], none, 0, 1, true, none, 0, true⟩
def stBusyT (ops : List MatOp) : State :=
  ((stM eI).putGroup 0 { grpM eI with exited := true, splits := [] }).modSimt fun x => { x with tasks := [(0, doneT)], ops := ops }
def fbC : FbEntry := ⟨0x10000, 0, 0, 1, 0, 0, 0, 0, some 0, none⟩
def stFbC : State := (stCp { copy0 false false with stopped := true, cause := some 6 }).modSimt fun x => { x with fb := [(0, [(0, fbC)])] }

theorem witness_TaskAndGroupEvents_ends :
    (Tbl.get? (stBusyT [opZ]).simt.tasks 0 = some doneT ∧ (stBusyT [opZ]).taskDone 0 doneT = true ∧ doneT.completed = true
      ∧ (stBusyT [opZ]).taskBusy 0 = true ∧ (stBusyT []).taskDone 0 doneT = true ∧ (stBusyT []).taskBusy 0 = false)
    ∧ (stFbC.fbEntry? 0 0 = some fbC ∧ (Tbl.get? stFbC.simt.copies 0).isSome = true ∧ (stFbC.ctx 0).state = 1
      ∧ (stFbC.ctx 0).halt = none
      ∧ Tbl.get? (stFbC.modSimt fun x => { x with copies := [] }).simt.copies 0 = none)
    ∧ ((((stM eI).putGroup 0 { grpM eI with sets := [] }).group? 0).map Group.sets = some []) := by decide +kernel

/-- A PUBLISH that has reached its table and awaits a copy. -/
def stPub : State := (stCp (copy0 false false)).modSimt fun x => { x with
  publishes := [(0, { pub0 true false with await := [0] }), (1, pub0 true false)] }
def stDef : State := (stY.putGroup 0 (grpS .store)).modSimt fun x => { x with deferred := [(0, { def0 with copies := [] })] }

theorem witness_SyncEvents_waits :
    (stPub.reachTable 0 { pub0 true false with await := [0] }).publishAwaits { pub0 true false with await := [0] } = true
    ∧ (stPub.reachTable 1 (pub0 true false)).behindPublish 1 (pub0 true false) = true
    ∧ (pub0 true false).atPoint = false ∧ (pub0 true true).reached = true ∧ (pub0 false false).reached = false
    ∧ Tbl.get? stDef.simt.deferred 0 = some { def0 with copies := [] } ∧ (splM eI).park = none := by decide +kernel

/-- A copy whose counter's translation has ended, by an address that is mapped and by one that is not; a request that is due. -/
def copyS (va : Nat) : Copy := { copy0 false false with unitAt := 1, srcctr := some 0x10100, srcVa := va, stale := true }
def stDue : State := (stT { req0 0 false false with due := 0, slice := 0 } []).modStore fun x => { x with
  reqs := [(0, req0 2 false false), (1, { req0 0 false false with due := 0 })] }

theorem witness_EngineEvents_due :
    ((stCp (copyS 0x10100)).xlateCtx 0 0x10100 8 .readWrite true false).toBool = true
    ∧ ((stCp (copyS 0x80100)).xlateCtx 0 0x80100 8 .readWrite true false).toBool = false
    ∧ (copyS 0).units ≤ (copyS 0).unitAt
    ∧ Tbl.get? stDue.store.reqs 1 = some { req0 0 false false with due := 0 }
    ∧ stDue.reqWaits 1 { req0 0 false false with due := 0 } 0 = true ∧ 0 ≤ stDue.ac
    ∧ (stCp (copy0 false false)).ac = 0
    ∧ (((stCp (copy0 false false)).modCtx 0 fun c => { c with halt := some ⟨4, 0, 0, 0, 0, none, 0, 0, 0, 0, []⟩ }).ctx 0).halt.isSome = true
    ∧ ((stCp { copy0 false false with toPublish := [2] }).modSimt fun x => { x with publishes := [(0, pub0 true false)] }).copyWaits 0
        { copy0 false false with toPublish := [2] } = true := by decide +kernel

/-- A packet in commit with a LAUNCH staged, its tables with room and full; one that waits for a counter; a halt in its skid. -/
def pktC : Packet := { Packet.start with commit := some (1, false), staged := [.launch placeTask placeLaunch [] 0] }
def pktW (t : Nat) : Packet := { Packet.start with wait := some (0x10100, t) }
def qWait (t : Nat) : Queue := { qk 4 true with pkt := some (pktW t) }
def halt0 (t : Nat) : Halt := ⟨4, 0, 0, 0, 0, none, 0, 0, 0, t, []⟩
def stHalt (fl : List Flight) (t : Nat) : State :=
  ((stM eI).putGroup 0 { grpM eI with flights := fl, nextFlight := 1 }).modCtx 0 fun c => { c with halt := some (halt0 t) }
def stFull : State := ((stM eI).putQueue 0 { qk 3 true with pkt := some pktC }).modSimt fun x => { x with
  trees := (List.range 4096).map fun i => (i, ⟨0, 1, 0, 64⟩) }

theorem witness_QueueAndContextEvents_commit :
    (((stM eI).putQueue 0 { qk 3 true with pkt := some pktC }).queue 0).pkt = some pktC ∧ pktC.commit = some (1, false)
    ∧ ((stM eI).putQueue 0 { qk 3 true with pkt := some pktC }).treeEntries 0 < 4096
    ∧ ((stM eI).putQueue 0 { qk 3 true with pkt := some pktC }).taskEntries 0 < 16384
    ∧ 4096 ≤ stFull.treeEntries 0 ∧ (stFull.queue 0).pkt = some pktC
    ∧ ((stKq (qWait 0)).queue 0).pkt = some (pktW 0) ∧ ((stKq (qWait 0)).queue 0).state = 4 ∧ ((stKq (qWait 0)).queue 0).enable = true
    ∧ 0 ≤ (stKq (qWait 0)).peek 0x10100 8 ∧ (stKq (qWait 1)).peek 0x10100 8 < 1 := by decide +kernel

theorem witness_QueueAndContextEvents_halt :
    ((stHalt [] 0).ctx 0).halt = some (halt0 0) ∧ ((stHalt [] 0).ctx 0).state = 1 ∧ (stHalt [] 0).residentGroups 0 = [0]
    ∧ (let u := ([0].foldl State.withdrawGroup (stHalt [] 0)); ([0].any fun gid => (u.group? gid).any (u.skidWork gid)) = false)
    ∧ (let u := ([0].foldl State.withdrawGroup (stHalt [flS .store] 0))
       ([0].any fun gid => (u.group? gid).any (u.skidWork gid)) = true ∧ u.ac < (halt0 0).time + u.skidBound [0])
    ∧ (stKq (qk 1 true)).queue 0 = qk 1 true ∧ (qk 1 true).enable = true ∧ (qk 5 true).state = 5
    ∧ ((((stM eI).putVf 0 { Vf.reset with state := 2, enable := true, qcount := 1 }).vfOfQueue 0).filter fun f => f.2.state == 2).isSome = true
    ∧ ((stM eI).modSimt fun x => { x with publishes := [(0, { pub0 true false with range := 5 })] }).publishing 0 5 = true := by
  decide +kernel

theorem witness_QueueAndContextEvents_claim :
    ((stM eI).claimCores 0 0).isSome = true ∧ (stM eI).claimCores 0 2000 = none
    ∧ (((stM eI).modCtx 0 fun c => { c with vacBusy := true }).ctx 0).vacBusy = true
    ∧ (stM eI).canSwapAll [] = true
    ∧ (stSk.sketch? 0 2).isSome = false ∧ (fieldOf 0x50002 16 32 = 5) ∧ 0x50002 % 4 = 2 ∧ fieldOf 0x10002 16 32 = 1
    ∧ ((stSk.modHub fun h => { h with sketches := [(5, ⟨[], []⟩)] }).sketch? 0 5).isSome = true
    ∧ 65536 ≤ fieldOf 0x1_0000_0002 16 32 ∧ stSk.sketch? 0 7 = none
    ∧ (stSk.hub.queues.any fun q => q.2.eid != 0 && q.2.sketch == 5 && stSk.partOfQueue q.1 == 0) = false
    ∧ (stSk.hub.queues.any fun q => q.2.eid != 0 && q.2.sketch == 1 && stSk.partOfQueue q.1 == 0) = true := by decide +kernel

/-! Requests to the root of trust, TDISP, IDE and accesses from outside. -/
def rq (code op : Nat) (data : List Byte) : SpdmReq := ⟨1, 1, 0, data, 0, 0x14, code, 0x4B4C, op⟩
def stRot (n : Nat) : State := thr.modRot fun r => { r with
  idHash := [0#8], negotiated := true, podOps := n, sessions := [(1, ⟨1, true, 5, 6⟩)], pods := [⟨List.replicate 32 0#8, [[1#8], [2#8]]⟩] }
def inb (src : Nat) (w : Bool) : InboundReq := ⟨src, 0, none, 0x400000, w, if w then [1#8] else [], 1, none⟩

theorem witness_RegisterTraceAndTrustEvents_requests :
    (stRot 0).rotUp = true ∧ ((rq 0x83 0 []).port ≤ 3 ∧ (rq 0x83 0 []).version = 0x14 ∧ (rq 0x83 0 []).code ≠ 0x84)
    ∧ (stRot 0).session? 1 = some ⟨1, true, 5, 6⟩ ∧ (stRot 0).session? 2 = none ∧ (stRot 0).hub.rot.negotiated = true
    ∧ (stRot 0).hub.rot.freeSession = some 2
    ∧ ((stRot 0).hub.rot.podOps < 4 ∧ 4 ≤ (stRot 4).hub.rot.podOps ∧ (rq 0xFE 2 (List.replicate 66 0#8)).data.length = 32 + 34 * 1)
    ∧ ((stRot 0).hub.rot.pods.find? fun p => p.nonce == List.replicate 32 0#8).isSome = true
    ∧ ((stRot 0).hub.rot.pods.find? fun p => p.nonce == List.replicate 32 1#8) = none
    ∧ ((stRot 0).drawn.evidenceWaits 1 (stRot 0).free = false)
    ∧ (((stRot 0).putThread 0 { thr0 with sealing := some (0, [], none) }).drawn.evidenceWaits 1 (stRot 0).free = true)
    ∧ Tbl.get? (stRot 0).hub.enclaves 1 = some placeEnclave ∧ Tbl.get? (stRot 0).hub.enclaves 7 = none
    ∧ ((thr.modRot fun r => { r with sessions := [(1, ⟨1, false, 5, 6⟩)] }).session? 1 = none) := by decide +kernel

theorem witness_RegisterTraceAndTrustEvents_access :
    (((stRot 0).modHub fun h => { h with tdis := [(0, ⟨1, [], 9⟩)] }).tdi 0).state = 1 ∧ streamOk 0 1 = true ∧ streamOk 17 1023 = true
    ∧ streamOk 1 65 = false ∧ streamOk 18 0 = false
    ∧ ((stRot 0).module.on = true ∧ (stRot 0).offStream (inb 0 true) = false ∧ (inb 0 true).source ≠ 3
      ∧ (stRot 0).inboundOk (inb 0 true) 1 = true ∧ (stRot 0).inboundOk (inb 0 false) 1 = true ∧ inKick 0x400000 = false
      ∧ (stRot 0).offStream (inb 3 false) = false ∧ (inb 3 false).source = 3
      ∧ (((stRot 0).putPot 0x400 ⟨potOwned, 1, 0, 0, 0, 0, 0⟩).inboundOk (inb 0 true) 1) = false
      ∧ ofVf { inb 1 true with msix := some (none, true) } = true)
    ∧ (∃ u held, (stRot 0).rowsPass 256 (.inboundAccess (inb 0 true)) (lineAccs (linesOf 0x400000 1)) = (u, held))
    ∧ ((thr.linkDir 3).flits + 2 < 2 ^ 40 ∧ (159 : Nat) < 160 ∧ 160 ≤ (160 : Nat))
    ∧ ((thr.modHub fun h => { h with links := [(3, ⟨0, false, 0, 2 ^ 40 - 2, 0, []⟩)] }).linkDir 3).next = false := by
  refine ⟨by decide +kernel, by decide +kernel, by decide +kernel, by decide +kernel, by decide +kernel, by decide +kernel,
    ⟨_, _, rfl⟩, by decide +kernel, ?_⟩
  decide +kernel

/-! Bring-up, refresh and dumps. -/
def hbmS (n : Nat) : Stack := { Stack.reset with
  aar := true, stamps := [(2, n)], shaking := [(0, 0)], lendHeld := [(0, .rowGrant 0)], held := [⟨0, 16, 0, 0, [.rowGrant 0], false⟩] }
theorem witness_ModuleEvents_more :
    ((thr.putHbm 0 (hbmS 5)).hbm 0 = hbmS 5 ∧ (hbmS 5).aar = true ∧ Tbl.get? (hbmS 5).stamps (16 / 8) = some 5
      ∧ Tbl.get? (hbmS 5).shaking 0 = some 0 ∧ (0, Event.rowGrant 0) ∈ (hbmS 5).lendHeld
      ∧ ((hbmS 5).held.find? fun e => e.row == 16 && !e.waiting.isEmpty) = some ⟨0, 16, 0, 0, [.rowGrant 0], false⟩
      ∧ (thr.putHbm 0 (hbmS 5)).channelBusy 0 (lenderOf 0 1) = true)
    ∧ (thr.wordOwners [0, 7] 0 = [0] ∧ thr.wordOwners [0, 7] 2 = [] ∧ (thr.ctx 0).state = 1 ∧ (thr.ctx 0).halt = none)
    ∧ ((thr.modHub fun h => { h with dump := { h.dump with busy := some 1 } }).hub.dump.busy = some 1
      ∧ Tbl.get? (thr.modHub fun h => { h with dump := { h.dump with busy := some 1 } }).hub.enclaves 1 = some placeEnclave
      ∧ Tbl.get? thr.hub.enclaves 9 = none)
    ∧ ((thr.modRot fun r => { r with fw := Tbl.put r.fw 2 ⟨[], 3, true, some ([1#8], 2, true), 2⟩ }).hub.rot.image 2).staged
        = some ([1#8], 2, true)
    ∧ (match (thr.modHub fun h => { h with dump := { h.dump with busy := some 1 } }).dumpStart 0x10001 with
      | .error r => r == 6
      | .ok _ => false) = true
    ∧ (match thr.dumpStart 0 with
      | .error r => r == 1
      | .ok _ => false) = true
    ∧ (State.reset.module.layout.any bootLayoutBad = false ∧ bootLayoutBad ([], []) = true ∧ bootLayoutBad defaultLayout = false)
    ∧ ((thr.modStore fun x => { x with latent := [(5, 1), (6, 2)] }).stackOf (64 * 5)).map Prod.fst = some 0 := by decide +kernel

theorem witness_StepWithoutATurn_held :
    let s := ({ stF with agenda := [(0, .fixedLatencyWriteback 0), (0, .stallSample 0), (0, .dumpEnd), (0, .lendDone 0 0), (0, .rowGrant 0),
      (0, .podDone (rq 0xFE 2 [])), (0, .evidence 0 (rq 0xFE 1 []))] } : State).modCtx 0 fun c => { c with frozen := true }
    (s.eventCtx (.fixedLatencyWriteback 0) = some 0 ∧ (s.ctx 0).frozen = true ∧ s.eventCtx .dumpEnd = none
      ∧ Event.late (.fixedLatencyWriteback 0) = false ∧ Event.late (.stallSample 0) = true ∧ s.turns.isEmpty = false)
    ∧ ((Event.dumpEnd).late = false ∧ (Event.lendDone 0 0).late = false ∧ (Event.rowGrant 0).late = false) := by decide +kernel

theorem witness_CountBankInstructions_wide : matModeBad rdC = false
    ∧ grpD.Passes (splM eD) { Spec.of mS 1 (matModeBad rdC) (rdC.modeCode :: (Opnd.zero.uCodes ++ [codeG 10, codeG 11])) [] with
        needS := true } rdC.mask := by unfold Group.Passes; decide +kernel

theorem witness_ThreadAndFunctionEvents_import :
    (∃ q, ((thr.putQueue 0 { Queue.reset with eid := 1 }).putVf 0 (vf0 1)).vfqQueue (vf0 1) 1 1 = .ok q)
    ∧ (∃ q, ((thr.putQueue 0 { Queue.reset with eid := 1 }).putVf 0 (vf0 1)).vfqQueue (vf0 1) 2 2 = .ok q)
    ∧ thr.inHostPages 0 0x400000 256 = true ∧ thr.inHostPages 0 8 256 = false
    ∧ ({ vf0 1 with gateHeld := true, state := 2 } : Vf).gateHeld = true ∧ (vf0 2).gateHeld = false
    ∧ (thr.part 0).dies ≠ 0 ∧ (vf0 1).recordBad (List.replicate 256 0xFF#8) = true := by
  refine ⟨okOf (by decide +kernel), okOf (by decide +kernel), by decide +kernel⟩

/-! ### Decoding: words worked out in the manual, and the encodings of ch08 written out bit by bit -/

def mW : Marks := ⟨false, true, false⟩
def mWS : Marks := ⟨false, true, true⟩

/-- The three words of ch08 (Table 12), field by field: B, W, S, U, OP, D, A, C. -/
theorem test_decode_bits :
    decode [(1#1 ++ 0#1 ++ 0#1 ++ 0#1 ++ 0x00#7 ++ 0x03#7 ++ 0x01#7 ++ 0x7C#7 : BitVec 32), 5#32] = .ok (.iadd ⟨mB, 3, .v 1, .lit32 5#32⟩, [])
    ∧ decode [(0#1 ++ 0#1 ++ 0#1 ++ 0#1 ++ 0x1D#7 ++ (2#4 ++ 1#3) ++ 0x02#7 ++ 0x03#7 : BitVec 32)] = .ok (.icmp ⟨m0, 2, 1, .v 2, .v 3⟩, [])
    ∧ decode [(0#1 ++ 0#1 ++ 1#1 ++ 0#1 ++ 0x68#7 ++ 0x08#7 ++ 0x0A#7 ++ 0x0C#7 : BitVec 32), 0x00000128#32]
        = .ok (.mma ⟨mS, 8, 10, 12, ⟨8, 2, 2, false, false, false, 0, false, false, false⟩⟩, [])
    ∧ decode [(1#1 ++ 0#1 ++ 0#1 ++ 1#1 ++ 0x20#7 ++ 0x70#7 ++ 0x7C#7 ++ 0x70#7 : BitVec 32), 0xFFFFFFE0#32]
        = .ok (.bra ⟨mB, 0xFFFFFFE0#32⟩, []) := by decide +kernel

/-- The kernel `pick` (ch09). -/
theorem test_decode_control :
    decode [0x961C3E70#32, 0x07#32] = .ok (.setmode ⟨mB, .lit32 7#32⟩, [])
    ∧ decode [0x83A4797C#32, 8#32] = .ok (.icmp ⟨mB, 2, 1, .lane, .lit32 8#32⟩, [])
    ∧ decode [0x945C3E01#32, 0x18#32] = .ok (.brv ⟨mB, 0x18#32, 1, false⟩, [])
    ∧ decode [0x00207E72#32, 0x64#32] = .ok (.isub ⟨m0, 1, .lit32 100#32, .lane⟩, [])
    ∧ decode [0x941C3E70#32, 0x10#32] = .ok (.bra ⟨mB, 0x10#32⟩, [])
    ∧ decode [0x0040797C#32, 3#32] = .ok (.imul ⟨m0, 1, .lane, .lit32 3#32⟩, [])
    ∧ decode [0x951C3870#32] = .ok (.join ⟨mB⟩, []) ∧ decode [0x55E040F0#32] = .ok (.ballot ⟨mW, 1, 1⟩, [])
    ∧ decode [0x94FC3870#32] = .ok (.exit ⟨mB⟩, []) := by decide +kernel

/-- Conversions, memory, matrix and tuple words of ch10, ch11 and ch12. -/
theorem test_decode_families :
    decode [0x07608088#32] = .ok (.mxsc ⟨m0, 2, .v 1, 8⟩, []) ∧ decode [0x46E0C0F0#32] = .ok (.cvtn4 ⟨mW, 3, .v 1⟩, [])
    ∧ decode [0x470201FC#32, 0x8008#32] = .ok (.cvtw ⟨mW, 8, .v 3, .lit32 0x8008#32⟩, [])
    ∧ decode [0x488100F0#32] = .ok (.redadd ⟨mW, 4, .v 1⟩, []) := by decide +kernel

theorem test_decode_memory :
    decode [0x6B823105#32, 0x40#32] = .ok (.atomv ⟨mWS, 8, .g 2, .v 5, ⟨0, 4, 0, 0⟩⟩, [])
    ∧ decode [0x8A213172#32] = .ok (.st ⟨mB, .g 2, .lane, ⟨0, 4⟩⟩, []) ∧ decode [0x9360FE70#32, 3#32] = .ok (.movU ⟨mB, 3, .lit32 3#32⟩, [])
    ∧ decode [0x7840C170#32, 0x1C7#32] = .ok (.atom ⟨mWS, 3, .g 2, .zero, ⟨7, 4, 3, 0⟩⟩, [])
    ∧ decode [0x7841017C#32, 0x47#32, 7#32] = .ok (.atom ⟨mWS, 4, .g 2, .lit32 7#32, ⟨7, 4, 0, 0⟩⟩, []) := by decide +kernel

theorem test_decode_matrix_tuple :
    decode [0x2D010308#32, 0x00018228#32] = .ok (.mma ⟨mS, 4, 6, 8, ⟨8, 2, 4, false, false, true, 1, false, false, false⟩⟩, [])
    ∧ decode [0x7682B870#32] = .ok (.mfence ⟨mWS, 10⟩, []) ∧ decode [0x36BC0570#32] = .ok (.mwait ⟨mS, .g 10⟩, [])
    ∧ decode [0x7C450C02#32, 0x5E03#32] = .ok (.ttake ⟨mWS, 20, 24, 2, ⟨3, 0, 0, 0, 30, 1, false⟩⟩, []) := by decide +kernel

/-- System words of ch13, ch18 and ch28. -/
theorem test_decode_system :
    decode [0x1D214082#32] = .ok (.eenter ⟨m0, 5, 1, 2⟩, []) ∧ decode [0x1E7C3870#32] = .ok (.syscall ⟨m0⟩, [])
    ∧ decode [0x1EBC3870#32] = .ok (.eret ⟨m0⟩, []) ∧ decode [0x1DA14083#32] = .ok (.pgseal ⟨m0, 5, 1, 3⟩, [])
    ∧ decode [0x1DC14307#32] = .ok (.pgunseal ⟨m0, 5, 6, 7⟩, []) := by decide +kernel

theorem test_decode_partctl :
    decode [0x1F010086#32, 0#32] = .ok (.partctlQuiesce ⟨m0, 4, 1, 6⟩, [])
    ∧ decode [0x1F010087#32, 2#32] = .ok (.partctlWritebnd ⟨m0, 4, 1, 7⟩, [])
    ∧ decode [0x1F010108#32, 1#32] = .ok (.partctlWriteilv ⟨m0, 4, 2, 8⟩, [])
    ∧ decode [0x13A0427C#32, 0xFFFF0008#32] = .ok (.icmpU ⟨m0, 0, 1, .g 4, .lit32 0xFFFF0008#32⟩, [])
    ∧ decode [0x94203E41#32, 0xFFFFFFF0#32] = .ok (.brq ⟨mB, false, 0xFFFFFFF0#32, .q 1⟩, [])
    ∧ decode [0x94DC1FF0#32] = .ok (.ret ⟨mB, 63⟩, []) := by decide +kernel

/-- The stock sketch's operations (R348), and an opcode that is rejected (R338). -/
theorem test_decode_sketch :
    decodeSketch 0x0F500018#32 = some (.sketchLdq ⟨5, 0, 24⟩) ∧ decodeSketch 0x01600001#32 = some (.sketchMovi ⟨6, 0, 1⟩)
    ∧ decodeSketch 0x16000001#32 = some (.sketchDone ⟨0, 0, 1⟩) ∧ decodeSketch 0x18000080#32 = some (.sketchFault ⟨0, 0, 0x80⟩)
    ∧ decodeSketch 0x19000000#32 = none ∧ decodeSketch 0x16000011#32 = none := by decide +kernel

/-- A vector word whose operand field names no register, and one with an opcode that the table does not have. -/
theorem test_decode_rejects : (decode [0x0000407D#32]).toBool = false ∧ (decode [0x0FE00000#32]).toBool = false
    ∧ (decode []).toBool = false ∧ (decode [0x0000407C#32]).toBool = false := by decide +kernel

/-! ### Ill-formed terms, one for each check of WellFormed -/

theorem test_illformed_registers : ¬ WellFormed (.iadd ⟨m0, 96, .v 0, .v 1⟩) ∧ ¬ WellFormed (.iadd ⟨m0, 0, .v 96, .v 1⟩)
    ∧ ¬ WellFormed (.iadd ⟨m0, 0, .g 16, .v 1⟩) ∧ ¬ WellFormed (.iadd ⟨m0, 0, .q 0, .v 1⟩) ∧ ¬ WellFormed (.iaddU ⟨m0, 64, .g 0, .g 1⟩)
    ∧ ¬ WellFormed (.iaddU ⟨m0, 0, .v 0, .g 1⟩) ∧ ¬ WellFormed (.iaddU ⟨m0, 0, .q 8, .g 1⟩) ∧ ¬ WellFormed (.iaddU ⟨m0, 0, .g 64, .g 1⟩)
    ∧ ¬ WellFormed (.pand ⟨m0, 8, 0, 0⟩) ∧ ¬ WellFormed (.icmp ⟨m0, 8, 0, .v 0, .v 1⟩) ∧ ¬ WellFormed (.icmp ⟨m0, 0, 8, .v 0, .v 1⟩)
    ∧ ¬ WellFormed (.ballot ⟨m0, 0, 8⟩) ∧ ¬ WellFormed (.vote ⟨m0, 4, 0, 0⟩) ∧ ¬ WellFormed (.brv ⟨m0, 0#32, 8, false⟩)
    ∧ ¬ WellFormed (.mmag ⟨mS, .lit32 0#32, .g 0, .g 1, ⟨0, 0, 1, false, false, false, 0, false, false, false⟩⟩) := by decide +kernel

theorem test_illformed_literals : ¬ WellFormed (.iadd ⟨m0, 0, .lit64 0#64, .lit64 0#64⟩)
    ∧ ¬ WellFormed (.atomv ⟨mS, 0, .lit64 0#64, .lit32 0#32, ⟨0, 0, 0, 0⟩⟩) ∧ ¬ WellFormed (.ldl ⟨m0, 0, .lit64 0#64, ⟨0, 4⟩⟩)
    ∧ ¬ WellFormed (.gld ⟨m0, 0, 0, .lit64 0#64⟩) ∧ ¬ WellFormed (.ld ⟨m0, 0, .v 1, ⟨0, 4⟩⟩) := by decide +kernel

theorem test_illformed_codes : ¬ WellFormed (.cvt ⟨m0, 0, .v 0, 11⟩) ∧ ¬ WellFormed (.cvtn8 ⟨m0, 0, .v 0, 8⟩)
    ∧ ¬ WellFormed (.mxsc ⟨m0, 0, .v 0, 3⟩) ∧ ¬ WellFormed (.bararr ⟨mS, 0, 48⟩) ∧ ¬ WellFormed (.sread ⟨m0, 0, 28⟩)
    ∧ ¬ WellFormed (.fence ⟨m0, 6⟩) ∧ ¬ WellFormed (.ld ⟨m0, 0, .v 0, ⟨0, 7⟩⟩) ∧ ¬ WellFormed (.ld ⟨m0, 0, .v 0, ⟨1, 4⟩⟩)
    ∧ ¬ WellFormed (.st ⟨m0, .v 0, .v 2, ⟨0, 1⟩⟩) ∧ ¬ WellFormed (.modef ⟨m0, .g 0, 8⟩) ∧ ¬ WellFormed (.waitc ⟨m0, .g 0, 8⟩)
    ∧ ¬ WellFormed (.fcmp ⟨m0, 13, 0, .v 0, .v 1⟩) ∧ ¬ WellFormed (.cbclr ⟨m0, 2⟩) := by decide +kernel

theorem test_illformed_controls : ¬ WellFormed (.atomv ⟨mS, 0, .g 0, .v 0, ⟨0, 0, 0, 4⟩⟩) ∧ ¬ WellFormed (.redv ⟨mS, .g 0, .v 0, ⟨7, 0, 0, 0⟩⟩)
    ∧ ¬ WellFormed (.ctradd ⟨mS, 0, .g 0, .g 1, ⟨0, 0, 0, 0⟩⟩)
    ∧ ¬ WellFormed (.cpy ⟨mS, 0, 0, 0, ⟨3, 0, 0, false, 0, false, 0, false, false, 0⟩⟩)
    ∧ ¬ WellFormed (.cpy ⟨mS, 0, 0, 0, ⟨1, 4, 8, false, 0, false, 0, false, false, 0⟩⟩)
    ∧ ¬ WellFormed (.mma ⟨mS, 0, 0, 0, ⟨9, 0, 1, false, false, false, 0, false, false, false⟩⟩)
    ∧ ¬ WellFormed (.spawn ⟨mS, .g 0, ⟨4096, false, 0⟩⟩) ∧ ¬ WellFormed (.tdep ⟨mS, 0, 0, 0, ⟨1, 0, 0, 0, 0, 0, false⟩⟩)
    ∧ ¬ WellFormed (.pgassign ⟨m0, 0, 0, 0, ⟨2, false, false, 0⟩⟩) ∧ ¬ WellFormed (.sketchNop ⟨1, 0, 0⟩)
    ∧ ¬ WellFormed (.sketchLoop ⟨0, 0, 65⟩) := by decide +kernel

/-! ### Values that the manual's tables give -/

/-- Table 9 of ch09. -/
theorem test_integer_edges :
    opAdd false true 32 0x7FFFFFFF 1 0 = (0x80000000, 0#5) ∧ opAdd true true 32 0x7FFFFFFF 1 0 = (0x7FFFFFFF, 4#5)
    ∧ opAdd true true 16 0x7FFF 1 0 = (0x7FFF, 4#5) ∧ (opMulh false true 32 0x40000000 4 0).1 = 1
    ∧ (opMulh false false 32 0xFFFFFFFF 0xFFFFFFFF 0).1 = 0xFFFFFFFE ∧ (opMulh false true 32 0xFFFFFFFF 0xFFFFFFFF 0).1 = 0
    ∧ (opSar false true 32 0x80000000 40 0).1 = 0xFFFFFFFF ∧ (opShr false false 32 0x80000000 32 0).1 = 0
    ∧ (opRotl false false 32 0x80000001 33 0).1 = 3 ∧ (opBfx false true 32 0xF00 0x408 0).1 = 0xFFFFFFFF
    ∧ (opBfx false false 32 0xF00 0x408 0).1 = 0xF ∧ (opBfi false false 32 5 0x41C 0x12345678).1 = 0x52345678
    ∧ (opDiv false true 32 0xFFFFFFF9 2 0).1 = 0xFFFFFFFD ∧ (opRem false true 32 0xFFFFFFF9 2 0).1 = 0xFFFFFFFF
    ∧ opDiv true true 32 0x80000000 0xFFFFFFFF 0 = (0x80000000, 0#5) ∧ (opDiv false false 32 5 0 0).1 = 0xFFFFFFFF
    ∧ (opRem false true 32 5 0 0).1 = 5 := by decide +kernel

/-- Table 9 of ch09: the packed IADD, IDP4 and MULW. -/
def rd9 (m : W32) : Rd := (stM m).rdSplit { grpM m with regs := { Regs.start with v := [(0, 10#32)] } } 0 (splM m)
theorem test_packed_rows :
    (intLane true opAdd (rd9 0x847#32) (.lit32 0x7FFF0001#32) (.lit32 0x00010001#32) 0 0).x = 0x7FFF0002#64
    ∧ (intLane true opAdd (rd9 0x847#32) (.lit32 0x7FFF0001#32) (.lit32 0x00010001#32) 0 0).fl = 4#5
    ∧ (idp4Lane (rd9 eB) ⟨m0, 0, .lit32 0x01FF0203#32, .lit32 0x02020202#32⟩ 0).x = 20#64
    ∧ (mulwLane (rd9 eI) ⟨m0, 2, .lit32 0xFFFFFFFF#32, .lit32 2#32⟩ 0).x = 0xFFFFFFFFFFFFFFFE#64 := by decide +kernel

/-- Table 2 of ch07: tapered codes read. -/
theorem test_tapered_codes : taperRead 7 1 0x5A = .fin false 26 (-3) ∧ taperRead 7 1 0xDA = .fin true 26 (-3)
    ∧ taperRead 5 0 0x0B = .fin false 11 (-4) := by decide +kernel

/-- R145's check value, and the value that a seed of 0 takes. -/
theorem test_sr_states : srNext 1#32 = 0x00042021#32 ∧ srSeed 0#32 = 0x6A09E667#32 := by decide +kernel

/-- Table 4 of ch07: 400.0 to E4M3 under RNE and RZ, and the second element. -/
theorem test_conversions : (fmtE4M3.conv 0 false 0 (fmtFP32.read 0x43C80000)).code = 0x7C
    ∧ (fmtE4M3.conv 1 false 0 (fmtFP32.read 0x43C80000)).code = 0x7C := by decide +kernel

/-- Table 5 of ch07 and Table 6 of ch02: stores through tolerant memory. -/
theorem test_tolerant_stores : tolTrunc 16 0x3C01 = 0x3C ∧ tolTrunc 16 0x3C80 = 0x3C ∧ tolTrunc 16 0x3D80 = 0x3E ∧ tolTrunc 16 0x7BFF = 0x7C
    ∧ tolTrunc 16 0x7C01 = 0x7E ∧ tolTrunc 32 0x3F8CCCCD = 0x3F8D ∧ tolTrunc 32 0x7F7FFFFF = 0x7F80 ∧ tolTrunc 32 0x7F800001 = 0x7FC0
    ∧ tolExpand 32 0x3F8D = 0x3F8D0000 := by decide +kernel

/-- Table 5 of ch24: the channel of w, and the slice of a line. -/
theorem test_address_map : channelOf 0x2000008000 = 0xA0 ∧ foldLine 0x4000010000 = 0x100008400 ∧ foldLine 0x4000010000 % 176 = 48 := by
  decide +kernel

/-- Table 6 of ch10: the tree of REDADD. -/
theorem test_redadd_tree :
    redAdd 8 false ((List.range 32).map fun l => if l = 0 then some 0x4B800000 else if l < 4 then some 0x3F800000 else none)
      = (0x4B800001, 16#5) := by decide +kernel

/-- Rounding: 1 + 2^-24 is a tie that RNE gives to 1; FFMA rounds once (R206). -/
theorem test_float_rows : (opFadd fmtFP32 0 0x3F800000 0x33800000 0).code = 0x3F800000
    ∧ (opFmul fmtFP32 0 0x3FC00000 0x3FC00000 0).code = 0x40100000 ∧ (opFdiv fmtFP32 0 0x3F800000 0 0).code = 0x7F800000 := by decide +kernel

/-! ### One step -/

/-- IADD v3, v1, #5 on the placed group: the pc moves past two words, the result waits 4 ac (R158). -/
theorem test_step_iadd : (match step stW with
    | .next s => (s.group? 0).bind fun g => (g.split? 0).map Split.pc
    | _ => none) = some 0x10008#64 := by decide +kernel
theorem test_step_iadd_result : (match step stW with
    | .next s => (s.group? 0).map fun g => g.fixed.map fun x => (x.due, x.w.v.head?)
    | _ => none) = some [(4, some (96, 5#32))] := by decide +kernel

/-- SYSCALL at user level (R272, R273). -/
def thU : State := (thrAt (lv 0)).poke placeAddr (leBytes 4 0x1E7C3870)
theorem test_step_syscall : (match exec (.syscall ⟨m0⟩) thU with
    | .next s => some ((s.thread 0).lvl, (s.thread 0).k.epc, (s.thread 0).k.cause, (s.thread 0).k.stat)
    | _ => none) = some (1, 0x10004#64, 0x100#32, 0#32) := by decide +kernel

/-- Four bytes stored, low byte first (R3). -/
theorem test_store_bytes : ((thr.write 0x10400 (leBytes 4 0x11223344)).bytes 0x10400 4, (thr.write 0x10400 (leBytes 4 0x11223344)).byte 0x10404)
    = ([0x44#8, 0x33#8, 0x22#8, 0x11#8], 0#8) := by decide +kernel

/-- A vector word on a control core is UNDEF: cause 1 to the hypervisor's own vector (R165, R272). -/
theorem test_step_undef : (match exec (.iadd ⟨m0, 1, .v 0, .v 1⟩) (thrAt id) with
    | .next s => some ((s.thread 0).h.cause, (s.thread 0).h.epc, (s.thread 0).lvl)
    | _ => none) = some (1#32, 0x10000#64, 2) := by decide +kernel

/-- POWER_ON is the first step from reset, and leaves the module released (R445). -/
theorem test_step_reset : (match step State.reset with
    | .next s => (s.module.stage, (s.part 0).dies, s.agenda.length)
    | _ => (0, 0, 9)) = (6, 255, 0) := by decide +kernel

/-- withFetchWord places a word so that the next step runs it. -/
theorem test_withFetchWord : (match step (State.reset.withFetchWord 32 0x0361C0F0) with
    | .next s => (s.group? 0).bind fun g => (g.split? 0).map Split.pc
    | _ => none) = some 0x10004#64 := by decide +kernel

end Sys2Proof.Tests
end

/-! ## O21: a step without a turn (ch95, R404) -/

namespace Sys2Proof.Machine

/-! ### The agenda -/

/-- An entry whose time has not come fails the test by which `takeDue` picks an event. -/
theorem not_due_of_notYet {s : State} {d : Nat} {e : Event} (h : s.NotYet (d, e)) :
    ¬ (d ≤ s.ac ∧ (s.turns.isEmpty || !e.late) = true) := by
  rintro ⟨hd, he⟩
  rcases h with h | ⟨hl, ht⟩
  · exact absurd hd (Nat.not_le.mpr h)
  · simp [hl, ht] at he

/-- The first event that is due is taken, and the entries around it stay in their order. -/
theorem takeDue_first_due (s : State) (pre post : List (Nat × Event)) {due : Nat} {e : Event}
    (hpre : ∀ x ∈ pre, s.NotYet x) (hd : due ≤ s.ac) (he : e.late = false ∨ s.turns = []) :
    takeDue s.ac s.turns.isEmpty (pre ++ (due, e) :: post) = some (e, pre ++ post) := by
  induction pre with
  | nil =>
    have hnow : due ≤ s.ac ∧ (s.turns.isEmpty || !e.late) = true := ⟨hd, by rcases he with he | he <;> simp [he]⟩
    simp [takeDue, hnow]
  | cons x pre ih =>
    have hx := not_due_of_notYet (hpre x (List.mem_cons_self ..))
    simp only [List.cons_append, takeDue, if_neg hx, ih fun y hy => hpre y (List.mem_cons_of_mem _ hy)]

theorem takeDue_none (s : State) (l : List (Nat × Event)) (h : ∀ x ∈ l, s.NotYet x) :
    takeDue s.ac s.turns.isEmpty l = none := by
  induction l with
  | nil => rfl
  | cons x l ih =>
    have hx := not_due_of_notYet (h x (List.mem_cons_self ..))
    simp only [takeDue, if_neg hx, ih fun y hy => h y (List.mem_cons_of_mem _ hy)]

theorem step_of_first_due {s : State} {pre post : List (Nat × Event)} {due : Nat} {e : Event}
    (ha : s.agenda = pre ++ (due, e) :: post) (hpre : ∀ x ∈ pre, s.NotYet x) (hd : due ≤ s.ac)
    (he : e.late = false ∨ s.turns = []) : step s = runEvent e { s with agenda := pre ++ post } := by
  simp only [step, ha, takeDue_first_due s pre post hpre hd he]

theorem step_of_quiet_idle {s : State} (hq : s.quiet) (ht : s.turns = []) :
    step s = .next (if s.module.on then s.tick else s) := by
  have hnone := takeDue_none s s.agenda hq
  simp only [step, hnone]
  rw [ht]

/-! ### Carrying out an event -/

theorem runEvent_frozen {e : Event} {s : State} {q : Nat} (hq : s.eventCtx e = some q) (hf : (s.ctx q).frozen = true) :
    runEvent e s = .next (s.holdEvent q e) := by simp [runEvent, hq, Option.filter, hf]

theorem runEvent_running {e : Event} {s : State} (h : ∀ q, s.eventCtx e = some q → (s.ctx q).frozen = false) :
    runEvent e s = doEvent e s := by
  cases hq : s.eventCtx e with
  | none => simp [runEvent, hq]
  | some q => simp [runEvent, hq, Option.filter, h q hq]

/-- An event that names an instruction is carried out as that instruction. -/
theorem doEvent_eq_exec {e : Event} {i : Instr} (h : e.Is i) (s : State) : doEvent e s = exec i s := by
  cases e
  case lendDone | dumpEnd | rowGrant | evidence | podDone => exact h.elim
  all_goals exact h ▸ rfl

/-- Every event is an instruction's or one of the five that end what an instruction has begun. -/
theorem event_is_instr_or_end (e : Event) :
    (∃ i : Instr, e.Is i) ∨ (∃ stack pair, e = .lendDone stack pair) ∨ e = .dumpEnd ∨ (∃ x, e = .rowGrant x)
      ∨ (∃ k req, e = .evidence k req) ∨ ∃ req, e = .podDone req := by
  cases e
  case lendDone stack pair => exact .inr (.inl ⟨stack, pair, rfl⟩)
  case dumpEnd => exact .inr (.inr (.inl rfl))
  case rowGrant x => exact .inr (.inr (.inr (.inl ⟨x, rfl⟩)))
  case evidence k req => exact .inr (.inr (.inr (.inr (.inl ⟨k, req, rfl⟩))))
  case podDone req => exact .inr (.inr (.inr (.inr (.inr ⟨req, rfl⟩))))
  all_goals exact .inl ⟨_, rfl⟩

/-! ### The clock -/

@[simp] theorem observe_ac (s : State) : s.observe.ac = s.ac := by
  unfold State.observe
  split <;> rfl

@[simp] theorem stallPart_ac (s : State) (part : Nat) : (s.stallPart part).ac = s.ac := rfl

theorem foldl_stallPart_ac (l : List Nat) (s : State) : (l.foldl State.stallPart s).ac = s.ac :=
  List.foldlRecOn (motive := fun t : State => t.ac = s.ac) l _ rfl fun _ ht _ _ => ht

/-- A tick moves the clock on by one ac (R2). -/
theorem tick_ac (s : State) : s.tick.ac = s.ac + 1 := foldl_stallPart_ac _ _

/-- Settles O21: `takeDue` finds the first entry whose time has come, and `runEvent` holds it for its context or carries it out;
with nothing to take and no turn left, only the clock's tick remains. -/
theorem stepWithoutATurn : Obligations.StepWithoutATurn := by
  unfold Obligations.StepWithoutATurn
  refine ⟨fun s pre post due e ha hpre hd he => ?_, fun s hq ht => ?_⟩
  · have hstep := step_of_first_due ha hpre hd he
    refine ⟨fun q hq hf => hstep.trans (runEvent_frozen hq hf), fun hrun => ?_⟩
    have hdo : step s = doEvent e { s with agenda := pre ++ post } := hstep.trans (runEvent_running hrun)
    refine ⟨fun i hi => hdo.trans (doEvent_eq_exec hi _), event_is_instr_or_end e, ?_, ?_, ?_, ?_, ?_⟩
    · rintro stack pair rfl; exact hdo
    · rintro rfl; exact hdo
    · rintro x rfl; exact hdo
    · rintro k req rfl; exact hdo
    · rintro req rfl; exact hdo
  · have hstep := step_of_quiet_idle hq ht
    exact ⟨fun hon => ⟨by rw [hstep, if_pos hon], tick_ac s⟩, fun hoff => by rw [hstep, hoff]; rfl⟩

end Sys2Proof.Machine

/-! ## O32: the event that performs a store (R53, R230) -/

namespace Sys2Proof.Machine

/-- No virtual function logs dirty pages (R380). -/
def State.NoDirtyLog (s : State) : Prop := ∀ v ∈ s.hub.vfs, v.2.dirty = false

/-- From `s` to `t` no byte of memory changes, and no function begins to log dirty pages. -/
def State.KeepsBytes (s t : State) : Prop := t.store.mem = s.store.mem ∧ (s.NoDirtyLog → t.NoDirtyLog)

namespace State.KeepsBytes

theorem refl (s : State) : s.KeepsBytes s := ⟨rfl, id⟩

theorem trans {s t u : State} (h : s.KeepsBytes t) (k : t.KeepsBytes u) : s.KeepsBytes u :=
  ⟨k.1.trans h.1, k.2 ∘ h.2⟩

theorem of_eq {s t : State} (hm : t.store.mem = s.store.mem) (hv : t.hub.vfs = s.hub.vfs) : s.KeepsBytes t :=
  ⟨hm, fun h v hx => h v (hv ▸ hx)⟩

theorem byte {s t : State} (h : s.KeepsBytes t) (c : Nat) : t.byte c = s.byte c := by
  simp only [State.byte, h.1]

theorem foldl {α : Type} {f : State → α → State} (h : ∀ (t : State) (a : α), t.KeepsBytes (f t a)) (l : List α) (s : State) :
    s.KeepsBytes (l.foldl f s) :=
  List.foldlRecOn (motive := fun t : State => s.KeepsBytes t) l f (refl s) fun t ht a _ => ht.trans (h t a)

end State.KeepsBytes

/-! ### The gates of the rows (R382, R400) -/

theorem Tbl.mem_of_get? {α : Type} {t : Table α} {n : Nat} {x : α} (h : Tbl.get? t n = some x) : (n, x) ∈ t := by
  induction t with
  | nil => simp at h
  | cons p r ih =>
    obtain ⟨k, v⟩ := p
    rw [Tbl.get?_cons] at h
    split at h
    · cases h; subst_vars; exact List.mem_cons_self ..
    · exact List.mem_cons_of_mem _ (ih h)

theorem putVf_keepsBytes {s : State} {v : Nat} {x : Vf} (h : s.NoDirtyLog → x.dirty = false) : s.KeepsBytes (s.putVf v x) := by
  refine ⟨rfl, fun hs p hp => ?_⟩
  rcases Tbl.mem_ins hp with rfl | hp
  · exact h hs
  · exact hs p (Tbl.mem_del hp).1

theorem putHbm_keepsBytes (s : State) (t : Nat) (x : Stack) : s.KeepsBytes (s.putHbm t x) := .of_eq rfl rfl

theorem chargeVf_keepsBytes (s : State) (stack vf : Nat) : s.KeepsBytes (s.chargeVf stack vf) := by
  unfold State.chargeVf
  split
  next f hf => exact putVf_keepsBytes fun hs => hs _ (Tbl.mem_of_get? hf)
  next => exact .of_eq rfl rfl

theorem rowCount_keepsBytes (s : State) (t chan row tenant vf : Nat) : s.KeepsBytes (s.rowCount t chan row tenant vf) := by
  have hdraw : s.KeepsBytes s.drawn := .of_eq rfl rfl
  unfold State.rowCount
  split
  · dsimp only
    split
    · exact hdraw.trans (putHbm_keepsBytes ..)
    · split
      · exact hdraw.trans (putHbm_keepsBytes ..)
      · exact (hdraw.trans (putHbm_keepsBytes ..)).trans (chargeVf_keepsBytes ..)
  · exact hdraw

theorem lendShake_hub (s : State) (t pair code : Nat) : (s.lendShake t pair code).hub = s.hub := by
  unfold State.lendShake
  dsimp only
  split <;> rfl

theorem lendGate_keepsBytes (s : State) (t chan : Nat) (ev : Event) : s.KeepsBytes (s.lendGate t chan ev).1 := by
  refine .of_eq (lendGate_mem ..) ?_
  unfold State.lendGate
  dsimp only
  split
  · rfl
  · split
    · exact congrArg Hub.vfs (lendShake_hub ..)
    · rfl

theorem rowGate_keepsBytes (s : State) (pa vf : Nat) (ev : Event) : s.KeepsBytes (s.rowGate pa vf ev).1 := by
  unfold State.rowGate
  split
  · exact .refl s
  next t chan _ =>
    have hlend := lendGate_keepsBytes s t chan ev
    generalize s.lendGate t chan ev = r at hlend ⊢
    obtain ⟨u, lends⟩ := r
    dsimp only at hlend ⊢
    split
    · exact hlend
    · split
      · exact hlend.trans (putHbm_keepsBytes ..)
      · split
        · exact hlend.trans (.of_eq rfl rfl)
        · exact hlend.trans (rowCount_keepsBytes ..)

theorem rowGranted_keepsBytes (s : State) (ev : Event) (pa : Nat) : s.KeepsBytes (s.rowGranted ev pa) := by
  unfold State.rowGranted
  split
  · exact .refl s
  · exact putHbm_keepsBytes ..

theorem gateAll_keepsBytes (vf : Nat) (ev : Event) (accs : List Acc) (s : State) (passed : List Nat) :
    s.KeepsBytes (s.gateAll vf ev passed accs).1 := by
  induction accs generalizing s passed with
  | nil => exact .refl s
  | cons a r ih =>
    rw [State.gateAll]
    split
    · exact ih s passed
    · have hgate := rowGate_keepsBytes s a.pa vf ev
      dsimp only
      split
      · exact hgate.trans (.foldl (fun t pa => rowGranted_keepsBytes t ev pa) _ _)
      · exact hgate.trans (ih _ _)

theorem rowsPass_keepsBytes (s : State) (vf : Nat) (ev : Event) (accs : List Acc) : s.KeepsBytes (s.rowsPass vf ev accs).1 :=
  gateAll_keepsBytes vf ev accs s []

/-! ### What a write does besides its bytes (R315, R380, R416, R78) -/

theorem scrubLine_keepsBytes (s : State) (line : Nat) : s.KeepsBytes (s.scrubLine line) := by
  unfold State.scrubLine
  split
  · split
    · exact .of_eq rfl rfl
    · exact .refl s
  · exact .refl s

theorem scrubLines_keepsBytes (s : State) (a n : Nat) : s.KeepsBytes (s.scrubLines a n) := by
  unfold State.scrubLines
  split
  · exact .foldl scrubLine_keepsBytes _ s
  · exact .refl s

/-- Where no function logs dirty pages, a write marks none (R380). -/
theorem dirtyRing_of_noDirtyLog {s : State} (h : s.NoDirtyLog) (page : Nat) : s.dirtyRing page = s :=
  List.foldlRecOn (motive := fun t => t = s) s.hub.vfs _ rfl fun _ ht v hv => by simp [ht, h v hv]

theorem foldl_dirtyRing_of_noDirtyLog {s : State} (h : s.NoDirtyLog) (pages : List Nat) : pages.foldl State.dirtyRing s = s :=
  List.foldlRecOn (motive := fun t => t = s) pages _ rfl fun _ ht page _ => ht ▸ dirtyRing_of_noDirtyLog h page

theorem clearPoison_keepsBytes (s : State) (a n : Nat) : s.KeepsBytes (s.clearPoison a n) := by
  unfold State.clearPoison
  dsimp only
  split
  · exact .refl s
  · exact .of_eq rfl rfl

theorem modGroup_keepsBytes (s : State) (gid : Nat) (f : Group → Group) : s.KeepsBytes (s.modGroup gid f) := by
  unfold State.modGroup
  split
  · exact .of_eq rfl rfl
  · exact .refl s

theorem laterWithin_keepsBytes (s : State) (n : Nat) (e : Event) : s.KeepsBytes (s.laterWithin n e) := .of_eq rfl rfl

theorem at_keepsBytes (s : State) (due : Nat) (e : Event) : s.KeepsBytes (s.at due e) := .of_eq rfl rfl

theorem wakeCounters_keepsBytes (s : State) (a n : Nat) : s.KeepsBytes (s.wakeCounters a n) := by
  unfold State.wakeCounters
  refine ((State.KeepsBytes.foldl (fun t x => ?_) _ s).trans (.foldl (fun t x => ?_) _ _)).trans (.foldl (fun t x => ?_) _ _)
  · exact (modGroup_keepsBytes ..).trans (laterWithin_keepsBytes ..)
  · exact .of_eq rfl rfl
  · exact .of_eq rfl rfl

/-! ### A write as it is performed -/

/-- Where no function logs dirty pages, memory after a write is memory with the bytes put. -/
theorem write_mem {s : State} (h : s.NoDirtyLog) (a : Nat) (bs : List Byte) :
    (s.write a bs).store.mem = memWrite s.store.mem a bs := by
  unfold State.write
  split
  next hbs => simp [hbs, memWrite]
  next =>
    have hscrub := scrubLines_keepsBytes s a bs.length
    rw [foldl_dirtyRing_of_noDirtyLog (hscrub.2 h), (wakeCounters_keepsBytes ..).1, (clearPoison_keepsBytes ..).1, poke_mem,
      hscrub.1]

theorem write_noDirtyLog {s : State} (h : s.NoDirtyLog) (a : Nat) (bs : List Byte) : (s.write a bs).NoDirtyLog := by
  unfold State.write
  split
  · exact h
  · have hscrub := (scrubLines_keepsBytes s a bs.length).2 h
    rw [foldl_dirtyRing_of_noDirtyLog hscrub]
    exact (wakeCounters_keepsBytes ..).2 ((clearPoison_keepsBytes ..).2 hscrub)

@[simp] theorem storeBytes_fst (tol pa n data : Nat) : (storeBytes tol pa n data).1 = pa := by
  unfold storeBytes
  split <;> rfl

/-- An address is none of the bytes that an access writes; one to local store or to a kick page writes none of memory's. -/
def Acc.Outside (a : Acc) (c : Nat) : Prop :=
  a.team = none → inKick a.pa = false → c < a.pa ∨ a.pa + (storeBytes a.tol a.pa a.n a.data).2.length ≤ c

theorem writeAcc_of_memory (s : State) {a : Acc} (ht : a.team = none) (hk : inKick a.pa = false) :
    s.writeAcc a = s.write a.pa (storeBytes a.tol a.pa a.n a.data).2 := by
  simp [State.writeAcc, ht, hk]

theorem writeAcc_keepsBytes (s : State) {a : Acc} (h : a.team = none → inKick a.pa = true) : s.KeepsBytes (s.writeAcc a) := by
  unfold State.writeAcc
  split
  · exact .of_eq rfl rfl
  next ht => rw [if_pos (h ht)]; exact at_keepsBytes ..

theorem writeAcc_noDirtyLog {s : State} (h : s.NoDirtyLog) (a : Acc) : (s.writeAcc a).NoDirtyLog := by
  by_cases hk : a.team = none → inKick a.pa = true
  · exact (writeAcc_keepsBytes s hk).2 h
  · obtain ⟨ht, hk⟩ := Classical.not_imp.mp hk
    rw [writeAcc_of_memory s ht (Bool.eq_false_iff.mpr hk)]
    exact write_noDirtyLog h _ _

theorem byte_writeAcc_outside {s : State} (h : s.NoDirtyLog) {a : Acc} {c : Nat} (hc : a.Outside c) :
    (s.writeAcc a).byte c = s.byte c := by
  by_cases hk : a.team = none → inKick a.pa = true
  · exact (writeAcc_keepsBytes s hk).byte c
  · obtain ⟨ht, hk⟩ := Classical.not_imp.mp hk
    have hk := Bool.eq_false_iff.mpr hk
    rw [writeAcc_of_memory s ht hk, State.byte, write_mem h]
    exact memByte_memWrite_out _ _ _ _ (hc ht hk)

theorem foldl_writeAcc_outside {s : State} (h : s.NoDirtyLog) {accs : List Acc} {c : Nat} (hc : ∀ a ∈ accs, a.Outside c) :
    (accs.foldl State.writeAcc s).NoDirtyLog ∧ (accs.foldl State.writeAcc s).byte c = s.byte c :=
  List.foldlRecOn (motive := fun t : State => t.NoDirtyLog ∧ t.byte c = s.byte c) accs _ ⟨h, rfl⟩ fun _ ht a ha =>
    ⟨writeAcc_noDirtyLog ht.1 a, (byte_writeAcc_outside ht.1 (hc a ha)).trans ht.2⟩

/-- After the accesses' own writes only poison marks change (R416). -/
theorem writeAccs_keepsBytes (s : State) (accs : List Acc) : (accs.foldl State.writeAcc s).KeepsBytes (s.writeAccs accs) := by
  unfold State.writeAccs
  dsimp only
  split
  · exact .refl _
  · exact .foldl (fun t l => clearPoison_keepsBytes t (64 * l) 64) _ _

theorem byte_writeAccs_outside {s : State} (h : s.NoDirtyLog) {accs : List Acc} {c : Nat} (hc : ∀ a ∈ accs, a.Outside c) :
    (s.writeAccs accs).byte c = s.byte c :=
  ((writeAccs_keepsBytes s accs).byte c).trans (foldl_writeAcc_outside h hc).2

@[simp] theorem leBytes_length (n x : Nat) : (leBytes n x).length = n := by
  induction n generalizing x with
  | zero => rfl
  | succ n ih => simp [leBytes, ih]

/-- The bytes of a number, low byte first (R3). -/
theorem leBytes_getElem (n x k : Nat) (h : k < (leBytes n x).length) : (leBytes n x)[k] = BitVec.ofNat 8 (x / 2 ^ (8 * k)) := by
  induction n generalizing x k with
  | zero => simp at h
  | succ n ih =>
    cases k with
    | zero => simp [leBytes]
    | succ k =>
      have hdiv : x / 256 / 2 ^ (8 * k) = x / 2 ^ (8 * (k + 1)) := by
        rw [Nat.div_div_eq_div_mul, show 8 * (k + 1) = 8 + 8 * k by ring, Nat.pow_add]
      simp only [leBytes, List.getElem_cons_succ, ih, hdiv]

/-- One access to ordinary memory leaves exactly its bytes there. -/
theorem byte_writeAccs_single {s : State} (h : s.NoDirtyLog) {a : Acc} (ht : a.team = none) (hk : inKick a.pa = false)
    (htol : a.tol = 0) {k : Nat} (hlt : k < a.n) :
    (s.writeAccs [a]).byte (a.pa + k) = BitVec.ofNat 8 (a.data / 2 ^ (8 * k)) := by
  have hbytes : (storeBytes a.tol a.pa a.n a.data).2 = leBytes a.n a.data := by simp [storeBytes, htol]
  have hin : k < (leBytes a.n a.data).length := by simpa using hlt
  calc (s.writeAccs [a]).byte (a.pa + k)
      = (s.writeAcc a).byte (a.pa + k) := (writeAccs_keepsBytes s [a]).byte _
    _ = (leBytes a.n a.data)[k] := by
      rw [writeAcc_of_memory s ht hk, hbytes, State.byte, write_mem h, memByte_memWrite_in _ _ _ _ hin]
    _ = BitVec.ofNat 8 (a.data / 2 ^ (8 * k)) := leBytes_getElem ..

/-! ### A flight that has reached its event -/

theorem modFlight_keepsBytes (s : State) (gid id : Nat) (f : Flight → Flight) : s.KeepsBytes (s.modFlight gid id f) :=
  modGroup_keepsBytes ..

theorem dumpBreak_keepsBytes (s : State) (q : Nat) : s.KeepsBytes (s.dumpBreak q) := by
  unfold State.dumpBreak
  split
  · exact .of_eq rfl rfl
  · exact .refl s

theorem raiseHalt_keepsBytes (s : State) (q : Nat) (h : Halt) : s.KeepsBytes (s.raiseHalt q h) := by
  unfold State.raiseHalt
  dsimp only
  split
  · exact .refl s
  · split
    · exact (dumpBreak_keepsBytes s q).trans (.of_eq rfl rfl)
    · split <;> exact .of_eq rfl rfl

theorem putGroup_keepsBytes (s : State) (gid : Nat) (g : Group) : s.KeepsBytes (s.putGroup gid g) := .of_eq rfl rfl

theorem haltAt_keepsBytes (s : State) (gid cause value ord off : Nat) : s.KeepsBytes (s.haltAt gid cause value ord off) := by
  unfold State.haltAt
  split
  · exact .refl s
  · exact (putGroup_keepsBytes ..).trans (raiseHalt_keepsBytes ..)

theorem passPoint_keepsBytes (s : State) (gid sp ord off : Nat) : s.KeepsBytes (s.passPoint gid sp ord off) := by
  unfold State.passPoint
  split
  · exact .refl s
  · unfold State.putPassed
    split
    · exact (putGroup_keepsBytes ..).trans (haltAt_keepsBytes ..)
    · exact putGroup_keepsBytes ..

theorem resumeAfter_keepsBytes (s : State) (gid sp : Nat) (m : Marks) (len : Nat) :
    s.KeepsBytes (s.resumeAfter gid sp m len) := by
  unfold State.resumeAfter
  split
  · exact .refl s
  · dsimp only
    refine State.KeepsBytes.trans ?_ (.of_eq rfl rfl)
    split
    · exact (modGroup_keepsBytes ..).trans (passPoint_keepsBytes ..)
    · exact modGroup_keepsBytes ..

theorem wake_keepsBytes (s : State) (gid sp : Nat) : s.KeepsBytes (s.wake gid sp) := by
  unfold State.wake
  split
  · exact (modGroup_keepsBytes ..).trans (at_keepsBytes ..)
  · exact .refl s

theorem recheck_keepsBytes (s : State) (gid : Nat) : s.KeepsBytes (s.recheck gid) := by
  unfold State.recheck
  split
  · exact .refl s
  · refine .foldl (fun t x => ?_) _ s
    dsimp only
    split
    · split
      · exact .refl t
      · exact wake_keepsBytes ..
    · split
      · exact resumeAfter_keepsBytes ..
      · exact .refl t
    · split
      · exact .refl t
      · exact resumeAfter_keepsBytes ..
    · exact .refl t

theorem tryExit_keepsBytes (s : State) (gid : Nat) : s.KeepsBytes (s.tryExit gid) := by
  unfold State.tryExit
  split
  · exact .refl s
  · split
    · exact at_keepsBytes ..
    · exact .refl s

theorem settle_keepsBytes (s : State) (gid : Nat) : s.KeepsBytes (s.settle gid) := by
  have hs : s.KeepsBytes
      (((s.modGroup gid fun g => { g with flights := dropDone [] g.flights }).recheck gid).tryExit gid) :=
    ((modGroup_keepsBytes ..).trans (recheck_keepsBytes ..)).trans (tryExit_keepsBytes ..)
  unfold State.settle
  dsimp only
  split
  · split
    · exact hs.trans (at_keepsBytes ..)
    · exact hs
  · exact hs

theorem finishFlight_keepsBytes (s : State) (gid id : Nat) : s.KeepsBytes (s.finishFlight gid id) :=
  (modFlight_keepsBytes ..).trans (settle_keepsBytes ..)

/-! ### A step of a store (R34) -/

/-- The pieces put together again are the accesses in order. -/
theorem splitPieces_append (l : List Acc) : (splitPieces l).1 ++ (splitPieces l).2 = l := by
  induction l using splitPieces.induct with
  | case1 a b r hb => simp [splitPieces, hb]
  | case2 a b r hb ih => simp [splitPieces, hb, ih]
  | case3 l hl => simp [splitPieces]

theorem splitPieces_fst_of_snd_nil {l : List Acc} (h : (splitPieces l).2 = []) : (splitPieces l).1 = l := by
  simpa [h] using splitPieces_append l

/-- The accesses performed together are accesses of the store. -/
theorem mem_of_mem_splitPieces {l : List Acc} {x : Acc} (h : x ∈ (splitPieces l).1) : x ∈ l :=
  splitPieces_append l ▸ List.mem_append_left _ h

theorem storeStep_last (s : State) (gid id : Nat) {f : Flight} (h : (splitPieces f.acc).2 = []) :
    s.storeStep gid id f = (s.writeAccs f.acc).finishFlight gid id := by
  simp [State.storeStep, h, splitPieces_fst_of_snd_nil h]

theorem storeStep_rest (s : State) (gid id : Nat) {f : Flight} (h : (splitPieces f.acc).2 ≠ []) :
    s.storeStep gid id f = ((s.writeAccs (splitPieces f.acc).1).modFlight gid id fun x => { x with
      acc := (splitPieces f.acc).2 }).later (.storePerformed gid id) := by
  simp [State.storeStep, h]

/-- Either way a step of a store ends, memory is as its accesses' writes have left it. -/
theorem byte_storeStep (s : State) (gid id : Nat) (f : Flight) (c : Nat) :
    (s.storeStep gid id f).byte c = (s.writeAccs (splitPieces f.acc).1).byte c := by
  by_cases h : (splitPieces f.acc).2 = []
  · rw [storeStep_last s gid id h, splitPieces_fst_of_snd_nil h, (finishFlight_keepsBytes ..).byte]
  · rw [storeStep_rest s gid id h, byte_later, (modFlight_keepsBytes ..).byte]

/-- A store that no earlier flight and no row holds up takes a step. -/
theorem exec_storePerformed {s s' : State} {gid id : Nat} {g : Group} {f : Flight} (hg : s.group? gid = some g)
    (hf : g.flight? id = some f) (hk : f.kind = .store) (hh : g.heldFlight f = false)
    (hp : s.rowsPass (s.vfOfGroup g) (.storePerformed gid id) f.acc = (s', false)) :
    exec (.storePerformed gid id) s = .next (s'.storeStep gid id f) := by
  change execStorePerformed gid id s = _
  simp [execStorePerformed, hg, hf, hk, hh, hp]

/-- Settles O32: the rows' gates change no byte, each access's write puts its own bytes alone, and what follows, the clearing of
poison and the flight's end, changes none again. -/
theorem storePerformed : Obligations.StorePerformed := by
  unfold Obligations.StorePerformed
  intro s s' gid id g f hg hf hk hh hp hd
  have hexec := exec_storePerformed hg hf hk hh hp
  have hgate : s.KeepsBytes s' := by
    have h := rowsPass_keepsBytes s (s.vfOfGroup g) (.storePerformed gid id) f.acc
    rwa [hp] at h
  have hd' : s'.NoDirtyLog := hgate.2 hd
  refine ⟨fun h => by rw [hexec, storeStep_last s' gid id h], fun h => by rw [hexec, storeStep_rest s' gid id h], ?_⟩
  intro u hu
  obtain rfl : s'.storeStep gid id f = u := by simpa [hexec] using hu
  refine ⟨fun c hc => ?_, fun a ha ht hkick htol k hlt => ?_⟩
  · rw [byte_storeStep, byte_writeAccs_outside hd' fun a ha => hc a (mem_of_mem_splitPieces ha), hgate.byte]
  · rw [byte_storeStep, ha]
    exact byte_writeAccs_single hd' ht hkick htol hlt

end Sys2Proof.Machine

/-! ## O20: a step runs the instruction at the pc (R162, R165, R167, R338) -/

namespace Sys2Proof

/-! ### Words and what they decode to -/

/-- The class and opcode of an Amitia instruction (Tables 6 and 7 of ch08). -/
def Instr.opcode (i : Instr) : Option (Bool × Nat) := i.toRaw.map fun r => (r.u, r.op)

theorem opcode_of_map {α : Type} {f : Option α} {c : α → Instr} {i : Instr} {k : Option (Bool × Nat)} (h : f.map c = some i)
    (hc : ∀ x, (c x).opcode = k) : i.opcode = k := by
  obtain ⟨x, -, rfl⟩ := Option.map_eq_some_iff.mp h
  exact hc x

theorem decTLBI_opcode {r : Raw} {i : Instr} (h : r.decTLBI = some i) : i.opcode = some (true, 114) := by
  simp only [Raw.decTLBI, Option.bind_eq_bind, Option.bind_eq_some_iff] at h
  obtain ⟨-, -, k, -, h⟩ := h
  split at h
  · obtain ⟨-, -, h⟩ := Option.bind_eq_some_iff.mp h
    cases h; rfl
  · obtain ⟨a, -, h⟩ := Option.bind_eq_some_iff.mp h
    split at h <;> cases h <;> rfl

theorem decPART_opcode {r : Raw} {i : Instr} (h : r.decPART = some i) : i.opcode = some (true, 120) := by
  simp only [Raw.decPART, Option.bind_eq_bind, Option.bind_eq_some_iff] at h
  obtain ⟨d, -, a, -, c, -, k, -, h⟩ := h
  split at h <;> cases h <;> rfl

theorem toU_opcode {r : Raw} {i : Instr} (h : r.toU = some i) : i.opcode = some (true, r.op) := by
  unfold Raw.toU at h
  split at h
  case h_89 hop => exact hop ▸ decTLBI_opcode h
  case h_95 hop => exact hop ▸ decPART_opcode h
  case h_98 => cases h
  all_goals rename_i hop; exact hop ▸ opcode_of_map h fun _ => rfl

theorem toV_opcode {r : Raw} {i : Instr} (h : r.toV = some i) : i.opcode = some (false, r.op) := by
  unfold Raw.toV at h
  split at h
  case h_102 => cases h
  all_goals rename_i hop; exact hop ▸ opcode_of_map h fun _ => rfl

/-- Fields name an instruction of their own class and opcode. -/
theorem toInstr_opcode {r : Raw} {i : Instr} (h : r.toInstr = some i) : i.opcode = some (r.u, r.op) := by
  unfold Raw.toInstr at h
  split at h
  next hu => rw [hu]; exact toU_opcode h
  next hu => rw [Bool.not_eq_true] at hu; rw [hu]; exact toV_opcode h

theorem takeFld_length {code : Nat} {ws rest : List W32} {f : Fld} (h : takeFld code ws = .ok (f, rest)) :
    ws.length = litCount code + rest.length := by
  unfold takeFld at h
  unfold litCount
  split at h
  · split at h <;> cases h
    simp [*, Nat.add_comm]
  · split at h
    · split at h <;> cases h
      simp [*]; omega
    · cases h; simp [*]

/-- A field without a literal holds its own code. -/
theorem takeFld_code {code n : Nat} {ws rest : List W32} (h : takeFld code ws = .ok (.code n, rest)) : n = code := by
  unfold takeFld at h
  split at h
  · split at h <;> cases h
  · split at h
    · split at h <;> cases h
    · cases h; rfl

theorem code_of_codeIf {p : Nat → Bool} {f : Fld} {k : Nat} (h : f.codeIf p = some k) : f = .code k := by
  unfold Fld.codeIf at h
  split at h
  · split at h <;> cases h
    rfl
  · cases h

theorem takeCtl_length {u : Bool} {op : Nat} {ws rest : List W32} {c : Option W32} (h : takeCtl u op ws = .ok (c, rest)) :
    ws.length = b01 (hasCtl u op) + rest.length := by
  unfold takeCtl at h
  split at h
  next hc =>
    split at h <;> cases h
    simp [hc, b01, Nat.add_comm]
  next hc => cases h; simp [hc, b01]

/-- What taking words apart says of the base word: the class, the opcode, the code of C, and how many words were taken (R148,
R149). -/
theorem parse_base {base : W32} {ws rest : List W32} {r : Raw} (h : parse (base :: ws) = .ok (r, rest)) :
    bitOf base.toNat 28 = r.u ∧ fieldOf base.toNat 21 7 = r.op ∧ (∀ n, r.c = .code n → n = fieldOf base.toNat 0 7)
      ∧ (base :: ws).length = wordCount base + rest.length ∧ wordCount base ≤ 4 := by
  simp only [parse] at h
  split at h
  · cases h
  · split at h
    · cases h
    next hlen =>
      split at h
      · cases h
      next ctl ws₁ hctl =>
        split at h
        · cases h
        next a ws₂ ha =>
          split at h
          · cases h
          next c ws₃ hc =>
            cases h
            refine ⟨rfl, rfl, ?_, ?_, Nat.le_of_not_lt hlen⟩
            · rintro n rfl
              exact takeFld_code hc
            · simp only [List.length_cons, wordCount, takeCtl_length hctl, takeFld_length ha, takeFld_length hc]
              omega

theorem decode_ok {ws rest : List W32} {i : Instr} (h : decode ws = .ok (i, rest)) :
    ∃ r, parse ws = .ok (r, rest) ∧ r.toInstr = some i := by
  unfold decode at h
  split at h
  · cases h
  next r _ hp =>
    split at h
    next hi => cases h; exact ⟨r, hp, hi⟩
    · cases h

/-! ### Every instruction's round trip -/

/-- Each instruction's words decode to it, by the instruction's own theorem. -/
theorem roundTrip (i : Instr) : Laws.RoundTrip.Statement i :=
  open Laws.RoundTrip in
  Instr.rec (motive := Statement)
    iadd isub imul imulh imad imin imax iabs ineg andV orV xorV andn notV shl shr sar rotl bfx bfi popc clz ctz brev idp4
    idiv irem mov sel icmp mulw prmt iaddU isubU imulU imulhU imadU iminU imaxU iabsU inegU andU orU xorU andnU notU shlU
    shrU sarU rotlU bfxU bfiU popcU clzU ctzU brevU movU icmpU fadd fsub fmul ffma fmin fmax fabs fneg fcmp frcp frsq
    fsqrt fexp2 flog2 fsin fcos fdiv frnd fclass fdot2 cvt cvtpk cvtn8 cvtn4 cvtw pack6 unpk6 mxsc cmpr24 srseed shfl
    shflx shflup shfldn redadd redmin redmax redand redor redxor minidx maxidx scanadd matchV ld st ldl stl ldl4 stl4 gld
    gst ldacq strel stnt pref atomv redv acrd acwr pand por pxor pandn pset pget cpy publish mma bra brq brv jmpi call
    calli ret exit join yield trap bkpt spawn readlane vote ballot setmode getmode modef waitc mfence mwait fence ntdrain
    bararr barwait barsync bardef ctradd ctrwait sread swrite ldu stu atom redu lduacq sturel mmag msetaux aczero accpy
    cbdrain cbsave cbload cbmerge cbclr cbdrainw tdep tcopy ttake tcancel ecreate eenter eexit edestroy pgassign pgseal
    pgunseal ctxseal ctxcommit ctxload tlbiAll tlbiPage tlbiSpace syscall hvcall eret wfi corerst partctlQuiesce
    partctlWriteilv partctlWritebnd partctlShoot partctlResume freeze ctxabort sketchNop sketchMovi sketchAdd sketchSub
    sketchAnd sketchOr sketchShl sketchShr sketchMask sketchCmp sketchSel sketchBeq sketchBne sketchLoop sketchEndl
    sketchLdq sketchLdreg sketchStreg sketchLaunch sketchSignal sketchWait sketchIrq sketchDone sketchDrop sketchFault
    fixedLatencyWriteback variableLatencyResult runStart runEndMerge groupExit teamResourceFree teamPlacement taskComplete
    spawnAccept progressSwap syncEngineLineReturn atomicPerformed storePerformed fbreplayRetry fbreplayAbandon
    copyUnitTransfer sourceReleased landed published deferredArrival publishPoint publishComplete barrierPhaseComplete
    ctrwaitWake operationAcceptance matrixPass batchComplete tdepServe tcopyServe ttakeServe tcancelServe skidEnd
    cxvacClaim cxvacRelease claimComplete kick qctlEnable qctlSkip easelAssign launchCommit queueWaitWake rcmdWrite
    rcmdInval skcmdLoad skcmdUnload scrub trapEntry wfiWake vectorDelivery vfEnable vfDisable vfFlr flrComplete vfHarvest
    vfqcmdExport vfqcmdImport partitionReset prcfgWrite lendreqWrite lendReclaim lendThermalReclaim refresh
    throttleRelease patrol keySwitch linkRetransmit uncorrectableControlError dmpcmdStart firmwareActivation getVersion
    getCapabilities negotiateAlgorithms getDigests getCertificate challenge getMeasurements keyExchange finish heartbeat
    keyUpdate endSession getEnclaveEvidence podForm getPodPath trctlEnable chunkFlush lossMark stallSample stepon stepoff
    goStep powerOn limitStep thermalStep thermalTrip pgateGate pgateUngate registerWrite undefOpcode inboundDeviceAccess
    tdispRequest ideKmRequest completionTimeout modulePowerOff threadStart firmwareStaging pclkCapWrite    i

theorem decode_encode_amitia {i : Instr} {r : Raw} (h : WellFormed i) (hr : i.toRaw = some r) :
    decode (encode i) = .ok (i, []) := by
  have h := roundTrip i h
  rw [hr] at h
  simpa using h []

theorem toRaw_of_toSketch {i : Instr} (h : i.toSketch.isSome = true) : i.toRaw = none := by
  cases i
  case sketchNop | sketchMovi | sketchAdd | sketchSub | sketchAnd | sketchOr | sketchShl | sketchShr | sketchMask | sketchCmp
    | sketchSel | sketchBeq | sketchBne | sketchLoop | sketchEndl | sketchLdq | sketchLdreg | sketchStreg | sketchLaunch
    | sketchSignal | sketchWait | sketchIrq | sketchDone | sketchDrop | sketchFault => rfl
  all_goals cases h

theorem decodeSketch_encode {i : Instr} {w : W32} (h : WellFormed i) (hs : i.toSketch.isSome = true) (he : encode i = [w]) :
    decodeSketch w = some i := by
  have h := roundTrip i h
  rw [toRaw_of_toSketch hs] at h
  obtain ⟨x, hx⟩ := Option.isSome_iff_exists.mp hs
  rw [hx] at h
  obtain ⟨w', hw', hd⟩ := h
  rw [he] at hw'
  cases hw'
  exact hd

/-- The first word of an Amitia instruction holds its class and opcode, and gives its length (R148, R149). -/
theorem encode_base {i : Instr} {r : Raw} (h : WellFormed i) (hr : i.toRaw = some r) :
    ∃ base tl, encode i = base :: tl ∧ bitOf base.toNat 28 = r.u ∧ fieldOf base.toNat 21 7 = r.op
      ∧ min 4 (wordCount base) = (encode i).length := by
  have hd := decode_encode_amitia h hr
  obtain ⟨p, hp, hi⟩ := decode_ok hd
  have he : encode i = r.baseWord :: (r.ctl.toList ++ r.a.trailer ++ r.c.trailer) := by simp [encode, hr, Raw.words]
  refine ⟨_, _, he, ?_⟩
  rw [he] at hp
  obtain ⟨hu, hop, -, hlen, h4⟩ := parse_base hp
  obtain ⟨hru, hrop⟩ : r.u = p.u ∧ r.op = p.op := by simpa [Instr.opcode, hr] using toInstr_opcode hi
  refine ⟨hu.trans hru.symm, hop.trans hrop.symm, ?_⟩
  rw [he, hlen, Nat.min_eq_right h4]
  rfl

end Sys2Proof

namespace Sys2Proof.Machine

/-! ### Fetching and the turns of agents -/

theorem fetchWords_head {f : Nat → Except Nat W32} {pc n : Nat} {base : W32} {tl : List W32}
    (h : fetchWords f pc n = .ok (base :: tl)) : f pc = .ok base := by
  cases n with
  | zero => cases h
  | succ n =>
    rw [fetchWords] at h
    split at h
    · cases h
    next w hw =>
      split at h <;> cases h
      exact hw

/-- A split that may issue, whose words are those of an instruction that SIMT groups have, runs it (R162 to R167). -/
theorem turnSimt_exec {s : State} {gid sp : Nat} {g : Group} {p : Split} {i : Instr} {r : Raw} (h : s.AtSplit gid sp g p)
    (hm : s.mayIssue gid sp g = true) (hw : WellFormed i) (hr : i.toRaw = some r) (hu : undefSimt r.u r.op = false)
    (hf : fetchWords (s.fetchSimt g.place.ctx) p.pc.toNat (encode i).length = .ok (encode i)) :
    s.turnSimt gid sp = exec i s := by
  obtain ⟨-, hg, hp⟩ := h
  obtain ⟨base, tl, he, hbu, hbop, hlen⟩ := encode_base hw hr
  have hbase : s.fetchSimt g.place.ctx p.pc.toNat = .ok base := fetchWords_head (he ▸ hf)
  unfold State.turnSimt
  simp [hg, hp, hm, hbase, hbu, hbop, hu, hlen, hf, decode_encode_amitia hw hr]

/-- The level that a word asks for is its opcode's, or that of the special register that an SREAD or SWRITE names (R167, R199). -/
theorem wordLevel_of_decode {base : W32} {tl rest : List W32} {i : Instr} (h : decode (base :: tl) = .ok (i, rest)) :
    wordLevel base = opLevel (fieldOf base.toNat 21 7)
      ∨ ∃ k, wordLevel base = sprLevel k ∧ ((∃ x, i = .sread x ∧ x.code = k) ∨ ∃ x, i = .swrite x ∧ x.code = k) := by
  obtain ⟨p, hp, hi⟩ := decode_ok h
  obtain ⟨hu, hop, hc, -, -⟩ := parse_base hp
  unfold wordLevel
  dsimp only
  split
  next hspr =>
    simp only [Bool.and_eq_true, Bool.or_eq_true, beq_iff_eq, hu, hop] at hspr
    obtain ⟨⟨hpu, hpop⟩, -⟩ := hspr
    refine .inr ⟨_, rfl, ?_⟩
    rcases hpop with hpop | hpop
    · simp only [Raw.toInstr, hpu, Raw.toU, hpop, if_true, Option.map_eq_some_iff] at hi
      obtain ⟨x, hx, rfl⟩ := hi
      simp only [Raw.decUDCODE, Option.bind_eq_bind, Option.bind_eq_some_iff] at hx
      obtain ⟨d, -, -, -, k, hk, hx⟩ := hx
      cases hx
      exact .inl ⟨_, rfl, hc k (code_of_codeIf hk)⟩
    · simp only [Raw.toInstr, hpu, Raw.toU, hpop, if_true, Option.map_eq_some_iff] at hi
      obtain ⟨x, hx, rfl⟩ := hi
      simp only [Raw.decUACODE, Option.bind_eq_bind, Option.bind_eq_some_iff] at hx
      obtain ⟨-, -, a, -, k, hk, hx⟩ := hx
      cases hx
      exact .inr ⟨_, rfl, hc k (code_of_codeIf hk)⟩
  next => exact .inl rfl

/-- An SREAD or SWRITE of a register above the thread's level is a PRIV fault (R199, R270). -/
theorem exec_spr_priv {s : State} {tid : Nat} {t : Thread} (h : s.AtThread tid t) {i : Instr} {k : Nat}
    (hi : (∃ x, i = .sread x ∧ x.code = k) ∨ ∃ x, i = .swrite x ∧ x.code = k) (hl : t.lvl < sprLevel k) :
    exec i s = .next (s.threadFault tid 5 0) := by
  have hp : t.sprPriv k = true := decide_eq_true hl
  rcases hi with ⟨x, rfl, rfl⟩ | ⟨x, rfl, rfl⟩
  · change execSread x s = _
    rw [execSread, issuer_thread h, if_pos hp]
  · change execSwrite x s = _
    rw [execSwrite, issuer_thread h, if_pos hp]

/-- Caching a translation changes neither the threads nor the turns. -/
theorem tlbFill_hub (s : State) (t : Thread) (part va : Nat) :
    ((s.tlbFill t part va).hub.threads = s.hub.threads) ∧ (s.tlbFill t part va).turns = s.turns := by
  unfold State.tlbFill
  split
  · exact ⟨rfl, rfl⟩
  · split
    · exact ⟨rfl, rfl⟩
    · split <;> exact ⟨rfl, rfl⟩

theorem atThread_tlbFill {s : State} {tid : Nat} {t : Thread} (h : s.AtThread tid t) (u : Thread) (part va : Nat) :
    (s.tlbFill u part va).AtThread tid t := by
  obtain ⟨hthreads, hturns⟩ := tlbFill_hub s u part va
  refine ⟨hturns ▸ h.1, ?_⟩
  rw [← h.2, State.thread, State.thread, hthreads]

/-- A control thread that issues, whose words are those of an instruction of its level, runs it (R160, R165, R167). -/
theorem turnThread_exec {s : State} {tid : Nat} {t : Thread} {i : Instr} {r : Raw} (h : s.AtThread tid t)
    (hrun : t.running = true) (hwfi : t.wfi = false) (hwait : t.wait = none) (htup : t.tupleWait = none)
    (hw : WellFormed i) (hr : i.toRaw = some r) (hu : undefThread r.u r.op = false) (hl : opLevel r.op ≤ t.lvl)
    (hf : fetchWords ((s.tlbFill t (s.partOfThread tid) t.pc.toNat).fetchThread tid) t.pc.toNat (encode i).length
      = .ok (encode i)) :
    s.turnThread tid = exec i (s.tlbFill t (s.partOfThread tid) t.pc.toNat) := by
  have hat := atThread_tlbFill h t (s.partOfThread tid) t.pc.toNat
  obtain ⟨base, tl, he, hbu, hbop, hlen⟩ := encode_base hw hr
  have hbase := fetchWords_head (he ▸ hf)
  have hd := decode_encode_amitia hw hr
  unfold State.turnThread
  simp only [h.2, hrun, hwfi, hwait, htup, hbase, hbu, hbop, hu, hlen, hf, hd, Bool.not_true, Option.isSome_none, Bool.or_false,
    Bool.false_eq_true, if_false]
  split
  next hlow =>
    rcases wordLevel_of_decode (he ▸ hd) with hword | ⟨k, hword, hspr⟩
    · rw [hword, hbop] at hlow
      exact absurd hl (Nat.not_le.mpr hlow)
    · exact (exec_spr_priv hat hspr (hword ▸ hlow)).symm
  next => rfl

/-- A running queue whose packet is not in commit runs the next word of its sketch (R335, R338). -/
theorem turnEasel_exec {s : State} {q : Nat} {k : Packet} {c : Sketch} {i : Instr} {w : W32} (hk : (s.queue q).pkt = some k)
    (hq : (s.queue q).state = 3) (hcommit : k.commit = none)
    (hc : s.sketch? (s.partOfQueue q) (s.queue q).sketch = some c) (hw : c.words[8 + k.pc]? = some w)
    (hd : decodeSketch w = some i) : s.turnEasel q = exec i s := by
  unfold State.turnEasel
  simp [hk, hq, hcommit, hc, hw, hd]

/-- The turn of an agent. -/
def State.turn (s : State) : Agent → Out
  | .split gid sp => s.turnSimt gid sp
  | .thread t => s.turnThread t
  | .easel q => s.turnEasel q

/-- With nothing due, the step is the turn of the agent at the head. -/
theorem step_of_quiet_turn {s : State} (hq : s.quiet) {a : Agent} (ha : s.turns.head? = some a) : step s = s.turn a := by
  obtain ⟨r, hr⟩ := List.head?_eq_some_iff.mp ha
  have hnone := takeDue_none s s.agenda hq
  unfold step
  rw [hnone]
  dsimp only
  rw [hr]
  cases a <;> rfl

/-- Settles O20: with nothing due the step is the turn of the agent at the head, and the words fetched at its pc decode to the
instruction they are the encoding of. -/
theorem stepRunsDecoded : Obligations.StepRunsDecoded := by
  unfold Obligations.StepRunsDecoded
  refine ⟨fun s gid sp g p i r hq hat hm hw hr hu hf => ?_, fun s tid t i r hq hat hrun hwfi hwait htup hw hr hu hl hf => ?_,
    fun s q k c i hq hturn hk hstate hcommit hc hw hs ⟨w, he, hword⟩ => ?_⟩
  · exact (step_of_quiet_turn hq hat.1).trans (turnSimt_exec hat hm hw hr hu hf)
  · exact (step_of_quiet_turn hq hat.1).trans (turnThread_exec hat hrun hwfi hwait htup hw hr hu hl hf)
  · exact (step_of_quiet_turn hq hturn).trans (turnEasel_exec hk hstate hcommit hc hword (decodeSketch_encode hw hs he))

end Sys2Proof.Machine

/-! ## O24: what the issue of an instruction does to its split (R25, R148, R161) -/

namespace Sys2Proof.Machine

/-- The split after an instruction that passes no safe point: at its next address, its run counted on or ended. -/
def Split.issued (p : Split) (ac : Nat) (m : Marks) (len : Nat) (next : Option W64) (park : Option Park) : Split :=
  { p with
    pc := next.getD (p.pc + BitVec.ofNat 64 (4 * len))
    run := if m.b || m.w || park.isSome then 0 else p.run + 1
    ready := false
    readyAt := if m.b || m.w || park.isSome then ac + 4 else p.readyAt
    passed := 0
    park := park
    wpend := m.w
    pieces := p.pieces.map fun x => { x with off := x.off + 1 }
    spQ := p.spQ.map fun x => { x with off := x.off + 1 } }

/-- Where no safe point is at the next address, the bookkeeping is that of the split's run and its scheduler's. -/
theorem advance_without_point {s : State} {gid sp : Nat} {g : Group} {p : Split} (hg : s.group? gid = some g)
    (hp : g.split? sp = some p) (m : Marks) (len : Nat) (fixed : Bool) (next : Option W64) (park : Option Park)
    (hord : (if m.s || next.isSome then s.ordinalOf g (next.getD (p.pc + BitVec.ofNat 64 (4 * len))) else none) = none) :
    s.advance gid sp m len fixed next park
      = ((let u := s.putGroup gid (g.putSplit sp (p.issued s.ac m len next park))
          if m.b || m.w || park.isSome then
            (if park.isNone then u.at (s.ac + 4) (.runEndMerge gid sp) else u).putSched g.place.schedNo none
          else u).noteIssue gid sp g).pop := by
  unfold State.advance
  simp only [hg, hp, hord, Split.issued, Option.isSome_none, Bool.and_false, Bool.or_false, List.append_nil, putGroup_ac]

/-- Beside the group and the schedulers' records, an issue at no safe point ends the turn and nothing else. -/
theorem advance_without_point_frame {s : State} {gid sp : Nat} {g : Group} {p : Split} (hg : s.group? gid = some g)
    (hp : g.split? sp = some p) (m : Marks) (len : Nat) (fixed : Bool) (next : Option W64) (park : Option Park)
    (hord : (if m.s || next.isSome then s.ordinalOf g (next.getD (p.pc + BitVec.ofNat 64 (4 * len))) else none) = none) :
    let t := s.advance gid sp m len fixed next park
    t.simt.groups = (s.putGroup gid (g.putSplit sp (p.issued s.ac m len next park))).simt.groups
      ∧ t.turns = s.turns.tail ∧ t.store = s.store ∧ t.hub = s.hub ∧ t.ac = s.ac := by
  rw [advance_without_point hg hp m len fixed next park hord]
  dsimp only
  split
  · split <;> exact ⟨rfl, rfl, rfl, rfl, rfl⟩
  · exact ⟨rfl, rfl, rfl, rfl, rfl⟩

theorem split?_putSplit_same (g : Group) (sp : Nat) (p : Split) : (g.putSplit sp p).split? sp = some p := Tbl.get?_put_same ..

theorem split?_putSplit_other (g : Group) {sp i : Nat} (p : Split) (h : i ≠ sp) : (g.putSplit sp p).split? i = g.split? i :=
  Tbl.get?_put_other _ _ h

/-- Settles O24: at no safe point `advance` puts the split of `Split.issued` in its group, ends the turn, and does nothing else. -/
theorem issueBookkeeping : Obligations.IssueBookkeeping := by
  unfold Obligations.IssueBookkeeping
  intro s gid sp g p m len fixed next park hg hp _ _ hpoint
  have hord : (if m.s || next.isSome then s.ordinalOf g (next.getD (p.pc + BitVec.ofNat 64 (4 * len))) else none) = none := by
    rcases hpoint with ⟨hs, hn⟩ | hnone
    · simp [hs, hn]
    · rw [hnone, ite_self]
  obtain ⟨hgroups, hturns, hstore, hhub, hac⟩ := advance_without_point_frame hg hp m len fixed next park hord
  have hgroup (k : Nat) : (s.advance gid sp m len fixed next park).group? k
      = (s.putGroup gid (g.putSplit sp (p.issued s.ac m len next park))).group? k := by
    rw [State.group?, hgroups, State.group?]
  refine ⟨g.putSplit sp (p.issued s.ac m len next park), p.issued s.ac m len next park, ?_, split?_putSplit_same .., rfl, rfl, rfl,
    rfl, rfl, rfl, rfl, rfl, rfl, rfl, rfl, rfl, rfl, fun i hi => split?_putSplit_other g _ hi, fun k hk => ?_, hturns, hstore, hhub,
    hac⟩
  · rw [hgroup, group?_putGroup_same]
  · rw [hgroup, group?_putGroup_other s _ hk]

end Sys2Proof.Machine

/-! ## O27: divergence, JOIN, EXIT, YIELD, TRAP and BKPT on a group (R193 to R195, R198) -/

namespace Sys2Proof.Machine

/-- A direct branch whose offset is a multiple of 4 has its target (R162). -/
theorem direct_of_aligned (pc : W64) {off : W32} (h : off.toNat % 4 = 0) : direct pc off = .ok (pc + off.signExtend 64) := by
  simp [direct, offBad, directTarget, h]

section Splits

variable {s : State} {gid sp : Nat} {g : Group} {p : Split}

theorem execBrv_next (x : BrvI) (h : s.AtSplit gid sp g p)
    (hp : g.Passes p (Spec.branch { x.m with s := false } 2 false [codeP x.p] []) p.mask) (halign : x.off.toNat % 4 = 0) :
    execBrv x s = .next (((s.tracePacket gid 4 none true
      (BitVec.ofNat 8 (divergeByte g sp (brvTaken x (s.rdSplit g sp p)) p.mask
        (decide (p.pc + x.off.signExtend 64 = p.pc + 8#64))) :: leBytes 4 (brvTaken x (s.rdSplit g sp p)).toNat)).advance gid sp
          { x.m with s := false } 2 false none none).divide gid sp (brvTaken x (s.rdSplit g sp p)) (p.pc + x.off.signExtend 64)
            (p.pc + 8#64) x.m |>.syncDue gid) :=
  simtOnly_next h hp (d := ⟨_, none, none, fun t => (t.divide gid sp (brvTaken x (s.rdSplit g sp p)) (p.pc + x.off.signExtend 64)
    (p.pc + 8#64) x.m).syncDue gid⟩) (by simp only [direct_of_aligned _ halign]; rfl)

theorem execJoin_next (x : Op0) (h : s.AtSplit gid sp g p) (hp : g.Passes p (Spec.branch x.m 1 false [] []) p.mask) :
    execJoin x s = .next (((s.advance gid sp x.m 1 false none (some .join)).modSplit gid sp fun q =>
      { q with pc := p.pc }).joinStep gid g) :=
  simtOnly_next h hp (d := ⟨s, none, some .join, fun t => (t.modSplit gid sp fun q => { q with pc := p.pc }).joinStep gid g⟩) rfl

theorem execExit_split (x : Op0) (h : s.AtSplit gid sp g p) (hp : g.Passes p (Spec.branch x.m 1 false [] []) p.mask) :
    execExit x s = .next (((s.tracePacket gid 7 none true [BitVec.ofNat 8 sp]).advance gid sp x.m 1 false none none).endSplit gid
      sp |>.syncDue gid) :=
  uniBoth_split h hp (d := ⟨s.tracePacket gid 7 none true [BitVec.ofNat 8 sp], none, none,
    fun t => (t.endSplit gid sp).syncDue gid⟩) rfl

theorem execYield_split (x : Op0) (h : s.AtSplit gid sp g p) (hp : g.Passes p (Spec.branch x.m 1 false [] []) p.mask) :
    execYield x s = .next ((s.advance gid sp x.m 1 false none none).modSplit gid sp fun q => { q with yielded := true }) :=
  uniBoth_split h hp (d := ⟨s, none, none, fun t => t.modSplit gid sp fun q => { q with yielded := true }⟩) rfl

theorem execTrap_split (x : Op1) (h : s.AtSplit gid sp g p) (hp : g.Passes p (trapSpec x) p.mask) :
    execTrap x s = .next ((s.advance gid sp x.m x.len false none none).haltGroup gid sp 0x0F
      (((s.rdSplit g sp p).uni x.a).toNat % 2 ^ 16)) :=
  uniBoth_split h hp (d := ⟨s, none, none, fun t =>
    t.haltGroup gid sp 0x0F (((s.rdSplit g sp p).uni x.a).toNat % 2 ^ 16)⟩) rfl

/-- BKPT halts its context only under DEBUG policy (R198). -/
theorem execBkpt_split (x : Op1) (h : s.AtSplit gid sp g p) (hp : g.Passes p (trapSpec x) p.mask) :
    execBkpt x s = .next (if bitOf (s.policyOf (s.ctx g.place.ctx).eid) 0 then
      (s.advance gid sp x.m x.len false none none).haltGroup gid sp 0x10 (((s.rdSplit g sp p).uni x.a).toNat % 2 ^ 16)
      else s.advance gid sp x.m x.len false none none) :=
  uniBoth_split h hp (d := ⟨s, none, none, fun t => if bitOf (s.policyOf (s.ctx g.place.ctx).eid) 0 then
    t.haltGroup gid sp 0x10 (((s.rdSplit g sp p).uni x.a).toNat % 2 ^ 16) else t⟩) rfl

end Splits

/-- Settles O27: each instruction's body answers on a group, and what follows the bookkeeping of its issue is its own effect. -/
theorem splitControl : Obligations.SplitControl := by
  unfold Obligations.SplitControl
  rintro s gid sp g p rd ⟨hat, rfl⟩
  refine ⟨fun x hp halign => execBrv_next x hat hp halign,
    fun x hp => ⟨execJoin_next x hat hp, execExit_split x hat hp, execYield_split x hat hp⟩,
    fun x hp => ⟨execTrap_split x hat hp, fun hdebug => (execBkpt_split x hat hp).trans ?_,
      fun hdebug => (execBkpt_split x hat hp).trans ?_⟩⟩
  · rw [if_pos hdebug]
  · rw [hdebug]; rfl

end Sys2Proof.Machine

/-! ## O28: a BRV that divides its split (R8, R193) -/

namespace Sys2Proof.Machine

theorem freeIndex_isNone {g : Group} {i : Nat} (h : g.freeIndex = some i) : g.split? i = none := by
  simpa using List.find?_some h

@[simp] theorem ordinalOf_putGroup (s : State) (gid : Nat) (g h : Group) (pc : W64) :
    (s.putGroup gid g).ordinalOf h pc = s.ordinalOf h pc := rfl

@[simp] theorem ordinalOf_at (s : State) (due : Nat) (e : Event) (h : Group) (pc : W64) :
    (s.at due e).ordinalOf h pc = s.ordinalOf h pc := rfl

/-- A split with the MODE writes that have issued in force (R189). -/
def Split.settled (p : Split) : Split := { p with mode := modeLast p.modeQ p.mode, modeQ := [] }

/-- The group after its split `sp` has kept some lanes at an address, and index `i` has taken others at theirs. -/
def Group.dividedAt (g : Group) (sp i : Nat) (p : Split) (stay : W32) (stayPc : W64) (go : W32) (goPc : W64) : Group :=
  (g.putSplit sp (p.settled.restrict stay stayPc)).putSplit i (p.settled.restrict go goPc)

/-- With an index free and no safe point at either address, the lanes of the lower address stay and the others take the index. -/
theorem divide_to_free_index {s : State} {gid sp i : Nat} {g : Group} {p : Split} {taken : W32} {target fall : W64} (m : Marks)
    (hg : s.group? gid = some g) (hp : g.split? sp = some p) (hi : g.freeIndex = some i) (ht : taken &&& p.mask ≠ 0#32)
    (hf : p.mask &&& ~~~taken ≠ 0#32) (hne : target ≠ fall) (hot : s.ordinalOf g target = none) (hof : s.ordinalOf g fall = none) :
    s.divide gid sp taken target fall m = (s.putGroup gid
      (if target.toNat < fall.toNat then g.dividedAt sp i p (taken &&& p.mask) target (p.mask &&& ~~~taken) fall
        else g.dividedAt sp i p (p.mask &&& ~~~taken) fall (taken &&& p.mask) target)).at (s.ac + 4) (.runEndMerge gid i) := by
  unfold State.divide
  simp only [hg, hp, hi, if_neg (not_or.mpr ⟨ht, not_or.mpr ⟨hf, hne⟩⟩)]
  by_cases hlow : target.toNat < fall.toNat
  · simp [hlow, hot, hof, Group.dividedAt, Split.settled]
  · simp [hlow, hot, hof, Group.dividedAt, Split.settled]

theorem and_and_self_right (a b : W32) : b &&& (a &&& b) = a &&& b := by
  rw [BitVec.and_comm a, ← BitVec.and_assoc, BitVec.and_self]

theorem and_and_self_left (a b : W32) : b &&& (b &&& a) = b &&& a := by rw [← BitVec.and_assoc, BitVec.and_self]

/-- The taken and the untaken lanes of a mask are disjoint, and together the mask. -/
theorem taken_and_untaken (taken mask : W32) : (taken &&& mask) &&& (mask &&& ~~~taken) = 0#32 := by
  ext k hk; simp; tauto

theorem taken_or_untaken (taken mask : W32) : (taken &&& mask) ||| (mask &&& ~~~taken) = mask := by
  ext k hk; simp; cases taken[k] <;> simp

section Divided

variable {g : Group} {sp i : Nat} (p : Split) (stay go : W32) (stayPc goPc : W64)

theorem dividedAt_split?_stay (h : i ≠ sp) :
    (g.dividedAt sp i p stay stayPc go goPc).split? sp = some (p.settled.restrict stay stayPc) := by
  rw [Group.dividedAt, split?_putSplit_other _ _ h.symm, split?_putSplit_same]

theorem dividedAt_split?_go :
    (g.dividedAt sp i p stay stayPc go goPc).split? i = some (p.settled.restrict go goPc) := split?_putSplit_same ..

end Divided

/-- Settles O28: the two splits of `divide_to_free_index`, whose masks are the taken and the untaken lanes of the old one. -/
theorem divergenceRule : Obligations.DivergenceRule := by
  unfold Obligations.DivergenceRule
  intro s gid sp i g p taken target fall m hg hp hi ht hf hne hot hof
  have hisp : i ≠ sp := by
    rintro rfl
    exact absurd (hp.symm.trans (freeIndex_isNone hi)) (Option.some_ne_none p)
  rw [divide_to_free_index m hg hp hi ht hf hne hot hof]
  have hdisj := taken_and_untaken taken p.mask
  have hunion := taken_or_untaken taken p.mask
  by_cases hlow : target.toNat < fall.toNat
  · simp only [if_pos hlow]
    refine ⟨_, _, _, group?_putGroup_same .., dividedAt_split?_stay p _ _ _ _ hisp, dividedAt_split?_go p .., hisp,
      ⟨rfl, and_and_self_right .., rfl, and_and_self_left ..⟩, ?_, ?_, rfl, rfl, rfl, rfl⟩
    · simpa [Split.restrict, Split.settled, and_and_self_right, and_and_self_left] using hdisj
    · simpa [Split.restrict, Split.settled, and_and_self_right, and_and_self_left] using hunion
  · simp only [if_neg hlow]
    refine ⟨_, _, _, group?_putGroup_same .., dividedAt_split?_stay p _ _ _ _ hisp, dividedAt_split?_go p .., hisp,
      ⟨rfl, and_and_self_left .., rfl, and_and_self_right ..⟩, ?_, ?_, rfl, rfl, rfl, rfl⟩
    · simpa [Split.restrict, Split.settled, and_and_self_right, and_and_self_left, BitVec.and_comm] using hdisj
    · simpa [Split.restrict, Split.settled, and_and_self_right, and_and_self_left, BitVec.or_comm] using hunion

end Sys2Proof.Machine

/-! ## O50: runs, groups, teams and tasks (R10, R12, R14, R23, R25, R28, R360, R434 to R436) -/

namespace Sys2Proof.Machine

/-! ### What tracing leaves as it was: the whole execution side (R428 to R431) -/

@[simp] theorem stage_simt (s : State) (k q : Nat) (pk : List Byte) : (s.stage k q pk).simt = s.simt := by
  unfold State.stage
  dsimp only
  split
  · rfl
  · split <;> rfl

theorem foldl_keeps {α β : Type} {f : State → α → State} (part : State → β) (h : ∀ t a, part (f t a) = part t) (l : List α)
    (s : State) : part (l.foldl f s) = part s :=
  List.foldlRecOn (motive := fun t : State => part t = part s) l f rfl fun t ht a _ => (h t a).trans ht

@[simp] theorem syncPoint_simt (s : State) (gid : Nat) (g : Group) : (s.syncPoint gid g).simt = s.simt := by
  unfold State.syncPoint
  exact foldl_keeps State.simt (fun t a => stage_simt ..) _ _

@[simp] theorem syncDue_simt (s : State) (gid : Nat) : (s.syncDue gid).simt = s.simt := by
  unfold State.syncDue
  split
  · rfl
  · split
    · exact syncPoint_simt ..
    · rfl

/-! ### RUN_START (R25, R27) -/

theorem exec_runStart_chosen {s : State} {k : Nat} {c : Cand} (hidle : (Tbl.get? s.simt.scheds k).bind Sched.cur = none)
    (hc : s.chosen k = some c) : exec (.runStart k) s = .next
      { (s.passOver k c.gid c.sp (s.cands k)).putSched k (some (c.gid, c.sp)) with
        turns := s.turns ++ [.split c.gid c.sp] } := by
  change execRunStart k s = _
  simp [execRunStart, hidle, hc, State.passOver]

theorem exec_runStart_none {s : State} {k : Nat}
    (h : ((Tbl.get? s.simt.scheds k).bind Sched.cur).isSome = true ∨ s.chosen k = none) :
    exec (.runStart k) s = .next s := by
  change execRunStart k s = _
  unfold execRunStart
  split
  · rfl
  next hidle =>
    rw [h.resolve_left hidle]

theorem putSched_cur (s : State) (k : Nat) (c : Option (Nat × Nat)) :
    (Tbl.get? (s.putSched k c).simt.scheds k).bind Sched.cur = c := by
  simp [State.putSched]

/-! ### RUN_END_MERGE (R10, R25, R148) -/

/-- A split whose run has ended, ready from an ac on. -/
def Split.readied (p : Split) (ac : Nat) : Split :=
  { p with wpend := false, ready := true, run := 0, readySince := ac, mode := modeLast p.modeQ p.mode, modeQ := [] }

section RunEnd

variable {s : State} {gid sp : Nat} {g : Group} {p : Split} (hg : s.group? gid = some g) (hp : g.split? sp = some p)
include hg hp

theorem runEnd_not_due (h : p.ready = true ∨ p.park.isSome = true ∨ s.ac < p.readyAt) : s.runEnd gid sp = s := by
  have hcond : (p.ready || p.park.isSome || decide (s.ac < p.readyAt)) = true := by
    rcases h with h | h | h <;> simp [h]
  simp [State.runEnd, hg, hp, hcond]

variable (hready : p.ready = false) (hpark : p.park = none) (hdue : p.readyAt ≤ s.ac)
include hready hpark hdue

theorem runEnd_wmark (hw : p.wpend = true) (hpend : g.pendingAny = true) :
    s.runEnd gid sp = s.modSplit gid sp fun p => { p with park := some .wmark } := by
  simp [State.runEnd, hg, hp, hready, hpark, Nat.not_lt.mpr hdue, hw, hpend]

theorem runEnd_readied (hw : (p.wpend && g.pendingAny) = false) (hheld : p.held = false) :
    s.runEnd gid sp = (s.putGroup gid (g.putSplit sp (p.readied s.ac))).mergeReady gid sp := by
  simp [State.runEnd, hg, hp, hready, hpark, Nat.not_lt.mpr hdue, hw, hheld, Split.readied]

end RunEnd

theorem promoteAll_without_sets {s : State} {gid : Nat} {g : Group} (hg : s.group? gid = some g) (hsets : g.sets = []) (n : Nat) :
    s.promoteAll gid n = s := by
  induction n with
  | zero => rfl
  | succ n ih =>
    have hpromote : s.promote gid = s := by
      unfold State.promote
      rw [hg]
      dsimp only
      rw [hsets]
      split
      next h => cases h
      next => rfl
    rw [State.promoteAll, hpromote, ih]

/-- A split that is ready alone, in a group without parked sets, merges with nothing. -/
theorem mergeReady_alone {s : State} {gid sp : Nat} {g : Group} {p : Split} (hg : s.group? gid = some g)
    (hsplits : g.splits = [(sp, p)]) (hsets : g.sets = []) : s.mergeReady gid sp = s := by
  have hp : g.split? sp = some p := by simp [Group.split?, hsplits, Tbl.get?_cons]
  simp [State.mergeReady, hg, hp, hsplits, hsets]

theorem group?_of_simt {s t : State} (h : t.simt = s.simt) (gid : Nat) : t.group? gid = s.group? gid := by
  rw [State.group?, State.group?, h]

theorem mergeOne_group? {s : State} {gid low code : Nat} {g snap : Group} (hg : s.group? gid = some g) (f : Group → Group) :
    (s.mergeOne gid low code snap f).group? gid = some (f g) := by
  unfold State.mergeOne
  rw [hg]
  dsimp only
  rw [group?_of_simt (syncDue_simt ..), group?_putGroup_same]

theorem mergeAll_without_sets {s : State} {gid low : Nat} {g : Group} (hg : s.group? gid = some g) (hsets : g.sets = [])
    (snap : Group) (others : List Nat) (p : Split → Bool) : s.mergeAll gid low snap others p
      = others.foldl (fun s i => s.mergeOne gid low (low + 4 * i) snap fun g => g.takeSplit low i) s := by
  simp [State.mergeAll, hg, hsets]

theorem split?_modSplit_same (g : Group) (sp : Nat) (f : Split → Split) : (g.modSplit sp f).split? sp = (g.split? sp).map f := by
  unfold Group.modSplit Group.split? Tbl.mod
  dsimp only
  induction g.splits with
  | nil => rfl
  | cons x l ih =>
    obtain ⟨k, v⟩ := x
    by_cases h : k = sp
    · simp [h, Tbl.get?_cons]
    · simp [h, Tbl.get?_cons, ih]

theorem split?_modSplit_other (g : Group) {sp i : Nat} (f : Split → Split) (h : i ≠ sp) :
    (g.modSplit sp f).split? i = g.split? i := by
  unfold Group.modSplit Group.split? Tbl.mod
  dsimp only
  induction g.splits with
  | nil => rfl
  | cons x l ih =>
    obtain ⟨k, v⟩ := x
    by_cases hk : k = sp
    · subst hk; simp [Tbl.get?_cons, h.symm, ih]
    · simp [hk, Tbl.get?_cons, ih]

theorem group?_modGroup_same {s : State} {gid : Nat} {g : Group} (hg : s.group? gid = some g) (f : Group → Group) :
    (s.modGroup gid f).group? gid = some (f g) := by
  rw [State.modGroup, hg]
  exact group?_putGroup_same ..

theorem group?_modSplit {s : State} {gid : Nat} {g : Group} (hg : s.group? gid = some g) (sp : Nat) (f : Split → Split) :
    (s.modSplit gid sp f).group? gid = some (g.modSplit sp f) :=
  group?_modGroup_same hg _

/-- The group after its split `b` has merged into the lower split `a`: no other split and no parked set is left. -/
theorem mergeReady_pair {s : State} {gid a b : Nat} {g : Group} {o p : Split} (hg : s.group? gid = some g)
    (hsplits : g.splits = [(a, o), (b, p)]) (hsets : g.sets = []) (hab : a < b) (hready : o.ready = true) (hheld : o.held = false)
    (hagrees : o.agrees p = true) : ∃ h : Group, (s.mergeReady gid b).group? gid = some h
      ∧ (h.split? a).map Split.mask = some (o.mask ||| p.mask) ∧ h.split? b = none := by
  have hne : a ≠ b := Nat.ne_of_lt hab
  have ha : g.split? a = some o := by simp [Group.split?, hsplits, Tbl.get?_cons]
  have hb : g.split? b = some p := by simp [Group.split?, hsplits, Tbl.get?_cons, hne]
  have hsets' : (g.takeSplit a b).sets = [] := by simp [Group.takeSplit, ha, hb, hsets]
  have hmerged := mergeOne_group? (low := a) (code := a + 4 * b) (snap := g) hg fun g => g.takeSplit a b
  have hwith : ((g.splits.filter fun (i, q) => i != b && q.ready && !q.held && q.agrees p).map Prod.fst) = [a] := by
    simp [hsplits, hne, hready, hheld, hagrees]
  have hlow : [a].foldl min b = a := by simp [Nat.min_eq_right hab.le]
  have hothers : (b :: [a]).filter (fun i => i != a) = [b] := by simp [hne.symm]
  have htaken : ((g.takeSplit a b).split? a).map Split.mask = some (o.mask ||| p.mask) ∧ (g.takeSplit a b).split? b = none := by
    unfold Group.takeSplit
    rw [ha, hb]
    simp [Group.split?, hsplits, Split.absorb, Tbl.get?_put_other _ _ hne.symm]
  unfold State.mergeReady
  simp only [hg, hb, Option.bind_some, Option.map_some, hwith, hlow, hothers, mergeAll_without_sets hg hsets, List.foldl_cons,
    List.foldl_nil]
  rw [if_neg (by simp), promoteAll_without_sets (group?_modSplit hmerged _ _) hsets']
  refine ⟨_, group?_modSplit hmerged _ _, ?_, ?_⟩
  · rw [split?_modSplit_same, Option.map_map]
    exact htaken.1
  · rw [split?_modSplit_other _ _ hne.symm]
    exact htaken.2

end Sys2Proof.Machine


namespace Sys2Proof.Machine

/-! ### Holds of stepped groups (R435, R436) -/

/-- There is such a group, and it is as `P` says. -/
def State.HasGroup (s : State) (gid : Nat) (P : Group → Prop) : Prop := ∃ g, s.group? gid = some g ∧ P g

/-- A group whose splits and parked sets are held no longer. -/
def Group.unheld (g : Group) : Group :=
  { g with
    splits := g.splits.map fun p => (p.1, { p.2 with held := false })
    sets := g.sets.map fun p => { p with held := false } }

theorem unheld_splits (g : Group) : ∀ p ∈ g.unheld.splits, p.2.held = false := by
  intro p hp
  obtain ⟨q, _, rfl⟩ := List.mem_map.mp hp
  rfl

theorem modGroup_ac (s : State) (gid : Nat) (f : Group → Group) : (s.modGroup gid f).ac = s.ac := by
  unfold State.modGroup
  split <;> rfl

theorem modGroup_hasGroup {s : State} {gid : Nat} {P : Group → Prop} (h : s.HasGroup gid P) {f : Group → Group}
    (hf : ∀ g, P g → P (f g)) (i : Nat) : (s.modGroup i f).HasGroup gid P := by
  obtain ⟨g, hg, hP⟩ := h
  by_cases hi : gid = i
  · subst hi
    exact ⟨f g, group?_modGroup_same hg f, hf g hP⟩
  · refine ⟨g, ?_, hP⟩
    unfold State.modGroup
    split
    · rw [group?_putGroup_other _ _ hi, hg]
    · exact hg

theorem releaseHeld_simt (s : State) (gid : Nat) : (s.releaseHeld gid).simt = (s.modGroup gid Group.unheld).simt := by
  unfold State.releaseHeld State.modGroup
  split
  next h => rw [h]
  next g h =>
    rw [h]
    exact foldl_keeps State.simt (fun _ _ => at_simt ..) _ _

theorem releaseHeld_ac (s : State) (gid : Nat) : (s.releaseHeld gid).ac = s.ac := by
  unfold State.releaseHeld
  split
  · rfl
  · exact foldl_keeps State.ac (fun _ _ => at_ac ..) _ _

theorem releaseHeld_group? {s : State} {gid : Nat} {g : Group} (hg : s.group? gid = some g) :
    (s.releaseHeld gid).group? gid = some g.unheld := by
  rw [State.group?, releaseHeld_simt]
  exact group?_modGroup_same hg _

theorem releaseHeld_hasGroup {s : State} {gid : Nat} {P : Group → Prop} (h : s.HasGroup gid P) (hP : ∀ g, P g → P g.unheld)
    (i : Nat) : (s.releaseHeld i).HasGroup gid P := by
  unfold State.HasGroup State.group?
  rw [releaseHeld_simt]
  exact modGroup_hasGroup h hP i

/-- The end of a team's holds leaves what neither a hold nor its end says of a group. -/
theorem releaseTeam_hasGroup {s : State} {gid : Nat} {P : Group → Prop} (h : s.HasGroup gid P) (team : Nat)
    (hstep : ∀ g, P g → P { g with stepHeld := false }) (hP : ∀ g, P g → P g.unheld) : (s.releaseTeam team).HasGroup gid P := by
  unfold State.releaseTeam
  dsimp only
  split
  · exact h
  · refine List.foldlRecOn (motive := fun t : State => t.HasGroup gid P) _ _ h fun t ht a _ => ?_
    split
    · exact releaseHeld_hasGroup (modGroup_hasGroup ht hstep _) hP _
    · exact ht

theorem releaseTeam_ac (s : State) (team : Nat) : (s.releaseTeam team).ac = s.ac := by
  unfold State.releaseTeam
  dsimp only
  split
  · rfl
  · refine foldl_keeps State.ac (fun t a => ?_) _ _
    split
    · rw [releaseHeld_ac, modGroup_ac]
    · rfl

/-! ### STEPON, STEPOFF and GO (R434, R435) -/

theorem debugResult_result (s : State) (q r : Nat) (x : W64) : ((s.debugResult q r x).traceQ q).result = r := by
  simp [State.debugResult, State.traceQ, State.putTraceQ, Tbl.getD]

theorem debugDone_group? (s : State) (gid i : Nat) : (s.debugDone gid).group? i = s.group? i := by
  unfold State.debugDone
  split <;> rfl

theorem debugDone_result {s : State} {gid : Nat} {g : Group} (hg : s.group? gid = some g) :
    ((s.debugDone gid).traceQ g.place.ctx).result = 0 := by
  rw [State.debugDone, hg]
  exact debugResult_result ..

section DebugCommands

variable {s : State} {gid : Nat} {g : Group} (hg : s.group? gid = some g)
include hg

theorem debugOp_refused {r : Nat} (hr : s.debugRefused g.place.ctx = some r) (op : Group → State) :
    s.debugOp gid op = .next (s.debugResult g.place.ctx r 0#64) := by
  simp [State.debugOp, hg, hr]

variable (hr : s.debugRefused g.place.ctx = none)
include hr

theorem debugOp_done (op : Group → State) : s.debugOp gid op = .next ((op g).debugDone gid) := by
  simp [State.debugOp, hg, hr]

theorem exec_stepon : ∃ (u : State) (h : Group), exec (.stepon gid) s = .next u ∧ u.group? gid = some h ∧ h.stepOn = true
    ∧ (u.traceQ g.place.ctx).result = 0 := by
  have hset := group?_modGroup_same hg fun g => { g with stepOn := true }
  refine ⟨_, _, debugOp_done hg hr _, ?_, (rfl : Group.stepOn { g with stepOn := true } = true), ?_⟩
  · exact (debugDone_group? ..).trans hset
  · exact debugDone_result (g := { g with stepOn := true }) hset

theorem exec_stepoff : ∃ (u : State) (h : Group), exec (.stepoff gid) s = .next u ∧ u.group? gid = some h ∧ h.stepOn = false
    ∧ ∀ p ∈ h.splits, p.2.held = false := by
  have hreleased := releaseHeld_group? (group?_modGroup_same hg fun g => { g with stepOn := false })
  obtain ⟨h, hh, hoff, hheld⟩ := releaseTeam_hasGroup (P := fun h => h.stepOn = false ∧ ∀ p ∈ h.splits, p.2.held = false)
    ⟨_, hreleased, rfl, unheld_splits _⟩ g.place.team (fun _ h => h) (fun h hh => ⟨hh.1, unheld_splits h⟩)
  exact ⟨_, h, debugOp_done hg hr _, (debugDone_group? ..).trans hh, hoff, hheld⟩

theorem exec_goStep : ∃ (u : State) (h : Group), exec (.goStep gid) s = .next u ∧ u.group? gid = some h ∧ h.stepOn = g.stepOn
    ∧ ∀ p ∈ h.splits, p.2.held = false :=
  ⟨_, _, debugOp_done hg hr _, (debugDone_group? ..).trans (releaseHeld_group? hg), rfl, unheld_splits _⟩

end DebugCommands

/-! ### GROUP_EXIT (R12) -/

/-- States that differ only in events asked for since. -/
def State.Asks (s u : State) : Prop := ∃ l, u = { s with agenda := s.agenda ++ l }

namespace State.Asks

theorem refl (s : State) : s.Asks s := ⟨[], by simp⟩

theorem trans {s t u : State} (h : s.Asks t) (h' : t.Asks u) : s.Asks u := by
  obtain ⟨l, rfl⟩ := h
  obtain ⟨l', rfl⟩ := h'
  exact ⟨l ++ l', by simp⟩

theorem soon (s : State) (e : Event) : s.Asks (s.soon e) := ⟨_, rfl⟩

theorem foldl {α : Type} {f : State → α → State} (h : ∀ (t : State) (a : α), t.Asks (f t a)) (l : List α) (s : State) :
    s.Asks (l.foldl f s) :=
  List.foldlRecOn (motive := fun t : State => s.Asks t) l f (refl s) fun t ht a _ => ht.trans (h t a)

theorem simt {s u : State} (h : s.Asks u) : u.simt = s.simt := by
  obtain ⟨l, rfl⟩ := h
  rfl

theorem ac {s u : State} (h : s.Asks u) : u.ac = s.ac := by
  obtain ⟨l, rfl⟩ := h
  rfl

theorem asked {s u : State} (h : s.Asks u) {e : Nat × Event} (he : e ∈ s.agenda) : e ∈ u.agenda := by
  obtain ⟨l, rfl⟩ := h
  exact List.mem_append_left _ he

end State.Asks

theorem recheckBars_asks (s : State) (g : Group) : s.Asks (s.recheckBars g) := by
  unfold State.recheckBars
  split
  · exact .refl s
  · refine .foldl (fun t a => ?_) _ _
    split
    · exact .soon ..
    · exact .refl t

theorem recheckSpawns_asks (s : State) : s.Asks s.recheckSpawns := by
  unfold State.recheckSpawns
  dsimp only
  exact (State.Asks.foldl (fun t a => .soon ..) _ _).trans (.foldl (fun t a => .soon ..) _ _)

/-- The state in which a group has exited and left its team's holds and its barriers, before what may follow is asked for. -/
def State.exitedGroup (s : State) (gid : Nat) (g : Group) : State :=
  (((s.putGroup gid { g with exited := true, stepOn := false }).releaseTeam g.place.team).flushSoon g.place.schedNo
    g.place.ctx).recheckBars g

theorem exitedGroup_ac (s : State) (gid : Nat) (g : Group) : (s.exitedGroup gid g).ac = s.ac :=
  (recheckBars_asks ..).ac.trans (releaseTeam_ac ..)

theorem exitedGroup_hasGroup (s : State) (gid : Nat) (g : Group) : (s.exitedGroup gid g).HasGroup gid fun h => h.exited = true := by
  obtain ⟨h, hh, hout⟩ := releaseTeam_hasGroup (s := s.putGroup gid { g with exited := true, stepOn := false })
    (P := fun h => h.exited = true) ⟨_, group?_putGroup_same .., rfl⟩ g.place.team (fun _ h => h) (fun _ h => h)
  exact ⟨h, (group?_of_simt (recheckBars_asks ..).simt gid).trans hh, hout⟩

section GroupExit

variable {s : State} {gid : Nat} {g : Group} (hg : s.group? gid = some g)
include hg

theorem exec_groupExit_stays (h : g.exited = true ∨ g.live ≠ 0#32 ∨ g.pathCount 7 ≠ 0) : exec (.groupExit gid) s = .next s := by
  have hstays : (g.exited || g.live != 0#32 || g.pathCount 7 != 0) = true := by
    rcases h with h | h | h <;> simp [h]
  change execGroupExit gid s = _
  simp [execGroupExit, hg, hstays]

variable (hin : g.exited = false) (hlive : g.live = 0#32) (hspawn : g.pathCount 7 = 0)
include hin hlive hspawn

theorem exec_groupExit_exits : exec (.groupExit gid) s = .next
    (((((s.exitedGroup gid g).soon (.teamResourceFree g.place.team)).soon (.taskComplete g.place.task)).soon
      (.teamPlacement ((s.exitedGroup gid g).partOfQueue g.place.ctx))).recheckSpawns) := by
  change execGroupExit gid s = _
  simp only [execGroupExit, hg, hin, hlive, hspawn]
  rfl

theorem exec_groupExit : ∃ (u : State) (h : Group), exec (.groupExit gid) s = .next u ∧ u.group? gid = some h
    ∧ h.exited = true ∧ (s.ac, Event.teamResourceFree g.place.team) ∈ u.agenda := by
  obtain ⟨h, hh, hout⟩ := exitedGroup_hasGroup s gid g
  refine ⟨_, h, exec_groupExit_exits hg hin hlive hspawn, ?_, hout, (recheckSpawns_asks _).asked ?_⟩
  · exact (group?_of_simt (recheckSpawns_asks _).simt gid).trans hh
  · simp [State.soon, State.at, exitedGroup_ac]

end GroupExit

end Sys2Proof.Machine


namespace Sys2Proof.Machine

/-! ### What a write to memory leaves as it was (R78, R315, R380, R399, R416) -/

/-- The contexts, tasks and trees are the same, and each control thread has its registers and the CTXSEAL it is in. -/
structure State.KeepsTables (s t : State) : Prop where
  ctxs : t.simt.ctxs = s.simt.ctxs
  tasks : t.simt.tasks = s.simt.tasks
  trees : t.simt.trees = s.simt.trees
  threads : ∀ tid, (t.thread tid).g = (s.thread tid).g ∧ (t.thread tid).sealing = (s.thread tid).sealing

namespace State.KeepsTables

theorem refl (s : State) : s.KeepsTables s := ⟨rfl, rfl, rfl, fun _ => ⟨rfl, rfl⟩⟩

theorem trans {s t u : State} (h : s.KeepsTables t) (k : t.KeepsTables u) : s.KeepsTables u :=
  ⟨k.ctxs.trans h.ctxs, k.tasks.trans h.tasks, k.trees.trans h.trees, fun tid =>
    ⟨(k.threads tid).1.trans (h.threads tid).1, (k.threads tid).2.trans (h.threads tid).2⟩⟩

theorem of_eq {s t : State} (hsimt : t.simt = s.simt) (hthreads : t.hub.threads = s.hub.threads) : s.KeepsTables t := by
  refine ⟨by rw [hsimt], by rw [hsimt], by rw [hsimt], fun tid => ?_⟩
  rw [State.thread, State.thread, hthreads]
  exact ⟨rfl, rfl⟩

theorem foldl {α : Type} {f : State → α → State} (h : ∀ (t : State) (a : α), t.KeepsTables (f t a)) (l : List α) (s : State) :
    s.KeepsTables (l.foldl f s) :=
  List.foldlRecOn (motive := fun t : State => s.KeepsTables t) l f (refl s) fun t ht a _ => ht.trans (h t a)

theorem ctx {s t : State} (h : s.KeepsTables t) (q : Nat) : t.ctx q = s.ctx q := by
  rw [State.ctx, State.ctx, h.ctxs]

end State.KeepsTables

theorem modGroup_keepsTables (s : State) (gid : Nat) (f : Group → Group) : s.KeepsTables (s.modGroup gid f) := by
  unfold State.modGroup
  split
  · exact ⟨rfl, rfl, rfl, fun _ => ⟨rfl, rfl⟩⟩
  · exact .refl s

theorem modThread_keepsTables (s : State) (tid : Nat) {f : Thread → Thread} (hf : ∀ x, (f x).g = x.g ∧ (f x).sealing = x.sealing) :
    s.KeepsTables (s.modThread tid f) := by
  refine ⟨rfl, rfl, rfl, fun i => ?_⟩
  by_cases hi : i = tid
  · subst hi
    rw [State.modThread, thread_putThread_same]
    exact hf _
  · rw [State.modThread, thread_putThread_other _ _ hi]
    exact ⟨rfl, rfl⟩

theorem setBit_keepsTables (s : State) (a bit : Nat) : s.KeepsTables (s.setBit a bit) := by
  unfold State.setBit
  dsimp only
  split
  · exact .refl s
  · exact .of_eq rfl rfl

theorem dirtyRing_keepsTables (s : State) (page : Nat) : s.KeepsTables (s.dirtyRing page) := by
  refine .foldl (fun t v => ?_) _ s
  obtain ⟨_, f⟩ := v
  dsimp only
  split
  · exact .refl t
  · refine .foldl (fun r y => ?_) _ t
    obtain ⟨q, x⟩ := y
    dsimp only
    split
    · split
      · exact setBit_keepsTables ..
      · exact .refl r
    · exact .refl r

theorem scrubLines_keepsTables (s : State) (a n : Nat) : s.KeepsTables (s.scrubLines a n) := by
  unfold State.scrubLines
  split
  · refine .foldl (fun t line => ?_) _ s
    unfold State.scrubLine
    split
    · split
      · exact .of_eq rfl rfl
      · exact .refl t
    · exact .refl t
  · exact .refl s

theorem clearPoison_keepsTables (s : State) (a n : Nat) : s.KeepsTables (s.clearPoison a n) := by
  unfold State.clearPoison
  dsimp only
  split
  · exact .refl s
  · exact .of_eq rfl rfl

theorem wakeCounters_keepsTables (s : State) (a n : Nat) : s.KeepsTables (s.wakeCounters a n) := by
  unfold State.wakeCounters
  refine ((State.KeepsTables.foldl (fun t x => ?_) _ s).trans (.foldl (fun t x => ?_) _ _)).trans (.foldl (fun t x => ?_) _ _)
  · exact (modGroup_keepsTables ..).trans (.of_eq rfl rfl)
  · exact modThread_keepsTables _ _ fun _ => ⟨rfl, rfl⟩
  · exact .of_eq rfl rfl

theorem write_keepsTables (s : State) (a : Nat) (bs : List Byte) : s.KeepsTables (s.write a bs) := by
  unfold State.write
  split
  · exact .refl s
  · have hpages := (scrubLines_keepsTables s a bs.length).trans
      (.foldl (fun t page => dirtyRing_keepsTables t page) (pagesOf a bs.length) _)
    have hpoked := hpages.trans (.of_eq (t := State.poke _ a bs) rfl rfl)
    exact (hpoked.trans (clearPoison_keepsTables ..)).trans (wakeCounters_keepsTables ..)

/-! ### A front end's add to a counter (R23, R45) -/

theorem putHbm_keepsTables (s : State) (t : Nat) (x : Stack) : s.KeepsTables (s.putHbm t x) := .of_eq rfl rfl

theorem chargeVf_keepsTables (s : State) (t vf : Nat) : s.KeepsTables (s.chargeVf t vf) := by
  unfold State.chargeVf
  split <;> exact .of_eq rfl rfl

theorem lendShake_keepsTables (s : State) (t pair code : Nat) : s.KeepsTables (s.lendShake t pair code) := by
  unfold State.lendShake
  dsimp only
  split <;> exact .of_eq rfl rfl

theorem rowCount_keepsTables (s : State) (t chan row tenant vf : Nat) : s.KeepsTables (s.rowCount t chan row tenant vf) := by
  have hdraw : s.KeepsTables s.drawn := .of_eq rfl rfl
  unfold State.rowCount
  dsimp only
  split
  · split
    · exact hdraw.trans (putHbm_keepsTables ..)
    · split
      · exact hdraw.trans (putHbm_keepsTables ..)
      · exact hdraw.trans ((putHbm_keepsTables ..).trans (chargeVf_keepsTables ..))
  · exact hdraw

theorem rowActive_keepsTables (s : State) (t chan row tenant vf : Nat) :
    s.KeepsTables (if ((s.hbm t).held.any fun e => e.row == row && e.tenant == tenant) = true then
      (s.putHbm t ((s.hbm t).activate s.ac row)).chargeVf t vf else s.rowCount t chan row tenant vf) := by
  split
  · exact (putHbm_keepsTables ..).trans (chargeVf_keepsTables ..)
  · exact rowCount_keepsTables ..

theorem rowTouch_keepsTables (s : State) (pa vf : Nat) : s.KeepsTables (s.rowTouch pa vf) := by
  unfold State.rowTouch
  split
  · exact .refl s
  next t chan _ =>
    refine State.KeepsTables.trans ?_ (rowActive_keepsTables _ t chan (Config.rowOf pa) _ vf)
    split
    · exact lendShake_keepsTables ..
    · exact .refl s

theorem engineRoom_keepsTables {s u : State} {die : Nat} (h : s.engineRoom die = some u) : s.KeepsTables u := by
  unfold State.engineRoom at h
  dsimp only at h
  split at h
  · obtain rfl := Option.some.inj h
    exact .refl s
  · obtain ⟨l, -, rfl⟩ := Option.map_eq_some_iff.mp h
    exact .of_eq rfl rfl

theorem toEngine_keepsTables (s : State) (a : Nat) : s.KeepsTables (s.toEngine a) := by
  unfold State.toEngine
  dsimp only
  split
  · exact .of_eq rfl rfl
  · cases hroom : s.engineRoom (s.homeDie a) with
    | none => exact .of_eq rfl rfl
    | some u => exact (engineRoom_keepsTables hroom).trans (.of_eq rfl rfl)

theorem addCounter_keepsTables (s : State) (a k : Nat) : s.KeepsTables (s.addCounter a k) := by
  unfold State.addCounter State.writeNat
  exact (toEngine_keepsTables s a).trans (write_keepsTables ..)

theorem dirtyCounter_keepsTables (s : State) (q va : Nat) : s.KeepsTables (s.dirtyCounter q va) := by
  unfold State.dirtyCounter
  split
  · exact .refl s
  · dsimp only
    split
    · exact .refl s
    · split
      · exact .of_eq rfl rfl
      · exact setBit_keepsTables ..

theorem frontAdd_keepsTables (s : State) (q va : Nat) : s.KeepsTables (s.frontAdd q va) := by
  unfold State.frontAdd
  split
  · exact .refl s
  · split
    · exact (dirtyCounter_keepsTables ..).trans ((rowTouch_keepsTables ..).trans (addCounter_keepsTables ..))
    · exact .refl s

/-! ### TASK_COMPLETE (R58, R23) -/

theorem completeTask_tasks (s : State) (id : Nat) (t : Task) :
    Tbl.get? (s.completeTask id t).simt.tasks id = some { t with completed := true } := by
  unfold State.completeTask
  dsimp only
  rw [(recheckSpawns_asks _).simt, soon_simt]
  split
  · simp
  · split
    · rw [(frontAdd_keepsTables ..).tasks]
      simp
    · simp

theorem completeTask_trees {s : State} {id : Nat} {t : Task} {tr : Tree} (htr : Tbl.get? s.simt.trees t.tree = some tr) :
    Tbl.get? (s.completeTask id t).simt.trees t.tree
      = if tr.counter ≤ 1 then none else some { tr with counter := tr.counter - 1 } := by
  have hkept : (s.frontAdd t.ctx t.trec.doneAddr).simt.trees = s.simt.trees := (frontAdd_keepsTables ..).trees
  unfold State.completeTask
  dsimp only
  rw [(recheckSpawns_asks _).simt, soon_simt]
  simp only [State.modSimt, hkept, htr]
  split
  · rw [(frontAdd_keepsTables ..).trees]
    simp
  · simp

theorem dropTask_trees (s : State) (id : Nat) : (s.dropTask id).simt.trees = s.simt.trees := rfl

theorem dropTask_tasks (s : State) (id : Nat) : Tbl.get? (s.dropTask id).simt.tasks id = none := Tbl.get?_del_same ..

section TaskComplete

variable {s : State} {id : Nat} {t : Task} (ht : Tbl.get? s.simt.tasks id = some t)
include ht

theorem exec_taskComplete_waits (hdone : s.taskDone id t = false) : exec (.taskComplete id) s = .next s := by
  change execTaskComplete id s = _
  simp [execTaskComplete, ht, hdone]

variable (hdone : s.taskDone id t = true)
include hdone

theorem exec_taskComplete_again (hcompleted : t.completed = true) : exec (.taskComplete id) s
    = .next (if s.taskBusy id then s else (s.dropTask id).soon (.teamPlacement (s.partOfQueue t.ctx))) := by
  change execTaskComplete id s = _
  simp [execTaskComplete, ht, hdone, hcompleted]

theorem exec_taskComplete_first (hcompleted : t.completed = false) : exec (.taskComplete id) s
    = .next (if s.taskBusy id then s.completeTask id t
      else ((s.completeTask id t).dropTask id).soon (.teamPlacement ((s.completeTask id t).partOfQueue t.ctx))) := by
  change execTaskComplete id s = _
  simp [execTaskComplete, ht, hdone, hcompleted]

theorem exec_taskComplete (hcompleted : t.completed = false) {tr : Tree} (htr : Tbl.get? s.simt.trees t.tree = some tr) :
    ∃ u, exec (.taskComplete id) s = .next u
      ∧ Tbl.get? u.simt.tasks id = (if s.taskBusy id then some { t with completed := true } else none)
      ∧ Tbl.get? u.simt.trees t.tree = (if tr.counter ≤ 1 then none else some { tr with counter := tr.counter - 1 }) := by
  refine ⟨_, exec_taskComplete_first ht hdone hcompleted, ?_⟩
  split
  · exact ⟨completeTask_tasks s id t, completeTask_trees htr⟩
  · rw [soon_simt, dropTask_trees]
    exact ⟨dropTask_tasks .., completeTask_trees htr⟩

end TaskComplete

end Sys2Proof.Machine


namespace Sys2Proof.Machine

/-! ### TEAM_RESOURCE_FREE, TEAM_PLACEMENT and PROGRESS_SWAP (R14, R13, R28) -/

/-- The rows and slots of a team's exited groups freed (R14). -/
def State.rowsFreed (s : State) (t : Team) : State :=
  let gone := t.groups.filter fun gid => (s.group? gid).all Group.exited && !s.matrixBusy gid
  s.modSimt fun x => { x with
    accs := gone.foldl Tbl.del x.accs
    slots := x.slots.filter fun y => !gone.contains y.2.owner }

/-- A team that is done freed: its rows, and its local store. -/
def State.teamFreed (s : State) (id : Nat) (t : Team) : State :=
  (s.rowsFreed t).modSimt fun x => { x with
    teams := Tbl.put x.teams id { t with state := .freed }
    locals := Tbl.del x.locals id
    localPoison := Tbl.del x.localPoison id
    localErrs := Tbl.del x.localErrs id }

theorem teamFreed_teams (s : State) (id : Nat) (t : Team) :
    Tbl.get? (s.teamFreed id t).simt.teams id = some { t with state := .freed } := Tbl.get?_put_same ..

theorem teamFreed_locals (s : State) (id : Nat) (t : Team) : Tbl.get? (s.teamFreed id t).simt.locals id = none :=
  Tbl.get?_del_same ..

section TeamResourceFree

variable {s : State} {id : Nat} {t : Team} (ht : Tbl.get? s.simt.teams id = some t)
include ht

theorem exec_teamResourceFree_stays (hstate : t.state ≠ .resident) : exec (.teamResourceFree id) s = .next s := by
  change execTeamResourceFree id s = _
  simp [execTeamResourceFree, ht, hstate]

theorem exec_teamResourceFree_done (hstate : t.state = .resident) (hdone : s.teamDone id t = true) :
    exec (.teamResourceFree id) s
      = .next ((s.teamFreed id t).soon (.teamPlacement ((s.teamFreed id t).partOfQueue ((s.teamFreed id t).ctxOfTeam t)))) := by
  have hrows : (s.rowsFreed t).teamDone id t = true := hdone
  have hfreed : (if (s.rowsFreed t).teamDone id t then s.teamFreed id t else s.rowsFreed t) = s.teamFreed id t := if_pos hrows
  change execTeamResourceFree id s = _
  unfold execTeamResourceFree
  rw [ht]
  dsimp only
  rw [if_neg (not_not.mpr hstate)]
  exact congrArg (fun u : State => Host.Outcome.next (u.soon (.teamPlacement (u.partOfQueue (u.ctxOfTeam t))))) hfreed

end TeamResourceFree

theorem exec_teamPlacement_idle {s : State} {part : Nat} (h : s.waitingTeams part = []) : exec (.teamPlacement part) s = .next s := by
  change execTeamPlacement part s = _
  simp [execTeamPlacement, h]

theorem exec_teamPlacement_full {s : State} {part : Nat} (h : s.waitingTeams part ≠ [])
    (hnone : (s.waitingTeams part).findSome? (fun (w, t) => (s.chooseCore w t).map fun core => (w, t, core)) = none) :
    exec (.teamPlacement part) s = .next (s.watchCores part) := by
  change execTeamPlacement part s = _
  unfold execTeamPlacement
  dsimp only
  rw [hnone]
  simp [h]

theorem exec_teamPlacement_fits {s : State} {part core : Nat} {w : Waiting} {t : Task}
    (h : (s.waitingTeams part).findSome? (fun (w, t) => (s.chooseCore w t).map fun core => (w, t, core)) = some (w, t, core)) :
    exec (.teamPlacement part) s = .next ((s.placeAt w t core ((s.roomAt core [] w).getD 0)).soon (.teamPlacement part)) := by
  change execTeamPlacement part s = _
  unfold execTeamPlacement
  dsimp only
  rw [h]

section ProgressSwap

variable {s : State} {core : Nat}

theorem exec_progressSwap_idle (h : s.waitingTeams (s.partOfDie (dieOfCore core)) = []) :
    exec (.progressSwap core) s = .next s := by
  change execProgressSwap core s = _
  simp [execProgressSwap, h]

variable {w : Waiting} {t : Task} {r : List (Waiting × Task)}
  (h : s.waitingTeams (s.partOfDie (dieOfCore core)) = (w, t) :: r)
include h

theorem exec_progressSwap_early (hwindow : s.ac < s.windowEnd core) :
    exec (.progressSwap core) s = .next (s.at (s.windowEnd core) (.progressSwap core)) := by
  change execProgressSwap core s = _
  simp [execProgressSwap, h, hwindow]

variable (hwindow : s.windowEnd core ≤ s.ac)
include hwindow

theorem exec_progressSwap_barred (hallowed : s.coreAllowed core w t = false) :
    exec (.progressSwap core) s = .next (s.at (s.ac + 1) (.progressSwap core)) := by
  change execProgressSwap core s = _
  simp [execProgressSwap, h, Nat.not_lt.mpr hwindow, hallowed]

variable (hallowed : s.coreAllowed core w t = true)
include hallowed

theorem exec_progressSwap_swaps {b : Nat} (hb : (s.fewest core w [] [] (s.blockedTeams core)).b = some b) :
    exec (.progressSwap core) s = .next (((s.fewest core w [] [] (s.blockedTeams core)).out.foldl State.swapOut
      (s.setSwapfull (s.fewest core w [] [] (s.blockedTeams core)).full)).placeAt w t core b) := by
  change execProgressSwap core s = _
  simp [execProgressSwap, h, Nat.not_lt.mpr hwindow, hallowed, hb]

theorem exec_progressSwap_full (hb : (s.fewest core w [] [] (s.blockedTeams core)).b = none) :
    exec (.progressSwap core) s = .next ((s.setSwapfull (s.fewest core w [] [] (s.blockedTeams core)).full).at (s.ac + 1)
      (.progressSwap core)) := by
  have hac : (s.setSwapfull (s.fewest core w [] [] (s.blockedTeams core)).full).ac = s.ac := by
    refine foldl_keeps State.ac (fun u i => ?_) _ _
    split <;> rfl
  change execProgressSwap core s = _
  simp [execProgressSwap, h, Nat.not_lt.mpr hwindow, hallowed, hb, hac]

end ProgressSwap

/-! ### SPAWN_ACCEPT (R277) -/

section SpawnAccept

variable {s : State} {gid sp id len : Nat} {g : Group} {p : Split} {x : SpawnTry} {m : Marks} (hg : s.group? gid = some g)
  (hp : g.split? sp = some p) (hpark : p.park = some (.spawnFull id x m len))
include hg hp hpark

theorem exec_spawnAccept_waits (hfull : s.spawnFull g.place.ctx x.sq (((s.taskOf g).map Task.tree).getD 0) = true) :
    exec (.spawnAccept gid sp) s = .next s := by
  change execSpawnAccept gid sp s = _
  simp [execSpawnAccept, hg, hp, hpark, hfull]

theorem exec_spawnAccept (hfull : s.spawnFull g.place.ctx x.sq (((s.taskOf g).map Task.tree).getD 0) = false) :
    exec (.spawnAccept gid sp) s = .next ((((s.modFlight gid id fun f => { f with kind := .reply }).spawnTask gid g id x).resumeAfter
      gid sp m len).later (.variableLatencyResult gid id)) := by
  change execSpawnAccept gid sp s = _
  simp [execSpawnAccept, hg, hp, hpark, hfull]

end SpawnAccept

/-! ### FBREPLAY (R360) -/

theorem badReplay_fbBad (s : State) (die : Nat) : (s.badReplay die).simt.fbBad.contains die = true := by
  simp only [State.badReplay, State.modSimt]
  split
  next h => exact h
  next => simp

theorem exec_fbreplay_bad {s : State} {die i : Nat} (h : s.fbEntry? die i = none) :
    exec (.fbreplayRetry die i) s = .next (s.badReplay die) ∧ exec (.fbreplayAbandon die i) s = .next (s.badReplay die) := by
  change execFbreplayRetry die i s = _ ∧ execFbreplayAbandon die i s = _
  simp [execFbreplayRetry, execFbreplayAbandon, h]

theorem fbFree_fbEntry? (s : State) (die i : Nat) : (s.fbFree die i).fbEntry? die i = none := by
  simp [State.fbFree, State.fbEntry?, State.modSimt, Tbl.getD]

theorem raiseHalt_halt {s : State} {q : Nat} (hstate : (s.ctx q).state = 1) (hhalt : (s.ctx q).halt = none) (h : Halt) :
    ((s.raiseHalt q h).ctx q).halt = some h := by
  have hput (u : State) (c : Ctx) : (((u.putCtx q c).discardAll q).laterWithin 2048 (.skidEnd q)).ctx q = c :=
    ctx_putCtx_same ..
  unfold State.raiseHalt
  simp [hstate, hhalt, hput]

section Fbreplay

variable {s : State} {die i : Nat} {e : FbEntry} (he : s.fbEntry? die i = some e)
include he

theorem exec_fbreplayRetry_split (hcopy : e.copy = none) :
    exec (.fbreplayRetry die i) s = .next ((s.fbFree die i).wake e.gid e.sp) := by
  change execFbreplayRetry die i s = _
  simp [execFbreplayRetry, he, State.fbResume, hcopy]

theorem exec_fbreplayAbandon_split (hcopy : e.copy = none) : exec (.fbreplayAbandon die i) s
    = .next (((s.fbFree die i).modSplit e.gid e.sp fun p => { p with park := none }).haltFlt e.gid e.sp ⟨6, e.va, e.lane⟩) := by
  change execFbreplayAbandon die i s = _
  simp [execFbreplayAbandon, he, hcopy]

variable {id : Nat} (hcopy : e.copy = some id)
include hcopy

theorem exec_fbreplayRetry_gone (hc : Tbl.get? s.simt.copies id = none) :
    exec (.fbreplayRetry die i) s = .next (s.fbFree die i) := by
  have hfree : Tbl.get? (s.fbFree die i).simt.copies id = none := hc
  change execFbreplayRetry die i s = _
  simp [execFbreplayRetry, he, State.fbResume, hcopy, hfree]

variable {c : Copy} (hc : Tbl.get? s.simt.copies id = some c)
include hc

theorem exec_fbreplayRetry_copy : exec (.fbreplayRetry die i) s
    = .next (((s.fbFree die i).modCopy id fun k => { k with stopped := false, cause := none }).later (c.nextEvent id)) := by
  have hfree : Tbl.get? (s.fbFree die i).simt.copies id = some c := hc
  change execFbreplayRetry die i s = _
  simp [execFbreplayRetry, he, State.fbResume, hcopy, hfree]

theorem exec_fbreplayAbandon_copy (hstate : (s.ctx c.ctx).state = 1) (hhalt : (s.ctx c.ctx).halt = none) :
    ∃ u, exec (.fbreplayAbandon die i) s = .next u ∧ (u.ctx c.ctx).halt.map Halt.cause = some 6 := by
  have hfree : (e.copy.bind (Tbl.get? (s.fbFree die i).simt.copies)) = some c := by
    rw [hcopy]
    exact hc
  refine ⟨?_, ?_, ?_⟩
  rotate_left
  · change execFbreplayAbandon die i s = _
    unfold execFbreplayAbandon
    rw [he]
    dsimp only
    rw [hfree]
  · exact congrArg (Option.map Halt.cause) (raiseHalt_halt (by exact hstate) (by exact hhalt) _)

end Fbreplay

/-! ### The obligation -/

theorem exec_runEndMerge (s : State) (gid sp : Nat) : exec (.runEndMerge gid sp) s = .next (s.runEnd gid sp) := rfl

section RunEndMerge

variable {s : State} {gid a b : Nat} {g : Group} {p o : Split} (hg : s.group? gid = some g) (hp : g.split? b = some p)
  (hready : p.ready = false) (hpark : p.park = none) (hdue : p.readyAt ≤ s.ac) (hw : (p.wpend && g.pendingAny) = false)
  (hheld : p.held = false) (hsets : g.sets = [])
include hg hp hready hpark hdue hw hheld hsets

theorem exec_runEndMerge_alone (hsplits : g.splits = [(b, p)]) : ∃ u, exec (.runEndMerge gid b) s = .next u
    ∧ (u.group? gid).bind (·.split? b) = some (p.readied s.ac) := by
  refine ⟨_, (exec_runEndMerge ..).trans (congrArg _ (runEnd_readied hg hp hready hpark hdue hw hheld)), ?_⟩
  have hput : (g.putSplit b (p.readied s.ac)).splits = [(b, p.readied s.ac)] := by
    simp [Group.putSplit, hsplits, Tbl.put, Tbl.del, Tbl.ins]
  rw [mergeReady_alone (group?_putGroup_same ..) hput hsets, group?_putGroup_same]
  exact split?_putSplit_same ..

theorem exec_runEndMerge_pair (hsplits : g.splits = [(a, o), (b, p)]) (hab : a < b) (ho : o.ready = true) (hoheld : o.held = false)
    (hpc : o.pc = p.pc) (hmode : modeLast o.modeQ o.mode = modeLast p.modeQ p.mode) : ∃ u, exec (.runEndMerge gid b) s = .next u
      ∧ ((u.group? gid).bind (·.split? a)).map Split.mask = some (p.mask ||| o.mask) ∧ (u.group? gid).bind (·.split? b) = none := by
  have hput : (g.putSplit b (p.readied s.ac)).splits = [(a, o), (b, p.readied s.ac)] := by
    simp [Group.putSplit, hsplits, Tbl.put, Tbl.del, Tbl.ins, hab.ne, Nat.not_lt.mpr hab.le]
  have hagrees : o.agrees (p.readied s.ac) = true := by
    simp [Split.agrees, Split.readied, hpc, hmode, modeLast]
  obtain ⟨h, hh, hmask, hgone⟩ := mergeReady_pair (s := s.putGroup gid (g.putSplit b (p.readied s.ac)))
    (group?_putGroup_same ..) hput hsets hab ho hoheld hagrees
  refine ⟨_, (exec_runEndMerge ..).trans (congrArg _ (runEnd_readied hg hp hready hpark hdue hw hheld)), ?_, ?_⟩
  · rw [hh, BitVec.or_comm]
    exact hmask
  · rw [hh]
    exact hgone

end RunEndMerge

theorem debugOps_refused {s : State} {gid r : Nat} {g : Group} (hg : s.group? gid = some g)
    (hr : s.debugRefused g.place.ctx = some r) : ∀ i ∈ [Instr.stepon gid, .stepoff gid, .goStep gid],
      exec i s = .next (s.debugResult g.place.ctx r 0#64) := by
  intro i hi
  simp only [List.mem_cons, List.not_mem_nil, or_false] at hi
  rcases hi with rfl | rfl | rfl <;> exact debugOp_refused hg hr _

/-- Settles O50: one lemma per event and case, above. -/
theorem taskAndGroupEvents : Obligations.TaskAndGroupEvents := by
  unfold Obligations.TaskAndGroupEvents
  refine ⟨fun s k => ⟨fun hidle c hc => ?_, exec_runStart_none⟩, fun s gid a b g p o hg hp => ⟨fun h => ?_, fun hready hpark hdue =>
    ⟨fun hw hpend => ?_, fun hw hheld hsets => ⟨exec_runEndMerge_alone hg hp hready hpark hdue hw hheld hsets,
      exec_runEndMerge_pair hg hp hready hpark hdue hw hheld hsets⟩⟩⟩,
    fun s gid g hg => ⟨exec_groupExit hg, exec_groupExit_stays hg⟩,
    fun s id t ht => ⟨fun hstate hdone => ?_, exec_teamResourceFree_stays ht⟩,
    fun s part => ⟨exec_teamPlacement_idle, exec_teamPlacement_full, fun w t core => exec_teamPlacement_fits⟩,
    fun s id t ht => ⟨exec_taskComplete_waits ht, fun hdone hcompleted => ?_, fun tr hdone hcompleted htr =>
      exec_taskComplete ht hdone hcompleted htr⟩,
    fun s gid sp id len g p x m hg hp hpark => ⟨exec_spawnAccept_waits hg hp hpark, exec_spawnAccept hg hp hpark⟩,
    fun s core => ⟨exec_progressSwap_idle, fun w t r h => ⟨exec_progressSwap_early h, exec_progressSwap_barred h,
      fun plan hwindow hallowed hplan => ?_⟩⟩,
    fun s die i => ⟨fun h => ?_, fun e he => ⟨fbFree_fbEntry? .., fun hcopy => ⟨exec_fbreplayRetry_split he hcopy,
      exec_fbreplayAbandon_split he hcopy⟩, fun id hcopy => ⟨exec_fbreplayRetry_gone he hcopy, fun c hc =>
        ⟨exec_fbreplayRetry_copy he hcopy hc, exec_fbreplayAbandon_copy he hcopy hc⟩⟩⟩⟩,
    fun s gid g hg => ⟨fun r hr => debugOps_refused hg hr, fun hr => ⟨exec_stepon hg hr, exec_stepoff hg hr, exec_goStep hg hr⟩⟩⟩
  · exact ⟨_, exec_runStart_chosen hidle hc, rfl, putSched_cur ..⟩
  · rw [exec_runEndMerge, runEnd_not_due hg hp h]
  · rw [exec_runEndMerge, runEnd_wmark hg hp hready hpark hdue hw hpend]
  · exact ⟨_, exec_teamResourceFree_done ht hstate hdone, teamFreed_teams .., teamFreed_locals ..⟩
  · have hagain := exec_taskComplete_again ht hdone hcompleted
    exact ⟨fun hbusy => by rw [hagain, if_pos hbusy], fun hbusy => by rw [hagain, if_neg (by simp [hbusy])]⟩
  · subst hplan
    exact ⟨fun b => exec_progressSwap_swaps h hwindow hallowed, exec_progressSwap_full h hwindow hallowed⟩
  · exact ⟨_, (exec_fbreplay_bad h).1, (exec_fbreplay_bad h).2, badReplay_fbBad .., rfl⟩

end Sys2Proof.Machine

/-! ## O47: handing contexts over, freezing them, and resetting cores (R287, R288, R290, R291) -/

namespace Sys2Proof.Machine

/-! ### A control thread's instruction that ends, or stays where it is -/

section ThreadOnly

variable {s : State} {tid : Nat} {t : Thread} (h : s.AtThread tid t) {level : Nat} {spec : Rd → Spec}
  {body : Nat → Thread → Rd → Except (Nat × Nat) (State × Option W64)} {u : State} (hl : level ≤ t.lvl)
  (hp : t.Passes (spec (t.rd tid)))
include h hl hp

theorem threadOnly_done (hd : body tid t (t.rd tid) = .ok (u, none)) :
    threadOnly s level spec body = .next (u.sysDone tid (spec (t.rd tid)).len) := threadOnly_next h hl hp hd

theorem threadOnly_stays (hd : body tid t (t.rd tid) = .ok (u, some t.pc)) :
    threadOnly s level spec body = .next (u.modThread tid fun y => { y with pc := t.pc }).pop := threadOnly_next h hl hp hd

end ThreadOnly

/-! ### The order of the conditions on a selected context (R276, R291) -/

section Handover

variable {s : State} {tid : Nat} {t : Thread} (h : s.AtThread tid t) (hl : 1 ≤ t.lvl) {m : Marks} {d a q : Nat} {srcs : List Nat}
  (hp : t.Passes (Spec.of m 1 false (codeG a :: srcs) [codeG d])) (hbad : selectorBad ((t.rd tid).g a).toNat = false)
  (hsel : s.selected tid ((t.rd tid).g a).toNat = some q) (hwait : s.mustWait tid q (s.ticket tid) = false)
include h hl hp hbad hsel hwait

/-- An instruction on a context that has its turn at the root of trust answers what its body answers. -/
theorem handoverOp_answers {body : State → Nat → Rd → Nat → Except (Nat × Nat) Sys} {r : Sys}
    (hr : body (s.unqueue tid) tid (t.rd tid) q = .ok r) :
    handoverOp s m d a srcs body = .next (((s.unqueue tid).answer tid d r).sysDone tid 1) := by
  refine threadOnly_done h hl hp ?_
  simp only [hbad, hsel, hwait, hr]
  rfl

end Handover

theorem unqueue_ctx (s : State) (tid q : Nat) : (s.unqueue tid).ctx q = s.ctx q := rfl

/-! ### CTXABORT and CTXCOMMIT (R287) -/

section Abort

variable {s : State} {tid : Nat} {t : Thread} (h : s.AtThread tid t) (hl : 1 ≤ t.lvl) {x : Rr} {q : Nat}
  (hp : t.Passes (Spec.of x.m 1 false [codeG x.a] [codeG x.d])) (hbad : selectorBad ((t.rd tid).g x.a).toNat = false)
  (hsel : s.selected tid ((t.rd tid).g x.a).toNat = some q) (hwait : s.mustWait tid q (s.ticket tid) = false)
include h hl hp hbad hsel hwait

theorem exec_ctxabort_frozen (hf : (s.ctx q).frozen = true) :
    exec (.ctxabort x) s = .next (((s.unqueue tid).fail tid x.d stBusy).sysDone tid 1) := by
  change execCtxabort x s = _
  unfold execCtxabort
  refine handoverOp_answers h hl hp hbad hsel hwait (r := .error stBusy) ?_
  simp [unqueue_ctx, hf]

variable (hf : (s.ctx q).frozen = false)
include hf

theorem exec_ctxabort_sealed (hstate : (s.ctx q).state = 3) : exec (.ctxabort x) s
    = .next (((((s.unqueue tid).modCtx q fun c => { c with version := c.version + 2 }).resumeCtx q).setG tid x.d 0#64).sysDone tid 1) := by
  change execCtxabort x s = _
  unfold execCtxabort
  refine handoverOp_answers h hl hp hbad hsel hwait
    (r := .ok (((s.unqueue tid).modCtx q fun c => { c with version := c.version + 2 }).resumeCtx q)) ?_
  simp [unqueue_ctx, hf, hstate]

theorem exec_ctxabort_halted (hstate : (s.ctx q).state = 2) :
    exec (.ctxabort x) s = .next ((((s.unqueue tid).resumeCtx q).setG tid x.d 0#64).sysDone tid 1) := by
  change execCtxabort x s = _
  unfold execCtxabort
  refine handoverOp_answers h hl hp hbad hsel hwait (r := .ok ((s.unqueue tid).resumeCtx q)) ?_
  simp [unqueue_ctx, hf, hstate]

theorem exec_ctxabort_state (h2 : (s.ctx q).state ≠ 2) (h3 : (s.ctx q).state ≠ 3) :
    exec (.ctxabort x) s = .next (((s.unqueue tid).fail tid x.d stState).sysDone tid 1) := by
  change execCtxabort x s = _
  unfold execCtxabort
  refine handoverOp_answers h hl hp hbad hsel hwait (r := .error stState) ?_
  simp [unqueue_ctx, hf, h2, h3]

end Abort

section Commit

variable {s : State} {tid : Nat} {t : Thread} (h : s.AtThread tid t) (hl : 1 ≤ t.lvl) {x : Rrr} {q : Nat}
  (hp : t.Passes (Spec.of x.m 1 false [codeG x.a, codeG x.c] [codeG x.d]))
  (hbad : selectorBad ((t.rd tid).g x.a).toNat = false) (hsel : s.selected tid ((t.rd tid).g x.a).toNat = some q)
  (hwait : s.mustWait tid q (s.ticket tid) = false)
include h hl hp hbad hsel hwait

theorem exec_ctxcommit_frozen (hf : (s.ctx q).frozen = true) :
    exec (.ctxcommit x) s = .next (((s.unqueue tid).fail tid x.d stBusy).sysDone tid 1) := by
  change execCtxcommit x s = _
  unfold execCtxcommit
  refine handoverOp_answers h hl hp hbad hsel hwait (r := .error stBusy) ?_
  simp [unqueue_ctx, hf]

variable (hf : (s.ctx q).frozen = false)
include hf

theorem exec_ctxcommit_state (hstate : (s.ctx q).state ≠ 3) :
    exec (.ctxcommit x) s = .next (((s.unqueue tid).fail tid x.d stState).sysDone tid 1) := by
  change execCtxcommit x s = _
  unfold execCtxcommit
  refine handoverOp_answers h hl hp hbad hsel hwait (r := .error stState) ?_
  simp [unqueue_ctx, hf, hstate]

theorem exec_ctxcommit (hstate : (s.ctx q).state = 3) (hdest : (t.rd tid).g x.c = 0#64) :
    exec (.ctxcommit x) s = .next ((((s.unqueue tid).commitCtx q false).setG tid x.d 0#64).sysDone tid 1) := by
  change execCtxcommit x s = _
  unfold execCtxcommit
  refine handoverOp_answers h hl hp hbad hsel hwait (r := .ok ((s.unqueue tid).commitCtx q false)) ?_
  simp [unqueue_ctx, hf, hstate, hdest]

end Commit

/-- A context taken off the die has no group left there. -/
theorem split_groups_other {x : Simt} {q : Nat} {g : Nat × Group} (hg : g ∈ (x.split q false).groups) : g.2.place.ctx ≠ q := by
  intro hq
  obtain ⟨hmem, hsel⟩ := List.mem_filter.mp hg
  have hkey : g.1 ∈ (x.groups.filter fun g => g.2.place.ctx == q).map Prod.fst :=
    List.mem_map_of_mem (List.mem_filter.mpr ⟨hmem, beq_iff_eq.mpr hq⟩)
  simp only [beq_iff_eq, List.contains_eq_mem, decide_eq_false_iff_not] at hsel
  exact hsel hkey

theorem commitCtx_state (s : State) (q : Nat) (b : Bool) : ((s.commitCtx q b).ctx q).state = 4 := by
  unfold State.commitCtx
  dsimp only
  rw [State.ctx, (recheckSpawns_asks _).simt]
  exact congrArg Ctx.state (ctx_putCtx_same ..)

theorem commitCtx_residentGroups (s : State) (q : Nat) (b : Bool) : (s.commitCtx q b).residentGroups q = [] := by
  have hgroups : (s.commitCtx q b).simt.groups = (((s.buryLost q).outTeams q).simt.split q false).groups := by
    unfold State.commitCtx
    dsimp only
    rw [(recheckSpawns_asks _).simt]
    rfl
  rw [State.residentGroups, List.map_eq_nil_iff, List.filter_eq_nil_iff, hgroups]
  intro g hg hmine
  exact split_groups_other hg (beq_iff_eq.mp (Bool.and_eq_true_iff.mp hmine).1)

/-! ### CTXLOAD (R287, R290) -/

theorem recheckDeferred_asks (s : State) : s.Asks s.recheckDeferred := .foldl (fun _ _ => .soon ..) _ _

theorem resumeCopies_ctxs (s : State) (p : Copy → Bool) (core : Option Nat) : (s.resumeCopies p core).simt.ctxs = s.simt.ctxs := by
  refine foldl_keeps (fun t => t.simt.ctxs) (fun t c => ?_) _ _
  rfl

/-- What waits in a context that has come back is asked for again; no context changes. -/
theorem wakeCtx_ctxs (s : State) (q : Nat) : (s.wakeCtx q).simt.ctxs = s.simt.ctxs := by
  unfold State.wakeCtx
  refine (congrArg Simt.ctxs (recheckDeferred_asks _).simt).trans ((resumeCopies_ctxs ..).trans (congrArg Simt.ctxs ?_))
  refine (State.Asks.foldl (fun t c => ?_) _ _).simt.trans ((State.Asks.foldl (fun t p => ?_) _ _).simt.trans
    (State.Asks.foldl (fun t b => ?_) _ _).simt)
  · exact .soon ..
  · split
    · exact .soon ..
    · exact .refl t
  · exact .soon ..

theorem loadCtx_state (s : State) (q : Nat) (x : Loaded) (h : List Byte) (nonce : Option (List Byte)) :
    ((s.loadCtx q x h nonce).ctx q).state = 1 := by
  unfold State.loadCtx
  dsimp only
  rw [State.ctx, wakeCtx_ctxs]
  exact congrArg Ctx.state (ctx_putCtx_same ..)

section CheckLoad

variable {s : State} {tid va q : Nat} {h : List Byte}

theorem checkLoad_frozen (tok : Option (List Byte)) (hf : (s.ctx q).frozen = true) :
    s.checkLoad tid va q tok h = .ok (.error stBusy) := by
  simp [State.checkLoad, hf]

theorem checkLoad_resident (hf : (s.ctx q).frozen = false) (hpart : (s.part (s.partOfQueue q)).state = 0)
    (hopen : (s.part (s.partOfQueue q)).refusing = false) (hstate : (s.ctx q).state ≠ 4) :
    s.checkLoad tid va q none h = .ok (.error stState) := by
  simp [State.checkLoad, hf, hpart, hopen, hstate]

/-- A CTXLOAD that succeeds leaves its context RESIDENT. -/
theorem checkLoad_success {tok : Option (List Byte)} {v : State} (hv : s.checkLoad tid va q tok h = .ok (.ok v)) :
    (v.ctx q).state = 1 := by
  unfold State.checkLoad at hv
  dsimp only at hv
  split at hv
  · cases hv
  split at hv
  · cases hv
  split at hv
  · cases hv
  split at hv
  · cases hv
  split at hv
  · cases hv
  split at hv
  · cases hv
  split at hv
  · cases hv
  · cases hv
  split at hv
  · cases hv
  obtain rfl := Except.ok.inj (Except.ok.inj hv)
  exact loadCtx_state ..

end CheckLoad

section Load

variable {s : State} {tid : Nat} {t : Thread} (h : s.AtThread tid t) (hl : 1 ≤ t.lvl) {x : Rrr} {hd : List Byte}
  (hp : t.Passes (Spec.of x.m 1 false [codeG x.a, codeG x.c] [codeG x.d]))
  (hrec : (s.unqueue tid).record tid ((t.rd tid).g x.a).toNat 512 = .ok hd) (htok : (t.rd tid).g x.c = 0#64)
include h hl hp hrec

theorem exec_ctxload_badHeader (hbad : fieldAt hd 0 4 ≠ 0x4B534349 ∨ fieldAt hd 4 2 ≠ 1) :
    exec (.ctxload x) s = .next (((s.unqueue tid).fail tid x.d stBadDesc).sysDone tid 1) := by
  change execCtxload x s = _
  unfold execCtxload
  refine threadOnly_done h hl hp ?_
  simp only [hrec, if_pos hbad]

variable (hmagic : fieldAt hd 0 4 = 0x4B534349) (hver : fieldAt hd 4 2 = 1)
include htok hmagic hver

theorem exec_ctxload_noTarget {r : Nat} (htarget : (s.unqueue tid).loadTarget (s.partOfThread tid) none hd = .error r) :
    exec (.ctxload x) s = .next (((s.unqueue tid).fail tid x.d r).sysDone tid 1) := by
  have htarget' : (s.unqueue tid).loadTarget ((s.unqueue tid).partOfThread tid) none hd = .error r := htarget
  change execCtxload x s = _
  unfold execCtxload
  refine threadOnly_done h hl hp ?_
  simp [hrec, hmagic, hver, State.tokenAt, htok, htarget']

variable {q : Nat} (htarget : (s.unqueue tid).loadTarget (s.partOfThread tid) none hd = .ok q)
  (hwait : (s.unqueue tid).mustWait tid q (s.ticket tid) = false)
include htarget hwait

theorem exec_ctxload_answers {r : Sys} (hr : (s.unqueue tid).checkLoad tid ((t.rd tid).g x.a).toNat q none hd = .ok r) :
    exec (.ctxload x) s = .next (((s.unqueue tid).answer tid x.d r).sysDone tid 1) := by
  have htarget' : (s.unqueue tid).loadTarget ((s.unqueue tid).partOfThread tid) none hd = .ok q := htarget
  change execCtxload x s = _
  unfold execCtxload
  refine threadOnly_done h hl hp ?_
  simp [hrec, hmagic, hver, State.tokenAt, htok, htarget', hwait, hr]

end Load

end Sys2Proof.Machine


namespace Sys2Proof.Machine

/-! ### FREEZE (R453) -/

section Freeze

variable {s : State} {tid : Nat} {t : Thread} (h : s.AtThread tid t) (hl : 2 ≤ t.lvl)
include h hl

theorem sysOp_answers {m : Marks} {len d : Nat} {bad : Bool} {srcs : List Nat}
    {body : Nat → Thread → Rd → Except (Nat × Nat) Sys} {r : Sys} (hp : t.Passes (Spec.of m len bad srcs [codeG d]))
    (hr : body tid t (t.rd tid) = .ok r) : sysOp s 2 m len d bad srcs body = .next ((s.answer tid d r).sysDone tid len) := by
  refine threadOnly_done h hl hp ?_
  simp only [hr]

variable {x : RrOp} {q : Nat} (hp : t.Passes (Spec.of x.m x.len false (codeG x.a :: x.c.uCodes) [codeG x.d]))
  (hbad : selectorBad ((t.rd tid).g x.a).toNat = false) (hsel : s.selected tid ((t.rd tid).g x.a).toNat = some q)
include hp hbad hsel

theorem exec_freeze_policy (hpolicy : bitOf (s.policyOf (s.ctx q).eid) 0 = false) (hop : ((t.rd tid).uni x.c).toNat ≤ 1) :
    exec (.freeze x) s = .next ((s.fail tid x.d stPolicy).sysDone tid x.len) := by
  change execFreeze x s = _
  unfold execFreeze
  refine sysOp_answers h hl hp (r := .error stPolicy) ?_
  simp [hbad, hsel, hpolicy, Nat.not_lt.mpr hop]

variable (hpolicy : bitOf (s.policyOf (s.ctx q).eid) 0 = true) (hbusy : s.sealBusy q = false) (hstate : (s.ctx q).state = 1)
include hpolicy hbusy hstate

theorem exec_freeze_freezes (hf : (s.ctx q).frozen = false) (hop : ((t.rd tid).uni x.c).toNat = 1) :
    exec (.freeze x) s = .next (((s.freezeCtx q).setG tid x.d 0#64).sysDone tid x.len) := by
  change execFreeze x s = _
  unfold execFreeze
  refine sysOp_answers h hl hp (r := .ok (s.freezeCtx q)) ?_
  simp [hbad, hsel, hpolicy, hbusy, hstate, hf, hop]

theorem exec_freeze_thaws (hf : (s.ctx q).frozen = true) (hop : ((t.rd tid).uni x.c).toNat = 0) :
    exec (.freeze x) s = .next (((s.thawCtx q).setG tid x.d 0#64).sysDone tid x.len) := by
  change execFreeze x s = _
  unfold execFreeze
  refine sysOp_answers h hl hp (r := .ok (s.thawCtx q)) ?_
  simp [hbad, hsel, hpolicy, hbusy, hstate, hf, hop]

end Freeze

/-! ### CORERST (R31, R288, R369) -/

/-- What a core's loss leaves to a control thread: the time, and all the threads. -/
def State.clockThreads (s : State) : Nat × Table Thread := (s.ac, s.hub.threads)

theorem modGroup_clockThreads (s : State) (gid : Nat) (f : Group → Group) : (s.modGroup gid f).clockThreads = s.clockThreads := by
  unfold State.modGroup
  split <;> rfl

theorem dropParked_clockThreads (s : State) (gids : List Nat) : (s.dropParked gids).clockThreads = s.clockThreads := by
  refine foldl_keeps State.clockThreads (fun t r => ?_) _ _
  unfold State.dropAsked
  dsimp only
  split
  · rfl
  · exact modGroup_clockThreads ..

theorem recheckPublishes_asks (s : State) (q : Nat) : s.Asks (s.recheckPublishes q) := by
  refine .foldl (fun t p => ?_) _ _
  split
  · exact .soon ..
  · exact .refl t

theorem State.Asks.clockThreads {s u : State} (h : s.Asks u) : u.clockThreads = s.clockThreads := by
  obtain ⟨l, rfl⟩ := h
  rfl

theorem loseTeam_clockThreads (s : State) (id : Nat) (t : Team) : (s.loseTeam id t).clockThreads = s.clockThreads :=
  (recheckPublishes_asks ..).clockThreads.trans (dropParked_clockThreads ..)

theorem raiseHalt_clockThreads (s : State) (q : Nat) (h : Halt) : (s.raiseHalt q h).clockThreads = s.clockThreads := by
  have hdump : (s.dumpBreak q).clockThreads = s.clockThreads := by
    unfold State.dumpBreak
    split <;> rfl
  unfold State.raiseHalt
  dsimp only
  split
  · rfl
  · split
    · exact hdump
    · split <;> rfl

theorem loseCore_clockThreads (s : State) (core : Nat) : (s.loseCore core).clockThreads = s.clockThreads :=
  (foldl_keeps State.clockThreads (fun _ _ => raiseHalt_clockThreads ..) _ _).trans
    (foldl_keeps State.clockThreads (fun _ _ => loseTeam_clockThreads ..) _ _)

/-- A core out of service: its teams are lost, and its reset is under way. -/
def State.coreGone (s : State) (core : Nat) : State :=
  (s.loseCore core).modSimt fun y => { y with coreReset := core :: y.coreReset }

/-- The ac by which a reset that begins now is complete. -/
def State.resetDue (s : State) : Nat := s.ac + min 28000 (Config.latency s.free)

section Corerst

variable {s : State} {tid : Nat} {t : Thread} (h : s.AtThread tid t) (hl : 2 ≤ t.lvl) {x : Op2} {v core : Nat}
  (hp : t.Passes (Spec.of x.m x.len false x.a.uCodes [codeG x.d])) (hv : ((t.rd tid).uni x.a).toNat = v) (hcore : v % 2048 = core)
  (hok : ¬(v / 2048 % 32 ≠ 0 ∨ 2 ^ 17 ≤ v ∨ 1407 < core))
include h hl hp hv hcore hok

theorem exec_corerst_busy (hidle : t.resets = none) (hreset : s.simt.coreReset.contains core = true) :
    exec (.corerst x) s = .next ((s.fail tid x.d stBusy).sysDone tid x.len) := by
  change execCorerst x s = _
  unfold execCorerst
  refine threadOnly_done h hl hp ?_
  simp only [hv, hcore, if_neg hok, hidle, if_pos hreset]

theorem exec_corerst_resets (hidle : t.resets = none) (hreset : s.simt.coreReset.contains core = false)
    (hgated : (s.part (s.die (core / 176)).part).gated = false) (hretired : (s.die (core / 176)).retired.contains (core % 176) = false) :
    ∃ (u : State) (due : Nat), exec (.corerst x) s = .next u ∧ due ≤ s.ac + 28000
      ∧ u.thread tid = { t with resets := some (core, due) } ∧ u.simt.coreReset.contains core = true := by
  obtain ⟨hac, hthreads⟩ := Prod.mk.inj (loseCore_clockThreads s core)
  have hthread : (s.loseCore core).thread tid = t := by
    rw [State.thread, hthreads]
    exact h.2
  have hexec : exec (.corerst x) s
      = .next (((s.coreGone core).drawn.modThread tid fun y => { y with resets := some (core, (s.coreGone core).resetDue) }).modThread
          tid fun y => { y with pc := t.pc }).pop := by
    change execCorerst x s = _
    unfold execCorerst
    refine threadOnly_stays h hl hp ?_
    simp only [hv, hcore, if_neg hok, hidle, hreset, hgated, hretired]
    rfl
  refine ⟨_, (s.coreGone core).resetDue, hexec, ?_, ?_, ?_⟩
  · calc (s.coreGone core).resetDue
      _ ≤ (s.loseCore core).ac + 28000 := Nat.add_le_add_left (Nat.min_le_left ..) _
      _ = s.ac + 28000 := by rw [hac]
  · rw [thread_pop, thread_modThread_same, thread_modThread_same, ← hthread]
    rfl
  · exact List.contains_iff_mem.mpr List.mem_cons_self

theorem exec_corerst_waits {due : Nat} (hresets : t.resets = some (core, due)) (hdue : s.ac < due) :
    exec (.corerst x) s = .next (s.threadDone tid { t with pc := t.pc }) := by
  have hexec : exec (.corerst x) s = .next (s.modThread tid fun y => { y with pc := t.pc }).pop := by
    change execCorerst x s = _
    unfold execCorerst
    refine threadOnly_stays h hl hp ?_
    simp only [hv, hcore, if_neg hok, hresets, if_pos hdue]
  rw [hexec, State.modThread, h.2]
  rfl

/-- The core in service again, or retired, when its reset is complete. -/
def State.coreBack (s : State) (tid core : Nat) (retire : Bool) : State :=
  let w := (s.modThread tid fun y => { y with resets := none }).modSimt fun y => { y with coreReset := y.coreReset.erase core }
  if retire then { w with dies := Tbl.put w.dies (core / 176) { s.die (core / 176) with
    retired := core % 176 :: (s.die (core / 176)).retired } } else w

theorem exec_corerst_ends {due : Nat} (hresets : t.resets = some (core, due)) (hdue : due ≤ s.ac) : exec (.corerst x) s
    = .next (((((s.coreBack tid core (bitOf v 16)).logError (core / 176) (core % 176) 0 4 0 0 core).soon
      (.teamPlacement (s.die (core / 176)).part)).setG tid x.d 0#64).sysDone tid x.len) := by
  change execCorerst x s = _
  unfold execCorerst
  refine threadOnly_done h hl hp ?_
  simp only [hv, hcore, if_neg hok, hresets, if_neg (Nat.not_lt.mpr hdue)]
  rfl

end Corerst

end Sys2Proof.Machine


namespace Sys2Proof.Machine

/-! ### The image of a context and the registers of its caller (R287, R365, R415) -/

theorem setG_g (s : State) (tid d : Nat) (x : W64) : ((s.setG tid d x).thread tid).g = Tbl.fset 0#64 (s.thread tid).g d x := by
  rw [State.setG, thread_modThread_same]
  rfl

theorem setG_sealing (s : State) (tid d : Nat) (x : W64) : ((s.setG tid d x).thread tid).sealing = (s.thread tid).sealing := by
  rw [State.setG, thread_modThread_same]
  rfl

theorem sealDone_sealing (s : State) (tid d : Nat) (x : W64) : ((s.sealDone tid d x).thread tid).sealing = none := by
  rw [State.sealDone, setG_sealing, thread_modThread_same]

theorem sealDone_status (s : State) (tid d : Nat) (x : W64) : Tbl.fget 0#64 ((s.sealDone tid d x).thread tid).g d = x := by
  rw [State.sealDone, setG_g, Tbl.fget_fset_same]

theorem sealDone_other (s : State) (tid : Nat) {d n : Nat} (x : W64) (h : n ≠ d) :
    Tbl.fget 0#64 ((s.sealDone tid d x).thread tid).g n = Tbl.fget 0#64 (s.thread tid).g n := by
  rw [State.sealDone, setG_g, Tbl.fget_fset_other _ _ _ h, thread_modThread_same]

theorem postDie_keepsTables (s : State) (d v : Nat) : s.KeepsTables (s.postDie d v) := by
  have hpost (src : Option Nat) : s.KeepsTables (s.postFrom src none v) := by
    unfold State.postFrom
    split
    · exact .refl s
    · exact .of_eq rfl rfl
  exact hpost _

theorem postWhen_keepsTables (c : Prop) [Decidable c] (s : State) (d v : Nat) :
    s.KeepsTables (if c then s.postDie d v else s) := by
  split
  · exact postDie_keepsTables ..
  · exact .refl s

theorem logError_keepsTables (s : State) (d addr cls kind cause eid core : Nat) :
    s.KeepsTables (s.logError d addr cls kind cause eid core) := by
  unfold State.logError
  dsimp only
  split
  · exact .of_eq rfl rfl
  · refine .trans ?_ (postWhen_keepsTables _ _ d _)
    exact .of_eq rfl rfl

theorem putGroup_keepsTables (s : State) (gid : Nat) (g : Group) : s.KeepsTables (s.putGroup gid g) :=
  ⟨rfl, rfl, rfl, fun _ => ⟨rfl, rfl⟩⟩

theorem meetRegs_keepsTables (s : State) (gid : Nat) (keys : List Nat) : s.KeepsTables (s.meetRegs gid keys) := by
  unfold State.meetRegs
  split
  · exact .refl s
  · dsimp only
    split
    · exact .refl s
    · exact (putGroup_keepsTables ..).trans (.foldl (fun _ _ => logError_keepsTables ..) _ _)

theorem meetAcc_keepsTables (s : State) (gid : Nat) (keys : List Nat) : s.KeepsTables (s.meetAcc gid keys) := by
  unfold State.meetAcc
  split
  · exact .refl s
  · dsimp only
    split
    · exact .refl s
    · exact (putGroup_keepsTables ..).trans (.foldl (fun _ _ => logError_keepsTables ..) _ _)

theorem meetSlot_keepsTables (s : State) (k : Nat) : s.KeepsTables (s.meetSlot k) := by
  unfold State.meetSlot
  split
  · exact .refl s
  next v _ =>
    dsimp only
    split
    · exact .refl s
    · refine .trans ?_ (.foldl (fun _ _ => logError_keepsTables ..) _ _)
      exact ⟨rfl, rfl, rfl, fun _ => ⟨rfl, rfl⟩⟩

theorem meetLocal_keepsTables (s : State) (team off n : Nat) : s.KeepsTables (s.meetLocal team off n) := by
  unfold State.meetLocal
  split
  · dsimp only
    split
    · exact .refl s
    · refine .trans ?_ (.foldl (fun _ _ => logError_keepsTables ..) _ _)
      exact ⟨rfl, rfl, rfl, fun _ => ⟨rfl, rfl⟩⟩
  · exact .refl s

theorem meetGroup_keepsTables (s : State) (gid : Nat) : s.KeepsTables (s.meetGroup gid) := by
  unfold State.meetGroup
  split
  · exact .refl s
  · exact ((State.KeepsTables.foldl (fun _ _ => meetSlot_keepsTables ..) _ s).trans (meetRegs_keepsTables ..)).trans
      (meetAcc_keepsTables ..)

theorem meetTeam_keepsTables (s : State) (id : Nat) : s.KeepsTables (s.meetTeam id) := by
  unfold State.meetTeam
  split
  · exact .refl s
  · exact (State.KeepsTables.foldl meetGroup_keepsTables _ s).trans (meetLocal_keepsTables ..)

theorem bufWrite_keepsTables (buf : List Xlat) (bs : List Byte) (s : State) : s.KeepsTables (s.bufWrite buf bs) := by
  induction buf generalizing s bs with
  | nil => exact .refl s
  | cons x r ih =>
    rw [State.bufWrite]
    exact (write_keepsTables ..).trans (ih ..)

/-- The end of a CTXSEAL once the image is known: its size in g(d + 1), and the image written where the buffer holds it. -/
def State.imageResult (s : State) (tid d size q : Nat) (buf : List Xlat) (x : Image) : State :=
  let s := s.setG tid (d + 1) (BitVec.ofNat 64 x.bytes.length)
  if size < x.bytes.length then s.sealDone tid d (failStatus stNoSpace)
  else
    let s := (s.bufWrite buf x.bytes).modHub fun h => { h with images := Tbl.put h.images (Tbl.next h.images) x }
    (s.modCtx q fun c => { c with state := 3, imageKey := x.key }).sealDone tid d 0#64

theorem writeImage_tag {s : State} {q : Nat} (h : s.recordsHold q = false) (tid d size : Nat) (buf : List Xlat) :
    s.writeImage tid d size q buf = s.sealDone tid d (failStatus stTag) := by
  simp [State.writeImage, h]

/-- A context read for its image: the errors of its resident teams are met, and a fresh key is drawn. -/
def State.imageRead (s : State) (q : Nat) : Nat × State :=
  ((s.simt.teams.filter fun t => s.ctxOfTeam t.2 == q && t.2.state == .resident).foldl (fun s t => s.meetTeam t.1) s).freshKey

/-- The image that a CTXSEAL of a context makes (R365). -/
def State.sealedImage (s : State) (q : Nat) : Image :=
  let c := s.ctx q
  let (key, u) := s.imageRead q
  ⟨u.imageBytes q (c.version + 1) key (u.sealKeyOf c.eid) (u.time (u.partOfQueue q)), c.eid, q, c.version + 1, u.sealKeyOf c.eid, key,
    Simt.reset⟩

theorem imageRead_keepsTables (s : State) (q : Nat) : s.KeepsTables (s.imageRead q).2 :=
  .trans (.foldl (fun u (t : Nat × Team) => meetTeam_keepsTables u t.1) _ s) (.of_eq rfl rfl)

theorem writeImage_result {s : State} {q : Nat} (h : s.recordsHold q = true) (tid d size : Nat) (buf : List Xlat) :
    s.writeImage tid d size q buf = (s.imageRead q).2.imageResult tid d size q buf (s.sealedImage q) := by
  unfold State.writeImage
  rw [h]
  rfl

section ImageResult

variable (s : State) (tid d q : Nat) {size : Nat} (buf : List Xlat) (x : Image)

theorem imageResult_size : Tbl.fget 0#64 ((s.imageResult tid d size q buf x).thread tid).g (d + 1)
    = BitVec.ofNat 64 x.bytes.length := by
  have hsize : Tbl.fget 0#64 ((s.setG tid (d + 1) (BitVec.ofNat 64 x.bytes.length)).thread tid).g (d + 1)
      = BitVec.ofNat 64 x.bytes.length := by
    rw [setG_g, Tbl.fget_fset_same]
  have hwritten : Tbl.fget 0#64 (((s.setG tid (d + 1) (BitVec.ofNat 64 x.bytes.length)).bufWrite buf x.bytes).thread tid).g (d + 1)
      = BitVec.ofNat 64 x.bytes.length := by
    rw [((bufWrite_keepsTables ..).threads tid).1, hsize]
  unfold State.imageResult
  dsimp only
  split
  · exact (sealDone_other _ _ _ (Nat.succ_ne_self d)).trans hsize
  · exact (sealDone_other _ _ _ (Nat.succ_ne_self d)).trans hwritten

theorem imageResult_sealed (h : x.bytes.length ≤ size) : ((s.imageResult tid d size q buf x).ctx q).state = 3
    ∧ Tbl.fget 0#64 ((s.imageResult tid d size q buf x).thread tid).g d = 0#64 := by
  simp only [State.imageResult, if_neg (Nat.not_lt.mpr h)]
  exact ⟨congrArg Ctx.state (ctx_putCtx_same ..), sealDone_status ..⟩

theorem imageResult_noSpace (h : size < x.bytes.length) : (s.imageResult tid d size q buf x).ctx q = s.ctx q
    ∧ Tbl.fget 0#64 ((s.imageResult tid d size q buf x).thread tid).g d = failStatus stNoSpace := by
  simp only [State.imageResult, if_pos h]
  exact ⟨rfl, sealDone_status ..⟩

end ImageResult

/-- What writing an image comes to: its size in g(d + 1); and the context is SEALED, or the buffer was too small. -/
theorem writeImage_records {s : State} {q : Nat} (hrecords : s.recordsHold q = true) (tid d size : Nat) (buf : List Xlat) :
    ∃ n : Nat, Tbl.fget 0#64 ((s.writeImage tid d size q buf).thread tid).g (d + 1) = BitVec.ofNat 64 n
      ∧ (n ≤ size → ((s.writeImage tid d size q buf).ctx q).state = 3
        ∧ Tbl.fget 0#64 ((s.writeImage tid d size q buf).thread tid).g d = 0#64)
      ∧ (size < n → (s.writeImage tid d size q buf).ctx q = s.ctx q
        ∧ Tbl.fget 0#64 ((s.writeImage tid d size q buf).thread tid).g d = failStatus stNoSpace) := by
  rw [writeImage_result hrecords, ← (imageRead_keepsTables s q).ctx q]
  exact ⟨(s.sealedImage q).bytes.length, imageResult_size .., fun h => imageResult_sealed _ _ _ _ _ _ h,
    fun h => imageResult_noSpace _ _ _ _ _ _ h⟩

theorem writeImage_sealing (s : State) (tid d size q : Nat) (buf : List Xlat) :
    ((s.writeImage tid d size q buf).thread tid).sealing = none := by
  unfold State.writeImage
  dsimp only
  split
  · exact sealDone_sealing ..
  · split <;> exact sealDone_sealing ..

end Sys2Proof.Machine


namespace Sys2Proof.Machine

/-! ### CTXSEAL (R287) -/

/-- A CTXSEAL that goes on with a context: one under way, or one that has got past its own conditions in this state. -/
def State.SealGoes (s : State) (tid : Nat) (t : Thread) (x : Rrr) (q : Nat) (buf : List Xlat) (due : Option Nat) (w : State) : Prop :=
  (t.sealing = none ∧ selectorBad ((t.rd tid).g x.a).toNat = false ∧ s.selected tid ((t.rd tid).g x.a).toNat = some q
      ∧ s.mustWait tid q (s.ticket tid) = false ∧ (s.ctx q).frozen = false ∧ due = none ∧ w = s.unqueue tid
      ∧ w.buffer tid .write ((t.rd tid).g x.c).toNat ((t.rd tid).g (x.c + 1)).toNat = .ok buf)
    ∨ (t.sealing = some (q, buf, due) ∧ w = s)

theorem State.SealGoes.ctx_ac {s w : State} {tid q : Nat} {t : Thread} {x : Rrr} {buf : List Xlat} {due : Option Nat}
    (hgo : s.SealGoes tid t x q buf due w) : w.ctx q = s.ctx q ∧ w.ac = s.ac := by
  rcases hgo with ⟨_, _, _, _, _, _, rfl, _⟩ | ⟨_, rfl⟩
  · exact ⟨rfl, rfl⟩
  · exact ⟨rfl, rfl⟩

/-- A CTXSEAL with its time fixed has been under way before. -/
theorem State.SealGoes.underway {s w : State} {tid q n : Nat} {t : Thread} {x : Rrr} {buf : List Xlat} {due : Option Nat}
    (hgo : s.SealGoes tid t x q buf due w) (hdue : due = some n) : t.sealing = some (q, buf, due) ∧ w = s := by
  rcases hgo with ⟨_, _, _, _, _, hnone, _, _⟩ | hgo
  · exact absurd (hnone.symm.trans hdue) (by simp)
  · exact hgo

theorem sealHalt_halt {s : State} {q : Nat} (hstate : (s.ctx q).state = 1) (hbusy : (s.ctx q).vacBusy = false) :
    ((s.sealHalt q).ctx q).halt ≠ none := by
  unfold State.sealHalt
  cases hhalt : (s.ctx q).halt with
  | some k => simp [hhalt]
  | none => simp [hhalt, hbusy, raiseHalt_halt hstate hhalt]

section Seal

variable {s : State} {tid : Nat} {t : Thread} (h : s.AtThread tid t) (hl : 1 ≤ t.lvl) {x : Rrr}
  (hp : t.Passes (Spec.of x.m 1 (!pairOk x.d || !pairOk x.c) [codeG x.a, codeG x.c, codeG (x.c + 1)] [codeG x.d]))
include h hl hp

section Goes

variable {q : Nat} {buf : List Xlat} {due : Option Nat} {w : State} (hgo : s.SealGoes tid t x q buf due w)
include hgo

theorem exec_ctxseal_goes (hstate : (s.ctx q).state = 1 ∨ (s.ctx q).state = 2 ∨ t.sealing ≠ none) {u : State} {next : Option W64}
    (hstep : w.sealStep tid x.d ((t.rd tid).g (x.c + 1)).toNat t.pc q buf due = (u, next)) :
    exec (.ctxseal x) s = .next (u.modThread tid fun y => { y with pc := next.getD (y.pc + BitVec.ofNat 64 4) }).pop := by
  change execCtxseal x s = _
  unfold execCtxseal
  refine threadOnly_next h hl hp ?_
  rcases hgo with ⟨hseal, hbad, hsel, hwait, hf, rfl, rfl, hbuf⟩ | ⟨hseal, rfl⟩
  · have hon : ¬((s.ctx q).state ≠ 1 ∧ (s.ctx q).state ≠ 2) := by
      simp only [hseal, ne_eq, not_true, or_false] at hstate
      omega
    simp only [hseal, hbad, hsel, hwait, hf, if_neg hon, hbuf, hstep]
    rfl
  · simp only [hseal, hstep]

/-- A CTXSEAL that waits stays at its instruction, with what it waits for noted. -/
theorem exec_ctxseal_stays (hstate : (s.ctx q).state = 1 ∨ (s.ctx q).state = 2) {v : State} {due' : Option Nat}
    (hstep : w.sealStep tid x.d ((t.rd tid).g (x.c + 1)).toNat t.pc q buf due
      = (v.modThread tid fun y => { y with sealing := some (q, buf, due') }, some t.pc)) :
    ∃ u, exec (.ctxseal x) s = .next u ∧ (u.thread tid).sealing = some (q, buf, due') ∧ (u.thread tid).pc = t.pc
      ∧ u.turns = v.turns.tail ∧ u.ctx q = v.ctx q := by
  refine ⟨_, exec_ctxseal_goes h hl hp hgo (by tauto) hstep, ?_, ?_, rfl, rfl⟩
  · rw [thread_pop, thread_modThread_same, thread_modThread_same]
  · rw [thread_pop, thread_modThread_same]
    rfl

theorem exec_ctxseal_resident (hstate : (s.ctx q).state = 1) : ∃ u, exec (.ctxseal x) s = .next u
    ∧ (u.thread tid).sealing = some (q, buf, none) ∧ (u.thread tid).pc = t.pc ∧ u.turns = (w.sealHalt q).turns.tail
    ∧ ((s.ctx q).vacBusy = false → (u.ctx q).halt ≠ none) := by
  obtain ⟨hctx, _⟩ := hgo.ctx_ac
  obtain ⟨u, hexec, hseal, hpc, hturns, hu⟩ := exec_ctxseal_stays h hl hp hgo (.inl hstate) (v := w.sealHalt q) (due' := none) (by
    simp [State.sealStep, hctx, hstate])
  refine ⟨u, hexec, hseal, hpc, hturns, fun hbusy => ?_⟩
  rw [hu]
  exact sealHalt_halt (hctx ▸ hstate) (hctx ▸ hbusy)

theorem exec_ctxseal_halted (hstate : (s.ctx q).state = 2) (hdue : due = none) : ∃ u n, exec (.ctxseal x) s = .next u ∧ s.ac ≤ n
    ∧ (u.thread tid).sealing = some (q, buf, some n) ∧ (u.thread tid).pc = t.pc ∧ u.ctx q = s.ctx q := by
  obtain ⟨hctx, hac⟩ := hgo.ctx_ac
  obtain ⟨u, hexec, hseal, hpc, _, hu⟩ := exec_ctxseal_stays h hl hp hgo (.inr hstate) (v := w.drawn)
    (due' := some (w.ac + Config.latency w.free)) (by
      simp [State.sealStep, hctx, hstate, hdue])
  exact ⟨u, _, hexec, hac ▸ Nat.le_add_right .., hseal, hpc, hu.trans hctx⟩

theorem exec_ctxseal_waits {n : Nat} (hstate : (s.ctx q).state = 2) (hdue : due = some n) (hearly : s.ac < n) :
    ∃ u, exec (.ctxseal x) s = .next u ∧ (u.thread tid).sealing = some (q, buf, some n) ∧ (u.thread tid).pc = t.pc
      ∧ u.ctx q = s.ctx q := by
  obtain ⟨hctx, hac⟩ := hgo.ctx_ac
  obtain ⟨u, hexec, hseal, hpc, _, hu⟩ := exec_ctxseal_stays h hl hp hgo (.inr hstate) (v := w) (due' := some n) (by
    simp [State.sealStep, hctx, hstate, hdue, hac, hearly])
  exact ⟨u, hexec, hseal, hpc, hu.trans hctx⟩

theorem exec_ctxseal_writes {n : Nat} (hstate : (s.ctx q).state = 2) (hdue : due = some n) (hlate : n ≤ s.ac) :
    exec (.ctxseal x) s = .next ((s.writeImage tid x.d ((t.rd tid).g (x.c + 1)).toNat q buf).sysDone tid 1) := by
  obtain ⟨_, rfl⟩ := hgo.underway hdue
  refine exec_ctxseal_goes h hl hp hgo (.inr (.inl hstate)) (next := none) ?_
  simp [State.sealStep, hstate, hdue, Nat.not_lt.mpr hlate]

theorem exec_ctxseal_left (h1 : (s.ctx q).state ≠ 1) (h2 : (s.ctx q).state ≠ 2) (hseal : t.sealing ≠ none) :
    exec (.ctxseal x) s = .next ((s.sealDone tid x.d (failStatus stState)).sysDone tid 1) := by
  rcases hgo with ⟨hnone, _⟩ | ⟨hunder, rfl⟩
  · exact absurd hnone hseal
  · refine exec_ctxseal_goes h hl hp (.inr ⟨hunder, rfl⟩) (.inr (.inr hseal)) (next := none) ?_
    simp [State.sealStep, h1, h2]

end Goes

section Begins

variable {q : Nat} (hseal : t.sealing = none) (hbad : selectorBad ((t.rd tid).g x.a).toNat = false)
  (hsel : s.selected tid ((t.rd tid).g x.a).toNat = some q) (hwait : s.mustWait tid q (s.ticket tid) = false)
include hseal hbad hsel hwait

theorem exec_ctxseal_frozen (hf : (s.ctx q).frozen = true) :
    exec (.ctxseal x) s = .next (((s.unqueue tid).fail tid x.d stBusy).sysDone tid 1) := by
  change execCtxseal x s = _
  unfold execCtxseal
  refine threadOnly_done h hl hp ?_
  simp [hseal, hbad, hsel, hwait, hf]

theorem exec_ctxseal_state (hf : (s.ctx q).frozen = false) (h1 : (s.ctx q).state ≠ 1) (h2 : (s.ctx q).state ≠ 2) :
    exec (.ctxseal x) s = .next (((s.unqueue tid).fail tid x.d stState).sysDone tid 1) := by
  change execCtxseal x s = _
  unfold execCtxseal
  refine threadOnly_done h hl hp ?_
  simp [hseal, hbad, hsel, hwait, hf, h1, h2]

end Begins

end Seal

/-- Settles O47: one lemma per instruction and case, above. -/
theorem handoverInstructions : Obligations.HandoverInstructions := by
  unfold Obligations.HandoverInstructions
  intro s tid t h
  refine ⟨fun x q w hl hp hbad hsel hwait hw => ?_, fun x q buf due w hl hp hgo => ?_, fun x q w hl hp hseal hbad hsel hwait hw => ?_,
    fun x q w hl hp hbad hsel hwait hw => ?_, fun x hd w hl hp hw hrec htok => ?_, fun x q hl hp hbad hsel => ?_,
    fun x v core hl hp hv hcore hzero hsmall hrange => ?_⟩
  case refine_1 =>
    subst hw
    exact ⟨exec_ctxabort_frozen h hl hp hbad hsel hwait, exec_ctxabort_sealed h hl hp hbad hsel hwait,
      exec_ctxabort_halted h hl hp hbad hsel hwait, exec_ctxabort_state h hl hp hbad hsel hwait⟩
  case refine_2 =>
    have hgo : s.SealGoes tid t x q buf due w := hgo
    refine ⟨exec_ctxseal_resident h hl hp hgo, exec_ctxseal_halted h hl hp hgo, fun n => exec_ctxseal_waits h hl hp hgo,
      fun n hstate hdue hlate => ⟨_, rfl, exec_ctxseal_writes h hl hp hgo hstate hdue hlate, writeImage_sealing .., fun hrecords => ?_,
        fun hrecords => writeImage_records hrecords ..⟩, exec_ctxseal_left h hl hp hgo⟩
    rw [writeImage_tag hrecords]
    exact ⟨rfl, sealDone_status ..⟩
  case refine_3 =>
    subst hw
    exact ⟨exec_ctxseal_frozen h hl hp hseal hbad hsel hwait, exec_ctxseal_state h hl hp hseal hbad hsel hwait⟩
  case refine_4 =>
    subst hw
    exact ⟨exec_ctxcommit_frozen h hl hp hbad hsel hwait, exec_ctxcommit_state h hl hp hbad hsel hwait, fun hf hstate hdest =>
      ⟨exec_ctxcommit h hl hp hbad hsel hwait hf hstate hdest, commitCtx_state .., commitCtx_residentGroups ..⟩⟩
  case refine_5 =>
    subst hw
    refine ⟨exec_ctxload_badHeader h hl hp hrec, fun hmagic hver => ⟨fun r => exec_ctxload_noTarget h hl hp hrec htok hmagic hver,
      fun q htarget hwait => ⟨fun hf => ?_, fun hf hpart hopen hstate => ?_, fun r hr => ⟨?_, fun v hv => ?_⟩⟩⟩⟩
    · exact exec_ctxload_answers h hl hp hrec htok hmagic hver htarget hwait (checkLoad_frozen none hf)
    · exact exec_ctxload_answers h hl hp hrec htok hmagic hver htarget hwait (checkLoad_resident hf hpart hopen hstate)
    · exact exec_ctxload_answers h hl hp hrec htok hmagic hver htarget hwait hr
    · exact checkLoad_success (hv ▸ hr)
  case refine_6 =>
    exact ⟨exec_freeze_policy h hl hp hbad hsel, fun hpolicy hbusy hstate =>
      ⟨exec_freeze_freezes h hl hp hbad hsel hpolicy hbusy hstate, exec_freeze_thaws h hl hp hbad hsel hpolicy hbusy hstate⟩⟩
  case refine_7 =>
    have hok : ¬(v / 2048 % 32 ≠ 0 ∨ 2 ^ 17 ≤ v ∨ 1407 < core) := by omega
    refine ⟨exec_corerst_resets h hl hp hv.symm hcore.symm hok, exec_corerst_busy h hl hp hv.symm hcore.symm hok,
      fun due hresets => ⟨exec_corerst_waits h hl hp hv.symm hcore.symm hok hresets, fun w y hdue hw hy => ?_⟩⟩
    subst hw hy
    exact exec_corerst_ends h hl hp hv.symm hcore.symm hok hresets hdue

end Sys2Proof.Machine

/-! ## O29: loads of a SIMT group (R227, R229, R233, R235) -/

namespace Sys2Proof.Machine

/-! ### The instruction of a split that passes its guards: its body's effect, or its body's fault -/

section Issued

variable {s u : State} {gid sp : Nat} {g : Group} {p : Split} {rd : Rd} {spec : Rd → Spec} {e : Flt} {c v : Nat}

theorem simtOnly_done {act : Rd → W32} {body : Nat → Nat → Group → Split → Rd → Except Flt Done} (h : s.Issues gid sp g p rd)
    (hp : g.Passes p (spec rd) (act rd)) (hd : body gid sp g p rd = .ok (Done.plain u)) :
    simtOnly s spec act body = .next (u.advance gid sp (spec rd).m (spec rd).len false none none) := by
  obtain ⟨hat, rfl⟩ := h
  exact simtOnly_next hat hp hd

theorem simtOnly_fault {act : Rd → W32} {body : Nat → Nat → Group → Split → Rd → Except Flt Done} (h : s.Issues gid sp g p rd)
    (hp : g.Passes p (spec rd) (act rd)) (hd : body gid sp g p rd = .error e) :
    simtOnly s spec act body = .next (s.issueFlt gid sp g (spec rd).rkind e) := by
  obtain ⟨hat, rfl⟩ := h
  unfold simtOnly
  rw [issuer_split hat]
  simp only [hd]
  exact congrArg _ (issueSplit_error hp s gid sp false e)

variable {simt : Nat → Nat → Group → Split → Rd → Except (Nat × Nat) Done}
  {thread : Nat → Thread → Rd → Except (Nat × Nat) (State × Option W64)}

theorem uniBoth_done (h : s.Issues gid sp g p rd) (hp : g.Passes p (spec rd) p.mask)
    (hd : simt gid sp g p rd = .ok (Done.plain u)) :
    uniBoth s false spec simt thread = .next (u.advance gid sp (spec rd).m (spec rd).len false none none) := by
  obtain ⟨hat, rfl⟩ := h
  exact uniBoth_split hat hp hd

theorem uniBoth_fault (h : s.Issues gid sp g p rd) (hp : g.Passes p (spec rd) p.mask) (hd : simt gid sp g p rd = .error (c, v)) :
    uniBoth s false spec simt thread = .next (s.issueFault gid sp g (spec rd).rkind c v) := by
  obtain ⟨hat, rfl⟩ := h
  unfold uniBoth
  rw [issuer_split hat]
  simp only [hd]
  refine congrArg _ ((issueSplit_error hp s gid sp false (Flt.plain (c, v))).trans ?_)
  by_cases hx : c = 6 ∧ bitOf (s.policyOf (s.ctx g.place.ctx).eid) 2 = true
  · obtain ⟨rfl, hpol⟩ := hx
    simp [State.issueFlt, State.parkedFlt, State.issueFault, State.replayFault, Flt.plain, hpol]
  · simp [State.issueFlt, State.parkedFlt, State.issueFault, State.simtFault, State.haltGroup, Flt.plain, hx]

end Issued

/-! ### Loads and prefetches -/

section Loads

variable {s : State} {gid sp : Nat} {g : Group} {p : Split} {rd : Rd} (h : s.Issues gid sp g p rd)
include h

theorem vecLoad_issues (x : Load) (o : Order) (hp : g.Passes p (Spec.of x.m x.len (rd.vBad (x.acc.size == 6) x.d || rd.addrBad x.a)
      (rd.modeCodes ++ x.a.vCodes true) (loadRegs x.acc.size x.d)) rd.active) :
    (∀ acc, collect (fun l => s.accAt g.place.ctx l (rd.addr x.a l).toNat (sizeBytes x.acc.size) 0 0 .read false true) rd.lanes
        = .ok acc →
      vecLoad x o s = .next ((s.send gid { Flight.access sp (.load x.acc.size) rd.active 0 acc with
        dv := loadRegs x.acc.size x.d, acq := o.acq, scope := x.acc.scope }).advance gid sp x.m x.len false none none))
    ∧ ∀ e, collect (fun l => s.accAt g.place.ctx l (rd.addr x.a l).toNat (sizeBytes x.acc.size) 0 0 .read false true) rd.lanes
        = .error e → vecLoad x o s = .next (s.issueFlt gid sp g 0 e) :=
  ⟨fun _ hacc => simtOnly_done h hp (by simp only [hacc]), fun _ hacc => simtOnly_fault h hp (by simp only [hacc])⟩

theorem uniLoad_issues (x : Load) (o : Order) (hp : g.Passes p (Spec.of x.m x.len false x.a.uCodes [codeG x.d]) p.mask) :
    (∀ acc, s.accAt g.place.ctx 0 (rd.addrU x.a).toNat (sizeBytes x.acc.size) 0 0 .read false true = .ok acc →
      uniLoad x o s = .next ((s.send gid { Flight.access sp (.load x.acc.size) p.mask 0 acc with
        dg := [x.d], acq := o.acq, scope := x.acc.scope }).advance gid sp x.m x.len false none none))
    ∧ ∀ c v, s.accAt g.place.ctx 0 (rd.addrU x.a).toNat (sizeBytes x.acc.size) 0 0 .read false true = .error (c, v) →
      uniLoad x o s = .next (s.issueFault gid sp g 0 c v) :=
  ⟨fun _ hacc => by unfold uniLoad; exact uniBoth_done h hp (by simp only [hacc]),
    fun _ _ hacc => by unfold uniLoad; exact uniBoth_fault h hp (by simp only [hacc])⟩

end Loads

/-- Settles O29: each load is its shape's issue, whose body is the translation of its accesses. -/
theorem loadsOnGroups : Obligations.LoadsOnGroups := by
  unfold Obligations.LoadsOnGroups
  intro s gid sp g p rd h
  refine ⟨fun row hrow x hp => ?_, fun row hrow x hp => ?_, fun x hp acc hacc => ?_, fun x hp => ?_⟩
  case refine_1 =>
    simp only [List.mem_cons, List.not_mem_nil, or_false] at hrow
    rcases hrow with rfl | rfl
    · exact vecLoad_issues h x Order.relaxed hp
    · exact vecLoad_issues h x ⟨true, false, false⟩ hp
  case refine_2 =>
    simp only [List.mem_cons, List.not_mem_nil, or_false] at hrow
    rcases hrow with rfl | rfl
    · exact uniLoad_issues h x Order.relaxed hp
    · exact uniLoad_issues h x ⟨true, false, false⟩ hp
  case refine_3 =>
    change execGld x s = _
    exact simtOnly_done h hp (by simp only [hacc])
  case refine_4 =>
    change execPref x s = _
    exact simtOnly_done h hp rfl

end Sys2Proof.Machine

/-! ## O30: stores of a SIMT group (R229, R230, R232, R235) -/

namespace Sys2Proof.Machine

section Stores

variable {s : State} {gid sp : Nat} {g : Group} {p : Split} {rd : Rd} (h : s.Issues gid sp g p rd)
include h

theorem vecStore_issues (x : Store) (o : Order) (hp : g.Passes p { Spec.of x.m x.len (rd.dataBad (x.acc.size == 6) x.c
      || rd.addrBad x.a) (rd.modeCodes ++ (x.a.vCodes true ++ x.c.vCodes (x.acc.size == 6))) [] with rkind := 1 } rd.active) :
    (∀ acc, collect (fun l => s.accAt g.place.ctx l (rd.addr x.a l).toNat (sizeBytes x.acc.size)
        ((rd.dataV (x.acc.size == 6) x.c l).toNat % 2 ^ (8 * sizeBytes x.acc.size)) 0 .write false true) rd.lanes = .ok acc →
      vecStore x o s = .next ((s.send gid { Flight.access sp .store rd.active 1 acc with
        rel := o.rel, nt := o.nt, scope := x.acc.scope }).advance gid sp x.m x.len false none none))
    ∧ ∀ e, collect (fun l => s.accAt g.place.ctx l (rd.addr x.a l).toNat (sizeBytes x.acc.size)
        ((rd.dataV (x.acc.size == 6) x.c l).toNat % 2 ^ (8 * sizeBytes x.acc.size)) 0 .write false true) rd.lanes = .error e →
      vecStore x o s = .next (s.issueFlt gid sp g 1 e) :=
  ⟨fun _ hacc => by unfold vecStore; exact simtOnly_done h hp (by simp only [hacc]),
    fun _ hacc => by unfold vecStore; exact simtOnly_fault h hp (by simp only [hacc])⟩

theorem uniStore_issues (x : Store) (o : Order)
    (hp : g.Passes p { Spec.of x.m x.len false (x.a.uCodes ++ x.c.uCodes) [] with rkind := 1 } p.mask) {acc : List Acc}
    (hacc : s.accAt g.place.ctx 0 (rd.addrU x.a).toNat (sizeBytes x.acc.size)
      ((rd.dataU (x.acc.size == 6) x.c).toNat % 2 ^ (8 * sizeBytes x.acc.size)) 0 .write false true = .ok acc) :
    uniStore x o s = .next ((s.send gid { Flight.access sp .store p.mask 1 acc with
      rel := o.rel, scope := x.acc.scope }).advance gid sp x.m x.len false none none) := by
  unfold uniStore
  exact uniBoth_done h hp (by simp only [hacc])

end Stores

/-- Settles O30: each store is its shape's issue, whose body is the translation of its accesses. -/
theorem storesOnGroups : Obligations.StoresOnGroups := by
  unfold Obligations.StoresOnGroups
  intro s gid sp g p rd h
  refine ⟨fun row hrow x hp => ?_, fun row hrow x hp acc hacc => ?_, fun x hp acc hacc => ?_⟩
  case refine_1 =>
    simp only [List.mem_cons, List.not_mem_nil, or_false] at hrow
    rcases hrow with rfl | rfl | rfl
    · exact vecStore_issues h x Order.relaxed hp
    · exact vecStore_issues h x ⟨false, true, false⟩ hp
    · exact vecStore_issues h x ⟨false, false, true⟩ hp
  case refine_2 =>
    simp only [List.mem_cons, List.not_mem_nil, or_false] at hrow
    rcases hrow with rfl | rfl
    · exact uniStore_issues h x Order.relaxed hp hacc
    · exact uniStore_issues h x ⟨false, true, false⟩ hp hacc
  case refine_3 =>
    change execGst x s = _
    exact simtOnly_done h hp (by simp only [hacc])

end Sys2Proof.Machine

/-! ## O31: local loads and stores (R32, R234) -/

namespace Sys2Proof.Machine

/-- A fault that is no XLAT halts the context, whatever its policy on replay (R47). -/
theorem issueFlt_of_not_xlat {e : Flt} (he : e.cause ≠ 6) (s : State) (gid sp : Nat) (g : Group) (rkind : Nat) :
    s.issueFlt gid sp g rkind e = (s.haltFlt gid sp e).pop := by
  simp [State.issueFlt, State.parkedFlt, he]

section Local

variable {s : State} {gid sp : Nat} {g : Group} {p : Split} {rd : Rd} (h : s.Issues gid sp g p rd)
include h

theorem localLoad_issues {m : Marks} {len : Nat} {a : Opnd} {size n : Nat} {regs : List Nat} {bad : Rd → Bool}
    (hp : g.Passes p (Spec.of m len (bad rd || rd.offBad a) (rd.modeCodes ++ a.vCodes false) regs) rd.active) {acc : List Acc}
    (hacc : collect (fun l => s.localAt g l ((rd.vec false a l).toNat % 2 ^ 32) n 0) rd.lanes = .ok acc) :
    localLoad m len a size n regs bad s = .next ((s.send gid { Flight.access sp (.load size) rd.active 2 acc with
      dv := regs }).advance gid sp m len false none none) :=
  simtOnly_done h hp (by simp only [hacc])

theorem localLoad_faults {m : Marks} {len : Nat} {a : Opnd} {size n : Nat} {regs : List Nat} {bad : Rd → Bool}
    (hp : g.Passes p (Spec.of m len (bad rd || rd.offBad a) (rd.modeCodes ++ a.vCodes false) regs) rd.active) {e : Flt}
    (hacc : collect (fun l => s.localAt g l ((rd.vec false a l).toNat % 2 ^ 32) n 0) rd.lanes = .error e) (he : e.cause ≠ 6) :
    localLoad m len a size n regs bad s = .next (s.haltFlt gid sp e).pop :=
  (simtOnly_fault h hp (by simp only [hacc])).trans (congrArg _ (issueFlt_of_not_xlat he ..))

theorem localStore_issues {m : Marks} {len : Nat} {a : Opnd} {n : Nat} {srcs : List Nat} {bad : Rd → Bool} {data : Rd → Nat → Nat}
    (hp : g.Passes p (Spec.of m len (bad rd || rd.offBad a) (rd.modeCodes ++ (a.vCodes false ++ srcs)) []) rd.active)
    {acc : List Acc}
    (hacc : collect (fun l => s.localAt g l ((rd.vec false a l).toNat % 2 ^ 32) n (data rd l % 2 ^ (8 * n))) rd.lanes = .ok acc) :
    localStore m len a n srcs bad data s = .next ((s.send gid (Flight.access sp .store rd.active 3 acc)).advance gid sp m len
      false none none) :=
  simtOnly_done h hp (by simp only [hacc])

end Local

/-- Settles O31: the four are local loads and stores of their own sizes and registers. -/
theorem localStoreAccesses : Obligations.LocalStoreAccesses := by
  unfold Obligations.LocalStoreAccesses
  refine ⟨fun s g l off n data => rfl, fun s gid sp g p rd acc h => ⟨fun x hp hacc => ?_, fun x hp hacc => ?_, fun x hp hacc => ?_,
    fun x hp hacc => ?_, fun e x hp he hacc => ?_⟩⟩
  case refine_1 => exact localLoad_issues h (bad := fun rd => rd.vBad (x.acc.size == 6) x.d) hp hacc
  case refine_2 => exact localLoad_issues h (bad := fun rd => decide (rd.vregs < x.d + 4)) hp hacc
  case refine_3 =>
    exact localStore_issues h (bad := fun rd => rd.dataBad (x.acc.size == 6) x.c)
      (data := fun rd l => (rd.dataV (x.acc.size == 6) x.c l).toNat) hp hacc
  case refine_4 =>
    exact localStore_issues h (bad := fun rd => decide (rd.vregs < x.c + 4))
      (data := fun rd l => (rd.pair x.c l).toNat + 2 ^ 64 * (rd.pair (x.c + 2) l).toNat) hp hacc
  case refine_5 => exact localLoad_faults h (bad := fun rd => rd.vBad (x.acc.size == 6) x.d) hp hacc he

end Sys2Proof.Machine

/-! ## O33: a load's result as it returns (R34, R159, R229) -/

namespace Sys2Proof.Machine

/-! ### What the gates of the rows leave as it was (R382, R400) -/

/-- From `s` to `t` nothing changes but HBM4 stacks, the counts of functions and partitions, the agenda and the count of free
values. -/
def State.MovesRows (s t : State) : Prop := ∃ hbm vfs parts agenda free, t = { s with
  agenda := agenda, free := free, parts := parts, store := { s.store with hbm := hbm }, hub := { s.hub with vfs := vfs } }

namespace State.MovesRows

theorem refl (s : State) : s.MovesRows s := ⟨_, _, _, _, _, rfl⟩

theorem trans {s t u : State} (h : s.MovesRows t) (k : t.MovesRows u) : s.MovesRows u := by
  obtain ⟨_, _, _, _, _, rfl⟩ := h
  obtain ⟨_, _, _, _, _, rfl⟩ := k
  exact ⟨_, _, _, _, _, rfl⟩

theorem foldl {α : Type} {f : State → α → State} (h : ∀ (t : State) (a : α), t.MovesRows (f t a)) (l : List α) (s : State) :
    s.MovesRows (l.foldl f s) :=
  List.foldlRecOn (motive := fun t : State => s.MovesRows t) l f (refl s) fun t ht a _ => ht.trans (h t a)

end State.MovesRows

theorem putHbm_movesRows (s : State) (t : Nat) (x : Stack) : s.MovesRows (s.putHbm t x) := ⟨_, _, _, _, _, rfl⟩

theorem chargeVf_movesRows (s : State) (stack vf : Nat) : s.MovesRows (s.chargeVf stack vf) := by
  unfold State.chargeVf
  split <;> exact ⟨_, _, _, _, _, rfl⟩

theorem rowCount_movesRows (s : State) (t chan row tenant vf : Nat) : s.MovesRows (s.rowCount t chan row tenant vf) := by
  have hdraw : s.MovesRows s.drawn := ⟨_, _, _, _, _, rfl⟩
  unfold State.rowCount
  split
  · dsimp only
    split
    · exact hdraw.trans (putHbm_movesRows ..)
    · split
      · exact hdraw.trans (putHbm_movesRows ..)
      · exact (hdraw.trans (putHbm_movesRows ..)).trans (chargeVf_movesRows ..)
  · exact hdraw

theorem lendShake_movesRows (s : State) (t pair code : Nat) : s.MovesRows (s.lendShake t pair code) := by
  unfold State.lendShake
  dsimp only
  split <;> exact ⟨_, _, _, _, _, rfl⟩

theorem lendGate_movesRows (s : State) (t chan : Nat) (ev : Event) : s.MovesRows (s.lendGate t chan ev).1 := by
  unfold State.lendGate
  dsimp only
  split
  · exact putHbm_movesRows ..
  · split
    · exact (lendShake_movesRows ..).trans (putHbm_movesRows ..)
    · exact .refl s

theorem rowGate_movesRows (s : State) (pa vf : Nat) (ev : Event) : s.MovesRows (s.rowGate pa vf ev).1 := by
  unfold State.rowGate
  split
  · exact .refl s
  next t chan _ =>
    have hlend := lendGate_movesRows s t chan ev
    generalize s.lendGate t chan ev = r at hlend ⊢
    obtain ⟨u, lends⟩ := r
    dsimp only at hlend ⊢
    split
    · exact hlend
    · split
      · exact hlend.trans (putHbm_movesRows ..)
      · split
        · exact hlend.trans ⟨_, _, _, _, _, rfl⟩
        · exact hlend.trans (rowCount_movesRows ..)

theorem rowGranted_movesRows (s : State) (ev : Event) (pa : Nat) : s.MovesRows (s.rowGranted ev pa) := by
  unfold State.rowGranted
  split
  · exact .refl s
  · exact putHbm_movesRows ..

theorem gateAll_movesRows (vf : Nat) (ev : Event) (accs : List Acc) (s : State) (passed : List Nat) :
    s.MovesRows (s.gateAll vf ev passed accs).1 := by
  induction accs generalizing s passed with
  | nil => exact .refl s
  | cons a r ih =>
    rw [State.gateAll]
    split
    · exact ih s passed
    · have hgate := rowGate_movesRows s a.pa vf ev
      dsimp only
      split
      · exact hgate.trans (.foldl (fun t pa => rowGranted_movesRows t ev pa) _ _)
      · exact hgate.trans (ih _ _)

theorem rowsPass_movesRows {s s' : State} {vf : Nat} {ev : Event} {accs : List Acc} {held : Bool}
    (h : s.rowsPass vf ev accs = (s', held)) : s.MovesRows s' := by
  have hgate := gateAll_movesRows vf ev accs s []
  rw [State.rowsPass] at h
  rwa [h] at hgate

/-! ### Accesses where no error lies (R315, R321, R415 to R417) -/

/-- No line of memory holds an error, and no page is being scrubbed. -/
structure State.CleanReads (s : State) : Prop where
  latent : s.store.latent = []
  pot : ∀ e ∈ s.store.pot, e.2.state ≠ potScrub

theorem State.CleanReads.movesRows {s t : State} (h : s.CleanReads) (k : s.MovesRows t) : t.CleanReads := by
  obtain ⟨_, _, _, _, _, rfl⟩ := k
  exact ⟨h.latent, h.pot⟩

theorem meet_of_clean {s : State} (h : s.CleanReads) (eid core a n : Nat) : s.meet eid core a n = s := by
  have hscrub : s.scrubLines a n = s := if_neg (by simpa using h.pot)
  simp [State.meet, hscrub, h.latent]

theorem meetLocal_of_no_errors {s : State} (h : s.simt.localErrs = []) (team off n : Nat) : s.meetLocal team off n = s := by
  simp [State.meetLocal, h]

theorem meetAll_of_clean {s : State} (h : s.CleanReads) {acc : List Acc} (hlocal : ∀ a ∈ acc, a.team = none ∨ s.simt.localErrs = [])
    (g : Group) : s.meetAll g acc = s := by
  refine List.foldlRecOn (motive := fun t => t = s) acc _ rfl fun t ht a ha => ?_
  subst ht
  split
  next team hteam =>
    exact meetLocal_of_no_errors ((hlocal a ha).resolve_left (by simp [hteam])) ..
  next =>
    split
    · rfl
    · exact meet_of_clean h ..

theorem integAcc_of_clean {s : State} (h : s.CleanReads) (acc : List Acc) : s.integAcc acc = none := by
  simp [State.integAcc, State.integ, h.latent]

/-! ### A step of a load (R34) -/

theorem flight?_id {g : Group} {id : Nat} {f : Flight} (h : g.flight? id = some f) : f.id = id := by
  unfold Group.flight? at h
  have hfound := List.find?_some h
  simp only [Bool.and_eq_true, beq_iff_eq] at hfound
  exact hfound.1

theorem loadDone_of_clean {s : State} (h : s.CleanReads) (hlocal : s.simt.localErrs = []) {f : Flight} (htag : f.tag = none)
    (gid : Nat) (g : Group) (size : Nat) :
    s.loadDone gid g f size = (s.writeRegs gid (s.loadWrites f size)).finishFlight gid f.id := by
  simp only [State.loadDone, meetAll_of_clean h (fun _ _ => .inr hlocal), State.loadSample, htag, integAcc_of_clean h]

theorem loadStep_last (s : State) (gid id : Nat) (g : Group) {f : Flight} (size : Nat)
    (h : (splitPieces (f.acc.filter fun a => a.cmp != 1)).2 = []) : s.loadStep gid id g f size = s.loadDone gid g f size := by
  simp [State.loadStep, h]

theorem loadStep_rest (s : State) (gid id : Nat) (g : Group) {f : Flight} (size : Nat)
    (h : (splitPieces (f.acc.filter fun a => a.cmp != 1)).2 ≠ []) :
    s.loadStep gid id g f size = (s.modFlight gid id fun x => { x with
      acc := (f.acc.filter fun a => a.cmp == 1) ++ (splitPieces (f.acc.filter fun a => a.cmp != 1)).1.map s.sampled
        ++ (splitPieces (f.acc.filter fun a => a.cmp != 1)).2 }).later (.variableLatencyResult gid id) := by
  simp [State.loadStep, h]

/-- A load that no earlier flight, no range command and no row holds up takes a step. -/
theorem exec_variableLatencyResult_load {s s' : State} {gid id size : Nat} {g : Group} {f : Flight} (hg : s.group? gid = some g)
    (hf : g.flight? id = some f) (hk : f.kind = .load size) (hh : g.heldFlight f = false)
    (hrstat : ∀ a ∈ f.acc, a.team = none → s.rstatWaits a.pa = false)
    (hp : s.rowsPass (s.vfOfGroup g) (.variableLatencyResult gid id) f.acc = (s', false)) :
    exec (.variableLatencyResult gid id) s = .next (s'.loadStep gid id g f size) := by
  have hready : (f.acc.any fun a => a.team.isNone && s.rstatWaits a.pa) = false := by
    simpa using hrstat
  change execVariableLatencyResult gid id s = _
  simp [execVariableLatencyResult, hg, hf, hk, hh, hready, hp]

/-- Settles O33: the rows' gates change nothing that a load reads, and where no error lies its last step writes its result. -/
theorem loadReturns : Obligations.LoadReturns := by
  unfold Obligations.LoadReturns
  intro s s' gid id size g f hg hf hk hh hrstat hpass hlatent hlocal htag hpot
  have hexec := exec_variableLatencyResult_load hg hf hk hh hrstat hpass
  have hmoves := rowsPass_movesRows hpass
  have hclean : s'.CleanReads := State.CleanReads.movesRows ⟨hlatent, hpot⟩ hmoves
  have hsame : s'.simt.localErrs = [] ∧ s'.store.mem = s.store.mem := by
    obtain ⟨_, _, _, _, _, rfl⟩ := hmoves
    exact ⟨hlocal, rfl⟩
  obtain ⟨hlocal', hmem⟩ := hsame
  obtain rfl := flight?_id hf
  have hlast := fun hrest => (loadStep_last s' gid f.id g (f := f) size hrest).trans (loadDone_of_clean hclean hlocal' htag gid g size)
  have hmore := loadStep_rest s' gid f.id g (f := f) size
  refine ⟨fun h => by rw [hexec, hlast h], fun h => by rw [hexec, hmore h], fun u hu => ?_⟩
  obtain rfl : s'.loadStep gid f.id g f size = u := by simpa [hexec] using hu
  refine Eq.trans ?_ hmem
  by_cases h : (splitPieces (f.acc.filter fun a => a.cmp != 1)).2 = []
  · rw [hlast h]
    exact ((modGroup_keepsBytes ..).trans (finishFlight_keepsBytes ..)).1
  · rw [hmore h]
    exact (modFlight_keepsBytes ..).1

end Sys2Proof.Machine

/-! ## O34: memory accesses of control threads (R78, R160) -/

namespace Sys2Proof.Machine

/-! ### A store of a control thread (R229, R382) -/

theorem exec_stu_thread {s s' : State} {tid : Nat} {t : Thread} (h : s.AtThread tid t) {x : Store} {xl : Xlat}
    (hp : t.Passes { Spec.of x.m x.len false (x.a.uCodes ++ x.c.uCodes) [] with rkind := 1 })
    (hxlat : s.threadXlat tid ((t.rd tid).addrU x.a).toNat (sizeBytes x.acc.size) .write false = .ok xl)
    (hgate : s.threadGate tid xl = (s', false)) :
    exec (.stu x) s = .next ((s'.threadWrite tid ((t.rd tid).addrU x.a).toNat (sizeBytes x.acc.size)
      (((t.rd tid).dataU (x.acc.size == 6) x.c).toNat % 2 ^ (8 * sizeBytes x.acc.size)) xl).modThread tid fun u => { u with
        pc := u.pc + BitVec.ofNat 64 (4 * x.len) }).pop := by
  change uniStore x Order.relaxed s = _
  unfold uniStore
  exact uniBoth_thread h (next := none) hp (by simp only [hxlat, hgate])

theorem tlbFill_eq (s : State) (t : Thread) (part va : Nat) :
    ∃ tlb, s.tlbFill t part va = { s with hub := { s.hub with tlb := tlb } } := by
  unfold State.tlbFill
  split
  · exact ⟨_, rfl⟩
  · split
    · exact ⟨_, rfl⟩
    · split <;> exact ⟨_, rfl⟩

theorem threadGate_movesRows (s : State) (tid : Nat) (x : Xlat) : s.MovesRows (s.threadGate tid x).1 := by
  unfold State.threadGate
  split
  · exact .refl s
  · split
    · exact .refl s
    · exact rowGate_movesRows ..

theorem threadGate_keepsBytes (s : State) (tid : Nat) (x : Xlat) : s.KeepsBytes (s.threadGate tid x).1 := by
  unfold State.threadGate
  split
  · exact .refl s
  · split
    · exact .refl s
    · exact rowGate_keepsBytes ..

/-! ### A thread listed twice

The statement has the storing thread wait for nothing, but does not ask that the table of threads lists each key once. What a
key reads is its first entry; a write wakes whatever entry waits at its bytes, and a second entry's wake moves the thread's pc. -/

/-- No group, no queue, no error in memory and no page in SCRUB, and two entries of one thread: the one that it reads waits for
nothing, the other at a counter. -/
structure State.ListsTwice (s : State) (tid a : Nat) (next : W64) : Prop where
  groups : s.simt.groups = []
  queues : s.hub.queues = []
  clean : s.CleanReads
  poison : s.store.poison = []
  threads : ∃ t w, s.hub.threads = [(tid, t), (tid, w)] ∧ t.wait = none ∧ w.wait = some (a, 0, next)

section ListsTwice

variable {s : State} {tid a : Nat} {next : W64} (h : s.ListsTwice tid a next)
include h

theorem State.ListsTwice.movesRows {s' : State} (k : s.MovesRows s') : s'.ListsTwice tid a next := by
  have hclean := h.clean.movesRows k
  obtain ⟨_, _, _, _, _, rfl⟩ := k
  exact ⟨h.groups, h.queues, hclean, h.poison, h.threads⟩

theorem wakeCounters_second_entry {n : Nat} (hn : 0 < n) : ((s.wakeCounters a n).thread tid).pc = next := by
  obtain ⟨t, w, hthreads, ht, hw⟩ := h.threads
  simp [State.wakeCounters, h.groups, h.queues, hthreads, ht, hw, hn]

variable (hlog : s.NoDirtyLog)
include hlog

theorem write_second_entry {bs : List Byte} (hbs : bs ≠ []) : ((s.write a bs).thread tid).pc = next := by
  have hscrub : s.scrubLines a bs.length = s := if_neg (by simpa using h.clean.pot)
  have hclear : (s.poke a bs).clearPoison a bs.length = s.poke a bs := if_pos ⟨h.poison, h.clean.latent⟩
  have hpoked : (s.poke a bs).ListsTwice tid a next := ⟨h.groups, h.queues, ⟨h.clean.latent, h.clean.pot⟩, h.poison, h.threads⟩
  rw [State.write, if_neg hbs, hscrub, foldl_dirtyRing_of_noDirtyLog hlog, hclear]
  exact wakeCounters_second_entry hpoked (List.length_pos_iff.mpr hbs)

/-- The same of a store of 4 bytes of ordinary memory by a control thread. -/
theorem threadWrite_second_entry (va data : Nat) : ((s.threadWrite tid va 4 data ⟨a, false, 0, none⟩).thread tid).pc = next := by
  obtain ⟨tlb, htlb⟩ := tlbFill_eq s (s.thread tid) (s.partOfThread tid) va
  have hwrite : s.threadWrite tid va 4 data ⟨a, false, 0, none⟩
      = (s.tlbFill (s.thread tid) (s.partOfThread tid) va).write a (leBytes 4 data) := rfl
  have hfilled : (s.tlbFill (s.thread tid) (s.partOfThread tid) va).ListsTwice tid a next := by
    rw [htlb]
    exact ⟨h.groups, h.queues, ⟨h.clean.latent, h.clean.pot⟩, h.poison, h.threads⟩
  have hlogged : (s.tlbFill (s.thread tid) (s.partOfThread tid) va).NoDirtyLog := by
    rw [htlb]
    exact hlog
  rw [hwrite]
  exact write_second_entry hfilled hlogged (by simp [leBytes])

end ListsTwice

/-- The placed control thread (log entry 1), and the same thread waiting at the counter that it is about to write. -/
def placedThread : Thread := State.reset.placeBase.placeThread.thread 0
def waitingThread : Thread := { placedThread with wait := some (0x10400, 0, 0#64) }

/-- The placed state, with the thread listed a second time, as waiting. -/
def listedTwice : State := State.reset.placeBase.placeThread.modHub fun h => { h with
  queues := [], threads := [(0, placedThread), (0, waitingThread)] }

/-- STU of the word 0 at the counter, and its translation. -/
def storeAtCounter : Store := ⟨⟨false, false, false⟩, .lit32 0x10400#32, .zero, ⟨0, 4⟩⟩
def counterXlat : Xlat := ⟨0x10400, false, 0, none⟩

/-- Refutes O34: a STU of a thread that its table lists twice, the second time as waiting at the bytes stored, goes on from
where the second entry's wait goes on, address 0, and not from the store. -/
theorem not_memoryAccessesOfThreads : ¬ Obligations.MemoryAccessesOfThreads := by
  unfold Obligations.MemoryAccessesOfThreads
  rintro ⟨haccess, -⟩
  have hat : listedTwice.AtThread 0 placedThread := ⟨rfl, rfl⟩
  have hpasses : placedThread.Passes { Spec.of storeAtCounter.m storeAtCounter.len false
      (storeAtCounter.a.uCodes ++ storeAtCounter.c.uCodes) [] with rkind := 1 } := by
    unfold Thread.Passes
    decide +kernel
  have hxlat : listedTwice.threadXlat 0 ((placedThread.rd 0).addrU storeAtCounter.a).toNat (sizeBytes storeAtCounter.acc.size)
      .write false = .ok counterXlat := by decide +kernel
  have hgate : listedTwice.threadGate 0 counterXlat = ((listedTwice.threadGate 0 counterXlat).1, false) :=
    Prod.ext rfl (by decide +kernel)
  have hlog : listedTwice.NoDirtyLog := by
    unfold State.NoDirtyLog
    decide +kernel
  have htwice : listedTwice.ListsTwice 0 0x10400 0#64 := ⟨by decide +kernel, rfl, ⟨by decide +kernel, by decide +kernel⟩,
    by decide +kernel, _, _, rfl, by decide +kernel, rfl⟩
  have hwoken := threadWrite_second_entry (htwice.movesRows (threadGate_movesRows listedTwice 0 counterXlat))
    ((threadGate_keepsBytes listedTwice 0 counterXlat).2 hlog) 0x10400
  obtain ⟨u, hu, hthread, -⟩ := (haccess listedTwice 0 placedThread hat (by decide +kernel) htwice.clean.latent htwice.poison
    htwice.clean.pot hlog).2.1 .stu (by simp) storeAtCounter counterXlat _ hpasses hxlat rfl hgate
  rw [exec_stu_thread hat hpasses hxlat hgate] at hu
  obtain rfl := Host.Outcome.next.inj hu
  have hpc := congrArg Thread.pc hthread
  rw [thread_pop, thread_modThread_same] at hpc
  have hmodel : (0#64 : W64) + BitVec.ofNat 64 (4 * storeAtCounter.len) = (placedThread.onward storeAtCounter.len).pc :=
    (congrArg (· + BitVec.ofNat 64 (4 * storeAtCounter.len)) (hwoken _).symm).trans hpc
  exact absurd hmodel (by decide +kernel)

end Sys2Proof.Machine

/-! ## O35: atomics of a SIMT group (R44, R236 to R239, R417) -/

namespace Sys2Proof.Machine

/-! ### Two flights of one number

The clause of a returning atomic's reply works out the reply from the flight it changes, where the model works it out from the
flight that has been performed. The two differ where a group lists a flight that is done under the same number, and nothing that
the statement asks of the state excludes it. -/

/-- A returning atomic of no lane, which is done or not, and writes a register or none. -/
def laneless (done : Bool) (dg : List Nat) : Flight := { Flight.access 0 (.atom 0 0 true) 0#32 4 [] with done := done, dg := dg }

/-- A group with two such flights of number 0: one to be performed without a destination, and one that is done, with g1. -/
def twinGroup : Group := { Group.start placeOf 0#64 with flights := [laneless false [], laneless true [1]] }

/-- The reset state with this group. -/
def twinState : State := State.reset.putGroup 0 twinGroup

/-- What the flights of group 0 write in `g` registers, in the state that a step gives. -/
def gWrites (o : Out) : List (List (Nat × W64)) :=
  match o with
  | .next u => ((u.group? 0).map fun g => g.flights.map fun f => f.w.g).getD []
  | _ => []

/-- Refutes O35: with two flights of one number, the done one's register g1 receives nothing of the other's reply, where the
statement has it receive one of its own. -/
theorem not_atomicsOnGroups : ¬ Obligations.AtomicsOnGroups := by
  unfold Obligations.AtomicsOnGroups
  rintro ⟨-, hperformed, -⟩
  have hreply := (hperformed twinState twinState 0 0 0 0 twinGroup (laneless false []) rfl rfl rfl rfl rfl (by decide)
    (by decide)).2.1 rfl rfl
  have hmodel : gWrites (exec (.atomicPerformed 0 0) twinState) = [[], []] := rfl
  rw [hreply] at hmodel
  exact absurd hmodel (by decide)

end Sys2Proof.Machine

/-! ## O39: accumulator words and tiles (R257 to R259, R116, R417) -/

namespace Sys2Proof.Machine

section Accumulator

variable {s : State} {gid sp : Nat} {g : Group} {p : Split} {rd : Rd}

/-- Accumulator words without errors of their own are read with no other effect (R415). -/
theorem meetAcc_of_no_errors (hg : s.group? gid = some g) {keys : List Nat} (h : errsAt g.accErrs keys = []) :
    s.meetAcc gid keys = s := by
  simp [State.meetAcc, hg, h]

theorem accBad_of_group (hg : s.group? gid = some g) (k : Nat) : s.accBad gid k = Tbl.fget 0 g.accPoison k := by
  simp [State.accBad, hg]

/-- The trap of a read of accumulator words: the cause and lane of the first that a failed operation poisoned (R116). -/
def Group.accTrap (g : Group) (ws : List (Nat × Nat)) : Option (Nat × Nat) :=
  ws.findSome? fun w => if Tbl.fget 0 g.accPoison w.2 = 0 ∨ Tbl.fget 0 g.accPoison w.2 = 0x13 then none
    else some (Tbl.fget 0 g.accPoison w.2, w.1)

theorem accTrap_none {ws : List (Nat × Nat)}
    (h : ∀ w ∈ ws, Tbl.fget 0 g.accPoison w.2 = 0 ∨ Tbl.fget 0 g.accPoison w.2 = 0x13) : g.accTrap ws = none :=
  List.findSome?_eq_none_iff.mpr fun w hw => if_pos (h w hw)

theorem accTrap_first {pre post : List (Nat × Nat)} {l k : Nat}
    (h : ∀ w ∈ pre, Tbl.fget 0 g.accPoison w.2 = 0 ∨ Tbl.fget 0 g.accPoison w.2 = 0x13) (h0 : Tbl.fget 0 g.accPoison k ≠ 0)
    (h13 : Tbl.fget 0 g.accPoison k ≠ 0x13) : g.accTrap (pre ++ (l, k) :: post) = some (Tbl.fget 0 g.accPoison k, l) := by
  have hpre := accTrap_none h
  unfold Group.accTrap at hpre ⊢
  simp [List.findSome?_append, hpre, h0, h13]

/-- What ACRD puts in its destination: the words, with the mark of those that have an error of their own (R417). -/
def State.acrdWrites (s : State) (gid : Nat) (g : Group) (d : Nat) (ws : List (Nat × Nat)) : RegWrites :=
  { RegWrites.none with
    v := ws.map fun w => (32 * d + w.1, s.acc gid (w.2 / 128) (w.2 % 128))
    px := ws.filterMap fun w => if Tbl.fget 0 g.accPoison w.2 = 0x13 then some (32 * d + w.1, 0) else none }

variable (h : s.Issues gid sp g p rd)
include h

/-- A fault of the body that is no lane's, and no XLAT. -/
theorem simtOnly_simtFault {spec : Rd → Spec} {act : Rd → W32} {body : Nat → Nat → Group → Split → Rd → Except Flt Done}
    {c v : Nat} (hp : g.Passes p (spec rd) (act rd)) (hd : body gid sp g p rd = .error ⟨c, v, none⟩) (hc : c ≠ 6) :
    simtOnly s spec act body = .next (s.simtFault gid sp c v) :=
  (simtOnly_fault h hp hd).trans (congrArg _ (issueFlt_of_not_xlat hc ..))

section Acrd

variable {x : Op2} {ws : List (Nat × Nat)} (hp : g.Passes p (Spec.of x.m x.len (decide (rd.vregs ≤ x.d) || rd.vecBad false x.a)
  (rd.modeCodes ++ x.a.vCodes false) [x.d]) rd.active) (hws : s.acWords g rd x.a rd.lanes = .ok ws)
  (herr : errsAt g.accErrs (ws.map Prod.snd) = [])
include hp hws herr

theorem execAcrd_reads (htrap : g.accTrap ws = none) (hne : ws ≠ []) :
    execAcrd x s = .next ((s.putVar gid sp rd.active (s.acrdWrites gid g x.d ws)).advance gid sp x.m x.len false none none) := by
  have hg : s.group? gid = some g := h.1.2.1
  unfold Group.accTrap at htrap
  unfold execAcrd
  exact simtOnly_done h hp (by
    simp only [hws, meetAcc_of_no_errors hg herr, accBad_of_group hg, htrap, if_neg hne, State.acrdWrites])

theorem execAcrd_traps {c l : Nat} (htrap : g.accTrap ws = some (c, l)) :
    execAcrd x s = .next (s.issueFlt gid sp g 0 ⟨c, 0, some l⟩) := by
  have hg : s.group? gid = some g := h.1.2.1
  unfold Group.accTrap at htrap
  unfold execAcrd
  exact simtOnly_fault h hp (by simp only [hws, meetAcc_of_no_errors hg herr, accBad_of_group hg, htrap])

end Acrd

theorem execAcwr_writes {x : OpAC} {ws : List (Nat × Nat)} (hp : g.Passes p (Spec.of x.m x.len (rd.vecBad false x.a
      || rd.vecBad false x.c) (rd.modeCodes ++ (x.a.vCodes false ++ x.c.vCodes false)) []) rd.active)
    (hws : s.acWords g rd x.a rd.lanes = .ok ws) :
    execAcwr x s = .next (((s.putAcc gid (ws.map fun w => (w.2, (rd.vec false x.c w.1).setWidth 32, 0))).clobberOps gid
      (ws.map Prod.snd)).advance gid sp x.m x.len false none none) := by
  unfold execAcwr
  exact simtOnly_done h hp (by simp only [hws])

end Accumulator

/-! ### ACZERO and ACCPY (R258, R259) -/

section Tiles

variable {s : State} {gid sp : Nat} {g : Group} {p : Split} {rd : Rd} (h : s.Issues gid sp g p rd) {x : OpAC}
  (hp : g.Passes p (Spec.of x.m x.len false (x.a.uCodes ++ x.c.uCodes) []) rd.mask) {a c : Nat} (ha : a = (rd.uni x.a).toNat)
  (hc : c = (rd.uni x.c).toNat)
include h hp ha hc

omit ha in
theorem execAczero_opnd (hsize : tileSizeBad c = true) : execAczero x s = .next (s.simtFault gid sp 2 0) := by
  subst hc
  unfold execAczero
  exact simtOnly_simtFault h hp (by simp [hsize]) (by decide)

theorem execAczero_align (hsize : tileSizeBad c = false) (hcol : fieldOf a 16 16 % 8 ≠ 0) :
    execAczero x s = .next (s.simtFault gid sp 9 0) := by
  subst ha hc
  unfold execAczero
  exact simtOnly_simtFault h hp (by simp [hsize, hcol]) (by decide)

theorem execAczero_range (hsize : tileSizeBad c = false) (hcol : fieldOf a 16 16 % 8 = 0)
    (hout : s.accRows g < fieldOf a 0 16 + fieldOf c 0 16 ∨ 128 < fieldOf a 16 16 + fieldOf c 16 16) :
    execAczero x s = .next (s.simtFault gid sp 10 0) := by
  subst ha hc
  unfold execAczero
  exact simtOnly_simtFault h hp (by simp [hsize, hcol, hout]) (by decide)

theorem execAczero_accepted (hsize : tileSizeBad c = false) (hcol : fieldOf a 16 16 % 8 = 0)
    (hin : ¬(s.accRows g < fieldOf a 0 16 + fieldOf c 0 16 ∨ 128 < fieldOf a 16 16 + fieldOf c 16 16)) :
    execAczero x s = .next ((s.accOp gid sp g rd (.zero (fieldOf a 0 16) (fieldOf c 0 16)) (fieldOf a 16 16)
      (fieldOf c 16 16)).advance gid sp x.m x.len false none none) := by
  subst ha hc
  unfold execAczero
  exact simtOnly_done h hp (by simp [hsize, hcol, hin])

omit ha in
theorem execAccpy_opnd (hsize : tileSizeBad c = true ∨ fieldOf c 33 31 ≠ 0) : execAccpy x s = .next (s.simtFault gid sp 2 0) := by
  subst hc
  unfold execAccpy
  exact simtOnly_simtFault h hp (by simp [hsize]) (by decide)

variable (hsize : tileSizeBad c = false) (hrest : fieldOf c 33 31 = 0)
include hsize hrest

theorem execAccpy_align_offset (hoff : fieldOf a 32 32 % 16 ≠ 0) :
    execAccpy x s = .next (s.simtFault gid sp 9 (fieldOf a 32 32)) := by
  subst ha hc
  unfold execAccpy
  exact simtOnly_simtFault h hp (by simp [hsize, hrest, hoff]) (by decide)

variable (hoff : fieldOf a 32 32 % 16 = 0)
include hoff

theorem execAccpy_align_column (hcol : fieldOf a 16 16 % 8 ≠ 0) : execAccpy x s = .next (s.simtFault gid sp 9 0) := by
  subst ha hc
  unfold execAccpy
  exact simtOnly_simtFault h hp (by simp [hsize, hrest, hoff, hcol]) (by decide)

variable (hcol : fieldOf a 16 16 % 8 = 0)
include hcol

theorem execAccpy_range (hout : s.localLen g < fieldOf a 32 32 + 4 * fieldOf c 16 16 * fieldOf c 0 16
      ∨ s.accRows g < fieldOf a 0 16 + fieldOf c 0 16 ∨ 128 < fieldOf a 16 16 + fieldOf c 16 16) :
    execAccpy x s = .next (s.simtFault gid sp 10 0) := by
  subst ha hc
  unfold execAccpy
  exact simtOnly_simtFault h hp (by simp [hsize, hrest, hoff, hcol, hout]) (by decide)

theorem execAccpy_accepted (hin : ¬(s.localLen g < fieldOf a 32 32 + 4 * fieldOf c 16 16 * fieldOf c 0 16
      ∨ s.accRows g < fieldOf a 0 16 + fieldOf c 0 16 ∨ 128 < fieldOf a 16 16 + fieldOf c 16 16)) :
    execAccpy x s = .next ((s.accOp gid sp g rd (.copy (!bitOf c 32) (fieldOf a 0 16) (fieldOf c 0 16) (fieldOf a 32 32))
      (fieldOf a 16 16) (fieldOf c 16 16)).advance gid sp x.m x.len false none none) := by
  subst ha hc
  unfold execAccpy
  exact simtOnly_done h hp (by simp [hsize, hrest, hoff, hcol, hin])

end Tiles

/-- Settles O39: one lemma per instruction and answer, above. -/
theorem accumulatorWords : Obligations.AccumulatorWords := by
  unfold Obligations.AccumulatorWords
  intro s gid sp g p rd h
  refine ⟨fun x ws hp hws herr => ⟨fun hgood hne => ?_, fun pre post l k hsplit hgood h0 h13 => ?_⟩, fun x ws hp hws => ?_,
    fun x l hout => if_pos hout, fun x a c hp ha hc => ?_⟩
  case refine_1 => exact execAcrd_reads h hp hws herr (accTrap_none hgood) hne
  case refine_2 =>
    subst hsplit
    exact execAcrd_traps h hp hws herr (accTrap_first hgood h0 h13)
  case refine_3 => exact execAcwr_writes h hp hws
  case refine_4 =>
    exact ⟨execAczero_opnd h hp hc, execAczero_align h hp ha hc,
      fun hsize hcol hrow hwidth => execAczero_accepted h hp ha hc hsize hcol (by omega), execAczero_range h hp ha hc,
      execAccpy_opnd h hp hc, execAccpy_align_offset h hp ha hc, execAccpy_align_column h hp ha hc,
      execAccpy_range h hp ha hc, fun hsize hrest hoff hcol hlocal hrow hwidth =>
        execAccpy_accepted h hp ha hc hsize hrest hoff hcol (by omega)⟩

end Sys2Proof.Machine

/-! ## O51: barriers, deferred arrivals, PUBLISHes and wakes (R44, R66, R71, R74, R75, R78) -/

namespace Sys2Proof.Machine

/-! ### Arrivals (R71) -/

theorem arrive_counted {b c : Barrier} {gid phase : Nat} (h : b.arrive gid = some (c, phase)) :
    (gid ∉ b.cur → c.cur = b.cur ++ [gid] ∧ c.nxt = b.nxt ∧ phase = b.phase)
    ∧ (gid ∈ b.cur → gid ∉ b.nxt ∧ c.cur = b.cur ∧ c.nxt = b.nxt ++ [gid] ∧ phase = (b.phase + 1) % 2 ^ 32) ∧ c.phase = b.phase := by
  unfold Barrier.arrive at h
  by_cases hcur : gid ∈ b.cur
  · by_cases hnxt : gid ∈ b.nxt
    · simp [hcur, hnxt] at h
    · obtain ⟨rfl, rfl⟩ : { b with nxt := b.nxt ++ [gid] } = c ∧ (b.phase + 1) % 2 ^ 32 = phase := by simpa [hcur, hnxt] using h
      exact ⟨fun hout => absurd hcur hout, fun _ => ⟨hnxt, rfl, rfl, rfl⟩, rfl⟩
  · obtain ⟨rfl, rfl⟩ : { b with cur := b.cur ++ [gid] } = c ∧ b.phase = phase := by simpa [hcur] using h
    exact ⟨fun _ => ⟨rfl, rfl, rfl⟩, fun hin => absurd hin hcur, rfl⟩

theorem arrive_eq_none_iff (b : Barrier) (gid : Nat) : b.arrive gid = none ↔ gid ∈ b.cur ∧ gid ∈ b.nxt := by
  unfold Barrier.arrive
  by_cases hcur : gid ∈ b.cur
  · by_cases hnxt : gid ∈ b.nxt <;> simp [hcur, hnxt]
  · simp [hcur]

theorem completed_current (b : Barrier) : b.completed b.phase = false := by
  simp only [Barrier.completed, Bool.not_eq_false', decide_eq_true_eq]
  omega

theorem completed_earlier {b : Barrier} (h : b.phase < 2 ^ 32) {k : Nat} (h1 : 1 ≤ k) (hk : k ≤ 2 ^ 31) :
    b.completed ((b.phase + 2 ^ 32 - k) % 2 ^ 32) = true := by
  simp only [Barrier.completed, Bool.not_eq_true', decide_eq_false_iff_not]
  omega

/-! ### What waking splits and ending flights leave as it was -/

/-- From `s` to `t` nothing changes but groups, the halt lines of contexts, what schedulers note, the dump's result, the agenda
and the count of free values. -/
def State.MovesGroups (s t : State) : Prop := ∃ groups ctxs scheds lastIssue dump agenda free, t = { s with
  agenda := agenda, free := free, simt := { s.simt with groups := groups, ctxs := ctxs, scheds := scheds, lastIssue := lastIssue },
  hub := { s.hub with dump := dump } }

namespace State.MovesGroups

theorem refl (s : State) : s.MovesGroups s := ⟨_, _, _, _, _, _, _, rfl⟩

theorem trans {s t u : State} (h : s.MovesGroups t) (k : t.MovesGroups u) : s.MovesGroups u := by
  obtain ⟨_, _, _, _, _, _, _, rfl⟩ := h
  obtain ⟨_, _, _, _, _, _, _, rfl⟩ := k
  exact ⟨_, _, _, _, _, _, _, rfl⟩

theorem foldl {α : Type} {f : State → α → State} (h : ∀ (t : State) (a : α), t.MovesGroups (f t a)) (l : List α) (s : State) :
    s.MovesGroups (l.foldl f s) :=
  List.foldlRecOn (motive := fun t : State => s.MovesGroups t) l f (refl s) fun t ht a _ => ht.trans (h t a)

section Fields

variable {s t : State} (h : s.MovesGroups t)
include h

theorem bars : t.simt.bars = s.simt.bars := by
  obtain ⟨_, _, _, _, _, _, _, rfl⟩ := h
  rfl

theorem deferred : t.simt.deferred = s.simt.deferred := by
  obtain ⟨_, _, _, _, _, _, _, rfl⟩ := h
  rfl

theorem publishes : t.simt.publishes = s.simt.publishes := by
  obtain ⟨_, _, _, _, _, _, _, rfl⟩ := h
  rfl

theorem ac : t.ac = s.ac := by
  obtain ⟨_, _, _, _, _, _, _, rfl⟩ := h
  rfl

end Fields

end State.MovesGroups

theorem putGroup_movesGroups (s : State) (gid : Nat) (g : Group) : s.MovesGroups (s.putGroup gid g) := ⟨_, _, _, _, _, _, _, rfl⟩

theorem modGroup_movesGroups (s : State) (gid : Nat) (f : Group → Group) : s.MovesGroups (s.modGroup gid f) := by
  unfold State.modGroup
  split
  · exact putGroup_movesGroups ..
  · exact .refl s

theorem at_movesGroups (s : State) (due : Nat) (e : Event) : s.MovesGroups (s.at due e) := ⟨_, _, _, _, _, _, _, rfl⟩

theorem raiseHalt_movesGroups (s : State) (q : Nat) (h : Halt) : s.MovesGroups (s.raiseHalt q h) := by
  have hbreak : s.MovesGroups (s.dumpBreak q) := by
    unfold State.dumpBreak
    split <;> exact ⟨_, _, _, _, _, _, _, rfl⟩
  unfold State.raiseHalt
  dsimp only
  split
  · exact .refl s
  · split
    · exact hbreak.trans ⟨_, _, _, _, _, _, _, rfl⟩
    · split <;> exact ⟨_, _, _, _, _, _, _, rfl⟩

theorem haltAt_movesGroups (s : State) (gid cause value ord off : Nat) : s.MovesGroups (s.haltAt gid cause value ord off) := by
  unfold State.haltAt
  split
  · exact .refl s
  · exact (putGroup_movesGroups ..).trans (raiseHalt_movesGroups ..)

theorem passPoint_movesGroups (s : State) (gid sp ord off : Nat) : s.MovesGroups (s.passPoint gid sp ord off) := by
  unfold State.passPoint
  split
  · exact .refl s
  · unfold State.putPassed
    split
    · exact (putGroup_movesGroups ..).trans (haltAt_movesGroups ..)
    · exact putGroup_movesGroups ..

theorem noteIssue_movesGroups (s : State) (gid sp : Nat) (g : Group) : s.MovesGroups (s.noteIssue gid sp g) := ⟨_, _, _, _, _, _, _, rfl⟩

theorem resumeAfter_movesGroups (s : State) (gid sp : Nat) (m : Marks) (len : Nat) : s.MovesGroups (s.resumeAfter gid sp m len) := by
  unfold State.resumeAfter
  split
  · exact .refl s
  · dsimp only
    refine (State.MovesGroups.trans ?_ (noteIssue_movesGroups ..)).trans (at_movesGroups ..)
    split
    · exact (modGroup_movesGroups ..).trans (passPoint_movesGroups ..)
    · exact modGroup_movesGroups ..

theorem wake_movesGroups (s : State) (gid sp : Nat) : s.MovesGroups (s.wake gid sp) := by
  unfold State.wake
  split
  · exact (modGroup_movesGroups ..).trans (at_movesGroups ..)
  · exact .refl s

theorem recheck_movesGroups (s : State) (gid : Nat) : s.MovesGroups (s.recheck gid) := by
  unfold State.recheck
  split
  · exact .refl s
  · refine .foldl (fun t x => ?_) _ s
    dsimp only
    split
    · split
      · exact .refl t
      · exact wake_movesGroups ..
    · split
      · exact resumeAfter_movesGroups ..
      · exact .refl t
    · split
      · exact .refl t
      · exact resumeAfter_movesGroups ..
    · exact .refl t

theorem tryExit_movesGroups (s : State) (gid : Nat) : s.MovesGroups (s.tryExit gid) := by
  unfold State.tryExit
  split
  · exact .refl s
  · split
    · exact at_movesGroups ..
    · exact .refl s

theorem settle_movesGroups (s : State) (gid : Nat) : s.MovesGroups (s.settle gid) := by
  have hs : s.MovesGroups
      (((s.modGroup gid fun g => { g with flights := dropDone [] g.flights }).recheck gid).tryExit gid) :=
    ((modGroup_movesGroups ..).trans (recheck_movesGroups ..)).trans (tryExit_movesGroups ..)
  unfold State.settle
  dsimp only
  split
  · split
    · exact hs.trans (at_movesGroups ..)
    · exact hs
  · exact hs

theorem finishFlight_movesGroups (s : State) (gid id : Nat) : s.MovesGroups (s.finishFlight gid id) :=
  (modGroup_movesGroups ..).trans (settle_movesGroups ..)

/-! ### BARRIER_PHASE_COMPLETE (R71, R74) -/

theorem exec_barrierPhaseComplete_waits {s : State} {key : Nat} (h : s.phaseDone key = false) :
    exec (.barrierPhaseComplete key) s = .next s := by
  change execBarrierPhaseComplete key s = _
  simp [execBarrierPhaseComplete, h]

theorem exec_barrierPhaseComplete_done {s : State} {key : Nat} (h : s.phaseDone key = true) :
    ∃ u, exec (.barrierPhaseComplete key) s = .next u
      ∧ (s.putBar key ⟨((s.bar key).phase + 1) % 2 ^ 32, (s.bar key).nxt, []⟩).MovesGroups u := by
  change ∃ u, execBarrierPhaseComplete key s = .next u ∧ _
  simp only [execBarrierPhaseComplete, h, Bool.not_true, Bool.false_eq_true, if_false]
  refine ⟨_, rfl, ?_⟩
  generalize s.putBar key _ = t
  have hwoken (l : List (Nat × Nat × Option (Marks × Nat))) : t.MovesGroups (l.foldl (fun s x => match x.2.2 with
      | some (m, len) => s.resumeAfter x.1 x.2.1 m len
      | none => s.wake x.1 x.2.1) t) := by
    refine .foldl (fun r x => ?_) l t
    split
    · exact resumeAfter_movesGroups ..
    · exact wake_movesGroups ..
  split
  · exact (hwoken _).trans (at_movesGroups ..)
  · exact hwoken _

/-! ### DEFERRED_ARRIVAL (R75) -/

section Deferred

variable {s : State} {id : Nat} {d : Deferred} (hd : Tbl.get? s.simt.deferred id = some d)
include hd

theorem exec_deferredArrival_held (h : d.copies.any s.copyHolds = true) : exec (.deferredArrival id) s = .next s := by
  change execDeferredArrival id s = _
  simp only [execDeferredArrival, hd, h, if_true]

variable (hfree : d.copies.any s.copyHolds = false)
include hfree

theorem exec_deferredArrival_later (h : (s.group? d.gid).any (fun g => (g.flight? d.flight).any g.heldFlight) = true) :
    exec (.deferredArrival id) s = .next (s.at (s.ac + 1) (.deferredArrival id)) := by
  change execDeferredArrival id s = _
  simp only [execDeferredArrival, hd, hfree, h, Bool.false_eq_true, if_false, if_true]

theorem exec_deferredArrival_performed (h : (s.group? d.gid).any (fun g => (g.flight? d.flight).any g.heldFlight) = false) :
    ∃ u, exec (.deferredArrival id) s = .next u ∧ Tbl.get? u.simt.deferred id = none
      ∧ (s.ac, Event.barrierPhaseComplete d.bar) ∈ u.agenda := by
  have hkeeps := finishFlight_movesGroups (s.modSimt fun x => { x with deferred := Tbl.del x.deferred id }) d.gid d.flight
  change ∃ u, execDeferredArrival id s = .next u ∧ _
  simp only [execDeferredArrival, hd, hfree, h, Bool.false_eq_true, if_false]
  refine ⟨_, rfl, ?_, ?_⟩
  · rw [soon_simt, hkeeps.deferred]
    exact Tbl.get?_del_same ..
  · have hac : s.ac = (State.finishFlight (s.modSimt fun x => { x with deferred := Tbl.del x.deferred id }) d.gid d.flight).ac :=
      hkeeps.ac.symm
    rw [hac]
    exact List.mem_append_right _ (List.mem_singleton_self _)

end Deferred

/-! ### PUBLISH (R66, R247) -/

theorem Tbl.get?_mod_same {α : Type} (t : Table α) (n : Nat) (f : α → α) : Tbl.get? (Tbl.mod t n f) n = (Tbl.get? t n).map f := by
  induction t with
  | nil => rfl
  | cons p r ih =>
    obtain ⟨k, v⟩ := p
    by_cases hk : k = n
    · simp [Tbl.mod, Tbl.get?_cons, hk]
    · simpa [Tbl.mod, Tbl.get?_cons, hk] using ih

/-- A PUBLISH once it has reached its range table: it awaits the shadowed copies of then (R66). -/
def Publish.reaching (p : Publish) (s : State) : Publish :=
  if p.reached then p else { p with reached := true, await := s.shadowCopies p.ctx p.range false }

section Publishes

variable {s : State} {id : Nat} {p : Publish} (hp : Tbl.get? s.simt.publishes id = some p)
include hp

theorem reachTable_publish : Tbl.get? (s.reachTable id p).simt.publishes id = some (p.reaching s) := by
  unfold State.reachTable Publish.reaching
  split
  · exact hp
  · rw [State.modPublish, modSimt_simt, Tbl.get?_mod_same, hp]
    rfl

theorem exec_publishPoint_past (hpoint : p.atPoint = true) (hreached : p.reached = true) : exec (.publishPoint id) s = .next s := by
  have hsame : s.reachTable id p = s := if_pos hreached
  change execPublishPoint id s = _
  simp [execPublishPoint, hp, hsame, hpoint]

theorem exec_publishComplete_early (hpoint : p.atPoint = false) : exec (.publishComplete id) s = .next s := by
  change execPublishComplete id s = _
  simp [execPublishComplete, hp, hpoint]

section Point

variable (hpoint : p.atPoint = false)
include hpoint

omit hp in
theorem reaching_atPoint (s : State) : (p.reaching s).atPoint = false := by
  unfold Publish.reaching
  split <;> exact hpoint

theorem exec_publishPoint_waits (h : ((s.reachTable id p).behindPublish id (p.reaching s)
      || (s.reachTable id p).publishAwaits (p.reaching s)) = true) : exec (.publishPoint id) s = .next (s.reachTable id p) := by
  change execPublishPoint id s = _
  simp only [execPublishPoint, hp, reachTable_publish hp, Option.getD_some, reaching_atPoint hpoint, Bool.false_or, h, if_true]

theorem exec_publishPoint_acts (h : ((s.reachTable id p).behindPublish id (p.reaching s)
      || (s.reachTable id p).publishAwaits (p.reaching s)) = false) :
    ∃ u, exec (.publishPoint id) s = .next u
      ∧ Tbl.get? (u.ctx p.ctx).ranges p.range = (Tbl.get? (s.ctx p.ctx).ranges p.range).map (fun r => { r with live := !r.live })
      ∧ (Tbl.get? u.simt.publishes id).map Publish.atPoint = some true := by
  have hplace : (p.reaching s).ctx = p.ctx ∧ (p.reaching s).range = p.range := by
    unfold Publish.reaching
    split <;> exact ⟨rfl, rfl⟩
  have hctx : (s.reachTable id p).ctx p.ctx = s.ctx p.ctx := by
    unfold State.reachTable
    split <;> rfl
  obtain ⟨hq, hrange⟩ := hplace
  change ∃ u, execPublishPoint id s = .next u ∧ _
  simp only [execPublishPoint, hp, reachTable_publish hp, Option.getD_some, reaching_atPoint hpoint, Bool.false_or, h,
    Bool.false_eq_true, if_false, hq, hrange]
  refine ⟨_, rfl, ?_, ?_⟩
  · rw [State.ctx, laterWithin_simt, ← State.ctx, State.modCtx, ctx_putCtx_same, Tbl.get?_mod_same]
    exact congrArg (fun c : Ctx => (Tbl.get? c.ranges p.range).map fun r => { r with live := !r.live }) hctx
  · rw [laterWithin_simt, modCtx_simt_publishes, State.modPublish, modSimt_simt, Tbl.get?_mod_same, reachTable_publish hp]
    rfl

end Point

theorem exec_publishComplete_removes (hpoint : p.atPoint = true) :
    ∃ u, exec (.publishComplete id) s = .next u ∧ Tbl.get? u.simt.publishes id = none := by
  change ∃ u, execPublishComplete id s = .next u ∧ _
  simp only [execPublishComplete, hp, hpoint, Bool.not_true, Bool.false_eq_true, if_false]
  refine ⟨_, rfl, ?_⟩
  have hrechecked (l : List (Nat × Publish)) (t : State) : State.Asks t (l.foldl (fun s o =>
      if o.2.ctx = p.ctx ∧ o.2.range = p.range then s.soon (.publishPoint o.1) else s) t) := by
    refine .foldl (fun t o => ?_) l t
    split
    · exact .soon ..
    · exact .refl t
  have hcovers (l : List Nat) (t : State) : (l.foldl (fun s c => (s.modCopy c fun k => { k with
      toPublish := k.toPublish.erase p.range }).soon (.published c)) t).simt.publishes = t.simt.publishes := by
    refine foldl_keeps (fun t => t.simt.publishes) (fun t c => ?_) l t
    rfl
  rw [(hrechecked _ _).simt, hcovers, (finishFlight_movesGroups ..).publishes]
  exact Tbl.get?_del_same ..

end Publishes

/-! ### CTRWAIT_WAKE and SYNC_ENGINE_LINE_RETURN (R78, R44) -/

theorem exec_ctrwaitWake_woken {s : State} {gid sp : Nat} {g : Group} {p : Split} (hg : s.group? gid = some g)
    (hsp : g.split? sp = some p) {m : Marks} {len : Nat} (hpark : p.park = some (.woken m len)) :
    exec (.ctrwaitWake gid sp) s = .next (s.resumeAfter gid sp m len) := by
  change execCtrwaitWake gid sp s = _
  simp only [execCtrwaitWake, hg, Option.bind_some, hsp, hpark]

theorem exec_ctrwaitWake_running {s : State} {gid sp : Nat} {g : Group} {p : Split} (hg : s.group? gid = some g)
    (hsp : g.split? sp = some p) (hpark : p.park = none) : exec (.ctrwaitWake gid sp) s = .next s := by
  change execCtrwaitWake gid sp s = _
  simp only [execCtrwaitWake, hg, Option.bind_some, hsp, hpark]

theorem exec_syncEngineLineReturn_of_line {s : State} {line last : Nat} (h : Tbl.get? s.store.syncLines line = some last) :
    exec (.syncEngineLineReturn line) s = .next (if last + 4096 ≤ s.ac then s.fromEngine line else s) := by
  change execSyncEngineLineReturn line s = _
  simp only [execSyncEngineLineReturn, h]

/-- Settles O51: one lemma per event and case, above. -/
theorem syncEvents : Obligations.SyncEvents := by
  unfold Obligations.SyncEvents
  refine ⟨fun b c gid phase h => arrive_counted h, arrive_eq_none_iff,
    fun b hb => ⟨completed_current b, fun k h1 hk => completed_earlier hb h1 hk⟩,
    fun s key => ⟨exec_barrierPhaseComplete_waits, fun h => ?_⟩,
    fun s id d hd => ⟨exec_deferredArrival_held hd, exec_deferredArrival_performed hd, exec_deferredArrival_later hd⟩,
    fun s id p hp => ⟨exec_publishPoint_past hp, exec_publishComplete_early hp, fun r hr => ?_, exec_publishComplete_removes hp⟩,
    fun s gid sp g p hg hsp => ⟨fun m len => exec_ctrwaitWake_woken hg hsp, exec_ctrwaitWake_running hg hsp⟩,
    fun s line last hline => ⟨fun hidle => ?_, fun hbusy => ?_⟩⟩
  · obtain ⟨u, hu, hkeeps⟩ := exec_barrierPhaseComplete_done h
    refine ⟨u, hu, ?_⟩
    rw [State.bar, hkeeps.bars]
    exact Tbl.getD_put_same ..
  · subst hr
    refine ⟨reachTable_publish hp, fun hpoint p' hp' => ?_⟩
    obtain rfl : p.reaching s = p' := Option.some.inj ((reachTable_publish hp).symm.trans hp')
    exact ⟨exec_publishPoint_waits hp hpoint, exec_publishPoint_acts hp hpoint⟩
  · rw [exec_syncEngineLineReturn_of_line hline, if_pos hidle]
    exact ⟨_, rfl, Tbl.get?_del_same .., rfl⟩
  · rw [exec_syncEngineLineReturn_of_line hline, if_neg (Nat.not_le.mpr hbusy)]

end Sys2Proof.Machine

/-! ## O36: FENCE, NTDRAIN, WAITC and CTRWAIT (R68, R78, R80, R240, R241, R244, R245) -/

namespace Sys2Proof.Machine

/-! ### Instructions that may park or stall before they issue, and those that read memory as they issue -/

section Waits

variable {s u : State} {gid sp : Nat} {g : Group} {p : Split} {rd : Rd} {spec : Rd → Spec}

section UniStall

variable {wait : Nat → Nat → Group → Split → Rd → Except (Nat × Nat) (State × Option Park)}
  {thread : Nat → Thread → Rd → Except (Nat × Nat) (State × Option W64)}

theorem uniStall_goes (h : s.Issues gid sp g p rd) (hp : g.Passes p (spec rd) p.mask)
    (hw : wait gid sp g p rd = .ok (u, none)) :
    uniStall s spec wait thread = .next (u.advance gid sp (spec rd).m (spec rd).len false none none) := by
  obtain ⟨hat, rfl⟩ := h
  unfold uniStall
  rw [issuer_split hat]
  simp only [issueGuard_pass hp, hw]
  exact congrArg _ (issueSplit_ok hp u gid sp false _)

theorem uniStall_parks {k : Park} (h : s.Issues gid sp g p rd) (hp : g.Passes p (spec rd) p.mask)
    (hw : wait gid sp g p rd = .ok (u, some k)) : uniStall s spec wait thread = .next (u.stall gid sp k) := by
  obtain ⟨hat, rfl⟩ := h
  unfold uniStall
  rw [issuer_split hat]
  simp only [issueGuard_pass hp, hw]

/-- On a control core, one that has no effect there. -/
theorem uniStall_thread {tid : Nat} {t : Thread} (h : s.AtThread tid t) (hp : t.Passes (spec (t.rd tid)))
    (hd : thread tid t (t.rd tid) = .ok (s, none)) :
    uniStall s spec wait thread = .next (s.threadDone tid (t.onward (spec (t.rd tid)).len)) := by
  unfold uniStall
  rw [issuer_thread h]
  simp only [hd, issueThread_ok hp, State.modThread, h.2]
  rfl

end UniStall

section SimtStall

variable {act : Rd → W32} {wait : Nat → Nat → Group → Split → Rd → Except (Nat × Nat) (Option (State × Park))}
  {body : Nat → Nat → Group → Split → Rd → Except Flt Done} (h : s.Issues gid sp g p rd) (hp : g.Passes p (spec rd) (act rd))
include h hp

theorem simtStall_goes (hw : wait gid sp g p rd = .ok none) (hd : body gid sp g p rd = .ok (Done.plain u)) :
    simtStall s spec act wait body = .next (u.advance gid sp (spec rd).m (spec rd).len false none none) := by
  obtain ⟨hat, rfl⟩ := h
  unfold simtStall
  rw [issuer_split hat]
  simp only [issueGuard_pass hp, hw, hd]
  exact congrArg _ (issueSplit_ok hp s gid sp false _)

theorem simtStall_parks {k : Park} (hw : wait gid sp g p rd = .ok (some (u, k))) :
    simtStall s spec act wait body = .next (u.stall gid sp k) := by
  obtain ⟨hat, rfl⟩ := h
  unfold simtStall
  rw [issuer_split hat]
  simp only [issueGuard_pass hp, hw]

theorem simtStall_simtFault {c v : Nat} (hw : wait gid sp g p rd = .error (c, v)) (hc : c ≠ 6) :
    simtStall s spec act wait body = .next (s.simtFault gid sp c v) := by
  obtain ⟨hat, rfl⟩ := h
  unfold simtStall
  rw [issuer_split hat]
  simp only [issueGuard_pass hp, hw, State.issueFault, hc, false_and, if_false]

end SimtStall

/-- An instruction that reads memory as it issues does so in the state that what it follows has led to, where its context still
runs (log entry 109). -/
theorem simtAfter_issues {act : Rd → W32} {prep : Nat → Group → Split → Rd → State}
    {issue : State → Nat → Nat → Group → Split → Rd → State} (h : s.Issues gid sp g p rd) (hp : g.Passes p (spec rd) (act rd))
    (hu : prep gid g p rd = u) {k : Group} (hk : u.group? gid = some k) {q : Split} (hq : k.split? sp = some q)
    (hruns : u.ctxRuns k.place.ctx = true) : simtAfter s spec act prep issue = .next (issue u gid sp k q rd) := by
  obtain ⟨hat, rfl⟩ := h
  unfold simtAfter
  rw [issuer_split hat]
  simp only [issueGuard_pass hp, hu, hk, hq, hruns, Option.bind_some, Option.map_some, if_true]

end Waits

/-! ### What a counter's test leaves as it was (R44, R382) -/

theorem rowActive_movesRows (s : State) (t chan row tenant vf : Nat) :
    s.MovesRows (if ((s.hbm t).held.any fun e => e.row == row && e.tenant == tenant) = true then
      (s.putHbm t ((s.hbm t).activate s.ac row)).chargeVf t vf else s.rowCount t chan row tenant vf) := by
  split
  · exact (putHbm_movesRows ..).trans (chargeVf_movesRows ..)
  · exact rowCount_movesRows ..

theorem rowTouch_movesRows (s : State) (pa vf : Nat) : s.MovesRows (s.rowTouch pa vf) := by
  unfold State.rowTouch
  split
  · exact .refl s
  next t chan _ =>
    refine State.MovesRows.trans ?_ (rowActive_movesRows _ t chan (Config.rowOf pa) _ vf)
    split
    · exact lendShake_movesRows ..
    · exact .refl s

/-- Room in an engine changes the engines' lines alone. -/
theorem engineRoom_eq {s u : State} {die : Nat} (h : s.engineRoom die = some u) :
    ∃ lines overs, u = s.modStore fun x => { x with syncLines := lines, syncOver := overs } := by
  unfold State.engineRoom at h
  dsimp only at h
  split at h
  · obtain rfl := Option.some.inj h
    exact ⟨_, _, rfl⟩
  · obtain ⟨l, -, rfl⟩ := Option.map_eq_some_iff.mp h
    exact ⟨_, _, rfl⟩

/-- A line moved into its engine changes the engines' lines alone, and asks for its return. -/
theorem toEngine_eq (s : State) (a : Nat) : ∃ lines overs agenda, s.toEngine a = { s with
    agenda := agenda, store := { s.store with syncLines := lines, syncOver := overs } } := by
  unfold State.toEngine
  dsimp only
  split
  · exact ⟨_, _, _, rfl⟩
  · cases hroom : s.engineRoom (s.homeDie a) with
    | none => exact ⟨_, _, _, rfl⟩
    | some u =>
      obtain ⟨_, _, rfl⟩ := engineRoom_eq hroom
      exact ⟨_, _, _, rfl⟩

theorem peek_toEngine (s : State) (a b n : Nat) : (s.toEngine a).peek b n = s.peek b n := by
  obtain ⟨_, _, _, h⟩ := toEngine_eq s a
  rw [h]
  rfl

theorem State.MovesRows.peek {s t : State} (h : s.MovesRows t) (a n : Nat) : t.peek a n = s.peek a n := by
  obtain ⟨_, _, _, _, _, rfl⟩ := h
  rfl

theorem pieceAt_team {s : State} {q l va n data cmp : Nat} {need : Need} {atomic : Bool} {a : Acc}
    (h : s.pieceAt q l va n data cmp need atomic = .ok a) : a.team = none := by
  unfold State.pieceAt at h
  split at h
  · cases h
  · cases h
    rfl

/-- The accesses of an instruction to global memory name no local store. -/
theorem accAt_team {s : State} {q l va n data cmp : Nat} {need : Need} {atomic align : Bool} {acc : List Acc}
    (h : s.accAt q l va n data cmp need atomic align = .ok acc) : ∀ a ∈ acc, a.team = none := by
  unfold State.accAt at h
  split at h
  · cases h
  dsimp only at h
  split at h
  · cases h
  next a ha =>
    split at h
    · cases h
      simpa using pieceAt_team ha
    · split at h
      · cases h
      next b hb =>
        cases h
        simpa using ⟨pieceAt_team ha, pieceAt_team hb⟩

/-! ### CTRWAIT on a group (R78, R244) -/

/-- What CTRWAIT is to the issue rules. -/
def ctrwaitSpec (x : CtrWaitI) : Spec :=
  { Spec.of x.m x.len false (x.a.uCodes ++ x.c.uCodes) [] with needS := true, rkind := 0 }

section Ctrwait

variable {s : State} {gid sp : Nat} {g : Group} {p : Split} {rd : Rd} {x : CtrWaitI} {a : Acc} {r : List Acc}

/-- CTRWAIT tests its counter in the state that the accesses it must follow have led to (R241). -/
theorem exec_ctrwait_tests (h : s.Issues gid sp g p rd) (hp : g.Passes p (ctrwaitSpec x) p.mask)
    (hacc : s.accAt g.place.ctx 0 (rd.addrU x.a).toNat 8 0 0 .readWrite true true = .ok (a :: r)) {s' : State}
    (hs' : s.readAfter gid g.nextFlight p.mask (a :: r) = s') {k : Group} (hk : s'.group? gid = some k) {q : Split}
    (hq : k.split? sp = some q) (hruns : s'.ctxRuns k.place.ctx = true) :
    exec (.ctrwait x) s = .next (s'.ctrTest gid sp k q (ctrwaitSpec x) (a :: r) x (rd.addrU x.a).toNat (rd.uni x.c).toNat) := by
  obtain ⟨hat, rfl⟩ := h
  have hguard := issueGuard_pass hp s gid sp
  unfold ctrwaitSpec at hguard
  change execCtrwait x s = _
  unfold execCtrwait ctrwaitSpec
  rw [issuer_split hat]
  simp only [hguard, hacc, hs', hk, hq, hruns, Option.bind_some, Option.map_some, if_true]

/-- Where neither an error nor poison lies in the counter, the test is of its value. -/
theorem ctrTest_of_clean (hclean : s.CleanReads) (hteam : ∀ b ∈ a :: r, b.team = none) (hpoison : s.poisonTrap (a :: r) = none)
    (hp : g.Passes p (ctrwaitSpec x) p.mask) (va target : Nat) :
    s.ctrTest gid sp g p (ctrwaitSpec x) (a :: r) x va target =
      if target ≤ s.peek a.pa 8 then
        ((s.rowTouch a.pa (s.vfOfGroup g)).toEngine a.pa).advance gid sp x.m x.len false none none
      else ((s.rowTouch a.pa (s.vfOfGroup g)).toEngine a.pa).stall gid sp (.ctr a.pa va target x.scope x.m x.len) := by
  have hpeek : ((s.rowTouch a.pa (s.vfOfGroup g)).toEngine a.pa).peek a.pa 8 = s.peek a.pa 8 :=
    (peek_toEngine ..).trans ((rowTouch_movesRows ..).peek ..)
  unfold State.ctrTest
  simp only [meetAll_of_clean hclean (fun b hb => .inl (hteam b hb)), integAcc_of_clean hclean, hpoison, Option.map_none,
    List.head?_cons, Option.map_some, Option.getD_some, hpeek, issueSplit_ok hp]
  rfl

end Ctrwait

/-! ### CTRWAIT on a control core (R78, R160) -/

theorem threadGate_of_pass {s s' : State} {tid : Nat} {xl : Xlat} (h : s.threadGate tid xl = (s', false)) : s.MovesRows s' := by
  have hmoves := threadGate_movesRows s tid xl
  rwa [h] at hmoves

section CtrwaitThread

variable {s s' : State} {tid : Nat} {t : Thread} {x : CtrWaitI} {xl : Xlat}

theorem exec_ctrwait_thread (h : s.AtThread tid t) (hp : t.Passes (ctrwaitSpec x))
    (hxlat : s.threadXlat tid ((t.rd tid).addrU x.a).toNat 8 .readWrite true = .ok xl) (hgate : s.threadGate tid xl = (s', false))
    (hclean : s.CleanReads) (hpoison : s.store.poison = []) (hreached : ((t.rd tid).uni x.c).toNat ≤ s.peek xl.pa 8) :
    exec (.ctrwait x) s = .next (((s'.tlbFill t (s'.partOfThread tid) ((t.rd tid).addrU x.a).toNat).toEngine xl.pa).threadDone tid
      (t.onward x.len)) := by
  obtain ⟨tlb, htlb⟩ := tlbFill_eq s' t (s'.partOfThread tid) ((t.rd tid).addrU x.a).toNat
  have hmoves := threadGate_of_pass hgate
  have hclean' := hclean.movesRows hmoves
  have hpoison' : s'.store.poison = [] := by
    obtain ⟨_, _, _, _, _, rfl⟩ := hmoves
    exact hpoison
  have hthread : s'.thread tid = t := by
    obtain ⟨_, _, _, _, _, rfl⟩ := hmoves
    exact h.2
  generalize hf : s'.tlbFill t (s'.partOfThread tid) ((t.rd tid).addrU x.a).toNat = f at htlb ⊢
  have hcleanf : f.CleanReads := by
    subst htlb
    exact ⟨hclean'.latent, hclean'.pot⟩
  have hinteg : f.integ xl.pa 8 = false := by simp [State.integ, hcleanf.latent]
  have hsound : f.poisonedAt xl.pa 8 = none := if_pos (by subst htlb; exact hpoison')
  have hpeek : (f.toEngine xl.pa).peek xl.pa 8 = s.peek xl.pa 8 := by
    rw [peek_toEngine, ← hmoves.peek, htlb]
    rfl
  have hthreadf : (f.toEngine xl.pa).thread tid = t := by
    obtain ⟨_, _, _, heq⟩ := toEngine_eq f xl.pa
    rw [heq, ← hthread, htlb]
    rfl
  change execCtrwait x s = _
  unfold execCtrwait
  rw [issuer_thread h]
  simp only [hxlat, hgate, hf, meet_of_clean hcleanf, hinteg, hsound, hpeek, hreached, Bool.false_eq_true, if_false, if_true]
  refine congrArg _ ((issueThread_ok hp s _ tid none).trans ?_)
  rw [State.modThread, hthreadf]
  rfl

end CtrwaitThread

/-! ### WAITC's operand, reads that follow nothing, and a parked split -/

/-- On a group, the register that holds WAITC's bound is one that it reads (R245). -/
theorem waitcSpec_split {s : State} {gid sp : Nat} {g : Group} {p : Split} {rd : Rd} (h : s.Issues gid sp g p rd) (x : ACode) :
    Spec.of x.m x.len false x.a.uCodes [] = Spec.of x.m x.len false (if rd.simt then x.a.uCodes else []) [] := by
  obtain ⟨-, rfl⟩ := h
  rfl

theorem readAfter_of_not_held {s : State} {gid before : Nat} {g : Group} {lanes : W32} {acc : List Acc}
    (hg : s.group? gid = some g)
    (h : heldIn (readFlight before lanes acc) [] (g.flights.filter fun f => decide (f.id < before)) = false) :
    s.readAfter gid before lanes acc = s := by
  simp [State.readAfter, hg, h]

/-- A split parked at its instruction stays there with its lanes; registers and memory stay (R26). -/
theorem stall_parks {s : State} {gid sp : Nat} {g : Group} {p : Split} (k : Park) (hg : s.group? gid = some g)
    (hp : g.split? sp = some p) : ∃ (h : Group) (q : Split), (s.stall gid sp k).group? gid = some h ∧ h.split? sp = some q
      ∧ q.park = some k ∧ q.pc = p.pc ∧ q.mask = p.mask ∧ h.regs = g.regs ∧ (s.stall gid sp k).store = s.store := by
  have hparked := group?_modSplit hg sp fun p =>
    { p with run := 0, ready := false, readyAt := s.ac + 4, passed := 0, park := some k }
  have hstore : ∀ f, (s.modSplit gid sp f).store = s.store := fun f => by rw [State.modSplit, State.modGroup, hg]; rfl
  unfold State.stall
  simp only [hg, group?_pop, group?_putSched, pop_store, putSched_store, hstore]
  exact ⟨_, _, hparked, (split?_modSplit_same ..).trans (congrArg _ hp), rfl, rfl, rfl, rfl, trivial⟩

/-- Settles O36: each is its way of issuing; a CTRWAIT's test moves its line and counts its row, which changes no byte. -/
theorem waitsAndFences : Obligations.WaitsAndFences := by
  unfold Obligations.WaitsAndFences
  refine ⟨fun s gid sp g p rd h => ⟨fun x hp => ⟨?_, fun hnt => ?_, fun hnt => ?_⟩,
      fun x hp => ⟨fun hle => ?_, fun hlt => ?_⟩, fun x a r s' k q hp hacc hs' hk hq hruns hq' hpoison hlatent hpot => ?_⟩,
    fun s tid t h => ⟨fun x hp => ?_, fun x hp => ?_, fun x xl s' hp hxlat hgate hlatent hpoison hpot hreached => ?_⟩,
    fun s gid sp g p k hg hp => stall_parks k hg hp⟩
  case refine_1 =>
    change execFence x s = _
    exact uniBoth_done h hp rfl
  case refine_2 =>
    change execNtdrain x s = _
    exact uniStall_goes h hp (by simp only [hnt, if_true])
  case refine_3 =>
    change execNtdrain x s = _
    exact uniStall_parks h hp (by simp only [hnt, if_false])
  case refine_4 =>
    change execWaitc x s = _
    exact uniStall_goes h (waitcSpec_split h x ▸ hp) (by simp only [hle, if_true])
  case refine_5 =>
    change execWaitc x s = _
    exact uniStall_parks h (waitcSpec_split h x ▸ hp) (by simp only [Nat.not_le.mpr hlt, if_false])
  case refine_6 =>
    have hexec := exec_ctrwait_tests h hp hacc hs' hk hq hruns
    have htest := ctrTest_of_clean (gid := gid) (sp := sp) (x := x) ⟨hlatent, hpot⟩ (accAt_team hacc) hpoison hq'
      (rd.addrU x.a).toNat (rd.uni x.c).toNat
    refine ⟨fun hle => by rw [hexec, htest, if_pos hle], fun hlt => by rw [hexec, htest, if_neg (Nat.not_le.mpr hlt)],
      fun hheld => ?_⟩
    subst hs'
    exact readAfter_of_not_held h.1.2.1 hheld
  case refine_7 =>
    change execWaitc x s = _
    exact uniStall_thread h hp rfl
  case refine_8 =>
    change execNtdrain x s = _
    exact uniStall_thread h hp rfl
  case refine_9 => exact exec_ctrwait_thread h hp hxlat hgate ⟨hlatent, hpot⟩ hpoison hreached

end Sys2Proof.Machine

/-! ## O38: MMA, MMAG, MSETAUX, MFENCE and MWAIT (R92, R103 to R105, R252 to R256, R351) -/

namespace Sys2Proof.Machine

/-! ### The offer of an MMA or MMAG (R253, R351) -/

section Offer

variable {s u : State} {gid sp : Nat} {g k : Group} {p q : Split} {rd : Rd} {spec : Rd → Spec} {act : Rd → W32} {m : Marks}
  {len : Nat} {ctl : MmaCtl} {grouped : Bool} {offer : Rd → List (Nat × W64 × W64 × W64)} {o : MatOp}
  (h : s.Issues gid sp g p rd) (hp : g.Passes p (spec rd) (act rd))
  (hu : s.beforeOffer g (s.offerOf gid 0 g rd ctl grouped (offer rd)) = u) (hk : u.group? gid = some k)
  (hq : k.split? sp = some q) (hruns : u.ctxRuns k.place.ctx = true) (ho : u.offerOf gid sp k rd ctl grouped (offer rd) = o)
include h hp hu hk hq hruns ho

theorem matIssue_accepts {c : MatOp} (hc : u.checkOffer k o = .ok c) (hroom : c.units = [] ∨ u.hasRoom c = true)
    (hpass : k.Passes q (spec rd) (act rd)) (hm : (spec rd).m = m) (hlen : (spec rd).len = len) :
    matIssue spec act m len ctl grouped offer s = .next ((u.acceptUnits c).advance gid sp m len false none none) := by
  subst hm hlen
  unfold matIssue
  rw [simtAfter_issues h hp hu hk hq hruns]
  simp only [ho, hc, if_pos hroom]
  exact congrArg _ (issueSplit_ok hpass u gid sp false _)

theorem matIssue_parks {c : MatOp} (hc : u.checkOffer k o = .ok c) (hunits : c.units ≠ []) (hroom : u.hasRoom c = false) :
    matIssue spec act m len ctl grouped offer s
      = .next ((u.modSimt fun y => { y with ops := y.ops ++ [o] }).stall gid sp (.accept o.id m len)) := by
  unfold matIssue
  rw [simtAfter_issues h hp hu hk hq hruns]
  simp [ho, hc, hunits, hroom]

theorem matIssue_faults {e : Flt} (he : u.checkOffer k o = .error e) :
    matIssue spec act m len ctl grouped offer s = .next (u.issueFlt gid sp k 0 e) := by
  unfold matIssue
  rw [simtAfter_issues h hp hu hk hq hruns]
  simp only [ho, he]

end Offer

/-! ### MFENCE and MWAIT (R105, R256) -/

section Batches

variable {s : State} {gid sp : Nat} {g : Group} {p : Split} {rd : Rd} (h : s.Issues gid sp g p rd)
include h

section Mfence

variable {x : R1} (hp : g.Passes p { Spec.of x.m 1 false [] [codeG x.r] with needS := true } rd.mask)
include hp

theorem execMfence_closes (hroom : g.mat.batches.length < 8) :
    execMfence x s = .next ((s.closeBatch gid sp x.r).advance gid sp x.m 1 false none none) :=
  simtStall_goes h hp (by simp only [Nat.not_le.mpr hroom, if_false]) rfl

theorem execMfence_parks (hfull : 8 ≤ g.mat.batches.length) : execMfence x s = .next (s.stall gid sp (.batchFull x.m x.r)) :=
  simtStall_parks h hp (by simp only [hfull, if_true])

end Mfence

section Mwait

variable {x : Op1} {b : Nat} (hp : g.Passes p { Spec.of x.m x.len false x.a.uCodes [] with needS := true } rd.mask)
  (hb : b = fieldOf (rd.uni x.a).toNat 0 16)
include hp hb

theorem execMwait_ahead (hahead : batchAhead g.mat b = true) : execMwait x s = .next (s.simtFault gid sp 2 0) := by
  subst hb
  unfold execMwait
  exact simtStall_simtFault h hp (by simp only [hahead, if_true]) (by decide)

variable (hahead : batchAhead g.mat b = false)
include hahead

theorem execMwait_parks (hopen : g.mat.doneUpTo b = false) : execMwait x s = .next (s.stall gid sp (.mwait b x.m x.len)) := by
  subst hb
  unfold execMwait
  exact simtStall_parks h hp (by simp [hahead, hopen])

theorem execMwait_goes (hdone : g.mat.doneUpTo b = true) (hreport : g.mat.reportFor b = none) :
    execMwait x s = .next (s.advance gid sp x.m x.len false none none) := by
  subst hb
  unfold execMwait
  exact simtStall_goes h hp (by simp [hahead, hdone, hreport]) rfl

end Mwait

end Batches

/-- What an MMA offers: for each quarter with an active lane, its lowest one with the operands there (R92). -/
def mmaOffer (x : MmaI) (rd : Rd) : List (Nat × W64 × W64 × W64) :=
  rd.quarters.map fun l => (l, (rd.v x.d l).setWidth 64, rd.pair x.a l, rd.pair x.c l)

/-- Settles O38: MMA and MMAG are offered alike; MSETAUX, MFENCE and MWAIT answer by the group's batches. -/
theorem matrixInstructions : Obligations.MatrixInstructions := by
  unfold Obligations.MatrixInstructions
  intro s gid sp g p rd h
  refine ⟨fun x u k q offer o hp hoffer hu hk hq hruns ho => ?_, fun x u k q c hp hu hk hq hruns hpass hc hroom => ?_,
    fun x hp => ?_, fun x hp => ⟨execMfence_closes h hp, execMfence_parks h hp⟩,
    fun x hp b hb => ⟨execMwait_ahead h hp hb, execMwait_parks h hp hb, execMwait_goes h hp hb⟩⟩
  case refine_1 =>
    subst hoffer ho
    refine ⟨fun c hc hroom hpass => ?_, fun c hc hunits hroom => ?_, fun e he => ?_⟩
    all_goals change execMma x s = _
    · exact matIssue_accepts (offer := mmaOffer x) h hp hu hk hq hruns rfl hc hroom hpass rfl rfl
    · exact matIssue_parks (offer := mmaOffer x) h hp hu hk hq hruns rfl hc hunits hroom
    · exact matIssue_faults (offer := mmaOffer x) h hp hu hk hq hruns rfl he
  case refine_2 =>
    change execMmag x s = _
    exact matIssue_accepts h hp hu hk hq hruns rfl hc hroom hpass rfl rfl
  case refine_3 =>
    change execMsetaux x s = _
    exact simtOnly_done h hp rfl

end Sys2Proof.Machine

/-! ## O41: CPY, PUBLISH, SPAWN, SREAD and SWRITE (R53, R63, R66, R79, R199, R200, R246, R247, R270, R277) -/

namespace Sys2Proof.Machine

namespace State.MovesGroups

variable {s t : State} (h : s.MovesGroups t)
include h

theorem copies : t.simt.copies = s.simt.copies := by
  obtain ⟨_, _, _, _, _, _, _, rfl⟩ := h
  rfl

theorem store : t.store = s.store := by
  obtain ⟨_, _, _, _, _, _, _, rfl⟩ := h
  rfl

end State.MovesGroups

/-! ### CPY (R63, R79, R246) -/

section Cpy

variable {s u : State} {gid sp : Nat} {g k : Group} {p q : Split} {rd : Rd} {x : CpyI}

section Issue

variable (h : s.Issues gid sp g p rd) (hp : g.Passes p (specCpy x rd) rd.leader)
  (hu : (s.readAfterAll gid g.nextFlight).readRecords g (cpyRecords x rd) = u) (hk : u.group? gid = some k)
  (hq : k.split? sp = some q) (hruns : u.ctxRuns k.place.ctx = true) (hpass : k.Passes q (specCpy x rd) rd.leader)
include h hp hu hk hq hruns hpass

theorem execCpy_sends {l : Nat} {r : List Nat} {c : Copy} (hlanes : rd.lanes = l :: r) (hc : u.copyOf gid k q rd x l = .ok c) :
    execCpy x s = .next ((u.sendCopy gid sp l x c).advance gid sp x.m 2 false none none) := by
  unfold execCpy
  rw [simtAfter_issues h hp hu hk hq hruns]
  simp only [hlanes, hc]
  exact congrArg _ (issueSplit_ok (i := { specCpy x rd with rkind := u.cpyKind k.place.ctx x rd }) hpass u gid sp false _)

theorem execCpy_without_lane (hlanes : rd.lanes = []) : execCpy x s = .next (u.advance gid sp x.m 2 false none none) := by
  unfold execCpy
  rw [simtAfter_issues h hp hu hk hq hruns]
  simp only [hlanes]
  exact congrArg _ (issueSplit_ok (i := { specCpy x rd with rkind := u.cpyKind k.place.ctx x rd }) hpass u gid sp false _)

end Issue

/-- The flight of a copy of lane `l`, on path COPY (R79). -/
def Group.copyFlight (k : Group) (sp l id : Nat) : Flight :=
  { Flight.access sp (.copy id) (laneBit l) 5 [] with id := k.nextFlight }

theorem sendCopy_group? (hk : u.group? gid = some k) (l : Nat) (c : Copy) : (u.sendCopy gid sp l x c).group? gid = some { k with
    nextFlight := k.nextFlight + 1, flights := k.flights ++ [k.copyFlight sp l u.newCopy]
    deferCopies := if x.ctl.defer then k.deferCopies ++ [u.newCopy] else k.deferCopies } :=
  group?_modGroup_same (s := u.putCopy u.newCopy { c with toPublish := u.rangesWritten c }) hk _

theorem sendCopy_copies (l : Nat) (c : Copy) :
    Tbl.get? (u.sendCopy gid sp l x c).simt.copies u.newCopy = some { c with toPublish := u.rangesWritten c } := by
  unfold State.sendCopy
  rw [later_simt, (modGroup_movesGroups ..).copies]
  exact Tbl.get?_put_same ..

theorem sendCopy_store (l : Nat) (c : Copy) : (u.sendCopy gid sp l x c).store = u.store := by
  unfold State.sendCopy
  rw [later_store, (modGroup_movesGroups ..).store]
  rfl

end Cpy

/-! ### PUBLISH (R66, R247) -/

section SendPublish

variable {s : State} {gid sp : Nat} {g : Group} {p : Split} (l va i scope : Nat)

theorem sendPublish_publishes (hg : s.group? gid = some g) :
    Tbl.get? (s.sendPublish gid sp p l va i scope).simt.publishes s.free = some ⟨gid, sp, g.place.ctx, i, scope, [], [],
      g.nextFlight, false, false, (p.point l).1, (p.point l).2, va⟩ := by
  unfold State.sendPublish
  simp only [hg, soon_simt, modSimt_simt]
  exact Tbl.get?_put_same ..

theorem sendPublish_agenda (hg : s.group? gid = some g) :
    (s.ac, Event.publishPoint s.free) ∈ (s.sendPublish gid sp p l va i scope).agenda := by
  unfold State.sendPublish
  simp only [hg, State.soon, State.at, modSimt_ac, modGroup_ac, drawn_ac]
  exact List.mem_append_right _ (List.mem_singleton_self _)

theorem sendPublish_store : (s.sendPublish gid sp p l va i scope).store = s.store := by
  unfold State.sendPublish
  split
  · rfl
  · rw [soon_store, modSimt_store, (modGroup_movesGroups ..).store, drawn_store]

end SendPublish

section Publish

variable {s : State} {gid sp : Nat} {g : Group} {p : Split} {rd : Rd} {x : ACode} (h : s.Issues gid sp g p rd)
  (hp : g.Passes p (specPublish x rd) rd.leader)
include h hp

theorem execPublish_sends {l i : Nat} {r : List Nat} (hlanes : rd.lanes = l :: r)
    (hi : s.publishRange g.place.ctx (rd.addr x.a l).toNat = .ok i) : execPublish x s
      = .next ((s.sendPublish gid sp p l (rd.addr x.a l).toNat i x.code).advance gid sp x.m x.len false none none) := by
  unfold execPublish
  exact simtOnly_done h hp (by simp only [hlanes, hi])

theorem execPublish_without_lane (hlanes : rd.lanes = []) :
    execPublish x s = .next (s.advance gid sp x.m x.len false none none) := by
  unfold execPublish
  exact simtOnly_done h hp (by simp only [hlanes])

end Publish

/-! ### SPAWN (R53, R277) -/

theorem execSpawn_takes {s u : State} {gid sp : Nat} {g k : Group} {p q : Split} {rd : Rd} {x : SpawnI} {tr : TaskRec}
    {l : LaunchRec} {spt : List SptEntry} (h : s.Issues gid sp g p rd) (hp : g.Passes p (specSpawn x) p.mask)
    (hu : s.spawnReads gid g p.mask (rd.uni x.a).toNat = u) (hk : u.group? gid = some k) (hq : k.split? sp = some q)
    (hruns : u.ctxRuns k.place.ctx = true) (hread : u.readTask k.place.ctx (rd.uni x.a).toNat = .ok (some (tr, l, spt)))
    (hsq : x.ctl.sq < (u.queue k.place.ctx).spawnCount)
    (hroom : u.spawnFull k.place.ctx x.ctl.sq (((u.taskOf k).map Task.tree).getD 0) = false) : execSpawn x s
      = .next ((u.spawnTake gid sp k q.mask ⟨x.ctl.sq, x.ctl.st, tr, l, spt⟩).advance gid sp x.m x.len false none none) := by
  have hmask : rd.mask = p.mask := by rw [← h.2]; rfl
  unfold execSpawn
  rw [simtAfter_issues h (hmask.symm ▸ hp) hu hk hq hruns]
  simp only [hread, Nat.not_le.mpr hsq, if_false, State.spawnIssue, hroom, Bool.not_false, if_true]

/-! ### Special registers (R199, R200, R270) -/

section Special

variable {s : State} {gid sp tid : Nat} {g : Group} {p : Split} {t : Thread}

theorem execSread_split {x : DCode} (h : s.AtSplit gid sp g p) (hp : g.Passes p (Spec.of x.m 1 (!decide (x.code < 0x40))
      (if x.code = 0x14 then [codeFstat] else []) [codeG x.d]) p.mask) :
    execSread x s = .next (s.uniDone gid sp p x.m 1 false (RegWrites.gOne x.d (s.sprGroup g p x.code))) := by
  unfold execSread
  rw [issuer_split h]
  exact congrArg _ (issueSplit_ok hp s gid sp false _)

/-- FSTAT is the one special register that a group may write (Table 7 of ch09). -/
theorem sprSimt_and_sprWritable (n : Nat) : (sprSimt n && sprWritable n) = decide (n = 0x14) := by
  rw [Bool.eq_iff_iff]
  simp only [sprSimt, sprWritable, Bool.and_eq_true, Bool.or_eq_true, decide_eq_true_eq, beq_iff_eq]
  omega

theorem execSwrite_split {x : ACode} (h : s.AtSplit gid sp g p)
    (hp : g.Passes p (Spec.of x.m x.len (!decide (x.code = 0x14)) x.a.uCodes []) p.mask) : execSwrite x s
      = .next (s.uniDone gid sp p x.m x.len true { RegWrites.none with fset := some ((s.rdSplit g sp p).uni x.a) }) := by
  unfold execSwrite
  rw [issuer_split h, sprSimt_and_sprWritable]
  exact congrArg _ (issueSplit_ok hp s gid sp true _)

variable (h : s.AtThread tid t)
include h

theorem execSread_thread {x : DCode} (hl : sprLevel x.code ≤ t.lvl)
    (hp : t.Passes (Spec.of x.m 1 (!sprThread x.code) (if x.code = 0x14 then [codeFstat] else []) [codeG x.d])) :
    execSread x s = .next (s.threadDone tid ((t.write (RegWrites.gOne x.d (s.sprOfThread tid t x.code))).onward 1)) := by
  have hpriv : t.sprPriv x.code = false := decide_eq_false (Nat.not_lt.mpr hl)
  unfold execSread
  rw [issuer_thread h, hpriv]
  simp only [Bool.false_eq_true, if_false, issueThread_ok hp, modThread_modThread, h.2]
  rfl

theorem execSread_thread_priv {x : DCode} (hl : t.lvl < sprLevel x.code) : execSread x s = .next (s.threadFault tid 5 0) := by
  have hpriv : t.sprPriv x.code = true := decide_eq_true hl
  unfold execSread
  rw [issuer_thread h, if_pos hpriv]

theorem execSwrite_thread {x : ACode} (hl : sprLevel x.code ≤ t.lvl)
    (hp : t.Passes (Spec.of x.m x.len (!(sprThread x.code && sprWritable x.code)) x.a.uCodes [])) :
    execSwrite x s = .next (s.threadDone tid ((t.sprSet x.code ((t.rd tid).uni x.a)).onward x.len)) := by
  have hpriv : t.sprPriv x.code = false := decide_eq_false (Nat.not_lt.mpr hl)
  unfold execSwrite
  rw [issuer_thread h, hpriv]
  simp only [Bool.false_eq_true, if_false, issueThread_ok hp, modThread_modThread, h.2]
  rfl

end Special

/-- Settles O41: one lemma per instruction and case, above. -/
theorem copiesPublishesSpawnsAndSpecialRegisters : Obligations.CopiesPublishesSpawnsAndSpecialRegisters := by
  unfold Obligations.CopiesPublishesSpawnsAndSpecialRegisters
  intro s gid sp g p rd h
  refine ⟨fun x u k q hp hu hk hq hruns hpass => ⟨fun l r c hlanes hc => ⟨execCpy_sends h hp hu hk hq hruns hpass hlanes hc,
      sendCopy_copies l c, sendCopy_store l c, ?_, fun hdefer => ?_⟩, execCpy_without_lane h hp hu hk hq hruns hpass⟩,
    fun x hp => ⟨fun l r i hlanes hi => ⟨execPublish_sends h hp hlanes hi, sendPublish_publishes l _ i _ h.1.2.1,
      sendPublish_agenda l _ i _ h.1.2.1, sendPublish_store l _ i _⟩, execPublish_without_lane h hp⟩,
    fun x tr l spt u k q hp hu hk hq hruns hread hsq hroom => execSpawn_takes h hp hu hk hq hruns hread hsq hroom,
    fun x hp => execSread_split h.1 hp, fun x hp => ?_,
    fun tid t u ht => ⟨fun x hl hp => execSread_thread ht hl hp, fun x hl hp => execSwrite_thread ht hl hp,
      fun x hl => execSread_thread_priv ht hl⟩⟩
  case refine_1 => simp [sendCopy_group? hk, Group.pathCount, Group.copyFlight, Flight.access]
  case refine_2 => simp [sendCopy_group? hk, hdefer]
  case refine_3 =>
    obtain ⟨hat, rfl⟩ := h
    exact execSwrite_split hat hp

end Sys2Proof.Machine

/-! ## O52: the events of copies, matrix engines and tuple slices (R63, R64, R66, R89, R90, R105, R106, R123, R125, R126, R128) -/

namespace Sys2Proof.Machine

/-! ### What an add to a counter leaves as it was: every copy (R78, R315, R380, R416) -/

theorem scrubLines_simt (s : State) (a n : Nat) : (s.scrubLines a n).simt = s.simt := by
  unfold State.scrubLines
  split
  · refine foldl_keeps State.simt (fun t line => ?_) _ s
    unfold State.scrubLine
    split
    · split <;> rfl
    · rfl
  · rfl

theorem setBit_simt (s : State) (a bit : Nat) : (s.setBit a bit).simt = s.simt := by
  unfold State.setBit
  dsimp only
  split <;> rfl

theorem dirtyRing_simt (s : State) (page : Nat) : (s.dirtyRing page).simt = s.simt := by
  refine foldl_keeps State.simt (fun t v => ?_) _ s
  obtain ⟨_, f⟩ := v
  dsimp only
  split
  · rfl
  · refine foldl_keeps State.simt (fun r y => ?_) _ t
    obtain ⟨q, x⟩ := y
    dsimp only
    split
    · split
      · exact setBit_simt ..
      · rfl
    · rfl

theorem clearPoison_simt (s : State) (a n : Nat) : (s.clearPoison a n).simt = s.simt := by
  unfold State.clearPoison
  dsimp only
  split <;> rfl

theorem wakeCounters_copies (s : State) (a n : Nat) : (s.wakeCounters a n).simt.copies = s.simt.copies := by
  have hfold {α : Type} {f : State → α → State} (h : ∀ t x, (f t x).simt.copies = t.simt.copies) (l : List α) (t : State) :
      (l.foldl f t).simt.copies = t.simt.copies := foldl_keeps (fun t => t.simt.copies) h l t
  unfold State.wakeCounters
  refine (hfold (fun t x => ?_) _ _).trans ((hfold (fun t x => ?_) _ _).trans (hfold (fun t x => ?_) _ _))
  · rfl
  · rfl
  · exact (modGroup_movesGroups ..).copies

theorem write_copies (s : State) (a : Nat) (bs : List Byte) : (s.write a bs).simt.copies = s.simt.copies := by
  unfold State.write
  split
  · rfl
  · rw [wakeCounters_copies, clearPoison_simt, poke_simt, foldl_keeps State.simt dirtyRing_simt, scrubLines_simt]

theorem addCounter_copies (s : State) (a k : Nat) : (s.addCounter a k).simt.copies = s.simt.copies := by
  obtain ⟨_, _, _, h⟩ := toEngine_eq s a
  unfold State.addCounter State.writeNat
  rw [write_copies, h]

theorem State.Asks.store {s u : State} (h : s.Asks u) : u.store = s.store := by
  obtain ⟨_, rfl⟩ := h
  rfl

/-! ### A copy's counters (R89) -/

/-- The state after a copy's counter, if it has one, has gained one. -/
def State.counted (s : State) (pa : Option Nat) : State := pa.elim s fun a => s.addCounter a 1

theorem counted_copies (s : State) (pa : Option Nat) : (s.counted pa).simt.copies = s.simt.copies := by
  cases pa with
  | none => rfl
  | some a => exact addCounter_copies ..

section Counters

variable {s : State} {c : Copy} {pa : Option Nat} {va : Nat}

theorem copyCount_current (h : pa = none ∨ c.stale = false) : s.copyCount c pa va = .ok (s.counted pa) := by
  unfold State.copyCount
  cases pa with
  | none => rfl
  | some a =>
    have hstale : c.stale = false := h.resolve_left (by simp)
    simp [hstale, State.counted]

variable {a : Nat} (hstale : c.stale = true)
include hstale

theorem copyCount_fault {k : Nat} (hx : s.xlateCtx c.ctx va 8 .readWrite true false = .error k) :
    s.copyCount c (some a) va = .error ⟨k, va, 2⟩ := by
  simp [State.copyCount, hstale, hx]

theorem copyCount_again {x : Xlat} (hx : s.xlateCtx c.ctx va 8 .readWrite true false = .ok x) :
    s.copyCount c (some a) va = .ok (s.counted (some x.pa)) := by
  simp [State.copyCount, hstale, hx, State.counted]

end Counters

theorem modCopy_xlateCtx (s : State) (id : Nat) (f : Copy → Copy) (q va n : Nat) (need : Need) (atomic shadow : Bool) :
    (s.modCopy id f).xlateCtx q va n need atomic shadow = s.xlateCtx q va n need atomic shadow := rfl

theorem modCopy_same (s : State) (id : Nat) (f : Copy → Copy) :
    Tbl.get? (s.modCopy id f).simt.copies id = (Tbl.get? s.simt.copies id).map f := Tbl.get?_mod_same ..

/-! ### COPY_UNIT_TRANSFER (R90, R350) -/

theorem clearUnit_mem (s : State) (c : Copy) : (s.clearUnit c).store.mem = s.store.mem := by
  unfold State.clearUnit
  split
  · rfl
  · exact foldl_keeps (fun t => t.store.mem) (fun t n => (clearPoison_keepsBytes ..).1) _ s

theorem clearUnit_simt (s : State) (c : Copy) : (s.clearUnit c).simt = s.simt := by
  unfold State.clearUnit
  split
  · rfl
  · exact foldl_keeps State.simt (fun t n => clearPoison_simt ..) _ s

section Copies

variable {s : State} {id : Nat} {c : Copy} (hc : Tbl.get? s.simt.copies id = some c)
include hc

theorem exec_copyUnitTransfer_over (h : c.stopped = true ∨ c.srcDone = true) : exec (.copyUnitTransfer id) s = .next s := by
  have hover : (c.stopped || c.srcDone) = true := by simpa using h
  change execCopyUnitTransfer id s = _
  simp only [execCopyUnitTransfer, hc, hover, if_true]

section Unit

variable (hstopped : c.stopped = false) (hdone : c.srcDone = false)
include hstopped hdone

theorem exec_copyUnitTransfer_stops (hhalt : (s.ctx c.ctx).halt.isSome = true) :
    exec (.copyUnitTransfer id) s = .next (s.modCopy id fun c => { c with stopped := true }) := by
  change execCopyUnitTransfer id s = _
  simp [execCopyUnitTransfer, hc, hstopped, hdone, hhalt]

variable (hhalt : (s.ctx c.ctx).halt = none)
include hhalt

theorem exec_copyUnitTransfer_again (h : (s.copyWaits id c || (s.ctx c.ctx).frozen || s.engineBusy c) = true) :
    exec (.copyUnitTransfer id) s = .next (s.at (s.ac + 1) (.copyUnitTransfer id)) := by
  change execCopyUnitTransfer id s = _
  simp only [execCopyUnitTransfer, hc, hstopped, hdone, hhalt, h, Bool.or_self, Option.isSome_none, Bool.false_eq_true, if_false,
    if_true]

variable (hfree : (s.copyWaits id c || (s.ctx c.ctx).frozen || s.engineBusy c) = false) {r : State}
  (hpass : s.rowsPass (((s.group? c.gid).map s.vfOfGroup).getD 256) (.copyUnitTransfer id) (lineAccs (s.copyLines c c.unitNow))
    = (r, false))
include hfree hpass

theorem exec_copyUnitTransfer_faults {e : CopyFlt} (he : ((r.useEngine c).meetUnit c).copyElems c c.unitNow = .error e) :
    exec (.copyUnitTransfer id) s = .next (((r.useEngine c).meetUnit c).copyFault id c e) := by
  change execCopyUnitTransfer id s = _
  simp only [execCopyUnitTransfer, hc, hstopped, hdone, hhalt, hfree, hpass, he, Bool.or_self, Option.isSome_none,
    Bool.false_eq_true, if_false]

theorem exec_copyUnitTransfer_moves {u : State} (hu : ((r.useEngine c).meetUnit c).copyElems c c.unitNow = .ok u) :
    ∃ v, exec (.copyUnitTransfer id) s = .next v ∧ v.store = (u.clearUnit c).store ∧ v.store.mem = u.store.mem
      ∧ (Tbl.get? v.simt.copies id).map Copy.unitAt = (Tbl.get? u.simt.copies id).map (fun k => k.unitAt + 1) := by
  have hmoved : Tbl.get? ((u.clearUnit c).modCopy id fun k => { k with unitAt := k.unitAt + 1 }).simt.copies id
      = (Tbl.get? u.simt.copies id).map fun k => { k with unitAt := k.unitAt + 1 } := by
    rw [modCopy_same, clearUnit_simt]
  change ∃ v, execCopyUnitTransfer id s = .next v ∧ _
  simp only [execCopyUnitTransfer, hc, hstopped, hdone, hhalt, hfree, hpass, hu, Bool.or_self, Option.isSome_none,
    Bool.false_eq_true, if_false]
  refine ⟨_, rfl, ?_⟩
  split
  all_goals
    refine ⟨rfl, clearUnit_mem .., (congrArg (Option.map Copy.unitAt) hmoved).trans ?_⟩
    rw [Option.map_map]
    rfl

end Unit

/-! ### SOURCE_RELEASED (R64, R89) -/

theorem exec_sourceReleased_early (h : c.srcDone = true ∨ c.unitAt < c.units) : exec (.sourceReleased id) s = .next s := by
  have hearly : (c.srcDone || decide (c.unitAt < c.units)) = true := by simpa using h
  change execSourceReleased id s = _
  simp only [execSourceReleased, hc, hearly, if_true]

/-- The state with a copy's source released. -/
def State.sourceFree (s : State) (id : Nat) : State := s.modCopy id fun k => { k with srcDone := true }

section Released

variable (hdone : c.srcDone = false) (hread : c.units ≤ c.unitAt)
include hdone hread

theorem exec_sourceReleased_counts {pa : Option Nat}
    (h : (s.sourceFree id).copyCount c c.srcctr c.srcVa = .ok ((s.sourceFree id).counted pa)) :
    ∃ v, exec (.sourceReleased id) s = .next v ∧ (Tbl.get? v.simt.copies id).map Copy.srcDone = some true
      ∧ v.store = ((s.sourceFree id).counted pa).store := by
  unfold State.sourceFree at h ⊢
  change ∃ v, execSourceReleased id s = .next v ∧ _
  simp only [execSourceReleased, hc, hdone, Nat.not_lt.mpr hread, decide_false, Bool.or_self, Bool.false_eq_true, if_false, h]
  refine ⟨_, rfl, ?_, rfl⟩
  rw [later_simt, counted_copies, modCopy_same, hc]
  rfl

theorem exec_sourceReleased_faults {e : CopyFlt} (h : (s.sourceFree id).copyCount c c.srcctr c.srcVa = .error e) :
    exec (.sourceReleased id) s = .next (s.copyFault id c e) := by
  unfold State.sourceFree at h
  change execSourceReleased id s = _
  simp only [execSourceReleased, hc, hdone, Nat.not_lt.mpr hread, decide_false, Bool.or_self, Bool.false_eq_true, if_false, h]

end Released

/-! ### LANDED and PUBLISHED (R64, R66, R89) -/

theorem exec_landed_unready (h : c.landed = true ∨ c.srcDone = false) : exec (.landed id) s = .next s := by
  have hunready : (c.landed || !c.srcDone) = true := by simpa using h
  change execLanded id s = _
  simp only [execLanded, hc, hunready, if_true]

theorem exec_landed (hlanded : c.landed = false) (hdone : c.srcDone = true) : ∃ v, exec (.landed id) s = .next v
    ∧ (Tbl.get? v.simt.copies id).map Copy.landed = some true := by
  change ∃ v, execLanded id s = .next v ∧ _
  simp only [execLanded, hc, hlanded, hdone, Bool.not_true, Bool.or_self, Bool.false_eq_true, if_false]
  refine ⟨_, rfl, ?_⟩
  have hcopies : Tbl.get? ((s.modCopy id fun k => { k with landed := true }).finishFlight c.gid c.flight).simt.copies id
      = some { c with landed := true } := by
    rw [(finishFlight_movesGroups ..).copies, modCopy_same, hc]
    rfl
  generalize (s.modCopy id fun k => { k with landed := true }).finishFlight c.gid c.flight = t at hcopies ⊢
  have hasks : t.Asks (t.simt.publishes.foldl (fun s p => if p.2.await.contains id then s.soon (.publishPoint p.1) else s) t) := by
    refine .foldl (fun t p => ?_) _ t
    split
    · exact .soon ..
    · exact .refl t
  rw [soon_simt, (recheckDeferred_asks _).simt]
  split
  · rw [soon_simt, hasks.simt, hcopies]
    rfl
  · rw [hasks.simt, hcopies]
    rfl

theorem exec_published_unready (h : c.published = true ∨ c.landed = false) : exec (.published id) s = .next s := by
  have hunready : (c.published || !c.landed || c.toPublish != []) = true := by rcases h with h | h <;> simp [h]
  change execPublished id s = _
  simp only [execPublished, hc, hunready, if_true]

theorem exec_published (hpublished : c.published = false) (hlanded : c.landed = true) (hranges : c.toPublish = [])
    (hcurrent : c.pubctr = none ∨ c.stale = false) : ∃ v, exec (.published id) s = .next v ∧ Tbl.get? v.simt.copies id = none
      ∧ v.store = ((s.modCopy id fun k => { k with published := true }).counted c.pubctr).store := by
  change ∃ v, execPublished id s = .next v ∧ _
  simp only [execPublished, hc, hpublished, hlanded, hranges, copyCount_current hcurrent, Bool.not_true, bne_self_eq_false,
    Bool.or_self, Bool.false_eq_true, if_false]
  refine ⟨_, rfl, ?_⟩
  have hcopies : Tbl.get? ((s.modCopy id fun k => { k with published := true }).counted c.pubctr).simt.copies id
      = some { c with published := true } := by
    rw [counted_copies, modCopy_same, hc]
    rfl
  generalize (s.modCopy id fun k => { k with published := true }).counted c.pubctr = t at hcopies ⊢
  have hasks := recheckDeferred_asks t
  simp only [State.dropCopy, hasks.simt, hcopies, hlanded, Bool.and_self, if_true]
  exact ⟨Tbl.get?_del_same .., hasks.store⟩

end Copies

/-! ### MATRIX_PASS (R63, R104, R106) -/

theorem exec_matrixPass_idle {s : State} {k : Nat} (h : s.engineOps k = []) : exec (.matrixPass k) s = .next s := by
  change execMatrixPass k s = _
  simp only [execMatrixPass, h]

section MatrixPass

variable {s : State} {k : Nat} {o : MatOp} {r : List MatOp} (hops : s.engineOps k = o :: r)
include hops

theorem exec_matrixPass_waits (hwaits : s.opWaits o = true) :
    exec (.matrixPass k) s = .next (s.at (s.ac + 1) (.matrixPass k)) := by
  change execMatrixPass k s = _
  simp only [execMatrixPass, hops, hwaits, if_true]

/-- The physical lines that an operation's next pass reads. -/
def MatOp.linesNow (o : MatOp) : List Nat := (o.unitNow.map fun x => x.1.lines o x.2).getD []

theorem exec_matrixPass_passes {u : State} {held : Bool} (hfree : s.opWaits o = false)
    (hpass : s.rowsPass (((s.group? o.gid).map s.vfOfGroup).getD 256) (.matrixPass k) (lineAccs o.linesNow) = (u, held)) :
    exec (.matrixPass k) s = .next (if held then u else (u.passOp k o).startPass k) := by
  unfold MatOp.linesNow at hpass
  change execMatrixPass k s = _
  unfold execMatrixPass
  cases hunit : o.unitNow with
  | none =>
    simp only [hunit, Option.map_none, Option.getD_none] at hpass
    simp only [hops, hfree, hunit, hpass, Bool.false_eq_true, if_false]
  | some x =>
    simp only [hunit, Option.map_some, Option.getD_some] at hpass
    simp only [hops, hfree, hunit, hpass, Bool.false_eq_true, if_false]

end MatrixPass

/-! ### OPERATION_ACCEPTANCE (R63, R103, R351) -/

section Acceptance

variable {s u : State} {id len : Nat} {o : MatOp} {g : Group} {p : Split} {m : Marks}
  (ho : (s.simt.ops.find? fun o => o.id == id && !o.accepted) = some o) (hg : s.group? o.gid = some g)
  (hp : g.split? o.sp = some p) (hpark : p.park = some (.accept id m len)) (hhalt : (s.ctx g.place.ctx).halt = none)
  (hfrozen : (s.ctx g.place.ctx).frozen = false) (hu : u = s.beforeOffer g o) (hruns : u.ctxRuns g.place.ctx = true)
include ho hg hp hpark hhalt hfrozen hu hruns

theorem exec_operationAcceptance_faults {f : Flt} (hf : u.checkOffer g o = .error f) : exec (.operationAcceptance id) s
    = .next ((u.modSimt fun x => { x with ops := x.ops.filter fun y => y.id != id }).parkedFlt o.gid o.sp g 0 f) := by
  subst hu
  change execOperationAcceptance id s = _
  simp [execOperationAcceptance, ho, hg, hp, hpark, hhalt, hfrozen, hruns, hf]

variable {k : MatOp} (hk : u.checkOffer g o = .ok k)
include hk

theorem exec_operationAcceptance_accepts (hroom : k.units = [] ∨ u.hasRoom k = true) : exec (.operationAcceptance id) s = .next
    (((u.modSimt fun x => { x with ops := x.ops.filter fun y => y.id != id }).acceptUnits k).resumeAfter o.gid o.sp m len) := by
  subst hu
  change execOperationAcceptance id s = _
  simp [execOperationAcceptance, ho, hg, hp, hpark, hhalt, hfrozen, hruns, hk, hroom]

theorem exec_operationAcceptance_waits (hunits : k.units ≠ []) (hroom : u.hasRoom k = false) :
    exec (.operationAcceptance id) s = .next u := by
  subst hu
  change execOperationAcceptance id s = _
  simp [execOperationAcceptance, ho, hg, hp, hpark, hhalt, hfrozen, hruns, hk, hunits, hroom]

end Acceptance

/-! ### BATCH_COMPLETE (R105) -/

/-- With fuel for every open batch, the empty ones at the front are completed, in the order of their numbers. -/
theorem complete_leading (n : Nat) (m : MatState) (h : m.batches.length ≤ n) :
    (m.complete n).batches = m.batches.dropWhile (fun b => b.2.isEmpty)
    ∧ (m.complete n).completed = (((m.batches.takeWhile fun b => b.2.isEmpty).getLast?).map Prod.fst).getD m.completed := by
  induction n generalizing m with
  | zero =>
    have hnone : m.batches = [] := List.length_eq_zero_iff.mp (Nat.le_zero.mp h)
    simp [MatState.complete, hnone]
  | succ n ih =>
    cases hm : m.batches with
    | nil => simp [MatState.complete, hm]
    | cons x r =>
      obtain ⟨b, os⟩ := x
      cases os with
      | cons o os => simp [MatState.complete, hm]
      | nil =>
        obtain ⟨hbatches, hcompleted⟩ := ih { m with completed := b, batches := r } (by simpa [hm] using h)
        simp only [MatState.complete, hm]
        refine ⟨by simpa using hbatches, hcompleted.trans ?_⟩
        cases hlast : (r.takeWhile fun b => b.2.isEmpty).getLast? <;> simp [hlast, List.getLast?_cons]

theorem exec_batchComplete {s : State} {gid : Nat} {g : Group} (hg : s.group? gid = some g) (hsplits : g.splits = []) :
    ∃ u, exec (.batchComplete gid) s = .next u ∧ u.group? gid = some { g with mat := g.mat.complete 8 } := by
  have hdone := group?_modGroup_same hg fun g => { g with mat := g.mat.complete 8 }
  refine ⟨_, rfl, ?_⟩
  unfold State.batchWake
  simp only [hdone, hsplits, List.foldl_nil]

/-! ### Replies of tuple requests (R122, R124, R290) -/

theorem tupWrite_tuples (s : State) (id : Nat) (r : TupReq) (w : RegWrites) :
    (s.tupWrite id r w).store.tuples = s.store.tuples := by
  have hwritten (t : State) (gid : Nat) (v : RegWrites) : t.MovesGroups ((t.writeRegs gid v).finishFlight gid r.flight) :=
    (modGroup_movesGroups ..).trans (finishFlight_movesGroups ..)
  change _ = (s.dropReq id).store.tuples
  unfold State.tupWrite
  dsimp only
  split
  · rfl
  next gid _ _ =>
    split
    · exact congrArg MemSide.tuples (hwritten (s.dropReq id) gid _).store
    · refine congrArg MemSide.tuples
        ((hwritten (s.dropReq id) gid _).trans (State.MovesGroups.foldl (fun t x => ?_) _ _)).store
      obtain ⟨i, p⟩ := x
      dsimp only
      split
      · split
        · exact resumeAfter_movesGroups ..
        · exact .refl t
      · exact .refl t

theorem tupReply_tuples (s : State) (id : Nat) (r : TupReq) (w : RegWrites) :
    (s.tupReply id r w).store.tuples = s.store.tuples := by
  unfold State.tupReply
  split
  · exact tupWrite_tuples ..
  · rfl

theorem tupReply_tuplesOf (s : State) (id : Nat) (r : TupReq) (w : RegWrites) (region : Nat) :
    (s.tupReply id r w).tuplesOf region = s.tuplesOf region := by
  rw [State.tuplesOf, tupReply_tuples, ← State.tuplesOf]

/-! ### What a slice answers (R123, R125, R126) -/

section Serve

variable (s : State) (id : Nat) {r : TupReq}

/-- A deposit that nothing awaits and that finds no room. -/
theorem serveDeposit_full (htakes : s.parkedFor r 2 = []) (hroom : s.depositRoom r = none) :
    s.serveDeposit id r = s.tupReply id r (r.reply 3 []) := by
  simp [State.serveDeposit, htakes, hroom]

/-- A deposit that nothing awaits and that finds room. -/
theorem serveDeposit_stores (htakes : s.parkedFor r 2 = []) (hcopies : s.parkedFor r 1 = []) {sp : Bool}
    (hroom : s.depositRoom r = some sp) : (s.serveDeposit id r).tuplesOf r.region
      = s.tuplesOf r.region ++ [⟨s.store.tupAge, r.slice, sp, r.tag, r.fields⟩] := by
  unfold State.serveDeposit
  simp only [htakes, hcopies, hroom, List.foldl_nil, reduceCtorEq, and_false, if_false, Option.getD_some, tupReply_tuplesOf]
  exact Tbl.getD_put_same ..

theorem serveMatch_copies {t : Tup} (ht : s.oldestMatch r = some t) :
    s.serveMatch id r false = s.tupReply id r (r.reply 0 t.fields) := by
  simp [State.serveMatch, ht]

theorem serveMatch_takes {t : Tup} (ht : s.oldestMatch r = some t) :
    (s.serveMatch id r true).tuplesOf r.region = (s.tuplesOf r.region).filter fun x => x.age != t.age := by
  unfold State.serveMatch
  simp only [ht, if_true, tupReply_tuplesOf]
  exact Tbl.getD_put_same ..

theorem serveMatch_noMatch (hnone : s.oldestMatch r = none) (hnb : r.nb = true) (take : Bool) :
    s.serveMatch id r take = s.tupReply id r (r.reply 1 []) := by
  simp [State.serveMatch, hnone, hnb]

section Now

variable (hparked : r.parked = false) (hanswer : r.answer = none)
include hparked hanswer

theorem serveNow_deposit (hkind : r.kind = 0) : s.serveNow id r = s.serveDeposit id r := by
  simp [State.serveNow, hparked, hanswer, hkind]

theorem serveNow_copy (hkind : r.kind = 1) : s.serveNow id r = s.serveMatch id r false := by
  simp [State.serveNow, hparked, hanswer, hkind]

theorem serveNow_take (hkind : r.kind = 2) : s.serveNow id r = s.serveMatch id r true := by
  simp [State.serveNow, hparked, hanswer, hkind]

end Now

end Serve

/-! ### When a request is served (R123, R131) -/

section Slice

variable {s : State} {id kind : Nat} {r : TupReq} (hr : Tbl.get? s.store.reqs id = some r)
include hr

theorem tupServe_parked (hparked : r.parked = true) (kind : Nat) : s.tupServe kind id = s := by
  simp [State.tupServe, hr, hparked]

theorem execTcancelServe_other (hkind : r.kind ≠ 3) : execTcancelServe id s = .next s := by
  simp [execTcancelServe, hr, hkind]

variable (hanswer : r.answer = none)
include hanswer

theorem execTcancelServe_done (hkind : r.kind = 3) (hslices : r.slices = []) :
    execTcancelServe id s = .next (s.tupReply id r r.cancelReply) := by
  simp [execTcancelServe, hr, hkind, hslices, hanswer]

variable (hkind : r.kind = kind) (hparked : r.parked = false)
include hkind hparked

theorem tupServe_free (hfree : s.reqWaits id r r.slice = false) : s.tupServe kind id = s.serveNow id r := by
  simp [State.tupServe, State.atSlice, hr, hkind, hparked, hanswer, hfree]

variable (hwaits : s.reqWaits id r r.slice = true)
include hwaits

theorem tupServe_early (hearly : s.ac < r.due) : s.tupServe kind id = s.at (s.ac + 1) (serveEvent r.kind id) := by
  simp [State.tupServe, State.atSlice, hr, hkind, hparked, hanswer, hwaits, hearly]

theorem tupServe_due (hdue : r.due ≤ s.ac) : s.tupServe kind id = (s.beforeReq r).serveNow id r := by
  simp [State.tupServe, State.atSlice, hr, hkind, hparked, hanswer, hwaits, Nat.not_lt.mpr hdue]

end Slice

/-- Settles O52: one lemma per event and case, above. -/
theorem engineEvents : Obligations.EngineEvents := by
  unfold Obligations.EngineEvents
  refine ⟨fun s id c hc => ⟨exec_copyUnitTransfer_over hc, exec_copyUnitTransfer_stops hc, exec_copyUnitTransfer_again hc,
      fun r hstopped hdone hhalt hfree hpass w hw => ?_, exec_sourceReleased_early hc, fun hdone hread hcurrent => ?_,
      fun pa hdone hread hpa hstale => ⟨fun e he => ?_, fun x hx => ?_⟩, exec_landed_unready hc, exec_landed hc,
      exec_published_unready hc, fun hpublished hlanded hranges hcurrent => ?_⟩,
    fun s k => ⟨exec_matrixPass_idle, fun o r hops => ⟨exec_matrixPass_waits hops, fun u held hfree hpass =>
      exec_matrixPass_passes hops hfree hpass⟩⟩,
    fun s id len o k g p m ho hg hp hpark hhalt hfrozen u hu hruns =>
      ⟨fun f hf => exec_operationAcceptance_faults ho hg hp hpark hhalt hfrozen hu hruns hf, fun hk =>
        ⟨exec_operationAcceptance_accepts ho hg hp hpark hhalt hfrozen hu hruns hk,
          exec_operationAcceptance_waits ho hg hp hpark hhalt hfrozen hu hruns hk⟩⟩,
    fun s gid g hg hsplits hlength => ?_,
    fun s id r hr hanswer => ⟨fun hfree => ⟨fun hkind hparked htakes hcopies => ⟨fun hroom => ?_, fun sp hroom => ?_⟩,
        fun t ht hparked => ⟨fun hkind => ?_, fun hkind => ?_⟩, fun hnone hparked hnb => ⟨fun hkind => ?_, fun hkind => ?_⟩⟩,
      fun hwaits hearly hparked i hi hkind => ?_, fun hkind hparked hwaits hdue => ?_,
      fun i hi hkind hparked hwaits hdue => ?_, fun hparked => ?_, execTcancelServe_done hr hanswer, execTcancelServe_other hr⟩⟩
  case refine_1 =>
    subst hw
    exact ⟨fun e => exec_copyUnitTransfer_faults hc hstopped hdone hhalt hfree hpass,
      fun u => exec_copyUnitTransfer_moves hc hstopped hdone hhalt hfree hpass⟩
  case refine_2 =>
    obtain ⟨v, hv, hflag, hstore⟩ := exec_sourceReleased_counts hc hdone hread (copyCount_current hcurrent)
    exact ⟨v, hv, hflag, fun hpa => by rw [hstore, hpa]; rfl, fun pa hpa => by rw [hstore, hpa]; rfl⟩
  case refine_3 =>
    refine exec_sourceReleased_faults hc hdone hread ?_
    rw [hpa]
    exact copyCount_fault hstale ((modCopy_xlateCtx ..).trans he)
  case refine_4 =>
    have hagain : (s.sourceFree id).copyCount c c.srcctr c.srcVa = .ok ((s.sourceFree id).counted (some x.pa)) := by
      rw [hpa]
      exact copyCount_again hstale ((modCopy_xlateCtx ..).trans hx)
    obtain ⟨v, hv, -, hstore⟩ := exec_sourceReleased_counts hc hdone hread hagain
    exact ⟨v, hv, hstore⟩
  case refine_5 =>
    obtain ⟨v, hv, hgone, hstore⟩ := exec_published hc hpublished hlanded hranges hcurrent
    exact ⟨v, hv, hgone, fun hpa => by rw [hstore, hpa]; rfl, fun pa hpa => by rw [hstore, hpa]; rfl⟩
  case refine_6 =>
    obtain ⟨u, hu, hgroup⟩ := exec_batchComplete hg hsplits
    exact ⟨u, _, hu, hgroup, complete_leading 8 g.mat hlength⟩
  case refine_7 =>
    exact congrArg _ ((tupServe_free hr hanswer hkind hparked hfree).trans
      ((serveNow_deposit s id hparked hanswer hkind).trans (serveDeposit_full s id htakes hroom)))
  case refine_8 =>
    refine ⟨_, rfl, ?_⟩
    rw [tupServe_free hr hanswer hkind hparked hfree, serveNow_deposit s id hparked hanswer hkind]
    exact serveDeposit_stores s id htakes hcopies hroom
  case refine_9 =>
    exact congrArg _ ((tupServe_free hr hanswer hkind hparked hfree).trans
      ((serveNow_copy s id hparked hanswer hkind).trans (serveMatch_copies s id ht)))
  case refine_10 =>
    refine ⟨_, rfl, ?_⟩
    rw [tupServe_free hr hanswer hkind hparked hfree, serveNow_take s id hparked hanswer hkind]
    exact serveMatch_takes s id ht
  case refine_11 =>
    exact congrArg _ ((tupServe_free hr hanswer hkind hparked hfree).trans
      ((serveNow_copy s id hparked hanswer hkind).trans (serveMatch_noMatch s id hnone hnb false)))
  case refine_12 =>
    exact congrArg _ ((tupServe_free hr hanswer hkind hparked hfree).trans
      ((serveNow_take s id hparked hanswer hkind).trans (serveMatch_noMatch s id hnone hnb true)))
  case refine_13 =>
    simp only [List.mem_cons, List.not_mem_nil, or_false] at hi
    rcases hi with rfl | rfl | rfl
    all_goals exact congrArg _ (tupServe_early hr hanswer hkind hparked hwaits hearly)
  case refine_14 =>
    exact congrArg _ ((tupServe_due hr hanswer hkind hparked hwaits hdue).trans (serveNow_deposit _ id hparked hanswer hkind))
  case refine_15 =>
    simp only [List.mem_cons, List.not_mem_nil, or_false] at hi
    rcases hi with rfl | rfl
    · exact congrArg _ ((tupServe_due hr hanswer hkind hparked hwaits hdue).trans (serveNow_copy _ id hparked hanswer hkind))
    · exact congrArg _ ((tupServe_due hr hanswer hkind hparked hwaits hdue).trans (serveNow_take _ id hparked hanswer hkind))
  case refine_16 =>
    exact ⟨congrArg _ (tupServe_parked hr hparked 0), congrArg _ (tupServe_parked hr hparked 1),
      congrArg _ (tupServe_parked hr hparked 2)⟩

end Sys2Proof.Machine

/-! ## O37: BARARR, BARSYNC, BARWAIT and BARDEF (R70, R71, R74, R75, R242, R243) -/

namespace Sys2Proof.Machine

/-! ### A number that is no key of a table, and an entry put under it -/

theorem le_foldl_max {α : Type} (f : α → Nat) (l : List α) (n : Nat) : n ≤ l.foldl (fun m a => max m (f a)) n := by
  induction l generalizing n with
  | nil => exact le_rfl
  | cons a l ih => exact (le_max_left ..).trans (ih _)

namespace Tbl

variable {α : Type}

theorem lt_next_of_mem {t : Table α} {p : Nat × α} (h : p ∈ t) : p.1 < next t := by
  obtain ⟨pre, post, rfl⟩ := List.append_of_mem h
  rw [next, List.foldl_append, List.foldl_cons]
  exact (le_max_right ..).trans (le_foldl_max (fun q : Nat × α => q.1 + 1) ..)

theorem get?_of_next_le {t : Table α} {n : Nat} (h : next t ≤ n) : get? t n = none :=
  Option.eq_none_iff_forall_not_mem.mpr fun _ hx => absurd (lt_next_of_mem (mem_of_get? hx)) (Nat.not_lt.mpr h)

theorem del_of_get?_none {t : Table α} {n : Nat} (h : get? t n = none) : del t n = t := by
  induction t with
  | nil => rfl
  | cons p r ih =>
    obtain ⟨k, v⟩ := p
    by_cases hk : k = n
    · simp [get?_cons, hk] at h
    · simpa [get?_cons, del, hk] using ih (by simpa [get?_cons, hk] using h)

theorem length_ins (t : Table α) (n : Nat) (x : α) : (ins t n x).length = t.length + 1 := by
  induction t with
  | nil => rfl
  | cons p r ih =>
    obtain ⟨k, v⟩ := p
    by_cases hk : n < k
    · simp [ins, hk]
    · simp [ins, hk, ih]

/-- An entry put under a new key is one more. -/
theorem length_put_new {t : Table α} {n : Nat} (h : get? t n = none) (x : α) : (put t n x).length = t.length + 1 := by
  rw [put, del_of_get?_none h, length_ins]

end Tbl

/-- The number of a new deferred arrival is none of those on the die. -/
theorem deferred_newId (s : State) : Tbl.get? s.simt.deferred (s.newId fun x => Tbl.next x.deferred) = none :=
  Tbl.get?_of_next_le (le_foldl_max ..)

/-! ### What an issue and a launch leave as they were -/

theorem State.MovesGroups.turns {s t : State} (h : s.MovesGroups t) : t.turns = s.turns := by
  obtain ⟨_, _, _, _, _, _, _, rfl⟩ := h
  rfl

theorem State.MovesGroups.bar {s t : State} (h : s.MovesGroups t) (key : Nat) : t.bar key = s.bar key := by
  rw [State.bar, State.bar, h.bars]

theorem putSched_movesGroups (s : State) (k : Nat) (c : Option (Nat × Nat)) : s.MovesGroups (s.putSched k c) :=
  ⟨_, _, _, _, _, _, _, rfl⟩

/-- The bookkeeping of an issue moves groups and what schedulers note, and then the turn is over. -/
theorem advance_movesGroups (s : State) (gid sp : Nat) (m : Marks) (len : Nat) (fixed : Bool) (next : Option W64)
    (park : Option Park) : ∃ u, s.MovesGroups u ∧ s.advance gid sp m len fixed next park = u.pop := by
  unfold State.advance
  split
  · exact ⟨s, .refl s, rfl⟩
  split
  · exact ⟨s, .refl s, rfl⟩
  next g _ _ p _ =>
    have hpoint (u : State) (ord : Option Nat) : u.MovesGroups (match ord with
        | some k => if fixed then u.at (u.ac + 4) (.fixedLatencyWriteback gid) else u.passPoint gid sp k 0
        | none => u) := by
      split
      · split
        · exact at_movesGroups ..
        · exact passPoint_movesGroups ..
      · exact .refl u
    have hend (u : State) (ends : Bool) : u.MovesGroups (if ends then
        (if park.isNone then u.at (u.ac + 4) (.runEndMerge gid sp) else u).putSched g.place.schedNo none else u) := by
      split
      · refine State.MovesGroups.trans ?_ (putSched_movesGroups ..)
        split
        · exact at_movesGroups ..
        · exact .refl u
      · exact .refl u
    exact ⟨_, (((putGroup_movesGroups ..).trans (hpoint ..)).trans (hend ..)).trans (noteIssue_movesGroups ..), rfl⟩

/-- A flight with no access is neither counted nor tagged as a load. -/
theorem launch_movesGroups {f : Flight} (hacc : f.acc = []) (s : State) (gid : Nat) (ev : Nat → Nat → Event) :
    s.MovesGroups (s.launch gid f ev) := by
  unfold State.launch State.tagLoad
  simp only [hacc]
  split
  · exact .refl s
  · exact ⟨_, _, _, _, _, _, _, rfl⟩

theorem bar_putBar_same (s : State) (key : Nat) (b : Barrier) : (s.putBar key b).bar key = b := Tbl.getD_put_same ..

/-! ### The deferred arrival of a BARDEF (R75) -/

/-- A deferred arrival counted: its barrier put, the reply with its phase and its own flight on their way, and the copies with
DEFER taken from the group. -/
def State.countDeferred (s : State) (gid sp : Nat) (lanes : W32) (d key phase : Nat) (b : Barrier) : State :=
  ((s.putBar key b).launch gid { Flight.result sp lanes (RegWrites.gOne d (BitVec.ofNat 64 phase)) with kind := .reply }
    .variableLatencyResult).modGroup gid fun g => { g with
      deferCopies := []
      nextFlight := g.nextFlight + 1
      flights := g.flights ++ [{ Flight.arrival sp lanes key phase none with id := g.nextFlight }] }

/-- A deferred arrival counted and bound to the group's copies with DEFER that have not landed. -/
def State.deferArrival (s : State) (gid sp : Nat) (g : Group) (lanes : W32) (x : DCode) (key phase : Nat) (b : Barrier) : State :=
  let id := s.newId fun y => Tbl.next y.deferred
  let v := s.countDeferred gid sp lanes x.d key phase b
  (v.putDeferred id ⟨gid, key, x.code, phase, g.deferCopies.filter fun c => (Tbl.get? v.simt.copies c).isSome,
    ((v.group? gid).map fun k => k.nextFlight - 1).getD 0⟩).soon (.deferredArrival id)

section DeferArrival

variable (s : State) (gid sp : Nat) (g : Group) (lanes : W32) (x : DCode) (key phase : Nat) (b : Barrier)

theorem countDeferred_movesGroups (d : Nat) :
    (s.putBar key b).MovesGroups (s.countDeferred gid sp lanes d key phase b) :=
  (launch_movesGroups (f := { Flight.result sp lanes (RegWrites.gOne d (BitVec.ofNat 64 phase)) with kind := .reply }) rfl
    (s.putBar key b) gid _).trans (modGroup_movesGroups ..)

theorem deferArrival_bar : (s.deferArrival gid sp g lanes x key phase b).bar key = b :=
  ((countDeferred_movesGroups s gid sp lanes key phase b x.d).bar key).trans (bar_putBar_same ..)

theorem deferArrival_turns : (s.deferArrival gid sp g lanes x key phase b).turns = s.turns :=
  (countDeferred_movesGroups s gid sp lanes key phase b x.d).turns

theorem deferArrival_length :
    (s.deferArrival gid sp g lanes x key phase b).simt.deferred.length = s.simt.deferred.length + 1 := by
  have hkept : (s.countDeferred gid sp lanes x.d key phase b).simt.deferred = s.simt.deferred :=
    (countDeferred_movesGroups s gid sp lanes key phase b x.d).deferred
  unfold State.deferArrival
  simp only [soon_simt, State.putDeferred, modSimt_simt, hkept]
  exact Tbl.length_put_new (deferred_newId s) _

end DeferArrival

/-! ### Arrivals and waits (R70, R71, R74, R75) -/

section Arrivals

variable {s : State} {gid sp key phase : Nat} {b : Barrier} {g : Group} {p : Split} {rd : Rd}

theorem arriveAt_counted {code : Nat} (hkey : s.barrierOf g code = some key) (hb : (s.bar key).arrive gid = some (b, phase))
    (lanes : W32) (d : Option Nat) : s.arriveAt gid sp g lanes code d
      = .ok ((s.putBar key b).launch gid (Flight.arrival sp lanes key phase d) .variableLatencyResult, key, phase) := by
  simp only [State.arriveAt, hkey, hb]

theorem arriveAt_unnamed {code : Nat} (hkey : s.barrierOf g code = none) (lanes : W32) (d : Option Nat) :
    s.arriveAt gid sp g lanes code d = .error (2, 0) := by
  simp only [State.arriveAt, hkey]

theorem arriveAt_third {code : Nat} (hkey : s.barrierOf g code = some key) (hb : (s.bar key).arrive gid = none)
    (lanes : W32) (d : Option Nat) : s.arriveAt gid sp g lanes code d = .error (2, 0) := by
  simp only [State.arriveAt, hkey, hb]

variable (h : s.Issues gid sp g p rd)
include h

section Counted

variable {x : DCode} (hp : g.Passes p { Spec.of x.m 1 false [] [codeG x.d] with needS := true } rd.mask)
include hp

theorem execBararr_arrives (hkey : s.barrierOf g x.code = some key) (hb : (s.bar key).arrive gid = some (b, phase)) :
    execBararr x s = .next (((s.putBar key b).launch gid (Flight.arrival sp p.mask key phase (some x.d))
      .variableLatencyResult).advance gid sp x.m 1 false none none) := by
  unfold execBararr
  exact simtOnly_done h hp (by simp only [arriveAt_counted hkey hb])

/-- A barrier that the group may not name, or a third arrival (R70, R71). -/
theorem execBararr_faults (hbad : s.arriveAt gid sp g p.mask x.code (some x.d) = .error (2, 0)) :
    execBararr x s = .next (s.simtFault gid sp 2 0) := by
  unfold execBararr
  exact simtOnly_simtFault h hp (by simp only [hbad, Flt.plain]) (by decide)

theorem execBardef_unnamed (hkey : s.barrierOf g x.code = none) : execBardef x s = .next (s.simtFault gid sp 2 0) := by
  unfold execBardef
  exact simtOnly_simtFault h hp (by simp only [hkey, ite_self]) (by decide)

theorem execBardef_third (hkey : s.barrierOf g x.code = some key) (hb : (s.bar key).arrive gid = none) :
    execBardef x s = .next (s.simtFault gid sp 2 0) := by
  unfold execBardef
  exact simtOnly_simtFault h hp (by simp only [hkey, hb, ite_self]) (by decide)

/-- BARDEF counts its arrival at once (R75). -/
theorem execBardef_defers (hkey : s.barrierOf g x.code = some key) (hb : (s.bar key).arrive gid = some (b, phase))
    (hroom : (s.simt.deferred.filter fun e => e.2.gid == gid).length < 32) :
    execBardef x s = .next ((s.deferArrival gid sp g p.mask x key phase b).advance gid sp x.m 1 false none none) := by
  unfold execBardef
  refine simtOnly_done h hp ?_
  simp only [Nat.not_le.mpr hroom, if_false, hkey, hb]
  rfl

end Counted

theorem execBarsync_arrives {x : CodeI} (hp : g.Passes p { Spec.of x.m 1 false [] [] with needS := true } rd.mask)
    (hkey : s.barrierOf g x.code = some key) (hb : (s.bar key).arrive gid = some (b, phase)) :
    execBarsync x s = .next (((s.putBar key b).launch gid (Flight.arrival sp p.mask key phase none)
      .variableLatencyResult).advance gid sp x.m 1 false none (some (.barsync key phase))) := by
  obtain ⟨hat, rfl⟩ := h
  unfold execBarsync
  exact simtOnly_next hat hp (d := ⟨(s.putBar key b).launch gid (Flight.arrival sp p.mask key phase none)
    .variableLatencyResult, none, some (.barsync key phase), id⟩) (by rw [arriveAt_counted hkey hb])

section Barwait

variable {x : ACode} (hp : g.Passes p { Spec.of x.m x.len false x.a.uCodes [] with needS := true } rd.mask)
  (hkey : s.barrierOf g x.code = some key)
include hp hkey

theorem execBarwait_goes (hdone : (s.bar key).completed ((rd.uni x.a).toNat % 2 ^ 32) = true) :
    execBarwait x s = .next (s.advance gid sp x.m x.len false none none) := by
  unfold execBarwait
  exact simtStall_goes h hp (by simp only [hkey, hdone, if_true]) rfl

theorem execBarwait_parks (hopen : (s.bar key).completed ((rd.uni x.a).toNat % 2 ^ 32) = false) :
    execBarwait x s = .next (s.stall gid sp (.barwait key ((rd.uni x.a).toNat % 2 ^ 32) x.m x.len)) := by
  unfold execBarwait
  exact simtStall_parks h hp (by simp only [hkey, hopen, Bool.false_eq_true, if_false])

end Barwait

end Arrivals

/-- Settles O37: one lemma per instruction and answer, above. -/
theorem barrierInstructions : Obligations.BarrierInstructions := by
  unfold Obligations.BarrierInstructions
  refine fun s gid sp key phase b g p rd h => ⟨fun x hp => ⟨execBararr_arrives h hp, fun hkey => ?_, fun hkey hb => ?_,
    fun hkey hb hroom => ?_⟩, fun x => execBarsync_arrives h,
    fun x hp hkey => ⟨execBarwait_goes h hp hkey, execBarwait_parks h hp hkey⟩⟩
  case refine_1 => exact ⟨execBararr_faults h hp (arriveAt_unnamed hkey ..), execBardef_unnamed h hp hkey⟩
  case refine_2 => exact ⟨execBararr_faults h hp (arriveAt_third hkey hb ..), execBardef_third h hp hkey hb⟩
  case refine_3 =>
    refine ⟨_, execBardef_defers h hp hkey hb hroom, ?_⟩
    obtain ⟨u, hu, hadvance⟩ := advance_movesGroups (s.deferArrival gid sp g p.mask x key phase b) gid sp x.m 1 false none none
    rw [hadvance]
    exact ⟨(hu.bar key).trans (deferArrival_bar ..), (congrArg _ hu.deferred).trans (deferArrival_length ..),
      congrArg List.tail (hu.turns.trans (deferArrival_turns ..))⟩

end Sys2Proof.Machine

/-! ## O40: the count-bank instructions (R110 to R113, R260 to R264, R415) -/

namespace Sys2Proof.Machine.Tbl

/-- In the canonical form a key reads each entry that has it. -/
theorem get?_of_mem_sorted {α : Type} {t : Table α} (h : sorted t = true) {y : Nat × α} (hy : y ∈ t) :
    get? t y.1 = some y.2 := by
  induction t with
  | nil => cases hy
  | cons x r ih =>
    obtain ⟨hless, hrest⟩ := (sorted_cons ..).mp h
    rw [get?_cons]
    rcases List.mem_cons.mp hy with rfl | hmem
    · exact if_pos rfl
    · rw [if_neg (Nat.ne_of_lt (hless y hmem)), ih hrest hmem]

end Sys2Proof.Machine.Tbl

namespace Sys2Proof.Machine

/-! ### Slots listed once

A count-bank instruction meets the errors of its group's rows and slots before it acts (R415). Where the table of slots lists each
number once, and neither the group's slots nor its rows have an error, that does nothing, and each clause of the statement
holds. -/

/-- No error lies in the group's rows and slots, and the table of slots is in its canonical form. -/
structure State.CleanBanks (s : State) (gid : Nat) (g : Group) : Prop where
  rows : g.accErrs = []
  slots : ∀ y ∈ s.simt.slots, y.2.owner = gid → y.2.errs = []
  listed : Tbl.sorted s.simt.slots = true

theorem meetSlot_of_no_errors {s : State} {k : Nat} {v : LiveSlot} (hv : s.slot? k = some v) (herrs : v.errs = []) :
    s.meetSlot k = s := by
  unfold State.slot? at hv
  simp only [State.meetSlot, hv, herrs, if_true]

/-- A window word gives columns that lie within the rows (R260). -/
theorem windowOf_columns {x : Nat} {drain : Bool} {w : Window} (hw : windowOf x drain = some w) : w.col + w.n ≤ 128 := by
  simp only [windowOf] at hw
  split_ifs at hw with hbad
  all_goals
    obtain rfl := Option.some.inj hw
    obtain ⟨-, -, -, hcols⟩ : _ ∧ _ ∧ _ ∧ _ := by simpa only [not_or] using hbad
    exact Nat.not_lt.mp hcols

section CountBank

variable {s : State} {gid sp : Nat} {g : Group} {p : Split} {rd : Rd}

theorem meetBanks_of_clean (hg : s.group? gid = some g) (hclean : s.CleanBanks gid g) : s.meetBanks gid = s := by
  have hmet : (s.simt.slots.filter fun y => y.2.owner == gid).foldl (fun t y => t.meetSlot y.1) s = s := by
    refine List.foldlRecOn (motive := fun t => t = s) _ _ rfl fun t ht y hy => ?_
    obtain ⟨hmem, howner⟩ := List.mem_filter.mp hy
    rw [ht, meetSlot_of_no_errors (Tbl.get?_of_mem_sorted hclean.listed hmem) (hclean.slots y hmem (beq_iff_eq.mp howner))]
  simp only [State.meetBanks, hg, hmet]
  exact meetAcc_of_no_errors hg (by simp [errsAt, hclean.rows])

variable (h : s.Issues gid sp g p rd)
include h

section Body

variable {m : Marks} {len : Nat} {needS : Bool} {srcs : Rd → List Nat} {mode opnd : Rd → Bool}
  {body : State → Nat → Group → Rd → Except (Nat × Nat) State}
  (hp : g.Passes p { Spec.of m len (mode rd) (srcs rd) [] with needS := needS } rd.mask) (hopnd : opnd rd = false)
include hp hopnd

/-- R113: it waits for the group's accepted operations. -/
theorem countBank_parks (hbusy : s.matrixBusy gid = true) :
    countBank m len needS srcs mode opnd body s = .next (s.stall gid sp .matrix) := by
  unfold countBank
  exact simtStall_parks h hp (by simp only [hopnd, hbusy, Bool.false_eq_true, if_false, if_true])

variable (hbusy : s.matrixBusy gid = false) (hclean : s.CleanBanks gid g)
include hbusy hclean

theorem countBank_goes {u : State} (hbody : body s gid g rd = .ok u) :
    countBank m len needS srcs mode opnd body s = .next (u.advance gid sp m len false none none) := by
  have hg : s.group? gid = some g := h.1.2.1
  unfold countBank
  exact simtStall_goes h hp (by simp only [hopnd, hbusy, Bool.false_eq_true, if_false])
    (by simp only [meetBanks_of_clean hg hclean, hg, Option.getD_some, hbody])

theorem countBank_faults {c v : Nat} (hbody : body s gid g rd = .error (c, v)) (hc : c ≠ 6) :
    countBank m len needS srcs mode opnd body s = .next (s.simtFault gid sp c v) := by
  obtain ⟨hat, rfl⟩ := h
  have hg : s.group? gid = some g := hat.2.1
  unfold countBank simtStall
  rw [issuer_split hat]
  simp only [issueGuard_pass hp, hopnd, hbusy, Bool.false_eq_true, if_false, meetBanks_of_clean hg hclean, hg,
    Option.getD_some, hbody]
  exact congrArg _ ((issueSplit_error hp s gid sp false (Flt.plain (c, v))).trans (issueFlt_of_not_xlat hc ..))

end Body

variable (hbusy : s.matrixBusy gid = false) (hclean : s.CleanBanks gid g)
include hbusy hclean

section Slot

variable {x : CodeI}

theorem execCbdrain_drains (hp : g.Passes p { Spec.of x.m 1 false [rd.modeCode] [] with needS := true } rd.mask)
    (hfree : s.slotTaken gid (g.slotKey x.code) = false) (hbound : (s.slot? (g.slotKey x.code)).isSome = true) :
    execCbdrain x s
      = .next ((s.drainUnbind (g.slotKey x.code) (modeSat rd.mode)).advance gid sp x.m 1 false none none) := by
  unfold execCbdrain
  exact countBank_goes h hp rfl hbusy hclean (if_neg (by simp [hfree, Option.isSome_iff_ne_none.mp hbound]))

theorem execCbdrain_range (hp : g.Passes p { Spec.of x.m 1 false [rd.modeCode] [] with needS := true } rd.mask)
    (hnone : s.slotTaken gid (g.slotKey x.code) = true ∨ s.slot? (g.slotKey x.code) = none) :
    execCbdrain x s = .next (s.simtFault gid sp 10 0) := by
  unfold execCbdrain
  exact countBank_faults h hp rfl hbusy hclean (if_pos (by simpa using hnone)) (by decide)

theorem execCbclr_unbinds (hp : g.Passes p (Spec.of x.m 1 false [] []) rd.mask)
    (hfree : s.slotTaken gid (g.slotKey x.code) = false) :
    execCbclr x s = .next ((s.putSlot (g.slotKey x.code) none).advance gid sp x.m 1 false none none) := by
  unfold execCbclr
  exact countBank_goes h hp rfl hbusy hclean (if_neg (Bool.eq_false_iff.mp hfree))

end Slot

theorem execCbsave_saves {x : ACode} {v : LiveSlot}
    (hp : g.Passes p { Spec.of x.m x.len false x.a.uCodes [] with needS := true } rd.mask)
    (hcol : fieldOf (rd.uni x.a).toNat 16 16 = 0) (hfree : s.slotTaken gid (g.slotKey x.code) = false)
    (hv : s.slot? (g.slotKey x.code) = some v) (hrows : fieldOf (rd.uni x.a).toNat 0 16 + 4 * v.n ≤ s.accRows g) :
    execCbsave x s = .next (((s.putAcc gid (saveWrites v (fieldOf (rd.uni x.a).toNat 0 16))).putSlot (g.slotKey x.code)
      none).advance gid sp x.m x.len false none none) := by
  unfold execCbsave
  exact countBank_goes h hp rfl hbusy hclean (by simp [originBad, hcol, hfree, hv, Nat.not_lt.mpr hrows])

theorem execCbload_binds {x : SlotAC} {w : Window} {kind origin : Nat} {u : State}
    (hp : g.Passes p { Spec.of x.m x.len false (rd.modeCode :: (x.a.uCodes ++ [codeG x.c, codeG (x.c + 1)])) [] with
      needS := true } rd.mask)
    (hw : windowOf (rd.g x.c).toNat false = some w) (hcol : fieldOf (rd.uni x.a).toNat 16 16 = 0)
    (horigin : fieldOf (rd.uni x.a).toNat 0 16 = origin) (hrows : origin + 4 * w.n ≤ s.accRows g)
    (hfree : s.slotTaken gid (g.slotKey x.slot) = false) (hkind : kind = 1 ∨ kind = 2)
    (hbanks : ∀ q ∈ positions 32 w.n, (s.bankState gid origin w.n q.1 q.2).2.1 = kind
      ∧ (s.bankState gid origin w.n q.1 q.2).1 = false
      ∧ ∀ c ∈ List.range 30, (s.bankCount gid origin w.n q.1 q.2 c).natAbs ≤ 255)
    (hfirst : (s.bankState gid origin w.n 0 0).2.1 = kind) (hu : s.drainUnbind (g.slotKey x.slot) (modeSat rd.mode) = u) :
    execCbload x s = .next ((u.putSlot (g.slotKey x.slot) (some (u.loadSlot gid origin ((u.group? gid).getD g) w (kind == 2)
      (scalePair (rd.g (x.c + 1)))))).advance gid sp x.m x.len false none none) := by
  subst horigin hu hfirst
  have hkinds := fun i j hq => (hbanks (i, j) hq).1
  have hcounts := fun i j hq => (hbanks (i, j) hq).2
  unfold execCbload
  refine countBank_goes h hp (by simp only [hw, Option.isNone_some]) hbusy hclean ?_
  simp only [hw]
  refine (if_neg ?_).trans ((if_neg ?_).trans ((if_neg ?_).trans (if_neg ?_)))
  · simp [originBad, hcol]
  · simp [hfree, hrows]
  · simpa [← or_iff_not_imp_left, hkind] using hkinds
  · simpa using hcounts

theorem execCbmerge_merges {x : OpAC} {a c : Nat}
    (hp : g.Passes p { Spec.of x.m x.len false (x.a.uCodes ++ x.c.uCodes) [] with needS := true } rd.mask)
    (ha : a = (rd.uni x.a).toNat) (hc : c = (rd.uni x.c).toNat) (hsome : 1 ≤ fieldOf c 32 16) (hmost : fieldOf c 32 16 ≤ 256)
    (hrest : fieldOf c 48 16 = 0) (hdst : fieldOf a 16 16 = 0) (hsrc : fieldOf c 16 16 = 0)
    (hdstRows : fieldOf a 0 16 + fieldOf c 32 16 ≤ s.accRows g) (hsrcRows : fieldOf c 0 16 + fieldOf c 32 16 ≤ s.accRows g)
    (hkinds : ∀ q ∈ positions (fieldOf c 32 16) 8, ((s.bankState gid (fieldOf a 0 16) 8 q.1 q.2).2.1 = 1
        ∨ (s.bankState gid (fieldOf a 0 16) 8 q.1 q.2).2.1 = 2)
      ∧ (s.bankState gid (fieldOf c 0 16) 8 q.1 q.2).2.1 = (s.bankState gid (fieldOf a 0 16) 8 q.1 q.2).2.1) :
    execCbmerge x s = .next ((s.putAcc gid (s.mergeWrites gid g (fieldOf a 0 16) (fieldOf c 0 16)
      (fieldOf c 32 16))).advance gid sp x.m x.len false none none) := by
  subst ha hc
  unfold execCbmerge
  refine countBank_goes h hp ?_ hbusy hclean ((if_neg ?_).trans ((if_neg ?_).trans (if_neg ?_)))
  · simp [Nat.ne_of_gt hsome, hmost, hrest]
  · simp [originBad, hdst, hsrc]
  · omega
  · simpa [← or_iff_not_imp_left] using fun i j hq => hkinds (i, j) hq

theorem execCbdrainw_drains {x : OpReg} {w : Window} {a : Nat}
    (hp : g.Passes p { Spec.of x.m x.len (matModeBad rd) (rd.modeCode :: (x.a.uCodes ++ [codeG x.c, codeG (x.c + 1)])) [] with
      needS := true } rd.mask)
    (ha : a = (rd.uni x.a).toNat) (hw : windowOf (rd.g x.c).toNat true = some w) (hfmt : drainwFmtBad rd.mode = false)
    (hcol : fieldOf a 16 16 = 0) (hbanks : fieldOf a 0 16 + ceilDiv (w.m * w.n) 8 ≤ s.accRows g)
    (hrows : w.row + w.m ≤ s.accRows g)
    (hkinds : ∀ q ∈ positions w.m w.n, (s.bankState gid (fieldOf a 0 16) w.n q.1 q.2).2.1
      = if modeFa rd.mode == 13 then 2 else 1) {r : List (Nat × W32 × Nat) × Bool}
    (hr : r = s.drainWide gid g (fieldOf a 0 16) w (modeFa rd.mode == 13) (modeSat rd.mode)
      (if modeScm rd.mode = 2 then scalePair (rd.g (x.c + 1)) else (0x3F800000, 0x3F800000))) :
    execCbdrainw x s
      = .next (((s.putAcc gid r.1).accOverflow gid r.2).advance gid sp x.m x.len false none none) := by
  subst ha hr
  have hcols := windowOf_columns hw
  unfold execCbdrainw
  refine countBank_goes h hp (by simp only [hw, Option.isNone_some]) hbusy hclean ?_
  simp only [hw]
  refine (if_neg ?_).trans ((if_neg ?_).trans ((if_neg ?_).trans (if_neg ?_)))
  · simp [hfmt]
  · simp [originBad, hcol]
  · omega
  · simpa using fun i j hq => hkinds (i, j) hq

end CountBank

/-! ### A slot listed twice

The statement asks that no entry of the group's have an error, but not that the table lists each number once. A number reads its
first entry: a second entry, of the group, has the instruction meet the errors of another group's. -/

/-- A slot of a group, unused, with errors of its banks. -/
def idleSlot (owner : Nat) (errs : Table Nat) : LiveSlot := ⟨owner, 0, 0, 8, false, 0, 0, 0, 0#32, [], [], errs⟩

/-- The reset state with group 0 to issue, and slot 1 listed as group 1's, with an error, then as group 0's, without one. -/
def slotListedTwice : State :=
  let s := State.reset.putGroup 0 (Group.start placeOf 0#64)
  { s.modSimt fun x => { x with slots := [(1, idleSlot 1 [(0, 1)]), (1, idleSlot 0 [])] } with turns := [.split 0 0] }

/-- CBCLR of slot 0. -/
def clearSlotZero : CodeI := ⟨⟨false, false, false⟩, 0⟩

/-- The errors of slot 1 in the state that a step gives. -/
def slotOneErrs (o : Out) : Option (Table Nat) :=
  match o with
  | .next u => (u.slot? 1).map LiveSlot.errs
  | _ => none

/-- Refutes O40: CBCLR of group 0's slot 0 takes away the error of group 1's slot 1, which the table lists a second time, as
group 0's; the statement leaves the error there. -/
theorem not_countBankInstructions : ¬ Obligations.CountBankInstructions := by
  unfold Obligations.CountBankInstructions
  intro hall
  have hissues : slotListedTwice.Issues 0 0 (Group.start placeOf 0#64) (Split.start 0#64)
      (slotListedTwice.rdSplit (Group.start placeOf 0#64) 0 (Split.start 0#64)) := ⟨⟨rfl, rfl, rfl⟩, rfl⟩
  obtain ⟨-, hcbclr, -⟩ := hall slotListedTwice 0 0 _ _ _ hissues rfl (by decide)
  have hpasses : (Group.start placeOf 0#64).Passes (Split.start 0#64) (Spec.of clearSlotZero.m 1 false [] [])
      (slotListedTwice.rdSplit (Group.start placeOf 0#64) 0 (Split.start 0#64)).mask := by
    unfold Group.Passes
    decide
  have hclears := hcbclr clearSlotZero hpasses rfl rfl
  have hmodel : slotOneErrs (exec (.cbclr clearSlotZero) slotListedTwice) = some [] := by decide +kernel
  rw [hclears] at hmodel
  exact absurd hmodel (by decide +kernel)

end Sys2Proof.Machine

/-! ## O42: TDEP, TCOPY, TTAKE and TCANCEL (R121, R122, R124, R128 to R131, R266) -/

namespace Sys2Proof.Machine

/-! ### A field of a pattern (R121, Table 1) -/

theorem fieldMatches_eq_iff (x lo hi : W64) : fieldMatches 1 x lo hi = true ↔ x = lo := beq_iff_eq

theorem fieldMatches_mask_iff (x lo hi : W64) :
    fieldMatches 2 x lo hi = true ↔ ∀ k, hi.getLsbD k = true → x.getLsbD k = lo.getLsbD k := by
  have hbit (k : Nat) : ((x ^^^ lo) &&& hi).getLsbD k = (0#64).getLsbD k
      ↔ (hi.getLsbD k = true → x.getLsbD k = lo.getLsbD k) := by
    rw [BitVec.getLsbD_and, BitVec.getLsbD_xor, BitVec.getLsbD_zero]
    cases hi.getLsbD k with
    | false => simp
    | true => simp
  calc fieldMatches 2 x lo hi = true
    _ ↔ (x ^^^ lo) &&& hi = 0#64 := beq_iff_eq
    _ ↔ ∀ k, ((x ^^^ lo) &&& hi).getLsbD k = (0#64).getLsbD k :=
        ⟨fun h _ => h ▸ rfl, fun h => BitVec.eq_of_getLsbD_eq fun k _ => h k⟩
    _ ↔ ∀ k, hi.getLsbD k = true → x.getLsbD k = lo.getLsbD k := forall_congr' hbit

theorem fieldMatches_range_iff {m : Nat} (hm : 3 ≤ m) (x lo hi : W64) :
    fieldMatches m x lo hi = true ↔ lo ≤ x ∧ x ≤ hi := by
  obtain ⟨n, rfl⟩ := Nat.exists_eq_add_of_le' hm
  simp [fieldMatches, BitVec.le_def]

/-! ### The request of a TDEP, TCOPY or TTAKE (R120, R266) -/

/-- A request that its checks let pass is of its instruction's kind, and blocks as its control word says. -/
theorem tupRequest_ok {kind : Nat} {x : TupI} {rd : Rd} {region : Except (Nat × Nat) Region} {who : Asker} {s : State}
    {r : TupReq} (h : tupRequest kind x rd region who s = .ok r) : r.kind = kind ∧ r.nb = x.ctl.nb := by
  unfold tupRequest at h
  split at h
  · cases h
  · dsimp only at h
    generalize (if kind = 0 then [] else List.take _ _) = modes at h
    split at h
    · cases h
    split at h
    · cases h
    · cases h
      exact ⟨rfl, rfl⟩

/-! ### On a group: the request is sent, and a blocking one parks its split (R124) -/

section Split

variable {s : State} {gid sp : Nat} {g : Group} {p : Split} {rd : Rd} (h : s.Issues gid sp g p rd)
include h

theorem tupIssue_split {kind : Nat} {x : TupI} {r : TupReq}
    (hp : g.Passes p (tupSpec kind x.m x.d x.ctl.st (tupSrcs x)) p.mask)
    (hr : tupRequest kind x rd (s.regionSimt g.place.ctx (rd.g x.c).toNat (kind != 1)) (.split gid sp) s = .ok r) :
    tupIssue kind x s = .next (if kind ≠ 0 ∧ x.ctl.nb = false
      then (s.sendTuple gid sp g p r).stall gid sp (.tuple s.nextReq x.m)
      else (s.sendTuple gid sp g p r).advance gid sp x.m 2 false none none) := by
  obtain ⟨hat, rfl⟩ := h
  unfold tupIssue
  rw [issuer_split hat]
  simp only [issueGuard_pass hp, hr, (tupRequest_ok hr).2]

theorem execTcancel_split {x : TcanI} {r : TupReq} (hp : g.Passes p (tupSpec 3 x.m x.d x.ctl.st [codeG x.c]) p.mask)
    (hr : cancelRequest x (s.regionSimt g.place.ctx (rd.g x.c).toNat false) (.split gid sp) s = .ok r) :
    execTcancel x s = .next ((s.sendTuple gid sp g p r).advance gid sp x.m 2 false none none) := by
  obtain ⟨hat, rfl⟩ := h
  unfold execTcancel
  rw [issuer_split hat]
  simp only [issueGuard_pass hp, hr]

theorem tupIssue_split_goes_or_parks {kind : Nat} {x : TupI} {r : TupReq}
    (hp : g.Passes p (tupSpec kind x.m x.d x.ctl.st (tupSrcs x)) p.mask)
    (hr : tupRequest kind x rd (s.regionSimt g.place.ctx (rd.g x.c).toNat (kind != 1)) (.split gid sp) s = .ok r) :
    ((kind = 0 ∨ x.ctl.nb = true) →
      tupIssue kind x s = .next ((s.sendTuple gid sp g p r).advance gid sp x.m 2 false none none))
    ∧ (kind ≠ 0 → x.ctl.nb = false →
      tupIssue kind x s = .next ((s.sendTuple gid sp g p r).stall gid sp (.tuple s.nextReq x.m))) := by
  rw [tupIssue_split h hp hr]
  refine ⟨fun hgoes => ?_, fun hkind hnb => ?_⟩
  · rw [if_neg (by rcases hgoes with hkind | hnb <;> simp [*])]
  · rw [if_pos ⟨hkind, hnb⟩]

end Split

/-! ### On a control thread: it stalls until the reply (R130) -/

section Thread

variable {s : State} {tid : Nat} {t : Thread} {r : TupReq}

theorem thread_sendTupleThread (s : State) (tid : Nat) (r : TupReq) :
    (s.sendTupleThread tid r).thread tid = { s.thread tid with tupleWait := some s.nextReq } :=
  thread_modThread_same s tid fun t => { t with tupleWait := some s.nextReq }

/-- The reply of a request that goes to a slice is due within what R131 gives where no slice lies on the requester's die. -/
theorem reqs_sendTupleThread (hkind : r.kind ≠ 3) (s : State) (tid : Nat) :
    Tbl.get? (s.sendTupleThread tid r).store.reqs s.nextReq = some { r with due := s.ac + 120 } := by
  unfold State.sendTupleThread
  simp only [hkind, false_and, if_false]
  exact Tbl.get?_put_same ..

theorem tupThread_ok {spec : Spec} (hp : t.Passes spec) (s : State) (tid : Nat) (r : TupReq) :
    tupThread s tid t spec (.ok r) = ((s.sendTupleThread tid r).modThread tid fun u => { u with pc := t.pc }).pop :=
  issueThread_ok hp ..

theorem tupIssue_thread (h : s.AtThread tid t) {kind : Nat} {x : TupI} (hkind : kind ≠ 3)
    (hp : t.Passes (tupSpec kind x.m x.d x.ctl.st (tupSrcs x)))
    (hr : tupRequest kind x (t.rd tid) (s.regionThread tid ((t.rd tid).g x.c).toNat (kind != 1)) (.thread tid) s = .ok r) :
    ∃ u : State, tupIssue kind x s = .next u ∧ (u.thread tid).tupleWait = some s.nextReq ∧ (u.thread tid).pc = t.pc
      ∧ Tbl.get? u.store.reqs s.nextReq = some { r with due := s.ac + 120 } := by
  refine ⟨((s.sendTupleThread tid r).modThread tid fun u => { u with pc := t.pc }).pop, ?_, ?_, ?_, ?_⟩
  · unfold tupIssue
    rw [issuer_thread h]
    simp only [hr, tupThread_ok hp]
  · rw [thread_pop, thread_modThread_same, thread_sendTupleThread]
  · rw [thread_pop, thread_modThread_same]
  · exact reqs_sendTupleThread ((tupRequest_ok hr).1 ▸ hkind) s tid

end Thread

/-- Settles O42: TDEP, TCOPY and TTAKE are one way of issuing, of the kinds 0, 1 and 2, on a group and on a control thread. -/
theorem tupleInstructions : Obligations.TupleInstructions := by
  unfold Obligations.TupleInstructions
  refine ⟨fun s gid sp g p rd h => ⟨fun row hrow x r hp hr => ?_, fun x r hp hr => execTcancel_split h hp hr⟩,
    fun s tid t h row hrow x r hp hr => ?_,
    fun m x lo hi => ⟨rfl, fieldMatches_eq_iff x lo hi, fieldMatches_mask_iff x lo hi, fun hm => fieldMatches_range_iff hm x lo hi⟩⟩
  case refine_1 =>
    simp only [List.mem_cons, List.not_mem_nil, or_false] at hrow
    rcases hrow with rfl | rfl | rfl <;> exact tupIssue_split_goes_or_parks h hp hr
  case refine_2 =>
    simp only [List.mem_cons, List.not_mem_nil, or_false] at hrow
    rcases hrow with rfl | rfl | rfl <;> exact tupIssue_thread h (by decide) hp hr

end Sys2Proof.Machine

/-! ## O8: conversions, blocks of codes, CMPR24 and SRSEED (R145, R213 to R220) -/

namespace Sys2Proof.Machine

theorem Tbl.getD_foldl_put {α : Type} (keys : List Nat) (f : Nat → α) (t : Table α) (n : Nat) (d : α) :
    Tbl.getD (keys.foldl (fun t k => Tbl.put t k (f k)) t) n d = if n ∈ keys then f n else Tbl.getD t n d := by
  induction keys generalizing t with
  | nil => simp
  | cons k r ih =>
    rw [List.foldl_cons, ih]
    by_cases hr : n ∈ r
    · simp [hr]
    · by_cases hk : n = k
      · simp [hk]
      · simp [hr, hk, Tbl.getD_put_other]

/-- Seeding sets the states of the lanes named, whatever they were, and those of no other lane (R220). -/
theorem srOf_seed (r : Regs) (lanes : List Nat) (f : Nat → W32) (l : Nat) :
    (r.seed lanes f).srOf l = if l ∈ lanes then f l else r.srOf l := Tbl.getD_foldl_put ..

@[simp] theorem seed_v (r : Regs) (lanes : List Nat) (f : Nat → W32) : (r.seed lanes f).v = r.v := rfl

section

variable {s : State} {gid sp : Nat} {g : Group} {p : Split} {rd : Rd}

/-- What CVTW refuses at execution (R217), no active lane asks for. -/
theorem cvtw_accepts {x : Op3}
    (hlanes : ∀ l ∈ rd.lanes, (cvtwForm (rd.vec false x.c l).toNat).isSome = true ∧ x.d + cvtwCount rd x l ≤ rd.vregs) :
    (rd.lanes.any fun l => (cvtwForm (rd.vec false x.c l).toNat).isNone || decide (rd.vregs < x.d + cvtwCount rd x l))
      = false := by
  refine List.any_eq_false.mpr fun l hl => ?_
  obtain ⟨hform, hroom⟩ := hlanes l hl
  simp [Option.isNone_eq_false_iff.mpr hform, hroom]

theorem execCvtw_next {x : Op3} (h : s.Issues gid sp g p rd)
    (hp : g.Passes p ((Spec.of x.m x.len (modeEty rd.mode != 8 || rndBad rd || rd.vBad false x.d
      || decide (rd.vregs < x.d + cvtwRoom x) || rd.vecBad false x.a || rd.vecBad false x.c)
      (x.a.vCodes false ++ x.c.vCodes false) (cvtwDsts rd x)).guardedSr rd) rd.active)
    (hlanes : ∀ l ∈ rd.lanes, (cvtwForm (rd.vec false x.c l).toNat).isSome = true ∧ x.d + cvtwCount rd x l ≤ rd.vregs) :
    execCvtw x s = .next (s.convDone gid sp rd x.m x.len false (cvtwCount rd x) { RegWrites.none with
      v := rd.lanes.flatMap fun l => (List.range (cvtwCount rd x l)).map fun k =>
        (32 * (x.d + k) + l, BitVec.ofNat 32 (cvtwOut rd x (g.regs.draws rd (cvtwCount rd x l) l) l k).code)
      flags := rd.lanes.foldl (fun fl l => (List.range (cvtwCount rd x l)).foldl
        (fun fl k => fl ||| (cvtwOut rd x (g.regs.draws rd (cvtwCount rd x l) l) l k).flags) fl) 0#5 }) := by
  obtain ⟨hat, rfl⟩ := h
  exact vecConv_next hat hp (if_neg (Bool.eq_false_iff.mp (cvtw_accepts hlanes)))

theorem execSrseed_next {x : Op1} (h : s.Issues gid sp g p rd)
    (hp : g.Passes p ((Spec.of x.m x.len (rd.vecBad false x.a) (x.a.vCodes false) []).guarded rd) rd.active) :
    execSrseed x s = .next ((s.modGroup gid fun g => { g with
      regs := g.regs.seed rd.lanes fun l => srSeed ((rd.vec false x.a l).setWidth 32) }).advance gid sp x.m x.len true none none) := by
  obtain ⟨hat, rfl⟩ := h
  unfold execSrseed
  rw [issuer_split hat]
  exact congrArg _ (issueSplit_ok hp ..)

end

/-- Settles O8: the conversions are the issue that takes draws, PACK6, UNPK6 and CMPR24 that of a row with a result, and SRSEED
puts its states before the bookkeeping of its issue. -/
theorem conversionRows : Obligations.ConversionRows := by
  unfold Obligations.ConversionRows
  refine fun s gid sp g p rd h => ⟨fun x hp => ?cvt, fun x hp => ?cvtpk, fun x hp => execCvtw_next h hp,
    fun x hp => ⟨?mxsc, ?cvtn8⟩, fun x hp => ?cvtn4, fun x hp => ?pack6, fun x hp => ?unpk6, fun x hp => ?cmpr24,
    fun x hp => ⟨execSrseed_next h hp, seed_v .., fun l => srOf_seed ..⟩⟩
  all_goals obtain ⟨hat, rfl⟩ := h
  case cvt => exact (vecConv_next hat hp rfl : execCvt x s = _)
  case cvtpk => exact (vecConv_next hat hp rfl : execCvtpk x s = _)
  case mxsc => exact mxIssue_next x.m x.len x.d x.code x.a (fun b _ => b.1) hat hp
  case cvtn8 => exact mxIssue_next x.m x.len x.d x.code x.a (fun b l => packCodes b.2 8 (4 * (l % 8)) 4) hat hp
  case cvtn4 => exact mxIssue_next x.m x.len x.d 8 x.a (fun b l => packCodes b.2 4 (8 * (l % 4)) 8) hat hp
  case pack6 => exact vecRange_next x.m x.d 3 x.a 4 pack6 hat hp
  case unpk6 => exact vecRange_next x.m x.d 4 x.a 3 unpk6 hat hp
  case cmpr24 => exact (vecAlu_next hat hp rfl : execCmpr24 x s = _)

end Sys2Proof.Machine

/-! ## O14: PACK6 and UNPK6 (R138, R218) -/

namespace Sys2Proof.Machine

/-! ### Fields of one number -/

theorem fieldOf_lt (x lo k : Nat) : fieldOf x lo k < 2 ^ k := Nat.mod_lt _ (Nat.two_pow_pos k)

/-- The low bits of a field are the narrower field at the same place. -/
theorem fieldOf_mod (x lo : Nat) {j k : Nat} (h : j ≤ k) : fieldOf x lo k % 2 ^ j = fieldOf x lo j :=
  Nat.mod_mod_of_dvd _ (Nat.pow_dvd_pow 2 h)

/-- `n` codes in one number, each `k` bits above the one before. -/
def codeRow (k : Nat) (f : Nat → Nat) (n : Nat) : Nat := (List.range n).foldl (fun t i => t + f i * 2 ^ (k * i)) 0

theorem pack6_eq (x : Nat) : pack6 x = codeRow 6 (fun i => fieldOf x (8 * i) 6) 16 := rfl
theorem unpk6_eq (x : Nat) : unpk6 x = codeRow 8 (fun i => fieldOf x (6 * i) 6) 16 := rfl

section

variable {k : Nat} {f g : Nat → Nat} {n : Nat}

theorem codeRow_succ : codeRow k f (n + 1) = codeRow k f n + f n * 2 ^ (k * n) := by
  simp [codeRow, List.range_succ]

theorem codeRow_congr (h : ∀ i < n, f i = g i) : codeRow k f n = codeRow k g n :=
  List.foldl_ext _ _ _ fun t i hi => by rw [h i (List.mem_range.mp hi)]

/-- A row of the fields of a number is the number's low bits. -/
theorem codeRow_fieldOf (k x n : Nat) : codeRow k (fun i => fieldOf x (k * i) k) n = x % 2 ^ (k * n) := by
  induction n with
  | zero => simp [codeRow, Nat.mod_one]
  | succ n ih => rw [codeRow_succ, ih, Nat.mul_succ, Nat.pow_add, Nat.mod_mul, Nat.mul_comm (fieldOf ..)]; rfl

variable (hf : ∀ i, f i < 2 ^ k)
include hf

theorem codeRow_lt (n : Nat) : codeRow k f n < 2 ^ (k * n) := by
  induction n with
  | zero => simp [codeRow]
  | succ n ih =>
    calc codeRow k f (n + 1) = codeRow k f n + f n * 2 ^ (k * n) := codeRow_succ
      _ < 2 ^ (k * n) + f n * 2 ^ (k * n) := Nat.add_lt_add_right ih _
      _ = (f n + 1) * 2 ^ (k * n) := by ring
      _ ≤ 2 ^ k * 2 ^ (k * n) := Nat.mul_le_mul_right _ (hf n)
      _ = 2 ^ (k * (n + 1)) := by ring

/-- Each code is read back where it stands: those above it are multiples of what the field spans, those below are less. -/
theorem fieldOf_codeRow {i : Nat} (hi : i < n) : fieldOf (codeRow k f n) (k * i) k = f i := by
  induction n with
  | zero => exact absurd hi (Nat.not_lt_zero i)
  | succ n ih =>
    rw [codeRow_succ]
    rcases Nat.lt_succ_iff_lt_or_eq.mp hi with hlt | rfl
    · obtain ⟨m, rfl⟩ := Nat.exists_eq_add_of_lt hlt
      have habove : f (i + m + 1) * 2 ^ (k * (i + m + 1)) = 2 ^ (k * i) * (2 ^ k * (f (i + m + 1) * 2 ^ (k * m))) := by ring
      rw [habove, fieldOf, Nat.add_mul_div_left _ _ (Nat.two_pow_pos _), Nat.add_mul_mod_self_left]
      exact ih hlt
    · rw [fieldOf, Nat.add_mul_div_right _ _ (Nat.two_pow_pos _), Nat.div_eq_of_lt (codeRow_lt hf i), Nat.zero_add,
        Nat.mod_eq_of_lt (hf i)]

end

/-! ### The two instructions' functions -/

section

variable (x : Nat)

theorem code_lt_byte (lo : Nat) : fieldOf x lo 6 < 2 ^ 8 := (fieldOf_lt x lo 6).trans (by decide)

theorem pack6_lt : pack6 x < 2 ^ 96 := pack6_eq x ▸ codeRow_lt (fun i => fieldOf_lt x (8 * i) 6) 16
theorem unpk6_lt : unpk6 x < 2 ^ 128 := unpk6_eq x ▸ codeRow_lt (fun i => code_lt_byte x (6 * i)) 16

theorem fieldOf_pack6 {i : Nat} (hi : i < 16) : fieldOf (pack6 x) (6 * i) 6 = fieldOf x (8 * i) 6 :=
  pack6_eq x ▸ fieldOf_codeRow (fun i => fieldOf_lt x (8 * i) 6) hi

theorem fieldOf_unpk6 {i : Nat} (hi : i < 16) : fieldOf (unpk6 x) (8 * i) 8 = fieldOf x (6 * i) 6 :=
  unpk6_eq x ▸ fieldOf_codeRow (fun i => code_lt_byte x (6 * i)) hi

/-- Bits [5:0] of a byte of UNPK6 are the code, which is the whole of the byte. -/
theorem fieldOf_unpk6_code {i : Nat} (hi : i < 16) : fieldOf (unpk6 x) (8 * i) 6 = fieldOf x (6 * i) 6 := by
  rw [← fieldOf_mod _ _ (by decide : 6 ≤ 8), fieldOf_unpk6 x hi, Nat.mod_eq_of_lt (fieldOf_lt ..)]

theorem pack6_unpk6 : pack6 (unpk6 x) = x % 2 ^ 96 :=
  calc pack6 (unpk6 x) = codeRow 6 (fun i => fieldOf x (6 * i) 6) 16 := codeRow_congr fun _ hi => fieldOf_unpk6_code x hi
    _ = x % 2 ^ 96 := codeRow_fieldOf 6 x 16

end

/-- Settles O14: both functions are rows of codes, and a row's fields are its codes. -/
theorem packedCodesRoundTrip : Obligations.PackedCodesRoundTrip := by
  unfold Obligations.PackedCodesRoundTrip
  exact ⟨fun x i hi => ⟨fieldOf_pack6 x hi, fieldOf_unpk6 x hi⟩, fun x => ⟨pack6_lt x, unpk6_lt x⟩, pack6_unpk6,
    fun x i hi => (fieldOf_unpk6 _ hi).trans (fieldOf_pack6 x hi)⟩

end Sys2Proof.Machine

/-! ## O2 and O1: words that decode are the words of one well-formed instruction (R148 to R152, R166) -/

namespace Sys2Proof

/-! ### What a field that is read says of its code -/

@[simp] theorem vSrc_eq_some {f : Fld} {o : Opnd} : f.vSrc = some o ↔ o.vOk = true ∧ f = o.toV := by
  constructor
  · intro h
    unfold Fld.vSrc at h
    split at h
    · cases h; exact ⟨rfl, rfl⟩
    · cases h; exact ⟨rfl, rfl⟩
    · split at h
      · cases h; simpa [Opnd.vOk, Opnd.toV]
      · split at h
        · cases h; simp [Opnd.vOk, Opnd.toV]; omega
        · split at h <;> cases h <;> exact ⟨rfl, rfl⟩
  · rintro ⟨ho, rfl⟩
    exact o.toV_vSrc ho

@[simp] theorem uSrc_eq_some {f : Fld} {o : Opnd} : f.uSrc = some o ↔ o.uOk = true ∧ f = o.toU := by
  constructor
  · intro h
    unfold Fld.uSrc at h
    split at h
    · cases h; exact ⟨rfl, rfl⟩
    · cases h; exact ⟨rfl, rfl⟩
    · split at h
      · cases h; simpa [Opnd.uOk, Opnd.toU]
      · split at h
        · cases h; simp [Opnd.uOk, Opnd.toU]; omega
        · split at h <;> cases h <;> exact ⟨rfl, rfl⟩
  · rintro ⟨ho, rfl⟩
    exact o.toU_uSrc ho

@[simp] theorem only_eq_some {p : Opnd → Bool} {f : Option Opnd} {o : Opnd} : Opnd.only p f = some o ↔ f = some o ∧ p o = true := by
  unfold Opnd.only
  split
  next x => by_cases hp : p x = true <;> simp [hp] <;> grind
  next => simp

@[simp] theorem codeIf_eq_some {p : Nat → Bool} {f : Fld} {n : Nat} : f.codeIf p = some n ↔ p n = true ∧ f = .code n := by
  cases f <;> simp [Fld.codeIf]; grind

@[simp] theorem reg_eq_some {b : Nat} {f : Fld} {n : Nat} : f.reg b = some n ↔ n < b ∧ f = .code n := by
  cases f <;> simp [Fld.reg]; grind

@[simp] theorem vg_eq_some {f : Fld} {n : Nat} : f.vg = some n ↔ n < 16 ∧ f = .code (96 + n) := by
  cases f <;> simp [Fld.vg]; omega

@[simp] theorem unused_eq_some {f : Fld} {x : Unit} : f.unused = some x ↔ f = .code 112 := by
  unfold Fld.unused
  split <;> simp_all

@[simp] theorem off_eq_some {f : Fld} {x : W32} : f.off = some x ↔ f = .lit32 x := by
  cases f <;> simp [Fld.off]

@[simp] theorem dReg_eq_some {b d n : Nat} : dReg b d = some n ↔ n < b ∧ d = n := by
  unfold dReg
  grind

@[simp] theorem dUnused_eq_some {d : Nat} {x : Unit} : dUnused d = some x ↔ d = 112 := by
  simp [dUnused]

/-- An access code is its scope and size, with bit 3 zero (R228). -/
theorem access_of_code (n : Nat) (h : n / 8 % 2 = 0) : n = Access.enc ⟨n / 16, n % 8⟩ := by
  simp only [Access.enc]; omega

@[simp] theorem accLoad_eq_some {sc : Bool} {f : Fld} {x : Access} : f.accLoad sc = some x ↔ x.okLoad sc = true ∧ f = .code x.enc := by
  constructor
  · intro h
    cases f with
    | code n =>
      simp only [Fld.accLoad, Option.ite_none_right_eq_some, Option.some.injEq] at h
      obtain ⟨⟨hbit, hok⟩, rfl⟩ := h
      exact ⟨hok, congrArg _ (access_of_code n hbit)⟩
    | lit32 => cases h
    | lit64 => cases h
  · rintro ⟨hok, rfl⟩
    exact accLoad_enc hok

@[simp] theorem dAccStore_eq_some {sc : Bool} {d : Nat} {x : Access} : dAccStore sc d = some x ↔ x.okStore sc = true ∧ d = x.enc := by
  constructor
  · intro h
    simp only [dAccStore, Option.ite_none_right_eq_some, Option.some.injEq] at h
    obtain ⟨⟨hbit, hok⟩, rfl⟩ := h
    exact ⟨hok, access_of_code d hbit⟩
  · rintro ⟨hok, rfl⟩
    exact dAccStore_enc hok

/-! ### What a control word that is read says of its bits -/

theorem b01_bitOf (n k : Nat) : b01 (bitOf n k) = n / 2 ^ k % 2 := by
  rcases Nat.mod_two_eq_zero_or_one (n / 2 ^ k) with h | h <;> simp [bitOf, b01, h]

/-- A control word below `2 ^ k` is the number that its fields make. -/
theorem word_of_fields {w : W32} {n : Nat} (h : w.toNat = n) : w = BitVec.ofNat 32 n := by
  rw [← h, BitVec.ofNat_toNat, BitVec.setWidth_eq]

theorem AtomCtl.dec_eq_some {p : AtomCtl → Bool} {w : Option W32} {x : AtomCtl} (h : AtomCtl.dec p w = some x) :
    p x = true ∧ w = some x.enc := by
  cases w with
  | none => cases h
  | some w =>
    simp only [AtomCtl.dec, Option.ite_none_right_eq_some, Option.some.injEq] at h
    obtain ⟨⟨hw, hp⟩, rfl⟩ := h
    exact ⟨hp, congrArg some (word_of_fields (by simp only [fieldOf]; omega))⟩

theorem CpyCtl.dec_eq_some {w : Option W32} {x : CpyCtl} (h : CpyCtl.dec w = some x) : x.ok = true ∧ w = some x.enc := by
  cases w with
  | none => cases h
  | some w =>
    simp only [CpyCtl.dec, Option.ite_none_right_eq_some, Option.some.injEq] at h
    obtain ⟨⟨hw, hp⟩, rfl⟩ := h
    exact ⟨hp, congrArg some (word_of_fields (by simp only [fieldOf, b01_bitOf]; omega))⟩

theorem MmaCtl.dec_eq_some {k : Bool} {w : Option W32} {x : MmaCtl} (h : MmaCtl.dec k w = some x) :
    x.ok k = true ∧ w = some x.enc := by
  cases w with
  | none => cases h
  | some w =>
    simp only [MmaCtl.dec, Option.ite_none_right_eq_some, Option.some.injEq] at h
    obtain ⟨⟨hw, hp⟩, rfl⟩ := h
    exact ⟨hp, congrArg some (word_of_fields (by simp only [fieldOf, b01_bitOf]; omega))⟩

theorem SpawnCtl.dec_eq_some {w : Option W32} {x : SpawnCtl} (h : SpawnCtl.dec w = some x) : x.ok = true ∧ w = some x.enc := by
  cases w with
  | none => cases h
  | some w =>
    simp only [SpawnCtl.dec, Option.ite_none_right_eq_some, Option.some.injEq] at h
    obtain ⟨⟨hw, hp⟩, rfl⟩ := h
    exact ⟨hp, congrArg some (word_of_fields (by simp only [fieldOf, b01_bitOf]; omega))⟩

theorem TupCtl.dec_eq_some {k : Bool} {w : Option W32} {x : TupCtl} (h : TupCtl.dec k w = some x) :
    x.ok k = true ∧ w = some x.enc := by
  cases w with
  | none => cases h
  | some w =>
    simp only [TupCtl.dec, Option.ite_none_right_eq_some, Option.some.injEq] at h
    obtain ⟨⟨hw, hp⟩, rfl⟩ := h
    exact ⟨hp, congrArg some (word_of_fields (by simp only [fieldOf, b01_bitOf]; omega))⟩

theorem PgaCtl.dec_eq_some {w : Option W32} {x : PgaCtl} (h : PgaCtl.dec w = some x) : x.ok = true ∧ w = some x.enc := by
  cases w with
  | none => cases h
  | some w =>
    simp only [PgaCtl.dec, Option.ite_none_right_eq_some, Option.some.injEq] at h
    obtain ⟨⟨hw, hp⟩, rfl⟩ := h
    exact ⟨hp, congrArg some (word_of_fields (by simp only [fieldOf, b01_bitOf]; omega))⟩

theorem takeFld_words {code : Nat} {ws rest : List W32} {f : Fld} (h : takeFld code ws = .ok (f, rest)) (hc : code < 128) :
    f.ok ∧ f.base = code ∧ f.trailer ++ rest = ws := by
  unfold takeFld at h
  split at h
  next hcode =>
    split at h <;> cases h
    exact ⟨trivial, hcode.symm, rfl⟩
  next h32 =>
    split at h
    next hcode =>
      split at h <;> cases h
      exact ⟨trivial, hcode.symm, by simp [Fld.trailer, lowWord_join, highWord_join]⟩
    next h64 => cases h; exact ⟨⟨hc, h32, h64⟩, rfl, rfl⟩

theorem takeCtl_words {u : Bool} {op : Nat} {ws rest : List W32} {c : Option W32} (h : takeCtl u op ws = .ok (c, rest)) :
    c.isSome = hasCtl u op ∧ c.toList ++ rest = ws := by
  unfold takeCtl at h
  split at h
  next hc =>
    split at h <;> cases h
    exact ⟨hc.symm, rfl⟩
  next hc => cases h; exact ⟨(Bool.not_eq_true _ ▸ hc).symm, rfl⟩

theorem fieldOf_seven_lt (x lo : Nat) : fieldOf x lo 7 < 128 := Nat.mod_lt _ (by decide)

/-- The eight fields of a base word are all its bits (R148). -/
theorem base_of_fields (w : W32) : w = BitVec.ofNat 32 (2 ^ 31 * b01 (bitOf w.toNat 31) + 2 ^ 30 * b01 (bitOf w.toNat 30)
    + 2 ^ 29 * b01 (bitOf w.toNat 29) + 2 ^ 28 * b01 (bitOf w.toNat 28) + 2 ^ 21 * fieldOf w.toNat 21 7
    + 2 ^ 14 * fieldOf w.toNat 14 7 + 2 ^ 7 * fieldOf w.toNat 7 7 + fieldOf w.toNat 0 7) :=
  word_of_fields (by have := w.isLt; simp only [fieldOf, b01_bitOf]; omega)

/-- Words that are taken apart are the words of their fields, which fit their places (R148, R149). -/
theorem parse_inv {ws rest : List W32} {r : Raw} (h : parse ws = .ok (r, rest)) : r.ok ∧ r.words ++ rest = ws := by
  cases ws with
  | nil => cases h
  | cons base ws =>
    obtain ⟨-, -, -, hlen, hcount⟩ := parse_base h
    simp only [parse] at h
    split at h
    · cases h
    next hdef =>
      split at h
      · cases h
      · split at h
        · cases h
        next ctl ws₁ hctl =>
          split at h
          · cases h
          next a ws₂ ha =>
            split at h
            · cases h
            next c ws₃ hc =>
              cases h
              obtain ⟨hisSome, hws⟩ := takeCtl_words hctl
              obtain ⟨haok, habase, hws₁⟩ := takeFld_words ha (fieldOf_seven_lt ..)
              obtain ⟨hcok, hcbase, hws₂⟩ := takeFld_words hc (fieldOf_seven_lt ..)
              refine ⟨⟨fieldOf_seven_lt .., fieldOf_seven_lt .., haok, hcok, by simpa using hdef, hisSome, ?_⟩, ?_⟩
              · simp only [wordCount, ← hisSome, ← habase, ← hcbase, Fld.litCount_base _ haok, Fld.litCount_base _ hcok] at hcount
                dsimp only
                omega
              · simp only [Raw.words, List.cons_append, List.append_assoc, hws₂, hws₁, hws]
                simp only [Raw.baseWord, habase, hcbase, ← base_of_fields]

/-- Fields that fit a base word fit with as many control words as their opcode carries. -/
theorem fit_of_ok {r : Raw} {n : Nat} (h : r.ok) (hn : b01 (hasCtl r.u r.op) = n) : r.fit n := by
  obtain ⟨-, hd, ha, hc, -, hctl, hlen⟩ := h
  exact ⟨hd, ha, hc, by rw [← hn, ← hctl]; exact hlen, by rw [hctl, hn]⟩

/-- Fields without a control word: at most three words follow the base word. -/
theorem words_of_fit {m : Marks} {u : Bool} {op d : Nat} {a c : Fld} {ctl : Option W32} (h : Raw.fit ⟨m, u, op, d, a, c, ctl⟩ 0) :
    ctl = none ∧ a.trailer.length + c.trailer.length ≤ 3 := by
  obtain ⟨-, -, -, hlen, hctl⟩ := h
  cases ctl with
  | none => exact ⟨rfl, by simpa using hlen⟩
  | some w => cases hctl

/-! ### The forms of ch08 without a control word: what is read is well formed, and its fields are those read -/

section

variable {r : Raw} (hr : r.fit 0)
include hr

theorem decV3_inv {x : Op3} (h : r.decV3 = some x) :
    (decide (x.d < 96) && x.a.vOk && x.c.vOk && lenOk 0 x.a x.c) = true ∧ some (x.encV3 r.u r.op) = some r := by
  obtain ⟨m, u, op, d, a, c, ctl⟩ := r
  obtain ⟨rfl, hlen⟩ := words_of_fit hr
  simp [Raw.decV3, Option.bind_eq_some_iff] at h
  obtain ⟨hd, _, ⟨ha, rfl⟩, _, ⟨hc, rfl⟩, rfl⟩ := h
  simp_all [Op3.encV3, lenOk, Opnd.toV_trailer]

theorem decV2_inv {x : Op2} (h : r.decV2 = some x) :
    (decide (x.d < 96) && x.a.vOk) = true ∧ some (x.encV2 r.u r.op) = some r := by
  obtain ⟨m, u, op, d, a, c, ctl⟩ := r
  obtain ⟨rfl, hlen⟩ := words_of_fit hr
  simp [Raw.decV2, Option.bind_eq_some_iff] at h
  obtain ⟨hd, _, ⟨ha, rfl⟩, rfl, rfl⟩ := h
  simp_all [Op2.encV2]

theorem decVAC_inv {x : OpAC} (h : r.decVAC = some x) :
    (x.a.vOk && x.c.vOk && lenOk 0 x.a x.c) = true ∧ some (x.encVAC r.u r.op) = some r := by
  obtain ⟨m, u, op, d, a, c, ctl⟩ := r
  obtain ⟨rfl, hlen⟩ := words_of_fit hr
  simp [Raw.decVAC, Option.bind_eq_some_iff] at h
  obtain ⟨rfl, _, ⟨ha, rfl⟩, _, ⟨hc, rfl⟩, rfl⟩ := h
  simp_all [OpAC.encVAC, lenOk, Opnd.toV_trailer]

theorem decVA1_inv {x : Op1} (h : r.decVA1 = some x) :
    (x.a.vOk) = true ∧ some (x.encVA1 r.u r.op) = some r := by
  obtain ⟨m, u, op, d, a, c, ctl⟩ := r
  obtain ⟨rfl, hlen⟩ := words_of_fit hr
  simp [Raw.decVA1, Option.bind_eq_some_iff] at h
  obtain ⟨rfl, _, ⟨ha, rfl⟩, rfl, rfl⟩ := h
  simp_all [Op1.encVA1]

theorem decVLD_inv {sc : Bool} {x : Load} (h : r.decVLD sc = some x) :
    (decide (x.d < 96) && x.a.addrOk && x.acc.okLoad sc) = true ∧ some (x.encVLD r.u r.op) = some r := by
  obtain ⟨m, u, op, d, a, c, ctl⟩ := r
  obtain ⟨rfl, hlen⟩ := words_of_fit hr
  simp [Raw.decVLD, Option.bind_eq_some_iff] at h
  obtain ⟨hd, _, ⟨⟨_, rfl⟩, ha⟩, _, ⟨hk, rfl⟩, rfl⟩ := h
  simp_all [Load.encVLD]

theorem decVST_inv {sc : Bool} {x : Store} (h : r.decVST sc = some x) :
    (x.a.addrOk && x.c.vOk && x.acc.okStore sc && lenOk 0 x.a x.c) = true ∧ some (x.encVST r.u r.op) = some r := by
  obtain ⟨m, u, op, d, a, c, ctl⟩ := r
  obtain ⟨rfl, hlen⟩ := words_of_fit hr
  simp [Raw.decVST, Option.bind_eq_some_iff] at h
  obtain ⟨_, ⟨hk, rfl⟩, _, ⟨⟨_, rfl⟩, ha⟩, _, ⟨hc, rfl⟩, rfl⟩ := h
  simp_all [Store.encVST, lenOk, Opnd.toV_trailer]

theorem decU3_inv {x : Op3} (h : r.decU3 = some x) :
    (decide (x.d < 64) && x.a.uOk && x.c.uOk && lenOk 0 x.a x.c) = true ∧ some (x.encU3 r.u r.op) = some r := by
  obtain ⟨m, u, op, d, a, c, ctl⟩ := r
  obtain ⟨rfl, hlen⟩ := words_of_fit hr
  simp [Raw.decU3, Option.bind_eq_some_iff] at h
  obtain ⟨hd, _, ⟨ha, rfl⟩, _, ⟨hc, rfl⟩, rfl⟩ := h
  simp_all [Op3.encU3, lenOk, Opnd.toU_trailer]

theorem decU2_inv {x : Op2} (h : r.decU2 = some x) :
    (decide (x.d < 64) && x.a.uOk) = true ∧ some (x.encU2 r.u r.op) = some r := by
  obtain ⟨m, u, op, d, a, c, ctl⟩ := r
  obtain ⟨rfl, hlen⟩ := words_of_fit hr
  simp [Raw.decU2, Option.bind_eq_some_iff] at h
  obtain ⟨hd, _, ⟨ha, rfl⟩, rfl, rfl⟩ := h
  simp_all [Op2.encU2]

theorem decUAC_inv {x : OpAC} (h : r.decUAC = some x) :
    (x.a.uOk && x.c.uOk && lenOk 0 x.a x.c) = true ∧ some (x.encUAC r.u r.op) = some r := by
  obtain ⟨m, u, op, d, a, c, ctl⟩ := r
  obtain ⟨rfl, hlen⟩ := words_of_fit hr
  simp [Raw.decUAC, Option.bind_eq_some_iff] at h
  obtain ⟨rfl, _, ⟨ha, rfl⟩, _, ⟨hc, rfl⟩, rfl⟩ := h
  simp_all [OpAC.encUAC, lenOk, Opnd.toU_trailer]

theorem decUA1_inv {x : Op1} (h : r.decUA1 = some x) :
    (x.a.uOk) = true ∧ some (x.encUA1 r.u r.op) = some r := by
  obtain ⟨m, u, op, d, a, c, ctl⟩ := r
  obtain ⟨rfl, hlen⟩ := words_of_fit hr
  simp [Raw.decUA1, Option.bind_eq_some_iff] at h
  obtain ⟨rfl, _, ⟨ha, rfl⟩, rfl, rfl⟩ := h
  simp_all [Op1.encUA1]

theorem decULD_inv {sc : Bool} {x : Load} (h : r.decULD sc = some x) :
    (decide (x.d < 64) && x.a.uOk && x.acc.okLoad sc) = true ∧ some (x.encULD r.u r.op) = some r := by
  obtain ⟨m, u, op, d, a, c, ctl⟩ := r
  obtain ⟨rfl, hlen⟩ := words_of_fit hr
  simp [Raw.decULD, Option.bind_eq_some_iff] at h
  obtain ⟨hd, _, ⟨ha, rfl⟩, _, ⟨hk, rfl⟩, rfl⟩ := h
  simp_all [Load.encULD]

theorem decUST_inv {sc : Bool} {x : Store} (h : r.decUST sc = some x) :
    (x.a.uOk && x.c.uOk && x.acc.okStore sc && lenOk 0 x.a x.c) = true ∧ some (x.encUST r.u r.op) = some r := by
  obtain ⟨m, u, op, d, a, c, ctl⟩ := r
  obtain ⟨rfl, hlen⟩ := words_of_fit hr
  simp [Raw.decUST, Option.bind_eq_some_iff] at h
  obtain ⟨_, ⟨hk, rfl⟩, _, ⟨ha, rfl⟩, _, ⟨hc, rfl⟩, rfl⟩ := h
  simp_all [Store.encUST, lenOk, Opnd.toU_trailer]

theorem decVCODE_inv {p : Nat → Bool} {x : OpCode} (h : r.decVCODE p = some x) :
    (decide (x.d < 96) && x.a.vOk && p x.code) = true ∧ some (x.encVCODE r.u r.op) = some r := by
  obtain ⟨m, u, op, d, a, c, ctl⟩ := r
  obtain ⟨rfl, hlen⟩ := words_of_fit hr
  simp [Raw.decVCODE, Option.bind_eq_some_iff] at h
  obtain ⟨hd, _, ⟨ha, rfl⟩, _, ⟨hk, rfl⟩, rfl⟩ := h
  simp_all [OpCode.encVCODE]

theorem decVRR_inv {x : Rr} (h : r.decVRR = some x) :
    (decide (x.d < 96) && decide (x.a < 96)) = true ∧ some (x.encVRR r.u r.op) = some r := by
  obtain ⟨m, u, op, d, a, c, ctl⟩ := r
  obtain ⟨rfl, hlen⟩ := words_of_fit hr
  simp [Raw.decVRR, Option.bind_eq_some_iff] at h
  obtain ⟨hd, _, ⟨ha, rfl⟩, rfl, rfl⟩ := h
  simp_all [Rr.encVRR]

theorem decGG_inv {x : Rr} (h : r.decGG = some x) :
    (decide (x.d < 64) && decide (x.a < 64)) = true ∧ some (x.encGG r.u r.op) = some r := by
  obtain ⟨m, u, op, d, a, c, ctl⟩ := r
  obtain ⟨rfl, hlen⟩ := words_of_fit hr
  simp [Raw.decGG, Option.bind_eq_some_iff] at h
  obtain ⟨hd, _, ⟨ha, rfl⟩, rfl, rfl⟩ := h
  simp_all [Rr.encGG]

theorem decPGET_inv {x : Rr} (h : r.decPGET = some x) :
    (decide (x.d < 96) && decide (x.a < 8)) = true ∧ some (x.encPGET r.u r.op) = some r := by
  obtain ⟨m, u, op, d, a, c, ctl⟩ := r
  obtain ⟨rfl, hlen⟩ := words_of_fit hr
  simp [Raw.decPGET, Option.bind_eq_some_iff] at h
  obtain ⟨hd, _, ⟨ha, rfl⟩, rfl, rfl⟩ := h
  simp_all [Rr.encPGET]

theorem decBALLOT_inv {x : Rr} (h : r.decBALLOT = some x) :
    (decide (x.d < 64) && decide (x.a < 8)) = true ∧ some (x.encBALLOT r.u r.op) = some r := by
  obtain ⟨m, u, op, d, a, c, ctl⟩ := r
  obtain ⟨rfl, hlen⟩ := words_of_fit hr
  simp [Raw.decBALLOT, Option.bind_eq_some_iff] at h
  obtain ⟨hd, _, ⟨ha, rfl⟩, rfl, rfl⟩ := h
  simp_all [Rr.encBALLOT]

theorem decPSET_inv {x : Op2} (h : r.decPSET = some x) :
    (decide (x.d < 8) && x.a.vOk) = true ∧ some (x.encPSET r.u r.op) = some r := by
  obtain ⟨m, u, op, d, a, c, ctl⟩ := r
  obtain ⟨rfl, hlen⟩ := words_of_fit hr
  simp [Raw.decPSET, Option.bind_eq_some_iff] at h
  obtain ⟨hd, _, ⟨ha, rfl⟩, rfl, rfl⟩ := h
  simp_all [Op2.encPSET]

theorem decPPP_inv {x : Rrr} (h : r.decPPP = some x) :
    (decide (x.d < 8) && decide (x.a < 8) && decide (x.c < 8)) = true ∧ some (x.encPPP r.u r.op) = some r := by
  obtain ⟨m, u, op, d, a, c, ctl⟩ := r
  obtain ⟨rfl, hlen⟩ := words_of_fit hr
  simp [Raw.decPPP, Option.bind_eq_some_iff] at h
  obtain ⟨hd, _, ⟨ha, rfl⟩, _, ⟨hc, rfl⟩, rfl⟩ := h
  simp_all [Rrr.encPPP]

theorem decVLDL_inv {x : Load} (h : r.decVLDL = some x) :
    (decide (x.d < 96) && x.a.vOk && x.a.noLit64 && x.acc.okLoad false) = true ∧ some (x.encVLDL r.u r.op) = some r := by
  obtain ⟨m, u, op, d, a, c, ctl⟩ := r
  obtain ⟨rfl, hlen⟩ := words_of_fit hr
  simp [Raw.decVLDL, Option.bind_eq_some_iff] at h
  obtain ⟨hd, _, ⟨⟨ha, rfl⟩, hlit⟩, _, ⟨hk, rfl⟩, rfl⟩ := h
  simp_all [Load.encVLDL]

theorem decVSTL_inv {x : Store} (h : r.decVSTL = some x) :
    (x.a.vOk && x.a.noLit64 && x.c.vOk && x.acc.okStore false && lenOk 0 x.a x.c) = true ∧ some (x.encVSTL r.u r.op) = some r := by
  obtain ⟨m, u, op, d, a, c, ctl⟩ := r
  obtain ⟨rfl, hlen⟩ := words_of_fit hr
  simp [Raw.decVSTL, Option.bind_eq_some_iff] at h
  obtain ⟨_, ⟨hk, rfl⟩, _, ⟨⟨ha, rfl⟩, hlit⟩, _, ⟨hc, rfl⟩, rfl⟩ := h
  simp_all [Store.encVSTL, lenOk, Opnd.toV_trailer]

theorem decVLDL4_inv {x : Op2} (h : r.decVLDL4 = some x) :
    (decide (x.d < 96) && x.a.vOk && x.a.noLit64) = true ∧ some (x.encVLDL4 r.u r.op) = some r := by
  obtain ⟨m, u, op, d, a, c, ctl⟩ := r
  obtain ⟨rfl, hlen⟩ := words_of_fit hr
  simp [Raw.decVLDL4, Option.bind_eq_some_iff] at h
  obtain ⟨hd, _, ⟨⟨ha, rfl⟩, hlit⟩, rfl, rfl⟩ := h
  simp_all [Op2.encVLDL4]

theorem decVSTL4_inv {x : OpReg} (h : r.decVSTL4 = some x) :
    (x.a.vOk && x.a.noLit64 && decide (x.c < 96)) = true ∧ some (x.encVSTL4 r.u r.op) = some r := by
  obtain ⟨m, u, op, d, a, c, ctl⟩ := r
  obtain ⟨rfl, hlen⟩ := words_of_fit hr
  simp [Raw.decVSTL4, Option.bind_eq_some_iff] at h
  obtain ⟨rfl, _, ⟨⟨ha, rfl⟩, hlit⟩, _, ⟨hc, rfl⟩, rfl⟩ := h
  simp_all [OpReg.encVSTL4]

theorem decVG_inv {x : Gath} (h : r.decVG = some x) :
    (decide (x.d < 96) && decide (x.base < 16) && x.c.vOk && x.c.noLit64) = true ∧ some (x.encVG r.u r.op) = some r := by
  obtain ⟨m, u, op, d, a, c, ctl⟩ := r
  obtain ⟨rfl, hlen⟩ := words_of_fit hr
  simp [Raw.decVG, Option.bind_eq_some_iff] at h
  obtain ⟨hd, _, ⟨ha, rfl⟩, _, ⟨⟨hc, rfl⟩, hlit⟩, rfl⟩ := h
  simp_all [Gath.encVG]

theorem decVADR1_inv {x : Op1} (h : r.decVADR1 = some x) :
    (x.a.addrOk) = true ∧ some (x.encVADR1 r.u r.op) = some r := by
  obtain ⟨m, u, op, d, a, c, ctl⟩ := r
  obtain ⟨rfl, hlen⟩ := words_of_fit hr
  simp [Raw.decVADR1, Option.bind_eq_some_iff] at h
  obtain ⟨rfl, _, ⟨⟨_, rfl⟩, ha⟩, rfl, rfl⟩ := h
  simp_all [Op1.encVADR1]

theorem decPUB_inv {x : ACode} (h : r.decPUB = some x) :
    (x.a.addrOk && scopeOk x.code) = true ∧ some (x.encPUB r.u r.op) = some r := by
  obtain ⟨m, u, op, d, a, c, ctl⟩ := r
  obtain ⟨rfl, hlen⟩ := words_of_fit hr
  simp [Raw.decPUB, Option.bind_eq_some_iff] at h
  obtain ⟨rfl, _, ⟨⟨_, rfl⟩, ha⟩, _, ⟨hk, rfl⟩, rfl⟩ := h
  simp_all [ACode.encPUB]

theorem decBRA_inv {x : BraI} (h : r.decBRA = some x) :
    (true) = true ∧ some (x.encBRA r.u r.op) = some r := by
  obtain ⟨m, u, op, d, a, c, ctl⟩ := r
  obtain ⟨rfl, hlen⟩ := words_of_fit hr
  simp [Raw.decBRA, Option.bind_eq_some_iff] at h
  obtain ⟨rfl, _, rfl, rfl, rfl⟩ := h
  simp_all [BraI.encBRA]

theorem decUG1_inv {x : R1} (h : r.decUG1 = some x) :
    (decide (x.r < 64)) = true ∧ some (x.encUG1 r.u r.op) = some r := by
  obtain ⟨m, u, op, d, a, c, ctl⟩ := r
  obtain ⟨rfl, hlen⟩ := words_of_fit hr
  simp [Raw.decUG1, Option.bind_eq_some_iff] at h
  obtain ⟨rfl, _, ⟨ha, rfl⟩, rfl, rfl⟩ := h
  simp_all [R1.encUG1]

theorem decUD1_inv {x : R1} (h : r.decUD1 = some x) :
    (decide (x.r < 64)) = true ∧ some (x.encUD1 r.u r.op) = some r := by
  obtain ⟨m, u, op, d, a, c, ctl⟩ := r
  obtain ⟨rfl, hlen⟩ := words_of_fit hr
  simp [Raw.decUD1, Option.bind_eq_some_iff] at h
  obtain ⟨hd, rfl, rfl, rfl⟩ := h
  simp_all [R1.encUD1]

theorem decCALL_inv {x : CallI} (h : r.decCALL = some x) :
    (decide (x.d < 64)) = true ∧ some (x.encCALL r.u r.op) = some r := by
  obtain ⟨m, u, op, d, a, c, ctl⟩ := r
  obtain ⟨rfl, hlen⟩ := words_of_fit hr
  simp [Raw.decCALL, Option.bind_eq_some_iff] at h
  obtain ⟨hd, _, rfl, rfl, rfl⟩ := h
  simp_all [CallI.encCALL]

theorem decU0_inv {x : Op0} (h : r.decU0 = some x) :
    (true) = true ∧ some (x.encU0 r.u r.op) = some r := by
  obtain ⟨m, u, op, d, a, c, ctl⟩ := r
  obtain ⟨rfl, hlen⟩ := words_of_fit hr
  simp [Raw.decU0, Option.bind_eq_some_iff] at h
  obtain ⟨rfl, rfl, rfl, rfl⟩ := h
  simp_all [Op0.encU0]

theorem decRDL_inv {x : ReadLaneI} (h : r.decRDL = some x) :
    (decide (x.d < 64) && decide (x.a < 96) && x.c.uOk) = true ∧ some (x.encRDL r.u r.op) = some r := by
  obtain ⟨m, u, op, d, a, c, ctl⟩ := r
  obtain ⟨rfl, hlen⟩ := words_of_fit hr
  simp [Raw.decRDL, Option.bind_eq_some_iff] at h
  obtain ⟨hd, _, ⟨ha, rfl⟩, _, ⟨hc, rfl⟩, rfl⟩ := h
  simp_all [ReadLaneI.encRDL]

theorem decUACODE_inv {p : Nat → Bool} {x : ACode} (h : r.decUACODE p = some x) :
    (x.a.uOk && p x.code) = true ∧ some (x.encUACODE r.u r.op) = some r := by
  obtain ⟨m, u, op, d, a, c, ctl⟩ := r
  obtain ⟨rfl, hlen⟩ := words_of_fit hr
  simp [Raw.decUACODE, Option.bind_eq_some_iff] at h
  obtain ⟨rfl, _, ⟨ha, rfl⟩, _, ⟨hk, rfl⟩, rfl⟩ := h
  simp_all [ACode.encUACODE]

theorem decUCODE_inv {p : Nat → Bool} {x : CodeI} (h : r.decUCODE p = some x) :
    (p x.code) = true ∧ some (x.encUCODE r.u r.op) = some r := by
  obtain ⟨m, u, op, d, a, c, ctl⟩ := r
  obtain ⟨rfl, hlen⟩ := words_of_fit hr
  simp [Raw.decUCODE, Option.bind_eq_some_iff] at h
  obtain ⟨rfl, rfl, _, ⟨hk, rfl⟩, rfl⟩ := h
  simp_all [CodeI.encUCODE]

theorem decUDCODE_inv {p : Nat → Bool} {x : DCode} (h : r.decUDCODE p = some x) :
    (decide (x.d < 64) && p x.code) = true ∧ some (x.encUDCODE r.u r.op) = some r := by
  obtain ⟨m, u, op, d, a, c, ctl⟩ := r
  obtain ⟨rfl, hlen⟩ := words_of_fit hr
  simp [Raw.decUDCODE, Option.bind_eq_some_iff] at h
  obtain ⟨hd, rfl, _, ⟨hk, rfl⟩, rfl⟩ := h
  simp_all [DCode.encUDCODE]

theorem decSLOT_inv {x : CodeI} (h : r.decSLOT = some x) :
    (decide (x.code < 2)) = true ∧ some (x.encSLOT r.u r.op) = some r := by
  obtain ⟨m, u, op, d, a, c, ctl⟩ := r
  obtain ⟨rfl, hlen⟩ := words_of_fit hr
  simp [Raw.decSLOT, Option.bind_eq_some_iff] at h
  obtain ⟨hd, rfl, rfl, rfl⟩ := h
  simp_all [CodeI.encSLOT]

theorem decSLOTA_inv {x : ACode} (h : r.decSLOTA = some x) :
    (decide (x.code < 2) && x.a.uOk) = true ∧ some (x.encSLOTA r.u r.op) = some r := by
  obtain ⟨m, u, op, d, a, c, ctl⟩ := r
  obtain ⟨rfl, hlen⟩ := words_of_fit hr
  simp [Raw.decSLOTA, Option.bind_eq_some_iff] at h
  obtain ⟨hd, _, ⟨ha, rfl⟩, rfl, rfl⟩ := h
  simp_all [ACode.encSLOTA]

theorem decSLOTAC_inv {x : SlotAC} (h : r.decSLOTAC = some x) :
    (decide (x.slot < 2) && x.a.uOk && decide (x.c < 63)) = true ∧ some (x.encSLOTAC r.u r.op) = some r := by
  obtain ⟨m, u, op, d, a, c, ctl⟩ := r
  obtain ⟨rfl, hlen⟩ := words_of_fit hr
  simp [Raw.decSLOTAC, Option.bind_eq_some_iff] at h
  obtain ⟨hd, _, ⟨ha, rfl⟩, _, ⟨hc, rfl⟩, rfl⟩ := h
  simp_all [SlotAC.encSLOTAC]

theorem decUAG_inv {x : OpReg} (h : r.decUAG = some x) :
    (x.a.uOk && decide (x.c < 63)) = true ∧ some (x.encUAG r.u r.op) = some r := by
  obtain ⟨m, u, op, d, a, c, ctl⟩ := r
  obtain ⟨rfl, hlen⟩ := words_of_fit hr
  simp [Raw.decUAG, Option.bind_eq_some_iff] at h
  obtain ⟨rfl, _, ⟨ha, rfl⟩, _, ⟨hc, rfl⟩, rfl⟩ := h
  simp_all [OpReg.encUAG]

theorem decCTRWAIT_inv {x : CtrWaitI} (h : r.decCTRWAIT = some x) :
    (scopeOk x.scope && x.a.uOk && x.c.uOk && lenOk 0 x.a x.c) = true ∧ some (x.encCTRWAIT r.u r.op) = some r := by
  obtain ⟨m, u, op, d, a, c, ctl⟩ := r
  obtain ⟨rfl, hlen⟩ := words_of_fit hr
  simp [Raw.decCTRWAIT, Option.bind_eq_some_iff] at h
  obtain ⟨hd, _, ⟨ha, rfl⟩, _, ⟨hc, rfl⟩, rfl⟩ := h
  simp_all [CtrWaitI.encCTRWAIT, lenOk, Opnd.toU_trailer, scopeOk]

theorem decGGG_inv {bd ba bc : Nat} {x : Rrr} (h : r.decGGG bd ba bc = some x) :
    (decide (x.d < bd) && decide (x.a < ba) && decide (x.c < bc)) = true ∧ some (x.encGGG r.u r.op) = some r := by
  obtain ⟨m, u, op, d, a, c, ctl⟩ := r
  obtain ⟨rfl, hlen⟩ := words_of_fit hr
  simp [Raw.decGGG, Option.bind_eq_some_iff] at h
  obtain ⟨hd, _, ⟨ha, rfl⟩, _, ⟨hc, rfl⟩, rfl⟩ := h
  simp_all [Rrr.encGGG]

theorem decGGA_inv {x : RrOp} (h : r.decGGA = some x) :
    (decide (x.d < 64) && decide (x.a < 64) && x.c.uOk) = true ∧ some (x.encGGA r.u r.op) = some r := by
  obtain ⟨m, u, op, d, a, c, ctl⟩ := r
  obtain ⟨rfl, hlen⟩ := words_of_fit hr
  simp [Raw.decGGA, Option.bind_eq_some_iff] at h
  obtain ⟨hd, _, ⟨ha, rfl⟩, _, ⟨hc, rfl⟩, rfl⟩ := h
  simp_all [RrOp.encGGA]

end

/-! ### The forms with a control word -/

/-- With a control word, at most two literal words follow it. -/
theorem literals_of_fit {r : Raw} (h : r.fit 1) : 1 + r.a.trailer.length + r.c.trailer.length ≤ 3 := by
  obtain ⟨-, -, -, hlen, -⟩ := h
  exact hlen

/-- The D field holds no literal: a source read from it is none. -/
theorem source_of_code {d : Nat} {o : Opnd} (h : Fld.code d = o.toU) : o.noLit = true ∧ o.toU.codeOf = d := by
  rw [← h]
  refine ⟨?_, rfl⟩
  cases o with
  | lit32 => cases h
  | lit64 => cases h
  | _ => rfl

section

variable {r : Raw} (hr : r.fit 1)
include hr

theorem decVATOM_inv {p : AtomCtl → Bool} {x : AtomI} (h : r.decVATOM p = some x) :
    (decide (x.d < 96) && x.a.addrOk && x.c.vOk && p x.ctl && lenOk 1 x.a x.c) = true ∧ some (x.encVATOM r.u r.op) = some r := by
  obtain ⟨m, u, op, d, a, c, ctl⟩ := r
  have hlen := literals_of_fit hr
  simp [Raw.decVATOM, Option.bind_eq_some_iff] at h
  obtain ⟨hd, _, ⟨⟨_, rfl⟩, ha⟩, _, ⟨hc, rfl⟩, k, hk, rfl⟩ := h
  obtain ⟨hok, rfl⟩ := AtomCtl.dec_eq_some hk
  simp_all [AtomI.encVATOM, lenOk, Opnd.toV_trailer]

theorem decVRED_inv {x : RedI} (h : r.decVRED = some x) :
    (x.a.addrOk && x.c.vOk && x.ctl.okRed && lenOk 1 x.a x.c) = true ∧ some (x.encVRED r.u r.op) = some r := by
  obtain ⟨m, u, op, d, a, c, ctl⟩ := r
  have hlen := literals_of_fit hr
  simp [Raw.decVRED, Option.bind_eq_some_iff] at h
  obtain ⟨rfl, _, ⟨⟨_, rfl⟩, ha⟩, _, ⟨hc, rfl⟩, k, hk, rfl⟩ := h
  obtain ⟨hok, rfl⟩ := AtomCtl.dec_eq_some hk
  simp_all [RedI.encVRED, lenOk, Opnd.toV_trailer]

theorem decUATOM_inv {p : AtomCtl → Bool} {x : AtomI} (h : r.decUATOM p = some x) :
    (decide (x.d < 64) && x.a.uOk && x.c.uOk && p x.ctl && lenOk 1 x.a x.c) = true ∧ some (x.encUATOM r.u r.op) = some r := by
  obtain ⟨m, u, op, d, a, c, ctl⟩ := r
  have hlen := literals_of_fit hr
  simp [Raw.decUATOM, Option.bind_eq_some_iff] at h
  obtain ⟨hd, _, ⟨ha, rfl⟩, _, ⟨hc, rfl⟩, k, hk, rfl⟩ := h
  obtain ⟨hok, rfl⟩ := AtomCtl.dec_eq_some hk
  simp_all [AtomI.encUATOM, lenOk, Opnd.toU_trailer]

theorem decURED_inv {x : RedI} (h : r.decURED = some x) :
    (x.a.uOk && x.c.uOk && x.ctl.okRed && lenOk 1 x.a x.c) = true ∧ some (x.encURED r.u r.op) = some r := by
  obtain ⟨m, u, op, d, a, c, ctl⟩ := r
  have hlen := literals_of_fit hr
  simp [Raw.decURED, Option.bind_eq_some_iff] at h
  obtain ⟨rfl, _, ⟨ha, rfl⟩, _, ⟨hc, rfl⟩, k, hk, rfl⟩ := h
  obtain ⟨hok, rfl⟩ := AtomCtl.dec_eq_some hk
  simp_all [RedI.encURED, lenOk, Opnd.toU_trailer]

theorem decCPY_inv {x : CpyI} (h : r.decCPY = some x) :
    (decide (x.d < 96) && decide (x.a < 96) && x.a % 2 == 0 && decide (x.c < 92) && (x.ctl.dir != 2 || x.d % 2 == 0) && x.ctl.ok) = true ∧ some (x.encCPY r.u r.op) = some r := by
  obtain ⟨m, u, op, d, a, c, ctl⟩ := r
  simp [Raw.decCPY, Option.bind_eq_some_iff] at h
  obtain ⟨hd, _, ⟨ha, rfl⟩, _, ⟨hc, rfl⟩, k, hk, heven, rfl⟩ := h
  obtain ⟨hok, rfl⟩ := CpyCtl.dec_eq_some hk
  simp_all [CpyI.encCPY]

theorem decMMA_inv {x : MmaI} (h : r.decMMA = some x) :
    (decide (x.d < 96) && decide (x.a < 96) && x.a % 2 == 0 && decide (x.c < 96) && x.c % 2 == 0 && x.ctl.ok true) = true ∧ some (x.encMMA r.u r.op) = some r := by
  obtain ⟨m, u, op, d, a, c, ctl⟩ := r
  simp [Raw.decMMA, Option.bind_eq_some_iff] at h
  obtain ⟨hd, _, ⟨ha, rfl⟩, _, ⟨hc, rfl⟩, k, hk, heven, rfl⟩ := h
  obtain ⟨hok, rfl⟩ := MmaCtl.dec_eq_some hk
  simp_all [MmaI.encMMA]

theorem decMMAG_inv {x : MmagI} (h : r.decMMAG = some x) :
    (x.d.uOk && x.d.noLit && x.a.uOk && x.c.uOk && x.ctl.ok false && lenOk 1 x.a x.c) = true ∧ some (x.encMMAG r.u r.op) = some r := by
  obtain ⟨m, u, op, d, a, c, ctl⟩ := r
  have hlen := literals_of_fit hr
  simp [Raw.decMMAG, Option.bind_eq_some_iff] at h
  obtain ⟨_, ⟨hd, hcode⟩, _, ⟨ha, rfl⟩, _, ⟨hc, rfl⟩, k, hk, rfl⟩ := h
  obtain ⟨hok, rfl⟩ := MmaCtl.dec_eq_some hk
  have hsrc := source_of_code hcode
  simp_all [MmagI.encMMAG, lenOk, Opnd.toU_trailer]

theorem decSPAWN_inv {x : SpawnI} (h : r.decSPAWN = some x) :
    (x.a.uOk && x.ctl.ok) = true ∧ some (x.encSPAWN r.u r.op) = some r := by
  obtain ⟨m, u, op, d, a, c, ctl⟩ := r
  simp [Raw.decSPAWN, Option.bind_eq_some_iff] at h
  obtain ⟨rfl, _, ⟨ha, rfl⟩, rfl, k, hk, rfl⟩ := h
  obtain ⟨hok, rfl⟩ := SpawnCtl.dec_eq_some hk
  simp_all [SpawnI.encSPAWN]

theorem decTUP_inv {lim : Nat} {modes : Bool} {x : TupI} (h : r.decTUP lim modes = some x) :
    (decide (x.d < lim) && decide (x.a < 60) && decide (x.c < 64) && x.ctl.ok modes) = true ∧ some (x.encTUP r.u r.op) = some r := by
  obtain ⟨m, u, op, d, a, c, ctl⟩ := r
  simp [Raw.decTUP, Option.bind_eq_some_iff] at h
  obtain ⟨hd, _, ⟨ha, rfl⟩, _, ⟨hc, rfl⟩, k, hk, rfl⟩ := h
  obtain ⟨hok, rfl⟩ := TupCtl.dec_eq_some hk
  simp_all [TupI.encTUP]

theorem decTCAN_inv {x : TcanI} (h : r.decTCAN = some x) :
    (decide (x.d < 64) && decide (x.c < 64) && x.ctl.ok false) = true ∧ some (x.encTCAN r.u r.op) = some r := by
  obtain ⟨m, u, op, d, a, c, ctl⟩ := r
  simp [Raw.decTCAN, Option.bind_eq_some_iff] at h
  obtain ⟨hd, rfl, _, ⟨hc, rfl⟩, k, hk, rfl⟩ := h
  obtain ⟨hok, rfl⟩ := TupCtl.dec_eq_some hk
  simp_all [TcanI.encTCAN]

theorem decPGA_inv {x : PgaI} (h : r.decPGA = some x) :
    (decide (x.d < 64) && decide (x.a < 64) && decide (x.c < 64) && x.ctl.ok) = true ∧ some (x.encPGA r.u r.op) = some r := by
  obtain ⟨m, u, op, d, a, c, ctl⟩ := r
  simp [Raw.decPGA, Option.bind_eq_some_iff] at h
  obtain ⟨hd, _, ⟨ha, rfl⟩, _, ⟨hc, rfl⟩, k, hk, rfl⟩ := h
  obtain ⟨hok, rfl⟩ := PgaCtl.dec_eq_some hk
  simp_all [PgaI.encPGA]

end

/-! ### The forms whose codes are fields of their own (R155, R190, R196), and those that name several instructions -/

section

variable {r : Raw} (hr : r.fit 0)
include hr

theorem decVA3_inv {x : Op3} (h : r.decVA3 = some x) :
    (decide (x.d < 96) && x.a.vOk && x.c.vOk && lenOk 0 x.a x.c && x.a.isV) = true ∧ some (x.encV3 r.u r.op) = some r := by
  obtain ⟨hx, hv⟩ := Option.filter_eq_some_iff.mp h
  obtain ⟨hwf, henc⟩ := decV3_inv hr hx
  exact ⟨by simp only [hwf, hv, Bool.and_self], henc⟩

theorem decVCMP_inv {lim : Nat} {x : CmpI} (h : r.decVCMP lim = some x) :
    (decide (x.cond < lim) && decide (x.pd < 8) && x.a.vOk && x.c.vOk && lenOk 0 x.a x.c) = true
      ∧ some (x.encVCMP r.u r.op) = some r := by
  obtain ⟨m, u, op, d, a, c, ctl⟩ := r
  obtain ⟨rfl, hlen⟩ := words_of_fit hr
  simp [Raw.decVCMP, Option.bind_eq_some_iff] at h
  obtain ⟨hd, _, ⟨ha, rfl⟩, _, ⟨hc, rfl⟩, hlim, rfl⟩ := h
  simp_all [CmpI.encVCMP, lenOk, Opnd.toV_trailer, Nat.mod_lt, Nat.div_add_mod]

theorem decUCMP_inv {lim : Nat} {x : CmpI} (h : r.decUCMP lim = some x) :
    (decide (x.cond < lim) && decide (x.pd < 8) && x.a.uOk && x.c.uOk && lenOk 0 x.a x.c) = true
      ∧ some (x.encUCMP r.u r.op) = some r := by
  obtain ⟨m, u, op, d, a, c, ctl⟩ := r
  obtain ⟨rfl, hlen⟩ := words_of_fit hr
  simp [Raw.decUCMP, Option.bind_eq_some_iff] at h
  obtain ⟨hd, _, ⟨ha, rfl⟩, _, ⟨hc, rfl⟩, hlim, rfl⟩ := h
  simp_all [CmpI.encUCMP, lenOk, Opnd.toU_trailer, Nat.mod_lt, Nat.div_add_mod]

theorem decVOTE_inv {x : VoteI} (h : r.decVOTE = some x) :
    (decide (x.mode < 4) && decide (x.q < 8) && decide (x.p < 8)) = true ∧ some (x.encVOTE r.u r.op) = some r := by
  obtain ⟨m, u, op, d, a, c, ctl⟩ := r
  obtain ⟨rfl, -⟩ := words_of_fit hr
  simp [Raw.decVOTE, Option.bind_eq_some_iff] at h
  obtain ⟨hd, _, ⟨ha, rfl⟩, rfl, rfl⟩ := h
  have hmode : d / 8 < 4 := by omega
  simp_all [VoteI.encVOTE, Nat.mod_lt, Nat.div_add_mod]

theorem decBRQ_inv {x : BrqI} (h : r.decBRQ = some x) :
    (x.c.uOk && decide (x.c.litWords ≤ 2)) = true ∧ some (x.encBRQ r.u r.op) = some r := by
  obtain ⟨m, u, op, d, a, c, ctl⟩ := r
  obtain ⟨rfl, hlen⟩ := words_of_fit hr
  simp [Raw.decBRQ, Option.bind_eq_some_iff] at h
  obtain ⟨hd, _, rfl, _, ⟨hc, rfl⟩, rfl⟩ := h
  have hz : b01 (d == 1) = d := by interval_cases d <;> rfl
  simp_all [BrqI.encBRQ, Opnd.litWords_le]

theorem decBRV_inv {x : BrvI} (h : r.decBRV = some x) : decide (x.p < 8) = true ∧ some (x.encBRV r.u r.op) = some r := by
  obtain ⟨m, u, op, d, a, c, ctl⟩ := r
  obtain ⟨rfl, -⟩ := words_of_fit hr
  simp [Raw.decBRV, Option.bind_eq_some_iff] at h
  obtain ⟨rfl, _, rfl, n, ⟨hn, rfl⟩, rfl⟩ := h
  have hcode : n % 8 + 8 * b01 (bitOf n 3) = n := by rw [b01_bitOf]; omega
  simp_all [BrvI.encBRV, Nat.mod_lt]

theorem decTLBI_inv {i : Instr} (hu : r.u = true) (hop : r.op = 114) (h : r.decTLBI = some i) : WellFormed i ∧ i.toRaw = some r := by
  obtain ⟨m, u, op, d, a, c, ctl⟩ := r
  obtain ⟨rfl, -⟩ := words_of_fit hr
  obtain rfl : u = true := hu
  obtain rfl : op = 114 := hop
  simp [Raw.decTLBI, Option.bind_eq_some_iff] at h
  obtain ⟨rfl, k, ⟨hk, rfl⟩, h⟩ := h
  split at h
  next hk0 =>
    obtain rfl := hk0
    simp [Option.bind_eq_some_iff] at h
    obtain ⟨rfl, rfl⟩ := h
    exact ⟨rfl, rfl⟩
  next hk0 =>
    simp [Option.bind_eq_some_iff] at h
    obtain ⟨a, ⟨ha, rfl⟩, h⟩ := h
    split at h <;> cases h
    next hk1 => exact ⟨ha, by rw [hk1]; rfl⟩
    next hk1 =>
      obtain rfl : k = 2 := by omega
      exact ⟨ha, rfl⟩

omit hr in
theorem decPART_inv {i : Instr} (hu : r.u = true) (hop : r.op = 120) (h : r.decPART = some i) : WellFormed i ∧ i.toRaw = some r := by
  obtain ⟨m, u, op, d, a, c, ctl⟩ := r
  obtain rfl : u = true := hu
  obtain rfl : op = 120 := hop
  simp [Raw.decPART, Option.bind_eq_some_iff] at h
  obtain ⟨hd, a, ⟨ha, rfl⟩, c, ⟨hc, rfl⟩, k, rfl, h⟩ := h
  have hwf : (decide (d < 63) && decide (a < 64) && decide (c < 64)) = true := by simp [hd, ha, hc]
  split at h <;> cases h
  all_goals
    next hk =>
      obtain rfl := word_of_fields hk
      exact ⟨hwf, rfl⟩

end

/-! ### Fields that name an instruction -/

/-- A form's reading, under the constructor that the opcode names. -/
theorem inv_of_map {α : Type} {f : Option α} {c : α → Instr} {i : Instr} {r : Raw} (h : f.map c = some i)
    (hc : ∀ x, f = some x → WellFormed (c x) ∧ (c x).toRaw = some r) : WellFormed i ∧ i.toRaw = some r := by
  obtain ⟨x, hx, rfl⟩ := Option.map_eq_some_iff.mp h
  exact hc x hx

theorem toV_inv {r : Raw} {i : Instr} (hr : r.ok) (hu : r.u = false) (h : r.toV = some i) : WellFormed i ∧ i.toRaw = some r := by
  obtain ⟨m, u, op, d, a, c, ctl⟩ := r
  obtain rfl : u = false := hu
  unfold Raw.toV at h
  dsimp only at h
  split at h
  case h_1 | h_2 | h_3 | h_4 | h_5 | h_6 | h_7 | h_10 | h_11 | h_12 | h_13 | h_15 | h_16 | h_17 | h_18 | h_19 | h_20 |
    h_25 | h_26 | h_27 | h_29 | h_31 | h_32 | h_33 | h_34 | h_35 | h_36 | h_37 | h_38 | h_49 | h_52 | h_54 | h_63 |
    h_64 | h_65 | h_66 => exact inv_of_map h fun _ => decV3_inv (fit_of_ok hr rfl)
  case h_8 | h_9 | h_14 | h_21 | h_22 | h_23 | h_24 | h_28 | h_39 | h_40 | h_42 | h_43 | h_44 | h_45 | h_46 | h_47 |
    h_48 | h_50 | h_51 | h_56 | h_67 | h_68 | h_69 | h_70 | h_71 | h_72 | h_73 | h_74 | h_75 | h_76 | h_91 => exact inv_of_map h fun _ => decV2_inv (fit_of_ok hr rfl)
  case h_30 | h_41 => exact inv_of_map h fun _ => decVCMP_inv (fit_of_ok hr rfl)
  case h_53 | h_55 | h_60 => exact inv_of_map h fun _ => decVCODE_inv (fit_of_ok hr rfl)
  case h_57 => exact inv_of_map h fun _ => decVA3_inv (fit_of_ok hr rfl)
  case h_58 | h_59 | h_61 => exact inv_of_map h fun _ => decVRR_inv (fit_of_ok hr rfl)
  case h_62 => exact inv_of_map h fun _ => decVA1_inv (fit_of_ok hr rfl)
  case h_77 | h_85 => exact inv_of_map h fun _ => decVLD_inv (fit_of_ok hr rfl)
  case h_78 | h_86 | h_87 => exact inv_of_map h fun _ => decVST_inv (fit_of_ok hr rfl)
  case h_79 => exact inv_of_map h fun _ => decVLDL_inv (fit_of_ok hr rfl)
  case h_80 => exact inv_of_map h fun _ => decVSTL_inv (fit_of_ok hr rfl)
  case h_81 => exact inv_of_map h fun _ => decVLDL4_inv (fit_of_ok hr rfl)
  case h_82 => exact inv_of_map h fun _ => decVSTL4_inv (fit_of_ok hr rfl)
  case h_83 | h_84 => exact inv_of_map h fun _ => decVG_inv (fit_of_ok hr rfl)
  case h_88 => exact inv_of_map h fun _ => decVADR1_inv (fit_of_ok hr rfl)
  case h_89 => exact inv_of_map h fun _ => decVATOM_inv (fit_of_ok hr rfl)
  case h_90 => exact inv_of_map h fun _ => decVRED_inv (fit_of_ok hr rfl)
  case h_92 => exact inv_of_map h fun _ => decVAC_inv (fit_of_ok hr rfl)
  case h_93 | h_94 | h_95 | h_96 => exact inv_of_map h fun _ => decPPP_inv (fit_of_ok hr rfl)
  case h_97 => exact inv_of_map h fun _ => decPSET_inv (fit_of_ok hr rfl)
  case h_98 => exact inv_of_map h fun _ => decPGET_inv (fit_of_ok hr rfl)
  case h_99 => exact inv_of_map h fun _ => decCPY_inv (fit_of_ok hr rfl)
  case h_100 => exact inv_of_map h fun _ => decPUB_inv (fit_of_ok hr rfl)
  case h_101 => exact inv_of_map h fun _ => decMMA_inv (fit_of_ok hr rfl)
  case h_102 => cases h

theorem toU_inv {r : Raw} {i : Instr} (hr : r.ok) (hu : r.u = true) (h : r.toU = some i) : WellFormed i ∧ i.toRaw = some r := by
  obtain ⟨m, u, op, d, a, c, ctl⟩ := r
  obtain rfl : u = true := hu
  unfold Raw.toU at h
  dsimp only at h
  split at h
  case h_1 | h_2 | h_3 | h_4 | h_5 | h_6 | h_7 | h_10 | h_11 | h_12 | h_13 | h_15 | h_16 | h_17 | h_18 | h_19 | h_20
    => exact inv_of_map h fun _ => decU3_inv (fit_of_ok hr rfl)
  case h_8 | h_9 | h_14 | h_21 | h_22 | h_23 | h_24 | h_25 | h_94 => exact inv_of_map h fun _ => decU2_inv (fit_of_ok hr rfl)
  case h_26 => exact inv_of_map h fun _ => decUCMP_inv (fit_of_ok hr rfl)
  case h_27 => exact inv_of_map h fun _ => decBRA_inv (fit_of_ok hr rfl)
  case h_28 => exact inv_of_map h fun _ => decBRQ_inv (fit_of_ok hr rfl)
  case h_29 => exact inv_of_map h fun _ => decBRV_inv (fit_of_ok hr rfl)
  case h_30 | h_33 => exact inv_of_map h fun _ => decUG1_inv (fit_of_ok hr rfl)
  case h_31 => exact inv_of_map h fun _ => decCALL_inv (fit_of_ok hr rfl)
  case h_32 | h_79 | h_82 | h_97 => exact inv_of_map h fun _ => decGG_inv (fit_of_ok hr rfl)
  case h_34 | h_35 | h_36 | h_81 | h_90 | h_91 | h_92 | h_93 => exact inv_of_map h fun _ => decU0_inv (fit_of_ok hr rfl)
  case h_37 | h_38 | h_43 | h_48 => exact inv_of_map h fun _ => decUA1_inv (fit_of_ok hr rfl)
  case h_39 => exact inv_of_map h fun _ => decSPAWN_inv (fit_of_ok hr rfl)
  case h_40 => exact inv_of_map h fun _ => decRDL_inv (fit_of_ok hr rfl)
  case h_41 => exact inv_of_map h fun _ => decVOTE_inv (fit_of_ok hr rfl)
  case h_42 => exact inv_of_map h fun _ => decBALLOT_inv (fit_of_ok hr rfl)
  case h_44 | h_47 => exact inv_of_map h fun _ => decUD1_inv (fit_of_ok hr rfl)
  case h_45 | h_46 | h_52 | h_58 => exact inv_of_map h fun _ => decUACODE_inv (fit_of_ok hr rfl)
  case h_49 | h_50 | h_53 => exact inv_of_map h fun _ => decUCODE_inv (fit_of_ok hr rfl)
  case h_51 | h_54 | h_57 => exact inv_of_map h fun _ => decUDCODE_inv (fit_of_ok hr rfl)
  case h_55 | h_61 => exact inv_of_map h fun _ => decUATOM_inv (fit_of_ok hr rfl)
  case h_56 => exact inv_of_map h fun _ => decCTRWAIT_inv (fit_of_ok hr rfl)
  case h_59 | h_63 => exact inv_of_map h fun _ => decULD_inv (fit_of_ok hr rfl)
  case h_60 | h_64 => exact inv_of_map h fun _ => decUST_inv (fit_of_ok hr rfl)
  case h_62 => exact inv_of_map h fun _ => decURED_inv (fit_of_ok hr rfl)
  case h_65 => exact inv_of_map h fun _ => decMMAG_inv (fit_of_ok hr rfl)
  case h_66 | h_67 | h_68 | h_72 => exact inv_of_map h fun _ => decUAC_inv (fit_of_ok hr rfl)
  case h_69 | h_73 => exact inv_of_map h fun _ => decSLOT_inv (fit_of_ok hr rfl)
  case h_70 => exact inv_of_map h fun _ => decSLOTA_inv (fit_of_ok hr rfl)
  case h_71 => exact inv_of_map h fun _ => decSLOTAC_inv (fit_of_ok hr rfl)
  case h_74 => exact inv_of_map h fun _ => decUAG_inv (fit_of_ok hr rfl)
  case h_75 | h_76 | h_77 => exact inv_of_map h fun _ => decTUP_inv (fit_of_ok hr rfl)
  case h_78 => exact inv_of_map h fun _ => decTCAN_inv (fit_of_ok hr rfl)
  case h_80 | h_84 | h_85 | h_86 | h_87 | h_88 => exact inv_of_map h fun _ => decGGG_inv (fit_of_ok hr rfl)
  case h_83 => exact inv_of_map h fun _ => decPGA_inv (fit_of_ok hr rfl)
  case h_89 => exact decTLBI_inv (fit_of_ok hr rfl) rfl rfl h
  case h_95 => exact decPART_inv rfl rfl h
  case h_96 => exact inv_of_map h fun _ => decGGA_inv (fit_of_ok hr rfl)
  case h_98 => cases h

/-- Fields that name an instruction are the fields of that instruction, which is well formed (R150, R166). -/
theorem toInstr_inv {r : Raw} {i : Instr} (hr : r.ok) (h : r.toInstr = some i) : WellFormed i ∧ i.toRaw = some r := by
  unfold Raw.toInstr at h
  split at h
  next hu => exact toU_inv hr hu h
  next hu => exact toV_inv hr (Bool.not_eq_true _ ▸ hu) h

/-- Settles O2: words that are taken apart are the words of their fields, and fields that name an instruction are its own. -/
theorem decodeReadsEveryBit : Obligations.DecodeReadsEveryBit := by
  unfold Obligations.DecodeReadsEveryBit
  intro ws rest i h
  obtain ⟨r, hparse, hi⟩ := decode_ok h
  obtain ⟨hok, hwords⟩ := parse_inv hparse
  obtain ⟨hwf, hraw⟩ := toInstr_inv hok hi
  exact ⟨hwf, by rw [encode, hraw]; exact hwords⟩

/-- Settles O1: every instruction's round trip, by `roundTrip`. -/
theorem amitiaWordsDecode : Obligations.AmitiaWordsDecode := by
  unfold Obligations.AmitiaWordsDecode
  intro i hwf hraw
  obtain ⟨r, hr⟩ := Option.isSome_iff_exists.mp hraw
  have h := roundTrip i hwf
  rw [hr] at h
  exact h

end Sys2Proof

/-! ## O5, O6, O7: vector rows (R157, R158, R177 to R186, R204 to R212) -/

namespace Sys2Proof.Machine

/-- Settles O5: each row is `vecInt3` or `vecInt2` of its operation, which completes. -/
theorem vectorIntegerRows : Obligations.VectorIntegerRows := by
  unfold Obligations.VectorIntegerRows
  constructor
  · rintro row hrow x s gid sp g p rd ⟨hat, rfl⟩ hp
    have hexec : exec (row.1 x) s = vecInt3 row.2.1 row.2.2.1 row.2.2.2.1 row.2.2.2.2 x s := by
      simp only [List.mem_cons, List.not_mem_nil, or_false] at hrow
      rcases hrow with rfl | rfl | rfl | rfl | rfl | rfl | rfl | rfl | rfl | rfl | rfl | rfl | rfl | rfl | rfl | rfl
        | rfl | rfl | rfl <;> rfl
    exact hexec.trans (vecInt3_next _ _ _ _ x hat hp)
  · rintro row hrow x s gid sp g p rd ⟨hat, rfl⟩ hp
    have hexec : exec (row.1 x) s = vecInt2 row.2.1 row.2.2 x s := by
      simp only [List.mem_cons, List.not_mem_nil, or_false] at hrow
      rcases hrow with rfl | rfl | rfl | rfl | rfl | rfl | rfl <;> rfl
    exact hexec.trans (vecInt2_next _ _ x hat hp)

/-- Settles O6: each instruction is a computation of a result, which completes. -/
theorem vectorMoveAndPartialRows : Obligations.VectorMoveAndPartialRows := by
  unfold Obligations.VectorMoveAndPartialRows
  rintro s gid sp g p rd ⟨hat, rfl⟩
  refine ⟨fun x hp => ?idp4, fun x hp => ?mulw, fun x hp => ?prmt, fun x hp => ?mov, fun x hp => ?sel, fun x hp => ?icmp⟩
  case idp4 => exact (vecAlu_next hat hp rfl : execIdp4 x s = _)
  case mulw => exact (vecAlu_next hat hp rfl : execMulw x s = _)
  case prmt => exact (vecAlu_next hat hp rfl : execPrmt x s = _)
  case mov => exact (vecAlu_next hat hp rfl : execMov x s = _)
  case sel => exact (vecAluOn_next hat hp rfl : execSel x s = _)
  case icmp => exact (vecAlu_next hat hp rfl : execIcmp x s = _)

/-- Settles O7: each row is `vecFlt3` or `vecFlt2` of its operation; FCMP and FDOT2 are computations of their own. -/
theorem floatRows : Obligations.FloatRows := by
  unfold Obligations.FloatRows
  refine ⟨?three, ?two, ?fcmp, ?fdot2⟩
  case three =>
    rintro row hrow x s gid sp g p rd ⟨hat, rfl⟩ hp
    have hexec : exec (row.1 x) s = vecFlt3 row.2.1 row.2.2.1 row.2.2.2.1 row.2.2.2.2 x s := by
      simp only [List.mem_cons, List.not_mem_nil, or_false] at hrow
      rcases hrow with rfl | rfl | rfl | rfl | rfl | rfl | rfl <;> rfl
    exact hexec.trans (vecFlt3_next _ _ _ _ x hat hp)
  case two =>
    rintro row hrow x s gid sp g p rd ⟨hat, rfl⟩ hp
    have hexec : exec (row.1 x) s = vecFlt2 row.2.1 row.2.2.1 row.2.2.2 x s := by
      simp only [List.mem_cons, List.not_mem_nil, or_false] at hrow
      rcases hrow with rfl | rfl | rfl | rfl | rfl | rfl | rfl | rfl | rfl | rfl | rfl <;> rfl
    exact hexec.trans (vecFlt2_next _ _ _ x hat hp)
  case fcmp =>
    rintro x s gid sp g p rd ⟨hat, rfl⟩ hp
    exact (vecAlu_next hat hp rfl : execFcmp x s = _)
  case fdot2 =>
    rintro x s gid sp g p rd ⟨hat, rfl⟩ hp
    exact (vecAlu_next hat hp rfl : execFdot2 x s = _)

end Sys2Proof.Machine

/-! ## O9: the uniform integer rows (R184 to R186) -/

namespace Sys2Proof.Machine

/-- Settles O9: each row is `uniInt3` or `uniInt2` of its operation; MOV and ICMP are computations of their own. -/
theorem uniformIntegerRows : Obligations.UniformIntegerRows := by
  unfold Obligations.UniformIntegerRows
  refine ⟨?three, ?two, fun x s => ⟨?mov, ?movThread⟩, fun x s => ⟨?icmp, ?icmpThread⟩⟩
  case three =>
    intro row hrow x s
    have hexec : exec (row.1 x) s = uniInt3 row.2.1 row.2.2.1 row.2.2.2 x s := by
      simp only [List.mem_cons, List.not_mem_nil, or_false] at hrow
      rcases hrow with rfl | rfl | rfl | rfl | rfl | rfl | rfl | rfl | rfl | rfl | rfl | rfl | rfl | rfl | rfl | rfl
        | rfl <;> rfl
    constructor
    · rintro gid sp g p rd ⟨hat, rfl⟩ hp
      exact hexec.trans (uniInt3_split _ _ _ x hat hp)
    · exact fun tid t hat hp => hexec.trans (uniInt3_thread _ _ _ x hat hp)
  case two =>
    intro row hrow x s
    have hexec : exec (row.1 x) s = uniInt2 row.2.1 row.2.2 x s := by
      simp only [List.mem_cons, List.not_mem_nil, or_false] at hrow
      rcases hrow with rfl | rfl | rfl | rfl | rfl | rfl | rfl <;> rfl
    constructor
    · rintro gid sp g p rd ⟨hat, rfl⟩ hp
      exact hexec.trans (uniInt2_split _ _ x hat hp)
    · exact fun tid t hat hp => hexec.trans (uniInt2_thread _ _ x hat hp)
  case mov =>
    rintro gid sp g p rd ⟨hat, rfl⟩ hp
    exact (uniAlu_split hat hp rfl : execMovU x s = _)
  case movThread =>
    intro tid t hat hp
    exact (uniAlu_thread hat hp rfl : execMovU x s = _)
  case icmp =>
    rintro gid sp g p rd ⟨hat, rfl⟩ hp
    exact (uniAlu_split hat hp rfl : execIcmpU x s = _)
  case icmpThread =>
    intro tid t hat hp
    exact (uniAlu_thread hat hp rfl : execIcmpU x s = _)

end Sys2Proof.Machine

/-! ## O16: predicates, votes and READLANE (R187, R196, R197) -/

namespace Sys2Proof.Machine

section

variable {s : State} {gid sp : Nat} {g : Group} {p : Split}

/-- A variable-latency uniform result is on its way. -/
theorem simtUniVar_next {spec : Rd → Spec} {f : Rd → Except (Nat × Nat) RegWrites} {w : RegWrites} (h : s.AtSplit gid sp g p)
    (hp : g.Passes p (spec (s.rdSplit g sp p)) p.mask) (hw : f (s.rdSplit g sp p) = .ok w) :
    simtUniVar s spec f = .next (s.uniDone gid sp p (spec (s.rdSplit g sp p)).m (spec (s.rdSplit g sp p)).len false w) :=
  simtOnly_next h hp (d := Done.plain (s.putVar gid sp p.mask w)) (by simp only [hw])

/-- READLANE reads a lane of the group (R197). -/
theorem execReadlane_next {x : ReadLaneI} (h : s.AtSplit gid sp g p)
    (hp : g.Passes p (Spec.of x.m x.len (readLaneBad (s.rdSplit g sp p) x) x.c.uCodes
      (codeG x.d :: codesV (ety64 (modeEty (s.rdSplit g sp p).mode)) x.a)) p.mask)
    (hlane : ((s.rdSplit g sp p).uni x.c).toNat ≤ 31) :
    execReadlane x s = .next (s.uniDone gid sp p x.m x.len false { RegWrites.none with
      g := [(x.d, if ety64 (modeEty (s.rdSplit g sp p).mode) then (s.rdSplit g sp p).pair x.a ((s.rdSplit g sp p).uni x.c).toNat
        else ((s.rdSplit g sp p).v x.a ((s.rdSplit g sp p).uni x.c).toNat).setWidth 64)]
      px := readLanePoison g (ety64 (modeEty (s.rdSplit g sp p).mode)) x.a ((s.rdSplit g sp p).uni x.c).toNat x.d }) := by
  unfold execReadlane
  exact simtOnly_done ⟨h, rfl⟩ hp (if_neg (Nat.not_lt.mpr hlane))

end

/-- Settles O16: PAND to PGET are computations in the lanes, VOTE, BALLOT and READLANE of a uniform result. -/
theorem predicateRows : Obligations.PredicateRows := by
  unfold Obligations.PredicateRows
  rintro s gid sp g p rd ⟨hat, rfl⟩
  refine ⟨?rows, fun x hp => ?pset, fun x hp => ?pget, fun x hp => ?vote, fun x hp => ?ballot, fun x hp => ⟨?readlane, ?lane⟩⟩
  case rows =>
    intro row hrow x hp
    have hexec : exec (row.1 x) s = predRow row.2 x s := by
      simp only [List.mem_cons, List.not_mem_nil, or_false] at hrow
      rcases hrow with rfl | rfl | rfl | rfl <;> rfl
    exact hexec.trans (predRow_next _ x hat hp)
  case pset => exact (vecAlu_next hat hp rfl : execPset x s = _)
  case pget => exact (vecAlu_next hat hp rfl : execPget x s = _)
  case vote => exact (simtUniVar_next hat hp rfl : execVote x s = _)
  case ballot => exact (simtUniVar_next hat hp rfl : execBallot x s = _)
  case readlane => exact execReadlane_next hat hp
  case lane =>
    intro hlane
    change execReadlane x s = _
    unfold execReadlane
    exact simtOnly_simtFault ⟨hat, rfl⟩ hp (if_pos hlane) (by decide)

end Sys2Proof.Machine

/-! ## What an instruction of both kinds of core does, completed or at fault (R160, R167) -/

namespace Sys2Proof.Machine

/-- Only an uncorrectable error or poison is logged with a thread's fault (R415). -/
theorem logThread_of_cause {cause : Nat} (h12 : cause ≠ 0x12) (h15 : cause ≠ 0x15) (s : State) (tid va : Nat) :
    s.logThread tid cause va = s := by
  unfold State.logThread
  dsimp only
  split
  · rw [if_neg (by simp [h12, h15])]
  · rfl

section

variable {s : State} {spec : Rd → Spec} {simt : Nat → Nat → Group → Split → Rd → Except (Nat × Nat) Done}
  {thread : Nat → Thread → Rd → Except (Nat × Nat) (State × Option W64)} {fixed : Bool}

/-- A fault of the body on a group, other than an XLAT. -/
theorem uniBoth_simtFault {gid sp : Nat} {g : Group} {p : Split} {c v : Nat} (h : s.AtSplit gid sp g p)
    (hp : g.Passes p (spec (s.rdSplit g sp p)) p.mask) (hd : simt gid sp g p (s.rdSplit g sp p) = .error (c, v)) (hc : c ≠ 6) :
    uniBoth s fixed spec simt thread = .next (s.simtFault gid sp c v) := by
  unfold uniBoth
  rw [issuer_split h]
  simp only [hd]
  exact congrArg _ ((issueSplit_error hp s gid sp fixed _).trans (issueFlt_of_not_xlat hc ..))

variable {tid : Nat} {t : Thread}

/-- A body that changes the thread alone, on a control core. -/
theorem uniBoth_threadDone {f : Thread → Thread} {next : Option W64} (h : s.AtThread tid t) (hp : t.Passes (spec (t.rd tid)))
    (hd : thread tid t (t.rd tid) = .ok (s.modThread tid f, next)) :
    uniBoth s fixed spec simt thread = .next (s.threadDone tid
      { f t with pc := next.getD ((f t).pc + BitVec.ofNat 64 (4 * (spec (t.rd tid)).len)) }) := by
  rw [uniBoth_thread h hp hd, modThread_modThread, h.2]
  rfl

/-- A body that only says where the thread goes on. -/
theorem uniBoth_threadGoes {next : Option W64} (h : s.AtThread tid t) (hp : t.Passes (spec (t.rd tid)))
    (hd : thread tid t (t.rd tid) = .ok (s, next)) :
    uniBoth s fixed spec simt thread = .next (s.threadDone tid
      { t with pc := next.getD (t.pc + BitVec.ofNat 64 (4 * (spec (t.rd tid)).len)) }) := by
  rw [uniBoth_thread h hp hd, State.modThread, h.2]
  rfl

/-- A fault of the body on a control core, with no error to log. -/
theorem uniBoth_threadFault {c v : Nat} (h : s.AtThread tid t) (hp : t.Passes (spec (t.rd tid)))
    (hd : thread tid t (t.rd tid) = .error (c, v)) (h12 : c ≠ 0x12) (h15 : c ≠ 0x15) :
    uniBoth s fixed spec simt thread = .next (s.threadFault tid c v) := by
  unfold uniBoth
  rw [issuer_thread h]
  simp only [hd]
  rw [issueThread_error hp, logThread_of_cause h12 h15]

end

end Sys2Proof.Machine

/-! ## O17: SETMODE, GETMODE and MODEF (R188, R189) -/

namespace Sys2Proof.Machine

theorem modefValue_ok {rd : Rd} {x : ACode} (mode : W32) (h : (rd.uni x.a).toNat < 2 ^ (modefField x.code).2) :
    modefValue rd x mode = .ok (modePut mode (modefField x.code).1 (modefField x.code).2 (rd.uni x.a).toNat) :=
  if_neg (Nat.not_le.mpr h)

theorem modefValue_error {rd : Rd} {x : ACode} (mode : W32) (h : 2 ^ (modefField x.code).2 ≤ (rd.uni x.a).toNat) :
    modefValue rd x mode = .error (2, 0) := if_pos h

theorem modeLast_append (q : List (Nat × W32)) (due : Nat) (m x : W32) : modeLast (q ++ [(due, x)]) m = x := by
  induction q generalizing m with
  | nil => rfl
  | cons y q ih => exact ih y.2

section

variable {s : State} {gid sp : Nat} {g : Group} {p : Split}

/-- A MODE write queues the new MODE in its split and clears the poison of the old (R189, R417). -/
theorem group?_putMode (hg : s.group? gid = some g) (x : W32) : (s.putMode gid sp x).group? gid
    = some ({ g with regs := g.regs.clean [3264 + sp] }.modSplit sp fun p => { p with modeQ := p.modeQ ++ [(s.ac + 4, x)] }) := by
  unfold State.putMode
  exact group?_modSplit (group?_modGroup_same hg _) ..

theorem execSetmode_split {x : Op1} (h : s.AtSplit gid sp g p) (hp : g.Passes p (Spec.of x.m x.len false x.a.uCodes []) p.mask) :
    execSetmode x s = .next ((s.putMode gid sp (((s.rdSplit g sp p).uni x.a).setWidth 32 &&& 0x00FFFFFF#32)).advance gid sp
      x.m x.len true none none) :=
  uniBoth_split h hp (d := Done.plain _) rfl

theorem execModef_split {x : ACode} (h : s.AtSplit gid sp g p)
    (hp : g.Passes p (Spec.of x.m x.len false ((s.rdSplit g sp p).modeCode :: x.a.uCodes) []) p.mask)
    (hfits : ((s.rdSplit g sp p).uni x.a).toNat < 2 ^ (modefField x.code).2) :
    execModef x s = .next ((s.putMode gid sp (modePut (modeLast p.modeQ p.mode) (modefField x.code).1 (modefField x.code).2
      ((s.rdSplit g sp p).uni x.a).toNat)).advance gid sp x.m x.len true none none) :=
  uniBoth_split h hp (d := Done.plain (s.putMode gid sp _)) (by simp only [modefValue_ok _ hfits])

theorem execModef_split_opnd {x : ACode} (h : s.AtSplit gid sp g p)
    (hp : g.Passes p (Spec.of x.m x.len false ((s.rdSplit g sp p).modeCode :: x.a.uCodes) []) p.mask)
    (hwide : 2 ^ (modefField x.code).2 ≤ ((s.rdSplit g sp p).uni x.a).toNat) :
    execModef x s = .next (s.simtFault gid sp 2 0) :=
  uniBoth_simtFault h hp (by simp only [modefValue_error _ hwide]) (by decide)

variable {tid : Nat} {t : Thread}

theorem execSetmode_thread {x : Op1} (h : s.AtThread tid t) (hp : t.Passes (Spec.of x.m x.len false x.a.uCodes [])) :
    execSetmode x s = .next (s.threadDone tid ((t.putMode (((t.rd tid).uni x.a).setWidth 32 &&& 0x00FFFFFF#32)).onward x.len)) :=
  uniBoth_threadDone h hp (f := fun t => t.putMode _) (next := none) rfl

theorem execModef_thread {x : ACode} (h : s.AtThread tid t)
    (hp : t.Passes (Spec.of x.m x.len false ((t.rd tid).modeCode :: x.a.uCodes) []))
    (hfits : ((t.rd tid).uni x.a).toNat < 2 ^ (modefField x.code).2) :
    execModef x s = .next (s.threadDone tid
      ((t.putMode (modePut t.mode (modefField x.code).1 (modefField x.code).2 ((t.rd tid).uni x.a).toNat)).onward x.len)) :=
  uniBoth_threadDone h hp (f := fun t => t.putMode _) (next := none) (by simp only [modefValue_ok (t.rd tid).mode hfits]; rfl)

theorem execModef_thread_opnd {x : ACode} (h : s.AtThread tid t)
    (hp : t.Passes (Spec.of x.m x.len false ((t.rd tid).modeCode :: x.a.uCodes) []))
    (hwide : 2 ^ (modefField x.code).2 ≤ ((t.rd tid).uni x.a).toNat) : execModef x s = .next (s.threadFault tid 2 0) :=
  uniBoth_threadFault h hp (by simp only [modefValue_error _ hwide]) (by decide) (by decide)

end

/-- Settles O17: the three instructions on either kind of core, and what a MODE write leaves as it was. -/
theorem modeInstructions : Obligations.ModeInstructions := by
  unfold Obligations.ModeInstructions
  refine ⟨?group, ?thread, fun s gid sp g p x hg hsp => ?put, fun t x => ⟨rfl, rfl, rfl, rfl, rfl⟩,
    fun ac due q m x => ⟨rfl, modeLast_append ..⟩⟩
  case group =>
    rintro s gid sp g p rd ⟨hat, rfl⟩
    exact ⟨fun x hp => execSetmode_split hat hp, fun x hp => (uniAlu_split hat hp rfl : execGetmode x s = _),
      fun x hp => ⟨execModef_split hat hp, execModef_split_opnd hat hp⟩⟩
  case thread =>
    intro s tid t hat
    exact ⟨fun x hp => execSetmode_thread hat hp, fun x hp => (uniAlu_thread hat hp rfl : execGetmode x s = _),
      fun x hp => ⟨execModef_thread hat hp, execModef_thread_opnd hat hp⟩⟩
  case put =>
    rw [group?_putMode hg]
    refine ⟨?_, rfl⟩
    rw [Option.bind_some, split?_modSplit_same]
    exact congrArg _ hsp

end Sys2Proof.Machine

/-! ## O25: branches on a group (R162, R190 to R192, R295, R429) -/

namespace Sys2Proof.Machine

theorem direct_of_unaligned (pc : W64) {off : W32} (h : off.toNat % 4 ≠ 0) :
    direct pc off = .error (9, (pc + off.signExtend 64).toNat) := by
  simp [direct, offBad, directTarget, h]

theorem indirect_of_point {s : State} {g : Group} {x : W64} (halign : x.toNat % 4 = 0) (hpoint : (s.ordinalOf g x).isSome = true) :
    s.indirect g x = .ok x := by
  simp [State.indirect, halign, Option.isNone_eq_false_iff.mpr hpoint]

theorem indirect_of_unaligned {s : State} {g : Group} {x : W64} (h : x.toNat % 4 ≠ 0) : s.indirect g x = .error (9, x.toNat) :=
  if_pos h

theorem indirect_of_no_point {s : State} {g : Group} {x : W64} (halign : x.toNat % 4 = 0) (hpoint : s.ordinalOf g x = none) :
    s.indirect g x = .error (3, 0) := by
  simp [State.indirect, halign, hpoint]

/-- BRQ branches where its operand's being nonzero differs from Z (R191). -/
theorem brqTaken_iff (x : BrqI) (rd : Rd) : brqTaken x rd = true ↔ (rd.uni x.c ≠ 0#64 ↔ x.z = false) := by
  unfold brqTaken
  cases x.z <;> simp

theorem brqTaken_eq_false_iff (x : BrqI) (rd : Rd) : brqTaken x rd = false ↔ (rd.uni x.c ≠ 0#64 ↔ x.z = true) := by
  unfold brqTaken
  cases x.z <;> simp

/-! ### Tracing takes no time -/

@[simp] theorem stage_ac (s : State) (k q : Nat) (pk : List Byte) : (s.stage k q pk).ac = s.ac := by
  unfold State.stage
  dsimp only
  split
  · rfl
  · split <;> rfl

@[simp] theorem syncPoint_ac (s : State) (gid : Nat) (g : Group) : (s.syncPoint gid g).ac = s.ac := by
  unfold State.syncPoint
  exact foldl_keeps State.ac (fun t a => stage_ac ..) _ _

@[simp] theorem traceSwitch_ac (s : State) (gid : Nat) (g : Group) (sw : Option Nat) : (s.traceSwitch gid g sw).ac = s.ac := by
  unfold State.traceSwitch
  dsimp only
  split
  · split
    · rfl
    · exact stage_ac ..
  · rfl

@[simp] theorem tracePacket_ac (s : State) (gid ty : Nat) (sw : Option Nat) (delta : Bool) (body : List Byte) :
    (s.tracePacket gid ty sw delta body).ac = s.ac := by
  unfold State.tracePacket
  split
  · rfl
  next g _ =>
    unfold State.tracePacketOf
    split
    · rfl
    · dsimp only
      refine (stage_ac ..).trans ?_
      split <;> split <;> split <;> simp

@[simp] theorem traceIndirect_ac (s : State) (gid sp : Nat) (g : Group) (x : W64) : (s.traceIndirect gid sp g x).ac = s.ac :=
  tracePacket_ac ..

/-! ### The branches -/

section

variable {s : State} {gid sp : Nat} {g : Group} {p : Split}

theorem execBra_split {x : BraI} (h : s.AtSplit gid sp g p) (hp : g.Passes p (Spec.branch x.m 2 false [] []) p.mask)
    (halign : x.off.toNat % 4 = 0) :
    execBra x s = .next (s.advance gid sp x.m 2 false (some (p.pc + x.off.signExtend 64)) none) :=
  uniBoth_split h hp (d := ⟨s, some (p.pc + x.off.signExtend 64), none, id⟩) (by simp only [direct_of_aligned _ halign])

theorem execBra_split_align {x : BraI} (h : s.AtSplit gid sp g p) (hp : g.Passes p (Spec.branch x.m 2 false [] []) p.mask)
    (halign : x.off.toNat % 4 ≠ 0) : execBra x s = .next (s.simtFault gid sp 9 (p.pc + x.off.signExtend 64).toNat) :=
  uniBoth_simtFault h hp (by simp only [direct_of_unaligned _ halign]) (by decide)

theorem execBrq_split {x : BrqI} (h : s.AtSplit gid sp g p)
    (hp : g.Passes p (Spec.branch x.m x.len false x.c.uCodes []) p.mask) (halign : x.off.toNat % 4 = 0) :
    execBrq x s = .next ((s.tracePacket gid (if brqTaken x (s.rdSplit g sp p) then 2 else 3) (some sp) true []).advance gid sp x.m
      x.len false (if brqTaken x (s.rdSplit g sp p) then some (p.pc + x.off.signExtend 64) else none) none |>.syncDue gid) :=
  uniBoth_split h hp (d := ⟨_, _, none, fun s => s.syncDue gid⟩) (by simp only [direct_of_aligned _ halign]; rfl)

theorem execBrq_split_align {x : BrqI} (h : s.AtSplit gid sp g p)
    (hp : g.Passes p (Spec.branch x.m x.len false x.c.uCodes []) p.mask) (halign : x.off.toNat % 4 ≠ 0) :
    execBrq x s = .next (s.simtFault gid sp 9 (p.pc + x.off.signExtend 64).toNat) :=
  uniBoth_simtFault h hp (by simp only [direct_of_unaligned _ halign]) (by decide)

/-- RET branches as JMPI does (R191). -/
theorem execRet_eq : execRet = execJmpi := rfl

theorem execJmpi_split {x : R1} (h : s.AtSplit gid sp g p) (hp : g.Passes p (Spec.branch x.m 1 false [codeG x.r] []) p.mask)
    (halign : ((s.rdSplit g sp p).g x.r).toNat % 4 = 0) (hpoint : (s.ordinalOf g ((s.rdSplit g sp p).g x.r)).isSome = true) :
    execJmpi x s = .next ((s.traceIndirect gid sp g ((s.rdSplit g sp p).g x.r)).advance gid sp x.m 1 false
      (some ((s.rdSplit g sp p).g x.r)) none |>.syncDue gid) :=
  uniBoth_split h hp (d := ⟨_, _, none, fun s => s.syncDue gid⟩) (by simp only [indirect_of_point halign hpoint]; rfl)

theorem execJmpi_split_align {x : R1} (h : s.AtSplit gid sp g p)
    (hp : g.Passes p (Spec.branch x.m 1 false [codeG x.r] []) p.mask) (halign : ((s.rdSplit g sp p).g x.r).toNat % 4 ≠ 0) :
    execJmpi x s = .next (s.simtFault gid sp 9 ((s.rdSplit g sp p).g x.r).toNat) :=
  uniBoth_simtFault h hp (by simp only [indirect_of_unaligned halign]) (by decide)

theorem execJmpi_split_run {x : R1} (h : s.AtSplit gid sp g p)
    (hp : g.Passes p (Spec.branch x.m 1 false [codeG x.r] []) p.mask) (halign : ((s.rdSplit g sp p).g x.r).toNat % 4 = 0)
    (hpoint : s.ordinalOf g ((s.rdSplit g sp p).g x.r) = none) : execJmpi x s = .next (s.simtFault gid sp 3 0) :=
  uniBoth_simtFault h hp (by simp only [indirect_of_no_point halign hpoint]) (by decide)

theorem execCall_split {x : CallI} (h : s.AtSplit gid sp g p) (hp : g.Passes p (Spec.branch x.m 2 true [] [codeG x.d]) p.mask)
    (halign : x.off.toNat % 4 = 0) :
    execCall x s = .next ((s.putLink gid p x.d 2).advance gid sp x.m 2 false (some (p.pc + x.off.signExtend 64)) none) :=
  uniBoth_split h hp (d := ⟨_, _, none, id⟩) (by simp only [direct_of_aligned _ halign]; rfl)

theorem execCall_split_align {x : CallI} (h : s.AtSplit gid sp g p)
    (hp : g.Passes p (Spec.branch x.m 2 true [] [codeG x.d]) p.mask) (halign : x.off.toNat % 4 ≠ 0) :
    execCall x s = .next (s.simtFault gid sp 9 (p.pc + x.off.signExtend 64).toNat) :=
  uniBoth_simtFault h hp (by simp only [direct_of_unaligned _ halign]) (by decide)

/-- The link that a call writes at issue (log entry 105). -/
theorem putLink_eq {t : State} (hac : t.ac = s.ac) (p : Split) (d len : Nat) :
    t.putLink gid p d len = t.modGroup gid fun g => { g with
      regs := g.regs.write s.ac (RegWrites.gOne d (p.pc + BitVec.ofNat 64 (4 * len))) } := by
  rw [State.putLink, hac]

variable {x : Rr}

theorem execCalli_split (h : s.AtSplit gid sp g p) (hp : g.Passes p (Spec.branch x.m 1 true [codeG x.a] [codeG x.d]) p.mask)
    (halign : ((s.rdSplit g sp p).g x.a).toNat % 4 = 0) (hpoint : (s.ordinalOf g ((s.rdSplit g sp p).g x.a)).isSome = true) :
    execCalli x s = .next (((s.traceIndirect gid sp g ((s.rdSplit g sp p).g x.a)).putLink gid p x.d 1).advance gid sp x.m 1 false
      (some ((s.rdSplit g sp p).g x.a)) none |>.syncDue gid) :=
  uniBoth_split h hp (d := ⟨_, _, none, fun s => s.syncDue gid⟩) (by simp only [indirect_of_point halign hpoint]; rfl)

theorem execCalli_split_align (h : s.AtSplit gid sp g p)
    (hp : g.Passes p (Spec.branch x.m 1 true [codeG x.a] [codeG x.d]) p.mask) (halign : ((s.rdSplit g sp p).g x.a).toNat % 4 ≠ 0) :
    execCalli x s = .next (s.simtFault gid sp 9 ((s.rdSplit g sp p).g x.a).toNat) :=
  uniBoth_simtFault h hp (by simp only [indirect_of_unaligned halign]) (by decide)

theorem execCalli_split_run (h : s.AtSplit gid sp g p)
    (hp : g.Passes p (Spec.branch x.m 1 true [codeG x.a] [codeG x.d]) p.mask) (halign : ((s.rdSplit g sp p).g x.a).toNat % 4 = 0)
    (hpoint : s.ordinalOf g ((s.rdSplit g sp p).g x.a) = none) : execCalli x s = .next (s.simtFault gid sp 3 0) :=
  uniBoth_simtFault h hp (by simp only [indirect_of_no_point halign hpoint]) (by decide)

end

/-- Settles O25: each branch answers its target or its fault, and the bookkeeping of its issue follows. -/
theorem branchesOnGroups : Obligations.BranchesOnGroups := by
  unfold Obligations.BranchesOnGroups
  rintro s gid sp g p rd ⟨hat, rfl⟩
  refine ⟨fun x hp => ⟨execBra_split hat hp, execBra_split_align hat hp⟩,
    fun x hp halign => ⟨fun htaken => ?taken, fun hnot => ?untaken⟩, fun x hp => execBrq_split_align hat hp, ?jumps,
    fun x hp halign => ?call, fun x hp => execCall_split_align hat hp,
    fun x hp => ⟨execCalli_split_align hat hp, execCalli_split_run hat hp⟩, fun x hp halign hpoint => ?calli⟩
  case taken =>
    have hexec := execBrq_split hat hp halign
    rw [(brqTaken_iff ..).mpr htaken] at hexec
    exact hexec
  case untaken =>
    have hexec := execBrq_split hat hp halign
    rw [(brqTaken_eq_false_iff ..).mpr hnot] at hexec
    exact hexec
  case jumps =>
    intro b hb x hp
    have hexec : exec (b x) s = execJmpi x s := by
      simp only [List.mem_cons, List.not_mem_nil, or_false] at hb
      rcases hb with rfl | rfl <;> rfl
    rw [hexec]
    exact ⟨execJmpi_split hat hp, execJmpi_split_align hat hp, execJmpi_split_run hat hp⟩
  case call =>
    have hexec := execCall_split hat hp halign
    rw [putLink_eq rfl] at hexec
    exact hexec
  case calli =>
    have hexec := execCalli_split hat hp halign hpoint
    rw [putLink_eq (traceIndirect_ac ..)] at hexec
    exact hexec

end Sys2Proof.Machine

/-! ## O26: branches, traps and the end of a control thread (R160, R191, R192, R195, R198, R202) -/

namespace Sys2Proof.Machine

theorem indirectThread_of_aligned {x : W64} (h : x.toNat % 4 = 0) : indirectThread x = .ok x := by simp [indirectThread, h]

theorem indirectThread_of_unaligned {x : W64} (h : x.toNat % 4 ≠ 0) : indirectThread x = .error (9, x.toNat) := if_pos h

/-- A trap puts the thread last: putting its pc again changes nothing. -/
theorem trap_modThread_pc (s : State) (tid : Nat) (tr : Trap) :
    ((s.trap tid tr).modThread tid fun u => { u with pc := ((s.trap tid tr).thread tid).pc }) = s.trap tid tr := by
  obtain ⟨u, x, hput⟩ : ∃ (u : State) (x : Thread), s.trap tid tr = u.putThread tid x := ⟨_, _, rfl⟩
  rw [hput, State.modThread, thread_putThread_same, putThread_putThread]

section

variable {s : State} {tid : Nat} {t : Thread}

theorem execBra_thread {x : BraI} (h : s.AtThread tid t) (hp : t.Passes (Spec.branch x.m 2 false [] []))
    (halign : x.off.toNat % 4 = 0) : execBra x s = .next (s.threadDone tid { t with pc := t.pc + x.off.signExtend 64 }) :=
  uniBoth_threadGoes h hp (next := some _) (by simp only [direct_of_aligned _ halign])

theorem execBra_thread_align {x : BraI} (h : s.AtThread tid t) (hp : t.Passes (Spec.branch x.m 2 false [] []))
    (halign : x.off.toNat % 4 ≠ 0) : execBra x s = .next (s.threadFault tid 9 (t.pc + x.off.signExtend 64).toNat) :=
  uniBoth_threadFault h hp (by simp only [direct_of_unaligned _ halign]) (by decide) (by decide)

theorem execBrq_thread {x : BrqI} (h : s.AtThread tid t) (hp : t.Passes (Spec.branch x.m x.len false x.c.uCodes []))
    (halign : x.off.toNat % 4 = 0) : execBrq x s = .next (s.threadDone tid (if brqTaken x (t.rd tid) then
      { t with pc := t.pc + x.off.signExtend 64 } else t.onward x.len)) := by
  refine (uniBoth_threadGoes h hp (next := if brqTaken x (t.rd tid) then some (t.pc + x.off.signExtend 64) else none)
    (by simp only [direct_of_aligned _ halign])).trans ?_
  split <;> rfl

theorem execBrq_thread_align {x : BrqI} (h : s.AtThread tid t) (hp : t.Passes (Spec.branch x.m x.len false x.c.uCodes []))
    (halign : x.off.toNat % 4 ≠ 0) : execBrq x s = .next (s.threadFault tid 9 (t.pc + x.off.signExtend 64).toNat) :=
  uniBoth_threadFault h hp (by simp only [direct_of_unaligned _ halign]) (by decide) (by decide)

theorem execJmpi_thread {x : R1} (h : s.AtThread tid t) (hp : t.Passes (Spec.branch x.m 1 false [codeG x.r] []))
    (halign : ((t.rd tid).g x.r).toNat % 4 = 0) : execJmpi x s = .next (s.threadDone tid { t with pc := (t.rd tid).g x.r }) :=
  uniBoth_threadGoes h hp (next := some _) (by simp only [indirectThread_of_aligned halign])

theorem execJmpi_thread_align {x : R1} (h : s.AtThread tid t) (hp : t.Passes (Spec.branch x.m 1 false [codeG x.r] []))
    (halign : ((t.rd tid).g x.r).toNat % 4 ≠ 0) : execJmpi x s = .next (s.threadFault tid 9 ((t.rd tid).g x.r).toNat) :=
  uniBoth_threadFault h hp (by simp only [indirectThread_of_unaligned halign]) (by decide) (by decide)

theorem execCall_thread {x : CallI} (h : s.AtThread tid t) (hp : t.Passes (Spec.branch x.m 2 true [] [codeG x.d]))
    (halign : x.off.toNat % 4 = 0) : execCall x s = .next (s.threadDone tid { t.write (RegWrites.gOne x.d (t.pc + 8#64)) with
      pc := t.pc + x.off.signExtend 64 }) :=
  uniBoth_threadDone h hp (f := fun t => t.write (RegWrites.gOne x.d (t.pc + 8#64))) (next := some _)
    (by simp only [direct_of_aligned _ halign])

theorem execCall_thread_align {x : CallI} (h : s.AtThread tid t) (hp : t.Passes (Spec.branch x.m 2 true [] [codeG x.d]))
    (halign : x.off.toNat % 4 ≠ 0) : execCall x s = .next (s.threadFault tid 9 (t.pc + x.off.signExtend 64).toNat) :=
  uniBoth_threadFault h hp (by simp only [direct_of_unaligned _ halign]) (by decide) (by decide)

theorem execCalli_thread {x : Rr} (h : s.AtThread tid t) (hp : t.Passes (Spec.branch x.m 1 true [codeG x.a] [codeG x.d]))
    (halign : ((t.rd tid).g x.a).toNat % 4 = 0) : execCalli x s = .next (s.threadDone tid
      { t.write (RegWrites.gOne x.d (t.pc + 4#64)) with pc := (t.rd tid).g x.a }) :=
  uniBoth_threadDone h hp (f := fun t => t.write (RegWrites.gOne x.d (t.pc + 4#64))) (next := some _)
    (by simp only [indirectThread_of_aligned halign])

theorem execCalli_thread_align {x : Rr} (h : s.AtThread tid t) (hp : t.Passes (Spec.branch x.m 1 true [codeG x.a] [codeG x.d]))
    (halign : ((t.rd tid).g x.a).toNat % 4 ≠ 0) : execCalli x s = .next (s.threadFault tid 9 ((t.rd tid).g x.a).toNat) :=
  uniBoth_threadFault h hp (by simp only [indirectThread_of_unaligned halign]) (by decide) (by decide)

theorem execYield_thread {x : Op0} (h : s.AtThread tid t) (hp : t.Passes (Spec.branch x.m 1 false [] [])) :
    execYield x s = .next (s.threadDone tid (t.onward 1)) :=
  uniBoth_threadGoes h hp (next := none) rfl

/-- Outside an enclave, EXIT stops its thread and nothing else (R202). -/
theorem threadExit_of_host (heid : t.eid = 0) (s : State) (tid : Nat) :
    s.threadExit tid t = s.modThread tid fun u => { u with running := false } := by
  simp [State.threadExit, heid]

theorem execExit_thread {x : Op0} (h : s.AtThread tid t) (hp : t.Passes (Spec.branch x.m 1 false [] [])) (heid : t.eid = 0) :
    execExit x s = .next (s.threadDone tid ({ t with running := false }.onward 1)) :=
  uniBoth_threadDone h hp (f := fun u => { u with running := false }) (next := none)
    (by simp only [threadExit_of_host heid])

/-- What traps in its body goes on at the vector (R198). -/
theorem uniBoth_trapped {spec : Rd → Spec} {simt : Nat → Nat → Group → Split → Rd → Except (Nat × Nat) Done}
    {thread : Nat → Thread → Rd → Except (Nat × Nat) (State × Option W64)} {fixed : Bool} {tr : Trap} (h : s.AtThread tid t)
    (hp : t.Passes (spec (t.rd tid))) (hd : thread tid t (t.rd tid) = trapped (s.trap tid tr) tid) :
    uniBoth s fixed spec simt thread = .next (s.trap tid tr).pop := by
  rw [uniBoth_thread h hp hd]
  exact congrArg (fun u : State => (.next u.pop : Out)) (trap_modThread_pc s tid tr)

end

/-- Settles O26: each instruction's body answers on a control core, and the thread goes on where it says. -/
theorem branchesOnControlCores : Obligations.BranchesOnControlCores := by
  unfold Obligations.BranchesOnControlCores
  intro s tid t hat
  refine ⟨fun x hp => ⟨execBra_thread hat hp, execBra_thread_align hat hp⟩, fun x hp halign => ?brq,
    fun x hp => execBrq_thread_align hat hp, ?jumps, fun x hp => execCall_thread hat hp, fun x hp => execCall_thread_align hat hp,
    fun x hp => execCalli_thread_align hat hp, fun x hp => execCalli_thread hat hp,
    fun x hp => ⟨execYield_thread hat hp, execExit_thread hat hp⟩, ?traps⟩
  case brq =>
    have hexec := execBrq_thread hat hp halign
    simp only [brqTaken_iff] at hexec
    exact hexec
  case jumps =>
    intro b hb x hp
    have hexec : exec (b x) s = execJmpi x s := by
      simp only [List.mem_cons, List.not_mem_nil, or_false] at hb
      rcases hb with rfl | rfl <;> rfl
    rw [hexec]
    exact ⟨execJmpi_thread hat hp, execJmpi_thread_align hat hp⟩
  case traps =>
    intro k hk x hp
    simp only [List.mem_cons, List.not_mem_nil, or_false] at hk
    rcases hk with rfl | rfl
    · exact (uniBoth_trapped hat hp rfl : execTrap x s = _)
    · exact (uniBoth_trapped hat hp rfl : execBkpt x s = _)

end Sys2Proof.Machine

namespace Sys2Proof.Machine

/-! ### UNDEF on the other kind of core, and PRIV below the level (R165, R269) -/

theorem threadOnly_simtFault {s : State} {gid sp : Nat} {g : Group} {p : Split} (h : s.AtSplit gid sp g p) {level : Nat}
    {spec : Rd → Spec} {body : Nat → Thread → Rd → Except (Nat × Nat) (State × Option W64)} :
    threadOnly s level spec body = .next (s.simtFault gid sp 1 0) := issuer_split h _ _

theorem sysOp_simtFault {s : State} {gid sp : Nat} {g : Group} {p : Split} (h : s.AtSplit gid sp g p) {level : Nat}
    {m : Marks} {len d : Nat} {bad : Bool} {srcs : List Nat} {body : Nat → Thread → Rd → Except (Nat × Nat) Sys} :
    sysOp s level m len d bad srcs body = .next (s.simtFault gid sp 1 0) := threadOnly_simtFault h

theorem handoverOp_simtFault {s : State} {gid sp : Nat} {g : Group} {p : Split} (h : s.AtSplit gid sp g p) {m : Marks}
    {d a : Nat} {srcs : List Nat} {body : State → Nat → Rd → Nat → Except (Nat × Nat) Sys} :
    handoverOp s m d a srcs body = .next (s.simtFault gid sp 1 0) := threadOnly_simtFault h

theorem partctl_simtFault {x : Rrr} {s : State} {gid sp : Nat} {g : Group} {p : Split} (h : s.AtSplit gid sp g p)
    {img : Bool} {body : Nat → List Nat → Rd → Except (Nat × Nat) State} :
    partctl x s img body = .next (s.simtFault gid sp 1 0) := threadOnly_simtFault h

theorem sysOp_priv {s : State} {tid : Nat} {t : Thread} (h : s.AtThread tid t) {level : Nat} {m : Marks} {len d : Nat}
    {bad : Bool} {srcs : List Nat} {body : Nat → Thread → Rd → Except (Nat × Nat) Sys} (hl : t.lvl < level) :
    sysOp s level m len d bad srcs body = .next (s.threadFault tid 5 0) := threadOnly_priv h hl

theorem handoverOp_priv {s : State} {tid : Nat} {t : Thread} (h : s.AtThread tid t) {m : Marks} {d a : Nat}
    {srcs : List Nat} {body : State → Nat → Rd → Nat → Except (Nat × Nat) Sys} (hl : t.lvl < 1) :
    handoverOp s m d a srcs body = .next (s.threadFault tid 5 0) := threadOnly_priv h hl

theorem partctl_priv {x : Rrr} {s : State} {tid : Nat} {t : Thread} (h : s.AtThread tid t) {img : Bool}
    {body : Nat → List Nat → Rd → Except (Nat × Nat) State} (hl : t.lvl < 2) :
    partctl x s img body = .next (s.threadFault tid 5 0) := threadOnly_priv h hl

/-- R165: what a group alone can do is UNDEF for a control thread; its form asks for the issuing group before anything else. -/
theorem exec_undef_thread {i : Instr} {r : Raw} {s : State} {tid : Nat} {t : Thread} (hr : i.toRaw = some r) (h : s.AtThread tid t)
    (hu : undefThread r.u r.op = true) : exec i s = .next (s.threadFault tid 1 0) := by
  obtain ⟨ac, free, turns, agenda, module, dies, parts, simt, store, hub⟩ := s
  obtain ⟨ht, rfl⟩ := h
  obtain ⟨rest, rfl⟩ := List.head?_eq_some_iff.mp ht
  cases i
  case iadd | isub | imul | imulh | imad | imin | imax | iabs | ineg | andV | orV | xorV | andn | notV | shl | shr | sar
    | rotl | bfx | bfi | popc | clz | ctz | brev | idp4 | idiv | irem | mov | sel | icmp | mulw | prmt | fadd | fsub |
    fmul | ffma | fmin | fmax | fabs | fneg | fcmp | frcp | frsq | fsqrt | fexp2 | flog2 | fsin | fcos | fdiv | frnd |
    fclass | fdot2 | cvt | cvtpk | cvtn8 | cvtn4 | cvtw | pack6 | unpk6 | mxsc | cmpr24 | srseed | shfl | shflx | shflup |
    shfldn | redadd | redmin | redmax | redand | redor | redxor | minidx | maxidx | scanadd | matchV | ld | st | ldl | stl
    | ldl4 | stl4 | gld | gst | ldacq | strel | stnt | pref | atomv | redv | acrd | acwr | pand | por | pxor | pandn |
    pset | pget | cpy | publish | mma | brv | join | spawn | readlane | vote | ballot | mfence | mwait | bararr | barwait
    | barsync | bardef | mmag | msetaux | aczero | accpy | cbdrain | cbsave | cbload | cbmerge | cbclr | cbdrainw =>
    rfl
  all_goals cases hr
  all_goals exact absurd hu Bool.false_ne_true

/-- R165: what a control thread alone can do is UNDEF for a group. -/
theorem exec_undef_simt {i : Instr} {r : Raw} {s : State} {gid sp : Nat} {g : Group} {p : Split} (hr : i.toRaw = some r)
    (h : s.AtSplit gid sp g p) (hu : undefSimt r.u r.op = true) : exec i s = .next (s.simtFault gid sp 1 0) := by
  cases i
  case ecreate x => exact (threadOnly_simtFault h : execEcreate x s = _)
  case eenter x => exact (threadOnly_simtFault h : execEenter x s = _)
  case eexit x => exact (threadOnly_simtFault h : execEexit x s = _)
  case edestroy x => exact (sysOp_simtFault h : execEdestroy x s = _)
  case pgassign x => exact (sysOp_simtFault h : execPgassign x s = _)
  case pgseal x => exact (sysOp_simtFault h : execPgseal x s = _)
  case pgunseal x => exact (sysOp_simtFault h : execPgunseal x s = _)
  case ctxseal x => exact (threadOnly_simtFault h : execCtxseal x s = _)
  case ctxcommit x => exact (handoverOp_simtFault h : execCtxcommit x s = _)
  case ctxload x => exact (threadOnly_simtFault h : execCtxload x s = _)
  case tlbiAll x => exact (threadOnly_simtFault h : execTlbiAll x s = _)
  case tlbiPage x => exact (threadOnly_simtFault h : execTlbiPage x s = _)
  case tlbiSpace x => exact (threadOnly_simtFault h : execTlbiSpace x s = _)
  case syscall x => exact (threadOnly_simtFault h : execSyscall x s = _)
  case hvcall x => exact (threadOnly_simtFault h : execHvcall x s = _)
  case eret x => exact (threadOnly_simtFault h : execEret x s = _)
  case wfi x => exact (threadOnly_simtFault h : execWfi x s = _)
  case corerst x => exact (threadOnly_simtFault h : execCorerst x s = _)
  case partctlQuiesce x => exact (partctl_simtFault h : execPartctlQuiesce x s = _)
  case partctlWriteilv x => exact (partctl_simtFault h : execPartctlWriteilv x s = _)
  case partctlWritebnd x => exact (partctl_simtFault h : execPartctlWritebnd x s = _)
  case partctlShoot x => exact (partctl_simtFault h : execPartctlShoot x s = _)
  case partctlResume x => exact (partctl_simtFault h : execPartctlResume x s = _)
  case freeze x => exact (sysOp_simtFault h : execFreeze x s = _)
  case ctxabort x => exact (handoverOp_simtFault h : execCtxabort x s = _)
  all_goals cases hr
  all_goals exact absurd hu Bool.false_ne_true

/-- R165, R269: the level is compared before the operands are read. -/
theorem exec_priv {i : Instr} {r : Raw} {s : State} {tid : Nat} {t : Thread} (hr : i.toRaw = some r) (h : s.AtThread tid t)
    (hu : undefThread r.u r.op = false) (hl : t.lvl < opLevel r.op) : exec i s = .next (s.threadFault tid 5 0) := by
  cases i
  case mma x => cases hr; exact absurd hu Bool.noConfusion
  case ecreate x => cases hr; exact (threadOnly_priv h hl : execEcreate x s = _)
  case edestroy x => cases hr; exact (sysOp_priv h hl : execEdestroy x s = _)
  case pgassign x => cases hr; exact (sysOp_priv h hl : execPgassign x s = _)
  case pgseal x => cases hr; exact (sysOp_priv h hl : execPgseal x s = _)
  case pgunseal x => cases hr; exact (sysOp_priv h hl : execPgunseal x s = _)
  case ctxseal x => cases hr; exact (threadOnly_priv h hl : execCtxseal x s = _)
  case ctxcommit x => cases hr; exact (handoverOp_priv h hl : execCtxcommit x s = _)
  case ctxload x => cases hr; exact (threadOnly_priv h hl : execCtxload x s = _)
  case tlbiAll x => cases hr; exact (threadOnly_priv h hl : execTlbiAll x s = _)
  case tlbiPage x => cases hr; exact (threadOnly_priv h hl : execTlbiPage x s = _)
  case tlbiSpace x => cases hr; exact (threadOnly_priv h hl : execTlbiSpace x s = _)
  case corerst x => cases hr; exact (threadOnly_priv h hl : execCorerst x s = _)
  case partctlQuiesce x => cases hr; exact (partctl_priv h hl : execPartctlQuiesce x s = _)
  case partctlWriteilv x => cases hr; exact (partctl_priv h hl : execPartctlWriteilv x s = _)
  case partctlWritebnd x => cases hr; exact (partctl_priv h hl : execPartctlWritebnd x s = _)
  case partctlShoot x => cases hr; exact (partctl_priv h hl : execPartctlShoot x s = _)
  case partctlResume x => cases hr; exact (partctl_priv h hl : execPartctlResume x s = _)
  case freeze x => cases hr; exact (sysOp_priv h hl : execFreeze x s = _)
  case ctxabort x => cases hr; exact (handoverOp_priv h hl : execCtxabort x s = _)
  all_goals cases hr
  all_goals exact absurd hl (Nat.not_lt_zero _)

/-- Settles O22: of the instructions whose class the kind of core lacks, each asks for its issuer first. -/
theorem undefinedOnTheOtherCore : Obligations.UndefinedOnTheOtherCore := fun _ _ _ hr =>
  ⟨fun _ _ h hu => exec_undef_thread hr h hu, fun _ _ _ _ h hu => exec_undef_simt hr h hu⟩

/-- Settles O23: the form of every privileged instruction compares the level before it reads an operand. -/
theorem privilegedBelowTheirLevel : Obligations.PrivilegedBelowTheirLevel := fun _ _ _ _ _ hr h hu hl => exec_priv hr h hu hl

end Sys2Proof.Machine

namespace Sys2Proof.Machine

/-! ### Trap entry in the host domain (R272) -/

theorem trapStat_eq (stat : W32) (lvl : Nat) :
    trapStat stat lvl = BitVec.ofNat 32 (4 * lvl + 2 * (if stat.getLsbD 0 then 1 else 0)) := by
  have hbit : bitOf stat.toNat 0 = stat.getLsbD 0 := by
    simp [bitOf, BitVec.getLsbD, Nat.testBit, Nat.one_and_eq_mod_two]
  rw [trapStat, hbit, b01]

theorem causeWord_host (cls code : Nat) : causeWord false cls code = BitVec.ofNat 32 (256 * cls + code) := by
  simp [causeWord, b01]

/-- A thread after trap entry from the host domain. -/
def Thread.entered (t : Thread) (tr : Trap) : Thread :=
  let u := { t with wfi := false, wait := none, tupleWait := none, queued := none }
  if tr.level = 2 then
    { u with h := u.h.enter tr.epc (causeWord false tr.cls tr.code) tr.value u.lvl, lvl := 2, pc := u.h.vec }
  else { u with k := u.k.enter tr.epc (causeWord false tr.cls tr.code) tr.value u.lvl, lvl := 1, pc := u.k.vec }

theorem trap_of_host {s : State} {tid : Nat} (tr : Trap) (he : (s.thread tid).eid = 0) :
    s.trap tid tr = s.putThread tid ((s.thread tid).entered tr) := by
  have hne : ((s.thread tid).eid != 0) = false := by rw [he]; rfl
  unfold State.trap
  simp only [hne]
  rfl

theorem Thread.entered_hypervisor (t : Thread) {tr : Trap} (hl : tr.level = 2) :
    (t.entered tr).h = { t.h with epc := tr.epc, cause := BitVec.ofNat 32 (256 * tr.cls + tr.code), val := tr.value
                                  stat := BitVec.ofNat 32 (4 * t.lvl + 2 * (if t.h.stat.getLsbD 0 then 1 else 0)) }
      ∧ (t.entered tr).k = t.k ∧ (t.entered tr).lvl = 2 ∧ (t.entered tr).pc = t.h.vec := by
  rw [Thread.entered, if_pos hl, ← causeWord_host, ← trapStat_eq]
  exact ⟨rfl, rfl, rfl, rfl⟩

theorem Thread.entered_kernel (t : Thread) {tr : Trap} (hl : tr.level = 1) :
    (t.entered tr).k = { t.k with epc := tr.epc, cause := BitVec.ofNat 32 (256 * tr.cls + tr.code), val := tr.value
                                  stat := BitVec.ofNat 32 (4 * t.lvl + 2 * (if t.k.stat.getLsbD 0 then 1 else 0)) }
      ∧ (t.entered tr).h = t.h ∧ (t.entered tr).lvl = 1 ∧ (t.entered tr).pc = t.k.vec := by
  rw [Thread.entered, if_neg (by omega), ← causeWord_host, ← trapStat_eq]
  exact ⟨rfl, rfl, rfl, rfl⟩

/-- Trap entry writes neither general registers nor MODE, domain or page tables. -/
theorem Thread.entered_keeps (t : Thread) (tr : Trap) : (t.entered tr).g = t.g ∧ (t.entered tr).q = t.q
    ∧ (t.entered tr).fstat = t.fstat ∧ (t.entered tr).mode = t.mode ∧ (t.entered tr).eid = t.eid
    ∧ (t.entered tr).ptroot = t.ptroot ∧ (t.entered tr).hgpt = t.hgpt := by
  unfold Thread.entered
  split <;> exact ⟨rfl, rfl, rfl, rfl, rfl, rfl, rfl⟩

/-- The trap of a fault of a thread in the host domain (R272). -/
def Thread.faultTrap (t : Thread) (cause value : Nat) : Trap :=
  ⟨0, cause, faultLevel t.lvl, t.pc,
    if cause = 6 ∨ cause = 7 ∨ cause = 8 ∨ cause = 9 then BitVec.ofNat 64 value else 0#64, false⟩

theorem threadFault_of_host {s : State} {tid : Nat} (cause value : Nat) (he : (s.thread tid).eid = 0) :
    s.threadFault tid cause value
      = (s.putThread tid ((s.thread tid).entered ((s.thread tid).faultTrap cause value))).pop := by
  have haddr : ((s.thread tid).eid ≠ 0 ∨ faultHasAddress cause = true) ↔ cause = 6 ∨ cause = 7 ∨ cause = 8 ∨ cause = 9 := by
    simp [faultHasAddress, he]
  unfold State.threadFault
  simp only [haddr]
  rw [trap_of_host _ he]
  rfl

/-- Settles O43: in the host domain a trap changes one thread only, and a fault is one such trap. -/
theorem trapEntry : Obligations.TrapEntry := by
  refine ⟨?trap, ?fault⟩
  case trap =>
    rintro s tid t tr rfl he hlevel - u rfl
    obtain ⟨hg, hq, hfstat, hmode, heid, hroot, hhgpt⟩ := (s.thread tid).entered_keeps tr
    rw [trap_of_host tr he, thread_putThread_same]
    exact ⟨fun hl => (s.thread tid).entered_hypervisor hl, fun hl => (s.thread tid).entered_kernel hl, hg, hq, hfstat, hmode,
      heid.trans he, hroot, hhgpt, rfl, rfl, fun k hk => thread_putThread_other s _ hk⟩
  case fault =>
    rintro s tid t cause value rfl he hlvl u rfl
    rw [threadFault_of_host cause value he, thread_pop, thread_putThread_same]
    refine ⟨fun hl => ?_, fun hl => ?_, ((s.thread tid).entered_keeps _).1, rfl, rfl⟩
    · obtain ⟨hk, -, hlvl', hpc⟩ := (s.thread tid).entered_kernel (tr := (s.thread tid).faultTrap cause value)
        (if_neg (by omega))
      rw [hk]
      exact ⟨hlvl', hpc, rfl, by simp [Thread.faultTrap], rfl⟩
    · obtain ⟨hh, -, hlvl', hpc⟩ := (s.thread tid).entered_hypervisor (tr := (s.thread tid).faultTrap cause value)
        (if_pos hl)
      rw [hh]
      exact ⟨hlvl', hpc, rfl, by simp [Thread.faultTrap], rfl⟩

end Sys2Proof.Machine

namespace Sys2Proof.Machine

/-! ### The writeback events (R158, R159) -/

/-- A split whose waiting safe points are all later keeps them. -/
theorem later_of_all {ac : Nat} {p : Split} (h : ∀ y ∈ p.spQ, ac < y.due) :
    ({ p with spQ := p.spQ.filter fun x => decide (ac < x.due) } : Split) = p := by
  rw [List.filter_eq_self.mpr fun y hy => decide_eq_true (h y hy)]

theorem writeback_of_no_point {s : State} {gid : Nat} {g : Group} (hg : s.group? gid = some g)
    (hsplits : ∀ q ∈ g.splits, ∀ y ∈ q.2.spQ, s.ac < y.due) (hsets : ∀ q ∈ g.sets, ∀ y ∈ q.spQ, s.ac < y.due) :
    s.writeback gid = s.putGroup gid { g with
      regs := (g.fixed.filter fun x => decide (x.due ≤ s.ac)).foldl (fun r x => r.write s.ac x.w) g.regs
      fixed := g.fixed.filter fun x => decide (s.ac < x.due) } := by
  have hmap : (g.splits.map fun p => (p.1, ({ p.2 with spQ := p.2.spQ.filter fun x => decide (s.ac < x.due) } : Split)))
      = g.splits := by
    conv_rhs => rw [← List.map_id g.splits]
    exact List.map_congr_left fun q hq => congrArg (Prod.mk q.1) (later_of_all (hsplits q hq))
  have hmapSets : (g.sets.map fun p => ({ p with spQ := p.spQ.filter fun x => decide (s.ac < x.due) } : Split)) = g.sets := by
    conv_rhs => rw [← List.map_id g.sets]
    exact List.map_congr_left fun q hq => later_of_all (hsets q hq)
  have hnone : ((g.splits.map Prod.snd ++ g.sets).flatMap Split.spQ).filter (fun x => decide (x.due ≤ s.ac)) = [] := by
    refine List.filter_eq_nil_iff.mpr fun y hy => ?_
    obtain ⟨p, hp, hyp⟩ := List.mem_flatMap.mp hy
    have hlt : s.ac < y.due := by
      rcases List.mem_append.mp hp with hp | hp
      · obtain ⟨q, hq, rfl⟩ := List.mem_map.mp hp
        exact hsplits q hq y hyp
      · exact hsets p hp y hyp
    simpa using hlt
  unfold State.writeback
  simp only [hg, hmap, hmapSets, hnone, List.foldl_nil]

/-- Settles O19: the due results go to the registers in the order they wait in. -/
theorem fixedLatencyWriteback : Obligations.FixedLatencyWriteback := by
  refine ⟨fun s gid g hg hsplits hsets => congrArg Host.Outcome.next (writeback_of_no_point hg hsplits hsets), ?put, ?alu⟩
  case put =>
    intro s gid g act w hg
    have hput : (s.putFixed gid act w).group? gid = some { g with fixed := g.fixed ++ [⟨s.ac + 4, act, w⟩] } :=
      group?_modGroup_same hg _
    rw [hput]
    exact ⟨rfl, List.mem_append_right _ (List.mem_singleton_self _), rfl⟩
  case alu =>
    intro s gid id g f hg hf hkind hacc hheld
    have hexec : execVariableLatencyResult gid id s
        = .next (((s.writeRegs gid f.w).finishFlight gid id).arrived g.place.ctx f) := by
      unfold execVariableLatencyResult
      simp only [hg, hf, hheld, hacc, hkind]
      rfl
    rw [State.arrived, hkind] at hexec
    exact hexec

end Sys2Proof.Machine

namespace Sys2Proof.Machine

/-! ### What an issue leaves of the groups' registers (R158) -/

/-- A map over a table's entries that keeps the keys, seen through `F`. -/
theorem Tbl.get?_map_of_keeps {α β : Type} {f : Nat × α → Nat × α} {F : α → β} (hkey : ∀ x, (f x).1 = x.1)
    (hF : ∀ x, F (f x).2 = F x.2) (t : Table α) (n : Nat) : (Tbl.get? (t.map f) n).map F = (Tbl.get? t n).map F := by
  induction t with
  | nil => rfl
  | cons x t ih =>
    rw [List.map_cons, ← Prod.eta (f x), ← Prod.eta x, Tbl.get?_cons, Tbl.get?_cons, hkey x]
    split
    · exact congrArg some (hF x)
    · exact ih

/-- What stays of a group as an instruction issues: of the issuing group all registers but the SR states. -/
def Group.atIssue (own : Bool) (g : Group) : Regs × Place :=
  (if own then { g.regs with sr := [], srSp := [] } else g.regs, g.place)

/-- From `s` to `t` no register of a group changes, but for the SR states of group `gid`. -/
structure State.KeepsRegs (gid : Nat) (s t : State) : Prop where
  group : ∀ k, (t.group? k).map (Group.atIssue (k == gid)) = (s.group? k).map (Group.atIssue (k == gid))

namespace State.KeepsRegs

theorem refl (gid : Nat) (s : State) : s.KeepsRegs gid s := ⟨fun _ => rfl⟩

theorem trans {gid : Nat} {s t u : State} (h : s.KeepsRegs gid t) (k : t.KeepsRegs gid u) : s.KeepsRegs gid u :=
  ⟨fun n => (k.group n).trans (h.group n)⟩

theorem of_groups {gid : Nat} {s t : State} (h : t.simt.groups = s.simt.groups) : s.KeepsRegs gid t :=
  ⟨fun k => by rw [State.group?, State.group?, h]⟩

theorem regs_other {gid : Nat} {s t : State} (h : s.KeepsRegs gid t) {k : Nat} (hk : k ≠ gid) :
    (t.group? k).map Group.regs = (s.group? k).map Group.regs := by
  have hfst : Prod.fst ∘ Group.atIssue (k == gid) = Group.regs := by
    rw [beq_false_of_ne hk]
    rfl
  have := congrArg (Option.map Prod.fst) (h.group k)
  rwa [Option.map_map, Option.map_map, hfst] at this

theorem own {gid : Nat} {s t : State} (h : s.KeepsRegs gid t) {g k : Group} (hg : s.group? gid = some g)
    (hk : t.group? gid = some k) : k.atIssue true = g.atIssue true := by
  have := h.group gid
  rw [hg, hk, beq_self_eq_true] at this
  exact Option.some.inj this

end State.KeepsRegs

theorem putGroup_keepsRegs {s : State} {gid : Nat} {g h : Group} (hg : s.group? gid = some g)
    (hregs : h.atIssue true = g.atIssue true) : s.KeepsRegs gid (s.putGroup gid h) := by
  refine ⟨fun k => ?_⟩
  by_cases hk : k = gid
  · rw [hk, group?_putGroup_same, hg, beq_self_eq_true]
    exact congrArg some hregs
  · rw [group?_putGroup_other s h hk]

theorem modGroup_keepsRegs (s : State) (gid : Nat) {f : Group → Group} (hf : ∀ g, (f g).atIssue true = g.atIssue true) :
    s.KeepsRegs gid (s.modGroup gid f) := by
  unfold State.modGroup
  split
  next g hg => exact putGroup_keepsRegs hg (hf g)
  · exact .refl ..

theorem at_keepsRegs (s : State) (gid due : Nat) (e : Event) : s.KeepsRegs gid (s.at due e) := .of_groups rfl

theorem later_keepsRegs (s : State) (gid : Nat) (e : Event) : s.KeepsRegs gid (s.later e) := .of_groups rfl

theorem discardAll_keepsRegs (s : State) (gid q : Nat) : s.KeepsRegs gid (s.discardAll q) :=
  ⟨fun k => Tbl.get?_map_of_keeps (fun x => by split <;> rfl) (fun x => by split <;> rfl) s.simt.groups k⟩

theorem raiseHalt_keepsRegs (s : State) (gid q : Nat) (h : Halt) : s.KeepsRegs gid (s.raiseHalt q h) := by
  have hbreak : s.KeepsRegs gid (s.dumpBreak q) := by
    unfold State.dumpBreak
    split <;> exact .of_groups rfl
  unfold State.raiseHalt
  dsimp only
  split
  · exact .refl ..
  · split
    · exact hbreak.trans (.trans (.of_groups rfl) (.trans (discardAll_keepsRegs _ gid q) (.of_groups rfl)))
    · split <;> exact .of_groups rfl

theorem haltAt_keepsRegs (s : State) (gid cause value ord off : Nat) : s.KeepsRegs gid (s.haltAt gid cause value ord off) := by
  unfold State.haltAt
  split
  · exact .refl ..
  next g hg =>
    refine (putGroup_keepsRegs hg ?_).trans (raiseHalt_keepsRegs ..)
    rfl

theorem passPoint_keepsRegs (s : State) (gid sp ord off : Nat) : s.KeepsRegs gid (s.passPoint gid sp ord off) := by
  unfold State.passPoint
  split
  · exact .refl ..
  next g p hgp =>
    obtain ⟨g', hg, hp⟩ := Option.bind_eq_some_iff.mp hgp
    obtain ⟨p', -, heq⟩ := Option.map_eq_some_iff.mp hp
    cases heq
    unfold State.putPassed
    split
    · refine (putGroup_keepsRegs hg ?_).trans (haltAt_keepsRegs ..)
      rfl
    · exact putGroup_keepsRegs hg rfl

theorem noteIssue_pop_keepsRegs (s : State) (gid sp : Nat) (g : Group) : s.KeepsRegs gid (s.noteIssue gid sp g).pop :=
  .of_groups rfl

theorem advance_keepsRegs (s : State) (gid sp : Nat) (m : Marks) (len : Nat) (fixed : Bool) (next : Option W64)
    (park : Option Park) : s.KeepsRegs gid (s.advance gid sp m len fixed next park) := by
  unfold State.advance
  split
  · exact .of_groups rfl
  next g hg =>
    split
    · exact .of_groups rfl
    next p _ =>
      have hpoint (u : State) (ord : Option Nat) : u.KeepsRegs gid (match ord with
          | some k => if fixed then u.at (u.ac + 4) (.fixedLatencyWriteback gid) else u.passPoint gid sp k 0
          | none => u) := by
        split
        · split
          · exact .of_groups rfl
          · exact passPoint_keepsRegs ..
        · exact .refl ..
      have hend (u : State) (ends : Bool) : u.KeepsRegs gid (if ends then
          (if park.isNone then u.at (u.ac + 4) (.runEndMerge gid sp) else u).putSched g.place.schedNo none else u) := by
        split
        · split <;> exact .of_groups rfl
        · exact .refl ..
      refine (((putGroup_keepsRegs hg ?_).trans (hpoint ..)).trans (hend ..)).trans (noteIssue_pop_keepsRegs ..)
      rfl

/-- A flight with no access is not counted as a load: only the group's flights change. -/
theorem launch_keepsRegs {f : Flight} (hacc : f.acc = []) (s : State) (gid : Nat) (ev : Nat → Nat → Event) :
    s.KeepsRegs gid (s.launch gid f ev) := by
  unfold State.launch State.tagLoad
  simp only [hacc]
  split
  · exact .refl ..
  next g hg =>
    refine (putGroup_keepsRegs hg ?_).trans (later_keepsRegs ..)
    rfl

theorem drew_atIssue (r : Regs) (rd : Rd) (lanes : List Nat) (n : Nat) :
    ({ r.drew rd lanes n with sr := [], srSp := [] } : Regs) = { r with sr := [], srSp := [] } := by
  unfold Regs.drew
  split <;> rfl

/-! ### The states that computing instructions end in -/

/-- From `s` to `t` groups move, but no register of theirs changes except the SR states of group `gid`. -/
def State.MovesIssue (gid : Nat) (s t : State) : Prop := s.MovesGroups t ∧ s.KeepsRegs gid t

namespace State.MovesIssue

theorem refl (gid : Nat) (s : State) : s.MovesIssue gid s := ⟨.refl s, .refl gid s⟩

theorem trans {gid : Nat} {s t u : State} (h : s.MovesIssue gid t) (k : t.MovesIssue gid u) : s.MovesIssue gid u :=
  ⟨h.1.trans k.1, h.2.trans k.2⟩

end State.MovesIssue

/-- A result on its way, for 4 ac or for an open latency. -/
theorem putResult_movesIssue (s : State) (gid sp : Nat) (act : W32) (fixed : Bool) (w : RegWrites) :
    s.MovesIssue gid (if fixed then s.putFixed gid act w else s.putVar gid sp act w) := by
  split
  · refine ⟨(modGroup_movesGroups ..).trans (at_movesGroups ..), (modGroup_keepsRegs s gid ?_).trans (at_keepsRegs ..)⟩
    exact fun _ => rfl
  · exact ⟨launch_movesGroups rfl .., launch_keepsRegs rfl ..⟩

theorem draws_movesIssue (s : State) (gid : Nat) (rd : Rd) (n : Nat → Nat) :
    s.MovesIssue gid (s.modGroup gid fun g => { g with regs := rd.lanes.foldl (fun r l => r.drew rd [l] (n l)) g.regs }) := by
  refine ⟨modGroup_movesGroups .., modGroup_keepsRegs s gid fun g => congrArg (·, g.place) ?_⟩
  exact List.foldlRecOn (motive := fun r : Regs => ({ r with sr := [], srSp := [] } : Regs) = { g.regs with sr := [], srSp := [] })
    rd.lanes _ rfl fun r hr l _ => (drew_atIssue r rd [l] (n l)).trans hr

/-- Each end state is the issue's bookkeeping after a state that moves groups only. -/
theorem endState_advance {s t : State} {gid sp len : Nat} {n : Nat → Nat} {p : Split} {rd : Rd} {m : Marks} {act : W32}
    {fixed : Bool} {w : RegWrites} (h : t = s.vecDone gid sp m len act fixed w ∨ t = s.uniDone gid sp p m len fixed w
      ∨ t = s.convDone gid sp rd m len fixed n w) :
    ∃ u, s.MovesIssue gid u ∧ t = u.advance gid sp m len fixed none none := by
  rcases h with rfl | rfl | rfl
  · refine ⟨_, ?_, rfl⟩
    split
    · exact .refl ..
    · exact putResult_movesIssue ..
  · exact ⟨_, putResult_movesIssue .., rfl⟩
  · refine ⟨_, ?_, rfl⟩
    split
    · exact .refl ..
    · exact (draws_movesIssue ..).trans (putResult_movesIssue ..)

/-- Settles O60: the bookkeeping of an issue moves groups, whose registers it keeps, and then the turn is over. -/
theorem endStatesFrame : Obligations.EndStatesFrame := by
  refine ⟨fun s t gid sp len n p rd m act fixed w ht => ?_, fun s tid x => ?thread⟩
  case thread =>
    exact ⟨thread_putThread_same s tid x, fun k hk => thread_putThread_other s x hk, rfl, rfl, rfl, rfl, rfl⟩
  obtain ⟨u, ⟨hmoves, hregs⟩, rfl⟩ := endState_advance ht
  have hkeeps := hregs.trans (advance_keepsRegs u gid sp m len fixed none none)
  obtain ⟨v, hv, hpop⟩ := advance_movesGroups u gid sp m len fixed none none
  have hown (g h : Group) (hg : s.group? gid = some g) (hh : (u.advance gid sp m len fixed none none).group? gid = some h) :
      h.regs.v = g.regs.v ∧ h.regs.g = g.regs.g ∧ h.regs.p = g.regs.p ∧ h.regs.q = g.regs.q ∧ h.regs.fstat = g.regs.fstat
        ∧ h.regs.poison = g.regs.poison ∧ h.place = g.place := by
    have heq := hkeeps.own hg hh
    simp only [Group.atIssue, if_true, Prod.mk.injEq, Regs.mk.injEq] at heq
    obtain ⟨⟨hv, hg, hp, hq, hf, -, -, -, hpoison, -⟩, hplace⟩ := heq
    exact ⟨hv, hg, hp, hq, hf, hpoison, hplace⟩
  have hother (k : Nat) (hk : k ≠ gid) := hkeeps.regs_other hk
  rw [hpop] at hother hown ⊢
  obtain ⟨_, _, _, _, _, _, _, rfl⟩ := hmoves.trans hv
  exact ⟨rfl, rfl, rfl, rfl, rfl, rfl, rfl, rfl, rfl, rfl, rfl, rfl, rfl, rfl, hother, hown⟩

end Sys2Proof.Machine

namespace Sys2Proof.Machine

/-! ### The register write rule (R154, R157, R178) -/

/-- A list of lane images written to a table of `v` registers. -/
def writeLanes (t : Table W32) (ws : List (Nat × W32)) : Table W32 := ws.foldl (fun t x => Tbl.fset 0#32 t x.1 x.2) t

theorem fget_fset {α : Type} [DecidableEq α] (d : α) (t : Table α) (n k : Nat) (x : α) :
    Tbl.fget d (Tbl.fset d t n x) k = if k = n then x else Tbl.fget d t k := by
  split
  next h => rw [h, Tbl.fget_fset_same]
  next h => exact Tbl.fget_fset_other d t x h

/-- `v` registers have 32 lanes: a key stands for one register and lane. -/
theorem laneKey_eq_iff {n d l a : Nat} (hl : l < 32) (ha : a < 32) : 32 * n + l = 32 * d + a ↔ l = a ∧ n = d := by omega

theorem fget_writeLanes_one (t : Table W32) (wide : Bool) (d : Nat) (x : W64) {n l a : Nat} (hl : l < 32) (ha : a < 32) :
    Tbl.fget 0#32 (writeLanes t (laneWrites wide d a x)) (32 * n + l)
      = if l = a ∧ n = d then x.setWidth 32
        else if l = a ∧ wide = true ∧ n = d + 1 then (x >>> 32).setWidth 32 else Tbl.fget 0#32 t (32 * n + l) := by
  cases wide
  · simp only [laneWrites, writeLanes, Bool.false_eq_true, if_false, List.foldl_cons, List.foldl_nil, fget_fset,
      laneKey_eq_iff hl ha, false_and, and_false]
  · simp only [laneWrites, writeLanes, if_true, List.foldl_cons, List.foldl_nil, fget_fset, laneKey_eq_iff hl ha, true_and]
    by_cases hd : n = d
    · simp [hd]
    · simp [hd]

/-- A lane's value depends on the lane alone, so the order of the writes does not matter. -/
theorem fget_writeLanes (wide : Bool) (d : Nat) (f : Nat → Res) {n l : Nat} (hl : l < 32) (lanes : List Nat)
    (hlanes : ∀ a ∈ lanes, a < 32) (t : Table W32) :
    Tbl.fget 0#32 (writeLanes t (lanes.flatMap fun a => laneWrites wide d a (f a).x)) (32 * n + l)
      = if l ∈ lanes ∧ n = d then (f l).x.setWidth 32
        else if l ∈ lanes ∧ wide = true ∧ n = d + 1 then ((f l).x >>> 32).setWidth 32 else Tbl.fget 0#32 t (32 * n + l) := by
  induction lanes generalizing t with
  | nil => simp [writeLanes]
  | cons a lanes ih =>
    obtain ⟨ha, hrest⟩ := List.forall_mem_cons.mp hlanes
    have hsplit : writeLanes t ((a :: lanes).flatMap fun a => laneWrites wide d a (f a).x)
        = writeLanes (writeLanes t (laneWrites wide d a (f a).x)) (lanes.flatMap fun a => laneWrites wide d a (f a).x) := by
      rw [List.flatMap_cons, writeLanes, List.foldl_append]
      rfl
    rw [hsplit, ih hrest, fget_writeLanes_one t wide d (f a).x hl ha]
    by_cases hla : l = a
    · subst hla
      simp only [List.mem_cons_self, true_and]
      by_cases hmem : l ∈ lanes
      · by_cases hd : n = d
        · simp [hmem, hd]
        · by_cases hpair : wide = true ∧ n = d + 1 <;> simp [hmem, hd, hpair]
      · simp [hmem]
    · simp [hla]

theorem rdP_seven (r : Regs) : r.rdP 7 = 0xFFFFFFFF#32 := rfl

theorem rdP_of_ne {r : Regs} {n : Nat} (h : n ≠ 7) : r.rdP n = Tbl.fget 0#32 r.p n := if_neg h

theorem rdP_write_pOne (r : Regs) (ac d : Nat) (mask x : W32) (n : Nat) :
    (r.write ac { RegWrites.none with p := [(d, mask, x)] }).rdP n
      = if n = d ∧ d ≠ 7 then (r.rdP d &&& ~~~mask) ||| (x &&& mask) else r.rdP n := by
  have hp : (r.write ac { RegWrites.none with p := [(d, mask, x)] }).p
      = if d = 7 then r.p else Tbl.fset 0#32 r.p d (mergeMask (Tbl.fget 0#32 r.p d) mask x) := rfl
  by_cases hn : n = 7
  · subst hn
    rw [rdP_seven, rdP_seven, if_neg fun h => h.2 h.1.symm]
  rw [rdP_of_ne hn, rdP_of_ne hn, hp]
  by_cases hd : d = 7
  · rw [if_pos hd, if_neg fun h => h.2 hd]
  · rw [if_neg hd, fget_fset, rdP_of_ne hd, mergeMask]
    simp only [hd, ne_eq, not_false_eq_true, and_true]

/-- A `q` register after a write of one of them: the table's write rule, and q7 discarded. -/
theorem rdQ_write_qOne (t : Table Bool) (d : Nat) (b : Bool) (n : Nat) :
    rdQ (if d = 7 then t else Tbl.fset false t d b) n = if n = d ∧ d ≠ 7 then b else rdQ t n := by
  by_cases hn : n = 7
  · subst hn
    rw [if_neg fun h : 7 = d ∧ d ≠ 7 => h.2 h.1.symm]
    rfl
  rw [rdQ, rdQ, if_neg hn, if_neg hn]
  by_cases hd : d = 7
  · rw [if_pos hd, if_neg fun h => h.2 hd]
  · rw [if_neg hd, fget_fset]
    simp only [hd, ne_eq, not_false_eq_true, and_true]

theorem fstatOr_zero (x : W64) : fstatOr x 0#5 = x := by
  simp [fstatOr]

/-- Settles O18: every write is a change of one key of a total map. -/
theorem registerWriteRule : Obligations.RegisterWriteRule := by
  refine ⟨?lanes, ?preds, ?uniform, ?uniformPreds, ?thread⟩
  case lanes =>
    intro r ac lanes wide d f _ hlanes
    refine ⟨fun n l hl => fget_writeLanes wide d f hl lanes hlanes r.v, fun _ => rfl, fun _ => rfl, rfl, rfl, fun hset => ?_⟩
    exact if_neg hset
  case preds =>
    exact fun r ac d mask x => ⟨rdP_write_pOne r ac d mask x, rfl, fun _ _ => rfl, fun _ => rfl⟩
  case uniform =>
    exact fun r ac d x n => ⟨fget_fset 0#64 r.g d n x, fun _ => rfl, rfl⟩
  case uniformPreds =>
    exact fun r ac d b n => ⟨rdQ_write_qOne r.q d b n, rfl⟩
  case thread =>
    exact fun t d x b n => ⟨fget_fset 0#64 t.g d n x, rfl, fstatOr_zero t.fstat, rdQ_write_qOne t.q d b n⟩

end Sys2Proof.Machine

namespace Sys2Proof.Machine

/-! ### Register writes always go on -/

/-- The machine goes on. -/
def Goes (o : Out) : Prop := ∃ u, o = .next u

theorem Goes.next (u : State) : Goes (.next u) := ⟨u, rfl⟩

theorem Goes.ite {c : Prop} [Decidable c] {a b : Out} (ha : Goes a) (hb : Goes b) : Goes (if c then a else b) := by
  split
  · exact ha
  · exact hb

section RegisterWrites

variable (s : State)

theorem execKick_goes (q v : Nat) : Goes (execKick q v s) := by
  unfold execKick
  dsimp only
  split
  · exact .next _
  · exact .ite (.next _) (.ite (.next _) (.next _))

theorem execRcmdWrite_goes (q v : Nat) : Goes (execRcmdWrite q v s) :=
  .ite (.next _) (.ite (.next _) (.ite (.next _) (.ite (.next _) (.next _))))

theorem execRcmdInval_goes (q v : Nat) : Goes (execRcmdInval q v s) :=
  .ite (.next _) (.ite (.next _) (.ite (.next _) (.next _)))

theorem kickWrite_goes (a n v : Nat) : Goes (s.kickWrite a n v) := by
  refine .ite (.ite (execKick_goes ..) (.next _)) (.ite (.next _) (.ite (.next _) (.ite ?_ (.next _))))
  dsimp only
  split
  · exact execRcmdWrite_goes ..
  · exact execRcmdInval_goes ..
  · exact .next _
  · exact .next _

theorem queueWrite_goes (q off w m : Nat) : Goes (s.queueWrite q off w m) := by
  unfold State.queueWrite
  split
  · exact .ite (.next _) (.next _)
  all_goals exact .next _

theorem execSkcmdLoad_goes (p w : Nat) : Goes (execSkcmdLoad p w s) := by
  refine .ite (.next _) (.ite (.next _) (.ite (.next _) ?_))
  dsimp only
  split
  · exact .next _
  · exact .ite (.next _) (.ite (.next _) (.next _))

theorem execSkcmdUnload_goes (p w : Nat) : Goes (execSkcmdUnload p w s) := by
  refine .ite (.next _) (.ite (.next _) ?_)
  split
  · exact .next _
  · exact .next _

theorem sketchWrite_goes (p off w m : Nat) : Goes (s.sketchWrite p off w m) := by
  refine .ite (.next _) ?_
  split
  · exact .next _
  · exact .ite (execSkcmdLoad_goes ..) (execSkcmdUnload_goes ..)
  · exact .next _

theorem execCxvacClaim_goes (q n : Nat) : Goes (execCxvacClaim q n s) := by
  refine .ite (.next _) (.ite (.next _) (.ite (.next _) (.ite (.next _) ?_)))
  split
  · exact .next _
  · exact .ite (.next _) (.next _)

theorem contextWrite_goes (q off w m : Nat) : Goes (s.contextWrite q off w m) := by
  refine .ite (.next _) ?_
  split
  case h_5 => exact .ite (.ite (.next _) (.ite (.next _) (.next _))) (execCxvacClaim_goes ..)
  all_goals exact .next _

theorem execTrctlEnable_goes (q v : Nat) : Goes (execTrctlEnable q v s) := .ite (.next _) (.next _)

theorem debugOp_goes (gid : Nat) (op : Group → State) : Goes (s.debugOp gid op) := by
  unfold State.debugOp
  split
  · exact .next _
  · split <;> exact .next _

theorem dbgcmd_goes (q v : Nat) : Goes (s.dbgcmd q v) := by
  unfold State.dbgcmd
  split
  · exact .next _
  · refine .ite (.next _) ?_
    split
    · exact .next _
    · exact .ite (debugOp_goes ..) (.ite (debugOp_goes ..) (debugOp_goes ..))

theorem traceWrite_goes (q off w m : Nat) : Goes (s.traceWrite q off w m) := by
  refine .ite (.next _) ?_
  split
  case h_1 => exact execTrctlEnable_goes ..
  case h_7 => exact dbgcmd_goes ..
  all_goals exact .next _

theorem execFbreplayAbandon_goes (d i : Nat) : Goes (execFbreplayAbandon d i s) := by
  unfold execFbreplayAbandon
  split
  · exact .next _
  · dsimp only
    split <;> exact .next _

theorem execFbreplayRetry_goes (d i : Nat) : Goes (execFbreplayRetry d i s) := by
  unfold execFbreplayRetry
  split <;> exact .next _

theorem faultWrite_goes (d off w : Nat) : Goes (s.faultWrite d off w) := by
  unfold State.faultWrite
  split
  · exact .next _
  · exact .ite (.next _) (.ite (execFbreplayAbandon_goes ..) (execFbreplayRetry_goes ..))
  · exact .next _

theorem vfctlWrite_goes (v w m : Nat) : Goes (s.vfctlWrite v w m) :=
  .ite (.ite (.next _) (.ite (.next _) (.next _))) (.ite (.ite (.next _) (.ite (.next _) (.next _))) (.next _))

theorem execVfqcmdImport_goes (v w : Nat) : Goes (execVfqcmdImport v w s) := by
  unfold execVfqcmdImport
  dsimp only
  split
  · exact .next _
  · exact .ite (.next _) (.ite (.next _) (.next _))

theorem execVfqcmdExport_goes (v w : Nat) : Goes (execVfqcmdExport v w s) := by
  unfold execVfqcmdExport
  dsimp only
  split
  · exact .next _
  · exact .ite (.next _) (.next _)

theorem vfWrite_goes (v off w m : Nat) : Goes (s.vfWrite v off w m) := by
  unfold State.vfWrite
  dsimp only
  split
  case h_1 => exact vfctlWrite_goes ..
  case h_7 => exact .ite (execVfqcmdImport_goes ..) (execVfqcmdExport_goes ..)
  all_goals exact .next _

theorem partitionWrite_goes (p off w m : Nat) : Goes (s.partitionWrite p off w m) := by
  refine .ite (.next _) ?_
  split
  case h_1 => exact .ite (.next _) (.next _)
  case h_3 => exact .ite (.next _) (.ite (.next _) (.next _))
  all_goals exact .next _

theorem stackWrite_goes (t off w m : Nat) : Goes (s.stackWrite t off w m) := by
  unfold State.stackWrite
  split <;> exact .next _

theorem errorWrite_goes (d off w m : Nat) : Goes (s.errorWrite d off w m) := by
  unfold State.errorWrite
  dsimp only
  split <;> exact .next _

theorem execDmpcmdStart_goes (v : Nat) : Goes (execDmpcmdStart v s) := by
  unfold execDmpcmdStart
  split <;> exact .next _

theorem dumpWrite_goes (off w m : Nat) : Goes (s.dumpWrite off w m) := by
  unfold State.dumpWrite
  dsimp only
  split
  case h_1 => exact execDmpcmdStart_goes ..
  all_goals exact .next _

theorem powerWrite_goes (p off w m : Nat) : Goes (s.powerWrite p off w m) :=
  .ite (.next _) (.ite (.ite (.next _) (.next _))
    (.ite (.ite (.ite (.next _) (.ite (.next _) (.next _))) (.ite (.next _) (.next _))) (.next _)))

/-- A write of a hub register goes on, whatever block it lies in. -/
theorem hubWrite_goes (r : HubReg) (o n v : Nat) : Goes (s.hubWrite r o n v) := by
  cases r with
  | queue => exact queueWrite_goes ..
  | sketches => exact sketchWrite_goes ..
  | context => exact contextWrite_goes ..
  | tracing => exact traceWrite_goes ..
  | faults => exact faultWrite_goes ..
  | vf => exact vfWrite_goes ..
  | vector => exact .ite (.next _) (.next _)
  | pending => exact .ite (.next _) (.next _)
  | partition => exact partitionWrite_goes ..
  | stack => exact stackWrite_goes ..
  | die => exact .next _
  | errors => exact errorWrite_goes ..
  | dump => exact dumpWrite_goes ..
  | modul => exact .ite (.next _) (.next _)
  | power => exact powerWrite_goes ..
  | reserved => exact .next _

theorem registerWrite_goes (a n v : Nat) : Goes (execRegisterWrite a n v s) :=
  .ite (kickWrite_goes ..) (.ite (hubWrite_goes ..) (.next _))

end RegisterWrites

theorem registerWrite_outside {s : State} {a : Nat} (n v : Nat) (hkick : inKick a = false) (hhub : inHub a = false) :
    execRegisterWrite a n v s = .next s := by
  simp [execRegisterWrite, hkick, hhub]

/-- CAP is the low bits of its register: a whole word written is the value written. -/
theorem hubWrite_cap {s : State} {p v : Nat} (hp : (s.part p).dies ≠ 0) (hv : v < 32) :
    s.hubWrite (.power p 0) 0 8 v = .next (s.putPart p { s.part p with cap := max 8 (min 28 v) }.step) := by
  have hword (old : Nat) : putBytes old 0 8 v % 32 = v := by
    have hcut : cutBytes old 0 8 = old % 2 ^ 64 := by simp [cutBytes]
    rw [putBytes, hcut]
    have hold : old - old % 2 ^ 64 = 2 ^ 64 * (old / 2 ^ 64) := by omega
    omega
  change s.powerWrite p 0 _ (putBytes (s.powerWord p 0) 0 8 v) = _
  rw [State.powerWrite, if_neg hp, if_pos rfl, execPclkCapWrite, if_neg hp, hword]

/-! ### Words that are UNDEF (R163) -/

theorem undefOpcode_simt {s : State} {w : W32} {gid sp : Nat} (ht : s.turns.head? = some (.split gid sp))
    (hu : undefSimt (bitOf w.toNat 28) (fieldOf w.toNat 21 7) = true) : execUndefOpcode w s = .next (s.simtFault gid sp 1 0) := by
  obtain ⟨rest, hrest⟩ := List.head?_eq_some_iff.mp ht
  simp only [execUndefOpcode, hrest, hu, if_true]

theorem undefOpcode_thread {s : State} {w : W32} {tid : Nat} (ht : s.turns.head? = some (.thread tid))
    (hu : undefThread (bitOf w.toNat 28) (fieldOf w.toNat 21 7) = true) : execUndefOpcode w s = .next (s.threadFault tid 1 0) := by
  obtain ⟨rest, hrest⟩ := List.head?_eq_some_iff.mp ht
  simp only [execUndefOpcode, hrest, hu, if_true]

/-! ### Trace events leave the turns and the time (R426 to R432) -/

/-- From `s` to `t` no agent's turn is over, and no time passes. -/
def State.KeepsTurns (s t : State) : Prop := t.turns = s.turns ∧ t.ac = s.ac

namespace State.KeepsTurns

theorem refl (s : State) : s.KeepsTurns s := ⟨rfl, rfl⟩

theorem trans {s t u : State} (h : s.KeepsTurns t) (k : t.KeepsTurns u) : s.KeepsTurns u :=
  ⟨k.1.trans h.1, k.2.trans h.2⟩

theorem foldl {α : Type} {f : State → α → State} (h : ∀ (t : State) (a : α), t.KeepsTurns (f t a)) (l : List α) (s : State) :
    s.KeepsTurns (l.foldl f s) :=
  List.foldlRecOn (motive := fun t : State => s.KeepsTurns t) l f (refl s) fun t ht a _ => ht.trans (h t a)

end State.KeepsTurns

theorem modGroup_keepsTurns (s : State) (gid : Nat) (f : Group → Group) : s.KeepsTurns (s.modGroup gid f) := by
  unfold State.modGroup
  split
  · exact ⟨rfl, rfl⟩
  · exact .refl s

theorem setBit_keepsTurns (s : State) (a bit : Nat) : s.KeepsTurns (s.setBit a bit) := by
  unfold State.setBit
  dsimp only
  split
  · exact .refl s
  · exact ⟨rfl, rfl⟩

theorem dirtyRing_keepsTurns (s : State) (page : Nat) : s.KeepsTurns (s.dirtyRing page) := by
  have hqueue (v : Vf) (t : State) (y : Nat × Queue) : t.KeepsTurns
      (if decide (v.qbase ≤ y.1) && decide (y.1 < v.qbase + v.qcount) then
        match t.ringPage y.2 page with
        | some p => t.setBit (v.dlog + v.half * v.halfSize + 0x1000 + 128 * (y.1 - v.qbase)) p
        | none => t
      else t) := by
    split
    · split
      · exact setBit_keepsTurns ..
      · exact .refl t
    · exact .refl t
  refine .foldl (fun t x => ?_) _ s
  dsimp only
  split
  · exact .refl t
  · exact .foldl (fun t y => hqueue x.2 t y) _ t

theorem scrubLines_keepsTurns (s : State) (a n : Nat) : s.KeepsTurns (s.scrubLines a n) := by
  unfold State.scrubLines
  split
  · refine .foldl (fun t line => ?_) _ s
    unfold State.scrubLine
    split
    · split
      · exact ⟨rfl, rfl⟩
      · exact .refl t
    · exact .refl t
  · exact .refl s

theorem clearPoison_keepsTurns (s : State) (a n : Nat) : s.KeepsTurns (s.clearPoison a n) := by
  unfold State.clearPoison
  dsimp only
  split
  · exact .refl s
  · exact ⟨rfl, rfl⟩

theorem wakeCounters_keepsTurns (s : State) (a n : Nat) : s.KeepsTurns (s.wakeCounters a n) := by
  unfold State.wakeCounters
  refine ((State.KeepsTurns.foldl (fun t x => ?_) _ s).trans (.foldl (fun t x => ?_) _ _)).trans (.foldl (fun t x => ?_) _ _)
  · exact (modGroup_keepsTurns ..).trans ⟨rfl, rfl⟩
  · exact ⟨rfl, rfl⟩
  · exact ⟨rfl, rfl⟩

theorem write_keepsTurns (s : State) (a : Nat) (bs : List Byte) : s.KeepsTurns (s.write a bs) := by
  unfold State.write
  split
  · exact .refl s
  · have hpages := (scrubLines_keepsTurns s a bs.length).trans
      (.foldl (fun t page => dirtyRing_keepsTurns t page) (pagesOf a bs.length) _)
    have hpoked := hpages.trans (show State.KeepsTurns _ (State.poke _ a bs) from ⟨rfl, rfl⟩)
    exact (hpoked.trans (clearPoison_keepsTurns ..)).trans (wakeCounters_keepsTurns ..)

theorem ringUnit_keepsTurns (s : State) (q base size : Nat) (unit : List Byte) : s.KeepsTurns (s.ringUnit q base size unit) := by
  unfold State.ringUnit
  split
  · exact ⟨rfl, rfl⟩
  · dsimp only
    split
    · exact ⟨rfl, rfl⟩
    · split
      · exact ⟨rfl, rfl⟩
      · exact (write_keepsTurns ..).trans (write_keepsTurns ..)

theorem writeChunks_keepsTurns (s : State) (k : Nat) (p : Chunk → Bool) : s.KeepsTurns (s.writeChunks k p) := by
  have hunits (t : State) (seq : Nat) (l : List (Chunk × Nat)) : t.KeepsTurns (l.foldl (fun s c =>
      s.ringUnit c.1.ctx (s.traceQ c.1.ctx).trbuf (4096 * (s.traceQ c.1.ctx).trsize)
        (chunkBytes k ((seq + c.2) % 256) c.1.packets)) t) := .foldl (fun _ _ => ringUnit_keepsTurns ..) l t
  have hput (x : TraceK) : s.KeepsTurns (s.putTraceK k x) := ⟨rfl, rfl⟩
  unfold State.writeChunks
  dsimp only
  split
  · exact (hput _).trans (hunits ..)
  · exact ((hput _).trans (hunits ..)).trans ⟨rfl, rfl⟩

theorem chunkFlush_keepsTurns (s : State) (k : Nat) : ∃ u, execChunkFlush k s = .next u ∧ s.KeepsTurns u := by
  refine ⟨_, rfl, ?_⟩
  split
  · exact ⟨rfl, rfl⟩
  · split
    · exact ⟨rfl, rfl⟩
    · exact .trans (t := s.putTraceK k _) ⟨rfl, rfl⟩ (writeChunks_keepsTurns ..)

theorem sampleCtx_keepsTurns (s : State) (k q : Nat) : s.KeepsTurns (s.sampleCtx k q) := by
  unfold State.sampleCtx
  split
  · exact .refl s
  · dsimp only
    split
    · exact ⟨rfl, rfl⟩
    · exact .trans (t := s.putTraceS k q _) ⟨rfl, rfl⟩ (ringUnit_keepsTurns ..)

theorem stallSample_keepsTurns (s : State) (k : Nat) : ∃ u, execStallSample k s = .next u ∧ s.KeepsTurns u :=
  ⟨_, rfl, .foldl (fun _ _ => sampleCtx_keepsTurns ..) _ s⟩

@[simp] theorem stage_turns (s : State) (k q : Nat) (pk : List Byte) : (s.stage k q pk).turns = s.turns := by
  unfold State.stage
  dsimp only
  split
  · rfl
  · split <;> rfl

/-- LOSS is staged (R432), and the groups of its scheduler are due a sync point: neither turns nor groups change. -/
theorem lossOne_turns_simt (s : State) (k q n : Nat) : (s.lossOne k q n).turns = s.turns ∧ (s.lossOne k q n).simt = s.simt := by
  unfold State.lossOne
  dsimp only
  split
  · exact ⟨rfl, rfl⟩
  · refine ⟨(foldl_keeps State.turns (fun t g => ?_) _ _).trans (stage_turns ..),
      (foldl_keeps State.simt (fun t g => ?_) _ _).trans (stage_simt ..)⟩
    · split <;> rfl
    · split <;> rfl

theorem lossMark_turns_simt (s : State) (k : Nat) : ∃ u, execLossMark k s = .next u ∧ u.turns = s.turns ∧ u.simt = s.simt := by
  refine ⟨_, rfl, foldl_keeps State.turns (fun t x => ?_) _ s, foldl_keeps State.simt (fun t x => ?_) _ s⟩
  · exact (lossOne_turns_simt t k x.1 x.2).1
  · exact (lossOne_turns_simt t k x.1 x.2).2

/-! ### TRCTL (R426) -/

theorem traceQ_putTraceQ_same (s : State) (q : Nat) (x : TraceQ) : (s.putTraceQ q x).traceQ q = x := Tbl.getD_put_same ..

section Trctl

variable {s : State} {q v : Nat}

theorem trctlEnable_unbound (h : (s.queue q).eid = 0) : execTrctlEnable q v s = .next s := if_pos h

variable (heid : (s.queue q).eid ≠ 0) (hoff : (s.traceQ q).trace = false) (hset : bitOf v 0 = true)
include heid hoff hset

theorem trctlEnable_badBuffer (hbad : s.bufferGood q (s.traceQ q).trbuf (s.traceQ q).trsize = false) :
    ∃ u, execTrctlEnable q v s = .next u ∧ (u.traceQ q).trace = false ∧ (u.traceQ q).result = 1 := by
  refine ⟨_, if_neg heid, ?_⟩
  simp [hoff, hset, hbad, traceQ_putTraceQ_same]

theorem trctlEnable_goodBuffer (hgood : s.bufferGood q (s.traceQ q).trbuf (s.traceQ q).trsize = true) :
    ∃ u, execTrctlEnable q v s = .next u ∧ (u.traceQ q).trace = true := by
  refine ⟨_, if_neg heid, ?_⟩
  simp [hoff, hset, hgood, traceQ_putTraceQ_same]

end Trctl

/-! ### Links (R404 to R406) -/

theorem linkDir_putLinkDir_same (s : State) (k : Nat) (x : Link) : (s.putLinkDir k x).linkDir k = x := Tbl.getD_put_same ..

theorem linkDir_of_links {s t : State} (h : t.hub.links = s.hub.links) (k : Nat) : t.linkDir k = s.linkDir k := by
  rw [State.linkDir, State.linkDir, h]

theorem switchKey_of_next {s : State} {k : Nat} (l : Nat) (h : (s.linkDir k).next = true) : s.switchKey l k = s := if_pos h

/-- A key switch: the other key, a new generation, and no flit sent under it. -/
theorem switchKey_of_not_next {s : State} {k : Nat} (l : Nat) (h : (s.linkDir k).next = false) :
    ((s.switchKey l k).linkDir k).keyIdx = 1 - (s.linkDir k).keyIdx ∧ ((s.switchKey l k).linkDir k).flits = 0
      ∧ ((s.switchKey l k).linkDir k).gen = (s.linkDir k).gen + 1 := by
  unfold State.switchKey
  simp only [h, Bool.false_eq_true, if_false]
  rw [linkDir_of_links (foldl_keeps (fun t : State => t.hub.links) (fun t r => ?_) _ _), linkDir_putLinkDir_same]
  · exact ⟨rfl, rfl, rfl⟩
  · split <;> rfl

theorem sendFlit_of_room {s : State} {k : Nat} (l : Nat) (h : (s.linkDir k).flits + 2 < 2 ^ 40) :
    (s.sendFlit l k).linkDir k = { s.linkDir k with flits := (s.linkDir k).flits + 1 } := by
  unfold State.sendFlit
  simp only [if_neg (Nat.not_le.mpr h), linkDir_putLinkDir_same]

/-- A flit that would reach the key's bound is the first under the next key. -/
theorem sendFlit_of_full {s : State} {k : Nat} (l : Nat) (h : 2 ^ 40 ≤ (s.linkDir k).flits + 2) (hn : (s.linkDir k).next = false) :
    ((s.sendFlit l k).linkDir k).keyIdx = 1 - (s.linkDir k).keyIdx ∧ ((s.sendFlit l k).linkDir k).flits = 1 := by
  obtain ⟨hidx, hflits, -⟩ := switchKey_of_not_next l hn
  unfold State.sendFlit
  simp only [if_pos (show (s.linkDir k).flits + 2 ≥ 2 ^ 40 from h), linkDir_putLinkDir_same]
  exact ⟨hidx, by rw [hflits]⟩

theorem postDie_links (s : State) (d v : Nat) : (s.postDie d v).hub.links = s.hub.links := by
  have hpost (src : Option Nat) : (s.postFrom src none v).hub.links = s.hub.links := by
    unfold State.postFrom
    split <;> rfl
  exact hpost _

theorem postWhen_links (c : Prop) [Decidable c] (s : State) (d v : Nat) :
    (if c then s.postDie d v else s).hub.links = s.hub.links := by
  split
  · exact postDie_links ..
  · rfl

theorem logError_links (s : State) (d addr cls kind cause eid core : Nat) :
    (s.logError d addr cls kind cause eid core).hub.links = s.hub.links := by
  unfold State.logError
  dsimp only
  split
  · rfl
  · exact postWhen_links ..

theorem linkDir_linkRetransmit (s : State) {l d k : Nat} (hk : k = 2 * l + d % 2) (hl : l < 160) :
    ∃ u, execLinkRetransmit l d s = .next u
      ∧ u.linkDir k = { (s.sendFlit l k).linkDir k with retrans := ((s.sendFlit l k).linkDir k).retrans + 1 } := by
  subst hk
  exact ⟨_, if_neg (Nat.not_le.mpr hl), (linkDir_of_links (logError_links ..) _).trans (linkDir_putLinkDir_same ..)⟩

/-- A request that has timed out awaits no completion on any link. -/
theorem completionTimeout_drops (s : State) (l : Nat) : ∃ u, execCompletionTimeout l s = .next u
    ∧ u.hub.links.map Prod.fst = s.hub.links.map Prod.fst ∧ ∀ y ∈ u.hub.links, ∀ r ∈ y.2.outstanding, r.1 ≠ l := by
  refine ⟨_, rfl, by simp, fun y hy r hr => ?_⟩
  obtain ⟨x, -, rfl⟩ := List.mem_map.mp hy
  simpa using (List.mem_filter.mp hr).2

/-! ### SPDM: the requests' frame (R407, R408) -/

theorem respond_of_up {s : State} (hup : s.rotUp = true) (x : List Byte) : s.respond x = .next (s.reply x) := by
  rw [State.respond, if_pos hup]

section Spdm

variable {s : State} {r : SpdmReq} {code : Nat} {body : Out}

theorem spdm_of_down (hdown : s.rotUp = false) : s.spdm r code body = .next s := by
  rw [State.spdm, hdown]
  rfl

variable (hup : s.rotUp = true)
include hup

theorem spdm_of_up : s.spdm r code body = if r.code ≠ code ∨ (r.version ≠ 0x14 ∧ code ≠ 0x84) ∨ 3 < r.port
    then .next (s.reply unsupported) else body := by
  rw [State.spdm, hup, respond_of_up hup]
  rfl

theorem spdm_unsupported (h : r.code ≠ code ∨ 3 < r.port ∨ (r.version ≠ 0x14 ∧ code ≠ 0x84)) :
    s.spdm r code body = .next (s.reply unsupported) := by
  rw [spdm_of_up hup]
  exact if_pos (or_congr_right or_comm |>.mp h)

variable (hcode : r.code = code) (hport : r.port ≤ 3)
include hcode hport

theorem spdm_body (hversion : r.version = 0x14) : s.spdm r code body = body := by
  rw [spdm_of_up hup]
  exact if_neg fun h => by omega

theorem spdm_getVersion_body (h84 : code = 0x84) : s.spdm r code body = body := by
  rw [spdm_of_up hup]
  exact if_neg fun h => by omega

end Spdm

section Kelhel

variable {s : State} {r : SpdmReq} {op : Nat} {body : Out} (hup : s.rotUp = true) (hcode : r.code = 0xFE) (hport : r.port ≤ 3)
  (hversion : r.version = 0x14)
include hup hcode hport hversion

theorem kelhel_vendor (h : r.vendor ≠ 0x4B4C) : s.kelhel r op body = .next (s.reply unsupported) := by
  rw [State.kelhel, spdm_body hup hcode hport hversion, if_pos h, respond_of_up hup]

variable (hvendor : r.vendor = 0x4B4C)
include hvendor

theorem kelhel_op (h : r.op ≠ op) : s.kelhel r op body = .next (s.reply [3#8]) := by
  rw [State.kelhel, spdm_body hup hcode hport hversion, if_neg (not_not_intro hvendor), if_pos h, respond_of_up hup]

theorem kelhel_body (h : r.op = op) : s.kelhel r op body = body := by
  rw [State.kelhel, spdm_body hup hcode hport hversion, if_neg (not_not_intro hvendor), if_neg (not_not_intro h)]

end Kelhel

/-! ### SPDM: what each request answers (R407 to R410) -/

section Answers

variable {s : State} {r : SpdmReq} (hup : s.rotUp = true) (hport : r.port ≤ 3)
include hup hport

theorem getVersion_answers (h : r.code = 0x84) : execGetVersion r s = .next (s.reply [0x04#8, 0x14#8]) := by
  rw [execGetVersion, spdm_getVersion_body hup h hport rfl, respond_of_up hup]

variable (hversion : r.version = 0x14)
include hversion

theorem getCapabilities_answers (h : r.code = 0xE1) :
    execGetCapabilities r s = .next (s.reply (0x61#8 :: cryptoOut 9 [] 8)) := by
  rw [execGetCapabilities, spdm_body hup h hport hversion, respond_of_up hup]

theorem negotiate_agreed (h : r.code = 0xE3) (harg : r.arg % 16 = 15) : execNegotiateAlgorithms r s
    = .next ((s.modRot fun r => { r with negotiated := true }).reply [0x63#8, 0x0F#8]) := by
  rw [execNegotiateAlgorithms, spdm_body hup h hport hversion, if_pos harg]

theorem negotiate_refused (h : r.code = 0xE3) (harg : r.arg % 16 ≠ 15) :
    execNegotiateAlgorithms r s = .next (s.reply unsupported) := by
  rw [execNegotiateAlgorithms, spdm_body hup h hport hversion, if_neg harg, respond_of_up hup]

theorem getDigests_answers (h : r.code = 0x81) : execGetDigests r s
    = .next (s.reply (0x01#8 :: sha3 (s.hub.rot.chain 0) ++ sha3 (s.hub.rot.chain 1))) := by
  rw [execGetDigests, spdm_body hup h hport hversion, respond_of_up hup]

theorem getCertificate_slot (h : r.code = 0x82) (harg : r.arg < 2) :
    execGetCertificate r s = .next (s.reply (0x02#8 :: s.hub.rot.chain r.arg)) := by
  rw [execGetCertificate, spdm_body hup h hport hversion, if_pos harg, respond_of_up hup]

theorem getCertificate_noSlot (h : r.code = 0x82) (harg : 2 ≤ r.arg) :
    execGetCertificate r s = .next (s.reply unsupported) := by
  rw [execGetCertificate, spdm_body hup h hport hversion, if_neg (Nat.not_lt.mpr harg), respond_of_up hup]

theorem challenge_noSlot (h : r.code = 0x83) (harg : 2 ≤ r.arg) : execChallenge r s = .next (s.reply unsupported) := by
  rw [execChallenge, spdm_body hup h hport hversion, if_pos harg, respond_of_up hup]

theorem challenge_signed (h : r.code = 0x83) (harg : r.arg < 2) {x : List Byte}
    (hx : x = sha3 (s.hub.rot.chain r.arg) ++ s.hub.rot.fwDigest ++ r.data) : execChallenge r s
      = .next (s.reply (0x03#8 :: x ++ if r.arg = 1 then s.hub.rot.sign x else s.hub.rot.idSign x)) := by
  rw [execChallenge, spdm_body hup h hport hversion, if_neg (Nat.not_le.mpr harg), hx]
  exact respond_of_up hup _

theorem getMeasurements_count (h : r.code = 0xE0) (harg : r.arg = 0) :
    execGetMeasurements r s = .next (s.reply [0x60#8, 6#8]) := by
  rw [execGetMeasurements, spdm_body hup h hport hversion]
  dsimp only
  rw [if_pos harg, respond_of_up hup]

/-- One block, or all six under the number 255, signed with the requester's nonce. -/
theorem getMeasurements_signed (h : r.code = 0xE0) {x : List Byte}
    (hx : 1 ≤ r.arg ∧ r.arg ≤ 6 ∧ x = s.hub.rot.block r.arg ∨ r.arg = 255 ∧ x = [1, 2, 3, 4, 5, 6].flatMap s.hub.rot.block) :
    execGetMeasurements r s = .next (s.reply (0x60#8 :: x ++ s.hub.rot.sign (x ++ r.data))) := by
  rw [execGetMeasurements, spdm_body hup h hport hversion]
  dsimp only
  rcases hx with ⟨hlow, hhigh, rfl⟩ | ⟨harg, rfl⟩
  · rw [if_neg (by omega), if_neg (by omega), if_pos hhigh, respond_of_up hup]
  · rw [if_neg (by omega), if_pos harg, respond_of_up hup]

theorem keyExchange_unnegotiated (h : r.code = 0xE4) (hneg : s.hub.rot.negotiated = false) :
    execKeyExchange r s = .next (s.reply (spdmError 4)) := by
  rw [execKeyExchange, spdm_body hup h hport hversion, hneg]
  exact respond_of_up hup _

theorem keyExchange_full (h : r.code = 0xE4) (hneg : s.hub.rot.negotiated = true) (hfree : s.hub.rot.freeSession = none) :
    execKeyExchange r s = .next (s.reply (spdmError 0x0A)) := by
  rw [execKeyExchange, spdm_body hup h hport hversion, hneg, hfree]
  exact respond_of_up hup _

theorem keyExchange_opens (h : r.code = 0xE4) (hneg : s.hub.rot.negotiated = true) {n : Nat}
    (hfree : s.hub.rot.freeSession = some n) : ∃ u x, execKeyExchange r s = .next u
      ∧ Tbl.get? u.hub.rot.sessions n = some x ∧ x.peer = r.arg ∧ x.ready = false ∧ 1 ≤ n ∧ n ≤ 64 := by
  have hrange := List.mem_range'_1.mp (List.mem_of_find?_eq_some hfree)
  rw [execKeyExchange, spdm_body hup h hport hversion, hneg, hfree]
  exact ⟨_, _, rfl, Tbl.get?_put_same .., rfl, rfl, hrange.1, by omega⟩

theorem finish_verified (h : r.code = 0xE5) {x : Session} (hx : Tbl.get? s.hub.rot.sessions r.session = some x)
    (hready : x.ready = false) (hsig : Config.verifies 3 (leBytes 32 x.key) r.data = true) : ∃ u, execFinish r s = .next u
      ∧ Tbl.get? u.hub.rot.sessions r.session = some { x with ready := true } := by
  rw [execFinish, spdm_body hup h hport hversion, hx]
  dsimp only
  rw [hready, hsig]
  exact ⟨_, rfl, Tbl.get?_put_same ..⟩

theorem finish_refused (h : r.code = 0xE5) {x : Session} (hx : Tbl.get? s.hub.rot.sessions r.session = some x)
    (hready : x.ready = false) (hsig : Config.verifies 3 (leBytes 32 x.key) r.data = false) :
    execFinish r s = .next (s.reply (spdmError 6)) := by
  rw [execFinish, spdm_body hup h hport hversion, hx]
  dsimp only
  rw [hready, hsig]
  exact respond_of_up hup _

theorem heartbeat_noSession (h : r.code = 0xE8) (hx : s.session? r.session = none) :
    execHeartbeat r s = .next (s.reply (spdmError 2)) := by
  rw [execHeartbeat, spdm_body hup h hport hversion, hx, respond_of_up hup]
  rfl

theorem heartbeat_answers (h : r.code = 0xE8) {x : Session} (hx : s.session? r.session = some x) :
    execHeartbeat r s = .next (s.reply [0x68#8]) := by
  rw [execHeartbeat, spdm_body hup h hport hversion, hx, respond_of_up hup]
  rfl

theorem keyUpdate_noSession (h : r.code = 0xE9) (hx : s.session? r.session = none) :
    execKeyUpdate r s = .next (s.reply (spdmError 2)) := by
  rw [execKeyUpdate, spdm_body hup h hport hversion, hx]
  exact respond_of_up hup _

theorem keyUpdate_keeps (h : r.code = 0xE9) {x : Session} (hx : s.session? r.session = some x) : ∃ u y,
    execKeyUpdate r s = .next u ∧ Tbl.get? u.hub.rot.sessions r.session = some y ∧ y.peer = x.peer ∧ y.ready = true
      ∧ y.master = x.master := by
  have hready : x.ready = true := (Option.filter_eq_some_iff.mp hx).2
  rw [execKeyUpdate, spdm_body hup h hport hversion, hx]
  exact ⟨_, _, rfl, Tbl.get?_put_same .., rfl, hready, rfl⟩

theorem endSession_noSession (h : r.code = 0xEC) (hx : s.session? r.session = none) :
    execEndSession r s = .next (s.reply (spdmError 2)) := by
  rw [execEndSession, spdm_body hup h hport hversion, hx]
  exact respond_of_up hup _

theorem endSession_ends (h : r.code = 0xEC) {x : Session} (hx : s.session? r.session = some x) : ∃ u,
    execEndSession r s = .next u ∧ Tbl.get? u.hub.rot.sessions r.session = none := by
  rw [execEndSession, spdm_body hup h hport hversion, hx]
  exact ⟨_, rfl, Tbl.get?_del_same ..⟩

end Answers

/-! ### Kelhel's operations: evidence and pods (R409 to R413) -/

/-- A Kelhel request of an operation, in the form that the frame lets through. -/
def IsKelhel (r : SpdmReq) (op : Nat) : Prop :=
  r.code = 0xFE ∧ r.version = 0x14 ∧ r.vendor = 0x4B4C ∧ r.op = op

/-- The root of trust's own notes change nothing that a request is judged by. -/
theorem State.observe_keeps (s : State) : s.observe.rotUp = s.rotUp ∧ s.observe.hub.enclaves = s.hub.enclaves := by
  unfold State.observe
  split <;> exact ⟨rfl, rfl⟩

section Operations

variable {s : State} {r : SpdmReq} (hup : s.rotUp = true) (hport : r.port ≤ 3)
include hup hport

theorem isKelhel_body {op : Nat} {body : Out} (h : IsKelhel r op) : s.kelhel r op body = body := by
  obtain ⟨hcode, hversion, hvendor, hop⟩ := h
  exact kelhel_body hup hcode hport hversion hvendor hop

theorem podForm_noSession (h : IsKelhel r 2) (hx : s.session? r.session = none) :
    execPodForm r s = .next (s.reply unsupported) := by
  rw [execPodForm, isKelhel_body hup hport h, hx]
  exact respond_of_up hup _

theorem getPodPath_noSession (h : IsKelhel r 3) (hx : s.session? r.session = none) :
    execGetPodPath r s = .next (s.reply unsupported) := by
  rw [execGetPodPath, isKelhel_body hup hport h, hx]
  exact respond_of_up hup _

section Session

variable {x : Session} (hx : s.session? r.session = some x)
include hx

theorem podForm_session (h : IsKelhel r 2) : execPodForm r s
    = if r.arg = 0 ∨ 4096 < r.arg ∨ r.data.length ≠ 32 + 34 * r.arg then s.respond [3#8]
      else if 4 ≤ s.hub.rot.podOps then s.respond [2#8]
      else .next ((s.modRot fun r => { r with podOps := r.podOps + 1 }).laterWithin 70000000 (.podDone r)) := by
  rw [execPodForm, isKelhel_body hup hport h, hx]
  rfl

theorem podForm_noMembers (h : IsKelhel r 2) (harg : r.arg = 0) : execPodForm r s = .next (s.reply [3#8]) := by
  rw [podForm_session hup hport hx h, if_pos (.inl harg), respond_of_up hup]

theorem podForm_busy (h : IsKelhel r 2) (hlow : 1 ≤ r.arg) (hhigh : r.arg ≤ 4096) (hdata : r.data.length = 32 + 34 * r.arg)
    (hops : 4 ≤ s.hub.rot.podOps) : execPodForm r s = .next (s.reply [2#8]) := by
  rw [podForm_session hup hport hx h, if_neg (by omega), if_pos hops, respond_of_up hup]

theorem podForm_starts (h : IsKelhel r 2) (hlow : 1 ≤ r.arg) (hhigh : r.arg ≤ 4096) (hdata : r.data.length = 32 + 34 * r.arg)
    (hops : s.hub.rot.podOps < 4) : ∃ u n, execPodForm r s = .next u ∧ u.hub.rot.podOps = s.hub.rot.podOps + 1
      ∧ (n, Event.podDone r) ∈ u.agenda ∧ n ≤ s.ac + 70000000 := by
  rw [podForm_session hup hport hx h, if_neg (by omega), if_neg (Nat.not_le.mpr hops)]
  exact ⟨_, _, rfl, rfl, List.mem_append_right _ (List.mem_singleton_self _), Nat.add_le_add_left (Nat.min_le_left ..) _⟩

theorem getPodPath_busy (h : IsKelhel r 3) (hdata : r.data.length = 32) (hops : 4 ≤ s.hub.rot.podOps) :
    execGetPodPath r s = .next (s.reply [2#8]) := by
  rw [execGetPodPath, isKelhel_body hup hport h, hx]
  simp only [hdata, hops, Option.isNone_some, Bool.false_eq_true, ne_eq, not_true_eq_false, if_false, if_true]
  exact respond_of_up hup _

theorem getPodPath_member (h : IsKelhel r 3) (hdata : r.data.length = 32) (hops : s.hub.rot.podOps < 4) {p : Pod} {b : List Byte}
    (hp : (s.hub.rot.pods.find? fun p => p.nonce == r.data) = some p) (hb : p.bodies[r.arg]? = some b) :
    ∃ path, execGetPodPath r s = .next (s.reply (0#8 :: b ++ path)) := by
  rw [execGetPodPath, isKelhel_body hup hport h, hx]
  simp only [hdata, Nat.not_le.mpr hops, hp, hb, Option.isNone_some, Bool.false_eq_true, ne_eq, not_true_eq_false, if_false]
  exact ⟨_, respond_of_up hup _⟩

theorem getPodPath_noPod (h : IsKelhel r 3) (hdata : r.data.length = 32) (hops : s.hub.rot.podOps < 4)
    (hp : (s.hub.rot.pods.find? fun p => p.nonce == r.data) = none) : execGetPodPath r s = .next (s.reply [5#8]) := by
  rw [execGetPodPath, isKelhel_body hup hport h, hx]
  simp only [hdata, Nat.not_le.mpr hops, hp, Option.isNone_some, Bool.false_eq_true, ne_eq, not_true_eq_false, if_false]
  exact respond_of_up hup _

end Session

theorem evidence_badRequest (h : IsKelhel r 1) (hbad : 65536 ≤ r.arg ∨ r.data.length ≠ 32) :
    execGetEnclaveEvidence r s = .next (s.reply [3#8]) := by
  rw [execGetEnclaveEvidence, isKelhel_body hup hport h, if_pos hbad, respond_of_up hup]

section Evidence

variable (h : IsKelhel r 1) (harg : r.arg < 65536) (hdata : r.data.length = 32)
include h harg hdata

theorem evidence_served : execGetEnclaveEvidence r s = s.drawn.evidenceAt s.free r := by
  rw [execGetEnclaveEvidence, isKelhel_body hup hport h, if_neg (by omega)]

theorem evidence_waits (hwait : s.drawn.evidenceWaits r.arg s.free = true) :
    execGetEnclaveEvidence r s = .next (s.drawn.at (s.ac + 1) (.evidence s.free r)) := by
  rw [evidence_served hup hport h harg hdata, State.evidenceAt, if_pos hwait]
  rfl

variable (hserve : s.drawn.evidenceWaits r.arg s.free = false)
include hserve

theorem evidence_noEnclave (he : Tbl.get? s.hub.enclaves r.arg = none) :
    ∃ u, execGetEnclaveEvidence r s = .next u ∧ u.hub.rot.reply = [1#8] := by
  obtain ⟨hobs, henc⟩ := s.drawn.observe_keeps
  rw [evidence_served hup hport h harg hdata, State.evidenceAt, if_neg (ne_true_of_eq_false hserve)]
  dsimp only
  rw [(congrArg (Tbl.get? · r.arg) henc).trans he]
  exact ⟨_, respond_of_up (hobs.trans hup) _, rfl⟩

theorem evidence_signed {e : Enclave} (he : Tbl.get? s.hub.enclaves r.arg = some e) : ∃ (u : State) (sig : List Byte),
    execGetEnclaveEvidence r s = .next u ∧ u.hub.rot.reply = 0#8 :: u.evidenceBody r.arg e r.data ++ sig := by
  obtain ⟨hobs, henc⟩ := s.drawn.observe_keeps
  rw [evidence_served hup hport h harg hdata, State.evidenceAt, if_neg (ne_true_of_eq_false hserve)]
  dsimp only
  rw [(congrArg (Tbl.get? · r.arg) henc).trans he]
  exact ⟨_, _, respond_of_up (hobs.trans hup) _, rfl⟩

end Evidence
end Operations

/-! ### TDISP (R322) -/

theorem tdi_put_same (s : State) (i : Nat) (x : Tdi) :
    (s.modHub fun h => { h with tdis := Tbl.put h.tdis i x }).tdi i = x := Tbl.getD_put_same ..

section Tdisp

variable {s : State} {r : TdispReq} (hup : s.rotUp = true)
include hup

theorem tdisp_lock (hop : r.op = 1) (ht : (s.tdi r.tdi).state = 0) : ∃ u, execTdispRequest r s = .next u
    ∧ (u.tdi r.tdi).state = 1 := by
  simp only [execTdispRequest, hup, hop, ht, Bool.not_true, Bool.false_eq_true, if_false, if_true]
  exact ⟨_, rfl, congrArg Tdi.state (tdi_put_same ..)⟩

theorem tdisp_start (hop : r.op = 2) (ht : (s.tdi r.tdi).state = 1) (hn : r.nonce = (s.tdi r.tdi).nonce) :
    ∃ u, execTdispRequest r s = .next u ∧ u.tdi r.tdi = { s.tdi r.tdi with state := 2 } := by
  simp only [execTdispRequest, hup, hop, Bool.not_true, Bool.false_eq_true, if_false, if_pos (And.intro ht hn)]
  exact ⟨_, rfl, tdi_put_same ..⟩

theorem tdisp_start_refused (hop : r.op = 2) (h : (s.tdi r.tdi).state ≠ 1 ∨ r.nonce ≠ (s.tdi r.tdi).nonce) :
    execTdispRequest r s = .next s := by
  simp only [execTdispRequest, hup, hop, Bool.not_true, Bool.false_eq_true, if_false]
  exact if_neg (not_and_or.mpr h)

theorem tdisp_stop (hop : r.op = 3) : ∃ u, execTdispRequest r s = .next u ∧ (u.tdi r.tdi).state = 0 := by
  simp only [execTdispRequest, hup, hop, Bool.not_true, Bool.false_eq_true, if_false]
  exact ⟨_, rfl, congrArg Tdi.state (tdi_put_same ..)⟩

theorem tdisp_error (hop : r.op = 5) : ∃ u, execTdispRequest r s = .next u ∧ (u.tdi r.tdi).state = 3
    ∧ (u.tdi r.tdi).bound = [] := by
  simp only [execTdispRequest, hup, hop, Bool.not_true, Bool.false_eq_true, if_false]
  exact ⟨_, rfl, congrArg Tdi.state (tdi_put_same ..), congrArg Tdi.bound (tdi_put_same ..)⟩

end Tdisp

/-! ### IDE_KM (R323, R324) -/

section IdeKm

variable {s : State} {r : IdeReq} (hup : s.rotUp = true)
include hup

theorem ideKm_noSession (hx : s.session? r.session = none) : execIdeKmRequest r s = .next (s.reply unsupported) := by
  simp only [execIdeKmRequest, hup, hx, Bool.not_true, Bool.false_eq_true, if_false, Option.isNone_none, Bool.true_or, if_true]
  exact respond_of_up hup _

variable {x : Session} (hx : s.session? r.session = some x) (hstream : streamOk r.port r.stream = true) (hsub : r.sub < 8)
include hx hstream hsub

/-- KEY_PROG: a port of the module takes the key of the request, an accelerator link one that its session's key gives. -/
theorem ideKm_program (hop : r.op = 1) (heid : r.eid = 0 ∨ (Tbl.get? s.hub.enclaves r.eid).isSome = true) :
    ∃ u, execIdeKmRequest r s = .next u
      ∧ (r.port < 2 → Tbl.get? u.hub.ideKeys (ideKey r.port r.stream r.sub) = some r.key)
      ∧ (2 ≤ r.port → Tbl.get? u.hub.ideKeys (ideKey r.port r.stream r.sub)
        = some (leNat (cryptoOut 16 (x.kflKey ++ leBytes 4 (ideKey r.port r.stream r.sub)) 32)))
      ∧ Tbl.fget 0 u.hub.ideEid (ideKey r.port r.stream r.sub) = r.eid := by
  have hgood : ¬ (r.eid ≠ 0 ∧ (Tbl.get? s.hub.enclaves r.eid).isNone = true) := by
    rintro ⟨hne, hnone⟩
    rcases heid with h | h
    · exact hne h
    · simp_all
  simp only [execIdeKmRequest, hup, hx, hstream, hop, Nat.not_le.mpr hsub, if_neg hgood, Bool.not_true, Option.isNone_some,
    Bool.false_eq_true, Bool.or_self, decide_false, if_false]
  refine ⟨_, rfl, fun hport => (Tbl.get?_put_same ..).trans ?_, fun hport => (Tbl.get?_put_same ..).trans ?_,
    Tbl.fget_fset_same ..⟩
  · rw [if_pos hport]
  · rw [if_neg (Nat.not_lt.mpr hport)]
    rfl

theorem ideKm_go (hop : r.op = 2) {key : Nat} (hkey : Tbl.get? s.hub.ideKeys (ideKey r.port r.stream r.sub) = some key) :
    ∃ u, execIdeKmRequest r s = .next u ∧ Tbl.get? u.hub.ideKeys (ideKey r.port r.stream r.sub + 1) = some key := by
  simp only [execIdeKmRequest, hup, hx, hstream, hop, hkey, Nat.not_le.mpr hsub, Bool.not_true, Option.isNone_some,
    Bool.false_eq_true, Bool.or_self, decide_false, if_false]
  exact ⟨_, rfl, Tbl.get?_put_same ..⟩

theorem ideKm_stop (hop : r.op = 3) : ∃ u, execIdeKmRequest r s = .next u
    ∧ Tbl.get? u.hub.ideKeys (ideKey r.port r.stream r.sub) = none
    ∧ Tbl.get? u.hub.ideKeys (ideKey r.port r.stream r.sub + 1) = none := by
  simp only [execIdeKmRequest, hup, hx, hstream, hop, Nat.not_le.mpr hsub, Bool.not_true, Option.isNone_some,
    Bool.false_eq_true, Bool.or_self, decide_false, if_false]
  exact ⟨_, rfl, (Tbl.get?_del_other _ (by omega)).trans (Tbl.get?_del_same ..), Tbl.get?_del_same ..⟩

end IdeKm

/-! ### Accesses from outside (R314, R411) -/

section Inbound

variable {s : State} {r : InboundReq} (hon : s.module.on = true) (hstream : s.offStream r = false)
include hon hstream

theorem inbound_management (hsource : r.source = 3) : execInboundDeviceAccess r s = .next (s.mctpRead r) := by
  simp only [execInboundDeviceAccess, hon, hstream, hsource, Bool.not_true, Bool.false_eq_true, Bool.or_self, if_false, if_true]

variable (hsource : r.source ≠ 3)
include hsource

theorem inbound_msix {e : Option Nat} {on : Bool} (hmsix : r.msix = some (e, on)) (hvf : ofVf r = true) :
    execInboundDeviceAccess r s = .next (s.msixMask r.agent e on) := by
  simp only [execInboundDeviceAccess, hon, hstream, if_neg hsource, hmsix, hvf, Bool.not_true, Bool.false_eq_true, Bool.or_self,
    if_false, if_true]

variable (hmsix : r.msix = none) {n : Nat} (hn : n = if r.write then r.bytes.length else r.len) (hne : n ≠ 0)
  (hkick : inKick r.addr = false)
include hmsix hn hne hkick

/-- Past the checks of the kind of access, the pages decide, and then the rows. -/
theorem inbound_memory : execInboundDeviceAccess r s
    = if !s.inboundOk r n then .next (if r.write then s else s.modHub fun h => { h with dmaReply := [] })
      else if (s.rowsPass 256 (.inboundAccess r) (lineAccs (linesOf r.addr n))).2 then
        .next (s.rowsPass 256 (.inboundAccess r) (lineAccs (linesOf r.addr n))).1
      else if r.write then
        .next ((s.rowsPass 256 (.inboundAccess r) (lineAccs (linesOf r.addr n))).1.write r.addr r.bytes)
      else
        let u := (s.rowsPass 256 (.inboundAccess r) (lineAccs (linesOf r.addr n))).1
        let w := u.meet ((u.boundEid r).getD 0) 0xFFFF r.addr n
        .next (w.modHub fun h => { h with dmaReply := if w.integ r.addr n then [] else w.bytes r.addr n }) := by
  subst hn
  simp only [execInboundDeviceAccess, hon, hstream, hmsix, hkick, if_neg hsource, if_neg hne, Bool.not_true,
    Bool.false_eq_true, Bool.or_self, if_false]

theorem inbound_refused (hok : s.inboundOk r n = false) : execInboundDeviceAccess r s
    = .next (if r.write then s else s.modHub fun h => { h with dmaReply := [] }) := by
  rw [inbound_memory hon hstream hsource hmsix hn hne hkick, hok]
  rfl

variable (hok : s.inboundOk r n = true) {u : State} {held : Bool}
  (hrows : s.rowsPass 256 (.inboundAccess r) (lineAccs (linesOf r.addr n)) = (u, held))
include hok hrows

theorem inbound_held (hheld : held = true) : execInboundDeviceAccess r s = .next u := by
  rw [inbound_memory hon hstream hsource hmsix hn hne hkick, hok, hrows, hheld]
  rfl

theorem inbound_write (hheld : held = false) (hwrite : r.write = true) :
    execInboundDeviceAccess r s = .next (u.write r.addr r.bytes) := by
  rw [inbound_memory hon hstream hsource hmsix hn hne hkick, hok, hrows, hheld, hwrite]
  rfl

theorem inbound_read (hheld : held = false) (hwrite : r.write = false) {w : State}
    (hw : w = u.meet ((u.boundEid r).getD 0) 0xFFFF r.addr r.len) : execInboundDeviceAccess r s
      = .next (w.modHub fun h => { h with dmaReply := if w.integ r.addr r.len then [] else w.bytes r.addr r.len }) := by
  have hlen : n = r.len := by rw [hn, hwrite]; rfl
  rw [inbound_memory hon hstream hsource hmsix hn hne hkick, hok, hrows, hheld, hwrite, hlen, hw]
  rfl

end Inbound

theorem mctpRead_refused {s : State} {r : InboundReq} (h : s.module.stage < 2 ∨ r.write = true) : s.mctpRead r = s := by
  refine if_pos ?_
  rcases h with h | h <;> simp [h]

/-! ### Registers, undefined words, trace and trust (O56) -/

/-- A request of a code, as one of SPDM 1.4. -/
def asCode (r : SpdmReq) (n : Nat) : SpdmReq := { r with code := n, version := 0x14 }

/-- A request of one of Kelhel's operations. -/
def asKelhel (r : SpdmReq) (n : Nat) : SpdmReq := { r with code := 0xFE, version := 0x14, vendor := 0x4B4C, op := n }

theorem isKelhel_asKelhel (r : SpdmReq) (n : Nat) : IsKelhel (asKelhel r n) n := ⟨rfl, rfl, rfl, rfl⟩

/-- A request's instructions, each with the code that it answers (not to be compiled: `Instr` has too many constructors). -/
noncomputable def spdmRows (r : SpdmReq) : List (Nat × Instr) :=
  [(0x84, .getVersion r), (0xE1, .getCapabilities r), (0xE3, .negotiateAlgorithms r), (0x81, .getDigests r),
    (0x82, .getCertificate r), (0x83, .challenge r), (0xE0, .getMeasurements r), (0xE4, .keyExchange r), (0xE5, .finish r),
    (0xE8, .heartbeat r), (0xE9, .keyUpdate r), (0xEC, .endSession r), (0xFE, .getEnclaveEvidence r), (0xFE, .podForm r),
    (0xFE, .getPodPath r)]

/-- Each row's instruction is its body under the frame of its code. -/
theorem spdmRows_framed {r : SpdmReq} {row : Nat × Instr} (h : row ∈ spdmRows r) (s : State) :
    ∃ body, exec row.2 s = s.spdm r row.1 body := by
  simp only [spdmRows, List.mem_cons, List.not_mem_nil, or_false] at h
  rcases h with rfl | rfl | rfl | rfl | rfl | rfl | rfl | rfl | rfl | rfl | rfl | rfl | rfl | rfl | rfl <;> exact ⟨_, rfl⟩

/-- While the root of trust is down, nothing answers. -/
theorem spdmRows_down {s : State} {r : SpdmReq} (hdown : s.rotUp = false) :
    ∀ i ∈ (spdmRows r).map Prod.snd, exec i s = .next s := by
  intro i hi
  obtain ⟨row, hrow, rfl⟩ := List.mem_map.mp hi
  obtain ⟨body, hbody⟩ := spdmRows_framed hrow s
  exact hbody.trans (spdm_of_down hdown)

/-- The rows of the vendor-defined code are Kelhel's operations. -/
theorem spdmRows_kelhel {r : SpdmReq} {row : Nat × Instr} (h : row ∈ spdmRows r) (hvendor : row.1 = 0xFE) (s : State) :
    ∃ op body, exec row.2 s = s.kelhel r op body := by
  simp only [spdmRows, List.mem_cons, List.not_mem_nil, or_false] at h
  rcases h with rfl | rfl | rfl | rfl | rfl | rfl | rfl | rfl | rfl | rfl | rfl | rfl | rfl | rfl | rfl
  iterate 12 exact absurd hvendor (Nat.ne_of_beq_eq_false rfl)
  all_goals exact ⟨_, _, rfl⟩

/-- Settles O56: each event's rule, as the sections above state it. -/
theorem registerTraceAndTrustEvents : Obligations.RegisterTraceAndTrustEvents := by
  refine ⟨fun s a n v hkick hhub => registerWrite_outside n v hkick hhub, fun s a n v => registerWrite_goes s a n v,
    fun s p v hp hv => hubWrite_cap hp hv, fun s w gid sp tid => ⟨undefOpcode_simt, undefOpcode_thread⟩, ?trace, ?links, ?spdm,
    ?tdisp, ?ide, ?management, ?memory⟩
  case trace =>
    exact fun s q k v => ⟨trctlEnable_unbound, fun heid hoff hset =>
      ⟨trctlEnable_badBuffer heid hoff hset, trctlEnable_goodBuffer heid hoff hset⟩, chunkFlush_keepsTurns s k,
      lossMark_turns_simt s k, stallSample_keepsTurns s k⟩
  case links =>
    intro s l d k hk
    have hswitch (hl : l < 160) : exec (.keySwitch l d) s = .next (s.switchKey l k) := by
      rw [hk]
      exact if_neg (Nat.not_le.mpr hl)
    refine ⟨fun hl => ⟨if_pos hl, if_pos hl⟩, fun hl hroom => ?_, fun hl hfull hnext => ?_, fun hl hnext => ?_,
      fun hl hnext => ?_, completionTimeout_drops s l⟩
    · obtain ⟨u, hu, hdir⟩ := linkDir_linkRetransmit s hk hl
      rw [sendFlit_of_room l hroom] at hdir
      exact ⟨u, hu, hdir⟩
    · obtain ⟨u, hu, hdir⟩ := linkDir_linkRetransmit s hk hl
      obtain ⟨hidx, hflits⟩ := sendFlit_of_full l hfull hnext
      exact ⟨u, hu, by rw [hdir, hidx], by rw [hdir, hflits]⟩
    · exact ⟨_, hswitch hl, switchKey_of_not_next l hnext⟩
    · exact (hswitch hl).trans (congrArg _ (switchKey_of_next l hnext))
  case spdm =>
    refine fun s r => ⟨spdmRows_down, fun hup row hrow => ⟨fun h => ?_, fun hcode hport hversion hvendor h => ?_⟩,
      fun hup hport hversion hcode hvendor => ⟨kelhel_op hup hcode hport hversion hvendor,
        kelhel_op hup hcode hport hversion hvendor, kelhel_op hup hcode hport hversion hvendor⟩, ?answers⟩
    · obtain ⟨body, hbody⟩ := spdmRows_framed hrow s
      exact hbody.trans (spdm_unsupported hup h)
    · obtain ⟨op, body, hbody⟩ := spdmRows_kelhel hrow hvendor s
      exact hbody.trans (kelhel_vendor hup (hcode.trans hvendor) hport hversion h)
    case answers =>
      rintro _ _ rfl rfl hup hport
      have c (n : Nat) : (asCode r n).port ≤ 3 := hport
      have v (n : Nat) : (asKelhel r n).port ≤ 3 := hport
      have k := isKelhel_asKelhel r
      refine ⟨fun x => getVersion_answers (r := { r with code := 0x84, version := x }) hup hport rfl,
        ⟨_, getCapabilities_answers hup (c 0xE1) rfl rfl⟩,
        fun h => ⟨_, negotiate_agreed hup (c 0xE3) rfl rfl h, rfl, rfl⟩,
        negotiate_refused hup (c 0xE3) rfl rfl, getDigests_answers hup (c 0x81) rfl rfl,
        getCertificate_slot hup (c 0x82) rfl rfl,
        fun h => ⟨getCertificate_noSlot hup (c 0x82) rfl rfl h, challenge_noSlot hup (c 0x83) rfl rfl h⟩,
        fun x h hx => challenge_signed hup (c 0x83) rfl rfl h hx, getMeasurements_count hup (c 0xE0) rfl rfl,
        fun x hx => getMeasurements_signed hup (c 0xE0) rfl rfl hx, keyExchange_unnegotiated hup (c 0xE4) rfl rfl,
        fun n hneg => keyExchange_opens hup (c 0xE4) rfl rfl hneg, keyExchange_full hup (c 0xE4) rfl rfl,
        fun x hx hready => ⟨finish_verified hup (c 0xE5) rfl rfl hx hready, finish_refused hup (c 0xE5) rfl rfl hx hready⟩,
        fun hx => ⟨heartbeat_noSession hup (c 0xE8) rfl rfl hx, keyUpdate_noSession hup (c 0xE9) rfl rfl hx,
          endSession_noSession hup (c 0xEC) rfl rfl hx, podForm_noSession hup (v 2) (k 2) hx,
          getPodPath_noSession hup (v 3) (k 3) hx⟩,
        fun x hx => ?session, evidence_badRequest hup (v 1) (k 1), fun harg hdata => ?evidence⟩
      case session =>
        exact ⟨heartbeat_answers hup (c 0xE8) rfl rfl hx, keyUpdate_keeps hup (c 0xE9) rfl rfl hx,
          endSession_ends hup (c 0xEC) rfl rfl hx, podForm_noMembers hup (v 2) hx (k 2),
          fun hlow hhigh hdata => ⟨podForm_busy hup (v 2) hx (k 2) hlow hhigh hdata,
            podForm_starts hup (v 2) hx (k 2) hlow hhigh hdata⟩,
          getPodPath_busy hup (v 3) hx (k 3), fun p b hdata hops => getPodPath_member hup (v 3) hx (k 3) hdata hops,
          getPodPath_noPod hup (v 3) hx (k 3)⟩
      case evidence =>
        exact ⟨evidence_waits hup (v 1) (k 1) harg hdata, fun hserve =>
          ⟨evidence_noEnclave hup (v 1) (k 1) harg hdata hserve, fun e => evidence_signed hup (v 1) (k 1) harg hdata hserve⟩⟩
  case tdisp =>
    rintro s r t hup rfl
    exact ⟨tdisp_lock hup, tdisp_start hup, tdisp_start_refused hup, tdisp_stop hup, tdisp_error hup⟩
  case ide =>
    exact fun s r hup => ⟨ideKm_noSession hup, fun x hx hstream hsub => ⟨ideKm_program hup hx hstream hsub,
      fun key hop => ideKm_go hup hx hstream hsub hop, ideKm_stop hup hx hstream hsub⟩⟩
  case management =>
    exact fun s r hon hstream hsource => ⟨inbound_management hon hstream hsource, mctpRead_refused⟩
  case memory =>
    exact fun s r n hon hstream hsource hn => ⟨fun e on => inbound_msix hon hstream hsource, fun hmsix hne hkick =>
      ⟨inbound_refused hon hstream hsource hmsix hn hne hkick, fun u held hok hrows =>
        ⟨inbound_held hon hstream hsource hmsix hn hne hkick hok hrows,
          inbound_write hon hstream hsource hmsix hn hne hkick hok hrows,
          fun hheld hwrite w => inbound_read hon hstream hsource hmsix hn hne hkick hok hrows hheld hwrite⟩⟩⟩

end Sys2Proof.Machine

/-! ## O10: `fit`, and the flags of integer instructions (R178) -/

namespace Sys2Proof.Machine

/-! ### Codes and the numbers they are read as (R177) -/

theorem wrapInt_eq_toNat (w : Nat) (x : Int) : wrapInt w x = (BitVec.ofInt w x).toNat := (BitVec.toNat_ofInt x).symm

theorem signedOf_eq_toInt (w x : Nat) : signedOf w x = (BitVec.ofNat w x).toInt := by
  cases w with
  | zero => simp [signedOf, Nat.mod_one, BitVec.toInt_zero_length]
  | succ n =>
    rw [signedOf, BitVec.toInt_eq_toNat_cond, BitVec.toNat_ofNat, Nat.add_sub_cancel, Nat.pow_succ]
    by_cases h : 2 ^ n ≤ x % (2 ^ n * 2)
    · rw [if_pos h, if_neg (by omega)]
    · rw [if_neg h, if_pos (by omega)]

section

variable {w : Nat} (sg : Bool) (a : BitVec w)

@[simp] theorem readInt_true_toNat : readInt true w a.toNat = a.toInt := by
  simp [readInt, signedOf_eq_toInt]

@[simp] theorem readInt_false_toNat : readInt false w a.toNat = a.toNat := by
  simp [readInt, Nat.mod_eq_of_lt a.isLt]

@[simp] theorem ofInt_readInt : BitVec.ofInt w (readInt sg w a.toNat) = a := by
  cases sg with
  | false => simp
  | true => simp

end

/-! ### `fit` (R178) -/

section

variable {sg : Bool} {w : Nat} {x : Int}

theorem intMin_le_intMax (sg : Bool) (w : Nat) : intMin sg w ≤ intMax sg w := by
  have hhalf := Nat.two_pow_pos (w - 1)
  have hfull := Nat.two_pow_pos w
  cases sg with
  | false => simp only [intMin, intMax, Bool.false_eq_true, if_false]; omega
  | true => simp only [intMin, intMax, if_true]; omega

/-- A number of the type's range is read back from its code. -/
theorem readInt_wrapInt (hw : 0 < w) (hmin : intMin sg w ≤ x) (hmax : x ≤ intMax sg w) : readInt sg w (wrapInt w x) = x := by
  rw [wrapInt_eq_toNat]
  cases sg with
  | false =>
    simp only [intMin, intMax, Bool.false_eq_true, if_false] at hmin hmax
    rw [readInt_false_toNat, BitVec.toNat_ofInt, Int.emod_eq_of_lt hmin (by omega), Int.toNat_of_nonneg hmin]
  | true =>
    simp only [intMin, intMax, if_true, Int.natCast_pow, Nat.cast_ofNat] at hmin hmax
    rw [readInt_true_toNat, BitVec.toInt_ofInt_eq_self hw hmin (by omega)]

theorem fit_wrap : fit false sg w x = (wrapInt w x, 0#5) := rfl

theorem fit_below (h : x < intMin sg w) : fit true sg w x = (wrapInt w (intMin sg w), 4#5) := by
  simp [fit, h, flagOF]

theorem fit_above (h : intMax sg w < x) : fit true sg w x = (wrapInt w (intMax sg w), 4#5) := by
  have := intMin_le_intMax sg w
  simp [fit, h, flagOF, show ¬ x < intMin sg w by omega]

theorem fit_within (sat : Bool) (hmin : intMin sg w ≤ x) (hmax : x ≤ intMax sg w) : fit sat sg w x = (wrapInt w x, 0#5) := by
  simp [fit, Int.not_lt.mpr hmin, Int.not_lt.mpr hmax]

/-- The fitted number, and when it is marked. -/
theorem fit_sat (hw : 0 < w) (sg : Bool) (x : Int) :
    readInt sg w (fit true sg w x).1 = max (intMin sg w) (min (intMax sg w) x)
    ∧ ((fit true sg w x).2 = 4#5 ↔ x < intMin sg w ∨ intMax sg w < x) := by
  have hle := intMin_le_intMax sg w
  rcases Int.lt_or_le x (intMin sg w) with hmin | hmin
  · rw [fit_below hmin, readInt_wrapInt hw (Int.le_refl _) hle]
    exact ⟨by omega, by simp [hmin]⟩
  rcases Int.lt_or_le (intMax sg w) x with hmax | hmax
  · rw [fit_above hmax, readInt_wrapInt hw hle (Int.le_refl _)]
    exact ⟨by omega, by simp [hmax]⟩
  · rw [fit_within true hmin hmax, readInt_wrapInt hw hmin hmax]
    exact ⟨by omega, iff_of_false (by simp) (by omega)⟩

theorem wrapInt_cast (w : Nat) (x : Int) : (wrapInt w x : Int) = x % 2 ^ w := by
  rw [wrapInt, Int.toNat_of_nonneg (Int.emod_nonneg _ (by positivity)), Int.natCast_pow, Nat.cast_ofNat]

end

/-! ### Flags of element operations and of the registers' images (R178, R201) -/

/-- No flag but OF, and OF only under SAT. -/
def OnlyOverflow (sat : Bool) (fl : Flags) : Prop := fl = 0#5 ∨ (sat = true ∧ fl = 4#5)

theorem OnlyOverflow.or {sat : Bool} {x y : Flags} (hx : OnlyOverflow sat x) (hy : OnlyOverflow sat y) :
    OnlyOverflow sat (x ||| y) := by
  rcases hx with rfl | ⟨hs, rfl⟩ <;> rcases hy with rfl | ⟨hs, rfl⟩
  · exact .inl rfl
  all_goals exact .inr ⟨hs, rfl⟩

theorem packElems_flags {sat : Bool} (w : Nat) {l : List (Nat × Flags)} (h : ∀ x ∈ l, OnlyOverflow sat x.2) (e : Nat) :
    OnlyOverflow sat (packElems w l e).2 := by
  induction l generalizing e with
  | nil => exact .inl rfl
  | cons x r ih => exact (h x List.mem_cons_self).or (ih (fun y hy => h y (List.mem_cons_of_mem _ hy)) (e + 1))

theorem mapElems_flags {sat : Bool} (w n : Nat) {f : Nat → Nat × Flags} (h : ∀ e, OnlyOverflow sat (f e).2) :
    OnlyOverflow sat (mapElems w n f).fl :=
  packElems_flags w (by simp [h]) 0

theorem fit_flags (sat sg : Bool) (w : Nat) (x : Int) : OnlyOverflow sat (fit sat sg w x).2 := by
  unfold fit
  split
  case isTrue h => exact .inr ⟨(Bool.and_eq_true_iff.mp h).1, rfl⟩
  case isFalse => exact .inl rfl

/-- What R178 says of the flags of an element operation. -/
def ElemOp.OnlyOverflow (op : ElemOp) : Prop :=
  ∀ (sat sg : Bool) (w a c d : Nat), Machine.OnlyOverflow sat (op sat sg w a c d).2

theorem fitOp_flags (f : Int → Int → Int → Int) : ElemOp.OnlyOverflow (fitOp f) := fun sat sg w _ _ _ => fit_flags sat sg w _

theorem codeOp_flags (f : Bool → Nat → Nat → Nat → Nat → Nat) : ElemOp.OnlyOverflow (codeOp f) := fun _ _ _ _ _ _ => .inl rfl

/-- The integer element operations: those that fit an exact number, and those that give a code. -/
theorem integerOps_flags : ∀ op ∈ ([opAdd, opSub, opMul, opMulh, opMad, opMin, opMax, opAbs, opNeg, opAnd, opOr, opXor, opAndn,
    opNot, opShl, opShr, opSar, opRotl, opBfx, opBfi, opPopc, opClz, opCtz, opBrev, opDiv, opRem] : List ElemOp),
    op.OnlyOverflow := by
  simp only [List.forall_mem_cons]
  exact ⟨fitOp_flags _, fitOp_flags _, fitOp_flags _, codeOp_flags _, fitOp_flags _, codeOp_flags _, codeOp_flags _,
    fitOp_flags _, fitOp_flags _, codeOp_flags _, codeOp_flags _, codeOp_flags _, codeOp_flags _, codeOp_flags _,
    codeOp_flags _, codeOp_flags _, codeOp_flags _, codeOp_flags _, codeOp_flags _, codeOp_flags _, codeOp_flags _,
    codeOp_flags _, codeOp_flags _, codeOp_flags _, codeOp_flags _, codeOp_flags _, List.forall_mem_nil _⟩

/-- The flags of lanes, each none or OF, are OF exactly where a lane's is, unless they were raised before. -/
theorem foldl_flags {f : Nat → Flags} (h : ∀ l, f l = 0#5 ∨ f l = 4#5) (lanes : List Nat) (fl : Flags) :
    lanes.foldl (fun fl l => fl ||| f l) fl = fl
    ∨ (∃ l ∈ lanes, f l = 4#5) ∧ lanes.foldl (fun fl l => fl ||| f l) fl = fl ||| 4#5 := by
  induction lanes generalizing fl with
  | nil => exact .inl rfl
  | cons l r ih =>
    rw [List.foldl_cons]
    rcases h l with h0 | h4
    · rw [h0, BitVec.or_zero]
      exact (ih fl).imp_right fun ⟨⟨k, hk, hf⟩, hr⟩ => ⟨⟨k, List.mem_cons_of_mem _ hk, hf⟩, hr⟩
    · rw [h4]
      refine .inr ⟨⟨l, List.mem_cons_self, h4⟩, ?_⟩
      rcases ih (fl ||| 4#5) with hr | ⟨-, hr⟩
      · exact hr
      · rw [hr, BitVec.or_assoc, BitVec.or_self]

theorem laneImages_pure_flags (lanes : List Nat) (wide : Bool) (d : Nat) (x : Nat → W64) :
    (laneImages lanes wide d fun l => Res.pure (x l)).flags = 0#5 :=
  (foldl_flags (f := fun _ => 0#5) (fun _ => .inl rfl) lanes 0#5).resolve_right fun ⟨⟨_, _, h⟩, _⟩ => absurd h (by decide)

/-- Settles O10: an element is a fitted number or a code without a flag, and the flags of elements and lanes are combined. -/
theorem fitRule : Obligations.FitRule := by
  unfold Obligations.FitRule
  refine ⟨fun sat sg w x hw => ⟨?below, ?above, ?wraps, ?reads⟩, integerOps_flags,
    fun op hop arith rd a c d l ua uc ud => ?rows, fun rd x l => ⟨rfl, rfl, fit_flags ..⟩, fun lanes wide d f hf => ?lanes, fun x y s gid sp g p rd h => ?moves,
    fun x y s => ⟨fun gid sp g p rd h => ?simt, fun tid t h => ?thread⟩⟩
  case below =>
    rintro rfl h
    rw [fit_below h]
    exact ⟨rfl, readInt_wrapInt hw (Int.le_refl _) (intMin_le_intMax sg w)⟩
  case above =>
    rintro rfl h
    rw [fit_above h]
    exact ⟨rfl, readInt_wrapInt hw (intMin_le_intMax sg w) (Int.le_refl _)⟩
  case wraps =>
    rintro (rfl | ⟨hmin, hmax⟩)
    · exact ⟨rfl, wrapInt_cast w x⟩
    · rw [fit_within sat hmin hmax]
      exact ⟨rfl, wrapInt_cast w x⟩
  case reads =>
    intro hmin hmax
    rw [fit_within sat hmin hmax]
    exact readInt_wrapInt hw hmin hmax
  case rows =>
    have hflags := integerOps_flags op hop
    exact ⟨mapElems_flags _ _ fun e => hflags .., hflags .., rfl⟩
  case lanes =>
    refine (foldl_flags hf lanes 0#5).imp_right fun ⟨hl, hr⟩ => ⟨hl, hr.trans (BitVec.zero_or ..)⟩
  case moves =>
    obtain ⟨-, -, -, hmov, hsel, -⟩ := vectorMoveAndPartialRows s gid sp g p rd h
    exact ⟨fun hp => ⟨_, laneImages_pure_flags .., hmov x hp⟩, fun hp => ⟨_, laneImages_pure_flags .., hsel y hp⟩⟩
  case simt =>
    obtain ⟨-, -, -, -, -, hicmp⟩ := vectorMoveAndPartialRows s gid sp g p rd h
    obtain ⟨-, -, hmov, hicmpU⟩ := uniformIntegerRows
    exact ⟨fun hp => ⟨_, rfl, hicmp x hp⟩, fun hp => ⟨_, rfl, (hicmpU x s).1 gid sp g p rd h hp⟩,
      fun hp => ⟨_, rfl, (hmov y s).1 gid sp g p rd h hp⟩⟩
  case thread =>
    obtain ⟨-, -, hmov, hicmpU⟩ := uniformIntegerRows
    exact ⟨fun hp => ⟨_, rfl, (hicmpU x s).2 tid t h hp⟩, fun hp => ⟨_, rfl, (hmov y s).2 tid t h hp⟩⟩

end Sys2Proof.Machine

/-! ## O11: shifts and ROTL, and the elements of an image (R177, R180) -/

namespace Sys2Proof.Machine

/-! ### The elements of an image (R177) -/

theorem packElems_append (w : Nat) (l : List (Nat × Flags)) (x : Nat × Flags) (e : Nat) :
    (packElems w (l ++ [x]) e).1 = (packElems w l e).1 + x.1 % 2 ^ w * 2 ^ (w * (e + l.length)) := by
  induction l generalizing e with
  | nil => simp [packElems]
  | cons y r ih =>
    simp only [List.cons_append, packElems, ih, List.length_cons, Nat.add_assoc, Nat.add_comm 1]

theorem packElems_range (w n : Nat) (f : Nat → Nat × Flags) :
    (packElems w ((List.range n).map f) 0).1 = codeRow w (fun e => (f e).1 % 2 ^ w) n := by
  induction n with
  | zero => rfl
  | succ n ih => simp [List.range_succ, packElems_append, codeRow_succ, ih]

theorem mapElems_x (w n : Nat) (f : Nat → Nat × Flags) :
    (mapElems w n f).x = BitVec.ofNat 64 (packElems w ((List.range n).map f) 0).1 := rfl

theorem elem_mapElems {w n : Nat} (hroom : w * n ≤ 64) (f : Nat → Nat × Flags) {e : Nat} (he : e < n) :
    elem w e (mapElems w n f).x = (f e).1 % 2 ^ w := by
  have hcode (e : Nat) : (f e).1 % 2 ^ w < 2 ^ w := Nat.mod_lt _ (Nat.two_pow_pos w)
  have hrow : codeRow w (fun e => (f e).1 % 2 ^ w) n < 2 ^ 64 :=
    (codeRow_lt hcode n).trans_le (Nat.pow_le_pow_right Nat.two_pos hroom)
  rw [elem, mapElems_x, packElems_range, BitVec.toNat_ofNat, Nat.mod_eq_of_lt hrow, fieldOf_codeRow hcode he]

theorem elemWidth_mul_elemCount_le (ety : Nat) : elemWidth ety * elemCount ety ≤ 64 := by
  unfold elemWidth elemCount
  split_ifs <;> omega

theorem ety64_bitEty (ety : Nat) : ety64 (bitEty ety) = ety64 ety := by
  unfold bitEty
  split_ifs with h8 h16
  · subst h8; rfl
  · rcases h16 with rfl | rfl <;> rfl
  · rfl

theorem ety64_intEty (arith : Bool) (rd : Rd) : ety64 (intEty arith rd) = ety64 (modeEty rd.mode) := by
  cases arith with
  | false => exact ety64_bitEty _
  | true => rfl

theorem elem_intLane {arith : Bool} {rd : Rd} (op : ElemOp) (a c : Opnd) (d l : Nat) {e : Nat}
    (h64 : ety64 (modeEty rd.mode) = false) (he : e < elemCount (intEty arith rd)) :
    elem (elemWidth (intEty arith rd)) e (intLane arith op rd a c d l).x
      = (op (modeSat rd.mode) (etySigned (intEty arith rd)) (elemWidth (intEty arith rd))
          (elem (elemWidth (intEty arith rd)) e (rd.vec false a l)) (elem (elemWidth (intEty arith rd)) e (rd.vec false c l))
          (elem (elemWidth (intEty arith rd)) e ((rd.v d l).setWidth 64))).1 % 2 ^ elemWidth (intEty arith rd) := by
  rw [intLane, elem_mapElems (elemWidth_mul_elemCount_le _) _ he, ety64_intEty, h64]
  rfl

/-! ### Shifts and ROTL (R180) -/

theorem codeOp_mod (f : Bool → Nat → Nat → Nat → Nat → Nat) (sat sg : Bool) (w a c d : Nat) :
    (codeOp f sat sg w a c d).1 % 2 ^ w = (codeOp f sat sg w a c d).1 := Nat.mod_mod _ _

/-- A code operation whose number is a word, mod 2^w. -/
theorem codeOp_eq {f : Bool → Nat → Nat → Nat → Nat → Nat} {sg : Bool} {w a c d : Nat} {x : BitVec w} (sat : Bool)
    (h : f sg w a c d % 2 ^ w = x.toNat) : codeOp f sat sg w a c d = (x.toNat, 0#5) := Prod.ext h rfl

/-- A code operation whose number is a word. -/
theorem codeOp_word {f : Bool → Nat → Nat → Nat → Nat → Nat} {sg : Bool} {w a c d : Nat} {x : BitVec w} (sat : Bool)
    (h : f sg w a c d = x.toNat) : codeOp f sat sg w a c d = (x.toNat, 0#5) :=
  codeOp_eq sat (by rw [h, Nat.mod_eq_of_lt x.isLt])

section

variable {w : Nat} (sat sg : Bool) (a c d : BitVec w)

theorem opShl_eq : opShl sat sg w a.toNat c.toNat d.toNat = ((a <<< c.toNat).toNat, 0#5) := by
  refine codeOp_eq sat ?_
  rw [BitVec.toNat_shiftLeft, Nat.shiftLeft_eq]
  split
  case isTrue h =>
    rw [Nat.zero_mod, Nat.mod_eq_zero_of_dvd (Dvd.dvd.mul_left (Nat.pow_dvd_pow 2 h) _)]
  case isFalse => rfl

theorem opShl_of_le (h : w ≤ c.toNat) : (opShl sat sg w a.toNat c.toNat d.toNat).1 = 0 := by
  rw [opShl_eq, BitVec.shiftLeft_eq_zero h]
  exact BitVec.toNat_zero

theorem opShr_eq : opShr sat sg w a.toNat c.toNat d.toNat = ((a >>> c.toNat).toNat, 0#5) := by
  refine codeOp_word sat ?_
  rw [BitVec.toNat_ushiftRight, Nat.shiftRight_eq_div_pow]
  split
  case isTrue h => rw [Nat.div_eq_of_lt (a.isLt.trans_le (Nat.pow_le_pow_right Nat.two_pos h))]
  case isFalse => rfl

theorem opShr_of_le (h : w ≤ c.toNat) : (opShr sat sg w a.toNat c.toNat d.toNat).1 = 0 := by
  rw [opShr_eq, BitVec.ushiftRight_eq_zero h]
  exact BitVec.toNat_zero

theorem ofInt_neg_one (w : Nat) : BitVec.ofInt w (-1) = BitVec.allOnes w := BitVec.ofInt_neg.trans BitVec.neg_one_eq_allOnes

/-- A count at or above the width leaves copies of the top bit. -/
theorem toInt_ediv_of_le {a : BitVec w} {k : Nat} (h : w ≤ k) : a.toInt / (2 ^ k : Nat) = if a.msb then -1 else 0 := by
  have hlt : a.toNat < 2 ^ w := a.isLt
  have hle : 2 ^ w ≤ 2 ^ k := Nat.pow_le_pow_right Nat.two_pos h
  rw [BitVec.toInt_eq_msb_cond]
  generalize 2 ^ k = top at hle
  generalize 2 ^ w = full at hlt hle
  cases a.msb with
  | false => exact Int.ediv_eq_zero_of_lt (Int.natCast_nonneg _) (Int.ofNat_lt.mpr (hlt.trans_le hle))
  | true =>
    simp only [if_true]
    rw [Int.ediv_eq_iff_of_pos] <;> omega

theorem opSar_eq : opSar sat sg w a.toNat c.toNat d.toNat = ((a.sshiftRight c.toNat).toNat, 0#5) := by
  refine codeOp_word sat ?_
  rw [wrapInt_eq_toNat, signedOf_eq_toInt, BitVec.ofNat_toNat, BitVec.setWidth_eq, BitVec.sshiftRight, Int.shiftRight_eq_div_pow]
  split
  case isTrue h => rw [toInt_ediv_of_le (Nat.le_refl w), toInt_ediv_of_le h]
  case isFalse => rfl

theorem opSar_of_le (h : w ≤ c.toNat) : (opSar sat sg w a.toNat c.toNat d.toNat).1 = if a.msb then 2 ^ w - 1 else 0 := by
  rw [opSar_eq, BitVec.sshiftRight, Int.shiftRight_eq_div_pow, toInt_ediv_of_le h]
  cases a.msb with
  | false => simp
  | true => simp only [if_true, ofInt_neg_one, BitVec.toNat_allOnes]

theorem opRotl_eq (hw : 0 < w) : opRotl sat sg w a.toNat c.toNat d.toNat = ((a.rotateLeft (c.toNat % w)).toNat, 0#5) := by
  refine codeOp_eq sat ?_
  have hr : c.toNat % w < w := Nat.mod_lt _ hw
  generalize c.toNat % w = r at hr
  have hsplit : 2 ^ w = 2 ^ (w - r) * 2 ^ r := by rw [← Nat.pow_add, Nat.sub_add_cancel hr.le]
  have hlow : a.toNat / 2 ^ (w - r) < 2 ^ r := Nat.div_lt_of_lt_mul (hsplit ▸ a.isLt)
  rw [BitVec.toNat_rotateLeft, Nat.mod_eq_of_lt hr, Nat.shiftRight_eq_div_pow, Nat.shiftLeft_eq, hsplit, Nat.mul_mod_mul_right,
    ← Nat.shiftLeft_eq (a.toNat % _), ← Nat.shiftLeft_add_eq_or_of_lt hlow, Nat.shiftLeft_eq]
  rw [Nat.mul_comm (2 ^ (w - r)), Nat.mod_mul, Nat.mul_comm a.toNat, Nat.mul_add_mod, Nat.mod_eq_of_lt hlow,
    Nat.mul_add_div (Nat.two_pow_pos r), Nat.div_eq_of_lt hlow, Nat.add_zero, Nat.add_comm, Nat.mul_comm]

end

/-- Settles O11: each operation is the word's own, and an element of the image is the operation on elements. -/
theorem shiftRule : Obligations.ShiftRule := by
  unfold Obligations.ShiftRule
  refine ⟨fun w sat sg a c d hw => ⟨opShl_eq .., opShr_eq ..,
    fun h => ⟨opShl_of_le sat sg a c d h, opShr_of_le sat sg a c d h⟩, opSar_eq .., opSar_of_le sat sg a c d, opRotl_eq sat sg a c d hw⟩, fun op arith rd a c d l e hop _ h64 he => ?_⟩
  rw [elem_intLane op a c d l h64 he]
  simp only [List.mem_cons, List.not_mem_nil, or_false, Prod.mk.injEq] at hop
  rcases hop with ⟨rfl, -⟩ | ⟨rfl, -⟩ | ⟨rfl, -⟩ | ⟨rfl, -⟩ <;> exact codeOp_mod ..

end Sys2Proof.Machine

/-! ## O12: IDIV and IREM (R182) -/

namespace Sys2Proof.Machine

/-! ### IDIV and IREM (R182) -/

theorem ofInt_sub (w : Nat) (x y : Int) : BitVec.ofInt w (x - y) = BitVec.ofInt w x - BitVec.ofInt w y := by
  rw [Int.sub_eq_add_neg, BitVec.ofInt_add, BitVec.ofInt_neg, BitVec.sub_eq_add_neg]

theorem ofInt_tdiv_natCast (w m n : Nat) : BitVec.ofInt w (Int.tdiv m n) = BitVec.ofNat w (m / n) := by
  rw [← Int.ofNat_tdiv, BitVec.ofInt_natCast]

theorem toInt_allOnes_of_pos {w : Nat} (hw : 0 < w) : (BitVec.allOnes w).toInt = -1 := by
  rw [BitVec.toInt_allOnes, if_pos hw]

section

variable {w : Nat} (sat sg : Bool) (a d : BitVec w)

theorem opDiv_zero : (opDiv sat sg w a.toNat 0 d.toNat).1 = (BitVec.allOnes w).toNat := by
  rw [BitVec.toNat_allOnes]
  exact Nat.mod_eq_of_lt (Nat.sub_lt (Nat.two_pow_pos w) Nat.one_pos)

theorem opRem_zero : (opRem sat sg w a.toNat 0 d.toNat).1 = a.toNat := Nat.mod_eq_of_lt a.isLt

variable {c : BitVec w} (hc : c ≠ 0#w)
include hc

theorem opDiv_of_ne : opDiv sat sg w a.toNat c.toNat d.toNat
    = ((BitVec.ofInt w (Int.tdiv (readInt sg w a.toNat) (readInt sg w c.toNat))).toNat, 0#5) :=
  codeOp_word sat ((if_neg (BitVec.toNat_ne.mp hc)).trans (wrapInt_eq_toNat ..))

theorem opRem_of_ne : opRem sat sg w a.toNat c.toNat d.toNat
    = ((BitVec.ofInt w (Int.tmod (readInt sg w a.toNat) (readInt sg w c.toNat))).toNat, 0#5) :=
  codeOp_word sat ((if_neg (BitVec.toNat_ne.mp hc)).trans (wrapInt_eq_toNat ..))

theorem opDiv_unsigned : (opDiv sat false w a.toNat c.toNat d.toNat).1 = a.toNat / c.toNat := by
  rw [opDiv_of_ne sat false a d hc, readInt_false_toNat, readInt_false_toNat, ofInt_tdiv_natCast, BitVec.toNat_ofNat,
    Nat.mod_eq_of_lt ((Nat.div_le_self ..).trans_lt a.isLt)]

theorem opDiv_signed : (opDiv sat true w a.toNat c.toNat d.toNat).1 = (BitVec.ofInt w (a.toInt.tdiv c.toInt)).toNat := by
  rw [opDiv_of_ne sat true a d hc, readInt_true_toNat, readInt_true_toNat]

/-- The remainder is a − c × quotient, as words. -/
theorem opRem_eq_sub : (opRem sat sg w a.toNat c.toNat d.toNat).1
    = (a - c * BitVec.ofNat w (opDiv sat sg w a.toNat c.toNat d.toNat).1).toNat := by
  rw [opRem_of_ne sat sg a d hc, opDiv_of_ne sat sg a d hc, Int.tmod_def, ofInt_sub, BitVec.ofInt_mul, ofInt_readInt,
    ofInt_readInt, BitVec.ofNat_toNat, BitVec.setWidth_eq]

theorem opRem_signed : (BitVec.ofNat w (opRem sat true w a.toNat c.toNat d.toNat).1).toInt = a.toInt.tmod c.toInt := by
  rw [opRem_of_ne sat true a d hc, readInt_true_toNat, readInt_true_toNat, BitVec.ofNat_toNat, BitVec.setWidth_eq,
    ← BitVec.toInt_srem, BitVec.ofInt_toInt]

end

section

variable {w : Nat} (hw : 0 < w) (sat : Bool) (d : BitVec w)
include hw

theorem allOnes_ne_zero : BitVec.allOnes w ≠ 0#w := fun h => by
  have htoInt := congrArg BitVec.toInt h
  rw [toInt_allOnes_of_pos hw, BitVec.toInt_zero] at htoInt
  exact absurd htoInt (by decide)

theorem opDiv_intMin : (opDiv sat true w (BitVec.intMin w).toNat (BitVec.allOnes w).toNat d.toNat).1
    = (BitVec.intMin w).toNat := by
  rw [opDiv_signed sat _ d (allOnes_ne_zero hw), toInt_allOnes_of_pos hw, Int.tdiv_neg, Int.tdiv_one, BitVec.ofInt_neg,
    BitVec.ofInt_toInt, BitVec.neg_intMin]

theorem opRem_intMin : (opRem sat true w (BitVec.intMin w).toNat (BitVec.allOnes w).toNat d.toNat).1 = 0 := by
  rw [opRem_eq_sub sat true _ d (allOnes_ne_zero hw), opDiv_intMin hw, BitVec.ofNat_toNat, BitVec.setWidth_eq,
    ← BitVec.neg_one_eq_allOnes, BitVec.neg_mul, BitVec.one_mul, BitVec.neg_intMin, BitVec.sub_self, BitVec.toNat_zero]

end

/-- Settles O12: the quotient's and the remainder's laws, and that IDIV and IREM are `vecInt3` of them. -/
theorem divisionRule : Obligations.DivisionRule := by
  unfold Obligations.DivisionRule
  refine ⟨fun w sat sg a c d hw => ⟨rfl, rfl, fun hc => ⟨opDiv_unsigned sat a d hc, opDiv_signed sat a d hc,
    opRem_eq_sub sat sg a d hc, opRem_signed sat a d hc⟩, ?zero, ?least⟩, ?rows⟩
  case zero =>
    rintro rfl
    exact ⟨opDiv_zero sat sg a d, opRem_zero sat sg a d⟩
  case least =>
    rintro rfl rfl
    exact ⟨opDiv_intMin hw sat d, opRem_intMin hw sat d⟩
  case rows =>
    rintro row hrow x s gid sp g p rd ⟨hat, rfl⟩ hp
    simp only [List.mem_cons, List.not_mem_nil, or_false] at hrow
    rcases hrow with rfl | rfl
    · exact (vecInt3_next _ _ _ _ x hat hp : execIdiv x s = _)
    · exact (vecInt3_next _ _ _ _ x hat hp : execIrem x s = _)

end Sys2Proof.Machine

/-! ## O13: the element operations of Table 1 of ch09 (R177 to R179, R181) -/

namespace Sys2Proof.Machine

/-! ### Sums, products, order (R178, R179) -/

theorem fitOp_wrap (f : Int → Int → Int → Int) (sg : Bool) (w a c d : Nat) :
    fitOp f false sg w a c d = ((BitVec.ofInt w (f (readInt sg w a) (readInt sg w c) (readInt sg w d))).toNat, 0#5) := by
  rw [fitOp, fit_wrap, wrapInt_eq_toNat]

section

variable {w : Nat} (sat sg : Bool) (a c d : BitVec w)

theorem opAdd_wrap : opAdd false sg w a.toNat c.toNat d.toNat = ((a + c).toNat, 0#5) := by
  rw [opAdd, fitOp_wrap, BitVec.ofInt_add, ofInt_readInt, ofInt_readInt]

theorem opSub_wrap : opSub false sg w a.toNat c.toNat d.toNat = ((a - c).toNat, 0#5) := by
  rw [opSub, fitOp_wrap, ofInt_sub, ofInt_readInt, ofInt_readInt]

theorem opMul_wrap : opMul false sg w a.toNat c.toNat d.toNat = ((a * c).toNat, 0#5) := by
  rw [opMul, fitOp_wrap, BitVec.ofInt_mul, ofInt_readInt, ofInt_readInt]

theorem opMad_wrap : opMad false sg w a.toNat c.toNat d.toNat = ((a * c + d).toNat, 0#5) := by
  rw [opMad, fitOp_wrap, BitVec.ofInt_add, BitVec.ofInt_mul, ofInt_readInt, ofInt_readInt, ofInt_readInt]

theorem opNeg_wrap : opNeg false sg w a.toNat c.toNat d.toNat = ((-a).toNat, 0#5) := by
  rw [opNeg, fitOp_wrap, BitVec.ofInt_neg, ofInt_readInt]

theorem ofInt_abs_toInt : BitVec.ofInt w |a.toInt| = a.abs := by
  rw [BitVec.abs, BitVec.msb_eq_toInt, BitVec.neg_eq]
  split
  case isTrue h => rw [abs_of_neg (of_decide_eq_true h), BitVec.ofInt_neg, BitVec.ofInt_toInt]
  case isFalse h => rw [abs_of_nonneg (Int.not_lt.mp (of_decide_eq_false (Bool.eq_false_of_not_eq_true h))), BitVec.ofInt_toInt]

theorem opAbs_wrap_signed : opAbs false true w a.toNat c.toNat d.toNat = (a.abs.toNat, 0#5) := by
  rw [opAbs, fitOp_wrap, readInt_true_toNat, ofInt_abs_toInt]

/-- An unsigned number is its own absolute value, and lies in its type's range. -/
theorem opAbs_unsigned : opAbs sat false w a.toNat c.toNat d.toNat = (a.toNat, 0#5) := by
  have hmax : (a.toNat : Int) ≤ intMax false w := Int.le_sub_one_of_lt (Int.ofNat_lt.mpr a.isLt)
  rw [opAbs, fitOp, readInt_false_toNat, Nat.abs_cast, fit_within sat (Int.natCast_nonneg _) hmax, wrapInt_eq_toNat,
    BitVec.ofInt_natCast, BitVec.ofNat_toNat, BitVec.setWidth_eq]

theorem opMin_of_le {sg : Bool} {a c : BitVec w} {le : Bool} (h : readInt sg w a.toNat ≤ readInt sg w c.toNat ↔ le = true) :
    opMin sat sg w a.toNat c.toNat d.toNat = ((if le then a else c).toNat, 0#5) :=
  codeOp_word sat (by simp only [h, apply_ite BitVec.toNat])

theorem opMax_of_le {sg : Bool} {a c : BitVec w} {le : Bool} (h : readInt sg w a.toNat ≤ readInt sg w c.toNat ↔ le = true) :
    opMax sat sg w a.toNat c.toNat d.toNat = ((if le then c else a).toNat, 0#5) :=
  codeOp_word sat (by simp only [h, apply_ite BitVec.toNat])

theorem readInt_le_iff_sle : readInt true w a.toNat ≤ readInt true w c.toNat ↔ a.sle c = true := by
  rw [readInt_true_toNat, readInt_true_toNat, BitVec.sle_iff_toInt_le]

theorem readInt_le_iff_ule : readInt false w a.toNat ≤ readInt false w c.toNat ↔ a.ule c = true := by
  rw [readInt_false_toNat, readInt_false_toNat, Int.ofNat_le, BitVec.ule_iff_toNat_le]

theorem opMulh_unsigned : opMulh sat false w a.toNat c.toNat d.toNat = (a.toNat * c.toNat / 2 ^ w, 0#5) := by
  have hlt : a.toNat * c.toNat / 2 ^ w < 2 ^ w := Nat.div_lt_of_lt_mul (Nat.mul_lt_mul'' a.isLt c.isLt)
  have hword : a.toNat * c.toNat / 2 ^ w = (BitVec.ofNat w (a.toNat * c.toNat / 2 ^ w)).toNat := by
    rw [BitVec.toNat_ofNat, Nat.mod_eq_of_lt hlt]
  rw [hword]
  refine codeOp_word sat ?_
  rw [wrapInt_eq_toNat, readInt_false_toNat, readInt_false_toNat, ← Int.natCast_mul, ← Int.natCast_ediv, BitVec.ofInt_natCast]

theorem opMulh_signed :
    opMulh sat true w a.toNat c.toNat d.toNat = ((BitVec.ofInt w (a.toInt * c.toInt / 2 ^ w)).toNat, 0#5) := by
  refine codeOp_word sat ?_
  rw [wrapInt_eq_toNat, readInt_true_toNat, readInt_true_toNat, Int.natCast_pow, Nat.cast_ofNat]

/-! ### The bitwise rows and BREV (R179) -/

theorem opAnd_eq : opAnd sat sg w a.toNat c.toNat d.toNat = ((a &&& c).toNat, 0#5) :=
  codeOp_word sat (BitVec.toNat_and ..).symm

theorem opOr_eq : opOr sat sg w a.toNat c.toNat d.toNat = ((a ||| c).toNat, 0#5) :=
  codeOp_word sat (BitVec.toNat_or ..).symm

theorem opXor_eq : opXor sat sg w a.toNat c.toNat d.toNat = ((a ^^^ c).toNat, 0#5) :=
  codeOp_word sat (BitVec.toNat_xor ..).symm

theorem opAndn_eq : opAndn sat sg w a.toNat c.toNat d.toNat = ((a &&& ~~~c).toNat, 0#5) :=
  codeOp_word sat (by rw [BitVec.toNat_and, BitVec.toNat_not, Nat.mod_eq_of_lt c.isLt])

theorem opNot_eq : opNot sat sg w a.toNat c.toNat d.toNat = ((~~~a).toNat, 0#5) :=
  codeOp_word sat (by rw [BitVec.toNat_not, Nat.mod_eq_of_lt a.isLt])

end

theorem revBits_lt (n x : Nat) : revBits n x < 2 ^ n := by
  induction n generalizing x with
  | zero => exact Nat.one_pos
  | succ n ih =>
    have hlow := ih (x / 2)
    have htop : x % 2 * 2 ^ n ≤ 1 * 2 ^ n := Nat.mul_le_mul_right _ (Nat.le_of_lt_succ (Nat.mod_lt x Nat.two_pos))
    rw [revBits, Nat.pow_succ]
    omega

theorem testBit_revBits {n i : Nat} (x : Nat) (hi : i < n) : (revBits n x).testBit i = x.testBit (n - 1 - i) := by
  induction n generalizing x i with
  | zero => exact absurd hi (Nat.not_lt_zero i)
  | succ n ih =>
    rw [revBits, Nat.mul_comm, Nat.testBit_two_pow_mul_add _ (revBits_lt n _)]
    rcases Nat.lt_succ_iff_lt_or_eq.mp hi with hlt | rfl
    · rw [if_pos hlt, ih _ hlt, ← Nat.testBit_succ]
      congr 1
      omega
    · simp

theorem opBrev_eq {w : Nat} (sat sg : Bool) (a c d : BitVec w) :
    opBrev sat sg w a.toNat c.toNat d.toNat = (a.reverse.toNat, 0#5) := by
  have hrev : BitVec.ofNat w (revBits w a.toNat) = a.reverse := by
    refine BitVec.eq_of_getLsbD_eq fun i hi => ?_
    rw [BitVec.getLsbD_reverse, BitVec.getMsbD, BitVec.getLsbD_ofNat, testBit_revBits _ hi]
    rfl
  exact codeOp_eq sat (by rw [← hrev, BitVec.toNat_ofNat])

/-! ### POPC, CLZ and CTZ -/

theorem popcount_eq_countP (n x : Nat) : popcount n x = (List.range n).countP x.testBit := by
  induction n generalizing x with
  | zero => rfl
  | succ n ih =>
    have hbits : x.testBit ∘ Nat.succ = (x / 2).testBit := funext fun i => Nat.testBit_succ x i
    rw [popcount, ih, List.range_succ_eq_map, List.countP_cons, List.countP_map, hbits, Nat.add_comm, Nat.testBit_zero]
    rcases Nat.mod_two_eq_zero_or_one x with h | h <;> simp [h]

theorem bitLen_le (n x : Nat) : bitLen n x ≤ n := by
  induction n generalizing x with
  | zero => exact Nat.le_refl 0
  | succ n ih =>
    have := ih (x / 2)
    rw [bitLen]
    split <;> omega

theorem lt_two_pow_bitLen {n x : Nat} (h : x < 2 ^ n) : x < 2 ^ bitLen n x := by
  induction n generalizing x with
  | zero => exact h
  | succ n ih =>
    rw [bitLen]
    split
    case isTrue hx => simp [hx]
    case isFalse =>
      have := ih (x := x / 2) (by rw [Nat.pow_succ] at h; omega)
      rw [Nat.add_comm, Nat.pow_succ]
      omega

theorem testBit_bitLen_pred {n x : Nat} (h : x < 2 ^ n) (hpos : 0 < bitLen n x) : x.testBit (bitLen n x - 1) = true := by
  induction n generalizing x with
  | zero => exact absurd hpos (Nat.lt_irrefl 0)
  | succ n ih =>
    rw [bitLen] at hpos ⊢
    split at hpos
    case isTrue => exact absurd hpos (Nat.lt_irrefl 0)
    case isFalse hx =>
      rw [if_neg hx, Nat.add_sub_cancel_left]
      have hhalf : x / 2 < 2 ^ n := by rw [Nat.pow_succ] at h; omega
      have hlt := lt_two_pow_bitLen hhalf
      rcases Nat.eq_zero_or_pos (bitLen n (x / 2)) with h0 | hpos
      · rw [h0] at hlt ⊢
        exact (Nat.testBit_zero x).trans (decide_eq_true (by omega))
      · rw [← ih hhalf hpos, ← Nat.testBit_succ, Nat.succ_eq_add_one, Nat.sub_add_cancel hpos]

theorem trailZeros_le (n x : Nat) : trailZeros n x ≤ n := by
  induction n generalizing x with
  | zero => exact Nat.le_refl 0
  | succ n ih =>
    have := ih (x / 2)
    rw [trailZeros]
    split <;> omega

theorem testBit_of_lt_trailZeros {n x k : Nat} (h : k < trailZeros n x) : x.testBit k = false := by
  induction n generalizing x k with
  | zero => exact absurd h (Nat.not_lt_zero k)
  | succ n ih =>
    rw [trailZeros] at h
    split at h
    case isTrue => exact absurd h (Nat.not_lt_zero k)
    case isFalse hx =>
      cases k with
      | zero => rw [Nat.testBit_zero, decide_eq_false hx]
      | succ k => rw [Nat.testBit_succ]; exact ih (by omega)

theorem testBit_trailZeros {n x : Nat} (h : trailZeros n x < n) : x.testBit (trailZeros n x) = true := by
  induction n generalizing x with
  | zero => exact absurd h (Nat.not_lt_zero _)
  | succ n ih =>
    rw [trailZeros] at h ⊢
    split at h
    case isTrue hx => rw [if_pos hx, Nat.testBit_zero, decide_eq_true hx]
    case isFalse hx => rw [if_neg hx, Nat.add_comm, Nat.testBit_succ]; exact ih (by omega)

section

variable {w : Nat} (sat sg : Bool) (a c d : BitVec w)

theorem mod_of_le_width {n w : Nat} (h : n ≤ w) : n % 2 ^ w = n := Nat.mod_eq_of_lt (h.trans_lt Nat.lt_two_pow_self)

theorem opPopc_eq : (opPopc sat sg w a.toNat c.toNat d.toNat).1 = (List.range w).countP a.getLsbD := by
  have hle : (List.range w).countP a.getLsbD ≤ w := List.countP_le_length.trans_eq List.length_range
  exact (congrArg (· % 2 ^ w) (popcount_eq_countP w a.toNat)).trans (mod_of_le_width hle)

theorem opClz_eq : (opClz sat sg w a.toNat c.toNat d.toNat).1 = w - bitLen w a.toNat := mod_of_le_width (Nat.sub_le ..)

theorem opCtz_eq : (opCtz sat sg w a.toNat c.toNat d.toNat).1 = trailZeros w a.toNat := mod_of_le_width (trailZeros_le ..)

theorem getLsbD_of_le_clz {k : Nat} (h : w ≤ k + (opClz sat sg w a.toNat c.toNat d.toNat).1) : a.getLsbD k = false := by
  rw [opClz_eq] at h
  have hle : bitLen w a.toNat ≤ k := by have := bitLen_le w a.toNat; omega
  exact Nat.testBit_lt_two_pow ((lt_two_pow_bitLen a.isLt).trans_le (Nat.pow_le_pow_right Nat.two_pos hle))

theorem getLsbD_clz (h : (opClz sat sg w a.toNat c.toNat d.toNat).1 < w) :
    a.getLsbD (w - 1 - (opClz sat sg w a.toNat c.toNat d.toNat).1) = true := by
  rw [opClz_eq] at h ⊢
  have hle := bitLen_le w a.toNat
  rw [show w - 1 - (w - bitLen w a.toNat) = bitLen w a.toNat - 1 by omega]
  exact testBit_bitLen_pred a.isLt (by omega)

end

/-! ### BFX and BFI (R181) -/

theorem fieldLen_eq (w c : Nat) : fieldLen w c = min (c / 256 % 256) (w - c % 256) := by
  simp only [fieldLen, fieldOf, Nat.reducePow, Nat.div_one]
  split <;> omega

theorem fieldOf_toNat {w : Nat} (a : BitVec w) (pos n : Nat) : fieldOf a.toNat pos n = (a.extractLsb' pos n).toNat := by
  rw [BitVec.extractLsb'_toNat, Nat.shiftRight_eq_div_pow, fieldOf]

theorem opBfx_eq {w : Nat} (sat sg : Bool) (a d : BitVec w) {c pos n : Nat} (hpos : fieldOf c 0 8 = pos)
    (hn : fieldLen w c = n) : (opBfx sat sg w a.toNat c d.toNat).1
      = (if sg then (a.extractLsb' pos n).signExtend w else (a.extractLsb' pos n).setWidth w).toNat := by
  refine congrArg Prod.fst (codeOp_eq sat ?_)
  simp only [hpos, hn, fieldOf_toNat, signedOf_eq_toInt, BitVec.ofNat_toNat, BitVec.setWidth_eq, wrapInt_eq_toNat]
  split
  case isTrue h0 =>
    subst h0
    rw [BitVec.eq_nil (a.extractLsb' pos 0)]
    cases sg with
    | false => simp
    | true => simp [BitVec.signExtend]
  case isFalse =>
    cases sg with
    | false => exact (BitVec.toNat_setWidth ..).symm
    | true => exact Nat.mod_eq_of_lt (BitVec.isLt _)

/-- A number with `n` bits from `pos` replaced, in its three parts. -/
theorem replaceField_eq (d x pos n : Nat) :
    d - fieldOf d pos n * 2 ^ pos + x * 2 ^ pos = 2 ^ pos * (2 ^ n * (d / 2 ^ pos / 2 ^ n) + x) + d % 2 ^ pos := by
  have hd : d = 2 ^ pos * (2 ^ n * (d / 2 ^ pos / 2 ^ n)) + fieldOf d pos n * 2 ^ pos + d % 2 ^ pos := by
    calc d = 2 ^ pos * (d / 2 ^ pos) + d % 2 ^ pos := (Nat.div_add_mod ..).symm
      _ = 2 ^ pos * (2 ^ n * (d / 2 ^ pos / 2 ^ n) + d / 2 ^ pos % 2 ^ n) + d % 2 ^ pos := by rw [Nat.div_add_mod (d / 2 ^ pos)]
      _ = _ := by rw [fieldOf]; ring
  rw [Nat.mul_add, Nat.mul_comm (2 ^ pos) x]
  omega

theorem testBit_replaceField {x n : Nat} (hx : x < 2 ^ n) (d pos k : Nat) :
    (d - fieldOf d pos n * 2 ^ pos + x * 2 ^ pos).testBit k
      = if pos ≤ k ∧ k < pos + n then x.testBit (k - pos) else d.testBit k := by
  rw [replaceField_eq, Nat.testBit_two_pow_mul_add _ (Nat.mod_lt _ (Nat.two_pow_pos pos)), Nat.testBit_two_pow_mul_add _ hx]
  by_cases hlow : k < pos
  · rw [if_pos hlow, if_neg (by omega), Nat.testBit_mod_two_pow, decide_eq_true hlow, Bool.true_and]
  by_cases hin : k - pos < n
  · rw [if_neg hlow, if_pos hin, if_pos (by omega)]
  · rw [if_neg hlow, if_neg hin, if_neg (by omega), Nat.testBit_div_two_pow, Nat.testBit_div_two_pow]
    congr 1
    omega

theorem getLsbD_opBfi {w : Nat} (sat sg : Bool) (a d : BitVec w) {c pos n : Nat} (hpos : fieldOf c 0 8 = pos)
    (hn : fieldLen w c = n) {k : Nat} (hk : k < w) :
    (BitVec.ofNat w (opBfi sat sg w a.toNat c d.toNat).1).getLsbD k
      = if pos ≤ k ∧ k < pos + n then a.getLsbD (k - pos) else d.getLsbD k := by
  rw [BitVec.getLsbD_ofNat, decide_eq_true hk, Bool.true_and]
  change ((if fieldLen w c = 0 then _ else _) % 2 ^ w).testBit k = _
  rw [Nat.testBit_mod_two_pow, decide_eq_true hk, Bool.true_and, hn, hpos]
  split
  case isTrue h0 => rw [if_neg (by omega)]; rfl
  case isFalse =>
    rw [testBit_replaceField (Nat.mod_lt _ (Nat.two_pow_pos n)), Nat.testBit_mod_two_pow]
    split
    case isTrue hin => rw [decide_eq_true (by omega), Bool.true_and]; rfl
    case isFalse => rfl

/-- Settles O13: row by row of Table 1, each operation's own law. -/
theorem integerElementValues : Obligations.IntegerElementValues := by
  unfold Obligations.IntegerElementValues
  refine ⟨fun w sat sg a c d _ => ⟨opAdd_wrap .., opSub_wrap .., opMul_wrap .., opMad_wrap .., opNeg_wrap ..,
    opAbs_wrap_signed .., opAbs_unsigned .., opMin_of_le _ _ (readInt_le_iff_sle a c), opMin_of_le _ _ (readInt_le_iff_ule a c),
    opMax_of_le _ _ (readInt_le_iff_sle a c), opMax_of_le _ _ (readInt_le_iff_ule a c), opMulh_unsigned .., opMulh_signed ..,
    opAnd_eq .., opOr_eq .., opXor_eq .., opAndn_eq .., opNot_eq .., opBrev_eq ..⟩, fun w sg a c d hw => ?saturated,
    fun w sat sg a c d _ => ?counts, fun w sat sg a c d pos n _ hpos hn => ?fields⟩
  case saturated =>
    simp only [List.forall_mem_cons]
    exact ⟨fit_sat hw sg _, fit_sat hw sg _, fit_sat hw sg _, fit_sat hw sg _, fit_sat hw sg _,
      fit_sat hw sg _, List.forall_mem_nil _⟩
  case counts =>
    exact ⟨opPopc_eq .., (opClz_eq sat sg a c d).trans_le (Nat.sub_le ..), fun _ => getLsbD_of_le_clz sat sg a c d,
      getLsbD_clz sat sg a c d, (opCtz_eq sat sg a c d).trans_le (trailZeros_le ..),
      fun k hk => testBit_of_lt_trailZeros (opCtz_eq sat sg a c d ▸ hk),
      fun h => by rw [opCtz_eq] at h ⊢; exact testBit_trailZeros h⟩
  case fields =>
    have hpos' : fieldOf c.toNat 0 8 = pos := by rw [hpos]; simp [fieldOf]
    have hn' : fieldLen w c.toNat = n := by rw [fieldLen_eq, ← hpos, hn]
    exact ⟨opBfx_eq sat sg a d hpos' hn', Nat.mod_lt _ (Nat.two_pow_pos w), fun k => getLsbD_opBfi sat sg a d hpos' hn'⟩

end Sys2Proof.Machine

/-! ## O54: a partition reset over a window that begins inside a page (R378, R392, R394) -/

namespace Sys2Proof.Machine

/-- A QUIESCED partition of one die, whose memory window begins in the middle of a page, with one byte of it written. WRITEILV
takes no such window (R394: bases are multiples of 2^30), but a state of the model may hold one. -/
def windowInsidePage : State :=
  { State.reset with
    dies := [(0, { Die.reset with part := 0, bound := true, valid := true, ilvbase := 2048, wdies := 1 })]
    parts := [(0, { Part.reset with dies := 1, state := 2 })]
    store := { MemSide.reset with mem := [(2048, 1#8)] } }

/-- The state of the first page's entry and the window's first byte in the state that an event gives. -/
def firstPage (o : Out) : Option (Nat × Nat) :=
  match o with
  | .next u => some ((u.potOf 0).state, u.peek 2048 1)
  | _ => none

/-- A partition reset takes whole pages whose first address lies in the partition's memory: not the page in which its window
begins. -/
theorem firstPage_partitionReset : firstPage (exec (.partitionReset 0) windowInsidePage) = some (potHost, 1) := by decide +kernel

/-- Refutes O54: where a window begins inside a page, the window's bytes of that page keep their values in a partition reset. -/
theorem not_threadAndFunctionEvents : ¬ Obligations.ThreadAndFunctionEvents := by
  unfold Obligations.ThreadAndFunctionEvents
  intro hall
  obtain ⟨-, -, -, hreset⟩ := hall
  obtain ⟨-, hruns⟩ := hreset windowInsidePage 0
  obtain ⟨u, hexec, -, -, hwiped, -⟩ := hruns (by decide) rfl
  have hpage := firstPage_partitionReset
  rw [hexec] at hpage
  obtain ⟨hpot, hbyte⟩ := Prod.ext_iff.mp (Option.some.inj hpage)
  have hzero := (hwiped 2048 (by decide +kernel) (hpot.trans_ne (by decide))).1
  exact absurd (hbyte.symm.trans hzero) (by decide)

end Sys2Proof.Machine

/-! ## O15: SHFLUP by an operand that is no 32-bit number (R153, R222) -/

namespace Sys2Proof.Machine

/-! ### A group in a slot beyond 2^32

The clause of the shuffles gives the source lane's rule the whole operand `c`, where the model first takes it mod 2^32. Every
operand read at 32 bits lies below 2^32 but two: `split` and `gslot`, for which a state of the model may hold any number. By
2^32 + 2, SHFLUP reads l + 2^32 - (2^32 + 2) in lane 1, which in natural numbers is 0, a lane of the group; the model reads 1 - 2
mod 2^32, which is none. -/

/-- The split of the placed group, guarded by p7: each lane is active. -/
def farSplit : Split := { Split.start 0#64 with mode := 0x07#32 }

/-- The placed group in the slot 2^32 + 2. -/
def farGroup : Group := { Group.start { placeOf with slot := 2 ^ 32 + 2 } 0#64 with splits := [(0, farSplit)] }

/-- The placed group's state with this group, whose split issues next. -/
def farState : State := State.reset.placeBase.placeGroup.putGroup 0 farGroup

/-- SHFLUP v0 = lane, gslot. -/
def shflupByGslot : Op3 := ⟨⟨false, false, false⟩, 0, .lane, .gslot⟩

/-- What the flights of group 0 write in lane 1 of v0, in the state that a step gives. -/
def laneOneWrites (o : Out) : List W32 :=
  match o with
  | .next u => ((u.group? 0).map fun g => g.flights.flatMap fun f => (f.w.v.filter (·.1 == 1)).map (·.2)).getD []
  | _ => []

theorem farState_issues : farState.Issues 0 0 farGroup farSplit (farState.rdSplit farGroup 0 farSplit) :=
  ⟨⟨rfl, rfl, rfl⟩, rfl⟩

/-- Lane 1 - 2 is no lane: lane 1 receives its own number. -/
theorem laneOneWrites_shflup : laneOneWrites (exec (.shflup shflupByGslot) farState) = [1#32] := by decide +kernel

/-- Refutes O15: of a group in the slot 2^32 + 2, a SHFLUP by `gslot` keeps lane 1's own value, where the statement has it
receive lane 0's. -/
theorem not_crossLaneRows : ¬ Obligations.CrossLaneRows := by
  unfold Obligations.CrossLaneRows
  rintro ⟨hshuffles, -⟩
  have hpasses : farGroup.Passes farSplit ((specShfl shflupByGslot (farState.rdSplit farGroup 0 farSplit)).guarded
      (farState.rdSplit farGroup 0 farSplit)) (farState.rdSplit farGroup 0 farSplit).active := by
    unfold Group.Passes
    decide +kernel
  have hshflup := hshuffles (.shflup, fun l c => laneOf (l + 2 ^ 32 - c)) (by simp) shflupByGslot farState 0 0 farGroup farSplit
    _ farState_issues hpasses
  have hmodel := laneOneWrites_shflup
  rw [hshflup] at hmodel
  exact absurd hmodel (by decide +kernel)

end Sys2Proof.Machine

namespace Sys2Proof.Machine

/-! ## O58, O59: memory's canonical form

Memory's bytes change in two ways only: some are written, in order, or some are taken away. Every other operation of the model
leaves them and changes what stands beside them. So there is one lemma for each function of the model that answers a state: it
keeps the form. `State.memCanonical.f` speaks of `State.f`, so that a proof names the operations in the order in which the
definition applies them; a function that answers an `Out` has `f_canonical`. -/

-- Hundreds of short proofs: one after the other, so that they do not each take a thread's stack at the same time.
set_option Elab.async false

/-! ### What an answer keeps -/

/-- Where an optional answer is given, it has the property. -/
def OptionAll {α : Type} (P : α → Prop) : Option α → Prop
  | some a => P a
  | none => True

/-- Where an answer is no error, it has the property. -/
def ExceptAll {ε α : Type} (P : α → Prop) : Except ε α → Prop
  | .ok a => P a
  | .error _ => True

/-- Where a meaning goes on to a next state, its memory is in canonical form. -/
def Canonical : Out → Prop
  | .next u => u.memCanonical
  | _ => True

/-- A body's effect has its memory in canonical form, and what follows the issue keeps that form. -/
def Done.Canonical (d : Done) : Prop := d.s.memCanonical ∧ ∀ u : State, u.memCanonical → (d.post u).memCanonical

theorem ExceptAll.inOk {ε δ α : Type} {P : α → Prop} {x : Except ε α} (h : ExceptAll P x) :
    ExceptAll (ε := δ) (ExceptAll P) (.ok x) :=
  h

theorem OptionAll.inOk {ε α : Type} {P : α → Prop} {x : Option α} (h : OptionAll P x) :
    ExceptAll (ε := ε) (OptionAll P) (.ok x) :=
  h

theorem Done.Canonical.inOk {ε : Type} {d : Done} (h : d.Canonical) : ExceptAll (ε := ε) Done.Canonical (.ok d) := h

theorem Canonical.of_next {s : State} (h : s.memCanonical) : Canonical (.next s) := h

theorem Canonical.ite_cases {c : Prop} [Decidable c] {a b : Out} (ha : Canonical a) (hb : Canonical b) :
    Canonical (if c then a else b) := by split; exacts [ha, hb]

theorem OptionAll.some {α : Type} {P : α → Prop} {o : Option α} {a : α} (h : OptionAll P o) (e : o = .some a) :
    P a := by
  subst e; exact h

theorem OptionAll.map {α β : Type} {P : β → Prop} {o : Option α} {f : α → β} (h : ∀ a, P (f a)) :
    OptionAll P (o.map f) := by
  cases o with
  | none => trivial
  | some a => exact h a

theorem OptionAll.getD {α : Type} {P : α → Prop} {o : Option α} {a : α} (h : OptionAll P o) (ha : P a) :
    P (o.getD a) := by
  cases o with
  | none => exact ha
  | some b => exact h

theorem ExceptAll.ok {ε α : Type} {P : α → Prop} {x : Except ε α} {a : α} (h : ExceptAll P x) (e : x = .ok a) :
    P a := by
  subst e; exact h

theorem ExceptAll.mapError {ε δ α : Type} {P : α → Prop} {x : Except ε α} {f : ε → δ} (h : ExceptAll P x) :
    ExceptAll P (x.mapError f) := by
  cases x with
  | error _ => trivial
  | ok _ => exact h

namespace State.memCanonical

variable {s : State}

/-- The state that an operation answers beside a value. -/
theorem fst {α : Type} {x : State × α} {u : State} {a : α} (h : x.1.memCanonical) (e : x = (u, a)) :
    u.memCanonical := by
  subst e; exact h

theorem snd {α : Type} {x : α × State} {u : State} {a : α} (h : x.2.memCanonical) (e : x = (a, u)) :
    u.memCanonical := by
  subst e; exact h

theorem foldl {α : Type} {f : State → α → State} {l : List α} (h : s.memCanonical)
    (hf : ∀ (u : State) (a : α), u.memCanonical → (f u a).memCanonical) : (l.foldl f s).memCanonical := by
  induction l generalizing s with
  | nil => exact h
  | cons a r ih => exact ih (hf s a h)

theorem ite_cases {c : Prop} [Decidable c] {a b : State} (ha : a.memCanonical) (hb : b.memCanonical) :
    (if c then a else b).memCanonical := by split; exacts [ha, hb]

/-- A state with the same bytes. -/
theorem of_mem {t : State} (h : s.memCanonical) (e : t.store.mem = s.store.mem := by rfl) : t.memCanonical :=
  show Memory.wf t.store.mem = true from e ▸ h

theorem inSome (h : s.memCanonical) : OptionAll State.memCanonical (some s) := h

theorem inSomeFst {α : Type} {a : α} (h : s.memCanonical) : OptionAll (fun r => r.1.memCanonical) (some (s, a)) := h

theorem inOk {ε : Type} (h : s.memCanonical) : ExceptAll (ε := ε) State.memCanonical (.ok s) := h

theorem inOkFst {ε α : Type} {a : α} (h : s.memCanonical) :
    ExceptAll (ε := ε) (fun r => r.1.memCanonical) (.ok (s, a)) :=
  h

theorem pairInOk {ε α : Type} {x : State × α} (h : x.1.memCanonical) :
    ExceptAll (ε := ε) (fun r => r.1.memCanonical) (.ok x) :=
  h

theorem inOkSnd {ε α : Type} {a : α} (h : s.memCanonical) :
    ExceptAll (ε := ε) (fun r => r.2.memCanonical) (.ok (a, s)) :=
  h

theorem plain (h : s.memCanonical) : (Done.plain s).Canonical := ⟨h, fun _ h => h⟩

theorem done {next : Option W64} {park : Option Park} {post : State → State} (h : s.memCanonical)
    (hpost : ∀ u : State, u.memCanonical → (post u).memCanonical) : (Done.mk s next park post).Canonical :=
  ⟨h, hpost⟩

theorem modStore {f : MemSide → MemSide} (h : s.memCanonical) (hf : ∀ x, (f x).mem = x.mem := by intro; rfl) :
    (s.modStore f).memCanonical := show Memory.wf (f s.store).mem = true from hf s.store ▸ h

theorem filterStore {keep : Host.Cell → Bool} {f : MemSide → MemSide} (h : s.memCanonical)
    (hf : ∀ x, (f x).mem = x.mem.filter keep := by intro; rfl) : (s.modStore f).memCanonical :=
  show Memory.wf (f s.store).mem = true from hf s.store ▸ wf_filter _ _ h

theorem withAc {x : Nat} (h : s.memCanonical) : ({ s with ac := x } : State).memCanonical := h

theorem withFree {x : Nat} (h : s.memCanonical) : ({ s with free := x } : State).memCanonical := h

theorem withTurns {x : List Agent} (h : s.memCanonical) : ({ s with turns := x } : State).memCanonical := h

theorem withAgenda {x : List (Nat × Event)} (h : s.memCanonical) : ({ s with agenda := x } : State).memCanonical := h

theorem withModule {x : Module} (h : s.memCanonical) : ({ s with module := x } : State).memCanonical := h

theorem withDies {x : Table Die} (h : s.memCanonical) : ({ s with dies := x } : State).memCanonical := h

theorem withParts {x : Table Part} (h : s.memCanonical) : ({ s with parts := x } : State).memCanonical := h

theorem withSimt {x : Simt} (h : s.memCanonical) : ({ s with simt := x } : State).memCanonical := h

theorem withHub {x : Hub} (h : s.memCanonical) : ({ s with hub := x } : State).memCanonical := h

end State.memCanonical

variable {s : State}

/-! ### Machine/Ops.lean -/

theorem State.memCanonical.poke (h : s.memCanonical) {a : Nat} {bs : List Byte} : (s.poke a bs).memCanonical :=
  wf_poke s a bs h

theorem State.memCanonical.pokeNat (h : s.memCanonical) {a n x : Nat} : (s.pokeNat a n x).memCanonical := h.poke

theorem State.memCanonical.modSimt (h : s.memCanonical) {f : Simt → Simt} : (s.modSimt f).memCanonical := h.withSimt

theorem State.memCanonical.modHub (h : s.memCanonical) {f : Hub → Hub} : (s.modHub f).memCanonical := h.withHub

theorem State.memCanonical.putGroup (h : s.memCanonical) {gid : Nat} {g : Group} : (s.putGroup gid g).memCanonical :=
  h.modSimt

theorem State.memCanonical.modGroup (h : s.memCanonical) {gid : Nat} {f : Group → Group} :
    (s.modGroup gid f).memCanonical := by
  unfold State.modGroup
  split
  exacts [h.putGroup, h]

theorem State.memCanonical.putCtx (h : s.memCanonical) {q : Nat} {c : Ctx} : (s.putCtx q c).memCanonical := h.modSimt

theorem State.memCanonical.modCtx (h : s.memCanonical) {q : Nat} {f : Ctx → Ctx} : (s.modCtx q f).memCanonical :=
  h.putCtx

theorem State.memCanonical.putQueue (h : s.memCanonical) {q : Nat} {x : Queue} : (s.putQueue q x).memCanonical :=
  h.modHub

theorem State.memCanonical.modQueue (h : s.memCanonical) {q : Nat} {f : Queue → Queue} :
    (s.modQueue q f).memCanonical :=
  h.putQueue

theorem State.memCanonical.putThread (h : s.memCanonical) {t : Nat} {x : Thread} : (s.putThread t x).memCanonical :=
  h.modHub

theorem State.memCanonical.modThread (h : s.memCanonical) {t : Nat} {f : Thread → Thread} :
    (s.modThread t f).memCanonical :=
  h.putThread

theorem State.memCanonical.putVf (h : s.memCanonical) {v : Nat} {x : Vf} : (s.putVf v x).memCanonical := h.modHub

theorem State.memCanonical.putVec (h : s.memCanonical) {v : Nat} {x : Vec} : (s.putVec v x).memCanonical := h.modHub

theorem State.memCanonical.putPart (h : s.memCanonical) {p : Nat} {x : Part} : (s.putPart p x).memCanonical :=
  h.withParts

theorem State.memCanonical.modPart (h : s.memCanonical) {p : Nat} {f : Part → Part} : (s.modPart p f).memCanonical :=
  h.putPart

theorem State.memCanonical.putHbm (h : s.memCanonical) {t : Nat} {x : Stack} : (s.putHbm t x).memCanonical :=
  h.modStore

theorem State.memCanonical.putTraceQ (h : s.memCanonical) {q : Nat} {x : TraceQ} : (s.putTraceQ q x).memCanonical :=
  h.modHub

theorem State.memCanonical.putTraceK (h : s.memCanonical) {k : Nat} {x : TraceK} : (s.putTraceK k x).memCanonical :=
  h.modHub

theorem State.memCanonical.putTraceS (h : s.memCanonical) {k q : Nat} {x : TraceS} :
    (s.putTraceS k q x).memCanonical :=
  h.modHub

theorem State.memCanonical.modRot (h : s.memCanonical) {f : Rot → Rot} : (s.modRot f).memCanonical := h.modHub

theorem State.memCanonical.modSplit (h : s.memCanonical) {gid sp : Nat} {f : Split → Split} :
    (s.modSplit gid sp f).memCanonical :=
  h.modGroup

theorem State.memCanonical.at (h : s.memCanonical) {due : Nat} {i : Event} : (s.at due i).memCanonical := h.withAgenda

theorem State.memCanonical.later (h : s.memCanonical) {i : Event} : (s.later i).memCanonical := h.of_mem

theorem State.memCanonical.laterWithin (h : s.memCanonical) {n : Nat} {e : Event} :
    (s.laterWithin n e).memCanonical :=
  h.of_mem

theorem State.memCanonical.soon (h : s.memCanonical) {i : Event} : (s.soon i).memCanonical := h.at

theorem State.memCanonical.drawn (h : s.memCanonical) : s.drawn.memCanonical := h.withFree

theorem State.memCanonical.pop (h : s.memCanonical) : s.pop.memCanonical := h.withTurns

theorem State.memCanonical.wake (h : s.memCanonical) {gid sp : Nat} : (s.wake gid sp).memCanonical := by
  unfold State.wake
  split
  exacts [h.modSplit.at, h]

theorem State.memCanonical.delayCtx (h : s.memCanonical) {q k : Nat} : (s.delayCtx q k).memCanonical := h.modSimt

theorem State.memCanonical.discardAll (h : s.memCanonical) {q : Nat} : (s.discardAll q).memCanonical := h.modSimt

theorem State.memCanonical.dumpBreak (h : s.memCanonical) {q : Nat} : (s.dumpBreak q).memCanonical := by
  unfold State.dumpBreak
  dsimp only
  split
  exacts [h.modHub, h]

theorem State.memCanonical.raiseHalt (h : s.memCanonical) {q : Nat} {halt : Halt} :
    (s.raiseHalt q halt).memCanonical := by
  unfold State.raiseHalt
  dsimp only
  split
  · exact h
  · split
    · exact h.dumpBreak.putCtx.discardAll.laterWithin
    · split <;> exact h.putCtx

theorem State.memCanonical.haltAt (h : s.memCanonical) {gid cause value ord off : Nat} :
    (s.haltAt gid cause value ord off).memCanonical := by
  unfold State.haltAt
  dsimp only
  split
  exacts [h, h.putGroup.raiseHalt]

theorem State.memCanonical.haltFlt (h : s.memCanonical) {gid sp : Nat} {f : Flt} :
    (s.haltFlt gid sp f).memCanonical := by
  unfold State.haltFlt
  dsimp only
  split
  exacts [h, h.haltAt]

theorem State.memCanonical.haltGroup (h : s.memCanonical) {gid sp cause value : Nat} :
    (s.haltGroup gid sp cause value).memCanonical :=
  h.haltFlt

theorem State.memCanonical.simtFault (h : s.memCanonical) {gid sp cause value : Nat} :
    (s.simtFault gid sp cause value).memCanonical :=
  h.haltGroup.pop

theorem State.memCanonical.enclaveExit (h : s.memCanonical) {tid : Nat} {sync : Bool} {resume : W64} {cls code : Nat}
    {report : W64} :
    (s.enclaveExit tid sync resume cls code report).memCanonical := by
  unfold State.enclaveExit
  dsimp only
  refine State.memCanonical.putThread ?_
  split
  exacts [h.poke.modStore, h]

theorem State.memCanonical.trap (h : s.memCanonical) {tid : Nat} {tr : Trap} : (s.trap tid tr).memCanonical := by
  unfold State.trap
  dsimp only
  refine State.memCanonical.modThread ?_
  split
  exacts [h.enclaveExit, h]

theorem State.memCanonical.threadFault (h : s.memCanonical) {tid cause value : Nat} :
    (s.threadFault tid cause value).memCanonical :=
  h.trap.pop

/-! ### Machine/Translate.lean -/

theorem State.memCanonical.putPot (h : s.memCanonical) {page : Nat} {e : Pot} : (s.putPot page e).memCanonical :=
  h.modStore

theorem State.memCanonical.leavePot (h : s.memCanonical) {page st : Nat} : (s.leavePot page st).memCanonical :=
  h.putPot

theorem State.memCanonical.tlbFill (h : s.memCanonical) {t : Thread} {part va : Nat} :
    (s.tlbFill t part va).memCanonical := by
  unfold State.tlbFill
  dsimp only
  split
  · exact h
  · split
    · exact h
    · split
      exacts [h, h.modHub]

theorem State.memCanonical.dropHost (h : s.memCanonical) {page : Nat} : (s.dropHost page).memCanonical := h.modHub

/-! ### Machine/Report.lean -/

theorem State.memCanonical.postFrom (h : s.memCanonical) {src q : Option Nat} {v : Nat} :
    (s.postFrom src q v).memCanonical := by
  unfold State.postFrom
  dsimp only
  split
  · split
    exacts [h.modQueue, h]
  · exact h.putVec.later

theorem State.memCanonical.post (h : s.memCanonical) {q v : Nat} : (s.post q v).memCanonical := h.postFrom

theorem State.memCanonical.postDie (h : s.memCanonical) {d v : Nat} : (s.postDie d v).memCanonical := h.postFrom

theorem State.memCanonical.logError (h : s.memCanonical) {d addr cls kind cause eid core : Nat} :
    (s.logError d addr cls kind cause eid core).memCanonical := by
  unfold State.logError
  dsimp only
  split
  · exact h.modHub
  · split
    · split
      exacts [h.modHub.postDie, h.modHub]
    · split
      exacts [h.modHub.postDie, h.modHub]

theorem State.memCanonical.meetLine (h : s.memCanonical) {eid core line : Nat} :
    (s.meetLine eid core line).memCanonical := by
  unfold State.meetLine
  dsimp only
  split
  · exact h
  · exact h.logError
  · split
    · refine State.memCanonical.logError ?_
      refine State.memCanonical.modStore ?_
      split
      exacts [h, h.modStore]
    · refine State.memCanonical.logError ?_
      split
      exacts [h, h.modStore]

theorem State.memCanonical.logUnit (h : s.memCanonical) {core sched row cls e eid : Nat} :
    (s.logUnit core sched row cls e eid).memCanonical :=
  h.logError

theorem State.memCanonical.meetRegs (h : s.memCanonical) {gid : Nat} {keys : List Nat} :
    (s.meetRegs gid keys).memCanonical := by
  unfold State.meetRegs
  dsimp only
  split
  · exact h
  · split
    exacts [h, h.putGroup.foldl (fun u a h2 => h2.logUnit)]

theorem State.memCanonical.meetAcc (h : s.memCanonical) {gid : Nat} {keys : List Nat} :
    (s.meetAcc gid keys).memCanonical := by
  unfold State.meetAcc
  dsimp only
  split
  · exact h
  · split
    exacts [h, h.putGroup.foldl (fun u a h2 => h2.logUnit)]

theorem State.memCanonical.meetSlot (h : s.memCanonical) {k : Nat} : (s.meetSlot k).memCanonical := by
  unfold State.meetSlot
  dsimp only
  split
  · exact h
  · split
    exacts [h, h.modSimt.foldl (fun u a h2 => h2.logUnit)]

theorem State.memCanonical.meetLocal (h : s.memCanonical) {team off n : Nat} :
    (s.meetLocal team off n).memCanonical := by
  unfold State.meetLocal
  dsimp only
  split
  · split
    exacts [h, h.modSimt.foldl (fun u a h2 => h2.logUnit)]
  · exact h

theorem State.memCanonical.meetGroup (h : s.memCanonical) {gid : Nat} : (s.meetGroup gid).memCanonical := by
  unfold State.meetGroup
  split
  exacts [h, ((h.foldl (fun u a h2 => h2.meetSlot)).meetRegs).meetAcc]

theorem State.memCanonical.meetTeam (h : s.memCanonical) {id : Nat} : (s.meetTeam id).memCanonical := by
  unfold State.meetTeam
  split
  exacts [h, (h.foldl (fun u a h2 => h2.meetGroup)).meetLocal]

theorem State.memCanonical.meetThread (h : s.memCanonical) {tid : Nat} {keys : List Nat} :
    (s.meetThread tid keys).memCanonical := by
  unfold State.meetThread
  dsimp only
  split
  exacts [h, h.putThread.foldl (fun u a h2 => h2.logError)]

theorem State.memCanonical.logThread (h : s.memCanonical) {tid cause va : Nat} :
    (s.logThread tid cause va).memCanonical := by
  unfold State.logThread
  dsimp only
  split
  · split
    exacts [h.meetLine, h]
  · exact h

/-! ### Machine/Rows.lean -/

theorem State.memCanonical.chargeVf (h : s.memCanonical) {stack vf : Nat} : (s.chargeVf stack vf).memCanonical := by
  unfold State.chargeVf
  split
  exacts [h.putVf, h.modPart]

theorem State.memCanonical.lendShake (h : s.memCanonical) {stack pair code : Nat} :
    (s.lendShake stack pair code).memCanonical := by
  unfold State.lendShake
  dsimp only
  split
  exacts [h.putHbm, h.putHbm.laterWithin]

theorem State.memCanonical.lendEnd (h : s.memCanonical) {stack pair : Nat} : (s.lendEnd stack pair).memCanonical := by
  unfold State.lendEnd
  dsimp only
  split
  exacts [h, h.putHbm.foldl (fun u a h2 => h2.soon)]

theorem State.memCanonical.lendAgain (h : s.memCanonical) {stack pair : Nat} :
    (s.lendAgain stack pair).memCanonical := by
  unfold State.lendAgain
  dsimp only
  split
  · split
    exacts [h, h.later]
  · split
    exacts [h, h.later]

theorem State.memCanonical.lendGate (h : s.memCanonical) {stack chan : Nat} {ev : Event} :
    (s.lendGate stack chan ev).1.memCanonical := by
  unfold State.lendGate
  dsimp only
  split
  · exact h.putHbm
  · split
    exacts [h.lendShake.putHbm, h]

theorem State.memCanonical.rowCount (h : s.memCanonical) {t chan row tenant vf : Nat} :
    (s.rowCount t chan row tenant vf).memCanonical := by
  unfold State.rowCount
  dsimp only
  split
  · split
    · exact h.drawn.putHbm
    · split
      exacts [h.drawn.putHbm, h.drawn.putHbm.chargeVf]
  · exact h.drawn

theorem State.memCanonical.rowGate (h : s.memCanonical) {pa vf : Nat} {ev : Event} :
    (s.rowGate pa vf ev).1.memCanonical := by
  unfold State.rowGate
  dsimp only
  split
  · exact h
  · split
    · exact h.lendGate
    · split
      · exact h.lendGate.putHbm
      · split
        exacts [h.lendGate.putHbm.later, h.lendGate.rowCount]

theorem State.memCanonical.rowGranted (h : s.memCanonical) {ev : Event} {pa : Nat} :
    (s.rowGranted ev pa).memCanonical := by
  unfold State.rowGranted
  dsimp only
  split
  exacts [h, h.putHbm]

theorem State.memCanonical.rowTouch (h : s.memCanonical) {pa vf : Nat} : (s.rowTouch pa vf).memCanonical := by
  unfold State.rowTouch
  dsimp only
  split
  · exact h
  · split
    · split
      exacts [h.lendShake.putHbm.chargeVf, h.lendShake.rowCount]
    · split
      exacts [h.putHbm.chargeVf, h.rowCount]

theorem State.memCanonical.threadGate (h : s.memCanonical) {tid : Nat} {x : Xlat} :
    (s.threadGate tid x).1.memCanonical := by
  unfold State.threadGate
  split
  · exact h
  · split
    exacts [h, h.rowGate]

theorem execThrottleRelease_canonical (h : s.memCanonical) {stack row : Nat} :
    Canonical (execThrottleRelease stack row s) := by
  unfold execThrottleRelease
  dsimp only
  split
  · exact h
  · split
    exacts [h, h.putHbm.chargeVf.soon]

theorem execRefresh_canonical (h : s.memCanonical) {stack row : Nat} : Canonical (execRefresh stack row s) := by
  unfold execRefresh
  dsimp only
  split <;> exact h.putHbm

/-! ### Machine/Issue.lean -/

theorem State.memCanonical.putPassed (h : s.memCanonical) {gid ord off : Nat} {g g' : Group} :
    (s.putPassed gid ord off g g').memCanonical := by
  unfold State.putPassed
  split
  exacts [h.putGroup.haltAt, h.putGroup]

theorem State.memCanonical.passPending (h : s.memCanonical) {gid : Nat} {x : SpPend} :
    (s.passPending gid x).memCanonical := by
  unfold State.passPending
  dsimp only
  split
  exacts [h, h.putPassed]

theorem State.memCanonical.passPoint (h : s.memCanonical) {gid sp ord off : Nat} :
    (s.passPoint gid sp ord off).memCanonical := by
  unfold State.passPoint
  dsimp only
  split
  exacts [h, h.putPassed]

theorem State.memCanonical.passNewSet (h : s.memCanonical) {gid ord : Nat} : (s.passNewSet gid ord).memCanonical := by
  unfold State.passNewSet
  dsimp only
  split
  exacts [h, h.putPassed]

theorem State.memCanonical.putSched (h : s.memCanonical) {k : Nat} {c : Option (Nat × Nat)} :
    (s.putSched k c).memCanonical :=
  h.modSimt

theorem State.memCanonical.noteIssue (h : s.memCanonical) {gid sp : Nat} {g : Group} :
    (s.noteIssue gid sp g).memCanonical :=
  h.modSimt

theorem State.memCanonical.spreadHold (h : s.memCanonical) {gid : Nat} : (s.spreadHold gid).memCanonical := by
  unfold State.spreadHold
  dsimp only
  split
  · exact h
  · split
    exacts [h.modSimt, h]

theorem State.memCanonical.stepHolds (h : s.memCanonical) : s.stepHolds.memCanonical :=
  h.foldl (fun _ _ h2 => h2.spreadHold)

theorem State.memCanonical.releaseHeld (h : s.memCanonical) {gid : Nat} : (s.releaseHeld gid).memCanonical := by
  unfold State.releaseHeld
  dsimp only
  split
  exacts [h, h.putGroup.foldl (fun u a h2 => h2.at)]

theorem State.memCanonical.releaseTeam (h : s.memCanonical) {team : Nat} : (s.releaseTeam team).memCanonical := by
  unfold State.releaseTeam
  dsimp only
  split
  · exact h
  · refine h.foldl ?_
    intro u a h2
    split
    exacts [h2.modGroup.releaseHeld, h2]

theorem State.memCanonical.advance (h : s.memCanonical) {gid sp : Nat} {m : Marks} {len : Nat} {fixed : Bool}
    {next : Option W64} {park : Option Park} :
    (s.advance gid sp m len fixed next park).memCanonical := by
  unfold State.advance
  dsimp only
  split
  · exact h.pop
  · split
    · exact h.pop
    · refine State.memCanonical.pop ?_
      refine State.memCanonical.noteIssue ?_
      split
      · split
        · refine State.memCanonical.putSched ?_
          split
          · refine State.memCanonical.at ?_
            split
            · split
              exacts [h.putGroup.at, h.putGroup.passPoint]
            · exact h.putGroup
          · split
            · split
              exacts [h.putGroup.at, h.putGroup.passPoint]
            · exact h.putGroup
        · split
          · split
            exacts [h.putGroup.at, h.putGroup.passPoint]
          · exact h.putGroup
      · split
        · refine State.memCanonical.putSched ?_
          split
          · refine State.memCanonical.at ?_
            split
            · split
              exacts [h.putGroup.at, h.putGroup.passPoint]
            · exact h.putGroup
          · split
            · split
              exacts [h.putGroup.at, h.putGroup.passPoint]
            · exact h.putGroup
        · split
          · split
            exacts [h.putGroup.at, h.putGroup.passPoint]
          · exact h.putGroup

theorem State.memCanonical.endRun (h : s.memCanonical) {gid sp : Nat} {g : Group} :
    (s.endRun gid sp g).memCanonical := by
  unfold State.endRun
  split
  · split
    · exact h
    · split
      exacts [h.putSched, h.putSched.modSplit.at]
  · exact h

theorem State.memCanonical.replayPark (h : s.memCanonical) {gid sp kind : Nat} {f : Flt} :
    (s.replayPark gid sp kind f).memCanonical := by
  unfold State.replayPark
  dsimp only
  split
  · exact h
  · split
    exacts [h.modSimt.haltFlt, h.modSimt.modSplit.endRun.postDie]

theorem State.memCanonical.replayFault (h : s.memCanonical) {gid sp kind value : Nat} :
    (s.replayFault gid sp kind value).memCanonical :=
  h.replayPark.pop

theorem State.memCanonical.parkedFlt (h : s.memCanonical) {gid sp : Nat} {g : Group} {rkind : Nat} {f : Flt} :
    (s.parkedFlt gid sp g rkind f).memCanonical := by
  unfold State.parkedFlt
  split
  exacts [h.replayPark, h.haltFlt]

theorem State.memCanonical.issueFault (h : s.memCanonical) {gid sp : Nat} {g : Group} {rkind cause value : Nat} :
    (s.issueFault gid sp g rkind cause value).memCanonical := by
  unfold State.issueFault
  split
  exacts [h.replayFault, h.simtFault]

theorem State.memCanonical.issueFlt (h : s.memCanonical) {gid sp : Nat} {g : Group} {rkind : Nat} {f : Flt} :
    (s.issueFlt gid sp g rkind f).memCanonical :=
  h.parkedFlt.pop

theorem Done.Canonical.advance {d : Done} (hd : d.Canonical) {gid sp : Nat} {m : Marks} {len : Nat} {fixed : Bool} :
    (d.post (d.s.advance gid sp m len fixed d.next d.park)).memCanonical :=
  hd.2 _ hd.1.advance

/-- What follows the faults of an issue keeps the form, and so does the issue. -/
theorem State.memCanonical.issueGuard {k : State} (h : s.memCanonical) (hk : k.memCanonical) {gid sp : Nat}
    {g : Group} {p : Split}
    {i : Spec} {active : W32} : (s.issueGuard gid sp g p i active k).memCanonical := by
  unfold State.issueGuard
  dsimp only
  split
  · exact h.simtFault
  · split
    · exact h.simtFault
    · split
      · exact h.simtFault
      · split
        · exact h.meetRegs.haltFlt.pop
        · split
          exacts [hk, hk.meetRegs]

theorem State.memCanonical.issueSplit {body : Except Flt Done} (h : s.memCanonical)
    (hb : ExceptAll Done.Canonical body) {gid sp : Nat}
    {g : Group} {p : Split} {i : Spec} {active : W32} {fixed : Bool} :
    (s.issueSplit gid sp g p i active fixed body).memCanonical := by
  unfold State.issueSplit
  refine h.issueGuard ?_
  cases body with
  | error f => exact h.issueFlt
  | ok d => exact Done.Canonical.advance hb

theorem State.memCanonical.stall (h : s.memCanonical) {gid sp : Nat} {park : Park} :
    (s.stall gid sp park).memCanonical := by
  unfold State.stall
  split
  exacts [h.pop, h.modSplit.putSched.pop]

theorem State.memCanonical.resumeAfter (h : s.memCanonical) {gid sp : Nat} {m : Marks} {len : Nat} :
    (s.resumeAfter gid sp m len).memCanonical := by
  unfold State.resumeAfter
  dsimp only
  split
  · exact h
  · refine State.memCanonical.at ?_
    refine State.memCanonical.noteIssue ?_
    split
    exacts [h.modSplit.passPoint, h.modSplit]

theorem State.memCanonical.putFixed (h : s.memCanonical) {gid : Nat} {lanes : W32} {w : RegWrites} :
    (s.putFixed gid lanes w).memCanonical :=
  h.modGroup.at

theorem State.memCanonical.tagLoad (h : s.memCanonical) {g : Group} {f : Flight} :
    (s.tagLoad g f).1.memCanonical := by
  unfold State.tagLoad
  dsimp only
  split
  · split
    · split
      exacts [h.putTraceS, h]
    · split
      exacts [h.putTraceS, h]
  · exact h

theorem State.memCanonical.launch (h : s.memCanonical) {gid : Nat} {f : Flight} {ev : Nat → Nat → Event} :
    (s.launch gid f ev).memCanonical := by
  unfold State.launch
  dsimp only
  split
  exacts [h, h.tagLoad.putGroup.later]

theorem State.memCanonical.putVar (h : s.memCanonical) {gid sp : Nat} {lanes : W32} {w : RegWrites} :
    (s.putVar gid sp lanes w).memCanonical :=
  h.launch

theorem issuer_canonical {simt : Nat → Nat → Group → Split → State} {thread : Nat → Thread → State}
    (hsimt : ∀ gid sp g p, (simt gid sp g p).memCanonical) (hthread : ∀ tid t, (thread tid t).memCanonical) :
    Canonical (s.issuer simt thread) := by
  unfold State.issuer
  split
  · split
    · trivial
    · split
      · trivial
      · exact hsimt _ _ _ _
  · exact hthread _ _
  · trivial

theorem State.memCanonical.issueThread {body : Except (Nat × Nat) (State × Option W64)} (h : s.memCanonical)
    (hb : ExceptAll (fun r => r.1.memCanonical) body) {tid : Nat} {t : Thread} {i : Spec} :
    (s.issueThread tid t i body).memCanonical := by
  unfold State.issueThread
  dsimp only
  split
  · exact h.threadFault
  · split
    · refine State.memCanonical.threadFault ?_
      split
      exacts [h, h.meetThread]
    · split
      · refine State.memCanonical.threadFault ?_
        refine State.memCanonical.logThread ?_
        split
        exacts [h, h.meetThread]
      · refine State.memCanonical.pop ?_
        refine State.memCanonical.modThread ?_
        split
        exacts [show State.memCanonical _ from hb, ((show State.memCanonical _ from hb)).meetThread]

theorem vecAluOn_canonical (h : s.memCanonical) {act : Rd → W32} {spec : Rd → Spec} {fixed : Bool}
    {f : Rd → Except Flt RegWrites} :
    Canonical (vecAluOn s act spec fixed f) := by
  unfold vecAluOn
  dsimp only
  refine issuer_canonical ?_ (fun tid t => h.threadFault)
  intro gid sp g p
  refine h.issueSplit ?_
  split
  · exact trivial
  · refine Done.Canonical.inOk ?_
    refine State.memCanonical.plain ?_
    split
    · exact h
    · split
      exacts [h.putFixed, h.putVar]

theorem vecAlu_canonical (h : s.memCanonical) {spec : Rd → Spec} {fixed : Bool} {f : Rd → Except Flt RegWrites} :
    Canonical (vecAlu s spec fixed f) :=
  vecAluOn_canonical h

theorem uniAlu_canonical (h : s.memCanonical) {spec : Rd → Spec} {fixed : Bool}
    {f : Rd → Except (Nat × Nat) RegWrites} :
    Canonical (uniAlu s spec fixed f) := by
  unfold uniAlu
  dsimp only
  refine issuer_canonical ?_ ?_
  · intro gid sp g p
    refine h.issueSplit ?_
    split
    · exact trivial
    · refine Done.Canonical.inOk ?_
      refine State.memCanonical.plain ?_
      split
      exacts [h.putFixed, h.putVar]
  · intro tid t
    refine h.issueThread ?_
    split
    exacts [trivial, h.modThread.inOkFst]

theorem simtOnly_canonical {spec : Rd → Spec} {active : Rd → W32}
    {body : Nat → Nat → Group → Split → Rd → Except Flt Done}
    (h : s.memCanonical) (hb : ∀ gid sp g p rd, ExceptAll Done.Canonical (body gid sp g p rd)) :
    Canonical (simtOnly s spec active body) :=
  issuer_canonical (fun _ _ _ _ => h.issueSplit (hb _ _ _ _ _)) fun _ _ => h.threadFault

theorem simtStall_canonical {spec : Rd → Spec} {active : Rd → W32}
    {wait : Nat → Nat → Group → Split → Rd → Except (Nat × Nat) (Option (State × Park))}
    {body : Nat → Nat → Group → Split → Rd → Except Flt Done} (h : s.memCanonical)
    (hw : ∀ gid sp g p rd, ExceptAll (OptionAll fun r => r.1.memCanonical) (wait gid sp g p rd))
    (hb : ∀ gid sp g p rd, ExceptAll Done.Canonical (body gid sp g p rd)) :
    Canonical (simtStall s spec active wait body) := by
  refine issuer_canonical (fun gid sp g p => h.issueGuard ?_) fun _ _ => h.threadFault
  have hwait := hw gid sp g p (s.rdSplit g sp p)
  split
  · exact h.issueFault
  · rename_i heq
    rw [heq] at hwait
    exact hwait.stall
  · exact h.issueSplit (hb _ _ _ _ _)

theorem uniStall_canonical {spec : Rd → Spec}
    {wait : Nat → Nat → Group → Split → Rd → Except (Nat × Nat) (State × Option Park)}
    {thread : Nat → Thread → Rd → Except (Nat × Nat) (State × Option W64)} (h : s.memCanonical)
    (hw : ∀ gid sp g p rd, ExceptAll (fun r => r.1.memCanonical) (wait gid sp g p rd))
    (ht : ∀ tid t rd, ExceptAll (fun r => r.1.memCanonical) (thread tid t rd)) :
    Canonical (uniStall s spec wait thread) := by
  refine issuer_canonical (fun gid sp g p => h.issueGuard ?_) fun _ _ => h.issueThread (ht _ _ _)
  have hwait := hw gid sp g p (s.rdSplit g sp p)
  split
  · exact h.issueFault
  · rename_i heq
    rw [heq] at hwait
    exact hwait.stall
  · rename_i heq
    rw [heq] at hwait
    have hu : State.memCanonical _ := hwait
    exact hu.issueSplit hu.plain.inOk

theorem uniBoth_canonical {fixed : Bool} {spec : Rd → Spec} {simt : Nat → Nat → Group → Split → Rd → Except
    (Nat × Nat) Done}
    {thread : Nat → Thread → Rd → Except (Nat × Nat) (State × Option W64)} (h : s.memCanonical)
    (hs : ∀ gid sp g p rd, ExceptAll Done.Canonical (simt gid sp g p rd))
    (ht : ∀ tid t rd, ExceptAll (fun r => r.1.memCanonical) (thread tid t rd)) : Canonical
      (uniBoth s fixed spec simt thread) :=
  issuer_canonical (fun _ _ _ _ => h.issueSplit (hs _ _ _ _ _).mapError) fun _ _ => h.issueThread (ht _ _ _)

theorem threadOnly_canonical {level : Nat} {spec : Rd → Spec}
    {body : Nat → Thread → Rd → Except (Nat × Nat) (State × Option W64)} (h : s.memCanonical)
    (hb : ∀ tid t rd, ExceptAll (fun r => r.1.memCanonical) (body tid t rd)) :
    Canonical (threadOnly s level spec body) := by
  refine issuer_canonical (fun _ _ _ _ => h.simtFault) fun tid t => ?_
  dsimp only
  split
  · exact h.threadFault
  · exact h.issueThread (hb _ _ _)

/-! ### Machine/TraceOps.lean -/

theorem State.memCanonical.putTraceG (h : s.memCanonical) {gid : Nat} {x : TraceG} :
    (s.putTraceG gid x).memCanonical :=
  h.modHub

theorem State.memCanonical.stage (h : s.memCanonical) {k q : Nat} {pk : List Byte} :
    (s.stage k q pk).memCanonical := by
  unfold State.stage
  dsimp only
  split
  · exact h.putTraceK
  · split
    exacts [h.putTraceK, h.putTraceK.at.soon]

theorem State.memCanonical.syncPoint (h : s.memCanonical) {gid : Nat} {g : Group} :
    (s.syncPoint gid g).memCanonical :=
  (h.foldl (fun _ _ h2 => h2.stage)).putTraceG

theorem State.memCanonical.traceStart (h : s.memCanonical) {gid : Nat} : (s.traceStart gid).memCanonical := by
  unfold State.traceStart
  split
  · exact h
  · split
    exacts [h, h.stage.syncPoint]

theorem State.memCanonical.syncDue (h : s.memCanonical) {gid : Nat} : (s.syncDue gid).memCanonical := by
  unfold State.syncDue
  split
  · exact h
  · split
    exacts [h.syncPoint, h]

theorem State.memCanonical.traceSwitch (h : s.memCanonical) {gid : Nat} {g : Group} {sw : Option Nat} :
    (s.traceSwitch gid g sw).memCanonical := by
  unfold State.traceSwitch
  dsimp only
  split
  · split
    exacts [h, h.stage.putTraceG]
  · exact h

theorem State.memCanonical.tracePacketOf (h : s.memCanonical) {gid : Nat} {g : Group} {ty : Nat} {sw : Option Nat}
    {delta : Bool} {body : List Byte} :
    (s.tracePacketOf gid g ty sw delta body).memCanonical := by
  unfold State.tracePacketOf
  dsimp only
  split
  · exact h
  · refine State.memCanonical.putTraceG ?_
    refine State.memCanonical.stage ?_
    split
    · split
      · split
        exacts [h.syncPoint.traceSwitch.syncPoint.traceSwitch.stage, h.syncPoint.traceSwitch.syncPoint.traceSwitch]
      · split
        exacts [h.syncPoint.traceSwitch.stage, h.syncPoint.traceSwitch]
    · split
      · split
        exacts [h.traceSwitch.syncPoint.traceSwitch.stage, h.traceSwitch.syncPoint.traceSwitch]
      · split
        exacts [h.traceSwitch.stage, h.traceSwitch]

theorem State.memCanonical.tracePacket (h : s.memCanonical) {gid ty : Nat} {sw : Option Nat} {delta : Bool}
    {body : List Byte} :
    (s.tracePacket gid ty sw delta body).memCanonical := by
  unfold State.tracePacket
  split
  exacts [h, h.tracePacketOf]

/-! ### Machine/Splits.lean -/

theorem State.memCanonical.promote (h : s.memCanonical) {gid : Nat} : (s.promote gid).memCanonical := by
  unfold State.promote
  dsimp only
  split
  · exact h
  · split
    · split
      exacts [h.putGroup, h.putGroup.at]
    · exact h

theorem State.memCanonical.promoteAll (h : s.memCanonical) {gid n : Nat} : (s.promoteAll gid n).memCanonical := by
  induction n generalizing s with
  | zero => exact h
  | succ n ih => exact ih h.promote

theorem State.memCanonical.rotateJoin (h : s.memCanonical) {gid n : Nat} : (s.rotateJoin gid n).memCanonical := by
  induction n generalizing s with
  | zero => exact h
  | succ n ih =>
    unfold State.rotateJoin
    split
    · exact h
    · split
      · exact h
      · split
        exacts [h, ih h.putGroup.promote]

theorem State.memCanonical.mergeOne (h : s.memCanonical) {gid low code : Nat} {snap : Group} {f : Group → Group} :
    (s.mergeOne gid low code snap f).memCanonical := by
  unfold State.mergeOne
  dsimp only
  split
  exacts [h, h.tracePacketOf.putGroup.syncDue]

theorem State.memCanonical.mergeAll (h : s.memCanonical) {gid low : Nat} {snap : Group} {others : List Nat}
    {p : Split → Bool} : (s.mergeAll gid low snap others p).memCanonical :=
  (h.foldl (fun _ _ h2 => h2.mergeOne)).foldl (fun _ _ h2 => h2.mergeOne)

theorem State.memCanonical.mergeJoin (h : s.memCanonical) {gid : Nat} {snap : Group} {pc : W64} {l : List Nat} :
    (s.mergeJoin gid snap pc l).memCanonical := by
  induction l generalizing s with
  | nil => exact h
  | cons i r ih =>
    unfold State.mergeJoin
    dsimp only
    split
    · exact ih h
    · split
      exacts [ih h, ih h.mergeAll]

theorem State.memCanonical.joinTest (h : s.memCanonical) {gid : Nat} {snap : Group} :
    (s.joinTest gid snap).memCanonical := by
  unfold State.joinTest
  dsimp only
  split
  · exact h
  · split
    · exact h
    · split
      exacts [((h.putGroup.foldl (fun u a h2 => h2.at)).mergeJoin).promoteAll, h]

theorem State.memCanonical.joinStep (h : s.memCanonical) {gid : Nat} {snap : Group} :
    (s.joinStep gid snap).memCanonical :=
  h.rotateJoin.joinTest.rotateJoin

theorem State.memCanonical.tryExit (h : s.memCanonical) {gid : Nat} : (s.tryExit gid).memCanonical := by
  unfold State.tryExit
  split
  · exact h
  · split
    exacts [h.soon, h]

theorem State.memCanonical.recheck (h : s.memCanonical) {gid : Nat} : (s.recheck gid).memCanonical := by
  unfold State.recheck
  dsimp only
  split
  · exact h
  · refine h.foldl ?_
    intro u a h2
    split
    · split
      exacts [h2, h2.wake]
    · split
      exacts [h2.resumeAfter, h2]
    · split
      exacts [h2, h2.resumeAfter]
    · exact h2

theorem State.memCanonical.settle (h : s.memCanonical) {gid : Nat} : (s.settle gid).memCanonical := by
  unfold State.settle
  dsimp only
  split
  · split
    exacts [h.modGroup.recheck.tryExit.soon, h.modGroup.recheck.tryExit]
  · exact h.modGroup.recheck.tryExit

theorem State.memCanonical.endSplit (h : s.memCanonical) {gid sp : Nat} : (s.endSplit gid sp).memCanonical := by
  unfold State.endSplit
  dsimp only
  split
  · exact h
  · split
    exacts [h, h.putGroup.promote.joinStep.settle]

theorem State.memCanonical.mergeReady (h : s.memCanonical) {gid sp : Nat} : (s.mergeReady gid sp).memCanonical := by
  unfold State.mergeReady
  dsimp only
  split
  · exact h
  · split
    exacts [h, h.mergeAll.modSplit.promoteAll]

theorem State.memCanonical.runEnd (h : s.memCanonical) {gid sp : Nat} : (s.runEnd gid sp).memCanonical := by
  unfold State.runEnd
  dsimp only
  split
  · exact h
  · split
    · exact h
    · split
      · exact h
      · split
        · exact h.modSplit
        · split
          exacts [h.putGroup, h.putGroup.mergeReady]

theorem execRunEndMerge_canonical (h : s.memCanonical) {gid sp : Nat} : Canonical (execRunEndMerge gid sp s) :=
  Canonical.of_next h.runEnd

theorem State.memCanonical.divide (h : s.memCanonical) {gid sp : Nat} {taken : W32} {target fall : W64} {m : Marks} :
    (s.divide gid sp taken target fall m).memCanonical := by
  unfold State.divide
  dsimp only
  split
  · exact h
  · split
    · exact h
    · split
      · split
        · split
          exacts [h.putGroup.modSplit.passPoint, h.putGroup.passPoint]
        · exact h.putGroup
      · split
        · split
          · split
            · refine State.memCanonical.passPoint ?_
              refine State.memCanonical.modSplit ?_
              split
              exacts [h.putGroup.at.modSplit.passPoint, h.putGroup.at]
            · refine State.memCanonical.passPoint ?_
              split
              exacts [h.putGroup.at.passPoint, h.putGroup.at]
          · split
            · split
              exacts [h.putGroup.at.modSplit.passPoint, h.putGroup.at.passPoint]
            · exact h.putGroup.at
        · refine State.memCanonical.rotateJoin ?_
          split
          · split
            · refine State.memCanonical.passPoint ?_
              refine State.memCanonical.modSplit ?_
              split
              exacts [h.putGroup.passNewSet, h.putGroup]
            · refine State.memCanonical.passPoint ?_
              split
              exacts [h.putGroup.passNewSet, h.putGroup]
          · split
            exacts [h.putGroup.passNewSet, h.putGroup]

/-! ### Machine/Access.lean -/

theorem State.memCanonical.setBit (h : s.memCanonical) {a bit : Nat} : (s.setBit a bit).memCanonical := by
  unfold State.setBit
  dsimp only
  split
  exacts [h, h.poke]

theorem State.memCanonical.dirtyRing (h : s.memCanonical) {page : Nat} : (s.dirtyRing page).memCanonical := by
  unfold State.dirtyRing
  dsimp only
  refine h.foldl ?_
  intro u a h2
  split
  · exact h2
  · refine h2.foldl ?_
    intro u2 a2 h3
    split
    · split
      exacts [h3.setBit, h3]
    · exact h3

theorem State.memCanonical.dirtyCounter (h : s.memCanonical) {q va : Nat} : (s.dirtyCounter q va).memCanonical := by
  unfold State.dirtyCounter
  dsimp only
  split
  · exact h
  · split
    · exact h
    · split
      exacts [h.pokeNat.pokeNat, h.setBit]

theorem State.memCanonical.clearPoison (h : s.memCanonical) {a n : Nat} : (s.clearPoison a n).memCanonical := by
  unfold State.clearPoison
  dsimp only
  split
  exacts [h, h.modStore]

theorem State.memCanonical.wakeCounters (h : s.memCanonical) {a n : Nat} : (s.wakeCounters a n).memCanonical :=
  ((h.foldl (fun _ _ h2 => h2.modSplit.laterWithin)).foldl (fun _ _ h2 => h2.modThread)).foldl (fun _ _ h2 =>
    h2.modQueue.laterWithin)

theorem State.memCanonical.scrubLine (h : s.memCanonical) {line : Nat} : (s.scrubLine line).memCanonical := by
  unfold State.scrubLine
  dsimp only
  split
  · split
    exacts [h.putPot, h]
  · exact h

theorem State.memCanonical.scrubLines (h : s.memCanonical) {a n : Nat} : (s.scrubLines a n).memCanonical := by
  unfold State.scrubLines
  split
  exacts [h.foldl (fun u a2 h2 => h2.scrubLine), h]

theorem State.memCanonical.write (h : s.memCanonical) {a : Nat} {bs : List Byte} : (s.write a bs).memCanonical := by
  unfold State.write
  split
  exacts [h, (((h.scrubLines.foldl (fun u a2 h2 => h2.dirtyRing)).poke).clearPoison).wakeCounters]

theorem State.memCanonical.writeNat (h : s.memCanonical) {a n x : Nat} : (s.writeNat a n x).memCanonical := h.write

theorem State.memCanonical.fromEngine (h : s.memCanonical) {line : Nat} : (s.fromEngine line).memCanonical :=
  h.modStore

theorem State.memCanonical.engineRoom (h : s.memCanonical) {die : Nat} :
    OptionAll State.memCanonical (s.engineRoom die) := by
  unfold State.engineRoom
  dsimp only
  split
  exacts [h.inSome, OptionAll.map (fun a => h.fromEngine)]

theorem State.memCanonical.toEngine (h : s.memCanonical) {a : Nat} : (s.toEngine a).memCanonical := by
  unfold State.toEngine
  dsimp only
  refine State.memCanonical.at ?_
  refine State.memCanonical.modStore ?_
  split
  exacts [h, h.engineRoom.getD h.modStore]

theorem State.memCanonical.addCounter (h : s.memCanonical) {a k : Nat} : (s.addCounter a k).memCanonical :=
  h.toEngine.writeNat

theorem State.memCanonical.frontEndAdd (h : s.memCanonical) {q va pa k : Nat} :
    (s.frontEndAdd q va pa k).memCanonical :=
  h.dirtyCounter.rowTouch.addCounter

theorem State.memCanonical.meet (h : s.memCanonical) {eid core a n : Nat} : (s.meet eid core a n).memCanonical := by
  unfold State.meet
  dsimp only
  split
  exacts [h.scrubLines, h.scrubLines.foldl (fun u a2 h2 => h2.meetLine)]

theorem State.memCanonical.localWrite (h : s.memCanonical) {team off : Nat} {bs : List Byte} :
    (s.localWrite team off bs).memCanonical :=
  h.modSimt

theorem State.memCanonical.writeAcc (h : s.memCanonical) {a : Acc} : (s.writeAcc a).memCanonical := by
  unfold State.writeAcc
  dsimp only
  split
  · exact h.localWrite
  · split
    exacts [h.soon, h.write]

theorem State.memCanonical.writeAccs (h : s.memCanonical) {accs : List Acc} : (s.writeAccs accs).memCanonical := by
  unfold State.writeAccs
  dsimp only
  split
  · exact h.foldl (fun u a h2 => h2.writeAcc)
  · exact (h.foldl (fun u a h2 => h2.writeAcc)).foldl (fun u a h2 => h2.clearPoison)

theorem State.memCanonical.modFlight (h : s.memCanonical) {gid id : Nat} {f : Flight → Flight} :
    (s.modFlight gid id f).memCanonical :=
  h.modGroup

theorem State.memCanonical.finishFlight (h : s.memCanonical) {gid id : Nat} : (s.finishFlight gid id).memCanonical :=
  h.modFlight.settle

theorem State.memCanonical.gateAll (h : s.memCanonical) {vf : Nat} {ev : Event} {passed : List Nat} {l : List Acc} :
    (s.gateAll vf ev passed l).1.memCanonical := by
  induction l generalizing s passed with
  | nil => exact h
  | cons a r ih =>
    unfold State.gateAll
    split
    · exact ih h
    · split
      · rename_i heq
        split
        exacts [(h.rowGate.fst heq).foldl (fun u a2 h2 => h2.rowGranted), ih (h.rowGate.fst heq)]

theorem State.memCanonical.rowsPass (h : s.memCanonical) {vf : Nat} {ev : Event} {accs : List Acc} :
    (s.rowsPass vf ev accs).1.memCanonical := by
  unfold State.rowsPass
  exact h.gateAll

/-! ### Machine/Hub.lean -/

theorem State.memCanonical.devReadDone (h : s.memCanonical) {part lvl a : Nat} :
    (s.devReadDone part lvl a).memCanonical := by
  unfold State.devReadDone
  generalize inHub a = hub, hubReg (a / 8 * 8) = r
  refine ite_cases h ?_
  split
  exacts [ite_cases h.putTraceQ h, h]

/-! ### Machine/Memory.lean -/

theorem State.memCanonical.send (h : s.memCanonical) {gid : Nat} {f : Flight} : (s.send gid f).memCanonical := by
  unfold State.send
  split
  exacts [h, h.launch]

theorem vecLoad_canonical (h : s.memCanonical) {x : Load} {o : Order} : Canonical (vecLoad x o s) := by
  unfold vecLoad
  dsimp only
  refine simtOnly_canonical h ?_
  intro gid sp g p rd
  split
  exacts [trivial, h.send.plain.inOk]

theorem vecStore_canonical (h : s.memCanonical) {x : Store} {o : Order} : Canonical (vecStore x o s) := by
  unfold vecStore
  dsimp only
  refine simtOnly_canonical h ?_
  intro gid sp g p rd
  split
  exacts [trivial, h.send.plain.inOk]

theorem State.memCanonical.threadRead (h : s.memCanonical) {tid va n d size : Nat} {x : Xlat} :
    ExceptAll (fun r => r.1.memCanonical) (s.threadRead tid va n d size x) := by
  unfold State.threadRead
  dsimp only
  split
  · exact h.devReadDone.inOkFst
  · split
    exacts [trivial, h.tlbFill.meet.inOkFst]

theorem State.memCanonical.threadWrite (h : s.memCanonical) {tid va n data : Nat} {x : Xlat} :
    (s.threadWrite tid va n data x).memCanonical := by
  unfold State.threadWrite
  dsimp only
  split
  · split
    · split
      exacts [h.tlbFill.soon, h.tlbFill]
    · split
      exacts [h.tlbFill.soon, h.tlbFill]
  · exact h.tlbFill.write

theorem uniLoad_canonical (h : s.memCanonical) {x : Load} {o : Order} : Canonical (uniLoad x o s) := by
  unfold uniLoad
  dsimp only
  refine uniBoth_canonical h ?_ ?_
  · intro gid sp g p rd
    split
    exacts [trivial, h.send.plain.inOk]
  · intro tid t rd
    split
    · exact trivial
    · split
      · exact h.inOkFst
      · split
        · rename_i heq
          exact (h.threadGate.fst heq).inOkFst
        · rename_i heq
          split
          · exact trivial
          · rename_i heq2
            exact ((((h.threadGate.fst heq).threadRead).ok heq2).modThread).inOkFst

theorem uniStore_canonical (h : s.memCanonical) {x : Store} {o : Order} : Canonical (uniStore x o s) := by
  unfold uniStore
  dsimp only
  refine uniBoth_canonical h ?_ ?_
  · intro gid sp g p rd
    split
    exacts [trivial, h.send.plain.inOk]
  · intro tid t rd
    split
    · exact trivial
    · split
      · rename_i heq
        exact (h.threadGate.fst heq).inOkFst
      · rename_i heq
        exact ((h.threadGate.fst heq).threadWrite).inOkFst

theorem execLd_canonical (h : s.memCanonical) {x : Load} : Canonical (execLd x s) := vecLoad_canonical h

theorem execSt_canonical (h : s.memCanonical) {x : Store} : Canonical (execSt x s) := vecStore_canonical h

theorem execLdacq_canonical (h : s.memCanonical) {x : Load} : Canonical (execLdacq x s) := vecLoad_canonical h

theorem execStrel_canonical (h : s.memCanonical) {x : Store} : Canonical (execStrel x s) := vecStore_canonical h

theorem execStnt_canonical (h : s.memCanonical) {x : Store} : Canonical (execStnt x s) := vecStore_canonical h

theorem execLdu_canonical (h : s.memCanonical) {x : Load} : Canonical (execLdu x s) := uniLoad_canonical h

theorem execStu_canonical (h : s.memCanonical) {x : Store} : Canonical (execStu x s) := uniStore_canonical h

theorem execLduacq_canonical (h : s.memCanonical) {x : Load} : Canonical (execLduacq x s) := uniLoad_canonical h

theorem execSturel_canonical (h : s.memCanonical) {x : Store} : Canonical (execSturel x s) := uniStore_canonical h

theorem execPref_canonical (h : s.memCanonical) {x : Op1} : Canonical (execPref x s) :=
  simtOnly_canonical h (fun _ _ _ _ _ => h.plain.inOk)

theorem localLoad_canonical (h : s.memCanonical) {m : Marks} {len : Nat} {a : Opnd} {size n : Nat} {regs : List Nat}
    {bad : Rd → Bool} :
    Canonical (localLoad m len a size n regs bad s) := by
  unfold localLoad
  dsimp only
  refine simtOnly_canonical h ?_
  intro gid sp g p rd
  split
  exacts [trivial, h.send.plain.inOk]

theorem localStore_canonical (h : s.memCanonical) {m : Marks} {len : Nat} {a : Opnd} {n : Nat} {srcs : List Nat}
    {bad : Rd → Bool} {data : Rd → Nat → Nat} :
    Canonical (localStore m len a n srcs bad data s) := by
  unfold localStore
  refine simtOnly_canonical h ?_
  intro gid sp g p rd
  split
  exacts [trivial, h.send.plain.inOk]

theorem execLdl_canonical (h : s.memCanonical) {x : Load} : Canonical (execLdl x s) := localLoad_canonical h

theorem execStl_canonical (h : s.memCanonical) {x : Store} : Canonical (execStl x s) := localStore_canonical h

theorem execLdl4_canonical (h : s.memCanonical) {x : Op2} : Canonical (execLdl4 x s) := localLoad_canonical h

theorem execStl4_canonical (h : s.memCanonical) {x : OpReg} : Canonical (execStl4 x s) := localStore_canonical h

theorem execGld_canonical (h : s.memCanonical) {x : Gath} : Canonical (execGld x s) := by
  unfold execGld
  dsimp only
  refine simtOnly_canonical h ?_
  intro gid sp g p rd
  split
  exacts [trivial, h.send.plain.inOk]

theorem execGst_canonical (h : s.memCanonical) {x : Gath} : Canonical (execGst x s) := by
  unfold execGst
  dsimp only
  refine simtOnly_canonical h ?_
  intro gid sp g p rd
  split
  exacts [trivial, h.send.plain.inOk]

theorem execFence_canonical (h : s.memCanonical) {x : CodeI} : Canonical (execFence x s) :=
  uniBoth_canonical h (fun _ _ _ _ _ => h.launch.plain.inOk) (fun _ _ _ => h.inOkFst)

theorem execNtdrain_canonical (h : s.memCanonical) {x : CodeI} : Canonical (execNtdrain x s) :=
  uniStall_canonical h (fun _ _ _ _ _ => h.inOkFst) (fun _ _ _ => h.inOkFst)

theorem execWaitc_canonical (h : s.memCanonical) {x : ACode} : Canonical (execWaitc x s) :=
  uniStall_canonical h (fun _ _ _ _ _ => h.inOkFst) (fun _ _ _ => h.inOkFst)

/-! ### Machine/Atomic.lean -/

theorem State.memCanonical.atomicAt (h : s.memCanonical) {op type a c cmp : Nat} :
    (s.atomicAt op type a c cmp).1.memCanonical := by
  unfold State.atomicAt
  dsimp only
  split
  exacts [h.toEngine, h.toEngine.writeNat]

theorem State.memCanonical.atomics (h : s.memCanonical) {op type : Nat} {l : List Acc} :
    (s.atomics op type l).1.memCanonical := by
  induction l generalizing s with
  | nil => exact h
  | cons a r ih => exact ih h.atomicAt

theorem State.memCanonical.meetAll (h : s.memCanonical) {g : Group} {acc : List Acc} :
    (s.meetAll g acc).memCanonical := by
  unfold State.meetAll
  refine h.foldl ?_
  intro u a h2
  split
  · exact h2.meetLocal
  · split
    exacts [h2, h2.meet]

theorem vecAtomic_canonical (h : s.memCanonical) {m : Marks} {len : Nat} {d : Option Nat} {a c : Opnd}
    {ctl : AtomCtl} :
    Canonical (vecAtomic m len d a c ctl s) := by
  unfold vecAtomic
  dsimp only
  refine simtOnly_canonical h ?_
  intro gid sp g p rd
  split
  · exact trivial
  · split
    exacts [trivial, h.send.plain.inOk]

theorem uniAtomic_canonical (h : s.memCanonical) {m : Marks} {len : Nat} {d : Option Nat} {a c : Opnd}
    {ctl : AtomCtl} :
    Canonical (uniAtomic m len d a c ctl s) := by
  unfold uniAtomic
  dsimp only
  refine uniBoth_canonical h ?_ ?_
  · intro gid sp g p rd
    split
    · exact trivial
    · split
      exacts [trivial, h.send.plain.inOk]
  · intro tid t rd
    split
    · exact trivial
    · split
      · rename_i heq
        exact (h.threadGate.fst heq).inOkFst
      · rename_i heq
        split
        · exact trivial
        · split
          · exact trivial
          · refine State.memCanonical.inOkFst ?_
            split
            · exact ((((h.threadGate.fst heq).tlbFill).meet).atomicAt).modThread
            · exact (((h.threadGate.fst heq).tlbFill).meet).atomicAt

theorem execAtomv_canonical (h : s.memCanonical) {x : AtomI} : Canonical (execAtomv x s) := vecAtomic_canonical h

theorem execRedv_canonical (h : s.memCanonical) {x : RedI} : Canonical (execRedv x s) := vecAtomic_canonical h

theorem execAtom_canonical (h : s.memCanonical) {x : AtomI} : Canonical (execAtom x s) := uniAtomic_canonical h

theorem execRedu_canonical (h : s.memCanonical) {x : RedI} : Canonical (execRedu x s) := uniAtomic_canonical h

theorem execCtradd_canonical (h : s.memCanonical) {x : AtomI} : Canonical (execCtradd x s) := uniAtomic_canonical h

theorem execSyncEngineLineReturn_canonical (h : s.memCanonical) {line : Nat} :
    Canonical (execSyncEngineLineReturn line s) := by
  unfold execSyncEngineLineReturn
  split
  · exact h
  · split
    exacts [h.fromEngine, h]

theorem State.memCanonical.atomicNow (h : s.memCanonical) {f : Flight} {op type : Nat} :
    (s.atomicNow f op type).1.memCanonical :=
  h.atomics

theorem State.memCanonical.atomDone (h : s.memCanonical) {gid : Nat} {f : Flight} {op type : Nat} {ret : Bool} :
    (s.atomDone gid f op type ret).memCanonical := by
  unfold State.atomDone
  dsimp only
  split
  exacts [h.atomicNow.modFlight.later, h.atomicNow.finishFlight]

theorem State.memCanonical.atomFail (h : s.memCanonical) {gid : Nat} {f : Flight} {e : Flt} :
    (s.atomFail gid f e).memCanonical :=
  h.modGroup.haltAt

theorem State.memCanonical.atomTry (h : s.memCanonical) {gid : Nat} {g : Group} {f : Flight} {op type : Nat}
    {ret : Bool} :
    (s.atomTry gid g f op type ret).memCanonical := by
  unfold State.atomTry
  dsimp only
  split
  exacts [h.meetAll.atomFail, h.meetAll.atomFail, h.meetAll.atomDone]

theorem execAtomicPerformed_canonical (h : s.memCanonical) {gid id : Nat} :
    Canonical (execAtomicPerformed gid id s) := by
  unfold execAtomicPerformed
  dsimp only
  split
  · exact h
  · split
    · exact h
    · split
      · split
        · exact h.at
        · split
          exacts [h.rowsPass, h.rowsPass.atomTry]
      · exact h

/-! ### Machine/Control.lean -/

theorem execBra_canonical (h : s.memCanonical) {x : BraI} : Canonical (execBra x s) := by
  unfold execBra
  refine uniBoth_canonical h ?_ ?_
  · intro gid sp g p rd
    split
    exacts [trivial, (h.done (fun u h2 => h2)).inOk]
  · intro tid t rd
    split
    exacts [trivial, h.inOkFst]

theorem execBrq_canonical (h : s.memCanonical) {x : BrqI} : Canonical (execBrq x s) := by
  unfold execBrq
  refine uniBoth_canonical h ?_ ?_
  · intro gid sp g p rd
    split
    exacts [trivial, (h.tracePacket.done (fun u h2 => h2.syncDue)).inOk]
  · intro tid t rd
    split
    exacts [trivial, h.inOkFst]

theorem execBrv_canonical (h : s.memCanonical) {x : BrvI} : Canonical (execBrv x s) := by
  unfold execBrv
  dsimp only
  refine simtOnly_canonical h ?_
  intro gid sp g p rd
  split
  exacts [trivial, (h.tracePacket.done (fun u h2 => h2.divide.syncDue)).inOk]

theorem State.memCanonical.traceIndirect (h : s.memCanonical) {gid sp : Nat} {g : Group} {t : W64} :
    (s.traceIndirect gid sp g t).memCanonical :=
  h.tracePacket

theorem execJmpi_canonical (h : s.memCanonical) {x : R1} : Canonical (execJmpi x s) := by
  unfold execJmpi
  refine uniBoth_canonical h ?_ ?_
  · intro gid sp g p rd
    split
    exacts [trivial, (h.traceIndirect.done (fun u h2 => h2.syncDue)).inOk]
  · intro tid t rd
    split
    exacts [trivial, h.inOkFst]

theorem execRet_canonical (h : s.memCanonical) {x : R1} : Canonical (execRet x s) := by
  unfold execRet
  refine uniBoth_canonical h ?_ ?_
  · intro gid sp g p rd
    split
    exacts [trivial, (h.traceIndirect.done (fun u h2 => h2.syncDue)).inOk]
  · intro tid t rd
    split
    exacts [trivial, h.inOkFst]

theorem State.memCanonical.putLink (h : s.memCanonical) {gid : Nat} {p : Split} {d len : Nat} :
    (s.putLink gid p d len).memCanonical :=
  h.modGroup

theorem execCall_canonical (h : s.memCanonical) {x : CallI} : Canonical (execCall x s) := by
  unfold execCall
  refine uniBoth_canonical h ?_ ?_
  · intro gid sp g p rd
    split
    exacts [trivial, (h.putLink.done (fun u h2 => h2)).inOk]
  · intro tid t rd
    split
    exacts [trivial, h.modThread.inOkFst]

theorem execCalli_canonical (h : s.memCanonical) {x : Rr} : Canonical (execCalli x s) := by
  unfold execCalli
  refine uniBoth_canonical h ?_ ?_
  · intro gid sp g p rd
    split
    exacts [trivial, (h.traceIndirect.putLink.done (fun u h2 => h2.syncDue)).inOk]
  · intro tid t rd
    split
    exacts [trivial, h.modThread.inOkFst]

theorem State.memCanonical.threadExit (h : s.memCanonical) {tid : Nat} {t : Thread} :
    (s.threadExit tid t).memCanonical := by
  unfold State.threadExit
  dsimp only
  refine State.memCanonical.modThread ?_
  split
  exacts [h, h.enclaveExit]

theorem execExit_canonical (h : s.memCanonical) {x : Op0} : Canonical (execExit x s) :=
  uniBoth_canonical h (fun _ _ _ _ _ => (h.tracePacket.done (fun _ h2 => h2.endSplit.syncDue)).inOk) (fun _ _ _ =>
    h.threadExit.inOkFst)

theorem execJoin_canonical (h : s.memCanonical) {x : Op0} : Canonical (execJoin x s) :=
  simtOnly_canonical h (fun _ _ _ _ _ => (h.done (fun _ h2 => h2.modSplit.joinStep)).inOk)

theorem execYield_canonical (h : s.memCanonical) {x : Op0} : Canonical (execYield x s) :=
  uniBoth_canonical h (fun _ _ _ _ _ => (h.done (fun _ h2 => h2.modSplit)).inOk) (fun _ _ _ => h.inOkFst)

theorem State.memCanonical.threadTrap (h : s.memCanonical) {tid : Nat} {t : Thread} {cause len num : Nat} :
    (s.threadTrap tid t cause len num).memCanonical :=
  h.trap

theorem trapped_memCanonical (h : s.memCanonical) {tid : Nat} :
    ExceptAll (fun r => r.1.memCanonical) (trapped s tid) :=
  h.inOkFst

theorem execTrap_canonical (h : s.memCanonical) {x : Op1} : Canonical (execTrap x s) :=
  uniBoth_canonical h (fun _ _ _ _ _ => (h.done (fun _ h2 => h2.haltGroup)).inOk) (fun _ _ _ =>
    trapped_memCanonical h.threadTrap)

theorem execBkpt_canonical (h : s.memCanonical) {x : Op1} : Canonical (execBkpt x s) := by
  unfold execBkpt
  refine uniBoth_canonical h ?_ (fun tid t rd => trapped_memCanonical h.threadTrap)
  intro gid sp g p rd
  refine Done.Canonical.inOk ?_
  refine h.done ?_
  intro u h2
  split
  exacts [h2.haltGroup, h2]

/-! ### Machine/Integer.lean -/

theorem vecInt3_canonical (h : s.memCanonical) {arith readsD fixed : Bool} {op : ElemOp} {x : Op3} :
    Canonical (vecInt3 arith readsD fixed op x s) :=
  vecAlu_canonical h

theorem vecInt2_canonical (h : s.memCanonical) {arith : Bool} {op : ElemOp} {x : Op2} :
    Canonical (vecInt2 arith op x s) :=
  vecAlu_canonical h

theorem uniInt3_canonical (h : s.memCanonical) {arith readsD : Bool} {op : ElemOp} {x : Op3} :
    Canonical (uniInt3 arith readsD op x s) :=
  uniAlu_canonical h

theorem uniInt2_canonical (h : s.memCanonical) {arith : Bool} {op : ElemOp} {x : Op2} :
    Canonical (uniInt2 arith op x s) :=
  uniAlu_canonical h

theorem execIdp4_canonical (h : s.memCanonical) {x : Op3} : Canonical (execIdp4 x s) := vecAlu_canonical h

theorem execMulw_canonical (h : s.memCanonical) {x : Op3} : Canonical (execMulw x s) := vecAlu_canonical h

theorem execPrmt_canonical (h : s.memCanonical) {x : Op3} : Canonical (execPrmt x s) := vecAlu_canonical h

theorem execMov_canonical (h : s.memCanonical) {x : Op2} : Canonical (execMov x s) := vecAlu_canonical h

theorem execSel_canonical (h : s.memCanonical) {x : Op3} : Canonical (execSel x s) := vecAluOn_canonical h

theorem execIcmp_canonical (h : s.memCanonical) {x : CmpI} : Canonical (execIcmp x s) := vecAlu_canonical h

theorem execMovU_canonical (h : s.memCanonical) {x : Op2} : Canonical (execMovU x s) := uniAlu_canonical h

theorem execIcmpU_canonical (h : s.memCanonical) {x : CmpI} : Canonical (execIcmpU x s) := uniAlu_canonical h

/-! ### Machine/Float.lean -/

theorem vecFlt3_canonical (h : s.memCanonical) {readsD fixed usesRnd : Bool} {op : FltOp} {x : Op3} :
    Canonical (vecFlt3 readsD fixed usesRnd op x s) :=
  vecAlu_canonical h

theorem vecFlt2_canonical (h : s.memCanonical) {fixed usesRnd : Bool} {op : FltOp} {x : Op2} :
    Canonical (vecFlt2 fixed usesRnd op x s) :=
  vecAlu_canonical h

theorem execFcmp_canonical (h : s.memCanonical) {x : CmpI} : Canonical (execFcmp x s) := vecAlu_canonical h

theorem execFdot2_canonical (h : s.memCanonical) {x : Op3} : Canonical (execFdot2 x s) := vecAlu_canonical h

/-! ### Machine/Convert.lean -/

theorem vecConv_canonical (h : s.memCanonical) {spec : Rd → Spec} {fixed : Bool} {n : Rd → Nat → Nat}
    {f : Rd → (Nat → List W32) → Except Flt RegWrites} :
    Canonical (vecConv s spec fixed n f) := by
  unfold vecConv
  dsimp only
  refine issuer_canonical ?_ (fun tid t => h.threadFault)
  intro gid sp g p
  refine h.issueSplit ?_
  split
  · exact trivial
  · split
    · exact h.plain.inOk
    · refine Done.Canonical.inOk ?_
      refine State.memCanonical.plain ?_
      split
      exacts [h.modGroup.putFixed, h.modGroup.putVar]

theorem execCvt_canonical (h : s.memCanonical) {x : OpCode} : Canonical (execCvt x s) := vecConv_canonical h

theorem execCvtpk_canonical (h : s.memCanonical) {x : Op3} : Canonical (execCvtpk x s) := vecConv_canonical h

theorem mxIssue_canonical (h : s.memCanonical) {m : Marks} {len d fmt : Nat} {a : Opnd}
    {f : Nat × List Rounded → Nat → Nat} : Canonical (mxIssue s m len d fmt a f) :=
  vecConv_canonical h

theorem execMxsc_canonical (h : s.memCanonical) {x : OpCode} : Canonical (execMxsc x s) := mxIssue_canonical h

theorem execCvtn8_canonical (h : s.memCanonical) {x : OpCode} : Canonical (execCvtn8 x s) := mxIssue_canonical h

theorem execCvtn4_canonical (h : s.memCanonical) {x : Op2} : Canonical (execCvtn4 x s) := mxIssue_canonical h

theorem execCvtw_canonical (h : s.memCanonical) {x : Op3} : Canonical (execCvtw x s) := vecConv_canonical h

theorem vecRange_canonical (h : s.memCanonical) {m : Marks} {d nd a na : Nat} {f : Nat → Nat} :
    Canonical (vecRange m d nd a na f s) :=
  vecAlu_canonical h

theorem execPack6_canonical (h : s.memCanonical) {x : Rr} : Canonical (execPack6 x s) := vecRange_canonical h

theorem execUnpk6_canonical (h : s.memCanonical) {x : Rr} : Canonical (execUnpk6 x s) := vecRange_canonical h

theorem execCmpr24_canonical (h : s.memCanonical) {x : Rr} : Canonical (execCmpr24 x s) := vecAlu_canonical h

theorem execSrseed_canonical (h : s.memCanonical) {x : Op1} : Canonical (execSrseed x s) :=
  issuer_canonical (fun _ _ _ _ => h.issueSplit h.modGroup.plain.inOk) (fun _ _ => h.threadFault)

/-! ### Machine/Buffers.lean -/

theorem State.memCanonical.bufferDrop (h : s.memCanonical) {q : Nat} : (s.bufferDrop q).memCanonical := h.putTraceQ

theorem State.memCanonical.ringUnit (h : s.memCanonical) {q base size : Nat} {unit : List Byte} :
    (s.ringUnit q base size unit).memCanonical := by
  unfold State.ringUnit
  dsimp only
  split
  · exact h.bufferDrop
  · split
    · exact h.bufferDrop
    · split
      exacts [h.bufferDrop, h.write.writeNat]

theorem State.memCanonical.writeChunks (h : s.memCanonical) {k : Nat} {p : Chunk → Bool} :
    (s.writeChunks k p).memCanonical := by
  unfold State.writeChunks
  dsimp only
  split
  exacts [h.putTraceK.foldl (fun u a h2 => h2.ringUnit), (h.putTraceK.foldl (fun u a h2 => h2.ringUnit)).soon]

theorem State.memCanonical.flushCtx (h : s.memCanonical) {q : Nat} : (s.flushCtx q).memCanonical :=
  h.foldl (fun _ _ h2 => h2.writeChunks)

theorem State.memCanonical.flushSoon (h : s.memCanonical) {k q : Nat} : (s.flushSoon k q).memCanonical :=
  h.putTraceK.soon

theorem State.memCanonical.putSample (h : s.memCanonical) {q : Nat} {bs : List Byte} :
    (s.putSample q bs).memCanonical :=
  h.ringUnit

theorem State.memCanonical.loadSample (h : s.memCanonical) {g : Group} {f : Flight} :
    (s.loadSample g f).memCanonical := by
  unfold State.loadSample
  dsimp only
  split
  exacts [h, h.putSample]

/-! ### Machine/Pipeline.lean -/

theorem State.memCanonical.writeback (h : s.memCanonical) {gid : Nat} : (s.writeback gid).memCanonical := by
  unfold State.writeback
  dsimp only
  split
  exacts [h, h.putGroup.foldl (fun u a h2 => h2.passPending)]

theorem execFixedLatencyWriteback_canonical (h : s.memCanonical) {gid : Nat} :
    Canonical (execFixedLatencyWriteback gid s) :=
  Canonical.of_next h.writeback

theorem State.memCanonical.writeRegs (h : s.memCanonical) {gid : Nat} {w : RegWrites} :
    (s.writeRegs gid w).memCanonical :=
  h.modGroup

theorem State.memCanonical.arrived (h : s.memCanonical) {q : Nat} {f : Flight} : (s.arrived q f).memCanonical := by
  unfold State.arrived
  split
  · exact h.soon
  · split
    exacts [h.soon, h]
  · exact h

theorem State.memCanonical.loadDone (h : s.memCanonical) {gid : Nat} {g : Group} {f : Flight} {size : Nat} :
    (s.loadDone gid g f size).memCanonical := by
  unfold State.loadDone
  dsimp only
  split
  exacts [h.meetAll.loadSample.modGroup.haltFlt, h.meetAll.loadSample.writeRegs.finishFlight]

theorem State.memCanonical.loadStep (h : s.memCanonical) {gid id : Nat} {g : Group} {f : Flight} {size : Nat} :
    (s.loadStep gid id g f size).memCanonical := by
  unfold State.loadStep
  dsimp only
  split
  exacts [h.loadDone, h.modFlight.later]

theorem State.memCanonical.storeStep (h : s.memCanonical) {gid id : Nat} {f : Flight} :
    (s.storeStep gid id f).memCanonical := by
  unfold State.storeStep
  dsimp only
  split
  exacts [h.writeAccs.finishFlight, h.writeAccs.modFlight.later]

theorem execVariableLatencyResult_canonical (h : s.memCanonical) {gid id : Nat} :
    Canonical (execVariableLatencyResult gid id s) := by
  unfold execVariableLatencyResult
  dsimp only
  split
  · exact h
  · split
    · exact h
    · split
      · exact h.at
      · split
        · split
          exacts [h.rowsPass, h.rowsPass.loadStep]
        · exact h
        · exact h
        · exact h
        · exact h
        · exact h.writeRegs.finishFlight.arrived

theorem State.memCanonical.memNow (h : s.memCanonical) {gid id : Nat} : (s.memNow gid id).memCanonical := by
  unfold State.memNow
  split
  · exact h
  · split
    exacts [h.loadDone, h.writeAccs.finishFlight, h.atomTry, h.finishFlight, h]

theorem execStorePerformed_canonical (h : s.memCanonical) {gid id : Nat} :
    Canonical (execStorePerformed gid id s) := by
  unfold execStorePerformed
  dsimp only
  split
  · exact h
  · split
    · exact h
    · split
      · split
        · exact h.at
        · split
          exacts [h.rowsPass, h.rowsPass.storeStep]
      · exact h

theorem execRunStart_canonical (h : s.memCanonical) {sched : Nat} : Canonical (execRunStart sched s) := by
  unfold execRunStart
  dsimp only
  split
  · exact h
  · split <;> exact h

/-! ### Machine/Tuple.lean -/

theorem State.memCanonical.dropReq (h : s.memCanonical) {id : Nat} : (s.dropReq id).memCanonical := h.modStore

theorem State.memCanonical.tupWrite (h : s.memCanonical) {id : Nat} {r : TupReq} {w : RegWrites} :
    (s.tupWrite id r w).memCanonical := by
  unfold State.tupWrite
  dsimp only
  split
  · exact h.dropReq.modThread
  · split
    · exact h.dropReq.writeRegs.finishFlight
    · refine h.dropReq.writeRegs.finishFlight.foldl ?_
      intro u a h2
      split
      · split
        exacts [h2.resumeAfter, h2]
      · exact h2

theorem State.memCanonical.putReq (h : s.memCanonical) {id : Nat} {r : TupReq} : (s.putReq id r).memCanonical :=
  h.modStore

theorem State.memCanonical.tupReply (h : s.memCanonical) {id : Nat} {r : TupReq} {w : RegWrites} :
    (s.tupReply id r w).memCanonical := by
  unfold State.tupReply
  split
  exacts [h.tupWrite, h.putReq.modCtx]

theorem State.memCanonical.putTuples (h : s.memCanonical) {region : Nat} {ts : List Tup} :
    (s.putTuples region ts).memCanonical :=
  h.modStore

theorem State.memCanonical.serveDeposit (h : s.memCanonical) {id : Nat} {r : TupReq} :
    (s.serveDeposit id r).memCanonical := by
  unfold State.serveDeposit
  dsimp only
  split
  · exact h.tupReply
  · refine State.memCanonical.tupReply ?_
    split
    · exact (h.foldl (fun u a h2 => h2.tupReply)).tupReply
    · exact ((h.foldl (fun u a h2 => h2.tupReply)).putTuples).modStore

theorem State.memCanonical.dropAsked (h : s.memCanonical) {id : Nat} {r : TupReq} :
    (s.dropAsked id r).memCanonical := by
  unfold State.dropAsked
  dsimp only
  split
  exacts [h.dropReq, h.dropReq.modGroup]

theorem State.memCanonical.serveMatch (h : s.memCanonical) {id : Nat} {r : TupReq} {take : Bool} :
    (s.serveMatch id r take).memCanonical := by
  unfold State.serveMatch
  dsimp only
  split
  · refine State.memCanonical.tupReply ?_
    split
    exacts [h.putTuples, h]
  · split
    · exact h.tupReply
    · split
      · exact h.tupReply
      · split
        exacts [h.dropAsked, h.putReq.modStore]

theorem State.memCanonical.cancelAt (h : s.memCanonical) {id : Nat} {r : TupReq} {i : Nat} {rest : List Nat} :
    (s.cancelAt id r i rest).1.memCanonical :=
  (h.foldl (fun _ _ h2 => h2.tupReply)).putReq

theorem State.memCanonical.cancelRest (h : s.memCanonical) {id : Nat} {r : TupReq} {l : List Nat} :
    (s.cancelRest id r l).memCanonical := by
  induction l generalizing s r with
  | nil => exact h.tupReply
  | cons a rest ih => exact ih h.cancelAt

theorem State.memCanonical.serveNow (h : s.memCanonical) {id : Nat} {r : TupReq} :
    (s.serveNow id r).memCanonical := by
  unfold State.serveNow
  split
  · exact h
  · split
    exacts [h.serveDeposit, h.serveMatch, h.serveMatch, h.cancelRest]

theorem State.memCanonical.replyNow (h : s.memCanonical) {gid : Nat} {f : Flight} :
    (s.replyNow gid f).memCanonical := by
  unfold State.replyNow
  split
  exacts [h.serveNow, h.writeRegs.finishFlight]

theorem State.memCanonical.accessNow (h : s.memCanonical) {gid id : Nat} : (s.accessNow gid id).memCanonical := by
  unfold State.accessNow
  split
  · exact h
  · split
    exacts [h.replyNow, h.memNow]

theorem State.memCanonical.beforeReq (h : s.memCanonical) {r : TupReq} : (s.beforeReq r).memCanonical := by
  unfold State.beforeReq
  split
  · exact h
  · split
    exacts [h, h.foldl (fun u a h2 => h2.accessNow)]

theorem State.memCanonical.atSlice (h : s.memCanonical) {id : Nat} {r : TupReq} {slice : Nat} {serve : State → State}
    (hserve : ∀ u : State, u.memCanonical → (serve u).memCanonical) : (s.atSlice id r slice serve).memCanonical := by
  unfold State.atSlice
  split
  · exact h.tupWrite
  · split
    · exact hserve _ h
    · split
      exacts [h.at, hserve _ h.beforeReq]

theorem State.memCanonical.tupServe (h : s.memCanonical) {kind id : Nat} : (s.tupServe kind id).memCanonical := by
  unfold State.tupServe
  split
  · exact h
  · split
    exacts [h, h.atSlice (fun u h2 => h2.serveNow)]

theorem execTdepServe_canonical (h : s.memCanonical) {id : Nat} : Canonical (execTdepServe id s) :=
  Canonical.of_next h.tupServe

theorem execTcopyServe_canonical (h : s.memCanonical) {id : Nat} : Canonical (execTcopyServe id s) :=
  Canonical.of_next h.tupServe

theorem execTtakeServe_canonical (h : s.memCanonical) {id : Nat} : Canonical (execTtakeServe id s) :=
  Canonical.of_next h.tupServe

theorem State.memCanonical.serveCancel (h : s.memCanonical) {id : Nat} {r : TupReq} {i : Nat} {rest : List Nat} :
    (s.serveCancel id r i rest).memCanonical :=
  h.cancelAt.laterWithin

theorem execTcancelServe_canonical (h : s.memCanonical) {id : Nat} : Canonical (execTcancelServe id s) := by
  unfold execTcancelServe
  split
  · exact h
  · split
    · exact h
    · split
      exacts [h.tupReply, (h.atSlice (fun u h2 => h2.serveCancel))]

theorem State.memCanonical.sendTuple (h : s.memCanonical) {gid sp : Nat} {g : Group} {p : Split} {r : TupReq} :
    (s.sendTuple gid sp g p r).memCanonical :=
  h.modGroup.putReq.laterWithin

theorem State.memCanonical.sendTupleThread (h : s.memCanonical) {tid : Nat} {r : TupReq} :
    (s.sendTupleThread tid r).memCanonical :=
  h.modThread.putReq.laterWithin

theorem tupThread_memCanonical (h : s.memCanonical) {tid : Nat} {t : Thread} {spec : Spec}
    {req : Except (Nat × Nat) TupReq} :
    (tupThread s tid t spec req).memCanonical := by
  unfold tupThread
  refine h.issueThread ?_
  split
  exacts [trivial, h.sendTupleThread.inOkFst]

theorem tupIssue_canonical (h : s.memCanonical) {kind : Nat} {x : TupI} : Canonical (tupIssue kind x s) := by
  unfold tupIssue
  dsimp only
  refine issuer_canonical ?_ (fun tid t => tupThread_memCanonical h)
  intro gid sp g p
  refine h.issueGuard ?_
  split
  · exact h.issueFault
  · split
    exacts [h.sendTuple.stall, h.sendTuple.advance]

theorem execTdep_canonical (h : s.memCanonical) {x : TupI} : Canonical (execTdep x s) := tupIssue_canonical h

theorem execTcopy_canonical (h : s.memCanonical) {x : TupI} : Canonical (execTcopy x s) := tupIssue_canonical h

theorem execTtake_canonical (h : s.memCanonical) {x : TupI} : Canonical (execTtake x s) := tupIssue_canonical h

theorem execTcancel_canonical (h : s.memCanonical) {x : TcanI} : Canonical (execTcancel x s) := by
  unfold execTcancel
  dsimp only
  refine issuer_canonical ?_ (fun tid t => tupThread_memCanonical h)
  intro gid sp g p
  refine h.issueGuard ?_
  split
  exacts [h.issueFault, h.sendTuple.advance]

/-! ### Machine/Ordered.lean -/

theorem outState_memCanonical {o : Out} (h : s.memCanonical) (ho : Canonical o) : (outState o s).memCanonical := by
  cases o with
  | next u => exact ho
  | fault r => exact h
  | refused r => exact h

theorem State.memCanonical.readAfter (h : s.memCanonical) {gid before : Nat} {lanes : W32} {acc : List Acc} :
    (s.readAfter gid before lanes acc).memCanonical := by
  unfold State.readAfter
  split
  · exact h
  · split
    exacts [h.foldl (fun u a h2 => h2.accessNow), h]

theorem State.memCanonical.readAfterAll (h : s.memCanonical) {gid before : Nat} :
    (s.readAfterAll gid before).memCanonical := by
  unfold State.readAfterAll
  split
  exacts [h, h.foldl (fun u a h2 => h2.accessNow)]

theorem State.memCanonical.readRecords (h : s.memCanonical) {g : Group} {rs : List (Nat × Nat)} :
    (s.readRecords g rs).memCanonical := by
  unfold State.readRecords
  dsimp only
  refine h.meetAll.foldl ?_
  intro u a h2
  split
  exacts [h2, h2.rowTouch]

theorem simtAfter_canonical {spec : Rd → Spec} {active : Rd → W32} {prep : Nat → Group → Split → Rd → State}
    {issue : State → Nat → Nat → Group → Split → Rd → State} (h : s.memCanonical)
    (hprep : ∀ gid g p rd, (prep gid g p rd).memCanonical)
    (hissue : ∀ (u : State) gid sp g p rd, u.memCanonical → (issue u gid sp g p rd).memCanonical) :
    Canonical (simtAfter s spec active prep issue) := by
  refine issuer_canonical (fun gid sp g p => ?_) fun _ _ => h.threadFault
  dsimp only
  refine h.issueGuard ?_
  split
  · exact (hprep _ _ _ _).pop
  · split
    exacts [hissue _ _ _ _ _ _ (hprep _ _ _ _), (hprep _ _ _ _).pop]

theorem State.memCanonical.ctrTest (h : s.memCanonical) {gid sp : Nat} {g : Group} {p : Split} {spec : Spec}
    {acc : List Acc} {x : CtrWaitI} {va target : Nat} :
    (s.ctrTest gid sp g p spec acc x va target).memCanonical := by
  unfold State.ctrTest
  dsimp only
  split
  · exact h.meetAll.issueFlt
  · exact h.meetAll.issueFlt
  · split
    · exact h.meetAll.rowTouch.toEngine.issueSplit h.meetAll.rowTouch.toEngine.plain.inOk
    · exact h.meetAll.rowTouch.toEngine.stall

theorem execCtrwait_canonical (h : s.memCanonical) {x : CtrWaitI} : Canonical (execCtrwait x s) := by
  unfold execCtrwait
  dsimp only
  refine issuer_canonical ?_ ?_
  · intro gid sp g p
    refine h.issueGuard ?_
    split
    · exact h.issueFlt
    · split
      · exact h.readAfter.pop
      · split
        exacts [h.readAfter.ctrTest, h.readAfter.pop]
  · intro tid t
    refine h.issueThread ?_
    split
    · exact trivial
    · split
      · rename_i heq
        exact (h.threadGate.fst heq).inOkFst
      · rename_i heq
        split
        · exact trivial
        · split
          · exact trivial
          · split
            · exact ((((h.threadGate.fst heq).tlbFill).meet).toEngine).inOkFst
            · exact (((((h.threadGate.fst heq).tlbFill).meet).toEngine).modThread).inOkFst

/-! ### Machine/Sync.lean -/

theorem State.memCanonical.putBar (h : s.memCanonical) {key : Nat} {b : Barrier} : (s.putBar key b).memCanonical :=
  h.modSimt

theorem execBarrierPhaseComplete_canonical (h : s.memCanonical) {bar : Nat} :
    Canonical (execBarrierPhaseComplete bar s) := by
  unfold execBarrierPhaseComplete
  dsimp only
  split
  · exact h
  · split
    · refine State.memCanonical.soon ?_
      refine h.putBar.foldl ?_
      intro u a h2
      split
      exacts [h2.resumeAfter, h2.wake]
    · refine h.putBar.foldl ?_
      intro u a h2
      split
      exacts [h2.resumeAfter, h2.wake]

theorem State.memCanonical.arriveAt (h : s.memCanonical) {gid sp : Nat} {g : Group} {lanes : W32} {code : Nat}
    {d : Option Nat} :
    ExceptAll (fun r => r.1.memCanonical) (s.arriveAt gid sp g lanes code d) := by
  unfold State.arriveAt
  split
  · exact trivial
  · split
    exacts [trivial, h.putBar.launch.inOkFst]

theorem execBararr_canonical (h : s.memCanonical) {x : DCode} : Canonical (execBararr x s) := by
  unfold execBararr
  dsimp only
  refine simtOnly_canonical h ?_
  intro gid sp g p rd
  split
  · exact trivial
  · rename_i heq
    exact ((h.arriveAt.ok heq).plain).inOk

theorem execBarwait_canonical (h : s.memCanonical) {x : ACode} : Canonical (execBarwait x s) := by
  unfold execBarwait
  dsimp only
  refine simtStall_canonical h ?_ (fun gid sp g p rd => h.plain.inOk)
  intro gid sp g p rd
  split
  · exact trivial
  · refine OptionAll.inOk ?_
    split
    exacts [trivial, h.inSomeFst]

theorem execBarsync_canonical (h : s.memCanonical) {x : CodeI} : Canonical (execBarsync x s) := by
  unfold execBarsync
  dsimp only
  refine simtOnly_canonical h ?_
  intro gid sp g p rd
  split
  · exact trivial
  · rename_i heq
    exact ((h.arriveAt.ok heq).done (fun u h2 => h2)).inOk

theorem State.memCanonical.putDeferred (h : s.memCanonical) {id : Nat} {d : Deferred} :
    (s.putDeferred id d).memCanonical :=
  h.modSimt

theorem execBardef_canonical (h : s.memCanonical) {x : DCode} : Canonical (execBardef x s) := by
  unfold execBardef
  dsimp only
  refine simtOnly_canonical h ?_
  intro gid sp g p rd
  split
  · exact trivial
  · split
    · exact trivial
    · split
      exacts [trivial, h.putBar.launch.modGroup.putDeferred.soon.plain.inOk]

theorem execDeferredArrival_canonical (h : s.memCanonical) {id : Nat} : Canonical (execDeferredArrival id s) := by
  unfold execDeferredArrival
  dsimp only
  split
  · exact h
  · split
    · exact h
    · split
      exacts [h.at, h.modSimt.finishFlight.soon]

theorem State.memCanonical.recheckDeferred (h : s.memCanonical) : s.recheckDeferred.memCanonical :=
  h.foldl (fun _ _ h2 => h2.soon)

theorem execCtrwaitWake_canonical (h : s.memCanonical) {gid sp : Nat} : Canonical (execCtrwaitWake gid sp s) := by
  unfold execCtrwaitWake
  split
  · split
    exacts [h.resumeAfter, h]
  · exact h

/-! ### Machine/Copy.lean -/

theorem State.memCanonical.putCopy (h : s.memCanonical) {id : Nat} {c : Copy} : (s.putCopy id c).memCanonical :=
  h.modSimt

theorem State.memCanonical.modCopy (h : s.memCanonical) {id : Nat} {f : Copy → Copy} :
    (s.modCopy id f).memCanonical :=
  h.modSimt

theorem State.memCanonical.engWrite (h : s.memCanonical) {q va n data : Nat} {shadow : Bool} :
    ExceptAll State.memCanonical (s.engWrite q va n data shadow) := by
  unfold State.engWrite
  dsimp only
  split
  exacts [trivial, h.write.inOk]

theorem State.memCanonical.engPut (h : s.memCanonical) {q : Nat} {shadow : Bool} {va n x : Nat} :
    ExceptAll State.memCanonical (s.engPut q shadow va n x) := by
  induction n generalizing s va x with
  | zero => exact h
  | succ n ih =>
    unfold State.engPut
    split
    · exact trivial
    · rename_i heq
      exact ih (h.engWrite.ok heq)

theorem State.memCanonical.writeElem (h : s.memCanonical) {q bit size data : Nat} {shadow : Bool} :
    ExceptAll State.memCanonical (s.writeElem q bit size data shadow) := by
  unfold State.writeElem
  dsimp only
  split
  exacts [h.engWrite, h.engPut]

theorem State.memCanonical.reduceElem (h : s.memCanonical) {q bit size red ety data : Nat} :
    ExceptAll State.memCanonical (s.reduceElem q bit size red ety data) := by
  unfold State.reduceElem
  split
  exacts [trivial, h.toEngine.writeNat.inOk]

theorem State.memCanonical.localPutElem (h : s.memCanonical) {team bit size data : Nat} :
    (s.localPutElem team bit size data).memCanonical :=
  h.localWrite

theorem State.memCanonical.keepOld (h : s.memCanonical) {c : Copy} {bit size : Nat} :
    (s.keepOld c bit size).memCanonical := by
  unfold State.keepOld
  dsimp only
  split
  exacts [h, h.modSimt]

theorem State.memCanonical.copyOut (h : s.memCanonical) {c : Copy} {l : Layout} {cs : List Nat} {data : Nat}
    {cover : Nat → Bool} :
    ExceptAll State.memCanonical (s.copyOut c l cs data cover) := by
  unfold State.copyOut
  dsimp only
  split
  · exact h.inOk
  · split
    · exact trivial
    · split
      · exact h.keepOld.reduceElem
      · split
        exacts [h.keepOld.withFree.writeElem, h.keepOld.writeElem]

theorem State.memCanonical.copyElem (h : s.memCanonical) {c : Copy} {before : List Nat} {e : Nat} :
    ExceptAll State.memCanonical (s.copyElem c before e) := by
  unfold State.copyElem
  dsimp only
  split
  · split
    · exact h.localPutElem.inOk
    · split
      exacts [trivial, h.localPutElem.inOk]
  · split
    · exact h.inOk
    · split
      exacts [trivial, h.copyOut.mapError]
  · split
    exacts [trivial, h.drawn.copyOut.mapError]

theorem State.memCanonical.copyEach (h : s.memCanonical) {c : Copy} {before l : List Nat} :
    ExceptAll State.memCanonical (s.copyEach c before l) := by
  induction l generalizing s before with
  | nil => exact h
  | cons e r ih =>
    unfold State.copyEach
    split
    · exact trivial
    · rename_i heq
      exact ih (h.copyElem.ok heq)

theorem State.memCanonical.copyElems (h : s.memCanonical) {c : Copy} {es : List Nat} :
    ExceptAll State.memCanonical (s.copyElems c es) := by
  unfold State.copyElems
  dsimp only
  split
  exacts [h.copyEach, h.withFree.copyEach]

theorem State.memCanonical.sendCopy (h : s.memCanonical) {gid sp l : Nat} {x : CpyI} {c : Copy} :
    (s.sendCopy gid sp l x c).memCanonical :=
  h.putCopy.modGroup.later

theorem execCpy_canonical (h : s.memCanonical) {x : CpyI} : Canonical (execCpy x s) := by
  unfold execCpy
  dsimp only
  refine simtAfter_canonical h (fun gid g p rd => h.readAfterAll.readRecords) ?_
  intro u gid sp g p rd h2
  refine h2.issueSplit ?_
  split
  · exact h2.plain.inOk
  · split
    exacts [trivial, h2.sendCopy.plain.inOk]

theorem State.memCanonical.copyFault (h : s.memCanonical) {id : Nat} {c : Copy} {f : CopyFlt} :
    (s.copyFault id c f).memCanonical := by
  unfold State.copyFault
  dsimp only
  split
  · split
    exacts [h.modCopy.modSimt.modCopy.raiseHalt, h.modCopy.modSimt.postDie]
  · exact h.modCopy.modCopy.raiseHalt

theorem State.memCanonical.meetUnit (h : s.memCanonical) {c : Copy} : (s.meetUnit c).memCanonical := by
  unfold State.meetUnit
  dsimp only
  split
  · split
    exacts [h, h.foldl (fun u a h2 => h2.meetLine)]
  · split
    · exact h.foldl (fun u a h2 => h2.meetLocal)
    · exact (h.foldl (fun u a h2 => h2.meetLocal)).foldl (fun u a h2 => h2.meetLine)

theorem State.memCanonical.clearUnit (h : s.memCanonical) {c : Copy} : (s.clearUnit c).memCanonical := by
  unfold State.clearUnit
  dsimp only
  split
  exacts [h, h.foldl (fun u a h2 => h2.clearPoison)]

theorem State.memCanonical.useEngine (h : s.memCanonical) {c : Copy} : (s.useEngine c).memCanonical := h.modSimt

theorem execCopyUnitTransfer_canonical (h : s.memCanonical) {copy : Nat} :
    Canonical (execCopyUnitTransfer copy s) := by
  unfold execCopyUnitTransfer
  dsimp only
  split
  · exact h
  · split
    · exact h
    · split
      · exact h.modCopy
      · split
        · exact h.at
        · split
          · exact h.rowsPass
          · split
            · exact h.rowsPass.useEngine.meetUnit.copyFault
            · rename_i heq
              split
              · exact (((h.rowsPass.useEngine.meetUnit.copyElems.ok heq).clearUnit).modCopy).at
              · exact (((h.rowsPass.useEngine.meetUnit.copyElems.ok heq).clearUnit).modCopy).soon

theorem State.memCanonical.copyCount (h : s.memCanonical) {c : Copy} {pa : Option Nat} {va : Nat} :
    ExceptAll State.memCanonical (s.copyCount c pa va) := by
  unfold State.copyCount
  split
  · exact h.inOk
  · split
    · exact h.addCounter.inOk
    · split
      exacts [trivial, h.addCounter.inOk]

theorem execSourceReleased_canonical (h : s.memCanonical) {copy : Nat} : Canonical (execSourceReleased copy s) := by
  unfold execSourceReleased
  split
  · exact h
  · split
    · exact h
    · split
      · exact h.copyFault
      · rename_i heq
        exact ((h.modCopy.copyCount.ok heq).later)

theorem State.memCanonical.dropCopy (h : s.memCanonical) {id : Nat} : (s.dropCopy id).memCanonical := by
  unfold State.dropCopy
  split
  · split
    exacts [h.modSimt, h]
  · exact h

theorem execLanded_canonical (h : s.memCanonical) {copy : Nat} : Canonical (execLanded copy s) := by
  unfold execLanded
  dsimp only
  split
  · exact h
  · split
    · exact h
    · refine State.memCanonical.soon ?_
      refine State.memCanonical.recheckDeferred ?_
      split
      · refine State.memCanonical.soon ?_
        refine h.modCopy.finishFlight.foldl ?_
        intro u a h2
        split
        exacts [h2.soon, h2]
      · refine h.modCopy.finishFlight.foldl ?_
        intro u a h2
        split
        exacts [h2.soon, h2]

theorem execPublished_canonical (h : s.memCanonical) {copy : Nat} : Canonical (execPublished copy s) := by
  unfold execPublished
  split
  · exact h
  · split
    · exact h
    · split
      · exact h.copyFault
      · rename_i heq
        exact (((h.modCopy.copyCount.ok heq).recheckDeferred).dropCopy)

/-! ### Machine/Tiles.lean -/

theorem State.memCanonical.putAcc (h : s.memCanonical) {gid : Nat} {ws : List (Nat × W32 × Nat)} :
    (s.putAcc gid ws).memCanonical :=
  h.modSimt.modGroup

theorem State.memCanonical.accOverflow (h : s.memCanonical) {gid : Nat} {b : Bool} :
    (s.accOverflow gid b).memCanonical := by
  unfold State.accOverflow
  dsimp only
  split
  exacts [h.modGroup, h]

/-! ### Machine/Matrix.lean -/

theorem State.memCanonical.putSlot (h : s.memCanonical) {k : Nat} {x : Option LiveSlot} :
    (s.putSlot k x).memCanonical :=
  h.modSimt

theorem State.memCanonical.drainSlot (h : s.memCanonical) {k : Nat} {sat : Bool} :
    (s.drainSlot k sat).memCanonical := by
  unfold State.drainSlot
  dsimp only
  split
  exacts [h, h.putAcc.accOverflow.putSlot]

theorem State.memCanonical.drainUnbind (h : s.memCanonical) {k : Nat} {sat : Bool} :
    (s.drainUnbind k sat).memCanonical :=
  h.drainSlot.putSlot

theorem State.memCanonical.countBlocks (h : s.memCanonical) {team : Nat} {o : MatOp} {u : MatUnit} {pins : Pins}
    {k : Nat}
    {l : List Nat} : (s.countBlocks team o u pins k l).memCanonical := by
  induction l generalizing s with
  | nil => exact h
  | cons b r ih =>
    unfold State.countBlocks
    dsimp only
    split
    · split
      exacts [h.drainSlot, h]
    · refine ih ?_
      refine State.memCanonical.putSlot ?_
      split
      exacts [h.drainSlot, h]

theorem State.memCanonical.countOp (h : s.memCanonical) {team : Nat} {o : MatOp} {u : MatUnit} {pins : Pins} :
    (s.countOp team o u pins).memCanonical := by
  unfold State.countOp
  dsimp only
  split
  · refine State.memCanonical.countBlocks ?_
    split
    · split
      · split
        · split
          exacts [h.putAcc.drainSlot, h.putAcc]
        · split
          exacts [h.drainSlot, h]
      · split
        · split
          · split
            exacts [h.putAcc.drainUnbind.putSlot.drainSlot, h.putAcc.drainUnbind.putSlot]
          · split
            exacts [h.putAcc.putSlot.drainSlot, h.putAcc.putSlot]
        · split
          · split
            exacts [h.drainUnbind.putSlot.drainSlot, h.drainUnbind.putSlot]
          · split
            exacts [h.putSlot.drainSlot, h.putSlot]
    · split
      · split
        · split
          exacts [h.putAcc.drainSlot, h.putAcc]
        · split
          exacts [h.drainSlot, h]
      · split
        · split
          · split
            exacts [h.putAcc.drainUnbind.putSlot.drainSlot, h.putAcc.drainUnbind.putSlot]
          · split
            exacts [h.putAcc.putSlot.drainSlot, h.putAcc.putSlot]
        · split
          · split
            exacts [h.drainUnbind.putSlot.drainSlot, h.drainUnbind.putSlot]
          · split
            exacts [h.putSlot.drainSlot, h.putSlot]
  · refine State.memCanonical.drainUnbind ?_
    refine State.memCanonical.countBlocks ?_
    split
    · split
      · split
        · split
          exacts [h.putAcc.drainSlot, h.putAcc]
        · split
          exacts [h.drainSlot, h]
      · split
        · split
          · split
            exacts [h.putAcc.drainUnbind.putSlot.drainSlot, h.putAcc.drainUnbind.putSlot]
          · split
            exacts [h.putAcc.putSlot.drainSlot, h.putAcc.putSlot]
        · split
          · split
            exacts [h.drainUnbind.putSlot.drainSlot, h.drainUnbind.putSlot]
          · split
            exacts [h.putSlot.drainSlot, h.putSlot]
    · split
      · split
        · split
          exacts [h.putAcc.drainSlot, h.putAcc]
        · split
          exacts [h.drainSlot, h]
      · split
        · split
          · split
            exacts [h.putAcc.drainUnbind.putSlot.drainSlot, h.putAcc.drainUnbind.putSlot]
          · split
            exacts [h.putAcc.putSlot.drainSlot, h.putAcc.putSlot]
        · split
          · split
            exacts [h.drainUnbind.putSlot.drainSlot, h.drainUnbind.putSlot]
          · split
            exacts [h.putSlot.drainSlot, h.putSlot]

theorem State.memCanonical.runPass (h : s.memCanonical) {team : Nat} {o : MatOp} {u : MatUnit} {pins : Pins} :
    (s.runPass team o u pins).memCanonical := by
  unfold State.runPass
  dsimp only
  split
  exacts [h.countOp, h.putAcc.accOverflow]

theorem State.memCanonical.freeWords (h : s.memCanonical) {gid : Nat} {l : List Nat} :
    (s.freeWords gid l).memCanonical := by
  induction l generalizing s with
  | nil => exact h
  | cons k r ih => exact ih h.putAcc.drawn

theorem State.memCanonical.runCopy (h : s.memCanonical) {o : MatOp} {gid : Nat} {k : MatKind} {col w : Nat} :
    (s.runCopy o gid k col w).memCanonical := by
  unfold State.runCopy
  dsimp only
  split
  · exact h
  · split
    · exact h.putAcc
    · split
      exacts [h.haltAt, h.foldl (fun u a h2 => h2.localWrite)]
    · exact h.putAcc
    · exact h

theorem State.memCanonical.modOp (h : s.memCanonical) {id : Nat} {f : MatOp → MatOp} : (s.modOp id f).memCanonical :=
  h.modSimt

theorem State.memCanonical.startPass (h : s.memCanonical) {k : Nat} : (s.startPass k).memCanonical := by
  unfold State.startPass
  dsimp only
  split <;> exact h

theorem State.memCanonical.wakeMatrix (h : s.memCanonical) {gid : Nat} : (s.wakeMatrix gid).memCanonical := by
  unfold State.wakeMatrix
  split
  · exact h
  · split
    · exact h
    · refine h.foldl ?_
      intro u a h2
      split
      exacts [h2.wake, h2]

theorem State.memCanonical.finishOp (h : s.memCanonical) {k : Nat} {o : MatOp} : (s.finishOp k o).memCanonical := by
  unfold State.finishOp
  dsimp only
  split
  · exact (((h.modSimt.modGroup.laterWithin.foldl (fun u a h2 => h2.soon)).wakeMatrix).soon).soon
  · exact h.modSimt.modGroup.laterWithin.foldl (fun u a h2 => h2.soon)

theorem State.memCanonical.meetPass (h : s.memCanonical) {o : MatOp} {u : MatUnit} :
    (s.meetPass o u).memCanonical := by
  unfold State.meetPass
  dsimp only
  split
  · refine State.memCanonical.meetAcc ?_
    refine State.memCanonical.meetSlot ?_
    split
    · refine State.memCanonical.meetLocal ?_
      split
      exacts [h.meetLocal, h]
    · split
      exacts [h.meetLocal, h]
  · split
    · split
      · refine State.memCanonical.meetLocal ?_
        split
        exacts [h.meetLocal, h]
      · split
        exacts [h.meetLocal, h]
    · refine State.memCanonical.meetAcc ?_
      split
      · refine State.memCanonical.meetLocal ?_
        split
        exacts [h.meetLocal, h]
      · split
        exacts [h.meetLocal, h]

theorem State.memCanonical.meetCopy (h : s.memCanonical) {o : MatOp} {k : MatKind} :
    (s.meetCopy o k).memCanonical := by
  unfold State.meetCopy
  split
  exacts [h.meetAcc, h.meetLocal, h]

theorem State.memCanonical.logResidue (h : s.memCanonical) {o : MatOp} {u : MatUnit} :
    (s.logResidue o u).memCanonical := by
  unfold State.logResidue
  split
  exacts [h, h.logError]

theorem State.memCanonical.passOp (h : s.memCanonical) {engine : Nat} {o : MatOp} :
    (s.passOp engine o).memCanonical := by
  unfold State.passOp
  split
  · split
    · exact h.finishOp
    · extract_lets _ _ _ _ s₁ s₂ _ s₃ _ s₄ _ s₅
      have h₂ : s₂.memCanonical := by
        dsimp only [s₂]
        split
        · exact h.meetPass
        · exact h.meetPass.foldl fun _ _ h => h.meetLine
      have h₄ : s₄.memCanonical := by
        dsimp only [s₄]
        split
        · exact h₂.runPass.modSimt.logResidue
        · exact h₂.runPass
      split
      · refine State.memCanonical.finishOp ?_
        split
        · exact h₄.freeWords.modOp.freeWords
        · exact h₄.freeWords.modOp
      · exact h₄.freeWords.modOp
  · exact h.meetCopy.runCopy.finishOp

theorem execMatrixPass_canonical (h : s.memCanonical) {engine : Nat} : Canonical (execMatrixPass engine s) := by
  unfold execMatrixPass
  dsimp only
  split
  · exact h
  · split
    · exact h.at
    · split
      · split
        exacts [h.rowsPass, h.rowsPass.passOp.startPass]
      · split
        exacts [h.rowsPass, h.rowsPass.passOp.startPass]

theorem State.memCanonical.runOp (h : s.memCanonical) {id n : Nat} : (s.runOp id n).memCanonical := by
  induction n generalizing s with
  | zero => exact h
  | succ n ih =>
    unfold State.runOp
    split
    exacts [h, ih h.passOp]

theorem State.memCanonical.runOps (h : s.memCanonical) {gid : Nat} : (s.runOps gid).memCanonical :=
  h.foldl (fun _ _ h2 => h2.runOp.withAgenda.startPass)

theorem State.memCanonical.accept (h : s.memCanonical) {o : MatOp} : (s.accept o).memCanonical := by
  unfold State.accept
  dsimp only
  split
  exacts [h.modSimt.modGroup.startPass, h.modSimt.modGroup]

theorem State.memCanonical.beforeOffer (h : s.memCanonical) {g : Group} {o : MatOp} :
    (s.beforeOffer g o).memCanonical :=
  h.readAfterAll.readRecords

theorem State.memCanonical.acceptUnits (h : s.memCanonical) {o : MatOp} : (s.acceptUnits o).memCanonical := by
  unfold State.acceptUnits
  split
  exacts [h, h.accept]

theorem matIssue_canonical (h : s.memCanonical) {spec : Rd → Spec} {active : Rd → W32} {m : Marks} {len : Nat}
    {ctl : MmaCtl} {grouped : Bool} {offer : Rd → List (Nat × W64 × W64 × W64)} :
    Canonical (matIssue spec active m len ctl grouped offer s) := by
  unfold matIssue
  dsimp only
  refine simtAfter_canonical h (fun gid g p rd => h.beforeOffer) ?_
  intro u gid sp g p rd h2
  split
  · exact h2.issueFlt
  · split
    exacts [h2.issueSplit h2.acceptUnits.plain.inOk, h2.modSimt.stall]

theorem execMma_canonical (h : s.memCanonical) {x : MmaI} : Canonical (execMma x s) := matIssue_canonical h

theorem execMmag_canonical (h : s.memCanonical) {x : MmagI} : Canonical (execMmag x s) := matIssue_canonical h

theorem execOperationAcceptance_canonical (h : s.memCanonical) {id : Nat} :
    Canonical (execOperationAcceptance id s) := by
  unfold execOperationAcceptance
  dsimp only
  split
  · exact h
  · split
    · exact h
    · split
      · split
        · exact h
        · split
          · exact h.beforeOffer
          · split
            · exact h.beforeOffer.modSimt.parkedFlt
            · split
              exacts [h.beforeOffer.modSimt.acceptUnits.resumeAfter, h.beforeOffer]
      · exact h

theorem State.memCanonical.closeBatch (h : s.memCanonical) {gid sp d : Nat} :
    (s.closeBatch gid sp d).memCanonical := by
  unfold State.closeBatch
  dsimp only
  split
  · exact h
  · split
    exacts [h.putGroup.launch.laterWithin, h.putGroup.launch]

theorem execMfence_canonical (h : s.memCanonical) {x : R1} : Canonical (execMfence x s) := by
  unfold execMfence
  dsimp only
  refine simtStall_canonical h ?_ (fun gid sp g p rd => h.closeBatch.plain.inOk)
  intro gid sp g p rd
  refine OptionAll.inOk ?_
  split
  exacts [h.inSomeFst, trivial]

theorem State.memCanonical.reportBatch (h : s.memCanonical) {gid sp b c : Nat} :
    (s.reportBatch gid sp b c).memCanonical :=
  h.modGroup.haltGroup.modSplit

theorem execMwait_canonical (h : s.memCanonical) {x : Op1} : Canonical (execMwait x s) := by
  unfold execMwait
  dsimp only
  refine simtStall_canonical h ?_ (fun gid sp g p rd => h.plain.inOk)
  intro gid sp g p rd
  split
  · exact trivial
  · split
    · exact h.inSomeFst.inOk
    · split
      exacts [h.reportBatch.inSomeFst.inOk, trivial]

theorem State.memCanonical.mwaitDone (h : s.memCanonical) {gid sp b : Nat} {m : Marks} {len : Nat} :
    (s.mwaitDone gid sp b m len).memCanonical := by
  unfold State.mwaitDone
  split
  · exact h
  · split
    exacts [h.resumeAfter, h.reportBatch]

theorem State.memCanonical.batchWake (h : s.memCanonical) {gid : Nat} : (s.batchWake gid).memCanonical := by
  unfold State.batchWake
  dsimp only
  split
  · exact h
  · refine h.foldl ?_
    intro u a h2
    split
    · split
      exacts [h2.mwaitDone, h2]
    · split
      exacts [h2.closeBatch.resumeAfter, h2]
    · exact h2

theorem execBatchComplete_canonical (h : s.memCanonical) {gid : Nat} : Canonical (execBatchComplete gid s) :=
  Canonical.of_next h.modGroup.batchWake

theorem execMsetaux_canonical (h : s.memCanonical) {x : OpAC} : Canonical (execMsetaux x s) :=
  simtOnly_canonical h (fun _ _ _ _ _ => h.modGroup.plain.inOk)

theorem execAcrd_canonical (h : s.memCanonical) {x : Op2} : Canonical (execAcrd x s) := by
  unfold execAcrd
  dsimp only
  refine simtOnly_canonical h ?_
  intro gid sp g p rd
  split
  · exact trivial
  · split
    · exact trivial
    · refine Done.Canonical.inOk ?_
      refine State.memCanonical.plain ?_
      split
      exacts [h.meetAcc, h.meetAcc.putVar]

theorem State.memCanonical.clobberOps (h : s.memCanonical) {gid : Nat} {ws : List Nat} :
    (s.clobberOps gid ws).memCanonical :=
  h.modSimt

theorem execAcwr_canonical (h : s.memCanonical) {x : OpAC} : Canonical (execAcwr x s) := by
  unfold execAcwr
  refine simtOnly_canonical h ?_
  intro gid sp g p rd
  split
  exacts [trivial, h.putAcc.clobberOps.plain.inOk]

theorem State.memCanonical.accOp (h : s.memCanonical) {gid sp : Nat} {g : Group} {rd : Rd} {k : MatKind}
    {col w : Nat} : (s.accOp gid sp g rd k col w).memCanonical :=
  h.accept

theorem execAczero_canonical (h : s.memCanonical) {x : OpAC} : Canonical (execAczero x s) := by
  unfold execAczero
  dsimp only
  refine simtOnly_canonical h ?_
  intro gid sp g p rd
  split
  · exact trivial
  · split
    · exact trivial
    · split
      exacts [trivial, h.accOp.plain.inOk]

theorem execAccpy_canonical (h : s.memCanonical) {x : OpAC} : Canonical (execAccpy x s) := by
  unfold execAccpy
  dsimp only
  refine simtOnly_canonical h ?_
  intro gid sp g p rd
  split
  · exact trivial
  · split
    · exact trivial
    · split
      exacts [trivial, h.accOp.plain.inOk]

/-! ### Machine/CountBank.lean -/

theorem State.memCanonical.meetBanks (h : s.memCanonical) {gid : Nat} : (s.meetBanks gid).memCanonical := by
  unfold State.meetBanks
  split
  exacts [h, (h.foldl (fun u a h2 => h2.meetSlot)).meetAcc]

theorem countBank_canonical {m : Marks} {len : Nat} {needS : Bool} {srcs : Rd → List Nat} {mode opnd : Rd → Bool}
    {body : State → Nat → Group → Rd → Except (Nat × Nat) State} (h : s.memCanonical)
    (hb : ∀ (u : State) gid g rd, u.memCanonical → ExceptAll State.memCanonical (body u gid g rd)) :
    Canonical (countBank m len needS srcs mode opnd body s) := by
  unfold countBank
  dsimp only
  refine simtStall_canonical h ?_ ?_
  · intro gid sp g p rd
    split
    · exact trivial
    · refine OptionAll.inOk ?_
      split
      exacts [h.inSomeFst, trivial]
  · intro gid sp g p rd
    split
    · exact trivial
    · rename_i heq
      exact (((hb _ _ _ _ h.meetBanks).ok heq).plain).inOk

theorem execCbdrain_canonical (h : s.memCanonical) {x : CodeI} : Canonical (execCbdrain x s) := by
  unfold execCbdrain
  dsimp only
  refine countBank_canonical h ?_
  intro u gid g rd h2
  split
  exacts [trivial, h2.drainUnbind.inOk]

theorem execCbclr_canonical (h : s.memCanonical) {x : CodeI} : Canonical (execCbclr x s) := by
  unfold execCbclr
  dsimp only
  refine countBank_canonical h ?_
  intro u gid g rd h2
  split
  exacts [trivial, h2.putSlot.inOk]

theorem execCbsave_canonical (h : s.memCanonical) {x : ACode} : Canonical (execCbsave x s) := by
  unfold execCbsave
  dsimp only
  refine countBank_canonical h ?_
  intro u gid g rd h2
  split
  · exact trivial
  · split
    · exact trivial
    · split
      · exact trivial
      · split
        exacts [trivial, h2.putAcc.putSlot.inOk]

theorem execCbload_canonical (h : s.memCanonical) {x : SlotAC} : Canonical (execCbload x s) := by
  unfold execCbload
  dsimp only
  refine countBank_canonical h ?_
  intro u gid g rd h2
  split
  · exact trivial
  · split
    · exact trivial
    · split
      · exact trivial
      · split
        · exact trivial
        · split
          exacts [trivial, h2.drainUnbind.putSlot.inOk]

theorem execCbmerge_canonical (h : s.memCanonical) {x : OpAC} : Canonical (execCbmerge x s) := by
  unfold execCbmerge
  dsimp only
  refine countBank_canonical h ?_
  intro u gid g rd h2
  split
  · exact trivial
  · split
    · exact trivial
    · split
      exacts [trivial, h2.putAcc.inOk]

theorem execCbdrainw_canonical (h : s.memCanonical) {x : OpReg} : Canonical (execCbdrainw x s) := by
  unfold execCbdrainw
  dsimp only
  refine countBank_canonical h ?_
  intro u gid g rd h2
  split
  · exact trivial
  · split
    · exact trivial
    · split
      · exact trivial
      · split
        · exact trivial
        · split
          · split
            exacts [trivial, h2.putAcc.accOverflow.inOk]
          · split
            exacts [trivial, h2.putAcc.accOverflow.inOk]

/-! ### Machine/CrossLane.lean -/

theorem shuffle_canonical (h : s.memCanonical) {src : Nat → Nat → Option Nat} {x : Op3} :
    Canonical (shuffle src x s) :=
  vecAlu_canonical h

theorem execShfl_canonical (h : s.memCanonical) {x : Op3} : Canonical (execShfl x s) := shuffle_canonical h

theorem execShflx_canonical (h : s.memCanonical) {x : Op3} : Canonical (execShflx x s) := shuffle_canonical h

theorem execShflup_canonical (h : s.memCanonical) {x : Op3} : Canonical (execShflup x s) := shuffle_canonical h

theorem execShfldn_canonical (h : s.memCanonical) {x : Op3} : Canonical (execShfldn x s) := shuffle_canonical h

theorem reduce_canonical (h : s.memCanonical) {bad : Rd → Bool} {op : RedOp} {x : Op2} :
    Canonical (reduce bad op x s) :=
  vecAlu_canonical h

theorem minMaxIdx_canonical (h : s.memCanonical) {isMax : Bool} {x : Op2} : Canonical (minMaxIdx isMax x s) :=
  vecAlu_canonical h

theorem execMinidx_canonical (h : s.memCanonical) {x : Op2} : Canonical (execMinidx x s) := minMaxIdx_canonical h

theorem execMaxidx_canonical (h : s.memCanonical) {x : Op2} : Canonical (execMaxidx x s) := minMaxIdx_canonical h

theorem execScanadd_canonical (h : s.memCanonical) {x : Op2} : Canonical (execScanadd x s) := vecAlu_canonical h

theorem execMatchV_canonical (h : s.memCanonical) {x : Op2} : Canonical (execMatchV x s) := vecAlu_canonical h

/-! ### Machine/Crypto.lean -/

theorem State.memCanonical.random (h : s.memCanonical) {n : Nat} : (s.random n).2.memCanonical := h.drawn

theorem State.memCanonical.freshKey (h : s.memCanonical) : s.freshKey.2.memCanonical := h.drawn

/-! ### Machine/Stops.lean -/

theorem State.memCanonical.freeFb (h : s.memCanonical) {p : FbEntry → Bool} : (s.freeFb p).memCanonical := h.modSimt

theorem State.memCanonical.withdrawSplit (h : s.memCanonical) {gid sp : Nat} {k : Park} :
    (s.withdrawSplit gid sp k).memCanonical := by
  unfold State.withdrawSplit
  dsimp only
  split
  · split
    · exact h.modSplit
    · split
      exacts [h.tupWrite, h.dropReq.modGroup.modSplit]
  · exact h.modGroup.modSplit
  · exact h.modSimt.modSplit
  · exact h.modGroup.modSplit
  · exact h.modSimt.modSplit
  · exact h
  · exact h
  · exact h.modSplit

theorem State.memCanonical.withdrawGroup (h : s.memCanonical) {gid : Nat} : (s.withdrawGroup gid).memCanonical := by
  unfold State.withdrawGroup
  dsimp only
  split
  · exact h
  · refine h.modGroup.foldl ?_
    intro u a h2
    split
    exacts [h2.withdrawSplit, h2]

theorem State.memCanonical.performNow (h : s.memCanonical) {gid : Nat} {f : Flight} :
    (s.performNow gid f).memCanonical := by
  unfold State.performNow
  dsimp only
  split
  · exact h
  · split
    · exact h.replyNow.arrived
    · exact h.writeRegs.finishFlight.arrived
    · exact (OptionAll.map (fun a => h.memNow.replyNow)).getD h.memNow
    · exact h.memNow

theorem State.memCanonical.completeGroup (h : s.memCanonical) {gid : Nat} : (s.completeGroup gid).memCanonical := by
  unfold State.completeGroup
  dsimp only
  split
  · exact h
  · exact outState_memCanonical (h.foldl (fun u a h2 => h2.performNow)) (execBatchComplete_canonical ((h.foldl
      (fun u a h2 => h2.performNow)).runOps))

theorem State.memCanonical.resumeGroup (h : s.memCanonical) {gid : Nat} : (s.resumeGroup gid).memCanonical := by
  unfold State.resumeGroup
  dsimp only
  split
  exacts [h, h.of_mem.promoteAll]

theorem State.memCanonical.swapWrite (h : s.memCanonical) {q n off : Nat} {bs : List Byte} :
    OptionAll State.memCanonical (s.swapWrite q n off bs) := by
  induction n generalizing s off bs with
  | zero => exact h
  | succ n ih =>
    unfold State.swapWrite
    split
    · exact h.inSome
    · split
      exacts [trivial, ih h.write]

theorem State.memCanonical.stopCopies (h : s.memCanonical) {p : Copy → Bool} : (s.stopCopies p).memCanonical :=
  h.of_mem

theorem State.memCanonical.resumeCopies (h : s.memCanonical) {p : Copy → Bool} {core : Option Nat} :
    (s.resumeCopies p core).memCanonical :=
  h.foldl (fun _ _ h2 => h2.modCopy.later)

theorem State.memCanonical.endRuns (h : s.memCanonical) {gids : List Nat} : (s.endRuns gids).memCanonical := h.of_mem

theorem State.memCanonical.stopGroup (h : s.memCanonical) {gid : Nat} {peer : Bool} :
    (s.stopGroup gid peer).memCanonical := by
  unfold State.stopGroup
  dsimp only
  split
  exacts [h.withdrawGroup.completeGroup, h.withdrawGroup.completeGroup.putGroup.endRuns]

theorem State.memCanonical.writeReport (h : s.memCanonical) {q : Nat} {halt : Halt} :
    (s.writeReport q halt).memCanonical := by
  unfold State.writeReport
  dsimp only
  split
  exacts [h, h.write.addCounter]

theorem State.memCanonical.haltVector (h : s.memCanonical) {q : Nat} : (s.haltVector q).memCanonical := by
  unfold State.haltVector
  dsimp only
  split
  · exact h
  · split
    exacts [h.putQueue, h.post]

theorem State.memCanonical.stopPacket (h : s.memCanonical) {q : Nat} : (s.stopPacket q).memCanonical := by
  unfold State.stopPacket
  dsimp only
  split
  exacts [h.withTurns.putQueue, h]

theorem State.memCanonical.markFirst (h : s.memCanonical) {halt : Halt} : (s.markFirst halt).memCanonical := by
  unfold State.markFirst
  split
  · split
    exacts [h.modGroup, h]
  · exact h

theorem State.memCanonical.endSkid (h : s.memCanonical) {q : Nat} {halt : Halt} :
    (s.endSkid q halt).memCanonical := by
  unfold State.endSkid
  exact (((((((((h.foldl (fun _ _ h2 =>
    h2.stopGroup)).markFirst).stopCopies).freeFb).stopPacket).flushCtx).dumpBreak).modCtx).writeReport).haltVector

theorem execSkidEnd_canonical (h : s.memCanonical) {queue : Nat} : Canonical (execSkidEnd queue s) := by
  unfold execSkidEnd
  dsimp only
  split
  · exact h
  · split
    · exact h
    · split
      · exact ((h.foldl (fun u a h2 => h2.withdrawGroup)).at)
      · exact ((h.foldl (fun u a h2 => h2.withdrawGroup)).endSkid)

/-! ### Machine/Swap.lean -/

theorem State.memCanonical.stopTeam (h : s.memCanonical) {id : Nat} {t : Team} : (s.stopTeam id t).memCanonical :=
  ((((h.foldl (fun _ _ h2 => h2.stopGroup)).stopCopies).meetTeam).freeFb).flushCtx

theorem State.memCanonical.writeBlocks (h : s.memCanonical) {q : Nat} {l : List Nat} {bs : List Byte} :
    (s.writeBlocks q l bs).memCanonical := by
  induction l generalizing s bs with
  | nil => exact h
  | cons b r ih => exact ih (h.swapWrite.getD h)

theorem State.memCanonical.swapOut (h : s.memCanonical) {id : Nat} : (s.swapOut id).memCanonical := by
  unfold State.swapOut
  split
  · exact h
  · refine ite_cases h ?_
    extract_lets +onlyGivenNames s'
    have hs' : s'.memCanonical := h.stopTeam
    split
    exacts [hs'.modSimt.modCtx.writeBlocks.soon, h.modCtx]

/-! ### Machine/Tasks.lean -/

theorem State.memCanonical.acceptTask (h : s.memCanonical) {tree q : Nat} {t : TaskRec} {l : LaunchRec}
    {spt : List SptEntry} {sq : Option Nat} {after : Option (Nat × Nat)} :
    (s.acceptTask tree q t l spt sq after).memCanonical :=
  h.modSimt.soon

theorem State.memCanonical.spawnTask (h : s.memCanonical) {gid : Nat} {g : Group} {flight : Nat} {x : SpawnTry} :
    (s.spawnTask gid g flight x).memCanonical :=
  h.acceptTask.modSimt

theorem State.memCanonical.spawnTake (h : s.memCanonical) {gid sp : Nat} {g : Group} {lanes : W32} {x : SpawnTry} :
    (s.spawnTake gid sp g lanes x).memCanonical :=
  h.launch.spawnTask

theorem State.memCanonical.spawnWait (h : s.memCanonical) {gid sp : Nat} {lanes : W32} {st : Nat} :
    (s.spawnWait gid sp lanes st).memCanonical :=
  h.modGroup

theorem State.memCanonical.spawnReads (h : s.memCanonical) {gid : Nat} {g : Group} {lanes : W32} {va : Nat} :
    (s.spawnReads gid g lanes va).memCanonical :=
  h.readAfter.readAfter.readRecords

theorem State.memCanonical.spawnIssue (h : s.memCanonical) {gid sp : Nat} {g : Group} {p : Split} {x : SpawnI}
    {tr : SpawnTry} :
    (s.spawnIssue gid sp g p x tr).memCanonical := by
  unfold State.spawnIssue
  dsimp only
  split
  · exact h.spawnTake.advance
  · split
    exacts [h.launch.advance, h.spawnWait.stall]

theorem execSpawn_canonical (h : s.memCanonical) {x : SpawnI} : Canonical (execSpawn x s) := by
  unfold execSpawn
  refine simtAfter_canonical h (fun gid g p rd => h.spawnReads) ?_
  intro u gid sp g p rd h2
  split
  · exact h2.issueFault
  · split
    · exact h2.simtFault
    · split
      exacts [h2.simtFault, h2.spawnIssue]

theorem execSpawnAccept_canonical (h : s.memCanonical) {gid sp : Nat} : Canonical (execSpawnAccept gid sp s) := by
  unfold execSpawnAccept
  dsimp only
  split
  · exact h
  · split
    · split
      exacts [h, h.modFlight.spawnTask.resumeAfter.later]
    · exact h

theorem State.memCanonical.recheckSpawns (h : s.memCanonical) : s.recheckSpawns.memCanonical :=
  (h.foldl (fun _ _ h2 => h2.soon)).foldl (fun _ _ h2 => h2.soon)

theorem State.memCanonical.recheckBars (h : s.memCanonical) {g : Group} : (s.recheckBars g).memCanonical := by
  unfold State.recheckBars
  split
  · exact h
  · refine h.foldl ?_
    intro u a h2
    split
    exacts [h2.soon, h2]

theorem execGroupExit_canonical (h : s.memCanonical) {gid : Nat} : Canonical (execGroupExit gid s) := by
  unfold execGroupExit
  dsimp only
  split
  · exact h
  · split
    exacts [h, h.putGroup.releaseTeam.flushSoon.recheckBars.soon.soon.soon.recheckSpawns]

theorem execTeamResourceFree_canonical (h : s.memCanonical) {team : Nat} :
    Canonical (execTeamResourceFree team s) := by
  unfold execTeamResourceFree
  dsimp only
  split
  · exact h
  · split
    · exact h
    · refine State.memCanonical.soon ?_
      split
      exacts [h.modSimt.modSimt, h.modSimt]

theorem State.memCanonical.frontAdd (h : s.memCanonical) {q va : Nat} : (s.frontAdd q va).memCanonical := by
  unfold State.frontAdd
  split
  · exact h
  · split
    exacts [h.frontEndAdd, h]

theorem State.memCanonical.dropTask (h : s.memCanonical) {id : Nat} : (s.dropTask id).memCanonical := h.modSimt

theorem State.memCanonical.completeTask (h : s.memCanonical) {id : Nat} {t : Task} :
    (s.completeTask id t).memCanonical := by
  unfold State.completeTask
  dsimp only
  refine State.memCanonical.recheckSpawns ?_
  refine State.memCanonical.soon ?_
  split
  · exact h.frontAdd.modSimt
  · split
    exacts [h.frontAdd.modSimt.modSimt.frontAdd, h.frontAdd.modSimt.modSimt]

theorem execTaskComplete_canonical (h : s.memCanonical) {task : Nat} : Canonical (execTaskComplete task s) := by
  unfold execTaskComplete
  dsimp only
  split
  · exact h
  · split
    · exact h
    · split
      · split
        exacts [h, h.completeTask]
      · refine State.memCanonical.soon ?_
        refine State.memCanonical.dropTask ?_
        split
        exacts [h, h.completeTask]

theorem State.memCanonical.startGroup (h : s.memCanonical) {task team core b index : Nat} {t : Task} {j : Nat} :
    (s.startGroup task team core b index t j).memCanonical :=
  h.putGroup.modSimt.traceStart.modSimt.drawn

theorem State.memCanonical.startTeam (h : s.memCanonical) {w : Waiting} {t : Task} {core b : Nat} :
    (s.startTeam w t core b).memCanonical :=
  (h.modSimt.foldl (fun _ _ h2 => h2.startGroup)).recheckSpawns

theorem State.memCanonical.returnGroup (h : s.memCanonical) {core b gid : Nat} :
    (s.returnGroup core b gid).memCanonical := by
  unfold State.returnGroup
  dsimp only
  split
  · exact h
  · split
    exacts [h.putGroup, h.putGroup.promoteAll.traceStart.drawn]

theorem State.memCanonical.returnTeam (h : s.memCanonical) {id : Nat} {t : Team} {q core b : Nat} :
    (s.returnTeam id t q core b).memCanonical := by
  unfold State.returnTeam
  dsimp only
  split
  exacts [h.raiseHalt, (h.modSimt.modCtx.foldl (fun u a h2 => h2.returnGroup)).resumeCopies]

theorem State.memCanonical.moveUnits (h : s.memCanonical) {w : Waiting} {t : Task} {core : Nat} :
    (s.moveUnits w t core).memCanonical :=
  h.modSimt

theorem State.memCanonical.placeAt (h : s.memCanonical) {w : Waiting} {t : Task} {core b : Nat} :
    (s.placeAt w t core b).memCanonical := by
  unfold State.placeAt
  dsimp only
  split
  exacts [h.modSimt.moveUnits.returnTeam, h.modSimt.moveUnits.startTeam]

theorem State.memCanonical.watchCores (h : s.memCanonical) {part : Nat} : (s.watchCores part).memCanonical := by
  unfold State.watchCores
  dsimp only
  refine h.foldl ?_
  intro u a h2
  split
  exacts [h2, h2.at]

theorem execTeamPlacement_canonical (h : s.memCanonical) {part : Nat} : Canonical (execTeamPlacement part s) := by
  unfold execTeamPlacement
  dsimp only
  split
  · exact h.placeAt.soon
  · split
    exacts [h, h.watchCores]

theorem State.memCanonical.setSwapfull (h : s.memCanonical) {ids : List Nat} : (s.setSwapfull ids).memCanonical := by
  unfold State.setSwapfull
  refine h.foldl ?_
  intro u a h2
  split
  exacts [h2.modCtx, h2]

theorem execProgressSwap_canonical (h : s.memCanonical) {core : Nat} : Canonical (execProgressSwap core s) := by
  unfold execProgressSwap
  dsimp only
  split
  · exact h
  · split
    · exact h.at
    · split
      · exact h.at
      · split
        exacts [h.setSwapfull.at, ((h.setSwapfull.foldl (fun u a h2 => h2.swapOut)).placeAt)]

/-! ### Machine/System.lean -/

theorem execSread_canonical (h : s.memCanonical) {x : DCode} : Canonical (execSread x s) := by
  unfold execSread
  refine issuer_canonical (fun gid sp g p => h.issueSplit h.putVar.plain.inOk) ?_
  intro tid t
  split
  exacts [h.threadFault, h.issueThread h.modThread.inOkFst]

theorem execSwrite_canonical (h : s.memCanonical) {x : ACode} : Canonical (execSwrite x s) := by
  unfold execSwrite
  dsimp only
  refine issuer_canonical (fun gid sp g p => h.issueSplit h.putFixed.plain.inOk) ?_
  intro tid t
  split
  exacts [h.threadFault, h.issueThread h.modThread.inOkFst]

theorem execSyscall_canonical (h : s.memCanonical) {x : Op0} : Canonical (execSyscall x s) := by
  unfold execSyscall
  refine threadOnly_canonical h ?_
  intro tid t rd
  split
  exacts [trivial, trapped_memCanonical h.trap]

theorem execHvcall_canonical (h : s.memCanonical) {x : Op0} : Canonical (execHvcall x s) := by
  unfold execHvcall
  refine threadOnly_canonical h ?_
  intro tid t rd
  split
  exacts [trivial, trapped_memCanonical h.trap]

theorem execEret_canonical (h : s.memCanonical) {x : Op0} : Canonical (execEret x s) := by
  unfold execEret
  refine threadOnly_canonical h ?_
  intro tid t rd
  split
  · exact trivial
  · split
    · split
      exacts [trivial, trapped_memCanonical h.modThread]
    · split
      exacts [trivial, trapped_memCanonical h.modThread]

theorem State.memCanonical.withdrawThread (h : s.memCanonical) {tid : Nat} : (s.withdrawThread tid).memCanonical := by
  unfold State.withdrawThread
  split
  exacts [h.dropReq.modThread, h]

theorem execTrapEntry_canonical (h : s.memCanonical) {thread vector : Nat} :
    Canonical (execTrapEntry thread vector s) := by
  unfold execTrapEntry
  dsimp only
  split
  exacts [h.withdrawThread.modHub.trap, h]

theorem execWfi_canonical (h : s.memCanonical) {x : Op0} : Canonical (execWfi x s) := by
  unfold execWfi
  refine threadOnly_canonical h ?_
  intro tid t rd
  refine State.memCanonical.inOkFst ?_
  split
  exacts [h, h.modThread]

theorem execWfiWake_canonical (h : s.memCanonical) {thread : Nat} : Canonical (execWfiWake thread s) := by
  unfold execWfiWake
  split
  exacts [h.modThread, h]

theorem State.memCanonical.tlbDrop (h : s.memCanonical) {p : TlbEntry → Bool} : (s.tlbDrop p).memCanonical := h.modHub

theorem execTlbiAll_canonical (h : s.memCanonical) {x : Op0} : Canonical (execTlbiAll x s) :=
  threadOnly_canonical h (fun _ _ _ => h.tlbDrop.inOkFst)

theorem execTlbiPage_canonical (h : s.memCanonical) {x : Op1} : Canonical (execTlbiPage x s) :=
  threadOnly_canonical h (fun _ _ _ => h.tlbDrop.inOkFst)

theorem execTlbiSpace_canonical (h : s.memCanonical) {x : Op1} : Canonical (execTlbiSpace x s) :=
  threadOnly_canonical h (fun _ _ _ => h.tlbDrop.inOkFst)

theorem State.memCanonical.startThread (h : s.memCanonical) {thread lvl : Nat} {pc : W64} :
    (s.startThread thread lvl pc).memCanonical :=
  h.putThread

theorem execThreadStart_canonical (h : s.memCanonical) {thread lvl pc : Nat} :
    Canonical (execThreadStart thread lvl pc s) := by
  unfold execThreadStart
  split
  exacts [h, h.startThread]

/-! ### Machine/Enclave.lean -/

theorem State.memCanonical.setG (h : s.memCanonical) {tid d : Nat} {x : W64} : (s.setG tid d x).memCanonical :=
  h.modThread

theorem State.memCanonical.fail (h : s.memCanonical) {tid d reason : Nat} : (s.fail tid d reason).memCanonical :=
  h.setG

theorem State.memCanonical.answer {r : Sys} (h : s.memCanonical) (hr : ExceptAll State.memCanonical r) {tid d : Nat} :
    (s.answer tid d r).memCanonical := by
  cases r with
  | error e => exact h.fail
  | ok u => exact State.memCanonical.setG hr

theorem sysOp_canonical {level : Nat} {m : Marks} {len d : Nat} {bad : Bool} {srcs : List Nat}
    {body : Nat → Thread → Rd → Except (Nat × Nat) Sys} (h : s.memCanonical)
    (hb : ∀ tid t rd, ExceptAll (ExceptAll State.memCanonical) (body tid t rd)) :
    Canonical (sysOp s level m len d bad srcs body) := by
  refine threadOnly_canonical h fun tid t rd => ?_
  have hbody := hb tid t rd
  split
  · trivial
  · rename_i heq
    rw [heq] at hbody
    exact h.answer hbody

theorem State.memCanonical.bufWrite (h : s.memCanonical) {l : List Xlat} {bs : List Byte} :
    (s.bufWrite l bs).memCanonical := by
  induction l generalizing s bs with
  | nil => exact h
  | cons x r ih => exact ih h.write

theorem State.memCanonical.dropWaits (h : s.memCanonical) {p : Nat → Bool} : (s.dropWaits p).memCanonical :=
  (h.foldl (fun _ _ h2 => h2.wake)).modHub

theorem State.memCanonical.staleCopies (h : s.memCanonical) {p : Nat → Bool} : (s.staleCopies p).memCanonical :=
  h.modSimt

theorem State.memCanonical.redoAsked (h : s.memCanonical) {id : Nat} {r : TupReq} :
    (s.redoAsked id r).memCanonical := by
  unfold State.redoAsked
  dsimp only
  split
  exacts [h.dropAsked.modThread, h.dropAsked.wake]

theorem State.memCanonical.drainTuples (h : s.memCanonical) {t : TupReq → Bool} : (s.drainTuples t).memCanonical :=
  (h.foldl (fun _ _ h2 => (OptionAll.map (fun _ => h2.beforeReq.serveNow)).getD h2.beforeReq)).foldl (fun _ _ h2 =>
    (OptionAll.map (fun _ => h2.redoAsked)).getD h2)

theorem State.memCanonical.drainWhere (h : s.memCanonical) {p : Nat → Bool} {t : TupReq → Bool} :
    (s.drainWhere p t).memCanonical :=
  ((((h.foldl (fun _ _ h2 => h2.foldl (fun _ _ h3 => h3.performNow))).foldl (fun _ _ h2 => outState_memCanonical h2
    (execBatchComplete_canonical h2.runOps))).staleCopies).drainTuples).dropWaits

theorem State.memCanonical.shootPage (h : s.memCanonical) {page : Nat} : (s.shootPage page).memCanonical := by
  unfold State.shootPage
  exact h.drainWhere.dropHost.modSimt

theorem State.memCanonical.modEnclave (h : s.memCanonical) {eid : Nat} {f : Enclave → Enclave} :
    (s.modEnclave eid f).memCanonical :=
  h.modHub

theorem State.memCanonical.growTable (h : s.memCanonical) {eid vpn level : Nat} :
    (s.growTable eid vpn level).memCanonical := by
  unfold State.growTable
  dsimp only
  split
  · exact h
  · split
    · exact h
    · split
      exacts [h.filterStore.poke.putPot.modEnclave.pokeNat, h.filterStore.poke.putPot.modEnclave]

theorem State.memCanonical.growTables (h : s.memCanonical) {eid vpn : Nat} : (s.growTables eid vpn).memCanonical := by
  unfold State.growTables
  split
  exacts [h, h.foldl (fun u a h2 => h2.growTable)]

theorem State.memCanonical.mapLeaf (h : s.memCanonical) {eid vpn : Nat} {l : Option EncLeaf} :
    (s.mapLeaf eid vpn l).memCanonical := by
  unfold State.mapLeaf
  dsimp only
  split
  exacts [h.modEnclave.pokeNat, h.modEnclave]

theorem State.memCanonical.unmapPage (h : s.memCanonical) {page : Nat} : (s.unmapPage page).memCanonical := by
  unfold State.unmapPage
  dsimp only
  split
  exacts [h.mapLeaf, h]

theorem State.memCanonical.installKeys (h : s.memCanonical) : s.installKeys.memCanonical := h.withDies

theorem State.memCanonical.enterScrub (h : s.memCanonical) {page next owner attr link : Nat} :
    (s.enterScrub page next owner attr link).memCanonical :=
  (((h.foldl (fun u a h2 => h2.meetLine)).filterStore).putPot).laterWithin

theorem execScrub_canonical (h : s.memCanonical) {page : Nat} : Canonical (execScrub page s) := by
  unfold execScrub
  split
  · exact h
  · split
    exacts [h.putPot, h]

theorem State.memCanonical.putHostKey (h : s.memCanonical) {part key : Nat} : (s.putHostKey part key).memCanonical :=
  h.withDies

theorem State.memCanonical.resetTrace (h : s.memCanonical) {q : Nat} : (s.resetTrace q).memCanonical := h.modHub

theorem State.memCanonical.bindQueue (h : s.memCanonical) {eid sketch q : Nat} :
    (s.bindQueue eid sketch q).memCanonical :=
  h.freshKey.putQueue.resetTrace.putCtx

theorem State.memCanonical.makeEnclave (h : s.memCanonical) {part eid slot : Nat} {d : List Byte}
    {es : List PageEntry} :
    (s.makeEnclave part eid slot d es).memCanonical := by
  unfold State.makeEnclave
  dsimp only
  refine State.memCanonical.installKeys ?_
  refine State.memCanonical.foldl ?_ (fun u a h2 => h2.bindQueue)
  refine State.memCanonical.foldl ?_ (fun u a h2 => h2.write)
  refine h.freshKey.freshKey.modHub.foldl ?_
  intro u a h2
  split
  · refine State.memCanonical.mapLeaf ?_
    refine State.memCanonical.growTables ?_
    split <;> exact h2.dropHost.putPot
  · split <;> exact h2.dropHost.putPot

theorem State.memCanonical.createEnclave (h : s.memCanonical) {part : Nat} {d : List Byte} :
    ExceptAll (fun r => r.2.memCanonical) (s.createEnclave part d) := by
  unfold State.createEnclave
  dsimp only
  split
  · exact trivial
  · split
    · exact trivial
    · split
      · exact trivial
      · split
        · exact trivial
        · split
          · exact trivial
          · split
            · exact trivial
            · split
              · exact trivial
              · split
                · exact trivial
                · split
                  exacts [trivial, h.makeEnclave.inOkSnd]

theorem execEcreate_canonical (h : s.memCanonical) {x : Rr} : Canonical (execEcreate x s) := by
  unfold execEcreate
  refine threadOnly_canonical h ?_
  intro tid t rd
  split
  · exact trivial
  · split
    · exact trivial
    · split
      · exact h.fail.inOkFst
      · rename_i heq
        exact ((h.createEnclave.ok heq).setG).inOkFst

theorem execEenter_canonical (h : s.memCanonical) {x : Rrr} : Canonical (execEenter x s) := by
  unfold execEenter
  dsimp only
  refine threadOnly_canonical h ?_
  intro tid t rd
  split
  · exact trivial
  · split
    · exact h.fail.inOkFst
    · split
      · exact h.fail.inOkFst
      · split
        · exact trivial
        · split
          exacts [h.fail.inOkFst, h.write.putThread.inOkFst]

theorem execEexit_canonical (h : s.memCanonical) {x : Op0} : Canonical (execEexit x s) := by
  unfold execEexit
  refine threadOnly_canonical h ?_
  intro tid t rd
  split
  exacts [trivial, trapped_memCanonical h.trap]

theorem State.memCanonical.freePages (h : s.memCanonical) {eid : Nat} {e : Enclave} :
    (s.freePages eid e).memCanonical := by
  unfold State.freePages
  dsimp only
  refine State.memCanonical.foldl ?_ (fun u a h2 => h2.dropHost.enterScrub)
  refine h.foldl ?_
  intro u a h2
  split
  · exact h2.shootPage.enterScrub
  · split
    exacts [h2.shootPage.leavePot, h2]

theorem State.memCanonical.unbindQueue (h : s.memCanonical) {q : Nat} : (s.unbindQueue q).memCanonical :=
  h.of_mem.recheckSpawns

theorem State.memCanonical.destroyEnclave (h : s.memCanonical) {eid : Nat} {e : Enclave} :
    (s.destroyEnclave eid e).memCanonical :=
  (h.freePages.modHub.foldl (fun _ _ h2 => h2.unbindQueue)).installKeys

theorem execEdestroy_canonical (h : s.memCanonical) {x : Rr} : Canonical (execEdestroy x s) := by
  unfold execEdestroy
  dsimp only
  refine sysOp_canonical h ?_
  intro tid t rd
  split
  · exact trivial
  · split
    exacts [trivial, h.destroyEnclave.inOk.inOk]

theorem State.memCanonical.assignTo (h : s.memCanonical) {page eid new attr vpn : Nat} {scrub : Bool} :
    (s.assignTo page eid new attr vpn scrub).memCanonical := by
  unfold State.assignTo
  dsimp only
  refine State.memCanonical.mapLeaf ?_
  refine State.memCanonical.growTables ?_
  split
  exacts [h.dropHost.enterScrub, h.dropHost.putPot]

theorem State.memCanonical.assignPage (h : s.memCanonical) {part pa gc : Nat} {va : W64} {ctl : PgaCtl} :
    ExceptAll State.memCanonical (s.assignPage part pa gc va ctl) := by
  unfold State.assignPage
  dsimp only
  split
  · exact trivial
  · split
    · exact trivial
    · split
      · split
        · exact h.dropHost.leavePot.inOk
        · split
          · exact h.shootPage.unmapPage.enterScrub.inOk
          · split
            exacts [h.shootPage.unmapPage.leavePot.inOk, trivial]
      · split
        · exact trivial
        · split
          · exact trivial
          · split
            · exact trivial
            · split
              exacts [trivial, h.assignTo.inOk]

theorem execPgassign_canonical (h : s.memCanonical) {x : PgaI} : Canonical (execPgassign x s) :=
  sysOp_canonical h (fun _ _ _ => h.assignPage.inOk)

theorem State.memCanonical.keepPage (h : s.memCanonical) {p : SealedPage} : (s.keepPage p).memCanonical := h.modHub

theorem State.memCanonical.sealPage (h : s.memCanonical) {eid vpn : Nat} {e : Enclave} {l : EncLeaf}
    {buf : List Xlat} : (s.sealPage eid vpn e l buf).memCanonical :=
  h.shootPage.mapLeaf.putPot.keepPage.bufWrite

theorem execPgseal_canonical (h : s.memCanonical) {x : Rrr} : Canonical (execPgseal x s) := by
  unfold execPgseal
  dsimp only
  refine sysOp_canonical h ?_
  intro tid t rd
  split
  · exact trivial
  · split
    · exact trivial
    · split
      · exact trivial
      · split
        · exact trivial
        · split
          · exact trivial
          · split
            exacts [trivial, h.sealPage.inOk.inOk]

theorem State.memCanonical.unsealTo (h : s.memCanonical) {page eid vpn : Nat} {l : EncLeaf} {bytes : List Byte} :
    (s.unsealTo page eid vpn l bytes).memCanonical :=
  h.dropHost.write.putPot.mapLeaf

theorem State.memCanonical.unsealPage (h : s.memCanonical) {part pa : Nat} {img : List Byte} :
    ExceptAll State.memCanonical (s.unsealPage part pa img) := by
  unfold State.unsealPage
  dsimp only
  split
  · exact trivial
  · split
    · exact trivial
    · split
      · exact trivial
      · split
        · exact trivial
        · split
          · exact trivial
          · split
            exacts [trivial, h.unsealTo.inOk]

theorem execPgunseal_canonical (h : s.memCanonical) {x : Rrr} : Canonical (execPgunseal x s) := by
  unfold execPgunseal
  dsimp only
  refine sysOp_canonical h ?_
  intro tid t rd
  split
  · exact trivial
  · split
    exacts [trivial, h.unsealPage.inOk]

theorem State.memCanonical.emptyRegion (h : s.memCanonical) {pbase : Nat} : (s.emptyRegion pbase).memCanonical :=
  h.modStore

theorem State.memCanonical.dropRange (h : s.memCanonical) {q i : Nat} : (s.dropRange q i).memCanonical := by
  unfold State.dropRange
  dsimp only
  split
  exacts [h, h.drainWhere.modCtx]

theorem State.memCanonical.rstat (h : s.memCanonical) {q r : Nat} : (s.rstat q r).memCanonical := h.modCtx

theorem execRcmdWrite_canonical (h : s.memCanonical) {queue value : Nat} :
    Canonical (execRcmdWrite queue value s) := by
  unfold execRcmdWrite
  dsimp only
  split
  · exact h
  · split
    · exact h.rstat
    · split
      · exact h.at
      · split
        · exact h.rstat
        · refine State.memCanonical.rstat ?_
          split
          · refine State.memCanonical.modCtx ?_
            split
            · split
              · split
                exacts [h.dropRange.emptyRegion.emptyRegion, h.dropRange.emptyRegion]
              · split
                exacts [h.dropRange.emptyRegion, h.dropRange]
            · split
              exacts [h.dropRange.emptyRegion, h.dropRange]
          · split
            · split
              · split
                exacts [h.dropRange.emptyRegion.emptyRegion, h.dropRange.emptyRegion]
              · split
                exacts [h.dropRange.emptyRegion, h.dropRange]
            · split
              exacts [h.dropRange.emptyRegion, h.dropRange]

theorem execRcmdInval_canonical (h : s.memCanonical) {queue value : Nat} :
    Canonical (execRcmdInval queue value s) := by
  unfold execRcmdInval
  dsimp only
  split
  · exact h
  · split
    · exact h.rstat
    · split
      exacts [h.at, h.dropRange.rstat]

/-! ### Machine/Queues.lean -/

theorem State.memCanonical.queueFault (h : s.memCanonical) {q code : Nat} : (s.queueFault q code).memCanonical := by
  unfold State.queueFault
  dsimp only
  split
  exacts [h.putQueue.post, h.putQueue]

theorem execKick_canonical (h : s.memCanonical) {queue value : Nat} : Canonical (execKick queue value s) := by
  unfold execKick
  dsimp only
  split
  · exact h.putVf
  · split
    · exact h
    · split <;> exact h.putQueue

theorem execQctlEnable_canonical (h : s.memCanonical) {queue value : Nat} :
    Canonical (execQctlEnable queue value s) := by
  unfold execQctlEnable
  dsimp only
  split
  · split
    · exact h.putQueue
    · split
      · exact h.putQueue
      · split
        · exact h.putQueue
        · split
          exacts [h.putQueue.laterWithin, h.putQueue]
  · split <;> exact h.putQueue

theorem execQctlSkip_canonical (h : s.memCanonical) {queue value : Nat} : Canonical (execQctlSkip queue value s) := by
  unfold execQctlSkip
  dsimp only
  split
  exacts [h.putQueue, h]

theorem execEaselAssign_canonical (h : s.memCanonical) {die : Nat} : Canonical (execEaselAssign die s) := by
  unfold execEaselAssign
  dsimp only
  split
  · exact h
  · split
    · exact h
    · split
      · refine State.memCanonical.queueFault ?_
        split
        exacts [h.foldl (fun u a h2 => h2.putQueue), (h.foldl (fun u a h2 => h2.putQueue)).soon]
      · refine State.memCanonical.modQueue ?_
        split
        exacts [h.foldl (fun u a h2 => h2.putQueue), (h.foldl (fun u a h2 => h2.putQueue)).soon]

theorem State.memCanonical.endPacket (h : s.memCanonical) {q n : Nat} {drop : Bool} :
    (s.endPacket q n drop).memCanonical :=
  h.modQueue

theorem State.memCanonical.commitOne (h : s.memCanonical) {q : Nat} {x : Staged} :
    (s.commitOne q x).memCanonical := by
  unfold State.commitOne
  dsimp only
  split
  · exact h
  · exact h.frontEndAdd
  · split
    exacts [h.post, h.putQueue]
  · exact h.modQueue

theorem State.memCanonical.commitTo (h : s.memCanonical) {q : Nat} {l : List Staged} :
    (s.commitTo q l).1.memCanonical := by
  induction l generalizing s with
  | nil => exact h
  | cons e r ih =>
    cases e with
    | launch t l spt d => exact h
    | streg _ _ => exact ih h.commitOne
    | signal _ _ _ => exact ih h.commitOne
    | irq _ => exact ih h.commitOne

theorem State.memCanonical.commitOn (h : s.memCanonical) {q n : Nat} {drop : Bool} {staged : List Staged} :
    (s.commitOn q n drop staged).memCanonical := by
  unfold State.commitOn
  dsimp only
  split
  exacts [h.commitTo.endPacket, h.commitTo.modQueue.soon]

theorem State.memCanonical.acceptSeed (h : s.memCanonical) {q : Nat} {t : TaskRec} {l : LaunchRec}
    {spt : List SptEntry} {done : Nat} : (s.acceptSeed q t l spt done).memCanonical :=
  h.modSimt.acceptTask

theorem execLaunchCommit_canonical (h : s.memCanonical) {queue : Nat} : Canonical (execLaunchCommit queue s) := by
  unfold execLaunchCommit
  dsimp only
  split
  · exact h
  · split
    · split
      exacts [h.acceptSeed.commitOn, h]
    · exact h

theorem execQueueWaitWake_canonical (h : s.memCanonical) {queue : Nat} : Canonical (execQueueWaitWake queue s) := by
  unfold execQueueWaitWake
  dsimp only
  split
  · exact h
  · split
    · exact h
    · split
      exacts [h.putQueue, h]

/-! ### Machine/Fetch.lean -/

theorem execUndefOpcode_canonical (h : s.memCanonical) {word : W32} : Canonical (execUndefOpcode word s) := by
  unfold execUndefOpcode
  dsimp only
  split
  · split
    exacts [h.simtFault, h]
  · split
    exacts [h.threadFault, h]
  · exact h

/-! ### Machine/Handover.lean -/

theorem State.memCanonical.buryGroup (h : s.memCanonical) {gid : Nat} {g : Group} :
    (s.buryGroup gid g).memCanonical :=
  h.modSimt.recheckBars.soon.recheckSpawns

theorem State.memCanonical.buryLost (h : s.memCanonical) {q : Nat} : (s.buryLost q).memCanonical :=
  h.foldl (fun _ _ h2 => h2.buryGroup)

theorem State.memCanonical.dropParked (h : s.memCanonical) {gids : List Nat} : (s.dropParked gids).memCanonical :=
  h.foldl (fun _ _ h2 => h2.dropAsked)

theorem State.memCanonical.recheckPublishes (h : s.memCanonical) {q : Nat} : (s.recheckPublishes q).memCanonical := by
  unfold State.recheckPublishes
  refine h.foldl ?_
  intro u a h2
  split
  exacts [h2.soon, h2]

theorem State.memCanonical.loseTeam (h : s.memCanonical) {id : Nat} {t : Team} : (s.loseTeam id t).memCanonical :=
  h.endRuns.dropParked.modSimt.recheckPublishes

theorem State.memCanonical.loseCore (h : s.memCanonical) {core : Nat} : (s.loseCore core).memCanonical :=
  (h.foldl (fun _ _ h2 => h2.loseTeam)).foldl (fun _ _ h2 => h2.raiseHalt)

theorem execCorerst_canonical (h : s.memCanonical) {x : Op2} : Canonical (execCorerst x s) := by
  unfold execCorerst
  dsimp only
  refine threadOnly_canonical h ?_
  intro tid t rd
  split
  · exact trivial
  · split
    · split
      · exact h.inOkFst
      · refine State.memCanonical.inOkFst ?_
        refine State.memCanonical.setG ?_
        refine State.memCanonical.soon ?_
        refine State.memCanonical.logError ?_
        split
        exacts [h, h.modThread.modSimt]
    · split
      · exact h.fail.inOkFst
      · split
        · exact h.fail.inOkFst
        · split
          exacts [h.fail.inOkFst, h.loseCore.modSimt.drawn.modThread.inOkFst]

theorem State.memCanonical.unqueue (h : s.memCanonical) {tid : Nat} : (s.unqueue tid).memCanonical := h.modThread

theorem State.memCanonical.enqueue (h : s.memCanonical) {tid q k : Nat} : (s.enqueue tid q k).memCanonical :=
  h.drawn.modThread

theorem State.memCanonical.sealHalt (h : s.memCanonical) {q : Nat} : (s.sealHalt q).memCanonical := by
  unfold State.sealHalt
  dsimp only
  split
  exacts [h, h.raiseHalt]

theorem State.memCanonical.sealDone (h : s.memCanonical) {tid d : Nat} {status : W64} :
    (s.sealDone tid d status).memCanonical :=
  h.modThread.setG

theorem State.memCanonical.writeImage (h : s.memCanonical) {tid d size q : Nat} {buf : List Xlat} :
    (s.writeImage tid d size q buf).memCanonical := by
  unfold State.writeImage
  dsimp only
  split
  · exact h.sealDone
  · split
    · exact (((h.foldl (fun u a h2 => h2.meetTeam)).freshKey).setG).sealDone
    · exact ((((((h.foldl (fun u a h2 => h2.meetTeam)).freshKey).setG).bufWrite).modHub).modCtx).sealDone

theorem State.memCanonical.sealStep (h : s.memCanonical) {tid d size : Nat} {pc : W64} {q : Nat} {buf : List Xlat}
    {due : Option Nat} :
    (s.sealStep tid d size pc q buf due).1.memCanonical := by
  unfold State.sealStep
  dsimp only
  split
  · exact h.sealHalt.modThread
  · split
    · split
      · split
        exacts [h.modThread, h.writeImage]
      · exact h.drawn.modThread
    · exact h.sealDone

theorem execCtxseal_canonical (h : s.memCanonical) {x : Rrr} : Canonical (execCtxseal x s) := by
  unfold execCtxseal
  dsimp only
  refine threadOnly_canonical h ?_
  intro tid t rd
  split
  · exact h.sealStep.pairInOk
  · split
    · exact trivial
    · split
      · exact h.fail.inOkFst
      · split
        · exact h.enqueue.inOkFst
        · split
          · exact h.unqueue.fail.inOkFst
          · split
            · exact h.unqueue.fail.inOkFst
            · split
              exacts [trivial, h.unqueue.sealStep.pairInOk]

theorem State.memCanonical.commitCtx (h : s.memCanonical) {q : Nat} {migrated : Bool} :
    (s.commitCtx q migrated).memCanonical :=
  h.buryLost.of_mem.modCtx.recheckSpawns

theorem State.memCanonical.token (h : s.memCanonical) {q : Nat} {given : List Byte} :
    OptionAll (fun r => r.2.memCanonical) (s.token q given) :=
  OptionAll.map fun _ => h.random (n := 32)

theorem handoverOp_canonical {m : Marks} {d a : Nat} {srcs : List Nat}
    {body : State → Nat → Rd → Nat → Except (Nat × Nat) Sys}
    (h : s.memCanonical)
    (hb : ∀ (u : State) tid rd q, u.memCanonical → ExceptAll (ExceptAll State.memCanonical) (body u tid rd q)) :
    Canonical (handoverOp s m d a srcs body) := by
  refine threadOnly_canonical h fun tid t rd => ?_
  dsimp only
  split
  · trivial
  · split
    · exact h.fail
    · rename_i q _
      split
      · exact h.enqueue
      · have hbody := hb (s.unqueue tid) tid rd q h.unqueue
        split
        · trivial
        · rename_i heq
          rw [heq] at hbody
          exact h.unqueue.answer hbody

theorem execCtxcommit_canonical (h : s.memCanonical) {x : Rrr} : Canonical (execCtxcommit x s) := by
  unfold execCtxcommit
  dsimp only
  refine handoverOp_canonical h ?_
  intro u tid rd q h2
  split
  · exact trivial
  · split
    · exact trivial
    · split
      · exact h2.commitCtx.inOk.inOk
      · split
        · exact trivial
        · split
          · exact trivial
          · exact trivial
          · split
            · exact trivial
            · rename_i heq
              exact ((((h2.token.some heq).bufWrite).commitCtx).inOk).inOk

theorem State.memCanonical.resumeCtx (h : s.memCanonical) {q : Nat} : (s.resumeCtx q).memCanonical :=
  (((((h.dumpBreak.buryLost.modCtx.foldl (fun _ _ h2 => h2.swapOut)).foldl (fun _ _ h2 => h2.resumeGroup)).foldl
    (fun _ _ h2 => h2.traceStart)).resumeCopies).soon).soon

theorem execCtxabort_canonical (h : s.memCanonical) {x : Rr} : Canonical (execCtxabort x s) := by
  unfold execCtxabort
  dsimp only
  refine handoverOp_canonical h ?_
  intro u tid rd q h2
  split
  · exact trivial
  · split
    · exact h2.modCtx.resumeCtx.inOk.inOk
    · split
      exacts [h2.resumeCtx.inOk.inOk, trivial]

theorem State.memCanonical.wakeCtx (h : s.memCanonical) {q : Nat} : (s.wakeCtx q).memCanonical := by
  unfold State.wakeCtx
  dsimp only
  refine State.memCanonical.soon ?_
  refine State.memCanonical.soon ?_
  refine State.memCanonical.recheckDeferred ?_
  refine State.memCanonical.resumeCopies ?_
  refine State.memCanonical.foldl ?_ (fun u a h2 => h2.soon)
  refine (h.foldl (fun u a h2 => h2.soon)).foldl ?_
  intro u a h2
  split
  exacts [h2.soon, h2]

theorem State.memCanonical.loadCtx (h : s.memCanonical) {q : Nat} {x : Loaded} {i : List Byte}
    {nonce : Option (List Byte)} : (s.loadCtx q x i nonce).memCanonical :=
  h.freshKey.of_mem.modHub.modCtx.wakeCtx

theorem State.memCanonical.checkLoad (h : s.memCanonical) {tid va q : Nat} {tok : Option (List Byte)}
    {i : List Byte} :
    ExceptAll (ExceptAll State.memCanonical) (s.checkLoad tid va q tok i) := by
  unfold State.checkLoad
  dsimp only
  split
  · exact trivial
  · split
    · exact trivial
    · split
      · exact trivial
      · split
        · exact trivial
        · split
          · exact trivial
          · split
            · exact trivial
            · split
              · exact trivial
              · exact trivial
              · split
                exacts [trivial, h.loadCtx.inOk.inOk]

theorem execCtxload_canonical (h : s.memCanonical) {x : Rrr} : Canonical (execCtxload x s) := by
  refine threadOnly_canonical h fun tid t rd => ?_
  dsimp only
  split
  · trivial
  · split
    · exact h.unqueue.fail
    · split
      · trivial
      · split
        · exact h.unqueue.fail
        · split
          · exact h.unqueue.enqueue
          · split
            · trivial
            · rename_i heq
              exact h.unqueue.answer (h.unqueue.checkLoad.ok heq)

theorem State.memCanonical.holdEvent (h : s.memCanonical) {q : Nat} {e : Event} : (s.holdEvent q e).memCanonical :=
  h.modCtx

theorem State.memCanonical.freezeCtx (h : s.memCanonical) {q : Nat} : (s.freezeCtx q).memCanonical :=
  h.withAgenda.dumpBreak.modCtx

theorem State.memCanonical.thawCtx (h : s.memCanonical) {q : Nat} : (s.thawCtx q).memCanonical :=
  h.withAgenda.dumpBreak.putCtx.delayCtx

theorem execFreeze_canonical (h : s.memCanonical) {x : RrOp} : Canonical (execFreeze x s) := by
  unfold execFreeze
  dsimp only
  refine sysOp_canonical h ?_
  intro tid t rd
  split
  · exact trivial
  · split
    · exact trivial
    · split
      · exact trivial
      · split
        · exact trivial
        · split
          · exact trivial
          · refine ExceptAll.inOk ?_
            refine State.memCanonical.inOk ?_
            split
            exacts [h.freezeCtx, h.thawCtx]

theorem State.memCanonical.claimResult (h : s.memCanonical) {q r : Nat} : (s.claimResult q r).memCanonical := h.modCtx

theorem execCxvacClaim_canonical (h : s.memCanonical) {queue n : Nat} : Canonical (execCxvacClaim queue n s) := by
  unfold execCxvacClaim
  dsimp only
  split
  · exact h
  · split
    · exact h.claimResult
    · split
      · exact h.claimResult
      · split
        · exact h.claimResult
        · split
          · exact h.claimResult
          · split
            exacts [h.claimResult.modCtx, (((h.modCtx.foldl (fun u a h2 => h2.swapOut)).soon).laterWithin)]

theorem execClaimComplete_canonical (h : s.memCanonical) {queue : Nat} : Canonical (execClaimComplete queue s) := by
  unfold execClaimComplete
  split
  exacts [h.modCtx, h]

theorem execCxvacRelease_canonical (h : s.memCanonical) {queue : Nat} : Canonical (execCxvacRelease queue s) := by
  unfold execCxvacRelease
  dsimp only
  split
  · exact h
  · split
    exacts [h.claimResult, h.modCtx.soon]

theorem State.memCanonical.fbFree (h : s.memCanonical) {die i : Nat} : (s.fbFree die i).memCanonical := h.modSimt

theorem State.memCanonical.badReplay (h : s.memCanonical) {die : Nat} : (s.badReplay die).memCanonical := h.modSimt

theorem State.memCanonical.fbResume (h : s.memCanonical) {e : FbEntry} : (s.fbResume e).memCanonical := by
  unfold State.fbResume
  split
  · split
    exacts [h.modCopy.later, h]
  · exact h.wake

theorem execFbreplayRetry_canonical (h : s.memCanonical) {die index : Nat} :
    Canonical (execFbreplayRetry die index s) := by
  unfold execFbreplayRetry
  split
  exacts [h.badReplay, h.fbFree.fbResume]

theorem execFbreplayAbandon_canonical (h : s.memCanonical) {die index : Nat} :
    Canonical (execFbreplayAbandon die index s) := by
  unfold execFbreplayAbandon
  dsimp only
  split
  · exact h.badReplay
  · split
    exacts [h.fbFree.modSimt.raiseHalt, h.fbFree.modSplit.haltFlt]

/-! ### Machine/Trace.lean -/

theorem State.memCanonical.traceAnew (h : s.memCanonical) {q : Nat} : (s.traceAnew q).memCanonical := h.modHub

theorem execTrctlEnable_canonical (h : s.memCanonical) {queue value : Nat} :
    Canonical (execTrctlEnable queue value s) := by
  unfold execTrctlEnable
  dsimp only
  split
  · exact h
  · refine State.memCanonical.putTraceQ ?_
    split
    · refine State.memCanonical.traceAnew ?_
      split
      exacts [h, h.flushCtx]
    · split
      exacts [h, h.flushCtx]

theorem execChunkFlush_canonical (h : s.memCanonical) {sched : Nat} : Canonical (execChunkFlush sched s) := by
  unfold execChunkFlush
  dsimp only
  split
  · exact h.putTraceK
  · split
    exacts [h.putTraceK.at, h.putTraceK.writeChunks]

theorem State.memCanonical.lossOne (h : s.memCanonical) {k q n : Nat} : (s.lossOne k q n).memCanonical := by
  unfold State.lossOne
  dsimp only
  split
  · exact h
  · refine h.putTraceK.stage.foldl ?_
    intro u a h2
    split
    exacts [h2.putTraceG, h2]

theorem execLossMark_canonical (h : s.memCanonical) {sched : Nat} : Canonical (execLossMark sched s) :=
  Canonical.of_next (h.foldl (fun _ _ h2 => h2.lossOne))

theorem State.memCanonical.sampleCtx (h : s.memCanonical) {k q : Nat} : (s.sampleCtx k q).memCanonical := by
  unfold State.sampleCtx
  dsimp only
  split
  · exact h
  · split
    exacts [h.putTraceS, h.putTraceS.putSample]

theorem execStallSample_canonical (h : s.memCanonical) {sched : Nat} : Canonical (execStallSample sched s) :=
  Canonical.of_next (h.foldl (fun _ _ h2 => h2.sampleCtx))

theorem State.memCanonical.debugResult (h : s.memCanonical) {q result : Nat} {res : W64} :
    (s.debugResult q result res).memCanonical :=
  h.putTraceQ

theorem State.memCanonical.debugDone (h : s.memCanonical) {gid : Nat} : (s.debugDone gid).memCanonical := by
  unfold State.debugDone
  split
  exacts [h.debugResult, h]

theorem debugOp_canonical {gid : Nat} {op : Group → State} (h : s.memCanonical) (hop : ∀ g, (op g).memCanonical) :
    Canonical (s.debugOp gid op) := by
  unfold State.debugOp
  split
  · exact h
  · split
    exacts [h.debugResult, ((hop _).debugDone)]

theorem execStepon_canonical (h : s.memCanonical) {gid : Nat} : Canonical (execStepon gid s) :=
  debugOp_canonical h (fun _ => h.modGroup)

theorem execStepoff_canonical (h : s.memCanonical) {gid : Nat} : Canonical (execStepoff gid s) :=
  debugOp_canonical h (fun _ => h.modGroup.releaseHeld.releaseTeam)

theorem execGoStep_canonical (h : s.memCanonical) {gid : Nat} : Canonical (execGoStep gid s) :=
  debugOp_canonical h (fun _ => h.releaseHeld)

theorem dbgcmd_canonical (h : s.memCanonical) {q value : Nat} : Canonical (s.dbgcmd q value) := by
  unfold State.dbgcmd
  dsimp only
  split
  · exact h.debugResult
  · split
    · exact h.debugResult
    · split
      · exact h.debugResult
      · split
        · exact execStepon_canonical h
        · split
          exacts [execStepoff_canonical h, execGoStep_canonical h]

/-! ### Machine/Partition.lean -/

theorem partctl_canonical {x : Rrr} {img : Bool} {body : Nat → List Nat → Rd → Except (Nat × Nat) State}
    (h : s.memCanonical)
    (hb : ∀ tid ps rd, ExceptAll State.memCanonical (body tid ps rd)) : Canonical (partctl x s img body) := by
  unfold partctl
  dsimp only
  refine threadOnly_canonical h ?_
  intro tid t rd
  split
  · exact h.fail.inOkFst
  · split
    · exact trivial
    · rename_i heq
      exact ((hb _ _ _).ok heq).inOkFst

theorem State.memCanonical.dropTuples (h : s.memCanonical) {p : Nat} : (s.dropTuples p).memCanonical := h.modStore

theorem execPartctlQuiesce_canonical (h : s.memCanonical) {x : Rrr} : Canonical (execPartctlQuiesce x s) := by
  unfold execPartctlQuiesce
  dsimp only
  refine partctl_canonical h ?_
  intro tid ps rd
  split
  · exact (((h.foldl (fun u a h2 => h2.modPart)).setG).fail).inOk
  · exact ((h.foldl (fun u a h2 => h2.dropTuples.modPart)).setG).inOk

theorem execPartctlShoot_canonical (h : s.memCanonical) {x : Rrr} : Canonical (execPartctlShoot x s) := by
  unfold execPartctlShoot
  dsimp only
  refine partctl_canonical h ?_
  intro tid ps rd
  split
  exacts [h.fail.inOk, ((h.tlbDrop.foldl (fun u a h2 => h2.modPart)).setG).inOk]

theorem State.memCanonical.storeLayout (h : s.memCanonical) : s.storeLayout.memCanonical := h.withModule

theorem execPartctlResume_canonical (h : s.memCanonical) {x : Rrr} : Canonical (execPartctlResume x s) := by
  unfold execPartctlResume
  refine partctl_canonical h ?_
  intro tid ps rd
  split
  exacts [h.fail.inOk, (((h.foldl (fun u a h2 => h2.modPart)).storeLayout).setG).inOk]

theorem State.memCanonical.wipeMemory (h : s.memCanonical) {ps : List Nat} : (s.wipeMemory ps).memCanonical :=
  h.filterStore

theorem State.memCanonical.resetPages (h : s.memCanonical) {part : Nat} : (s.resetPages part).memCanonical :=
  h.filterStore

theorem execPartctlWriteilv_canonical (h : s.memCanonical) {x : Rrr} : Canonical (execPartctlWriteilv x s) := by
  unfold execPartctlWriteilv
  dsimp only
  refine partctl_canonical h ?_
  intro tid ps rd
  split
  · exact h.fail.inOk
  · split
    · exact trivial
    · split
      · exact h.fail.inOk
      · split
        exacts [h.fail.inOk, ((h.wipeMemory.withDies.foldl (fun u a h2 => h2.modPart)).setG).inOk]

theorem State.memCanonical.writeBnd (h : s.memCanonical) {ps dies : List Nat} {w : Nat → Nat} :
    (s.writeBnd ps dies w).memCanonical :=
  ((h.foldl (fun u a h2 => h2.dropTuples)).of_mem).installKeys

theorem execPartctlWritebnd_canonical (h : s.memCanonical) {x : Rrr} : Canonical (execPartctlWritebnd x s) := by
  unfold execPartctlWritebnd
  dsimp only
  refine partctl_canonical h ?_
  intro tid ps rd
  split
  · exact h.fail.inOk
  · split
    · exact trivial
    · split
      · exact h.fail.inOk
      · split
        exacts [h.fail.inOk, h.writeBnd.setG.inOk]

theorem State.memCanonical.remeta (h : s.memCanonical) {part : Nat} : (s.remeta part).memCanonical := h.modStore

theorem execPrcfgWrite_canonical (h : s.memCanonical) {part value : Nat} :
    Canonical (execPrcfgWrite part value s) := by
  unfold execPrcfgWrite
  dsimp only
  split
  · exact h
  · split
    exacts [h.putPart, h.dropTuples.putPart.remeta]

theorem State.memCanonical.lendNext (h : s.memCanonical) {stack pair : Nat} :
    (s.lendNext stack pair).memCanonical := by
  unfold State.lendNext
  dsimp only
  split
  · exact h.lendEnd.lendAgain
  · split
    · split
      · exact h
      · split
        · exact h.lendShake
        · split
          exacts [h.drawn.lendShake, h.drawn.putHbm.lendAgain]
    · split
      · exact h
      · split
        · exact h.lendShake
        · split
          exacts [h.drawn.lendShake, h.drawn.putHbm.lendAgain]

theorem execLendreqWrite_canonical (h : s.memCanonical) {stack pair value : Nat} :
    Canonical (execLendreqWrite stack pair value s) := by
  unfold execLendreqWrite
  dsimp only
  split
  · split
    · exact h.putHbm
    · split
      · exact h.putHbm.lendShake
      · split
        exacts [h.putHbm.drawn.lendShake, h.putHbm.drawn.putHbm.lendAgain]
  · split
    · exact h.putHbm
    · split
      · exact h.putHbm.lendShake
      · split
        exacts [h.putHbm.drawn.lendShake, h.putHbm.drawn.putHbm.lendAgain]

theorem execLendReclaim_canonical (h : s.memCanonical) {stack pair : Nat} :
    Canonical (execLendReclaim stack pair s) := by
  unfold execLendReclaim
  split
  exacts [h, h.lendShake]

theorem execLendThermalReclaim_canonical (h : s.memCanonical) {stack pair : Nat} :
    Canonical (execLendThermalReclaim stack pair s) := by
  unfold execLendThermalReclaim
  dsimp only
  split
  exacts [h.putHbm.lendAgain, h]

/-! ### Machine/Sketch.lean -/

theorem sketchRun_canonical (h : s.memCanonical) {body : Nat → Queue → Packet → SkEnd} :
    Canonical (sketchRun s body) := by
  unfold sketchRun
  dsimp only
  split
  · split
    · exact h.pop
    · split
      · exact h.pop.queueFault
      · split
        · exact h.pop.putQueue
        · exact h.pop.queueFault
        · split
          exacts [h.pop.queueFault, h.pop.putQueue.commitOn]
        · exact h.pop.putQueue.toEngine
  · exact trivial

theorem sketchAlu_canonical (h : s.memCanonical) {f : Packet → Packet} : Canonical (sketchAlu s f) :=
  sketchRun_canonical h

theorem execSketchNop_canonical (h : s.memCanonical) {x : SkWord} : Canonical (execSketchNop x s) :=
  sketchAlu_canonical h

theorem execSketchMovi_canonical (h : s.memCanonical) {x : SkWord} : Canonical (execSketchMovi x s) :=
  sketchAlu_canonical h

theorem execSketchAdd_canonical (h : s.memCanonical) {x : SkWord} : Canonical (execSketchAdd x s) :=
  sketchAlu_canonical h

theorem execSketchSub_canonical (h : s.memCanonical) {x : SkWord} : Canonical (execSketchSub x s) :=
  sketchAlu_canonical h

theorem execSketchAnd_canonical (h : s.memCanonical) {x : SkWord} : Canonical (execSketchAnd x s) :=
  sketchAlu_canonical h

theorem execSketchOr_canonical (h : s.memCanonical) {x : SkWord} : Canonical (execSketchOr x s) :=
  sketchAlu_canonical h

theorem execSketchShl_canonical (h : s.memCanonical) {x : SkWord} : Canonical (execSketchShl x s) :=
  sketchAlu_canonical h

theorem execSketchShr_canonical (h : s.memCanonical) {x : SkWord} : Canonical (execSketchShr x s) :=
  sketchAlu_canonical h

theorem execSketchMask_canonical (h : s.memCanonical) {x : SkWord} : Canonical (execSketchMask x s) :=
  sketchAlu_canonical h

theorem execSketchCmp_canonical (h : s.memCanonical) {x : SkWord} : Canonical (execSketchCmp x s) :=
  sketchAlu_canonical h

theorem execSketchSel_canonical (h : s.memCanonical) {x : SkWord} : Canonical (execSketchSel x s) :=
  sketchAlu_canonical h

theorem execSketchBeq_canonical (h : s.memCanonical) {x : SkWord} : Canonical (execSketchBeq x s) :=
  sketchAlu_canonical h

theorem execSketchBne_canonical (h : s.memCanonical) {x : SkWord} : Canonical (execSketchBne x s) :=
  sketchAlu_canonical h

theorem execSketchLoop_canonical (h : s.memCanonical) {x : SkWord} : Canonical (execSketchLoop x s) :=
  sketchAlu_canonical h

theorem execSketchEndl_canonical (h : s.memCanonical) {x : SkWord} : Canonical (execSketchEndl x s) :=
  sketchAlu_canonical h

theorem execSketchLdq_canonical (h : s.memCanonical) {x : SkWord} : Canonical (execSketchLdq x s) :=
  sketchRun_canonical h

theorem execSketchLdreg_canonical (h : s.memCanonical) {x : SkWord} : Canonical (execSketchLdreg x s) :=
  sketchRun_canonical h

theorem execSketchStreg_canonical (h : s.memCanonical) {x : SkWord} : Canonical (execSketchStreg x s) :=
  sketchRun_canonical h

theorem execSketchLaunch_canonical (h : s.memCanonical) {x : SkWord} : Canonical (execSketchLaunch x s) :=
  sketchRun_canonical h

theorem execSketchSignal_canonical (h : s.memCanonical) {x : SkWord} : Canonical (execSketchSignal x s) :=
  sketchRun_canonical h

theorem execSketchWait_canonical (h : s.memCanonical) {x : SkWord} : Canonical (execSketchWait x s) :=
  sketchRun_canonical h

theorem execSketchIrq_canonical (h : s.memCanonical) {x : SkWord} : Canonical (execSketchIrq x s) :=
  sketchRun_canonical h

theorem execSketchDone_canonical (h : s.memCanonical) {x : SkWord} : Canonical (execSketchDone x s) :=
  sketchRun_canonical h

theorem execSketchDrop_canonical (h : s.memCanonical) {x : SkWord} : Canonical (execSketchDrop x s) :=
  sketchRun_canonical h

theorem execSketchFault_canonical (h : s.memCanonical) {x : SkWord} : Canonical (execSketchFault x s) :=
  sketchRun_canonical h

theorem State.memCanonical.skResult (h : s.memCanonical) {part code word : Nat} {hash : Option (List Byte)} :
    (s.skResult part code word hash).memCanonical :=
  h.modPart

theorem execSkcmdLoad_canonical (h : s.memCanonical) {part value : Nat} : Canonical (execSkcmdLoad part value s) := by
  unfold execSkcmdLoad
  dsimp only
  split
  · exact h
  · split
    · exact h.skResult
    · split
      · exact h.skResult
      · split
        · exact h.skResult
        · split
          · exact h.skResult
          · split
            exacts [h.skResult, h.modHub.skResult]

theorem execSkcmdUnload_canonical (h : s.memCanonical) {part value : Nat} :
    Canonical (execSkcmdUnload part value s) := by
  unfold execSkcmdUnload
  dsimp only
  split
  · exact h
  · split
    · exact h.skResult
    · split
      exacts [h.skResult, h.modHub.skResult]

/-! ### Machine/Virtual.lean -/

theorem execVectorDelivery_canonical (h : s.memCanonical) {vector : Nat} :
    Canonical (execVectorDelivery vector s) := by
  unfold execVectorDelivery
  dsimp only
  split
  · exact h
  · split
    · split
      · exact h.putVec
      · split
        exacts [h.putVec.putVf, h.putVec.modHub]
    · exact h.putVec.modHub
    · exact h.putVec.modHub
    · exact h.putVec

theorem State.memCanonical.msixMask (h : s.memCanonical) {vf : Nat} {e : Option Nat} {on : Bool} :
    (s.msixMask vf e on).memCanonical := by
  unfold State.msixMask
  dsimp only
  split
  · split
    exacts [h.putVf, h.putVf.modHub]
  · split
    · split
      exacts [h.putVf, h.putVf.modHub]
    · split
      · split
        exacts [h.putVf, h.putVf.modHub]
      · split
        · split
          exacts [h.putVf, h.putVf.modHub]
        · split
          exacts [h.putVf, h.putVf.modHub]

theorem execVfEnable_canonical (h : s.memCanonical) {vf : Nat} : Canonical (execVfEnable vf s) := by
  unfold execVfEnable
  dsimp only
  split
  · exact h
  · split <;> exact h.putVf

theorem State.memCanonical.discardCtx (h : s.memCanonical) {q : Nat} : (s.discardCtx q).memCanonical :=
  (((((((h.foldl (fun _ _ h2 => h2.stopGroup)).stopCopies).freeFb).flushCtx).freshKey).withSimt).modCtx).recheckSpawns

theorem State.memCanonical.dropPacket (h : s.memCanonical) {q : Nat} : (s.dropPacket q).memCanonical := by
  unfold State.dropPacket
  dsimp only
  refine State.memCanonical.modQueue ?_
  refine State.memCanonical.of_mem (s := _) ?_
  split
  · split
    exacts [h.foldl (fun u a h2 => h2.commitOne), h]
  · exact h

theorem State.memCanonical.killQueue (h : s.memCanonical) {q : Nat} : (s.killQueue q).memCanonical := by
  unfold State.killQueue
  split
  exacts [h.dropPacket, h.dropPacket.discardCtx]

theorem State.memCanonical.flrSteps (h : s.memCanonical) {vf : Nat} {f : Vf} : (s.flrSteps vf f).memCanonical :=
  (h.putVf.foldl (fun _ _ h2 => h2.killQueue)).laterWithin

theorem State.memCanonical.startFlr (h : s.memCanonical) {vf : Nat} {f : Vf} {off : Bool} :
    (s.startFlr vf f off).memCanonical := by
  unfold State.startFlr
  dsimp only
  split
  exacts [h.putVf.at, h.flrSteps]

theorem execVfFlr_canonical (h : s.memCanonical) {vf : Nat} : Canonical (execVfFlr vf s) := by
  unfold execVfFlr
  dsimp only
  split
  exacts [h.startFlr, h]

theorem execVfDisable_canonical (h : s.memCanonical) {vf : Nat} : Canonical (execVfDisable vf s) := by
  unfold execVfDisable
  dsimp only
  split
  · exact h.startFlr
  · split
    exacts [h.putVf, h]

theorem State.memCanonical.resetQueue (h : s.memCanonical) {q : Nat} : (s.resetQueue q).memCanonical :=
  h.putQueue.resetTrace

theorem State.memCanonical.clearVector (h : s.memCanonical) {v : Nat} : (s.clearVector v).memCanonical := by
  unfold State.clearVector
  dsimp only
  refine State.memCanonical.modHub ?_
  split
  exacts [h.putVec, h]

theorem execFlrComplete_canonical (h : s.memCanonical) {vf : Nat} : Canonical (execFlrComplete vf s) := by
  unfold execFlrComplete
  dsimp only
  split
  · exact h
  · split
    · split
      exacts [h.at, h.flrSteps]
    · exact (((h.foldl (fun u a h2 => h2.resetQueue)).foldl (fun u a h2 => h2.clearVector)).putVf)

theorem execVfHarvest_canonical (h : s.memCanonical) {vf : Nat} : Canonical (execVfHarvest vf s) :=
  Canonical.of_next h.filterStore.putVf

theorem State.memCanonical.vfResult (h : s.memCanonical) {vf r : Nat} : (s.vfResult vf r).memCanonical := h.putVf

theorem execVfqcmdExport_canonical (h : s.memCanonical) {vf value : Nat} :
    Canonical (execVfqcmdExport vf value s) := by
  unfold execVfqcmdExport
  dsimp only
  split
  · exact h.vfResult
  · split
    exacts [h.vfResult, h.putQueue.write.vfResult]

theorem execVfqcmdImport_canonical (h : s.memCanonical) {vf value : Nat} :
    Canonical (execVfqcmdImport vf value s) := by
  unfold execVfqcmdImport
  dsimp only
  split
  · exact h.vfResult
  · split
    · exact h.vfResult
    · split
      exacts [h.vfResult, h.modQueue.vfResult]

theorem execPartitionReset_canonical (h : s.memCanonical) {part : Nat} : Canonical (execPartitionReset part s) := by
  unfold execPartitionReset
  dsimp only
  split
  · exact h
  · exact ((((((((((h.foldl (fun u a h2 => h2.killQueue.resetQueue)).foldl (fun u a h2 => h2.destroyEnclave)).foldl
      (fun u a h2 => h2.putVf)).foldl (fun u a h2 =>
      h2.clearVector.putVec)).freshKey).dropTuples).resetPages).of_mem).modPart).putHostKey)

/-! ### Machine/Power.lean -/

theorem State.memCanonical.releasePart (h : s.memCanonical) {l : List (Nat × Nat × Nat × Nat) × List (Nat × Nat)}
    {p : Nat} :
    (s.releasePart l p).memCanonical := by
  unfold State.releasePart
  dsimp only
  split
  exacts [h, h.freshKey.putPart.putHostKey]

theorem State.memCanonical.release (h : s.memCanonical) {l : List (Nat × Nat × Nat × Nat) × List (Nat × Nat)} :
    (s.release l).memCanonical :=
  h.of_mem.foldl (fun u a h2 => h2.releasePart)

theorem State.memCanonical.bootStop (h : s.memCanonical) {stage code : Nat} : (s.bootStop stage code).memCanonical :=
  h.withModule

theorem execPowerOn_canonical (h : s.memCanonical) : Canonical (execPowerOn s) := by
  unfold execPowerOn
  dsimp only
  split
  · exact h
  · split
    · exact h.withModule.bootStop
    · split
      · exact h.withModule.modRot.bootStop
      · split
        · exact h.withModule.modRot.modRot.freshKey.modHub.startThread.bootStop
        · split
          · exact h.withModule.modRot.modRot.freshKey.modHub.startThread.bootStop
          · split
            · exact h.withModule.modRot.modRot.freshKey.modHub.startThread.release.bootStop
            · split <;> exact h.withModule.modRot.modRot.freshKey.modHub.startThread.release.bootStop

theorem State.memCanonical.powerOff {trip : Bool} : (s.powerOff trip).memCanonical := rfl

theorem execModulePowerOff_canonical (_ : s.memCanonical) : Canonical (execModulePowerOff s) :=
  Canonical.of_next State.memCanonical.powerOff

theorem execThermalTrip_canonical (h : s.memCanonical) : Canonical (execThermalTrip s) := by
  unfold execThermalTrip
  split
  exacts [State.memCanonical.powerOff, h]

theorem execLimitStep_canonical (h : s.memCanonical) {up : Bool} : Canonical (execLimitStep up s) := by
  unfold execLimitStep
  dsimp only
  split
  exacts [h.withParts, h]

theorem execThermalStep_canonical (h : s.memCanonical) {part : Nat} {up : Bool} :
    Canonical (execThermalStep part up s) := by
  unfold execThermalStep
  dsimp only
  split
  · exact h
  · split
    exacts [h.putPart, h]

theorem execPclkCapWrite_canonical (h : s.memCanonical) {part value : Nat} :
    Canonical (execPclkCapWrite part value s) := by
  unfold execPclkCapWrite
  dsimp only
  split
  exacts [h, h.putPart]

theorem execPgateGate_canonical (h : s.memCanonical) {part : Nat} : Canonical (execPgateGate part s) := by
  unfold execPgateGate
  dsimp only
  split
  · exact h
  · split <;> exact h.putPart

theorem execPgateUngate_canonical (h : s.memCanonical) {part : Nat} : Canonical (execPgateUngate part s) := by
  unfold execPgateUngate
  dsimp only
  split
  exacts [h.putPart, h]

theorem State.memCanonical.clockPhases (h : s.memCanonical) : s.clockPhases.2.memCanonical := h.withParts

theorem State.memCanonical.stallPart (h : s.memCanonical) {part : Nat} : (s.stallPart part).memCanonical :=
  h.withAgenda.modPart.modSimt.modStore.modHub

/-! ### Machine/Reliability.lean -/

theorem execPatrol_canonical (h : s.memCanonical) {stack line : Nat} : Canonical (execPatrol stack line s) := by
  unfold execPatrol
  dsimp only
  split
  · exact h
  · split
    exacts [h.meetLine.modStore, h.meetLine]

theorem execUncorrectableControlError_canonical (h : s.memCanonical) {die : Nat} {owners : List Nat} {kind : Nat} :
    Canonical (execUncorrectableControlError die owners kind s) := by
  unfold execUncorrectableControlError
  dsimp only
  split
  · split
    exacts [h.logError.postDie.modPart, h.logError.postDie]
  · exact (h.logError.foldl (fun u a h2 => h2.raiseHalt))

theorem State.memCanonical.dumpResult (h : s.memCanonical) {r len : Nat} : (s.dumpResult r len).memCanonical :=
  h.modHub

theorem execDmpcmdStart_canonical (h : s.memCanonical) {value : Nat} : Canonical (execDmpcmdStart value s) := by
  unfold execDmpcmdStart
  dsimp only
  split
  exacts [h.modHub, h.dumpResult, h.modHub.later]

theorem State.memCanonical.dumpMeets (h : s.memCanonical) {eid : Nat} : (s.dumpMeets eid).memCanonical :=
  h.foldl (fun _ _ h2 => h2.meetLine)

theorem State.memCanonical.endDump (h : s.memCanonical) : s.endDump.memCanonical := by
  unfold State.endDump
  dsimp only
  split
  · exact h
  · split
    · exact h.dumpResult
    · split
      · exact h.dumpMeets.dumpResult
      · split
        exacts [h.dumpMeets.dumpResult, h.dumpMeets.random.write.dumpResult]

theorem execFirmwareStaging_canonical (h : s.memCanonical) {req : FwReq} : Canonical (execFirmwareStaging req s) := by
  unfold execFirmwareStaging
  dsimp only
  split
  exacts [h, h.modRot]

theorem execFirmwareActivation_canonical (h : s.memCanonical) {image : Nat} :
    Canonical (execFirmwareActivation image s) := by
  unfold execFirmwareActivation
  dsimp only
  split
  · exact h
  · split
    exacts [h, h.modRot]

/-! ### Machine/Trust.lean -/

theorem State.memCanonical.putLinkDir (h : s.memCanonical) {k : Nat} {x : Link} : (s.putLinkDir k x).memCanonical :=
  h.modHub

theorem State.memCanonical.switchKey (h : s.memCanonical) {link k : Nat} : (s.switchKey link k).memCanonical := by
  unfold State.switchKey
  dsimp only
  split
  · exact h
  · refine h.withFree.putLinkDir.foldl ?_
    intro u a h2
    split
    exacts [h2.later, h2.laterWithin]

theorem State.memCanonical.sendFlit (h : s.memCanonical) {link k : Nat} : (s.sendFlit link k).memCanonical := by
  unfold State.sendFlit
  dsimp only
  refine State.memCanonical.putLinkDir ?_
  split
  exacts [h.switchKey, h]

theorem execKeySwitch_canonical (h : s.memCanonical) {link dir : Nat} : Canonical (execKeySwitch link dir s) := by
  unfold execKeySwitch
  split
  exacts [h, h.switchKey]

theorem execCompletionTimeout_canonical (h : s.memCanonical) {req : Nat} : Canonical (execCompletionTimeout req s) :=
  Canonical.of_next h.modHub

theorem execLinkRetransmit_canonical (h : s.memCanonical) {link dir : Nat} :
    Canonical (execLinkRetransmit link dir s) := by
  unfold execLinkRetransmit
  dsimp only
  split
  exacts [h, h.sendFlit.putLinkDir.logError]

theorem State.memCanonical.reply (h : s.memCanonical) {r : List Byte} : (s.reply r).memCanonical := h.modRot

theorem respond_canonical (h : s.memCanonical) {r : List Byte} : Canonical (s.respond r) := by
  unfold State.respond
  split
  exacts [h.reply, h]

theorem spdm_canonical {req : SpdmReq} {code : Nat} {body : Out} (h : s.memCanonical) (hb : Canonical body) :
    Canonical (s.spdm req code body) := by
  unfold State.spdm
  split
  · exact h
  · split
    exacts [respond_canonical h, hb]

theorem kelhel_canonical {req : SpdmReq} {op : Nat} {body : Out} (h : s.memCanonical) (hb : Canonical body) :
    Canonical (s.kelhel req op body) := by
  refine spdm_canonical h ?_
  split
  · exact respond_canonical h
  · split
    exacts [respond_canonical h, hb]

theorem execGetVersion_canonical (h : s.memCanonical) {req : SpdmReq} : Canonical (execGetVersion req s) :=
  spdm_canonical h (respond_canonical h)

theorem execGetCapabilities_canonical (h : s.memCanonical) {req : SpdmReq} : Canonical (execGetCapabilities req s) :=
  spdm_canonical h (respond_canonical h)

theorem execNegotiateAlgorithms_canonical (h : s.memCanonical) {req : SpdmReq} :
    Canonical (execNegotiateAlgorithms req s) := by
  unfold execNegotiateAlgorithms
  refine spdm_canonical h ?_
  split
  exacts [h.modRot.reply, respond_canonical h]

theorem execGetDigests_canonical (h : s.memCanonical) {req : SpdmReq} : Canonical (execGetDigests req s) :=
  spdm_canonical h (respond_canonical h)

theorem execGetCertificate_canonical (h : s.memCanonical) {req : SpdmReq} : Canonical (execGetCertificate req s) := by
  unfold execGetCertificate
  refine spdm_canonical h ?_
  split <;> exact respond_canonical h

theorem execChallenge_canonical (h : s.memCanonical) {req : SpdmReq} : Canonical (execChallenge req s) := by
  unfold execChallenge
  dsimp only
  refine spdm_canonical h ?_
  split <;> exact respond_canonical h

theorem execGetMeasurements_canonical (h : s.memCanonical) {req : SpdmReq} :
    Canonical (execGetMeasurements req s) := by
  unfold execGetMeasurements
  dsimp only
  refine spdm_canonical h ?_
  split
  · exact respond_canonical h
  · split
    · exact respond_canonical h
    · split <;> exact respond_canonical h

theorem execKeyExchange_canonical (h : s.memCanonical) {req : SpdmReq} : Canonical (execKeyExchange req s) := by
  unfold execKeyExchange
  dsimp only
  refine spdm_canonical h ?_
  split
  · exact respond_canonical h
  · split
    exacts [respond_canonical h, h.freshKey.freshKey.modRot.reply]

theorem execFinish_canonical (h : s.memCanonical) {req : SpdmReq} : Canonical (execFinish req s) := by
  unfold execFinish
  refine spdm_canonical h ?_
  split
  · exact respond_canonical h
  · split
    · exact respond_canonical h
    · split
      exacts [h.modRot.reply, respond_canonical h]

theorem execHeartbeat_canonical (h : s.memCanonical) {req : SpdmReq} : Canonical (execHeartbeat req s) :=
  spdm_canonical h (respond_canonical h)

theorem execKeyUpdate_canonical (h : s.memCanonical) {req : SpdmReq} : Canonical (execKeyUpdate req s) := by
  unfold execKeyUpdate
  dsimp only
  refine spdm_canonical h ?_
  split
  exacts [respond_canonical h, h.freshKey.modRot.reply]

theorem execEndSession_canonical (h : s.memCanonical) {req : SpdmReq} : Canonical (execEndSession req s) := by
  unfold execEndSession
  refine spdm_canonical h ?_
  split
  exacts [respond_canonical h, h.modRot.reply]

theorem State.memCanonical.observe (h : s.memCanonical) : s.observe.memCanonical := by
  unfold State.observe
  dsimp only
  split
  exacts [h, h.modRot]

theorem evidenceAt_canonical (h : s.memCanonical) {k : Nat} {req : SpdmReq} : Canonical (s.evidenceAt k req) := by
  unfold State.evidenceAt
  dsimp only
  split
  · exact h.at
  · split <;> exact respond_canonical h.observe

theorem execGetEnclaveEvidence_canonical (h : s.memCanonical) {req : SpdmReq} :
    Canonical (execGetEnclaveEvidence req s) := by
  unfold execGetEnclaveEvidence
  refine kelhel_canonical h ?_
  split
  exacts [respond_canonical h, evidenceAt_canonical h.drawn]

theorem State.memCanonical.member (h : s.memCanonical) {nonce idh : List Byte} {eid : Nat} :
    (s.member nonce idh eid).2.memCanonical := by
  unfold State.member
  dsimp only
  split
  · exact h
  · split
    exacts [h, h.drawn]

theorem State.memCanonical.members (h : s.memCanonical) {nonce data : List Byte} {n i : Nat} :
    (s.members nonce data n i).2.memCanonical := by
  induction n generalizing s i with
  | zero => exact h
  | succ n ih =>
    unfold State.members
    split
    · rename_i heq
      exact h.member.snd heq
    · rename_i heq
      split
      · rename_i heq2
        exact (ih (h.member.snd heq)).snd heq2
      · rename_i heq2
        exact (ih (h.member.snd heq)).snd heq2

theorem execPodForm_canonical (h : s.memCanonical) {req : SpdmReq} : Canonical (execPodForm req s) := by
  unfold execPodForm
  refine kelhel_canonical h ?_
  split
  · exact respond_canonical h
  · split
    · exact respond_canonical h
    · split
      exacts [respond_canonical h, h.modRot.laterWithin]

theorem podDone_canonical (h : s.memCanonical) {req : SpdmReq} : Canonical (s.podDone req) := by
  unfold State.podDone
  dsimp only
  split
  · rename_i heq
    exact respond_canonical (h.modRot.observe.members.snd heq)
  · rename_i heq
    exact (((h.modRot.observe.members.snd heq).modRot).reply)

theorem execGetPodPath_canonical (h : s.memCanonical) {req : SpdmReq} : Canonical (execGetPodPath req s) := by
  unfold execGetPodPath
  dsimp only
  refine kelhel_canonical h ?_
  split
  · exact respond_canonical h
  · split
    · exact respond_canonical h
    · split
      · exact respond_canonical h
      · split
        · exact respond_canonical h
        · split <;> exact respond_canonical h

theorem execIdeKmRequest_canonical (h : s.memCanonical) {req : IdeReq} : Canonical (execIdeKmRequest req s) := by
  unfold execIdeKmRequest
  dsimp only
  split
  · exact h
  · split
    · exact respond_canonical h
    · split
      · split
        exacts [respond_canonical h, h.modHub.reply]
      · split
        exacts [h.modHub.reply, respond_canonical h]
      · exact h.modHub.reply
      · exact respond_canonical h

theorem execTdispRequest_canonical (h : s.memCanonical) {req : TdispReq} : Canonical (execTdispRequest req s) := by
  unfold execTdispRequest
  dsimp only
  split
  · exact h
  · split
    · split
      exacts [h.freshKey.modHub, h]
    · split
      exacts [h.modHub, h]
    · exact h.modHub
    · split
      exacts [h.modHub, h]
    · exact h.modHub
    · exact h

theorem State.memCanonical.mctpRead (h : s.memCanonical) {req : InboundReq} : (s.mctpRead req).memCanonical := by
  unfold State.mctpRead
  dsimp only
  split
  exacts [h, h.modHub]

theorem execInboundDeviceAccess_canonical (h : s.memCanonical) {req : InboundReq} :
    Canonical (execInboundDeviceAccess req s) := by
  unfold execInboundDeviceAccess
  dsimp only
  split
  · exact h
  · split
    · exact h.mctpRead
    · split
      · split
        exacts [h.msixMask, h]
      · split
        · split
          · exact h
          · split
            · split
              exacts [h.soon, h]
            · split
              · exact h
              · split
                exacts [h.rowsPass, h.rowsPass.write]
        · split
          · exact h
          · split
            · split
              exacts [h.soon, h]
            · split
              · exact h.modHub
              · split
                exacts [h.rowsPass, h.rowsPass.meet.modHub]

/-! ### Machine/Mmio.lean -/

theorem kickWrite_canonical (h : s.memCanonical) {a n value : Nat} : Canonical (s.kickWrite a n value) := by
  unfold State.kickWrite
  dsimp only
  split
  · split
    · exact execKick_canonical h
    · split
      exacts [h, h.modQueue]
  · split
    · exact h
    · split
      · exact h.modCtx
      · split
        · split
          · exact execRcmdWrite_canonical h
          · exact execRcmdInval_canonical h
          · exact h.rstat
          · split
            exacts [h.rstat, h]
        · exact h

theorem queueWrite_canonical (h : s.memCanonical) {q off w m : Nat} : Canonical (s.queueWrite q off w m) := by
  unfold State.queueWrite
  dsimp only
  split
  · exact execQctlSkip_canonical (outState_memCanonical h (execQctlEnable_canonical h))
  · split
    exacts [h, h.putQueue]
  · split
    exacts [h, h.putQueue]
  · exact h.putQueue
  · split
    exacts [h, h.putQueue]
  · split
    exacts [h, h.putQueue]
  · exact h

theorem sketchWrite_canonical (h : s.memCanonical) {p off w m : Nat} : Canonical (s.sketchWrite p off w m) := by
  unfold State.sketchWrite
  split
  · exact h
  · split
    · exact h.modPart
    · split
      exacts [execSkcmdLoad_canonical h, execSkcmdUnload_canonical h]
    · exact h

theorem contextWrite_canonical (h : s.memCanonical) {q off w m : Nat} : Canonical (s.contextWrite q off w m) := by
  unfold State.contextWrite
  dsimp only
  split
  · exact h
  · split
    · exact h.putCtx
    · split
      exacts [h, h.putCtx]
    · split
      exacts [h, h.putCtx]
    · exact h.putCtx
    · split
      exacts [execCxvacRelease_canonical h, execCxvacClaim_canonical h]
    · exact h

theorem traceWrite_canonical (h : s.memCanonical) {q off w m : Nat} : Canonical (s.traceWrite q off w m) := by
  unfold State.traceWrite
  dsimp only
  split
  · exact h
  · split
    · exact execTrctlEnable_canonical h
    · split
      exacts [h, h.putTraceQ]
    · split
      exacts [h, h.putTraceQ]
    · split
      exacts [h, h.putTraceQ]
    · split
      exacts [h, h.putTraceQ]
    · exact h.putTraceQ
    · exact dbgcmd_canonical h
    · exact h.putTraceQ
    · exact h

theorem faultWrite_canonical (h : s.memCanonical) {d off w : Nat} : Canonical (s.faultWrite d off w) := by
  unfold State.faultWrite
  split
  · exact h.modSimt
  · split
    · exact h.badReplay
    · split
      exacts [execFbreplayAbandon_canonical h, execFbreplayRetry_canonical h]
  · exact h

theorem vfctlWrite_canonical (h : s.memCanonical) {v w m : Nat} : Canonical (s.vfctlWrite v w m) := by
  unfold State.vfctlWrite
  dsimp only
  split
  · split
    · refine execVfEnable_canonical ?_
      split
      · refine outState_memCanonical ?_ ?_
        · split
          exacts [outState_memCanonical h.putVf (execVfHarvest_canonical h.putVf), h.putVf]
        · refine execVfFlr_canonical ?_
          split
          exacts [outState_memCanonical h.putVf (execVfHarvest_canonical h.putVf), h.putVf]
      · split
        exacts [outState_memCanonical h.putVf (execVfHarvest_canonical h.putVf), h.putVf]
    · split
      · refine execVfDisable_canonical ?_
        split
        · refine outState_memCanonical ?_ ?_
          · split
            exacts [outState_memCanonical h.putVf (execVfHarvest_canonical h.putVf), h.putVf]
          · refine execVfFlr_canonical ?_
            split
            exacts [outState_memCanonical h.putVf (execVfHarvest_canonical h.putVf), h.putVf]
        · split
          exacts [outState_memCanonical h.putVf (execVfHarvest_canonical h.putVf), h.putVf]
      · split
        · refine outState_memCanonical ?_ ?_
          · split
            exacts [outState_memCanonical h.putVf (execVfHarvest_canonical h.putVf), h.putVf]
          · refine execVfFlr_canonical ?_
            split
            exacts [outState_memCanonical h.putVf (execVfHarvest_canonical h.putVf), h.putVf]
        · split
          exacts [outState_memCanonical h.putVf (execVfHarvest_canonical h.putVf), h.putVf]
  · split
    · refine execVfEnable_canonical ?_
      split
      · refine outState_memCanonical ?_ ?_
        · split
          exacts [outState_memCanonical h.putVf (execVfHarvest_canonical h.putVf), h.putVf]
        · refine execVfFlr_canonical ?_
          split
          exacts [outState_memCanonical h.putVf (execVfHarvest_canonical h.putVf), h.putVf]
      · split
        exacts [outState_memCanonical h.putVf (execVfHarvest_canonical h.putVf), h.putVf]
    · split
      · refine execVfDisable_canonical ?_
        split
        · refine outState_memCanonical ?_ ?_
          · split
            exacts [outState_memCanonical h.putVf (execVfHarvest_canonical h.putVf), h.putVf]
          · refine execVfFlr_canonical ?_
            split
            exacts [outState_memCanonical h.putVf (execVfHarvest_canonical h.putVf), h.putVf]
        · split
          exacts [outState_memCanonical h.putVf (execVfHarvest_canonical h.putVf), h.putVf]
      · split
        · refine outState_memCanonical ?_ ?_
          · split
            exacts [outState_memCanonical h.putVf (execVfHarvest_canonical h.putVf), h.putVf]
          · refine execVfFlr_canonical ?_
            split
            exacts [outState_memCanonical h.putVf (execVfHarvest_canonical h.putVf), h.putVf]
        · split
          exacts [outState_memCanonical h.putVf (execVfHarvest_canonical h.putVf), h.putVf]

theorem vfWrite_canonical (h : s.memCanonical) {v off w m : Nat} : Canonical (s.vfWrite v off w m) := by
  unfold State.vfWrite
  dsimp only
  split
  · exact vfctlWrite_canonical h
  · exact h.putVf
  · split
    exacts [h, h.putVf]
  · split
    exacts [h, h.putVf]
  · exact h.putVf
  · split
    exacts [h, h.putVf]
  · split
    exacts [execVfqcmdImport_canonical h, execVfqcmdExport_canonical h]
  · exact h.putVf
  · exact h

theorem vectorWrite_canonical (h : s.memCanonical) {v off w m : Nat} : Canonical (s.vectorWrite v off w m) := by
  unfold State.vectorWrite
  dsimp only
  split
  · split
    exacts [h.putVec.soon, h.putVec]
  · exact h.putVec

theorem pendingWrite_canonical (h : s.memCanonical) {t off w : Nat} : Canonical (s.pendingWrite t off w) := by
  unfold State.pendingWrite
  split
  exacts [h, h.modHub]

theorem partitionWrite_canonical (h : s.memCanonical) {p off w m : Nat} : Canonical (s.partitionWrite p off w m) := by
  unfold State.partitionWrite
  dsimp only
  split
  · exact h
  · split
    · split
      exacts [h.putPart.laterWithin, h]
    · exact h.putPart
    · exact execPrcfgWrite_canonical h
    · exact h.putPart
    · exact h.putPart
    · exact h.putPart
    · exact h

theorem State.memCanonical.lendWrite (h : s.memCanonical) {t m : Nat} : (s.lendWrite t m).memCanonical :=
  h.foldl (fun _ _ h2 => outState_memCanonical h2 (execLendreqWrite_canonical h2))

theorem stackWrite_canonical (h : s.memCanonical) {t off w m : Nat} : Canonical (s.stackWrite t off w m) := by
  unfold State.stackWrite
  dsimp only
  split
  · exact h.lendWrite
  · split
    exacts [h.putHbm, h]
  · exact h.putHbm
  · exact h

theorem errorWrite_canonical (h : s.memCanonical) {d off w m : Nat} : Canonical (s.errorWrite d off w m) := by
  unfold State.errorWrite
  dsimp only
  split
  exacts [h.modHub, h.modHub, h.modHub, h]

theorem dumpWrite_canonical (h : s.memCanonical) {off w m : Nat} : Canonical (s.dumpWrite off w m) := by
  unfold State.dumpWrite
  dsimp only
  split
  exacts [execDmpcmdStart_canonical h, h.modHub, h.modHub, h.modHub, h]

theorem moduleWrite_canonical (h : s.memCanonical) {off m : Nat} : Canonical (s.moduleWrite off m) := by
  unfold State.moduleWrite
  dsimp only
  split
  exacts [h.withModule, h]

theorem powerWrite_canonical (h : s.memCanonical) {p off w m : Nat} : Canonical (s.powerWrite p off w m) := by
  unfold State.powerWrite
  dsimp only
  split
  · exact h
  · split
    · exact execPclkCapWrite_canonical h
    · split
      · split
        · exact execPgateGate_canonical h.modPart
        · split
          exacts [h.modPart.modPart.laterWithin, h.modPart]
      · exact h

theorem hubWrite_canonical (h : s.memCanonical) {r : HubReg} {o n value : Nat} :
    Canonical (s.hubWrite r o n value) := by
  unfold State.hubWrite
  dsimp only
  split
  · exact queueWrite_canonical h
  · exact sketchWrite_canonical h
  · exact contextWrite_canonical h
  · exact traceWrite_canonical h
  · exact faultWrite_canonical h
  · exact vfWrite_canonical h
  · exact vectorWrite_canonical h
  · exact pendingWrite_canonical h
  · exact partitionWrite_canonical h
  · exact stackWrite_canonical h
  · exact h
  · exact errorWrite_canonical h
  · exact dumpWrite_canonical h
  · exact moduleWrite_canonical h
  · exact powerWrite_canonical h
  · exact h

theorem execRegisterWrite_canonical (h : s.memCanonical) {addr size value : Nat} :
    Canonical (execRegisterWrite addr size value s) := by
  unfold execRegisterWrite
  generalize hubReg (addr / 8 * 8) = r
  exact Canonical.ite_cases (kickWrite_canonical h) (Canonical.ite_cases (hubWrite_canonical h) (Canonical.of_next h))

/-! ### Machine/Predicate.lean -/

theorem predRow_canonical (h : s.memCanonical) {f : W32 → W32 → W32} {x : Rrr} : Canonical (predRow f x s) :=
  vecAlu_canonical h

theorem execPand_canonical (h : s.memCanonical) {x : Rrr} : Canonical (execPand x s) := predRow_canonical h

theorem execPor_canonical (h : s.memCanonical) {x : Rrr} : Canonical (execPor x s) := predRow_canonical h

theorem execPxor_canonical (h : s.memCanonical) {x : Rrr} : Canonical (execPxor x s) := predRow_canonical h

theorem execPandn_canonical (h : s.memCanonical) {x : Rrr} : Canonical (execPandn x s) := predRow_canonical h

theorem execPset_canonical (h : s.memCanonical) {x : Op2} : Canonical (execPset x s) := vecAlu_canonical h

theorem execPget_canonical (h : s.memCanonical) {x : Rr} : Canonical (execPget x s) := vecAlu_canonical h

theorem State.memCanonical.putMode (h : s.memCanonical) {gid sp : Nat} {x : W32} :
    (s.putMode gid sp x).memCanonical :=
  h.modGroup.modSplit

theorem execSetmode_canonical (h : s.memCanonical) {x : Op1} : Canonical (execSetmode x s) :=
  uniBoth_canonical h (fun _ _ _ _ _ => h.putMode.plain.inOk) (fun _ _ _ => h.modThread.inOkFst)

theorem execGetmode_canonical (h : s.memCanonical) {x : R1} : Canonical (execGetmode x s) := uniAlu_canonical h

theorem execModef_canonical (h : s.memCanonical) {x : ACode} : Canonical (execModef x s) := by
  unfold execModef
  refine uniBoth_canonical h ?_ ?_
  · intro gid sp g p rd
    split
    exacts [trivial, h.putMode.plain.inOk]
  · intro tid t rd
    split
    exacts [trivial, h.modThread.inOkFst]

theorem simtUniVar_canonical (h : s.memCanonical) {spec : Rd → Spec} {f : Rd → Except (Nat × Nat) RegWrites} :
    Canonical (simtUniVar s spec f) := by
  unfold simtUniVar
  refine simtOnly_canonical h ?_
  intro gid sp g p rd
  split
  exacts [trivial, h.putVar.plain.inOk]

theorem execVote_canonical (h : s.memCanonical) {x : VoteI} : Canonical (execVote x s) := simtUniVar_canonical h

theorem execBallot_canonical (h : s.memCanonical) {x : Rr} : Canonical (execBallot x s) := simtUniVar_canonical h

theorem execReadlane_canonical (h : s.memCanonical) {x : ReadLaneI} : Canonical (execReadlane x s) := by
  unfold execReadlane
  dsimp only
  refine simtOnly_canonical h ?_
  intro gid sp g p rd
  split
  exacts [trivial, h.putVar.plain.inOk]

/-! ### Machine/Publish.lean -/

theorem State.memCanonical.sendPublish (h : s.memCanonical) {gid sp : Nat} {p : Split} {l va range scope : Nat} :
    (s.sendPublish gid sp p l va range scope).memCanonical := by
  unfold State.sendPublish
  dsimp only
  split
  exacts [h, h.drawn.modGroup.modSimt.soon]

theorem execPublish_canonical (h : s.memCanonical) {x : ACode} : Canonical (execPublish x s) := by
  unfold execPublish
  refine simtOnly_canonical h ?_
  intro gid sp g p rd
  split
  · exact h.plain.inOk
  · split
    exacts [trivial, h.sendPublish.plain.inOk]

theorem State.memCanonical.modPublish (h : s.memCanonical) {id : Nat} {f : Publish → Publish} :
    (s.modPublish id f).memCanonical :=
  h.modSimt

theorem State.memCanonical.reachTable (h : s.memCanonical) {id : Nat} {p : Publish} :
    (s.reachTable id p).memCanonical := by
  unfold State.reachTable
  split
  exacts [h, h.modPublish]

theorem execPublishPoint_canonical (h : s.memCanonical) {id : Nat} : Canonical (execPublishPoint id s) := by
  unfold execPublishPoint
  dsimp only
  split
  · exact h
  · split
    exacts [h.reachTable, h.reachTable.modPublish.modCtx.laterWithin]

theorem State.memCanonical.performOld (h : s.memCanonical) {q : Nat} {r : RangeEntry} :
    (s.performOld q r).memCanonical := by
  unfold State.performOld
  dsimp only
  refine h.foldl ?_
  intro u a h2
  split
  · exact h2
  · split
    · split
      · exact outState_memCanonical h2.readAfterAll (execBatchComplete_canonical h2.readAfterAll.runOps)
      · exact h2.readAfterAll
    · split
      exacts [outState_memCanonical h2 (execBatchComplete_canonical h2.runOps), h2]

theorem execPublishComplete_canonical (h : s.memCanonical) {id : Nat} : Canonical (execPublishComplete id s) := by
  unfold execPublishComplete
  dsimp only
  split
  · exact h
  · split
    · exact h
    · refine (((((OptionAll.map (fun a =>
        h.readAfterAll.performOld)).getD h.readAfterAll).modSimt).finishFlight).foldl (fun u a h2 =>
        h2.modCopy.soon)).foldl ?_
      intro u a h2
      split
      exacts [h2.soon, h2]

/-! ### Machine/Agenda.lean -/

theorem doEvent_canonical (h : s.memCanonical) {e : Event} : Canonical (doEvent e s) := by
  unfold doEvent
  split
  · exact execFixedLatencyWriteback_canonical h
  · exact execVariableLatencyResult_canonical h
  · exact execRunStart_canonical h
  · exact execRunEndMerge_canonical h
  · exact execGroupExit_canonical h
  · exact execTeamResourceFree_canonical h
  · exact execTeamPlacement_canonical h
  · exact execTaskComplete_canonical h
  · exact execSpawnAccept_canonical h
  · exact execProgressSwap_canonical h
  · exact execSyncEngineLineReturn_canonical h
  · exact execAtomicPerformed_canonical h
  · exact execStorePerformed_canonical h
  · exact execCopyUnitTransfer_canonical h
  · exact execSourceReleased_canonical h
  · exact execLanded_canonical h
  · exact execPublished_canonical h
  · exact execDeferredArrival_canonical h
  · exact execPublishPoint_canonical h
  · exact execPublishComplete_canonical h
  · exact execBarrierPhaseComplete_canonical h
  · exact execCtrwaitWake_canonical h
  · exact execOperationAcceptance_canonical h
  · exact execMatrixPass_canonical h
  · exact execBatchComplete_canonical h
  · exact execTdepServe_canonical h
  · exact execTcopyServe_canonical h
  · exact execTtakeServe_canonical h
  · exact execTcancelServe_canonical h
  · exact execSkidEnd_canonical h
  · exact execClaimComplete_canonical h
  · exact execEaselAssign_canonical h
  · exact execLaunchCommit_canonical h
  · exact execQueueWaitWake_canonical h
  · exact execScrub_canonical h
  · exact execTrapEntry_canonical h
  · exact execWfiWake_canonical h
  · exact execVectorDelivery_canonical h
  · exact execFlrComplete_canonical h
  · exact execThrottleRelease_canonical h
  · exact h.lendNext
  · exact execPgateUngate_canonical h
  · exact execPartitionReset_canonical h
  · exact execLimitStep_canonical h
  · exact execThermalStep_canonical h
  · exact execThermalTrip_canonical h
  · exact execLendThermalReclaim_canonical h
  · exact execCompletionTimeout_canonical h
  · exact execChunkFlush_canonical h
  · exact execLossMark_canonical h
  · exact execStallSample_canonical h
  · exact execPowerOn_canonical h
  · exact execRegisterWrite_canonical h
  · exact h.endDump
  · exact h
  · exact execInboundDeviceAccess_canonical h
  · exact evidenceAt_canonical h
  · exact podDone_canonical h

theorem runEvent_canonical (h : s.memCanonical) {e : Event} : Canonical (runEvent e s) := by
  unfold runEvent
  split
  exacts [h.holdEvent, doEvent_canonical h]

/-! ### Machine/Dispatch.lean -/

/-- Every instruction and event keeps the form. -/
theorem exec_canonical (h : s.memCanonical) (i : Instr) : Canonical (exec i s) := by
  cases i with
  | iadd _ | isub _ | imul _ | imulh _ | imad _ | imin _ | imax _ | andV _ | orV _ | xorV _ | andn _ | shl _ | shr _
    | sar _ | rotl _ | bfx _ | bfi _ | idiv _ | irem _ => exact vecInt3_canonical h
  | iabs _ | ineg _ | notV _ | popc _ | clz _ | ctz _ | brev _ => exact vecInt2_canonical h
  | idp4 _ => exact execIdp4_canonical h
  | mov _ => exact execMov_canonical h
  | sel _ => exact execSel_canonical h
  | icmp _ => exact execIcmp_canonical h
  | mulw _ => exact execMulw_canonical h
  | prmt _ => exact execPrmt_canonical h
  | iaddU _ | isubU _ | imulU _ | imulhU _ | imadU _ | iminU _ | imaxU _ | andU _ | orU _ | xorU _ | andnU _ | shlU _
    | shrU _ | sarU _ | rotlU _ | bfxU _ | bfiU _ => exact uniInt3_canonical h
  | iabsU _ | inegU _ | notU _ | popcU _ | clzU _ | ctzU _ | brevU _ => exact uniInt2_canonical h
  | movU _ => exact execMovU_canonical h
  | icmpU _ => exact execIcmpU_canonical h
  | fadd _ | fsub _ | fmul _ | ffma _ | fmin _ | fmax _ | fdiv _ => exact vecFlt3_canonical h
  | fabs _ | fneg _ | frcp _ | frsq _ | fsqrt _ | fexp2 _ | flog2 _ | fsin _ | fcos _ | frnd _ | fclass _ =>
    exact vecFlt2_canonical h
  | fcmp _ => exact execFcmp_canonical h
  | fdot2 _ => exact execFdot2_canonical h
  | cvt _ => exact execCvt_canonical h
  | cvtpk _ => exact execCvtpk_canonical h
  | cvtn8 _ => exact execCvtn8_canonical h
  | cvtn4 _ => exact execCvtn4_canonical h
  | cvtw _ => exact execCvtw_canonical h
  | pack6 _ => exact execPack6_canonical h
  | unpk6 _ => exact execUnpk6_canonical h
  | mxsc _ => exact execMxsc_canonical h
  | cmpr24 _ => exact execCmpr24_canonical h
  | srseed _ => exact execSrseed_canonical h
  | shfl _ => exact execShfl_canonical h
  | shflx _ => exact execShflx_canonical h
  | shflup _ => exact execShflup_canonical h
  | shfldn _ => exact execShfldn_canonical h
  | redadd _ | redmin _ | redmax _ | redand _ | redor _ | redxor _ => exact reduce_canonical h
  | minidx _ => exact execMinidx_canonical h
  | maxidx _ => exact execMaxidx_canonical h
  | scanadd _ => exact execScanadd_canonical h
  | matchV _ => exact execMatchV_canonical h
  | ld _ => exact execLd_canonical h
  | st _ => exact execSt_canonical h
  | ldl _ => exact execLdl_canonical h
  | stl _ => exact execStl_canonical h
  | ldl4 _ => exact execLdl4_canonical h
  | stl4 _ => exact execStl4_canonical h
  | gld _ => exact execGld_canonical h
  | gst _ => exact execGst_canonical h
  | ldacq _ => exact execLdacq_canonical h
  | strel _ => exact execStrel_canonical h
  | stnt _ => exact execStnt_canonical h
  | pref _ => exact execPref_canonical h
  | atomv _ => exact execAtomv_canonical h
  | redv _ => exact execRedv_canonical h
  | acrd _ => exact execAcrd_canonical h
  | acwr _ => exact execAcwr_canonical h
  | pand _ => exact execPand_canonical h
  | por _ => exact execPor_canonical h
  | pxor _ => exact execPxor_canonical h
  | pandn _ => exact execPandn_canonical h
  | pset _ => exact execPset_canonical h
  | pget _ => exact execPget_canonical h
  | cpy _ => exact execCpy_canonical h
  | publish _ => exact execPublish_canonical h
  | mma _ => exact execMma_canonical h
  | bra _ => exact execBra_canonical h
  | brq _ => exact execBrq_canonical h
  | brv _ => exact execBrv_canonical h
  | jmpi _ => exact execJmpi_canonical h
  | call _ => exact execCall_canonical h
  | calli _ => exact execCalli_canonical h
  | ret _ => exact execRet_canonical h
  | exit _ => exact execExit_canonical h
  | join _ => exact execJoin_canonical h
  | yield _ => exact execYield_canonical h
  | trap _ => exact execTrap_canonical h
  | bkpt _ => exact execBkpt_canonical h
  | spawn _ => exact execSpawn_canonical h
  | readlane _ => exact execReadlane_canonical h
  | vote _ => exact execVote_canonical h
  | ballot _ => exact execBallot_canonical h
  | setmode _ => exact execSetmode_canonical h
  | getmode _ => exact execGetmode_canonical h
  | modef _ => exact execModef_canonical h
  | waitc _ => exact execWaitc_canonical h
  | mfence _ => exact execMfence_canonical h
  | mwait _ => exact execMwait_canonical h
  | fence _ => exact execFence_canonical h
  | ntdrain _ => exact execNtdrain_canonical h
  | bararr _ => exact execBararr_canonical h
  | barwait _ => exact execBarwait_canonical h
  | barsync _ => exact execBarsync_canonical h
  | bardef _ => exact execBardef_canonical h
  | ctradd _ => exact execCtradd_canonical h
  | ctrwait _ => exact execCtrwait_canonical h
  | sread _ => exact execSread_canonical h
  | swrite _ => exact execSwrite_canonical h
  | ldu _ => exact execLdu_canonical h
  | stu _ => exact execStu_canonical h
  | atom _ => exact execAtom_canonical h
  | redu _ => exact execRedu_canonical h
  | lduacq _ => exact execLduacq_canonical h
  | sturel _ => exact execSturel_canonical h
  | mmag _ => exact execMmag_canonical h
  | msetaux _ => exact execMsetaux_canonical h
  | aczero _ => exact execAczero_canonical h
  | accpy _ => exact execAccpy_canonical h
  | cbdrain _ => exact execCbdrain_canonical h
  | cbsave _ => exact execCbsave_canonical h
  | cbload _ => exact execCbload_canonical h
  | cbmerge _ => exact execCbmerge_canonical h
  | cbclr _ => exact execCbclr_canonical h
  | cbdrainw _ => exact execCbdrainw_canonical h
  | tdep _ => exact execTdep_canonical h
  | tcopy _ => exact execTcopy_canonical h
  | ttake _ => exact execTtake_canonical h
  | tcancel _ => exact execTcancel_canonical h
  | ecreate _ => exact execEcreate_canonical h
  | eenter _ => exact execEenter_canonical h
  | eexit _ => exact execEexit_canonical h
  | edestroy _ => exact execEdestroy_canonical h
  | pgassign _ => exact execPgassign_canonical h
  | pgseal _ => exact execPgseal_canonical h
  | pgunseal _ => exact execPgunseal_canonical h
  | ctxseal _ => exact execCtxseal_canonical h
  | ctxcommit _ => exact execCtxcommit_canonical h
  | ctxload _ => exact execCtxload_canonical h
  | tlbiAll _ => exact execTlbiAll_canonical h
  | tlbiPage _ => exact execTlbiPage_canonical h
  | tlbiSpace _ => exact execTlbiSpace_canonical h
  | syscall _ => exact execSyscall_canonical h
  | hvcall _ => exact execHvcall_canonical h
  | eret _ => exact execEret_canonical h
  | wfi _ => exact execWfi_canonical h
  | corerst _ => exact execCorerst_canonical h
  | partctlQuiesce _ => exact execPartctlQuiesce_canonical h
  | partctlWriteilv _ => exact execPartctlWriteilv_canonical h
  | partctlWritebnd _ => exact execPartctlWritebnd_canonical h
  | partctlShoot _ => exact execPartctlShoot_canonical h
  | partctlResume _ => exact execPartctlResume_canonical h
  | freeze _ => exact execFreeze_canonical h
  | ctxabort _ => exact execCtxabort_canonical h
  | sketchNop x => exact execSketchNop_canonical h (x := x)
  | sketchMovi _ => exact execSketchMovi_canonical h
  | sketchAdd _ => exact execSketchAdd_canonical h
  | sketchSub _ => exact execSketchSub_canonical h
  | sketchAnd _ => exact execSketchAnd_canonical h
  | sketchOr _ => exact execSketchOr_canonical h
  | sketchShl _ => exact execSketchShl_canonical h
  | sketchShr _ => exact execSketchShr_canonical h
  | sketchMask _ => exact execSketchMask_canonical h
  | sketchCmp _ => exact execSketchCmp_canonical h
  | sketchSel _ => exact execSketchSel_canonical h
  | sketchBeq _ => exact execSketchBeq_canonical h
  | sketchBne _ => exact execSketchBne_canonical h
  | sketchLoop _ => exact execSketchLoop_canonical h
  | sketchEndl x => exact execSketchEndl_canonical h (x := x)
  | sketchLdq _ => exact execSketchLdq_canonical h
  | sketchLdreg _ => exact execSketchLdreg_canonical h
  | sketchStreg _ => exact execSketchStreg_canonical h
  | sketchLaunch _ => exact execSketchLaunch_canonical h
  | sketchSignal _ => exact execSketchSignal_canonical h
  | sketchWait _ => exact execSketchWait_canonical h
  | sketchIrq _ => exact execSketchIrq_canonical h
  | sketchDone _ => exact execSketchDone_canonical h
  | sketchDrop _ => exact execSketchDrop_canonical h
  | sketchFault _ => exact execSketchFault_canonical h
  | fixedLatencyWriteback _ => exact execFixedLatencyWriteback_canonical h
  | variableLatencyResult _ _ => exact execVariableLatencyResult_canonical h
  | runStart _ => exact execRunStart_canonical h
  | runEndMerge _ _ => exact execRunEndMerge_canonical h
  | groupExit _ => exact execGroupExit_canonical h
  | teamResourceFree _ => exact execTeamResourceFree_canonical h
  | teamPlacement _ => exact execTeamPlacement_canonical h
  | taskComplete _ => exact execTaskComplete_canonical h
  | spawnAccept _ _ => exact execSpawnAccept_canonical h
  | progressSwap _ => exact execProgressSwap_canonical h
  | syncEngineLineReturn _ => exact execSyncEngineLineReturn_canonical h
  | atomicPerformed _ _ => exact execAtomicPerformed_canonical h
  | storePerformed _ _ => exact execStorePerformed_canonical h
  | fbreplayRetry _ _ => exact execFbreplayRetry_canonical h
  | fbreplayAbandon _ _ => exact execFbreplayAbandon_canonical h
  | copyUnitTransfer _ => exact execCopyUnitTransfer_canonical h
  | sourceReleased _ => exact execSourceReleased_canonical h
  | landed _ => exact execLanded_canonical h
  | published _ => exact execPublished_canonical h
  | deferredArrival _ => exact execDeferredArrival_canonical h
  | publishPoint _ => exact execPublishPoint_canonical h
  | publishComplete _ => exact execPublishComplete_canonical h
  | barrierPhaseComplete _ => exact execBarrierPhaseComplete_canonical h
  | ctrwaitWake _ _ => exact execCtrwaitWake_canonical h
  | operationAcceptance _ => exact execOperationAcceptance_canonical h
  | matrixPass _ => exact execMatrixPass_canonical h
  | batchComplete _ => exact execBatchComplete_canonical h
  | tdepServe _ => exact execTdepServe_canonical h
  | tcopyServe _ => exact execTcopyServe_canonical h
  | ttakeServe _ => exact execTtakeServe_canonical h
  | tcancelServe _ => exact execTcancelServe_canonical h
  | skidEnd _ => exact execSkidEnd_canonical h
  | cxvacClaim _ _ => exact execCxvacClaim_canonical h
  | cxvacRelease _ => exact execCxvacRelease_canonical h
  | claimComplete _ => exact execClaimComplete_canonical h
  | kick _ _ => exact execKick_canonical h
  | qctlEnable _ _ => exact execQctlEnable_canonical h
  | qctlSkip _ _ => exact execQctlSkip_canonical h
  | easelAssign _ => exact execEaselAssign_canonical h
  | launchCommit _ => exact execLaunchCommit_canonical h
  | queueWaitWake _ => exact execQueueWaitWake_canonical h
  | rcmdWrite _ _ => exact execRcmdWrite_canonical h
  | rcmdInval _ _ => exact execRcmdInval_canonical h
  | skcmdLoad _ _ => exact execSkcmdLoad_canonical h
  | skcmdUnload _ _ => exact execSkcmdUnload_canonical h
  | scrub _ => exact execScrub_canonical h
  | trapEntry _ _ => exact execTrapEntry_canonical h
  | wfiWake _ => exact execWfiWake_canonical h
  | vectorDelivery _ => exact execVectorDelivery_canonical h
  | vfEnable _ => exact execVfEnable_canonical h
  | vfDisable _ => exact execVfDisable_canonical h
  | vfFlr _ => exact execVfFlr_canonical h
  | flrComplete _ => exact execFlrComplete_canonical h
  | vfHarvest _ => exact execVfHarvest_canonical h
  | vfqcmdExport _ _ => exact execVfqcmdExport_canonical h
  | vfqcmdImport _ _ => exact execVfqcmdImport_canonical h
  | partitionReset _ => exact execPartitionReset_canonical h
  | prcfgWrite _ _ => exact execPrcfgWrite_canonical h
  | lendreqWrite _ _ _ => exact execLendreqWrite_canonical h
  | lendReclaim _ _ => exact execLendReclaim_canonical h
  | lendThermalReclaim _ _ => exact execLendThermalReclaim_canonical h
  | refresh _ _ => exact execRefresh_canonical h
  | throttleRelease _ _ => exact execThrottleRelease_canonical h
  | patrol _ _ => exact execPatrol_canonical h
  | keySwitch _ _ => exact execKeySwitch_canonical h
  | linkRetransmit _ _ => exact execLinkRetransmit_canonical h
  | uncorrectableControlError _ _ _ => exact execUncorrectableControlError_canonical h
  | dmpcmdStart _ => exact execDmpcmdStart_canonical h
  | firmwareActivation _ => exact execFirmwareActivation_canonical h
  | getVersion _ => exact execGetVersion_canonical h
  | getCapabilities _ => exact execGetCapabilities_canonical h
  | negotiateAlgorithms _ => exact execNegotiateAlgorithms_canonical h
  | getDigests _ => exact execGetDigests_canonical h
  | getCertificate _ => exact execGetCertificate_canonical h
  | challenge _ => exact execChallenge_canonical h
  | getMeasurements _ => exact execGetMeasurements_canonical h
  | keyExchange _ => exact execKeyExchange_canonical h
  | finish _ => exact execFinish_canonical h
  | heartbeat _ => exact execHeartbeat_canonical h
  | keyUpdate _ => exact execKeyUpdate_canonical h
  | endSession _ => exact execEndSession_canonical h
  | getEnclaveEvidence _ => exact execGetEnclaveEvidence_canonical h
  | podForm _ => exact execPodForm_canonical h
  | getPodPath _ => exact execGetPodPath_canonical h
  | trctlEnable _ _ => exact execTrctlEnable_canonical h
  | chunkFlush _ => exact execChunkFlush_canonical h
  | lossMark _ => exact execLossMark_canonical h
  | stallSample _ => exact execStallSample_canonical h
  | stepon _ => exact execStepon_canonical h
  | stepoff _ => exact execStepoff_canonical h
  | goStep _ => exact execGoStep_canonical h
  | powerOn => exact execPowerOn_canonical h
  | limitStep _ => exact execLimitStep_canonical h
  | thermalStep _ _ => exact execThermalStep_canonical h
  | thermalTrip => exact execThermalTrip_canonical h
  | pgateGate _ => exact execPgateGate_canonical h
  | pgateUngate _ => exact execPgateUngate_canonical h
  | registerWrite _ _ _ => exact execRegisterWrite_canonical h
  | undefOpcode _ => exact execUndefOpcode_canonical h
  | inboundDeviceAccess _ => exact execInboundDeviceAccess_canonical h
  | tdispRequest _ => exact execTdispRequest_canonical h
  | ideKmRequest _ => exact execIdeKmRequest_canonical h
  | completionTimeout _ => exact execCompletionTimeout_canonical h
  | modulePowerOff => exact execModulePowerOff_canonical h
  | threadStart _ _ _ => exact execThreadStart_canonical h
  | firmwareStaging _ => exact execFirmwareStaging_canonical h
  | pclkCapWrite _ _ => exact execPclkCapWrite_canonical h

/-! ### Machine/Turns.lean -/

theorem turnSimt_canonical (h : s.memCanonical) {gid sp : Nat} : Canonical (s.turnSimt gid sp) := by
  unfold State.turnSimt
  dsimp only
  split
  · exact h.pop
  · split
    · exact h.pop
    · split
      · exact h.pop
      · split
        · exact h.issueFault
        · split
          · exact execUndefOpcode_canonical h
          · split
            · exact h.issueFault
            · split
              exacts [exec_canonical h _, h.simtFault]

theorem turnThread_canonical (h : s.memCanonical) {tid : Nat} : Canonical (s.turnThread tid) := by
  unfold State.turnThread
  dsimp only
  split
  · exact h.pop
  · split
    · exact h.tlbFill.logThread.threadFault
    · split
      · exact execUndefOpcode_canonical h.tlbFill
      · split
        · exact h.tlbFill.logThread.threadFault
        · split
          · exact h.tlbFill.threadFault
          · split
            exacts [exec_canonical h.tlbFill _, h.tlbFill.threadFault]

theorem turnEasel_canonical (h : s.memCanonical) {q : Nat} : Canonical (s.turnEasel q) := by
  unfold State.turnEasel
  dsimp only
  split
  · exact h.pop
  · split
    · exact h.pop
    · split
      exacts [exec_canonical h _, h.pop.queueFault]

theorem State.memCanonical.tick (h : s.memCanonical) : s.tick.memCanonical :=
  (h.observe.stepHolds.withAc.clockPhases.foldl (fun u a h2 => h2.stallPart)).of_mem

/-! ### Machine/Step.lean -/

theorem step_canonical (h : s.memCanonical) : Canonical (step s) := by
  unfold step
  split
  · exact runEvent_canonical h.withAgenda
  · split
    · exact turnSimt_canonical h
    · exact turnThread_canonical h
    · exact turnEasel_canonical h
    · split
      exacts [h.tick, h]

/-- Settles O59: the form is kept by each turn, by each event, and where time passes. -/
theorem stepKeepsMemoryCanonical : Obligations.StepKeepsMemoryCanonical := by
  unfold Obligations.StepKeepsMemoryCanonical
  intro s t h hstep
  have hkept := step_canonical h
  rw [hstep] at hkept
  exact hkept

/-- Settles O58: at reset nothing is listed. -/
theorem resetMemoryCanonical : Obligations.ResetMemoryCanonical := by
  unfold Obligations.ResetMemoryCanonical State.memCanonical
  rfl

/-! ## O57: the reset values

Each table of registers is empty at reset, so that every register reads as its entry's reset value. -/

theorem leNat_memBytes_nil (a n : Nat) : leNat (memBytes [] a n) = 0 := by
  induction n generalizing a with
  | zero => rfl
  | succ n ih => rw [memBytes, leNat, ih (a + 1)]; rfl

theorem peek_of_mem_nil {s : State} (h : s.store.mem = []) (a n : Nat) : s.peek a n = 0 := by
  rw [State.peek, h, leNat_memBytes_nil]

/-- Settles O57: every table read is empty, and its default entry holds the reset values. -/
theorem resetValues : Obligations.ResetValues := by
  unfold Obligations.ResetValues
  refine ⟨rfl, rfl, rfl, rfl, rfl, rfl, rfl, rfl, fun q => ?_, fun v => ?_, fun v => ?_, fun t => ?_, fun q => ?_, fun p => ?_,
    fun t => ?_, fun a n => ?_⟩
  · exact ⟨rfl, rfl, rfl, rfl, rfl, rfl, rfl⟩
  · exact ⟨rfl, rfl, rfl⟩
  · exact ⟨rfl, rfl, rfl⟩
  · exact ⟨rfl, rfl, rfl⟩
  · exact ⟨rfl, rfl⟩
  · exact ⟨rfl, rfl, rfl, rfl, rfl, rfl, rfl⟩
  · rfl
  · exact peek_of_mem_nil rfl a n

/-! ## O4: words of the manual -/

/-- Settles O4: each word is decoded by evaluation. -/
theorem manualWordsDecode : Obligations.ManualWordsDecode := by
  unfold Obligations.ManualWordsDecode
  exact ⟨rfl, rfl, rfl, rfl, rfl, rfl, rfl, rfl, rfl, rfl, rfl, rfl⟩

end Sys2Proof.Machine

namespace Sys2Proof.Machine

set_option Elab.async false

/-! ## O44: calls between levels, returns, waits for an interrupt, and TLB invalidation (R272, R273, R275, R286) -/

section ThreadOnly

variable {s : State} {tid : Nat} {t : Thread} (h : s.AtThread tid t) {level : Nat} {spec : Rd → Spec}
  {body : Nat → Thread → Rd → Except (Nat × Nat) (State × Option W64)} (hl : level ≤ t.lvl) (hp : t.Passes (spec (t.rd tid)))
include h hl hp

/-- A body that answers OPND. -/
theorem threadOnly_opnd (hd : body tid t (t.rd tid) = .error (2, 0)) :
    threadOnly s level spec body = .next (s.threadFault tid 2 0) := by
  unfold threadOnly
  rw [issuer_thread h]
  simp only [hd, issueThread_error hp, if_neg (Nat.not_lt.mpr hl), logThread_of_cause (cause := 2) (by decide) (by decide)]

/-- A body that traps goes on at the vector. -/
theorem threadOnly_trapped {tr : Trap} (hd : body tid t (t.rd tid) = trapped (s.trap tid tr) tid) :
    threadOnly s level spec body = .next (s.trap tid tr).pop := by
  rw [threadOnly_next h hl hp hd]
  exact congrArg (fun u : State => (.next u.pop : Out)) (trap_modThread_pc s tid tr)

/-- A body that changes the thread alone and sets its pc. -/
theorem threadOnly_jumps {f : Thread → Thread} (hd : body tid t (t.rd tid) = trapped (s.modThread tid f) tid) :
    threadOnly s level spec body = .next (s.threadDone tid (f t)) := by
  rw [threadOnly_next h hl hp hd, modThread_modThread, thread_modThread_same, h.2]
  rfl

/-- A body that leaves the thread's registers: the thread goes on to the next instruction. -/
theorem threadOnly_onward {u : State} (hd : body tid t (t.rd tid) = .ok (u, none)) (hu : u.thread tid = t) :
    threadOnly s level spec body = .next (u.threadDone tid (t.onward (spec (t.rd tid)).len)) := by
  rw [threadOnly_done h hl hp hd, State.sysDone, State.modThread, hu]
  rfl

end ThreadOnly

/-- What ERET leaves in xSTAT: IE is PIE (R273). -/
theorem eretStat_eq (x : W32) : eretStat x = BitVec.ofNat 32 (x.toNat / 2 * 2 + (if x.getLsbD 1 then 1 else 0)) := by
  have hbit : bitOf x.toNat 1 = x.getLsbD 1 := by
    rw [BitVec.getLsbD, Nat.testBit_eq_decide_div_mod_eq]
    rfl
  rw [eretStat, hbit, b01]

section Calls

variable {s : State} {tid : Nat} {t : Thread} (h : s.AtThread tid t) {x : Op0} (hp : t.Passes (Spec.of x.m 1 false [] []))
include h hp

theorem exec_syscall_user (hl : t.lvl = 0) :
    exec (.syscall x) s = .next (s.trap tid ⟨1, 0, 1, t.pc + 4#64, 0#64, true⟩).pop := by
  change execSyscall x s = _
  unfold execSyscall
  exact threadOnly_trapped h (Nat.zero_le _) hp (if_neg (not_not.mpr hl))

theorem exec_syscall_above (hl : t.lvl ≠ 0) : exec (.syscall x) s = .next (s.threadFault tid 2 0) := by
  change execSyscall x s = _
  unfold execSyscall
  exact threadOnly_opnd h (Nat.zero_le _) hp (if_pos hl)

theorem exec_hvcall_below (hl : t.lvl < 2) :
    exec (.hvcall x) s = .next (s.trap tid ⟨2, 0, t.lvl + 1, t.pc + 4#64, 0#64, true⟩).pop := by
  change execHvcall x s = _
  unfold execHvcall
  exact threadOnly_trapped h (Nat.zero_le _) hp (if_neg (Nat.ne_of_lt hl))

theorem exec_hvcall_top (hl : t.lvl = 2) : exec (.hvcall x) s = .next (s.threadFault tid 2 0) := by
  change execHvcall x s = _
  unfold execHvcall
  exact threadOnly_opnd h (Nat.zero_le _) hp (if_pos hl)

theorem exec_eret_user (hl : t.lvl = 0) : exec (.eret x) s = .next (s.threadFault tid 2 0) := by
  change execEret x s = _
  unfold execEret
  exact threadOnly_opnd h (Nat.zero_le _) hp (if_pos hl)

/-- PL at or above the current level (R273). -/
theorem exec_eret_opnd (hpos : t.lvl ≠ 0) (hpl : t.lvl ≤ fieldOf (if t.lvl = 2 then t.h.stat else t.k.stat).toNat 2 2) :
    exec (.eret x) s = .next (s.threadFault tid 2 0) := by
  change execEret x s = _
  unfold execEret
  exact threadOnly_opnd h (Nat.zero_le _) hp ((if_neg hpos).trans (if_pos hpl))

theorem exec_eret_returns (hpos : t.lvl ≠ 0) (hpl : fieldOf (if t.lvl = 2 then t.h.stat else t.k.stat).toNat 2 2 < t.lvl) :
    exec (.eret x) s = .next (s.threadDone tid t.eret) := by
  change execEret x s = _
  unfold execEret
  exact threadOnly_jumps h (Nat.zero_le _) hp ((if_neg hpos).trans (if_neg (Nat.not_le.mpr hpl)))

theorem exec_wfi_pending (hpend : s.interruptPending tid = true) :
    exec (.wfi x) s = .next (s.threadDone tid (t.onward 1)) := by
  change execWfi x s = _
  unfold execWfi
  exact threadOnly_onward h (Nat.zero_le _) hp (by rw [if_pos hpend]) h.2

theorem exec_wfi_waits (hpend : s.interruptPending tid = false) :
    exec (.wfi x) s = .next (s.threadDone tid ({ t with wfi := true }.onward 1)) := by
  have hexec : exec (.wfi x) s = .next ((s.modThread tid fun t => { t with wfi := true }).sysDone tid 1) := by
    change execWfi x s = _
    unfold execWfi
    refine threadOnly_done h (Nat.zero_le _) hp ?_
    rw [hpend]
    rfl
  rw [hexec, State.sysDone, modThread_modThread]
  exact congrArg (fun y : Thread => Host.Outcome.next (s.putThread tid ({ y with wfi := true }.onward 1)).pop) h.2

theorem exec_tlbiAll (hl : 1 ≤ t.lvl) : exec (.tlbiAll x) s
    = .next ((s.tlbDrop fun e => e.part == s.partOfThread tid).threadDone tid (t.onward 1)) := by
  change execTlbiAll x s = _
  unfold execTlbiAll
  exact threadOnly_onward h hl hp rfl h.2

end Calls

section Invalidate

variable {s : State} {tid : Nat} {t : Thread} (h : s.AtThread tid t) {x : Op1}
  (hp : t.Passes (Spec.of x.m x.len false x.a.uCodes [])) (hl : 1 ≤ t.lvl)
include h hp hl

theorem exec_tlbiPage : exec (.tlbiPage x) s = .next ((s.tlbDrop fun e => e.part == s.partOfThread tid
    && e.root == t.ptroot.toNat && e.holds (vpnOf ((t.rd tid).uni x.a).toNat)).threadDone tid (t.onward x.len)) := by
  change execTlbiPage x s = _
  unfold execTlbiPage
  exact threadOnly_onward h hl hp rfl h.2

theorem exec_tlbiSpace : exec (.tlbiSpace x) s = .next ((s.tlbDrop fun e => e.part == s.partOfThread tid
    && e.root == ((t.rd tid).uni x.a).toNat).threadDone tid (t.onward x.len)) := by
  change execTlbiSpace x s = _
  unfold execTlbiSpace
  exact threadOnly_onward h hl hp rfl h.2

end Invalidate

/-- Settles O44: each instruction by its body; an ERET that returns does so from the level whose xSTAT names a lower one. -/
theorem callsReturnsAndWaits : Obligations.CallsReturnsAndWaits := by
  unfold Obligations.CallsReturnsAndWaits
  intro s tid t h
  refine ⟨fun x hp => ⟨exec_syscall_user h hp, exec_syscall_above h hp, exec_hvcall_below h hp, exec_hvcall_top h hp,
    exec_eret_user h hp, fun hl hpl => ?fromKernel, fun hl hpl => ?fromHypervisor, fun hl hpl => ?kernelOpnd,
    fun hl hpl => ?hypervisorOpnd, exec_wfi_pending h hp, exec_wfi_waits h hp, exec_tlbiAll h hp⟩,
    fun x hp hl => ⟨exec_tlbiPage h hp hl, exec_tlbiSpace h hp hl⟩⟩
  case fromKernel =>
    rw [exec_eret_returns h hp (by simp [hl]) (by simp [hl, hpl]), Thread.eret, if_neg (by simp [hl]), eretStat_eq, hpl]
  case fromHypervisor =>
    rw [exec_eret_returns h hp (by simp [hl]) (by simpa [hl] using hpl), Thread.eret, if_pos hl, eretStat_eq]
  case kernelOpnd => exact exec_eret_opnd h hp (by simp [hl]) (by simpa [hl] using hpl)
  case hypervisorOpnd => exact exec_eret_opnd h hp (by simp [hl]) (by simpa [hl] using hpl)

end Sys2Proof.Machine

namespace Sys2Proof.Machine

set_option Elab.async false

/-! ## O45: enclaves created, entered, left and destroyed (R280 to R282, R310, R312) -/

theorem Tbl.get?_mod_other {α : Type} (t : Table α) {n m : Nat} (f : α → α) (h : m ≠ n) :
    Tbl.get? (Tbl.mod t n f) m = Tbl.get? t m := by
  induction t with
  | nil => rfl
  | cons p r ih =>
    obtain ⟨k, v⟩ := p
    by_cases hk : k = n
    · subst hk
      simpa [Tbl.mod, Tbl.get?_cons, Ne.symm h] using ih
    · by_cases hkm : k = m
      · simp [Tbl.mod, Tbl.get?_cons, hkm, h]
      · simpa [Tbl.mod, Tbl.get?_cons, hk, hkm] using ih

theorem Tbl.le_free {α : Type} (t : Table α) (fuel n : Nat) : n ≤ Tbl.free t fuel n := by
  induction fuel generalizing n with
  | zero => exact le_rfl
  | succ fuel ih =>
    rw [Tbl.free]
    split
    · exact le_rfl
    · exact (Nat.le_succ n).trans (ih (n + 1))

/-- A number found before the tries run out is no key. -/
theorem Tbl.get?_free {α : Type} (t : Table α) (fuel n : Nat) (h : Tbl.free t fuel n < n + fuel) :
    Tbl.get? t (Tbl.free t fuel n) = none := by
  induction fuel generalizing n with
  | zero => exact absurd h (Nat.lt_irrefl _)
  | succ fuel ih =>
    rw [Tbl.free] at h ⊢
    cases hn : Tbl.get? t n with
    | none => exact hn
    | some _ =>
      rw [hn] at h
      exact ih (n + 1) (by dsimp only at h; omega)

theorem freeEid_spec {s : State} {eid : Nat} (h : s.freeEid = some eid) :
    1 ≤ eid ∧ eid < 65536 ∧ Tbl.get? s.hub.enclaves eid = none := by
  unfold State.freeEid at h
  dsimp only at h
  split at h
  next hlt =>
    obtain rfl := Option.some.inj h
    exact ⟨Tbl.le_free .., hlt, Tbl.get?_free _ _ _ (by omega)⟩
  next => cases h

/-! ### What leaves the enclaves as they are -/

theorem modGroup_enclaves (s : State) (gid : Nat) (f : Group → Group) : (s.modGroup gid f).hub.enclaves = s.hub.enclaves := by
  unfold State.modGroup
  split <;> rfl

theorem setBit_enclaves (s : State) (a bit : Nat) : (s.setBit a bit).hub.enclaves = s.hub.enclaves := by
  unfold State.setBit
  dsimp only
  split <;> rfl

theorem dirtyRing_enclaves (s : State) (page : Nat) : (s.dirtyRing page).hub.enclaves = s.hub.enclaves := by
  refine foldl_keeps (fun t => t.hub.enclaves) (fun t v => ?_) _ _
  dsimp only
  split
  · rfl
  · refine foldl_keeps (fun t => t.hub.enclaves) (fun r y => ?_) _ _
    split
    · split
      · exact setBit_enclaves ..
      · rfl
    · rfl

theorem scrubLines_enclaves (s : State) (a n : Nat) : (s.scrubLines a n).hub.enclaves = s.hub.enclaves := by
  unfold State.scrubLines
  split
  · refine foldl_keeps (fun t => t.hub.enclaves) (fun t line => ?_) _ _
    unfold State.scrubLine
    split
    · split <;> rfl
    · rfl
  · rfl

theorem clearPoison_enclaves (s : State) (a n : Nat) : (s.clearPoison a n).hub.enclaves = s.hub.enclaves := by
  unfold State.clearPoison
  dsimp only
  split <;> rfl

theorem wakeCounters_enclaves (s : State) (a n : Nat) : (s.wakeCounters a n).hub.enclaves = s.hub.enclaves := by
  unfold State.wakeCounters
  refine (foldl_keeps (fun t => t.hub.enclaves) (fun t x => ?_) _ _).trans
    ((foldl_keeps (fun t => t.hub.enclaves) (fun t x => ?_) _ _).trans
      (foldl_keeps (fun t => t.hub.enclaves) (fun t x => ?_) _ _))
  · rfl
  · rfl
  · exact modGroup_enclaves ..

theorem write_enclaves (s : State) (a : Nat) (bs : List Byte) : (s.write a bs).hub.enclaves = s.hub.enclaves := by
  unfold State.write
  split
  · rfl
  · rw [wakeCounters_enclaves, clearPoison_enclaves]
    exact (foldl_keeps (fun t => t.hub.enclaves) (fun t page => dirtyRing_enclaves t page) _ _).trans (scrubLines_enclaves ..)

theorem putPot_hub (s : State) (page : Nat) (e : Pot) : (s.putPot page e).hub = s.hub := rfl

theorem pokeNat_enclaves (s : State) (a n x : Nat) : (s.pokeNat a n x).hub.enclaves = s.hub.enclaves := rfl

theorem bindQueue_enclaves (s : State) (eid sketch q : Nat) : (s.bindQueue eid sketch q).hub.enclaves = s.hub.enclaves := rfl

theorem installKeys_enclaves (s : State) : s.installKeys.hub.enclaves = s.hub.enclaves := rfl

theorem unbindQueue_enclaves (s : State) (q : Nat) : (s.unbindQueue q).hub.enclaves = s.hub.enclaves := by
  obtain ⟨_, hasks⟩ := recheckSpawns_asks { s with
    simt := { s.simt.split q false with ctxs := Tbl.del s.simt.ctxs q }
    hub := { s.hub with queues := Tbl.del s.hub.queues q, traceQ := Tbl.del s.hub.traceQ q } }
  unfold State.unbindQueue
  rw [hasks]

/-! ### One enclave's page tables and map -/

/-- What an enclave keeps while its pages come and go. -/
def Enclave.fixed (e : Enclave) : Enclave := { e with map := [], tables := [] }

/-- At most the map and the tables of one enclave differ. -/
structure State.MapsFor (eid : Nat) (s t : State) : Prop where
  other : ∀ k, k ≠ eid → Tbl.get? t.hub.enclaves k = Tbl.get? s.hub.enclaves k
  same : (Tbl.get? t.hub.enclaves eid).map Enclave.fixed = (Tbl.get? s.hub.enclaves eid).map Enclave.fixed

namespace State.MapsFor

variable {eid : Nat}

theorem of_eq {s t : State} (h : t.hub.enclaves = s.hub.enclaves) : s.MapsFor eid t := by
  constructor <;> simp [h]

theorem trans {s t u : State} (h : s.MapsFor eid t) (k : t.MapsFor eid u) : s.MapsFor eid u :=
  ⟨fun n hn => (k.other n hn).trans (h.other n hn), k.same.trans h.same⟩

theorem trans_eq {s t u : State} (h : s.MapsFor eid t) (k : u.hub.enclaves = t.hub.enclaves) : s.MapsFor eid u := h.trans (of_eq k)

theorem eq_trans {s t u : State} (k : t.hub.enclaves = s.hub.enclaves) (h : t.MapsFor eid u) : s.MapsFor eid u := (of_eq k).trans h

theorem foldl {α : Type} {f : State → α → State} (h : ∀ (t : State) (a : α), t.MapsFor eid (f t a)) (l : List α) (s : State) :
    s.MapsFor eid (l.foldl f s) :=
  List.foldlRecOn (motive := fun t : State => s.MapsFor eid t) l f (of_eq rfl) fun t ht a _ => ht.trans (h t a)

theorem modEnclave (s : State) {f : Enclave → Enclave} (hf : ∀ e, (f e).fixed = e.fixed := by intro; rfl) :
    s.MapsFor eid (s.modEnclave eid f) := by
  refine ⟨fun k hk => Tbl.get?_mod_other _ _ hk, ?_⟩
  change (Tbl.get? (Tbl.mod s.hub.enclaves eid f) eid).map Enclave.fixed = _
  rw [Tbl.get?_mod_same, Option.map_map]
  exact congrArg (fun k => (Tbl.get? s.hub.enclaves eid).map k) (funext hf)

theorem growTable (s : State) (vpn level : Nat) : s.MapsFor eid (s.growTable eid vpn level) := by
  unfold State.growTable
  split
  · exact of_eq rfl
  · split
    · exact of_eq rfl
    · dsimp only
      split
      · refine trans_eq (eq_trans ?_ (modEnclave _)) (pokeNat_enclaves ..)
        rw [putPot_hub, poke_hub, modStore_hub]
      · refine eq_trans ?_ (modEnclave _)
        rw [putPot_hub, poke_hub, modStore_hub]

theorem growTables (s : State) (vpn : Nat) : s.MapsFor eid (s.growTables eid vpn) := by
  unfold State.growTables
  split
  · exact of_eq rfl
  · exact foldl (fun t l => growTable t vpn l) _ _

theorem mapLeaf (s : State) (vpn : Nat) (l : Option EncLeaf) : s.MapsFor eid (s.mapLeaf eid vpn l) := by
  unfold State.mapLeaf
  dsimp only
  split
  · exact trans_eq (modEnclave s) (pokeNat_enclaves ..)
  · exact modEnclave s

end State.MapsFor

/-! ### ECREATE (R280, R310, R312) -/

theorem measure_freshKey (s : State) (d : List Byte) (es : List PageEntry) : s.freshKey.2.measure d es = s.measure d es := rfl

/-- The enclave that ECREATE enters, before its pages are mapped, in the state whose two fresh keys are drawn. -/
def State.newEnclave (s : State) (part slot : Nat) (d : List Byte) (es : List PageEntry) (sk mem : Nat) : Enclave where
  part := part
  threads := fieldAt d 0 2
  tcps := ((pagesFor (fieldAt d 0x10 8) 0 es).filter fun x => x.1.tcp).map fun x => 4096 * x.2
  entry := fieldAt d 0x18 8
  policy := fieldAt d 0x20 4
  sketch := fieldAt d 0x24 4
  dumpKey := (d.drop 0x28).take 32
  descr := d
  keySlot := slot
  sealKey := sk
  measurement := s.measure d es
  map := []
  queues := (List.range (fieldAt d 2 2)).map fun i => queueBase (fieldAt d 0x10 8) + i
  birth := s.time part
  memKey := mem
  tables := []

/-- The state in which the new enclave's pages are mapped. -/
def State.withNewEnclave (s : State) (part eid slot : Nat) (d : List Byte) (es : List PageEntry) : State :=
  s.freshKey.2.freshKey.2.modHub fun h => { h with
    enclaves := Tbl.put h.enclaves eid
      (s.freshKey.2.freshKey.2.newEnclave part slot d es s.freshKey.1 s.freshKey.2.freshKey.1)
    keySlotsUsed := slot :: h.keySlotsUsed }

theorem makeEnclave_mapsFor (s : State) (part eid slot : Nat) (d : List Byte) (es : List PageEntry) :
    (s.withNewEnclave part eid slot d es).MapsFor eid (s.makeEnclave part eid slot d es) := by
  unfold State.makeEnclave
  dsimp only
  refine .trans_eq ?_ (installKeys_enclaves _)
  refine .trans_eq ?_ (foldl_keeps (fun t => t.hub.enclaves) (fun t q => bindQueue_enclaves ..) _ _)
  refine .trans_eq ?_ (foldl_keeps (fun t => t.hub.enclaves) (fun t a => write_enclaves ..) _ _)
  refine .foldl (fun t x => ?_) _ _
  have hpage (link : Nat) : t.MapsFor eid (if x.1.kick = true then (t.dropHost x.2).putPot x.2
        ⟨potKick, eid, 0, x.1.attr % 64, ((t.dropHost x.2).potOf x.2).version, 0, 0⟩
      else (t.dropHost x.2).putPot x.2 ⟨potOwned, eid, 0, x.1.attr % 64, ((t.dropHost x.2).potOf x.2).version, link, 0⟩) := by
    split <;> exact .of_eq rfl
  split
  · exact ((hpage _).trans (.growTables ..)).trans (.mapLeaf ..)
  · exact hpage _

/-- A created enclave, and the others as they were. -/
theorem makeEnclave_enclaves (s : State) (part eid slot : Nat) (d : List Byte) (es : List PageEntry) :
    (∃ e, Tbl.get? (s.makeEnclave part eid slot d es).hub.enclaves eid = some e ∧ e.part = part ∧ e.threads = fieldAt d 0 2
      ∧ e.descr = d ∧ e.measurement = s.measure d es)
    ∧ ∀ k, k ≠ eid → Tbl.get? (s.makeEnclave part eid slot d es).hub.enclaves k = Tbl.get? s.hub.enclaves k := by
  obtain ⟨hother, hsame⟩ := makeEnclave_mapsFor s part eid slot d es
  have hput : (s.withNewEnclave part eid slot d es).hub.enclaves = Tbl.put s.hub.enclaves eid _ := rfl
  refine ⟨?_, fun k hk => by rw [hother k hk, hput, Tbl.get?_put_other _ _ hk]⟩
  rw [hput, Tbl.get?_put_same] at hsame
  obtain ⟨e, he, hfixed⟩ := Option.map_eq_some_iff.mp hsame
  refine ⟨e, he, congrArg Enclave.part hfixed, congrArg Enclave.threads hfixed, congrArg Enclave.descr hfixed, ?_⟩
  exact (congrArg Enclave.measurement hfixed).trans ((measure_freshKey _ d es).trans (measure_freshKey s d es))

/-- A success of ECREATE's checks: the number was free, and the moves are made. -/
theorem createEnclave_ok {s u : State} {part eid : Nat} {d : List Byte} (h : s.createEnclave part d = .ok (eid, u)) :
    s.freeEid = some eid ∧ ∃ slot, u = s.makeEnclave part eid slot d (s.pageList part (fieldAt d 8 8) (fieldAt d 4 4)) := by
  unfold State.createEnclave at h
  dsimp only at h
  split at h
  · cases h
  split at h
  · cases h
  split at h
  · cases h
  split at h
  · cases h
  split at h
  · cases h
  split at h
  · cases h
  split at h
  · cases h
  next eid' hfree =>
    split at h
    · cases h
    next slot _ =>
      split at h
      · cases h
      obtain ⟨rfl, rfl⟩ := Prod.mk.inj (Except.ok.inj h)
      exact ⟨hfree, slot, rfl⟩

section Create

variable {s : State} {tid : Nat} {t : Thread} (h : s.AtThread tid t) (hl : 1 ≤ t.lvl) {x : Rr} {d : List Byte}
  (hp : t.Passes (Spec.of x.m 1 false [codeG x.a] [codeG x.d])) (hrec : s.record tid ((t.rd tid).g x.a).toNat 256 = .ok d)
  (hgood : s.createBad (s.partOfThread tid) d = none)
include h hl hp hrec hgood

theorem exec_ecreate_fails {r : Nat} (hr : s.createEnclave (s.partOfThread tid) d = .error r) :
    exec (.ecreate x) s = .next ((s.fail tid x.d r).sysDone tid 1) := by
  change execEcreate x s = _
  unfold execEcreate
  refine threadOnly_done h hl hp ?_
  simp only [hrec, hgood, hr]

theorem exec_ecreate {eid : Nat} {u : State} (hr : s.createEnclave (s.partOfThread tid) d = .ok (eid, u)) :
    exec (.ecreate x) s = .next ((u.setG tid x.d (BitVec.ofNat 64 eid)).sysDone tid 1) := by
  change execEcreate x s = _
  unfold execEcreate
  refine threadOnly_done h hl hp ?_
  simp only [hrec, hgood, hr]

end Create

/-! ### EENTER (R281) -/

section Enter

variable {s : State} {tid : Nat} {t : Thread} (h : s.AtThread tid t) {x : Rrr} (hhost : t.eid = 0)
  (hp : t.Passes (Spec.of x.m 1 false [codeG x.a, codeG x.c] [codeG x.d]))
include h hhost hp

theorem exec_eenter_badEid (hnone : ∀ e, Tbl.get? s.hub.enclaves ((t.rd tid).g x.a).toNat = some e →
      e.part ≠ s.partOfThread tid ∨ e.threads ≤ ((t.rd tid).g x.c).toNat) :
    exec (.eenter x) s = .next ((s.fail tid x.d stBadEid).sysDone tid 1) := by
  have hfilter : ((Tbl.get? s.hub.enclaves ((t.rd tid).g x.a).toNat).filter fun e =>
      e.part == s.partOfThread tid && decide (((t.rd tid).g x.c).toNat < e.threads)) = none := by
    rw [Option.filter_eq_none_iff]
    intro e he
    rcases hnone e he with hpart | hthreads
    · simp [hpart]
    · simp [Nat.not_lt.mpr hthreads]
  change execEenter x s = _
  unfold execEenter
  refine threadOnly_done h (Nat.zero_le _) hp ?_
  simp only [hfilter, hhost, ne_eq, not_true_eq_false, if_false]

variable {e : Enclave} {pa : Nat} (he : Tbl.get? s.hub.enclaves ((t.rd tid).g x.a).toNat = some e)
  (hpart : e.part = s.partOfThread tid) (hthreads : ((t.rd tid).g x.c).toNat < e.threads)
  (htcp : s.tcpAt ((t.rd tid).g x.a).toNat ((t.rd tid).g x.c).toNat = some pa) (hread : s.readBad pa 0x248 = none)
include he hpart hthreads htcp hread

omit h hhost hp htcp hread in
theorem enclave_found : ((Tbl.get? s.hub.enclaves ((t.rd tid).g x.a).toNat).filter fun e =>
    e.part == s.partOfThread tid && decide (((t.rd tid).g x.c).toNat < e.threads)) = some e := by
  rw [he, Option.filter_some, if_pos (by simp [hpart, hthreads])]

theorem exec_eenter_busy (hbusy : s.peek pa 4 = 1) :
    exec (.eenter x) s = .next ((s.fail tid x.d stBusy).sysDone tid 1) := by
  change execEenter x s = _
  unfold execEenter
  refine threadOnly_done h (Nat.zero_le _) hp ?_
  simp only [enclave_found he hpart hthreads, hhost, htcp, hread, if_pos hbusy, ne_eq, not_true_eq_false, if_false]

theorem exec_eenter (hfree : s.peek pa 4 ≠ 1) : exec (.eenter x) s = .next (((s.write pa (leBytes 4 1)).putThread tid
    (s.enterThread t ((t.rd tid).g x.a).toNat ((t.rd tid).g x.c).toNat pa 1 e.entry))).pop := by
  change execEenter x s = _
  unfold execEenter
  rw [threadOnly_next h (Nat.zero_le _) hp (s' := (s.write pa (leBytes 4 1)).putThread tid
    (s.enterThread t ((t.rd tid).g x.a).toNat ((t.rd tid).g x.c).toNat pa 1 e.entry))
    (next := some (s.enterThread t ((t.rd tid).g x.a).toNat ((t.rd tid).g x.c).toNat pa 1 e.entry).pc)
    (by simp only [enclave_found he hpart hthreads, hhost, htcp, hread, if_neg hfree, ne_eq, not_true_eq_false, if_false])]
  rw [State.modThread, thread_putThread_same, putThread_putThread]
  rfl

end Enter

/-- What the thread inside is, whatever its control page holds. -/
theorem enterThread_inside (s : State) (t : Thread) (eid i pa entry : Nat) :
    (s.enterThread t eid i pa 1 entry).lvl = 0 ∧ (s.enterThread t eid i pa 1 entry).eid = eid
      ∧ (s.enterThread t eid i pa 1 entry).encRet = t.pc + 4#64 ∧ (s.enterThread t eid i pa 1 entry).encLvl = t.lvl := by
  unfold State.enterThread
  dsimp only
  split <;> exact ⟨rfl, rfl, rfl, rfl⟩

theorem enterThread_entry {s : State} {pa : Nat} (hfree : s.peek pa 4 = 0) (t : Thread) (eid i entry : Nat) :
    (s.enterThread t eid i pa 1 entry).pc = BitVec.ofNat 64 entry := by
  unfold State.enterThread
  rw [if_pos hfree]

/-! ### EEXIT and EDESTROY (R282) -/

theorem exec_eexit_host {s : State} {tid : Nat} {t : Thread} (h : s.AtThread tid t) {x : Op0}
    (hp : t.Passes (Spec.of x.m 1 false [] [])) (hhost : t.eid = 0) : exec (.eexit x) s = .next (s.threadFault tid 2 0) := by
  change execEexit x s = _
  unfold execEexit
  exact threadOnly_opnd h (Nat.zero_le _) hp (if_pos hhost)

theorem exec_eexit {s : State} {tid : Nat} {t : Thread} (h : s.AtThread tid t) {x : Op0}
    (hp : t.Passes (Spec.of x.m 1 false [] [])) (heid : t.eid ≠ 0) :
    exec (.eexit x) s = .next (s.trap tid ⟨4, 0, 1, t.pc + 4#64, 0#64, true⟩).pop := by
  change execEexit x s = _
  unfold execEexit
  exact threadOnly_trapped h (Nat.zero_le _) hp (if_neg heid)

/-- A system instruction that answers a status, from any level that it may be used at. -/
theorem sysOp_next {s : State} {tid : Nat} {t : Thread} (h : s.AtThread tid t) {level : Nat} (hl : level ≤ t.lvl) {m : Marks}
    {len d : Nat} {bad : Bool} {srcs : List Nat} {body : Nat → Thread → Rd → Except (Nat × Nat) Sys} {r : Sys}
    (hp : t.Passes (Spec.of m len bad srcs [codeG d])) (hr : body tid t (t.rd tid) = .ok r) :
    sysOp s level m len d bad srcs body = .next ((s.answer tid d r).sysDone tid len) := by
  refine threadOnly_done h hl hp ?_
  simp only [hr]

section Destroy

variable {s : State} {tid : Nat} {t : Thread} (h : s.AtThread tid t) (hl : 1 ≤ t.lvl) {x : Rr}
  (hp : t.Passes (Spec.of x.m 1 false [codeG x.a] [codeG x.d]))
include h hl hp

theorem exec_edestroy_badEid (hnone : ∀ e, Tbl.get? s.hub.enclaves ((t.rd tid).g x.a).toNat = some e → e.part ≠ s.partOfThread tid) :
    exec (.edestroy x) s = .next ((s.fail tid x.d stBadEid).sysDone tid 1) := by
  have hfilter : ((Tbl.get? s.hub.enclaves ((t.rd tid).g x.a).toNat).filter fun e => e.part == s.partOfThread tid) = none := by
    rw [Option.filter_eq_none_iff]
    intro e he
    simp [hnone e he]
  change execEdestroy x s = _
  unfold execEdestroy
  refine sysOp_next h hl hp (r := .error stBadEid) ?_
  simp only [hfilter]

variable {e : Enclave} (he : Tbl.get? s.hub.enclaves ((t.rd tid).g x.a).toNat = some e) (hpart : e.part = s.partOfThread tid)
include he hpart

theorem exec_edestroy_busy (hbusy : (s.hub.threads.any (fun y => y.2.running && y.2.eid == ((t.rd tid).g x.a).toNat)
      || e.queues.any s.ctxHolds) = true) :
    exec (.edestroy x) s = .next ((s.fail tid x.d stBusy).sysDone tid 1) := by
  change execEdestroy x s = _
  unfold execEdestroy
  refine sysOp_next h hl hp (r := .error stBusy) ?_
  simp only [he, Option.filter_some, hpart, beq_self_eq_true, if_true, hbusy]

theorem exec_edestroy (hidle : (s.hub.threads.any (fun y => y.2.running && y.2.eid == ((t.rd tid).g x.a).toNat)
      || e.queues.any s.ctxHolds) = false) :
    exec (.edestroy x) s
      = .next (((s.destroyEnclave ((t.rd tid).g x.a).toNat e).setG tid x.d 0#64).sysDone tid 1) := by
  change execEdestroy x s = _
  unfold execEdestroy
  refine sysOp_next h hl hp (r := .ok (s.destroyEnclave ((t.rd tid).g x.a).toNat e)) ?_
  simp only [he, Option.filter_some, hpart, beq_self_eq_true, if_true, hidle, Bool.false_eq_true, if_false]

end Destroy

theorem destroyEnclave_gone (s : State) (eid : Nat) (e : Enclave) : Tbl.get? (s.destroyEnclave eid e).hub.enclaves eid = none := by
  unfold State.destroyEnclave
  rw [installKeys_enclaves, foldl_keeps (fun t => t.hub.enclaves) (fun t q => unbindQueue_enclaves t q)]
  exact Tbl.get?_del_same ..

/-- Settles O45: each instruction by its body; the enclaves before and after by what creation and destruction leave. -/
theorem enclaveInstructions : Obligations.EnclaveInstructions := by
  unfold Obligations.EnclaveInstructions
  intro s tid t h
  refine ⟨fun x d hl hp hrec hgood => ⟨fun r => exec_ecreate_fails h hl hp hrec hgood, fun eid u hr => ?created⟩,
    fun x e pa hhost hp he hpart hthreads htcp hread => ⟨fun hfree => ?entered,
      exec_eenter_busy h hhost hp he hpart hthreads htcp hread⟩,
    fun x hhost hp => exec_eenter_badEid h hhost hp, fun x hp => ⟨exec_eexit_host h hp, exec_eexit h hp⟩,
    fun x hl hp => exec_edestroy_badEid h hl hp,
    fun x e hl hp he hpart => ⟨exec_edestroy_busy h hl hp he hpart,
      fun hidle => ⟨exec_edestroy h hl hp he hpart hidle, destroyEnclave_gone ..⟩⟩⟩
  case created =>
    obtain ⟨hfree, slot, rfl⟩ := createEnclave_ok hr
    obtain ⟨hpos, hlt, hnone⟩ := freeEid_spec hfree
    exact ⟨exec_ecreate h hl hp hrec hgood hr, hpos, hlt, hnone, makeEnclave_enclaves ..⟩
  case entered =>
    obtain ⟨hlvl, heid, hret, hencLvl⟩ := enterThread_inside s t ((t.rd tid).g x.a).toNat ((t.rd tid).g x.c).toNat pa e.entry
    refine ⟨_, exec_eenter h hhost hp he hpart hthreads htcp hread hfree, ?_⟩
    rw [thread_pop, thread_putThread_same]
    exact ⟨rfl, hlvl, heid, hret, hencLvl, fun hclear => enterThread_entry hclear .., rfl⟩

end Sys2Proof.Machine

namespace Sys2Proof.Machine

set_option Elab.async false

/-! ## O46: pages given to enclaves, taken from them, sealed and unsealed (R283, R285, R315, R316, R325) -/

/-! ### A page's entry -/

/-- The entry of a page is listed. -/
def State.HasPot (s : State) (page : Nat) (e : Pot) : Prop := Tbl.get? s.store.pot page = some e

namespace State.HasPot

variable {s : State} {page : Nat} {e : Pot}

theorem potOf (h : s.HasPot page e) : s.potOf page = e := by
  unfold State.HasPot at h
  rw [State.potOf, Tbl.getD, h]
  rfl

theorem of_eq {t : State} (h : s.HasPot page e) (k : t.store.pot = s.store.pot) : t.HasPot page e := by
  unfold State.HasPot at h ⊢
  rw [k, h]

theorem foldl {α : Type} {f : State → α → State} (hf : ∀ (t : State) (a : α), t.HasPot page e → (f t a).HasPot page e)
    (l : List α) (h : s.HasPot page e) : (l.foldl f s).HasPot page e :=
  List.foldlRecOn (motive := fun t : State => t.HasPot page e) l f h fun t ht a _ => hf t a ht

theorem putPot_same (s : State) (page : Nat) (e : Pot) : (s.putPot page e).HasPot page e := Tbl.get?_put_same ..

theorem putPot_other (h : s.HasPot page e) {p : Nat} (hp : page ≠ p) (x : Pot) : (s.putPot p x).HasPot page e :=
  (Tbl.get?_put_other _ _ hp).trans h

end State.HasPot

theorem modEnclave_pot (s : State) (eid : Nat) (f : Enclave → Enclave) : (s.modEnclave eid f).store.pot = s.store.pot := rfl

theorem pokeNat_pot (s : State) (a n x : Nat) : (s.pokeNat a n x).store.pot = s.store.pot := rfl

theorem mapLeaf_pot (s : State) (eid vpn : Nat) (l : Option EncLeaf) : (s.mapLeaf eid vpn l).store.pot = s.store.pot := by
  unfold State.mapLeaf
  dsimp only
  split
  · rw [pokeNat_pot, modEnclave_pot]
  · rw [modEnclave_pot]

/-! ### Tables take free pages only (R393) -/

theorem poolFrom_free {s : State} {d n i p : Nat} (h : s.poolFrom d n i = some p) : s.tableFree p = true := by
  induction n generalizing i with
  | zero => cases h
  | succ n ih =>
    rw [State.poolFrom] at h
    split at h
    next hfree => exact Option.some.inj h ▸ hfree
    next => exact ih h

theorem poolPage_free {s : State} {part p : Nat} (h : s.poolPage part = some p) : s.tableFree p = true := by
  obtain ⟨d, _, hd⟩ := List.exists_of_findSome?_eq_some h
  exact poolFrom_free hd

namespace State.HasPot

variable {s : State} {page : Nat} {e : Pot} (h : s.HasPot page e) (hmeta : e.state ≠ potMeta) (hfree : e.state ≠ potFree)
include h hmeta hfree

theorem ne_of_tableFree {p : Nat} (hp : s.tableFree p = true) : page ≠ p := by
  rintro rfl
  simp [State.tableFree, h.potOf, hmeta, hfree] at hp

theorem growTable (eid vpn level : Nat) : (s.growTable eid vpn level).HasPot page e := by
  unfold State.growTable
  split
  · exact h
  · split
    · exact h
    next p hp =>
      dsimp only
      generalize hpoke : State.poke (s.modStore _) _ _ = u
      have hu : u.store.pot = s.store.pot := by
        rw [← hpoke, poke_store_pot]
        rfl
      have hput (x : Pot) : (u.putPot p x).HasPot page e :=
        (h.of_eq hu).putPot_other (h.ne_of_tableFree hmeta hfree (poolPage_free hp)) x
      split
      · exact ((hput _).of_eq (modEnclave_pot ..)).of_eq (pokeNat_pot ..)
      · exact (hput _).of_eq (modEnclave_pot ..)

theorem growTables (eid vpn : Nat) : (s.growTables eid vpn).HasPot page e := by
  unfold State.growTables
  split
  · exact h
  · exact h.foldl (fun t l ht => ht.growTable hmeta hfree eid vpn l) _

end State.HasPot

/-! ### Writes leave the entries of pages that are not being scrubbed (R316) -/

theorem modGroup_store (s : State) (gid : Nat) (f : Group → Group) : (s.modGroup gid f).store = s.store := by
  unfold State.modGroup
  split <;> rfl

theorem setBit_pot (s : State) (a bit : Nat) : (s.setBit a bit).store.pot = s.store.pot := by
  unfold State.setBit
  dsimp only
  split <;> rfl

theorem dirtyRing_pot (s : State) (page : Nat) : (s.dirtyRing page).store.pot = s.store.pot := by
  refine foldl_keeps (fun t => t.store.pot) (fun t v => ?_) _ _
  obtain ⟨_, f⟩ := v
  dsimp only
  split
  · rfl
  · refine foldl_keeps (fun t => t.store.pot) (fun r y => ?_) _ _
    obtain ⟨q, x⟩ := y
    dsimp only
    split
    · split
      · exact setBit_pot ..
      · rfl
    · rfl

theorem clearPoison_pot (s : State) (a n : Nat) : (s.clearPoison a n).store.pot = s.store.pot := by
  unfold State.clearPoison
  dsimp only
  split <;> rfl

theorem wakeCounters_store (s : State) (a n : Nat) : (s.wakeCounters a n).store = s.store := by
  unfold State.wakeCounters
  refine (foldl_keeps State.store (fun t x => ?_) _ _).trans
    ((foldl_keeps State.store (fun t x => ?_) _ _).trans (foldl_keeps State.store (fun t x => ?_) _ _))
  · rfl
  · rfl
  · exact modGroup_store ..

namespace State.HasPot

variable {s : State} {page : Nat} {e : Pot} (h : s.HasPot page e) (hscrub : e.state ≠ potScrub)
include h hscrub

theorem scrubLine (line : Nat) : (s.scrubLine line).HasPot page e := by
  unfold State.scrubLine
  split
  next x hx =>
    split
    next hstate =>
      refine h.putPot_other ?_ _
      rintro rfl
      obtain rfl : x = e := Option.some.inj (hx.symm.trans h)
      exact hscrub hstate.1
    next => exact h
  next => exact h

theorem scrubLines (a n : Nat) : (s.scrubLines a n).HasPot page e := by
  unfold State.scrubLines
  split
  · exact h.foldl (fun t l ht => ht.scrubLine hscrub l) _
  · exact h

theorem write (a : Nat) (bs : List Byte) : (s.write a bs).HasPot page e := by
  unfold State.write
  split
  · exact h
  · refine of_eq ?_ (congrArg MemSide.pot (wakeCounters_store ..))
    refine of_eq ?_ (clearPoison_pot ..)
    refine of_eq ?_ (poke_store_pot ..)
    exact of_eq (h.scrubLines hscrub a bs.length) (foldl_keeps (fun t => t.store.pot) dirtyRing_pot _ _)

omit h in
theorem bufWrite (buf : List Xlat) (bs : List Byte) (h : s.HasPot page e) : (s.bufWrite buf bs).HasPot page e := by
  induction buf generalizing s bs with
  | nil => exact h
  | cons x r ih => exact ih _ (h.write hscrub _ _)

end State.HasPot

/-! ### SCRUB (R316) -/

theorem enterScrub_hasPot (s : State) (page next owner attr link : Nat) :
    ∃ v, (s.enterScrub page next owner attr link).HasPot page ⟨potScrub, owner, next, attr, v, link, 0⟩ :=
  ⟨_, Tbl.get?_put_same ..⟩

theorem memByte_of_page_gone (m : List Host.Cell) {a page : Nat} (ha : a / 4096 = page) :
    memByte (m.filter fun c => c.1 / 4096 != page) a = 0#8 := by
  have hnone : Tbl.get? (m.filter fun c => c.1 / 4096 != page) a = none := by
    refine Option.eq_none_iff_forall_not_mem.mpr fun v hv => ?_
    simpa [ha] using (List.mem_filter.mp (Tbl.mem_of_get? hv)).2
  rw [memByte, Tbl.fget, hnone]
  rfl

theorem enterScrub_peek (s : State) {page a : Nat} (next owner attr link : Nat) (ha : a / 4096 = page) :
    (s.enterScrub page next owner attr link).peek a 1 = 0 := by
  have hbyte : memByte (s.enterScrub page next owner attr link).store.mem a = 0#8 := memByte_of_page_gone _ ha
  rw [State.peek, memBytes, memBytes, hbyte]
  rfl

/-! ### PGASSIGN (R283) -/

/-- A system instruction that succeeds. -/
theorem sysOp_ok {s u : State} {tid : Nat} {t : Thread} (h : s.AtThread tid t) {level : Nat} (hl : level ≤ t.lvl) {m : Marks}
    {len d : Nat} {bad : Bool} {srcs : List Nat} {body : Nat → Thread → Rd → Except (Nat × Nat) Sys}
    (hp : t.Passes (Spec.of m len bad srcs [codeG d])) (hr : body tid t (t.rd tid) = .ok (.ok u)) :
    sysOp s level m len d bad srcs body = .next ((u.setG tid d 0#64).sysDone tid len) := sysOp_next h hl hp hr

/-- A page given to an enclave is the enclave's, and in SCRUB unless it is shared as it stands. -/
theorem assignTo_pot (s : State) {page eid new attr vpn : Nat} {scrub : Bool} (hnew : scrub = false → new = potShared) :
    ((s.assignTo page eid new attr vpn scrub).potOf page).owner = eid
      ∧ ((s.assignTo page eid new attr vpn scrub).potOf page).state = (if scrub then potScrub else potShared) := by
  obtain ⟨x, hx, howner, hstate⟩ : ∃ x : Pot, (if scrub then (s.dropHost page).enterScrub page new eid attr vpn
      else (s.dropHost page).putPot page ⟨new, eid, 0, attr, ((s.dropHost page).potOf page).version, vpn, 0⟩).HasPot page x
      ∧ x.owner = eid ∧ x.state = (if scrub then potScrub else potShared) := by
    cases scrub with
    | false => exact ⟨_, .putPot_same .., rfl, hnew rfl⟩
    | true =>
      obtain ⟨v, hv⟩ := enterScrub_hasPot (s.dropHost page) page new eid attr vpn
      exact ⟨_, hv, rfl, rfl⟩
  have hmeta : x.state ≠ potMeta := by rw [hstate]; split <;> decide
  have hfree : x.state ≠ potFree := by rw [hstate]; split <;> decide
  have hpot : (s.assignTo page eid new attr vpn scrub).HasPot page x :=
    (hx.growTables hmeta hfree eid vpn).of_eq (mapLeaf_pot ..)
  rw [hpot.potOf]
  exact ⟨howner, hstate⟩

section AssignPage

variable {s : State} {part pa gc : Nat} {va : W64} {ctl : PgaCtl}

theorem assignPage_badAddress (h : pa % 4096 ≠ 0) : s.assignPage part pa gc va ctl = .error stBadDesc := by
  simp [State.assignPage, h]

variable (hpa : pa % 4096 = 0) (hgc : gc < 65536) (hkick : inKick pa = false) (hmem : s.inPartMem part pa = true)
include hpa hgc hkick hmem

theorem assignPage_enclave {e : Enclave} (hnew : ctl.new = potOwned ∨ ctl.new = potShared) (hva : va.toNat % 4096 = 0)
    (hcanon : canonical va.toNat = true) (he : Tbl.get? s.hub.enclaves gc = some e) (hpart : e.part = part)
    (hstate : (s.potOf (pa / 4096)).state = potHost ∨ (s.potOf (pa / 4096)).state = potFree)
    (hfreeVa : Tbl.get? e.map (vpnOf va.toNat) = none)
    (hroom : s.poolFull part (s.poolTaken part (pa / 4096) e (vpnOf va.toNat)) = false) :
    s.assignPage part pa gc va ctl = .ok (s.assignTo (pa / 4096) gc ctl.new (b01 ctl.r + 2 * b01 ctl.w) (vpnOf va.toNat)
      (!((s.potOf (pa / 4096)).state == potHost && ctl.new == potShared))) := by
  have hstate' : ((s.potOf (pa / 4096)).state == potFree || (s.potOf (pa / 4096)).state == potHost) = true := by
    rcases hstate with h | h <;> simp [h]
  have hgc' : ¬ 65536 ≤ gc := Nat.not_le.mpr hgc
  unfold State.assignPage
  simp only [he, Option.filter_some, hpart, beq_self_eq_true, if_true, hstate', hfreeVa, hroom]
  simp [hpa, hgc', hkick, hmem, hnew, hva, hcanon]

omit hgc
variable (howned : ctl.new ≠ potOwned) (hshared : ctl.new ≠ potShared) (hzero : gc = 0)
include howned hshared hzero

theorem assignPage_unowned (hstate : (s.potOf (pa / 4096)).state = potFree ∨ (s.potOf (pa / 4096)).state = potHost) :
    s.assignPage part pa gc va ctl = .ok ((s.dropHost (pa / 4096)).leavePot (pa / 4096) ctl.new) := by
  unfold State.assignPage
  simp [hpa, hkick, hmem, howned, hshared, hzero, hstate]

theorem assignPage_scrubbed (hstate : (s.potOf (pa / 4096)).state = potOwned ∨ (s.potOf (pa / 4096)).state = potSealed) :
    s.assignPage part pa gc va ctl
      = .ok (((s.shootPage (pa / 4096)).unmapPage (pa / 4096)).enterScrub (pa / 4096) ctl.new 0 0 0) := by
  have hother : ¬((s.potOf (pa / 4096)).state = potFree ∨ (s.potOf (pa / 4096)).state = potHost) := by
    rcases hstate with h | h <;> rw [h] <;> decide
  unfold State.assignPage
  simp [hpa, hkick, hmem, howned, hshared, hzero, hstate, hother]

theorem assignPage_unshared (hstate : (s.potOf (pa / 4096)).state = potShared) :
    s.assignPage part pa gc va ctl
      = .ok (((s.shootPage (pa / 4096)).unmapPage (pa / 4096)).leavePot (pa / 4096) ctl.new) := by
  have hfree : ¬(potShared = potFree ∨ potShared = potHost) := by decide
  have howned' : ¬(potShared = potOwned ∨ potShared = potSealed) := by decide
  unfold State.assignPage
  simp [hpa, hkick, hmem, howned, hshared, hzero, hstate, hfree, howned']

end AssignPage

theorem exec_pgassign {s : State} {tid : Nat} {t : Thread} (h : s.AtThread tid t) (hl : 1 ≤ t.lvl) {x : PgaI}
    (hp : t.Passes (Spec.of x.m 2 false ([codeG x.a, codeG x.c]
      ++ if x.ctl.new = potOwned ∨ x.ctl.new = potShared then [codeG x.ctl.va] else []) [codeG x.d])) {r : Sys}
    (hr : s.assignPage (s.partOfThread tid) ((t.rd tid).g x.a).toNat ((t.rd tid).g x.c).toNat ((t.rd tid).g x.ctl.va) x.ctl = r) :
    exec (.pgassign x) s = .next ((s.answer tid x.d r).sysDone tid 2) := by
  change execPgassign x s = _
  unfold execPgassign
  exact sysOp_next h hl hp (congrArg Except.ok hr)

theorem exec_pgassign_ok {s u : State} {tid : Nat} {t : Thread} (h : s.AtThread tid t) (hl : 1 ≤ t.lvl) {x : PgaI}
    (hp : t.Passes (Spec.of x.m 2 false ([codeG x.a, codeG x.c]
      ++ if x.ctl.new = potOwned ∨ x.ctl.new = potShared then [codeG x.ctl.va] else []) [codeG x.d]))
    (hr : s.assignPage (s.partOfThread tid) ((t.rd tid).g x.a).toNat ((t.rd tid).g x.c).toNat ((t.rd tid).g x.ctl.va) x.ctl
      = .ok u) : exec (.pgassign x) s = .next ((u.setG tid x.d 0#64).sysDone tid 2) := exec_pgassign h hl hp hr

/-! ### PGSEAL (R285) -/

theorem keptImage_hasPot (s : State) {page : Nat} {x : Pot} (hx : x.state = potSealed) (p : SealedPage) (buf : List Xlat)
    (img : List Byte) : (((s.putPot page x).keepPage p).bufWrite buf img).HasPot page x :=
  .bufWrite (by rw [hx]; decide) buf img (.of_eq (.putPot_same ..) rfl)

theorem sealPage_hasPot (s : State) (eid vpn : Nat) (e : Enclave) (l : EncLeaf) (buf : List Xlat) :
    ∃ x : Pot, (s.sealPage eid vpn e l buf).HasPot l.ppn { x with state := potSealed, version := l.version + 1 } := by
  unfold State.sealPage
  exact ⟨_, keptImage_hasPot _ rfl ..⟩

theorem sealPage_pot (s : State) (eid vpn : Nat) (e : Enclave) (l : EncLeaf) (buf : List Xlat) :
    ((s.sealPage eid vpn e l buf).potOf l.ppn).state = potSealed
      ∧ ((s.sealPage eid vpn e l buf).potOf l.ppn).version = l.version + 1 := by
  obtain ⟨x, hx⟩ := sealPage_hasPot s eid vpn e l buf
  rw [hx.potOf]
  exact ⟨rfl, rfl⟩

theorem exec_pgseal {s : State} {tid : Nat} {t : Thread} (h : s.AtThread tid t) (hl : 1 ≤ t.lvl) {x : Rrr} {buf : List Xlat}
    {e : Enclave} {l : EncLeaf}
    (hp : t.Passes (Spec.of x.m 1 (!pairOk x.a) [codeG x.a, codeG (x.a + 1), codeG x.c] [codeG x.d]))
    (hbuf : s.buffer tid .write ((t.rd tid).g x.c).toNat 4160 = .ok buf)
    (he : Tbl.get? s.hub.enclaves ((t.rd tid).g x.a).toNat = some e) (hpart : e.part = s.partOfThread tid)
    (hcanon : canonical ((t.rd tid).g (x.a + 1)).toNat = true) (hva : ((t.rd tid).g (x.a + 1)).toNat % 4096 = 0)
    (hleaf : Tbl.get? e.map (vpnOf ((t.rd tid).g (x.a + 1)).toNat) = some l) (hsealed : l.sealed = false)
    (hstate : (s.potOf l.ppn).state = potOwned) (hattr : fieldOf l.attr 3 3 = 0) (hversion : l.version ≠ 0xFFFFFFFF)
    (hread : s.readBad (4096 * l.ppn) 4096 = none) : exec (.pgseal x) s = .next
      (((s.sealPage ((t.rd tid).g x.a).toNat (vpnOf ((t.rd tid).g (x.a + 1)).toNat) e l buf).setG tid x.d 0#64).sysDone tid 1) := by
  change execPgseal x s = _
  unfold execPgseal
  refine sysOp_ok h hl hp ?_
  simp only [hbuf, he, Option.filter_some, hpart, beq_self_eq_true, if_true, hcanon, hva, Bool.and_self, hleaf]
  simp only [hsealed, hstate, hattr, hversion, hread, Bool.false_or, bne_self_eq_false, if_false, Bool.false_eq_true]

/-! ### PGUNSEAL (R285) -/

theorem unsealTo_pot (s : State) (page eid vpn : Nat) (l : EncLeaf) (bytes : List Byte) :
    ((s.unsealTo page eid vpn l bytes).potOf page).state = potOwned ∧ ((s.unsealTo page eid vpn l bytes).potOf page).owner = eid := by
  have hpot : (s.unsealTo page eid vpn l bytes).HasPot page ⟨potOwned, eid, 0, l.attr, l.version, vpn, 0⟩ :=
    .of_eq (.putPot_same ..) (mapLeaf_pot ..)
  rw [hpot.potOf]
  exact ⟨rfl, rfl⟩

section Unseal

variable {s : State} {part pa : Nat} {img : List Byte} (hmagic : fieldAt img 0 4 = 0x4B535047)
include hmagic

theorem unsealPage_badEid (hnone : Tbl.get? s.hub.enclaves (fieldAt img 4 2) = none) :
    s.unsealPage part pa img = .error stBadEid := by
  simp [State.unsealPage, hmagic, hnone]

variable {e : Enclave} {l : EncLeaf} (he : Tbl.get? s.hub.enclaves (fieldAt img 4 2) = some e) (hpart : e.part = part)
  (hleaf : Tbl.get? e.map (fieldAt img 8 8) = some l) (hsealed : l.sealed = true)
include he hpart hleaf hsealed

theorem unsealPage_stale (hversion : fieldAt img 16 8 ≠ l.version) : s.unsealPage part pa img = .error stStale := by
  simp [State.unsealPage, hmagic, he, hpart, hleaf, hsealed, hversion, Option.filter_some]

theorem unsealPage_ok {p : SealedPage} (hversion : fieldAt img 16 8 = l.version)
    (hkept : ((s.hub.pages.map Prod.snd).find? fun p => p.eid == fieldAt img 4 2
      && p.va == fieldAt img 8 8 && p.version == l.version && p.sealed == img) = some p)
    (hkick : inKick pa = false) (hstate : (s.potOf (pa / 4096)).state = potHost) :
    s.unsealPage part pa img = .ok (s.unsealTo (pa / 4096) (fieldAt img 4 2) (fieldAt img 8 8) l p.bytes) := by
  unfold State.unsealPage
  simp only [he, Option.filter_some, hpart, beq_self_eq_true, if_true, hleaf, hsealed, hkept, hkick, hstate, hversion]
  simp [hmagic]

end Unseal

theorem exec_pgunseal {s : State} {tid : Nat} {t : Thread} (h : s.AtThread tid t) (hl : 1 ≤ t.lvl) {x : Rrr} {img : List Byte}
    (hp : t.Passes (Spec.of x.m 1 false [codeG x.a, codeG x.c] [codeG x.d]))
    (hrec : s.record tid ((t.rd tid).g x.a).toNat 4160 = .ok img) (hpa : ((t.rd tid).g x.c).toNat % 4096 = 0)
    (hmem : s.inPartMem (s.partOfThread tid) ((t.rd tid).g x.c).toNat = true) {r : Sys}
    (hr : s.unsealPage (s.partOfThread tid) ((t.rd tid).g x.c).toNat img = r) :
    exec (.pgunseal x) s = .next ((s.answer tid x.d r).sysDone tid 1) := by
  change execPgunseal x s = _
  unfold execPgunseal
  refine sysOp_next h hl hp ?_
  simp [hpa, hmem, hrec, hr]

/-- Settles O46: each instruction answers what its checks do, and each move's effect on the page is what it leaves of the entry. -/
theorem pageOwnership : Obligations.PageOwnership := by
  unfold Obligations.PageOwnership
  intro s tid t h hl
  refine ⟨fun x hp pa r hpa hr => ?assign, fun page next owner attr link a ha => ?scrub,
    fun x buf e l hp hbuf he hpart hcanon hva hleaf hsealed hstate hattr hversion hread => ?sealed,
    fun x img hp hrec hpa hkick hmem hmagic => ?unsealed⟩
  case assign =>
    subst hpa
    refine ⟨exec_pgassign h hl hp hr, fun e he => he ▸ rfl, fun u hu => hu ▸ rfl, fun hbad => hr ▸ assignPage_badAddress hbad,
      fun halign hgc hkick hmem => ⟨fun e hnew hva hcanon he hpart hstate hfreeVa hroom => ?given, fun howned hshared hzero => ?taken⟩⟩
    case given =>
      have hassign := assignPage_enclave halign hgc hkick hmem hnew hva hcanon he hpart hstate hfreeVa hroom
      obtain ⟨howner, hpot⟩ := assignTo_pot s (page := ((t.rd tid).g x.a).toNat / 4096) (eid := ((t.rd tid).g x.c).toNat)
        (new := x.ctl.new) (attr := b01 x.ctl.r + 2 * b01 x.ctl.w) (vpn := vpnOf ((t.rd tid).g x.ctl.va).toNat)
        (scrub := !((s.potOf (((t.rd tid).g x.a).toNat / 4096)).state == potHost && x.ctl.new == potShared)) (by simp)
      refine ⟨_, rfl, exec_pgassign_ok h hl hp hassign, howner, hpot.trans ?_⟩
      by_cases hshare : (s.potOf (((t.rd tid).g x.a).toNat / 4096)).state = potHost ∧ x.ctl.new = potShared
      · simp [hshare]
      · rw [if_neg hshare, if_pos (by simpa [imp_iff_not_or] using hshare)]
    case taken =>
      have hgc0 : ((t.rd tid).g x.c).toNat = 0 := by rw [hzero]; rfl
      exact ⟨fun hstate => exec_pgassign_ok h hl hp (assignPage_unowned halign hkick hmem howned hshared hgc0 hstate),
        fun hstate => exec_pgassign_ok h hl hp (assignPage_scrubbed halign hkick hmem howned hshared hgc0 hstate),
        fun hstate => exec_pgassign_ok h hl hp (assignPage_unshared halign hkick hmem howned hshared hgc0 hstate)⟩
  case scrub =>
    obtain ⟨v, hv⟩ := enterScrub_hasPot s page next owner attr link
    exact ⟨enterScrub_peek s next owner attr link ha, congrArg Pot.state hv.potOf⟩
  case sealed =>
    exact ⟨_, rfl, exec_pgseal h hl hp hbuf he hpart hcanon hva hleaf hsealed hstate hattr hversion hread, sealPage_pot ..⟩
  case unsealed =>
    refine ⟨fun hnone => exec_pgunseal h hl hp hrec hpa hmem (unsealPage_badEid hmagic hnone), fun e l he hpart hleaf hsealed =>
      ⟨fun hversion => exec_pgunseal h hl hp hrec hpa hmem (unsealPage_stale hmagic he hpart hleaf hsealed hversion),
        fun p hversion hkept hstate => ⟨_, rfl, ?_, unsealTo_pot ..⟩⟩⟩
    exact exec_pgunseal h hl hp hrec hpa hmem (unsealPage_ok hmagic he hpart hleaf hsealed hversion hkept hkick hstate)

end Sys2Proof.Machine

namespace Sys2Proof.Machine

set_option Elab.async false

/-! ## O48: PARTCTL (R289, R390, R392, R394, R395, R398) -/

/-! ### A change made to every partition of a list -/

theorem part_modPart_same (s : State) (p : Nat) (f : Part → Part) : (s.modPart p f).part p = f (s.part p) := Tbl.getD_put_same ..

theorem part_modPart_other (s : State) {p k : Nat} (f : Part → Part) (h : k ≠ p) : (s.modPart p f).part k = s.part k :=
  Tbl.getD_put_other _ _ _ h

theorem part_of_parts {s t : State} (h : t.parts = s.parts) (p : Nat) : t.part p = s.part p := by
  rw [State.part, State.part, h]

section EachPart

variable {prep : State → Nat → State} (hprep : ∀ s p, (prep s p).parts = s.parts) {f : Part → Part}
include hprep

theorem eachPart_other {ps : List Nat} {p : Nat} (hp : p ∉ ps) (s : State) :
    (ps.foldl (fun s p => (prep s p).modPart p f) s).part p = s.part p := by
  induction ps generalizing s with
  | nil => rfl
  | cons k r ih =>
    obtain ⟨hk, hr⟩ := not_or.mp (mt List.mem_cons.mpr hp)
    rw [List.foldl_cons, ih hr, part_modPart_other _ _ hk, part_of_parts (hprep s k)]

/-- What the change establishes, and keeps, holds of each partition of the list. -/
theorem eachPart_holds {P : Part → Prop} (hf : ∀ y, P (f y)) {ps : List Nat} {p : Nat} (hp : p ∈ ps) (s : State) :
    P ((ps.foldl (fun s p => (prep s p).modPart p f) s).part p) := by
  induction ps generalizing s with
  | nil => cases hp
  | cons k r ih =>
    rw [List.foldl_cons]
    by_cases hr : p ∈ r
    · exact ih hr _
    · obtain rfl : p = k := (List.mem_cons.mp hp).resolve_right hr
      rw [eachPart_other hprep hr, part_modPart_same]
      exact hf _

end EachPart

theorem eachPart_hub (f : Part → Part) (ps : List Nat) (s : State) : (ps.foldl (fun s p => s.modPart p f) s).hub = s.hub :=
  foldl_keeps State.hub (fun s p => modPart_hub s p f) ps s

theorem eachPart_store (f : Part → Part) (ps : List Nat) (s : State) :
    (ps.foldl (fun s p => s.modPart p f) s).store = s.store := foldl_keeps State.store (fun s p => modPart_store s p f) ps s

theorem dropTuples_parts (s : State) (p : Nat) : (s.dropTuples p).parts = s.parts := rfl

/-! ### A PARTCTL's status -/

/-- A status in g(d) once the instruction has ended. -/
theorem sysDone_status (s : State) (tid d len : Nat) (x : W64) :
    Tbl.fget 0#64 (((s.setG tid d x).sysDone tid len).thread tid).g d = x := by
  rw [State.sysDone, thread_pop, thread_modThread_same]
  change Tbl.fget 0#64 ((s.setG tid d x).thread tid).g d = x
  rw [setG_g, Tbl.fget_fset_same]

section Partctl

variable {s : State} {tid : Nat} {t : Thread} {x : Rrr} {img : Bool} (h : s.AtThread tid t) (hl : t.lvl = 2)
  (hp : t.Passes (Spec.of x.m 2 (!pairOk x.d) ([codeG x.a] ++ if img then [codeG x.c] else []) [codeG x.d, codeG (x.d + 1)]))
include h hl hp

theorem partctl_badMask {body : Nat → List Nat → Rd → Except (Nat × Nat) State}
    (hmask : s.partMaskBad ((t.rd tid).g x.a).toNat = true) :
    partctl x s img body = .next ((s.fail tid x.d stBadDesc).sysDone tid 2) := by
  refine threadOnly_done h (Nat.le_of_eq hl.symm) hp ?_
  rw [if_pos hmask]

theorem partctl_next {body : Nat → List Nat → Rd → Except (Nat × Nat) State} {u : State}
    (hmask : s.partMaskBad ((t.rd tid).g x.a).toNat = false)
    (hbody : body tid (partsOf ((t.rd tid).g x.a).toNat) (t.rd tid) = .ok u) : partctl x s img body = .next (u.sysDone tid 2) := by
  refine threadOnly_done h (Nat.le_of_eq hl.symm) hp ?_
  simp only [hmask, Bool.false_eq_true, if_false, hbody]

end Partctl

/-! ### QUIESCE, SHOOT and RESUME (R289, R398) -/

section NoImage

variable {s : State} {tid : Nat} {t : Thread} {x : Rrr} (h : s.AtThread tid t) (hl : t.lvl = 2)
  (hp : t.Passes (Spec.of x.m 2 (!pairOk x.d) ([codeG x.a] ++ []) [codeG x.d, codeG (x.d + 1)])) {ps : List Nat}
  (hps : partsOf ((t.rd tid).g x.a).toNat = ps) (hmask : s.partMaskBad ((t.rd tid).g x.a).toNat = false)
include h hl hp hps hmask

theorem exec_quiesce_busy (hbusy : (s.hub.queues.any fun q => ps.contains (s.partOfQueue q.1) && s.inFlight q.1) = true) :
    ∃ q, exec (.partctlQuiesce x) s = .next ((((ps.foldl (fun s p => s.modPart p fun y => { y with state := 1 }) s).setG tid
      (x.d + 1) (BitVec.ofNat 64 q)).fail tid x.d stBusy).sysDone tid 2) := by
  obtain ⟨q, hq⟩ : ∃ q : Nat × Queue, q ∈ s.hub.queues.filter fun q => ps.contains (s.partOfQueue q.1) && s.inFlight q.1 := by
    obtain ⟨q, hmem, hq⟩ := List.any_eq_true.mp hbusy
    exact ⟨q, List.mem_filter.mpr ⟨hmem, hq⟩⟩
  obtain ⟨k, r, hlist⟩ := List.exists_cons_of_ne_nil (List.ne_nil_of_mem (List.mem_map_of_mem (f := Prod.fst) hq))
  refine ⟨(minOf (k :: r)).getD k, ?_⟩
  change execPartctlQuiesce x s = _
  unfold execPartctlQuiesce
  refine partctl_next (img := false) h hl hp hmask ?_
  simp only [hps, hlist]

theorem exec_quiesce_idle (hidle : (s.hub.queues.any fun q => ps.contains (s.partOfQueue q.1) && s.inFlight q.1) = false) :
    exec (.partctlQuiesce x) s = .next
      (((ps.foldl (fun s p => (s.dropTuples p).modPart p fun y => { y with state := 2 }) s).setG tid x.d 0#64).sysDone tid 2) := by
  have hlist : (s.hub.queues.filter fun q => ps.contains (s.partOfQueue q.1) && s.inFlight q.1) = [] :=
    List.filter_eq_nil_iff.mpr fun q hq hin => List.any_eq_false.mp hidle q hq hin
  change execPartctlQuiesce x s = _
  unfold execPartctlQuiesce
  refine partctl_next (img := false) h hl hp hmask ?_
  simp only [hps, hlist, List.map_nil]

theorem exec_shoot_state (hstate : s.quiesced ps = false) :
    exec (.partctlShoot x) s = .next ((s.fail tid x.d stState).sysDone tid 2) := by
  change execPartctlShoot x s = _
  unfold execPartctlShoot
  refine partctl_next (img := false) h hl hp hmask ?_
  rw [hps, hstate]
  rfl

theorem exec_shoot (hstate : s.quiesced ps = true) : exec (.partctlShoot x) s = .next (((ps.foldl
    (fun s p => s.modPart p fun y => { y with shootDue := false }) (s.tlbDrop fun e => ps.contains e.part)).setG tid x.d 0#64).sysDone
      tid 2) := by
  change execPartctlShoot x s = _
  unfold execPartctlShoot
  refine partctl_next (img := false) h hl hp hmask ?_
  rw [hps, hstate]
  rfl

theorem exec_resume_state (hstate : (ps.any (fun p => (s.part p).state == 0) || s.anyGated ps) = true) :
    exec (.partctlResume x) s = .next ((s.fail tid x.d stState).sysDone tid 2) := by
  change execPartctlResume x s = _
  unfold execPartctlResume
  refine partctl_next (img := false) h hl hp hmask ?_
  rw [hps, if_pos hstate]

theorem exec_resume (hstate : (ps.any (fun p => (s.part p).state == 0) || s.anyGated ps) = false) :
    exec (.partctlResume x) s = .next
      ((((ps.foldl (fun s p => s.modPart p fun y => { y with state := 0 }) s).storeLayout).setG tid x.d 0#64).sysDone tid 2) := by
  change execPartctlResume x s = _
  unfold execPartctlResume
  refine partctl_next (img := false) h hl hp hmask ?_
  rw [hps, hstate]
  rfl

end NoImage

/-! ### WRITEILV and WRITEBND (R394, R395) -/

/-- The windows of a WRITEILV image in the dies it names, the partitions' memory wiped. -/
def State.writeIlv (s : State) (ps : List Nat) (b : List Byte) : State :=
  let e := s.ilvAfter (s.diesOfParts ps) b
  { s.wipeMemory ps with dies := s.dies.map fun (y : Nat × Die) =>
      if (s.diesOfParts ps).contains y.1 then
        (y.1, { y.2 with ilvbase := (e y.1).base, wdies := (e y.1).wdies, gran := (e y.1).gran, valid := true })
      else y }

section Image

variable {s : State} {tid : Nat} {t : Thread} {x : Rrr} (h : s.AtThread tid t) (hl : t.lvl = 2)
  (hp : t.Passes (Spec.of x.m 2 (!pairOk x.d) ([codeG x.a] ++ [codeG x.c]) [codeG x.d, codeG (x.d + 1)])) {ps : List Nat}
  (hps : partsOf ((t.rd tid).g x.a).toNat = ps) (hmask : s.partMaskBad ((t.rd tid).g x.a).toNat = false)
include h hl hp hps hmask

theorem exec_writeilv_state (hstate : s.quiesced ps = false ∨ s.anyGated ps = true) :
    exec (.partctlWriteilv x) s = .next ((s.fail tid x.d stState).sysDone tid 2) := by
  change execPartctlWriteilv x s = _
  unfold execPartctlWriteilv
  refine partctl_next (img := true) h hl hp hmask ?_
  rw [hps, if_pos (by simpa using hstate)]

theorem exec_writebnd_state (hstate : s.quiesced ps = false ∨ s.anyGated ps = true) :
    exec (.partctlWritebnd x) s = .next ((s.fail tid x.d stState).sysDone tid 2) := by
  change execPartctlWritebnd x s = _
  unfold execPartctlWritebnd
  refine partctl_next (img := true) h hl hp hmask ?_
  rw [hps, if_pos (by simpa using hstate)]

variable (hquiet : s.quiesced ps = true) (hgates : s.anyGated ps = false) {b : List Byte}
include hquiet hgates

theorem exec_writeilv_bad (hrec : s.record tid ((t.rd tid).g x.c).toNat 128 = .ok b) (hbad : s.ilvBad (s.diesOfParts ps) b = true) :
    exec (.partctlWriteilv x) s = .next ((s.fail tid x.d stBadDesc).sysDone tid 2) := by
  change execPartctlWriteilv x s = _
  unfold execPartctlWriteilv
  refine partctl_next (img := true) h hl hp hmask ?_
  simp only [hps, hquiet, hgates, hrec, hbad, Bool.not_true, Bool.or_self, Bool.false_eq_true, if_false, if_true]

theorem exec_writeilv (hrec : s.record tid ((t.rd tid).g x.c).toNat 128 = .ok b) (hgood : s.ilvBad (s.diesOfParts ps) b = false)
    (hfree : ps.any s.holdsEnclave = false) : exec (.partctlWriteilv x) s = .next
      (((ps.foldl (fun s p => s.modPart p fun y => { y with shootDue := true }) (s.writeIlv ps b)).setG tid x.d 0#64).sysDone tid 2) := by
  change execPartctlWriteilv x s = _
  unfold execPartctlWriteilv
  refine partctl_next (img := true) h hl hp hmask ?_
  simp only [hps, hquiet, hgates, hrec, hgood, hfree, Bool.not_true, Bool.or_self, Bool.false_eq_true, if_false]
  rfl

theorem exec_writebnd_bad (hrec : s.record tid ((t.rd tid).g x.c).toNat 64 = .ok b)
    (hbad : s.bndBad ps (s.diesOfParts ps) (fun d => fieldAt b (8 * d) 8) = true) :
    exec (.partctlWritebnd x) s = .next ((s.fail tid x.d stBadDesc).sysDone tid 2) := by
  change execPartctlWritebnd x s = _
  unfold execPartctlWritebnd
  refine partctl_next (img := true) h hl hp hmask ?_
  simp only [hps, hquiet, hgates, hrec, hbad, Bool.not_true, Bool.or_self, Bool.false_eq_true, if_false, if_true]

theorem exec_writebnd (hrec : s.record tid ((t.rd tid).g x.c).toNat 64 = .ok b)
    (hgood : s.bndBad ps (s.diesOfParts ps) (fun d => fieldAt b (8 * d) 8) = false)
    (hlive : s.bndLive ps (s.diesOfParts ps) (fun d => fieldAt b (8 * d) 8) = false) : exec (.partctlWritebnd x) s
      = .next (((s.writeBnd ps (s.diesOfParts ps) fun d => fieldAt b (8 * d) 8).setG tid x.d 0#64).sysDone tid 2) := by
  change execPartctlWritebnd x s = _
  unfold execPartctlWritebnd
  refine partctl_next (img := true) h hl hp hmask ?_
  simp only [hps, hquiet, hgates, hrec, hgood, hlive, Bool.not_true, Bool.or_self, Bool.false_eq_true, if_false]

end Image

/-- Settles O48: each PARTCTL by its body; the partitions after it by the change made to each of the named ones. -/
theorem partitionControl : Obligations.PartitionControl := by
  unfold Obligations.PartitionControl
  intro s tid t x img ps h hl hp hps
  refine ⟨fun hmask => ⟨?badMask, ?badImageMask⟩, fun hmask himg => ?noImage, fun hmask himg => ?image⟩
  case badMask =>
    rintro rfl
    refine ⟨?_, ?_, ?_⟩
    · change execPartctlQuiesce x s = _
      exact partctl_badMask h hl hp hmask
    · change execPartctlShoot x s = _
      exact partctl_badMask h hl hp hmask
    · change execPartctlResume x s = _
      exact partctl_badMask h hl hp hmask
  case badImageMask =>
    rintro rfl
    refine ⟨?_, ?_⟩
    · change execPartctlWriteilv x s = _
      exact partctl_badMask h hl hp hmask
    · change execPartctlWritebnd x s = _
      exact partctl_badMask h hl hp hmask
  case noImage =>
    subst himg
    refine ⟨⟨fun hbusy => ?_, fun hidle => ⟨_, exec_quiesce_idle h hl hp hps hmask hidle, fun p hmem => ?_, sysDone_status ..,
      fun p hmem => ?_⟩⟩, ⟨exec_shoot_state h hl hp hps hmask, fun hstate => ⟨_, exec_shoot h hl hp hps hmask hstate, ?_,
      fun p hmem => ?_⟩⟩, exec_resume_state h hl hp hps hmask, fun hstate => ⟨_, exec_resume h hl hp hps hmask hstate,
      fun p hmem => ?_, ?_⟩⟩
    · obtain ⟨q, hexec⟩ := exec_quiesce_busy h hl hp hps hmask hbusy
      refine ⟨_, hexec, fun p hmem => ?_, sysDone_status ..⟩
      exact eachPart_holds (prep := fun s _ => s) (fun _ _ => rfl) (P := fun y => y.state = 1) (fun _ => rfl) hmem s
    · exact eachPart_holds dropTuples_parts (P := fun y => y.state = 2) (fun _ => rfl) hmem s
    · exact eachPart_other dropTuples_parts hmem s
    · exact congrArg Hub.tlb (eachPart_hub ..)
    · exact eachPart_holds (prep := fun s _ => s) (fun _ _ => rfl) (P := fun y => y.shootDue = false) (fun _ => rfl) hmem _
    · exact eachPart_holds (prep := fun s _ => s) (fun _ _ => rfl) (P := fun y => y.state = 0) (fun _ => rfl) hmem s
    · exact eachPart_store ..
  case image =>
    subst himg
    refine ⟨fun hstate => ⟨exec_writeilv_state h hl hp hps hmask hstate, exec_writebnd_state h hl hp hps hmask hstate⟩,
      fun hquiet hgates => ⟨fun b hrec => ⟨exec_writeilv_bad h hl hp hps hmask hquiet hgates hrec, fun hgood hfree =>
        ⟨_, exec_writeilv h hl hp hps hmask hquiet hgates hrec hgood hfree, fun p hmem => ?_, ?_⟩⟩,
      fun b hrec => ⟨exec_writebnd_bad h hl hp hps hmask hquiet hgates hrec, exec_writebnd h hl hp hps hmask hquiet hgates hrec⟩⟩⟩
    · exact eachPart_holds (prep := fun s _ => s) (fun _ _ => rfl) (P := fun y => y.shootDue = true) (fun _ => rfl) hmem _
    · exact eachPart_store ..

end Sys2Proof.Machine

namespace Sys2Proof.Machine

set_option Elab.async false

/-! ## O3: sketch words (R338, R346) -/

/-- The operation of an opcode has that opcode and those fields. -/
theorem toSketch_sketchOp {op : Nat} {x : SkWord} {i : Instr} (h : sketchOp op x = some i) : i.toSketch = some (op, x) := by
  unfold sketchOp at h
  split at h
  case h_26 => cases h
  all_goals
    obtain rfl := Option.some.inj h
    rfl

/-- The fields of a word are all of its bits. -/
theorem sketchWord_fields (w : W32) : sketchWord (fieldOf w.toNat 24 8) (sketchFields w) = w := by
  apply BitVec.eq_of_toNat_eq
  have hw := w.isLt
  simp only [sketchWord, sketchFields, fieldOf, BitVec.toNat_ofNat]
  omega

theorem encode_of_toSketch {i : Instr} {op : Nat} {x : SkWord} (h : i.toSketch = some (op, x)) : encode i = [sketchWord op x] := by
  rw [encode, toRaw_of_toSketch (by rw [h]; rfl), h]

theorem encode_decodeSketch {w : W32} {i : Instr} (h : decodeSketch w = some i) : WellFormed i ∧ encode i = [w] := by
  unfold decodeSketch at h
  split at h
  next j hop =>
    split at h
    next hwf =>
      obtain rfl := Option.some.inj h
      exact ⟨hwf, by rw [encode_of_toSketch (toSketch_sketchOp hop), sketchWord_fields]⟩
    next => cases h
  next => cases h

theorem decodeSketch_of_wellFormed {i : Instr} (h : WellFormed i) (hs : i.toSketch.isSome = true) :
    ∃ w : W32, encode i = [w] ∧ decodeSketch w = some i := by
  have hround := roundTrip i h
  obtain ⟨⟨op, x⟩, hop⟩ := Option.isSome_iff_exists.mp hs
  rw [toRaw_of_toSketch hs, hop] at hround
  exact hround

/-- Settles O3: the round trip of every sketch operation, and the fields of a word that decodes. -/
theorem sketchWordsDecode : Obligations.SketchWordsDecode := by
  unfold Obligations.SketchWordsDecode
  exact ⟨fun _ => decodeSketch_of_wellFormed, fun _ _ => encode_decodeSketch⟩

end Sys2Proof.Machine

namespace Sys2Proof.Machine

set_option Elab.async false

/-! ## O49: the operations of a sketch (R333, R335 to R341) -/

/-! ### Registers and lanes -/

/-- The packet once its operation has counted against the budget and its next word is set (R335). -/
def Packet.counted (k : Packet) : Packet := { k with used := k.used + 1, pc := k.pc + 1 }

namespace Packet

theorem reg_setReg_same (k : Packet) {r : Nat} (v : W64) (h : r ≠ 0) : (k.setReg r v).reg r = v := by
  rw [reg, setReg, if_neg h, if_neg h, Tbl.fget_fset_same]

theorem reg_setReg_other (k : Packet) {r n : Nat} (v : W64) (h : n ≠ r) : (k.setReg r v).reg n = k.reg n := by
  unfold reg setReg
  split
  · rfl
  · split
    · rfl
    · rw [Tbl.fget_fset_other _ _ _ h]

end Packet

/-- A lane put in place of another leaves the other three. -/
theorem fieldOf_putLane {v : W64} {l m i : Nat} (hl : l < 4) (hm : m < 4) (hi : i < 65536) :
    fieldOf (putLane v l i).toNat (16 * m) 16 = if m = l then i else fieldOf v.toNat (16 * m) 16 := by
  have hv := v.isLt
  simp only [putLane, fieldOf, BitVec.toNat_ofNat]
  interval_cases l <;> interval_cases m <;> simp <;> omega

theorem skSimm_eq (x : SkWord) : skSimm x = BitVec.signExtend 64 (BitVec.ofNat 16 x.imm) := by
  rw [skSimm, sext64, signedOf_eq_toInt, BitVec.signExtend]

/-! ### One operation, by how it ends -/

section Run

variable {s : State} {q : Nat} {x : Queue} {k : Packet} (h : s.AtPacket q x k) {body : Nat → Queue → Packet → SkEnd}
include h

theorem sketchRun_eq : sketchRun s body = match body q x k.counted with
    | .go k' => .next (s.pop.putQueue q { x with pkt := some k' })
    | .fault c => .next (s.pop.queueFault q c)
    | .done n drop =>
      if x.kicked < n then .next (s.pop.queueFault q 6)
      else .next ((s.pop.putQueue q { x with pkt := some { k.counted with commit := some (n, drop) } }).commitOn q n drop k.staged)
    | .wait pa t =>
      .next ((s.pop.putQueue q { x with state := 4, pkt := some { k.counted with wait := some (pa, t) } }).toEngine pa) := by
  obtain ⟨hturn, hqueue, hpkt, hbudget⟩ := h
  obtain ⟨r, hturns⟩ : ∃ r, s.turns = .easel q :: r := List.head?_eq_some_iff.mp hturn
  have hqueue' : s.pop.queue q = x := hqueue
  have hbudget' : ¬ s.pop.budgetOf q ≤ k.used := Nat.not_le.mpr hbudget
  unfold sketchRun
  simp only [hturns, hqueue', hpkt, if_neg hbudget']
  rfl

theorem sketchRun_go {c : Packet} (hb : body q x k.counted = .go c) :
    sketchRun s body = .next (s.pop.putQueue q { x with pkt := some c }) := by
  rw [sketchRun_eq h, hb]

theorem sketchRun_fault {c : Nat} (hb : body q x k.counted = .fault c) : sketchRun s body = .next (s.pop.queueFault q c) := by
  rw [sketchRun_eq h, hb]

theorem sketchRun_wait {pa t : Nat} (hb : body q x k.counted = .wait pa t) : sketchRun s body
    = .next ((s.pop.putQueue q { x with state := 4, pkt := some { k.counted with wait := some (pa, t) } }).toEngine pa) := by
  rw [sketchRun_eq h, hb]

theorem sketchRun_slots {n : Nat} {drop : Bool} (hb : body q x k.counted = .done n drop) (hn : x.kicked < n) :
    sketchRun s body = .next (s.pop.queueFault q 6) := by
  rw [sketchRun_eq h, hb]
  exact if_pos hn

theorem sketchRun_done {n : Nat} {drop : Bool} (hb : body q x k.counted = .done n drop) (hn : n ≤ x.kicked) : sketchRun s body
    = .next ((s.pop.putQueue q { x with pkt := some { k.counted with commit := some (n, drop) } }).commitOn q n drop k.staged) := by
  rw [sketchRun_eq h, hb]
  exact if_neg (Nat.not_lt.mpr hn)

/-- An effect staged beside fewer than eight, or the ninth. -/
theorem sketchRun_stage {e : Staged} (hb : body q x k.counted = k.counted.stage e) :
    (k.staged.length < 8 → sketchRun s body
      = .next (s.pop.putQueue q { x with pkt := some { k.counted with staged := k.staged ++ [e] } }))
    ∧ (8 ≤ k.staged.length → sketchRun s body = .next (s.pop.queueFault q 7)) :=
  ⟨fun hroom => sketchRun_go h (hb.trans (if_neg (Nat.not_le.mpr hroom))), fun hfull => sketchRun_fault h (hb.trans (if_pos hfull))⟩

end Run

/-! ### The end of a packet (R336) -/

theorem settle_keeps (x : Queue) (ac : Nat) : (x.settle ac).head = x.head ∧ (x.settle ac).pkts = x.pkts
    ∧ (x.settle ac).drops = x.drops ∧ (x.settle ac).pkt = x.pkt := by
  unfold Queue.settle
  split
  · exact ⟨rfl, rfl, rfl, rfl⟩
  · split
    · exact ⟨rfl, rfl, rfl, rfl⟩
    · split <;> exact ⟨rfl, rfl, rfl, rfl⟩

theorem commitOn_nil (s : State) (q n : Nat) (drop : Bool) : s.commitOn q n drop [] = s.endPacket q n drop := rfl

theorem endPacket_queue (s : State) (q n : Nat) (drop : Bool) :
    ((s.endPacket q n drop).queue q).head = ((s.queue q).head + n) % 2 ^ 32
      ∧ ((s.endPacket q n drop).queue q).pkts = ((s.queue q).pkts + 1) % 2 ^ 64
      ∧ ((s.endPacket q n drop).queue q).drops = (if drop then ((s.queue q).drops + 1) % 2 ^ 64 else (s.queue q).drops)
      ∧ ((s.endPacket q n drop).queue q).pkt = none := by
  rw [State.endPacket, queue_modQueue_same]
  exact settle_keeps _ _

/-! ### The operations -/

section Operations

variable {s : State} {q : Nat} {x : Queue} {k : Packet} (h : s.AtPacket q x k) (w : SkWord)
include h

/-- Where a packet goes on. -/
def State.goesOn (s : State) (q : Nat) (x : Queue) (c : Packet) : Out := .next (s.pop.putQueue q { x with pkt := some c })

omit w in
theorem sketchAlu_goesOn (f : Packet → Packet) : sketchAlu s f = s.goesOn q x (f k.counted) := sketchRun_go h rfl

theorem exec_sketchEndl_again {first n : Nat} {r : List (Nat × Nat)} (hloops : k.loops = (first, n) :: r) (hn : 1 < n) :
    exec (.sketchEndl w) s = s.goesOn q x { k.counted with loops := (first, n - 1) :: r, pc := first } := by
  change execSketchEndl w s = _
  unfold execSketchEndl
  refine sketchRun_go h ?_
  simp only [Packet.counted, hloops, if_pos hn]

theorem exec_sketchEndl_last {first n : Nat} {r : List (Nat × Nat)} (hloops : k.loops = (first, n) :: r) (hn : n ≤ 1) :
    exec (.sketchEndl w) s = s.goesOn q x { k.counted with loops := r } := by
  change execSketchEndl w s = _
  unfold execSketchEndl
  refine sketchRun_go h ?_
  simp only [Packet.counted, hloops, if_neg (Nat.not_lt.mpr hn)]

theorem exec_sketchDone_commits (hn : w.imm ≤ x.kicked) : exec (.sketchDone w) s = .next ((s.pop.putQueue q
    { x with pkt := some { k.counted with commit := some (w.imm, false) } }).commitOn q w.imm false k.staged) := by
  change execSketchDone w s = _
  exact sketchRun_done h rfl hn

theorem exec_sketchDrop_commits (hn : w.imm ≤ x.kicked) : exec (.sketchDrop w) s = .next ((s.pop.putQueue q
    { x with pkt := some { k.counted with commit := some (w.imm, true) } }).commitOn q w.imm true k.staged) := by
  change execSketchDrop w s = _
  exact sketchRun_done h rfl hn

theorem exec_sketchLdq_ring (hi : x.kicked ≤ (k.counted.reg w.b).toNat) :
    exec (.sketchLdq w) s = .next (s.pop.queueFault q 2) := by
  change execSketchLdq w s = _
  exact sketchRun_fault h (if_pos hi)

theorem exec_sketchLdq_unmapped (hi : (k.counted.reg w.b).toNat < x.kicked)
    (hread : s.ringWord q x (k.counted.reg w.b).toNat w.imm = none) : exec (.sketchLdq w) s = .next (s.pop.queueFault q 3) := by
  change execSketchLdq w s = _
  exact sketchRun_fault h (by simp only [if_neg (Nat.not_le.mpr hi), hread])

theorem exec_sketchLdq {v : W64} (hi : (k.counted.reg w.b).toNat < x.kicked)
    (hread : s.ringWord q x (k.counted.reg w.b).toNat w.imm = some v) :
    exec (.sketchLdq w) s = s.goesOn q x (k.counted.setReg w.a v) := by
  change execSketchLdq w s = _
  exact sketchRun_go h (by simp only [if_neg (Nat.not_le.mpr hi), hread])

theorem exec_sketchSignal_counter (hpa : s.frontCounter q (k.counted.reg w.a).toNat = none) :
    exec (.sketchSignal w) s = .next (s.pop.queueFault q 5) := by
  change execSketchSignal w s = _
  exact sketchRun_fault h (by simp only [hpa])

theorem exec_sketchWait_counter (hpa : s.frontCounter q (k.counted.reg w.a).toNat = none) :
    exec (.sketchWait w) s = .next (s.pop.queueFault q 5) := by
  change execSketchWait w s = _
  exact sketchRun_fault h (by simp only [hpa])

theorem exec_sketchLaunch_record (hrec : ∀ y, s.readTask q (k.counted.reg w.a).toNat ≠ .ok (some y)) :
    exec (.sketchLaunch w) s = .next (s.pop.queueFault q 4) := by
  change execSketchLaunch w s = _
  refine sketchRun_fault h ?_
  dsimp only
  split
  next y hy => exact absurd hy (hrec _)
  next => rfl

variable {pa : Nat} (hpa : s.frontCounter q (k.counted.reg w.a).toNat = some pa)
include hpa

theorem exec_sketchWait_met (hmet : (k.counted.reg w.b).toNat ≤ s.peek pa 8) :
    exec (.sketchWait w) s = s.goesOn q x k.counted := by
  change execSketchWait w s = _
  exact sketchRun_go h (by simp only [hpa, if_pos hmet])

theorem exec_sketchWait_short (hshort : s.peek pa 8 < (k.counted.reg w.b).toNat) : exec (.sketchWait w) s = .next ((s.pop.putQueue q
    { x with state := 4, pkt := some { k.counted with wait := some (pa, (k.counted.reg w.b).toNat) } }).toEngine pa) := by
  change execSketchWait w s = _
  exact sketchRun_wait h (by simp only [hpa, if_neg (Nat.not_le.mpr hshort)])

end Operations

/-- Settles O49: each operation by its body, which says how the packet ends it. -/
theorem sketchOperations : Obligations.SketchOperations := by
  unfold Obligations.SketchOperations
  intro s q x k h c go hc hgo
  obtain rfl : c = k.counted := hc
  obtain rfl : go = s.goesOn q x := funext hgo
  clear hgo
  refine ⟨fun r => rfl, fun v => rfl, fun r v hr => ⟨Packet.reg_setReg_same _ v hr, fun r' hr' => Packet.reg_setReg_other _ v hr'⟩,
    fun v l m i hl hm hi => fieldOf_putLane hl hm hi, fun w => ?rows, fun w first n r hloops =>
      ⟨exec_sketchEndl_again h w hloops, exec_sketchEndl_last h w hloops⟩,
    fun w => ⟨exec_sketchLdq_ring h w, exec_sketchLdq_unmapped h w, fun v => exec_sketchLdq h w⟩,
    fun w pa t l spt => ⟨?staged, fun hpa => ⟨exec_sketchSignal_counter h w hpa, exec_sketchWait_counter h w hpa⟩,
      exec_sketchLaunch_record h w, fun hpa => ⟨exec_sketchWait_met h w hpa, exec_sketchWait_short h w hpa⟩⟩,
    fun w => ⟨?fault, fun hn => ⟨?slots, ?dropSlots⟩, fun hn hnil => ⟨?done, ?drop⟩, fun hn => ?commits⟩⟩
  case rows =>
    intro row hrow
    simp only [List.mem_cons, List.not_mem_nil, or_false] at hrow
    rcases hrow with rfl | rfl | rfl | rfl | rfl | rfl | rfl | rfl | rfl | rfl | rfl | rfl | rfl | rfl | rfl
    · change execSketchNop w s = _
      exact sketchAlu_goesOn h _
    · change execSketchMovi w s = _
      exact sketchAlu_goesOn h _
    · change execSketchAdd w s = _
      rw [← skSimm_eq]
      exact sketchAlu_goesOn h _
    · change execSketchSub w s = _
      exact sketchAlu_goesOn h _
    · change execSketchAnd w s = _
      exact sketchAlu_goesOn h _
    · change execSketchOr w s = _
      exact sketchAlu_goesOn h _
    · change execSketchShl w s = _
      exact sketchAlu_goesOn h _
    · change execSketchShr w s = _
      exact sketchAlu_goesOn h _
    · change execSketchMask w s = _
      exact sketchAlu_goesOn h _
    · change execSketchCmp w s = _
      exact sketchAlu_goesOn h _
    · change execSketchSel w s = _
      exact sketchAlu_goesOn h _
    · change execSketchBeq w s = _
      exact sketchAlu_goesOn h _
    · change execSketchBne w s = _
      exact sketchAlu_goesOn h _
    · change execSketchLoop w s = _
      exact sketchAlu_goesOn h _
    · change execSketchLdreg w s = _
      exact sketchRun_go h rfl
  case staged =>
    intro row hrow hgood
    simp only [List.mem_cons, List.not_mem_nil, or_false] at hrow
    rcases hrow with rfl | rfl | rfl | rfl
    · change (_ → execSketchStreg w s = _) ∧ (_ → execSketchStreg w s = _)
      exact sketchRun_stage h rfl
    · change (_ → execSketchIrq w s = _) ∧ (_ → execSketchIrq w s = _)
      exact sketchRun_stage h rfl
    · change (_ → execSketchSignal w s = _) ∧ (_ → execSketchSignal w s = _)
      exact sketchRun_stage h (by simp only [show s.frontCounter q (k.counted.reg w.a).toNat = some pa from hgood])
    · change (_ → execSketchLaunch w s = _) ∧ (_ → execSketchLaunch w s = _)
      obtain ⟨hrec, hdone⟩ := hgood
      have hcounter : ¬((k.counted.reg w.b).toNat ≠ 0 ∧ s.frontCounter q (k.counted.reg w.b).toNat = none) :=
        fun ⟨hne, hnone⟩ => hdone.elim hne fun hsome => hsome hnone
      have hrec' : s.readTask q (k.counted.reg w.a).toNat = .ok (some (t, l, spt)) := hrec
      exact sketchRun_stage h (by simp only [hrec', if_neg hcounter])
  case fault =>
    change execSketchFault w s = _
    exact sketchRun_fault h rfl
  case slots =>
    change execSketchDone w s = _
    exact sketchRun_slots h rfl hn
  case dropSlots =>
    change execSketchDrop w s = _
    exact sketchRun_slots h rfl hn
  case done =>
    refine ⟨_, exec_sketchDone_commits h w hn, ?_⟩
    rw [hnil, commitOn_nil]
    obtain ⟨hhead, hpkts, hdrops, hpkt⟩ := endPacket_queue
      (s.pop.putQueue q { x with pkt := some { k.counted with commit := some (w.imm, false) } }) q w.imm false
    rw [hhead, hpkts, hdrops, hpkt, queue_putQueue_same]
    exact ⟨rfl, rfl, rfl, rfl, rfl⟩
  case drop =>
    refine ⟨_, exec_sketchDrop_commits h w hn, ?_⟩
    rw [hnil, commitOn_nil]
    obtain ⟨hhead, -, hdrops, hpkt⟩ := endPacket_queue
      (s.pop.putQueue q { x with pkt := some { k.counted with commit := some (w.imm, true) } }) q w.imm true
    rw [hhead, hdrops, hpkt, queue_putQueue_same]
    exact ⟨rfl, rfl, rfl⟩
  case commits => exact exec_sketchDone_commits h w hn

end Sys2Proof.Machine

namespace Sys2Proof.Machine

set_option Elab.async false

/-! ## O53: kicks, queue control, the Easel, claims, ranges and sketches -/

/-! ### A claim outlasts the work that is stopped for it (R363)

A claim's cores and its BUSY bit are written before the teams on those cores are swapped out. Swapping a team out completes its
accesses, and so it reaches much of the model; but of a context it changes only other fields. There is one lemma for each
function on the way: `State.HasClaims.f` speaks of `State.f`. -/

/-- Each context has the claimed cores and the BUSY bit that are named. -/
def State.HasClaims (s : State) (claims : Nat → List Nat × Bool) : Prop :=
  ∀ q, ((s.ctx q).claimed, (s.ctx q).vacBusy) = claims q

namespace State.HasClaims

variable {s : State} {claims : Nat → List Nat × Bool}

theorem foldl {α : Type} {f : State → α → State} {l : List α} (h : s.HasClaims claims)
    (hf : ∀ (u : State) (a : α), u.HasClaims claims → (f u a).HasClaims claims) : (l.foldl f s).HasClaims claims := by
  induction l generalizing s with
  | nil => exact h
  | cons a r ih => exact ih (hf s a h)

theorem ite_cases {c : Prop} [Decidable c] {a b : State} (ha : a.HasClaims claims) (hb : b.HasClaims claims) :
    (if c then a else b).HasClaims claims := by split; exacts [ha, hb]

theorem of_ctxs {t : State} (h : s.HasClaims claims)
    (e : t.simt.ctxs = s.simt.ctxs := by rfl) : t.HasClaims claims := by
  intro q
  have := h q
  rwa [State.ctx, ← e] at this

theorem inSome (h : s.HasClaims claims) : OptionAll (·.HasClaims claims) (some s) := h

theorem modStore {f : MemSide → MemSide} (h : s.HasClaims claims) : (s.modStore f).HasClaims claims := h

theorem modHub {f : Hub → Hub} (h : s.HasClaims claims) : (s.modHub f).HasClaims claims := h

theorem modSimt {f : Simt → Simt} (h : s.HasClaims claims) (hf : ∀ x, (f x).ctxs = x.ctxs := by intro; rfl) :
    (s.modSimt f).HasClaims claims :=
  h.of_ctxs (hf _)

theorem putCtx (h : s.HasClaims claims) {q : Nat} {c : Ctx} (hclaimed : c.claimed = (s.ctx q).claimed := by rfl)
    (hbusy : c.vacBusy = (s.ctx q).vacBusy := by rfl) : (s.putCtx q c).HasClaims claims := by
  intro p
  by_cases hp : p = q
  · subst hp
    rw [ctx_putCtx_same, hclaimed, hbusy]
    exact h p
  · rw [ctx_putCtx_other _ _ hp]
    exact h p

theorem modCtx (h : s.HasClaims claims) {q : Nat} {f : Ctx → Ctx} (hclaimed : ∀ c,
    (f c).claimed = c.claimed := by intro; rfl)
    (hbusy : ∀ c, (f c).vacBusy = c.vacBusy := by intro; rfl) : (s.modCtx q f).HasClaims claims := h.putCtx
      (hclaimed _) (hbusy _)

theorem withFree {x : Nat} (h : s.HasClaims claims) : ({ s with free := x } : State).HasClaims claims := h

theorem withAgenda {x : List (Nat × Event)} (h : s.HasClaims claims) :
    ({ s with agenda := x } : State).HasClaims claims := h

end State.HasClaims

variable {s : State} {claims : Nat → List Nat × Bool}

/-! ### Machine/Ops.lean -/

theorem State.HasClaims.putGroup (h : s.HasClaims claims) {gid : Nat} {g : Group} :
    (s.putGroup gid g).HasClaims claims :=
  h.modSimt

theorem State.HasClaims.modGroup (h : s.HasClaims claims) {gid : Nat} {f : Group → Group} :
    (s.modGroup gid f).HasClaims claims := by
  unfold State.modGroup
  split
  exacts [h.putGroup, h]

theorem State.HasClaims.putThread (h : s.HasClaims claims) {t : Nat} {x : Thread} :
    (s.putThread t x).HasClaims claims :=
  h.modHub

theorem State.HasClaims.modThread (h : s.HasClaims claims) {t : Nat} {f : Thread → Thread} :
    (s.modThread t f).HasClaims claims :=
  h.putThread

theorem State.HasClaims.putTraceQ (h : s.HasClaims claims) {q : Nat} {x : TraceQ} :
    (s.putTraceQ q x).HasClaims claims :=
  h.modHub

theorem State.HasClaims.putTraceK (h : s.HasClaims claims) {k : Nat} {x : TraceK} :
    (s.putTraceK k x).HasClaims claims :=
  h.modHub

theorem State.HasClaims.putTraceS (h : s.HasClaims claims) {k q : Nat} {x : TraceS} :
    (s.putTraceS k q x).HasClaims claims :=
  h.modHub

theorem State.HasClaims.modSplit (h : s.HasClaims claims) {gid sp : Nat} {f : Split → Split} :
    (s.modSplit gid sp f).HasClaims claims :=
  h.modGroup

theorem State.HasClaims.at (h : s.HasClaims claims) {due : Nat} {i : Event} :
    (s.at due i).HasClaims claims := h.withAgenda

theorem State.HasClaims.later (h : s.HasClaims claims) {i : Event} : (s.later i).HasClaims claims := h.of_ctxs

theorem State.HasClaims.laterWithin (h : s.HasClaims claims) {n : Nat} {e : Event} :
    (s.laterWithin n e).HasClaims claims :=
  h.of_ctxs

theorem State.HasClaims.soon (h : s.HasClaims claims) {i : Event} : (s.soon i).HasClaims claims := h.at

theorem State.HasClaims.drawn (h : s.HasClaims claims) : s.drawn.HasClaims claims := h.withFree

theorem State.HasClaims.wake (h : s.HasClaims claims) {gid sp : Nat} : (s.wake gid sp).HasClaims claims := by
  unfold State.wake
  split
  exacts [h.modSplit.at, h]

theorem State.HasClaims.discardAll (h : s.HasClaims claims) {q : Nat} : (s.discardAll q).HasClaims claims := h.modSimt

theorem State.HasClaims.dumpBreak (h : s.HasClaims claims) {q : Nat} : (s.dumpBreak q).HasClaims claims := by
  unfold State.dumpBreak
  dsimp only
  split
  exacts [h.modHub, h]

theorem ctx_dumpBreak (s : State) (q p : Nat) : (s.dumpBreak q).ctx p = s.ctx p := by
  unfold State.dumpBreak
  split <;> rfl

theorem State.HasClaims.raiseHalt (h : s.HasClaims claims) {q : Nat} {halt : Halt} :
    (s.raiseHalt q halt).HasClaims claims := by
  have hctx := congrArg Ctx.claimed (ctx_dumpBreak s q q)
  have hbusy := congrArg Ctx.vacBusy (ctx_dumpBreak s q q)
  unfold State.raiseHalt
  dsimp only
  split
  · exact h
  · split
    · refine State.HasClaims.laterWithin (State.HasClaims.discardAll ?_)
      exact h.dumpBreak.putCtx hctx.symm hbusy.symm
    · split <;> exact h.putCtx

theorem State.HasClaims.haltAt (h : s.HasClaims claims) {gid cause value ord off : Nat} :
    (s.haltAt gid cause value ord off).HasClaims claims := by
  unfold State.haltAt
  dsimp only
  split
  exacts [h, h.putGroup.raiseHalt]

theorem State.HasClaims.haltFlt (h : s.HasClaims claims) {gid sp : Nat} {f : Flt} :
    (s.haltFlt gid sp f).HasClaims claims := by
  unfold State.haltFlt
  dsimp only
  split
  exacts [h, h.haltAt]

theorem State.HasClaims.haltGroup (h : s.HasClaims claims) {gid sp cause value : Nat} :
    (s.haltGroup gid sp cause value).HasClaims claims :=
  h.haltFlt

/-! ### Machine/Report.lean -/

theorem State.HasClaims.postDie (h : s.HasClaims claims) {d v : Nat} : (s.postDie d v).HasClaims claims :=
  h.of_ctxs (postDie_keepsTables ..).ctxs

theorem State.HasClaims.logError (h : s.HasClaims claims) {d addr cls kind cause eid core : Nat} :
    (s.logError d addr cls kind cause eid core).HasClaims claims := by
  unfold State.logError
  dsimp only
  split
  · exact h.modHub
  · split
    · split
      exacts [h.modHub.postDie, h.modHub]
    · split
      exacts [h.modHub.postDie, h.modHub]

theorem State.HasClaims.meetLine (h : s.HasClaims claims) {eid core line : Nat} :
    (s.meetLine eid core line).HasClaims claims := by
  unfold State.meetLine
  dsimp only
  split
  · exact h
  · exact h.logError
  · split
    · refine State.HasClaims.logError ?_
      refine State.HasClaims.modStore ?_
      split
      exacts [h, h.modStore]
    · refine State.HasClaims.logError ?_
      split
      exacts [h, h.modStore]

theorem State.HasClaims.meetAcc (h : s.HasClaims claims) {gid : Nat} {keys : List Nat} :
    (s.meetAcc gid keys).HasClaims claims :=
  h.of_ctxs (meetAcc_keepsTables ..).ctxs

theorem State.HasClaims.meetSlot (h : s.HasClaims claims) {k : Nat} : (s.meetSlot k).HasClaims claims :=
  h.of_ctxs (meetSlot_keepsTables ..).ctxs

theorem State.HasClaims.meetLocal (h : s.HasClaims claims) {team off n : Nat} :
    (s.meetLocal team off n).HasClaims claims :=
  h.of_ctxs (meetLocal_keepsTables ..).ctxs

theorem State.HasClaims.meetTeam (h : s.HasClaims claims) {id : Nat} : (s.meetTeam id).HasClaims claims :=
  h.of_ctxs (meetTeam_keepsTables ..).ctxs

/-! ### Machine/Issue.lean -/

theorem State.HasClaims.putPassed (h : s.HasClaims claims) {gid ord off : Nat} {g g' : Group} :
    (s.putPassed gid ord off g g').HasClaims claims := by
  unfold State.putPassed
  split
  exacts [h.putGroup.haltAt, h.putGroup]

theorem State.HasClaims.passPoint (h : s.HasClaims claims) {gid sp ord off : Nat} :
    (s.passPoint gid sp ord off).HasClaims claims := by
  unfold State.passPoint
  dsimp only
  split
  exacts [h, h.putPassed]

theorem State.HasClaims.noteIssue (h : s.HasClaims claims) {gid sp : Nat} {g : Group} :
    (s.noteIssue gid sp g).HasClaims claims :=
  h.modSimt

theorem State.HasClaims.resumeAfter (h : s.HasClaims claims) {gid sp : Nat} {m : Marks} {len : Nat} :
    (s.resumeAfter gid sp m len).HasClaims claims := by
  unfold State.resumeAfter
  dsimp only
  split
  · exact h
  · refine State.HasClaims.at ?_
    refine State.HasClaims.noteIssue ?_
    split
    exacts [h.modSplit.passPoint, h.modSplit]

theorem State.HasClaims.tagLoad (h : s.HasClaims claims) {g : Group} {f : Flight} :
    (s.tagLoad g f).1.HasClaims claims := by
  unfold State.tagLoad
  dsimp only
  split
  · split
    · split
      exacts [h.putTraceS, h]
    · split
      exacts [h.putTraceS, h]
  · exact h

theorem State.HasClaims.launch (h : s.HasClaims claims) {gid : Nat} {f : Flight} {ev : Nat → Nat → Event} :
    (s.launch gid f ev).HasClaims claims := by
  unfold State.launch
  dsimp only
  split
  exacts [h, h.tagLoad.putGroup.later]

/-! ### Machine/Splits.lean -/

theorem State.HasClaims.tryExit (h : s.HasClaims claims) {gid : Nat} : (s.tryExit gid).HasClaims claims := by
  unfold State.tryExit
  split
  · exact h
  · split
    exacts [h.soon, h]

theorem State.HasClaims.recheck (h : s.HasClaims claims) {gid : Nat} : (s.recheck gid).HasClaims claims := by
  unfold State.recheck
  dsimp only
  split
  · exact h
  · refine h.foldl ?_
    intro u a h2
    split
    · split
      exacts [h2, h2.wake]
    · split
      exacts [h2.resumeAfter, h2]
    · split
      exacts [h2, h2.resumeAfter]
    · exact h2

theorem State.HasClaims.settle (h : s.HasClaims claims) {gid : Nat} : (s.settle gid).HasClaims claims := by
  unfold State.settle
  dsimp only
  split
  · split
    exacts [h.modGroup.recheck.tryExit.soon, h.modGroup.recheck.tryExit]
  · exact h.modGroup.recheck.tryExit

/-! ### Machine/Access.lean -/

theorem State.HasClaims.clearPoison (h : s.HasClaims claims) {a n : Nat} : (s.clearPoison a n).HasClaims claims :=
  h.of_ctxs (clearPoison_keepsTables ..).ctxs

theorem State.HasClaims.scrubLines (h : s.HasClaims claims) {a n : Nat} : (s.scrubLines a n).HasClaims claims :=
  h.of_ctxs (scrubLines_keepsTables ..).ctxs

theorem State.HasClaims.write (h : s.HasClaims claims) {a : Nat} {bs : List Byte} : (s.write a bs).HasClaims claims :=
  h.of_ctxs (write_keepsTables ..).ctxs

theorem State.HasClaims.writeNat (h : s.HasClaims claims) {a n x : Nat} : (s.writeNat a n x).HasClaims claims := h.write

theorem State.HasClaims.toEngine (h : s.HasClaims claims) {a : Nat} : (s.toEngine a).HasClaims claims :=
  h.of_ctxs (toEngine_keepsTables ..).ctxs

theorem State.HasClaims.meet (h : s.HasClaims claims) {eid core a n : Nat} :
    (s.meet eid core a n).HasClaims claims := by
  unfold State.meet
  dsimp only
  split
  exacts [h.scrubLines, h.scrubLines.foldl (fun u a2 h2 => h2.meetLine)]

theorem State.HasClaims.localWrite (h : s.HasClaims claims) {team off : Nat} {bs : List Byte} :
    (s.localWrite team off bs).HasClaims claims :=
  h.modSimt

theorem State.HasClaims.writeAcc (h : s.HasClaims claims) {a : Acc} : (s.writeAcc a).HasClaims claims := by
  unfold State.writeAcc
  dsimp only
  split
  · exact h.localWrite
  · split
    exacts [h.soon, h.write]

theorem State.HasClaims.writeAccs (h : s.HasClaims claims) {accs : List Acc} : (s.writeAccs accs).HasClaims claims := by
  unfold State.writeAccs
  dsimp only
  split
  · exact h.foldl (fun u a h2 => h2.writeAcc)
  · exact (h.foldl (fun u a h2 => h2.writeAcc)).foldl (fun u a h2 => h2.clearPoison)

theorem State.HasClaims.modFlight (h : s.HasClaims claims) {gid id : Nat} {f : Flight → Flight} :
    (s.modFlight gid id f).HasClaims claims :=
  h.modGroup

theorem State.HasClaims.finishFlight (h : s.HasClaims claims) {gid id : Nat} :
    (s.finishFlight gid id).HasClaims claims :=
  h.modFlight.settle

/-! ### Machine/Atomic.lean -/

theorem State.HasClaims.atomicAt (h : s.HasClaims claims) {op type a c cmp : Nat} :
    (s.atomicAt op type a c cmp).1.HasClaims claims := by
  unfold State.atomicAt
  dsimp only
  split
  exacts [h.toEngine, h.toEngine.writeNat]

theorem State.HasClaims.atomics (h : s.HasClaims claims) {op type : Nat} {l : List Acc} :
    (s.atomics op type l).1.HasClaims claims := by
  induction l generalizing s with
  | nil => exact h
  | cons a r ih => exact ih h.atomicAt

theorem State.HasClaims.meetAll (h : s.HasClaims claims) {g : Group} {acc : List Acc} :
    (s.meetAll g acc).HasClaims claims := by
  unfold State.meetAll
  refine h.foldl ?_
  intro u a h2
  split
  · exact h2.meetLocal
  · split
    exacts [h2, h2.meet]

theorem State.HasClaims.atomicNow (h : s.HasClaims claims) {f : Flight} {op type : Nat} :
    (s.atomicNow f op type).1.HasClaims claims :=
  h.atomics

theorem State.HasClaims.atomDone (h : s.HasClaims claims) {gid : Nat} {f : Flight} {op type : Nat} {ret : Bool} :
    (s.atomDone gid f op type ret).HasClaims claims := by
  unfold State.atomDone
  dsimp only
  split
  exacts [h.atomicNow.modFlight.later, h.atomicNow.finishFlight]

theorem State.HasClaims.atomFail (h : s.HasClaims claims) {gid : Nat} {f : Flight} {e : Flt} :
    (s.atomFail gid f e).HasClaims claims :=
  h.modGroup.haltAt

theorem State.HasClaims.atomTry (h : s.HasClaims claims) {gid : Nat} {g : Group} {f : Flight} {op type : Nat}
    {ret : Bool} :
    (s.atomTry gid g f op type ret).HasClaims claims := by
  unfold State.atomTry
  dsimp only
  split
  exacts [h.meetAll.atomFail, h.meetAll.atomFail, h.meetAll.atomDone]

/-! ### Machine/Buffers.lean -/

theorem State.HasClaims.bufferDrop (h : s.HasClaims claims) {q : Nat} : (s.bufferDrop q).HasClaims claims := h.putTraceQ

theorem State.HasClaims.ringUnit (h : s.HasClaims claims) {q base size : Nat} {unit : List Byte} :
    (s.ringUnit q base size unit).HasClaims claims := by
  unfold State.ringUnit
  dsimp only
  split
  · exact h.bufferDrop
  · split
    · exact h.bufferDrop
    · split
      exacts [h.bufferDrop, h.write.writeNat]

theorem State.HasClaims.writeChunks (h : s.HasClaims claims) {k : Nat} {p : Chunk → Bool} :
    (s.writeChunks k p).HasClaims claims := by
  unfold State.writeChunks
  dsimp only
  split
  exacts [h.putTraceK.foldl (fun u a h2 => h2.ringUnit), (h.putTraceK.foldl (fun u a h2 => h2.ringUnit)).soon]

theorem State.HasClaims.flushCtx (h : s.HasClaims claims) {q : Nat} : (s.flushCtx q).HasClaims claims :=
  h.foldl (fun _ _ h2 => h2.writeChunks)

theorem State.HasClaims.putSample (h : s.HasClaims claims) {q : Nat} {bs : List Byte} :
    (s.putSample q bs).HasClaims claims :=
  h.ringUnit

theorem State.HasClaims.loadSample (h : s.HasClaims claims) {g : Group} {f : Flight} :
    (s.loadSample g f).HasClaims claims := by
  unfold State.loadSample
  dsimp only
  split
  exacts [h, h.putSample]

/-! ### Machine/Pipeline.lean -/

theorem State.HasClaims.writeRegs (h : s.HasClaims claims) {gid : Nat} {w : RegWrites} :
    (s.writeRegs gid w).HasClaims claims :=
  h.modGroup

theorem State.HasClaims.arrived (h : s.HasClaims claims) {q : Nat} {f : Flight} : (s.arrived q f).HasClaims claims := by
  unfold State.arrived
  split
  · exact h.soon
  · split
    exacts [h.soon, h]
  · exact h

theorem State.HasClaims.loadDone (h : s.HasClaims claims) {gid : Nat} {g : Group} {f : Flight} {size : Nat} :
    (s.loadDone gid g f size).HasClaims claims := by
  unfold State.loadDone
  dsimp only
  split
  exacts [h.meetAll.loadSample.modGroup.haltFlt, h.meetAll.loadSample.writeRegs.finishFlight]

theorem State.HasClaims.memNow (h : s.HasClaims claims) {gid id : Nat} : (s.memNow gid id).HasClaims claims := by
  unfold State.memNow
  split
  · exact h
  · split
    exacts [h.loadDone, h.writeAccs.finishFlight, h.atomTry, h.finishFlight, h]

/-! ### Machine/Tuple.lean -/

theorem State.HasClaims.dropReq (h : s.HasClaims claims) {id : Nat} : (s.dropReq id).HasClaims claims := h.modStore

theorem State.HasClaims.tupWrite (h : s.HasClaims claims) {id : Nat} {r : TupReq} {w : RegWrites} :
    (s.tupWrite id r w).HasClaims claims := by
  unfold State.tupWrite
  dsimp only
  split
  · exact h.dropReq.modThread
  · split
    · exact h.dropReq.writeRegs.finishFlight
    · refine h.dropReq.writeRegs.finishFlight.foldl ?_
      intro u a h2
      split
      · split
        exacts [h2.resumeAfter, h2]
      · exact h2

theorem State.HasClaims.putReq (h : s.HasClaims claims) {id : Nat} {r : TupReq} : (s.putReq id r).HasClaims claims :=
  h.modStore

theorem State.HasClaims.tupReply (h : s.HasClaims claims) {id : Nat} {r : TupReq} {w : RegWrites} :
    (s.tupReply id r w).HasClaims claims := by
  unfold State.tupReply
  split
  exacts [h.tupWrite, h.putReq.modCtx]

theorem State.HasClaims.putTuples (h : s.HasClaims claims) {region : Nat} {ts : List Tup} :
    (s.putTuples region ts).HasClaims claims :=
  h.modStore

theorem State.HasClaims.serveDeposit (h : s.HasClaims claims) {id : Nat} {r : TupReq} :
    (s.serveDeposit id r).HasClaims claims := by
  unfold State.serveDeposit
  dsimp only
  split
  · exact h.tupReply
  · refine State.HasClaims.tupReply ?_
    split
    · exact (h.foldl (fun u a h2 => h2.tupReply)).tupReply
    · exact ((h.foldl (fun u a h2 => h2.tupReply)).putTuples).modStore

theorem State.HasClaims.dropAsked (h : s.HasClaims claims) {id : Nat} {r : TupReq} :
    (s.dropAsked id r).HasClaims claims := by
  unfold State.dropAsked
  dsimp only
  split
  exacts [h.dropReq, h.dropReq.modGroup]

theorem State.HasClaims.serveMatch (h : s.HasClaims claims) {id : Nat} {r : TupReq} {take : Bool} :
    (s.serveMatch id r take).HasClaims claims := by
  unfold State.serveMatch
  dsimp only
  split
  · refine State.HasClaims.tupReply ?_
    split
    exacts [h.putTuples, h]
  · split
    · exact h.tupReply
    · split
      · exact h.tupReply
      · split
        exacts [h.dropAsked, h.putReq.modStore]

theorem State.HasClaims.cancelAt (h : s.HasClaims claims) {id : Nat} {r : TupReq} {i : Nat} {rest : List Nat} :
    (s.cancelAt id r i rest).1.HasClaims claims :=
  (h.foldl (fun _ _ h2 => h2.tupReply)).putReq

theorem State.HasClaims.cancelRest (h : s.HasClaims claims) {id : Nat} {r : TupReq} {l : List Nat} :
    (s.cancelRest id r l).HasClaims claims := by
  induction l generalizing s r with
  | nil => exact h.tupReply
  | cons a rest ih => exact ih h.cancelAt

theorem State.HasClaims.serveNow (h : s.HasClaims claims) {id : Nat} {r : TupReq} :
    (s.serveNow id r).HasClaims claims := by
  unfold State.serveNow
  split
  · exact h
  · split
    exacts [h.serveDeposit, h.serveMatch, h.serveMatch, h.cancelRest]

theorem State.HasClaims.replyNow (h : s.HasClaims claims) {gid : Nat} {f : Flight} :
    (s.replyNow gid f).HasClaims claims := by
  unfold State.replyNow
  split
  exacts [h.serveNow, h.writeRegs.finishFlight]

/-! ### Machine/Tiles.lean -/

theorem State.HasClaims.putAcc (h : s.HasClaims claims) {gid : Nat} {ws : List (Nat × W32 × Nat)} :
    (s.putAcc gid ws).HasClaims claims :=
  h.modSimt.modGroup

theorem State.HasClaims.accOverflow (h : s.HasClaims claims) {gid : Nat} {b : Bool} :
    (s.accOverflow gid b).HasClaims claims := by
  unfold State.accOverflow
  dsimp only
  split
  exacts [h.modGroup, h]

/-! ### Machine/Matrix.lean -/

theorem State.HasClaims.putSlot (h : s.HasClaims claims) {k : Nat} {x : Option LiveSlot} :
    (s.putSlot k x).HasClaims claims :=
  h.modSimt

theorem State.HasClaims.drainSlot (h : s.HasClaims claims) {k : Nat} {sat : Bool} :
    (s.drainSlot k sat).HasClaims claims := by
  unfold State.drainSlot
  dsimp only
  split
  exacts [h, h.putAcc.accOverflow.putSlot]

theorem State.HasClaims.drainUnbind (h : s.HasClaims claims) {k : Nat} {sat : Bool} :
    (s.drainUnbind k sat).HasClaims claims :=
  h.drainSlot.putSlot

theorem State.HasClaims.countBlocks (h : s.HasClaims claims) {team : Nat} {o : MatOp} {u : MatUnit} {pins : Pins}
    {k : Nat}
    {l : List Nat} : (s.countBlocks team o u pins k l).HasClaims claims := by
  induction l generalizing s with
  | nil => exact h
  | cons b r ih =>
    unfold State.countBlocks
    dsimp only
    split
    · split
      exacts [h.drainSlot, h]
    · refine ih ?_
      refine State.HasClaims.putSlot ?_
      split
      exacts [h.drainSlot, h]

theorem State.HasClaims.countOp (h : s.HasClaims claims) {team : Nat} {o : MatOp} {u : MatUnit} {pins : Pins} :
    (s.countOp team o u pins).HasClaims claims := by
  unfold State.countOp
  dsimp only
  split
  · refine State.HasClaims.countBlocks ?_
    split
    · split
      · split
        · split
          exacts [h.putAcc.drainSlot, h.putAcc]
        · split
          exacts [h.drainSlot, h]
      · split
        · split
          · split
            exacts [h.putAcc.drainUnbind.putSlot.drainSlot, h.putAcc.drainUnbind.putSlot]
          · split
            exacts [h.putAcc.putSlot.drainSlot, h.putAcc.putSlot]
        · split
          · split
            exacts [h.drainUnbind.putSlot.drainSlot, h.drainUnbind.putSlot]
          · split
            exacts [h.putSlot.drainSlot, h.putSlot]
    · split
      · split
        · split
          exacts [h.putAcc.drainSlot, h.putAcc]
        · split
          exacts [h.drainSlot, h]
      · split
        · split
          · split
            exacts [h.putAcc.drainUnbind.putSlot.drainSlot, h.putAcc.drainUnbind.putSlot]
          · split
            exacts [h.putAcc.putSlot.drainSlot, h.putAcc.putSlot]
        · split
          · split
            exacts [h.drainUnbind.putSlot.drainSlot, h.drainUnbind.putSlot]
          · split
            exacts [h.putSlot.drainSlot, h.putSlot]
  · refine State.HasClaims.drainUnbind ?_
    refine State.HasClaims.countBlocks ?_
    split
    · split
      · split
        · split
          exacts [h.putAcc.drainSlot, h.putAcc]
        · split
          exacts [h.drainSlot, h]
      · split
        · split
          · split
            exacts [h.putAcc.drainUnbind.putSlot.drainSlot, h.putAcc.drainUnbind.putSlot]
          · split
            exacts [h.putAcc.putSlot.drainSlot, h.putAcc.putSlot]
        · split
          · split
            exacts [h.drainUnbind.putSlot.drainSlot, h.drainUnbind.putSlot]
          · split
            exacts [h.putSlot.drainSlot, h.putSlot]
    · split
      · split
        · split
          exacts [h.putAcc.drainSlot, h.putAcc]
        · split
          exacts [h.drainSlot, h]
      · split
        · split
          · split
            exacts [h.putAcc.drainUnbind.putSlot.drainSlot, h.putAcc.drainUnbind.putSlot]
          · split
            exacts [h.putAcc.putSlot.drainSlot, h.putAcc.putSlot]
        · split
          · split
            exacts [h.drainUnbind.putSlot.drainSlot, h.drainUnbind.putSlot]
          · split
            exacts [h.putSlot.drainSlot, h.putSlot]

theorem State.HasClaims.runPass (h : s.HasClaims claims) {team : Nat} {o : MatOp} {u : MatUnit} {pins : Pins} :
    (s.runPass team o u pins).HasClaims claims := by
  unfold State.runPass
  dsimp only
  split
  exacts [h.countOp, h.putAcc.accOverflow]

theorem State.HasClaims.freeWords (h : s.HasClaims claims) {gid : Nat} {l : List Nat} :
    (s.freeWords gid l).HasClaims claims := by
  induction l generalizing s with
  | nil => exact h
  | cons k r ih => exact ih h.putAcc.drawn

theorem State.HasClaims.runCopy (h : s.HasClaims claims) {o : MatOp} {gid : Nat} {k : MatKind} {col w : Nat} :
    (s.runCopy o gid k col w).HasClaims claims := by
  unfold State.runCopy
  dsimp only
  split
  · exact h
  · split
    · exact h.putAcc
    · split
      exacts [h.haltAt, h.foldl (fun u a h2 => h2.localWrite)]
    · exact h.putAcc
    · exact h

theorem State.HasClaims.modOp (h : s.HasClaims claims) {id : Nat} {f : MatOp → MatOp} :
    (s.modOp id f).HasClaims claims :=
  h.modSimt

theorem State.HasClaims.startPass (h : s.HasClaims claims) {k : Nat} : (s.startPass k).HasClaims claims := by
  unfold State.startPass
  dsimp only
  split
  exacts [h, h.of_ctxs]

theorem State.HasClaims.wakeMatrix (h : s.HasClaims claims) {gid : Nat} : (s.wakeMatrix gid).HasClaims claims := by
  unfold State.wakeMatrix
  split
  · exact h
  · split
    · exact h
    · refine h.foldl ?_
      intro u a h2
      split
      exacts [h2.wake, h2]

theorem State.HasClaims.finishOp (h : s.HasClaims claims) {k : Nat} {o : MatOp} :
    (s.finishOp k o).HasClaims claims := by
  unfold State.finishOp
  dsimp only
  split
  · exact (((h.modSimt.modGroup.laterWithin.foldl (fun u a h2 => h2.soon)).wakeMatrix).soon).soon
  · exact h.modSimt.modGroup.laterWithin.foldl (fun u a h2 => h2.soon)

theorem State.HasClaims.meetPass (h : s.HasClaims claims) {o : MatOp} {u : MatUnit} :
    (s.meetPass o u).HasClaims claims := by
  unfold State.meetPass
  dsimp only
  split
  · refine State.HasClaims.meetAcc ?_
    refine State.HasClaims.meetSlot ?_
    split
    · refine State.HasClaims.meetLocal ?_
      split
      exacts [h.meetLocal, h]
    · split
      exacts [h.meetLocal, h]
  · split
    · split
      · refine State.HasClaims.meetLocal ?_
        split
        exacts [h.meetLocal, h]
      · split
        exacts [h.meetLocal, h]
    · refine State.HasClaims.meetAcc ?_
      split
      · refine State.HasClaims.meetLocal ?_
        split
        exacts [h.meetLocal, h]
      · split
        exacts [h.meetLocal, h]

theorem State.HasClaims.meetCopy (h : s.HasClaims claims) {o : MatOp} {k : MatKind} :
    (s.meetCopy o k).HasClaims claims := by
  unfold State.meetCopy
  split
  exacts [h.meetAcc, h.meetLocal, h]

theorem State.HasClaims.logResidue (h : s.HasClaims claims) {o : MatOp} {u : MatUnit} :
    (s.logResidue o u).HasClaims claims := by
  unfold State.logResidue
  split
  exacts [h, h.logError]

theorem State.HasClaims.passOp (h : s.HasClaims claims) {engine : Nat} {o : MatOp} :
    (s.passOp engine o).HasClaims claims := by
  unfold State.passOp
  split
  · split
    · exact h.finishOp
    · extract_lets _ _ _ _ s₁ s₂ _ s₃ _ s₄ _ s₅
      have h₂ : s₂.HasClaims claims := by
        dsimp only [s₂]
        split
        · exact h.meetPass
        · exact h.meetPass.foldl fun _ _ h => h.meetLine
      have h₄ : s₄.HasClaims claims := by
        dsimp only [s₄]
        split
        · exact h₂.runPass.modSimt.logResidue
        · exact h₂.runPass
      split
      · refine State.HasClaims.finishOp ?_
        split
        · exact h₄.freeWords.modOp.freeWords
        · exact h₄.freeWords.modOp
      · exact h₄.freeWords.modOp
  · exact h.meetCopy.runCopy.finishOp

theorem State.HasClaims.runOp (h : s.HasClaims claims) {id n : Nat} : (s.runOp id n).HasClaims claims := by
  induction n generalizing s with
  | zero => exact h
  | succ n ih =>
    unfold State.runOp
    split
    exacts [h, ih h.passOp]

theorem State.HasClaims.runOps (h : s.HasClaims claims) {gid : Nat} : (s.runOps gid).HasClaims claims :=
  h.foldl (fun _ _ h2 => h2.runOp.withAgenda.startPass)

theorem State.HasClaims.closeBatch (h : s.HasClaims claims) {gid sp d : Nat} :
    (s.closeBatch gid sp d).HasClaims claims := by
  unfold State.closeBatch
  dsimp only
  split
  · exact h
  · split
    exacts [h.putGroup.launch.laterWithin, h.putGroup.launch]

theorem State.HasClaims.reportBatch (h : s.HasClaims claims) {gid sp b c : Nat} :
    (s.reportBatch gid sp b c).HasClaims claims :=
  h.modGroup.haltGroup.modSplit

theorem State.HasClaims.mwaitDone (h : s.HasClaims claims) {gid sp b : Nat} {m : Marks} {len : Nat} :
    (s.mwaitDone gid sp b m len).HasClaims claims := by
  unfold State.mwaitDone
  split
  · exact h
  · split
    exacts [h.resumeAfter, h.reportBatch]

theorem State.HasClaims.batchWake (h : s.HasClaims claims) {gid : Nat} : (s.batchWake gid).HasClaims claims := by
  unfold State.batchWake
  dsimp only
  split
  · exact h
  · refine h.foldl ?_
    intro u a h2
    split
    · split
      exacts [h2.mwaitDone, h2]
    · split
      exacts [h2.closeBatch.resumeAfter, h2]
    · exact h2

/-! ### Machine/Ordered.lean -/

theorem outState_hasClaims {u : State} (h : u.HasClaims claims) {gid : Nat} : (outState
    (execBatchComplete gid u) s).HasClaims claims :=
  h.modGroup.batchWake

/-! ### Machine/Stops.lean -/

theorem State.HasClaims.freeFb (h : s.HasClaims claims) {p : FbEntry → Bool} :
    (s.freeFb p).HasClaims claims := h.modSimt

theorem State.HasClaims.withdrawSplit (h : s.HasClaims claims) {gid sp : Nat} {k : Park} :
    (s.withdrawSplit gid sp k).HasClaims claims := by
  unfold State.withdrawSplit
  dsimp only
  split
  · split
    · exact h.modSplit
    · split
      exacts [h.tupWrite, h.dropReq.modGroup.modSplit]
  · exact h.modGroup.modSplit
  · exact h.modSimt.modSplit
  · exact h.modGroup.modSplit
  · exact h.modSimt.modSplit
  · exact h
  · exact h
  · exact h.modSplit

theorem State.HasClaims.withdrawGroup (h : s.HasClaims claims) {gid : Nat} :
    (s.withdrawGroup gid).HasClaims claims := by
  unfold State.withdrawGroup
  dsimp only
  split
  · exact h
  · refine h.modGroup.foldl ?_
    intro u a h2
    split
    exacts [h2.withdrawSplit, h2]

theorem State.HasClaims.performNow (h : s.HasClaims claims) {gid : Nat} {f : Flight} :
    (s.performNow gid f).HasClaims claims := by
  unfold State.performNow
  dsimp only
  split
  · exact h
  · split
    · exact h.replyNow.arrived
    · exact h.writeRegs.finishFlight.arrived
    · exact OptionAll.getD (P := fun u : State => u.HasClaims claims) (OptionAll.map fun _ =>
        h.memNow.replyNow) h.memNow
    · exact h.memNow

theorem State.HasClaims.completeGroup (h : s.HasClaims claims) {gid : Nat} :
    (s.completeGroup gid).HasClaims claims := by
  unfold State.completeGroup
  dsimp only
  split
  exacts [h, outState_hasClaims ((h.foldl (fun u a h2 => h2.performNow)).runOps)]

theorem State.HasClaims.swapWrite (h : s.HasClaims claims) {q n off : Nat} {bs : List Byte} :
    OptionAll (·.HasClaims claims) (s.swapWrite q n off bs) := by
  induction n generalizing s off bs with
  | zero => exact h
  | succ n ih =>
    unfold State.swapWrite
    split
    · exact h.inSome
    · split
      exacts [trivial, ih h.write]

theorem State.HasClaims.stopCopies (h : s.HasClaims claims) {p : Copy → Bool} : (s.stopCopies p).HasClaims claims :=
  h.of_ctxs

theorem State.HasClaims.endRuns (h : s.HasClaims claims) {gids : List Nat} :
    (s.endRuns gids).HasClaims claims := h.of_ctxs

theorem State.HasClaims.stopGroup (h : s.HasClaims claims) {gid : Nat} {peer : Bool} :
    (s.stopGroup gid peer).HasClaims claims := by
  unfold State.stopGroup
  dsimp only
  split
  exacts [h.withdrawGroup.completeGroup, h.withdrawGroup.completeGroup.putGroup.endRuns]

/-! ### Machine/Swap.lean -/

theorem State.HasClaims.stopTeam (h : s.HasClaims claims) {id : Nat} {t : Team} : (s.stopTeam id t).HasClaims claims :=
  ((((h.foldl (fun _ _ h2 => h2.stopGroup)).stopCopies).meetTeam).freeFb).flushCtx

theorem State.HasClaims.writeBlocks (h : s.HasClaims claims) {q : Nat} {l : List Nat} {bs : List Byte} :
    (s.writeBlocks q l bs).HasClaims claims := by
  induction l generalizing s bs with
  | nil => exact h
  | cons b r ih => exact ih (h.swapWrite.getD h)

theorem State.HasClaims.swapOut (h : s.HasClaims claims) {id : Nat} : (s.swapOut id).HasClaims claims := by
  unfold State.swapOut
  split
  · exact h
  · refine State.HasClaims.ite_cases h ?_
    extract_lets +onlyGivenNames s'
    have hs' : s'.HasClaims claims := h.stopTeam
    split
    exacts [hs'.modSimt.modCtx.writeBlocks.soon, h.modCtx]


/-! ### Queues (R330 to R332, R336) -/

theorem settle_ready {x : Queue} {ac : Nat} (henable : x.enable = true) (hwait : (x.pkt.bind Packet.wait) = none)
    (hwork : x.pkt.isSome = true ∨ x.head ≠ x.tail) : (x.settle ac).state = 2 := by
  have hany : (x.pkt.isSome || x.head != x.tail) = true := by simpa using hwork
  simp [Queue.settle, henable, hwait, hany]

theorem settle_regs (x : Queue) (ac : Nat) : (x.settle ac).tail = x.tail ∧ (x.settle ac).kickerr = x.kickerr
    ∧ (x.settle ac).enable = x.enable ∧ (x.settle ac).fcode = x.fcode ∧ (x.settle ac).prio = x.prio
    ∧ (x.settle ac).errirq = x.errirq := by
  unfold Queue.settle
  split
  · exact ⟨rfl, rfl, rfl, rfl, rfl, rfl⟩
  · split
    · exact ⟨rfl, rfl, rfl, rfl, rfl, rfl⟩
    · split <;> exact ⟨rfl, rfl, rfl, rfl, rfl, rfl⟩

section Kick

variable {s : State} {q v : Nat}

theorem exec_kick_resetting {n : Nat} {y : Vf} (h : ((s.vfOfQueue q).filter fun f => f.2.state == 2) = some (n, y)) :
    exec (.kick q v) s = .next (s.putVf n { y with drop := (y.drop + 1) % 2 ^ 64 }) := by
  change execKick q v s = _
  simp only [execKick, h]

variable (h : ((s.vfOfQueue q).filter fun f => f.2.state == 2) = none)
include h

theorem exec_kick_equal (htail : v % 2 ^ 32 = (s.queue q).tail) (hpart : (s.part (s.partOfQueue q)).refusing = false) :
    exec (.kick q v) s = .next s := by
  change execKick q v s = _
  simp only [execKick, h]
  rw [if_pos ⟨htail, hpart⟩]

theorem exec_kick_moves (hne : v % 2 ^ 32 ≠ (s.queue q).tail)
    (hroom : (v % 2 ^ 32 + 2 ^ 32 - (s.queue q).tail) % 2 ^ 32 + (s.queue q).kicked ≤ 2 ^ (s.queue q).log2)
    (hpart : (s.part (s.partOfQueue q)).refusing = false) :
    exec (.kick q v) s = .next (s.putQueue q (if (s.queue q).state = 1 then
      Queue.settle { s.queue q with tail := v % 2 ^ 32 } s.ac else { s.queue q with tail := v % 2 ^ 32 })) := by
  change execKick q v s = _
  simp only [execKick, h]
  rw [if_neg fun hc => hne hc.1, if_pos ⟨hroom, hpart⟩]

theorem exec_kick_refused (hbad : v % 2 ^ 32 ≠ (s.queue q).tail
      ∧ 2 ^ (s.queue q).log2 < (v % 2 ^ 32 + 2 ^ 32 - (s.queue q).tail) % 2 ^ 32 + (s.queue q).kicked
    ∨ (s.part (s.partOfQueue q)).refusing = true) :
    exec (.kick q v) s = .next (s.putQueue q { s.queue q with kickerr := true }) := by
  change execKick q v s = _
  simp only [execKick, h]
  obtain ⟨hne, hfull⟩ | hpart := hbad
  · rw [if_neg fun hc => hne hc.1, if_neg fun hc => Nat.not_le.mpr hfull hc.1]
  · rw [if_neg (by simp [hpart]), if_neg (by simp [hpart])]

theorem kick_moved (hne : v % 2 ^ 32 ≠ (s.queue q).tail)
    (hroom : (v % 2 ^ 32 + 2 ^ 32 - (s.queue q).tail) % 2 ^ 32 + (s.queue q).kicked ≤ 2 ^ (s.queue q).log2)
    (hpart : (s.part (s.partOfQueue q)).refusing = false) :
    ∃ u, exec (.kick q v) s = .next u ∧ (u.queue q).tail = v % 2 ^ 32 ∧ (u.queue q).head = (s.queue q).head
      ∧ (u.queue q).kickerr = (s.queue q).kickerr
      ∧ ((s.queue q).state = 1 → (s.queue q).enable = true → (s.queue q).pkt = none → (s.queue q).head ≠ v % 2 ^ 32 →
        (u.queue q).state = 2) := by
  refine ⟨_, exec_kick_moves h hne hroom hpart, ?_⟩
  rw [queue_putQueue_same]
  generalize hy : ({ s.queue q with tail := v % 2 ^ 32 } : Queue) = y
  by_cases hidle : (s.queue q).state = 1
  · rw [if_pos hidle, (settle_regs y s.ac).1, (settle_keeps y s.ac).1, (settle_regs y s.ac).2.1]
    subst hy
    exact ⟨rfl, rfl, rfl, fun _ henable hpkt hwork => settle_ready henable (by simp [hpkt]) (.inr hwork)⟩
  · rw [if_neg hidle]
    subst hy
    exact ⟨rfl, rfl, rfl, fun hc => absurd hc hidle⟩

end Kick

section Qctl

variable {s : State} {q v : Nat}

theorem exec_qctlEnable_bad (henable : (s.queue q).enable = false) (hv : bitOf v 0 = true)
    (hbad : (s.queue q).log2 = 0 ∨ 16 < (s.queue q).log2 ∨ (s.queue q).ring % 4096 ≠ 0) : exec (.qctlEnable q v) s
      = .next (s.putQueue q { s.queue q with prio := fieldOf v 8 2, errirq := bitOf v 4, cfgerr := true }) := by
  change execQctlEnable q v s = _
  simp only [execQctlEnable, hv, henable, if_true]
  rw [if_neg Bool.false_ne_true, if_pos hbad]

theorem exec_qctlEnable_on (henable : (s.queue q).enable = true) : exec (.qctlEnable q v) s
    = .next (s.putQueue q { s.queue q with
      prio := fieldOf v 8 2, errirq := bitOf v 4, enable := bitOf v 0
      state := if bitOf v 0 = true ∨ (s.queue q).state = 3 ∨ (s.queue q).state = 5 then (s.queue q).state else 0 }) := by
  change execQctlEnable q v s = _
  cases hv : bitOf v 0
  · by_cases hkeep : (s.queue q).state = 3 ∨ (s.queue q).state = 5
    · have hor : (!(s.queue q).enable || (s.queue q).state == 3 || (s.queue q).state == 5) = true := by
        simpa [henable] using hkeep
      simp [execQctlEnable, hv, hor, hkeep]
    · have hor : (!(s.queue q).enable || (s.queue q).state == 3 || (s.queue q).state == 5) = false := by
        simpa [henable] using hkeep
      simp [execQctlEnable, hv, hor, hkeep]
  · simp [execQctlEnable, hv, henable]

theorem exec_qctlEnable_off (henable : (s.queue q).enable = false) (hv : bitOf v 0 = false) : exec (.qctlEnable q v) s
    = .next (s.putQueue q { s.queue q with prio := fieldOf v 8 2, errirq := bitOf v 4 }) := by
  change execQctlEnable q v s = _
  simp [execQctlEnable, hv, henable]

theorem qctlEnable_good (henable : (s.queue q).enable = false) (hv : bitOf v 0 = true) (hlow : 1 ≤ (s.queue q).log2)
    (hhigh : (s.queue q).log2 ≤ 16) (hring : (s.queue q).ring % 4096 = 0) : ∃ u, exec (.qctlEnable q v) s = .next u
      ∧ (u.queue q).enable = true ∧ (u.queue q).fcode = 0 ∧ (u.queue q).prio = fieldOf v 8 2
      ∧ (u.queue q).errirq = bitOf v 4 := by
  have hgood : ¬ ((s.queue q).log2 = 0 ∨ 16 < (s.queue q).log2 ∨ (s.queue q).ring % 4096 ≠ 0) := by omega
  have hexec : exec (.qctlEnable q v) s = execQctlEnable q v s := rfl
  simp only [execQctlEnable, hv, henable, if_true] at hexec
  rw [if_neg Bool.false_ne_true, if_neg hgood] at hexec
  refine ⟨_, hexec.trans (apply_ite Host.Outcome.next _ _ _).symm, ?_⟩
  split
  · rw [queue_putQueue_same]
    exact ⟨rfl, rfl, rfl, rfl⟩
  · generalize hy : ({ s.queue q with prio := _, errirq := _, enable := _, fcode := _ } : Queue) = y
    have hq : (if (y.settle s.ac).state = 4 then
        (s.putQueue q (y.settle s.ac)).laterWithin 200 (.queueWaitWake q) else s.putQueue q (y.settle s.ac)).queue q
        = y.settle s.ac := by
      split <;> exact queue_putQueue_same ..
    rw [hq]
    obtain ⟨_, _, hon, hcode, hprio, hirq⟩ := settle_regs y s.ac
    rw [hon, hcode, hprio, hirq, ← hy]
    exact ⟨rfl, rfl, rfl, rfl⟩

theorem qctlSkip_faulted (hv : bitOf v 16 = true) (hstate : (s.queue q).state = 5) : ∃ u, exec (.qctlSkip q v) s = .next u
    ∧ (u.queue q).head = ((s.queue q).head + 1) % 2 ^ 32 ∧ (u.queue q).fcode = 0 := by
  have hexec : exec (.qctlSkip q v) s = execQctlSkip q v s := rfl
  simp only [execQctlSkip, hv, hstate, Bool.true_and, beq_self_eq_true, if_true] at hexec
  refine ⟨_, hexec, ?_⟩
  rw [queue_putQueue_same, (settle_keeps _ _).1, (settle_regs _ _).2.2.2.1]
  exact ⟨rfl, rfl⟩

theorem exec_qctlSkip_not (h : bitOf v 16 = false ∨ (s.queue q).state ≠ 5) : exec (.qctlSkip q v) s = .next s := by
  change execQctlSkip q v s = _
  have hnot : (bitOf v 16 && (s.queue q).state == 5) = false := by
    obtain h | h := h <;> simp [h]
  simp [execQctlSkip, hnot]

end Qctl


/-! ### The Easel, commits and waits (R334 to R336, R341, R342) -/

theorem post_queueState (s : State) (q n : Nat) : ((s.post q n).queue q).state = (s.queue q).state
    ∧ ((s.post q n).queue q).fcode = (s.queue q).fcode := by
  unfold State.post State.postFrom
  split
  · dsimp only
    rw [queue_modQueue_same]
    exact ⟨rfl, rfl⟩
  · exact ⟨rfl, rfl⟩

theorem queueFault_state (s : State) (q code : Nat) : ((s.queueFault q code).queue q).state = 5
    ∧ ((s.queueFault q code).queue q).fcode = code := by
  unfold State.queueFault
  dsimp only
  split
  · rw [(post_queueState ..).1, (post_queueState ..).2, queue_putQueue_same]
    exact ⟨rfl, rfl⟩
  · rw [queue_putQueue_same]
    exact ⟨rfl, rfl⟩

section Easel

variable {s : State} {die : Nat}

/-- The READY queues of a front end passed over, or taken. -/
def State.passReady (s : State) (die q : Nat) : State := (s.readyQueues die).foldl (fun s y =>
  s.putQueue y.1 { y.2 with passedOver := if y.1 = q then 0 else y.2.passedOver + 1 }) s

/-- The state in which a front end has taken a queue, and has asked for its next turn where others are READY. -/
def State.easelTurn (s : State) (die q : Nat) : State :=
  if ((s.passReady die q).readyQueues die).length ≤ 1 then s.passReady die q else (s.passReady die q).soon (.easelAssign die)

theorem passReady_dies (s : State) (die q : Nat) : (s.passReady die q).dies = s.dies := by
  refine foldl_keeps (fun t => t.dies) (fun t y => ?_) _ _
  rfl

theorem passReady_sketches (s : State) (die q : Nat) : (s.passReady die q).hub.sketches = s.hub.sketches := by
  refine foldl_keeps (fun t => t.hub.sketches) (fun t y => ?_) _ _
  rfl

theorem easelTurn_sketch (s : State) (die q p id : Nat) : (s.easelTurn die q).sketch? p id = s.sketch? p id
    ∧ (s.easelTurn die q).partOfQueue p = s.partOfQueue p := by
  have hpass : (s.passReady die q).sketch? p id = s.sketch? p id ∧ (s.passReady die q).partOfQueue p = s.partOfQueue p := by
    unfold State.sketch? State.partOfQueue State.partOfDie State.die
    rw [passReady_dies, passReady_sketches]
    exact ⟨rfl, rfl⟩
  unfold State.easelTurn
  split <;> exact hpass

theorem exec_easelAssign_waits (h : s.readyQueues die = []
    ∨ 64 ≤ (s.hub.queues.filter fun y => dieOfQueue y.1 == die && y.2.state == 3).length) :
    exec (.easelAssign die) s = .next s := by
  change execEaselAssign die s = _
  unfold execEaselAssign
  obtain hnone | hbusy := h
  · rw [hnone]
    rfl
  · dsimp only
    split
    · rfl
    · rw [if_pos hbusy]

theorem exec_easelAssign_takes {q : Nat} {x : Queue} (hfirst : firstQueue (s.readyQueues die) = some (q, x))
    (hfree : (s.hub.queues.filter fun y => dieOfQueue y.1 == die && y.2.state == 3).length < 64) :
    exec (.easelAssign die) s = .next (match s.sketch? (s.partOfQueue q) x.sketch with
      | none => (s.easelTurn die q).queueFault q 8
      | some _ => (s.easelTurn die q).modQueue q fun y => { y with state := 3, pkt := some (y.pkt.getD Packet.start) }) := by
  change execEaselAssign die s = _
  have hkeep (p id : Nat) := easelTurn_sketch s die q p id
  unfold execEaselAssign
  rw [hfirst]
  dsimp only
  rw [if_neg (Nat.not_le.mpr hfree), ← (hkeep (s.partOfQueue q) x.sketch).1, ← (hkeep q 0).2]
  rfl

end Easel

section Commit

variable {s : State} {q : Nat} {k : Packet} (hpkt : (s.queue q).pkt = some k)
include hpkt

theorem exec_launchCommit {n : Nat} {drop : Bool} {t : TaskRec} {l : LaunchRec} {spt : List SptEntry} {d : Nat}
    {r : List Staged} (hcommit : k.commit = some (n, drop)) (hstaged : k.staged = .launch t l spt d :: r) :
    exec (.launchCommit q) s = if s.treeEntries (dieOfQueue q) < 4096 ∧ s.taskEntries (dieOfQueue q) < 16384 then
      .next ((s.acceptSeed q t l spt d).commitOn q n drop r) else .next s := by
  change execLaunchCommit q s = _
  simp only [execLaunchCommit, hpkt, hcommit, hstaged]

variable {pa target : Nat} (hwait : k.wait = some (pa, target))
include hwait

theorem exec_queueWaitWake : exec (.queueWaitWake q) s = if target ≤ s.peek pa 8 then
    .next (s.putQueue q (Queue.settle { s.queue q with pkt := some { k with wait := none } } s.ac)) else .next s := by
  change execQueueWaitWake q s = _
  simp only [execQueueWaitWake, hpkt, hwait]

theorem queueWaitWake_ready (henable : (s.queue q).enable = true) (hreached : target ≤ s.peek pa 8) :
    ∃ u, exec (.queueWaitWake q) s = .next u ∧ (u.queue q).state = 2 ∧ (u.queue q).pkt = some { k with wait := none } := by
  refine ⟨_, (exec_queueWaitWake hpkt hwait).trans (if_pos hreached), ?_⟩
  rw [queue_putQueue_same, (settle_keeps _ _).2.2.2]
  exact ⟨settle_ready henable rfl (.inl rfl), rfl⟩

end Commit

/-! ### The end of the skid (R352, R354) -/

theorem haltVector_ctx (s : State) (q p : Nat) : (s.haltVector q).ctx p = s.ctx p := by
  unfold State.haltVector
  dsimp only
  split
  · rfl
  · split
    · rfl
    · unfold State.post State.postFrom
      split <;> rfl

theorem writeReport_ctx (s : State) (q p : Nat) (h : Halt) : (s.writeReport q h).ctx p = s.ctx p := by
  unfold State.writeReport
  split
  · rfl
  · exact ((write_keepsTables ..).trans (addCounter_keepsTables ..)).ctx p

theorem endSkid_ctx (s : State) (q : Nat) (h : Halt) : ((s.endSkid q h).ctx q).state = 2 ∧ ((s.endSkid q h).ctx q).cause = h.cause := by
  unfold State.endSkid
  extract_lets +onlyGivenNames gids
  rw [haltVector_ctx, writeReport_ctx, State.modCtx, ctx_putCtx_same]
  exact ⟨rfl, rfl⟩

section Skid

variable {s : State} {q : Nat}

theorem exec_skidEnd_none (h : (s.ctx q).halt = none) : exec (.skidEnd q) s = .next s := by
  change execSkidEnd q s = _
  simp only [execSkidEnd, h]

theorem exec_skidEnd {h : Halt} (hhalt : (s.ctx q).halt = some h) (hstate : (s.ctx q).state = 1) {u : State}
    (hu : (s.residentGroups q).foldl State.withdrawGroup s = u) :
    exec (.skidEnd q) s = if ((s.residentGroups q).any fun gid => (u.group? gid).any (u.skidWork gid))
        && decide (u.ac < h.time + u.skidBound (s.residentGroups q)) then .next (u.at (u.ac + 1) (.skidEnd q))
      else .next (u.endSkid q h) := by
  subst hu
  change execSkidEnd q s = _
  simp only [execSkidEnd, hhalt]
  exact if_neg (not_not_intro hstate)

end Skid


/-! ### Claimed cores (R363) -/

section Claim

variable {s : State} {q n : Nat} (heid : (s.ctx q).eid ≠ 0)

@[simp] theorem ctx_modCtx_same (s : State) (q : Nat) (f : Ctx → Ctx) : (s.modCtx q f).ctx q = f (s.ctx q) := ctx_putCtx_same ..

theorem ctx_soon (s : State) (e : Event) (q : Nat) : (s.soon e).ctx q = s.ctx q := rfl

theorem exec_claimComplete_busy (hbusy : (s.ctx q).vacBusy = true) : exec (.claimComplete q) s
    = .next (if (s.ctx q).halt = none then s.modCtx q fun c => { c with vacBusy := false, vacResult := 0 } else s) := by
  change execClaimComplete q s = _
  simp [execClaimComplete, hbusy]

theorem exec_claimComplete_idle (hbusy : (s.ctx q).vacBusy = false) : exec (.claimComplete q) s = .next s := by
  change execClaimComplete q s = _
  simp [execClaimComplete, hbusy]

include heid

theorem exec_cxvacClaim_busy (hbusy : (s.ctx q).vacBusy = true) : exec (.cxvacClaim q n) s = .next (s.claimResult q 1) := by
  change execCxvacClaim q n s = _
  unfold execCxvacClaim
  dsimp only
  rw [if_neg heid, if_pos hbusy]

theorem exec_cxvacRelease_busy (hbusy : (s.ctx q).vacBusy = true) : exec (.cxvacRelease q) s = .next (s.claimResult q 1) := by
  change execCxvacRelease q s = _
  unfold execCxvacRelease
  dsimp only
  rw [if_neg heid, if_pos hbusy]

variable (hbusy : (s.ctx q).vacBusy = false)
include hbusy

theorem cxvacRelease_frees : ∃ u, exec (.cxvacRelease q) s = .next u ∧ (u.ctx q).claimed = [] ∧ (u.ctx q).vacResult = 0 := by
  have hexec : exec (.cxvacRelease q) s = execCxvacRelease q s := rfl
  unfold execCxvacRelease at hexec
  dsimp only at hexec
  rw [if_neg heid, if_neg (by simp [hbusy])] at hexec
  refine ⟨_, hexec, ?_⟩
  rw [ctx_soon, ctx_modCtx_same]
  exact ⟨rfl, rfl⟩

theorem exec_cxvacClaim_state (hstate : (s.ctx q).state ≠ 1 ∨ (s.ctx q).frozen = true) :
    exec (.cxvacClaim q n) s = .next (s.claimResult q 2) := by
  change execCxvacClaim q n s = _
  unfold execCxvacClaim
  dsimp only
  rw [if_neg heid, if_neg (by simp [hbusy]), if_pos hstate]

variable (hstate : (s.ctx q).state = 1) (hfrozen : (s.ctx q).frozen = false)
include hstate hfrozen

theorem exec_cxvacClaim_many (hcores : 2048 ≤ n ∨ s.claimCores q n = none) :
    exec (.cxvacClaim q n) s = .next (s.claimResult q 3) := by
  change execCxvacClaim q n s = _
  unfold execCxvacClaim
  dsimp only
  rw [if_neg heid, if_neg (by simp [hbusy]), if_neg (by simp [hstate, hfrozen])]
  split
  · rfl
  · next hlow =>
    rw [hcores.resolve_left hlow]

/-- The teams that leave the cores of a claim. -/
def State.claimTeams (s : State) (q : Nat) (cores : List Nat) : List (Nat × Team) :=
  (s.imageTeams q).filter fun t => t.2.state == .resident && cores.contains t.2.core

variable {cores : List Nat} (hn : n < 2048) (hcores : s.claimCores q n = some cores)
include hn hcores

theorem exec_cxvacClaim_full (hswap : s.canSwapAll ((s.claimTeams q cores).map Prod.fst) = false) : exec (.cxvacClaim q n) s
    = .next ((s.claimResult q 4).modCtx q fun c => { c with swapfull := true }) := by
  change execCxvacClaim q n s = _
  unfold execCxvacClaim
  dsimp only
  rw [if_neg heid, if_neg (by simp [hbusy]), if_neg (by simp [hstate, hfrozen]), if_neg (Nat.not_le.mpr hn), hcores]
  dsimp only
  exact if_pos (congrArg not hswap)

/-- The cores claimed, and their teams swapped out. -/
def State.swapClaim (s : State) (q : Nat) (cores : List Nat) : State :=
  (s.claimTeams q cores).foldl (fun s t => s.swapOut t.1)
    (s.modCtx q fun c => { c with vacBusy := true, claimed := c.claimed ++ cores })

theorem exec_cxvacClaim_swaps (hswap : s.canSwapAll ((s.claimTeams q cores).map Prod.fst) = true) :
    exec (.cxvacClaim q n) s = .next (((s.swapClaim q cores).soon
      (.teamPlacement ((s.swapClaim q cores).partOfQueue q))).laterWithin
        (2144 + ((s.claimTeams q cores).map fun t => s.teamSize t.1 t.2).sum / 512) (.claimComplete q)) := by
  change execCxvacClaim q n s = _
  unfold execCxvacClaim
  dsimp only
  rw [if_neg heid, if_neg (by simp [hbusy]), if_neg (by simp [hstate, hfrozen]), if_neg (Nat.not_le.mpr hn), hcores]
  dsimp only
  exact if_neg (ne_of_eq_of_ne (congrArg not hswap) Bool.false_ne_true)

theorem cxvacClaim_swaps (hswap : s.canSwapAll ((s.claimTeams q cores).map Prod.fst) = true) : ∃ u,
    exec (.cxvacClaim q n) s = .next u ∧ (u.ctx q).claimed = (s.ctx q).claimed ++ cores ∧ (u.ctx q).vacBusy = true := by
  refine ⟨_, exec_cxvacClaim_swaps heid hbusy hstate hfrozen hn hcores hswap, ?_⟩
  change ((s.swapClaim q cores).ctx q).claimed = _ ∧ ((s.swapClaim q cores).ctx q).vacBusy = true
  unfold State.swapClaim
  generalize ht : (s.modCtx q fun c => { c with vacBusy := true, claimed := c.claimed ++ cores }) = t
  have hctx : (t.ctx q).claimed = (s.ctx q).claimed ++ cores ∧ (t.ctx q).vacBusy = true := by
    rw [← ht, ctx_modCtx_same]
    exact ⟨rfl, rfl⟩
  have hself : t.HasClaims fun p => ((t.ctx p).claimed, (t.ctx p).vacBusy) := fun p => rfl
  have hkept := (hself.foldl (l := s.claimTeams q cores) (f := fun s x => s.swapOut x.1) fun _ _ h => h.swapOut) q
  obtain ⟨hclaimed, hvac⟩ := Prod.mk.inj hkept
  exact ⟨hclaimed.trans hctx.1, hvac.trans hctx.2⟩

end Claim

/-! ### Range commands (R319) -/

section Range

variable {s : State} {q v : Nat}

theorem dropRange_of_some {i : Nat} {e : RangeEntry} (h : Tbl.get? (s.ctx q).ranges i = some e) : ∃ t : State,
    s.dropRange q i = t.modCtx q fun c => { c with ranges := Tbl.del c.ranges i } := by
  refine ⟨s.drainWhere (fun pa => e.covers (pa / 4096)) fun r => e.cls == 1 && r.region == e.pbase, ?_⟩
  unfold State.dropRange
  rw [h]

theorem dropRange_gone (s : State) (q i : Nat) : Tbl.get? ((s.dropRange q i).ctx q).ranges i = none := by
  cases h : Tbl.get? (s.ctx q).ranges i with
  | none => rwa [State.dropRange, h]
  | some e =>
    obtain ⟨t, ht⟩ := dropRange_of_some h
    rw [ht, ctx_modCtx_same]
    exact Tbl.get?_del_same ..

theorem rstat_ctx (s : State) (q r : Nat) : ((s.rstat q r).ctx q).rstat = r
    ∧ ((s.rstat q r).ctx q).ranges = (s.ctx q).ranges := by
  rw [State.rstat, ctx_modCtx_same]
  exact ⟨rfl, rfl⟩

variable (heid : (s.ctx q).eid ≠ 0)
include heid

theorem exec_rcmdWrite_bad (hbad : rcmdBad v = true) : exec (.rcmdWrite q v) s = .next (s.rstat q 3) := by
  change execRcmdWrite q v s = _
  unfold execRcmdWrite
  dsimp only
  rw [if_neg heid, if_pos hbad]

theorem exec_rcmdInval_bad (hbad : rcmdBad v = true) : exec (.rcmdInval q v) s = .next (s.rstat q 3) := by
  change execRcmdInval q v s = _
  unfold execRcmdInval
  dsimp only
  rw [if_neg heid, if_pos hbad]

variable (hgood : rcmdBad v = false)
include hgood

theorem exec_rcmdWrite_publishing (hbusy : s.publishing q (v % 128) = true) : exec (.rcmdWrite q v) s
    = .next (s.at (s.ac + 1) (.deviceWrite (kickBase + 4096 * q + 0x80) 8 v)) := by
  change execRcmdWrite q v s = _
  unfold execRcmdWrite
  dsimp only
  rw [if_neg heid, if_neg (by simp [hgood]), if_pos hbusy]

theorem exec_rcmdInval_publishing (hbusy : s.publishing q (v % 128) = true) : exec (.rcmdInval q v) s
    = .next (s.at (s.ac + 1) (.deviceWrite (kickBase + 4096 * q + 0x80) 8 v)) := by
  change execRcmdInval q v s = _
  unfold execRcmdInval
  dsimp only
  rw [if_neg heid, if_neg (by simp [hgood]), if_pos hbusy]

variable (hidle : s.publishing q (v % 128) = false)
include hidle

theorem exec_rcmdInval : exec (.rcmdInval q v) s = .next ((s.dropRange q (v % 128)).rstat q 0) := by
  change execRcmdInval q v s = _
  unfold execRcmdInval
  dsimp only
  rw [if_neg heid, if_neg (by simp [hgood]), if_neg (by simp [hidle])]

theorem rcmdInval_drops : ∃ u, exec (.rcmdInval q v) s = .next u ∧ (u.ctx q).rstat = 0
    ∧ Tbl.get? (u.ctx q).ranges (v % 128) = none := by
  refine ⟨_, exec_rcmdInval heid hgood hidle, (rstat_ctx ..).1, ?_⟩
  rw [(rstat_ctx ..).2]
  exact dropRange_gone ..

theorem exec_rcmdWrite_refused (hres : s.rangeResult q (v % 128) (s.ctx q).rstage ≠ 0) : exec (.rcmdWrite q v) s
    = .next (s.rstat q (s.rangeResult q (v % 128) (s.ctx q).rstage)) := by
  change execRcmdWrite q v s = _
  unfold execRcmdWrite
  dsimp only
  rw [if_neg heid, if_neg (by simp [hgood]), if_neg (by simp [hidle]), if_pos hres]

omit heid hgood hidle

/-- What becomes of the regions of the entry given up and of the one that is written. -/
def State.rangeRegions (s : State) (eid q i : Nat) (old : Option RangeEntry) (e : RangeEntry) : State :=
  let s := match old with
    | some o => if o.cls = 1 then s.emptyRegion o.pbase else s
    | none => s
  if e.cls = 1 && !s.regionHeld eid q i e.pbase then s.emptyRegion e.pbase else s

/-- The old entry of a place given up, and the regions made ready for the one that is staged. -/
def State.rangeReady (s : State) (q i : Nat) : State :=
  (s.dropRange q i).rangeRegions (s.ctx q).eid q i (Tbl.get? (s.ctx q).ranges i) (stagedRange (s.ctx q).rstage).1

theorem rangeRegions_ctx (s : State) (eid q i : Nat) (old : Option RangeEntry) (e : RangeEntry) (p : Nat) :
    (s.rangeRegions eid q i old e).ctx p = s.ctx p := by
  unfold State.rangeRegions
  cases old with
  | none => exact (apply_ite (fun t : State => t.ctx p) _ _ _).trans (ite_self _)
  | some o =>
    dsimp only
    split <;> exact (apply_ite (fun t : State => t.ctx p) _ _ _).trans (ite_self _)

include heid hgood hidle

theorem exec_rcmdWrite_good (hres : s.rangeResult q (v % 128) (s.ctx q).rstage = 0) : exec (.rcmdWrite q v) s
    = .next ((if (stagedRange (s.ctx q).rstage).2 then
        (s.rangeReady q (v % 128)).modCtx q fun c =>
          { c with ranges := Tbl.put c.ranges (v % 128) (stagedRange (s.ctx q).rstage).1 }
      else s.rangeReady q (v % 128)).rstat q 0) := by
  change execRcmdWrite q v s = _
  unfold execRcmdWrite
  dsimp only
  rw [if_neg heid, if_neg (by simp [hgood]), if_neg (by simp [hidle]), if_neg (not_not_intro hres)]
  rfl

theorem rcmdWrite_installs (hres : s.rangeResult q (v % 128) (s.ctx q).rstage = 0) :
    ∃ u, exec (.rcmdWrite q v) s = .next u ∧ (u.ctx q).rstat = 0 ∧ Tbl.get? (u.ctx q).ranges (v % 128)
      = (if (stagedRange (s.ctx q).rstage).2 = true then some (stagedRange (s.ctx q).rstage).1 else none) := by
  refine ⟨_, exec_rcmdWrite_good heid hgood hidle hres, (rstat_ctx ..).1, ?_⟩
  rw [(rstat_ctx ..).2]
  split
  · rw [ctx_modCtx_same]
    exact Tbl.get?_put_same ..
  · rw [State.rangeReady, rangeRegions_ctx]
    exact dropRange_gone ..

end Range

/-! ### Sketch commands (R346, R347) -/

section Sketches

variable {s : State} {p v : Nat}

theorem skResult_part (s : State) (p c w : Nat) (hash : List Byte) : ((s.skResult p c w (some hash)).part p).skstat = c + 65536 * w
    ∧ ((s.skResult p c w (some hash)).part p).skhash = hash := by
  rw [State.skResult, part_modPart_same]
  exact ⟨rfl, rfl⟩

theorem exec_skcmdLoad_not (h : v % 4 ≠ 1) : exec (.skcmdLoad p v) s = .next s := if_pos h

theorem exec_skcmdUnload_not (h : v % 4 ≠ 2) : exec (.skcmdUnload p v) s = .next s := if_pos h

section Load

variable (hv : v % 4 = 1)
include hv

theorem exec_skcmdLoad_header (hbad : s.inHostPages p (s.part p).skbuf 32 = false
    ∨ skHeaderBad (s.bytes (s.part p).skbuf 32) = true
    ∨ s.inHostPages p (s.part p).skbuf (32 + 4 * fieldAt (s.bytes (s.part p).skbuf 32) 6 2) = false) :
    exec (.skcmdLoad p v) s = .next (s.skResult p 1 0 none) := by
  change execSkcmdLoad p v s = _
  unfold execSkcmdLoad
  dsimp only
  rw [if_neg (not_not_intro hv)]
  split
  · rfl
  · next hpages =>
    have hpages : s.inHostPages p (s.part p).skbuf 32 = true := by simpa using hpages
    rw [if_pos]
    obtain h | h | h := hbad
    · exact absurd (h.symm.trans hpages) Bool.false_ne_true
    · rw [h, Bool.true_or]
    · rw [h, Bool.not_false, Bool.or_true]

variable (hpages : s.inHostPages p (s.part p).skbuf 32 = true) {h bs : List Byte} (hh : s.bytes (s.part p).skbuf 32 = h)
  (hgood : skHeaderBad h = false) (hall : s.inHostPages p (s.part p).skbuf (32 + 4 * fieldAt h 6 2) = true)
  (hbs : s.bytes ((s.part p).skbuf + 32) (4 * fieldAt h 6 2) = bs) {ws : List W32} (hws : bytesWords (fieldAt h 6 2) bs = ws)
include hpages hh hgood hall hbs hws

theorem exec_skcmdLoad : exec (.skcmdLoad p v) s = match skWordsFail ws with
    | some (c, i) => .next (s.skResult p c i none)
    | none => if fieldAt h 8 4 = 1 ∨ (s.sketch? p (fieldAt h 8 4)).isSome then .next (s.skResult p 8 0 none)
      else if s.storeFull p (fieldAt h 6 2) then .next (s.skResult p 9 0 none)
      else .next ((s.modHub fun y => { y with
        sketches := Tbl.put y.sketches (65536 * p + fieldAt h 8 4) ⟨sha3 (h ++ bs), bytesWords 8 h ++ ws⟩ }).skResult p 0 0
          (some (sha3 (h ++ bs)))) := by
  change execSkcmdLoad p v s = _
  unfold execSkcmdLoad
  subst hh hbs hws
  dsimp only
  rw [if_neg (not_not_intro hv), if_neg (by simp [hpages]), if_neg (by simp [hgood, hall])] <;> rfl

theorem exec_skcmdLoad_words {c i : Nat} (hfail : skWordsFail ws = some (c, i)) :
    exec (.skcmdLoad p v) s = .next (s.skResult p c i none) := by
  rw [exec_skcmdLoad hv hpages hh hgood hall hbs hws, hfail]

variable (hfine : skWordsFail ws = none)
include hfine

theorem exec_skcmdLoad_loaded (hid : fieldAt h 8 4 = 1 ∨ (s.sketch? p (fieldAt h 8 4)).isSome = true) :
    exec (.skcmdLoad p v) s = .next (s.skResult p 8 0 none) := by
  rw [exec_skcmdLoad hv hpages hh hgood hall hbs hws, hfine]
  exact if_pos hid

variable (hid : fieldAt h 8 4 ≠ 1) (hnew : s.sketch? p (fieldAt h 8 4) = none)
include hid hnew

theorem exec_skcmdLoad_full (hfull : s.storeFull p (fieldAt h 6 2) = true) :
    exec (.skcmdLoad p v) s = .next (s.skResult p 9 0 none) := by
  rw [exec_skcmdLoad hv hpages hh hgood hall hbs hws, hfine]
  dsimp only
  rw [if_neg (by simp [hid, hnew]), if_pos hfull]

theorem skcmdLoad_loads (hroom : s.storeFull p (fieldAt h 6 2) = false) : ∃ u, exec (.skcmdLoad p v) s = .next u
    ∧ (u.part p).skstat = 0 ∧ (u.part p).skhash = sha3 (h ++ bs)
    ∧ Tbl.get? u.hub.sketches (65536 * p + fieldAt h 8 4) = some ⟨sha3 (h ++ bs), bytesWords 8 h ++ ws⟩ := by
  have hexec := exec_skcmdLoad hv hpages hh hgood hall hbs hws
  rw [hfine] at hexec
  dsimp only at hexec
  rw [if_neg (by simp [hid, hnew]), if_neg (by simp [hroom])] at hexec
  exact ⟨_, hexec, (skResult_part ..).1, (skResult_part ..).2, Tbl.get?_put_same ..⟩

end Load

section Unload

variable (hv : v % 4 = 2)
include hv

theorem exec_skcmdUnload_used (huse : fieldOf v 16 32 = 1
    ∨ (s.hub.queues.any fun q => q.2.eid != 0 && q.2.sketch == fieldOf v 16 32 && s.partOfQueue q.1 == p) = true) :
    exec (.skcmdUnload p v) s = .next (s.skResult p 10 0 none) := by
  change execSkcmdUnload p v s = _
  unfold execSkcmdUnload
  dsimp only
  rw [if_neg (not_not_intro hv), if_pos huse]

variable (hid : fieldOf v 16 32 ≠ 1) (hfree : (s.hub.queues.any fun q =>
  q.2.eid != 0 && q.2.sketch == fieldOf v 16 32 && s.partOfQueue q.1 == p) = false)
include hid hfree

theorem exec_skcmdUnload : exec (.skcmdUnload p v) s
    = match (if fieldOf v 16 32 < 65536 then s.sketch? p (fieldOf v 16 32) else none) with
      | none => .next (s.skResult p 11 0 none)
      | some k => .next ((s.modHub fun y => { y with
        sketches := Tbl.del y.sketches (65536 * p + fieldOf v 16 32) }).skResult p 0 0 (some k.hash)) := by
  change execSkcmdUnload p v s = _
  unfold execSkcmdUnload
  dsimp only
  rw [if_neg (not_not_intro hv), if_neg (by simp only [hfree, hid, or_self, Bool.false_eq_true, not_false_eq_true])] <;> rfl

theorem exec_skcmdUnload_unknown (hnone : 65536 ≤ fieldOf v 16 32 ∨ s.sketch? p (fieldOf v 16 32) = none) :
    exec (.skcmdUnload p v) s = .next (s.skResult p 11 0 none) := by
  rw [exec_skcmdUnload hv hid hfree]
  obtain h | h := hnone
  · rw [if_neg (Nat.not_lt.mpr h)]
  · rw [h, ite_self]

theorem skcmdUnload_unloads {k : Sketch} (hlow : fieldOf v 16 32 < 65536) (hsome : s.sketch? p (fieldOf v 16 32) = some k) :
    ∃ u, exec (.skcmdUnload p v) s = .next u ∧ u.sketch? p (fieldOf v 16 32) = none := by
  have hexec := exec_skcmdUnload hv hid hfree
  rw [if_pos hlow, hsome] at hexec
  refine ⟨_, hexec, ?_⟩
  rw [State.sketch?, if_neg hid]
  exact Tbl.get?_del_same ..

end Unload

end Sketches

/-! ### Scrubbed pages (R316) -/

theorem scrubbed_state (e : Pot) : e.scrubbed.state = e.next := by
  unfold Pot.scrubbed
  split <;> rfl

section Scrub

variable {s : State} {page : Nat} {e : Pot} (h : Tbl.get? s.store.pot page = some e)
include h

theorem scrub_ends (hstate : e.state = potScrub) : ∃ u, exec (.scrub page) s = .next u ∧ (u.potOf page).state = e.next
    ∧ u.store.mem = s.store.mem := by
  have hexec : exec (.scrub page) s = .next (s.putPot page e.scrubbed) := by
    change execScrub page s = _
    simp only [execScrub, h]
    exact if_pos hstate
  refine ⟨_, hexec, ?_, rfl⟩
  rw [(State.HasPot.putPot_same ..).potOf, scrubbed_state]

theorem exec_scrub_not (hstate : e.state ≠ potScrub) : exec (.scrub page) s = .next s := by
  change execScrub page s = _
  simp only [execScrub, h]
  exact if_neg hstate

end Scrub

/-! ### The statement -/

section Clauses

variable (s : State) (q : Nat)

theorem kick_clause (v : Nat) (x : Queue) (hx : s.queue q = x) (h : ((s.vfOfQueue q).filter fun f => f.2.state == 2) = none) :
    (v % 2 ^ 32 = x.tail → (s.part (s.partOfQueue q)).refusing = false → exec (.kick q v) s = .next s)
    ∧ (v % 2 ^ 32 ≠ x.tail → (v % 2 ^ 32 + 2 ^ 32 - x.tail) % 2 ^ 32 + x.kicked ≤ 2 ^ x.log2 →
      (s.part (s.partOfQueue q)).refusing = false →
      ∃ u, exec (.kick q v) s = .next u ∧ (u.queue q).tail = v % 2 ^ 32 ∧ (u.queue q).head = x.head
        ∧ (u.queue q).kickerr = x.kickerr
        ∧ (x.state = 1 → x.enable = true → x.pkt = none → x.head ≠ v % 2 ^ 32 → (u.queue q).state = 2))
    ∧ ((v % 2 ^ 32 ≠ x.tail ∧ 2 ^ x.log2 < (v % 2 ^ 32 + 2 ^ 32 - x.tail) % 2 ^ 32 + x.kicked
        ∨ (s.part (s.partOfQueue q)).refusing = true) →
      exec (.kick q v) s = .next (s.putQueue q { x with kickerr := true })) := by
  subst hx
  exact ⟨exec_kick_equal h, kick_moved h, exec_kick_refused h⟩

theorem qctl_clause (v : Nat) (x : Queue) (hx : s.queue q = x) (henable : x.enable = false) :
    (bitOf v 0 = true → (x.log2 = 0 ∨ 16 < x.log2 ∨ x.ring % 4096 ≠ 0) → exec (.qctlEnable q v) s
      = .next (s.putQueue q { x with prio := fieldOf v 8 2, errirq := bitOf v 4, cfgerr := true }))
    ∧ (bitOf v 0 = true → 1 ≤ x.log2 → x.log2 ≤ 16 → x.ring % 4096 = 0 → ∃ u, exec (.qctlEnable q v) s = .next u
      ∧ (u.queue q).enable = true ∧ (u.queue q).fcode = 0 ∧ (u.queue q).prio = fieldOf v 8 2
      ∧ (u.queue q).errirq = bitOf v 4)
    ∧ (bitOf v 0 = false →
      exec (.qctlEnable q v) s = .next (s.putQueue q { x with prio := fieldOf v 8 2, errirq := bitOf v 4 })) := by
  subst hx
  exact ⟨exec_qctlEnable_bad henable, qctlEnable_good henable, exec_qctlEnable_off henable⟩

theorem easel_clause (die : Nat) (x : Queue) (hfirst : firstQueue (s.readyQueues die) = some (q, x))
    (hfree : (s.hub.queues.filter fun y => dieOfQueue y.1 == die && y.2.state == 3).length < 64) :
    ((s.sketch? (s.partOfQueue q) x.sketch).isSome = true → ∃ u, exec (.easelAssign die) s = .next u
      ∧ (u.queue q).state = 3 ∧ (u.queue q).pkt.isSome = true)
    ∧ (s.sketch? (s.partOfQueue q) x.sketch = none → ∃ u, exec (.easelAssign die) s = .next u ∧ (u.queue q).state = 5
      ∧ (u.queue q).fcode = 8) := by
  have hexec := exec_easelAssign_takes hfirst hfree
  refine ⟨fun hloaded => ?_, fun hnone => ?_⟩
  · obtain ⟨k, hk⟩ := Option.isSome_iff_exists.mp hloaded
    rw [hk] at hexec
    refine ⟨_, hexec, ?_⟩
    rw [queue_modQueue_same]
    exact ⟨rfl, rfl⟩
  · rw [hnone] at hexec
    exact ⟨_, hexec, queueFault_state ..⟩

theorem packet_clause (k : Packet) (hpkt : (s.queue q).pkt = some k) :
    (∀ n drop t l spt d r, k.commit = some (n, drop) → k.staged = .launch t l spt d :: r →
      (s.treeEntries (dieOfQueue q) < 4096 → s.taskEntries (dieOfQueue q) < 16384 →
        exec (.launchCommit q) s = .next ((s.acceptSeed q t l spt d).commitOn q n drop r))
      ∧ ((4096 ≤ s.treeEntries (dieOfQueue q) ∨ 16384 ≤ s.taskEntries (dieOfQueue q)) → exec (.launchCommit q) s = .next s))
    ∧ ∀ pa target, k.wait = some (pa, target) →
      (s.peek pa 8 < target → exec (.queueWaitWake q) s = .next s)
      ∧ ((s.queue q).state = 4 → (s.queue q).enable = true → target ≤ s.peek pa 8 → ∃ u, exec (.queueWaitWake q) s = .next u
        ∧ (u.queue q).state = 2 ∧ (u.queue q).pkt = some { k with wait := none }) := by
  refine ⟨fun n drop t l spt d r hcommit hstaged => ⟨fun htree htask => ?_, fun hfull => ?_⟩,
    fun pa target hwait => ⟨fun hshort => ?_, fun _ henable hreached => queueWaitWake_ready hpkt hwait henable hreached⟩⟩
  · rw [exec_launchCommit hpkt hcommit hstaged, if_pos ⟨htree, htask⟩]
  · rw [exec_launchCommit hpkt hcommit hstaged, if_neg (by omega)]
  · rw [exec_queueWaitWake hpkt hwait, if_neg (Nat.not_le.mpr hshort)]

theorem skid_clause (h : Halt) (u : State) (hhalt : (s.ctx q).halt = some h) (hstate : (s.ctx q).state = 1)
    (hu : (s.residentGroups q).foldl State.withdrawGroup s = u) :
    (((s.residentGroups q).any fun gid => (u.group? gid).any (u.skidWork gid)) = false
        ∨ h.time + u.skidBound (s.residentGroups q) ≤ u.ac →
      exec (.skidEnd q) s = .next (u.endSkid q h) ∧ ((u.endSkid q h).ctx q).state = 2 ∧ ((u.endSkid q h).ctx q).cause = h.cause)
    ∧ (((s.residentGroups q).any fun gid => (u.group? gid).any (u.skidWork gid)) = true →
      u.ac < h.time + u.skidBound (s.residentGroups q) → exec (.skidEnd q) s = .next (u.at (u.ac + 1) (.skidEnd q))) := by
  have hexec := exec_skidEnd hhalt hstate hu
  refine ⟨fun hend => ⟨?_, endSkid_ctx ..⟩, fun hwork hlow => ?_⟩
  · rw [hexec, if_neg]
    obtain hidle | hlate := hend
    · rw [hidle, Bool.false_and]
      exact Bool.false_ne_true
    · rw [decide_eq_false (Nat.not_lt.mpr hlate), Bool.and_false]
      exact Bool.false_ne_true
  · rw [hexec, if_pos]
    rw [hwork, decide_eq_true hlow, Bool.and_true]

theorem claim_clause (n : Nat) (heid : (s.ctx q).eid ≠ 0) (hbusy : (s.ctx q).vacBusy = false) :
    ((s.ctx q).state ≠ 1 ∨ (s.ctx q).frozen = true → exec (.cxvacClaim q n) s = .next (s.claimResult q 2))
    ∧ ((s.ctx q).state = 1 → (s.ctx q).frozen = false → (2048 ≤ n ∨ s.claimCores q n = none) →
      exec (.cxvacClaim q n) s = .next (s.claimResult q 3))
    ∧ (∀ cores ts, (s.ctx q).state = 1 → (s.ctx q).frozen = false → n < 2048 → s.claimCores q n = some cores →
      ((s.imageTeams q).filter fun t => t.2.state == .resident && cores.contains t.2.core) = ts →
      (s.canSwapAll (ts.map Prod.fst) = false → exec (.cxvacClaim q n) s
        = .next ((s.claimResult q 4).modCtx q fun c => { c with swapfull := true }))
      ∧ (s.canSwapAll (ts.map Prod.fst) = true →
        ∃ u, exec (.cxvacClaim q n) s = .next u ∧ (u.ctx q).claimed = (s.ctx q).claimed ++ cores ∧ (u.ctx q).vacBusy = true))
    ∧ (∃ u, exec (.cxvacRelease q) s = .next u ∧ (u.ctx q).claimed = [] ∧ (u.ctx q).vacResult = 0)
    ∧ exec (.claimComplete q) s = .next s := by
  refine ⟨exec_cxvacClaim_state heid hbusy, exec_cxvacClaim_many heid hbusy, ?_, cxvacRelease_frees heid hbusy,
    exec_claimComplete_idle hbusy⟩
  rintro cores _ hstate hfrozen hn hcores rfl
  exact ⟨exec_cxvacClaim_full heid hbusy hstate hfrozen hn hcores, cxvacClaim_swaps heid hbusy hstate hfrozen hn hcores⟩

theorem range_clause (v : Nat) (heid : (s.ctx q).eid ≠ 0) :
    (rcmdBad v = true → exec (.rcmdWrite q v) s = .next (s.rstat q 3) ∧ exec (.rcmdInval q v) s = .next (s.rstat q 3))
    ∧ (rcmdBad v = false → s.publishing q (v % 128) = true →
      ∀ w, w = s.at (s.ac + 1) (.deviceWrite (kickBase + 4096 * q + 0x80) 8 v) →
      exec (.rcmdWrite q v) s = .next w ∧ exec (.rcmdInval q v) s = .next w)
    ∧ (rcmdBad v = false → s.publishing q (v % 128) = false →
      (s.rangeResult q (v % 128) (s.ctx q).rstage ≠ 0 →
        exec (.rcmdWrite q v) s = .next (s.rstat q (s.rangeResult q (v % 128) (s.ctx q).rstage)))
      ∧ (s.rangeResult q (v % 128) (s.ctx q).rstage = 0 →
        ∃ u, exec (.rcmdWrite q v) s = .next u ∧ (u.ctx q).rstat = 0 ∧ Tbl.get? (u.ctx q).ranges (v % 128)
          = (if (stagedRange (s.ctx q).rstage).2 = true then some (stagedRange (s.ctx q).rstage).1 else none))
      ∧ ∃ u, exec (.rcmdInval q v) s = .next u ∧ (u.ctx q).rstat = 0 ∧ Tbl.get? (u.ctx q).ranges (v % 128) = none) := by
  refine ⟨fun hbad => ⟨exec_rcmdWrite_bad heid hbad, exec_rcmdInval_bad heid hbad⟩, ?_, fun hgood hidle =>
    ⟨exec_rcmdWrite_refused heid hgood hidle, rcmdWrite_installs heid hgood hidle, rcmdInval_drops heid hgood hidle⟩⟩
  rintro hgood hbusy _ rfl
  exact ⟨exec_rcmdWrite_publishing heid hgood hbusy, exec_rcmdInval_publishing heid hgood hbusy⟩

end Clauses

theorem skcmdLoad_clause (s : State) (p v : Nat) (h bs : List Byte) (ws : List W32) (hv : v % 4 = 1)
    (hpages : s.inHostPages p (s.part p).skbuf 32 = true) (hh : s.bytes (s.part p).skbuf 32 = h) (hgood : skHeaderBad h = false)
    (hall : s.inHostPages p (s.part p).skbuf (32 + 4 * fieldAt h 6 2) = true)
    (hbs : s.bytes ((s.part p).skbuf + 32) (4 * fieldAt h 6 2) = bs) (hws : bytesWords (fieldAt h 6 2) bs = ws) :
    (∀ c i, skWordsFail ws = some (c, i) → exec (.skcmdLoad p v) s = .next (s.skResult p c i none))
    ∧ (skWordsFail ws = none → (fieldAt h 8 4 = 1 ∨ (s.sketch? p (fieldAt h 8 4)).isSome = true) →
      exec (.skcmdLoad p v) s = .next (s.skResult p 8 0 none))
    ∧ (skWordsFail ws = none → fieldAt h 8 4 ≠ 1 → s.sketch? p (fieldAt h 8 4) = none → s.storeFull p (fieldAt h 6 2) = true →
      exec (.skcmdLoad p v) s = .next (s.skResult p 9 0 none))
    ∧ (skWordsFail ws = none → fieldAt h 8 4 ≠ 1 → s.sketch? p (fieldAt h 8 4) = none → s.storeFull p (fieldAt h 6 2) = false →
      ∃ u, exec (.skcmdLoad p v) s = .next u ∧ (u.part p).skstat = 0 ∧ (u.part p).skhash = sha3 (h ++ bs)
        ∧ Tbl.get? u.hub.sketches (65536 * p + fieldAt h 8 4) = some ⟨sha3 (h ++ bs), bytesWords 8 h ++ ws⟩) :=
  ⟨fun _ _ hfail => exec_skcmdLoad_words hv hpages hh hgood hall hbs hws hfail,
    fun hfine hid => exec_skcmdLoad_loaded hv hpages hh hgood hall hbs hws hfine hid,
    fun hfine hid hnew hfull => exec_skcmdLoad_full hv hpages hh hgood hall hbs hws hfine hid hnew hfull,
    fun hfine hid hnew hroom => skcmdLoad_loads hv hpages hh hgood hall hbs hws hfine hid hnew hroom⟩

/-- Settles O53: one clause for each register, command and event; a claim's bits outlast the teams' swapping. -/
theorem queueAndContextEvents : Obligations.QueueAndContextEvents := by
  unfold Obligations.QueueAndContextEvents
  refine ⟨fun s q v n y => exec_kick_resetting, fun s q v x hx h => kick_clause s q v x hx h, qctl_clause, ?_, ?_, ?_, ?_, ?_, ?_, ?_, ?_, ?_⟩
  · rintro s q v x rfl henable
    exact exec_qctlEnable_on henable
  · rintro s q v x rfl
    exact ⟨qctlSkip_faulted, exec_qctlSkip_not⟩
  · exact fun s die => ⟨exec_easelAssign_waits, fun q x => easel_clause s q die x⟩
  · exact packet_clause
  · exact fun s q => ⟨exec_skidEnd_none, skid_clause s q⟩
  · exact fun s q n heid => ⟨fun hbusy => ⟨exec_cxvacClaim_busy heid hbusy, exec_cxvacRelease_busy heid hbusy,
      exec_claimComplete_busy hbusy⟩, claim_clause s q n heid⟩
  · exact range_clause
  · exact fun s p v => ⟨exec_skcmdLoad_not, exec_skcmdUnload_not, exec_skcmdLoad_header, skcmdLoad_clause s p v,
      exec_skcmdUnload_used, fun hv hid hnone hfree => exec_skcmdUnload_unknown hv hid hfree hnone,
      fun k hv hid hlow hsome hfree => skcmdUnload_unloads hv hid hfree hlow hsome⟩
  · exact fun s page e h => ⟨scrub_ends h, exec_scrub_not h⟩

end Sys2Proof.Machine

namespace Sys2Proof.Machine

set_option Elab.async false

/-! ## O55: power, clocks, lending, refresh, patrol, dumps and firmware -/

/-! ### Clock steps, gates and PRCFG (R397, R446 to R449) -/

section Part

variable {s : State} {k : Nat} (hdies : (s.part k).dies ≠ 0)

theorem step_limitStep (p : Part) : p.step.limitStep = p.limitStep ∧ p.step.dies = p.dies := by
  unfold Part.step
  split <;> exact ⟨rfl, rfl⟩

theorem step_eff {p : Part} (h : p.gated = false) : p.step.eff = min p.cap (min p.thermStep p.limitStep) := by
  simp [Part.step, h]

theorem exec_pgateUngate (h : (s.part k).gated = true) : exec (.pgateUngate k) s
    = .next (s.putPart k { s.part k with gate := false, gated := false }.step) := by
  change execPgateUngate k s = _
  simp [execPgateUngate, h]

theorem exec_pgateUngate_not (h : (s.part k).gated = false) : exec (.pgateUngate k) s = .next s := by
  change execPgateUngate k s = _
  simp [execPgateUngate, h]

include hdies

theorem exec_thermalStep (up : Bool) : exec (.thermalStep k up) s
    = if (up && decide (s.partTemp k < 360)) || (!up && decide (380 ≤ s.partTemp k)) then
      .next (s.putPart k { s.part k with thermStep := stepBy up (s.part k).thermStep }.step) else .next s := by
  change execThermalStep k up s = _
  unfold execThermalStep
  dsimp only
  rw [if_neg hdies]

theorem exec_thermalStep_falls (h : 380 ≤ s.partTemp k) : exec (.thermalStep k false) s
    = .next (s.putPart k { s.part k with thermStep := max 8 ((s.part k).thermStep - 1) }.step) := by
  rw [exec_thermalStep hdies, if_pos (by simpa using h)]
  rfl

theorem exec_thermalStep_rises (h : s.partTemp k < 360) : exec (.thermalStep k true) s
    = .next (s.putPart k { s.part k with thermStep := min 28 ((s.part k).thermStep + 1) }.step) := by
  rw [exec_thermalStep hdies, if_pos (by simpa using h)]
  rfl

theorem exec_thermalStep_cool (h : s.partTemp k < 380) : exec (.thermalStep k false) s = .next s := by
  rw [exec_thermalStep hdies, if_neg (by simpa using h)]

theorem exec_pclkCapWrite (v : Nat) : exec (.pclkCapWrite k v) s
    = .next (s.putPart k { s.part k with cap := max 8 (min 28 (v % 32)) }.step) := by
  change execPclkCapWrite k v s = _
  unfold execPclkCapWrite
  dsimp only
  rw [if_neg hdies]

theorem exec_pgateGate_refused (hgated : (s.part k).gated = false) (h : (s.part k).state ≠ 2 ∨ s.holdsTeam k = true) :
    exec (.pgateGate k) s = .next (s.putPart k { s.part k with gerr := true }) := by
  change execPgateGate k s = _
  unfold execPgateGate
  dsimp only
  rw [if_neg (by simp [hdies, hgated]), if_pos (by simpa using h)]

theorem exec_pgateGate (hgated : (s.part k).gated = false) (hstate : (s.part k).state = 2) (hteam : s.holdsTeam k = false) :
    exec (.pgateGate k) s = .next (s.putPart k { s.part k with gate := true, gated := true }) := by
  change execPgateGate k s = _
  unfold execPgateGate
  dsimp only
  rw [if_neg (by simp [hdies, hgated]), if_neg (by simp [hstate, hteam])]

theorem exec_prcfgWrite_refused {v : Nat} (h : (s.part k).state ≠ 2 ∨ fieldOf v 24 8 &&& (s.part k).dies ≠ fieldOf v 24 8
    ∨ (fieldOf v 8 5 ≠ (s.part k).ptpool ∧ s.holdsEnclave k = true)) :
    exec (.prcfgWrite k v) s = .next (s.putPart k { s.part k with cfgerr := true }) := by
  change execPrcfgWrite k v s = _
  unfold execPrcfgWrite
  dsimp only
  rw [if_neg hdies, if_pos h]

theorem prcfgWrite_takes {v : Nat} (hstate : (s.part k).state = 2) (htup : fieldOf v 24 8 &&& (s.part k).dies = fieldOf v 24 8)
    (hpool : fieldOf v 8 5 = (s.part k).ptpool ∨ s.holdsEnclave k = false) :
    ∃ u, exec (.prcfgWrite k v) s = .next u ∧ u.store.mem = s.store.mem ∧ u.part k
      = { s.part k with tupdies := fieldOf v 24 8, tupsz := fieldOf v 16 2, ptpool := fieldOf v 8 5, tolen := bitOf v 0 } := by
  have hgood : ¬ ((s.part k).state ≠ 2 ∨ fieldOf v 24 8 &&& (s.part k).dies ≠ fieldOf v 24 8
      ∨ (fieldOf v 8 5 ≠ (s.part k).ptpool ∧ s.holdsEnclave k = true)) := by
    rintro (h | h | ⟨hne, henclave⟩)
    · exact h hstate
    · exact h htup
    · exact hpool.elim hne fun hnone => Bool.false_ne_true (hnone.symm.trans henclave)
  have hexec : exec (.prcfgWrite k v) s = execPrcfgWrite k v s := rfl
  unfold execPrcfgWrite at hexec
  dsimp only at hexec
  rw [if_neg hdies, if_neg hgood] at hexec
  exact ⟨_, hexec, rfl, part_putPart_same ..⟩

end Part

section Limit

variable {s : State}

/-- A partition one limit step lower, where it runs. -/
def Part.limited (p : Part) : Part := if p.dies = 0 ∨ p.gated then p else { p with limitStep := stepBy false p.limitStep }.step

theorem limited_limitStep (p : Part) : p.limited.limitStep
    = if p.dies = 0 ∨ p.gated = true then p.limitStep else max 8 (p.limitStep - 1) := by
  unfold Part.limited
  split
  · rfl
  · exact (step_limitStep _).1

theorem get?_map_snd {α β : Type} (t : Table α) (f : α → β) (n : Nat) :
    Tbl.get? (t.map fun x => (x.1, f x.2)) n = (Tbl.get? t n).map f := by
  induction t with
  | nil => rfl
  | cons x r ih =>
    rw [List.map_cons, Tbl.get?_cons, ih]
    obtain ⟨k, v⟩ := x
    rw [Tbl.get?_cons]
    split <;> rfl

theorem exec_limitStep_falls (h : s.module.limit < s.modPower) : exec (.limitStep false) s
    = .next { s with parts := s.parts.map fun x => (x.1, x.2.limited) } := by
  change execLimitStep false s = _
  unfold execLimitStep
  dsimp only
  rw [if_pos (by simpa using h)]
  congr 3
  funext x
  unfold Part.limited
  split <;> rfl

theorem limitStep_falls (h : s.module.limit < s.modPower) : ∃ u, exec (.limitStep false) s = .next u
    ∧ u.parts.map Prod.fst = s.parts.map Prod.fst ∧ ∀ p : Nat, (u.part p).limitStep
      = if (s.part p).dies = 0 ∨ (s.part p).gated = true then (s.part p).limitStep else max 8 ((s.part p).limitStep - 1) := by
  refine ⟨_, exec_limitStep_falls h, by rw [List.map_map]; rfl, fun p => ?_⟩
  have hpart : ({ s with parts := s.parts.map fun x => (x.1, x.2.limited) } : State).part p = (s.part p).limited := by
    unfold State.part Tbl.getD
    rw [get?_map_snd]
    cases Tbl.get? s.parts p <;> rfl
  rw [hpart, limited_limitStep]

theorem exec_limitStep_within (h : s.modPower ≤ s.module.limit) : exec (.limitStep false) s = .next s := by
  change execLimitStep false s = _
  unfold execLimitStep
  dsimp only
  rw [if_neg (by simpa using h)]

end Limit

/-! ### Lending (R399 to R401) -/

theorem pairBits_eq (x pair : Nat) : pairBits x pair = x / 4 ^ pair % 4 := by
  simp only [pairBits, fieldOf, Nat.pow_mul, Nat.reducePow]

/-- A lending word from its parts above and below a pair's bits. -/
theorem pairPut_parts (x pair v : Nat) : pairPut x pair v = 4 ^ pair * (4 * (x / 4 ^ pair / 4) + v) + x % 4 ^ pair := by
  have hlow := Nat.div_add_mod x (4 ^ pair)
  have hhigh := Nat.div_add_mod (x / 4 ^ pair) 4
  rw [pairPut, pairBits_eq]
  generalize 4 ^ pair = b at *
  generalize hy : x / b = y at *
  generalize y / 4 = q at *
  generalize y % 4 = r at *
  generalize x % b = m at *
  subst hhigh hlow
  have h : b * (4 * q + r) + m - r * b = b * (4 * q) + m := by
    rw [Nat.mul_add, Nat.mul_comm r b]
    omega
  rw [h, Nat.mul_add, Nat.mul_comm v b]
  omega

theorem pairBits_pairPut_same (x pair v : Nat) (hv : v < 4) : pairBits (pairPut x pair v) pair = v := by
  rw [pairBits_eq, pairPut_parts, Nat.mul_add_div (Nat.pow_pos (by decide)),
    Nat.div_eq_of_lt (Nat.mod_lt _ (Nat.pow_pos (by decide)))]
  omega

theorem pairBits_pairPut_other (x pair v o : Nat) (hv : v < 4) (ho : o ≠ pair) : pairBits (pairPut x pair v) o = pairBits x o := by
  have hpos : 0 < 4 ^ pair := Nat.pow_pos (by decide)
  rw [pairBits_eq, pairBits_eq]
  obtain hlt | hgt := Nat.lt_or_gt_of_ne ho
  · have hmod : pairPut x pair v % 4 ^ pair = x % 4 ^ pair := by
      rw [pairPut_parts, Nat.mul_add_mod, Nat.mod_mod]
    have hdvd : 4 ^ (o + 1) ∣ 4 ^ pair := Nat.pow_dvd_pow 4 hlt
    have hcut (y : Nat) : y / 4 ^ o % 4 = y % 4 ^ pair % 4 ^ (o + 1) / 4 ^ o := by
      rw [Nat.mod_mod_of_dvd _ hdvd, Nat.pow_succ, Nat.mod_mul_right_div_self]
    rw [hcut, hmod, ← hcut]
  · have hsplit (y : Nat) : y / 4 ^ o = y / 4 ^ pair / 4 / 4 ^ (o - pair - 1) := by
      rw [Nat.div_div_eq_div_mul, Nat.div_div_eq_div_mul, ← Nat.pow_succ', ← Nat.pow_add]
      congr 2
      omega
    have hdiv : pairPut x pair v / 4 ^ pair / 4 = x / 4 ^ pair / 4 := by
      rw [pairPut_parts, Nat.mul_add_div hpos, Nat.div_eq_of_lt (Nat.mod_lt _ hpos)]
      omega
    rw [hsplit, hdiv, ← hsplit]


section Lend

variable {s : State} {t pair : Nat}

theorem lendShake_fresh (h : Tbl.get? (s.hbm t).shaking pair = none) (code : Nat) : s.lendShake t pair code
    = (s.putHbm t { s.hbm t with shaking := Tbl.put (s.hbm t).shaking pair code }).laterWithin 1050 (.lendDone t pair) := by
  unfold State.lendShake
  dsimp only
  rw [if_neg (by simp [h])]

theorem exec_lendReclaim (h : pairBits (s.hbm t).lendstat pair ≠ 0) : exec (.lendReclaim t pair) s
    = .next (s.lendShake t pair 0) := congrArg Host.Outcome.next (if_neg h)

theorem exec_lendReclaim_not (h : pairBits (s.hbm t).lendstat pair = 0) : exec (.lendReclaim t pair) s = .next s :=
  congrArg Host.Outcome.next (if_pos h)

theorem lendReclaim_shakes (hlent : pairBits (s.hbm t).lendstat pair ≠ 0) (hrest : Tbl.get? (s.hbm t).shaking pair = none) :
    ∃ u n, exec (.lendReclaim t pair) s = .next u
      ∧ u.hbm t = { s.hbm t with shaking := Tbl.put (s.hbm t).shaking pair 0 } ∧ (n, Event.lendDone t pair) ∈ u.agenda
      ∧ n ≤ s.ac + 1050 := by
  refine ⟨_, s.ac + min 1050 (Config.latency s.free), exec_lendReclaim hlent, ?_⟩
  rw [lendShake_fresh hrest]
  refine ⟨hbm_putHbm_same .., ?_, by omega⟩
  exact List.mem_append_right _ (List.mem_singleton_self _)

theorem exec_lendThermalReclaim (htemp : 400 ≤ s.stackTemp t) (hlent : pairBits (s.hbm t).lendstat pair ≠ 0) :
    exec (.lendThermalReclaim t pair) s = .next ((s.putHbm t { s.hbm t with
      lendstat := pairPut (s.hbm t).lendstat pair 0, lenderr := 256 * pair + 3 }).lendAgain t pair) :=
  if_pos ⟨htemp, hlent⟩

theorem exec_lendThermalReclaim_not (h : s.stackTemp t < 400 ∨ pairBits (s.hbm t).lendstat pair = 0) :
    exec (.lendThermalReclaim t pair) s = .next s :=
  if_neg fun ⟨htemp, hlent⟩ => h.elim (Nat.not_lt.mpr htemp) hlent

/-! The end of a handshake. -/

theorem soonAll_asks (s : State) (l : List (Nat × Event)) : s.Asks (l.foldl (fun s e => s.soon e.2) s) :=
  .foldl (fun _ _ => .soon ..) _ _

theorem soonAll_asked {l : List (Nat × Event)} {n : Nat} {ev : Event} (h : (n, ev) ∈ l) (s : State) :
    (s.ac, ev) ∈ (l.foldl (fun s e => s.soon e.2) s).agenda := by
  induction l generalizing s with
  | nil => exact absurd h List.not_mem_nil
  | cons a r ih =>
    obtain rfl | hr := List.mem_cons.mp h
    · exact (soonAll_asks (s.soon ev) r).asked (List.mem_append_right _ (List.mem_singleton_self _))
    · exact ih hr (s.soon a.2)

theorem Asks_hbm {s u : State} (h : s.Asks u) (t : Nat) : u.hbm t = s.hbm t := by
  obtain ⟨l, rfl⟩ := h
  rfl

/-- A stack after a pair's handshake has ended; `hot` where it may lend nothing. -/
def Stack.lent (h : Stack) (pair code : Nat) (hot : Bool) : Stack :=
  { h with
    lendstat := pairPut h.lendstat pair (if hot then 0 else code), lenderr := if hot then 256 * pair + 3 else h.lenderr
    shaking := Tbl.del h.shaking pair, lendHeld := h.lendHeld.filter fun e => e.1 != pair }

variable {code : Nat} (hshake : Tbl.get? (s.hbm t).shaking pair = some code)
include hshake

theorem lendEnd_eq : s.lendEnd t pair = ((s.hbm t).lendHeld.filter fun e => e.1 == pair).foldl (fun s e => s.soon e.2)
    (s.putHbm t ((s.hbm t).lent pair code (code != 0 && decide (400 ≤ s.stackTemp t)))) := by
  unfold State.lendEnd
  dsimp only
  rw [hshake]
  rfl

theorem lendEnd_hbm : (s.lendEnd t pair).hbm t = (s.hbm t).lent pair code (code != 0 && decide (400 ≤ s.stackTemp t)) := by
  rw [lendEnd_eq hshake, Asks_hbm (soonAll_asks ..), hbm_putHbm_same]

theorem lendEnd_held {ev : Event} (h : (pair, ev) ∈ (s.hbm t).lendHeld) : (s.ac, ev) ∈ (s.lendEnd t pair).agenda := by
  rw [lendEnd_eq hshake]
  exact soonAll_asked (List.mem_filter.mpr ⟨h, beq_self_eq_true pair⟩) _

theorem lendEnd_lends (hcold : code = 0 ∨ s.stackTemp t < 400) :
    ((s.lendEnd t pair).hbm t).lendstat = pairPut (s.hbm t).lendstat pair code := by
  have hhot : (code != 0 && decide (400 ≤ s.stackTemp t)) = false := by
    obtain rfl | h := hcold
    · rfl
    · rw [decide_eq_false (Nat.not_le.mpr h), Bool.and_false]
  rw [lendEnd_hbm hshake, hhot]
  rfl

theorem lendEnd_hot (hcode : code ≠ 0) (hhot : 400 ≤ s.stackTemp t) :
    ((s.lendEnd t pair).hbm t).lendstat = pairPut (s.hbm t).lendstat pair 0
      ∧ ((s.lendEnd t pair).hbm t).lenderr = 256 * pair + 3 := by
  have hhot : (code != 0 && decide (400 ≤ s.stackTemp t)) = true := by
    rw [decide_eq_true hhot, Bool.and_true]
    exact bne_iff_ne.mpr hcode
  rw [lendEnd_hbm hshake, hhot]
  exact ⟨rfl, rfl⟩

end Lend

section Lendreq

variable {s : State} {t pair : Nat} {v : Nat}

/-- A pair's request written, before the pair acts on it. -/
def State.lendAsk (s : State) (t pair v : Nat) : State := s.putHbm t { s.hbm t with lendreq := pairPut (s.hbm t).lendreq pair v }

theorem exec_lendreqWrite (hv : v < 4) : exec (.lendreqWrite t pair v) s
    = if (Tbl.get? (s.hbm t).shaking pair).getD (pairBits (s.hbm t).lendstat pair) = (if v = 3 then 0 else v) then
        .next (s.lendAsk t pair v)
      else if (if v = 3 then 0 else v) = 0 then .next ((s.lendAsk t pair v).lendShake t pair 0)
      else .next (if s.lendRefusal t pair v = 0 then (s.lendAsk t pair v).drawn.lendShake t pair v
        else ((s.lendAsk t pair v).drawn.putHbm t { s.hbm t with
          lendreq := pairPut (s.hbm t).lendreq pair v, lenderr := 256 * pair + s.lendRefusal t pair v }).lendAgain t pair) := by
  change execLendreqWrite t pair v s = _
  unfold execLendreqWrite
  dsimp only
  rw [Nat.mod_eq_of_lt hv]
  by_cases h3 : v = 3
  · simp only [h3, if_true]
    rfl
  · simp only [h3, if_false]
    rfl

theorem exec_lendreqWrite_same {cur : Nat} (hcur : (Tbl.get? (s.hbm t).shaking pair).getD (pairBits (s.hbm t).lendstat pair) = cur)
    (h : v = cur ∧ v < 3 ∨ cur = 0 ∧ v = 3) : exec (.lendreqWrite t pair v) s = .next (s.lendAsk t pair v) := by
  rw [exec_lendreqWrite (by omega), if_pos]
  rw [hcur]
  split <;> omega

theorem exec_lendreqWrite_back (hv : v = 0 ∨ v = 3)
    (hcur : (Tbl.get? (s.hbm t).shaking pair).getD (pairBits (s.hbm t).lendstat pair) ≠ 0) :
    exec (.lendreqWrite t pair v) s = .next ((s.lendAsk t pair v).lendShake t pair 0) := by
  have hcode : (if v = 3 then 0 else v) = 0 := by split <;> omega
  rw [exec_lendreqWrite (by omega), hcode, if_neg hcur, if_pos rfl]

theorem exec_lendreqWrite_lend (hv : v = 1 ∨ v = 2)
    (hcur : (Tbl.get? (s.hbm t).shaking pair).getD (pairBits (s.hbm t).lendstat pair) ≠ v) :
    exec (.lendreqWrite t pair v) s = .next (if s.lendRefusal t pair v = 0 then (s.lendAsk t pair v).drawn.lendShake t pair v
      else ((s.lendAsk t pair v).drawn.putHbm t { s.hbm t with
        lendreq := pairPut (s.hbm t).lendreq pair v, lenderr := 256 * pair + s.lendRefusal t pair v }).lendAgain t pair) := by
  have hcode : (if v = 3 then 0 else v) = v := if_neg (by omega)
  rw [exec_lendreqWrite (by omega), hcode, if_neg hcur, if_neg (by omega)]

theorem lendRefusal_busy (h : s.channelBusy t (lenderOf pair v) = true) : s.lendRefusal t pair v = 1 := if_pos h

theorem lendRefusal_hot (hidle : s.channelBusy t (lenderOf pair v) = false) (htemp : 380 ≤ s.stackTemp t) :
    s.lendRefusal t pair v ≠ 0 := by
  unfold State.lendRefusal
  rw [if_neg (by simp [hidle]), if_pos htemp]
  split <;> decide

end Lendreq

/-! ### Refresh, throttled rows and patrol (R382, R402, R416) -/

section Refresh

variable {s : State} {t row : Nat}

theorem exec_refresh_skips {n : Nat} (haar : (s.hbm t).aar = true) (hstamp : Tbl.get? (s.hbm t).stamps (row / 8) = some n)
    (hwindow : s.ac ≤ n + Config.refreshWindow) : exec (.refresh t row) s = .next (s.putHbm t { s.hbm t with
      refskip := ((s.hbm t).refskip + 1) % 2 ^ 64, stamps := Tbl.del (s.hbm t).stamps (row / 8) }) := by
  change execRefresh t row s = _
  unfold execRefresh
  dsimp only
  rw [if_pos (by simpa [haar, hstamp] using hwindow)]

theorem exec_refresh (h : (s.hbm t).aar = false ∨ Tbl.get? (s.hbm t).stamps (row / 8) = none
    ∨ ∃ n, Tbl.get? (s.hbm t).stamps (row / 8) = some n ∧ n + Config.refreshWindow < s.ac) :
    exec (.refresh t row) s = .next (s.putHbm t ((s.hbm t).refreshGroup row)) := by
  change execRefresh t row s = _
  unfold execRefresh
  dsimp only
  rw [if_neg]
  obtain h | h | ⟨n, h, hlate⟩ := h
  · simp [h]
  · simp [h]
  · simp [h, Nat.not_le.mpr hlate]

theorem exec_throttleRelease_none (h : ((s.hbm t).held.find? fun e => e.row == row && !e.waiting.isEmpty) = none) :
    exec (.throttleRelease t row) s = .next s := by
  change execThrottleRelease t row s = _
  unfold execThrottleRelease
  dsimp only
  rw [h]

theorem chargeVf_hbm (s : State) (t vf i : Nat) : (s.chargeVf t vf).hbm i = s.hbm i ∧ (s.chargeVf t vf).ac = s.ac := by
  unfold State.chargeVf
  split <;> exact ⟨rfl, rfl⟩

theorem throttleRelease_grants {e : Throttle} {ev : Event} {r : List Event}
    (h : ((s.hbm t).held.find? fun e => e.row == row && !e.waiting.isEmpty) = some e) (hev : e.waiting = ev :: r) :
    ∃ u, exec (.throttleRelease t row) s = .next u ∧ (s.ac, ev) ∈ u.agenda ∧ (ev, row) ∈ (u.hbm t).granted := by
  have hexec : exec (.throttleRelease t row) s = execThrottleRelease t row s := rfl
  unfold execThrottleRelease at hexec
  dsimp only at hexec
  rw [h] at hexec
  dsimp only at hexec
  rw [hev] at hexec
  refine ⟨_, hexec, ?_, ?_⟩
  · refine List.mem_append_right _ (List.mem_singleton.mpr (Prod.ext ?_ rfl))
    refine Eq.trans ?_ (chargeVf_hbm _ t e.vf t).2.symm
    rfl
  · change (ev, row) ∈ ((State.chargeVf _ t e.vf).hbm t).granted
    rw [(chargeVf_hbm ..).1, hbm_putHbm_same]
    exact List.mem_cons_self

end Refresh

/-! ### Errors logged and lines met (R415 to R420) -/

/-- An error block, a vector and the agenda are all that a log entry changes. -/
def State.Logs (s t : State) : Prop := ∃ errs vecs agenda free, t = { s with
  agenda := agenda, free := free, hub := { s.hub with errs := errs, vecs := vecs } }

namespace State.Logs

variable {s t u : State}

theorem refl (s : State) : s.Logs s := ⟨_, _, _, _, rfl⟩

theorem trans (h : s.Logs t) (k : t.Logs u) : s.Logs u := by
  obtain ⟨_, _, _, _, rfl⟩ := h
  obtain ⟨_, _, _, _, rfl⟩ := k
  exact ⟨_, _, _, _, rfl⟩

theorem store (h : s.Logs t) : t.store = s.store := by
  obtain ⟨_, _, _, _, rfl⟩ := h
  rfl

theorem dies (h : s.Logs t) : t.dies = s.dies := by
  obtain ⟨_, _, _, _, rfl⟩ := h
  rfl

theorem ctx (h : s.Logs t) (q : Nat) : t.ctx q = s.ctx q := by
  obtain ⟨_, _, _, _, rfl⟩ := h
  rfl

theorem hub (h : s.Logs t) : t.hub.dump = s.hub.dump := by
  obtain ⟨_, _, _, _, rfl⟩ := h
  rfl

end State.Logs

theorem postDie_logs (s : State) (d v : Nat) : s.Logs (s.postDie d v) := by
  have hpost (src : Option Nat) : s.Logs (s.postFrom src none v) := by
    unfold State.postFrom
    split
    · exact .refl s
    · exact ⟨_, _, _, _, rfl⟩
  exact hpost _

theorem logError_logs (s : State) (d addr cls kind cause eid core : Nat) : s.Logs (s.logError d addr cls kind cause eid core) := by
  have hpost (c : Prop) [Decidable c] (t : State) (v : Nat) : t.Logs (if c then t.postDie d v else t) := by
    split
    · exact postDie_logs ..
    · exact .refl t
  unfold State.logError
  dsimp only
  split
  · exact ⟨_, _, _, _, rfl⟩
  · exact .trans ⟨_, _, _, _, rfl⟩ (hpost ..)

theorem meetLine_mem (s : State) (eid core line : Nat) : (s.meetLine eid core line).store.mem = s.store.mem
    ∧ (s.meetLine eid core line).hub.dump = s.hub.dump := by
  unfold State.meetLine
  dsimp only
  split
  · exact ⟨rfl, rfl⟩
  · exact ⟨congrArg MemSide.mem (logError_logs ..).store, (logError_logs ..).hub⟩
  · split <;> rw [(logError_logs ..).store, (logError_logs ..).hub] <;> split <;> exact ⟨rfl, rfl⟩

theorem meetLine_poison {s : State} {line : Nat} (h : Tbl.get? s.store.latent line = some 2) (eid core : Nat) :
    (Tbl.get? (s.meetLine eid core line).store.poison line).isSome = true := by
  unfold State.meetLine
  dsimp only
  split
  · next hk => cases h.symm.trans hk
  · next hk => cases h.symm.trans hk
  · next k _ hk =>
    obtain rfl := Option.some.inj (h.symm.trans hk)
    rw [if_pos (show (lineErr 2).hard = true from rfl), (logError_logs ..).store]
    change (Tbl.get? (Tbl.put _ line 0) line).isSome = true
    rw [Tbl.get?_put_same]
    rfl

section Patrol

variable {s : State} {t line : Nat}

theorem exec_patrol_elsewhere (h : (s.stackOf (64 * line)).map Prod.fst ≠ some t) : exec (.patrol t line) s = .next s :=
  if_pos (.inl h)

theorem exec_patrol {k : Nat} (hstack : (s.stackOf (64 * line)).map Prod.fst = some t)
    (hlatent : Tbl.get? s.store.latent line = some k) (hk : k ≤ 3) : exec (.patrol t line) s
      = .next (if k = 1 then (s.meetLine 0 0xFFFF line).modStore fun x => { x with latent := Tbl.del x.latent line }
        else s.meetLine 0 0xFFFF line) := by
  have hcode : Tbl.fget 0 s.store.latent line = k := by rw [Tbl.fget, hlatent]; rfl
  change execPatrol t line s = _
  unfold execPatrol
  dsimp only
  rw [hcode, if_neg]
  rintro (h | h)
  · exact h hstack
  · omega

theorem patrol_corrects (hstack : (s.stackOf (64 * line)).map Prod.fst = some t)
    (hlatent : Tbl.get? s.store.latent line = some 1) : ∃ u, exec (.patrol t line) s = .next u
      ∧ Tbl.get? u.store.latent line = none ∧ u.store.mem = s.store.mem :=
  ⟨_, exec_patrol hstack hlatent (by decide), Tbl.get?_del_same .., (meetLine_mem ..).1⟩

theorem patrol_poisons (hstack : (s.stackOf (64 * line)).map Prod.fst = some t)
    (hlatent : Tbl.get? s.store.latent line = some 2) : ∃ u, exec (.patrol t line) s = .next u
      ∧ (Tbl.get? u.store.poison line).isSome = true ∧ u.store.mem = s.store.mem :=
  ⟨_, exec_patrol hstack hlatent (by decide), meetLine_poison hlatent .., (meetLine_mem ..).1⟩

end Patrol

section ControlError

variable {s : State}

theorem wordOwners_other (s : State) (owners : List Nat) {kind : Nat} (h : 2 ≤ kind) : s.wordOwners owners kind = [] := by
  unfold State.wordOwners
  rw [if_neg (by omega), if_neg (by omega)]
  rfl

theorem mem_wordOwners (s : State) (owners : List Nat) (q : Nat) :
    q ∈ s.wordOwners owners 0 ↔ q ∈ owners ∧ (s.queue q).eid ≠ 0 := by
  unfold State.wordOwners
  rw [if_pos rfl, List.mem_dedup, List.mem_filter, bne_iff_ne]

theorem raiseHalt_ctx_other (s : State) {q p : Nat} (h : Halt) (hne : p ≠ q) : (s.raiseHalt q h).ctx p = s.ctx p := by
  have hput (u : State) (c : Ctx) (hu : u.ctx p = s.ctx p) : (u.putCtx q c).ctx p = s.ctx p :=
    (ctx_putCtx_other u c hne).trans hu
  unfold State.raiseHalt
  dsimp only
  split
  · rfl
  · split
    · exact hput _ _ (ctx_dumpBreak s q p)
    · split <;> exact hput _ _ rfl

theorem haltAll_ctx_other {l : List Nat} {q : Nat} (hq : q ∉ l) (f : State → Halt) (s : State) :
    (l.foldl (fun s p => s.raiseHalt p (f s)) s).ctx q = s.ctx q := by
  induction l generalizing s with
  | nil => rfl
  | cons a r ih =>
    rw [List.mem_cons, not_or] at hq
    obtain ⟨hne, hr⟩ := hq
    exact (ih hr _).trans (raiseHalt_ctx_other s _ hne)

/-- Each context of a list halts once, for the reason given. -/
theorem haltAll_halts {l : List Nat} (hl : l.Nodup) {f : State → Halt} {cause : Nat} (hf : ∀ u, (f u).cause = cause) {q : Nat}
    (hq : q ∈ l) {s : State} (hstate : (s.ctx q).state = 1) (hhalt : (s.ctx q).halt = none) :
    ((l.foldl (fun s p => s.raiseHalt p (f s)) s).ctx q).halt.map Halt.cause = some cause := by
  induction l generalizing s with
  | nil => exact absurd hq List.not_mem_nil
  | cons a r ih =>
    obtain ⟨ha, hr⟩ := List.nodup_cons.mp hl
    by_cases hqa : q = a
    · subst hqa
      rw [List.foldl_cons, haltAll_ctx_other ha, raiseHalt_halt hstate hhalt, Option.map_some, hf]
    · have hkeep := raiseHalt_ctx_other s (f s) hqa
      exact ih hr ((List.mem_cons.mp hq).resolve_left hqa) (hkeep ▸ hstate) (hkeep ▸ hhalt)

variable {die kind : Nat} {owners : List Nat}

theorem uncorrectableControlError_refuses (hnone : s.wordOwners owners kind = []) (hdie : die < 8)
    (hbound : (s.die die).bound = true) : ∃ u, exec (.uncorrectableControlError die owners kind) s = .next u
      ∧ (u.part (s.partOfDie die)).refusing = true := by
  have hexec : exec (.uncorrectableControlError die owners kind) s = execUncorrectableControlError die owners kind s := rfl
  unfold execUncorrectableControlError at hexec
  extract_lets qs eid t u at hexec
  have hlogs : s.Logs u := (logError_logs ..).trans (postDie_logs ..)
  have hdies (d : Nat) : u.die d = s.die d := by rw [State.die, hlogs.dies]; rfl
  rw [if_pos hnone, hdies, if_pos ⟨hdie, hbound⟩] at hexec
  refine ⟨_, hexec, ?_⟩
  have hpart : u.partOfDie die = s.partOfDie die := congrArg Die.part (hdies die)
  rw [hpart, part_modPart_same]

theorem uncorrectableControlError_halts : ∃ u, exec (.uncorrectableControlError die owners kind) s = .next u
    ∧ ∀ q ∈ s.wordOwners owners kind, (s.ctx q).state = 1 → (s.ctx q).halt = none →
      (u.ctx q).halt.map Halt.cause = some 0x13 := by
  have hexec : exec (.uncorrectableControlError die owners kind) s = execUncorrectableControlError die owners kind s := rfl
  unfold execUncorrectableControlError at hexec
  extract_lets qs eid t u at hexec
  have hlogs : s.Logs t := logError_logs ..
  by_cases hnone : qs = []
  · rw [if_pos hnone] at hexec
    refine ⟨_, hexec, fun q hq => ?_⟩
    rw [show s.wordOwners owners kind = [] from hnone] at hq
    exact absurd hq List.not_mem_nil
  · rw [if_neg hnone] at hexec
    refine ⟨_, hexec, fun q hq hstate hhalt => ?_⟩
    have hctx := hlogs.ctx q
    exact haltAll_halts (List.nodup_dedup _) (f := fun s => ⟨0x13, 2, 0, 0, 0, none, 0, 0, 0, s.ac, []⟩) (fun _ => rfl) hq
      (hctx ▸ hstate) (hctx ▸ hhalt)

end ControlError

/-! ### Dumps (R422 to R424) -/

section Dump

variable {s : State} {v : Nat}

theorem exec_dmpcmdStart_busy (h : s.dumpStart v = .error 6) : exec (.dmpcmdStart v) s
    = .next (s.modHub fun h => { h with dump := { h.dump with result := 6 } }) := by
  change execDmpcmdStart v s = _
  unfold execDmpcmdStart
  rw [h]
  rfl

theorem exec_dmpcmdStart_refused {r : Nat} (hr : r ≠ 6) (h : s.dumpStart v = .error r) :
    exec (.dmpcmdStart v) s = .next (s.dumpResult r 0) := by
  change execDmpcmdStart v s = _
  unfold execDmpcmdStart
  rw [h]
  split
  · next heq => exact absurd (Except.error.inj heq) hr
  · next heq => rw [Except.error.inj heq]
  · next heq => cases heq

theorem dmpcmdStart_starts {e : Enclave} (h : s.dumpStart v = .ok e) : ∃ u n, exec (.dmpcmdStart v) s = .next u
    ∧ u.hub.dump.busy = some (fieldOf v 0 16) ∧ (n, Event.dumpEnd) ∈ u.agenda ∧ u.store = s.store := by
  have hexec : exec (.dmpcmdStart v) s = execDmpcmdStart v s := rfl
  unfold execDmpcmdStart at hexec
  rw [h] at hexec
  exact ⟨_, _, hexec, rfl, List.mem_append_right _ (List.mem_singleton_self _), rfl⟩

theorem dumpMeets_keeps (s : State) (eid : Nat) : (s.dumpMeets eid).store.mem = s.store.mem
    ∧ (s.dumpMeets eid).hub.dump = s.hub.dump :=
  ⟨foldl_keeps (fun t => t.store.mem) (fun _ _ => (meetLine_mem ..).1) _ _,
    foldl_keeps (fun t => t.hub.dump) (fun _ _ => (meetLine_mem ..).2) _ _⟩

theorem dumpResult_dump (s : State) (r n : Nat) : (s.dumpResult r n).hub.dump = { s.hub.dump with result := r, len := n, busy := none }
    ∧ (s.dumpResult r n).store = s.store := ⟨rfl, rfl⟩

variable {eid : Nat} (hbusy : s.hub.dump.busy = some eid)
include hbusy

theorem endDump_none (h : Tbl.get? s.hub.enclaves eid = none) : s.endDump = s.dumpResult 2 0 := by
  unfold State.endDump
  rw [hbusy]
  dsimp only
  rw [h]

/-- The state in which the walk has met the errors of the enclave's lines. -/
theorem endDump_cases {e : Enclave} (h : Tbl.get? s.hub.enclaves eid = some e) : ∃ (t : State) (bs : List Byte),
    s.endDump = if (s.dumpMeets eid).hub.dump.size < bs.length then (s.dumpMeets eid).dumpResult 5 bs.length
      else if !(s.dumpMeets eid).inAnyHost (s.dumpMeets eid).hub.dump.buf bs.length then (s.dumpMeets eid).dumpResult 1 0
      else (t.write (s.dumpMeets eid).hub.dump.buf bs).dumpResult 0 bs.length := by
  refine ⟨((s.dumpMeets eid).random 32).2, (s.dumpMeets eid).dumpBytes eid e ((s.dumpMeets eid).random 32).1, ?_⟩
  unfold State.endDump
  rw [hbusy]
  dsimp only
  rw [h]

theorem endDump_result {e : Enclave} (h : Tbl.get? s.hub.enclaves eid = some e) : s.endDump.hub.dump.busy = none
    ∧ s.endDump.hub.dump.result ∈ [0, 1, 5] ∧ (s.endDump.hub.dump.result ≠ 0 → s.endDump.store.mem = s.store.mem)
    ∧ (s.endDump.hub.dump.result = 0 → s.endDump.hub.dump.len ≤ s.hub.dump.size) := by
  obtain ⟨t, bs, hend⟩ := endDump_cases hbusy h
  obtain ⟨hmem, hdump⟩ := dumpMeets_keeps s eid
  rw [hend]
  split
  · rw [(dumpResult_dump ..).1, (dumpResult_dump ..).2]
    exact ⟨rfl, by simp, fun _ => hmem, fun hzero => absurd hzero (Nat.succ_ne_zero _)⟩
  · next hroom =>
    rw [hdump] at hroom
    split
    · rw [(dumpResult_dump ..).1, (dumpResult_dump ..).2]
      exact ⟨rfl, by simp, fun _ => hmem, fun hzero => absurd hzero (Nat.succ_ne_zero _)⟩
    · rw [(dumpResult_dump ..).1]
      exact ⟨rfl, by simp, fun hne => absurd rfl hne, fun _ => Nat.not_lt.mp hroom⟩

end Dump

/-! ### Firmware updates (R404, R425) -/

section Firmware

variable {s : State}

theorem image_put (r : Rot) (i : Nat) (f : Firmware) : ({ r with fw := Tbl.put r.fw i f } : Rot).image i = f := Tbl.getD_put_same ..

theorem modRot_rot (s : State) (f : Rot → Rot) : (s.modRot f).hub.rot = f s.hub.rot := rfl

/-- The root of trust with an image activated. -/
def Rot.activate (r : Rot) (i : Nat) (f : Firmware) : Rot :=
  Rot.rekey { r with
    fw := Tbl.put r.fw i f, sessions := if i = 2 then [] else r.sessions, negotiated := r.negotiated && i != 2 }

theorem activate_regs (r : Rot) (i : Nat) (f : Firmware) : (r.activate i f).image i = f
    ∧ (r.activate i f).fwDigest = (r.activate i f).digestOf ∧ (r.activate i f).sessions = if i = 2 then [] else r.sessions :=
  ⟨Tbl.getD_put_same .., rfl, rfl⟩

theorem exec_firmwareStaging_refused {x : FwReq}
    (h : x.slot < 2 ∨ 5 < x.slot ∨ x.good = false ∨ x.svn < (s.hub.rot.image x.slot).fuse) :
    exec (.firmwareStaging x) s = .next s := if_pos h

theorem firmwareStaging_stages {x : FwReq} (hlow : 2 ≤ x.slot) (hhigh : x.slot ≤ 5) (hgood : x.good = true)
    (hfuse : (s.hub.rot.image x.slot).fuse ≤ x.svn) : ∃ u, exec (.firmwareStaging x) s = .next u
      ∧ u.hub.rot.image x.slot = { s.hub.rot.image x.slot with staged := some (leBytes 32 x.hash, x.svn, true) } := by
  have hnot : ¬ (x.slot < 2 ∨ 5 < x.slot ∨ x.good = false ∨ x.svn < (s.hub.rot.image x.slot).fuse) := by
    rintro (h | h | h | h)
    · omega
    · omega
    · exact Bool.false_ne_true (h.symm.trans hgood)
    · omega
  refine ⟨_, if_neg hnot, ?_⟩
  rw [hgood]
  exact image_put ..

theorem exec_firmwareActivation_none {i : Nat} (h : (s.hub.rot.image i).staged = none) :
    exec (.firmwareActivation i) s = .next s := by
  change execFirmwareActivation i s = _
  simp [execFirmwareActivation, Firmware.other, h]

variable {i : Nat} {d : List Byte} {n : Nat} {ok : Bool} (h : (s.hub.rot.image i).staged = some (d, n, ok))
include h

theorem exec_firmwareActivation_refused (hbad : n < (s.hub.rot.image i).fuse ∨ ok = false) :
    exec (.firmwareActivation i) s = .next s := by
  have hruns : (ok && decide ((s.hub.rot.image i).fuse ≤ n)) = false := by
    obtain h | h := hbad
    · rw [decide_eq_false (Nat.not_le.mpr h), Bool.and_false]
    · rw [h, Bool.false_and]
  change execFirmwareActivation i s = _
  simp [execFirmwareActivation, Firmware.other, h, Option.filter, Firmware.runs, hruns]

theorem firmwareActivation_runs (hlow : 2 ≤ i) (hhigh : i ≤ 5) (hfuse : (s.hub.rot.image i).fuse ≤ n) (hok : ok = true) :
    ∃ u, exec (.firmwareActivation i) s = .next u ∧ (u.hub.rot.image i).digest = d ∧ (u.hub.rot.image i).fuse = n
      ∧ u.hub.rot.fwDigest = u.hub.rot.digestOf ∧ (i = 2 → u.hub.rot.sessions = []) ∧ (u.hub.rot.image i).staged
        = some ((s.hub.rot.image i).digest, (s.hub.rot.image i).svn, (s.hub.rot.image i).good) := by
  subst hok
  have hexec : exec (.firmwareActivation i) s = execFirmwareActivation i s := rfl
  simp only [execFirmwareActivation, Firmware.other, h, Option.map_some, Option.filter, Firmware.runs, Bool.true_and,
    decide_eq_true hfuse, if_true] at hexec
  rw [if_neg (by omega)] at hexec
  refine ⟨s.modRot fun r => r.activate i _, hexec, ?_⟩
  obtain ⟨himage, hdigest, hsessions⟩ := activate_regs s.hub.rot i (Firmware.ran ⟨d, n, true, some ((s.hub.rot.image i).digest,
    (s.hub.rot.image i).svn, (s.hub.rot.image i).good), (s.hub.rot.image i).fuse⟩)
  rw [modRot_rot, himage, hdigest, hsessions]
  exact ⟨rfl, Nat.max_eq_right hfuse, rfl, fun h2 => if_pos h2, rfl⟩

end Firmware

/-! ### Bring-up and loss of power (R404, R445, R448) -/

/-- Power applied: the module is on, and the trip's latch is read once. -/
def State.poweredOn (s : State) : State :=
  { s with module := { s.module with on := true, prevtrip := s.module.tripLatched, tripLatched := false } }

/-- The root of trust has started with verified firmware, and the first control thread runs boot firmware. -/
def State.bootCore (s : State) (r : Rot) : State :=
  let t := (s.poweredOn.modRot fun _ => r).modRot fun r => { r.rekey with idHash := sha3 r.idPublic }
  (t.freshKey.2.modHub fun h => { h with linkSeed := t.freshKey.1, links := [] }).startThread 0 2 Config.bootPc

theorem bootCore_regs (s : State) (r : Rot) : (s.bootCore r).module = s.poweredOn.module ∧ (s.bootCore r).hub.rot.fw = r.fw
    ∧ (s.bootCore r).hub.rot.fwDigest = r.digestOf
    ∧ (s.bootCore r).thread 0 = { Thread.reset with running := true, lvl := 2, pc := Config.bootPc } :=
  ⟨rfl, rfl, rfl, thread_putThread_same ..⟩

/-- Only dies, partitions and the number of drawn values have changed. -/
def State.Releases (s t : State) : Prop := ∃ dies parts free, t = { s with dies := dies, parts := parts, free := free }

namespace State.Releases

theorem refl (s : State) : s.Releases s := ⟨_, _, _, rfl⟩

theorem trans {s t u : State} (h : s.Releases t) (k : t.Releases u) : s.Releases u := by
  obtain ⟨_, _, _, rfl⟩ := h
  obtain ⟨_, _, _, rfl⟩ := k
  exact ⟨_, _, _, rfl⟩

end State.Releases

/-- The dies of a partition in a layout, as a mask. -/
def layoutDies (l : List (Nat × Nat × Nat × Nat)) (p : Nat) : Nat :=
  ((List.range 8).filter fun d => layoutPart l d == p).foldl (fun m d => m + 2 ^ d) 0

theorem releasePart_none {s : State} {l : List (Nat × Nat × Nat × Nat) × List (Nat × Nat)} {p : Nat}
    (h : layoutDies l.1 p = 0) : s.releasePart l p = s := if_pos h

theorem releasePart_some {s : State} {l : List (Nat × Nat × Nat × Nat) × List (Nat × Nat)} {p : Nat}
    (h : layoutDies l.1 p ≠ 0) : ∃ x : Part, x.dies = layoutDies l.1 p ∧ x.state = 0
      ∧ s.releasePart l p = (s.freshKey.2.putPart p x).putHostKey p s.freshKey.1 := by
  refine ⟨{ Part.reset with
    dies := layoutDies l.1 p, ccg := ((l.2[p]?).getD (0, 256)).1, tupdies := fieldOf ((l.2[p]?).getD (0, 256)).2 24 8
    tupsz := fieldOf ((l.2[p]?).getD (0, 256)).2 16 2, ptpool := fieldOf ((l.2[p]?).getD (0, 256)).2 8 5
    tolen := bitOf ((l.2[p]?).getD (0, 256)).2 0, hostKey := s.freshKey.1, timeBase := s.freshKey.2.ac }, rfl, rfl, ?_⟩
  exact if_neg h

theorem releasePart_releases (s : State) (l : List (Nat × Nat × Nat × Nat) × List (Nat × Nat)) (p : Nat) :
    s.Releases (s.releasePart l p) := by
  by_cases h : layoutDies l.1 p = 0
  · rw [releasePart_none h]
    exact .refl s
  · obtain ⟨x, _, _, hx⟩ := releasePart_some (s := s) h
    rw [hx]
    exact ⟨_, _, _, rfl⟩

theorem release_releases (s : State) (l : List (Nat × Nat × Nat × Nat) × List (Nat × Nat)) : s.Releases (s.release l) :=
  List.foldlRecOn (motive := fun t : State => s.Releases t) _ _ ⟨_, _, _, rfl⟩
    fun _ ht p _ => ht.trans (releasePart_releases _ l p)

theorem putHostKey_die (s : State) (p key d : Nat) : ∃ keys, (s.putHostKey p key).die d = { s.die d with keys := keys } := by
  have hdies : (s.putHostKey p key).dies = s.dies.map fun y => (y.1,
      if y.2.bound && y.2.part == p then { y.2 with keys := Tbl.put y.2.keys 0 key } else y.2) := by
    refine List.map_congr_left fun y _ => ?_
    split <;> rfl
  rw [State.die, State.die, hdies, Tbl.getD, Tbl.getD,
    get?_map_snd _ fun x : Die => if x.bound && x.part == p then { x with keys := Tbl.put x.keys 0 key } else x]
  cases Tbl.get? s.dies d with
  | none => exact ⟨_, rfl⟩
  | some x =>
    refine ⟨if x.bound && x.part == p then Tbl.put x.keys 0 key else x.keys, ?_⟩
    change (if _ then _ else _) = _
    split <;> rfl

theorem releasePart_die (s : State) (l : List (Nat × Nat × Nat × Nat) × List (Nat × Nat)) (p d : Nat) :
    ∃ keys, (s.releasePart l p).die d = { s.die d with keys := keys } := by
  by_cases h : layoutDies l.1 p = 0
  · rw [releasePart_none h]
    exact ⟨_, rfl⟩
  · obtain ⟨x, _, _, hx⟩ := releasePart_some (s := s) h
    rw [hx]
    exact putHostKey_die ..

theorem get?_map_self {α : Type} (f : Nat → α) {l : List Nat} {d : Nat} (h : d ∈ l) :
    Tbl.get? (l.map fun d => (d, f d)) d = some (f d) := by
  induction l with
  | nil => exact absurd h List.not_mem_nil
  | cons a r ih =>
    rw [List.map_cons, Tbl.get?_cons]
    split
    · next heq => rw [heq]
    · next hne => exact ih ((List.mem_cons.mp h).resolve_left fun heq => hne heq.symm)

theorem release_die (s : State) (l : List (Nat × Nat × Nat × Nat) × List (Nat × Nat)) {d : Nat} (hd : d < 8) :
    ∃ keys, (s.release l).die d = { Die.reset with
      ilvbase := (layoutIlv l.1 d).base, wdies := (layoutIlv l.1 d).wdies, gran := (layoutIlv l.1 d).gran
      valid := true, bound := true, part := layoutPart l.1 d, keys := keys } := by
  refine List.foldlRecOn (motive := fun t : State => ∃ keys, t.die d = { Die.reset with
    ilvbase := (layoutIlv l.1 d).base, wdies := (layoutIlv l.1 d).wdies, gran := (layoutIlv l.1 d).gran
    valid := true, bound := true, part := layoutPart l.1 d, keys := keys }) _ _ ⟨[], ?_⟩ fun t ht p _ => ?_
  · exact congrArg (·.getD Die.reset) (get?_map_self _ (List.mem_range.mpr hd))
  · obtain ⟨_, hdie⟩ := ht
    obtain ⟨keys, hnext⟩ := releasePart_die t l p d
    rw [hnext, hdie]
    exact ⟨keys, rfl⟩

theorem layoutDies_default : layoutDies defaultLayout.1 0 = 255 ∧ ∀ p ∈ [1, 2, 3, 4, 5, 6, 7], layoutDies defaultLayout.1 p = 0 := by
  decide

theorem layoutPart_default : ∀ d, d < 8 → layoutPart defaultLayout.1 d = 0 := by decide

theorem foldl_releasePart_none (s : State) {l : List (Nat × Nat × Nat × Nat) × List (Nat × Nat)} {ps : List Nat}
    (h : ∀ p ∈ ps, layoutDies l.1 p = 0) : ps.foldl (fun s p => s.releasePart l p) s = s := by
  induction ps generalizing s with
  | nil => rfl
  | cons a r ih =>
    rw [List.foldl_cons, releasePart_none (h a List.mem_cons_self)]
    exact ih s fun p hp => h p (List.mem_cons_of_mem _ hp)

theorem release_default_part (s : State) : ((s.release defaultLayout).part 0).dies = 255
    ∧ ((s.release defaultLayout).part 0).state = 0 := by
  have hne : layoutDies defaultLayout.1 0 ≠ 0 := by rw [layoutDies_default.1]; decide
  have hrest (t : State) : (List.range 8).foldl (fun s p => s.releasePart defaultLayout p) t = t.releasePart defaultLayout 0 := by
    change [1, 2, 3, 4, 5, 6, 7].foldl (fun s p => s.releasePart defaultLayout p) (t.releasePart defaultLayout 0) = _
    exact foldl_releasePart_none _ layoutDies_default.2
  unfold State.release
  rw [hrest]
  obtain ⟨x, hdies, hstate, hx⟩ := releasePart_some (s := { s with
    dies := (List.range 8).map fun d => (d, { Die.reset with
      ilvbase := (layoutIlv defaultLayout.1 d).base, wdies := (layoutIlv defaultLayout.1 d).wdies
      gran := (layoutIlv defaultLayout.1 d).gran, valid := true, bound := true, part := layoutPart defaultLayout.1 d })
    parts := [] }) hne
  rw [hx]
  change (State.part (State.putPart _ 0 x) 0).dies = 255 ∧ (State.part (State.putPart _ 0 x) 0).state = 0
  rw [part_putPart_same, hdies, hstate]
  exact ⟨layoutDies_default.1, rfl⟩

section PowerOn

variable {s : State}

theorem exec_powerOn_done (h : s.module.stage ≠ 0 ∨ s.module.code ≠ 0) : exec .powerOn s = .next s := if_pos h

/-- What the last stage leaves, whichever layout is released. -/
theorem powerOn_stops {r : Rot} {u : State} (hu : (s.bootCore r).Releases u) (stage code : Nat) :
    (u.bootStop stage code).module.on = true ∧ (u.bootStop stage code).hub.rot.fw = r.fw
      ∧ (u.bootStop stage code).hub.rot.fwDigest = r.digestOf
      ∧ (u.bootStop stage code).thread 0 = { Thread.reset with running := true, lvl := 2, pc := Config.bootPc } := by
  obtain ⟨_, _, _, rfl⟩ := hu
  obtain ⟨hmodule, hfw, hdigest, hthread⟩ := bootCore_regs s r
  exact ⟨congrArg Module.on hmodule, hfw, hdigest, hthread⟩

variable (hstage : s.module.stage = 0) (hcode : s.module.code = 0)
include hstage hcode

theorem exec_powerOn_supply (h : s.module.supply = false) : exec .powerOn s = .next (s.poweredOn.bootStop 0 1) := by
  change execPowerOn s = _
  unfold execPowerOn
  rw [if_neg (by simp [hstage, hcode])]
  exact if_pos (congrArg not h)

variable (hsupply : s.module.supply = true) {r : Rot} {c : Nat} (hboot : s.hub.rot.bootAll [2, 3, 4, 5] = (r, c))
include hsupply hboot

theorem exec_powerOn_firmware (hc : c ≠ 0) : exec .powerOn s = .next ((s.poweredOn.modRot fun _ => r).bootStop 2 c) := by
  change execPowerOn s = _
  unfold execPowerOn
  dsimp only
  rw [if_neg (by simp [hstage, hcode]), if_neg (by simp [hsupply]), hboot]
  exact if_pos hc

theorem exec_powerOn (hc : c = 0) : exec .powerOn s = if !s.module.trained then .next ((s.bootCore r).bootStop 4 4)
    else if !s.module.linked then .next ((s.bootCore r).bootStop 4 5)
    else .next (((s.bootCore r).release ((s.module.layout.filter fun l => !bootLayoutBad l).getD defaultLayout)).bootStop 6
      (if s.module.layout.any bootLayoutBad then 6 else 0)) := by
  change execPowerOn s = _
  unfold execPowerOn
  dsimp only
  rw [if_neg (by simp [hstage, hcode]), if_neg (by simp [hsupply]), hboot]
  dsimp only
  rw [if_neg (not_not_intro hc)]
  refine if_congr Iff.rfl rfl (if_congr Iff.rfl rfl ?_)
  change (match s.module.layout with
    | none => Host.Outcome.next (((s.bootCore r).release defaultLayout).bootStop 6 0)
    | some l => if bootLayoutBad l then .next (((s.bootCore r).release defaultLayout).bootStop 6 6)
      else .next (((s.bootCore r).release l).bootStop 6 0)) = _
  cases s.module.layout with
  | none => rfl
  | some l => cases hbad : bootLayoutBad l <;> simp [Option.filter, hbad]

theorem powerOn_releases (hc : c = 0) : ∃ u, exec .powerOn s = .next u ∧ u.module.on = true ∧ u.hub.rot.fw = r.fw
    ∧ u.hub.rot.fwDigest = r.digestOf
    ∧ u.thread 0 = { Thread.reset with running := true, lvl := 2, pc := Config.bootPc }
    ∧ (s.module.trained = false → u.module.stage = 4 ∧ u.module.code = 4)
    ∧ (s.module.trained = true → s.module.linked = false → u.module.stage = 4 ∧ u.module.code = 5)
    ∧ (s.module.trained = true → s.module.linked = true → u.module.stage = 6
      ∧ u.module.code = (if s.module.layout.any bootLayoutBad then 6 else 0)
      ∧ ((s.module.layout = none ∨ s.module.layout.any bootLayoutBad = true) → (u.part 0).dies = 255 ∧ (u.part 0).state = 0
        ∧ ∀ d, d < 8 → (u.die d).part = 0 ∧ (u.die d).bound = true ∧ (u.die d).valid = true)
      ∧ ∀ l d, s.module.layout = some l → bootLayoutBad l = false → d < 8 → (u.die d).part = layoutPart l.1 d
        ∧ (u.die d).bound = true ∧ (u.die d).ilvbase = (layoutIlv l.1 d).base ∧ (u.die d).wdies = (layoutIlv l.1 d).wdies) := by
  have hexec := exec_powerOn hstage hcode hsupply hboot hc
  cases htrained : s.module.trained with
  | false =>
    rw [htrained] at hexec
    obtain ⟨hon, hfw, hdigest, hthread⟩ := powerOn_stops (r := r) (.refl (s.bootCore r)) 4 4
    exact ⟨_, hexec, hon, hfw, hdigest, hthread, fun _ => ⟨rfl, rfl⟩, fun h => absurd h Bool.false_ne_true,
      fun h => absurd h Bool.false_ne_true⟩
  | true =>
  cases hlinked : s.module.linked with
  | false =>
    rw [htrained, hlinked] at hexec
    obtain ⟨hon, hfw, hdigest, hthread⟩ := powerOn_stops (r := r) (.refl (s.bootCore r)) 4 5
    exact ⟨_, hexec, hon, hfw, hdigest, hthread, fun h => absurd h.symm Bool.false_ne_true, fun _ _ => ⟨rfl, rfl⟩,
      fun _ h => absurd h Bool.false_ne_true⟩
  | true =>
    rw [htrained, hlinked] at hexec
    generalize hl : (s.module.layout.filter fun l => !bootLayoutBad l).getD defaultLayout = l at hexec
    obtain ⟨hon, hfw, hdigest, hthread⟩ := powerOn_stops (r := r) (release_releases (s.bootCore r) l) 6
      (if s.module.layout.any bootLayoutBad then 6 else 0)
    refine ⟨_, hexec, hon, hfw, hdigest, hthread, fun h => absurd h.symm Bool.false_ne_true,
      fun _ h => absurd h.symm Bool.false_ne_true, fun _ _ => ⟨rfl, rfl, fun hdef => ?_, fun l' d hsome hgood hd => ?_⟩⟩
    · have hdefault : l = defaultLayout := by
        obtain h | h := hdef
        · rw [← hl, h]
          rfl
        · cases hsome : s.module.layout with
          | none => rw [← hl, hsome]; rfl
          | some l' =>
            rw [hsome] at h
            have hbad : bootLayoutBad l' = true := h
            rw [← hl, hsome, Option.filter_some_neg (by simp [hbad])]
            rfl
      subst hdefault
      refine ⟨(release_default_part _).1, (release_default_part _).2, fun d hd => ?_⟩
      obtain ⟨keys, hdie⟩ := release_die (s.bootCore r) defaultLayout hd
      change ((State.release _ defaultLayout).die d).part = 0 ∧ ((State.release _ defaultLayout).die d).bound = true
        ∧ ((State.release _ defaultLayout).die d).valid = true
      rw [hdie]
      exact ⟨layoutPart_default d hd, rfl, rfl⟩
    · have hlayout : l = l' := by
        rw [← hl, hsome, Option.filter_some_pos (by simp [hgood])]
        rfl
      subst hlayout
      obtain ⟨keys, hdie⟩ := release_die (s.bootCore r) l hd
      change ((State.release _ l).die d).part = _ ∧ ((State.release _ l).die d).bound = true
        ∧ ((State.release _ l).die d).ilvbase = _ ∧ ((State.release _ l).die d).wdies = _
      rw [hdie]
      exact ⟨rfl, rfl, rfl, rfl⟩

end PowerOn

section PowerOff

variable {s : State}

theorem modulePowerOff_keeps : ∃ u, exec .modulePowerOff s = .next u ∧ u.module.on = false ∧ u.store = State.reset.store
    ∧ u.simt = State.reset.simt ∧ u.turns = [] ∧ u.hub.rot.fw = s.hub.rot.fw ∧ u.hub.rot.secret = s.hub.rot.secret
    ∧ u.hub.rot.sessions = [] ∧ u.module.layout = s.module.layout :=
  ⟨s.powerOff false, rfl, rfl, rfl, rfl, rfl, rfl, rfl, rfl, rfl⟩

theorem thermalTrip_trips (h : (s.module.on && s.tripNow) = true) : ∃ u, exec .thermalTrip s = .next u ∧ u.module.on = false
    ∧ u.module.tripLatched = true :=
  ⟨s.powerOff true, congrArg Host.Outcome.next (if_pos h), rfl, rfl⟩

theorem exec_thermalTrip_not (h : (s.module.on && s.tripNow) = false) : exec .thermalTrip s = .next s :=
  congrArg Host.Outcome.next (if_neg (h ▸ Bool.false_ne_true))

end PowerOff

/-! ### The statement -/

theorem power_clause (s : State) :
    ((s.module.stage ≠ 0 ∨ s.module.code ≠ 0) → exec .powerOn s = .next s)
    ∧ (s.module.stage = 0 → s.module.code = 0 → s.module.supply = false → ∃ u, exec .powerOn s = .next u ∧ u.module.stage = 0
      ∧ u.module.code = 1)
    ∧ (s.module.stage = 0 → s.module.code = 0 → s.module.supply = true →
      ∀ r c, s.hub.rot.bootAll [2, 3, 4, 5] = (r, c) →
        (c ≠ 0 → ∃ u, exec .powerOn s = .next u ∧ u.module.stage = 2 ∧ u.module.code = c ∧ u.hub.rot = r)
        ∧ (c = 0 → ∃ u, exec .powerOn s = .next u ∧ u.module.on = true ∧ u.hub.rot.fw = r.fw ∧ u.hub.rot.fwDigest = r.digestOf
          ∧ u.thread 0 = { Thread.reset with running := true, lvl := 2, pc := Config.bootPc }
          ∧ (s.module.trained = false → u.module.stage = 4 ∧ u.module.code = 4)
          ∧ (s.module.trained = true → s.module.linked = false → u.module.stage = 4 ∧ u.module.code = 5)
          ∧ (s.module.trained = true → s.module.linked = true → u.module.stage = 6
            ∧ u.module.code = (if s.module.layout.any bootLayoutBad then 6 else 0)
            ∧ ((s.module.layout = none ∨ s.module.layout.any bootLayoutBad = true) → (u.part 0).dies = 255 ∧ (u.part 0).state = 0
              ∧ ∀ d, d < 8 → (u.die d).part = 0 ∧ (u.die d).bound = true ∧ (u.die d).valid = true)
            ∧ ∀ l d, s.module.layout = some l → bootLayoutBad l = false → d < 8 → (u.die d).part = layoutPart l.1 d
              ∧ (u.die d).bound = true ∧ (u.die d).ilvbase = (layoutIlv l.1 d).base ∧ (u.die d).wdies = (layoutIlv l.1 d).wdies))) :=
  ⟨exec_powerOn_done, fun hstage hcode hsupply => ⟨_, exec_powerOn_supply hstage hcode hsupply, rfl, rfl⟩,
    fun hstage hcode hsupply _ _ hboot =>
      ⟨fun hc => ⟨_, exec_powerOn_firmware hstage hcode hsupply hboot hc, rfl, rfl, rfl⟩,
        powerOn_releases hstage hcode hsupply hboot⟩⟩

theorem partition_clause (s : State) (k : Nat) (p : Part) (hp : s.part k = p) (hdies : p.dies ≠ 0) :
    (380 ≤ s.partTemp k → exec (.thermalStep k false) s = .next (s.putPart k { p with thermStep := max 8 (p.thermStep - 1) }.step))
    ∧ (s.partTemp k < 360 → exec (.thermalStep k true) s = .next (s.putPart k { p with thermStep := min 28 (p.thermStep + 1) }.step))
    ∧ (s.partTemp k < 380 → exec (.thermalStep k false) s = .next s)
    ∧ (∀ v, exec (.pclkCapWrite k v) s = .next (s.putPart k { p with cap := max 8 (min 28 (v % 32)) }.step))
    ∧ (p.gated = false → (p.state ≠ 2 ∨ s.holdsTeam k = true) → exec (.pgateGate k) s = .next (s.putPart k { p with gerr := true }))
    ∧ (p.gated = false → p.state = 2 → s.holdsTeam k = false →
      exec (.pgateGate k) s = .next (s.putPart k { p with gate := true, gated := true }))
    ∧ (p.gated = true → exec (.pgateUngate k) s = .next (s.putPart k { p with gate := false, gated := false }.step))
    ∧ (p.gated = false → exec (.pgateUngate k) s = .next s ∧ p.step.eff = min p.cap (min p.thermStep p.limitStep))
    ∧ (∀ v, (p.state ≠ 2 ∨ fieldOf v 24 8 &&& p.dies ≠ fieldOf v 24 8 ∨ (fieldOf v 8 5 ≠ p.ptpool ∧ s.holdsEnclave k = true)) →
      exec (.prcfgWrite k v) s = .next (s.putPart k { p with cfgerr := true }))
    ∧ ∀ v, p.state = 2 → fieldOf v 24 8 &&& p.dies = fieldOf v 24 8 → (fieldOf v 8 5 = p.ptpool ∨ s.holdsEnclave k = false) →
      ∃ u, exec (.prcfgWrite k v) s = .next u ∧ u.store.mem = s.store.mem
        ∧ u.part k = { p with tupdies := fieldOf v 24 8, tupsz := fieldOf v 16 2, ptpool := fieldOf v 8 5, tolen := bitOf v 0 } := by
  subst hp
  exact ⟨exec_thermalStep_falls hdies, exec_thermalStep_rises hdies, exec_thermalStep_cool hdies, exec_pclkCapWrite hdies,
    exec_pgateGate_refused hdies, exec_pgateGate hdies, exec_pgateUngate, fun h => ⟨exec_pgateUngate_not h, step_eff h⟩,
    fun _ => exec_prcfgWrite_refused hdies, fun _ => prcfgWrite_takes hdies⟩

section Clauses

variable (s : State) (t pair row : Nat)

theorem lendreq_same_clause (v cur : Nat) (w : State)
    (hcur : (Tbl.get? (s.hbm t).shaking pair).getD (pairBits (s.hbm t).lendstat pair) = cur)
    (hw : w = s.putHbm t { s.hbm t with lendreq := pairPut (s.hbm t).lendreq pair v }) :
    (v = cur ∧ v < 3 ∨ cur = 0 ∧ v = 3 → exec (.lendreqWrite t pair v) s = .next w)
    ∧ ((v = 0 ∨ v = 3) → cur ≠ 0 → exec (.lendreqWrite t pair v) s = .next (w.lendShake t pair 0)) := by
  subst hw hcur
  exact ⟨exec_lendreqWrite_same rfl, exec_lendreqWrite_back⟩

theorem lendreq_lend_clause (v cur : Nat) (hcur : (Tbl.get? (s.hbm t).shaking pair).getD (pairBits (s.hbm t).lendstat pair) = cur)
    (hv : v = 1 ∨ v = 2) (hne : cur ≠ v) :
    (s.lendRefusal t pair v = 0 → exec (.lendreqWrite t pair v) s
      = .next ((s.putHbm t { s.hbm t with lendreq := pairPut (s.hbm t).lendreq pair v }).drawn.lendShake t pair v))
    ∧ (s.lendRefusal t pair v ≠ 0 → exec (.lendreqWrite t pair v) s
      = .next (((s.putHbm t { s.hbm t with lendreq := pairPut (s.hbm t).lendreq pair v }).drawn.putHbm t { s.hbm t with
        lendreq := pairPut (s.hbm t).lendreq pair v, lenderr := 256 * pair + s.lendRefusal t pair v }).lendAgain t pair))
    ∧ (s.channelBusy t (lenderOf pair v) = true → s.lendRefusal t pair v = 1)
    ∧ (s.channelBusy t (lenderOf pair v) = false → 380 ≤ s.stackTemp t → s.lendRefusal t pair v ≠ 0) := by
  subst hcur
  have hexec := exec_lendreqWrite_lend hv hne
  refine ⟨fun hgood => ?_, fun hbad => ?_, lendRefusal_busy, lendRefusal_hot⟩
  · rw [hexec, if_pos hgood]
    rfl
  · rw [hexec, if_neg hbad]
    rfl

end Clauses

/-- Settles O55: power, partitions, stacks, errors and dumps, and firmware, each by what its events do. -/
theorem moduleEvents : Obligations.ModuleEvents := by
  unfold Obligations.ModuleEvents
  refine ⟨fun s => ?_, partition_clause, ?_, fun s die kind v owners => ?_, fun s q i => ?_⟩
  · obtain ⟨hdone, hsupply, hboot⟩ := power_clause s
    exact ⟨hdone, hsupply, hboot, modulePowerOff_keeps, thermalTrip_trips, exec_thermalTrip_not, limitStep_falls,
      exec_limitStep_within⟩
  · rintro s t pair row _ rfl
    exact ⟨lendReclaim_shakes, fun code hshake hcold => ⟨lendEnd_lends hshake hcold, fun ev => lendEnd_held hshake⟩,
      fun code hshake => lendEnd_hot hshake, exec_lendReclaim_not, exec_lendThermalReclaim, exec_lendThermalReclaim_not,
      lendreq_same_clause s t pair, lendreq_lend_clause s t pair,
      fun x v _ hv _ => ⟨pairBits_pairPut_same x pair v hv, fun o => pairBits_pairPut_other x pair v o hv⟩,
      fun n => exec_refresh_skips, exec_refresh, exec_throttleRelease_none, fun e ev r => throttleRelease_grants,
      exec_patrol_elsewhere, patrol_corrects, patrol_poisons⟩
  · exact ⟨wordOwners_other s owners, mem_wordOwners s owners, uncorrectableControlError_refuses,
      uncorrectableControlError_halts, exec_dmpcmdStart_busy, fun r => exec_dmpcmdStart_refused, fun e => dmpcmdStart_starts,
      fun eid e hbusy => endDump_result hbusy, fun eid hbusy => endDump_none hbusy⟩
  · exact ⟨exec_firmwareStaging_refused, firmwareStaging_stages, exec_firmwareActivation_none, fun d n ok h hlow hhigh =>
      ⟨exec_firmwareActivation_refused h, firmwareActivation_runs h hlow hhigh⟩⟩

end Sys2Proof.Machine
